-- ==== Sys2Proof/Word.lean ====
section
/-! DEFINITION. The word and byte types of the HZ-9248 (R12: little-endian, bit 0 least significant) and their plainest
arithmetic: saturation to signed 32 bits, counters that hold at a limit, wrapping. -/

namespace Sys2Proof

/-- A 32-bit word: a register, a word point, a marker. -/
abbrev Word := BitVec 32

/-- One byte. -/
abbrev Byte := BitVec 8

/-- An exact integer held to the signed 32-bit range (R92, R170). -/
def sat32 (x : Int) : Int := max (-2147483648) (min x 2147483647)

/-- The word of an integer, modulo 2^32. -/
def wordOf (x : Int) : Word := BitVec.ofInt 32 x

/-- The signed value of the low 32 bits of an integer. -/
def wrap32 (x : Int) : Int := (BitVec.ofInt 32 x).toInt

/-- `n + 1`, holding at `top`: the counters of the register map that hold at a limit. -/
def holdInc (top n : Nat) : Nat := if n < top then n + 1 else top

/-- `n + k`, holding at `top`. -/
def holdAdd (top n k : Nat) : Nat := min top (n + k)

/-- One bit of a word as a number 0 or 1. -/
def b2n (b : Bool) : Nat := if b then 1 else 0

/-- `x ÷ d` rounded to the nearest integer, halves upwards (R170), for a positive `d`. -/
def roundDiv (x : Int) (d : Nat) : Int := Int.fdiv (2 * x + d) (2 * d)

/-- `x × 2^-sh` rounded to the nearest integer, halves upwards (R170). -/
def roundShift (x : Int) (sh : Nat) : Int := roundDiv x (2 ^ sh)

end Sys2Proof
end

