-- ==== Sys2Proof/Syntax.lean ====
section
/-! DEFINITION. The commands of the HZ-9248 block: one constructor of `Instr` for each row of spec/opcode_table.json, and
the operands they carry. What the outside world supplies (a value written, bytes read from host memory, a measurement, a
received frame) is an operand; what the module sends is in the state's `out`. -/

namespace Sys2Proof

/-! ## Operand types -/

/-- The PCI Express function a host access comes through (R32, R391): 0 non-secure, 1 secure. -/
inductive Func where
  | f0 | f1
deriving DecidableEq, Repr

/-- How the module's data of a transfer to host memory cross to the mover (R377, R378): whole, with nothing more to pop once
`popped` words have gone out, with a word whose parity fails, or with a word that its producer poisoned. -/
inductive Xfer where
  | whole
  | empty (popped : Nat)
  | parityBad
  | poisoned
deriving DecidableEq, Repr

/-- How a word arrives at the consumer end of a bobbin (R374, R377). -/
inductive Mark where
  | good          -- parity good, not poisoned
  | parityBad     -- parity fails on reading
  | poisoned      -- poison tag set by the producer
deriving DecidableEq, Repr

/-- Bytes that the Shuttle mover reads from host memory for a descriptor's ADDR (R46): how they reach HK0, sound, as a poisoned TLP or with
a word whose parity fails (R59, R377); and how the frames of a CAN_TX go on to the controller. -/
structure HostData where
  bytes  : List Byte
  mark   : Mark
  onward : Mark := .good
deriving DecidableEq, Repr

/-- A descriptor as it reaches HK0 from host memory (R46, R377). -/
structure Fetched where
  bytes : List Byte
  mark  : Mark := .good
deriving DecidableEq, Repr

/-- The word of a computation at its output instant: how it arrives at the sink's side, and whether the read pointer that the
producer sees is still the one it last saw (`full`; R374, R376, R377, R378). -/
structure SinkWord where
  mark : Mark
  full : Bool
deriving DecidableEq, Repr

/-- What a threshold update finds (R210, R225), in units of 10 mV: the filtered V_bank, and the lowest since the last update. -/
structure BankSupply where
  filtered : Nat
  lowest   : Nat
deriving DecidableEq, Repr

/-- What the ECC of a bank finds in the words read (R363); or, of words on their way to the mover, that their parity fails (R377) or that
only the first `popped` of them come in time for a transfer that it sends at link rate (R378). -/
inductive WordErr where
  | clean | corrected | uncorrectable | parity
  | late (popped : Nat)
deriving DecidableEq, Repr

/-- Bit operand spaces of the Loom engine (R75). -/
inductive BitSpace where
  | wb | pb | mb | tq | cq | sb
deriving DecidableEq, Repr

/-- Word operand spaces of the Loom engine (R75). -/
inductive WordSpace where
  | ww | pw | mw | te | cv | sw | kw | imm
deriving DecidableEq, Repr

/-- A bit operand: space and index (R75, R80). -/
structure BitOp where
  space : BitSpace
  index : BitVec 16
deriving DecidableEq, Repr

/-- A word operand: space and index (R75, R80). -/
structure WordOp where
  space : WordSpace
  index : BitVec 16
deriving DecidableEq, Repr

/-- The conditions of CMP (R92). -/
inductive Cond where
  | eq | ne | lt | le | gt | ge | ltu | geu
deriving DecidableEq, Repr

/-- The Loom instructions (R84 to R96), as the engine's decoder reads them from a 32-bit word (R80). -/
inductive LInstr where
  | nop | pick (no : BitVec 16) | fin
  | ld (o : BitOp) | ldn (o : BitOp) | and (o : BitOp) | andn (o : BitOp) | or (o : BitOp) | orn (o : BitOp)
  | xor (o : BitOp) | xorn (o : BitOp) | not | set1 | set0
  | andp | orp | popb | bpsh | brd | bpop
  | st (o : BitOp) | stn (o : BitOp) | setb (o : BitOp) | rstb (o : BitOp)
  | pedge (i : BitVec 13) | nedge (i : BitVec 13)
  | ton (i : BitVec 13) | tof (i : BitVec 13) | tp (i : BitVec 13) | trst (i : BitVec 13)
  | ctu (i : BitVec 13) | ctd (i : BitVec 13) | crst (i : BitVec 13) | cld (i : BitVec 13)
  | ldw (o : WordOp) | ldi (v : BitVec 16) | ldih (v : BitVec 16) | stw (o : WordOp) | stwc (o : WordOp)
  | add (o : WordOp) | sub (o : WordOp) | mul (o : WordOp) | div (o : WordOp) | mod (o : WordOp)
  | andw (o : WordOp) | orw (o : WordOp) | xorw (o : WordOp)
  | shl (n : BitVec 5) | shr (n : BitVec 5) | asr (n : BitVec 5)
  | cmp (c : Cond) (o : WordOp) | min (o : WordOp) | max (o : WordOp)
  | getb (n : BitVec 5) | putb (n : BitVec 5)
  | mcs | mce
  | jmp (t : BitVec 17) | jc (t : BitVec 17) | jcn (t : BitVec 17)
  | call (t : BitVec 17) | callc (t : BitVec 17) | ret
  | evt (sev : BitVec 3) (num : BitVec 8) | cantx (tpl : BitVec 8)
deriving DecidableEq, Repr

/-- A CAN frame on the bus or in a queue (R97, R252, R261). -/
structure CanFrame where
  ide   : Bool
  fdf   : Bool
  brs   : Bool
  esi   : Bool
  rtr   : Bool
  ident : BitVec 29
  data  : List Byte
deriving DecidableEq, Repr

/-- A CAN frame as the bus brings it: its DLC, and the CAN cycles of 12.5 ns from the hard synchronisation of its start of frame to its end
(R260, R272, R296). -/
structure CanIn where
  frame  : CanFrame
  dlc    : Nat
  cycles : Nat
deriving DecidableEq, Repr

/-- How a CAN transmission attempt ends (R267): sent, lost in arbitration, or in error with the last error code of
CAN_ERRn (R278). `dominant` says that a dominant bit was seen in the passive error flag (R270); `arb` that a stuff error fell in the
arbitration field on a stuff bit sent recessive and seen dominant (R269, ISO 11898-1); `tdcv` is the loop delay measured at the falling
edge between FDF and res, none where the attempt ended before it (R256); `more` counts the further increments of TEC by 8: a bit error in
the error or overload flag, and every 8 dominant bits behind it (R269). -/
inductive CanEnd where
  | sent (tdcv : Nat)
  | lost
  | error (lec : Fin 7) (dominant arb : Bool) (tdcv : Option Nat) (more : Fin 33)
deriving DecidableEq, Repr

/-- PTP message types (R284). -/
inductive PtpType where
  | sync | followUp | delayReq | delayResp | announce | signaling | management
  | pdelayReq | pdelayResp | pdelayRespFollowUp
deriving DecidableEq, Repr

/-- Transport of a PTP message (R286). -/
inductive PtpTransport where
  | l2 | udp4 | udp6
deriving DecidableEq, Repr

/-- The fields of a PTP message that the switch and the time unit use (R284, R285). -/
structure PtpMsg where
  kind       : PtpType
  transport  : PtpTransport
  domain     : Nat
  source     : BitVec 80      -- sourcePortIdentity
  seqId      : BitVec 16
  twoStep    : Bool
  correction : Int            -- correctionField, units of 2^-16 ns
  udpSum     : Word           -- UDP checksum, 0 for none
  dst        : Word           -- IPv4 destination over UDP/IPv4
deriving DecidableEq, Repr

/-- How a PTP message reaches the internal port (R282): its transport, whether it was sent to a multicast address, and over UDP/IPv4 the
destination. -/
structure PtpVia where
  transport : PtpTransport
  multicast : Bool
  dst       : Word
deriving DecidableEq, Repr

/-- What an Ethernet frame carries. -/
inductive EthContent where
  | ptp (m : PtpMsg)
  | arpRequest (target : Word)
  | udp (dst : Word) (port : Nat)
  | other
deriving DecidableEq, Repr

/-- An Ethernet frame at an external port (R280, R281), its length in bytes, its 802.1Q priority (0 without a tag); `age` is the time in ns
since the external PHY saw its start-of-frame delimiter (R284, R290). -/
structure EthFrame where
  len          : Nat
  badFcs       : Bool
  src          : BitVec 48
  dst          : BitVec 48
  multicast    : Bool
  prio         : Nat
  content      : EthContent
  age          : Nat
deriving DecidableEq, Repr

/-- The dataset of an Announce message, compared as IEEE 1588-2019 lays down (R291). -/
structure Announce where
  via          : PtpVia
  domain       : Nat
  source       : BitVec 80
  gmId         : BitVec 64
  priority1    : Nat
  clockClass   : Nat
  accuracy     : Nat
  variance     : Nat
  priority2    : Nat
  stepsRemoved : Nat
  utcOffset    : Int
  utcValid     : Bool
deriving DecidableEq, Repr

/-- A Sync whose t1 is known (from itself or from its Follow_Up), R291, R293. t1 in ns; `corr` is the correctionField of the Follow_Up in
units of 2^-16 ns, 0 without one; `interval` is the Sync interval in units of 2^-7 s. t2 and the correctionField of the Sync itself are
those that the module took when the Sync came in. -/
structure SyncMsg where
  via      : PtpVia
  domain   : Nat
  source   : BitVec 80
  seqId    : BitVec 16
  t1       : Int
  corr     : Int
  interval : Nat
deriving DecidableEq, Repr

/-- The header of a Delay_Resp (R291, R293): `mine` says that its requestingPortIdentity is the module's. -/
structure DelayRespHdr where
  via         : PtpVia
  domain      : Nat
  source      : BitVec 80
  seqId       : BitVec 16
  mine        : Bool
deriving DecidableEq, Repr

/-- Measurements of one brake channel at a BMP tick (R301, R303). -/
structure BrkMeas where
  iHs     : Nat       -- HS shunt, mA
  iLs     : Nat       -- LS shunt, mA
  vPlus   : Int       -- coil+, mV against brake 0 V
  vMinus  : Int       -- coil-, mV
  contact : Bool      -- feedback contact closed (after its 2 ms debounce)
deriving DecidableEq, Repr

/-- What the BMP reads at one tick (R303). -/
structure BmpInputs where
  ch   : Vector BrkMeas 4
  vsup : Nat          -- brake supply, mV
deriving DecidableEq, Repr

/-- The fault conditions of R315 that BRAKE_FAULT reports for one channel, and the two common ones; `limit` says that the hardware limit of the
coil current acts. -/
inductive BrkCause where
  | overcur (c : Fin 4) (limit : Bool) | nocur (c : Fin 4) | fbRelLost (c : Fin 4) | fbAppLost (c : Fin 4)
  | node (c : Fin 4) | supply | readback (c : Fin 4) | bmp
deriving DecidableEq, Repr

/-- Roles as the heartbeats carry them (R339). -/
inductive HbRole where
  | alone | syncing | active | standby | starting
deriving DecidableEq, Repr

/-- A received HEARTBEAT block (R339). `crcOk` is the check of its CRC-8. -/
structure Heartbeat where
  lane     : Fin 2      -- the lane it arrives on
  laneBit  : Fin 2      -- the LANE bit it carries
  role     : HbRole
  healthy  : Bool
  palive   : Bool
  detached : Bool
  slot     : Fin 2
  hbseq    : BitVec 16
  syncph   : Fin 6
  crcOk    : Bool
deriving DecidableEq, Repr

/-- A received BRAKE block (R340): FCAUSE and STATE of the four channels, and HOLD. -/
structure BrakeBlock where
  lane   : Fin 2
  fcause : Vector Nat 4
  state  : Vector (Fin 8) 4
  hold   : Vector Bool 4
  crcOk  : Bool
deriving DecidableEq, Repr

/-- A received COMMAND block (R341). -/
structure MirCmd where
  lane  : Fin 2
  arg   : Word
  seq   : Byte
  crcOk : Bool
deriving DecidableEq, Repr

/-- How a Mirror frame arrives (R342, R345): its FSEQ, whether a copy with a good CRC-32 arrived, and whether it
finds the receive bobbin full (R378); whether the copy on lane 0 or on lane 1 failed its CRC-32 (R338, R362). -/
structure FrameHdr where
  fseq : BitVec 16
  good : Bool
  full : Bool := false
  bad0 : Bool := false
  bad1 : Bool := false
deriving DecidableEq, Repr

/-- A LATCH frame body (R348). -/
structure LatchFrame where
  engine : Fin 8
  forced : Bool
  first  : Bool
  freeze : Bool
  ts     : Word
  scan   : BitVec 64
  wcrc   : BitVec 64
  f      : Word
  named  : List Word
deriving DecidableEq, Repr

/-- A SAMPLE frame body (R350). -/
structure SampleFrame where
  engine : Fin 4
  slot   : Fin 64
  stale  : BitVec 5
  pcnt   : Word
  values : Vector Word 5
deriving DecidableEq, Repr

/-- One entry of a SIGNATURE frame (R343). -/
structure SigEntry where
  isTask : Bool
  engine : Fin 8
  num    : BitVec 64
  crc    : BitVec 64
deriving DecidableEq, Repr

/-- A FORWARD frame (R71, R343): a mirrored descriptor with its data, its sequence number, the scan number or period count at
which both modules apply it, and the world of its ring. -/
structure ForwardFrame where
  fwdseq : Word
  count  : Word
  desc   : List Byte
  data   : List Byte
  secure : Bool
deriving DecidableEq, Repr

/-- A FWD_ACK frame (R343): the descriptor staged and its result. -/
structure FwdAckFrame where
  fwdseq : Word
  status : Nat
  result : Word
deriving DecidableEq, Repr

/-- The swap messages of R149 and R343. -/
inductive SwapMsg where
  | prepared
  | prepareFailed (cause : Nat) (notPresent : Bool)
  | freezeAt (f : Word)
  | carriedCrc (c : BitVec 64) (scan : BitVec 64)
deriving DecidableEq, Repr

/-- A service port request (R403), without its OP: the command's constructor is the OP. -/
structure SvcReq where
  byte1   : Byte
  seq     : BitVec 16
  arg     : Word
  arg2    : Word
  len     : Nat
  payload : List Byte
deriving DecidableEq, Repr

/-- A register's place (R32, R41, R464): an offset in BAR0, in a ring pair page of BAR2, in BAR4, or in the function's configuration
space. -/
inductive RegAddr where
  | bar0 (off : BitVec 16)
  | bar4 (off : BitVec 12)
  | config (off : BitVec 12)
  | ring (rp : Fin 64) (off : BitVec 12)
deriving DecidableEq, Repr

/-- The form of a BAR0 read (R465). -/
inductive ReadForm where
  | one | two | other
deriving DecidableEq, Repr

/-- Bank supply conditions (R211). -/
inductive SupCond where
  | warn | low | uvOff | high | nosup
deriving DecidableEq, Repr

/-- Readback flags (R213). -/
inductive RbFlag where
  | rbLow | extDrive
deriving DecidableEq, Repr

/-- NE 43 flags (R232). -/
inductive Ne43 where
  | under | over | failLo | failHi
deriving DecidableEq, Repr

/-- Transmitter flags (R236). -/
inductive TxFlag where
  | compliance | openLoop | margLow
deriving DecidableEq, Repr

/-- What the A and B inputs of an encoder port show for a number of field I/O cycles (R242). -/
structure EncLine where
  a      : Bool
  b      : Bool
  cycles : Nat
deriving DecidableEq, Repr

/-- A value returned to a Prism engine (R165, R169): the captured current in µA; `ageNs` is the time from the SSI latch instant to the command instant (R245); `held` says that the command
found all four capture holds of the channel occupied (R229); `full` that the producer sees FULL at its bobbin (R376, R378);
`pcnt` is the period whose sample command it answers (R165); `lines` is what an incremental port's inputs have shown up to the sample
instant since its count was last updated, `winEdges` and `winNs` the edges of VEL_WIN before it and their time (R244, R246). -/
structure Capture where
  value : Int
  ageNs : Nat
  held  : Bool
  mark  : Mark
  full  : Bool := false
  pcnt  : Word := 0
  lines : List EncLine := []
  winEdges : Int := 0
  winNs : Nat := 0
deriving DecidableEq, Repr

/-- A finished SSI frame (R245): the position read (before Gray decoding), and what can make it bad. `dtNs` is the time
between its latch and that of the last valid frame. -/
structure SsiFrame where
  raw       : Word
  startBit  : Bool
  errorBit  : Bool
  highAfter : Bool
  dtNs      : Nat
deriving DecidableEq, Repr

/-- Which current-channel measurements a periodic conversion gives (R229, R236): µA and mV. -/
structure Conversion where
  pri : Nat
  sec : Nat
  vt  : Nat
deriving DecidableEq, Repr

/-- Holders of a recorder freeze (R418): a recorder cursor's channel index, or LOU_FRZ. -/
inductive Holder where
  | cursor (idx : Nat)
  | louFrz
deriving DecidableEq, Repr

/-- A bank access (R363 to R366, R372): the master's code (R364; 0x11 point hub), the port, a service access or not, the
line's byte offset in the bank, and the bytes of a write or the number of bytes of a read. `secure` is the world of the
ring whose descriptor the Shuttle mover or HK0 serves (R391); `rivals` are the other requests that wait at the port in this cycle, each a
master and whether its access is a service access (R373); `collide` says that port A writes the same
line in the same cycle (R372); `err` is what ECC or parity finds in the words read. -/
structure BankReq where
  master  : Fin 18
  bank    : Fin 24
  portB   : Bool
  service : Bool
  offset  : Nat
  write   : Bool
  bytes   : List Byte
  count   : Nat
  secure  : Bool
  rivals  : List (Fin 18 × Bool)
  collide : Bool
  err     : WordErr := .clean
deriving DecidableEq, Repr

/-- The result of a self-test of one unit (R445). -/
inductive TestResult where
  | pass | fail | aborted
deriving DecidableEq, Repr

/-- Why a lane goes down (R337). -/
inductive LaneCause where
  | lockLost | headerErrors | noHeartbeat
deriving DecidableEq, Repr

/-! ## The commands -/

/-- The commands of the block: one constructor for each row of spec/opcode_table.json; those with operands stand first, so
that compiled Lean can build nearly all of them. -/
inductive Instr where
  -- Shuttle (02)
  | functionLevelReset (fn : Func)
  | submissionDoorbell (fn : Func) (rp : Fin 64) (v : Word)
  | completionDoorbell (fn : Func) (rp : Fin 64) (v : Word)
  | shuRpArm (fn : Func) (rp : Fin 64) (v : Word)
  | shuRpCtrlDisable (fn : Func) (rp : Fin 64)
  | descriptorFetch (raw : List Fetched)
  | ringHostMemoryError (rp : Fin 64) (write : Bool)
  | completionWrite (rp : Fin 64)
  | irqModerationExpiry (rp : Fin 64)
  | sessionOpen (fn : Func)
  | sessionClose (fn : Func)
  | sessionResponse (fn : Func) (v : Word)
  -- descriptors
  | create (d : HostData)
  | teardownEnd (idx : Fin 8192)
  | zorosStage (d : HostData)
  | loopCfg (d : HostData)
  | loopTable (d : HostData)
  | fieldCfg (d : HostData)
  | canCfg (d : HostData)
  | canTx (d : HostData)
  | canFilter (d : HostData)
  | pointRead
  | recRead
  | streamBufferTimeout (idx : Fin 8192)
  | brkCfg (d : HostData)
  | panelFrame (d : HostData)
  | mirrorAckTimeout (fwdseq : Word)
  -- points and scans (01, 04, 05)
  | pointUpdate (idx : Fin 16384) (v : Word) (mark : Mark)
  | weftLatch (n : Fin 8)
  | freshWeftArrival (n : Fin 8)
  | publish (n : Fin 8)
  | budgetExhausted (n : Fin 8)
  | stoppedTimerEvaluation (n : Fin 8)
  | engineFault (n : Fin 8) (cause : Fin 5)
  -- Loom instructions (03)
  | loomNop (n : Fin 8)
  | loomPick (n : Fin 8) (no : BitVec 16)
  | loomEnd (n : Fin 8)
  | loomLd (n : Fin 8) (o : BitOp)
  | loomLdn (n : Fin 8) (o : BitOp)
  | loomAnd (n : Fin 8) (o : BitOp)
  | loomAndn (n : Fin 8) (o : BitOp)
  | loomOr (n : Fin 8) (o : BitOp)
  | loomOrn (n : Fin 8) (o : BitOp)
  | loomXor (n : Fin 8) (o : BitOp)
  | loomXorn (n : Fin 8) (o : BitOp)
  | loomNot (n : Fin 8)
  | loomSet1 (n : Fin 8)
  | loomSet0 (n : Fin 8)
  | loomAndp (n : Fin 8)
  | loomOrp (n : Fin 8)
  | loomPopb (n : Fin 8)
  | loomBpsh (n : Fin 8)
  | loomBrd (n : Fin 8)
  | loomBpop (n : Fin 8)
  | loomSt (n : Fin 8) (o : BitOp)
  | loomStn (n : Fin 8) (o : BitOp)
  | loomSetb (n : Fin 8) (o : BitOp)
  | loomRstb (n : Fin 8) (o : BitOp)
  | loomPedge (n : Fin 8) (i : BitVec 13)
  | loomNedge (n : Fin 8) (i : BitVec 13)
  | loomTon (n : Fin 8) (i : BitVec 13)
  | loomTof (n : Fin 8) (i : BitVec 13)
  | loomTp (n : Fin 8) (i : BitVec 13)
  | loomTrst (n : Fin 8) (i : BitVec 13)
  | loomCtu (n : Fin 8) (i : BitVec 13)
  | loomCtd (n : Fin 8) (i : BitVec 13)
  | loomCrst (n : Fin 8) (i : BitVec 13)
  | loomCld (n : Fin 8) (i : BitVec 13)
  | loomLdw (n : Fin 8) (o : WordOp)
  | loomLdi (n : Fin 8) (v : BitVec 16)
  | loomLdih (n : Fin 8) (v : BitVec 16)
  | loomStw (n : Fin 8) (o : WordOp)
  | loomStwc (n : Fin 8) (o : WordOp)
  | loomAdd (n : Fin 8) (o : WordOp)
  | loomSub (n : Fin 8) (o : WordOp)
  | loomMul (n : Fin 8) (o : WordOp)
  | loomDiv (n : Fin 8) (o : WordOp)
  | loomMod (n : Fin 8) (o : WordOp)
  | loomAndw (n : Fin 8) (o : WordOp)
  | loomOrw (n : Fin 8) (o : WordOp)
  | loomXorw (n : Fin 8) (o : WordOp)
  | loomShl (n : Fin 8) (k : BitVec 5)
  | loomShr (n : Fin 8) (k : BitVec 5)
  | loomAsr (n : Fin 8) (k : BitVec 5)
  | loomCmp (n : Fin 8) (c : Cond) (o : WordOp)
  | loomMin (n : Fin 8) (o : WordOp)
  | loomMax (n : Fin 8) (o : WordOp)
  | loomGetb (n : Fin 8) (k : BitVec 5)
  | loomPutb (n : Fin 8) (k : BitVec 5)
  | loomMcs (n : Fin 8)
  | loomMce (n : Fin 8)
  | loomJmp (n : Fin 8) (t : BitVec 17)
  | loomJc (n : Fin 8) (t : BitVec 17)
  | loomJcn (n : Fin 8) (t : BitVec 17)
  | loomCall (n : Fin 8) (t : BitVec 17)
  | loomCallc (n : Fin 8) (t : BitVec 17)
  | loomRet (n : Fin 8)
  | loomEvt (n : Fin 8) (sev : BitVec 3) (num : BitVec 8)
  | loomCantx (n : Fin 8) (tpl : BitVec 8)
  -- Prism (06, 07)
  | prismPeriodStart (n : Fin 4)
  | sampleInstant (l : Fin 256)
  | sourceReturn (l : Fin 256) (j : Fin 5) (c : Capture)
  | computeWindow (l : Fin 256)
  | outputInstant (l : Fin 256) (w : SinkWord)
  | prismEngineFault (n : Fin 4) (cause : Fin 5)
  | peSselWrite (fn : Func) (v : Word)
  -- digital (08)
  | inputChange (c : Fin 32) (state : Bool)
  | debounceEnd (c : Fin 32)
  | bankShed (b : Fin 4) (ma : Nat)
  | thresholdUpdate (b : Fin 4) (v : BankSupply)
  | supplyConditionEntered (b : Fin 4) (k : SupCond)
  | supplyConditionReleased (b : Fin 4) (k : SupCond)
  | rbLow (c : Fin 32)
  | extDrive (c : Fin 32)
  | readbackFlagClear (c : Fin 32) (k : RbFlag)
  | wireBreak (c : Fin 32)
  | wireBreakClear (c : Fin 32)
  | thermalShutdown (c : Fin 32)
  | thermalRetry (c : Fin 32)
  | retryCountReset (c : Fin 32)
  | dioLatWrite (fn : Func) (b : Fin 4) (v : Word)
  | digitalDisagree (c : Fin 32)
  -- current loops (09)
  | periodicConversion (c : Fin 16) (m : Conversion)
  | inPtDelivery (c : Fin 16) (mark : Mark)
  | mismatch (c : Fin 16) (set : Bool)
  | ne43FlagChange (c : Fin 16) (k : Ne43) (set : Bool)
  | short (c : Fin 16) (set : Bool)
  | transmitterFlagChange (c : Fin 16) (k : TxFlag) (set : Bool)
  | isoFail (b : Fin 4)
  | currentDisagree (c : Fin 16)
  | share (c : Fin 16)
  | cmodeChangeEnd (c : Fin 16)
  | fieldSideWatchdog (digital : Bool) (b : Fin 4)
  -- encoders (09)
  | encoderLoss (p : Fin 4)
  | encoderLossEnd (p : Fin 4)
  | qerr (p : Fin 4)
  | indexMark (p : Fin 4) (lines : List EncLine)
  | velocityTimeout (p : Fin 4)
  | ssiFrameStart (p : Fin 4)
  | ssiFrameEnd (p : Fin 4) (f : SsiFrame)
  | encoderDelivery (p : Fin 4) (lines : List EncLine) (winEdges : Int) (winNs : Nat)
  | encQerrClear (fn : Func) (p : Fin 4) (v : Word)
  -- CAN (10)
  | canIntegration (c : Fin 8)
  | canFrameReceived (c : Fin 8) (f : CanIn)
  | filterTimeout (c : Fin 8) (e : Fin 256)
  | canAttemptStart (c : Fin 8)
  | canAttemptEnd (c : Fin 8) (r : CanEnd)
  | busOffRecoveryEnd (c : Fin 8)
  | lonely (c : Fin 8)
  | canSleepReached (c : Fin 8)
  | busWake (c : Fin 8) (f : Option CanIn)
  | canWakeEnd (c : Fin 8)
  | canStateTimeout (c : Fin 8)
  | canTransceiverWatchdog (c : Fin 8)
  -- Ethernet and time (11)
  | ethFrameIngress (p : Fin 2) (f : EthFrame)
  | linkUp (p : Fin 2) (gig : Bool)
  | linkDown (p : Fin 2)
  | addressAgeing (a : BitVec 48)
  | twoStepEntryExpiry (p : Fin 2) (source : BitVec 80) (domain : Nat) (seqId : BitVec 16)
  | announceReceived (p : Fin 2) (a : Announce)
  | syncReceived (p : Fin 2) (m : SyncMsg)
  | delayRespReceived (p : Fin 2) (h : DelayRespHdr) (t4 : Int) (corr : Int) (logInterval : Int)
  | arpRequest (p : Fin 2) (target : Word) (sender : BitVec 48)
  | timSnap (fn : Func) (v : Word)
  | timAdj (fn : Func) (v : Word)
  -- brakes (12)
  | bmpTick (m : BmpInputs)
  | testSlot (c : Fin 4)
  | offPulseTimeout (c : Fin 4)
  | onPulseTimeout (c : Fin 4)
  | fwCheckTimeout (c : Fin 4)
  | tPickExpiry (c : Fin 4)
  | fbRelTimeout (c : Fin 4)
  | fbAppTimeout (c : Fin 4)
  | holdExpiry (c : Fin 4)
  | engageFail (c : Fin 4)
  | reqTmoExpiry (c : Fin 4)
  | brakeFault (k : BrkCause)
  | brakeSupplyWarning (mv : Nat)
  | brakeTestPositionRead (c : Fin 4)
  | brakeTestEnd (c : Fin 4)
  | brkLogselWrite (fn : Func) (v : Word)
  -- Mirror (13)
  | heartbeat (h : Heartbeat)
  | brake (b : BrakeBlock)
  | laneUp (l : Fin 2)
  | laneDown (l : Fin 2) (k : LaneCause)
  | eyeOpeningLow (l : Fin 2) (h : Byte) (v : Byte)
  | handover (m : MirCmd)
  | request (m : MirCmd)
  | live (m : MirCmd)
  | aioLive (m : MirCmd)
  | diverge (m : MirCmd)
  | checkResult (m : MirCmd)
  | refuse (m : MirCmd)
  | outputsLive (gap100ns : Nat)
  | update (h : FrameHdr) (entries : List (BitVec 14 × Word))
  | latch (h : FrameHdr) (f : LatchFrame)
  | sample (h : FrameHdr) (f : SampleFrame)
  | signature (h : FrameHdr) (entries : List SigEntry)
  | forward (h : FrameHdr) (f : ForwardFrame)
  | fwdAck (h : FrameHdr) (f : FwdAckFrame)
  | swap (h : FrameHdr) (m : SwapMsg)
  | syncData (h : FrameHdr) (offset : Nat) (bytes : List Byte)
  | divergenceCheckEnd (pathFail : Bool)
  | syncPhaseEnd (ms : Nat)
  -- banks and crossings (14)
  | hedOwnWrite (fn : Func) (b : Fin 24) (v : Word)
  | handoverDrained (b : Fin 24)
  | handoverStuck (b : Fin 24)
  | bankAccess (r : BankReq)
  | toggleAcknowledge (g : Fin 25)
  -- security and the service port (15)
  | secLcreq (fn : Func) (v : Word)
  | secRselWrite (fn : Func) (v : Word)
  | info (r : SvcReq)
  | challenge (r : SvcReq)
  | respond (r : SvcReq)
  | presence (r : SvcReq)
  | close (r : SvcReq)
  | regRead (r : SvcReq)
  | regWrite (r : SvcReq)
  | servicePointRead (r : SvcReq)
  | serviceRecRead (r : SvcReq)
  | keyWrite (r : SvcReq)
  | lcConfirm (r : SvcReq)
  | lcAdvance (r : SvcReq)
  -- recorder (16)
  | raiseEvent (code : BitVec 16) (sev : Fin 8) (value : Word)
  | recordWrite (slot : Fin 4096)
  | freezeTimeout (h : Holder)
  | louCurWrite (fn : Func) (v : Word)
  | louFrzWrite (fn : Func) (v : Word)
  | recordErase (slot : Fin 4096)
  -- panel (17)
  | frameCommit (flips : List Nat)
  | ledgerWriteDone (delayUs : Nat)
  -- power and recovery (18, 20)
  | powerGood (feed0 : Nat) (feed1 : Nat) (slot : Fin 2)
  | feedLost (n : Fin 2) (v : Nat)
  | pwrReqFunctionReinit (fn : Func) (v : Word)
  | pwrReqWarmReset (fn : Func) (v : Word)
  | pwrReqShutdownOff (fn : Func) (v : Word)
  | pwrReqShutdownRestart (fn : Func) (v : Word)
  | unitTestDone (r : TestResult)
  | bstStart (fn : Func) (v : Word)
  | rollingBistBankDone (b : Fin 24) (r : TestResult)
  | pwrTselWrite (fn : Func) (v : Word)
  | hkWatchdog (second : Bool)
  | i2cRead (offset : Nat) (count : Nat)
  -- registers (19)
  | rcFieldRead (fn : Func) (a : RegAddr) (form : ReadForm)
  | registerWrite (fn : Func) (a : RegAddr) (v : Word) (full : Bool)
  -- rarer events with operands, of all families
  | bistBankReturn (b : Fin 24)
  | cdcEpoch (g : Fin 25) (words : Nat)
  | usbResetOrVbusLoss (vbusLost : Bool)
  | panelTemperatureRead (t : Int)
  | feedInterruption (v0 : Nat) (v1 : Nat)
  | pllLockLoss (d : Fin 12)
  | feedRestored (n : Option (Fin 2)) (v0 : Nat) (v1 : Nat)
  | domainSupplyLoss (d : Fin 12)
  | bankConverterRecovery (b : Fin 4)
  | fieldSideRefreshRecovery (digital : Bool) (b : Fin 4)
  | canReceiveError (c : Fin 8) (lec : Fin 7) (inc : Fin 9)
  | unknownServiceOp (op : Byte) (r : SvcReq)
  -- rows without operands, of all families
  | hostReadTimeout
  | sessionCheckEnd
  | sessionLockEnd
  | descriptorNop
  | destroy
  | handleQuery
  | zorosCheck
  | zorosCheckDone
  | zorosSwap
  | swapPrepared
  | prepareTimeout
  | freezeInstant
  | swapSwitch
  | taskCtrlStart
  | taskCtrlStop
  | taskCtrlSetMiniv
  | patchValue
  | forceSet
  | forceRelease
  | loopCtrlEnable
  | loopCtrlSoftStop
  | loopCtrlSelectA
  | loopCtrlSelectB
  | loopCtrlManual
  | loopCtrlAuto
  | canState
  | canCancel
  | streamPost
  | streamDrop
  | recFreeze
  | recFreezeRelease
  | recClear
  | brkReqEngage
  | brkReqRelease
  | brkReqBrakeTest
  | mirRoleSyncing
  | mirRoleActive
  | mirRoleStandby
  | retainSave
  | extDriveCheckStart
  | activeInTakeoverEnd
  | delayReqSend (t3 : Fin 1000)
  | holdover
  | holdoverExpiry
  | followerUpdate
  | bmpWatchdog
  | passwordLockEnd
  | roleDecision
  | heartbeatSend
  | aliveRefresh
  | aliveLineDrop
  | silentLoss
  | commandRepeat
  | switchoverScansCommitted
  | transmittersSettled
  | liveTimeout
  | signatureTimeout
  | syncTimeout
  | syncRestart
  | lcConfirmTimeout
  | serviceSessionIdleTimeout
  | servicePortLockEnd
  | presenceWindowEnd
  | raiseApply
  | fieldBStart
  | compensationField
  | startupImageLoad
  | powerFailWarning
  | meWatchdog
  | crystalFailure
  | carrierReset
  | powerCycle
  | vioAuxOutOfRange
  | vioAuxRestored
  | coreRegulatorFailure
  | dramUncorrectableError
  | fieldIoLogicFault
  | carrierResetRelease
  | partnerAliveLineHigh
  | vbusConnect
  | unknownOpcode
  | indicatorTestEnd
deriving DecidableEq, Repr

end Sys2Proof
end

