-- ==== Sys2Proof/WellFormed.lean ====
section
/-! DEFINITION. What a command's operands must satisfy to stand for something the hardware can meet. The machine answers for
every operand; these checks name the operands that no occurrence carries. -/

namespace Sys2Proof

/-- The payload lengths of a CAN frame (R97, R252): 0 to 8, and for an FD frame 12, 16, 20, 24, 32, 48 or 64. -/
def canLenOk (fd : Bool) (n : Nat) : Bool := n ≤ 8 || (fd && [12, 16, 20, 24, 32, 48, 64].contains n)

/-- A CAN frame of R252: BRS and ESI only in an FD frame, RTR only in a classic one, an 11-bit identifier without IDE. -/
def CanFrame.wf (f : CanFrame) : Bool :=
  canLenOk f.fdf f.data.length && (f.fdf || (!f.brs && !f.esi)) && !(f.fdf && f.rtr) && (f.ide || f.ident.toNat < 2048) &&
    !(f.rtr && f.data != [])

/-- A frame on the bus has the DLC of its payload (R252): of a classic frame 0 to 8 for as many bytes and 9 to 15 for 8, of an FD frame 9 to
15 for the longer payloads; a remote frame carries none of the bytes that its DLC names. -/
def CanIn.wf (f : CanIn) : Bool :=
  f.frame.wf && f.dlc < 16 &&
    (f.frame.rtr || f.frame.data.length =
      (if f.dlc ≤ 8 then f.dlc else if f.frame.fdf then ([12, 16, 20, 24, 32, 48, 64][f.dlc - 9]?).getD 0 else 8))

/-- A measured terminal or coil quantity lies within its converter's 16 bits. -/
def conversionWf (m : Conversion) : Bool := m.pri < 65536 && m.sec < 65536 && m.vt < 65536

/-- The well-formed commands: a descriptor fetch reads at most 8 descriptors of 32 bytes (R52); frames follow R252 and R280;
a service request carries at most 4,096 payload bytes (R403); an UPDATE frame has 1 to 32 entries and a SIGNATURE frame 1 to
10 (R343); a bank access moves 1 to 64 bytes within one line (R363); measurements fit their registers. -/
def Instr.wf : Instr → Bool
  | .descriptorFetch raw => raw.length ≤ 8 && raw.all (·.bytes.length == 32)
  | .canFrameReceived _ f => f.wf
  | .busWake _ (some f) => f.wf
  | .ethFrameIngress _ f => f.prio < 8
  | .update _ e => 1 ≤ e.length && e.length ≤ 32
  | .signature _ e => 1 ≤ e.length && e.length ≤ 10
  | .syncData _ _ b => b.length ≤ 256
  | .bankAccess r => r.offset % 64 + (if r.write then r.bytes.length else r.count) ≤ 64
  | .periodicConversion _ m => conversionWf m
  | .thresholdUpdate _ v => v.filtered < 65536 && v.lowest < 65536
  | .bankShed _ ma => ma < 65536
  | .powerGood f0 f1 _ => f0 < 65536 && f1 < 65536
  | .feedLost _ v => v < 65536
  | .brakeSupplyWarning mv => mv < 655360
  | .syncPhaseEnd ms => ms < 65536
  | .i2cRead o c => o + c ≤ 32
  | _ => true

end Sys2Proof
end

