-- ==== Sys2Proof/Decode.lean ====
section
/-! DEFINITION. The command that a word spells by the opcode table's bits. The table of this block gives no row any bits
(every row's "fields" are empty, and no row has fixed bits), so no word spells a command (assumption log 4). The block's
commands are register writes, bus events and field events, not encoded instructions. The 32-bit words of the Loom engines
are decoded in Machine/LoomCode.lean. -/

namespace Sys2Proof

/-- The command of the row whose bits are `w`: none, for no row of the table gives bits. -/
def decodeTableWord (_nbits _w : Nat) : Option Instr := none

end Sys2Proof
end

