-- ==== Sys2Proof/Config.lean ====
section
/-! DEFINITION. What the spec leaves open in a value: uninterpreted constants, each applied to a counter that the state
holds (`State.free`) or to the operands it depends on. Nothing can evaluate them. -/

namespace Sys2Proof

/-- The 128-bit random numbers that the module draws: session nonces (R36, R405) and password salts (R324), by the number
of the draw. -/
opaque Config.random128 : Nat → BitVec 128

/-- A word that the spec leaves open, by the number of the use: a RESULT that it does not state, the CRC of a free store, a
filtered reading whose discrete form it does not give (R236), a value of a sequence it does not lay down. -/
opaque Config.open32 : Nat → Word

/-- A byte that the spec leaves open, by the number of the use: where REC falls between 119 and 127 (R267), how many accesses of a bank's
old owner are outstanding (R367). -/
opaque Config.openByte : Nat → Byte

/-- The value of a velocity whose division the spec does not state (no time between edges, or a quotient beyond 32 bits,
R244), by the operands. -/
opaque Config.openQuot : Int → Int → Int

/-- Whether a velocity that is no integer is rounded up (R244 states no rounding), by the operands. -/
opaque Config.roundUp : Int → Int → Bool

/-- The firmware status page (R430), whose content the spec does not give: whether a pixel is dark, by the number of the use
and the pixel. -/
opaque Config.statusPixel : Nat → Nat → Bool

/-- Whether a ledger nibble whose write is interrupted is at its new value (R429), by the number of the use and the pixel. -/
opaque Config.ledgerTorn : Nat → Nat → Bool

/-- What a management I²C read beyond the 32 bytes of R483 gives, and what a transfer that underruns writes (R59), by the number of the use and the byte's offset. -/
opaque Config.i2cByte : Nat → Nat → Byte

/-- The depth of each bobbin, 2 to the power 2 to 9 (R374, assumption log 162): k − 2, by the bobbin's number (`Hed.bobs`). -/
opaque Config.bobbinLog2 : Nat → Fin 8

/-- The module address of a point in the point store, for which the spec gives none (R16, R393, assumption log 101). -/
opaque Config.pointAddr : Nat → Nat

/-- The module address of the DRAM staging area, for which the spec gives none (R66, R140, R394, assumption log 164). -/
opaque Config.stageAddr : Nat

/-- The module address of a recorder slot's record in MRAM (R23, R394, assumption log 164). -/
opaque Config.recAddr : Nat → Nat

/-- The offset in its bank of a loop's parameter set, set B with `true`, for which the spec gives none (R22, R394, assumption log 164). -/
opaque Config.loopSetOfs : Nat → Bool → BitVec 21

/-- The offset in its bank of a loop's table, the cogging table with `true` (R22, R394, assumption log 164). -/
opaque Config.loopTabOfs : Nat → Bool → BitVec 21

/-- The offset of a Warp point in the Warp area of its writer's bank, for which the spec gives none (R22, R109, assumption log 173). -/
opaque Config.warpOfs : Nat → Nat

end Sys2Proof
end

