-- ==== Sys2Proof/Machine/Data.lean ====
section
/-! DEFINITION. Plain-data helpers of the machine: sparse maps (sorted lists of a key and a value), little-endian bytes
(R12), bit fields of words, fixed-length vectors indexed by `Fin`. -/

namespace Sys2Proof.Machine

/-! ## Sparse maps -/

/-- A sparse map from numbers: a list of pairs with strictly rising keys. -/
abbrev SMap (α : Type) := List (Nat × α)

/-- The value listed at key `k`. -/
def mapGet {α : Type} : SMap α → Nat → Option α
  | [], _ => none
  | (j, v) :: r, k => if j = k then some v else if k < j then none else mapGet r k

/-- The value at key `k`, or `d` where none is listed. -/
def mapGetD {α : Type} (d : α) (m : SMap α) (k : Nat) : α := (mapGet m k).getD d

/-- List `v` at key `k`, in order. -/
def mapSet {α : Type} : SMap α → Nat → α → SMap α
  | [], k, v => [(k, v)]
  | (j, w) :: r, k, v => if k < j then (k, v) :: (j, w) :: r else if j = k then (k, v) :: r else (j, w) :: mapSet r k v

/-- Take key `k` out. -/
def mapDel {α : Type} : SMap α → Nat → SMap α
  | [], _ => []
  | (j, w) :: r, k => if j = k then r else if k < j then (j, w) :: r else (j, w) :: mapDel r k

/-- Write `v` at key `k` of a map in which an unlisted key stands for `d`: the canonical form lists no `d`. -/
def mapPut {α : Type} [DecidableEq α] (d : α) (m : SMap α) (k : Nat) (v : α) : SMap α :=
  if v = d then mapDel m k else mapSet m k v

/-- The form of a sparse map: keys strictly rising. -/
def mapSorted {α : Type} : SMap α → Bool
  | [] => true
  | [_] => true
  | (j, _) :: (k, w) :: r => decide (j < k) && mapSorted ((k, w) :: r)

/-! ## Little-endian bytes (R12) -/

/-- Byte `i` of a byte list; 0 past its end. -/
def byteAt (b : List Byte) (i : Nat) : Byte := (b[i]?).getD 0

/-- The number in the `n` bytes of `b` from offset `i`, little-endian. -/
def leAt (b : List Byte) (i : Nat) : Nat → Nat
  | 0 => 0
  | n + 1 => (byteAt b i).toNat + 256 * leAt b (i + 1) n

/-- The number in a list of bytes, little-endian. -/
def leNat : List Byte → Nat
  | [] => 0
  | b :: r => b.toNat + 256 * leNat r

/-- The `n` little-endian bytes of a number. -/
def leBytes : Nat → Nat → List Byte
  | 0, _ => []
  | n + 1, x => BitVec.ofNat 8 x :: leBytes n (x / 256)

/-- The signed 32-bit number at offset `i`. -/
def leInt32 (b : List Byte) (i : Nat) : Int := (BitVec.ofNat 32 (leAt b i 4)).toInt

/-- The signed 64-bit number at offset `i`. -/
def leInt64 (b : List Byte) (i : Nat) : Int := (BitVec.ofNat 64 (leAt b i 8)).toInt

/-- The `n` bytes of `b` from offset `i`. -/
def slice (b : List Byte) (i n : Nat) : List Byte := (b.drop i).take n

/-- Every one of the `n` bytes of `b` from offset `i` is 0. -/
def zeroAt (b : List Byte) (i n : Nat) : Bool := (slice b i n).all (· == 0)

/-- The two's complement bytes of an integer. -/
def leBytesInt (n : Nat) (x : Int) : List Byte := leBytes n (x % (256 ^ n : Nat)).toNat

/-! ## Bit fields of numbers -/

/-- Bits [`lo` + `w` − 1 : `lo`] of a number. -/
def bits (x lo w : Nat) : Nat := (x >>> lo) % 2 ^ w

/-- Bit `i` of a number. -/
def bitOf (x i : Nat) : Bool := x.testBit i

/-- A field of width `w` holding `v`, at bit `lo`. -/
def fld (v lo w : Nat) : Nat := (v % 2 ^ w) <<< lo

/-- The bit `lo`, set or not. -/
def flag (b : Bool) (lo : Nat) : Nat := if b then 1 <<< lo else 0

/-- The signed number of the low `w` bits of `x`. -/
def signed (w x : Nat) : Int := (BitVec.ofNat w x).toInt

/-- The number of bits of the value `x`: 0 for 0. -/
def bitLen (x : Nat) : Nat := if x = 0 then 0 else Nat.log2 x + 1

/-! ## Vectors indexed by `Fin` -/

/-- Element `i`. -/
def vget {α : Type} {n : Nat} (v : Vector α n) (i : Fin n) : α := v[i.val]

/-- `v` with element `i` set to `x`. -/
def vset {α : Type} {n : Nat} (v : Vector α n) (i : Fin n) (x : α) : Vector α n := v.set i.val x i.isLt

/-- `v` with element `i` changed by `f`. -/
def vmod {α : Type} {n : Nat} (v : Vector α n) (i : Fin n) (f : α → α) : Vector α n := vset v i (f (vget v i))

/-- Fold `f` over the numbers 0 … n − 1, in order. -/
def foldFin {β : Type} (n : Nat) (f : β → Fin n → β) (b : β) : β := (List.finRange n).foldl f b

/-- Apply a state change when the condition holds. -/
def when {σ : Type} (c : Bool) (f : σ → σ) (s : σ) : σ := if c then f s else s

end Sys2Proof.Machine
end

