-- ==== Sys2Proof/Machine/Crc.lean ====
section
/-! DEFINITION. The check codes that the spec names: CRC-32 of IEEE 802.3 (R132, R338, R415), CRC-8 with polynomial 0x07
(R338), CRC-64 with polynomial 0x42F0_E1EB_A9EA_3693 reflected (R344); SHA-256, HMAC-SHA-256 and PBKDF2-HMAC-SHA-256 (R36,
R324, R405). The forms are those of the standards (assumption log 3). -/

namespace Sys2Proof.Machine

/-- `n` bit steps of a reflected CRC of width `w` with reflected polynomial `p`. -/
def crcBits {w : Nat} (p : BitVec w) : Nat → BitVec w → BitVec w
  | 0, c => c
  | n + 1, c => crcBits p n (if c.getLsbD 0 then (c >>> 1) ^^^ p else c >>> 1)

/-- One byte into a reflected CRC. -/
def crcByte {w : Nat} (p : BitVec w) (c : BitVec w) (b : Byte) : BitVec w :=
  crcBits p 8 (c ^^^ BitVec.setWidth w b)

/-- CRC-32 of IEEE 802.3 over a byte string. -/
def crc32 (b : List Byte) : Word :=
  (b.foldl (crcByte (0xEDB88320 : BitVec 32)) 0xFFFFFFFF) ^^^ 0xFFFFFFFF

/-- The same as a number. -/
def crc32n (b : List Byte) : Nat := (crc32 b).toNat

/-- The CRC-64 of a signature (R344): the polynomial 0x42F0_E1EB_A9EA_3693 with its bits reversed is 0xC96C_5795_D787_0F42. -/
def crc64 (b : List Byte) : BitVec 64 :=
  (b.foldl (crcByte (0xC96C5795D7870F42 : BitVec 64)) 0xFFFFFFFFFFFFFFFF) ^^^ 0xFFFFFFFFFFFFFFFF

/-- `n` bit steps of the CRC-8 of R338 (not reflected, polynomial 0x07). -/
def crc8Bits : Nat → Byte → Byte
  | 0, c => c
  | n + 1, c => crc8Bits n (if c.getLsbD 7 then (c <<< 1) ^^^ 0x07 else c <<< 1)

/-- CRC-8 with polynomial 0x07 and initial value 0 (R338). -/
def crc8 (b : List Byte) : Byte := b.foldl (fun c x => crc8Bits 8 (c ^^^ x)) 0

/-! ## SHA-256 and what is built on it -/

/-- The whole part of the `k`-th root of `n`, its lower `i` bits still to be found above `r`. -/
def rootBits (k n : Nat) : Nat → Nat → Nat
  | 0, r => r
  | i + 1, r => rootBits k n i (if (r + 2 ^ i) ^ k ≤ n then r + 2 ^ i else r)

/-- The first 32 bits of the fraction of the `k`-th root of `p`, which FIPS 180-4 takes its constants from; `p` is below 2^10. -/
def rootFraction (k p : Nat) : Word := BitVec.ofNat 32 (rootBits k (p * 2 ^ (32 * k)) 38 0)

/-- A number below 324 without a proper divisor from 2 to 17. -/
def isPrime (n : Nat) : Bool := 2 ≤ n && (List.range 18).all fun d => d < 2 || n ≤ d || n % d ≠ 0

/-- The first sixty-four primes. -/
def primes64 : List Nat := (List.range 312).filter isPrime

/-- The hash before the first block: from the square roots of the first eight primes. -/
def shaStart : List Word := (primes64.take 8).map (rootFraction 2)

/-- What is added in each round: from the cube roots of the first sixty-four primes. -/
def shaAdds : List Word := primes64.map (rootFraction 3)

/-- Word `i` of a list of words. -/
def wAt (l : List Word) (i : Nat) : Word := (l[i]?).getD 0

/-- Extend a message schedule, held newest first, by `n` words. -/
def shaSched : Nat → List Word → List Word
  | 0, w => w
  | n + 1, w =>
    let a := wAt w 14
    let b := wAt w 1
    let s0 := (a.rotateRight 7) ^^^ (a.rotateRight 18) ^^^ (a >>> 3)
    let s1 := (b.rotateRight 17) ^^^ (b.rotateRight 19) ^^^ (b >>> 10)
    shaSched n ((wAt w 15 + s0 + wAt w 6 + s1) :: w)

/-- One round on the eight working words. -/
def shaRound (v : List Word) (kw : Word) : List Word :=
  match v with
  | [a, b, c, d, e, f, g, h] =>
    let s1 := (e.rotateRight 6) ^^^ (e.rotateRight 11) ^^^ (e.rotateRight 25)
    let ch := (e &&& f) ^^^ (~~~e &&& g)
    let t1 := h + s1 + ch + kw
    let s0 := (a.rotateRight 2) ^^^ (a.rotateRight 13) ^^^ (a.rotateRight 22)
    let mj := (a &&& b) ^^^ (a &&& c) ^^^ (b &&& c)
    [t1 + (s0 + mj), a, b, c, d + t1, e, f, g]
  | v => v

/-- The big-endian word of four bytes. -/
def beWord (b : List Byte) : Word := b.foldl (fun w x => (w <<< 8) ||| BitVec.setWidth 32 x) 0

/-- The big-endian bytes of a word. -/
def beBytes (w : Word) : List Byte :=
  [(w >>> 24).setWidth 8, (w >>> 16).setWidth 8, (w >>> 8).setWidth 8, w.setWidth 8]

/-- Cut a list into `n` pieces of `k`. -/
def chunks {α : Type} (k : Nat) : Nat → List α → List (List α)
  | 0, _ => []
  | n + 1, l => l.take k :: chunks k n (l.drop k)

/-- One 64-byte block into the hash. -/
def shaBlock (h : List Word) (blk : List Byte) : List Word :=
  let w16 := (chunks 4 16 blk).map beWord
  let w := (shaSched 48 w16.reverse).reverse
  let v := (List.zipWith (· + ·) w shaAdds).foldl shaRound h
  List.zipWith (· + ·) h v

/-- The padded message of SHA-256. -/
def shaPad (m : List Byte) : List Byte :=
  let l := m.length
  let z := (119 - l % 64) % 64
  m ++ 0x80 :: List.replicate z 0 ++ (leBytes 8 (8 * l)).reverse

/-- SHA-256: 32 bytes. -/
def sha256 (m : List Byte) : List Byte :=
  let p := shaPad m
  ((chunks 64 (p.length / 64) p).foldl shaBlock shaStart).flatMap beBytes

/-- XOR two byte strings. -/
def xorBytes (a b : List Byte) : List Byte := List.zipWith (· ^^^ ·) a b

/-- HMAC-SHA-256 under a key of at most 64 bytes. -/
def hmac (key m : List Byte) : List Byte :=
  let k := key ++ List.replicate (64 - key.length) 0
  sha256 (k.map (· ^^^ 0x5C) ++ sha256 (k.map (· ^^^ 0x36) ++ m))

/-- The iterations of PBKDF2: `n` more rounds from `u`, XORed into `t`. -/
def pbkdfLoop (key : List Byte) : Nat → List Byte → List Byte → List Byte
  | 0, _, t => t
  | n + 1, u, t => let u' := hmac key u; pbkdfLoop key n u' (xorBytes t u')

/-- The first 32 bytes of PBKDF2-HMAC-SHA-256 with `n` iterations. -/
def pbkdf2 (pw salt : List Byte) (n : Nat) : List Byte :=
  let u1 := hmac pw (salt ++ [0, 0, 0, 1])
  pbkdfLoop pw (n - 1) u1 u1

/-- The little-endian number of a byte string, as bits. -/
def bvOf (w : Nat) (b : List Byte) : BitVec w := BitVec.ofNat w (leNat b)

/-- The bytes of a bit vector, least significant first. -/
def bvBytes {w : Nat} (n : Nat) (x : BitVec w) : List Byte := leBytes n x.toNat

end Sys2Proof.Machine
end

