-- ==== Sys2Proof/Machine/StBanks.lean ====
section
/-! DEFINITION. The state of the banks and crossings (14_banks_queues_and_crossings.md), of the security block and of the
service port (15_worlds_and_life_cycle.md). -/

namespace Sys2Proof.Machine

/-- One SRAM bank's heddle (R389). -/
structure Bank where
  owner   : Nat := 0x1F
  ownerB  : Nat := 0
  req     : Nat := 0x1F
  pend    : Bool := false
  drained : Bool := true
  outst   : Nat := 0
  stuck   : Bool := false
  rej     : Bool := false
  coll    : Bool := false
  eccN    : Nat := 0
  back    : Option Nat := none    -- a handover that follows the one in progress (R154)
deriving DecidableEq, Repr

/-- The toggle crossing of a fence group (R381): a pulse on its way, and one held behind it. -/
structure Toggle where
  busy : Bool := false
  held : Bool := false
deriving DecidableEq, Repr

/-- A word of a bobbin with its marks and its even parity bit (R374). -/
structure BobWord where
  data   : List Byte := []
  eop    : Bool := true
  poison : Bool := false
  parity : Bool := false
deriving DecidableEq, Repr

/-- A bobbin (R374, R376, R379): the words pushed and not yet popped, the two pointers of k + 1 bits with the copy of each that the other
side sees through its synchroniser, the last word popped (zeros with the poison tag after a reset), and whether its consumer still discards
words up to an end-of-packet mark. -/
structure Bobbin where
  words    : List BobWord := []
  wptr     : Nat := 0             -- the producer's own
  rptr     : Nat := 0             -- the consumer's own
  wsync    : Nat := 0             -- the write pointer that the consumer sees
  rsync    : Nat := 0             -- the read pointer that the producer sees
  last     : BobWord := { poison := true, parity := true }
  dropping : Bool := false
deriving DecidableEq, Repr

/-- Banks, conflict counters and crossing status (R389, R390). -/
structure Hed where
  banks    : Vector Bank 24 := Vector.replicate 24 {}
  conf     : Vector Nat 18 := Vector.replicate 18 0
  violV    : Bool := false
  violM    : Nat := 0
  violB    : Nat := 0
  violN    : Nat := 0
  epochN   : Nat := 0
  parityN  : Nat := 0
  fullDrop : Nat := 0
  underN   : Nat := 0
  discard  : Nat := 0
  merge    : Nat := 0
  pois     : BitVec 25 := 0
  epochA   : Vector (BitVec 2) 25 := Vector.replicate 25 0   -- crossing epochs of the two sides of each group (R385)
  epochB   : Vector (BitVec 2) 25 := Vector.replicate 25 0
  toggles  : Vector Toggle 25 := Vector.replicate 25 {}
  bobs     : Vector Bobbin 11 := Vector.replicate 11 {}   -- 0-3 source returns to PEn, 4-7 sink values of PEn, 8 data to the mover, 9 Mirror receive, 10 host data to HK0 (R378, R379)
  warp     : List (Nat × Nat × Nat × Mark) := []   -- words of Warps that the hub has read with a mark: bank, offset, length (R377; assumption log 173)
  ptPoison : Nat := 0              -- point updates not applied for poison (R377: "the update is counted")
  xfer     : Xfer := .whole        -- how the words come that the mover has read for its next transfer (R377, R378; assumption log 163)
deriving DecidableEq, Repr

/-- Life-cycle states (R397), coded 0 to 4. -/
inductive Life where
  | manufacture | commission | service | operate | decommissioned
deriving DecidableEq, Repr

/-- A memory region (R394). -/
structure Region where
  base  : Nat := 0
  limit : Nat := 0
  lock  : Bool := false
  en    : Bool := false
  wrS   : Bool := false
  rdS   : Bool := false
deriving DecidableEq, Repr

/-- The security block (R407). `keySet` and `key` are the key store (R396). -/
structure Sec where
  life    : Life := .commission
  target  : Nat := 0
  cause   : Nat := 0
  pend    : Bool := false
  blkw    : Nat := 0x4C00
  keySet  : Bool := false
  key     : BitVec 256 := 0
  rsel    : Nat := 0
  regions : SMap Region := []
  violV   : Bool := false
  violW   : Bool := false
  violR   : Nat := 0
  violM   : Nat := 0
  violN   : Nat := 0
  vaddr   : Nat := 0
deriving DecidableEq, Repr

/-- The session of the service port (R404 INFO, R405). -/
inductive SvcSess where
  | none | challenged | key | presence | locked
deriving DecidableEq, Repr

/-- The service port (R402 to R405). -/
structure Svc where
  vbus     : Bool := false
  pullup   : Bool := false
  sess     : SvcSess := .none
  nonce    : BitVec 128 := 0
  count    : Nat := 0              -- MRAM
  fails    : Nat := 0              -- MRAM
  lockUs   : Nat := 0              -- MRAM
  window   : Bool := false         -- within 600 s of power-good (R405)
  endAfter : Bool := false
deriving DecidableEq, Repr

end Sys2Proof.Machine
end

