-- ==== Sys2Proof/Machine/StRecorder.lean ====
section
/-! DEFINITION. The state of the event recorder (16_event_recorder.md). -/

namespace Sys2Proof.Machine

/-- A vessel-time stamp with its UNSYNC bit (R294, R411). -/
structure Stamp where
  sec    : Nat := 0
  ns     : Nat := 0
  unsync : Bool := true
deriving DecidableEq, Repr

/-- One raise (R409). -/
structure Raise where
  code  : Nat
  sev   : Nat
  value : Int
  stamp : Stamp
deriving DecidableEq, Repr

/-- The content of one record (R411), without GEN and VMARK. -/
structure Rec where
  code     : Nat := 0
  sev      : Nat := 0
  overw    : Bool := false
  csat     : Bool := false
  count    : Nat := 0
  suppN    : Nat := 0
  vmin     : Int := 0
  vmax     : Int := 0
  vlast    : Int := 0
  first    : Stamp := {}
  last     : Stamp := {}
  tmin     : Stamp := {}
  tmax     : Stamp := {}
  hist     : List Nat := []      -- 16 bins
  lseq     : Nat := 0
  cseq     : Nat := 0
  prevCode : Nat := 0
  prevSev  : Nat := 0
  hmode    : Nat := 0
  hbase    : Int := 0
  wsh      : Nat := 0
  epoch    : Nat := 0
deriving DecidableEq, Repr

/-- One copy of a record in MRAM (R415): its content, its GEN and whether VMARK is good. -/
structure RecCopy where
  body : Rec := {}
  gen : Nat := 0
  ok  : Bool := false
deriving DecidableEq, Repr

/-- One record slot: HK1's present record, its bucket in micro-tokens, the change not yet written, and the two copies in
MRAM. `held` says that the slot holds a record; `erase` that old copies wait to be erased (R422). -/
structure RecSlot where
  held   : Bool := false
  body   : Rec := {}
  tokens : Nat := 0
  dirty  : Bool := false
  copyA  : RecCopy := {}
  copyB  : RecCopy := {}
  erase  : Bool := false
deriving DecidableEq, Repr

/-- How a raise ended in the recorder (R410, R421). -/
inductive RaiseEnd where
  | frozen | full | supp | recorded
deriving DecidableEq, Repr

/-- The event recorder and its loupe window. -/
structure Recorder where
  bobbin   : List Raise := []             -- at most 256
  slots    : SMap RecSlot := []
  seq      : Nat := 0                     -- MRAM: last recorder sequence number
  clr      : Nat := 0                     -- MRAM: clear epoch (LOU_CLR)
  frozen   : List Nat := []               -- handle indexes of the cursors that hold a freeze
  louFrz   : Bool := false
  floss    : Nat := 0
  raiseN   : Nat := 0
  fullN    : Nat := 0
  ovr      : Nat := 0
  supp     : Nat := 0
  ftmo     : Nat := 0
  cur      : Nat := 0                     -- LOU_CUR [17:0]
  snap     : List Byte := []              -- LOU_WIN, 256 bytes, or none
  valid    : Bool := false
  found    : Bool := false
  slot     : Nat := 0
  feedSeq  : SMap Nat := []               -- FSEQ per event feed stream (handle index)
deriving DecidableEq, Repr

end Sys2Proof.Machine
end

