-- ==== Sys2Proof/Machine/StBrake.lean ====
section
/-! DEFINITION. The state of the safe brake control: the BMP, the four channels, the safety region
(12_safe_brake_control.md). Lengths of time that the BMP measures are counted in its 10 µs ticks (R303). -/

namespace Sys2Proof.Machine

/-- One channel block of a BRK_CFG (R322). -/
structure BrkCfg where
  enable   : Bool := false
  fbPol    : Bool := false
  hostInit : Bool := false
  reqTmo   : Nat := 1
  reqSym   : Nat := 0
  statusPt : Nat := 0xFFFF
  iPick    : Nat := 100
  iDrop    : Nat := 20
  tPick    : Nat := 10
  dipMin   : Nat := 0
  fbRel    : Nat := 10
  fbApp    : Nat := 10
  tHold    : Nat := 100
  onMin    : Nat := 10
  testLoop : Nat := 0xFFFF
  testU    : Int := 0
  testMs   : Nat := 10
  encPort  : Fin 4 := 0
  win      : Nat := 0
deriving DecidableEq, Repr

/-- BRK_STATn.STATE (R308). -/
inductive BrkSt where
  | nocfg | applied | releasing | released | engaging | test | fault
deriving DecidableEq, Repr

/-- BRK_STATn.PULSE (R330). -/
inductive BrkPulse where
  | none | offHs | offLs | on
deriving DecidableEq, Repr

/-- One brake channel. -/
structure BrkCh where
  cfg      : BrkCfg := {}
  next     : Option BrkCfg := none     -- accepted, applied when the channel next becomes APPLIED (R323)
  st       : BrkSt := .nocfg
  hold     : Bool := false
  hostRel  : Bool := false             -- the host request is release
  loomVal  : Bool := false             -- the committed value of the request point, before forces
  loomOk   : Bool := false             -- no case of R305 holds
  tmoOut   : Bool := false             -- REQ_TMO has run out since the last publish
  fb       : Bool := false             -- the contact indicates released
  hs       : Bool := false
  ls       : Bool := false
  fw       : Bool := false
  pulse    : BrkPulse := .none
  fwCheck  : Bool := false             -- the decay after an on-pulse is being checked
  fcause   : Nat := 0
  vPlus    : Int := 0                  -- mV
  vMinus   : Int := 0
  iHs      : Nat := 0                  -- mA
  iLs      : Nat := 0
  relTicks : Nat := 0                  -- since the start of the release
  engTicks : Nat := 0                  -- since the switches opened
  peak     : Nat := 0                  -- highest current since the start of the release
  dip      : Bool := false
  picked   : Bool := false             -- I_PICK reached
  fbSeen   : Bool := false             -- the contact has indicated what the state asks for
  offLsNext : Bool := false            -- the next off-pulse is on LS
  retest   : Bool := false             -- a discarded result is repeated at the next slot
  onSkip   : Bool := false             -- the next slot in APPLIED is the second one: no on-pulse
  onPassed : Nat := 0                  -- consecutive on-pulses passed since the fault
  tested   : Bool := false             -- a brake test has passed since the fault
  nodeBad  : Bool := false             -- the node check fails at the last tick (R314)
  ocNow    : Bool := false             -- coil current above 2.2 A at the last tick
  rbNow    : Bool := false             -- the shunts differ at the last tick
  testRes  : Nat := 0
  maxDev   : Nat := 0
  testP0   : Int := 0
  testRun  : Bool := false             -- TEST_MS runs (steps 4 and 5)
  testWait : Bool := false             -- a test waits for the on-pulse and its FW check
  relWait  : Bool := false             -- a release waits for the period after the loop's test output is removed
  testOf   : Nat := 0xFFFF             -- the loop whose output the brake test sets, or last set
  testAt   : Nat := 0                  -- the period count from which both modules of a pair override the loop (R321); 0 the next period
  failN    : Nat := 0
  skipN    : Nat := 0
  tRel     : Nat := 0
  tEng     : Nat := 0
  lastStat : Nat := 0                  -- status word last delivered
  repN     : Nat := 0                  -- ticks since the status word was delivered, at most 100
  dem      : Bool := false             -- the demand at the last tick was release
  fromFault : Bool := false            -- the brake test runs on a channel in FAULT
deriving DecidableEq, Repr

/-- An entry of the change log (R326). -/
structure BrkLog where
  seq      : Nat
  stamp    : Stamp
  operator : Nat
  oldCrc   : Nat
  newCrc   : Nat
  kind     : Nat
deriving DecidableEq, Repr

/-- The brake monitor processor and the safety region. -/
structure Brk where
  ch       : Vector BrkCh 4 := Vector.replicate 4 {}
  disc     : Bool := false
  warn     : Bool := false
  vsup     : Nat := 0                  -- mV
  vmin     : Nat := 0
  supTicks : Nat := 0                  -- ticks with the supply above 18.0 V in a row, holding at 10,000
  supLow   : Bool := false             -- below 16.0 V at the last tick
  crc      : Nat := 0                  -- MRAM
  pcrc     : Nat := 0                  -- MRAM
  hasPw    : Bool := false             -- MRAM
  salt     : BitVec 128 := 0           -- MRAM
  hash     : BitVec 256 := 0           -- MRAM
  fails    : Nat := 0                  -- MRAM
  lockUs   : Nat := 0                  -- MRAM
  log      : List BrkLog := []         -- MRAM, newest first, at most 512
  logN     : Nat := 0                  -- entries ever written
  logDue   : Option (Nat × Nat × Nat) := none   -- a configuration accepted and applied to no channel yet: OPERATOR, CRC before, KIND (R326)
  logSel   : Nat := 0
  logValid : Bool := false
  logData  : List Byte := []
  raw      : List Byte := []           -- MRAM: bytes 40 to 231 of the BRK_CFG accepted
  stored   : Vector BrkCfg 4 := Vector.replicate 4 {}   -- MRAM: the configuration accepted
  partner  : Vector (Nat × Nat) 4 := Vector.replicate 4 (0, 0)   -- standby's copy: STATE, FCAUSE of the active
deriving DecidableEq, Repr

end Sys2Proof.Machine
end

