-- ==== Sys2Proof/Machine/StField.lean ====
section
/-! DEFINITION. The state of the field channels: digital banks (08_digital_field_channels.md), current channels and encoder
ports (09_current_loop_channels.md). -/

namespace Sys2Proof.Machine

/-! ## Digital -/

/-- One channel of a bank configuration block (R222). -/
structure DioChCfg where
  mode  : Fin 4 := 0
  wb    : Bool := false
  inv   : Bool := false
  log   : Bool := false
  cnt   : Bool := false
  deb   : Nat := 0
  inPt  : Nat := 0xFFFF
  outPt : Nat := 0xFFFF
  cntPt : Nat := 0xFFFF
deriving DecidableEq, Repr

/-- Thermal protection (R218): none, retry wait, latched. -/
inductive DioProt where
  | none | retry | latched
deriving DecidableEq, Repr

/-- One digital channel. `sw` is the switch; `cmd` the recorded command; `deb` the debounced state; `timer` holds the
instant noted for a running debounce timer (vessel-time seconds and ns, UNSYNC). -/
structure DioCh where
  cfg      : DioChCfg := {}
  cmd      : Bool := false
  cmdKnown : Bool := false       -- a publish of OUT_PT has come since the channel entered an output mode
  sw       : Bool := false
  prot     : DioProt := .none
  shed     : Bool := false
  retries  : Nat := 0
  retryDue : Bool := false       -- the next turn-on is the next retry of the run (R212, R219)
  tsd      : Nat := 0
  term     : Bool := false       -- sampled state of the terminal, before INV
  deb      : Bool := false
  timer    : Option (Nat × Nat × Bool) := none
  limit    : Bool := false       -- in current limit
  count    : Word := 0
  disagree : Bool := false
  wbrk     : Bool := false
  ext      : Bool := false
  rbLow    : Bool := false
deriving DecidableEq, Repr

/-- One digital bank. -/
structure DioBank where
  live     : Bool := false
  statusPt : Nat := 0xFFFF
  vbank    : Nat := 0
  vmin     : Nat := 0
  vKnown   : Bool := false       -- a first filtered V_bank exists (R210)
  ibank    : Nat := 0
  imax     : Nat := 0
  warn     : Bool := false
  low      : Bool := false
  uvOff    : Bool := false
  high     : Bool := false
  nosup    : Bool := false
  von      : Nat := 0x044C
  voff     : Nat := 0x01F4
  wdog     : Bool := false       -- the field-side watchdog acts (R457)
  seq      : Nat := 0            -- SEQ of the edge log (R217)
  lastStat : Nat := 0            -- bank status word last delivered
deriving DecidableEq, Repr

/-! ## Current channels -/

/-- CMODE (R228). -/
inductive CMode where
  | unused | active | passive
deriving DecidableEq, Repr

/-- A current channel configuration block (R239). -/
structure AioCfg where
  cmode    : CMode := .unused
  ne43     : Bool := false
  failHi   : Bool := false
  inPt     : Nat := 0xFFFF
  outPt    : Nat := 0xFFFF
  statusPt : Nat := 0xFFFF
  char     : Nat := 0
  filt     : Nat := 0
  upd      : Nat := 10
  lrv      : Nat := 0
  urv      : Nat := 0
  engLo    : Int := 0
  engHi    : Int := 0
  cutoff   : Int := 0
  table    : List Int := []
  margWarn : Nat := 0
deriving DecidableEq, Repr

/-- One current channel. -/
structure Aio where
  live     : Bool := false          -- NOCFG is its negation
  cfg      : AioCfg := {}
  next     : Option AioCfg := none  -- a block that waits: CMODE passing through UNUSED, or an unpowered bank
  nextIso  : Bool := false          -- it waits for the bank's recovery
  changing : Bool := false          -- CMODE passes through UNUSED (R240)
  pri      : Nat := 0
  sec      : Nat := 0
  vt       : Nat := 0
  want     : Int := 0               -- the writer's last command, µA before clamping
  cmd      : Nat := 0               -- µA after clamping
  cmdKnown : Bool := false
  margin   : Int := 0
  margMin  : Int := 0
  flt      : Int := 0               -- what IN_PT takes, after the filter FILT (R229)
  fltOn    : Bool := false          -- the filter has taken a first value
  opening  : Bool := false          -- a transmitter that changes its mode still drives 3,600 µA (R240)
  noret    : Nat := 0
  open_    : Bool := false
  compl    : Bool := false
  mism     : Bool := false
  short    : Bool := false
  underI   : Bool := false
  overI    : Bool := false
  failLo   : Bool := false
  failHi   : Bool := false
  margLow  : Bool := false
  bypass   : Bool := false
  disagree : Bool := false
  share    : Bool := false
  iso      : Bool := false
  margN    : Nat := 0               -- periodic conversions since the status word was delivered, at most 100 (R239)
  wdog     : Bool := false          -- the field-side watchdog acts (R234)
  fwdUntil : Bool := false          -- delivers the forwarded value for 40 µs (R238)
  lastStat : Nat := 0
deriving DecidableEq, Repr

/-! ## Encoder ports -/

/-- EMODE (R248). -/
inductive EMode where
  | unused | inc | ssi
deriving DecidableEq, Repr

/-- An encoder configuration block (R248). -/
structure EncCfg where
  emode    : EMode := .unused
  invDir   : Bool := false
  term     : Bool := false
  zEn      : Bool := false
  gray     : Bool := false
  errBit   : Bool := false
  extrap   : Bool := false
  posPt    : Nat := 0xFFFF
  velPt    : Nat := 0xFFFF
  statusPt : Nat := 0xFFFF
  filt     : Nat := 0
  refMode  : Nat := 0
  refVal   : Int := 0
  ssiBits  : Nat := 8
  ssiTm    : Nat := 1
  ssiKhz   : Nat := 100
  ssiPer   : Nat := 10
  upd      : Nat := 10
  velWin   : Nat := 10
  velTmo   : Nat := 1
  supply   : Nat := 0
deriving DecidableEq, Repr

/-- One encoder port. -/
structure Enc where
  live     : Bool := false
  cfg      : EncCfg := {}
  loss     : Bool := false
  qerr     : Bool := false
  ssiErr   : Bool := false
  refd     : Bool := false
  pos      : Word := 0
  vel      : Int := 0
  ref      : Word := 0
  qerrN    : Nat := 0
  frameN   : Nat := 0
  frames   : Nat := 0          -- valid frames since FIELD_CFG, at most 2
  running  : Bool := false     -- an SSI frame runs
  clk      : Bool := false     -- the port drives CLK for it (R247)
  levels   : Option (Bool × Bool) := none   -- A and B after the filter FILT (R242)
  heldA    : Nat := 0          -- field I/O cycles that A has differed from its filtered level
  heldB    : Nat := 0
  still    : Bool := false     -- no edge for VEL_TMO (R244)
  starts   : Nat := 0          -- frames started since the last valid one, at most 2
  indexed  : Bool := false     -- an index has come since FIELD_CFG
  aged     : Bool := false     -- the last valid frame is older than 2 × SSI_PER
  lastStat : Nat := 0
deriving DecidableEq, Repr

end Sys2Proof.Machine
end

