-- ==== Sys2Proof/Machine/StLoom.lean ====
section
/-! DEFINITION. The state of the Loom engines, and the Zoros images they run (03_loom_instruction_set.md,
04_loom_scan_and_runahead.md, 05_online_change_and_forcing.md). -/

namespace Sys2Proof.Machine

/-! ## The Zoros image as the module holds it after its check (R132 to R139) -/

/-- A frame template (R97). -/
structure Template where
  channel : Fin 8 := 0
  ide     : Bool := false
  fdf     : Bool := false
  brs     : Bool := false
  len     : Nat := 0
  mwFirst : Nat := 0
  ident   : BitVec 29 := 0
deriving DecidableEq, Repr

/-- One point directory entry (R136): KIND, WRITER, READERS and VALUE. -/
structure PointDef where
  kind    : Nat := 0
  writer  : Nat := 0xFF
  readers : Nat := 0
  value   : Word := 0
deriving DecidableEq, Repr

/-- One symbol (R137, R141). -/
structure Symbol where
  id        : Nat
  engine    : Fin 8
  kind      : Nat
  ty        : Nat
  patchable : Bool
  retain    : Bool
  loc       : Nat
deriving DecidableEq, Repr

/-- One entry of a channel set (R65, R138): its block (empty for none; both sets of a loop slot), and what the configuration
store keeps with it: a loop's tables (R191), a CAN port's filter table, the world of the creator. -/
structure ChanDef where
  kind   : Nat := 0
  target : Nat := 0
  block  : List Byte := []
  fric   : List Int := []
  cog    : List Int := []
  filt   : List Byte := []
  secure : Bool := false
deriving DecidableEq, Repr

/-- A task of an image: its header (R135), program, constants, subroutines, templates and initial values (R134). -/
structure TaskImg where
  autostart : Bool := false
  crit      : Bool := false
  miniv     : Nat := 0
  budget    : Nat := 0x100
  body      : Nat := 0
  prog      : List Word := []
  const     : List Word := []
  subs      : List Nat := []
  tmpls     : List Template := []
  init      : List (Nat × Nat × Word) := []     -- SPACE, index, value
deriving DecidableEq, Repr

/-- The station parameters (R139). -/
structure Station where
  mac     : BitVec 48 := 0
  ipv4    : Word := 0
  ethCfg  : Nat := 0
  timCtrl : Nat := 0
  timSrv  : Nat := 0
  blkw    : Nat := 0
  panel   : Nat := 0
deriving DecidableEq, Repr

/-- A memory region entry (R134, R394). -/
structure RegionDef where
  region : Nat
  rdS    : Bool
  wrS    : Bool
  en     : Bool
  base   : Nat
  limit  : Nat
deriving DecidableEq, Repr

/-- A code configuration of the CODES section (R134, R414). -/
structure CodeDef where
  code  : Nat
  rate  : Nat
  burst : Nat
  hmode : Nat
  wsh   : Nat
  hbase : Int
deriving DecidableEq, Repr

/-- A checked Zoros image. -/
structure Image where
  raw      : List Byte := []                                        -- its bytes
  crc      : Nat := 0
  station  : Station := {}
  frames   : Vector (Nat × Nat) 4 := Vector.replicate 4 (0, 0)      -- NSLOT, PER_U
  points   : SMap PointDef := []
  symbols  : List Symbol := []
  channels : SMap ChanDef := []
  codes    : List CodeDef := []
  regions  : List RegionDef := []
  banks    : List Nat := []                                         -- owner codes of banks 16 to 21; none for R22's
  tasks    : Vector (Option TaskImg) 8 := Vector.replicate 8 none
deriving DecidableEq, Repr

/-! ## Timers, counters, local state -/

/-- A timer's state (R86). -/
inductive TimSt where
  | idle | running | done
deriving DecidableEq, Repr

/-- A timer (R86). -/
structure Timer where
  st    : TimSt := .idle
  start : Word := 0
  pt    : Word := 0
  mem   : Bool := false
deriving DecidableEq, Repr

/-- A counter (R90). -/
structure Counter where
  cv   : Int := 0
  pv   : Int := 0
  up   : Bool := false
  down : Bool := false
deriving DecidableEq, Repr

/-- The engine-local data that live across scans (R74), and the task's working Warp values (R76). Markers not listed are 0;
an edge memory not listed is new (R151). -/
structure LData where
  mb     : SMap Bool := []
  mw     : SMap Word := []
  timers : SMap Timer := []
  ctrs   : SMap Counter := []
  edges  : SMap Bool := []
  work   : SMap Word := []
deriving DecidableEq, Repr

/-- Branch stack kinds (R74). -/
inductive BKind where
  | and | or | keep
deriving DecidableEq, Repr

/-- A place an instruction reads or writes, for the signatures and the dirty set (R113, R115). -/
inductive Loc where
  | mb (i : Nat) | mw (i : Nat) | work (i : Nat) | timer (i : Nat) | ctr (i : Nat) | edge (i : Nat) | ovf | divz
deriving DecidableEq, Repr

/-- A local write with its new value: the store log and the journalled engine-local state (R79, R113). -/
inductive LWrite where
  | mb (i : Nat) (v : Bool) | mw (i : Nat) (v : Word) | work (i : Nat) (v : Word)
  | timer (i : Nat) (v : Timer) | ctr (i : Nat) (v : Counter) | edge (i : Nat) (v : Bool)
  | ovf | divz
deriving DecidableEq, Repr

/-- A journal entry (R79). -/
inductive JEntry where
  | warp (i : Nat) (v : Word)
  | timer (i : Nat) (v : Timer)
  | ctr (i : Nat) (v : Counter)
  | edge (i : Nat) (v : Bool)
  | event (code sev : Nat) (v : Word)
  | can (tpl : Nat) (channel : Fin 8) (f : CanFrame)
deriving DecidableEq, Repr

/-- What an engine holds while it executes one scan (R74): accumulators, stacks, PC, the pick in progress, the local data as
changed so far, the journal in program order with the number of entries that replays have made void, and the instruction
count of plain execution (R123). -/
structure LRun where
  ba     : Bool := true
  wa     : Word := 0
  bst    : List (Bool × BKind) := []
  cst    : List Nat := []
  mc     : Bool := true
  mcst   : List Bool := []
  pc     : Nat := 0
  pick   : Nat := 0
  data   : LData := {}
  ovf    : Bool := false
  divz   : Bool := false
  jrn    : List JEntry := []
  void   : Nat := 0
  count  : Nat := 0
deriving DecidableEq, Repr

/-- A trap that run-ahead holds (R118). -/
structure HeldTrap where
  cause : Nat
  pc    : Nat
deriving DecidableEq, Repr

/-- How a logged pick ended (R113). -/
inductive PickExit where
  | none | pick (addr : Nat) | fin
deriving DecidableEq, Repr

/-- One entry of the pick log (R113), with the parts of the read list, the store log and the journal that belong to it. -/
structure PickLog where
  no      : Nat
  entry   : Nat
  mc      : Bool
  mcst    : List Bool
  instrs  : Nat := 0
  reads   : List Nat := []         -- read list: points read through WB and WW
  locals  : List Loc := []         -- signature: engine-local places read
  writes  : List LWrite := []      -- in order
  stores  : Nat := 0               -- store log entries
  jrn     : List JEntry := []
  exit    : PickExit := .none
  mcOut   : Bool := true
  mcstOut : List Bool := []
  budget  : Bool := false          -- it exhausted the budget
  trap    : Option HeldTrap := none
deriving DecidableEq, Repr

/-- Task states (R104). -/
inductive TaskSt where
  | none | stopped | running | trapped | overrun | fault | test
deriving DecidableEq, Repr

/-- What the engine does in the scan (R107, R112, R113): nothing latched; executing ahead of the fresh Weft; waiting for it
with nothing more to run; executing settled. -/
inductive ScanMode where
  | idle | ahead | wait | settled
deriving DecidableEq, Repr

/-- A commit in progress (R109): what the publish instant makes visible. -/
structure Commit where
  scan  : Nat
  work  : SMap Word
  jrn   : List JEntry
  fell  : Bool := false
  waited : Bool := false                  -- its publish has waited for a LATCH frame (R349)
deriving DecidableEq, Repr

/-- A FORCE_SET that waits for its task's publish (R158): engine, descriptor, point, the force or its release, and in a pair its
FWDSEQ and the scan whose LATCH names it. `gone` says that the entry is being destroyed: then nothing completes. -/
structure PendForce where
  engine : Nat
  no     : Nat
  pt     : Nat
  set    : Option Word
  fwd    : Option Nat := none
  scan   : Option Nat := none
  gone   : Bool := false
deriving DecidableEq, Repr

/-- A patch accepted for a RUNNING task (R143): its descriptor, symbol, value and mask. `fwd` is its FWDSEQ in a pair. -/
structure Patch where
  no    : Nat
  sym   : Nat
  value : Word
  mask  : Word
  fwd   : Option Nat := none
deriving DecidableEq, Repr

/-- One Loom engine. -/
structure Loom where
  task     : Option TaskImg := none       -- program, templates and header as loaded
  prog     : SMap Word := []              -- the live program; words not listed are NOP (R81)
  kw       : SMap Word := []              -- constant pool as patched
  state    : TaskSt := .none
  mode     : ScanMode := .idle
  com      : LData := {}                  -- committed data
  run      : LRun := {}
  scan     : Nat := 0                     -- number of the scan last latched
  done     : Nat := 0                     -- number of the last committed scan (LM_SCANLO, LM_SCANHI)
  ts       : Word := 0                    -- T_s
  period   : Word := 0                    -- SW 3
  first    : Bool := false                -- SB 0
  forced   : Bool := false                -- SB 3
  paired   : Bool := false                -- SB 4
  firstDue : Bool := false                -- the next scan is a first scan of a start
  fresh1   : Bool := false                -- the next scan has no previous Weft to assume
  weft     : SMap Word := []              -- the Weft in use
  gather   : Option (SMap Word) := none   -- the Weft being gathered
  freshIn  : Bool := false                -- the fresh Weft of this scan has arrived
  picks    : List PickLog := []           -- in program order, the last one open
  logging  : Bool := false
  stalled  : Bool := false
  fell     : Bool := false                -- this scan fell back
  nAhead   : Nat := 0                     -- picks that ran ahead in this scan
  nReplay  : Nat := 0                     -- picks replayed in this scan
  commit   : Option Commit := none
  stops    : List Nat := []               -- descriptors of stops that wait for the commit
  stopReq  : Bool := false
  teardown : Bool := false                -- a DESTROY waits for the commit
  stopScan : Option Nat := none           -- the partner's engine has failed: the task stops after this scan (R129)
  freezeAt : Bool := false                -- latches withheld while a stop or DESTROY goes to the partner
  patches  : List Patch := []
  mwait    : Bool := false
  miniv    : Nat := 0
  budget   : Nat := 0x100
  crit     : Bool := false
  lastAbn  : Nat := 0
  fbLast   : Bool := false
  per      : Nat := 0
  perMax   : Nat := 0
  aheadN   : Nat := 0
  replayed : Nat := 0
  fallbacks : Nat := 0
  hwm      : Nat := 0
  jLast    : Nat := 0
  stalls   : Nat := 0
  budgetN  : Nat := 0
  jexhN    : Nat := 0
  flt      : Nat := 0
  trapV    : Bool := false
  trapCause : Nat := 0
  trapPick : Nat := 0
  trapPc   : Nat := 0
  sigCrc   : Nat := 0                     -- signature of the last publish (R27)
deriving DecidableEq, Repr

/-- One retained value (R146). -/
inductive RetVal where
  | bit (v : Bool) | word (v : Word) | ctr (v : Counter)
deriving DecidableEq, Repr

/-- A copy of the retain area (R146): for each engine and symbol identifier the value saved. -/
structure RetCopy where
  valid : Bool := false
  gen   : Nat := 0
  vals  : List (Fin 8 × Nat × RetVal) := []
deriving DecidableEq, Repr

/-- ID_SWAP.PHASE (R161). -/
inductive SwapPhase where
  | idle | prepare | prepared | freeze | map
deriving DecidableEq, Repr

/-- The images, the staging area, a swap in progress (R139, R140, R149, R161). -/
structure Zoros where
  stage     : SMap Word := []             -- staging area, by word index; words not listed read 0
  staged    : Nat := 0                    -- ID_STAGED
  stagedImg : Option Image := none        -- the staged image that has passed the check
  checks    : List (Nat × Nat) := []      -- checks that run: the descriptor, ARG1
  running   : Option Image := none        -- the image as loaded
  store     : Option Image := none        -- the running image in the configuration store (MRAM)
  chans     : SMap ChanDef := []          -- the channel set in the configuration store (R65)
  imageCrc  : Nat := 0                    -- ID_IMAGE
  phase     : SwapPhase := .idle
  swapNo    : Option Nat := none          -- the ZOROS_SWAP descriptor
  swapCrc   : Nat := 0                    -- ARG2
  freezeF   : Option Word := none         -- the freeze instant F
  frozen    : Bool := false               -- at or after F
  ownCrc    : Option Nat := none
  peerCrc   : Option Nat := none
  peerScan  : Nat := 0                    -- the scan number of R153 that the standby has sent
  shadow    : Option Image := none        -- the shadow areas as prepared
  count     : Nat := 0
  lastCause : Nat := 0
  retA      : RetCopy := {}
  retB      : RetCopy := {}
  waiting   : List (Nat × ChanDef × Bool) := []   -- creates of a switch that wait for a teardown (R152); a task is started
  lone      : Bool := false               -- the active was lost at or after the freeze instant (R154 cause 7)
deriving DecidableEq, Repr

/-- The point hub (R16, R17, R24): the point store, the update buffer, updates that the producers hold while it is full, the
force table by point index. -/
structure Hub where
  pts   : SMap Word := []                 -- points not listed hold 0
  buf   : List (Nat × Word) := []         -- at most 256
  held  : List (Nat × Word) := []
  force : SMap (Option Word) := []        -- a force entry: released, or set to a value (R156)
  wait  : List PendForce := []            -- FORCE_SETs that wait for a publish
deriving DecidableEq, Repr

end Sys2Proof.Machine
end

