-- ==== Sys2Proof/Machine/StMirror.lean ====
section
/-! DEFINITION. The state of the Mirror engine: lanes, role, forwarding, switch-over, divergence check, synchronisation
(13_mirror_redundancy.md). -/

namespace Sys2Proof.Machine

/-- Roles (R332). `starting` is a module whose role is not yet decided. -/
inductive Role where
  | alone | syncing | active | standby
deriving DecidableEq, Repr

/-- Commands of the Mirror lanes (R341). -/
inductive MirCode where
  | handover | request | live | aioLive | diverge | checkResult | refuse
deriving DecidableEq, Repr

/-- One lane (R337, R362). -/
structure Lane where
  eyeH   : Nat := 0
  eyeV   : Nat := 0
  lock   : Bool := false
  hb     : Bool := false
  up     : Bool := false
  crcN   : Nat := 0
  hbMiss : Nat := 0
  hbseq  : Nat := 0              -- HBSEQ of the next heartbeat sent
  gapUs  : Nat := 0              -- µs since the last heartbeat; from 51 on it counts modulo 10
deriving DecidableEq, Repr

/-- A mirrored descriptor that waits for its acknowledgement on the active (R71). `data` are the bytes read for it. -/
structure FwdDesc where
  fwdseq : Nat
  count  : Nat                   -- scan number or period count of R71
  no     : Nat                   -- flight number
  bytes  : List Byte             -- the 32-byte descriptor
  data   : List Byte
  secure : Bool
deriving DecidableEq, Repr

/-- Where a decided switch-over stands (R352): on the old active, HANDOVER sent and LIVE awaited, then AIO_LIVE awaited; on
the new active, waiting for the scans of the old one, then driving and waiting for its outputs, then for its
transmitters; a standby that has sent REQUEST. -/
inductive Swo where
  | none | oldWait | oldAio | newScans | newOutputs | newAio | requested
deriving DecidableEq, Repr

/-- A divergence check in progress (R356): engine code, the own result and the partner's. -/
structure DivCheck where
  engine : Nat
  own    : Option Bool := none   -- failed
  peer   : Option Bool := none
deriving DecidableEq, Repr

/-- A signature (R343). -/
structure Sig where
  isTask : Bool
  engine : Nat
  num    : Nat
  crc    : Nat
deriving DecidableEq, Repr

/-- A command sent and not yet answered (R341): code, ARG, sequence number, copies sent. -/
structure CmdOut where
  code : MirCode
  arg  : Nat
  seq  : Nat
  sent : Nat := 1
deriving DecidableEq, Repr

/-- The Mirror engine. -/
structure Mirror where
  role      : Role := .alone
  decided   : Bool := false            -- a role has been decided
  lastDec   : Nat := 0
  syncph    : Nat := 0
  peerSyncph : Nat := 0
  detached  : Bool := false
  pdet      : Bool := false            -- DETACHED as the partner shows it, or is taken to show it
  lossUs    : Option Nat := none       -- µs since both lanes went down with the partner's alive line high (R355)
  hbUs      : Nat := 0                 -- µs since the last heartbeat on either lane, up to 1,000 (R360)
  lowUs     : Nat := 0                 -- µs that the partner's alive line has been low, up to 1,000 (R360)
  palive    : Bool := false
  oalive    : Bool := false
  extWait   : Bool := false            -- the EXT_DRIVE checks have not started since the module became active (R221)
  prole     : Nat := 0
  pslot     : Nat := 0
  phealthy  : Bool := true
  pheard    : Bool := false            -- a heartbeat has arrived since the lanes were last both lost
  healthy   : Bool := true
  joinEn    : Bool := true
  lanes     : Vector Lane 2 := Vector.replicate 2 {}
  lag       : Nat := 0
  lagMax    : Nat := 0
  divOut    : Nat := 0
  divEng    : Nat := 0
  divCount  : Nat := 0
  swoCause  : Nat := 0
  swoGap    : Nat := 0
  swcnt     : Nat := 0
  syncMs    : Nat := 0
  abortN    : Nat := 0
  lost      : Nat := 0
  late      : Nat := 0
  wait      : Nat := 0
  pimage    : Nat := 0
  pser      : Nat := 0
  swo       : Swo := .none
  swoCode   : Nat := 0
  swoReset  : Bool := false            -- the old active warm-resets after it has handed over (code 2)
  again     : Option (Nat × Bool) := none   -- a decision refused during a swap, taken again after it (R357)
  plife     : Option Nat := none       -- the partner's life-cycle state, from HELLO (R401)
  cmds      : List CmdOut := []        -- commands that are repeated
  cmdSeq    : Nat := 0                 -- sequence number of the last command sent
  peerCmds  : List Nat := []           -- sequence numbers of the commands received, the newest first, at most 128
  roleNo    : Option Nat := none       -- MIR_ROLE descriptor that waits for an answer
  fseqOut   : Nat := 0                 -- FSEQ of the next frame sent
  fseqIn    : Option Nat := none       -- FSEQ expected next
  txQ       : List (Nat × List Byte) := []   -- frames waiting to be sent: FTYPE and body (R342)
  txRoom    : Nat := 156               -- blocks that the lanes still carry in this microsecond
  tbOfs     : Word := 0                -- the fixed offset of T_s to the own time base (R349)
  pts       : SMap Word := []          -- mirror point store
  fwdseq    : Nat := 0                 -- FWDSEQ of the next descriptor forwarded
  fwdWait   : List FwdDesc := []       -- active: waiting for FWD_ACK
  latches   : List (LatchFrame × SMap Word) := []   -- standby: LATCH frames whose engine still executes, with the Weft gathered
  gotLatch  : Vector Nat 8 := Vector.replicate 8 0     -- standby: scan number of the last LATCH received
  ownSig    : List Sig := []           -- own signatures that wait for the partner's
  peerSig   : List Sig := []           -- partner's signatures that wait for the own
  lastPub   : Vector Nat 8 := Vector.replicate 8 0     -- standby: scan of the active's last SIGNATURE per task
  lateRun   : Vector Nat 4 := Vector.replicate 4 0     -- consecutive periods with a late SAMPLE
  lateNow   : Vector (List Nat) 4 := Vector.replicate 4 []   -- periods with a late SAMPLE whose end has not been judged
  samples   : List SampleFrame := []   -- standby: SAMPLE frames received and not yet used
  div       : Option DivCheck := none
  noCompare : List Nat := []           -- engine codes whose signatures are not compared (R129, R351)
  matched   : SMap Nat := []           -- consecutive signatures matched in phase 5, by engine code
  syncBuf   : SMap (List Byte) := []   -- SYNC_DATA segments received in this phase, by offset
  syncSent  : SMap (List Byte) := []   -- segments sent in this phase, by offset
  syncReq   : SMap Nat := []           -- requests made for a lost segment, by offset
  synced    : Bool := false            -- synchronisation under way
  syncHold  : Bool := false            -- abandoned: starts again after 1 s (R358)
  syncDue   : List Nat := []           -- phase 4, active: engine codes whose state is still to be sent
  early     : List Instr := []         -- phase 4, partner: frames of the high class that came before the phase ended
  aliveUs   : Nat := 0                 -- µs since the charge pump was last refreshed
deriving DecidableEq, Repr

end Sys2Proof.Machine
end

