-- ==== Sys2Proof/Machine/StNet.lean ====
section
/-! DEFINITION. The state of the CAN FD channels (10_can_fd_channels.md), the Ethernet switch and the time unit
(11_ethernet_and_vessel_time.md). -/

namespace Sys2Proof.Machine

/-! ## CAN -/

/-- Bit timing of one phase (R253). -/
structure CanTiming where
  brp  : Nat := 0
  prop : Nat := 0
  ph1  : Nat := 0
  ph2  : Nat := 0
  sjw  : Nat := 0
deriving DecidableEq, Repr

/-- A CAN port configuration block (R275). -/
structure CanCfg where
  fdEn     : Bool := false
  term     : Bool := false
  boAuto   : Bool := false
  svcStart : Bool := false
  tdcEn    : Bool := false
  wakeSel  : Bool := false
  nom      : CanTiming := {}
  dat      : CanTiming := {}
  tdco     : Nat := 0
  wakeDlc  : Nat := 0
  wakeId   : Nat := 0
  wakeMask : Nat := 0
  wakeData : List Byte := []
  statusPt : Nat := 0xFFFF
deriving DecidableEq, Repr

/-- Channel states (R257), with the state code of CAN_STATn. -/
inductive CanSt where
  | off | startup | service | test | recovery | listen | sleepEntry | sleep | wake
deriving DecidableEq, Repr

/-- One filter entry (R262) with its timeout state: VPT's value, and whether the timeout has run out since the last match. -/
structure CanFilt where
  id    : Nat := 0
  mask  : Nat := 0
  ide   : Bool := false
  fd    : Bool := false
  cls   : Bool := false
  pos   : Nat := 0
  bits  : Nat := 1
  sgn   : Bool := false
  be    : Bool := false
  shift : Nat := 0
  pt    : Nat := 0
  vpt   : Nat := 0xFFFF
  tmo   : Nat := 0
  timed : Bool := false                  -- TMO has run out since the last match
deriving DecidableEq, Repr

/-- A received frame as its record holds it (R261). -/
structure CanRx where
  stamp : Stamp
  frame : CanFrame
  echo  : Bool := false
  woke  : Bool := false
deriving DecidableEq, Repr

/-- A requested change of state: the state, the waiting descriptor, and its cancel bit (R258, R268). -/
structure CanReq where
  want   : CanSt
  no     : Option Nat
  cancel : Bool := false
deriving DecidableEq, Repr

/-- One CAN channel. -/
structure Can where
  live     : Bool := false
  cfg      : CanCfg := {}
  next     : Option CanCfg := none       -- a timing change that waits for the attempt in progress (R276)
  st       : CanSt := .off
  integ    : Bool := false               -- waits for 11 recessive bits
  integTo  : CanSt := .startup           -- the state entered then
  leaving  : Bool := false               -- leaves LISTEN for that state at the next bus idle (R274)
  prev     : CanSt := .startup           -- the state before a sleep request or bus-off
  req      : Option CanReq := none       -- a request under way (R259)
  held     : Option CanReq := none       -- a request held under R258
  wakeDue  : Bool := false               -- the bus has woken the channel during SLEEP_ENTRY (R273)
  busOff   : Bool := false
  recov    : Bool := false               -- bus-off recovery runs
  passive  : Bool := false
  tec      : Nat := 0
  rec_     : Nat := 0
  lec      : Nat := 0
  lonely   : Bool := false
  ackRun   : Nat := 0
  tx       : List CanFrame := []         -- at most 64
  onBus    : Bool := false               -- an attempt of the head frame is on the bus
  txStamp  : Stamp := {}                 -- vessel time at its start of frame
  recHead  : Bool := false               -- in RECOVERY: the frame that was at the head then is still there (R257)
  cancel   : List (Option Nat) := []     -- cancels that wait for the attempt, each with its descriptor
  rx       : List CanRx := []            -- at most 512
  rxLoss   : Bool := false               -- the next record carries LOSS
  rxN      : Nat := 0
  txN      : Nat := 0
  rxLost   : Nat := 0
  txDrop   : Nat := 0
  cancelN  : Nat := 0
  tdcv     : Nat := 0
  filt     : List CanFilt := []
  shortN   : Nat := 0
  matchN   : Nat := 0
  lastStat : Nat := 0
  recorded : CanSt := .startup           -- state recorded while SYNCING or STANDBY (R274)
deriving DecidableEq, Repr

/-! ## Ethernet and time -/

/-- A pending two-step Sync (R285): key and residence time in ns. -/
structure TwoStep where
  source : BitVec 80
  domain : Nat
  seqId  : BitVec 16
  res    : Nat
deriving DecidableEq, Repr

/-- A frame in an egress queue (R281): the port it came in at, and its ingress timestamp on the residence counter in ns (R284, R287). -/
structure EthWait where
  frame   : EthFrame
  from_   : Fin 2
  ingress : Nat
deriving DecidableEq, Repr

/-- The timestamp of a Sync that reached the internal port (R290, R291): t2 in ns and its correctionField in units of 2^-16 ns. -/
structure RxStamp where
  port   : Fin 2
  domain : Nat
  source : BitVec 80
  seqId  : BitVec 16
  t2     : Int
  corr   : Int
deriving DecidableEq, Repr

/-- One external port. `high` and `low` are its egress queues, the oldest frame first; together they hold at most 64 KiB (R281). -/
structure EthPort where
  speed   : Nat := 0                -- ETH_PSTATn.SPEED
  errN    : Nat := 0
  qdrop   : Nat := 0
  high    : List EthWait := []
  low     : List EthWait := []
  left    : Nat := 0                -- bits still to go of the frame that is leaving, with preamble and gap
  pending : List TwoStep := []      -- at most 32
deriving DecidableEq, Repr

/-- The switch. `learned` lists the source addresses and their ports, at most 1,024. -/
structure Eth where
  tcEn      : Bool := true
  allow100  : Bool := true
  portEn    : Nat := 3
  swmode    : Bool := false
  ports     : Vector EthPort 2 := Vector.replicate 2 {}
  learned   : List (BitVec 48 × Fin 2) := []
  unmatched : Nat := 0
  v6N       : Nat := 0
  resMax    : Nat := 0
  mac       : BitVec 48 := 0
  ipv4      : Word := 0
deriving DecidableEq, Repr

/-- Servo states (R292). -/
inductive Servo where
  | freerun | acquiring | locked | holdover
deriving DecidableEq, Repr

/-- A clock value: seconds, nanoseconds, 2^-32 ns. -/
structure Clock where
  sec  : Nat := 0
  ns   : Nat := 0
  frac : Nat := 0
deriving DecidableEq, Repr

/-- A follower of the local clock (R295): its value and the trim it last received; `hist` lists its jumps at updates of the last 100 ms, each
with the time since it in ns, for a stamp whose instant lies before one (R289). -/
structure Follower where
  clk    : Clock := {}
  addend : Int := 0
  hist   : List (Nat × Int) := []
deriving DecidableEq, Repr

/-- The best master on one port (R291). -/
structure Master where
  port : Fin 2
  ann  : Announce
deriving DecidableEq, Repr

/-- The time unit and HK0's servo. `i` is the integral term in ppb. -/
structure Tim where
  clk     : Clock := {}
  addend  : Int := 0
  domain  : Nat := 0
  udp4    : Bool := true
  l2      : Bool := true
  auto    : Bool := true
  servo   : Servo := .freerun
  snap    : Clock := {}
  offs    : Int := 0
  mpd     : Rat := 0
  holdMax : Nat := 60
  tau     : Nat := 4
  stepThr : Nat := 10
  utcV    : Bool := false
  utcOfs  : Int := 0
  gmid    : BitVec 64 := 0
  i       : Rat := 0
  run16   : Nat := 0                 -- consecutive Syncs with |offset| < 1 µs
  masters : List Master := []        -- Announce datasets heard, one per port and source
  master  : Option Master := none    -- the chosen master
  rx      : List RxStamp := []       -- the last Sync that came in per port and source
  sync    : Option Rat := none       -- (t2 − t1) − c_s of the last Sync of the chosen master
  t3      : Option Int := none       -- egress time of the Delay_Req in hand
  reqSeq  : BitVec 16 := 0           -- sequenceId of the last Delay_Req
  res     : Clock := {}              -- the residence counter (R287)
  steps   : List (Nat × Int) := []   -- the steps of the local clock in the last second: the residence counter, in ns, then, and the step (R289)
  ds      : List Rat := []           -- the last 16 values of d
  reqInt  : Int := 0                 -- logMinDelayReqInterval
  field   : Follower := {}
  can     : Follower := {}
  hk      : Follower := {}
  fabric  : Follower := {}
deriving DecidableEq, Repr

end Sys2Proof.Machine
end

