-- ==== Sys2Proof/Machine/StPower.lean ====
section
/-! DEFINITION. The state of the front panel (17_front_panel_display.md), of power, self-test and recovery
(18_power_start_up_and_recovery.md), of the identity block (19_setup_register_map.md) and of the sideband and indicators
(20_electrical_mechanical_environmental.md). -/

namespace Sys2Proof.Machine

/-! ## Front panel -/

/-- What the panel driver does (R426, R429, R434, R435): stopped with its pixels at common; running compensation; waiting
for the ledger write; in field A; in field B. -/
inductive PanPhase where
  | blank | comp | ledger | fieldA | fieldB
deriving DecidableEq, Repr

/-- The panel driver. A frame is its list of dark pixels' numbers, rising. -/
structure Pan where
  rate     : Nat := 60
  host     : Bool := false
  phase    : PanPhase := .blank
  effRate  : Nat := 0
  band     : Nat := 0
  nextBand : Nat := 0
  fcnt     : Nat := 0
  temp     : Int := 0
  crcN     : Nat := 0
  satN     : Nat := 0
  nz       : Nat := 0
  cmax     : Nat := 0
  compN    : Nat := 0                 -- compensation fields run at this start
  shown    : List Nat := []           -- the pixels of the frame on the panel
  store    : List Byte := []          -- the host frame store in bank 15 (R430)
  fmem     : List Byte := []          -- the driver's frame memory as HK1 has filled it from the store (R430)
  fcrc     : Nat := 0                 -- the CRC-32 that HK1 has passed with it
  stored   : Bool := false
  due      : Option Nat := none       -- PANEL_FRAME that waits for the commit
  compA    : Bool := false            -- the next compensation field is of polarity A
  ledger   : SMap Int := []           -- MRAM: pixels whose L is not 0
  ledNext  : SMap Int := []           -- the ledger of the write in progress
deriving DecidableEq, Repr

/-! ## Power -/

/-- PWR_STAT.PHASE (R462); `off` is a module with no power-good or switched off. -/
inductive Phase where
  | start | startBist | run | shutdown | halt
deriving DecidableEq, Repr

/-- A unit's record in MRAM (R445). -/
structure UnitRec where
  result : Nat := 0       -- 0 none, 1 pass, 2 fail, 3 aborted
  at_    : Nat := 0       -- PWR_AGE at the test
  clean  : Bool := true   -- no fault found since
deriving DecidableEq, Repr

/-- What a test in progress belongs to (R443, R448, R451). -/
inductive TestFor where
  | startUp | shutdown (restart : Bool) | direct
deriving DecidableEq, Repr

/-- Power, self-test, recovery. -/
structure Pwr where
  up       : Bool := false            -- power-good has been declared since the last power-up
  pfw      : Bool := false
  phase    : Phase := .start
  pd       : BitVec 12 := 0x003
  run      : BitVec 12 := 0x001
  aonRc    : Bool := false
  feed0    : Nat := 0
  feed1    : Nat := 0
  lost0    : Bool := false
  lost1    : Bool := false
  load     : Nat := 0
  loadMax  : Nat := 0
  warmN    : Nat := 0
  cause    : Nat := 0                 -- MRAM
  group    : Nat := 0                 -- MRAM
  err      : Nat := 0
  friN     : Nat := 0
  friGroup : Nat := 0
  age      : Nat := 0                 -- MRAM: operating time, s
  ageUs    : Nat := 0                 -- µs below one second
  tsel     : Nat := 0
  trec     : Nat := 0
  rollEn   : Bool := false
  rollBank : Nat := 0
  units    : SMap UnitRec := []       -- MRAM, by unit code
  todo     : List Nat := []           -- MRAM: units that a shutdown cut short has left untested (R450)
  stage    : Option Nat := none       -- µs since step 2 of a start-up that still switches domains on (R443)
  testing  : List Nat := []           -- units still to be tested, the first under test
  testFor  : Option TestFor := none
  bctl     : Nat := 0                 -- BST_CTRL.UNIT
  bRes     : Nat := 0
  bUnit    : Nat := 0
  warmAt   : List Nat := []           -- PWR_AGE at the last warm resets
  friAt    : SMap Nat := []           -- PWR_AGE at the last function reinitialisation of a group
  shutReq  : Option (Bool × Bool) := none    -- a shutdown that waits for the switch-over: restart, FORCE
  uptime   : Nat := 0
  upUs     : Nat := 0
  loaded   : Bool := false            -- steps 11 to 13 of start-up are done
  late     : List (Nat × Nat × Int) := []    -- MRAM: events to raise at the next start
  link     : Bool := false            -- the host link has trained since power-good (R443 step 10)
  off      : Bool := false            -- switched off by OP 3, or waiting for a power-up
  outFault : List Nat := []           -- units held out of service (R446)
  noted    : Bool := false            -- MRAM: a cause has been recorded for the next start (R441, R459)
  reinit   : SMap Nat := []           -- fence groups that the ladder has still to act on: µs left (R454)
deriving DecidableEq, Repr

/-! ## Identity, sideband, indicators -/

/-- The three variants. -/
inductive Variant where
  | hz9248 | hz9240 | hz9232
deriving DecidableEq, Repr

/-- Fixed in manufacture, or firmware's (R2, R469). -/
structure Ident where
  variant : Variant := .hz9248
  board   : Nat := 0
  chip    : Nat := 0
  serial  : BitVec 64 := 0
  fw      : Word := 0
deriving DecidableEq, Repr

/-- What the service port shows of itself on the USB (R402). -/
structure UsbDevice where
  vendor     : Nat
  product    : Nat
  bcdDevice  : Nat
  serial     : List Byte     -- the characters of iSerialNumber
  attributes : Nat           -- bmAttributes of the one configuration
  maxPower   : Nat           -- bMaxPower, in 2 mA
  class_     : Nat           -- class, subclass and protocol of the one interface
  subclass   : Nat
  protocol   : Nat
  bulkOut    : Nat           -- endpoint addresses, and their packet sizes at high and at full speed
  bulkIn     : Nat
  packetHigh : Nat
  packetFull : Nat
deriving DecidableEq, Repr

/-- The carrier's sideband (R481 to R483) and the front panel indicators (R489). -/
structure Side where
  slot    : Fin 2 := 0
  resetN  : Bool := true            -- RESET_N high: not held in reset
  vioOk   : Bool := true            -- VIO_AUX within its range
  lit     : Bool := false           -- the indicator test of the first 500 ms
deriving DecidableEq, Repr

end Sys2Proof.Machine
end

