-- ==== Sys2Proof/Machine/StPrism.lean ====
section
/-! DEFINITION. The state of the Prism engines (06_prism_loop_engines.md, 07_prism_compensation_and_supervision.md). Loop
data are exact integers: Q1.31 values in units of 2^-31, the integrator in units of 2^-62. -/

namespace Sys2Proof.Machine

/-- A source field of a loop configuration block (R170). -/
structure SrcCfg where
  kind  : Nat := 0
  sh    : Nat := 0
  index : Nat := 0
  scale : Int := 0
deriving DecidableEq, Repr

/-- The sink fields, bytes 48 to 79 of a loop configuration block (R174, R176, R177). -/
structure SinkCfg where
  kind     : Nat := 0
  sh       : Nat := 0
  index    : Nat := 0
  scale    : Int := 0
  offset   : Int := 0
  canIdent : Nat := 0
  canFlags : Nat := 0
  canLen   : Nat := 0
  canPos   : Nat := 0
  canDiv   : Nat := 1
  statusPt : Nat := 0xFFFF
  canFill  : List Byte := []
deriving DecidableEq, Repr

/-- A coefficient: the gain `k` × 2^-`sh`. -/
structure Coef where
  k  : Int := 0
  sh : Nat := 0
deriving DecidableEq, Repr

/-- A loop configuration block (R179, R187). -/
structure LoopSet where
  wrap     : Bool := false
  crit     : Bool := false
  fricEn   : Bool := false
  cogEn    : Bool := false
  feEn     : Bool := false
  autoEn   : Bool := false
  srcs     : Vector SrcCfg 5 := Vector.replicate 5 {}
  sink     : SinkCfg := {}
  kp       : Coef := {}
  ki       : Coef := {}
  kd       : Coef := {}
  ka       : Coef := {}
  kb       : Coef := {}
  kc       : Coef := {}
  kt       : Coef := {}
  kr       : Coef := {}
  kx       : Coef := {}
  umin     : Int := 0
  umax     : Int := 0
  slew     : Int := 0
  bias     : Int := 0
  rampUp   : Int := 1
  rampStop : Int := 0
  hoLimit  : Int := 0
  hoRate   : Int := 1
  feLimit  : Int := 0
  feTime   : Nat := 0
  trip     : Fin 4 := 0
  fricK    : Coef := {}
  failOut  : Int := 0
  tripPt   : Nat := 0xFFFF
  fricShv  : Nat := 0
  fricDb   : Int := 0
  cogK     : Coef := {}
  cogCnt   : Nat := 0
  cogOfs   : Int := 0
deriving DecidableEq, Repr

/-- RUN of PE_SSTAT (R182). -/
inductive RunSt where
  | disabled | starting | running | stopping | tripped
deriving DecidableEq, Repr

/-- A descriptor accepted for a slot that takes effect at a period boundary (R181). -/
inductive SlotCmd where
  | cfg (setB : Bool) (c : LoopSet)
  | ctrl (code : Nat) (m : Int) (at_ : RunSt)
  | table (cog : Bool) (e : List Int)
  | test (u : Option Int)
deriving DecidableEq, Repr

/-- A pending command and the first period count it applies to. -/
structure SlotPend where
  eff : Nat
  cmd : SlotCmd
deriving DecidableEq, Repr

/-- One computation of a slot between its sample instant and its output instant (R165): the period it was sampled in, the
commands that take effect with it, the sources named, the raw values returned, and after its window what is released. -/
structure Comp where
  pc     : Nat
  cmds   : List SlotCmd := []
  srcs   : Vector SrcCfg 5 := Vector.replicate 5 {}
  got    : Vector (Option Int) 5 := Vector.replicate 5 none
  pts    : Vector Int 5 := Vector.replicate 5 0    -- the point store values at the sample instant (R170 kind 1)
  encs   : Vector (Option Enc) 5 := Vector.replicate 5 none   -- the encoder port as it stood then (R245, R246)
  fwd    : Vector Bool 5 := Vector.replicate 5 false    -- the source returned the last forwarded value as its own (R238)
  tear   : Bool := false          -- no computation: the fail output after DESTROY (R182)
  run    : Nat := 0               -- RUN, for the signature
  done   : Bool := false
  active : Bool := false          -- the slot was not DISABLED: an output is released
  u      : Int := 0
  y      : Int := 0
  r      : Int := 0
  status : Nat := 0
  trip   : Option Bool := none    -- the value for TRIP_PT
  sink   : SinkCfg := {}
  tripPt : Nat := 0xFFFF
deriving DecidableEq, Repr

/-- One loop slot. -/
structure Slot where
  live     : Bool := false         -- a loop slot channel names it
  setA     : LoopSet := {}
  setB     : LoopSet := {}
  selB     : Bool := false
  manual   : Bool := false
  run      : RunSt := .disabled
  m        : Int := 0
  i        : Int := 0
  d        : Int := 0
  act      : Fin 4 := 0            -- the trip action that holds while TRIPPED
  recSet   : Option Bool := none   -- recorded for the next enable (R202)
  recMode  : Option (Bool × Int) := none
  sampled  : Option Nat := none    -- the period last sampled
  vPrev    : Int := 0
  uPrev    : Int := 0
  r        : Int := 0
  ho       : Bool := false
  fe       : Bool := false
  feCnt    : Nat := 0
  hand     : Bool := false         -- a handover is due in the next computation (R194)
  startR   : Bool := false         -- that handover starts the set-point at y (R196)
  last     : Vector Int 5 := Vector.replicate 5 0
  fwdV     : Vector (Option Int) 5 := Vector.replicate 5 none   -- the converted values last forwarded, until the module captures its own
  staleRun : Vector Nat 5 := Vector.replicate 5 0
  fric     : Int := 0
  cog      : Int := 0
  satN     : Nat := 0
  staleN   : Nat := 0
  sat      : Bool := false
  lim      : Bool := false
  stale    : Bool := false
  y        : Int := 0
  u        : Int := 0
  pc       : Nat := 0
  hasRun   : Bool := false
  tripOn   : Bool := false         -- TRIP_PT was last delivered 1
  comps    : List Comp := []
  pend     : List SlotPend := []
  fricTab  : List Int := []        -- 256 entries, or none
  cogTab   : List Int := []
  outU     : Int := 0              -- the output last released to the sink
  test     : Option Int := none    -- TEST_U while a brake test overrides the output (R318)
  tearAt   : Option Nat := none    -- DESTROY: the slot disables at the end of this period
deriving DecidableEq, Repr

/-- PE_STATn.STATE (R185). -/
inductive PeState where
  | idle | run | test | fault
deriving DecidableEq, Repr

/-- One Prism engine. -/
structure Prism where
  state   : PeState := .idle
  fcause  : Nat := 0
  nslot   : Nat := 0
  perU    : Nat := 0
  pcnt    : Nat := 0
  sat     : Nat := 0
  stale   : Nat := 0
  slots   : Vector Slot 64 := Vector.replicate 64 {}
  offAt   : Option Nat := none            -- the partner's engine has failed: the period count at which the slots are disabled (R184)
  sigCrc  : Nat := 0
  sigOut  : List (Nat × Nat × Nat × Int) := []   -- for the signature (R29): period, slot, RUN, u of outputs released
deriving DecidableEq, Repr

/-- The slot window (R186). -/
structure SlotWin where
  loop  : Nat := 0
  valid : Bool := false
  sstat : Nat := 0
  y     : Int := 0
  r     : Int := 0
  u     : Int := 0
  i     : Int := 0
  scnt  : Nat := 0
deriving DecidableEq, Repr

end Sys2Proof.Machine
end

