-- ==== Sys2Proof/Machine/StShuttle.lean ====
section
/-! DEFINITION. The state of the Shuttle: ring pairs, the descriptors in the module, the secure session, the handle table
(02_shuttle_host_interface.md). -/

namespace Sys2Proof.Machine

/-- A 32-byte descriptor (R46). -/
structure Desc where
  op     : Nat := 0
  flags  : Nat := 0
  tag    : Nat := 0
  handle : Nat := 0
  arg0   : Nat := 0
  addr   : Nat := 0
  arg1   : Nat := 0
  arg2   : Nat := 0
  arg3   : Nat := 0
deriving DecidableEq, Repr

/-- Where a fetched descriptor stands: in HK0's queue, started, or completed with its completion not yet written. -/
inductive FlightSt where
  | queued | started | done
deriving DecidableEq, Repr

/-- A descriptor that the module has fetched and not yet completed (R43, INFLIGHT). `no` numbers the fetches. -/
structure Flight where
  no   : Nat
  ring : Fin 64
  desc : Desc
  st   : FlightSt := .queued
  cflags : Nat := 0                           -- MIRRORED, once the partner has acknowledged (R71)
  poison : Bool := false                      -- its words reached HK0 poisoned, or with a parity failure (R377)
  peer : Option (Nat × Option Nat) := none    -- the partner's status, and its result where both must agree (R59)
deriving DecidableEq, Repr

/-- A completion that waits to be written (R47, R49). EPOCH, SQ_HEAD and PHASE are taken when it is written. -/
structure Completion where
  no     : Nat
  tag    : Nat
  handle : Nat
  status : Nat
  result : Nat
  cflags : Nat
  irq    : Bool
deriving DecidableEq, Repr

/-- SHU_RP_STAT.STATE (R43). -/
inductive RingState where
  | disabled | running | halted | stopped
deriving DecidableEq, Repr

/-- One ring pair (R41 to R45). -/
structure Ring where
  state   : RingState := .disabled
  fault   : Bool := false
  cause   : Nat := 0
  sqTail  : Nat := 0
  sqHead  : Nat := 0
  cqHead  : Nat := 0
  cqTail  : Nat := 0
  cqUsed  : Nat := 0        -- completions written and not released (tells full from empty, R49)
  phase   : Bool := true    -- PHASE of the next completion (R48)
  sqBase  : Nat := 0
  cqBase  : Nat := 0
  irqMod  : Nat := 0
  cqLog2  : Nat := 4
  sqLog2  : Nat := 4
  waiting : List Completion := []
  modRun  : Bool := false   -- an IRQ_MOD interval runs (R53)
  modPend : Bool := false   -- a message waits for its end
deriving DecidableEq, Repr

/-- SHU_SESS_CTRL.STATE (R73). -/
inductive SessState where
  | idle | challenged | open | locked
deriving DecidableEq, Repr

/-- The secure session (R36, R37). -/
structure Session where
  state    : SessState := .idle
  count    : Nat := 0            -- MRAM
  lastFail : Bool := false
  nonce    : BitVec 128 := 0
  resp     : BitVec 256 := 0
  checking : Bool := false
  fails    : Nat := 0            -- MRAM: failures in a row
  lockUs   : Nat := 0            -- MRAM: lock time remaining
deriving DecidableEq, Repr

/-- The state of a handle index (R60). -/
inductive HState where
  | free | live | destroying
deriving DecidableEq, Repr

/-- One entry of the handle table (R60, R63): kind, target, generation, state, the CRC-32 of the configuration in force,
the world of the creator (R66), and the descriptors that create it in the configuration store. -/
structure HEntry where
  kind   : Nat := 0
  target : Nat := 0
  gen    : Nat := 0
  st     : HState := .free
  crc    : Nat := 0
  secure : Bool := false
deriving DecidableEq, Repr

/-- A buffer posted to a stream (R66): the descriptor that posted it and the bytes written into it so far. -/
structure PostedBuf where
  no   : Nat
  addr : Nat
  len  : Nat
  used : Nat := 0
deriving DecidableEq, Repr

/-- A stream channel (R62 kind 7): its posted buffers in order, the records dropped, and whether the next record carries
LOSS. -/
structure Stream where
  bufs    : List PostedBuf := []
  dropped : Nat := 0
  loss    : Bool := false
  seq     : Nat := 0
deriving DecidableEq, Repr

/-- An entry of an MSI-X table (R32, R33; its layout is that of the PCI Express standard, assumption log 135). -/
structure MsixEnt where
  addr : Nat := 0
  data : Nat := 0
  mask : Bool := true
deriving DecidableEq, Repr

/-- The Shuttle and HK0's tables. -/
structure Shuttle where
  rings     : Vector Ring 64 := Vector.replicate 64 {}
  rpsec     : BitVec 64 := 0xFF00000000000000      -- SHU_RPSEC_HI, SHU_RPSEC_LO
  lastRing  : Fin 64 := 63                          -- the ring pair last served (R52; DESIGN CHOICE, log 158)
  flights   : List Flight := []                     -- in the order of fetch
  nextNo    : Nat := 1                              -- flight number 0 stands for none
  sess      : Session := {}
  lcChg     : Bool := false
  rpStop    : Bool := false
  epochChg  : Bool := false
  ready     : Bool := false
  resets    : Nat := 1                              -- SHU_EPOCH [31:16], MRAM
  roles     : Nat := 0                              -- SHU_EPOCH [15:0]
  handles   : SMap HEntry := []
  msixTab   : SMap MsixEnt := []                    -- by 65 x function + vector
  msixPend  : Vector (BitVec 65) 2 := Vector.replicate 2 0   -- the pending-bit array of each function
  barAddr   : SMap Nat := []                        -- BAR bases, by 3 x function + BAR / 2
  aer       : Vector Word 2 := Vector.replicate 2 0 -- uncorrectable error status of each function (R33)
  streams   : SMap Stream := []                     -- by handle index
deriving DecidableEq, Repr

end Sys2Proof.Machine
end

