-- ==== Sys2Proof/Machine/State.lean ====
section
/-! DEFINITION. The state of the module: every block's state, the raw bytes of the module's memories, the commands that wait,
and what has left the module. The state right after reset. -/

namespace Sys2Proof.Machine

/-- What leaves the module. `State.out` lists it, the newest first. -/
inductive Output where
  /-- Data written to host memory (R40, R46). -/
  | hostWrite (addr : Nat) (bytes : List Byte)
  /-- A 16-byte completion written at a host address (R47, R48). -/
  | completion (ring : Fin 64) (addr : Nat) (bytes : List Byte)
  /-- An MSI-X message (R33, R53, R54): the function, the vector, and the address and data of its table entry. -/
  | msix (fn : Func) (vector : Nat) (addr data : Nat)
  /-- The answer of a register or ring page read. -/
  | regData (fn : Func) (off : Nat) (value : Nat)
  /-- An access that is never answered (R386). -/
  | noAnswer (fn : Func) (off : Nat)
  /-- A read completed with Completer Abort (R465). -/
  | abort (fn : Func) (off : Nat)
  /-- A control block sent on a Mirror lane (R338): its 8 bytes. -/
  | block (lane : Fin 2) (bytes : List Byte)
  /-- A Mirror frame, sent on both lanes (R338, R342): its START, data and END blocks, each with its sync header (true: control). -/
  | frame (blocks : List (Bool × List Byte))
  /-- A CAN frame sent on a bus. -/
  | canFrame (ch : Fin 8) (f : CanFrame)
  /-- An Ethernet frame sent at an external port. -/
  | ethFrame (port : Fin 2) (f : EthFrame)
  /-- A Delay_Req of the module's own clock (R291): port and sequenceId. -/
  | delayReq (port : Fin 2) (seqId : BitVec 16)
  /-- An ARP reply (R282): the module's MAC and IPv4 address. -/
  | arpReply (port : Fin 2) (to_ mac : BitVec 48) (ip : Word)
  /-- The service port connects to the USB as a device (R402). -/
  | usbDevice (d : UsbDevice)
  /-- A response of the service port (R403). -/
  | usb (bytes : List Byte)
  /-- What the I²C port gives (R483); none where it does not answer. -/
  | i2c (bytes : Option (List Byte))
  /-- What a bank access returns (R363, R365): the bytes and the poison tag. -/
  | bankData (bytes : List Byte) (poison : Bool)
  /-- A request of a bank's old owner is returned to it while the bank's handover is pending (R367). -/
  | relinquished (master : Fin 18) (bank : Fin 24)
deriving DecidableEq, Repr

/-- Why a step stops with a fault. -/
inductive Fault where
  /-- Raised by BANK_ACCESS at an offset beyond the 2 MiB of its bank: R394 gives the module no such address. Safe: the
  manual gives such an access no effect. -/
  | noSuchAddress
deriving DecidableEq, Repr

/-- Why a command is refused. -/
inductive Refusal where
  /-- Raised by `exec` for a command that has no meaning yet: its mnemonic. Safe: nothing is claimed of it. -/
  | notModelled (mnemonic : String)
deriving DecidableEq, Repr

/-- The module. -/
structure State where
  ident   : Ident := {}
  mem     : List Host.Cell := []
  hub     : Hub := {}
  shu     : Shuttle := {}
  loom    : Vector Loom 8 := Vector.replicate 8 {}
  tbase   : Word := 0
  zor     : Zoros := {}
  prism   : Vector Prism 4 := Vector.replicate 4 {}
  win     : SlotWin := {}
  dbank   : Vector DioBank 4 := Vector.replicate 4 {}
  dio     : Vector DioCh 32 := Vector.replicate 32 {}
  aio     : Vector Aio 16 := Vector.replicate 16 {}
  enc     : Vector Enc 4 := Vector.replicate 4 {}
  can     : Vector Can 8 := Vector.replicate 8 {}
  eth     : Eth := {}
  tim     : Tim := {}
  brk     : Brk := {}
  mir     : Mirror := {}
  hed     : Hed := {}
  sec     : Sec := {}
  svc     : Svc := {}
  rcd     : Recorder := {}
  pan     : Pan := {}
  pwr     : Pwr := {}
  side    : Side := {}
  /-- Station parameters in force: code configurations of the recorder (R414). -/
  codes   : List CodeDef := []
  /-- What has left the module, the newest first (the model's own field). -/
  out     : List Output := []
  /-- The number of free values drawn so far (the model's own field). -/
  free    : Nat := 0
  /-- The commands that wait, first in first out. -/
  pending : List Instr := []
deriving DecidableEq, Repr

/-- The owners of the bank ports at reset (R22): port A of bank `n`. On the HZ-9232 banks 10 and 11 have none (R22, R370). -/
def resetOwner (v : Variant) (n : Nat) : Nat :=
  if v = .hz9232 && (n = 10 || n = 11) then 0x1F
  else if n < 12 then n else if n < 14 then 0x0C else if n < 16 then 0x0D else if n < 20 then 0x0F
  else if n < 22 then 0x1F else if n = 22 then 0x0E else 0x0C

/-- The bank heddles at reset (R22, R389). -/
def resetBanks (v : Variant) : Vector Bank 24 :=
  Vector.ofFn fun n => { owner := resetOwner v n.val, req := resetOwner v n.val, ownerB := if 22 ≤ n.val then 0x0F else 0 }

/-- The regions fixed by firmware (R394), in 4 KiB units. DESIGN CHOICE (assumption log 141): the order of the MRAM partitions from
0x8000_0000, the security state at the end of the configuration store, and the unit 0xFFFFF of BMP memory. -/
def resetRegions : SMap Region :=
  [(0, { base := 0x80F00, limit := 0x80F3F, lock := true, en := true, wrS := true, rdS := false }),
   (1, { base := 0x806FF, limit := 0x806FF, lock := true, en := true, wrS := true, rdS := true }),
   (2, { base := 0x80700, limit := 0x80EFF, lock := true, en := true, wrS := true, rdS := false }),
   (3, { base := 0x80F50, limit := 0x80F5F, lock := true, en := true, wrS := true, rdS := false }),
   (4, { base := 0x01F00, limit := 0x01FFF, lock := true, en := true, wrS := true, rdS := true }),
   (5, { base := 0x02C00, limit := 0x02DFF, lock := true, en := true, wrS := true, rdS := true }),
   (6, { base := 0xFFFFF, limit := 0xFFFFF, lock := true, en := true, wrS := true, rdS := true }),
   (7, { base := 0, limit := 0, lock := true, en := false, wrS := false, rdS := false })]

/-- The module right after reset, before power-good: PWR_STAT reads 0x003 and CLK_STAT 0x001 (R462). -/
def State.reset : State :=
  { hed := { banks := resetBanks ({} : Ident).variant }, sec := { regions := resetRegions } }

end Sys2Proof.Machine
end

