-- ==== Sys2Proof/Machine/Ops.lean ====
section
/-! DEFINITION. The named operations that every family shares: domains, memory, output, stamps and raises, the point hub,
completions and rings, Mirror frames. -/

namespace Sys2Proof.Machine

/-- A command's outcome when it runs: the next state. -/
abbrev Res := Host.Outcome State Fault Refusal

/-! ## Power domains and clocks (R19, R20, R386) -/

/-- Power domain PD`n` is on. -/
def pdOn (s : State) (n : Nat) : Bool := s.pwr.pd.getLsbD n

/-- The clock domain with CLK_STAT bit `d` runs (R462). -/
def clkOn (s : State) (d : Nat) : Bool := s.pwr.run.getLsbD d

/-- The Loom engine's domain is on and clocked (R473). -/
def loomOn (s : State) (n : Fin 8) : Bool := pdOn s (if n.val < 4 then 2 else 3) && clkOn s 1

/-- A Loom engine that reaches its bank, which lies in PD5 (R16, R22). -/
def loomUp (s : State) (n : Fin 8) : Bool := loomOn s n && pdOn s 5 && pdOn s 6 && clkOn s 2

/-- The Prism domain. -/
def prismOn (s : State) : Bool := pdOn s 4 && clkOn s 3

/-- The HK domain. -/
def hkOn (s : State) : Bool := pdOn s 1 && clkOn s 4

/-- The host link, up from 20 ms after power-good (R443). -/
def linkOn (s : State) : Bool := pdOn s 1 && clkOn s 0 && s.pwr.link

/-- The field I/O logic. -/
def fieldOn (s : State) : Bool := pdOn s 11 && clkOn s 9

/-- The encoder interfaces, unless a failed test holds their unit out of service (R446). -/
def encOn (s : State) : Bool := pdOn s 10 && clkOn s 9 && !(s.pwr.outFault.contains 0x12)

/-- The CAN controllers, unless their unit is held out of service. -/
def canOn (s : State) : Bool := pdOn s 10 && clkOn s 8 && !(s.pwr.outFault.contains 0x12)

/-- The Ethernet switch and time unit, unless their unit is held out of service. -/
def ethOn (s : State) : Bool := pdOn s 8 && clkOn s 6 && !(s.pwr.outFault.contains 0x11)

/-- The BMP. -/
def bmpOn (s : State) : Bool := pdOn s 11 && clkOn s 10

/-- The Mirror engine. -/
def meOn (s : State) : Bool := pdOn s 9 && clkOn s 7

/-- The bank fabric with the point hub and the crossbar. -/
def fabricOn (s : State) : Bool := pdOn s 6 && clkOn s 2

/-- The crossbar and a bank: banks 0 to 11 lie in PD5, the others and the crossbar in PD6 (R16). -/
def bankOn (s : State) (b : Nat) : Bool := fabricOn s && (12 ≤ b || pdOn s 5)

/-- A failed test holds the bank of Loom engine or Prism engine `g` (fence group) out of service (R22, R446). -/
def bankHeld (s : State) (g : Nat) : Bool := s.pwr.outFault.contains (0x20 + g)

/-- The DRAM controller. -/
def dramOn (s : State) : Bool := pdOn s 7 && clkOn s 5

/-- The panel driver. -/
def panOn (s : State) : Bool := pdOn s 10 && clkOn s 11

/-! ## Variants (R1 to R4) -/

/-- The number of Prism engines. -/
def prismCount (s : State) : Nat := if s.ident.variant = .hz9232 then 2 else 4

/-- The number of digital banks. -/
def bankCount (s : State) : Nat := if s.ident.variant = .hz9232 then 2 else 4

/-- The number of brake channels. -/
def brkCount (s : State) : Nat := if s.ident.variant = .hz9232 then 0 else 4

/-- Mirror lanes and Mirror engine present. -/
def mirPresent (s : State) : Bool := s.ident.variant = .hz9248

/-- ID_CAP (R3). -/
def idCap (v : Variant) : Nat :=
  match v with
  | .hz9248 => 0xE2420448
  | .hz9240 => 0xA2420448
  | .hz9232 => 0xA2410028

/-- A unit is under test at start-up or in a controlled shutdown; the tests of a shutdown wait for the tasks to stop (R104, R163, R445,
R448). -/
def underTest (s : State) (u : Nat) : Bool :=
  s.pwr.testing.head? = some u &&
    (s.pwr.phase = .startBist || (s.pwr.phase = .shutdown && s.loom.toList.all fun (e : Loom) => e.state ≠ .running))

/-! ## Memory (R394) -/

/-- The byte at a module address; a byte that nothing has written reads 0 (assumption log 2). -/
def memByte : List Host.Cell → Nat → Byte
  | [], _ => 0
  | (j, v) :: r, k => if j = k then v else if k < j then 0 else memByte r k

/-- Write a byte at a module address, in the canonical form: addresses rise and no entry is 0. -/
def memPut : List Host.Cell → Nat → Byte → List Host.Cell
  | [], k, v => if v = 0 then [] else [(k, v)]
  | (j, w) :: r, k, v =>
    if k < j then (if v = 0 then (j, w) :: r else (k, v) :: (j, w) :: r)
    else if j = k then (if v = 0 then r else (k, v) :: r)
    else (j, w) :: memPut r k v

/-- Write bytes from a module address upwards. -/
def memWrite (m : List Host.Cell) (a : Nat) : List Byte → List Host.Cell
  | [] => m
  | b :: r => memWrite (memPut m a b) (a + 1) r

/-- Read `n` bytes from a module address upwards. -/
def memRead (m : List Host.Cell) (a : Nat) : Nat → List Byte
  | 0 => []
  | n + 1 => memByte m a :: memRead m (a + 1) n

/-- The canonical form of memory: addresses strictly rise, and no entry is what an unlisted address reads as. -/
def Memory.wf : List Host.Cell → Bool
  | [] => true
  | [(_, v)] => v != 0
  | (j, v) :: (k, w) :: r => decide (j < k) && (v != 0) && Memory.wf ((k, w) :: r)

/-! ## Output and free values -/

/-- Something leaves the module. -/
def emit (o : Output) (s : State) : State := { s with out := o :: s.out }

/-- Count one free value drawn. -/
def drawn (s : State) : State := { s with free := s.free + 1 }

/-! ## Vessel time, raises (R294 to R296, R409) -/

/-- UNSYNC of a stamp (R294, R295). -/
def unsync (s : State) : Bool :=
  !(ethOn s) || !s.tim.auto || s.tim.servo = .freerun || s.tim.servo = .acquiring

/-- A stamp through a follower. -/
def stampOf (s : State) (f : Follower) : Stamp := { sec := f.clk.sec, ns := f.clk.ns, unsync := unsync s }

/-- The stamp of the HK domain. -/
def stampHk (s : State) : Stamp := stampOf s s.tim.hk

/-- The stamp of the bank fabric domain. -/
def stampFabric (s : State) : Stamp := stampOf s s.tim.fabric

/-- The stamp of the field I/O domain. -/
def stampField (s : State) : Stamp := stampOf s s.tim.field

/-- The stamp of the CAN domain. -/
def stampCan (s : State) : Stamp := stampOf s s.tim.can

/-- A raise with its stamp enters the raise bobbin of 256 entries; at a full bobbin it is lost and counted (R409). -/
def raiseAt (t : Stamp) (code sev : Nat) (value : Int) (s : State) : State :=
  if s.rcd.bobbin.length < 256 then
    { s with rcd := { s.rcd with bobbin := s.rcd.bobbin ++ [{ code := code, sev := sev, value := wrap32 value, stamp := t }] } }
  else { s with rcd := { s.rcd with raiseN := holdInc 0xFFFF s.rcd.raiseN } }

/-- A raise stamped in the HK domain. -/
def raise (code sev : Nat) (value : Int) (s : State) : State := raiseAt (stampHk s) code sev value s

/-- A raise from the field I/O domain: events are stamped in the HK domain (R296, assumption log 157). -/
def raiseField (code sev : Nat) (value : Int) (s : State) : State := raiseAt (stampHk s) code sev value s

/-- A raise stamped in the bank fabric domain. -/
def raiseFabric (code sev : Nat) (value : Int) (s : State) : State := raiseAt (stampFabric s) code sev value s

/-- A raise from the CAN domain, stamped in the HK domain (R296, assumption log 157). -/
def raiseCan (code sev : Nat) (value : Int) (s : State) : State := raiseAt (stampHk s) code sev value s

/-- An event that is raised now, or at the next start if HK1 cannot take it (R457). -/
def raiseOrLate (code sev : Nat) (value : Int) (s : State) : State :=
  if hkOn s then raise code sev value s else { s with pwr := { s.pwr with late := s.pwr.late ++ [(code, sev, value)] } }

/-! ## The recovery ladder (R445, R453, R454) -/

/-- The test unit of a fence group, where it has one (R383, R445). -/
def groupUnit (g : Nat) : Option Nat :=
  if g ≤ 14 then some g
  else match g with
    | 16 => some 0x10
    | 17 => some 0x11
    | 18 => some 0x12
    | 19 => some 0x12
    | 21 => some 0x14
    | 23 => some 0x17
    | _ => none

/-- A fault has been found in a unit: its result is no longer fresh (R445). -/
def unitBad (u : Nat) (s : State) : State :=
  { s with pwr := { s.pwr with units := s.pwr.units.map fun p => if p.1 = u then (p.1, { p.2 with clean := false }) else p } }

/-- A fault has been found in a group's unit. -/
def unitFault (g : Nat) (s : State) : State :=
  match groupUnit g with
  | some u => unitBad u s
  | none => s

/-- The ladder acts on a group `us` from now. -/
def climb (g us : Nat) (s : State) : State := unitFault g { s with pwr := { s.pwr with reinit := mapSet s.pwr.reinit g us } }

/-! ## Roles (R332) -/

/-- The role is decided and is ALONE or ACTIVE; the old active of a swap drives on, SYNCING, until LIVE arrives (R149). -/
def holdsField (s : State) : Bool := s.mir.decided && (s.mir.role = .alone || s.mir.role = .active || s.mir.swo = .oldWait)

/-- The module drives the field: its role is ALONE or ACTIVE (R205, R332, R444), it is in RUN (R441, R448, R456), and it is not
DECOMMISSIONED (R397). -/
def drives (s : State) : Bool := holdsField s && s.pwr.phase = .run && !s.pwr.pfw && s.sec.life ≠ .decommissioned

/-- SHU_STAT.ROLE, MIR_ROLE and RESULT code of a role (R73). -/
def roleCode : Role → Nat
  | .alone => 0
  | .syncing => 1
  | .active => 2
  | .standby => 3

/-- The module is in a pair as ACTIVE with a partner that receives what it forwards: STANDBY, or SYNCING from phase 4 on
(R348, R358). -/
def forwards (s : State) : Bool :=
  s.mir.decided && s.mir.role = .active && (s.mir.prole = 3 || (s.mir.prole = 1 && 4 ≤ s.mir.syncph))

/-- An ACTIVE module whose partner is STANDBY. -/
def pairedActive (s : State) : Bool := s.mir.decided && s.mir.role = .active && s.mir.prole = 3

/-- SEC_LC.STATE. -/
def lifeCode : Life → Nat
  | .manufacture => 0
  | .commission => 1
  | .service => 2
  | .operate => 3
  | .decommissioned => 4

/-! ## Mirror frames (R342, R343) -/

/-- CLASS of a frame type (R343): 0 high, 1 normal, 2 bulk. -/
def frameClass (ftype : Nat) : Nat := if ftype ≤ 0x04 then 0 else if ftype ≤ 0x07 then 1 else 2

/-- NBLK: the data blocks of a body (R342). -/
def frameBlks (body : List Byte) : Nat := (body.length + 7) / 8

/-- The blocks of a frame (R338, R342): START with its header and CRC-8, the data blocks, filled up with zeros, END with the CRC-32 of the
data blocks. -/
def frameBlocks (ftype fseq : Nat) (body : List Byte) : List (Bool × List Byte) :=
  let data := body ++ List.replicate (8 * frameBlks body - body.length) 0
  let hdr := [0xA5] ++ leBytes 1 ftype ++ leBytes 1 (frameBlks body) ++ leBytes 2 fseq ++ leBytes 1 (frameClass ftype) ++ [0]
  (true, hdr ++ [crc8 hdr]) :: ((List.range (frameBlks body)).map fun i => (false, slice data (8 * i) 8)) ++
    [(true, [0xE1] ++ leBytes 4 (crc32n data) ++ [0, 0, 0])]

/-- A frame goes out on both lanes, with the next FSEQ. -/
def frameOut (ftype : Nat) (body : List Byte) (s : State) : State :=
  emit (.frame (frameBlocks ftype s.mir.fseqOut body))
    { s with mir := { s.mir with fseqOut := (s.mir.fseqOut + 1) % 65536, txRoom := s.mir.txRoom - (frameBlks body + 2) } }

/-- Send a frame: at once where no other waits and the lanes have room in this microsecond, else it waits (R342). -/
def sendFrame (ftype : Nat) (body : List Byte) (s : State) : State :=
  if s.mir.txQ = [] && frameBlks body + 2 ≤ s.mir.txRoom then frameOut ftype body s
  else { s with mir := { s.mir with txQ := s.mir.txQ ++ [(ftype, body)] } }

/-- The frame that goes next: the oldest of the highest class (R342). -/
def txNext (q : List (Nat × List Byte)) : Option (Nat × List Byte) :=
  match q.find? fun f => frameClass f.1 = 0 with
  | some f => some f
  | none => match q.find? fun f => frameClass f.1 = 1 with
    | some f => some f
    | none => q.head?

/-- Frames that wait go out while the lanes have room, at most `n`. -/
def txRun : Nat → State → State
  | 0, s => s
  | n + 1, s =>
    match txNext s.mir.txQ with
    | some f =>
      if frameBlks f.2 + 2 ≤ s.mir.txRoom then txRun n (frameOut f.1 f.2 { s with mir := { s.mir with txQ := s.mir.txQ.erase f } }) else s
    | none => s

/-! ## Forwarding (R71, R343) -/

/-- The segments of a FORWARD frame: at most 248 bytes of the descriptor and its data, behind FWDSEQ, the count, the offset and the
world (assumption log 24). -/
def forwardSend (fwdseq count : Nat) (secure : Bool) (b : List Byte) (s : State) : State :=
  ((List.range ((b.length + 247) / 248)).foldl (fun t i =>
    sendFrame 0x05 (leBytes 4 fwdseq ++ leBytes 4 count ++ leBytes 4 (248 * i) ++ leBytes 4 (b2n secure) ++ slice b (248 * i) 248) t) s)

/-- The opcodes under which an active tells its partner of a failed engine and of a brake test's result: none of R66 (assumption log 145). -/
abbrev opFault : Nat := 0xF0
@[inherit_doc opFault]
abbrev opBrake : Nat := 0xF1

/-- An ACTIVE module whose partner is STANDBY or synchronises (R346 code 14), with no switch-over in progress (R357). -/
def tellsPartner (s : State) : Bool :=
  s.mir.decided && s.mir.role = .active && s.mir.swo = .none && (s.mir.prole = 3 || (s.mir.prole = 1 && s.mir.syncph ≠ 0))

/-- An active tells its partner something that is no host's descriptor: an opcode, a number of 64 bits and a value (assumption log 145). -/
def pairTell (op count g v : Nat) (s : State) : State :=
  let n := s.mir.fwdseq
  forwardSend n count true ([BitVec.ofNat 8 op] ++ List.replicate 5 0 ++ leBytes 2 g ++ leBytes 8 v ++ leBytes 8 count ++ List.replicate 8 0)
    { s with mir := { s.mir with fwdseq := (n + 1) % 2 ^ 32 } }

/-- An active tells its partner that the engine of fence group `g` has failed, with the scan or period after which both stop, or, with
`back`, that it has been reinitialised (R128, R129, R184, R346 code 14). -/
def faultTell (g count : Nat) (back : Bool) (s : State) : State :=
  pairTell opFault count g (b2n back) { s with mir := { s.mir with lastDec := 14 } }

/-- The LATCH frame of a scan waits still to be sent (R349). -/
def latchQueued (s : State) (engine scan : Nat) : Bool :=
  s.mir.txQ.any fun f => f.1 = 0x02 && leAt f.2 0 1 = engine && leAt f.2 8 8 = scan

/-- The time of the Loom time base as tasks see it (R98): a module that has followed a partner keeps the partner's (R349;
DESIGN CHOICE, assumption log 150). -/
def loomTime (s : State) : Word := s.tbase + s.mir.tbOfs

/-- The body of an UPDATE frame with one entry (R343). -/
def updateBody (i : Nat) (v : Word) : List Byte := leBytes 2 i ++ [0, 0] ++ leBytes 4 v.toNat

/-! ## The point hub (R17, R24) -/

/-- The value of a point in the point store. -/
def ptGet (s : State) (i : Nat) : Word := mapGetD 0 s.hub.pts i

/-- Set a point of the point store. -/
def ptSet (i : Nat) (v : Word) (s : State) : State := { s with hub := { s.hub with pts := mapPut 0 s.hub.pts i v } }

/-- The directory entry of a point in the running image (R136); unused where there is none. -/
def pointDef (s : State) (i : Nat) : PointDef :=
  match s.zor.running with
  | some img => mapGetD {} img.points i
  | none => {}

/-- A value delivered to the hub is held to the point's width: bit 0 for a bit point (R67). -/
def fitPoint (p : PointDef) (v : Word) : Word := if p.kind = 1 || p.kind = 3 then v &&& 1 else v

/-- The hub applies one delivered update, and an ACTIVE module forwards it (R348). -/
def hubApply (i : Nat) (v : Word) (s : State) : State :=
  when (forwards s) (sendFrame 0x01 (updateBody i v)) (ptSet i v s)

/-- Some engine's gather is in progress. -/
def gathering (s : State) : Bool := s.loom.toList.any (fun e => e.gather.isSome)

/-! ## Poisoned crossings (R385) -/

/-- A crossing of fence group `g` is poisoned (R385). -/
def crossPois (s : State) (g : Nat) : Bool := s.hed.pois.getLsbD g

/-- A push on a poisoned crossing: discarded and counted (R385). -/
def crossDiscard (s : State) : State := { s with hed := { s.hed with discard := holdInc 0xFFFF s.hed.discard } }

/-- The fence group of the deliverer of a point (R17, R383): HK0 for CAN values, the encoder interfaces, the BMP, a Prism engine, or
field I/O logic. -/
def delivererGroup (s : State) (i : Nat) : Nat :=
  if s.can.toList.any (fun (c : Can) => c.filt.any (fun e => e.pt = i || e.vpt = i) || c.cfg.statusPt = i) then 12
  else if s.enc.toList.any (fun (e : Enc) => e.cfg.posPt = i || e.cfg.velPt = i || e.cfg.statusPt = i) then 19
  else if s.brk.ch.toList.any (fun (x : BrkCh) => x.cfg.statusPt = i) then 22
  else match (List.finRange 4).find? fun n => (vget s.prism n).slots.toList.any fun (x : Slot) =>
      x.live && (x.setA.sink.statusPt = i || x.setB.sink.statusPt = i || x.setA.tripPt = i || x.setB.tripPt = i) with
    | some n => 8 + n.val
    | none => 21

/-- A deliverer of R17 gives the hub a new point value, at an index that the directory uses (R67): applied at once, or held in the update buffer while a gather is in
progress, or, with the buffer full or the hub's domain stopped, by the producer (R24, R375, R387). On a poisoned crossing it is discarded
(R385). -/
def pointUpdate (i : Nat) (v : Word) (s : State) : State :=
  if i = 0xFFFF || (pointDef s i).kind = 0 then s
  else if s.hed.pois ≠ 0 && crossPois s (delivererGroup s i) then crossDiscard s
  else
    let v := fitPoint (pointDef s i) v
    if !(fabricOn s) || (gathering s && 256 ≤ s.hub.buf.length) then { s with hub := { s.hub with held := s.hub.held ++ [(i, v)] } }
    else if gathering s then { s with hub := { s.hub with buf := s.hub.buf ++ [(i, v)] } }
    else hubApply i v s

/-- A word whose parity fails is counted, with event 0x0902 (R377). -/
def parityFail (g : Nat) (s : State) : State :=
  unitFault g <| raiseFabric 0x0902 5 g { s with hed := { s.hed with parityN := holdInc 0xFFFF s.hed.parityN } }

/-- A point update that reaches the hub poisoned, as it does where its parity fails, is counted and not applied (R377). -/
def pointWord (g : Nat) (mark : Mark) (i : Nat) (v : Word) (s : State) : State :=
  let bad (s : State) : State := { s with hed := { s.hed with ptPoison := s.hed.ptPoison + 1 } }
  if i = 0xFFFF then s
  else match mark with
    | .good => pointUpdate i v s
    | .poisoned => bad s
    | .parityBad => bad (parityFail g s)

/-- The gathers have ended: the updates held are applied in order (R24), while the hub runs. -/
def drainHub (s : State) : State :=
  if gathering s || !(fabricOn s) then s
  else
    let l := s.hub.buf ++ s.hub.held
    l.foldl (fun t p => hubApply p.1 p.2 t) { s with hub := { s.hub with buf := [], held := [] } }

/-- The value a publish carries for a point, after its force (R25, R157). -/
def forced (s : State) (i : Nat) (v : Word) : Word :=
  match mapGet s.hub.force i with
  | some (some f) => fitPoint (pointDef s i) f
  | _ => v

/-! ## Status codes of completions (R10) -/

/-- OK. -/
abbrev stOk : Nat := 0x00
/-- RETRY. -/
abbrev stRetry : Nat := 0x01
/-- BUSY. -/
abbrev stBusy : Nat := 0x02
/-- TEST_BUSY. -/
abbrev stTestBusy : Nat := 0x03
/-- BAD_HANDLE. -/
abbrev stBadHandle : Nat := 0x04
/-- NOT_PRESENT. -/
abbrev stNotPresent : Nat := 0x05
/-- DENIED. -/
abbrev stDenied : Nat := 0x06
/-- POISON. -/
abbrev stPoison : Nat := 0x07
/-- TIMEOUT. -/
abbrev stTimeout : Nat := 0x08
/-- STALE_GEN. -/
abbrev stStaleGen : Nat := 0x09
/-- UNDERRUN. -/
abbrev stUnderrun : Nat := 0x0A
/-- DIVERGED. -/
abbrev stDiverged : Nat := 0x0B
/-- LOCKED. -/
abbrev stLocked : Nat := 0x0C
/-- BAD_IMAGE. -/
abbrev stBadImage : Nat := 0x0D
/-- ABORTED. -/
abbrev stAborted : Nat := 0x0E
/-- FULL. -/
abbrev stFull : Nat := 0x0F

/-! ## Rings, completions, interrupts -/

/-- SHU_EPOCH (R68). -/
def epoch (s : State) : Nat := s.shu.resets * 65536 + s.shu.roles

/-- The ring pair belongs to the secure world (R39). -/
def ringSecure (s : State) (r : Fin 64) : Bool := s.shu.rpsec.getLsbD r.val

/-- The PCI Express function that a ring pair's world uses. -/
def ringFn (s : State) (r : Fin 64) : Func := if ringSecure s r then .f1 else .f0

/-- The number of a function. -/
def fnIdx : Func → Fin 2
  | .f0 => 0
  | .f1 => 1

/-- The MSI-X table entry of a vector of a function (R32, R33). -/
def msixEnt (s : State) (fn : Func) (v : Nat) : MsixEnt := mapGetD {} s.shu.msixTab (65 * (fnIdx fn).val + v)

/-- Set or clear a bit of a function's pending-bit array. -/
def msixMark (fn : Func) (v : Nat) (on : Bool) (s : State) : State :=
  { s with shu := { s.shu with msixPend := vmod s.shu.msixPend (fnIdx fn) fun p =>
      if on then p ||| (1#65 <<< v) else p &&& ~~~(1#65 <<< v) } }

/-- Send an MSI-X message; none on function 1 without an open session (R35). A masked vector is pending instead. -/
def msix (fn : Func) (v : Nat) (s : State) : State :=
  let e := msixEnt s fn v
  if fn = .f1 && s.shu.sess.state ≠ .open then s
  else if e.mask then msixMark fn v true s
  else emit (.msix fn v e.addr e.data) s

/-- An error of the PCI Express uncorrectable set, bit `b`, is recorded for a function (R33, assumption log 135). -/
def aerNote (fn : Func) (b : Nat) (s : State) : State :=
  { s with shu := { s.shu with aer := vmod s.shu.aer (fnIdx fn) (· ||| (1#32 <<< b)) } }

/-- Vector 64, the module event vector, of each function (R54; assumption log 12). -/
def vector64 (s : State) : State := msix .f1 64 (msix .f0 64 s)

/-- Change one ring pair. -/
def setRing (r : Fin 64) (f : Ring → Ring) (s : State) : State :=
  { s with shu := { s.shu with rings := vmod s.shu.rings r f } }

/-- Descriptors fetched and not yet completed on a ring (R43, INFLIGHT). -/
def inflight (s : State) (r : Fin 64) : Nat := (s.shu.flights.filter (·.ring = r)).length

/-- The posted stream buffers whose descriptors the module still holds. -/
def pruneStreams (s : State) : State :=
  let has (no : Nat) := s.shu.flights.any (·.no = no)
  { s with shu := { s.shu with streams := s.shu.streams.map fun p => (p.1, { p.2 with bufs := p.2.bufs.filter (has ·.no) }) } }

/-- Discard every descriptor of a ring that is fetched and not completed (R34). A message owed for completions written before is still
sent (R53). -/
def discardRing (r : Fin 64) (s : State) : State :=
  pruneStreams { s with shu := { s.shu with
    flights := s.shu.flights.filter (·.ring ≠ r)
    rings := vmod s.shu.rings r fun g => { g with waiting := [] } } }

/-- A ring pair goes to DISABLED with the discard of R34 (R44). -/
def disableRing (r : Fin 64) (s : State) : State :=
  setRing r (fun g => { g with state := .disabled }) (discardRing r s)

/-- A running ring pair enters STOPPED with a cause (R43, R45), which vector 64 signals (R54). -/
def stopRing (r : Fin 64) (cause : Nat) (s : State) : State :=
  vector64 { setRing r (fun g => { g with state := .stopped, fault := true, cause := cause }) s with
    shu := { (setRing r (fun g => { g with state := .stopped, fault := true, cause := cause }) s).shu with rpStop := true } }

/-- The 16 bytes of a completion (R47). -/
def completionBytes (s : State) (g : Ring) (c : Completion) : List Byte :=
  leBytes 4 c.result ++ leBytes 4 (epoch s) ++ leBytes 2 c.tag ++ leBytes 2 g.sqHead ++ leBytes 2 c.handle ++
    leBytes 1 c.status ++ leBytes 1 (c.cflags + b2n g.phase)

/-- Send a ring pair's MSI-X message, or hold it for the end of the running moderation interval (R53). -/
def ringIrq (r : Fin 64) (s : State) : State :=
  let g := vget s.shu.rings r
  if g.irqMod = 0 then msix (ringFn s r) r.val s
  else if g.modRun then setRing r (fun g => { g with modPend := true }) s
  else msix (ringFn s r) r.val (setRing r (fun g => { g with modRun := true }) s)

/-- Write the oldest waiting completion of a ring into its completion ring, if an entry is free (R48, R49, R53). -/
def writeCompletion (r : Fin 64) (s : State) : State :=
  let g := vget s.shu.rings r
  match g.waiting with
  | [] => s
  | c :: rest =>
    if g.cqUsed < 2 ^ g.cqLog2 then
      let tail := (g.cqTail + 1) % 2 ^ g.cqLog2
      let s1 := emit (.completion r (g.cqBase + 16 * g.cqTail) (completionBytes s g c)) s
      let s2 := setRing r (fun g => { g with waiting := rest, cqTail := tail, cqUsed := g.cqUsed + 1
                                             phase := if tail = 0 then !g.phase else g.phase }) s1
      let s3 := { s2 with shu := { s2.shu with flights := s2.shu.flights.filter (·.no ≠ c.no) } }
      when (c.irq || c.status ≠ 0) (ringIrq r) s3
    else s

/-- Write waiting completions of a ring, at most `n`. -/
def flushRing : Nat → Fin 64 → State → State
  | 0, _, s => s
  | n + 1, r, s => flushRing n r (writeCompletion r s)

/-- A descriptor that the module holds. -/
def flight (s : State) (no : Nat) : Option Flight := s.shu.flights.find? (·.no = no)

/-- Complete a descriptor: its completion joins the ring's waiting completions (R49). A descriptor that has been discarded
completes nowhere. One that the partner applied with another result completes with DIVERGED (R59). -/
def completeH (no status result cflags : Nat) (handle : Option Nat) (s : State) : State :=
  match flight s no with
  | none => s
  | some f =>
    if f.st = .done then s
    else
      let differs : Bool := match f.peer with
        | some (ps, pr) => ps ≠ status || pr.any (· ≠ result % 2 ^ 32)
        | none => false
      let c : Completion := { no := no, tag := f.desc.tag, handle := handle.getD f.desc.handle
                              status := if differs then stDiverged else status
                              result := if differs then (Config.open32 s.free).toNat else result % 2 ^ 32
                              cflags := cflags ||| f.cflags, irq := bitOf f.desc.flags 1 }
      let s := when differs drawn s
      let s1 := { s with shu := { s.shu with flights := s.shu.flights.map fun x => if x.no = no then { x with st := .done } else x } }
      setRing f.ring (fun g => { g with waiting := g.waiting ++ [c] }) s1

/-- Complete a descriptor with its own handle and no flags. -/
def complete (no status result : Nat) (s : State) : State := completeH no status result 0 none s

/-- Complete a descriptor with a status for which the spec states no RESULT: a free value (assumption log 21). -/
def completeOpen (no status : Nat) (s : State) : State := complete no status (Config.open32 s.free).toNat (drawn s)

/-- Complete several descriptors alike. -/
def completeAll (l : List Nat) (status result : Nat) (s : State) : State :=
  l.foldl (fun t no => complete no status result t) s

/-- A started descriptor waits: mark it so. -/
def started (no : Nat) (s : State) : State :=
  { s with shu := { s.shu with flights := s.shu.flights.map fun x => if x.no = no && x.st = .queued then { x with st := .started } else x } }

/-- Every RUNNING ring pair goes to HALTED, under the next epoch (R69). -/
def ringsHalt (s : State) : State :=
  { s with shu := { s.shu with
    roles := (s.shu.roles + 1) % 65536
    epochChg := true
    rings := s.shu.rings.map fun (g : Ring) => if g.state = RingState.running then { g with state := RingState.halted } else g } }

/-- A role change of a live module (R69): fetching stops, what has been applied completes under the old epoch, the rest is
discarded, the epoch advances, RUNNING ring pairs go to HALTED, vector 64 is sent. -/
def roleChange (r : Role) (s : State) : State :=
  let s1 := foldFin 64 (fun t i => flushRing (vget t.shu.rings i).waiting.length i t) s
  let s3 := ringsHalt (foldFin 64 (fun t i => discardRing i t) s1)
  vector64 { s3 with mir := { s3.mir with role := r }, loom := s3.loom.map fun (e : Loom) => { e with freezeAt := false } }

/-- The outcome of a command that runs. -/
def ok (s : State) : Res := .next s

end Sys2Proof.Machine
end

