-- ==== Sys2Proof/Machine/Banks.lean ====
section
/-! DEFINITION. The SRAM banks and their heddles, and the toggle crossings (14_banks_queues_and_crossings.md, R394, R395). -/

namespace Sys2Proof.Machine

/-- Change a bank's heddle. -/
def setHed (b : Fin 24) (f : Bank → Bank) (s : State) : State :=
  { s with hed := { s.hed with banks := vmod s.hed.banks b f } }

/-- A bank's heddle. -/
def hedBank (s : State) (b : Fin 24) : Bank := vget s.hed.banks b

/-! ## Handovers (R367 to R371) -/

/-- The banks whose owner software can change. -/
def bankMovable (b : Fin 24) : Bool := 16 ≤ b.val && b.val ≤ 21

/-- The owners that software can ask for: HK0, HK1, SHU, NONE. -/
def ownerAllowed (req : Nat) : Bool := req = 0x0C || req = 0x0D || req = 0x0F || req = 0x1F

/-- The accesses that an old owner still has outstanding at its other banks under handover: at each at least one, and no more than were. -/
def hedCount (o : Nat) (s : State) : State :=
  foldFin 24 (fun t b =>
    let k := hedBank t b
    if k.pend && k.owner = o && k.outst ≠ 0 then
      drawn (setHed b (fun k => { k with outst := 1 + (Config.openByte t.free).toNat % k.outst }) t)
    else t) s

/-- A handover starts: PEND reads 1 and DRAINED 0. A master holds at most 16 granted accesses at one time, over all its banks (R368); no
master holds any. -/
def hedStart (b : Fin 24) (req : Nat) (s : State) : State :=
  let o := (hedBank s b).owner
  let s1 := hedCount o s
  let others : Nat := (s1.hed.banks.toList.map fun (k : Bank) => if k.pend && k.owner = o then k.outst else 0).sum
  setHed b (fun k => { k with req := req, pend := true, drained := false, outst := if o ≤ 0x0F then 16 - others else 0 }) s1

/-- A write of REQ (R367, R369, R370); a bank held out of service stays NONE (R446, assumption log 174). -/
def hedRequest (b : Fin 24) (req : Nat) (s : State) : State :=
  let k := hedBank s b
  if !(bankMovable b) || !(ownerAllowed req) || k.pend || bankHeld s b.val then setHed b (fun k => { k with rej := true }) s
  else if req = k.owner then s
  else hedStart b req s

/-- The owner that an image asks for bank `b`, 16 to 21: its BANKS section, or R22 (R134). -/
def imageOwner (banks : List Nat) (b : Nat) : Nat :=
  match banks[b - 16]? with
  | some o => o
  | none => if b < 20 then 0x0F else 0x1F

/-- An image's owners of banks 16 to 21 are applied through handovers (R369); a bank whose handover is still pending follows
when it has ended. -/
def hedImage (banks : List Nat) (s : State) : State :=
  foldFin 24 (fun t b =>
    let k := hedBank t b
    let o := imageOwner banks b.val
    if !(bankMovable b) || bankHeld t b.val then t
    else if k.pend then setHed b (fun k => { k with back := if k.req = o then none else some o }) t
    else if k.owner = o then t
    else hedStart b o t) s

/-- A handover of banks 16 to 21 is pending. -/
def hedPending (s : State) : Bool := s.hed.banks.toList.any (fun (k : Bank) => k.pend)

/-- The handover of a bank ends: OWNER takes REQ. -/
def hedDrained (b : Fin 24) (s : State) : State :=
  let k := hedBank s b
  let s1 := setHed b (fun k => { k with owner := k.req, pend := false, drained := true, stuck := false, outst := 0, back := none }) s
  match k.back with
  | some o => if o = k.req then s1 else hedStart b o s1
  | none => s1

/-- The fence group of an owner code (R364, R383). -/
def ownerGroup (o : Nat) : Option Nat :=
  if o ≤ 14 then some o else if o = 0x0F then some 15 else if o = 0x10 then some 24 else none

/-- The owner of group `g` has been reset, its outstanding accesses discarded: a stuck handover of its banks ends (R368). -/
def hedOwnerReset (g : Nat) (s : State) : State :=
  foldFin 24 (fun t b => when ((hedBank t b).stuck && ownerGroup (hedBank t b).owner = some g) (hedDrained b) t) s

/-- HANDOVER_DRAINED (R367). A drain that is stuck ends only with the reset of the old owner (R368). -/
def execHandoverDrained (b : Fin 24) (s : State) : Res :=
  let k := hedBank s b
  ok (when (fabricOn s && k.pend && !k.stuck && k.owner ≠ 0x10) (hedDrained b) s)

/-- The module address of a bank's first byte (R394). -/
def bankBase (b : Fin 24) : Nat := b.val * 0x200000

/-- Zeros written to a whole bank. -/
def bankZero (b : Fin 24) (s : State) : State :=
  { s with mem := s.mem.filter fun c => !(decide (bankBase b ≤ c.1) && decide (c.1 < bankBase b + 0x200000)) }

/-- BIST gives a bank back: zeroed and owned by NONE. -/
def bistReturn (b : Fin 24) (s : State) : State :=
  setHed b (fun k => { k with owner := 0x1F, req := if k.pend then k.req else 0x1F }) (bankZero b s)

/-- BIST_BANK_RETURN (R371). -/
def execBistBankReturn (b : Fin 24) (s : State) : Res :=
  ok (when ((hedBank s b).owner = 0x10) (bistReturn b) s)

/-! ## Accesses (R363 to R366, R372, R373, R394, R395) -/

/-- A region covers a module address. -/
def regionCovers (r : Region) (a : Nat) : Bool := r.en && r.base ≤ a / 4096 && a / 4096 ≤ r.limit

/-- The lowest-numbered region that refuses an access. -/
def regionRefuses (s : State) (secure write : Bool) (a : Nat) : Option Nat :=
  if secure then none
  else (s.sec.regions.find? fun p => regionCovers p.2 a && (if write then p.2.wrS else p.2.rdS)).map (·.1)

/-- Record an access that a region refused, with event 0x0B05. -/
def regionViol (region master a : Nat) (write : Bool) (s : State) : State :=
  raise 0x0B05 5 region { s with sec := { s.sec with
    violV := true, violW := write, violR := region, violM := master, violN := holdInc 0xFFFF s.sec.violN, vaddr := a } }

/-- Loom engine 0 to 7 or Prism engine 8 to 11 is stopped by its self-test (R115, R182). -/
def engineTested (s : State) (g : Nat) : Bool :=
  if g < 8 then (vget s.loom (Fin.ofNat 8 g)).state = .test
  else if g < 12 then (vget s.prism (Fin.ofNat 4 (g - 8))).state = .test
  else false

/-- The world of a request (R391): that of the master, and for the Shuttle mover and HK0 that of the ring whose descriptor they serve. -/
def reqSecure (r : BankReq) : Bool :=
  if r.master.val = 0x0D || r.master.val = 0x0E || r.master.val = 0x10 then true
  else if r.master.val = 0x0C || r.master.val = 0x0F then r.secure
  else false

/-- The service accesses of R366: HK0 and HK1 only write, HK1 in PREPARE while the bank's engine is held in self-test. -/
def serviceAccess (s : State) (m : Fin 18) (b : Fin 24) (write : Bool) : Bool :=
  (m.val = 0x11 && b.val ≤ 7) || (m.val = 0x0C && write && 8 ≤ b.val && b.val ≤ 11) ||
  (m.val = 0x0D && write && s.zor.phase = .prepare && engineTested s b.val)

/-- The owner of a port; banks other than 22 and 23 have one port. -/
def portOwner (s : State) (b : Fin 24) (portB : Bool) : Nat :=
  if portB then (if 22 ≤ b.val then (hedBank s b).ownerB else 0x1F) else (hedBank s b).owner

/-- How the words come that the mover reads for its next transfer to host memory; other masters have none (assumption log 163). -/
def moverNote (r : BankReq) (x : Xfer) (s : State) : State :=
  if r.master.val = 0x0F && !r.write then { s with hed := { s.hed with xfer := x } } else s

/-- The point hub's read of a Warp for a publish: its words, with a mark where they carry one (R109, R377). -/
def hubNote (r : BankReq) (m : Mark) (s : State) : State :=
  if r.master.val = 0x11 && !r.write then { s with hed := { s.hed with warp := s.hed.warp ++ [(r.bank.val, r.offset, r.count, m)] } } else s

/-- The result of a refused access: zeros with a poison tag for a read. -/
def bankRefused (r : BankReq) (s : State) : State :=
  if r.write then s else emit (.bankData (List.replicate r.count 0) true) (hubNote r .poisoned (moverNote r .poisoned s))

/-- The words that a granted read returns (R363): a corrected error is counted, an uncorrectable one gives the words a poison tag, and the
bank's test result is no longer fresh (R445). The bobbin to the mover lies behind the port (R377, R378). -/
def bankRead (r : BankReq) (s : State) : State :=
  let d := memRead s.mem (bankBase r.bank + r.offset) r.count
  match r.err with
  | .clean => emit (.bankData d false) s
  | .corrected => emit (.bankData d false) (setHed r.bank (fun k => { k with eccN := holdInc 0xFFFF k.eccN }) s)
  | .uncorrectable => emit (.bankData d true) (hubNote r .poisoned (moverNote r .poisoned (unitBad (0x20 + r.bank.val) s)))
  | .parity => emit (.bankData d false) (hubNote r .parityBad (moverNote r .parityBad s))
  | .late n => emit (.bankData d false) (moverNote r (.empty n) s)

/-- An access that the ownership check refuses (R365). -/
def bankViol (r : BankReq) (s : State) : State :=
  bankRefused r (raiseFabric 0x0903 6 r.bank.val { s with hed := { s.hed with
    violV := true, violM := r.master.val, violB := r.bank.val, violN := holdInc 0xFFFF s.hed.violN } })

/-- A granted access. -/
def bankGrant (r : BankReq) (s : State) : State :=
  let a := bankBase r.bank + r.offset
  match regionRefuses s (reqSecure r) r.write a with
  | some g => bankRefused r (regionViol g r.master.val a r.write s)
  | none =>
    if r.write then
      if r.collide && r.portB && 22 ≤ r.bank.val then
        raiseFabric 0x0905 3 r.bank.val (setHed r.bank (fun k => { k with coll := true }) s)
      else { s with mem := memWrite s.mem a r.bytes }
    else bankRead r s

/-- The order of the masters at a bank port (R373): ME, PE, LE, HK, SHU, BIST; the point hub ahead of the Loom engines, whose rank its
service accesses take (R366); within a rank the lower code. -/
def masterRank (m : Fin 18) : Nat :=
  let c := m.val
  if c = 0x0E then 0
  else if c = 0x11 then 0x20
  else if c ≤ 7 then 0x21 + c
  else if c ≤ 0x0B then 0x10 + c - 8
  else if c ≤ 0x0D then 0x30 + c
  else 0x40 + c

/-- A request competes for a port where the crossbar may grant it (R365, R366); the service accesses of HK0 and HK1 are writes. -/
def portServes (s : State) (b : Fin 24) (portB : Bool) (m : Fin 18) (service write : Bool) : Bool :=
  if service then serviceAccess s m b write && portOwner s b portB ≠ 0x1F
  else portOwner s b portB = m.val && !((hedBank s b).pend && !portB)

/-- Another request that waits at the port in this cycle goes first (R373). -/
def bankBeats (s : State) (r : BankReq) : Bool :=
  r.rivals.any fun p => portServes s r.bank r.portB p.1 p.2 true && masterRank p.1 < masterRank r.master

/-- An access that another request beats waits for a cycle, which is counted (R373). -/
def bankBeaten (r : BankReq) (s : State) : State := { s with hed := { s.hed with conf := vmod s.hed.conf r.master (holdInc 0xFFFFFFFF) } }

/-- BANK_ACCESS: refused, relinquished, stalled or granted; with the bank's domain or the crossbar stopped it does not complete (R20,
R386). -/
def execBankAccess (r : BankReq) (s : State) : Res :=
  if 0x200000 < r.offset + (if r.write then r.bytes.length else r.count) then .fault .noSuchAddress
  else
    let k := hedBank s r.bank
    ok (if !(bankOn s r.bank.val) then s
      else if !r.service && portOwner s r.bank r.portB = r.master.val && k.pend && !r.portB then emit (.relinquished r.master r.bank) s
      else if !(portServes s r.bank r.portB r.master r.service r.write) then bankViol r s
      else if bankBeats s r then bankBeaten r s
      else bankGrant r s)

/-! ## Toggle crossings (R381) -/

/-- A pulse at a toggle crossing of group `g`: the answer says whether it is sent now. -/
def togglePulse (g : Fin 25) (s : State) : State × Bool :=
  let t := vget s.hed.toggles g
  let put (x : Toggle) (s : State) : State := { s with hed := { s.hed with toggles := vset s.hed.toggles g x } }
  if !t.busy then (put { t with busy := true } s, true)
  else if !t.held then (put { t with held := true } s, false)
  else (raise 0x0906 4 g.val { s with hed := { s.hed with merge := holdInc 0xFFFF s.hed.merge } }, false)

/-- TIM_SNAP's snapshot of the local clock (R300). -/
def timSnapshot (s : State) : State := { s with tim := { s.tim with snap := s.tim.clk } }

/-- TOGGLE_ACKNOWLEDGE: the acknowledge returns, and a held pulse is sent. The snapshot of the time unit crosses so (R380). -/
def execToggleAcknowledge (g : Fin 25) (s : State) : Res :=
  let t := vget s.hed.toggles g
  ok (if t.busy then
    let s1 := { s with hed := { s.hed with toggles := vset s.hed.toggles g { busy := t.held, held := false } } }
    when (t.held && g.val = 17 && ethOn s1) timSnapshot s1
  else s)

/-! ## Bobbins (R374 to R379) -/

/-- Change a bobbin. -/
def setBob (i : Fin 11) (f : Bobbin → Bobbin) (s : State) : State := { s with hed := { s.hed with bobs := vmod s.hed.bobs i f } }

/-- The depth of a bobbin (R374). -/
def bobDepth (i : Fin 11) : Nat := 2 ^ (2 + (Config.bobbinLog2 i.val).val)

/-- The even parity bit of a word with its marks (R374). -/
def wordParity (w : BobWord) : Bool :=
  ((w.data.map fun b => (List.range 8).countP (fun k => b.getLsbD k)).sum + b2n w.eop + b2n w.poison) % 2 = 1

/-- A pointer of bobbin `i`, k + 1 bits, some words further. -/
def bobNext (i : Fin 11) (p n : Nat) : Nat := (p + n) % (2 * bobDepth i)

/-- FULL, as the producer derives it from its own write pointer and the read pointer it sees: the copy it last saw, or, with `stale`
false, the consumer's present one (R374). -/
def bobFull (i : Fin 11) (stale : Bool) (b : Bobbin) : Bool :=
  let seen := if stale then b.rsync else b.rptr
  b.wptr = bobNext i seen (bobDepth i)

/-- EMPTY, as the consumer derives it from its own read pointer and the write pointer it sees (R374). -/
def bobEmpty (stale : Bool) (b : Bobbin) : Bool := b.rptr = if stale then b.wsync else b.wptr

/-- A word arrives behind DROP_PKT: it is discarded, and the discarding ends with the packet (R379). -/
def bobDiscard (i : Fin 11) (w : BobWord) (b : Bobbin) : Bobbin :=
  { b with last := w, dropping := !w.eop, wptr := bobNext i b.wptr 1, rptr := bobNext i b.wptr 1 }

/-- A push by a producer that does not wait (R375, R376): dropped and counted where its FULL flag reads 1. The answer says whether the word
landed. -/
def bobPush (i : Fin 11) (w : BobWord) (stale : Bool) (s : State) : State × Bool :=
  let b := vget s.hed.bobs i
  let w := { w with parity := wordParity w }
  if b.dropping then (setBob i (bobDiscard i w) s, false)
  else if bobFull i stale b then ({ s with hed := { s.hed with fullDrop := holdInc 0xFFFF s.hed.fullDrop } }, false)
  else (setBob i (fun b => { b with
    words := b.words ++ [w], wptr := bobNext i b.wptr 1, rsync := if stale then b.rsync else b.rptr }) s, true)

/-- A pop by a consumer that does not wait (R375, R376): where its EMPTY flag reads 1 it gives the last word popped, and UNDERRUN is counted.
The answer is the word, and whether it underran. -/
def bobPop (i : Fin 11) (stale : Bool) (s : State) : State × BobWord × Bool :=
  let b := vget s.hed.bobs i
  match b.words with
  | w :: r =>
    if bobEmpty stale b then ({ s with hed := { s.hed with underN := holdInc 0xFFFF s.hed.underN } }, b.last, true)
    else (setBob i (fun b => { b with words := r, last := w, rptr := bobNext i b.rptr 1, wsync := if stale then b.wsync else b.wptr }) s, w, false)
  | [] => ({ s with hed := { s.hed with underN := holdInc 0xFFFF s.hed.underN } }, b.last, true)

/-- `n` pops of an empty bobbin: each gives the last word popped (R376). -/
def bobUnder (i : Fin 11) : Nat → State → State × List BobWord
  | 0, s => (s, [])
  | n + 1, s =>
    let r := bobPop i false s
    let q := bobUnder i n r.1
    (q.1, r.2.1 :: q.2)

/-- A word crosses a fixed-rate bobbin from a producer that does not wait to a consumer that takes it at once; the answer says whether it
arrived (R376, R378). -/
def bobCarry (i : Fin 11) (data : List Byte) (stale : Bool) (s : State) : State × Bool :=
  let r := bobPush i { data := data } stale s
  if r.2 then ((bobPop i false r.1).1, true) else r

/-- DROP_PKT: words go up to and including the next end-of-packet mark; where that has not been pushed, later words go as they arrive
(R379). -/
def bobDropPkt (i : Fin 11) (s : State) : State :=
  setBob i (fun b =>
    match b.words.dropWhile (!·.eop) with
    | w :: r => { b with words := r, last := w, rptr := bobNext i b.rptr (b.words.length - r.length) }
    | [] => { b with words := [], last := b.words.getLast?.getD b.last, dropping := true, rptr := b.wptr }) s

/-- The words of a packet: 8 bytes each, the last one with the end-of-packet mark (assumption log 142). -/
def packetWords (l : List Byte) : List BobWord :=
  let p := chunks 8 ((l.length + 7) / 8) l
  p.zipIdx.map fun x =>
    let w : BobWord := { data := x.1, eop := x.2 + 1 = p.length }
    { w with parity := wordParity w }

/-- A packet crosses a holding bobbin whole: the producer pushes each word when FULL reads 0, the consumer pops it when EMPTY reads 0. -/
def bobThrough (i : Fin 11) (l : List Byte) (s : State) : State :=
  setBob i (fun b =>
    let w := packetWords l
    let p := bobNext i b.wptr w.length
    { b with last := w.getLast?.getD b.last, wptr := p, rptr := p, wsync := p, rsync := p }) s

/-- A packet that its consumer refuses is discarded whole with DROP_PKT (R379). -/
def bobRefuse (i : Fin 11) (l : List Byte) (s : State) : State :=
  if l = [] then s else bobDropPkt i (setBob i (fun b => { b with words := b.words ++ packetWords l, wptr := bobNext i b.wptr (packetWords l).length }) s)

/-- A transfer is abandoned: the rest of its packet is discarded (R64, R66, R379). -/
def bobAbandon (i : Fin 11) (s : State) : State := when ((vget s.hed.bobs i).words ≠ []) (bobDropPkt i) s

/-- The mover begins the data of another transfer. -/
def moverClear (s : State) : State := { s with hed := { s.hed with xfer := .whole } }

/-- How the data of a transfer to host memory come to the mover: what its reads of the banks have met, or a poisoned word of a poisoned
crossing (R377, R378, R385; assumption log 163). -/
def moverData (s : State) : Xfer := if crossPois s 15 then .poisoned else s.hed.xfer

/-- Words that the mover pops at link rate when only `n` of them come in time: the rest of the pops give the last word popped, and what
comes later is discarded (R376, R378, R379; assumption log 157). The bytes are those that it sends. -/
def bobLate (i : Fin 11) (n : Nat) (l : List Byte) (s : State) : State × List Byte :=
  let k := min n ((l.length + 7) / 8 - 1)
  let r := bobUnder i ((l.length + 7) / 8 - k) (bobThrough i (l.take (8 * k)) s)
  (bobRefuse i (l.drop (8 * k)) r.1, (l.take (8 * k) ++ r.2.flatMap fun (w : BobWord) => w.data ++ List.replicate (8 - w.data.length) 0).take l.length)

/-- The mover writes module data to host memory, `x` being how they cross to it: the status that their descriptor completes with where they
do not cross sound, POISON with nothing written, or UNDERRUN (R59, R377, R378). `g` is the fence group whose parity fails. -/
def moverWrite (g addr : Nat) (b : List Byte) (x : Xfer) (s : State) : State × Option Nat :=
  let s := moverClear s
  match x with
  | .whole => (emit (.hostWrite addr b) (bobThrough 8 b s), none)
  | .empty n => let r := bobLate 8 n b s; (emit (.hostWrite addr r.2) r.1, some stUnderrun)
  | .parityBad => (bobRefuse 8 b (parityFail g s), some stPoison)
  | .poisoned => (bobRefuse 8 b s, some stPoison)

/-- The fence groups at the two ends of a bobbin (R383). -/
def bobGroups (i : Fin 11) : List Nat :=
  if i.val < 4 then [8 + i.val, 19, 21]
  else if i.val < 8 then [4 + i.val, 21]
  else if i.val = 8 then [15]
  else if i.val = 9 then [14]
  else [12, 15]

/-- Both sides of a group's crossings return to zero and agree (R384). -/
def crossReset (g : Nat) (s : State) : State :=
  { s with hed := { s.hed with
    pois := s.hed.pois &&& ~~~(1#25 <<< g)
    toggles := s.hed.toggles.mapIdx fun i (t : Toggle) => if i = g then {} else t
    bobs := Vector.ofFn fun i => if (bobGroups i).contains g then {} else vget s.hed.bobs i
    epochA := Vector.ofFn fun i => if i.val = g then vget s.hed.epochA i + 1 else vget s.hed.epochA i
    epochB := Vector.ofFn fun i => if i.val = g then vget s.hed.epochA i + 1 else vget s.hed.epochB i } }

/-- One side of a group's crossings is reset alone: its epoch returns to 0, words in flight are discarded and counted, the crossing is
poisoned, event 0x0904 is raised (R385). -/
def crossEpoch (g : Fin 25) (words : Nat) (s : State) : State :=
  raiseFabric 0x0904 6 g.val { s with hed := { s.hed with
    epochB := vset s.hed.epochB g 0
    bobs := Vector.ofFn fun i => if (bobGroups i).contains g.val then {} else vget s.hed.bobs i
    epochN := holdInc 0xFFFF s.hed.epochN, discard := holdAdd 0xFFFF s.hed.discard words, pois := s.hed.pois ||| (1#25 <<< g.val) } }

/-! ## Point updates -/

/-- POINT_UPDATE (R24, R377, R385). A word that the stopped hub has not read yet shows neither its parity nor its poison tag. -/
def execPointUpdate (idx : Fin 16384) (v : Word) (mark : Mark) (s : State) : Res :=
  ok (if crossPois s (delivererGroup s idx.val) then crossDiscard s
    else if !(fabricOn s) && mark ≠ .good then s
    else pointWord (delivererGroup s idx.val) mark idx.val v s)

end Sys2Proof.Machine
end

