-- ==== Sys2Proof/Machine/Recorder.lean ====
section
/-! DEFINITION. The event recorder and the streams' buffers (16_event_recorder.md; R66 for streams), and the recorder's own
commands. -/

namespace Sys2Proof.Machine

/-! ## Streams (R66, R261) -/

/-- Change a stream. -/
def setStream (idx : Nat) (f : Stream → Stream) (s : State) : State :=
  match mapGet s.shu.streams idx with
  | some x => { s with shu := { s.shu with streams := mapSet s.shu.streams idx (f x) } }
  | none => s

/-- Put `bytes` into the first posted buffer with room; a buffer in which they do not fit completes early (R261; for the
other sources by assumption log 13). Without a buffer nothing is written, and the answer is false. Data that do not cross sound to the mover
end the buffer's descriptor with POISON or UNDERRUN (R59, R377, R378, assumption log 157). -/
def streamPut : Nat → Nat → List Byte → State → State × Bool
  | 0, _, _, s => (s, false)
  | fuel + 1, idx, bytes, s =>
    match mapGet s.shu.streams idx with
    | none => (s, false)
    | some x =>
      match x.bufs with
      | [] => (s, false)
      | b :: rest =>
        if b.used + bytes.length ≤ b.len then
          let used := b.used + bytes.length
          let r := moverWrite 15 (b.addr + b.used) bytes (moverData s) s
          match r.2 with
          | some st => (completeOpen b.no st (setStream idx (fun y => { y with bufs := rest }) r.1), true)
          | none =>
            if used = b.len then (complete b.no 0 used (setStream idx (fun y => { y with bufs := rest }) r.1), true)
            else (setStream idx (fun y => { y with bufs := { b with used := used } :: rest }) r.1, true)
        else streamPut fuel idx bytes (complete b.no 0 b.used (setStream idx (fun y => { y with bufs := rest }) s))

/-- Deliver one record to a stream that drops records while no buffer is posted: `mk` builds it from its LOSS flag (R178,
R217, R421). -/
def streamRecord (idx : Nat) (mk : Bool → List Byte) (s : State) : State :=
  match mapGet s.shu.streams idx with
  | none => s
  | some x =>
    let r := streamPut 17 idx (mk x.loss) s
    if r.2 then setStream idx (fun y => { y with loss := false }) r.1
    else setStream idx (fun y => { y with loss := true, dropped := y.dropped + 1 }) r.1

/-- The live streams of a source: handle index and instance (R62 kind 7). -/
def streamsOf (s : State) (source : Nat) : List (Nat × Nat) :=
  s.shu.handles.filterMap fun (p : Nat × HEntry) =>
    if p.2.kind = 7 && p.2.st = HState.live && p.2.target / 256 = source then some (p.1, p.2.target % 256) else none

/-! ## Records (R411 to R414) -/

/-- The 12 bytes of a time field. -/
def stampBytes (t : Stamp) : List Byte :=
  leBytes 6 t.sec ++ [0, 0] ++ leBytes 4 (t.ns % 2 ^ 30 + flag t.unsync 31)

/-- Bytes 0 to 247 of a record. -/
def recBody (r : Rec) : List Byte :=
  leBytes 2 r.code ++ leBytes 1 r.sev ++ leBytes 1 (flag r.overw 0 + flag r.csat 1) ++ leBytes 4 r.count ++ leBytes 4 r.suppN ++
  leBytesInt 4 r.vmin ++ leBytesInt 4 r.vmax ++ leBytesInt 4 r.vlast ++
  stampBytes r.first ++ stampBytes r.last ++ stampBytes r.tmin ++ stampBytes r.tmax ++
  r.hist.flatMap (leBytes 4) ++ leBytes 8 r.lseq ++ leBytes 8 r.cseq ++ leBytes 2 r.prevCode ++ leBytes 1 r.prevSev ++
  leBytes 1 r.hmode ++ leBytesInt 4 r.hbase ++ leBytes 1 r.wsh ++ [0, 0, 0] ++ leBytes 4 r.epoch ++ List.replicate 80 0

/-- The 256 bytes of a copy with generation `gen` and a good VMARK. -/
def recBytes (r : Rec) (gen : Nat) : List Byte :=
  let b := recBody r ++ leBytes 4 gen
  b ++ leBytes 4 (crc32n b)

/-- The configuration of a code: the running image's, or the defaults (R414). -/
def codeCfg (s : State) (code : Nat) : CodeDef :=
  (s.codes.find? (·.code = code)).getD { code := code, rate := 100, burst := 32, hmode := 0, wsh := 0, hbase := 0 }

/-- A full bucket in micro-tokens. -/
def fullBucket (c : CodeDef) : Nat := c.burst * 1000000

/-- The histogram bin of a value (R413). -/
def histBin (r : Rec) (v : Int) : Nat :=
  if r.hmode = 1 then min 15 ((bitLen v.natAbs + 1) / 2)
  else (max 0 (min 15 (Int.fdiv (v - r.hbase) (2 ^ r.wsh)))).toNat

/-- A recorded raise updates a record that holds at least one (R412), and takes sequence number `seq`. -/
def recUpdate (r : Rec) (x : Raise) (seq : Nat) : Rec :=
  let b := histBin r x.value
  { r with
    count := holdInc 0xFFFFFFFF r.count
    csat := r.csat || r.count = 0xFFFFFFFF
    hist := r.hist.set b (holdInc 0xFFFFFFFF ((r.hist[b]?).getD 0))
    sev := max r.sev x.sev
    vlast := x.value
    last := x.stamp
    vmin := if x.value < r.vmin then x.value else r.vmin
    tmin := if x.value < r.vmin then x.stamp else r.tmin
    vmax := if r.vmax < x.value then x.value else r.vmax
    tmax := if r.vmax < x.value then x.stamp else r.tmax
    lseq := seq }

/-- The record that a first raise creates (R412, R413), before that raise is counted. -/
def recNew (s : State) (x : Raise) (seq : Nat) : Rec :=
  let c := codeCfg s x.code
  { code := x.code, sev := x.sev, vmin := x.value, vmax := x.value, vlast := x.value, first := x.stamp, last := x.stamp
    tmin := x.stamp, tmax := x.stamp, hist := List.replicate 16 0, cseq := seq, hmode := c.hmode, hbase := c.hbase
    wsh := c.wsh, epoch := s.rcd.clr }

/-- The record slot `i`. -/
def recSlot (s : State) (i : Nat) : RecSlot := mapGetD {} s.rcd.slots i

/-- Set a record slot. -/
def setSlot (i : Nat) (x : RecSlot) (s : State) : State := { s with rcd := { s.rcd with slots := mapPut {} s.rcd.slots i x } }

/-- The slots that hold records. -/
def heldSlots (s : State) : List (Nat × RecSlot) := s.rcd.slots.filter (·.2.held)

/-- LOU_USED. -/
def recUsed (s : State) : Nat := (heldSlots s).length

/-- The slot that holds a code's record. -/
def slotOf (s : State) (code : Nat) : Option Nat := ((heldSlots s).find? (·.2.body.code = code)).map (·.1)

/-- The lowest number from `i` on, within `fuel` numbers, that satisfies `p`. -/
def firstFrom (p : Nat → Bool) : Nat → Nat → Option Nat
  | 0, _ => none
  | fuel + 1, i => if p i then some i else firstFrom p fuel (i + 1)

/-- The lowest-numbered free slot (R416): one that holds no record, first among those that do not wait to be erased (R422,
assumption log 14). -/
def freeSlot (s : State) : Option Nat :=
  if 4096 ≤ recUsed s then none
  else match firstFrom (fun i => !(recSlot s i).held && !(recSlot s i).erase) 4096 0 with
    | some i => some i
    | none => firstFrom (fun i => !(recSlot s i).held) 4096 0

/-- The record with the lowest SEV, and of those the smallest LSEQ, among those below severity `sev` (R417). -/
def victim (s : State) (sev : Nat) : Option (Nat × RecSlot) :=
  ((heldSlots s).filter (·.2.body.sev < sev)).foldl (fun best p =>
    match best with
    | none => some p
    | some q => if p.2.body.sev < q.2.body.sev || (p.2.body.sev = q.2.body.sev && p.2.body.lseq < q.2.body.lseq) then some p
                else some q) none

/-- The feed record of a raise (R421). -/
def feedBytes (x : Raise) (e : RaiseEnd) (loss : Bool) (seq : Nat) : List Byte :=
  leBytes 2 x.code ++ leBytes 1 x.sev ++
  leBytes 1 (flag (e = .supp) 0 + flag (e = .full) 1 + flag (e = .frozen) 2 + flag loss 3) ++
  leBytesInt 4 x.value ++ stampBytes x.stamp ++ leBytes 4 seq

/-- Every event feed whose lowest severity the raise reaches receives it (R421). -/
def feed (x : Raise) (e : RaiseEnd) (s : State) : State :=
  (streamsOf s 4).foldl (fun t p =>
    if p.2 ≤ x.sev then
      let n := mapGetD 0 t.rcd.feedSeq p.1
      streamRecord p.1 (fun loss => feedBytes x e loss n)
        { t with rcd := { t.rcd with feedSeq := mapSet t.rcd.feedSeq p.1 ((n + 1) % 2 ^ 32) } }
    else t) s

/-- Record a raise in the slot that holds its code's record (steps 3 and 4 of R410). -/
def applyHeld (x : Raise) (i : Nat) (s : State) : State × RaiseEnd :=
  let sl := recSlot s i
  let c := codeCfg s x.code
  if c.rate ≠ 0 && sl.tokens < 1000000 then
    ({ setSlot i { sl with body := { sl.body with suppN := holdInc 0xFFFFFFFF sl.body.suppN }, dirty := true } s with
       rcd := { (setSlot i { sl with body := { sl.body with suppN := holdInc 0xFFFFFFFF sl.body.suppN }, dirty := true } s).rcd with
                supp := holdInc 0xFFFFFFFF s.rcd.supp } }, .supp)
  else
    let seq := (s.rcd.seq + 1) % 2 ^ 64
    let s1 := setSlot i { sl with body := recUpdate sl.body x seq, tokens := sl.tokens - 1000000, dirty := true } s
    ({ s1 with rcd := { s1.rcd with seq := seq } }, .recorded)

/-- Create a record in a slot and record the raise that creates it. `old` is the record it replaces. -/
def applyNew (x : Raise) (i : Nat) (old : Option Rec) (s : State) : State × RaiseEnd :=
  let seq := (s.rcd.seq + 1) % 2 ^ 64
  let r := recNew s x seq
  let r := match old with
    | some o => { r with overw := true, prevCode := o.code, prevSev := o.sev }
    | none => r
  let sl := recSlot s i
  applyHeld x i (setSlot i { sl with held := true, body := r, tokens := fullBucket (codeCfg s x.code), erase := false } s)

/-- HK1 applies one raise (R410). -/
def applyRaise (x : Raise) (s : State) : State × RaiseEnd :=
  if s.rcd.louFrz || !s.rcd.frozen.isEmpty then ({ s with rcd := { s.rcd with floss := (s.rcd.floss + 1) % 2 ^ 32 } }, .frozen)
  else match slotOf s x.code with
    | some i => applyHeld x i s
    | none => match freeSlot s with
      | some i => applyNew x i none s
      | none => match victim s x.sev with
        | some (i, sl) => applyNew x i (some sl.body) { s with rcd := { s.rcd with ovr := holdInc 0xFFFFFFFF s.rcd.ovr } }
        | none => ({ s with rcd := { s.rcd with fullN := holdInc 0xFFFF s.rcd.fullN } }, .full)

/-- HK1 takes the oldest raise of the bobbin. -/
def raiseTake (s : State) : State :=
  match s.rcd.bobbin with
  | [] => s
  | x :: rest =>
    let r := applyRaise x { s with rcd := { s.rcd with bobbin := rest } }
    feed x r.2 r.1

/-! ## Copies in MRAM (R415) -/

/-- A copy is valid under clear epoch `clr`. -/
def copyValid (clr : Nat) (c : RecCopy) : Bool := c.ok && c.body.epoch = clr

/-- Of two valid copies, `a` is ahead of `b` by less than 2^31 generations. -/
def genAhead (a b : Nat) : Bool := let d := (a + 2 ^ 32 - b) % 2 ^ 32; 0 < d && d < 2 ^ 31

/-- The newer valid copy: true for copy A, false for copy B. -/
def newerCopy (clr : Nat) (x : RecSlot) : Option Bool :=
  match copyValid clr x.copyA, copyValid clr x.copyB with
  | true, true => some (!genAhead x.copyB.gen x.copyA.gen)
  | true, false => some true
  | false, true => some false
  | false, false => none

/-- The generation of the newer valid copy, 0 for none. -/
def slotGen (clr : Nat) (x : RecSlot) : Nat :=
  match newerCopy clr x with
  | some true => x.copyA.gen
  | some false => x.copyB.gen
  | none => 0

/-- HK1 writes a slot's record into the copy that is not the newer valid one, with the next generation. -/
def writeSlot (clr : Nat) (x : RecSlot) : RecSlot :=
  let c : RecCopy := { body := x.body, gen := (slotGen clr x + 1) % 2 ^ 32, ok := true }
  if newerCopy clr x = some true then { x with copyB := c, dirty := false } else { x with copyA := c, dirty := false }

/-- At start-up HK1 rebuilds its records from the valid copies, with full buckets (R414, R416); a slot without a valid copy
holds nothing, and what its copies hold is erased in time. -/
def rebuildSlot (s : State) (x : RecSlot) : RecSlot :=
  let clr := s.rcd.clr
  let with_ (c : RecCopy) := { x with held := true, body := c.body, tokens := fullBucket (codeCfg s c.body.code), dirty := false, erase := false }
  match newerCopy clr x with
  | some true => with_ x.copyA
  | some false => with_ x.copyB
  | none => { x with held := false, body := {}, tokens := 0, dirty := false, erase := x.copyA.ok || x.copyB.ok }

/-- HK1's restart of the recorder: records from MRAM, freezes released, registers of the volatile part at reset. -/
def recorderRestart (s : State) : State :=
  { s with rcd := { s.rcd with
      slots := s.rcd.slots.map fun p => (p.1, rebuildSlot s p.2)
      frozen := []
      louFrz := false } }

/-! ## Reading (R419, R420) -/

/-- The snapshot of a slot's record: GEN is that of the last copy written, or of the write that is due (assumption log 15). -/
def slotBytes (s : State) (x : RecSlot) : List Byte :=
  let g := slotGen s.rcd.clr x
  recBytes x.body (if x.dirty then (g + 1) % 2 ^ 32 else g)

/-- The held slot with the lowest code that satisfies `p`. -/
def lowestCode (s : State) (p : Nat → Bool) : Option (Nat × RecSlot) :=
  ((heldSlots s).filter (fun q => p q.2.body.code)).foldl (fun best q =>
    match best with
    | none => some q
    | some b => if q.2.body.code < b.2.body.code then some q else some b) none

/-- The record that LOU_CUR selects. -/
def louSelect (s : State) (op key : Nat) : Option (Nat × RecSlot) :=
  if op = 0 then lowestCode s (· = key)
  else if op = 1 then lowestCode s (key < ·)
  else if op = 2 then (heldSlots s).find? (·.1 = key % 4096)
  else none

/-- A write to LOU_CUR loads the snapshot. -/
def louLoad (v : Nat) (s : State) : State :=
  match louSelect s (bits v 16 2) (bits v 0 16) with
  | some (i, x) => { s with rcd := { s.rcd with cur := v % 2 ^ 18, snap := slotBytes s x, valid := true, found := true, slot := i } }
  | none => { s with rcd := { s.rcd with cur := v % 2 ^ 18, snap := [], valid := true, found := false, slot := 0 } }

/-- The slots of the records whose code is at or above `code`, in rising code order, at most `n` of them. -/
def slotsFrom (s : State) : Nat → Nat → List (Nat × RecSlot)
  | 0, _ => []
  | n + 1, code =>
    match lowestCode s (code ≤ ·) with
    | some p => p :: slotsFrom s n (p.2.body.code + 1)
    | none => []

/-- Those records. -/
def recordsFrom (s : State) (n code : Nat) : List (List Byte) := (slotsFrom s n code).map fun p => slotBytes s p.2

/-! ## Freezes and clearing (R418, R422) -/

/-- Freezes held: LOU_STAT.HOLDERS. -/
def holders (s : State) : Nat := s.rcd.frozen.length + b2n s.rcd.louFrz

/-- A cursor takes a freeze. -/
def freezeTake (idx : Nat) (s : State) : State :=
  if s.rcd.frozen.contains idx then s else { s with rcd := { s.rcd with frozen := s.rcd.frozen ++ [idx] } }

/-- A cursor's freeze is released. -/
def freezeDrop (idx : Nat) (s : State) : State :=
  { s with rcd := { s.rcd with frozen := s.rcd.frozen.filter (· ≠ idx) } }

/-- REC_CLEAR's instant: the clear epoch advances, every record becomes invalid, every freeze and the snapshot go, and the
first raise of the empty recorder is 0x0B09 with the number of records discarded. -/
def recorderClear (s : State) : State :=
  let n := recUsed s
  let s1 := { s with rcd := { s.rcd with
      clr := (s.rcd.clr + 1) % 2 ^ 32
      slots := s.rcd.slots.map fun p => (p.1, { p.2 with held := false, body := {}, tokens := 0, dirty := false, erase := true })
      frozen := []
      louFrz := false
      valid := false
      found := false
      snap := [] } }
  let x : Raise := { code := 0x0B09, sev := 5, value := n, stamp := stampHk s }
  let r := applyRaise x s1
  feed x r.2 r.1

/-! ## The recorder's commands -/

/-- A code that no part of the module raises (R423). -/
def codeReserved (code : Nat) : Bool := let h := code / 256; h = 0 || (0x0D ≤ h && h ≤ 0x0F) || 0x18 ≤ h

/-- The codes that the bank fabric raises, and so stamps through its follower (R296, R409): of banks and crossings, of Loom tasks, and those that
a publish raises. -/
def codeFabric (code : Nat) : Bool := let h := code / 256; h = 0x09 || (0x10 ≤ h && h ≤ 0x17) || [0x0102, 0x0107, 0x010B].contains code

/-- RAISE: a source raises an event into the raise bobbin (R409); none raises a reserved code (R423). -/
def execRaiseEvent (code : BitVec 16) (sev : Fin 8) (value : Word) (s : State) : Res :=
  ok (when (!codeReserved code.toNat) (if codeFabric code.toNat then raiseFabric code.toNat sev.val value.toInt else raise code.toNat sev.val value.toInt) s)

/-- RAISE_APPLY: HK1 takes a raise from the bobbin (R410, R421); raises made before it has rebuilt its index wait there (R416). -/
def execRaiseApply (s : State) : Res := ok (when (hkOn s && (s.pwr.loaded || s.pwr.phase = .halt)) raiseTake s)

/-- RECORD_WRITE: a changed record is written to MRAM (R415). -/
def execRecordWrite (slot : Fin 4096) (s : State) : Res :=
  let x := recSlot s slot.val
  ok (when (hkOn s && x.held && x.dirty) (setSlot slot.val (writeSlot s.rcd.clr x)) s)

/-- FREEZE_TIMEOUT: a freeze held for 1 s is released and counted (R418). -/
def execFreezeTimeout (h : Holder) (s : State) : Res :=
  ok (match h with
    | .cursor i =>
      if hkOn s && s.rcd.frozen.contains i then
        freezeDrop i { s with rcd := { s.rcd with ftmo := holdInc 0xFFFF s.rcd.ftmo } }
      else s
    | .louFrz =>
      if hkOn s && s.rcd.louFrz then { s with rcd := { s.rcd with louFrz := false, ftmo := holdInc 0xFFFF s.rcd.ftmo } } else s)

/-- RECORD_ERASE: the old copies of a slot are erased (R422). -/
def execRecordErase (slot : Fin 4096) (s : State) : Res :=
  let x := recSlot s slot.val
  ok (when (hkOn s && x.erase) (setSlot slot.val { x with erase := false, copyA := {}, copyB := {} }) s)

end Sys2Proof.Machine
end

