-- ==== Sys2Proof/Machine/Digital.lean ====
section
/-! DEFINITION. The digital field channels (08_digital_field_channels.md): the switch, protection, the input stage, the bank
supply, the bank status word, and the field I/O logic's own commands. -/

namespace Sys2Proof.Machine

/-- The bank of a channel (R203). -/
def dioBankOf (c : Fin 32) : Fin 4 := ⟨c.val / 8, by omega⟩

/-- Channel `t` of a bank. -/
def dioChOf (b : Fin 4) (t : Fin 8) : Fin 32 := ⟨8 * b.val + t.val, by omega⟩

/-- A channel's bank exists on the variant (R4). -/
def dioPresent (s : State) (c : Fin 32) : Bool := c.val / 8 < bankCount s

/-- Change a channel. -/
def setDio (c : Fin 32) (f : DioCh → DioCh) (s : State) : State := { s with dio := vmod s.dio c f }

/-- Change a bank. -/
def setBank (b : Fin 4) (f : DioBank → DioBank) (s : State) : State := { s with dbank := vmod s.dbank b f }

/-- The mode is OUTPUT or OUTPUT_RB (R204). -/
def dioOut (x : DioCh) : Bool := x.cfg.mode = 2 || x.cfg.mode = 3

/-- The mode delivers IN_PT (R204). -/
def dioIn (x : DioCh) : Bool := x.cfg.mode = 1 || x.cfg.mode = 3

/-- The sampled state after INV (R215). -/
def dioRaw (x : DioCh) : Bool := x.term != x.cfg.inv

/-- Held off by protection: thermal retry, latch, shedding, undervoltage (R207). -/
def dioHeld (k : DioBank) (x : DioCh) : Bool := x.prot != .none || x.shed || k.uvOff

/-- What the switch of a channel must be: driven by a live bank on a driving module, from a command that no protection holds
off (R205, R207, R397). -/
def dioWanted (s : State) (c : Fin 32) : Bool :=
  let x := vget s.dio c
  let k := vget s.dbank (dioBankOf c)
  k.live && !k.wdog && dioOut x && x.cmdKnown && x.cmd && !dioHeld k x && drives s && s.sec.life ≠ .decommissioned && fieldOn s

/-- The switch takes the state wanted. A turn-on clears EXT_DRIVE (R213) and is a retry when one is due (R219). -/
def dioEval (c : Fin 32) (s : State) : State :=
  let w := dioWanted s c
  setDio c (fun x =>
    if w && !x.sw then { x with sw := true, ext := false, retries := if x.retryDue then x.retries + 1 else x.retries
                                retryDue := false }
    else if !w && x.sw then { x with sw := false, limit := false }
    else x) s

/-- A channel shows FAULT: a flag or protection state of R220, the bank's UV_OFF on an output among them (R216, assumption log 56). -/
def dioFault (k : DioBank) (x : DioCh) : Bool := x.prot != .none || x.shed || x.ext || x.rbLow || x.wbrk || (k.uvOff && dioOut x)

/-- A bit mask over the eight channels of a bank. -/
def bankMask (s : State) (b : Fin 4) (p : DioCh → Bool) : Nat :=
  foldFin 8 (fun n t => n + flag (p (vget s.dio (dioChOf b t))) t.val) 0

/-- At least one channel of the bank is shed. -/
def bankShed (s : State) (b : Fin 4) : Bool := bankMask s b (·.shed) ≠ 0

/-- The bank status word (R216). -/
def bankStatus (s : State) (b : Fin 4) : Nat :=
  let k := vget s.dbank b
  bankMask s b (dioFault k) + bankMask s b (·.ext) * 2 ^ 8 + bankMask s b (·.wbrk) * 2 ^ 16 + flag k.warn 24 + flag k.low 25 +
    flag k.uvOff 26 + flag k.high 27 + flag (bankShed s b) 28 + flag k.low 29

/-- Deliver the bank status word when a bit of it has changed, or at once (R216, R223). -/
def bankReport (always : Bool) (b : Fin 4) (s : State) : State :=
  let k := vget s.dbank b
  let w := bankStatus s b
  if k.live && fieldOn s && (always || w ≠ k.lastStat) then
    pointUpdate k.statusPt (BitVec.ofNat 32 w) (setBank b (fun k => { k with lastStat := w }) s)
  else s

/-- Evaluate every switch of a bank and report. -/
def bankEval (b : Fin 4) (s : State) : State := bankReport false b (foldFin 8 (fun t i => dioEval (dioChOf b i) t) s)

/-- Evaluate every switch of the module (a change of role or of power). -/
def dioEvalAll (s : State) : State := foldFin 4 (fun t b => bankEval b t) s

/-- One channel's switch, then the bank's status. -/
def dioUpdate (c : Fin 32) (s : State) : State := bankReport false (dioBankOf c) (dioEval c s)

/-- A publish that includes point `i` gives the channels with that OUT_PT their command (R207). A command of 0 in the retry
wait cancels the pending retry (R219). -/
def dioCommand (i : Nat) (v : Word) (s : State) : State :=
  if fieldOn s then
    foldFin 32 (fun t c =>
      let x := vget t.dio c
      if dioOut x && x.cfg.outPt = i && (vget t.dbank (dioBankOf c)).live then
        let on := v.getLsbD 0
        dioUpdate c (setDio c (fun x =>
          if !on && x.prot = .retry then { x with cmd := on, cmdKnown := true, prot := .none, retryDue := true }
          else { x with cmd := on, cmdKnown := true }) t)
      else t) s
  else s

/-! ## The input stage -/

/-- The thresholds of a reference supply in units of 10 mV (R210). -/
def dioThresholds (v : Nat) : Nat × Nat :=
  let r := max 1400 (min v 2400)
  ((4583 * r + 5000) / 10000, (2083 * r + 5000) / 10000)

/-- The thresholds in force: those of the filtered supply, held at 14 V while LOW_SUPPLY, at 24 V until a first value. -/
def bankThresholds (k : DioBank) : Nat × Nat :=
  if k.low then dioThresholds 1400 else if k.vKnown then dioThresholds k.vbank else dioThresholds 2400

/-- Recompute a bank's thresholds. -/
def setThresholds (b : Fin 4) (s : State) : State :=
  setBank b (fun k => { k with von := (bankThresholds k).1, voff := (bankThresholds k).2 }) s

/-- Deliver IN_PT, unless LOW_SUPPLY or WIRE_BREAK holds it (R211, R214, R216). -/
def dioDeliver (c : Fin 32) (s : State) : State :=
  let x := vget s.dio c
  let k := vget s.dbank (dioBankOf c)
  if fieldOn s && k.live && dioIn x && !k.low && !x.wbrk then pointUpdate x.cfg.inPt (BitVec.ofNat 32 (b2n x.deb)) s else s

/-- Deliver CNT_PT, unless LOW_SUPPLY holds it. -/
def dioDeliverCount (c : Fin 32) (s : State) : State :=
  let x := vget s.dio c
  let k := vget s.dbank (dioBankOf c)
  if fieldOn s && k.live && x.cfg.cnt && !k.low then pointUpdate x.cfg.cntPt x.count s else s

/-- 3.0 µs before an instant, to 10 ns (R215). -/
def edgeStamp (sec ns : Nat) : Nat × Nat :=
  if 3000 ≤ ns then (sec, (ns - 3000) / 10 * 10) else (sec - 1, (ns + 1000000000 - 3000) / 10 * 10)

/-- The 16-byte record of the digital edge log (R217). -/
def edgeBytes (sec ns : Nat) (uns st loss : Bool) (c seq : Nat) : List Byte :=
  leBytes 4 (ns + flag st 30 + flag uns 31) ++ leBytes 6 sec ++ leBytes 1 c ++ leBytes 1 (flag loss 0) ++ leBytes 4 seq

/-- An accepted edge with LOG enters the edge log streams of its bank (R217). -/
def edgeLog (c : Fin 32) (sec ns : Nat) (uns st : Bool) (s : State) : State :=
  let b := dioBankOf c
  let seq := (vget s.dbank b).seq
  let e := edgeStamp sec ns
  (streamsOf s 3).foldl (fun t p =>
    if p.2 = b.val then streamRecord p.1 (fun loss => edgeBytes e.1 e.2 uns st loss c.val seq) t else t)
    (setBank b (fun k => { k with seq := (k.seq + 1) % 2 ^ 32 }) s)

/-- The debounced state takes the sampled state; the edge is counted, logged and delivered (R215 to R217). -/
def dioAccept (c : Fin 32) (sec ns : Nat) (uns : Bool) (s : State) : State :=
  let x := vget s.dio c
  let st := dioRaw x
  let s1 := setDio c (fun x => { x with deb := st, timer := none
                                        count := if x.cfg.cnt && st then x.count + 1 else x.count }) s
  let s2 := when (x.cfg.log && x.cfg.mode ≠ 0 && (vget s.dbank (dioBankOf c)).live) (edgeLog c sec ns uns st) s1
  when (st && x.cfg.cnt) (dioDeliverCount c) (dioDeliver c s2)

/-! ## The commands of the field I/O logic -/

/-- The comparison of the next sample, while field I/O logic runs (R21): a difference from the debounced state starts the debounce timer, or with DEB = 0 is taken at
once; without one the timer is discarded (R215). -/
def dioCompare (c : Fin 32) (s : State) : State :=
  let x := vget s.dio c
  let f := s.tim.field.clk
  if !(fieldOn s) then s
  else if dioRaw x = x.deb then setDio c (fun x => { x with timer := none }) s
  else if x.cfg.deb = 0 then dioAccept c f.sec f.ns (unsync s) s
  else if x.timer.isSome then s
  else setDio c (fun x => { x with timer := some (f.sec, f.ns, unsync s) }) s

/-- INPUT_CHANGE: the terminal's sampled state takes `state` (R215). -/
def execInputChange (c : Fin 32) (state : Bool) (s : State) : Res :=
  ok (if fieldOn s && dioPresent s c then
    dioCompare c (setDio c (fun x => { x with term := state }) s)
  else s)

/-- DEBOUNCE_END: the sampled state has stayed different for DEB, and the edge is accepted (R215). -/
def execDebounceEnd (c : Fin 32) (s : State) : Res :=
  ok (match (vget s.dio c).timer with
    | some (sec, ns, uns) => if fieldOn s && dioRaw (vget s.dio c) != (vget s.dio c).deb then dioAccept c sec ns uns s else s
    | none => s)

/-- The highest-numbered channel of a bank that is on. -/
def highestOn (s : State) (b : Fin 4) : Option (Fin 32) :=
  foldFin 8 (fun o t => if (vget s.dio (dioChOf b t)).sw then some (dioChOf b t) else o) none

/-- BANK_SHED: the bank current, now `ma`, has stayed above 3.0 A for 10 ms (R208). -/
def execBankShed (b : Fin 4) (ma : Nat) (s : State) : Res :=
  ok (if fieldOn s && b.val < bankCount s then
    let s1 := setBank b (fun k => { k with ibank := ma, imax := max k.imax ma }) s
    match highestOn s1 b with
    | some c => if 3000 < ma then raiseField 0x030A 5 c.val (dioUpdate c (setDio c (fun x => { x with shed := true }) s1)) else s1
    | none => s1
  else s)

/-- THRESHOLD_UPDATE: the filtered bank supply, and VMIN (R210, R225). -/
def execThresholdUpdate (b : Fin 4) (v : BankSupply) (s : State) : Res :=
  ok (when (fieldOn s && b.val < bankCount s) (fun s =>
    setThresholds b (setBank b (fun k => { k with
      vbank := v.filtered, vKnown := true, vmin := if k.vKnown then min k.vmin (min v.filtered v.lowest) else min v.filtered v.lowest }) s)) s)

/-- LOW_SUPPLY is entered: thresholds at their 14 V values, inputs hold, event 0x0302 (R211). -/
def enterLow (b : Fin 4) (s : State) : State :=
  if (vget s.dbank b).low then s
  else raiseField 0x0302 4 b.val (setThresholds b (setBank b (fun k => { k with low := true }) s))

/-- UV_OFF is entered, with LOW_SUPPLY: every switch of the bank turns off (R211). -/
def enterUv (b : Fin 4) (s : State) : State :=
  if (vget s.dbank b).uvOff then s
  else enterLow b (raiseField 0x0303 5 b.val (bankEval b (setBank b (fun k => { k with uvOff := true }) s)))

/-- SUPPLY_CONDITION_ENTERED (R211). Before the first filtered value nothing is evaluated (R210). -/
def execSupplyConditionEntered (b : Fin 4) (k : SupCond) (s : State) : Res :=
  ok (let x := vget s.dbank b
    if fieldOn s && b.val < bankCount s && x.vKnown then
      bankReport false b (match k with
        | .warn => if x.warn then s else raiseField 0x0301 3 b.val (setBank b (fun k => { k with warn := true }) s)
        | .low => enterLow b s
        | .uvOff => enterUv b s
        | .high => if x.high then s else raiseField 0x030C 4 b.val (setBank b (fun k => { k with high := true }) s)
        | .nosup => enterLow b (enterUv b (setBank b (fun k => { k with nosup := true }) s)))
    else s)

/-- The inputs of a bank are valid again: their points take the present values. -/
def bankInputs (b : Fin 4) (s : State) : State :=
  foldFin 8 (fun t i => dioDeliverCount (dioChOf b i) (dioDeliver (dioChOf b i) t)) s

/-- SUPPLY_CONDITION_RELEASED (R211, R212). The levels of LOW_SUPPLY and UV_OFF lie above that of NOSUP, which is released with them. -/
def execSupplyConditionReleased (b : Fin 4) (k : SupCond) (s : State) : Res :=
  ok (let x := vget s.dbank b
    if fieldOn s && b.val < bankCount s && x.vKnown then
      bankReport false b (match k with
        | .warn => setBank b (fun k => { k with warn := false }) s
        | .low =>
          if x.low then bankInputs b (setThresholds b (setBank b (fun k => { k with low := false, nosup := false }) s)) else s
        | .uvOff =>
          if x.uvOff then raiseField 0x0304 2 b.val (bankEval b (setBank b (fun k => { k with uvOff := false, nosup := false }) s)) else s
        | .high => setBank b (fun k => { k with high := false }) s
        | .nosup => setBank b (fun k => { k with nosup := false }) s)
    else s)

/-- RB_LOW: an output that is on and not in limit has stayed below the check level (R213). -/
def execRbLow (c : Fin 32) (s : State) : Res :=
  ok (let x := vget s.dio c
    if fieldOn s && dioOut x && x.cmd && x.sw && !x.rbLow then
      bankReport false (dioBankOf c) (raiseField 0x0309 5 c.val (setDio c (fun x => { x with rbLow := true, limit := false }) s))
    else s)

/-- EXT_DRIVE: an output that is off stays above VON (R213); suppressed on a module that does not drive, and until its checks
have started (R221). -/
def execExtDrive (c : Fin 32) (s : State) : Res :=
  ok (let x := vget s.dio c
    if fieldOn s && (vget s.dbank (dioBankOf c)).live && dioOut x && !x.sw && drives s && !s.mir.extWait && !x.ext then
      bankReport false (dioBankOf c) (raiseField 0x0307 4 c.val (setDio c (fun x => { x with ext := true }) s))
    else s)

/-- READBACK_FLAG_CLEAR: a readback condition has been absent for 1 ms (R213). -/
def execReadbackFlagClear (c : Fin 32) (k : RbFlag) (s : State) : Res :=
  ok (when (fieldOn s) (fun s => bankReport false (dioBankOf c) (setDio c (fun x =>
    match k with
    | .rbLow => { x with rbLow := false }
    | .extDrive => { x with ext := false }) s)) s)

/-- WIRE_BREAK: the terminal current of an INPUT channel with WB_EN has stayed below 0.3 mA for 10 ms (R214). -/
def execWireBreak (c : Fin 32) (s : State) : Res :=
  ok (let x := vget s.dio c
    let k := vget s.dbank (dioBankOf c)
    if fieldOn s && k.live && x.cfg.mode = 1 && x.cfg.wb && !k.low && !x.wbrk then
      bankReport false (dioBankOf c) (raiseField 0x0308 4 c.val (setDio c (fun x => { x with wbrk := true }) s))
    else s)

/-- WIRE_BREAK_CLEAR: the current has stayed above 0.3 mA for 10 ms (R214); the input point takes the present value. -/
def execWireBreakClear (c : Fin 32) (s : State) : Res :=
  ok (let x := vget s.dio c
    let k := vget s.dbank (dioBankOf c)
    if fieldOn s && x.wbrk && !k.low then
      bankReport false (dioBankOf c) (dioDeliver c (setDio c (fun x => { x with wbrk := false }) s))
    else s)

/-- THERMAL_SHUTDOWN: the switch turns off into the retry wait, or, after the fifth retry, latched (R218). -/
def execThermalShutdown (c : Fin 32) (s : State) : Res :=
  ok (let x := vget s.dio c
    if fieldOn s && x.sw then
      let s1 := setDio c (fun x => { x with prot := if 5 ≤ x.retries then .latched else .retry, tsd := holdInc 0xFF x.tsd }) s
      let s2 := if 5 ≤ x.retries then raiseField 0x0306 5 c.val s1 else raiseField 0x0305 3 c.val s1
      dioUpdate c s2
    else s)

/-- THERMAL_RETRY: 100 ms after the shutdown the channel turns on again if still commanded on (R218), or when UV_OFF releases
it (R212). -/
def execThermalRetry (c : Fin 32) (s : State) : Res :=
  ok (when (fieldOn s && (vget s.dio c).prot = .retry)
    (fun s => dioUpdate c (setDio c (fun x => { x with prot := .none, retryDue := true }) s)) s)

/-- RETRY_COUNT_RESET: the channel has been on for 1 s without a shutdown (R218). -/
def execRetryCountReset (c : Fin 32) (s : State) : Res :=
  ok (when (fieldOn s && (vget s.dio c).sw) (setDio c (fun x => { x with retries := 0 })) s)

/-- Release of a latched or shed channel (R219): the retry count returns to 0 and the switch follows the command. -/
def dioRelease (c : Fin 32) (latch shed : Bool) (s : State) : State :=
  let x := vget s.dio c
  if (latch && x.prot = .latched) || (shed && x.shed) then
    dioUpdate c (setDio c (fun x => { x with prot := if latch && x.prot = .latched then .none else x.prot
                                             shed := x.shed && !shed, retries := 0, retryDue := false }) s)
  else s

/-- The standby's comparison of a channel: an output's debounced state against its own Warp value, an input's against the
value forwarded by the active (R221). -/
def dioMismatch (s : State) (c : Fin 32) : Bool :=
  let x := vget s.dio c
  if dioOut x then x.deb != (ptGet s x.cfg.outPt).getLsbD 0
  else if x.cfg.mode = 1 then x.deb != (mapGetD 0 s.mir.pts x.cfg.inPt).getLsbD 0
  else false

/-- DIGITAL_DISAGREE: a standby's mismatch has lasted 10 ms plus DEB (R221). -/
def execDigitalDisagree (c : Fin 32) (s : State) : Res :=
  ok (let x := vget s.dio c
    if fieldOn s && s.mir.role = .standby && (vget s.dbank (dioBankOf c)).live && dioMismatch s c && !x.disagree then
      raiseField 0x030B 3 c.val (setDio c (fun x => { x with disagree := true }) s)
    else s)

/-- EXT_DRIVE_CHECK_START: 2 ms after the module became active (R221). -/
def execExtDriveCheckStart (s : State) : Res := ok { s with mir := { s.mir with extWait := false } }

/-! ## The configuration in force (R204, R223) -/

/-- Channel `c` takes its part of an accepted block; the comparison goes on with the next sample. -/
def dioChApply (c : Fin 32) (n : DioChCfg) (s : State) : State :=
  let x := vget s.dio c
  let o := x.cfg
  let isOut (m : Fin 4) : Bool := m = 2 || m = 3
  let isIn (m : Fin 4) : Bool := m = 1 || m = 3
  let enterOut := isOut n.mode && !isOut o.mode
  let resample := (isIn n.mode && n.mode ≠ o.mode) || n.inPt ≠ o.inPt || n.cntPt ≠ o.cntPt || n.inv != o.inv
  let cntNew := n.cnt && (!o.cnt || n.cntPt ≠ o.cntPt)
  let s1 := setDio c (fun x => { x with
    cfg := n
    cmd := if enterOut then false else x.cmd
    cmdKnown := if enterOut then false else x.cmdKnown
    prot := if !isOut n.mode && x.prot = .retry then .none else x.prot
    rbLow := x.rbLow && isOut n.mode
    ext := x.ext && isOut n.mode
    wbrk := x.wbrk && n.mode = 1 && n.wb
    timer := if n.deb ≠ o.deb || resample then none else x.timer
    deb := if resample then x.term != n.inv else x.deb
    count := if cntNew then 0 else x.count }) s
  let s2 := dioEval c s1
  let s3 := when resample (dioDeliver c) s2
  dioCompare c (when cntNew (dioDeliverCount c) s3)

/-- A bank takes an accepted block between two samples (R56, R223). -/
def dioApply (b : Fin 4) (statusPt : Nat) (chs : Vector DioChCfg 8) (s : State) : State :=
  let o := vget s.dbank b
  let s1 := setBank b (fun k => { k with live := true, statusPt := statusPt }) s
  let s2 := foldFin 8 (fun t i => dioChApply (dioChOf b i) (vget chs i) t) s1
  bankReport (statusPt ≠ o.statusPt) b s2

/-- A destroyed bank (R62, R219): outputs off, protection released, no configuration; what is measured stays. -/
def dioDestroy (b : Fin 4) (s : State) : State :=
  foldFin 8 (fun t i => setDio (dioChOf b i) (fun x => { term := x.term, tsd := x.tsd, deb := x.deb }) t)
    (setBank b (fun k => { k with live := false, statusPt := 0xFFFF, lastStat := 0 }) s)

end Sys2Proof.Machine
end

