-- ==== Sys2Proof/Machine/Analog.lean ====
section
/-! DEFINITION. The current-loop channels and encoder ports (09_current_loop_channels.md): the characteristic, the
transmitter, the status words, and their own commands. -/

namespace Sys2Proof.Machine

/-! ## Current channels -/

/-- Change a current channel. -/
def setAio (c : Fin 16) (f : Aio → Aio) (s : State) : State := { s with aio := vmod s.aio c f }

/-- The bank of a current channel. -/
def aioBankOf (c : Fin 16) : Fin 4 := ⟨c.val / 4, by omega⟩

/-- Channel `t` of a bank of current channels. -/
def aioChOf (b t : Fin 4) : Fin 16 := ⟨4 * b.val + t.val, by omega⟩

/-- The largest natural number with `k` bits or fewer whose square is at most `n`, from the bits found so far in `r`. -/
def isqrtBits (n : Nat) : Nat → Nat → Nat
  | 0, r => r
  | k + 1, r => isqrtBits n k (if (r + 2 ^ k) * (r + 2 ^ k) ≤ n then r + 2 ^ k else r)

/-- The integer square root of a number below 2^128. -/
def isqrt (n : Nat) : Nat := isqrtBits n 64 0

/-- `d × sqrt(p ÷ q)` rounded to the nearest integer, halves upwards, for `q` positive. -/
def roundSqrt (d : Int) (p q : Nat) : Int :=
  let num := 4 * d.natAbs * d.natAbs * p
  if 0 ≤ d then ((isqrt (num / q) + 1) / 2 : Nat)
  else
    let m := (num + q - 1) / q
    let k : Int := if m = 0 then 0 else (isqrt (m - 1) + 1 : Nat)
    0 - Int.fdiv k 2

/-- The value of a measured current of `i` µA after the characteristic (R231). -/
def aioChar (g : AioCfg) (i : Nat) : Word :=
  let n : Int := (i : Int) - g.lrv
  let q : Nat := g.urv - g.lrv
  let d := g.engHi - g.engLo
  let v : Int :=
    if g.char = 0 then roundDiv (g.engLo * q + d * n) q
    else if g.char = 1 then
      if n < 0 || n * 2147483648 < g.cutoff * q then g.engLo else g.engLo + roundSqrt d n.toNat q
    else
      let p := (max 0 (min n q)).toNat
      let j := min (32 * p / q) 31
      let a := (g.table[j]?).getD 0
      let b := (g.table[j + 1]?).getD 0
      roundDiv (a * q + (b - a) * (32 * p - j * q : Int)) q
  wordOf (sat32 v)

/-- The flags of the status word, bits [12:0] (R239). -/
def aioFlags (x : Aio) : Nat :=
  flag x.open_ 0 + flag x.compl 1 + flag x.mism 2 + flag x.short 3 + flag x.underI 4 + flag x.overI 5 + flag x.failLo 6 +
    flag x.failHi 7 + flag x.margLow 8 + flag x.bypass 9 + flag x.disagree 10 + flag x.share 11 + flag x.iso 12

/-- The status word. -/
def aioStatus (x : Aio) : Nat :=
  aioFlags x + (if x.cfg.cmode = .passive then fld (x.margin % 65536).toNat 16 16 else 0)

/-- Deliver the status word when a flag has changed or when asked; a change of MARGIN alone waits for 1 ms, counted in the
periodic conversions of 10 µs (R229, R239). -/
def aioReport (always : Bool) (c : Fin 16) (s : State) : State :=
  let x := vget s.aio c
  let w := aioStatus x
  if x.live && fieldOn s && (always || aioFlags x ≠ x.lastStat % 8192 || (w ≠ x.lastStat && 100 ≤ x.margN)) then
    pointUpdate x.cfg.statusPt (BitVec.ofNat 32 w) (setAio c (fun x => { x with lastStat := w, margN := 0 }) s)
  else s

/-- Change a channel and report. -/
def modAio (c : Fin 16) (f : Aio → Aio) (s : State) : State := aioReport false c (setAio c f s)

/-- A transmitter's command in µA, clamped (R233). -/
def aioClamp (g : AioCfg) (x : Int) : Nat :=
  if g.ne43 then (max 3800 (min x 20500)).toNat else (max 3600 (min x 21500)).toNat

/-- A writer gives a transmitter its command. -/
def aioCommand (c : Fin 16) (x : Int) (s : State) : State :=
  let a := vget s.aio c
  if fieldOn s && a.live && a.cfg.cmode = .passive then
    setAio c (fun a => { a with want := x, cmd := aioClamp a.cfg x, cmdKnown := true }) s
  else s

/-- The command that a Prism sink value `u` in Q1.31 stands for (R233). -/
def aioFromPrism (g : AioCfg) (u : Int) : Int := g.lrv + roundShift (((g.urv : Int) - g.lrv) * u) 31

/-- A publish that includes point `i` commands the transmitters with that OUT_PT (R233). -/
def aioPublish (i : Nat) (v : Word) (s : State) : State :=
  foldFin 16 (fun t c => if (vget t.aio c).cfg.outPt = i then aioCommand c v.toInt t else t) s

/-- Close or open the bypass of a transmitter (R237). -/
def aioBypass (on : Bool) (c : Fin 16) (s : State) : State :=
  when ((vget s.aio c).cfg.cmode = .passive) (modAio c (fun a => { a with bypass := on })) s

/-- Close or open the bypass of every transmitter. -/
def aioBypassAll (on : Bool) (s : State) : State := foldFin 16 (fun t c => aioBypass on c t) s

/-- What a Prism sample command to a current channel returns, where `fwd` is what the channel delivers as its own for 40 µs after a
take-over (R238); none where the capture is not served or invalid (R228, R229, R232, R234). -/
def aioCapture (a : Aio) (fwd : Option Int) (c : Capture) : Option Int :=
  if c.held || !a.live || a.changing || a.cfg.cmode ≠ .active || a.wdog || a.mism || a.short || a.iso then none
  else match a.fwdUntil, fwd with
    | true, some v => some v
    | _, _ =>
      if a.cfg.ne43 && (c.value ≤ 3600 || 21000 ≤ c.value) then none else some (aioChar a.cfg c.value.toNat).toInt

/-- A condition under which IN_PT keeps its last value (R232, R234, R240). -/
def aioHolds (x : Aio) : Bool := x.failLo || x.failHi || x.short || x.iso || x.wdog || x.changing

/-- The module's channel is in use. -/
def aioUsed (s : State) (x : Aio) : Bool := fieldOn s && x.live && !x.changing && x.cfg.cmode != .unused

/-- A first-order filter that stood at `old` and sees a value between `lo` and `hi` goes on to a value from one to the other; which one is
the free value `g`, for the spec gives no form of the filter in time steps (R229, R236; assumption log 154). -/
def filterStep (old lo hi g : Int) : Int := max (min old lo) (min (max old hi) g)

/-- The filter of IN_PT takes a conversion: of the value after the characteristic, or a transmitter's measured current (R228, R229). -/
def aioFilter (g : Int) (x : Aio) : Aio :=
  let v : Int := if x.cfg.cmode = .active then (aioChar x.cfg x.pri).toInt else x.pri
  { x with flt := if x.cfg.filt = 0 || !x.fltOn then v else filterStep x.flt v v g, fltOn := true }

/-- A transmitter's margin takes a conversion: V_t − (6.3 V + I_cmd × 100 Ω) in mV, through a filter of 1 ms (R236). -/
def aioMargin (g : Int) (x : Aio) : Aio :=
  let tenths : Int := 10 * x.vt - 63000 - x.cmd
  let m := max (-32768) (min 32767 (filterStep x.margin (Int.fdiv tenths 10) (-(Int.fdiv (-tenths) 10)) g))
  { x with margin := m, margMin := min x.margMin m, margN := min 100 (x.margN + 1) }

/-- PERIODIC_CONVERSION: both converters' results and the terminal voltage, the filter of IN_PT and a transmitter's margin (R229, R236). -/
def execPeriodicConversion (c : Fin 16) (m : Conversion) (s : State) : Res :=
  ok (if fieldOn s then
    let x := vget s.aio c
    let s1 := setAio c (fun x => { x with pri := m.pri, sec := m.sec, vt := m.vt, opening := false }) s
    if x.live && x.cfg.cmode ≠ .unused then
      let g : Int := (Config.open32 s.free).toInt
      let h : Int := (Config.open32 (s.free + 1)).toInt
      modAio c (fun x => let y := aioFilter g x; if x.cfg.cmode = .passive then aioMargin h y else y) (drawn (drawn s1))
    else s1
  else s)

/-- IN_PT_DELIVERY: the filtered value is delivered (R228, R229, R231); an input held under R232 delivers nothing, and one that took over
delivers the forwarded value for 40 µs (R238). A poisoned word, or one whose parity fails, is counted and not delivered (R377). -/
def execInPtDelivery (c : Fin 16) (mark : Mark) (s : State) : Res :=
  ok (let x := vget s.aio c
    if aioUsed s x && (x.fltOn || x.fwdUntil) then
      match x.cfg.cmode with
      | .active =>
        if aioHolds x then s
        else if x.fwdUntil then pointWord 21 mark x.cfg.inPt (mapGetD 0 s.mir.pts x.cfg.inPt) s
        else pointWord 21 mark x.cfg.inPt (wordOf x.flt) s
      | .passive => if x.iso then s else pointWord 21 mark x.cfg.inPt (wordOf x.flt) s
      | .unused => s
    else s)

/-- Set or clear a flag of a channel, raising an event when it is set anew. -/
def aioFlag (c : Fin 16) (was set : Bool) (put : Bool → Aio → Aio) (ev : Option (Nat × Nat)) (s : State) : State :=
  if was = set then s
  else
    let s1 := modAio c (put set) s
    match set, ev with
    | true, some (code, sev) => raiseField code sev c.val s1
    | _, _ => s1

/-- MISMATCH (R230). -/
def execMismatch (c : Fin 16) (set : Bool) (s : State) : Res :=
  ok (let x := vget s.aio c
    when (aioUsed s x) (aioFlag c x.mism set (fun b a => { a with mism := b }) (some (0x0404, 5))) s)

/-- NE43_FLAG_CHANGE (R232). -/
def execNe43FlagChange (c : Fin 16) (k : Ne43) (set : Bool) (s : State) : Res :=
  ok (let x := vget s.aio c
    when (aioUsed s x && x.cfg.cmode = .active && x.cfg.ne43) (
      match k with
      | .under => aioFlag c x.underI set (fun b a => { a with underI := b }) none
      | .over => aioFlag c x.overI set (fun b a => { a with overI := b }) none
      | .failLo => aioFlag c x.failLo set (fun b a => { a with failLo := b }) (some (0x0406, 4))
      | .failHi => aioFlag c x.failHi set (fun b a => { a with failHi := b }) (some (0x0406, 4))) s)

/-- SHORT: the loop supply's current limit (R232). -/
def execShort (c : Fin 16) (set : Bool) (s : State) : Res :=
  ok (let x := vget s.aio c
    when (aioUsed s x && x.cfg.cmode = .active) (aioFlag c x.short set (fun b a => { a with short := b }) (some (0x0405, 4))) s)

/-- TRANSMITTER_FLAG_CHANGE (R236): OPEN replaces COMPLIANCE while it holds. -/
def execTransmitterFlagChange (c : Fin 16) (k : TxFlag) (set : Bool) (s : State) : Res :=
  ok (let x := vget s.aio c
    when (aioUsed s x && x.cfg.cmode = .passive) (
      match k with
      | .compliance =>
        if x.open_ then id else aioFlag c x.compl set (fun b a => { a with compl := b }) (some (0x0402, 4))
      | .openLoop =>
        aioFlag c x.open_ set (fun b a => { a with open_ := b, compl := a.compl && !b }) (some (0x0401, 5))
      | .margLow => aioFlag c x.margLow set (fun b a => { a with margLow := b }) (some (0x0403, 3))) s)

/-- ISO_FAIL: a bank's isolated converter is lost (R227). -/
def execIsoFail (b : Fin 4) (s : State) : Res :=
  ok (if fieldOn s && !(vget s.aio (aioChOf b 0)).iso then
    raiseField 0x040A 6 b.val (foldFin 4 (fun t i => modAio (aioChOf b i) (fun a => { a with iso := true }) t) s)
  else s)

/-- CURRENT_DISAGREE: on a standby the loop current differs from its own command by more than 48 µA (R237). -/
def execCurrentDisagree (c : Fin 16) (s : State) : Res :=
  ok (let x := vget s.aio c
    when (aioUsed s x && s.mir.role = .standby && x.cfg.cmode = .passive && 48 < ((x.pri : Int) - x.cmd).natAbs)
      (aioFlag c x.disagree true (fun b a => { a with disagree := b }) (some (0x0408, 3))) s)

/-- SHARE: a standby's own supply path carries more than 0.5 mA (R238). -/
def execShare (c : Fin 16) (s : State) : Res :=
  ok (let x := vget s.aio c
    when (aioUsed s x && s.mir.role = .standby && x.cfg.cmode = .active && 500 < x.pri)
      (aioFlag c x.share true (fun b a => { a with share := b }) (some (0x0409, 3))) s)

/-- ACTIVE_IN_TAKEOVER_END: 40 µs after becoming active (R238). -/
def execActiveInTakeoverEnd (s : State) : Res :=
  ok { s with aio := s.aio.map fun (a : Aio) => { a with fwdUntil := false } }

/-- A channel enters the mode of a block: what belongs to the old mode is cleared, MARGIN with it, which its lowest value since the last read
takes in (R250); a transmitter drives 3,600 µA until its
writer's first command (R233), bypassed while the module does not drive (R237). -/
def aioEnter (s : State) (g : AioCfg) (a : Aio) : Aio :=
  { live := true, cfg := g, pri := a.pri, sec := a.sec, vt := a.vt, noret := a.noret, iso := a.iso, wdog := a.wdog
    fwdUntil := a.fwdUntil, lastStat := a.lastStat, margN := a.margN, margMin := min a.margMin 0
    opening := a.cfg.cmode = .passive && g.cmode ≠ .passive && !a.iso || a.opening
    cmd := if g.cmode = .passive then 3600 else 0
    bypass := g.cmode = .passive && !drives s }

/-- A channel takes a block in the same mode: its command is clamped anew, what NE43_EN no longer allows is cleared, and the filter of IN_PT
starts from the next value where what it filters has changed (R229, R232, R233). -/
def aioRetake (g : AioCfg) (a : Aio) : Aio :=
  { a with
    live := true
    cfg := g
    cmd := if a.cmdKnown then aioClamp g a.want else a.cmd
    underI := a.underI && g.ne43
    overI := a.overI && g.ne43
    failLo := a.failLo && g.ne43
    failHi := a.failHi && g.ne43
    fltOn := a.fltOn && decide ({ g with ne43 := a.cfg.ne43, failHi := a.cfg.failHi, inPt := a.cfg.inPt, outPt := a.cfg.outPt, statusPt := a.cfg.statusPt
                                         upd := a.cfg.upd, margWarn := a.cfg.margWarn } = a.cfg) }

/-- An accepted block applies (R240): held while the bank is unpowered; a change of CMODE passes through UNUSED for 1 ms. -/
def aioApply (c : Fin 16) (g : AioCfg) (s : State) : State :=
  let x := vget s.aio c
  if x.iso then setAio c (fun a => { a with live := true, next := some g, nextIso := true }) s
  else if g.cmode ≠ x.cfg.cmode && g.cmode ≠ .unused || x.changing then
    setAio c (fun a => { aioEnter s { g with cmode := .unused } a with changing := true, next := some g }) s
  else if g.cmode ≠ x.cfg.cmode then aioReport true c (setAio c (aioEnter s g) s)
  else aioReport (g.statusPt ≠ x.cfg.statusPt) c (setAio c (aioRetake g) s)

/-- CMODE_CHANGE_END: 1 ms after the change began the channel enters its new mode (R240). -/
def execCmodeChangeEnd (c : Fin 16) (s : State) : Res :=
  ok (let x := vget s.aio c
    match x.next with
    | some g => if fieldOn s && x.changing && !x.nextIso then aioReport true c (setAio c (aioEnter s g) s) else s
    | none => s)

/-- BANK_CONVERTER_RECOVERY: ISO_FAIL clears and the blocks held for the bank apply (R240). -/
def execBankConverterRecovery (b : Fin 4) (s : State) : Res :=
  ok (if fieldOn s && (vget s.aio (aioChOf b 0)).iso then
    foldFin 4 (fun t i =>
      let c := aioChOf b i
      let t1 := modAio c (fun a => { a with iso := false }) t
      match (vget t1.aio c).next with
      | some g =>
        if (vget t1.aio c).nextIso then aioApply c g (setAio c (fun a => { a with next := none, nextIso := false }) t1) else t1
      | none => t1) s
  else s)

/-- A destroyed channel: a transmitter drives the NE 43 low failure current, an input stops updating its point (R62, R234). -/
def aioDestroy (c : Fin 16) (s : State) : State :=
  setAio c (fun a =>
    { pri := a.pri, sec := a.sec, vt := a.vt, noret := a.noret, iso := a.iso, wdog := a.wdog, bypass := a.bypass
      margMin := min a.margMin 0
      cfg := { cmode := a.cfg.cmode, lrv := a.cfg.lrv, urv := a.cfg.urv, failHi := a.cfg.failHi, ne43 := a.cfg.ne43 }
      cmd := if a.cfg.cmode = .passive then 3600 else 0 }) s

/-- The module is one of a pair whose partner it knows. -/
def paired (s : State) : Bool := s.mir.decided && s.mir.role ≠ .alone

/-- FIELD_SIDE_WATCHDOG: a field side without refresh for 2 ms (R234, R457). -/
def execFieldSideWatchdog (digital : Bool) (b : Fin 4) (s : State) : Res :=
  ok (if digital then
    (if b.val < bankCount s then
      raiseOrLate 0x0A06 6 21 (bankEval b (setBank b (fun k => { k with wdog := true }) s)) else s)
  else
    raiseOrLate 0x0A06 6 21 <| foldFin 4 (fun t i => modAio (aioChOf b i) (fun a => { a with
      wdog := true
      bypass := a.bypass || (paired s && a.live && a.cfg.cmode = .passive) }) t) s)

/-- FIELD_SIDE_REFRESH_RECOVERY: the refresh is back; event 0x0407 for each transmitter on which the watchdog acted (R234). -/
def execFieldSideRefreshRecovery (digital : Bool) (b : Fin 4) (s : State) : Res :=
  ok (if digital then
    (if fieldOn s && (vget s.dbank b).wdog then bankEval b (setBank b (fun k => { k with wdog := false }) s) else s)
  else if fieldOn s then
    foldFin 4 (fun t i =>
      let c := aioChOf b i
      let a := vget t.aio c
      if a.wdog then
        let t1 := modAio c (fun a => { a with wdog := false, bypass := a.cfg.cmode = .passive && !drives s }) t
        if a.live && a.cfg.cmode = .passive && !paired s then raiseField 0x0407 6 c.val t1 else t1
      else t) s
  else s)

/-- What a channel drives at its terminals (R228, R233, R234, R237, R238). -/
inductive AioDrive where
  | terminalsOpen
  | supply (full : Bool)
  | regulates (uA : Nat)
  | closedSwitch
  | blocks
deriving DecidableEq, Repr

/-- The drive of a channel as its state gives it. -/
def aioDrive (s : State) (c : Fin 16) : AioDrive :=
  let a := vget s.aio c
  let unpowered := a.iso || !pdOn s 11
  match a.cfg.cmode with
  | .unused => if a.opening && !unpowered then .regulates 3600 else .terminalsOpen
  | .active => if unpowered then .blocks else .supply (drives s && !(a.wdog && paired s))
  | .passive =>
    if unpowered || a.bypass then .closedSwitch
    else if a.wdog then .regulates (if a.cfg.failHi then 21500 else 3600)
    else .regulates (if a.cmdKnown then a.cmd else 3600)

/-! ## Encoder ports -/

/-- Change an encoder port. -/
def setEnc (p : Fin 4) (f : Enc → Enc) (s : State) : State := { s with enc := vmod s.enc p f }

/-- The position is valid (R241, R242, R245). -/
def encPosValid (x : Enc) : Bool :=
  x.live && match x.cfg.emode with
  | .unused => false
  | .inc => !x.loss && !x.qerr
  | .ssi => !x.loss && 1 ≤ x.frames && !x.aged

/-- The velocity is valid: in SSI mode two valid frames are needed (R244). -/
def encVelValid (x : Enc) : Bool := encPosValid x && (x.cfg.emode ≠ .ssi || 2 ≤ x.frames)

/-- EMODE's code. -/
def emodeCode : EMode → Nat
  | .unused => 0
  | .inc => 1
  | .ssi => 2

/-- ENC_STATn (R251). -/
def encStat (x : Enc) : Nat :=
  emodeCode x.cfg.emode + flag (encVelValid x) 3 + flag x.refd 4 + flag x.ssiErr 5 + flag x.qerr 6 + flag x.loss 7

/-- Deliver the status point at a change (R248). -/
def encReport (always : Bool) (p : Fin 4) (s : State) : State :=
  let x := vget s.enc p
  if x.live && encOn s && (always || encStat x ≠ x.lastStat) then
    pointUpdate x.cfg.statusPt (BitVec.ofNat 32 (encStat x)) (setEnc p (fun x => { x with lastStat := encStat x }) s)
  else s

/-- Change a port and report. -/
def modEnc (p : Fin 4) (f : Enc → Enc) (s : State) : State := encReport false p (setEnc p f s)

/-- A port runs in a mode. -/
def encRuns (s : State) (p : Fin 4) (m : EMode) : Bool := encOn s && (vget s.enc p).live && (vget s.enc p).cfg.emode = m

/-- Counts per second from a number of counts and a time in ns (R244). What the spec does not state (no time, a quotient
beyond 32 bits, which way a fraction is rounded) is free. -/
def velocityOf (counts : Int) (ns : Nat) : Int :=
  if ns = 0 then (BitVec.ofInt 32 (Config.openQuot counts ns)).toInt
  else
    let a := counts * 1000000000
    let q := Int.fdiv a ns
    let v := if q * ns = a then q else if Config.roundUp counts ns then q + 1 else q
    if -2147483648 ≤ v && v ≤ 2147483647 then v else (BitVec.ofInt 32 (Config.openQuot counts ns)).toInt

/-- The count's direction (R242). -/
def encDir (g : EncCfg) (edges : Int) : Int := if g.invDir then -edges else edges

/-- ENCODER_LOSS (R241). -/
def execEncoderLoss (p : Fin 4) (s : State) : Res :=
  ok (let x := vget s.enc p
    if encOn s && x.live && x.cfg.emode ≠ .unused && !x.loss then
      raiseField 0x0413 5 p.val (modEnc p (fun x => { x with loss := true }) s)
    else s)

/-- ENCODER_LOSS_END: LOSS has been absent for 1 ms (R241). -/
def execEncoderLossEnd (p : Fin 4) (s : State) : Res :=
  ok (when (encOn s) (modEnc p (fun x => { x with loss := false })) s)

/-- One input's level through `n` field I/O cycles: it takes the raw level once that has been stable for FILT + 1 cycles, `held` of which
have passed. The new level, the cycles held, and the cycle of the change (R242). -/
def encInput (filt : Nat) (level : Bool) (held : Nat) (raw : Bool) (n : Nat) : Bool × Nat × Option Nat :=
  if n = 0 then (level, held, none)
  else if raw = level then (level, 0, none)
  else if filt + 1 ≤ held + n then (raw, 0, some (filt + 1 - held))
  else (level, held + n, none)

/-- The count's step when A, or B, takes a new level: up where A leads B (R242, assumption log 155). -/
def encStepA (a b : Bool) : Int := if a = b then -1 else 1
@[inherit_doc encStepA]
def encStepB (a b : Bool) : Int := if a = b then 1 else -1

/-- Both inputs have changed between two filtered samples: QERR, with the step of the count free (R242). -/
def encQuadErr (p : Fin 4) (s : State) : State :=
  raiseField 0x0411 4 p.val (modEnc p (fun x => { x with
    qerr := true, qerrN := holdInc 0xFFFF x.qerrN, pos := x.pos + Config.open32 s.free }) (drawn s))

/-- A count of edges in the port's direction. -/
def encCount (p : Fin 4) (edges : Int) (s : State) : State :=
  setEnc p (fun x => { x with pos := x.pos + wordOf (encDir x.cfg edges), still := false }) s

/-- What one stretch of a port's inputs does to its count. -/
inductive EncStep where
  | stay | count (edges : Int) | bad
deriving DecidableEq, Repr

/-- The port's filters take one stretch of its inputs, decoded ×4 (R242). The first levels seen start the decoder. -/
def encMove (x : Enc) (l : EncLine) : Enc × EncStep :=
  match x.levels with
  | none => ({ x with levels := some (l.a, l.b) }, .stay)
  | some (a, b) =>
    let ra := encInput x.cfg.filt a x.heldA l.a l.cycles
    let rb := encInput x.cfg.filt b x.heldB l.b l.cycles
    ({ x with levels := some (ra.1, rb.1), heldA := ra.2.1, heldB := rb.2.1 },
      match ra.2.2, rb.2.2 with
      | none, none => .stay
      | some _, none => .count (encStepA ra.1 b)
      | none, some _ => .count (encStepB a rb.1)
      | some t, some u =>
        if t = u then .bad
        else if t < u then .count (encStepA ra.1 b + encStepB ra.1 rb.1)
        else .count (encStepB a rb.1 + encStepA ra.1 rb.1))

/-- The port after one stretch of its inputs, as a sample command sees it; an error makes its position invalid. -/
def encAfter (x : Enc) (l : EncLine) : Enc :=
  let m := encMove x l
  match m.2 with
  | .stay => m.1
  | .count n => { m.1 with pos := m.1.pos + wordOf (encDir x.cfg n), still := false }
  | .bad => { m.1 with qerr := true }

/-- The port decodes one stretch of its inputs. -/
def encLine (p : Fin 4) (l : EncLine) (s : State) : State :=
  let m := encMove (vget s.enc p) l
  let s1 := setEnc p (fun _ => m.1) s
  match m.2 with
  | .stay => s1
  | .count n => encCount p n s1
  | .bad => encQuadErr p s1

/-- The port decodes what its inputs have shown. -/
def encLines (p : Fin 4) (ls : List EncLine) (s : State) : State := ls.foldl (fun t l => encLine p l t) s

/-- QERR: both A and B changed between two filtered samples (R242). -/
def execQerr (p : Fin 4) (s : State) : Res :=
  ok (when (encRuns s p .inc) (fun s => encQuadErr p (setEnc p (fun x => { x with
    levels := x.levels.map fun l => (!l.1, !l.2), heldA := 0, heldB := 0 }) s)) s)

/-- The index mark at the present count, which is recorded and by REFMODE loaded with REF_VAL (R243). -/
def encIndex (x : Enc) : Enc :=
  if x.cfg.refMode = 2 || (x.cfg.refMode = 1 && !x.indexed) then
    { x with ref := x.pos, pos := wordOf x.cfg.refVal, refd := true, qerr := false, indexed := true }
  else { x with ref := x.pos, indexed := true }

/-- INDEX_MARK: Z comes after what the inputs have shown since the count was last updated (R242, R243). -/
def execIndexMark (p : Fin 4) (lines : List EncLine) (s : State) : Res :=
  ok (when (encRuns s p .inc && (vget s.enc p).cfg.zEn) (fun s => modEnc p encIndex (encLines p lines s)) s)

/-- VELOCITY_TIMEOUT: no edge for VEL_TMO (R244). -/
def execVelocityTimeout (p : Fin 4) (s : State) : Res :=
  ok (when (encRuns s p .inc) (setEnc p (fun x => { x with vel := 0, still := true })) s)

/-- SSI_FRAME_START: a frame begins (R245), which a module in ALONE or ACTIVE clocks and a standby follows on DATA (R247); the second start
since the last valid frame's latch makes that frame older than 2 × SSI_PER. -/
def execSsiFrameStart (p : Fin 4) (s : State) : Res :=
  ok (when (encRuns s p .ssi) (modEnc p (fun x =>
    { x with running := true, clk := holdsField s, starts := min 2 (x.starts + 1), aged := x.aged || 1 ≤ x.starts })) s)

/-- Gray code to binary on `n` bits, from the most significant downwards. -/
def grayToBin : Nat → Nat → Nat → Nat
  | 0, _, acc => acc
  | n + 1, g, acc => grayToBin n g (2 * acc + (if bitOf g n != (acc % 2 = 1) then 1 else 0))

/-- The position that a frame gives (R245). -/
def ssiValue (g : EncCfg) (f : SsiFrame) : Nat :=
  let r := f.raw.toNat % 2 ^ g.ssiBits
  if g.gray then grayToBin g.ssiBits r 0 else r

/-- A frame is good (R245). -/
def ssiGood (g : EncCfg) (f : SsiFrame) : Bool := f.startBit && !(g.errBit && f.errorBit) && f.highAfter

/-- SSI_FRAME_END: the frame is taken, with its velocity, or discarded as bad (R244, R245). -/
def execSsiFrameEnd (p : Fin 4) (f : SsiFrame) (s : State) : Res :=
  ok (let x := vget s.enc p
    if encRuns s p .ssi && x.running then
      if ssiGood x.cfg f then
        let v := ssiValue x.cfg f
        let d := signed x.cfg.ssiBits ((v + 2 ^ x.cfg.ssiBits - x.pos.toNat % 2 ^ x.cfg.ssiBits) % 2 ^ x.cfg.ssiBits)
        modEnc p (fun x => { x with
          running := false
          clk := false
          ssiErr := false
          pos := BitVec.ofNat 32 v
          vel := if 1 ≤ x.frames then velocityOf d f.dtNs else x.vel
          frames := min 2 (x.frames + 1)
          starts := 0
          aged := false }) s
      else
        raiseField 0x0412 3 p.val (modEnc p (fun x => { x with running := false, clk := false, ssiErr := true, frameN := holdInc 0xFFFF x.frameN }) s)
    else s)

/-- ENCODER_DELIVERY: the count takes what the inputs have shown since it was last updated, the velocity the edges of VEL_WIN, of which the
port measures number and time, and POS_PT and VEL_PT are delivered while valid (R242, R244, R246). -/
def execEncoderDelivery (p : Fin 4) (lines : List EncLine) (winEdges : Int) (winNs : Nat) (s : State) : Res :=
  ok (let x := vget s.enc p
    if encOn s && x.live && x.cfg.emode ≠ .unused then
      let s1 := if x.cfg.emode = .inc then
          setEnc p (fun x => { x with vel := if x.still then 0 else velocityOf (encDir x.cfg winEdges) winNs }) (encLines p lines s)
        else s
      let y := vget s1.enc p
      let s2 := when (encPosValid y) (pointUpdate y.cfg.posPt y.pos) s1
      when (encVelValid y) (pointUpdate y.cfg.velPt (wordOf y.vel)) s2
    else s)

/-- Writing 1 to ENC_STATn.QERR (R242, R251). -/
def encQerrDrop (p : Fin 4) (s : State) : State := modEnc p (fun x => { x with qerr := false }) s

/-- An accepted encoder block (R242, R243, R248): the flags of the position start anew. The count goes on in the same mode
and starts at 0 in another (assumption log 16). -/
def encApply (p : Fin 4) (g : EncCfg) (s : State) : State :=
  let o := vget s.enc p
  let same := o.cfg.emode = g.emode
  encReport (g.statusPt ≠ o.cfg.statusPt) p (setEnc p (fun x => { x with
    live := true
    cfg := g
    qerr := false
    refd := false
    indexed := false
    ssiErr := false
    running := false
    clk := false
    levels := if same then x.levels else none
    heldA := if same then x.heldA else 0
    heldB := if same then x.heldB else 0
    still := false
    pos := if same then x.pos else 0
    vel := if same then x.vel else 0
    frames := 0
    starts := 0
    aged := false }) s)

/-- A destroyed port: counting stops (R62). -/
def encDestroy (p : Fin 4) (s : State) : State :=
  setEnc p (fun x => { pos := x.pos, ref := x.ref, qerrN := x.qerrN, frameN := x.frameN }) s

/-! ## What a publish does at the field -/

/-- A published Warp point reaches the digital outputs and transmitters that it commands (R207, R233). -/
def fieldCommand (i : Nat) (v : Word) (s : State) : State := aioPublish i v (dioCommand i v s)

end Sys2Proof.Machine
end

