-- ==== Sys2Proof/Machine/Brake.lean ====
section
/-! DEFINITION. The safe brake control (12_safe_brake_control.md): demands, the channel states, test pulses, faults, the brake
test, and the brake monitor processor's own commands. -/

namespace Sys2Proof.Machine

/-- Change a brake channel. -/
def setBrk (c : Fin 4) (f : BrkCh → BrkCh) (s : State) : State := { s with brk := { s.brk with ch := vmod s.brk.ch c f } }

/-- A brake channel. -/
def brkCh (s : State) (c : Fin 4) : BrkCh := vget s.brk.ch c

/-- The code of a channel state (R308). -/
def brkStCode : BrkSt → Nat
  | .nocfg => 0
  | .applied => 1
  | .releasing => 2
  | .released => 3
  | .engaging => 4
  | .test => 5
  | .fault => 6

/-- The state of a code. -/
def brkStOf (n : Nat) : BrkSt :=
  match n with
  | 1 => .applied
  | 2 => .releasing
  | 3 => .released
  | 4 => .engaging
  | 5 => .test
  | 6 => .fault
  | _ => .nocfg

/-- The coil current: the higher shunt reading (R330). -/
def brkCur (x : BrkCh) : Nat := max x.iHs x.iLs

/-- The status word (R307). -/
def brkStatus (x : BrkCh) : Nat :=
  brkStCode x.st + flag x.hold 4 + flag x.fb 5 + flag (x.pulse ≠ .none) 6 + fld x.fcause 8 8 + fld (brkCur x) 16 16

/-- Deliver the status word at a change of bits [15:0], and for a change of the current alone once per 1 ms, which is 100 ticks
(R307). -/
def brkReport (c : Fin 4) (s : State) : State :=
  let x := brkCh s c
  let w := brkStatus x
  if w % 65536 ≠ x.lastStat % 65536 || (w ≠ x.lastStat && 100 ≤ x.repN) then
    pointUpdate x.cfg.statusPt (BitVec.ofNat 32 w) (setBrk c (fun x => { x with lastStat := w, repN := 0 }) s)
  else s

/-! ## The demand (R304, R305) -/

/-- The Warp bit point with a symbol identifier in the running image, and the engine that writes it. -/
def brkPoint (s : State) (sym : Nat) : Option (Nat × Fin 8) :=
  match s.zor.running with
  | some img => (img.symbols.find? (fun y => y.id = sym && y.kind = 7)).map fun y => (y.loc, y.engine)
  | none => none

/-- The Loom request is valid but for REQ_TMO: its symbol exists and its writer is RUNNING. -/
def brkLoomLive (s : State) (x : BrkCh) : Bool :=
  match brkPoint s x.cfg.reqSym with
  | some (_, n) => (vget s.loom n).state = .running
  | none => false

/-- The demand of a channel is release (R304). -/
def brkDemand (x : BrkCh) : Bool := x.hostRel && (x.cfg.reqSym = 0 || (x.loomOk && x.loomVal))

/-- At a publish of the task on engine `n` the BMP takes the committed values of the request points, before forces (R305). -/
def brkPublish (n : Fin 8) (work : SMap Word) (s : State) : State :=
  foldFin 4 (fun t c =>
    match brkPoint t (brkCh t c).cfg.reqSym with
    | some (i, m) =>
      if m = n && (brkCh t c).cfg.enable && bmpOn t then
        setBrk c (fun x => { x with loomVal := (mapGetD 0 work i).getLsbD 0, loomOk := true, tmoOut := false }) t
      else t
    | none => t) s

/-- The Loom request reads 0 from now on: a change into a case of R305 raises 0x0705. -/
def brkLoomDrop (c : Fin 4) (s : State) : State :=
  let x := brkCh s c
  let s1 := setBrk c (fun x => { x with loomOk := false, loomVal := false, tmoOut := true }) s
  when (x.loomOk && x.cfg.reqSym ≠ 0) (raiseField 0x0705 4 c.val) s1

/-! ## Switches and states -/

/-- A test pulse in progress is discarded and rescheduled (R314). -/
def brkDiscard (x : BrkCh) : BrkCh :=
  if x.pulse = .none && !x.fwCheck then x
  else { x with pulse := .none, fwCheck := false, retest := true, skipN := holdInc 0xFFFF x.skipN }

/-- Open HS, LS and FW. -/
def brkOpen (x : BrkCh) : BrkCh := { x with hs := false, ls := false, fw := false }

/-- A release starts: HS, LS and FW close (R308, R309); a FW check is discarded. -/
def brkRelease (x : BrkCh) : BrkCh :=
  { brkDiscard x with st := .releasing, hs := true, ls := true, fw := true, relTicks := 0, peak := 0, picked := false
                      dip := false, fbSeen := false, onSkip := false }

/-- An engage starts: all open; a pulse becomes the engage (R308, R314). -/
def brkEngage (x : BrkCh) : BrkCh := { brkOpen (brkDiscard x) with st := .engaging, engTicks := 0, fbSeen := false, onSkip := false }

/-- The 32 bytes of a log entry. -/
def brkLogBytes (e : BrkLog) : List Byte :=
  leBytes 4 e.seq ++ leBytes 6 e.stamp.sec ++ leBytes 4 (e.stamp.ns % 2 ^ 30 + flag e.stamp.unsync 31) ++ leBytes 2 e.operator ++
    leBytes 4 e.oldCrc ++ leBytes 4 e.newCrc ++ leBytes 1 e.kind ++ List.replicate 7 0

/-- Add an entry: numbers run from 1 and wrap to 1; the log keeps the newest 512. -/
def brkLogAdd (operator oldCrc newCrc kind : Nat) (s : State) : State :=
  let seq := s.brk.logN % 0xFFFFFFFF + 1
  let e : BrkLog := { seq := seq, stamp := stampHk s, operator := operator, oldCrc := oldCrc, newCrc := newCrc, kind := kind }
  { s with brk := { s.brk with log := (e :: s.brk.log).take 512, logN := s.brk.logN + 1 } }

/-- The accepted configuration applies to a channel: it is logged at the first, and raises its event (R323, R326). -/
def brkTaken (s : State) : State :=
  let s1 := match s.brk.logDue with
    | some d => brkLogAdd d.1 d.2.1 s.brk.pcrc d.2.2 s
    | none => s
  raiseField 0x0707 3 (s.brk.pcrc : Nat) { s1 with brk := { s1.brk with logDue := none } }

/-- No channel waits for the accepted configuration any more: it is in force (R323). -/
def brkInForce (s : State) : State :=
  if s.brk.ch.toList.any (fun (y : BrkCh) => y.next.isSome) then s else { s with brk := { s.brk with crc := s.brk.pcrc } }

/-- A channel takes a configuration. With another REQ_SYM the Loom request is that of the new point: 0 until its writer publishes (R305,
assumption log 183). -/
def brkCfgSet (g : BrkCfg) (x : BrkCh) : BrkCh :=
  let same := decide (g.reqSym = x.cfg.reqSym)
  { x with cfg := g, next := none, loomOk := x.loomOk && same, loomVal := x.loomVal && same, tmoOut := x.tmoOut && same
           onSkip := x.onSkip && g.enable }

/-- The configuration that waits applies as the channel becomes APPLIED (R323). -/
def brkTakeNext (c : Fin 4) (s : State) : State :=
  match (brkCh s c).next with
  | none => s
  | some g => brkInForce (brkTaken (setBrk c (fun x => { brkCfgSet g x with st := if g.enable then x.st else .nocfg }) s))

/-- The channel becomes APPLIED with HOLD set (R310, R316). -/
def brkApplied (c : Fin 4) (s : State) : State :=
  brkTakeNext c (setBrk c (fun x => { x with st := .applied, hold := true, onSkip := false }) s)

/-- A release that is demanded and not held up starts (R308, R310, R314, R318). -/
def brkTryRelease (c : Fin 4) (s : State) : State :=
  let x := brkCh s c
  if drives s && bmpOn s && !s.brk.disc && x.st = .applied && brkDemand x && !x.hold && x.pulse = .none && !x.relWait && !x.testWait
      && s.sec.life ≠ .decommissioned then
    setBrk c brkRelease s
  else s

/-! ## The brake test's loop override (R318) -/

/-- A command for a loop slot takes effect from a period of its engine, the next one at the earliest (R71, R181). -/
def slotSendFrom (l : Fin 256) (count : Nat) (cmd : SlotCmd) (s : State) : State :=
  let n : Fin 4 := ⟨l.val / 64, by omega⟩
  let k : Fin 64 := ⟨l.val % 64, by omega⟩
  let p := vget s.prism n
  { s with prism := vmod s.prism n fun p' => { p' with slots := vmod p'.slots k fun x =>
      { x with pend := x.pend ++ [{ eff := max (p.pcnt + 1) count, cmd := cmd }] } } }

/-- A command for a loop slot takes effect from the next period of its engine (R181). -/
def slotSend (l : Fin 256) (cmd : SlotCmd) (s : State) : State := slotSendFrom l 0 cmd s

/-- The loop slot of a loop number. -/
def slotGet (s : State) (l : Fin 256) : Slot :=
  vget (vget s.prism ⟨l.val / 64, by omega⟩).slots ⟨l.val % 64, by omega⟩

/-- The active tells its partner the result of a brake test (R321). -/
def brkTell (c : Fin 4) (res : Nat) (s : State) : State := when (tellsPartner s) (pairTell opBrake 0 c.val res) s

/-- The loop returns to its own law. -/
def brkLoopBack (c : Fin 4) (s : State) : State :=
  let x := brkCh s c
  if h : x.testOf < 256 then
    if x.testRun then
      setBrk c (fun x => { x with testRun := false, relWait := true }) (slotSendFrom ⟨x.testOf, h⟩ x.testAt (.test none) s)
    else s
  else s

/-- The loop's output becomes TEST_U, on both modules of a pair from the same period (R318, R321). -/
def brkOverride (c : Fin 4) (l : Fin 256) (s : State) : State :=
  let x := brkCh s c
  setBrk c (fun x => { x with testRun := true, testOf := l.val, relWait := false }) (slotSendFrom l x.testAt (.test (some x.cfg.testU)) s)

/-- The removal of a loop's test output is still on its way to its engine. -/
def brkOverrideLeft (s : State) (x : BrkCh) : Bool :=
  if h : x.testOf < 256 then
    let y := slotGet s ⟨x.testOf, h⟩
    (vget s.prism ⟨x.testOf / 64, by omega⟩).state = .run &&
      (y.pend.any (fun p => p.cmd = .test none) || y.comps.any fun k => !k.done && k.cmds.any fun m => m = SlotCmd.test none)
  else false

/-- A test ends with a result other than FAIL (R318). -/
def brkTestEnd (c : Fin 4) (res : Nat) (s : State) : State :=
  let x := brkCh s c
  let s1 := brkLoopBack c s
  let s2 := setBrk c (fun x => { x with testRes := res, testWait := false, tested := x.tested || res = 1 }) s1
  let s3 :=
    if x.st = .test then
      (if x.fromFault then setBrk c (fun x => { x with st := .fault, fromFault := false }) s2
       else brkTakeNext c (setBrk c (fun x => { x with st := .applied }) s2))
    else s2
  brkTell c res (brkReport c (when (res = 1) (raiseField 0x0703 2 c.val) s3))

/-- The standby follows the result of the active's brake test: its loop returns to its own law (R321). -/
def brkTestTaken (c : Fin 4) (res : Nat) (s : State) : State :=
  setBrk c (fun x => { x with testRes := res, testWait := false, tested := decide (res = 1) || (x.tested && res ≠ 2) }) (brkLoopBack c s)

/-! ## Faults (R315 to R317) -/

/-- Open the supply disconnect. -/
def brkDisc (s : State) : State := { s with brk := { s.brk with disc := true } }

/-- The coil of a channel still carries current that a fault must take away: it is ENGAGING until that has fallen below I_DROP (R308). -/
def brkStill (s : State) (x : BrkCh) (cause : Nat) : Bool :=
  holdsField s && cause ≠ 11 && (x.st = .releasing || x.st = .released || x.st = .engaging)

/-- A fault engages a channel, which becomes FAULT with its cause (R308, R315); a cause that is latched stays, and a test that runs for it is
aborted, but the causes that only a reset clears replace another, and the ladder answers them with step 3 (R316, R454). -/
def brkFault (c : Fin 4) (cause : Nat) (ev : Nat × Nat × Int) (s : State) : State :=
  let x := brkCh s c
  if x.st = .nocfg then s
  else if x.fcause ≠ 0 && !(cause = 11 || cause = 15) then (if x.st = .test && x.fromFault then brkTestEnd c 5 s else s)
  else
    let s0 := if x.testRun then brkTell c 5 (setBrk c (fun x => { x with testRes := 5 }) (brkLoopBack c s)) else s
    let s1 := setBrk c (fun x =>
      { brkOpen (brkDiscard x) with st := if brkStill s x cause then .engaging else .fault, fcause := cause, onPassed := 0, tested := false
                                    engTicks := if x.st = .engaging then x.engTicks else 0
                                    fbSeen := if x.st = .releasing || x.st = .released then false else x.fbSeen
                                    onSkip := false, fromFault := false }) s0
    when (cause = 11 || cause = 15) (climb 22 0) (brkReport c (raiseField ev.1 ev.2.1 ev.2.2 s1))

/-- A fault with event 0x0701. -/
def brkFault1 (c : Fin 4) (cause : Nat) (s : State) : State := brkFault c cause (0x0701, 6, (c.val * 256 + cause : Nat)) s

/-- A test pulse has failed: counted, and a fault; on a channel in FAULT the run of passed on-pulses ends. -/
def brkPulseFail (c : Fin 4) (cause : Nat) (s : State) : State :=
  brkFault1 c cause (setBrk c (fun x =>
    { x with failN := holdInc 0xFFFF x.failN, onPassed := 0, pulse := .none, fwCheck := false
             hs := x.hs && x.st = .released, ls := x.ls && x.st = .released }) s)

/-- A brake test has failed at a step (R318). -/
def brkTestFail (c : Fin 4) (step : Nat) (s : State) : State :=
  let x := brkCh s c
  if x.fromFault then
    let s1 := setBrk c (fun x => { x with st := .fault, fromFault := false, testRes := 2, testWait := false, tested := false }) (brkLoopBack c s)
    brkTell c 2 (brkReport c (raiseField 0x0704 6 (c.val * 256 + step : Nat) s1))
  else
    brkTell c 2 (brkFault c 13 (0x0704, 6, (c.val * 256 + step : Nat)) (setBrk c (fun x => { x with testRes := 2 }) (brkLoopBack c s)))

/-- The conditions under which BRK_REQ engage clears the latched fault (R316). -/
def brkMayClear (s : State) (x : BrkCh) : Bool :=
  match x.fcause with
  | 1 => 2 ≤ x.onPassed
  | 2 => 2 ≤ x.onPassed
  | 3 => 2 ≤ x.onPassed
  | 4 => 2 ≤ x.onPassed
  | 5 => !x.ocNow
  | 9 => !x.fb
  | 10 => 2 ≤ x.onPassed && !x.nodeBad
  | 11 => false
  | 12 => 10000 ≤ s.brk.supTicks
  | 13 => x.tested
  | 14 => !x.rbNow
  | 15 => false
  | _ => true

/-- The host request becomes engage (R304), and a fault whose conditions hold clears (R316). -/
def brkReqEngage (c : Fin 4) (s : State) : State :=
  let s1 := setBrk c (fun x => { x with hostRel := false }) s
  let x := brkCh s1 c
  if x.st = .fault && brkMayClear s1 x then
    brkReport c (brkApplied c (setBrk c (fun x => { x with fcause := 0 }) s1))
  else brkReport c s1

/-- The host request becomes release. -/
def brkReqRelease (c : Fin 4) (s : State) : State :=
  brkReport c (brkTryRelease c (setBrk c (fun x => { x with hostRel := true }) s))

/-- Steps 1 to 4 of the brake test (R318). -/
def brkTestStart (c : Fin 4) (s : State) : State :=
  let x := brkCh s c
  let s1 := setBrk c (fun x => { brkOpen x with st := .test, fromFault := x.st = .fault, testWait := false, maxDev := 0, onSkip := false }) s
  if !(4 * brkCur x < x.cfg.onMin && !x.fb) then brkTestFail c 1 s1
  else if h : x.cfg.testLoop < 256 then
    let l : Fin 256 := ⟨x.cfg.testLoop, h⟩
    let run := (slotGet s l).run
    if !(run = .starting || run = .running) then brkTestEnd c 4 s1
    else
      let e := vget s.enc x.cfg.encPort
      if !encPosValid e then brkTestFail c 3 s1
      else
        brkReport c (brkOverride c l (setBrk c (fun y => { y with testP0 := e.pos.toInt }) s1))
  else brkTestEnd c 1 s1

/-- The standby applies the loop override of a brake test that runs on the active (R321). -/
def brkReqFollow (c : Fin 4) (s : State) : State :=
  let x := brkCh s c
  if h : x.cfg.testLoop < 256 then
    let l : Fin 256 := ⟨x.cfg.testLoop, h⟩
    let run := (slotGet s l).run
    if ((x.st = .applied && !x.hold) || x.st = .test || (x.st = .fault && x.fcause = 13)) && (run = .starting || run = .running) then
      brkOverride c l s
    else s
  else s

/-- A brake test runs on a channel that is APPLIED with HOLD clear, or FAULT with cause 13 (R318). -/
def brkMayTest (x : BrkCh) : Bool := (x.st = .applied && !x.hold) || (x.st = .fault && x.fcause = 13)

/-- A brake test starts, or is not run (R318). -/
def brkTestOrNot (c : Fin 4) (s : State) : State :=
  if brkMayTest (brkCh s c) then brkTestStart c s else brkTell c 3 (setBrk c (fun x => { x with testRes := 3, testWait := false }) s)

/-- BRK_REQ code 3: the test starts, waits for an on-pulse and its FW check, or is not run (R314, R318); a standby follows it, and in a pair
the loop's override acts from `count` (R321). -/
def brkReqTest (c : Fin 4) (count : Nat) (s : State) : State :=
  let s := setBrk c (fun x => { x with testAt := count }) s
  let x := brkCh s c
  if !drives s then (if s.mir.role = .standby then brkReqFollow c s else s)
  else if brkMayTest x && (x.pulse = .on || x.fwCheck) then setBrk c (fun x => { x with testWait := true }) s
  else brkTestOrNot c s

/-- A test that waits starts when the pulse and its check have ended; a channel that may no longer be tested is not. -/
def brkTestPending (c : Fin 4) (s : State) : State :=
  let x := brkCh s c
  if x.testWait && x.pulse = .none && !x.fwCheck then brkTestOrNot c s else s

/-- A loop has tripped: a test that runs on it fails (R319). -/
def brkLoopTripped (l : Nat) (s : State) : State :=
  foldFin 4 (fun t c => if drives t && (brkCh t c).testRun && (brkCh t c).testOf = l then brkTestFail c 5 t else t) s

/-- The loop's test output has been removed: a release that waited for it may start (R318). -/
def brkLoopFreed (l : Nat) (s : State) : State :=
  foldFin 4 (fun t c =>
    if (brkCh t c).relWait && (brkCh t c).testOf = l then
      brkReport c (brkTryRelease c (setBrk c (fun x => { x with relWait := false }) t))
    else t) s

/-! ## The control tick (R303) -/

/-- Both shunts and terminals, the feedback, and the conditions judged from them. -/
def brkMeasure (vsup : Nat) (m : BrkMeas) (x : BrkCh) : BrkCh :=
  let hi := max m.iHs m.iLs
  let lo := min m.iHs m.iLs
  let atSup (v : Int) : Bool := (vsup : Int) - 2000 ≤ v && v ≤ vsup + 2000 && 2000 < v
  { x with
    iHs := m.iHs
    iLs := m.iLs
    vPlus := m.vPlus
    vMinus := m.vMinus
    fb := m.contact == x.cfg.fbPol
    ocNow := 2200 < hi
    rbNow := 2000 + 5 * hi < 100 * (hi - lo)
    nodeBad := (x.st = .applied || x.st = .engaging || x.st = .fault) && x.pulse ≠ .on && (atSup m.vPlus || atSup m.vMinus)
    repN := min 100 (x.repN + 1) }

/-- An off-pulse or on-pulse in progress at a tick (R312, R313). -/
def brkPulseTick (vsup : Nat) (x : BrkCh) : BrkCh :=
  match x.pulse with
  | .offHs => if x.vPlus < 2000 then { x with hs := true, pulse := .none, offLsNext := true, retest := false } else x
  | .offLs => if (vsup : Int) - 2000 < x.vMinus then { x with ls := true, pulse := .none, offLsNext := false, retest := false } else x
  | .on => if x.cfg.onMin ≤ brkCur x then { x with hs := false, ls := false, pulse := .none, fwCheck := true, retest := false } else x
  | .none =>
    if x.fwCheck && 4 * brkCur x < x.cfg.onMin then { x with fwCheck := false, onPassed := x.onPassed + 1 } else x

/-- A channel after the measurement and its pulses; a release waits for its loop no longer than the removal of the test output takes (R318). -/
def brkSense (vsup : Nat) (m : BrkMeas) (s : State) (x : BrkCh) : BrkCh :=
  { brkPulseTick vsup (brkMeasure vsup m x) with relWait := x.relWait && brkOverrideLeft s x }

/-- A channel's state advances at a tick (R308 to R310). -/
def brkAdvance (c : Fin 4) (s : State) : State :=
  let x := brkCh s c
  let d := brkDemand x
  match x.st with
  | .nocfg => s
  | .applied =>
    let s1 := when (x.dem && !d && x.pulse = .on) (setBrk c (fun x => brkOpen (brkDiscard x))) s
    if x.fbSeen && x.fb then brkFault1 c 9 s1
    else brkTryRelease c (setBrk c (fun x => { x with fbSeen := x.fbSeen || !x.fb }) s1)
  | .releasing =>
    if !d then setBrk c brkEngage s
    else
      let i := brkCur x
      let peak := max x.peak i
      let picked := x.picked || x.cfg.iPick ≤ i
      let dip := picked && i + x.cfg.dipMin ≤ peak
      if dip then
        setBrk c (fun x => { x with st := .released, relTicks := x.relTicks + 1, tRel := min 0xFFFF (x.relTicks + 1)
                                    peak := peak, picked := true, dip := true, fbSeen := x.fbSeen || x.fb }) s
      else setBrk c (fun x => { x with relTicks := x.relTicks + 1, peak := peak, picked := picked, fbSeen := x.fbSeen || x.fb }) s
  | .released =>
    if !d then setBrk c brkEngage s
    else if x.fbSeen && !x.fb then brkFault1 c 8 s
    else setBrk c (fun x => { x with fbSeen := x.fbSeen || x.fb }) s
  | .engaging =>
    if x.iHs < x.cfg.iDrop && x.iLs < x.cfg.iDrop then
      let s1 := setBrk c (fun x => { x with tEng := min 0xFFFF (10 * (x.engTicks + 1)), fbSeen := !x.fb }) s
      if x.fcause ≠ 0 then setBrk c (fun x => { x with st := .fault }) s1 else brkApplied c s1
    else setBrk c (fun x => { x with engTicks := x.engTicks + 1, fbSeen := x.fbSeen || !x.fb }) s
  | .test => if d && x.testRun then brkTestEnd c 5 s else s
  | .fault => setBrk c (fun x => { x with fbSeen := x.fbSeen || !x.fb }) s

/-- Every channel engages, its host request with it; a brake test is aborted (R399, R448). -/
def brkEngageAll (s : State) : State :=
  foldFin 4 (fun t c =>
    let t1 := setBrk c (fun x => { x with hostRel := false }) t
    match (brkCh t1 c).st with
    | .releasing => brkReport c (setBrk c brkEngage t1)
    | .released => brkReport c (setBrk c brkEngage t1)
    | .test => brkTestEnd c 5 t1
    | _ => brkReport c t1) s

/-- One channel's part of the tick. A module that does not hold the field only measures and runs its on-pulses (R320). -/
def brkTickCh (vsup : Nat) (m : BrkMeas) (c : Fin 4) (s : State) : State :=
  let s1 := setBrk c (brkSense vsup m s) s
  let s2 := if (brkCh s1 c).cfg.reqSym ≠ 0 && !brkLoomLive s1 (brkCh s1 c) then brkLoomDrop c s1 else s1
  let s3 := if drives s2 then brkTestPending c (brkAdvance c s2) else if holdsField s2 then brkAdvance c s2 else s2
  brkReport c (setBrk c (fun x => { x with dem := brkDemand x }) s3)

/-- BMP_TICK: every 10 µs (R303). -/
def execBmpTick (m : BmpInputs) (s : State) : Res :=
  ok (if bmpOn s && 0 < brkCount s then
    let s1 := { s with brk := { s.brk with
      vsup := m.vsup
      vmin := min s.brk.vmin m.vsup
      supTicks := if 18000 < m.vsup then min 10000 (s.brk.supTicks + 1) else 0
      supLow := decide (m.vsup < 16000)
      warn := s.brk.warn && decide (m.vsup < 19200) } }
    foldFin 4 (fun t c => brkTickCh m.vsup (vget m.ch c) c t) s1
  else s)

/-! ## The BMP's other commands -/

/-- The BMP runs and the variant has brakes. -/
def brkLive (s : State) : Bool := bmpOn s && 0 < brkCount s

/-- A channel in FAULT whose clearing needs on-pulses (R316). -/
def brkFaultPulses (x : BrkCh) : Bool := x.fcause = 1 || x.fcause = 2 || x.fcause = 3 || x.fcause = 4 || x.fcause = 10

/-- TEST_SLOT (R311, R314, R316, R320). In FAULT the on-pulses that the clearing needs run (assumption log 18). -/
def execTestSlot (c : Fin 4) (s : State) : Res :=
  ok (let x := brkCh s c
    if brkLive s then
      let skip := setBrk c (fun x => { x with skipN := holdInc 0xFFFF x.skipN }) s
      let on := if x.onSkip && !x.retest then setBrk c (fun x => { x with onSkip := false }) s
        else setBrk c (fun x => { x with pulse := .on, hs := true, ls := true, fw := false, onSkip := true }) s
      brkReport c (match x.st with
        | .released =>
          if !holdsField s || x.pulse ≠ .none then s
          else if x.offLsNext then setBrk c (fun x => { x with pulse := .offLs, ls := false }) s
          else setBrk c (fun x => { x with pulse := .offHs, hs := false }) s
        | .applied => if x.pulse ≠ .none then skip else on
        | .fault => if brkFaultPulses x && x.pulse = .none then on else skip
        | _ => skip)
    else s)

/-- OFF_PULSE_TIMEOUT (R312): the switch closes again, then the fault engages. -/
def execOffPulseTimeout (c : Fin 4) (s : State) : Res :=
  ok (if brkLive s then
    match (brkCh s c).pulse with
    | .offHs => brkPulseFail c 1 s
    | .offLs => brkPulseFail c 2 s
    | _ => s
  else s)

/-- ON_PULSE_TIMEOUT (R313). -/
def execOnPulseTimeout (c : Fin 4) (s : State) : Res :=
  ok (when (brkLive s && (brkCh s c).pulse = .on) (brkPulseFail c 3) s)

/-- FW_CHECK_TIMEOUT (R313). -/
def execFwCheckTimeout (c : Fin 4) (s : State) : Res := ok (when (brkLive s && (brkCh s c).fwCheck) (brkPulseFail c 4) s)

/-- T_PICK_EXPIRY (R309). -/
def execTPickExpiry (c : Fin 4) (s : State) : Res := ok (when (brkLive s && (brkCh s c).st = .releasing) (brkFault1 c 7) s)

/-- FB_REL_TIMEOUT (R309). -/
def execFbRelTimeout (c : Fin 4) (s : State) : Res :=
  ok (let x := brkCh s c
    when (brkLive s && (x.st = .releasing || x.st = .released) && !x.fbSeen) (brkFault1 c 8) s)

/-- FB_APP_TIMEOUT (R310). -/
def execFbAppTimeout (c : Fin 4) (s : State) : Res :=
  ok (let x := brkCh s c
    when (brkLive s && holdsField s && (x.st = .applied || x.st = .engaging) && !x.fbSeen) (brkFault1 c 9) s)

/-- HOLD_EXPIRY: HOLD clears and a release demand that waits is served (R310); until the role is decided HOLD stays set (R444). -/
def execHoldExpiry (c : Fin 4) (s : State) : Res :=
  ok (when (brkLive s && s.mir.decided && (brkCh s c).hold)
    (fun s => brkReport c (brkTryRelease c (setBrk c (fun x => { x with hold := false }) s))) s)

/-- ENGAGE_FAIL: the current is not below I_DROP 5 ms after the switches opened (R310, R317). -/
def execEngageFail (c : Fin 4) (s : State) : Res :=
  ok (let x := brkCh s c
    when (brkLive s && (x.st = .engaging || x.st = .fault) && x.cfg.iDrop ≤ brkCur x)
      (fun s => brkFault c 11 (0x0702, 7, c.val) (brkDisc s)) s)

/-- REQ_TMO_EXPIRY (R305). -/
def execReqTmoExpiry (c : Fin 4) (s : State) : Res :=
  ok (when (brkLive s && (brkCh s c).cfg.reqSym ≠ 0 && !(brkCh s c).tmoOut) (brkLoomDrop c) s)

/-- Every channel in use takes a fault. -/
def brkFaultAll (cause : Nat) (s : State) : State := foldFin 4 (fun t c => brkFault1 c cause t) s

/-- BRAKE_FAULT: a condition that has lasted its time (R315); it must hold at the last tick. A contact lost while RELEASED or
APPLIED is a fault at once. -/
def execBrakeFault (k : BrkCause) (s : State) : Res :=
  ok (if brkLive s then
    match k with
    | .overcur c limit => when (limit || (brkCh s c).ocNow) (brkFault1 c 5) s
    | .nocur c => when ((brkCh s c).st = .released && decide (brkCur (brkCh s c) < (brkCh s c).cfg.iDrop)) (brkFault1 c 6) s
    | .fbRelLost c => when ((brkCh s c).st = .released && !(brkCh s c).fb) (brkFault1 c 8) s
    | .fbAppLost c => when (holdsField s && (brkCh s c).st = .applied && (brkCh s c).fb) (brkFault1 c 9) s
    | .node c => when (brkCh s c).nodeBad (brkFault1 c 10) s
    | .supply => when s.brk.supLow (brkFaultAll 12) s
    | .readback c => when (brkCh s c).rbNow (brkFault1 c 14) s
    | .bmp => brkFaultAll 15 (brkDisc s)
  else s)

/-- BRAKE_SUPPLY_WARNING: below 19.2 V for 1 ms (R315). -/
def execBrakeSupplyWarning (mv : Nat) (s : State) : Res :=
  ok (if brkLive s && mv < 19200 && !s.brk.warn then
    raiseField 0x0706 5 (mv / 10 : Nat) { s with brk := { s.brk with warn := true, vsup := mv, vmin := min s.brk.vmin mv } }
  else s)

/-- The distance of two positions modulo 2^32. -/
def posDist (a b : Int) : Nat := (wrap32 (a - b)).natAbs

/-- BRAKE_TEST_POSITION_READ (R318): beyond WIN, or an invalid position, fails the test. -/
def execBrakeTestPositionRead (c : Fin 4) (s : State) : Res :=
  ok (let x := brkCh s c
    if brkLive s && drives s && x.testRun && x.st = .test then
      let e := vget s.enc x.cfg.encPort
      let d := posDist e.pos.toInt x.testP0
      if !encPosValid e then brkTestFail c 5 s
      else
        let s1 := setBrk c (fun x => { x with maxDev := max x.maxDev (min 0xFFFF d) }) s
        if x.cfg.win < d then brkTestFail c 5 s1 else s1
    else s)

/-- BRAKE_TEST_END: TEST_MS have passed without a failure (R318). -/
def execBrakeTestEnd (c : Fin 4) (s : State) : Res :=
  ok (when (brkLive s && drives s && (brkCh s c).testRun && (brkCh s c).st = .test) (brkTestEnd c 1) s)

/-- The lock of BRK_CFG ends; the count starts again (assumption log 19). -/
def brkUnlock (s : State) : State := if 0 < s.brk.lockUs then { s with brk := { s.brk with lockUs := 0, fails := 0 } } else s

/-- PASSWORD_LOCK_END (R325). -/
def execPasswordLockEnd (s : State) : Res := ok (brkUnlock s)

/-! ## The change log (R326, R331) -/

/-- The entry in place `i` of the log's 512: the newest whose number, counted from 0, is `i` modulo 512. -/
def brkLogEntry (s : State) (i : Nat) : Option BrkLog :=
  let newest := s.brk.logN - 1
  let back := (newest + 512 - i) % 512
  if s.brk.logN = 0 then none else s.brk.log[back]?

/-- A write to BRK_LOGSEL loads the entry (R331). -/
def brkLogLoad (i : Nat) (s : State) : State :=
  match brkLogEntry s i with
  | some e => { s with brk := { s.brk with logSel := i, logValid := true, logData := brkLogBytes e } }
  | none => { s with brk := { s.brk with logSel := i, logValid := false, logData := [] } }

/-! ## The configuration (R322, R323) -/

/-- A configuration applies to a channel at once: in NOCFG, APPLIED and FAULT. -/
def brkAtOnce (st : BrkSt) : Bool := st = .nocfg || st = .applied || st = .fault

/-- A channel takes its part of an accepted configuration: at once in NOCFG, APPLIED and FAULT, else when it next becomes
APPLIED. A latched fault stays through NOCFG (R316). -/
def brkCfgCh (c : Fin 4) (g : BrkCfg) (s : State) : State :=
  let x := brkCh s c
  match x.st with
  | .nocfg => setBrk c (fun x => { brkCfgSet g x with st := if !g.enable then .nocfg else if x.fcause ≠ 0 then .fault else .applied }) s
  | .applied => setBrk c (fun x => { brkOpen (brkDiscard (brkCfgSet g x)) with st := if g.enable then .applied else .nocfg }) s
  | .fault => setBrk c (fun x => { brkCfgSet g x with st := if g.enable then .fault else .nocfg }) s
  | _ => setBrk c (fun x => { x with next := some g }) s

/-- An accepted configuration with its CRC, and the entry of the change log that is due when it applies to a first channel (R323, R326). -/
def brkCfgApply (g : Vector BrkCfg 4) (crc : Nat) (due : Option (Nat × Nat × Nat)) (s : State) : State :=
  let now := s.brk.ch.toList.any (fun (y : BrkCh) => brkAtOnce y.st)
  let s1 := foldFin 4 (fun t c => brkCfgCh c (vget g c) t) { s with brk := { s.brk with pcrc := crc, stored := g, logDue := due } }
  brkInForce (when now brkTaken (foldFin 4 (fun t c => brkReport c t) s1))

/-! ## Changes of role (R320, R321) -/

/-- A module that does not hold the field takes the state of the active's channel: a fault is latched with its own passed pulses and test
forgotten, a change ends a pulse, and a configuration that waits applies as the channel becomes APPLIED (R316, R320, R323). -/
def brkCopy (c : Fin 4) (st : BrkSt) (hold : Bool) (cause : Nat) (s : State) : State :=
  let s1 := setBrk c (fun x =>
    let y := if st = x.st then x else { brkOpen (brkDiscard x) with onSkip := false }
    let z := { y with st := st, hold := hold, fcause := cause }
    if st = .fault then { z with onPassed := 0, tested := false } else z) s
  brkReport c (when (st = .applied) (brkTakeNext c) s1)

/-- The module stops driving: every brake switch opens, and no test runs. -/
def brkHoldOpen (s : State) : State :=
  foldFin 4 (fun t c => brkReport c (setBrk c (fun x => { brkOpen (brkDiscard x) with testWait := false }) (brkLoopBack c t))) s

/-- The module starts driving: a channel last forwarded as RELEASED closes its switches, where the BMP runs; any other that is in use is
taken as engaging and becomes APPLIED with HOLD set; faults stay latched, and a brake test's override ends (R21, R321). -/
def brkTakeOver (s : State) : State :=
  foldFin 4 (fun t c =>
    let t := brkLoopBack c t
    let x := brkCh t c
    brkReport c (match x.st with
      | .released =>
        if bmpOn t then setBrk c (fun x => { x with hs := true, ls := true, fw := true, fbSeen := true }) t
        else setBrk c (fun x => { brkEngage x with hold := false }) t
      | .nocfg => t
      | .fault => t
      | _ => setBrk c (fun x => { brkEngage x with hold := false }) t)) s

/-- After a module reset: host requests as HOST_INIT says, every configured channel APPLIED with HOLD set, a configuration that waited in
force (R304, R308, R323, R444). -/
def brkRestart (s : State) : State :=
  let s1 := foldFin 4 (fun t c =>
    let g := vget s.brk.stored c
    setBrk c (fun _ => { cfg := g, st := if g.enable then .applied else .nocfg, hold := g.enable, hostRel := g.hostInit }) t)
    { s with brk := { s.brk with disc := false, warn := false, vsup := 0, vmin := 0, supTicks := 0, supLow := false
                                 logSel := 0, logValid := false, logData := [] } }
  let s2 := match s1.brk.logDue with
    | some d => brkLogAdd d.1 d.2.1 s.brk.pcrc d.2.2 s1
    | none => s1
  let s3 : State := { s2 with brk := { s2.brk with logDue := none } }
  brkInForce (when (s.brk.crc ≠ s.brk.pcrc) (raiseOrLate 0x0707 3 (s.brk.pcrc : Nat)) s3)

end Sys2Proof.Machine
end

