-- ==== Sys2Proof/Machine/CanOps.lean ====
section
/-! DEFINITION. The CAN FD channels (10_can_fd_channels.md): channel states, the queues, filters, error counting, and the CAN
domain's own commands. -/

namespace Sys2Proof.Machine

/-- Change a channel. -/
def setCan (c : Fin 8) (f : Can → Can) (s : State) : State := { s with can := vmod s.can c f }

/-- The code of a channel state (R257). -/
def canStCode : CanSt → Nat
  | .off => 0
  | .startup => 1
  | .service => 2
  | .test => 3
  | .recovery => 4
  | .listen => 5
  | .sleepEntry => 6
  | .sleep => 7
  | .wake => 8

/-- The states that CAN_STATE may request (R258). -/
def canStOf (n : Nat) : Option CanSt :=
  match n with
  | 1 => some .startup
  | 2 => some .service
  | 3 => some .test
  | 4 => some .recovery
  | 5 => some .listen
  | 7 => some .sleep
  | _ => none

/-- ERRST (R278). -/
def canErrst (x : Can) : Nat := if x.busOff then 2 else if x.passive then 1 else 0

/-- CAN_STATn (R278). -/
def canStat (x : Can) : Nat :=
  canStCode x.st + fld (canErrst x) 4 2 + flag x.live 7 + flag x.lonely 8 + flag x.held.isSome 10

/-- Deliver the status point at a change (R275). -/
def canReport (always : Bool) (c : Fin 8) (s : State) : State :=
  let x := vget s.can c
  if x.live && canOn s && (always || canStat x ≠ x.lastStat) then
    pointUpdate x.cfg.statusPt (BitVec.ofNat 32 (canStat x)) (setCan c (fun x => { x with lastStat := canStat x }) s)
  else s

/-- Change a channel and report. -/
def modCan (c : Fin 8) (f : Can → Can) (s : State) : State := canReport false c (setCan c f s)

/-- A state in which the channel sends (R257). -/
def canSends (st : CanSt) : Bool := st = .startup || st = .service || st = .test || st = .recovery

/-- On the bus: receiving every frame (R257, R260). -/
def canOnBus (x : Can) : Bool := x.live && !x.integ && !x.busOff && (canSends x.st || x.st = .listen || x.st = .sleepEntry)

/-! ## Receiving (R260, R261) -/

/-- The bytes of a receive record. -/
def canRxBytes (x : CanRx) (loss : Bool) : List Byte :=
  let f := x.frame
  let n := f.data.length
  leBytes 4 (x.stamp.ns % 2 ^ 30 + flag x.stamp.unsync 31) ++ leBytes 6 x.stamp.sec ++
    leBytes 1 (flag f.ide 0 + flag f.fdf 1 + flag f.brs 2 + flag f.esi 3 + flag f.rtr 4 + flag loss 5 + flag x.echo 6 + flag x.woke 7) ++
    leBytes 1 n ++ leBytes 4 f.ident.toNat ++ f.data ++ List.replicate ((8 - n % 8) % 8) 0

/-- The stream that a channel's receive queue drains into. -/
def canStream (s : State) (c : Fin 8) : Option Nat := ((streamsOf s 1).find? (·.2 = c.val)).map (·.1)

/-- The receive queue drains into the posted buffers in arrival order. -/
def canDrain : Nat → Fin 8 → State → State
  | 0, _, s => s
  | fuel + 1, c, s =>
    let x := vget s.can c
    match x.rx, canStream s c with
    | r :: rest, some idx =>
      let p := streamPut 17 idx (canRxBytes r x.rxLoss) s
      if p.2 then canDrain fuel c (setCan c (fun x => { x with rx := rest, rxLoss := false }) p.1) else p.1
    | _, _ => s

/-- A record enters the receive queue, if a stream is live; a full queue drops it (R260). -/
def canQueueRx (c : Fin 8) (r : CanRx) (s : State) : State :=
  match canStream s c with
  | none => s
  | some _ =>
    if (vget s.can c).rx.length < 512 then canDrain 513 c (setCan c (fun x => { x with rx := x.rx ++ [r] }) s)
    else raiseCan 0x0505 3 c.val (setCan c (fun x => { x with rxLost := holdInc 0xFFFF x.rxLost, rxLoss := true }) s)

/-! ## The filter table (R262, R263) -/

/-- A data frame matches an entry. -/
def filtMatches (e : CanFilt) (f : CanFrame) : Bool :=
  ((f.ident.toNat ^^^ e.id) &&& e.mask) = 0 && f.ide == e.ide && !(e.fd && !f.fdf) && !(e.cls && f.fdf)

/-- The value of a matching frame, if it is long enough. -/
def filtValue (e : CanFilt) (f : CanFrame) : Option Word :=
  if f.data.length < e.pos + (e.shift + e.bits + 7) / 8 then none
  else
    let b := slice f.data e.pos 8
    let n := if e.be then leNat b.reverse else leNat b
    let v := bits n e.shift e.bits
    some (if e.sgn then wordOf (signed e.bits v) else BitVec.ofNat 32 v)

/-- Replace entry `i` of a channel's table. -/
def setFilt (c : Fin 8) (i : Nat) (e : CanFilt) (s : State) : State := setCan c (fun x => { x with filt := x.filt.set i e }) s

/-- Apply the table to a frame, entry by entry from `i`; the answer says whether one matched. -/
def filtApply (c : Fin 8) (f : CanFrame) : List CanFilt → Nat → State × Bool → State × Bool
  | [], _, r => r
  | e :: rest, i, (s, m) =>
    if filtMatches e f then
      match filtValue e f with
      | some v =>
        filtApply c f rest (i + 1)
          (pointUpdate e.vpt 1 (pointUpdate e.pt v (setFilt c i { e with timed := false } s)), true)
      | none => filtApply c f rest (i + 1) (setCan c (fun x => { x with shortN := holdInc 0xFFFF x.shortN }) s, true)
    else filtApply c f rest (i + 1) (s, m)

/-- A new table replaces the old one: every VPT starts at 0, every timeout from this moment (R264). -/
def filtLoad (c : Fin 8) (l : List CanFilt) (s : State) : State :=
  l.foldl (fun t e => pointUpdate e.vpt 0 t) (setCan c (fun x => { x with filt := l }) s)

/-- The vessel time of the CAN domain `cycles` cycles of 12.5 ns ago, before every jump of its follower since then (R260, R289, R296). -/
def canSof (s : State) (cycles : Nat) : Stamp :=
  let t := stampCan s
  let since := ((s.tim.can.hist.filter fun p => 2 * p.1 < 25 * cycles).map (·.2)).sum
  let half := ((2 * (t.sec * 1000000000 + t.ns) : Nat) - 25 * cycles - 2 * since : Int) % (2 ^ 48 * 2000000000 : Nat)
  { t with sec := half.toNat / 2000000000, ns := half.toNat % 2000000000 / 2 }

/-- A frame is delivered: filters, then the receive queue, with the stamp of its start of frame (R260). -/
def canDeliver (c : Fin 8) (f : CanFrame) (t : Stamp) (woke echo : Bool) (s : State) : State :=
  let s1 := setCan c (fun x => { x with rxN := holdInc 0xFFFFFFFF x.rxN }) s
  let s2 :=
    if f.rtr then s1
    else
      let r := filtApply c f (vget s1.can c).filt 0 (s1, false)
      if r.2 then setCan c (fun x => { x with matchN := holdInc 0xFFFF x.matchN }) r.1 else r.1
  canQueueRx c { stamp := t, frame := f, woke := woke, echo := echo } s2

/-- A received frame acts. -/
def canReceive (c : Fin 8) (i : CanIn) (woke : Bool) (s : State) : State := canDeliver c i.frame (canSof s i.cycles) woke false s

/-! ## Transmitting (R265) -/

/-- Frames join the transmit queue. In RECOVERY the one that comes to an empty queue is its head frame (R257, R266). -/
def canPush (c : Fin 8) (l : List CanFrame) (s : State) : State :=
  setCan c (fun x => { x with tx := x.tx ++ l, recHead := x.recHead || (x.st = .recovery && x.tx = [] && l ≠ []) }) s

/-- Frames on their way to the controller that are dropped (R377). -/
def canLost (c : Fin 8) (n : Nat) (s : State) : State := setCan c (fun x => { x with txDrop := holdAdd 0xFFFF x.txDrop n }) s

/-- A frame of a Loom task or a Prism loop reaches the transmit queue: discarded on a module that does not drive, dropped and
counted where the channel is not live, the queue is full, or an FD frame meets FD_EN clear (R252, assumption log 156). The answer says whether it was dropped. -/
def canSubmit (c : Fin 8) (f : CanFrame) (s : State) : State × Bool :=
  let x := vget s.can c
  if !drives s then (s, false)
  else if crossPois s 18 then (crossDiscard s, false)
  else if canOn s && x.live && x.tx.length < 64 && (x.cfg.fdEn || !f.fdf) then (canPush c [f] s, false)
  else (setCan c (fun x => { x with txDrop := holdInc 0xFFFF x.txDrop }) s, true)

/-- Take the head frame off the queue. -/
def canPop (c : Fin 8) (s : State) : State := setCan c (fun x => { x with tx := x.tx.tail, recHead := false }) s

/-- Remove the head frame as cancelled (R268). -/
def canRemove (c : Fin 8) (s : State) : State :=
  raiseCan 0x0506 2 c.val (setCan c (fun x => { x with cancelN := holdInc 0xFFFF x.cancelN }) (canPop c s))

/-- Complete a descriptor that waits, if there is one. -/
def completeOpt (no : Option Nat) (status result : Nat) (s : State) : State :=
  match no with
  | some n => complete n status result s
  | none => s

/-- A descriptor that waits, if there is one, is cut short. -/
def abortOpt (no : Option Nat) (s : State) : State :=
  match no with
  | some n => completeOpen n stAborted s
  | none => s

/-- Carry out a cancel: at once where the head frame is not on the bus, else at the end of its attempt (R268). -/
def canDoCancel (c : Fin 8) (no : Option Nat) (s : State) : State :=
  let x := vget s.can c
  if x.tx = [] then completeOpt no 0 (canStCode x.st) s
  else if x.onBus then setCan c (fun x => { x with cancel := x.cancel ++ [no] }) s
  else completeOpt no 0 (canStCode x.st + 256) (canRemove c s)

/-! ## Channel states (R257 to R259, R271 to R273) -/

/-- Enter a state. RECOVERY marks the frame at the head, where the channel comes from another state (R257). -/
def canEnter (c : Fin 8) (st : CanSt) (s : State) : State :=
  modCan c (fun x => { x with st := st, recHead := st = .recovery && (if x.st = .recovery then x.recHead else x.tx ≠ []) }) s

/-- The request under way has been reached: its descriptor completes, or its cancel is carried out. -/
def canReached (c : Fin 8) (s : State) : State :=
  let x := vget s.can c
  match x.req with
  | none => s
  | some r =>
    let s1 := modCan c (fun x => { x with req := none }) s
    if r.cancel then canDoCancel c r.no s1 else completeOpt r.no 0 (canStCode x.st) s1

/-- A request on a live channel of a module that drives, outside SLEEP_ENTRY and WAKE. LISTEN, which sends no dominant bit, waits for the end
of an attempt on the bus (R257; DESIGN CHOICE, assumption log 181). -/
def canStart (c : Fin 8) (r : CanReq) (s : State) : State :=
  let x := vget s.can c
  let s1 := setCan c (fun x => { x with req := some r, recorded := r.want }) s
  match r.want with
  | .sleep =>
    if x.st = .sleep then canReached c s1
    else modCan c (fun x => { x with st := .sleepEntry, prev := if x.busOff then x.prev else x.st, recHead := false, integ := false, leaving := false }) s1
  | w =>
    if x.st = .sleep then modCan c (fun x => { x with st := .wake, integ := true, integTo := w }) s1
    else if x.busOff then
      if w = .startup || w = .service || w = .test then canEnter c .recovery (setCan c (fun x => { x with recov := true }) s1)
      else if w = .listen && x.recov then s1
      else canReached c (canEnter c w (setCan c (fun x => { x with prev := w }) s1))
    else if x.integ || x.leaving then setCan c (fun x => { x with integTo := w }) s1
    else if w = .listen && x.onBus then s1
    else canReached c (canEnter c w s1)

/-- CAN_STATE on a channel (R258, R259): a later request aborts an earlier one that still waits; in SLEEP_ENTRY and WAKE it is
held. A module that does not drive records it (R274). -/
def canRequest (c : Fin 8) (r : CanReq) (s : State) : State :=
  let x := vget s.can c
  let abort (q : Option CanReq) (s : State) : State := match q with
    | some p => abortOpt p.no s
    | none => s
  if !drives s then setCan c (fun x => { x with recorded := r.want }) (completeOpt r.no 0 (canStCode r.want) s)
  else if x.st = .sleepEntry || x.st = .wake then
    modCan c (fun x => { x with held := some r, recorded := r.want }) (abort x.held s)
  else canStart c r (abort x.req s)

/-- A held request runs as soon as the transition in progress has ended; one that still waits for its state is cut short (R259). -/
def canRunHeld (c : Fin 8) (s : State) : State :=
  match (vget s.can c).held with
  | some r => canStart c r (modCan c (fun x => { x with held := none }) (abortOpt ((vget s.can c).req.bind (·.no)) s))
  | none => s

/-! ## Error counting (R269, R270) -/

/-- The error state after a change of the counters; becoming error passive raises 0x0501. -/
def canPassive (c : Fin 8) (s : State) : State :=
  let x := vget s.can c
  let p := 128 ≤ x.tec || 128 ≤ x.rec_
  let s1 := modCan c (fun x => { x with passive := p }) s
  when (p && !x.passive) (raiseCan 0x0501 3 c.val) s1

/-- Bus-off: RECOVERY, the queue is kept, with BO_AUTO recovery starts at once (R269). A channel in SLEEP_ENTRY goes on with its entry, which
RECOVERY permits as any other state does (R258; DEDUCED, assumption log 182). -/
def canBusOff (c : Fin 8) (s : State) : State :=
  raiseCan 0x0502 5 c.val (modCan c (fun x => { x with
    busOff := true
    tec := 255
    prev := if x.st = .sleepEntry then x.prev else x.st
    st := if x.st = .sleepEntry then .sleepEntry else .recovery
    recHead := x.st ≠ .sleepEntry && x.tx ≠ []
    recov := x.cfg.boAuto }) s)

/-- After an attempt: a timing change that waited takes effect and the channel reintegrates with its counters at 0 (R276); what it waits for
in bus-off, asleep or on the way is not given up, nor a state it was to enter. -/
def canTakeTiming (c : Fin 8) (s : State) : State :=
  match (vget s.can c).next with
  | some g => modCan c (fun x =>
      let stay := x.integ || x.leaving || x.busOff || x.st = .sleepEntry || x.st = .sleep || x.st = .wake
      { x with cfg := g, next := none, integ := if stay then x.integ else true, integTo := if stay then x.integTo else x.st
               tec := if x.busOff then 255 else 0, rec_ := 0, passive := false }) s
  | none => s

/-- The timing of two blocks differs in what R276 names. -/
def canTimingDiffers (a b : CanCfg) : Bool := a.nom ≠ b.nom || a.dat ≠ b.dat || a.fdEn != b.fdEn || a.tdcEn != b.tdcEn

/-- An accepted block applies (R276): timing after the attempt in progress, other fields at once. -/
def canApply (c : Fin 8) (g : CanCfg) (s : State) : State :=
  let x := vget s.can c
  let s1 :=
    if canTimingDiffers g x.cfg then
      let s1 := setCan c (fun x => { x with
        cfg := { g with nom := x.cfg.nom, dat := x.cfg.dat, fdEn := x.cfg.fdEn, tdcEn := x.cfg.tdcEn }
        next := some g }) s
      if x.onBus then s1 else canTakeTiming c s1
    else setCan c (fun x => { x with cfg := g, next := none }) s
  canReport (g.statusPt ≠ x.cfg.statusPt) c s1

/-- CREATE of a CAN port channel: it integrates onto the bus and enters STARTUP; on a module that does not drive it listens
(R257, R274). -/
def canCreate (c : Fin 8) (g : CanCfg) (s : State) : State :=
  let d := drives s
  canReport true c (setCan c (fun x =>
    { rxN := x.rxN, txN := x.txN, rxLost := x.rxLost, txDrop := x.txDrop, cancelN := x.cancelN, shortN := x.shortN
      matchN := x.matchN, live := true, cfg := g, st := if d then .startup else .listen, integ := true, integTo := .startup
      recorded := .startup }) s)

/-- A destroyed channel: off the bus, queue discarded, waiting descriptors aborted (R62, R64). -/
def canDestroy (c : Fin 8) (s : State) : State :=
  let x := vget s.can c
  let no (q : Option CanReq) : Option Nat := q.bind (·.no)
  let s1 := abortOpt (no x.req) (abortOpt (no x.held) (x.cancel.foldl (fun t n => abortOpt n t) s))
  setCan c (fun x =>
    { rxN := x.rxN, txN := x.txN, rxLost := x.rxLost, txDrop := x.txDrop, cancelN := x.cancelN, shortN := x.shortN
      matchN := x.matchN, tdcv := x.tdcv }) s1

/-- The module stops driving: every live channel listens, its queue empty (R274); the attempt in progress is over, so that a timing change that
waited for it takes effect (R276). -/
def canListenAll (s : State) : State :=
  foldFin 8 (fun t c => when (vget t.can c).live (fun t => canTakeTiming c (modCan c (fun x => { x with
    st := .listen, integ := x.integ || x.busOff || x.st = .sleep || x.st = .wake, leaving := false, busOff := false, recov := false, onBus := false
    tx := [], req := none, held := none, wakeDue := false, cancel := [], recHead := false }) t)) t) s

/-- The module starts driving: at the next bus idle every channel leaves LISTEN for its recorded state, with TEC 0 (R274). -/
def canLeaveListen (s : State) : State :=
  foldFin 8 (fun t c => when (vget t.can c).live (modCan c (fun x => { x with
    tec := 0, passive := 128 ≤ x.rec_, leaving := true, integTo := x.recorded })) t) s

/-! ## The commands of the CAN domain -/

/-- CAN_INTEGRATION: 11 recessive bits; the channel enters its state, LISTEN on a module that does not drive (R257, R274). -/
def execCanIntegration (c : Fin 8) (s : State) : Res :=
  ok (let x := vget s.can c
    if canOn s && x.live && (x.integ || x.leaving) && x.st ≠ .wake then
      let s1 := setCan c (fun x => { x with integ := false, leaving := false }) s
      if !drives s then canEnter c .listen s1
      else if x.integTo = .sleep then
        modCan c (fun x => { x with st := .sleepEntry, prev := .startup }) s1
      else canReached c (canEnter c x.integTo s1)
    else s)

/-- The receive error count after a good frame: one less, and from above 127 to a value of 119 to 127 that ISO 11898-1 leaves
open (R269). -/
def recAfterGood (s : State) (n : Nat) : Nat := if 127 < n then 119 + (Config.openByte s.free).toNat % 9 else n - 1

/-- An error seen while receiving or monitoring raises REC by `inc` (R269, R278). -/
def canRxError (c : Fin 8) (lec inc : Nat) (s : State) : State :=
  canPassive c (setCan c (fun x => { x with lec := lec, rec_ := holdAdd 255 x.rec_ inc }) s)

/-- CAN_FRAME_RECEIVED (R260); without FD_EN an FD frame is a format error (R252). -/
def execCanFrameReceived (c : Fin 8) (f : CanIn) (s : State) : Res :=
  ok (let x := vget s.can c
    if canOn s && canOnBus x then
      if f.frame.fdf && !x.cfg.fdEn then canRxError c 2 1 s
      else
        let n := recAfterGood s x.rec_
        canReceive c f false (canPassive c (setCan c (fun x => { x with rec_ := n }) (drawn s)))
    else s)

/-- FILTER_TIMEOUT: entry `e` has matched no frame for TMO (R264). -/
def execFilterTimeout (c : Fin 8) (e : Fin 256) (s : State) : Res :=
  ok (match (vget s.can c).filt[e.val]? with
    | some x =>
      if canOn s && x.tmo ≠ 0 && !x.timed then
        raiseCan 0x0508 3 (c.val * 256 + e.val : Nat) (pointUpdate x.vpt 0 (setFilt c e.val { x with timed := true } s))
      else s
    | none => s)

/-- The head frame may start an attempt (R257, R266, R267). -/
def canMayStart (s : State) (c : Fin 8) : Bool :=
  let x := vget s.can c
  canOn s && drives s && canOnBus x && canSends x.st && x.tx.head?.any (x.cfg.fdEn || !·.fdf) && !x.onBus && (x.st ≠ .recovery || x.recHead)

/-- CAN_ATTEMPT_START (R267); the start of frame is stamped (R257, R260). -/
def execCanAttemptStart (c : Fin 8) (s : State) : Res :=
  ok (when (canMayStart s c) (setCan c (fun x => { x with onBus := true, txStamp := stampCan s })) s)

/-- A frame sent without error leaves the queue; in TEST it is received too, with TXECHO (R257, R260, R267, R270). -/
def canSent (c : Fin 8) (f : CanFrame) (s : State) : State :=
  let x := vget s.can c
  let s1 := emit (.canFrame c f) (canPop c s)
  let s2 := canPassive c (setCan c (fun x => { x with txN := holdInc 0xFFFFFFFF x.txN, tec := x.tec - 1, ackRun := 0, lonely := false }) s1)
  when (x.st = .test) (canDeliver c f x.txStamp false true) s2

/-- An attempt that ended in error: the counters (R269, R270), with `more` further increments of TEC. -/
def canTxError (c : Fin 8) (lec : Nat) (dominant arb : Bool) (more : Nat) (s : State) : State :=
  let x := vget s.can c
  let stays := (x.passive && lec = 3 && !dominant) || (lec = 1 && arb)
  let tec := (if stays then x.tec else x.tec + 8) + 8 * more
  let s1 := setCan c (fun x => { x with lec := lec, tec := tec, ackRun := if lec = 3 then holdInc 0xFFFF x.ackRun else 0 }) s
  if 255 < tec then canBusOff c s1 else canPassive c s1

/-- The cancels that waited for the attempt: `removed` says whether the frame goes (R268). -/
def canEndCancel (c : Fin 8) (removed : Bool) (s : State) : State :=
  let x := vget s.can c
  if x.cancel = [] then s
  else
    let s1 := setCan c (fun x => { x with cancel := [] }) s
    let s2 := when removed (canRemove c) s1
    x.cancel.foldl (fun t no => completeOpt no 0 (canStCode x.st + (if removed then 256 else 0)) t) s2

/-- The frame is sent with a data phase in which TDCV is measured (R256). -/
def canMeasures (g : CanCfg) (f : CanFrame) : Bool := g.tdcEn && f.fdf && f.brs

/-- A TDCV above 127 ends the attempt with a bit error, of a bit sent as 0 or as 1 (R256); which of the two is free. An attempt that ended
before TDCV was measured ends as it does. -/
def canTdcEnd (s : State) (measures : Bool) (r : CanEnd) : CanEnd :=
  match r with
  | .sent v => if measures && decide (127 < v) then .error ⟨4 + (Config.openByte s.free).toNat % 2, by omega⟩ false false (some v) 0 else r
  | .error _ d _ (some v) m =>
    if measures && decide (127 < v) then .error ⟨4 + (Config.openByte s.free).toNat % 2, by omega⟩ d false (some v) m else r
  | _ => r

/-- A request for LISTEN that waited for the attempt goes on. -/
def canListenDue (c : Fin 8) (s : State) : State :=
  match (vget s.can c).req with
  | some r => if r.want = .listen then canStart c r s else s
  | none => s

/-- CAN_ATTEMPT_END (R256, R267 to R270). -/
def execCanAttemptEnd (c : Fin 8) (r : CanEnd) (s : State) : Res :=
  ok (let x := vget s.can c
    match x.tx with
    | f :: _ =>
      if canOn s && x.onBus then
        let s1 := drawn (setCan c (fun x => { x with onBus := false }) s)
        let meas (v : Nat) (s : State) : State := when (canMeasures x.cfg f) (setCan c (fun x => { x with tdcv := min v 255 })) s
        canListenDue c <| canTakeTiming c (match canTdcEnd s (canMeasures x.cfg f) r with
          | .sent v => canEndCancel c false (canSent c f (meas v s1))
          | .lost => canEndCancel c true s1
          | .error lec dom arb v more => canEndCancel c true (canTxError c lec.val dom arb more.val (match v with
            | some v => meas v s1
            | none => s1)))
      else s
    | [] => s)

/-- BUS_OFF_RECOVERY_END: 128 occurrences of 11 recessive bits (R269); a channel on its way to sleep goes on with that. -/
def execBusOffRecoveryEnd (c : Fin 8) (s : State) : Res :=
  ok (let x := vget s.can c
    if canOn s && x.busOff && x.recov && x.st = .sleepEntry then
      raiseCan 0x0503 2 c.val (modCan c (fun x => { x with busOff := false, recov := false, tec := 0, rec_ := 0, passive := false }) s)
    else if canOn s && x.busOff && x.recov && x.st ≠ .sleep && x.st ≠ .wake then
      let want := match x.req with
        | some r => r.want
        | none => x.prev
      let s1 := setCan c (fun x => { x with busOff := false, recov := false, tec := 0, rec_ := 0, passive := false }) s
      raiseCan 0x0503 2 c.val (canReached c (canEnter c want s1))
    else s)

/-- LONELY: 64 consecutive acknowledge errors (R270). -/
def execLonely (c : Fin 8) (s : State) : Res :=
  ok (let x := vget s.can c
    if canOn s && x.live && 64 ≤ x.ackRun && !x.lonely then raiseCan 0x0504 4 c.val (modCan c (fun x => { x with lonely := true }) s)
    else s)

/-- The transceiver begins to wake: the channel integrates and enters a state (R272). -/
def canWake (c : Fin 8) (to_ : CanSt) (s : State) : State :=
  modCan c (fun x => { x with st := .wake, integ := true, integTo := to_, wakeDue := false }) s

/-- CAN_SLEEP_REACHED (R271, R273): the sleep request completes; a held request or a bus wake starts WAKE at once, and a sleep request held
beside a bus wake starts its entry after it. -/
def execCanSleepReached (c : Fin 8) (s : State) : Res :=
  ok (let x := vget s.can c
    if canOn s && x.st = .sleepEntry && !x.onBus then
      let s1 := canReached c (modCan c (fun x => { x with st := .sleep }) s)
      if x.wakeDue && x.held.all (·.want = .sleep) then canWake c x.prev s1
      else canRunHeld c (setCan c (fun x => { x with wakeDue := false }) s1)
    else s)

/-- A frame wakes the channel (R272). -/
def canWakeFrame (g : CanCfg) (i : CanIn) : Bool :=
  let f := i.frame
  !f.fdf && !f.rtr && ((f.ident.toNat ^^^ (g.wakeId % 2 ^ 29)) &&& (g.wakeMask % 2 ^ 29)) = 0 && f.ide == bitOf g.wakeId 29 &&
    (!bitOf g.wakeDlc 4 || i.dlc = g.wakeDlc % 16) &&
    (g.wakeData.all (· == 0) || (List.zipWith (· &&& ·) f.data g.wakeData).any (· != 0))

/-- BUS_WAKE: a dominant phase, or with WAKE_SEL the wake frame `f` (R272). During SLEEP_ENTRY the wake waits for its end
(R273). -/
def execBusWake (c : Fin 8) (f : Option CanIn) (s : State) : Res :=
  ok (let x := vget s.can c
    let wakes := match f with
      | none => !x.cfg.wakeSel
      | some g => !x.cfg.wakeSel || canWakeFrame x.cfg g
    if canOn s && x.live && wakes then
      if x.st = .sleep then
        let s1 := raiseCan 0x0507 2 c.val (canWake c x.prev s)
        match f with
        | some g => when x.cfg.wakeSel (canReceive c g true) s1
        | none => s1
      else if x.st = .sleepEntry then
        raiseCan 0x0507 2 c.val (setCan c (fun x => { x with wakeDue := true }) s)
      else s
    else s)

/-- The state that a woken channel enters; one that went to sleep in bus-off is in RECOVERY again, its recovery started by BO_AUTO or by a
request of 1, 2 or 3, which is reached at its end (R269, R272). -/
def canAwake (c : Fin 8) (s : State) : State :=
  let x := vget s.can c
  if !x.busOff || x.integTo = .listen then canReached c (canEnter c x.integTo s)
  else
    let asks := x.req.any fun r => r.want = .startup || r.want = .service || r.want = .test
    let s1 := canEnter c .recovery (setCan c (fun x => { x with recov := x.recov || asks || x.cfg.boAuto }) s)
    if asks then s1 else canReached c s1

/-- CAN_WAKE_END: the transceiver is back and the channel has integrated (R272); a request held meanwhile starts (R273). -/
def execCanWakeEnd (c : Fin 8) (s : State) : Res :=
  ok (let x := vget s.can c
    if canOn s && x.st = .wake then canRunHeld c (canAwake c (setCan c (fun x => { x with integ := false }) s))
    else s)

/-- CAN_STATE_TIMEOUT: the state has not been reached within 1 s; the transition goes on (R259). -/
def execCanStateTimeout (c : Fin 8) (s : State) : Res :=
  ok (let x := vget s.can c
    let open_ (q : Option CanReq) : Option Nat := q.bind (·.no)
    let mute (q : Option CanReq) : Option CanReq := q.map fun r => { r with no := none }
    if (open_ x.req).isSome then completeOpt (open_ x.req) stTimeout (canStCode x.st) (setCan c (fun x => { x with req := mute x.req }) s)
    else completeOpt (open_ x.held) stTimeout (canStCode x.st) (setCan c (fun x => { x with held := mute x.held }) s))

/-- CAN_TRANSCEIVER_WATCHDOG: without its domain clock for 1 ms the transceiver goes to standby and the node leaves the bus
(R457). -/
def execCanTransceiverWatchdog (c : Fin 8) (s : State) : Res :=
  ok (if !canOn s then
    raiseOrLate 0x0A06 6 18 (canTakeTiming c (setCan c (fun x => { x with onBus := false, integ := x.live, integTo := x.recorded }) s))
  else s)

/-- CAN_RECEIVE_ERROR: an error seen while receiving or monitoring raises REC by `inc` (R269, R278). -/
def execCanReceiveError (c : Fin 8) (lec : Fin 7) (inc : Fin 9) (s : State) : Res :=
  ok (let x := vget s.can c
    if canOn s && canOnBus x then canRxError c lec.val inc.val s
    else s)

end Sys2Proof.Machine
end

