-- ==== Sys2Proof/Machine/Blocks.lean ====
section
/-! DEFINITION. The configuration blocks of the channels and of the brakes: their reserved fields, what they hold, and the checks
that the chapters of the channels lay down. A block with a reserved field that is not 0 is DENIED with reason 2, any other failing
block with reason 3 (R58). -/

namespace Sys2Proof.Machine

/-! ## What a block is checked against -/

/-- A deliverer of points: a channel's kind and target; 0x10 for a CAN filter table, 0x20 for a brake channel. -/
abbrev Deliverer := Nat × Nat

/-- The point directory, the points that are delivered and by whom, the current channels, and the sources and sinks that loops
name. -/
structure PtCtx where
  pts   : SMap PointDef
  used  : List (Deliverer × Nat)
  aio   : Nat → Option AioCfg
  loops : List (Nat × LoopSet)         -- loop number and parameter set

/-- A point's directory entry. -/
def PtCtx.pt (c : PtCtx) (i : Nat) : PointDef := mapGetD {} c.pts i

/-- No other deliverer updates the point. -/
def PtCtx.sole (c : PtCtx) (d : Deliverer) (i : Nat) : Bool := !(c.used.any fun u => u.2 = i && u.1 ≠ d)

/-- A point of kind `k` that this deliverer may update. -/
def PtCtx.ownPt (c : PtCtx) (d : Deliverer) (k i : Nat) : Bool := (c.pt i).kind = k && c.sole d i

/-- The same, or none. -/
def PtCtx.ownOpt (c : PtCtx) (d : Deliverer) (k i : Nat) : Bool := i = 0xFFFF || c.ownPt d k i

/-- A point of kind `k`, or none. -/
def PtCtx.isOpt (c : PtCtx) (k i : Nat) : Bool := i = 0xFFFF || (c.pt i).kind = k

/-- The points of a list that are given, for a deliverer. -/
def givenPts (d : Deliverer) (l : List Nat) : List (Deliverer × Nat) := (l.filter (· ≠ 0xFFFF)).map fun i => (d, i)

/-- No point is given twice. -/
def distinctPts (l : List Nat) : Bool := decide ((l.filter (· ≠ 0xFFFF)).Nodup)

/-! ## Digital bank (R222, R223, R204) -/

/-- A digital bank's block. -/
structure DioBlk where
  statusPt : Nat := 0xFFFF
  chs      : Vector DioChCfg 8 := Vector.replicate 8 {}
deriving DecidableEq, Repr

/-- The reserved fields are 0. -/
def dioReserved (b : List Byte) : Bool :=
  zeroAt b 2 2 && zeroAt b 6 10 &&
    (List.range 8).all fun t => bits (leAt b (17 + 16 * t) 1) 4 4 = 0 && zeroAt b (26 + 16 * t) 6

/-- One channel's 16 bytes. -/
def dioChRead (b : List Byte) (t : Nat) : DioChCfg :=
  let o := 16 + 16 * t
  let f := leAt b (o + 1) 1
  { mode := Fin.ofNat 4 (leAt b o 1), wb := bitOf f 0, inv := bitOf f 1, log := bitOf f 2, cnt := bitOf f 3, deb := leAt b (o + 2) 2
    inPt := leAt b (o + 4) 2, outPt := leAt b (o + 6) 2, cntPt := leAt b (o + 8) 2 }

/-- What the block holds. -/
def dioRead (b : List Byte) : DioBlk := { statusPt := leAt b 4 2, chs := Vector.ofFn fun t => dioChRead b t.val }

/-- A channel's points are those that its mode has (R204). -/
def dioModeOk (x : DioChCfg) : Bool :=
  let none_ := 0xFFFF
  (match x.mode.val with
    | 0 => x.inPt = none_ && x.outPt = none_
    | 1 => x.inPt ≠ none_ && x.outPt = none_
    | 2 => x.inPt = none_ && x.outPt ≠ none_
    | _ => x.inPt ≠ none_ && x.outPt ≠ none_) &&
  (x.cnt || x.cntPt = none_) && (!x.cnt || x.mode = 1)

/-- The points that a bank delivers. -/
def dioPts (g : DioBlk) : List Nat := g.statusPt :: (g.chs.toList.flatMap fun (x : DioChCfg) => [x.inPt, x.cntPt])

/-- The checks of R223. -/
def dioCheck (c : PtCtx) (bank : Nat) (b : List Byte) : Bool :=
  let g := dioRead b
  let d : Deliverer := (3, bank)
  leAt b 0 1 = 1 && leAt b 1 1 = 3 && ((List.range 8).all fun t => leAt b (16 + 16 * t) 1 ≤ 3) && c.ownOpt d 2 g.statusPt &&
    (g.chs.toList.all fun (x : DioChCfg) => dioModeOk x && c.ownOpt d 1 x.inPt && c.ownOpt d 2 x.cntPt && c.isOpt 3 x.outPt) &&
    distinctPts (dioPts g)

/-! ## Current channel (R239, R240) -/

/-- The reserved fields are 0. -/
def aioReserved (b : List Byte) : Bool := bits (leAt b 3 1) 2 6 = 0 && zeroAt b 11 1 && zeroAt b 166 2

/-- CMODE of a code. -/
def cmodeOf (n : Nat) : CMode := if n = 1 then .active else if n = 2 then .passive else .unused

/-- What the block holds. -/
def aioRead (b : List Byte) : AioCfg :=
  let f := leAt b 3 1
  { cmode := cmodeOf (leAt b 2 1), ne43 := bitOf f 0, failHi := bitOf f 1, inPt := leAt b 4 2, outPt := leAt b 6 2, statusPt := leAt b 8 2
    char := leAt b 10 1, filt := leAt b 12 2, upd := leAt b 14 2, lrv := leAt b 16 2, urv := leAt b 18 2, engLo := leInt32 b 20
    engHi := leInt32 b 24, cutoff := leInt32 b 28, table := (List.range 33).map fun i => leInt32 b (32 + 4 * i), margWarn := leAt b 164 2 }

/-- A loop set names the current channel as its sink. -/
def loopSinks (ch : Nat) (g : LoopSet) : Bool := g.sink.kind = 1 && g.sink.index = ch

/-- A loop set names the current channel as a source. -/
def loopReads (ch : Nat) (g : LoopSet) : Bool := g.srcs.toList.any fun (x : SrcCfg) => x.kind = 2 && x.index = ch

/-- The points that a current channel delivers. -/
def aioPts (g : AioCfg) : List Nat := [g.inPt, g.statusPt]

/-- The checks of R240, against the configuration in force for a live channel. -/
def aioCheck (c : PtCtx) (ch : Nat) (old : Option CMode) (b : List Byte) : Bool :=
  let g := aioRead b
  let d : Deliverer := (4, ch)
  let sunk := c.loops.any fun l => loopSinks ch l.2
  let named := sunk || c.loops.any fun l => loopReads ch l.2
  leAt b 0 1 = 1 && leAt b 1 1 = 4 && leAt b 2 1 ≤ 2 && g.char ≤ 2 && g.lrv < g.urv && (g.cmode ≠ .active || g.urv ≤ 24000) &&
    (g.cmode ≠ .passive || (3600 ≤ g.lrv && g.urv ≤ 21500)) && 0 ≤ g.cutoff && 10 ≤ g.upd && g.margWarn ≤ 32767 &&
    c.ownOpt d 2 g.inPt && c.ownOpt d 2 g.statusPt && c.isOpt 4 g.outPt && (g.outPt = 0xFFFF || (g.cmode = .passive && !sunk)) &&
    !(named && old.any (· ≠ g.cmode))

/-! ## Encoder port (R248) -/

/-- The reserved fields are 0. -/
def encReserved (b : List Byte) : Bool := bits (leAt b 3 1) 6 2 = 0 && zeroAt b 29 3

/-- What the block holds. -/
def encRead (b : List Byte) : EncCfg :=
  let f := leAt b 3 1
  let m := leAt b 2 1
  { emode := if m = 1 then .inc else if m = 2 then .ssi else .unused, invDir := bitOf f 0, term := bitOf f 1, zEn := bitOf f 2
    gray := bitOf f 3, errBit := bitOf f 4, extrap := bitOf f 5, posPt := leAt b 4 2, velPt := leAt b 6 2, statusPt := leAt b 8 2
    filt := leAt b 10 1, refMode := leAt b 11 1, refVal := leInt32 b 12, ssiBits := leAt b 16 1, ssiTm := leAt b 17 1, ssiKhz := leAt b 18 2
    ssiPer := leAt b 20 2, upd := leAt b 22 2, velWin := leAt b 24 2, velTmo := leAt b 26 2, supply := leAt b 28 1 }

/-- The points that an encoder port delivers. -/
def encPts (g : EncCfg) : List Nat := [g.posPt, g.velPt, g.statusPt]

/-- A number lies in a range. -/
def within (lo hi x : Nat) : Bool := lo ≤ x && x ≤ hi

/-- The checks of R248. -/
def encCheck (c : PtCtx) (port : Nat) (b : List Byte) : Bool :=
  let g := encRead b
  let d : Deliverer := (5, port)
  leAt b 0 1 = 1 && leAt b 1 1 = 5 && leAt b 2 1 ≤ 2 && g.filt ≤ 3 && g.refMode ≤ 2 && within 8 32 g.ssiBits && within 1 64 g.ssiTm &&
    within 100 4000 g.ssiKhz && within 10 10000 g.ssiPer && 10 ≤ g.upd && 10 ≤ g.velWin && 1 ≤ g.velTmo && g.supply ≤ 2 &&
    c.ownOpt d 2 g.posPt && c.ownOpt d 2 g.velPt && c.ownOpt d 2 g.statusPt &&
    (g.emode ≠ .ssi || (g.ssiBits + 1 + b2n g.errBit) * 1000 + g.ssiTm * g.ssiKhz ≤ g.ssiPer * g.ssiKhz)

/-! ## CAN port (R275, R276, R253, R254) -/

/-- The reserved fields are 0. -/
def canReserved (b : List Byte) : Bool :=
  bits (leAt b 2 1) 6 2 = 0 && zeroAt b 3 1 && bits (leAt b 15 1) 5 3 = 0 && bits (leAt b 16 4) 30 2 = 0 && bits (leAt b 20 4) 29 3 = 0 &&
    zeroAt b 34 6

/-- Five timing bytes. -/
def timingRead (b : List Byte) (o : Nat) : CanTiming :=
  { brp := leAt b o 1, prop := leAt b (o + 1) 1, ph1 := leAt b (o + 2) 1, ph2 := leAt b (o + 3) 1, sjw := leAt b (o + 4) 1 }

/-- What the block holds. -/
def canRead (b : List Byte) : CanCfg :=
  let f := leAt b 2 1
  { fdEn := bitOf f 0, term := bitOf f 1, boAuto := bitOf f 2, svcStart := bitOf f 3, tdcEn := bitOf f 4, wakeSel := bitOf f 5
    nom := timingRead b 4, dat := timingRead b 9, tdco := leAt b 14 1, wakeDlc := leAt b 15 1, wakeId := leAt b 16 4, wakeMask := leAt b 20 4
    wakeData := slice b 24 8, statusPt := leAt b 32 2 }

/-- Quanta in a bit. -/
def canTq (t : CanTiming) : Nat := 1 + t.prop + t.ph1 + t.ph2

/-- The nominal phase's ranges and rate. -/
def nomOk (t : CanTiming) : Bool :=
  within 1 32 t.brp && within 1 64 t.prop && within 1 64 t.ph1 && within 2 64 t.ph2 && within 1 (min t.ph1 t.ph2) t.sjw && 80 ≤ t.brp * canTq t

/-- The data phase's, against the nominal phase. -/
def datOk (n t : CanTiming) : Bool :=
  within 1 4 t.brp && t.prop ≤ 31 && within 1 32 t.ph1 && within 1 16 t.ph2 && within 1 (min t.ph1 t.ph2) t.sjw && 10 ≤ t.brp * canTq t &&
    t.brp * canTq t ≤ n.brp * canTq n && 5 ≤ canTq t

/-- The checks of R254 and R276. -/
def canCheck (c : PtCtx) (ch : Nat) (b : List Byte) : Bool :=
  let g := canRead b
  leAt b 0 1 = 1 && leAt b 1 1 = 6 && nomOk g.nom && (!g.fdEn || datOk g.nom g.dat) && g.tdco ≤ 127 && c.ownOpt (6, ch) 2 g.statusPt

/-! ## CAN filter table (R262) -/

/-- The reserved fields of entry `i` are 0. -/
def filtReserved (b : List Byte) (i : Nat) : Bool :=
  let o := 24 * i
  bits (leAt b o 4) 29 3 = 0 && bits (leAt b (o + 4) 4) 29 3 = 0 && bits (leAt b (o + 8) 1) 3 5 = 0 && zeroAt b (o + 18) 6

/-- Entry `i`. -/
def filtRead (b : List Byte) (i : Nat) : CanFilt :=
  let o := 24 * i
  let m := leAt b (o + 8) 1
  let f := leAt b (o + 10) 1
  { id := leAt b o 4, mask := leAt b (o + 4) 4, ide := bitOf m 0, fd := bitOf m 1, cls := bitOf m 2, pos := leAt b (o + 9) 1
    bits := bits f 0 6, sgn := bitOf f 6, be := bitOf f 7, shift := leAt b (o + 11) 1, pt := leAt b (o + 12) 2, vpt := leAt b (o + 14) 2
    tmo := leAt b (o + 16) 2 }

/-- The points of a filter entry. -/
def filtPts (e : CanFilt) : List Nat := if e.pt = e.vpt then [e.pt] else [e.pt, e.vpt]

/-- A table's entries, from a block of the right length. -/
def filtTable (b : List Byte) : List CanFilt := (List.range (b.length / 24)).map (filtRead b)

/-- The checks of R262 on a whole table. -/
def filtCheck (c : PtCtx) (ch : Nat) (l : List CanFilt) : Bool :=
  let d : Deliverer := (0x10, ch)
  (l.all fun e => !(e.fd && e.cls) && e.pos ≤ 63 && within 1 32 e.bits && e.shift ≤ 63 && e.shift + e.bits ≤ 64 &&
    c.ownPt d (if e.bits = 1 then 1 else 2) e.pt && c.ownOpt d 1 e.vpt) && distinctPts (l.flatMap filtPts)

/-! ## Loop slot (R170, R174 to R181, R187) -/

/-- The reserved fields of the parameter set at offset `o` are 0. -/
def loopReserved (b : List Byte) (o : Nat) : Bool :=
  bits (leAt b (o + 1) 1) 6 2 = 0 && zeroAt b (o + 2) 6 && bits (leAt b (o + 64) 1) 3 5 = 0 && zeroAt b (o + 67) 1 && zeroAt b (o + 125) 3 &&
    bits (leAt b (o + 166) 1) 2 6 = 0 && zeroAt b (o + 196) 12

/-- Source `j`. -/
def srcRead (b : List Byte) (o : Nat) : SrcCfg := { kind := leAt b o 1, sh := leAt b (o + 1) 1, index := leAt b (o + 2) 2, scale := leInt32 b (o + 4) }

/-- The sink fields. -/
def sinkRead (b : List Byte) (o : Nat) : SinkCfg :=
  { kind := leAt b (o + 48) 1, sh := leAt b (o + 49) 1, index := leAt b (o + 50) 2, scale := leInt32 b (o + 52), offset := leInt32 b (o + 56)
    canIdent := leAt b (o + 60) 4, canFlags := leAt b (o + 64) 1, canLen := leAt b (o + 65) 1, canPos := leAt b (o + 66) 1
    canDiv := leAt b (o + 68) 2, statusPt := leAt b (o + 70) 2, canFill := slice b (o + 72) 8 }

/-- Coefficient `j` of the nine, with its shift. -/
def coefRead (b : List Byte) (o j : Nat) : Coef := { k := leInt32 b (o + 80 + 4 * j), sh := leAt b (o + 116 + j) 1 }

/-- The parameter set at offset `o`. -/
def loopRead (b : List Byte) (o : Nat) : LoopSet :=
  let f := leAt b (o + 1) 1
  { wrap := bitOf f 0, crit := bitOf f 1, fricEn := bitOf f 2, cogEn := bitOf f 3, feEn := bitOf f 4, autoEn := bitOf f 5
    srcs := Vector.ofFn fun j => srcRead b (o + 8 + 8 * j.val)
    sink := sinkRead b o
    kp := coefRead b o 0, ki := coefRead b o 1, kd := coefRead b o 2, ka := coefRead b o 3, kb := coefRead b o 4, kc := coefRead b o 5
    kt := coefRead b o 6, kr := coefRead b o 7, kx := coefRead b o 8
    umin := leInt32 b (o + 128), umax := leInt32 b (o + 132), slew := leInt32 b (o + 136), bias := leInt32 b (o + 140)
    rampUp := leInt32 b (o + 144), rampStop := leInt32 b (o + 148), hoLimit := leInt32 b (o + 152), hoRate := leInt32 b (o + 156)
    feLimit := leInt32 b (o + 160), feTime := leAt b (o + 164) 2, trip := Fin.ofNat 4 (leAt b (o + 166) 1)
    fricK := { k := leInt32 b (o + 176), sh := leAt b (o + 167) 1 }, failOut := leInt32 b (o + 168), tripPt := leAt b (o + 172) 2
    fricShv := leAt b (o + 174) 1, fricDb := leInt32 b (o + 180), cogK := { k := leInt32 b (o + 184), sh := leAt b (o + 175) 1 }
    cogCnt := leAt b (o + 188) 4, cogOfs := leInt32 b (o + 192) }

/-- A source is in its ranges; a current channel is an active input (R170, R171). -/
def srcOk (c : PtCtx) (x : SrcCfg) : Bool :=
  match x.kind with
  | 0 => x.index = 0
  | 1 => x.sh ≤ 31 && x.index < 16384 && ((c.pt x.index).kind = 2 || (c.pt x.index).kind = 4)
  | 2 => x.sh ≤ 31 && (c.aio x.index).any (fun (g : AioCfg) => g.cmode = .active)
  | 3 => x.sh ≤ 31 && x.index < 4
  | 4 => x.sh ≤ 31 && x.index < 4
  | 5 => x.index = 0
  | _ => false

/-- An identifier, flags and length of R97. -/
def frameOk (ident : Nat) (ide fdf brs : Bool) (len : Nat) : Bool :=
  ident < (if ide then 2 ^ 29 else 2 ^ 11) && (fdf || !brs) && canLenOk fdf len

/-- The CAN fields of a sink (R176). -/
def sinkCanOk (x : SinkCfg) : Bool :=
  let w := bits x.canPos 6 2
  frameOk x.canIdent (bitOf x.canFlags 0) (bitOf x.canFlags 1) (bitOf x.canFlags 2) x.canLen && w ≤ 1 &&
    bits x.canPos 0 6 + (if w = 0 then 2 else 4) ≤ x.canLen && 1 ≤ x.canDiv

/-- A sink is in its ranges, and no other loop writes it (R174 to R176). -/
def sinkOk (c : PtCtx) (loop : Nat) (x : SinkCfg) : Bool :=
  let others (k : Nat) : Bool := c.loops.any fun l => l.1 ≠ loop && l.2.sink.kind = k && l.2.sink.index = x.index
  match x.kind with
  | 0 => x.index = 0
  | 1 => (c.aio x.index).any (fun (g : AioCfg) => g.cmode = .passive && g.outPt = 0xFFFF) && !others 1
  | 2 => x.sh ≤ 31 && (c.pt x.index).kind = 4 && (c.pt x.index).writer = 0x10 && !others 2
  | 3 => x.sh ≤ 31 && x.index < 8 && sinkCanOk x
  | _ => false

/-- The points that a loop set delivers. -/
def loopPts (g : LoopSet) : List Nat := [g.sink.statusPt, g.tripPt]

/-- The nine coefficients' shifts. -/
def loopShifts (g : LoopSet) : List Nat :=
  [g.kp.sh, g.ki.sh, g.kd.sh, g.ka.sh, g.kb.sh, g.kc.sh, g.kt.sh, g.kr.sh, g.kx.sh, g.fricK.sh, g.cogK.sh]

/-- The checks of a parameter set (R179, R187). -/
def loopSetOk (c : PtCtx) (loop : Nat) (g : LoopSet) : Bool :=
  let d : Deliverer := (2, loop)
  (g.srcs.toList.all (srcOk c)) && sinkOk c loop g.sink && c.ownOpt d 2 g.sink.statusPt && (loopShifts g).all (· ≤ 31) && g.umin ≤ g.umax &&
    0 ≤ g.slew && 1 ≤ g.rampUp && 0 ≤ g.rampStop && 0 ≤ g.hoLimit && 1 ≤ g.hoRate && 0 ≤ g.feLimit && (1 ≤ g.feTime || !g.feEn) &&
    c.ownOpt d 1 g.tripPt && g.fricShv ≤ 24 && 0 ≤ g.fricDb && g.cogCnt ≤ 0x7FFFFFFF && (1 ≤ g.cogCnt || !g.cogEn) &&
    (!g.fricEn || (vget g.srcs 4).kind ≠ 0) && (!g.cogEn || (vget g.srcs 3).kind = 3)

/-- The checks of the block at offset `o`. -/
def loopCheck (c : PtCtx) (loop : Nat) (b : List Byte) (o : Nat) : Bool := leAt b o 1 = 1 && loopSetOk c loop (loopRead b o)

/-- Bytes 48 to 79 of the two halves of a block of 416 bytes are equal (R180). -/
def sinksEqual (b : List Byte) : Bool := decide (slice b 48 32 = slice b 256 32)

/-! ## Brake configuration (R322, R323) -/

/-- The reserved fields are 0. -/
def brkReserved (b : List Byte) : Bool :=
  bits (leAt b 1 1) 1 7 = 0 && zeroAt b 36 4 && (List.range 4).all fun j =>
    let o := 40 + 48 * j
    bits (leAt b (o + 1) 1) 2 6 = 0 && zeroAt b (o + 35) 1 && zeroAt b (o + 40) 8

/-- The block of channel `j`. -/
def brkRead (b : List Byte) (j : Nat) : BrkCfg :=
  let o := 40 + 48 * j
  let f := leAt b (o + 1) 1
  { enable := bitOf (leAt b o 1) 0, fbPol := bitOf f 0, hostInit := bitOf f 1, reqTmo := leAt b (o + 2) 2, reqSym := leAt b (o + 4) 4
    statusPt := leAt b (o + 8) 2, iPick := leAt b (o + 10) 2, iDrop := leAt b (o + 12) 2, tPick := leAt b (o + 14) 2, dipMin := leAt b (o + 16) 2
    fbRel := leAt b (o + 18) 2, fbApp := leAt b (o + 20) 2, tHold := leAt b (o + 22) 2, onMin := leAt b (o + 24) 2, testLoop := leAt b (o + 26) 2
    testU := leInt32 b (o + 28), testMs := leAt b (o + 32) 2, encPort := Fin.ofNat 4 (leAt b (o + 34) 1), win := leAt b (o + 36) 4 }

/-- A password: 1 to 16 characters 0x21 to 0x7E, zero padded; its characters. -/
def pwChars (b : List Byte) : Option (List Byte) :=
  let p := b.takeWhile (· ≠ 0)
  if p ≠ [] && p.all (fun x => within 0x21 0x7E x.toNat) && (b.drop p.length).all (· == 0) then some p else none

/-- The checks of channel `j`. -/
def brkChOk (c : PtCtx) (b : List Byte) (j : Nat) : Bool :=
  let o := 40 + 48 * j
  let g := brkRead b j
  leAt b o 1 ≤ 1 && within 1 1000 g.reqTmo && c.ownOpt (0x20, j) 2 g.statusPt && within 100 2000 g.iPick && within 20 1000 g.iDrop &&
    g.iDrop < g.iPick && within 10 1000 g.tPick && g.dipMin ≤ 500 && within 10 2000 g.fbRel && within 10 2000 g.fbApp &&
    within 100 60000 g.tHold && 10 ≤ g.onMin && 4 * g.onMin ≤ g.iPick && (g.testLoop ≤ 255 || g.testLoop = 0xFFFF) &&
    within 10 5000 g.testMs && leAt b (o + 34) 1 ≤ 3 && g.win ≤ 0x7FFFFFFF

/-- The checks of the block; PASSWORD is ignored while none is stored (R324). -/
def brkCheck (c : PtCtx) (hasPw : Bool) (b : List Byte) : Bool :=
  let newPw := bitOf (leAt b 1 1) 0
  leAt b 0 1 = 1 && within 1 65534 (leAt b 2 2) && (!hasPw || (pwChars (slice b 4 16)).isSome) &&
    (if newPw then (pwChars (slice b 20 16)).isSome else zeroAt b 20 16) && ((List.range 4).all (brkChOk c b)) &&
    distinctPts ((List.range 4).map fun j => (brkRead b j).statusPt)

/-! ## The live channels as a context -/

/-- The loops whose slot channels are live, with both sets, and what waits to become a set. -/
def liveLoops (s : State) : List (Nat × LoopSet) :=
  (List.finRange 256).flatMap fun l =>
    let x := slotGet s l
    if x.live then
      [(l.val, x.setA), (l.val, x.setB)] ++ (x.pend.map (fun (p : SlotPend) => p.cmd) ++ x.comps.flatMap (fun (k : Comp) => k.cmds)).filterMap
        fun (q : SlotCmd) => match q with
          | .cfg _ g => some (l.val, g)
          | _ => none
    else []

/-- What the live channels deliver. -/
def livePts (s : State) : List (Deliverer × Nat) :=
  ((List.finRange 4).flatMap fun b => if (vget s.dbank b).live then
      givenPts (3, b.val) (dioPts { statusPt := (vget s.dbank b).statusPt, chs := Vector.ofFn fun t => (vget s.dio (dioChOf b t)).cfg }) else []) ++
  ((List.finRange 16).flatMap fun c => if (vget s.aio c).live then
      givenPts (4, c.val) (aioPts (vget s.aio c).cfg ++ (((vget s.aio c).next.map aioPts).getD [])) else []) ++
  ((List.finRange 4).flatMap fun p => if (vget s.enc p).live then givenPts (5, p.val) (encPts (vget s.enc p).cfg) else []) ++
  ((List.finRange 8).flatMap fun c => if (vget s.can c).live then
      givenPts (6, c.val) [(vget s.can c).cfg.statusPt] ++ givenPts (0x10, c.val) ((vget s.can c).filt.flatMap filtPts) else []) ++
  ((liveLoops s).flatMap fun l => givenPts (2, l.1) (loopPts l.2)) ++
  ((List.finRange 4).flatMap fun c => givenPts (0x20, c.val) ((brkCh s c).cfg.statusPt :: (((brkCh s c).next.map fun (g : BrkCfg) => [g.statusPt]).getD [])))

/-- The configuration of a live current channel: the one that waits, or the one in force. -/
def liveAio (s : State) (i : Nat) : Option AioCfg :=
  if h : i < 16 then
    let a := vget s.aio ⟨i, h⟩
    if a.live then some (a.next.getD a.cfg) else none
  else none

/-- The context of a descriptor's block. -/
def liveCtx (s : State) : PtCtx :=
  { pts := ((s.zor.running.map (·.points))).getD [], used := livePts s, aio := liveAio s, loops := liveLoops s }

end Sys2Proof.Machine
end

