-- ==== Sys2Proof/Machine/LoomCode.lean ====
section
/-! DEFINITION. The encoding of the Loom engine's instructions (R75, R80, and the opcode tables of R84 to R96): the decoder of
32-bit words, and the encoder. -/

namespace Sys2Proof.Machine

/-- The bit spaces by code (R75). -/
def bitSpaceOf (c : Nat) : Option BitSpace :=
  match c with
  | 0 => some .wb
  | 1 => some .pb
  | 2 => some .mb
  | 3 => some .tq
  | 4 => some .cq
  | 5 => some .sb
  | _ => none

/-- The word spaces by code (R75). -/
def wordSpaceOf (c : Nat) : Option WordSpace :=
  match c with
  | 8 => some .ww
  | 9 => some .pw
  | 10 => some .mw
  | 11 => some .te
  | 12 => some .cv
  | 13 => some .sw
  | 14 => some .kw
  | 15 => some .imm
  | _ => none

/-- The code of a bit space. -/
def bitSpaceCode : BitSpace → Nat
  | .wb => 0
  | .pb => 1
  | .mb => 2
  | .tq => 3
  | .cq => 4
  | .sb => 5

/-- The code of a word space. -/
def wordSpaceCode : WordSpace → Nat
  | .ww => 8
  | .pw => 9
  | .mw => 10
  | .te => 11
  | .cv => 12
  | .sw => 13
  | .kw => 14
  | .imm => 15

/-- The number of indices of a bit space (R75). -/
def bitSpaceSize : BitSpace → Nat
  | .wb => 16384
  | .pb => 16384
  | .mb => 65536
  | .tq => 4096
  | .cq => 2048
  | .sb => 64

/-- The number of indices of a word space; every 16-bit value is an immediate. -/
def wordSpaceSize : WordSpace → Nat
  | .ww => 16384
  | .pw => 16384
  | .mw => 16384
  | .te => 4096
  | .cv => 2048
  | .sw => 64
  | .kw => 16384
  | .imm => 65536

/-- The conditions by code (R92). -/
def condOf (c : Nat) : Option Cond :=
  match c with
  | 0 => some .eq
  | 1 => some .ne
  | 2 => some .lt
  | 3 => some .le
  | 4 => some .gt
  | 5 => some .ge
  | 6 => some .ltu
  | 7 => some .geu
  | _ => none

/-- The code of a condition. -/
def condCode : Cond → Nat
  | .eq => 0
  | .ne => 1
  | .lt => 2
  | .le => 3
  | .gt => 4
  | .ge => 5
  | .ltu => 6
  | .geu => 7

/-- A bit operand of format B, its index in range (R80, R99). -/
def bitOpOf (w : Nat) : Option BitOp :=
  match bitSpaceOf (bits w 20 4) with
  | some sp => if bits w 16 4 = 0 && bits w 0 16 < bitSpaceSize sp then some { space := sp, index := BitVec.ofNat 16 (bits w 0 16) } else none
  | none => none

/-- A word operand of format B, its index in range; COND is checked apart (R80, R99). -/
def wordOpOf (w : Nat) : Option WordOp :=
  match wordSpaceOf (bits w 20 4) with
  | some sp => if bits w 0 16 < wordSpaceSize sp then some { space := sp, index := BitVec.ofNat 16 (bits w 0 16) } else none
  | none => none

/-- A bit operand that a store may name (R75). -/
def bitDstOf (w : Nat) : Option BitOp :=
  match bitOpOf w with
  | some o => if o.space = .pb || o.space = .mb then some o else none
  | none => none

/-- A word operand that a store may name (R75). -/
def wordDstOf (w : Nat) : Option WordOp :=
  match wordOpOf w with
  | some o => if bits w 16 4 = 0 && (o.space = .pw || o.space = .mw) then some o else none
  | none => none

/-- A word operand of an instruction without COND. -/
def wordSrcOf (w : Nat) : Option WordOp := if bits w 16 4 = 0 then wordOpOf w else none

/-- An instruction of format N: bits [23:0] are 0. -/
def fmtN (w : Nat) (i : LInstr) : Option LInstr := if bits w 0 24 = 0 then some i else none

/-- A 16-bit field with bits [23:16] 0 (formats I and P). -/
def fmtI (w : Nat) (i : BitVec 16 → LInstr) : Option LInstr :=
  if bits w 16 8 = 0 then some (i (BitVec.ofNat 16 (bits w 0 16))) else none

/-- A 5-bit shift or bit number with bits [23:5] 0. -/
def fmtS (w : Nat) (i : BitVec 5 → LInstr) : Option LInstr :=
  if bits w 5 19 = 0 then some (i (BitVec.ofNat 5 (bits w 0 5))) else none

/-- Format T: an index below `top`. -/
def fmtT (w top : Nat) (i : BitVec 13 → LInstr) : Option LInstr :=
  if bits w 13 11 = 0 && bits w 0 13 < top then some (i (BitVec.ofNat 13 (bits w 0 13))) else none

/-- Format J. -/
def fmtJ (w : Nat) (i : BitVec 17 → LInstr) : Option LInstr :=
  if bits w 17 7 = 0 then some (i (BitVec.ofNat 17 (bits w 0 17))) else none

/-- The instruction that a 32-bit word spells (R80); none where an opcode, a space, a condition or an index is not defined or
a field marked 0 is not 0 (R99). -/
def loomDecode (word : Word) : Option LInstr :=
  let w := word.toNat
  match bits w 24 8 with
  | 0x00 => fmtN w .nop
  | 0x01 => fmtI w .pick
  | 0x02 => fmtN w .fin
  | 0x10 => (bitOpOf w).map .ld
  | 0x11 => (bitOpOf w).map .ldn
  | 0x12 => (bitOpOf w).map .and
  | 0x13 => (bitOpOf w).map .andn
  | 0x14 => (bitOpOf w).map .or
  | 0x15 => (bitOpOf w).map .orn
  | 0x16 => (bitOpOf w).map .xor
  | 0x17 => (bitOpOf w).map .xorn
  | 0x18 => fmtN w .not
  | 0x19 => fmtN w .set1
  | 0x1A => fmtN w .set0
  | 0x1C => fmtN w .andp
  | 0x1D => fmtN w .orp
  | 0x1E => fmtN w .popb
  | 0x1F => fmtN w .bpsh
  | 0x20 => fmtN w .brd
  | 0x21 => fmtN w .bpop
  | 0x24 => (bitDstOf w).map .st
  | 0x25 => (bitDstOf w).map .stn
  | 0x26 => (bitDstOf w).map .setb
  | 0x27 => (bitDstOf w).map .rstb
  | 0x28 => fmtT w 8192 .pedge
  | 0x29 => fmtT w 8192 .nedge
  | 0x30 => fmtT w 4096 .ton
  | 0x31 => fmtT w 4096 .tof
  | 0x32 => fmtT w 4096 .tp
  | 0x33 => fmtT w 4096 .trst
  | 0x34 => fmtT w 2048 .ctu
  | 0x35 => fmtT w 2048 .ctd
  | 0x36 => fmtT w 2048 .crst
  | 0x37 => fmtT w 2048 .cld
  | 0x40 => (wordSrcOf w).map .ldw
  | 0x41 => fmtI w .ldi
  | 0x42 => fmtI w .ldih
  | 0x43 => (wordDstOf w).map .stw
  | 0x44 => (wordDstOf w).map .stwc
  | 0x45 => (wordSrcOf w).map .add
  | 0x46 => (wordSrcOf w).map .sub
  | 0x47 => (wordSrcOf w).map .mul
  | 0x48 => (wordSrcOf w).map .div
  | 0x49 => (wordSrcOf w).map .mod
  | 0x4A => (wordSrcOf w).map .andw
  | 0x4B => (wordSrcOf w).map .orw
  | 0x4C => (wordSrcOf w).map .xorw
  | 0x4D => fmtS w .shl
  | 0x4E => fmtS w .shr
  | 0x4F => fmtS w .asr
  | 0x50 =>
    match condOf (bits w 16 4), wordOpOf w with
    | some c, some o => some (.cmp c o)
    | _, _ => none
  | 0x51 => (wordSrcOf w).map .min
  | 0x52 => (wordSrcOf w).map .max
  | 0x53 => fmtS w .getb
  | 0x54 => fmtS w .putb
  | 0x60 => fmtJ w .jmp
  | 0x61 => fmtJ w .jc
  | 0x62 => fmtJ w .jcn
  | 0x63 => fmtJ w .call
  | 0x64 => fmtJ w .callc
  | 0x65 => fmtN w .ret
  | 0x66 => fmtN w .mcs
  | 0x67 => fmtN w .mce
  | 0x70 =>
    if bits w 23 1 = 0 && bits w 8 12 = 0 then some (.evt (BitVec.ofNat 3 (bits w 20 3)) (BitVec.ofNat 8 (bits w 0 8))) else none
  | 0x71 => if bits w 8 16 = 0 then some (.cantx (BitVec.ofNat 8 (bits w 0 8))) else none
  | _ => none

/-- The word with an opcode and its low 24 bits. -/
def opWord (op low : Nat) : Word := BitVec.ofNat 32 (op * 2 ^ 24 + low)

/-- The low 24 bits of a bit operand. -/
def bitOpBits (o : BitOp) : Nat := bitSpaceCode o.space * 2 ^ 20 + o.index.toNat

/-- The low 24 bits of a word operand. -/
def wordOpBits (o : WordOp) : Nat := wordSpaceCode o.space * 2 ^ 20 + o.index.toNat

/-- The word of an instruction (R80). -/
def loomEncode : LInstr → Word
  | .nop => opWord 0x00 0
  | .pick n => opWord 0x01 n.toNat
  | .fin => opWord 0x02 0
  | .ld o => opWord 0x10 (bitOpBits o)
  | .ldn o => opWord 0x11 (bitOpBits o)
  | .and o => opWord 0x12 (bitOpBits o)
  | .andn o => opWord 0x13 (bitOpBits o)
  | .or o => opWord 0x14 (bitOpBits o)
  | .orn o => opWord 0x15 (bitOpBits o)
  | .xor o => opWord 0x16 (bitOpBits o)
  | .xorn o => opWord 0x17 (bitOpBits o)
  | .not => opWord 0x18 0
  | .set1 => opWord 0x19 0
  | .set0 => opWord 0x1A 0
  | .andp => opWord 0x1C 0
  | .orp => opWord 0x1D 0
  | .popb => opWord 0x1E 0
  | .bpsh => opWord 0x1F 0
  | .brd => opWord 0x20 0
  | .bpop => opWord 0x21 0
  | .st o => opWord 0x24 (bitOpBits o)
  | .stn o => opWord 0x25 (bitOpBits o)
  | .setb o => opWord 0x26 (bitOpBits o)
  | .rstb o => opWord 0x27 (bitOpBits o)
  | .pedge i => opWord 0x28 i.toNat
  | .nedge i => opWord 0x29 i.toNat
  | .ton i => opWord 0x30 i.toNat
  | .tof i => opWord 0x31 i.toNat
  | .tp i => opWord 0x32 i.toNat
  | .trst i => opWord 0x33 i.toNat
  | .ctu i => opWord 0x34 i.toNat
  | .ctd i => opWord 0x35 i.toNat
  | .crst i => opWord 0x36 i.toNat
  | .cld i => opWord 0x37 i.toNat
  | .ldw o => opWord 0x40 (wordOpBits o)
  | .ldi v => opWord 0x41 v.toNat
  | .ldih v => opWord 0x42 v.toNat
  | .stw o => opWord 0x43 (wordOpBits o)
  | .stwc o => opWord 0x44 (wordOpBits o)
  | .add o => opWord 0x45 (wordOpBits o)
  | .sub o => opWord 0x46 (wordOpBits o)
  | .mul o => opWord 0x47 (wordOpBits o)
  | .div o => opWord 0x48 (wordOpBits o)
  | .mod o => opWord 0x49 (wordOpBits o)
  | .andw o => opWord 0x4A (wordOpBits o)
  | .orw o => opWord 0x4B (wordOpBits o)
  | .xorw o => opWord 0x4C (wordOpBits o)
  | .shl n => opWord 0x4D n.toNat
  | .shr n => opWord 0x4E n.toNat
  | .asr n => opWord 0x4F n.toNat
  | .cmp c o => opWord 0x50 (wordOpBits o + condCode c * 2 ^ 16)
  | .min o => opWord 0x51 (wordOpBits o)
  | .max o => opWord 0x52 (wordOpBits o)
  | .getb n => opWord 0x53 n.toNat
  | .putb n => opWord 0x54 n.toNat
  | .mcs => opWord 0x66 0
  | .mce => opWord 0x67 0
  | .jmp t => opWord 0x60 t.toNat
  | .jc t => opWord 0x61 t.toNat
  | .jcn t => opWord 0x62 t.toNat
  | .call t => opWord 0x63 t.toNat
  | .callc t => opWord 0x64 t.toNat
  | .ret => opWord 0x65 0
  | .evt sev n => opWord 0x70 (sev.toNat * 2 ^ 20 + n.toNat)
  | .cantx t => opWord 0x71 t.toNat

/-- A bit operand's index lies in its space (R75). -/
def bitOpOk (o : BitOp) : Bool := o.index.toNat < bitSpaceSize o.space

/-- A word operand's index lies in its space (R75). -/
def wordOpOk (o : WordOp) : Bool := o.index.toNat < wordSpaceSize o.space

/-- A bit operand that a store may name. -/
def bitOpDst (o : BitOp) : Bool := bitOpOk o && (o.space = .pb || o.space = .mb)

/-- A word operand that a store may name. -/
def wordOpDst (o : WordOp) : Bool := wordOpOk o && (o.space = .pw || o.space = .mw)

/-- The instructions that R80 and R99 admit. -/
def lInstrOk : LInstr → Bool
  | .ld o => bitOpOk o
  | .ldn o => bitOpOk o
  | .and o => bitOpOk o
  | .andn o => bitOpOk o
  | .or o => bitOpOk o
  | .orn o => bitOpOk o
  | .xor o => bitOpOk o
  | .xorn o => bitOpOk o
  | .st o => bitOpDst o
  | .stn o => bitOpDst o
  | .setb o => bitOpDst o
  | .rstb o => bitOpDst o
  | .ton i => i.toNat < 4096
  | .tof i => i.toNat < 4096
  | .tp i => i.toNat < 4096
  | .trst i => i.toNat < 4096
  | .ctu i => i.toNat < 2048
  | .ctd i => i.toNat < 2048
  | .crst i => i.toNat < 2048
  | .cld i => i.toNat < 2048
  | .ldw o => wordOpOk o
  | .stw o => wordOpDst o
  | .stwc o => wordOpDst o
  | .add o => wordOpOk o
  | .sub o => wordOpOk o
  | .mul o => wordOpOk o
  | .div o => wordOpOk o
  | .mod o => wordOpOk o
  | .andw o => wordOpOk o
  | .orw o => wordOpOk o
  | .xorw o => wordOpOk o
  | .cmp _ o => wordOpOk o
  | .min o => wordOpOk o
  | .max o => wordOpOk o
  | _ => true

end Sys2Proof.Machine
end

