-- ==== Sys2Proof/Machine/Images.lean ====
section
/-! DEFINITION. The Zoros image as a byte string, and its check (05_online_change_and_forcing.md R132 to R140, R99, R7): what each
section must hold, the rules between sections, the image that the bytes stand for, and what ZOROS_CHECK reports. -/

namespace Sys2Proof.Machine

/-! ## Sections of words, points, symbols -/

/-- A byte string cut into pieces of `k` bytes. -/
def pieces (k : Nat) (b : List Byte) : List (List Byte) := chunks k (b.length / k) b

/-- A point directory entry (R136). -/
def pointRead (p : List Byte) : PointDef := { kind := leAt p 0 1, writer := leAt p 1 1, readers := leAt p 2 1, value := BitVec.ofNat 32 (leAt p 4 4) }

/-- The entry is one that R136 allows, where `tasks` are the engines with a TASK section. -/
def pointOk (tasks : List Nat) (p : List Byte) : Bool :=
  let x := pointRead p
  let bit := x.kind = 1 || x.kind = 3
  zeroAt p 3 1 && (!bit || x.value.toNat ≤ 1) &&
    (match x.kind with
     | 0 => x.writer = 0xFF && x.readers = 0 && x.value = 0
     | 1 | 2 => x.writer = 0xFF && (List.range 8).all fun n => !(bitOf x.readers n) || tasks.contains n
     | 3 | 4 => x.readers = 0 && (x.writer = 0x10 || x.writer = 0xFF || tasks.contains x.writer)
     | _ => false)

/-- The bytes that a point takes in a Weft or among a task's Warp points. -/
def pointSize (x : PointDef) : Nat := if x.kind = 1 || x.kind = 3 then 1 else 4

/-- The POINTS section holds to R136. -/
def pointsOk (tasks : List Nat) (b : List Byte) : Bool :=
  let l := pieces 8 b
  let size (f : PointDef → Bool) : Nat := (((l.map pointRead).filter f).map pointSize).sum
  b.length % 8 = 0 && b.length ≤ 131072 && l.all (pointOk tasks) && (List.range 8).all fun n =>
    size (fun x => (x.kind = 1 || x.kind = 2) && bitOf x.readers n) ≤ 32768 && size (fun x => (x.kind = 3 || x.kind = 4) && x.writer = n) ≤ 16384

/-- The point directory: the entries in use. -/
def pointsRead (b : List Byte) : SMap PointDef :=
  (((pieces 8 b).zipIdx.map fun p => (p.2, pointRead p.1)).filter fun p => p.2.kind ≠ 0)

/-- A symbol (R137). -/
def symbolRead (p : List Byte) : Symbol :=
  { id := leAt p 0 4, engine := Fin.ofNat 8 (leAt p 4 1), kind := leAt p 5 1, ty := leAt p 6 1, patchable := bitOf (leAt p 7 1) 0
    retain := bitOf (leAt p 7 1) 1, loc := leAt p 8 4 }

/-- The number of places of a symbol kind's space; 0 for point symbols. -/
def symbolSpace (k : Nat) : Nat :=
  match k with
  | 1 => 65536
  | 2 | 3 => 16384
  | 4 => 4096
  | 5 => 2048
  | 6 => 8192
  | _ => 0

/-- The symbol's entry is one that R137 allows. `op` gives the instruction that operates a timer in the program of an engine. -/
def symbolOk (pts : SMap PointDef) (op : Nat → Nat → Option Nat) (p : List Byte) : Bool :=
  let y := symbolRead p
  let x := mapGetD {} pts y.loc
  y.id ≠ 0 && leAt p 4 1 ≤ 7 && within 1 8 y.kind && leAt p 7 1 ≤ 3 && zeroAt p 12 4 &&
    (if y.kind = 7 || y.kind = 8 then x.kind = y.kind - 4 && x.writer = y.engine.val else y.loc < symbolSpace y.kind) &&
    (!y.patchable || y.kind = 1 || y.kind = 2 || y.kind = 3) && (!y.retain || y.kind = 1 || y.kind = 2 || y.kind = 5) &&
    (y.kind ≠ 4 || (within 0x30 0x32 y.ty && (op y.engine y.loc).all (· = y.ty)))

/-- The bytes of retentive state of a symbol. -/
def retainSize (y : Symbol) : Nat := if !y.retain then 0 else if y.kind = 1 then 1 else if y.kind = 2 then 4 else 12

/-- The SYMBOLS section holds to R137 and R146. -/
def symbolsOk (pts : SMap PointDef) (op : Nat → Nat → Option Nat) (b : List Byte) : Bool :=
  let l := pieces 16 b
  let ys := l.map symbolRead
  b.length % 16 = 0 && l.all (symbolOk pts op) && decide ((ys.map (fun (y : Symbol) => y.id)).Nodup) &&
    (List.range 8).all fun n => (((ys.filter fun y => y.engine.val = n).map retainSize).sum) ≤ 65536

/-! ## Station parameters, frames, codes, regions, banks (R134, R139) -/

/-- The octets of an address, the first one highest. -/
def octets (w : Nat) (b : List Byte) : BitVec w := BitVec.ofNat w (leNat b.reverse)

/-- The station parameters. -/
def stationRead (b : List Byte) : Station :=
  { mac := octets 48 (slice b 0 6), ipv4 := octets 32 (slice b 8 4), ethCfg := leAt b 12 4, timCtrl := leAt b 16 4, timSrv := leAt b 20 4
    blkw := leAt b 24 2, panel := leAt b 26 2 }

/-- Bits outside a mask are 0. -/
def onlyBits (mask x : Nat) : Bool := x &&& mask = x

/-- The STATION section holds to R139. -/
def stationOk (b : List Byte) : Bool :=
  let g := stationRead b
  b.length = 64 && zeroAt b 6 2 && zeroAt b 28 36 && onlyBits 0x9D g.ethCfg && onlyBits 0xFF000031 g.timCtrl && onlyBits 0x33F8 g.blkw &&
    onlyBits 0x3F01 g.panel && within 1 60 (bits g.panel 8 6) && bits g.timSrv 16 16 ≠ 0 && bits g.timSrv 8 8 ≠ 0 && bits g.timSrv 0 8 ≠ 0

/-- One frame's NSLOT and PER_U. -/
def frameRead (p : List Byte) : Nat × Nat := if leAt p 0 1 = 0 then (0, 0) else (leAt p 0 1, leAt p 4 4)

/-- The FRAMES section holds to R134 and R162. -/
def framesOk (b : List Byte) : Bool :=
  b.length = 32 && (pieces 8 b).all fun p =>
    let n := leAt p 0 1
    zeroAt p 1 3 && n ≤ 64 && (n = 0 || within n 312500 (leAt p 4 4))

/-- The frames of the four engines. -/
def framesRead (b : List Byte) : Vector (Nat × Nat) 4 := Vector.ofFn fun n => frameRead (slice b (8 * n.val) 8)

/-- One code configuration (R414). -/
def codeRead (p : List Byte) : CodeDef :=
  { code := leAt p 0 2, rate := leAt p 2 2, burst := leAt p 4 1, hmode := leAt p 5 1, wsh := leAt p 6 1, hbase := leInt32 p 8 }

/-- The CODES section holds to R134, R414 and R423. -/
def codesOk (b : List Byte) : Bool :=
  let l := pieces 12 b
  b.length % 12 = 0 && l.length ≤ 1024 && decide ((l.map fun p => leAt p 0 2).Nodup) && l.all fun p =>
    let c := codeRead p
    zeroAt p 7 1 && 1 ≤ c.burst && c.hmode ≤ 1 && c.wsh ≤ 31 && !codeReserved c.code

/-- One region: the addresses in units of 4 KiB (R394). -/
def regionRead (p : List Byte) : RegionDef :=
  let a := leAt p 1 1
  { region := leAt p 0 1, rdS := bitOf a 0, wrS := bitOf a 1, en := bitOf a 2, base := leAt p 4 4 / 4096, limit := leAt p 8 4 / 4096 }

/-- The REGIONS section holds to R134. -/
def regionsOk (b : List Byte) : Bool :=
  let l := pieces 12 b
  b.length % 12 = 0 && decide ((l.map fun p => leAt p 0 1).Nodup) && l.all fun p =>
    within 8 63 (leAt p 0 1) && leAt p 1 1 ≤ 7 && zeroAt p 2 2 && leAt p 4 4 % 4096 = 0 && leAt p 8 4 % 4096 = 0

/-- The BANKS section holds to R134. -/
def banksOk (b : List Byte) : Bool :=
  b.length = 8 && zeroAt b 6 2 && (slice b 0 6).all fun x => [0x0C, 0x0D, 0x0F, 0x1F].contains x.toNat

/-! ## Tasks (R97, R134, R135) -/

/-- A section of 32-bit words. -/
def wordsRead (b : List Byte) : List Word := (pieces 4 b).map fun p => BitVec.ofNat 32 (leAt p 0 4)

/-- Its length is one of whole words, of at most `top` bytes. -/
def wordsOk (top : Nat) (b : List Byte) : Bool := b.length % 4 = 0 && b.length ≤ top

/-- The task header (R135). -/
def taskRead (b : List Byte) : TaskImg :=
  { autostart := bitOf (leAt b 0 1) 0, crit := bitOf (leAt b 0 1) 1, miniv := leAt b 4 4, budget := leAt b 8 4, body := leAt b 12 4 }

/-- The TASK section holds to R135. -/
def taskOk (b : List Byte) : Bool :=
  let t := taskRead b
  b.length = 32 && leAt b 0 1 ≤ 3 && zeroAt b 1 3 && zeroAt b 16 16 && t.miniv ≤ 0xFFFFFF && within 1 0xFFFFF t.budget

/-- A frame template (R97). -/
def templateRead (p : List Byte) : Template :=
  let f := leAt p 1 1
  { channel := Fin.ofNat 8 (leAt p 0 1), ide := bitOf f 0, fdf := bitOf f 1, brs := bitOf f 2, len := leAt p 2 1, mwFirst := leAt p 4 2
    ident := BitVec.ofNat 29 (leAt p 8 4) }

/-- The template holds to R97. -/
def templateOk (p : List Byte) : Bool :=
  let f := leAt p 1 1
  leAt p 0 1 ≤ 7 && f ≤ 7 && zeroAt p 3 1 && zeroAt p 6 2 && frameOk (leAt p 8 4) (bitOf f 0) (bitOf f 1) (bitOf f 2) (leAt p 2 1)

/-- The TEMPLATES section holds to R134 and R97. -/
def templatesOk (b : List Byte) : Bool := b.length % 12 = 0 && b.length ≤ 3072 && (pieces 12 b).all templateOk

/-- The number of indices of an INIT space. -/
def initSpace (k : Nat) : Nat := if k = 0x2 then 65536 else if k = 0xA then 16384 else if k = 0xC then 2048 else 0

/-- The INIT section holds to R134. -/
def initOk (b : List Byte) : Bool :=
  b.length % 8 = 0 && (pieces 8 b).all fun p =>
    let k := leAt p 0 1
    zeroAt p 1 1 && leAt p 2 2 < initSpace k && (k ≠ 0x2 || leAt p 4 4 ≤ 1)

/-- The initial values. -/
def initRead (b : List Byte) : List (Nat × Nat × Word) := (pieces 8 b).map fun p => (leAt p 0 1, leAt p 2 2, BitVec.ofNat 32 (leAt p 4 4))

/-- The SUBS section lists addresses of 17 bits. -/
def subsFormOk (b : List Byte) : Bool := wordsOk 524288 b && (wordsRead b).all fun w => w.toNat < 131072

/-- The subroutine entries are distinct and lie after END within the program (R81). -/
def subsOk (body len : Nat) (l : List Nat) : Bool := decide l.Nodup && l.all fun a => body ≤ a && a < len

/-! ## The program (R81, R95, R99) -/

/-- The bit operand of an instruction. -/
def bitOperand : LInstr → Option BitOp
  | .ld o | .ldn o | .and o | .andn o | .or o | .orn o | .xor o | .xorn o | .st o | .stn o | .setb o | .rstb o => some o
  | _ => none

/-- The word operand of an instruction. -/
def wordOperand : LInstr → Option WordOp
  | .ldw o | .stw o | .stwc o | .add o | .sub o | .mul o | .div o | .mod o | .andw o | .orw o | .xorw o | .cmp _ o | .min o | .max o => some o
  | _ => none

/-- The target of a jump. -/
def jumpTarget : LInstr → Option Nat
  | .jmp t | .jc t | .jcn t => some t.toNat
  | _ => none

/-- The target of a call. -/
def callTarget : LInstr → Option Nat
  | .call t | .callc t => some t.toNat
  | _ => none

/-- The timer that an instruction operates, with its opcode. -/
def timerOperated : LInstr → Option (Nat × Nat)
  | .ton i => some (i.toNat, 0x30)
  | .tof i => some (i.toNat, 0x31)
  | .tp i => some (i.toNat, 0x32)
  | _ => none

/-- The edge memory that an instruction names. -/
def edgeNamed : LInstr → Option Nat
  | .pedge i | .nedge i => some i.toNat
  | _ => none

/-- The point that a bit operand names is one of this task, of matching width. -/
def bitPointOk (n : Nat) (pts : SMap PointDef) (o : BitOp) : Bool :=
  let x := mapGetD {} pts o.index.toNat
  match o.space with
  | .wb => x.kind = 1 && bitOf x.readers n
  | .pb => x.kind = 3 && x.writer = n
  | _ => true

/-- The same for a word operand. -/
def wordPointOk (n : Nat) (pts : SMap PointDef) (o : WordOp) : Bool :=
  let x := mapGetD {} pts o.index.toNat
  match o.space with
  | .ww => x.kind = 2 && bitOf x.readers n
  | .pw => x.kind = 4 && x.writer = n
  | _ => true

/-- The last of a list of rising addresses that is at most `a`, and the first above it. -/
def around (l : List Nat) (a : Nat) : Option Nat × Option Nat := ((l.filter (· ≤ a)).getLast?, (l.filter (a < ·)).head?)

/-- Numbers rise strictly. -/
def rising : List Nat → Bool
  | [] => true
  | [_] => true
  | a :: b :: r => decide (a < b) && rising (b :: r)

/-- The targets that calls reach from the owners in `from_`. -/
def callStep (edges : List (Nat × Nat)) (from_ : List Nat) : List Nat := ((edges.filter fun e => from_.contains e.1).map (·.2)).dedup

/-- The targets after `n` calls. -/
def callReach (edges : List (Nat × Nat)) : Nat → List Nat → List Nat
  | 0, l => l
  | n + 1, l => callReach edges n (callStep edges l)

/-- A CANTX names a template that is there, and whose payload ends by MW 16,383. -/
def cantxOk (tmpls : List Template) : LInstr → Bool
  | .cantx t => match tmpls[t.toNat]? with
    | some x => x.len = 0 || 4 * x.mwFirst + x.len ≤ 65536
    | none => false
  | _ => true

/-- The static checks of one task's program (R81, R95, R99). Owner 131,072 stands for the body in the call graph. A PICK or END between
END and the first subroutine is never executed (R81); the words there are checked for what a word may be (assumption log 144), and a jump
may land on the PICK of its own pick (assumption log 143). -/
def progOk (n : Nat) (pts : SMap PointDef) (body : Nat) (prog : List Word) (subList : List Nat) (tmpls : List Template) : Bool :=
  let ds := prog.map loomDecode
  let code : List (Nat × LInstr) := ds.zipIdx.filterMap fun p => p.1.map fun i => (p.2, i)
  let subs := subList.mergeSort (fun a b => decide (a ≤ b))
  let live := code.filter fun p => p.1 < body || subs.head?.any (· ≤ p.1)
  let picks : List (Nat × Nat) := live.filterMap fun p => match p.2 with
    | .pick no => some (p.1, no.toNat)
    | _ => none
  let ends : List Nat := live.filterMap fun p => match p.2 with
    | .fin => some p.1
    | _ => none
  let starts := picks.map (·.1)
  let owner (a : Nat) : Option Nat := if a < body then some 131072 else (around subs a).1
  let jumpOk (a t : Nat) : Bool :=
    if a < body then
      let r := around starts a
      (r.1.any (· ≤ t) && t < r.2.getD body) || (starts.contains t && a < t)
    else match around subs a with
      | (some lo, hi) => lo ≤ t && t < hi.getD prog.length
      | (none, _) => true
  let used := code.filter fun p => (owner p.1).isSome
  let edges : List (Nat × Nat) := used.filterMap fun p => match owner p.1, callTarget p.2 with
    | some o, some t => some (o, t)
    | _, _ => none
  let timers : List (Nat × Nat) := (code.filterMap fun p => timerOperated p.2).dedup
  2 ≤ body && body ≤ prog.length && prog.length ≤ 131072 && ds.all (·.isSome) && starts.head? = some 0 && ends = [body - 1] &&
    starts.all (· < body) && rising (picks.map (·.2)) &&
    (code.all fun p => (bitOperand p.2).all (bitPointOk n pts) && (wordOperand p.2).all (wordPointOk n pts) && cantxOk tmpls p.2) &&
    (used.all fun p => (jumpTarget p.2).all (jumpOk p.1) && (callTarget p.2).all subs.contains) &&
    callReach edges 9 (131072 :: subs) = [] && decide ((timers.map (fun (p : Nat × Nat) => p.1)).Nodup) && decide ((code.filterMap (fun p => edgeNamed p.2) : List Nat).Nodup)

/-- The opcode of the TON, TOF or TP that operates a timer in a program. -/
def timerOpIn (prog : List Word) (i : Nat) : Option Nat :=
  (prog.filterMap fun w => (loomDecode w).bind timerOperated).find? (·.1 = i) |>.map (·.2)

/-! ## Channels (R138) -/

/-- An entry of the CHANNELS section, with its block. -/
structure ChanEnt where
  idx   : Nat
  kind  : Nat
  target : Nat
  block : List Byte
deriving DecidableEq, Repr

/-- The number of entries that a section has room for and claims. -/
def chanCount (b : List Byte) : Nat := min (leAt b 0 4) ((b.length - 8) / 16)

/-- The form of the section: the count, the fields of each entry, the places of the blocks. -/
def chanFormOk (b : List Byte) : Bool :=
  let n := leAt b 0 4
  8 ≤ b.length && n ≤ 8192 && zeroAt b 4 4 && 8 + 16 * n ≤ b.length && (List.range (chanCount b)).all fun j =>
    let o := 8 + 16 * j
    let ofs := leAt b (o + 8) 4
    let len := leAt b (o + 12) 4
    leAt b o 2 ≤ 8191 && within 1 9 (leAt b (o + 2) 1) && zeroAt b (o + 3) 1 && leAt b (o + 4) 4 < 2 ^ 24 &&
      (if len = 0 then ofs = 0 else ofs % 8 = 0 && 8 + 16 * n ≤ ofs && ofs + len ≤ b.length)

/-- The entries. -/
def chanEnts (b : List Byte) : List ChanEnt :=
  (List.range (chanCount b)).map fun j =>
    let o := 8 + 16 * j
    { idx := leAt b o 2, kind := leAt b (o + 2) 1, target := leAt b (o + 4) 4, block := slice b (leAt b (o + 8) 4) (leAt b (o + 12) 4) }

/-- The most live channels of a kind (R62). -/
def kindLimit (k : Nat) : Nat :=
  match k with
  | 1 => 8
  | 2 => 256
  | 3 => 4
  | 4 => 16
  | 5 => 4
  | 6 => 8
  | 7 => 64
  | 8 => 16
  | 9 => 1024
  | _ => 0

/-- The target of a kind is one that R62 gives. -/
def targetOk (kind target : Nat) : Bool :=
  match kind with
  | 1 => target < 8
  | 2 => target < 256
  | 3 => target < 4
  | 4 => target < 16
  | 5 => target < 4
  | 6 => target < 8
  | 7 => target < 65536 &&
    (match target / 256 with
     | 1 => target % 256 < 8
     | 2 => true
     | 3 => target % 256 < 4
     | 4 => target % 256 < 8
     | _ => false)
  | 8 => target = 0
  | 9 => target < 16384
  | _ => false

/-- The target lies on a unit that ID_CAP reads as absent (R4, R5). A stream names the units of its source. -/
def targetAbsent (cap kind target : Nat) : Bool :=
  let prism (n : Nat) : Bool := bits cap 4 4 ≤ n
  let bank (n : Nat) : Bool := bits cap 12 6 ≤ 8 * n
  match kind with
  | 2 => target < 256 && prism (target / 64)
  | 3 => target < 4 && bank target
  | 7 => (target / 256 = 2 && prism (target % 256 / 64)) || (target / 256 = 3 && target % 256 < 4 && bank (target % 256))
  | _ => false

/-- The lengths that a block may have at CREATE (R63); 0 for none. -/
def blockLens (kind : Nat) : List Nat :=
  match kind with
  | 2 => [208, 416]
  | 3 => [144]
  | 4 => [168]
  | 5 => [32]
  | 6 => [40]
  | _ => [0]

/-- A reserved field of a kind's block is not 0 (R58 reason 2). -/
def blockReserved (kind : Nat) (b : List Byte) : Bool :=
  match kind with
  | 2 => !(loopReserved b 0) || (b.length = 416 && !(loopReserved b 208))
  | 3 => !(dioReserved b)
  | 4 => !(aioReserved b)
  | 5 => !(encReserved b)
  | 6 => !(canReserved b)
  | _ => false

/-- A kind's block of the right length passes the checks of its chapter. -/
def blockOk (c : PtCtx) (kind target : Nat) (old : Option CMode) (b : List Byte) : Bool :=
  match kind with
  | 2 => loopCheck c target b 0 && (b.length ≠ 416 || (loopCheck c target b 208 && sinksEqual b))
  | 3 => dioCheck c target b
  | 4 => aioCheck c target old b
  | 5 => encCheck c target b
  | 6 => canCheck c target b
  | _ => true

/-- The parameter sets of a loop slot's block. -/
def loopSets (b : List Byte) : LoopSet × LoopSet := (loopRead b 0, if b.length = 416 then loopRead b 208 else loopRead b 0)

/-- The points that a channel's block makes it deliver. -/
def blockPts (kind target : Nat) (b : List Byte) : List (Deliverer × Nat) :=
  givenPts (kind, target) (match kind with
    | 2 => loopPts (loopSets b).1 ++ loopPts (loopSets b).2
    | 3 => dioPts (dioRead b)
    | 4 => aioPts (aioRead b)
    | 5 => encPts (encRead b)
    | 6 => [(canRead b).statusPt]
    | _ => [])

/-- What the entries of an image are checked against: the image itself. -/
def entsCtx (pts : SMap PointDef) (l : List ChanEnt) : PtCtx :=
  { pts := pts
    used := l.flatMap fun e => blockPts e.kind e.target e.block
    aio := fun i => (l.find? fun e => e.kind = 4 && e.target = i).map fun e => aioRead e.block
    loops := l.flatMap fun e => if e.kind = 2 then [(e.target, (loopSets e.block).1), (e.target, (loopSets e.block).2)] else [] }

/-- An entry passes the checks of the CREATE it stands for (R138): `tasks` have a TASK section, `frames` hold NSLOT. -/
def entOk (c : PtCtx) (tasks : List Nat) (frames : Vector (Nat × Nat) 4) (e : ChanEnt) : Bool :=
  targetOk e.kind e.target && (blockLens e.kind).contains e.block.length && !(blockReserved e.kind e.block) &&
    (e.kind ≠ 1 || tasks.contains e.target) && (e.kind ≠ 2 || e.target % 64 < (vget frames (Fin.ofNat 4 (e.target / 64))).1) &&
    (e.kind ≠ 9 || (c.pt e.target).kind = 3 || (c.pt e.target).kind = 4) && blockOk c e.kind e.target none e.block

/-- The rules over all entries: each index and each target of a kind once, no kind beyond its limit. -/
def entsOk (l : List ChanEnt) : Bool :=
  decide ((l.map (fun (e : ChanEnt) => e.idx)).Nodup) && decide ((l.map fun e => (e.kind, e.target)).Nodup) &&
    (List.range 10).all fun k => (l.filter (·.kind = k)).length ≤ kindLimit k

/-- The channel set of the entries. -/
def entsSet (l : List ChanEnt) : SMap ChanDef :=
  l.foldl (fun m e => mapSet m e.idx { kind := e.kind, target := e.target, block := e.block }) []

/-! ## The image as a whole (R132, R133, R134, R140) -/

/-- An entry of the section table with its position. -/
structure SecEnt where
  pos  : Nat
  ty   : Nat
  inst : Nat
  ofs  : Nat
  len  : Nat
  crc  : Nat
deriving DecidableEq, Repr

/-- A failure: its place in the section table, none for the header, the table, the layout and the trailer; and whether an absent
unit is named. -/
structure ImgFail where
  pos    : Option Nat
  absent : Bool := false
deriving DecidableEq, Repr

/-- Report a failure at a place when a check does not hold. -/
def failIf (c : Bool) (pos : Option Nat) (absent : Bool := false) : List ImgFail := if c then [{ pos := pos, absent := absent }] else []

/-- The entries of the section table that lie before the trailer. -/
def secEnts (b : List Byte) : List SecEnt :=
  (List.range (min (min (leAt b 6 2) 256) ((b.length - 68) / 16))).map fun i =>
    let o := 64 + 16 * i
    { pos := i, ty := leAt b o 2, inst := leAt b (o + 2) 2, ofs := leAt b (o + 4) 4, len := leAt b (o + 8) 4, crc := leAt b (o + 12) 4 }

/-- The end of the section table. -/
def tableEnd (b : List Byte) : Nat := 64 + 16 * leAt b 6 2

/-- The place of a section is sound. -/
def secPlaced (b : List Byte) (e : SecEnt) : Bool := e.ofs % 8 = 0 && tableEnd b ≤ e.ofs && e.ofs + e.len + 4 ≤ b.length

/-- Its type and instance are in the table of R134. -/
def secKnown (e : SecEnt) : Bool := (within 1 8 e.ty && e.inst = 0) || (within 0x10 0x15 e.ty && e.inst ≤ 7)

/-- Two sections overlap. -/
def secsOverlap : List SecEnt → Bool
  | [] => false
  | e :: r => r.any (fun f => e.ofs < f.ofs + f.len && f.ofs < e.ofs + e.len) || secsOverlap r

/-- NEEDS names a unit that ID_CAP does not have (R133). -/
def needsAbsent (cap needs : Nat) : Bool :=
  [(31, 1), (30, 1), (26, 4), (23, 3), (18, 5), (12, 6), (8, 4), (4, 4), (0, 4)].any fun f => bits cap f.1 f.2 < bits needs f.1 f.2

/-- The header is sound, and the trailer holds the CRC-32 of what comes before it. -/
def headerOk (b : List Byte) : Bool :=
  68 ≤ b.length && b.length ≤ 7 * 1048576 && leAt b 0 4 = 0x3153525A && leAt b 4 2 = 1 && within 1 256 (leAt b 6 2) && leAt b 8 4 = b.length &&
    zeroAt b 16 48 && tableEnd b + 4 ≤ b.length && leAt b (b.length - 4) 4 = crc32n (b.take (b.length - 4))

/-- The sections that can be read: placed, known, and the first of their type and instance. -/
def secsRead (b : List Byte) : List (SecEnt × List Byte) :=
  let l := (secEnts b).filter fun e => secPlaced b e && secKnown e
  (l.filter fun e => !(l.any fun f => f.pos < e.pos && f.ty = e.ty && f.inst = e.inst)).map fun e => (e, slice b e.ofs e.len)

/-- A section: its position and its bytes. -/
def secOf (l : List (SecEnt × List Byte)) (ty inst : Nat) : Option (Nat × List Byte) :=
  (l.find? fun p => p.1.ty = ty && p.1.inst = inst).map fun p => (p.1.pos, p.2)

/-- A section that is there fails its check. -/
def secFail (l : List (SecEnt × List Byte)) (ty inst : Nat) (good : List Byte → Bool) : List ImgFail :=
  match secOf l ty inst with
  | some (pos, b) => failIf (!good b) (some pos)
  | none => []

/-- The bytes of a section, none where it is missing. -/
def secBytes (l : List (SecEnt × List Byte)) (ty inst : Nat) : List Byte := ((secOf l ty inst).map (·.2)).getD []

/-- The engines with a TASK section. -/
def taskEngines (l : List (SecEnt × List Byte)) : List Nat := (List.range 8).filter fun n => (secOf l 0x10 n).isSome

/-- The task of engine `n` as its sections give it. -/
def taskOf (l : List (SecEnt × List Byte)) (n : Nat) : TaskImg :=
  { taskRead (secBytes l 0x10 n) with
    prog := wordsRead (secBytes l 0x11 n), const := wordsRead (secBytes l 0x12 n), subs := (wordsRead (secBytes l 0x13 n)).map (·.toNat)
    tmpls := (pieces 12 (secBytes l 0x14 n)).map templateRead, init := initRead (secBytes l 0x15 n) }

/-- The channel entries of an image. -/
def imageEnts (l : List (SecEnt × List Byte)) : List ChanEnt := if (secOf l 0x05 0).isSome then chanEnts (secBytes l 0x05 0) else []

/-- The frames of an image; none where the section is missing or faulty. -/
def imageFrames (l : List (SecEnt × List Byte)) : Vector (Nat × Nat) 4 :=
  if framesOk (secBytes l 0x02 0) then framesRead (secBytes l 0x02 0) else Vector.replicate 4 (0, 0)

/-- The directory that the other sections are checked against, whether or not it passes its own check. -/
def imagePoints (l : List (SecEnt × List Byte)) : SMap PointDef := pointsRead (secBytes l 0x03 0)

/-- The failures of the header, the section table, the layout and the trailer, and of the entries of the table (R132 to R134). -/
def tableFails (cap : Nat) (b : List Byte) : List ImgFail :=
  let es := secEnts b
  let placed := es.filter (secPlaced b)
  let l := secsRead b
  failIf (needsAbsent cap (leAt b 12 4)) none true ++
  failIf (!(headerOk b) || es.any (fun e => !(secPlaced b e)) || secsOverlap (placed.filter (0 < ·.len))) none ++
  failIf ((secOf l 0x01 0).isNone || (secOf l 0x03 0).isNone || (secOf l 0x04 0).isNone) none ++
  failIf (es.any fun e => !(secKnown e) || es.any fun f => f.pos < e.pos && f.ty = e.ty && f.inst = e.inst) none ++
  (placed.flatMap fun e => failIf (crc32n (slice b e.ofs e.len) ≠ e.crc) (some e.pos))

/-- The failures of the sections of one engine (R97, R99, R134, R135, R138). -/
def taskFails (l : List (SecEnt × List Byte)) (n : Nat) : List ImgFail :=
  let t := taskOf l n
  let prog (b : List Byte) : Bool := wordsOk 524288 b &&
    progOk n (imagePoints l) t.body t.prog (t.subs.filter fun a => t.body ≤ a && a < t.prog.length) t.tmpls
  if (secOf l 0x10 n).isNone then [0x11, 0x12, 0x13, 0x14, 0x15].flatMap fun k => secFail l k n fun _ => false
  else
    secFail l 0x10 n (fun b => taskOk b && (secOf l 0x11 n).isSome && (imageEnts l).any fun e => e.kind = 1 && e.target = n) ++
    secFail l 0x11 n prog ++ secFail l 0x12 n (wordsOk 65536) ++
    secFail l 0x13 n (fun b => subsFormOk b && subsOk t.body t.prog.length t.subs) ++
    secFail l 0x14 n templatesOk ++ secFail l 0x15 n initOk

/-- The failures of the sections that belong to no engine (R134, R136 to R139). -/
def sectionFails (cap : Nat) (l : List (SecEnt × List Byte)) : List ImgFail :=
  let tasks := taskEngines l
  let ents := imageEnts l
  let op (n i : Nat) : Option Nat := timerOpIn (wordsRead (secBytes l 0x11 n)) i
  let chanPos : Option Nat := (secOf l 0x05 0).map (·.1)
  let framePos : Option Nat := (secOf l 0x02 0).map (·.1)
  secFail l 0x01 0 stationOk ++ secFail l 0x02 0 framesOk ++ secFail l 0x03 0 (pointsOk tasks) ++ secFail l 0x06 0 codesOk ++
  secFail l 0x07 0 regionsOk ++ secFail l 0x08 0 banksOk ++
  (if (List.range 4).any (fun n => bits cap 4 4 ≤ n && leAt (secBytes l 0x02 0) (8 * n) 1 ≠ 0) then failIf true framePos true else []) ++
  secFail l 0x05 0 (fun b => chanFormOk b && entsOk ents && ents.all fun e => e.kind ≠ 1 || tasks.contains e.target) ++
  (if ents.any (fun e => targetAbsent cap e.kind e.target) then failIf true chanPos true else []) ++
  secFail l 0x04 0 (symbolsOk (imagePoints l) op) ++
  secFail l 0x05 0 fun _ =>
    let c := entsCtx (imagePoints l) ents
    ents.all fun e => targetAbsent cap e.kind e.target || entOk c tasks (imageFrames l) e

/-- Every failure of an image. -/
def imageFails (cap : Nat) (b : List Byte) : List ImgFail :=
  let l := secsRead b
  tableFails cap b ++ sectionFails cap l ++ (List.range 8).flatMap (taskFails l)

/-- The image that sound bytes stand for. -/
def imageRead (b : List Byte) : Image :=
  let l := secsRead b
  { raw := b, crc := leAt b (b.length - 4) 4, station := stationRead (secBytes l 0x01 0), frames := imageFrames l, points := pointsRead (secBytes l 0x03 0)
    symbols := (pieces 16 (secBytes l 0x04 0)).map symbolRead, channels := entsSet (imageEnts l)
    codes := (pieces 12 (secBytes l 0x06 0)).map codeRead, regions := (pieces 12 (secBytes l 0x07 0)).map regionRead
    banks := if (secOf l 0x08 0).isSome then (slice (secBytes l 0x08 0) 0 6).map (·.toNat) else []
    tasks := Vector.ofFn fun n => if (secOf l 0x10 n.val).isSome then some (taskOf l n.val) else none }

/-- The position that a check reports for its failures: 0xFFFF_FFFF for the header, else the lowest section (R140). -/
def failResult (l : List ImgFail) : Nat :=
  if l.any (fun f => f.pos.isNone) then 0xFFFFFFFF else (l.filterMap (fun (f : ImgFail) => f.pos)).foldl min 0xFFFFFFFF

/-- The check of a byte string: the image, or the status and RESULT of the failure; an absent unit comes before all else (R140). -/
def imageCheck (cap : Nat) (b : List Byte) : Sum (Nat × Nat) Image :=
  match imageFails cap b with
  | [] => .inr (imageRead b)
  | l => if l.any (·.absent) then .inl (stNotPresent, failResult (l.filter (·.absent))) else .inl (stBadImage, failResult l)

end Sys2Proof.Machine
end

