-- ==== Sys2Proof/Machine/Flags.lean ====
section
/-! DEFINITION. The arithmetic of the Loom engine's word instructions with its two system bits, OVF and DIVZ (R91, R92), and the
conditions of CMP. -/

namespace Sys2Proof.Machine

/-- A result of word arithmetic: the value, and whether OVF or DIVZ is set. -/
structure Arith where
  val  : Word
  ovf  : Bool := false
  divz : Bool := false
deriving DecidableEq, Repr

/-- Hold an exact result to the signed range; OVF says that it was beyond it (R92). -/
def saturate (x : Int) : Arith := { val := wordOf (sat32 x), ovf := decide (sat32 x ≠ x) }

/-- ADD (R92). -/
def addW (a b : Word) : Arith := saturate (a.toInt + b.toInt)

/-- SUB (R92). -/
def subW (a b : Word) : Arith := saturate (a.toInt - b.toInt)

/-- MUL (R92). -/
def mulW (a b : Word) : Arith := saturate (a.toInt * b.toInt)

/-- DIV: truncated towards zero; a zero divisor gives 0 and DIVZ (R91, R92). -/
def divW (a b : Word) : Arith := if b = 0 then { val := 0, divz := true } else saturate (Int.tdiv a.toInt b.toInt)

/-- MOD: the remainder has the sign of WA; a zero divisor gives 0 and DIVZ (R91, R92). -/
def modW (a b : Word) : Arith := if b = 0 then { val := 0, divz := true } else { val := wordOf (Int.tmod a.toInt b.toInt) }

/-- The conditions of CMP: WA COND op (R92). -/
def condHolds (c : Cond) (a b : Word) : Bool :=
  match c with
  | .eq => a = b
  | .ne => a ≠ b
  | .lt => a.toInt < b.toInt
  | .le => a.toInt ≤ b.toInt
  | .gt => b.toInt < a.toInt
  | .ge => b.toInt ≤ a.toInt
  | .ltu => a.toNat < b.toNat
  | .geu => b.toNat ≤ a.toNat

/-- MIN and MAX compare as signed values (R91). -/
def minW (a b : Word) : Word := if a.toInt ≤ b.toInt then a else b

/-- MAX. -/
def maxW (a b : Word) : Word := if a.toInt ≤ b.toInt then b else a

/-- Shift left, losing what is shifted out (R91). -/
def shlW (a : Word) (n : Nat) : Word := a <<< n

/-- Shift right with zeros. -/
def shrW (a : Word) (n : Nat) : Word := a >>> n

/-- Shift right with the sign. -/
def asrW (a : Word) (n : Nat) : Word := a.sshiftRight n

/-- A word with bit `n` set to `b` (PUTB). -/
def putBit (a : Word) (n : Nat) (b : Bool) : Word :=
  let m : Word := 1 <<< n
  if b then a ||| m else a &&& ~~~m

end Sys2Proof.Machine
end

