-- ==== Sys2Proof/Machine/Operands.lean ====
section
/-! DEFINITION. The operand forms of the Loom engine (R75 to R79): what a scan can read, reads with the records that run-ahead
keeps of them, stores, timers and counters as a scan sees them. -/

namespace Sys2Proof.Machine

/-- What is fixed for one scan (R98, R110): the engine, its program and constants, the Weft it reads, the system values. -/
structure LCtx where
  n      : Nat
  prog   : SMap Word
  kw     : SMap Word
  tmpls  : List Template
  weft   : SMap Word
  ts     : Word
  period : Word
  scan   : Nat
  first  : Bool
  forced : Bool
  paired : Bool
deriving DecidableEq, Repr

/-- What one instruction does: the new state of the scan, the Weft points and the engine-local places it read, the places it
wrote with their new values, its store log entries (R113), its journal entries (R79), a trap (R100), the end of the scan. -/
structure LEff where
  run    : LRun
  reads  : List Nat := []
  locals : List Loc := []
  writes : List LWrite := []
  stores : Nat := 0
  jrn    : List JEntry := []
  trap   : Option Nat := none
  fin    : Bool := false
deriving DecidableEq, Repr

/-! ## Timers and counters as a scan sees them (R78, R86, R90) -/

/-- The state of a timer at scan time `ts`: a RUNNING timer whose elapsed time has reached its preset reads as DONE (R86). -/
def timerSt (ts : Word) (t : Timer) : TimSt :=
  if t.st = .running && t.pt.toNat ≤ (ts - t.start).toNat then .done else t.st

/-- ET (R86). -/
def timerEt (ts : Word) (t : Timer) : Word :=
  match timerSt ts t with
  | .idle => 0
  | .running => ts - t.start
  | .done => t.pt

/-- A timer with its state as it reads at `ts`. -/
def timerNow (ts : Word) (t : Timer) : Timer := { t with st := timerSt ts t }

/-- The timer instruction that operates a timer in a program (R88): the opcode of the first that names it. -/
def timerOp (prog : SMap Word) (i : Nat) : Nat :=
  ((prog.find? fun p =>
    let op := bits p.2.toNat 24 8
    (op = 0x30 || op = 0x31 || op = 0x32) && bits p.2.toNat 0 24 = i).map fun p => bits p.2.toNat 24 8).getD 0

/-- TQ: the Q that the operating instruction gives (R87). -/
def timerQ (op : Nat) (ts : Word) (t : Timer) : Bool :=
  if op = 0x30 then timerSt ts t = .done
  else if op = 0x31 then timerSt ts t = .running || t.mem
  else if op = 0x32 then timerSt ts t = .running
  else false

/-- A timer of the scan, as it reads. -/
def runTimer (ts : Word) (r : LRun) (i : Nat) : Timer := timerNow ts (mapGetD {} r.data.timers i)

/-- A counter of the scan. -/
def runCtr (r : LRun) (i : Nat) : Counter := mapGetD {} r.data.ctrs i

/-! ## Reads -/

/-- A system bit (R98): OVF and DIVZ as the scan has set them. -/
def sysBit (c : LCtx) (r : LRun) (i : Nat) : Bool :=
  match i with
  | 0 => c.first
  | 1 => r.ovf
  | 2 => r.divz
  | 3 => c.forced
  | 4 => c.paired
  | _ => false

/-- A system word (R98). -/
def sysWord (c : LCtx) (i : Nat) : Word :=
  match i with
  | 0 => BitVec.ofNat 32 c.scan
  | 1 => BitVec.ofNat 32 (c.scan / 2 ^ 32)
  | 2 => c.ts
  | 3 => c.period
  | _ => 0

/-- The value of a bit operand (R76). -/
def bitVal (c : LCtx) (r : LRun) (o : BitOp) : Bool :=
  let i := o.index.toNat
  match o.space with
  | .wb => (mapGetD 0 c.weft i).getLsbD 0
  | .pb => (mapGetD 0 r.data.work i).getLsbD 0
  | .mb => mapGetD false r.data.mb i
  | .tq => timerQ (timerOp c.prog i) c.ts (mapGetD {} r.data.timers i)
  | .cq => decide ((runCtr r i).pv ≤ (runCtr r i).cv)
  | .sb => sysBit c r i

/-- The value of a word operand (R76). -/
def wordVal (c : LCtx) (r : LRun) (o : WordOp) : Word :=
  let i := o.index.toNat
  match o.space with
  | .ww => mapGetD 0 c.weft i
  | .pw => mapGetD 0 r.data.work i
  | .mw => mapGetD 0 r.data.mw i
  | .te => timerEt c.ts (mapGetD {} r.data.timers i)
  | .cv => wordOf (runCtr r i).cv
  | .sw => sysWord c i
  | .kw => mapGetD 0 c.kw i
  | .imm => o.index.signExtend 32

/-- The Weft points that a bit operand enters into the read-set (R79). -/
def bitReads (o : BitOp) : List Nat := if o.space = .wb then [o.index.toNat] else []

/-- The Weft points that a word operand enters into the read-set. -/
def wordReads (o : WordOp) : List Nat := if o.space = .ww then [o.index.toNat] else []

/-- The engine-local places that a bit operand reads (R113). -/
def bitLocals (o : BitOp) : List Loc :=
  let i := o.index.toNat
  match o.space with
  | .wb => []
  | .pb => [.work i]
  | .mb => [.mb i]
  | .tq => [.timer i]
  | .cq => [.ctr i]
  | .sb => if i = 1 then [.ovf] else if i = 2 then [.divz] else []

/-- The engine-local places that a word operand reads. -/
def wordLocals (o : WordOp) : List Loc :=
  let i := o.index.toNat
  match o.space with
  | .pw => [.work i]
  | .mw => [.mw i]
  | .te => [.timer i]
  | .cv => [.ctr i]
  | _ => []

/-! ## Writes -/

/-- Apply one write to the scan's state. -/
def applyWrite (r : LRun) : LWrite → LRun
  | .mb i v => { r with data := { r.data with mb := mapPut false r.data.mb i v } }
  | .mw i v => { r with data := { r.data with mw := mapPut 0 r.data.mw i v } }
  | .work i v => { r with data := { r.data with work := mapPut 0 r.data.work i v } }
  | .timer i v => { r with data := { r.data with timers := mapPut {} r.data.timers i v } }
  | .ctr i v => { r with data := { r.data with ctrs := mapPut {} r.data.ctrs i v } }
  | .edge i v => { r with data := { r.data with edges := mapSet r.data.edges i v } }
  | .ovf => { r with ovf := true }
  | .divz => { r with divz := true }

/-- The place of a write. -/
def writeLoc : LWrite → Loc
  | .mb i _ => .mb i
  | .mw i _ => .mw i
  | .work i _ => .work i
  | .timer i _ => .timer i
  | .ctr i _ => .ctr i
  | .edge i _ => .edge i
  | .ovf => .ovf
  | .divz => .divz

/-- A place holds the same value in two states of a scan. -/
def sameAt (a b : LRun) : Loc → Bool
  | .mb i => mapGetD false a.data.mb i = mapGetD false b.data.mb i
  | .mw i => mapGetD 0 a.data.mw i = mapGetD 0 b.data.mw i
  | .work i => mapGetD 0 a.data.work i = mapGetD 0 b.data.work i
  | .timer i => mapGetD {} a.data.timers i = mapGetD {} b.data.timers i
  | .ctr i => mapGetD {} a.data.ctrs i = mapGetD {} b.data.ctrs i
  | .edge i => mapGet a.data.edges i = mapGet b.data.edges i
  | .ovf => a.ovf = b.ovf
  | .divz => a.divz = b.divz

/-- The 16-byte entries that a journal entry takes (R79). -/
def jCost : JEntry → Nat
  | .can _ _ f => 1 + (f.data.length + 15) / 16
  | _ => 1

/-- The entries that a journal takes. -/
def jCosts (l : List JEntry) : Nat := (l.map jCost).sum

/-- An effect with a write that the store log records. -/
def storeEff (r : LRun) (w : LWrite) (j : List JEntry) (locals : List Loc) : LEff :=
  { run := { applyWrite r w with jrn := r.jrn ++ j }, writes := [w], stores := 1, jrn := j, locals := locals }

/-- Store a bit in PB or MB (R77): a Warp entry when the working value changes. -/
def storeBit (r : LRun) (o : BitOp) (v : Bool) : LEff :=
  let i := o.index.toNat
  if o.space = .pb then
    let w : Word := BitVec.ofNat 32 (b2n v)
    storeEff r (.work i w) (if mapGetD 0 r.data.work i = w then [] else [.warp i w]) [.work i]
  else storeEff r (.mb i v) [] []

/-- Store a word in PW or MW (R77). -/
def storeWord (r : LRun) (o : WordOp) (w : Word) : LEff :=
  let i := o.index.toNat
  if o.space = .pw then storeEff r (.work i w) (if mapGetD 0 r.data.work i = w then [] else [.warp i w]) [.work i]
  else storeEff r (.mw i w) [] []

end Sys2Proof.Machine
end

