-- ==== Sys2Proof/Machine/LoomExec.lean ====
section
/-! DEFINITION. What each Loom instruction does to the state of a scan (R82 to R97, R100), and the plain interpreter that
replays picks. -/

namespace Sys2Proof.Machine

/-- An effect that is only a new state. -/
def effRun (r : LRun) : LEff := { run := r }

/-- A trap in the pick being executed (R100). -/
def effTrap (r : LRun) (cause : Nat) : LEff := { run := r, trap := some cause }

/-! ## Picks and control (R82, R93 to R95) -/

/-- PICK: an empty branch stack is required; BA 1, WA 0; MC and its stack carry over (R82). -/
def lPick (r : LRun) (no : Nat) : LEff :=
  if r.bst ≠ [] then effTrap r 0x04 else effRun { r with ba := true, wa := 0, pick := no }

/-- END: the stacks must be empty (R94, R100). -/
def lEnd (r : LRun) : LEff :=
  if r.bst ≠ [] then effTrap r 0x04
  else if r.cst ≠ [] || r.mcst ≠ [] then effTrap r 0x09
  else { run := r, fin := true }

/-- JMP, JC, JCN: a transfer of control when `c` holds. -/
def lJump (r : LRun) (c : Bool) (t : Nat) : LEff := effRun (if c then { r with pc := t } else r)

/-- CALL, CALLC: at most 8 return addresses (R74, R100). -/
def lCall (r : LRun) (c : Bool) (t : Nat) : LEff :=
  if c then (if 8 ≤ r.cst.length then effTrap r 0x05 else effRun { r with cst := r.pc :: r.cst, pc := t }) else effRun r

/-- RET. -/
def lRet (r : LRun) : LEff :=
  match r.cst with
  | [] => effTrap r 0x06
  | a :: rest => effRun { r with cst := rest, pc := a }

/-- MCS: at most 8 entries (R93, R100). -/
def lMcs (r : LRun) : LEff :=
  if 8 ≤ r.mcst.length then effTrap r 0x07 else effRun { r with mcst := r.mc :: r.mcst, mc := r.mc && r.ba }

/-- MCE. -/
def lMce (r : LRun) : LEff :=
  match r.mcst with
  | [] => effTrap r 0x08
  | m :: rest => effRun { r with mcst := rest, mc := m }

/-! ## Bit logic and the branch stack (R83, R84) -/

/-- A bit-logic instruction with an operand: BA takes `f BA op`. -/
def lBit (c : LCtx) (r : LRun) (o : BitOp) (f : Bool → Bool → Bool) : LEff :=
  { run := { r with ba := f r.ba (bitVal c r o) }, reads := bitReads o, locals := bitLocals o }

/-- A push of BA on the branch stack, at most 32 entries. -/
def lPush (r : LRun) (k : BKind) (ba : Bool) : LEff :=
  if 32 ≤ r.bst.length then effTrap r 0x01 else effRun { r with bst := (r.ba, k) :: r.bst, ba := ba }

/-- POPB: the top entry must be of kind AND or OR. -/
def lPopb (r : LRun) : LEff :=
  match r.bst with
  | [] => effTrap r 0x02
  | (v, .and) :: rest => effRun { r with bst := rest, ba := v && r.ba }
  | (v, .or) :: rest => effRun { r with bst := rest, ba := v || r.ba }
  | (_, .keep) :: _ => effTrap r 0x03

/-- BRD and BPOP: the top entry must be of kind KEEP; BPOP takes it off. -/
def lKeep (r : LRun) (pop : Bool) : LEff :=
  match r.bst with
  | [] => effTrap r 0x02
  | (v, .keep) :: rest => effRun { r with bst := if pop then rest else r.bst, ba := v }
  | _ :: _ => effTrap r 0x03

/-! ## Bit stores and edges (R85, R151) -/

/-- ST and STN: `v`, or 0 while MC = 0. -/
def lSt (r : LRun) (o : BitOp) (v : Bool) : LEff := storeBit r o (r.mc && v)

/-- SETB and RSTB: while BA = 1 and MC = 1. -/
def lSet (r : LRun) (o : BitOp) (v : Bool) : LEff := if r.ba && r.mc then storeBit r o v else effRun r

/-- An effect on an edge memory, journalled. -/
def edgeEff (r : LRun) (i : Nat) (v : Bool) : LEff :=
  { run := { applyWrite r (.edge i v) with jrn := r.jrn ++ [.edge i v] }
    writes := [.edge i v], jrn := [.edge i v], locals := [.edge i] }

/-- PEDGE (`rise`) and NEDGE. A new memory takes its input, with BA := 0 (R151). -/
def lEdge (r : LRun) (i : Nat) (rise : Bool) : LEff :=
  let inp := r.ba && r.mc
  match mapGet r.data.edges i with
  | none => edgeEff { r with ba := false } i inp
  | some m =>
    let r' := { r with ba := if rise then inp && !m else m && !inp }
    if m = inp then { run := r', locals := [.edge i] } else edgeEff r' i inp

/-! ## Timers (R86, R87) -/

/-- A timer after an instruction: a change is one journal entry. -/
def timerEff (r : LRun) (i : Nat) (old new : Timer) : LEff :=
  if new = old then { run := r, locals := [.timer i] }
  else { run := { applyWrite r (.timer i new) with jrn := r.jrn ++ [.timer i new] }
         writes := [.timer i new], jrn := [.timer i new], locals := [.timer i] }

/-- START at the scan's T_s. -/
def timerStart (ts pt : Word) (inp : Bool) : Timer := timerNow ts { st := .running, start := ts, pt := pt, mem := inp }

/-- TON's new timer and Q. -/
def tonStep (ts pt : Word) (inp : Bool) (t : Timer) : Timer × Bool :=
  if inp then
    match t.st with
    | .idle => (timerStart ts pt inp, pt = 0)
    | .running => (timerNow ts { t with pt := pt, mem := inp }, pt.toNat ≤ (ts - t.start).toNat)
    | .done => ({ t with pt := pt, mem := inp }, true)
  else ({ t with st := .idle, mem := inp }, false)

/-- TOF's new timer and Q. -/
def tofStep (ts pt : Word) (inp : Bool) (t : Timer) : Timer × Bool :=
  if inp then ({ t with st := .idle, mem := inp }, true)
  else
    match t.st with
    | .idle => if t.mem then (timerStart ts pt inp, pt ≠ 0) else (t, false)
    | .running => (timerNow ts { t with pt := pt, mem := inp }, (ts - t.start).toNat < pt.toNat)
    | .done => ({ t with mem := inp }, false)

/-- TP's new timer and Q. While it runs IN is ignored and the preset is WA's; a new one is journalled (R87, R151; assumption log 17). -/
def tpStep (ts pt : Word) (inp : Bool) (t : Timer) : Timer × Bool :=
  match t.st with
  | .idle => if inp && !t.mem then (timerStart ts pt inp, pt ≠ 0) else ({ t with mem := inp }, false)
  | .running => (timerNow ts { t with pt := pt, mem := inp }, (ts - t.start).toNat < pt.toNat)
  | .done => if inp then ({ t with mem := inp }, false) else ({ t with st := .idle, mem := inp }, false)

/-- TON, TOF and TP: BA takes Q, WA takes ET. -/
def lTimer (c : LCtx) (r : LRun) (i : Nat) (f : Word → Word → Bool → Timer → Timer × Bool) : LEff :=
  let t := runTimer c.ts r i
  let x := f c.ts r.wa (r.ba && r.mc) t
  timerEff { r with ba := x.2, wa := timerEt c.ts x.1 } i t x.1

/-- TRST. -/
def lTrst (c : LCtx) (r : LRun) (i : Nat) : LEff :=
  let t := runTimer c.ts r i
  if r.ba && r.mc then timerEff r i t { t with st := .idle, mem := false } else effRun r

/-! ## Counters (R90) -/

/-- A counter after an instruction: a change is one journal entry. -/
def ctrEff (r : LRun) (i : Nat) (old new : Counter) : LEff :=
  if new = old then { run := r, locals := [.ctr i] }
  else { run := { applyWrite r (.ctr i new) with jrn := r.jrn ++ [.ctr i new] }
         writes := [.ctr i new], jrn := [.ctr i new], locals := [.ctr i] }

/-- CTU. -/
def lCtu (r : LRun) (i : Nat) : LEff :=
  let x := runCtr r i
  let inp := r.ba && r.mc
  let cv := if inp && !x.up then min (x.cv + 1) 2147483647 else x.cv
  let pv := r.wa.toInt
  ctrEff { r with ba := pv ≤ cv, wa := wordOf cv } i x { x with cv := cv, pv := pv, up := inp }

/-- CTD. -/
def lCtd (r : LRun) (i : Nat) : LEff :=
  let x := runCtr r i
  let inp := r.ba && r.mc
  let cv := if inp && !x.down then max (x.cv - 1) (-2147483648) else x.cv
  ctrEff { r with ba := cv ≤ 0, wa := wordOf cv } i x { x with cv := cv, pv := r.wa.toInt, down := inp }

/-- CRST and CLD: CV takes `v` when IN is 1. -/
def lCset (r : LRun) (i : Nat) (v : Int) : LEff :=
  let x := runCtr r i
  if r.ba && r.mc then ctrEff r i x { x with cv := v } else effRun r

/-! ## Words (R91, R92) -/

/-- A word instruction with an operand: WA takes `f WA op`. -/
def lWord (c : LCtx) (r : LRun) (o : WordOp) (f : Word → Word → Word) : LEff :=
  { run := { r with wa := f r.wa (wordVal c r o) }, reads := wordReads o, locals := wordLocals o }

/-- An arithmetic instruction: WA takes the value; OVF and DIVZ are set, each change a store log entry (R92, R113). -/
def lArith (c : LCtx) (r : LRun) (o : WordOp) (f : Word → Word → Arith) : LEff :=
  let a := f r.wa (wordVal c r o)
  let w := (if a.ovf then [LWrite.ovf] else []) ++ (if a.divz then [LWrite.divz] else [])
  { run := { r with wa := a.val, ovf := r.ovf || a.ovf, divz := r.divz || a.divz }
    reads := wordReads o, locals := wordLocals o, writes := w, stores := b2n (a.ovf && !r.ovf) + b2n (a.divz && !r.divz) }

/-- CMP: BA := BA AND (WA COND op). -/
def lCmp (c : LCtx) (r : LRun) (k : Cond) (o : WordOp) : LEff :=
  { run := { r with ba := r.ba && condHolds k r.wa (wordVal c r o) }, reads := wordReads o, locals := wordLocals o }

/-- STW and STWC: `c` says whether the store is made. -/
def lStw (r : LRun) (o : WordOp) (c : Bool) : LEff := if c then storeWord r o r.wa else effRun r

/-! ## Events and CAN frames (R96, R97) -/

/-- EVT. -/
def lEvt (c : LCtx) (r : LRun) (sev num : Nat) : LEff :=
  if r.ba && r.mc then
    let j := [JEntry.event (0x1000 + 0x100 * c.n + num) sev r.wa]
    { run := { r with jrn := r.jrn ++ j }, jrn := j }
  else effRun r

/-- The payload of a template, from word markers, little-endian (R97). -/
def payload (r : LRun) (t : Template) : List Byte :=
  ((List.range ((t.len + 3) / 4)).flatMap fun k => leBytes 4 (mapGetD 0 r.data.mw (t.mwFirst + k)).toNat).take t.len

/-- CANTX: the frame is captured as the instruction executes. -/
def lCantx (c : LCtx) (r : LRun) (tpl : Nat) : LEff :=
  if r.ba && r.mc then
    match c.tmpls[tpl]? with
    | none => effRun r
    | some t =>
      let f : CanFrame := { ide := t.ide, fdf := t.fdf, brs := t.brs, esi := false, rtr := false, ident := t.ident, data := payload r t }
      let j := [JEntry.can tpl t.channel f]
      { run := { r with jrn := r.jrn ++ j }, jrn := j
        locals := (List.range ((t.len + 3) / 4)).map fun k => Loc.mw (t.mwFirst + k) }
  else effRun r

/-! ## One instruction -/

/-- The effect of an instruction on the state of the scan, its PC already at the following word (R84 to R96). -/
def lMeaning (c : LCtx) (r : LRun) : LInstr → LEff
  | .nop => effRun r
  | .pick no => lPick r no.toNat
  | .fin => lEnd r
  | .ld o => lBit c r o fun _ x => x
  | .ldn o => lBit c r o fun _ x => !x
  | .and o => lBit c r o fun a x => a && x
  | .andn o => lBit c r o fun a x => a && !x
  | .or o => lBit c r o fun a x => a || x
  | .orn o => lBit c r o fun a x => a || !x
  | .xor o => lBit c r o fun a x => a != x
  | .xorn o => lBit c r o fun a x => a != !x
  | .not => effRun { r with ba := !r.ba }
  | .set1 => effRun { r with ba := true }
  | .set0 => effRun { r with ba := false }
  | .andp => lPush r .and true
  | .orp => lPush r .or true
  | .popb => lPopb r
  | .bpsh => lPush r .keep r.ba
  | .brd => lKeep r false
  | .bpop => lKeep r true
  | .st o => lSt r o r.ba
  | .stn o => lSt r o (!r.ba)
  | .setb o => lSet r o true
  | .rstb o => lSet r o false
  | .pedge i => lEdge r i.toNat true
  | .nedge i => lEdge r i.toNat false
  | .ton i => lTimer c r i.toNat tonStep
  | .tof i => lTimer c r i.toNat tofStep
  | .tp i => lTimer c r i.toNat tpStep
  | .trst i => lTrst c r i.toNat
  | .ctu i => lCtu r i.toNat
  | .ctd i => lCtd r i.toNat
  | .crst i => lCset r i.toNat 0
  | .cld i => lCset r i.toNat r.wa.toInt
  | .ldw o => lWord c r o fun _ x => x
  | .ldi v => effRun { r with wa := v.signExtend 32 }
  | .ldih v => effRun { r with wa := (r.wa &&& 0x0000FFFF) ||| (v.setWidth 32 <<< 16) }
  | .stw o => lStw r o r.mc
  | .stwc o => lStw r o (r.ba && r.mc)
  | .add o => lArith c r o addW
  | .sub o => lArith c r o subW
  | .mul o => lArith c r o mulW
  | .div o => lArith c r o divW
  | .mod o => lArith c r o modW
  | .andw o => lWord c r o fun a x => a &&& x
  | .orw o => lWord c r o fun a x => a ||| x
  | .xorw o => lWord c r o fun a x => a ^^^ x
  | .shl n => effRun { r with wa := shlW r.wa n.toNat }
  | .shr n => effRun { r with wa := shrW r.wa n.toNat }
  | .asr n => effRun { r with wa := asrW r.wa n.toNat }
  | .cmp k o => lCmp c r k o
  | .min o => lWord c r o minW
  | .max o => lWord c r o maxW
  | .getb n => effRun { r with ba := r.wa.getLsbD n.toNat }
  | .putb n => effRun { r with wa := putBit r.wa n.toNat r.ba }
  | .mcs => lMcs r
  | .mce => lMce r
  | .jmp t => lJump r true t.toNat
  | .jc t => lJump r r.ba t.toNat
  | .jcn t => lJump r (!r.ba) t.toNat
  | .call t => lCall r true t.toNat
  | .callc t => lCall r r.ba t.toNat
  | .ret => lRet r
  | .evt sev num => lEvt c r sev.toNat num.toNat
  | .cantx t => lCantx c r t.toNat

/-- One instruction executed: it counts once, the PC goes on to the next word, and execution that passes word 131,071
traps (R81, R100). -/
def lExec (c : LCtx) (r : LRun) (i : LInstr) : LEff :=
  let e := lMeaning c { r with pc := r.pc + 1, count := r.count + 1 } i
  if e.trap.isNone && !e.fin && 131072 ≤ e.run.pc then { e with trap := some 0x0A } else e

/-- The instruction at a word address; words that a program does not hold are NOP (R81). -/
def instrAt (prog : SMap Word) (pc : Nat) : Option LInstr := loomDecode (mapGetD 0 prog pc)

/-! ## Plain execution of one pick -/

/-- How the execution of a pick ends: at the PICK of another pick, at END, by a trap, by the budget, or because the journal
has no room for an entry. -/
inductive PickEnd where
  | pick (addr : Nat) | fin | trap (h : HeldTrap) | budget | full
deriving DecidableEq, Repr

/-- A pick's execution: the state it leaves, the places it wrote, its end. -/
structure PickRun where
  run    : LRun
  writes : List LWrite := []
  done   : PickEnd
deriving DecidableEq, Repr

/-- Execute from `r` to the end of the pick, at most `fuel` instructions of the budget, with room for `room` journal entries.
`opened` says that the pick's own PICK has been executed. -/
def runPick (c : LCtx) : Nat → Nat → Bool → List LWrite → LRun → PickRun
  | 0, _, _, ws, r => { run := r, writes := ws, done := .budget }
  | fuel + 1, room, opened, ws, r =>
    match instrAt c.prog r.pc with
    | none => { run := r, writes := ws, done := .budget }
    | some i =>
      match opened, i with
      | true, .pick _ =>
        { run := r, writes := ws, done := if r.bst = [] then .pick r.pc else .trap { cause := 0x04, pc := r.pc } }
      | _, _ =>
        let e := lExec c r i
        if room < jCosts e.jrn then { run := r, writes := ws, done := .full }
        else
          match e.trap with
          | some k => { run := e.run, writes := ws ++ e.writes, done := .trap { cause := k, pc := r.pc } }
          | none =>
            if e.fin then { run := e.run, writes := ws, done := .fin }
            else runPick c fuel (room - jCosts e.jrn) true (ws ++ e.writes) e.run

end Sys2Proof.Machine
end

