-- ==== Sys2Proof/Machine/Follow.lean ====
section
/-! DEFINITION. What the Mirror engine does on behalf of the other blocks (13_mirror_redundancy.md): commands to the partner,
signatures and their comparison, the start of a divergence check, of a synchronisation and of a decided switch-over, the
driving of the field, the end of a swap (05_online_change_and_forcing.md). -/

namespace Sys2Proof.Machine

/-! ## Commands to the partner (R341) -/

/-- CODE of a command. -/
def mirCode : MirCode → Nat
  | .handover => 1
  | .request => 2
  | .live => 3
  | .aioLive => 4
  | .diverge => 5
  | .checkResult => 6
  | .refuse => 7

/-- A control block: its first seven bytes and their CRC-8 (R338). -/
def ctrlBlock (b : List Byte) : List Byte := b ++ [crc8 b]

/-- A COMMAND block. -/
def cmdBlock (c : MirCode) (arg seq : Nat) : List Byte :=
  ctrlBlock ([0x66] ++ leBytes 1 (mirCode c) ++ leBytes 4 arg ++ leBytes 1 seq)

/-- A block on both lanes. -/
def bothLanes (b : List Byte) (s : State) : State := emit (.block 1 b) (emit (.block 0 b) s)

/-- Send a command on both lanes; it will be repeated until its answer arrives. -/
def sendCmd (c : MirCode) (arg : Nat) (s : State) : State :=
  let seq := (s.mir.cmdSeq + 1) % 256
  bothLanes (cmdBlock c arg seq)
    { s with mir := { s.mir with cmdSeq := seq, cmds := s.mir.cmds ++ [{ code := c, arg := arg, seq := seq }] } }

/-- The answer to a command has arrived. -/
def cmdAnswered (c : MirCode) (s : State) : State :=
  { s with mir := { s.mir with cmds := s.mir.cmds.filter (·.code ≠ c) } }

/-! ## Driving the field (R352) -/

/-- The module starts to drive: digital switches, transmitters, brakes, CAN channels, CLK of its encoder ports (R352 step 4); the active inputs
of a module that has followed an active deliver the forwarded value for 40 µs (R238). -/
def startDriving (fwd : Bool) (s : State) : State :=
  let s1 := { s with mir := { s.mir with extWait := true }
                     aio := s.aio.map fun (a : Aio) => { a with fwdUntil := fwd && a.cfg.cmode = .active }
                     enc := s.enc.map fun (e : Enc) => { e with clk := e.running } }
  canLeaveListen (brkTakeOver (aioBypassAll false (dioEvalAll s1)))

/-- The module stops driving but for its transmitters (R352 step 6); CLK of its encoder ports with the rest (R247). -/
def stopDriving (s : State) : State :=
  canListenAll (brkHoldOpen (dioEvalAll { s with enc := s.enc.map fun (e : Enc) => { e with clk := false } }))

/-! ## The end of a swap or exchange (R154, R155) -/

/-- A swap or exchange ends with a cause, its descriptor with a status; with cause 3, 4, 5 or 9 the standby, or the standalone
module, hands banks 16 to 21 back to the owners of the running image. -/
def swapEnd (cause status : Nat) (result : Option Nat) (s : State) : State :=
  let s1 := match s.zor.swapNo, result with
    | some no, some r => complete no status r s
    | some no, none => completeOpen no status s
    | none, _ => s
  let s2 := { s1 with zor := { s1.zor with
    phase := .idle, swapNo := none, freezeF := none, frozen := false, lone := false, ownCrc := none, peerCrc := none, shadow := none, lastCause := cause } }
  let back : Bool := s2.mir.role ≠ .active && [3, 4, 5, 9].contains cause
  raise 0x010A 5 cause (when back (hedImage ((s2.zor.running.map (·.banks)).getD [])) s2)

/-- A module that leaves its role in PREPARE gives up the swap, with the banks back and event 0x010A (R154 cause 3). -/
def swapQuit (s : State) : State :=
  when (s.mir.role = .standby && (s.zor.phase = .prepare || s.zor.phase = .prepared)) (swapEnd 3 stDenied (some 5)) s

/-! ## Synchronisation and SYNCING (R334, R346, R358) -/

/-- Send a segment of synchronisation data (R358): its offset, then at most 256 bytes (assumption log 27). -/
def syncSeg (ofs : Nat) (b : List Byte) (s : State) : State :=
  sendFrame 0x08 (leBytes 4 ofs ++ b) { s with mir := { s.mir with syncSent := mapSet s.mir.syncSent ofs b } }

/-- What HELLO carries: serial number, image CRC-32, the CRC-32 of the configuration store, for which the spec gives no rule, the
CRC-32 of the brake configuration, the life-cycle state (R358, R401; assumption log 27). -/
def helloBytes (s : State) : List Byte :=
  leBytes 8 s.ident.serial.toNat ++ leBytes 4 s.zor.imageCrc ++ leBytes 4 (Config.open32 s.free).toNat ++ leBytes 4 s.brk.crc ++
    leBytes 1 (lifeCode s.sec.life)

/-- A phase begins: nothing of it has been sent, received or asked for. -/
def syncEnter (ph : Nat) (s : State) : State :=
  { s with mir := { s.mir with syncph := ph, syncBuf := [], syncSent := [], syncReq := [] } }

/-- The partner is known to be in another life-cycle state (R401). -/
def lifeDiffers (s : State) : Bool := s.mir.plife.any (· ≠ lifeCode s.sec.life)

/-- Event 0x0B08 (R401). -/
def lifeEvent (s : State) : State := raise 0x0B08 5 (lifeCode s.sec.life * 16 + s.mir.plife.getD 0 : Nat) s

/-- Phase 1 starts, with event 0x080A and HELLO; not in another life-cycle state than the partner's. -/
def syncBegin (s : State) : State :=
  if lifeDiffers s then lifeEvent s
  else
    let s1 := syncEnter 1 { s with mir := { s.mir with synced := true, syncHold := false, matched := [], early := [] } }
    syncSeg 0 (helloBytes s1) (drawn (raise 0x080A 3 0 s1))

/-- Phase 1 may start on a SYNCING module without being asked. -/
def syncMayBegin (s : State) : Bool :=
  s.mir.role = .syncing && !lifeDiffers s && s.mir.joinEn && !s.mir.detached && s.mir.pheard && (s.mir.prole = 0 || s.mir.prole = 2) && s.mir.syncph = 0 &&
    !s.mir.syncHold

/-- An engine stops scanning, its task state kept. -/
def loomHalt (e : Loom) : Loom :=
  { e with mode := .idle, run := {}, gather := none, freshIn := false, picks := [], commit := none, mwait := false }

/-- The module goes to SYNCING with a decision code: what it follows is forgotten. -/
def toSyncing (code : Nat) (s : State) : State :=
  let s0 := swapQuit s
  let s1 := roleChange .syncing s0
  let s2 := drainHub { s1 with
    mir := { s1.mir with lastDec := code, syncph := 0, roleNo := none, latches := [], samples := [], ownSig := [], peerSig := [], fwdWait := [], div := none
                         noCompare := [], matched := [], synced := false, syncHold := false, syncDue := [], early := [], syncBuf := []
                         syncSent := [], syncReq := [], lateRun := Vector.replicate 4 0, swo := .none, lag := 0 }
    loom := s1.loom.map loomHalt
    zor := { s1.zor with
      phase := .idle, shadow := none, freezeF := none, frozen := false, swapNo := none, lone := false, ownCrc := none, peerCrc := none } }
  when (syncMayBegin s2) syncBegin s2

/-- A synchronisation is abandoned (R358). -/
def syncAbandon (s : State) : State :=
  drainHub (raise 0x080C 5 s.mir.syncph { s with
    mir := { s.mir with abortN := holdInc 0xFF s.mir.abortN, syncph := 0, synced := false, syncBuf := [], matched := []
                        latches := [], samples := [], ownSig := [], peerSig := [], div := none, syncDue := [], early := [], syncSent := []
                        syncReq := [], syncHold := decide (s.mir.role = .syncing) }
    loom := if s.mir.role = .syncing then s.loom.map loomHalt else s.loom })

/-- A STANDBY module goes to SYNCING with a decision code, but not in a switch-over that it has begun (R346, R357). -/
def standbyLeaves (code : Nat) (s : State) : State := if s.mir.role = .standby && s.mir.swo ≠ .newScans then toSyncing code s else s

/-- A decision on an ACTIVE module abandons its partner's synchronisation: it goes on as a module without a partner (R357). -/
def syncDrop (s : State) : State :=
  when (s.mir.role = .active && s.mir.prole = 1) (fun s => syncEnter 0 { s with mir := { s.mir with syncDue := [] } }) s

/-! ## Signatures (R27, R344, R351, R356) -/

/-- The engine code of a signature. -/
def sigCode (g : Sig) : Nat := if g.isTask then g.engine else 0x10 + g.engine

/-- The 24 bytes of a SIGNATURE entry (R343). -/
def sigBytes (g : Sig) : List Byte :=
  [if g.isTask then 1 else 2] ++ leBytes 1 g.engine ++ List.replicate 6 0 ++ leBytes 8 g.num ++ leBytes 8 g.crc

/-- Two signatures of one scan or period. -/
def sigMeets (a b : Sig) : Bool := a.isTask == b.isTask && a.engine = b.engine && a.num = b.num

/-- A divergence check starts on the standby (R356). -/
def divStart (code : Nat) (s : State) : State :=
  sendCmd .diverge code { s with mir := { s.mir with
    div := some { engine := code }, divEng := code, divCount := (s.mir.divCount + 1) % 256 } }

/-- Signatures of an engine that is stopped, faulted or under a check are not compared (R351). -/
def sigCompared (s : State) (code : Nat) : Bool :=
  !s.mir.noCompare.contains code && !(s.mir.div.any (·.engine = code))

/-- A pair of signatures of one scan or period is compared. -/
def sigCompare (a b : Sig) (s : State) : State :=
  let code := sigCode a
  if !(sigCompared s code) then s
  else if a.crc = b.crc then
    { s with mir := { s.mir with matched := mapSet s.mir.matched code (mapGetD 0 s.mir.matched code + 1) } }
  else if s.mir.role = .standby then (if s.mir.div.isSome || s.mir.swo = .newScans then s else divStart code s)
  else if s.mir.role = .syncing && s.mir.syncph = 5 then syncAbandon s
  else s

/-- A module that follows has computed a signature: compared with the partner's, or kept until it comes. -/
def sigOwn (g : Sig) (s : State) : State :=
  match s.mir.peerSig.find? (sigMeets g) with
  | some p => sigCompare g p { s with mir := { s.mir with peerSig := s.mir.peerSig.filter fun x => !sigMeets g x } }
  | none => { s with mir := { s.mir with ownSig := s.mir.ownSig ++ [g] } }

/-- The partner's signature has come. -/
def sigPeer (g : Sig) (s : State) : State :=
  let s := if h : g.isTask ∧ g.engine < 8 then { s with mir := { s.mir with lastPub := vset s.mir.lastPub ⟨g.engine, h.2⟩ g.num } } else s
  match s.mir.ownSig.find? (sigMeets g) with
  | some p => sigCompare p g { s with mir := { s.mir with ownSig := s.mir.ownSig.filter fun x => !sigMeets g x } }
  | none => { s with mir := { s.mir with peerSig := s.mir.peerSig ++ [g] } }

/-- The task or engine of a signature runs: otherwise it is not compared (R351). -/
def sigRuns (s : State) (g : Sig) : Bool :=
  if g.isTask then (vget s.loom (Fin.ofNat 8 g.engine)).state = .running else (vget s.prism (Fin.ofNat 4 g.engine)).state = .run

/-- The module computes on forwarded data (R332, R358). -/
def follows (s : State) : Bool := s.mir.decided && (s.mir.role = .standby || (s.mir.role = .syncing && 4 ≤ s.mir.syncph))

/-- A signature is handed to the ME (R27, R351). -/
def meSignature (g : Sig) (s : State) : State :=
  if !(mirPresent s) then s
  else if forwards s then when (!(s.mir.syncDue.contains (sigCode g))) (sendFrame 0x04 (sigBytes g)) s
  else if follows s && sigRuns s g then sigOwn g s
  else s

/-! ## A bank that does not change hands (R368, R369) -/

/-- The body of a SWAP frame: a code, the value, the scan number of R153 (assumption log 22). -/
def swapBody (code value scan : Nat) : List Byte := leBytes 4 code ++ leBytes 8 value ++ leBytes 8 scan

/-- Send a SWAP frame: 1 PREPARED, 2 PREPARE failed with a cause, 3 the freeze instant, 4 the CRC-64 of carried state and the scan. -/
def swapSend (code value scan : Nat) (s : State) : State := sendFrame 0x07 (swapBody code value scan) s

/-- A swap or exchange fails in PREPARE; a standby tells the active (R154). -/
def swapFail (cause status : Nat) (s : State) : State :=
  when (s.mir.decided && s.mir.role = .standby) (swapSend 2 cause 0) (swapEnd cause status none s)

/-- HANDOVER_STUCK (R368, R369): STUCK and event 0x0901; a swap or exchange in PREPARE ends with cause 9; the ladder acts on the group of
the owner whose accesses do not end (R454). BIST gives a bank back in its own time (R371). -/
def execHandoverStuck (b : Fin 24) (s : State) : Res :=
  let k := hedBank s b
  ok (if fabricOn s && k.pend && !k.stuck && k.owner ≠ 0x10 then
    let s1 := raiseFabric 0x0901 5 b.val (setHed b (fun k => { k with stuck := true }) s)
    let s2 := match ownerGroup k.owner with
      | some g => climb g 1000 s1
      | none => s1
    when (bankMovable b && s.zor.phase = .prepare) (swapFail 9 stTimeout) s2
  else s)

/-! ## A decided switch-over (R346, R352) -/

/-- A switch-over may be decided on this ACTIVE module. -/
def mayHandOver (s : State) : Bool := pairedActive s && s.mir.swo = .none

/-- The decision instant: HANDOVER is sent, latches, publishes and CAN frames cease (R352 step 1). A swap in PREPARE ends with
cause 3; in FREEZE or MAP the decision is taken again after it (R357). -/
def handOver (code : Nat) (reset : Bool) (s : State) : State :=
  let ill : Bool := code = 1 || code = 2 || code = 5
  if s.zor.phase = .freeze || s.zor.phase = .map then { s with mir := { s.mir with again := some (code, reset), healthy := s.mir.healthy && !ill } }
  else
    let s1 := when (s.zor.phase = .prepare || s.zor.phase = .prepared) (swapEnd 3 stDenied (some 5)) s
    let s2 := sendCmd .handover code { s1 with mir := { s1.mir with
      swo := .oldWait, swoCode := code, swoReset := reset, lastDec := code, div := none
      healthy := s1.mir.healthy && !ill } }
    raise 0x0807 4 code s2

/-- The old active between D and the end of its switch-over holds its outputs and its latches. -/
def holdsOutputs (s : State) : Bool := s.mir.swo = .oldWait

end Sys2Proof.Machine
end

