-- ==== Sys2Proof/Machine/Publish.lean ====
section
/-! DEFINITION. Publishes (R25, R27, R109, R157): the points of a task with their forces, fail values, what waits for a publish, the
retain area (R146, R147), patches (R142 to R145). -/

namespace Sys2Proof.Machine

/-- Change a Loom engine. -/
def setLoom (n : Fin 8) (f : Loom → Loom) (s : State) : State := { s with loom := vmod s.loom n f }

/-- The Warp points of the running image that a writer writes (R136). -/
def warpPoints (s : State) (writer : Nat) : List (Nat × PointDef) :=
  match s.zor.running with
  | some img => img.points.filter fun p => (p.2.kind = 3 || p.2.kind = 4) && p.2.writer = writer
  | none => []

/-- The bytes of points in a signature or a Weft (R344). -/
def pointBytes (p : PointDef) (v : Word) : List Byte :=
  if p.kind = 1 || p.kind = 3 then [BitVec.ofNat 8 (b2n (v.getLsbD 0))] else leBytes 4 v.toNat

/-- How the command of a point reaches field I/O logic: an output keeps its previous command where its word comes poisoned, or fails parity,
which is counted (R377); on a poisoned crossing it is discarded (R385). -/
def commandWord (m : Mark) (i : Nat) (v : Word) (s : State) : State :=
  if crossPois s 21 then crossDiscard s
  else match m with
    | .good => fieldCommand i v s
    | .poisoned => s
    | .parityBad => parityFail 21 s

/-- One publish by the hub, while it runs (R16), but not on the old active between D and LIVE (R352): every point takes its value after its force, and the field takes them together (R25). `mk`
says how the words cross to the field. -/
def publishMarked (mk : Nat → Mark) (l : List (Nat × Word)) (s : State) : State :=
  if fabricOn s && !holdsOutputs s then
    let l := l.map fun p => (p.1, forced s p.1 p.2)
    let s1 := l.foldl (fun t p => ptSet p.1 p.2 t) s
    l.foldl (fun t p => commandWord (mk p.1) p.1 p.2 t) s1
  else s

/-- A publish whose words cross sound. -/
def publishPts (l : List (Nat × Word)) (s : State) : State := publishMarked (fun _ => .good) l s

/-- How the word of a Warp point comes from the hub's read of its bank (R109, R377). -/
def warpMark (s : State) (n : Fin 8) (i : Nat) : Mark :=
  ((s.hed.warp.find? fun w => w.1 = n.val && w.2.1 ≤ Config.warpOfs i && Config.warpOfs i < w.2.1 + w.2.2.1).map (·.2.2.2)).getD .good

/-- The hub has published what it read of an engine's Warp. -/
def warpTaken (n : Fin 8) (s : State) : State := { s with hed := { s.hed with warp := s.hed.warp.filter (·.1 ≠ n.val) } }

/-- The signature of a task: its Warp points in directory order, after forces (R344). -/
def taskSignature (s : State) (n : Fin 8) : Nat :=
  (crc64 ((warpPoints s n.val).flatMap fun p => pointBytes p.2 (ptGet s p.1))).toNat

/-- After a publish of a task that is not a scan's, its signature is formed and handed over with the number of the last committed scan (R25,
R27, assumption log 146). -/
def taskSigned (n : Fin 8) (s : State) : State :=
  let sig := taskSignature s n
  meSignature { isTask := true, engine := n.val, num := (vget s.loom n).done, crc := sig } (setLoom n (fun e => { e with sigCrc := sig }) s)

/-- The fail values of a task, as one publish (R101, R105). -/
def failPublish (n : Fin 8) (s : State) : State :=
  taskSigned n (publishPts ((warpPoints s n.val).map fun p => (p.1, p.2.value)) s)

/-! ## Forces (R157, R158) -/

/-- Set or release a force entry in the table; an entry that is being destroyed leaves it. -/
def forcePut (w : PendForce) (s : State) : State :=
  { s with hub := { s.hub with force := if w.gone then mapDel s.hub.force w.pt else mapSet s.hub.force w.pt w.set } }

/-- A waiting force takes effect at the publish of scan `k`; in a pair at that of the scan whose LATCH named it. -/
def forceDue (n : Fin 8) (k : Nat) (w : PendForce) : Bool :=
  w.engine = n.val && (match w.fwd with
    | none => true
    | some _ => w.scan.any (· ≤ k))

/-- The forces that take effect before a publish enter the table. -/
def forcesIn (due : PendForce → Bool) (s : State) : State := (s.hub.wait.filter due).foldl (fun t w => forcePut w t) s

/-- Their descriptors complete, with event 0x010B. -/
def forcesDone (due : PendForce → Bool) (k : Nat) (s : State) : State :=
  let l := s.hub.wait.filter due
  l.foldl (fun t w => if w.gone then t else raiseFabric 0x010B 3 w.pt (complete w.no 0 k t))
    { s with hub := { s.hub with wait := s.hub.wait.filter fun w => !due w } }

/-! ## Patches (R142 to R145) -/

/-- The symbol of engine `n` with an identifier. -/
def symbolOf (s : State) (n : Fin 8) (id : Nat) : Option Symbol :=
  match s.zor.running with
  | some img => img.symbols.find? fun y => y.id = id && y.engine = n
  | none => none

/-- A patch changes its symbol (R142) and raises event 0x0107 (R145). -/
def patchApply (n : Fin 8) (p : Patch) (s : State) : State :=
  match symbolOf s n p.sym with
  | none => s
  | some y =>
    let mix (old : Word) : Word := (old &&& ~~~p.mask) ||| (p.value &&& p.mask)
    let s1 := setLoom n (fun e =>
      if y.kind = 1 then
        let old := mapGetD false e.com.mb y.loc
        { e with com := { e.com with mb := mapPut false e.com.mb y.loc (if p.mask.getLsbD 0 then p.value.getLsbD 0 else old) } }
      else if y.kind = 2 then { e with com := { e.com with mw := mapPut 0 e.com.mw y.loc (mix (mapGetD 0 e.com.mw y.loc)) } }
      else { e with kw := mapPut 0 e.kw y.loc (mix (mapGetD 0 e.kw y.loc)) }) s
    raiseFabric 0x0107 2 (wordOf p.sym).toInt s1

/-- Apply the patches that wait, in the order of acceptance, and complete them with a scan number. -/
def patchesApply (n : Fin 8) (due : Patch → Bool) (scan : Nat) (s : State) : State :=
  let l := (vget s.loom n).patches.filter due
  l.foldl (fun t p => complete p.no 0 scan (patchApply n p t))
    (setLoom n (fun e => { e with patches := e.patches.filter fun p => !due p }) s)

/-! ## The retain area (R146, R147) -/

/-- The committed value of a retentive symbol. -/
def retValue (e : Loom) (y : Symbol) : RetVal :=
  if y.kind = 1 then .bit (mapGetD false e.com.mb y.loc)
  else if y.kind = 2 then .word (mapGetD 0 e.com.mw y.loc)
  else .ctr (mapGetD {} e.com.ctrs y.loc)

/-- The retentive state of every task. -/
def retValues (s : State) : List (Fin 8 × Nat × RetVal) :=
  match s.zor.running with
  | some img => (img.symbols.filter (·.retain)).map fun y => (y.engine, y.id, retValue (vget s.loom y.engine) y)
  | none => []

/-- HK1 saves the retentive state into the older copy, the valid mark last. -/
def retainSave (s : State) : State :=
  let z := s.zor
  let a := z.retA.valid && (!z.retB.valid || z.retB.gen ≤ z.retA.gen)
  let c : RetCopy := { valid := true, gen := (if a then z.retA.gen else if z.retB.valid then z.retB.gen else 0) + 1, vals := retValues s }
  { s with zor := if a then { z with retB := c } else { z with retA := c } }

/-- The newer valid copy. -/
def retNewer (z : Zoros) : RetCopy :=
  if z.retA.valid && (!z.retB.valid || z.retB.gen ≤ z.retA.gen) then z.retA else if z.retB.valid then z.retB else {}

/-- The initial data of a task: the image's INIT values (R134), and every working Warp value at its fail value. -/
def initData (img : Image) (n : Fin 8) (t : TaskImg) : LData :=
  let warp := img.points.filter fun p => (p.2.kind = 3 || p.2.kind = 4) && p.2.writer = n.val
  let d : LData := { work := warp.foldl (fun m p => mapPut 0 m p.1 p.2.value) [] }
  t.init.foldl (fun d x =>
    if x.1 = 0x2 then { d with mb := mapPut false d.mb x.2.1 (x.2.2.getLsbD 0) }
    else if x.1 = 0xA then { d with mw := mapPut 0 d.mw x.2.1 x.2.2 }
    else { d with ctrs := mapPut {} d.ctrs x.2.1 { cv := x.2.2.toInt } }) d

/-- A task's data after a module reset or a reinitialisation: the newer valid copy for RETAIN symbols (R147). -/
def restoredData (z : Zoros) (img : Image) (n : Fin 8) (t : TaskImg) : LData :=
  let saved := (retNewer z).vals.filter fun v => v.1 = n
  (img.symbols.filter fun y => y.engine = n && y.retain).foldl (fun d y =>
    match saved.find? fun v => v.2.1 = y.id with
    | some (_, _, .bit v) => if y.kind = 1 then { d with mb := mapPut false d.mb y.loc v } else d
    | some (_, _, .word v) => if y.kind = 2 then { d with mw := mapPut 0 d.mw y.loc v } else d
    | some (_, _, .ctr v) => if y.kind = 5 then { d with ctrs := mapPut {} d.ctrs y.loc v } else d
    | none => d) (initData img n t)

/-- RETAIN_SAVE: every 10 ms (R146). -/
def execRetainSave (s : State) : Res := ok (when (hkOn s && s.zor.running.isSome) retainSave s)

/-! ## A task leaves RUNNING -/

/-- Nothing of a scan is in progress any more. -/
def scanDrop (e : Loom) : Loom :=
  { e with mode := .idle, run := {}, gather := none, freshIn := false, picks := [], commit := none, mwait := false, stops := []
           stopReq := false, stopScan := none }

/-- A task leaves RUNNING for state `st`: fail values, waiting forces, patches and stops end with the number of the last committed
scan; a waiting teardown removes the task, and latches that wait are void (R101, R105, R124). `status` completes the stops. -/
def taskLeave (n : Fin 8) (st : TaskSt) (status : Nat) (publish : Bool) (s : State) : State :=
  let e := vget s.loom n
  let due (w : PendForce) : Bool := w.engine = n.val
  let s1 := forcesIn due (setLoom n (fun e => { scanDrop e with state := if e.teardown && st ≠ .fault then .none else st }) s)
  let s2 := when publish (failPublish n) s1
  let s3 := patchesApply n (fun _ => true) e.done (forcesDone due e.done s2)
  let s4 := completeAll e.stops status e.done s3
  let s5 := { s4 with mir := { s4.mir with latches := s4.mir.latches.filter fun (f : LatchFrame × SMap Word) => f.1.engine ≠ n } }
  setLoom n (fun e => { e with teardown := false }) (drainHub s5)

/-- A stopped task: retentive state is saved (R105, R146). -/
def taskStop (n : Fin 8) (s : State) : State := retainSave (taskLeave n .stopped 0 true s)

/-- PUBLISH of a single point (R157, R158): a Prism sink, or a force on a point whose writer does not run; a task's point gives its
signature anew. -/
def publishOne (i : Nat) (v : Word) (s : State) : State :=
  let s1 := publishPts [(i, v)] s
  let d := pointDef s i
  if h : (d.kind = 3 ∨ d.kind = 4) ∧ d.writer < 8 then taskSigned ⟨d.writer, h.2⟩ s1 else s1

end Sys2Proof.Machine
end

