-- ==== Sys2Proof/Machine/Loom.lean ====
section
/-! DEFINITION. The Loom scan (04_loom_scan_and_runahead.md): latch, run-ahead with its records, the check and replay when the fresh
Weft arrives, commit and publish, abandoned scans, engine faults; and the engine's instructions as commands. -/

namespace Sys2Proof.Machine

/-- What is fixed for the scan in progress. -/
def loomCtx (n : Fin 8) (e : Loom) : LCtx :=
  { n := n.val, prog := e.prog, kw := e.kw, tmpls := (e.task.map (·.tmpls)).getD [], weft := e.weft, ts := e.ts, period := e.period
    scan := e.scan, first := e.first, forced := e.forced, paired := e.paired }

/-- The instruction budget (R123). -/
def budgetOf (e : Loom) : Nat := e.budget * 1024

/-- The state of a scan at its first instruction (R110). -/
def scanStart (e : Loom) : LRun := { data := e.com }

/-- Journal entries of the scan, void ones included. -/
def jUse (r : LRun) : Nat := jCosts r.jrn + r.void

/-- Keep the highest journal use. -/
def jNote (u : Nat) (e : Loom) : Loom := { e with hwm := max e.hwm (min 4096 u) }

/-! ## The end of a scan -/

/-- END in settled mode, or at the end of the check: the commit begins (R109). -/
def commitBegin (n : Fin 8) (r : LRun) (s : State) : State :=
  setLoom n (fun e => { jNote (jUse r) e with
    com := r.data
    commit := some { scan := e.scan, work := r.data.work, jrn := r.jrn, fell := e.fell }
    jLast := jCosts r.jrn
    mode := .idle
    run := {}
    picks := []
    mwait := decide ((loomTime s - e.ts).toNat < e.miniv)
    aheadN := e.nAhead
    replayed := e.nReplay }) s

/-- A trap is taken (R101, R102). -/
def trapTaken (n : Fin 8) (pick : Nat) (h : HeldTrap) (s : State) : State :=
  let s1 := setLoom n (fun e => { e with trapV := true, trapCause := h.cause, trapPick := pick, trapPc := h.pc, lastAbn := 1 }) s
  raise 0x0101 6 h.cause (taskLeave n .trapped 0 true s1)

/-- The budget is exhausted (R124, cause 2). -/
def budgetOut (n : Fin 8) (pick : Nat) (s : State) : State :=
  let s1 := setLoom n (fun e => { e with lastAbn := 2, budgetN := holdInc 0xFFFF e.budgetN }) s
  raise 0x0103 6 pick (taskLeave n .overrun 0 true s1)

/-- The journal is exhausted (R122, R124, cause 3). -/
def journalOut (n : Fin 8) (pick : Nat) (s : State) : State :=
  let s1 := setLoom n (fun e => { jNote 4096 e with lastAbn := 3, jexhN := holdInc 0xFFFF e.jexhN }) s
  raise 0x0104 6 pick (taskLeave n .overrun 0 true s1)

/-- The scan falls back (R121): it runs again from its first pick in settled mode, logging nothing. -/
def fallBack (n : Fin 8) (s : State) : State :=
  let e := vget s.loom n
  raise 0x0106 2 (wordOf e.scan).toInt (setLoom n (fun e => { jNote 4096 e with
    fallbacks := holdInc 0xFFFFFFFF e.fallbacks, fbLast := true, fell := true, run := scanStart e, mode := .settled, picks := [] }) s)

/-- A scan needs an entry that the journal has no room for: fallback if an entry is void (R121, R122). -/
def journalFull (n : Fin 8) (pick void : Nat) (s : State) : State := if 0 < void then fallBack n s else journalOut n pick s

/-! ## Settled execution -/

/-- One instruction in settled mode. -/
def settledStep (n : Fin 8) (i : LInstr) (s : State) : State :=
  let e := vget s.loom n
  let x := lExec (loomCtx n e) e.run i
  if x.jrn ≠ [] && 4096 < jUse e.run + jCosts x.jrn then journalFull n e.run.pick e.run.void s
  else match x.trap with
    | some k => trapTaken n e.run.pick { cause := k, pc := e.run.pc } s
    | none => if x.fin then commitBegin n x.run s else setLoom n (fun e => jNote (jUse x.run) { e with run := x.run }) s

/-! ## Run-ahead (R113) -/

/-- The sum over the pick log. -/
def logSum (l : List PickLog) (f : PickLog → Nat) : Nat := (l.map f).sum

/-- Change the last entry of the pick log. -/
def logLast (l : List PickLog) (f : PickLog → PickLog) : List PickLog :=
  match l.reverse with
  | [] => []
  | p :: rest => (f p :: rest).reverse

/-- A new entry of the pick log. -/
def logOpen (r : LRun) (no : Nat) : PickLog := { no := no, entry := r.pc, mc := r.mc, mcst := r.mcst }

/-- What an instruction adds to the entry of its pick. -/
def logAdd (x : LEff) (p : PickLog) : PickLog :=
  { p with instrs := p.instrs + 1, reads := p.reads ++ x.reads, locals := p.locals ++ x.locals, writes := p.writes ++ x.writes
           stores := p.stores + x.stores, jrn := p.jrn ++ x.jrn, mcOut := x.run.mc, mcstOut := x.run.mcst }

/-- A record has no room for what the instruction adds. -/
def recordFull (l : List PickLog) (opens : Bool) (x : LEff) : Bool :=
  (opens && 512 ≤ l.length) || 4096 < logSum l (·.reads.length) + x.reads.length || 2048 < logSum l (·.stores) + x.stores

/-- One instruction in run-ahead mode. A full record, a full journal, a trap and END stop run-ahead; a full journal counts no
stall (R113 names the records). DESIGN CHOICE: STALLS holds at its top (assumption log 160). -/
def aheadStep (n : Fin 8) (i : LInstr) (s : State) : State :=
  let e := vget s.loom n
  let x := lExec (loomCtx n e) e.run i
  let opens := e.picks = [] || (match i with
    | .pick _ => true
    | _ => false)
  let no := match i with
    | .pick k => k.toNat
    | _ => e.run.pick
  let isPick := match i with
    | .pick _ => true
    | _ => false
  if x.trap.isSome && isPick then
    setLoom n (fun e => { e with mode := .wait, picks := logLast e.picks fun p => { p with
      instrs := p.instrs + 1, trap := some { cause := 0x04, pc := e.run.pc } } }) s
  else if recordFull e.picks opens x then setLoom n (fun e => { e with mode := .wait, stalled := true, stalls := holdInc 0xFFFFFFFF e.stalls }) s
  else if x.jrn ≠ [] && 4096 < jUse e.run + jCosts x.jrn then setLoom n (fun e => { e with mode := .wait }) s
  else
    let closed := if opens then logLast e.picks (fun p => { p with exit := .pick e.run.pc }) ++ [logOpen e.run no] else e.picks
    let l := logLast closed (logAdd x)
    match x.trap with
    | some k =>
      setLoom n (fun e => { e with mode := .wait, picks := logLast l fun p => { p with trap := some { cause := k, pc := e.run.pc } } }) s
    | none =>
      if x.fin then setLoom n (fun e => { e with mode := .wait, run := x.run, picks := logLast l fun p => { p with exit := .fin } }) s
      else setLoom n (fun e => jNote (jUse x.run) { e with run := x.run, picks := l }) s

/-! ## The check and replay (R114 to R118) -/

/-- How the walk ends: settled execution goes on from a state, the scan commits, is abandoned, or lacks journal room. -/
inductive WalkEnd where
  | settle (r : LRun)
  | fin (r : LRun)
  | trap (pick : Nat) (h : HeldTrap)
  | budget (pick : Nat)
  | full (pick void : Nat)
deriving DecidableEq, Repr

/-- The walk's two timelines: the state of plain execution, and the state that run-ahead had left at the same pick; the dirty
set; the journal entries in use, and those of them that replays have made void; the picks replayed. -/
structure Walk where
  plain    : LRun
  spec     : LRun
  dirty    : List Loc := []
  used     : Nat
  void     : Nat := 0
  replayed : Nat := 0

/-- A pick must be replayed (R115). -/
def affected (e : Loom) (changed : Nat → Bool) (w : Walk) (q : PickLog) : Bool :=
  q.reads.any changed || q.locals.any w.dirty.contains || w.plain.mc != q.mc || w.plain.mcst ≠ q.mcst || q.budget ||
    budgetOf e < w.plain.count + q.instrs

/-- The logged effect of a pick on a timeline. -/
def logReplay (q : PickLog) (r : LRun) : LRun := q.writes.foldl applyWrite r

/-- Where a place differs after a replay, it is dirty. -/
def dirtyAfter (w : Walk) (q : PickLog) (spec plain : LRun) (ws : List LWrite) : List Loc :=
  w.dirty ++ ((q.writes ++ ws).map writeLoc).filter fun l => !sameAt spec plain l

/-- The state of plain execution with its void entries counted. -/
def walkState (used : Nat) (r : LRun) : LRun := { r with void := used - jCosts r.jrn }

/-- The walk over the logged picks in program order: how it ends, the picks replayed, the journal entries in use, void ones included.
`last` is the state in which run-ahead stopped. -/
def walk (c : LCtx) (e : Loom) (changed : Nat → Bool) (last : LRun) : List PickLog → Walk → WalkEnd × Nat × Nat
  | [], w => (.settle (walkState w.used w.plain), w.replayed, w.used)
  | q :: rest, w =>
    if affected e changed w q then
      let spec := logReplay q w.spec
      let entry := { w.plain with pc := q.entry, ba := true, wa := 0, bst := [], cst := [] }
      let x := runPick c (budgetOf e - w.plain.count) (4096 - w.used) false [] entry
      let used := w.used + (jCosts x.run.jrn - jCosts w.plain.jrn)
      let n := w.replayed + 1
      let void := w.void + jCosts q.jrn
      match x.done with
      | .trap h => (.trap q.no h, n, used)
      | .budget => (.budget x.run.pick, n, used)
      | .full => (.full q.no void, n, used)
      | .fin => (.fin (walkState used x.run), n, used)
      | .pick a =>
        if q.exit = .pick a then
          walk c e changed last rest { plain := x.run, spec := spec, dirty := dirtyAfter w q spec x.run x.writes, used := used, void := void, replayed := n }
        else (.settle (walkState used x.run), n, used)
    else
      let p := { logReplay q w.plain with count := w.plain.count + q.instrs, mc := q.mcOut, mcst := q.mcstOut
                                          jrn := w.plain.jrn ++ q.jrn, pick := q.no }
      match q.trap, q.exit with
      | some h, _ => (.trap q.no h, w.replayed, w.used)
      | none, .fin => (.fin (walkState w.used p), w.replayed, w.used)
      | none, .pick a => walk c e changed last rest { w with plain := { p with pc := a, ba := true, wa := 0, bst := [], cst := [] }, spec := logReplay q w.spec }
      | none, .none =>
        (.settle (walkState w.used { last with data := p.data, ovf := p.ovf, divz := p.divz, jrn := p.jrn, count := p.count }), w.replayed, w.used)

/-- A point that the changed-point map marks (R108). -/
def weftChanged (a b : SMap Word) (i : Nat) : Bool := mapGetD 0 a i ≠ mapGetD 0 b i

/-- The check of the picks that ran ahead, on the fresh Weft `w` (R114). -/
def checkWeft (n : Fin 8) (w : SMap Word) (s : State) : State :=
  let e := vget s.loom n
  let l := e.picks
  let e' := { e with weft := w }
  let used := jCosts e.run.jrn
  let r := walk (loomCtx n e') e (weftChanged e.weft w) e.run l { plain := scanStart e, spec := scanStart e, used := used }
  let s1 := setLoom n (fun e => jNote r.2.2 { e with weft := w, nAhead := l.length, nReplay := r.2.1, mode := .settled, picks := [] }) s
  match r.1 with
  | .settle x => setLoom n (fun e => jNote (jUse x) { e with run := x }) s1
  | .fin x => commitBegin n x s1
  | .trap p h => trapTaken n p h s1
  | .budget p => budgetOut n p s1
  | .full p v => journalFull n p v s1

/-- FRESH_WEFT_ARRIVAL: 2 µs after the latch (R108, R112, R114). The publish of the scan before falls at the same instant and
comes first. -/
def execFreshWeftArrival (n : Fin 8) (s : State) : Res :=
  let e := vget s.loom n
  ok (match e.gather with
    | some w =>
      if loomUp s n && e.commit.isNone && (e.mode = .ahead || e.mode = .wait) then
        let s1 := drainHub (setLoom n (fun e => { e with gather := none, freshIn := true }) s)
        if e.picks = [] && e.mode = .wait then setLoom n (fun e => { e with weft := w, mode := .settled, run := scanStart e }) s1
        else checkWeft n w s1
      else s
    | none => s)

/-! ## The latch (R107 to R112) -/

/-- The points that the task on engine `n` latches. -/
def weftPoints (s : State) (n : Fin 8) : List (Nat × PointDef) :=
  match s.zor.running with
  | some img => img.points.filter fun p => (p.2.kind = 1 || p.2.kind = 2) && bitOf p.2.readers n.val
  | none => []

/-- The Weft of engine `n` from a point store. -/
def weftOf (s : State) (n : Fin 8) (pts : SMap Word) : SMap Word :=
  (weftPoints s n).foldl (fun m p => mapPut 0 m p.1 (mapGetD 0 pts p.1)) []

/-- The CRC-64 of a Weft, its points in directory order (R348). -/
def weftCrc (s : State) (n : Fin 8) (w : SMap Word) : Nat :=
  (crc64 ((weftPoints s n).flatMap fun p => pointBytes p.2 (mapGetD 0 w p.1))).toNat

/-- Some Warp point of the task carries a force (R98). -/
def taskForced (s : State) (n : Fin 8) : Bool :=
  (warpPoints s n.val).any fun p => match mapGet s.hub.force p.1 with
    | some (some _) => true
    | _ => false

/-- The latch of a scan at time `ts` (R86, R98, R107, R110 to R112). Where LM_MINIV spaces the latches, both fall on ticks and LM_PER is
LM_MINIV (R107); else it counts parts of a tick that `ts` does not show: within one tick of the difference it is a free value. -/
def latchScan (n : Fin 8) (ts : Word) (scan : Nat) (first forced : Bool) (w : SMap Word) (s : State) : State :=
  let s := drawn s
  let w0 := Config.open32 (s.free - 1)
  setLoom n (fun (e : Loom) =>
    let per := if e.miniv ≠ 0 && (ts - e.ts).toNat = e.miniv then e.miniv * 100 % 2 ^ 32
      else ((ts - e.ts).toNat * 100 - 99 + w0.toNat % 199) % 2 ^ 32
    let com : LData := { e.com with timers := e.com.timers.map fun (p : Nat × Timer) => (p.1, timerNow ts p.2) }
    let e1 : Loom := { e with
      scan := scan, ts := ts, period := if e.scan = 0 then w0 else ts - e.ts, first := first, forced := forced
      paired := s.mir.role = Role.active || s.mir.role = Role.standby
      com := com, gather := some w, freshIn := false, picks := [], fell := false, stalled := false, nAhead := 0, nReplay := 0
      firstDue := false, fresh1 := false, mwait := false
      per := if e.scan = 0 then e.per else per
      perMax := if e.scan = 0 then e.perMax else max e.perMax per
      mode := if first || e.fresh1 then .wait else .ahead }
    { e1 with run := scanStart e1 }) s

/-- The latch of an ACTIVE module names the patches and forces that apply with it (R144, R158). -/
def namedHere (n : Fin 8) (s : State) : List Nat :=
  ((vget s.loom n).patches.filterMap (·.fwd)) ++
    ((s.hub.wait.filter fun w => w.engine = n.val && w.scan.isNone).filterMap (·.fwd))

/-- The body of a LATCH frame (R348). -/
def latchBody (n : Fin 8) (forced first : Bool) (fz : Option Word) (ts : Word) (scan crc : Nat) (named : List Nat) : List Byte :=
  leBytes 1 n.val ++ leBytes 1 (flag forced 0 + flag first 1 + flag fz.isSome 2) ++ leBytes 2 named.length ++ leBytes 4 ts.toNat ++
    leBytes 8 scan ++ leBytes 8 crc ++ leBytes 4 (fz.getD 0).toNat ++ leBytes 4 0 ++ named.flatMap (leBytes 4) ++
    List.replicate ((8 - 4 * named.length % 8) % 8) 0

/-- The forces of a task that wait for a latch take the number of its scan. -/
def forcesNamed (n : Fin 8) (due : PendForce → Bool) (scan : Nat) (s : State) : State :=
  { s with hub := { s.hub with wait := s.hub.wait.map fun w =>
      if w.engine = n.val && w.scan.isNone && due w then { w with scan := some scan } else w } }

/-- No latch falls in this state: a stop, a stop or DESTROY on its way to the partner, a freeze, a switch-over. -/
def latchHeld (s : State) (n : Fin 8) : Bool :=
  let e := vget s.loom n
  e.stopReq || e.teardown || e.freezeAt || s.zor.frozen || s.zor.freezeF.any (fun f => (loomTime s - f).toNat < 2 ^ 31) || s.mir.swo = .oldWait || s.mir.swo = .newScans

/-- WEFT_LATCH on a module that latches its own Wefts (R107, R348). -/
def execWeftLatch (n : Fin 8) (s : State) : Res :=
  let e := vget s.loom n
  ok (if loomUp s n && drives s && e.state = .running && e.mode = .idle && e.gather.isNone && !(latchHeld s n) then
    let first := e.firstDue
    if !first && !e.fresh1 && e.scan ≠ 0 && (loomTime s - e.ts).toNat < e.miniv then setLoom n (fun e => { e with mwait := true }) s
    else
      let scan := e.scan + 1
      let named := namedHere n s
      let s1 := patchesApply n (fun _ => true) scan (forcesNamed n (fun _ => true) scan s)
      let forced := taskForced s1 n
      let w := weftOf s1 n s1.hub.pts
      let s2 := when (forwards s1 && !(s1.mir.syncDue.contains n.val)) (sendFrame 0x02 (latchBody n forced first s1.zor.freezeF (loomTime s1) scan (weftCrc s1 n w) named)) s1
      latchScan n (loomTime s2) scan first forced w s2
  else s)

/-! ## Publish (R109) -/

/-- A journal's event or CAN frame at the publish instant (R96, R97). -/
def publishEntry (s : State) : JEntry → State
  | .event code sev v => raiseFabric code sev v.toInt s
  | .can tpl c f =>
    let r := canSubmit c f s
    when r.2 (raiseFabric 0x0102 3 tpl) r.1
  | _ => s

/-- The lag of a standby's publish behind the active's (R349): what the module measures is a free value within the rule's bound, which
PREPARE lifts (assumption log 74). -/
def lagNote (s : State) : State :=
  if s.mir.role = .standby then
    let v := (Config.open32 s.free).toNat % (if s.zor.phase = .prepare then 65536 else 601)
    drawn { s with mir := { s.mir with lag := v, lagMax := max s.mir.lagMax v } }
  else s

/-- The publish of a committed scan. -/
def publishScan (n : Fin 8) (k : Commit) (s : State) : State :=
  let due := forceDue n k.scan
  let s1 := forcesIn due (brkPublish n k.work s)
  let s2 := warpTaken n (publishMarked (warpMark s1 n) ((warpPoints s1 n.val).map fun p => (p.1, mapGetD 0 k.work p.1)) s1)
  let s3 := k.jrn.foldl publishEntry s2
  let sig := taskSignature s3 n
  let s4 := setLoom n (fun e => { e with sigCrc := sig, done := k.scan, commit := none, fbLast := k.fell }) s3
  let s5 := lagNote (forcesDone due k.scan (meSignature { isTask := true, engine := n.val, num := k.scan, crc := sig } s4))
  let e := vget s5.loom n
  if e.mode = .idle && e.gather.isNone && s5.mir.latches.all (fun (f : LatchFrame × SMap Word) => f.1.engine ≠ n) && (e.stopReq || e.teardown) then
    taskStop n s5
  else if e.stopScan.any (· ≤ e.done) then taskStop n s5
  else s5

/-- A stop of a task with no scan in progress takes effect at once. -/
def stopNow (n : Fin 8) (s : State) : State :=
  let e := vget s.loom n
  if e.state = .running && e.mode = .idle && e.commit.isNone && s.mir.latches.all (fun (f : LatchFrame × SMap Word) => f.1.engine ≠ n) &&
      (e.stopReq || e.teardown) then taskStop n s
  else s

/-- The old active between D and LIVE publishes nothing (R352). -/
def publishHeld (s : State) : Bool := s.mir.swo = .oldWait

/-! ## What the other commands of a scan do -/

/-- BUDGET_EXHAUSTED: in run-ahead it is held (R118), in settled mode the scan is abandoned (R124). -/
def execBudgetExhausted (n : Fin 8) (s : State) : Res :=
  let e := vget s.loom n
  ok (if loomOn s n && e.state = .running && budgetOf e ≤ e.run.count then
    match e.mode with
    | .settled => budgetOut n e.run.pick s
    | .ahead => setLoom n (fun e => { e with mode := .wait, picks := logLast e.picks fun p => { p with budget := true } }) s
    | _ => s
  else s)

/-- STOPPED_TIMER_EVALUATION: every 1 ms (R89). -/
def execStoppedTimerEvaluation (n : Fin 8) (s : State) : Res :=
  let e := vget s.loom n
  ok (when (loomOn s n && (e.state = .stopped || e.state = .trapped || e.state = .overrun))
    (setLoom n (fun e => { e with com := { e.com with timers := e.com.timers.map fun p => (p.1, timerNow (loomTime s) p.2) } })) s)

/-- An index in teardown becomes FREE (R62, R64). -/
def indexFreed (kind target : Nat) (s : State) : State :=
  { s with shu := { s.shu with handles := s.shu.handles.map fun p =>
      (p.1, if p.2.kind = kind && p.2.target = target && p.2.st = .destroying then { p.2 with st := .free } else p.2) } }

/-- A Loom engine has failed (R127 to R129). With `sw` a switch-over is decided and the points hold; else the partner is told, which stops the task after the same scan, or gives up its synchronisation (R346 code 14, R357).
The ladder then reinitialises the engine (R454); after an uncorrectable error of its bank the bank's test result is no longer fresh (R445). -/
def engineFail (n : Fin 8) (cause : Nat) (sw : Bool) (s : State) : State :=
  let e := vget s.loom n
  let td := e.teardown
  let s1 := setLoom n (fun e => { e with flt := cause, lastAbn := if e.mode ≠ .idle || e.commit.isSome then 4 else e.lastAbn }) s
  let s2 := when td (indexFreed 1 n.val) (taskLeave n .fault stTimeout (!sw) s1)
  let s3 := raise 0x0105 7 cause s2
  let s4 := { s3 with mir := { s3.mir with noCompare := s3.mir.noCompare ++ [n.val] } }
  climb n.val 1000 (when (cause = 2) (unitBad (0x20 + n.val)) <| if sw then handOver 1 false s4 else when (tellsPartner s4) (faultTell n.val e.done false) s4)

/-- A Loom engine fault: PAIR_CRIT on an ACTIVE module with a STANDBY partner asks for a switch-over (R129). -/
def engineFault (n : Fin 8) (cause : Nat) (s : State) : State :=
  engineFail n cause ((vget s.loom n).crit && (vget s.loom n).state = .running && mayHandOver s) s

/-- ENGINE_FAULT (R127). -/
def execEngineFault (n : Fin 8) (cause : Fin 5) (s : State) : Res :=
  ok (when (loomOn s n && cause.val ≠ 0 && (vget s.loom n).state ≠ .fault) (engineFault n cause.val) s)

/-! ## The engine's instructions -/

/-- The engine executes instruction `i`: a scan is in progress, the budget is not exhausted, and the word at PC spells `i`. -/
def loomRuns (s : State) (n : Fin 8) (i : LInstr) : Bool :=
  let e := vget s.loom n
  loomUp s n && e.state = .running && (e.mode = .ahead || e.mode = .settled) && decide (e.run.count < budgetOf e) &&
    instrAt e.prog e.run.pc = some i

/-- Execute one instruction of engine `n`. -/
def loomInstr (n : Fin 8) (i : LInstr) (s : State) : State :=
  if loomRuns s n i then (if (vget s.loom n).mode = .ahead then aheadStep n i s else settledStep n i s) else s

/-- NOP on engine `n`. -/
def execLoomNop (n : Fin 8) (s : State) : Res := ok (loomInstr n .nop s)

/-- PICK on engine `n`. -/
def execLoomPick (n : Fin 8) (no : BitVec 16) (s : State) : Res := ok (loomInstr n (.pick no) s)

/-- END on engine `n`. -/
def execLoomEnd (n : Fin 8) (s : State) : Res := ok (loomInstr n .fin s)

/-- LD on engine `n`. -/
def execLoomLd (n : Fin 8) (o : BitOp) (s : State) : Res := ok (loomInstr n (.ld o) s)

/-- LDN on engine `n`. -/
def execLoomLdn (n : Fin 8) (o : BitOp) (s : State) : Res := ok (loomInstr n (.ldn o) s)

/-- AND on engine `n`. -/
def execLoomAnd (n : Fin 8) (o : BitOp) (s : State) : Res := ok (loomInstr n (.and o) s)

/-- ANDN on engine `n`. -/
def execLoomAndn (n : Fin 8) (o : BitOp) (s : State) : Res := ok (loomInstr n (.andn o) s)

/-- OR on engine `n`. -/
def execLoomOr (n : Fin 8) (o : BitOp) (s : State) : Res := ok (loomInstr n (.or o) s)

/-- ORN on engine `n`. -/
def execLoomOrn (n : Fin 8) (o : BitOp) (s : State) : Res := ok (loomInstr n (.orn o) s)

/-- XOR on engine `n`. -/
def execLoomXor (n : Fin 8) (o : BitOp) (s : State) : Res := ok (loomInstr n (.xor o) s)

/-- XORN on engine `n`. -/
def execLoomXorn (n : Fin 8) (o : BitOp) (s : State) : Res := ok (loomInstr n (.xorn o) s)

/-- NOT on engine `n`. -/
def execLoomNot (n : Fin 8) (s : State) : Res := ok (loomInstr n .not s)

/-- SET1 on engine `n`. -/
def execLoomSet1 (n : Fin 8) (s : State) : Res := ok (loomInstr n .set1 s)

/-- SET0 on engine `n`. -/
def execLoomSet0 (n : Fin 8) (s : State) : Res := ok (loomInstr n .set0 s)

/-- ANDP on engine `n`. -/
def execLoomAndp (n : Fin 8) (s : State) : Res := ok (loomInstr n .andp s)

/-- ORP on engine `n`. -/
def execLoomOrp (n : Fin 8) (s : State) : Res := ok (loomInstr n .orp s)

/-- POPB on engine `n`. -/
def execLoomPopb (n : Fin 8) (s : State) : Res := ok (loomInstr n .popb s)

/-- BPSH on engine `n`. -/
def execLoomBpsh (n : Fin 8) (s : State) : Res := ok (loomInstr n .bpsh s)

/-- BRD on engine `n`. -/
def execLoomBrd (n : Fin 8) (s : State) : Res := ok (loomInstr n .brd s)

/-- BPOP on engine `n`. -/
def execLoomBpop (n : Fin 8) (s : State) : Res := ok (loomInstr n .bpop s)

/-- ST on engine `n`. -/
def execLoomSt (n : Fin 8) (o : BitOp) (s : State) : Res := ok (loomInstr n (.st o) s)

/-- STN on engine `n`. -/
def execLoomStn (n : Fin 8) (o : BitOp) (s : State) : Res := ok (loomInstr n (.stn o) s)

/-- SETB on engine `n`. -/
def execLoomSetb (n : Fin 8) (o : BitOp) (s : State) : Res := ok (loomInstr n (.setb o) s)

/-- RSTB on engine `n`. -/
def execLoomRstb (n : Fin 8) (o : BitOp) (s : State) : Res := ok (loomInstr n (.rstb o) s)

/-- PEDGE on engine `n`. -/
def execLoomPedge (n : Fin 8) (i : BitVec 13) (s : State) : Res := ok (loomInstr n (.pedge i) s)

/-- NEDGE on engine `n`. -/
def execLoomNedge (n : Fin 8) (i : BitVec 13) (s : State) : Res := ok (loomInstr n (.nedge i) s)

/-- TON on engine `n`. -/
def execLoomTon (n : Fin 8) (i : BitVec 13) (s : State) : Res := ok (loomInstr n (.ton i) s)

/-- TOF on engine `n`. -/
def execLoomTof (n : Fin 8) (i : BitVec 13) (s : State) : Res := ok (loomInstr n (.tof i) s)

/-- TP on engine `n`. -/
def execLoomTp (n : Fin 8) (i : BitVec 13) (s : State) : Res := ok (loomInstr n (.tp i) s)

/-- TRST on engine `n`. -/
def execLoomTrst (n : Fin 8) (i : BitVec 13) (s : State) : Res := ok (loomInstr n (.trst i) s)

/-- CTU on engine `n`. -/
def execLoomCtu (n : Fin 8) (i : BitVec 13) (s : State) : Res := ok (loomInstr n (.ctu i) s)

/-- CTD on engine `n`. -/
def execLoomCtd (n : Fin 8) (i : BitVec 13) (s : State) : Res := ok (loomInstr n (.ctd i) s)

/-- CRST on engine `n`. -/
def execLoomCrst (n : Fin 8) (i : BitVec 13) (s : State) : Res := ok (loomInstr n (.crst i) s)

/-- CLD on engine `n`. -/
def execLoomCld (n : Fin 8) (i : BitVec 13) (s : State) : Res := ok (loomInstr n (.cld i) s)

/-- LDW on engine `n`. -/
def execLoomLdw (n : Fin 8) (o : WordOp) (s : State) : Res := ok (loomInstr n (.ldw o) s)

/-- LDI on engine `n`. -/
def execLoomLdi (n : Fin 8) (v : BitVec 16) (s : State) : Res := ok (loomInstr n (.ldi v) s)

/-- LDIH on engine `n`. -/
def execLoomLdih (n : Fin 8) (v : BitVec 16) (s : State) : Res := ok (loomInstr n (.ldih v) s)

/-- STW on engine `n`. -/
def execLoomStw (n : Fin 8) (o : WordOp) (s : State) : Res := ok (loomInstr n (.stw o) s)

/-- STWC on engine `n`. -/
def execLoomStwc (n : Fin 8) (o : WordOp) (s : State) : Res := ok (loomInstr n (.stwc o) s)

/-- ADD on engine `n`. -/
def execLoomAdd (n : Fin 8) (o : WordOp) (s : State) : Res := ok (loomInstr n (.add o) s)

/-- SUB on engine `n`. -/
def execLoomSub (n : Fin 8) (o : WordOp) (s : State) : Res := ok (loomInstr n (.sub o) s)

/-- MUL on engine `n`. -/
def execLoomMul (n : Fin 8) (o : WordOp) (s : State) : Res := ok (loomInstr n (.mul o) s)

/-- DIV on engine `n`. -/
def execLoomDiv (n : Fin 8) (o : WordOp) (s : State) : Res := ok (loomInstr n (.div o) s)

/-- MOD on engine `n`. -/
def execLoomMod (n : Fin 8) (o : WordOp) (s : State) : Res := ok (loomInstr n (.mod o) s)

/-- ANDW on engine `n`. -/
def execLoomAndw (n : Fin 8) (o : WordOp) (s : State) : Res := ok (loomInstr n (.andw o) s)

/-- ORW on engine `n`. -/
def execLoomOrw (n : Fin 8) (o : WordOp) (s : State) : Res := ok (loomInstr n (.orw o) s)

/-- XORW on engine `n`. -/
def execLoomXorw (n : Fin 8) (o : WordOp) (s : State) : Res := ok (loomInstr n (.xorw o) s)

/-- SHL on engine `n`. -/
def execLoomShl (n : Fin 8) (k : BitVec 5) (s : State) : Res := ok (loomInstr n (.shl k) s)

/-- SHR on engine `n`. -/
def execLoomShr (n : Fin 8) (k : BitVec 5) (s : State) : Res := ok (loomInstr n (.shr k) s)

/-- ASR on engine `n`. -/
def execLoomAsr (n : Fin 8) (k : BitVec 5) (s : State) : Res := ok (loomInstr n (.asr k) s)

/-- CMP on engine `n`. -/
def execLoomCmp (n : Fin 8) (c : Cond) (o : WordOp) (s : State) : Res := ok (loomInstr n (.cmp c o) s)

/-- MIN on engine `n`. -/
def execLoomMin (n : Fin 8) (o : WordOp) (s : State) : Res := ok (loomInstr n (.min o) s)

/-- MAX on engine `n`. -/
def execLoomMax (n : Fin 8) (o : WordOp) (s : State) : Res := ok (loomInstr n (.max o) s)

/-- GETB on engine `n`. -/
def execLoomGetb (n : Fin 8) (k : BitVec 5) (s : State) : Res := ok (loomInstr n (.getb k) s)

/-- PUTB on engine `n`. -/
def execLoomPutb (n : Fin 8) (k : BitVec 5) (s : State) : Res := ok (loomInstr n (.putb k) s)

/-- MCS on engine `n`. -/
def execLoomMcs (n : Fin 8) (s : State) : Res := ok (loomInstr n .mcs s)

/-- MCE on engine `n`. -/
def execLoomMce (n : Fin 8) (s : State) : Res := ok (loomInstr n .mce s)

/-- JMP on engine `n`. -/
def execLoomJmp (n : Fin 8) (t : BitVec 17) (s : State) : Res := ok (loomInstr n (.jmp t) s)

/-- JC on engine `n`. -/
def execLoomJc (n : Fin 8) (t : BitVec 17) (s : State) : Res := ok (loomInstr n (.jc t) s)

/-- JCN on engine `n`. -/
def execLoomJcn (n : Fin 8) (t : BitVec 17) (s : State) : Res := ok (loomInstr n (.jcn t) s)

/-- CALL on engine `n`. -/
def execLoomCall (n : Fin 8) (t : BitVec 17) (s : State) : Res := ok (loomInstr n (.call t) s)

/-- CALLC on engine `n`. -/
def execLoomCallc (n : Fin 8) (t : BitVec 17) (s : State) : Res := ok (loomInstr n (.callc t) s)

/-- RET on engine `n`. -/
def execLoomRet (n : Fin 8) (s : State) : Res := ok (loomInstr n .ret s)

/-- EVT on engine `n`. -/
def execLoomEvt (n : Fin 8) (sev : BitVec 3) (num : BitVec 8) (s : State) : Res := ok (loomInstr n (.evt sev num) s)

/-- CANTX on engine `n`. -/
def execLoomCantx (n : Fin 8) (tpl : BitVec 8) (s : State) : Res := ok (loomInstr n (.cantx tpl) s)

end Sys2Proof.Machine
end

