-- ==== Sys2Proof/Machine/PrismLaw.lean ====
section
/-! DEFINITION. The arithmetic of one Prism computation (R167 to R173, R187 to R202): source conversion, friction, cogging, the
control law with its saturations, handover, stop, supervision, trips. Q1.31 values are integers in units of 2^-31; accumulator
values in units of 2^-62. -/

namespace Sys2Proof.Machine

/-- Hold `x` between two bounds. -/
def clampI (x lo hi : Int) : Int := max lo (min x hi)

/-- The selected set. -/
def selSet (x : Slot) : LoopSet := if x.selB then x.setB else x.setA

/-! ## Values with a count of saturations (R173) -/

/-- A value and the number of saturations that forming it met. -/
structure Sat where
  val : Int
  n   : Nat := 0

/-- Saturation to 32 bits. -/
def satQ (x : Int) : Sat := { val := sat32 x, n := b2n (sat32 x ≠ x) }

/-- A difference, formed modulo 2^32 on a loop with WRAP and saturated otherwise. -/
def diffQ (wrap : Bool) (a b : Int) : Sat := if wrap then { val := wrap32 (a - b) } else satQ (a - b)

/-- The accumulator's limits, ±512 (R172). -/
def accHold (x : Int) : Sat :=
  let y := clampI x (-(512 * 2 ^ 62)) (512 * 2 ^ 62 - 1)
  { val := y, n := b2n (y ≠ x) }

/-- A product term: datum × K × 2^-SH. -/
def termQ (d : Int) (k : Coef) : Int := d * k.k * 2 ^ (31 - k.sh)

/-- A Q1.31 value in the accumulator. -/
def accQ (d : Int) : Int := d * 2 ^ 31

/-- Add terms in order, the accumulator holding at its limits. -/
def accSum (l : List Int) : Sat :=
  l.foldl (fun a t => let y := accHold (a.val + t); { val := y.val, n := a.n + y.n }) { val := 0 }

/-- The accumulator rounded to Q1.31 (R172). -/
def round31 (a : Int) : Sat := satQ (roundShift a 31)

/-- The integrator's clamp. -/
def iClamp (x : Int) : Sat :=
  let y := clampI x (-(2 ^ 62)) (2 ^ 62 - 1)
  { val := y, n := b2n (y ≠ x) }

/-! ## Stage 1: sources (R169, R170) -/

/-- A source's converted value; the raw value counts as a signed 32-bit one (R170). -/
def convQ (c : SrcCfg) (wrap : Bool) (raw : Int) : Sat :=
  if c.kind = 0 then { val := 0 }
  else if c.kind = 5 then { val := c.scale }
  else
    let v := roundShift (wrap32 raw * c.scale) c.sh
    if wrap then { val := wrap32 v } else satQ v

/-- A source field whose value is captured. -/
def srcNamed (c : SrcCfg) : Bool := c.kind ≠ 0 && c.kind ≠ 5

/-! ## Stages 4 and 5 (R189, R190) -/

/-- An entry of a table. -/
def tabAt (t : List Int) (i : Nat) : Int := (t[i]?).getD 0

/-- A product term as a Q1.31 value; the accumulator holding at its limits is a saturation (R173). -/
def tableTerm (t : Int) : Sat :=
  let a := accHold t
  { val := (round31 a.val).val, n := a.n }

/-- The friction term. -/
def friction (c : LoopSet) (t : List Int) (v4 : Int) : Sat :=
  if !c.fricEn || t = [] || v4 = 0 then { val := 0 }
  else
    let a := v4.natAbs
    let b := min (a >>> c.fricShv) 127
    let f := (if 0 < v4 then tabAt t b else tabAt t (128 + b)) * 65536
    let f := if (a : Int) < c.fricDb then roundDiv (f * a) c.fricDb.toNat else f
    tableTerm (termQ f c.fricK)

/-- The cogging term, from the raw position. -/
def cogging (c : LoopSet) (t : List Int) (raw : Int) : Sat :=
  if !c.cogEn || t = [] then { val := 0 }
  else
    let n := t.length
    let q := ((raw - c.cogOfs) % (c.cogCnt : Int)).toNat
    let x := q * n * 65536 / c.cogCnt
    let j := x / 65536
    let frac := x % 65536
    let e := tabAt t j
    let v := e * 65536 + (tabAt t ((j + 1) % n) - e) * frac
    tableTerm (termQ v c.cogK)

/-- The rule of R193 for a stale source: repeat once, then 0; the event is due in the second stale period. -/
def staleTerm (run : Nat) (old fresh : Int) (armed : Bool) : Int × Bool :=
  if run = 0 then (fresh, false) else if run = 1 then (old, false) else (0, run = 2 && armed)

/-! ## Stages 2, 3 and 6 -/

/-- What a computation has formed from its slot: the period's data. -/
structure Law where
  y    : Int
  s    : Int
  x    : Int
  fric : Int
  cog  : Int
  wrap : Bool

/-- `p`'s term, e and v for a set-point (R172). -/
def frontQ (c : LoopSet) (l : Law) (r : Int) : Sat × Sat × Sat :=
  let e := diffQ l.wrap r l.y
  let wq := accSum [termQ r c.kb]
  let w := (round31 wq.val).val
  let p := diffQ l.wrap w l.y
  let cq := accSum [termQ r c.kc]
  let v := diffQ l.wrap (round31 cq.val).val l.y
  (e, { val := termQ p.val c.kp, n := p.n + wq.n }, { val := v.val, n := v.n + cq.n })

/-- The terms of the sum beside p, i and d. -/
def ffTerms (c : LoopSet) (l : Law) (r : Int) : List Int :=
  [termQ r c.kr, termQ l.x c.kx, accQ l.fric, accQ l.cog, accQ c.bias]

/-- Limits and slew of stage 6: the output, and LIM. -/
def limitQ (c : LoopSet) (us uPrev : Int) : Int × Bool :=
  let u := min (max us c.umin) c.umax
  let u' := if 0 < c.slew then min (max u (uPrev - c.slew)) (uPrev + c.slew) else u
  (u', decide (u' ≠ us))

/-- The output under a handover or its slew (R194, R195): the output, and HO. -/
def handQ (c : LoopSet) (law uOld : Int) (hand ho : Bool) : Int × Bool :=
  if hand && ((law - uOld).natAbs : Int) ≤ c.hoLimit then (law, false)
  else if hand || ho then
    let u := uOld + clampI (law - uOld) (-c.hoRate) c.hoRate
    (u, decide (u ≠ law))
  else (law, false)

/-- A step towards a target at a rate, all of the way for rate 0 (R198, R201). -/
def towards (u target rate : Int) : Int := if rate = 0 then target else u + clampI (target - u) (-rate) rate

/-- Add saturations to a slot's counts. -/
def countSat (n : Nat) (x : Slot) : Slot :=
  { x with satN := (x.satN + n) % 65536, sat := x.sat || decide (0 < n) }

/-- The integrator follows the output (R197): D stays 0 and v_prev takes v. -/
def trackQ (c : LoopSet) (l : Law) (r u : Int) (x : Slot) : Slot × Nat :=
  let f := frontQ c l r
  let t := accSum (f.2.1.val :: ffTerms c l r)
  let i := iClamp (accQ u - t.val)
  ({ x with i := i.val, d := 0, vPrev := f.2.2.val }, f.1.n + f.2.1.n + f.2.2.n + t.n + i.n)

/-- Stages 3 and 6 in AUTO (R172), with the handover of R194: the slot, the output, LIM, the saturations. In the handover's period
stage 6 runs whole, its back-calculation with it. -/
def autoQ (c : LoopSet) (l : Law) (r uOld : Int) (hand : Bool) (x : Slot) : Slot × Int × Bool × Nat :=
  let f := frontQ c l r
  let p := f.2.1
  let v := f.2.2
  let dq := accSum [termQ x.d c.ka, termQ (v.val - x.vPrev) c.kd]
  let d := if hand then { val := 0 } else round31 dq.val
  let t := accSum (p.val :: ffTerms c l r)
  let i0 := if hand then iClamp (accQ uOld - t.val) else { val := x.i }
  let sum := accSum ([p.val, i0.val, accQ d.val] ++ ffTerms c l r)
  let us := round31 sum.val
  let lim := limitQ c us.val uOld
  let o := handQ c lim.1 uOld hand x.ho
  let back := accSum [i0.val, termQ f.1.val c.ki, termQ (o.1 - us.val) c.kt]
  let i1 := iClamp back.val
  let n := f.1.n + p.n + v.n + (if hand then t.n else dq.n + d.n) + i0.n + sum.n + us.n + back.n + i1.n
  ({ x with i := i1.val, d := d.val, vPrev := v.val, ho := o.2 }, o.1, lim.2, n)

/-- Stage 2 in AUTO (R196): the set-point in force, and whether a ramp has reached its target. -/
def setpointQ (c : LoopSet) (l : Law) (starting : Bool) (r0 : Int) : Int × Bool :=
  if !starting then (l.s, false)
  else
    let delta := if l.wrap then wrap32 (l.s - r0) else l.s - r0
    let r := r0 + clampI delta (-c.rampUp) c.rampUp
    let r := if l.wrap then wrap32 r else r
    (r, decide (r = l.s))

/-- The output of a trip action (R201). -/
def tripOut (c : LoopSet) (act : Fin 4) (uOld : Int) : Int :=
  match act with
  | 0 => uOld
  | 1 => towards uOld 0 c.rampStop
  | _ => c.failOut

/-- The following error (R200). -/
def followErr (wrap : Bool) (r y : Int) : Int := min ((if wrap then wrap32 (r - y) else sat32 (r - y)).natAbs : Int) 0x7FFFFFFF

/-- What one computation gives besides the slot: events (code, severity, value beside the loop number), and a trip. -/
structure LawOut where
  slot   : Slot
  events : List (Nat × Nat × Nat) := []
  trip   : Bool := false

/-- The output before this period: u_prev, or the fail output of a slot that has never run (R194). -/
def lawOld (x : Slot) : Int := if x.hasRun then x.uPrev else (selSet x).failOut

/-- The slot as a computation finds it: a handover clears the supervision count and ends a handover slew in progress. -/
def lawReady (x : Slot) : Slot :=
  { x with feCnt := if x.hand then 0 else x.feCnt, hand := false, startR := false, ho := x.ho && !x.hand, fe := false, lim := false }

/-- The slot with what a computation releases. -/
def lawFin (l : Law) (r u : Int) (x : Slot) : Slot := { x with uPrev := u, u := u, r := r, y := l.y, hasRun := true }

/-- A period without stage 3: the output is `u`, the integrator tracks with r := y (R198, R201). -/
def lawHeld (l : Law) (u : Int) (x : Slot) : Slot :=
  let t := trackQ (selSet x) l l.y u { lawReady x with ho := false }
  countSat t.2 (lawFin l l.y u t.1)

/-- Stage 2: the set-point in force, and whether a ramp has reached its target. -/
def lawSetpoint (l : Law) (x : Slot) : Int × Bool :=
  if x.manual && x.test.isNone then (l.y, false) else setpointQ (selSet x) l (x.run = .starting) (if x.startR then l.y else x.r)

/-- The output that a brake test or MANUAL puts in place of the law's. -/
def lawForced (x : Slot) : Option Int := x.test <|> (if x.manual then some x.m else none)

/-- Stages 3 to 6 with set-point `r` on the slot `y` made ready: the slot, the output, LIM, the saturations. -/
def lawOutput (l : Law) (r : Int) (x y : Slot) : Slot × Int × Bool × Nat :=
  match lawForced x with
  | some m =>
    let lim := limitQ (selSet x) m (lawOld x)
    let h := handQ (selSet x) lim.1 (lawOld x) x.hand y.ho
    let t := trackQ (selSet x) l r h.1 { y with ho := h.2 }
    (t.1, h.1, lim.2, t.2)
  | none => autoQ (selSet x) l r (lawOld x) x.hand y

/-- Stage 7 (R200, R201) on the output `o` of stages 3 to 6. -/
def lawSupervise (l : Law) (lost : Bool) (r : Int) (x : Slot) (o : Slot × Int × Bool × Nat) : LawOut :=
  let c := selSet x
  let cnt0 := (lawReady x).feCnt
  let supervised := c.feEn && !x.manual
  let fex := supervised && decide (c.feLimit < followErr l.wrap r l.y)
  let cnt := if fex then cnt0 + 1 else 0
  let live := o.1.run = .starting || o.1.run = .running
  let feTrip := fex && decide (cnt = c.feTime) && !x.manual
  let trip := (feTrip || (lost && !x.manual)) && live
  let u := if trip && c.trip ≠ 3 then tripOut c c.trip (lawOld x) else o.2.1
  let y := { o.1 with feCnt := if supervised then cnt else cnt0, fe := fex, lim := o.2.2.1
                      run := if trip then .tripped else o.1.run, act := if trip then c.trip else o.1.act
                      ho := o.1.ho && !trip }
  { slot := countSat o.2.2.2 (lawFin l r u y), events := if feTrip then [(0x0204, 5, 0)] else [], trip := trip }

/-- Stages 2 to 7 on a slot that is not DISABLED; `lost` says that the loss of measurement is declared in this period. -/
def lawStep (l : Law) (lost : Bool) (x : Slot) : LawOut :=
  let c := selSet x
  if x.run = .stopping then
    let u := towards (lawOld x) c.failOut c.rampStop
    { slot := { lawHeld l u x with run := if u = c.failOut then .disabled else .stopping } }
  else if x.run = .tripped && x.act ≠ 3 then { slot := lawHeld l (tripOut c x.act (lawOld x)) x }
  else
    let sp := lawSetpoint l x
    let y := lawReady x
    lawSupervise l lost sp.1 x (lawOutput l sp.1 x { y with run := if sp.2 then .running else y.run })

/-! ## Commands (R199, R202) -/

/-- What is recorded takes effect at an enable. -/
def slotRecorded (x : Slot) : Slot :=
  { x with selB := x.recSet.getD x.selB, manual := (x.recMode.map (·.1)).getD x.manual
           m := (match x.recMode with
             | some (true, m) => m
             | _ => x.m)
           recSet := none, recMode := none }

/-- An enable in the mode that the slot will run in (R196). -/
def slotEnable (x : Slot) : Slot :=
  let y := slotRecorded x
  if y.manual then { y with run := .running, hand := true, startR := false } else { y with run := .starting, hand := true, startR := true }

/-- LOOP_CTRL's effect by the column of R202. What a slot that is DISABLED, STOPPING or TRIPPED records waits for the next enable; a set
selected while STOPPING is in force at once (R199). The re-enable of a slot TRIPPED with FLAG is a handover too (R194; DEDUCED, assumption
log 152). -/
def slotCtrl (code : Nat) (m : Int) (at_ : RunSt) (x : Slot) : Slot :=
  let flagged := at_ = .tripped && x.act = 3
  let records := at_ = .disabled || at_ = .stopping || (at_ = .tripped && !flagged)
  let toManual (y : Slot) : Slot := { y with run := .running, manual := true, m := m, hand := true, startR := false }
  match code with
  | 0 =>
    if at_ = .starting || at_ = .running then x
    else if flagged then { slotRecorded x with run := .running, feCnt := 0, hand := true }
    else slotEnable x
  | 1 => if at_ = .disabled || at_ = .stopping then x else { x with run := .stopping, feCnt := 0, ho := false }
  | 2 | 3 =>
    let b := code = 3
    if at_ = .stopping then { x with selB := b, recSet := none }
    else if records then { x with recSet := if x.selB = b then none else some b }
    else if x.selB = b then x
    else { x with selB := b, hand := true }
  | 4 =>
    if records then { x with recMode := some (true, m) }
    else if x.manual && x.m = m then x
    else toManual x
  | _ =>
    if records then { x with recMode := some (false, 0) }
    else if !x.manual then x
    else if at_ = .running then { x with manual := false, run := .starting, hand := true, startR := true }
    else x

/-- A command takes effect on a slot (R180, R181, R191, R202, R318). -/
def slotApply (x : Slot) : SlotCmd → Slot
  | .cfg setB c => if setB then { x with setB := c, setA := { x.setA with sink := c.sink } }
                   else { x with setA := c, setB := { x.setB with sink := c.sink } }
  | .ctrl code m at_ => slotCtrl code m at_ x
  | .table cog e => if cog then { x with cogTab := e } else { x with fricTab := e }
  | .test u => { x with test := u, hand := x.hand || x.run = .starting || x.run = .running }

end Sys2Proof.Machine
end

