-- ==== Sys2Proof/Machine/Prism.lean ====
section
/-! DEFINITION. The Prism frame (06_prism_loop_engines.md): period boundaries, sample instants, source returns, compute windows, output
instants, engine faults, the slot window. -/

namespace Sys2Proof.Machine

/-- A Prism engine. -/
def prismAt (s : State) (n : Fin 4) : Prism := vget s.prism n

/-- Change a Prism engine. -/
def setPrism (n : Fin 4) (f : Prism → Prism) (s : State) : State := { s with prism := vmod s.prism n f }

/-- The engine of a loop. -/
def loopEngine (l : Fin 256) : Fin 4 := ⟨l.val / 64, by omega⟩

/-- The slot of a loop. -/
def loopSlot (l : Fin 256) : Fin 64 := ⟨l.val % 64, by omega⟩

/-- Change a loop's slot. -/
def setSlotL (l : Fin 256) (f : Slot → Slot) (s : State) : State :=
  setPrism (loopEngine l) (fun p => { p with slots := vmod p.slots (loopSlot l) f }) s

/-- The engine is present and runs its frame, which stops while it is under test (R163). -/
def prismRuns (s : State) (n : Fin 4) : Bool := prismOn s && n.val < prismCount s && (prismAt s n).state = .run && !(underTest s (8 + n.val))

/-- The next period count: registers and frames show its low 32 bits, the count itself goes on (R163, assumption log 153). -/
def pcntNext (p : Nat) : Nat := p + 1

/-- `a` is at or before `b` in period counts. -/
def pcntLe (a b : Nat) : Bool := a ≤ b

/-- The period count near `near` whose low 32 bits are those of `k`. -/
def pcntFull (near k : Nat) : Nat :=
  let c := near / 2 ^ 32 * 2 ^ 32 + k % 2 ^ 32
  if c + 2 ^ 31 < near then c + 2 ^ 32 else if near + 2 ^ 31 < c && 2 ^ 32 ≤ c then c - 2 ^ 32 else c

/-- RUN's code (R182). -/
def runCode : RunSt → Nat
  | .disabled => 0
  | .starting => 1
  | .running => 2
  | .stopping => 3
  | .tripped => 4

/-- PE_SSTAT[15:0] (R186). -/
def slotStatus (x : Slot) : Nat :=
  runCode x.run + flag x.manual 5 + flag x.selB 6 + flag x.fe 7 + flag x.ho 8 + flag x.stale 9 + flag x.sat 10 + flag x.lim 11

/-! ## Signatures (R29, R344) -/

/-- The 8 bytes that a slot contributes. -/
def slotSigBytes (slot run : Nat) (u : Int) : List Byte := leBytes 1 slot ++ leBytes 1 run ++ [0, 0] ++ leBytesInt 4 u

/-- The signature of period `pc` is complete: its outputs are all released. -/
def sigReady (p : Prism) (pc : Nat) : Bool :=
  p.pcnt ≠ pc && p.slots.toList.all fun (x : Slot) => x.comps.all fun c => c.pc ≠ pc || !(c.active || !c.done)

/-- Insert an output in slot order. -/
def sigInsert (e : Nat × Nat × Nat × Int) : List (Nat × Nat × Nat × Int) → List (Nat × Nat × Nat × Int)
  | [] => [e]
  | x :: r => if e.2.1 < x.2.1 then e :: x :: r else x :: sigInsert e r

/-- The lateness of a period's SAMPLE frames is judged: the third late period in a row is decision code 7 on a standby (R350). -/
def lateJudge (n : Fin 4) (late : Bool) (s : State) : State :=
  let k := if late then vget s.mir.lateRun n + 1 else 0
  let s1 := { s with mir := { s.mir with lateRun := vset s.mir.lateRun n k } }
  when (3 ≤ k && s1.mir.role = .standby) (fun s => standbyLeaves 7 (raise 0x080D 5 0x03 s)) s1

/-- The signature of period `pc`, once the period and its outputs are over: formed for every period, over no slot where all are DISABLED,
and handed to the ME (R29, R351); that of a following module's period with a late SAMPLE is not compared (R350). -/
def prismSign (n : Fin 4) (pc : Nat) (s : State) : State :=
  let p := prismAt s n
  if !(sigReady p pc) then s
  else
    let mine := (p.sigOut.filter fun e => e.1 = pc).foldl (fun l e => sigInsert e l) []
    let crc := (crc64 (mine.flatMap fun e => slotSigBytes e.2.1 e.2.2.1 e.2.2.2)).toNat
    let late := (vget s.mir.lateNow n).contains pc
    let s1 := setPrism n (fun p => { p with sigCrc := crc, sigOut := p.sigOut.filter fun e => e.1 ≠ pc })
      { s with mir := { s.mir with lateNow := vset s.mir.lateNow n ((vget s.mir.lateNow n).filter (· ≠ pc)) } }
    lateJudge n late (when (!late) (meSignature { isTask := false, engine := n.val, num := pc % 2 ^ 32, crc := crc }) s1)

/-! ## The period boundary (R163, R350) -/

/-- A period begins; the one before it is signed where all its outputs have been released. -/
def prismPeriod (n : Fin 4) (s : State) : State :=
  if prismRuns s n then prismSign n (prismAt s n).pcnt (setPrism n (fun p => { p with pcnt := pcntNext p.pcnt }) s)
  else s

/-! ## The sample instant (R165, R169, R181) -/

/-- The slot as it will stand for a computation: every command of computations in flight and due commands applied. -/
def slotAhead (x : Slot) (due : List SlotCmd) : Slot :=
  ((x.comps.filter (!·.done)).flatMap (·.cmds) ++ due).foldl slotApply x

/-- The sources that a computation of the slot captures. -/
def slotSources (x : Slot) : Vector SrcCfg 5 := if x.run = .disabled then Vector.replicate 5 {} else (selSet x).srcs

/-- A source's point store value at the sample instant. -/
def pointSample (s : State) (c : SrcCfg) : Int := if c.kind = 1 then (ptGet s c.index).toInt else 0

/-- After DESTROY, once every computation sampled before has run: the slot is DISABLED, and what stands in place of the first computation
not made releases the fail output, and 0 to TRIP_PT of a slot that was TRIPPED (R62, R182, R201). -/
def tearClose (x : Slot) : Slot :=
  let c := selSet x
  if x.tearAt.isSome && x.comps.any (·.tear) && x.comps.all (fun k => k.tear || k.done) then
    { x with run := .disabled, tearAt := none, tripOn := false
             comps := x.comps.map fun k => if k.tear then { k with
               active := x.hasRun && x.run ≠ .disabled, done := true, u := c.failOut, y := x.y, r := x.r, sink := c.sink, tripPt := c.tripPt
               trip := if x.tripOn then some false else none } else k }
  else x

/-- The period in which a slot in teardown makes its first computation no more (R62). -/
def slotTear (pc : Nat) (x : Slot) : Slot := tearClose { x with pend := [], comps := x.comps ++ [{ pc := pc, tear := true }] }

/-- The encoder port that a source names, at the sample instant. -/
def encNow (s : State) (f : SrcCfg) : Option Enc :=
  if h : (f.kind = 3 ∨ f.kind = 4) ∧ f.index < 4 then some (vget s.enc ⟨f.index, h.2⟩) else none

/-- SAMPLE_INSTANT. -/
def execSampleInstant (l : Fin 256) (s : State) : Res :=
  let n := loopEngine l
  let p := prismAt s n
  let x := vget p.slots (loopSlot l)
  ok (if prismRuns s n && (loopSlot l).val < p.nslot && x.live && x.sampled ≠ some p.pcnt then
    if x.comps.any (·.tear) then s
    else if x.tearAt.any (pcntLe · p.pcnt) then setSlotL l (fun x => { slotTear p.pcnt x with sampled := some p.pcnt }) s
    else
      let due := (x.pend.filter fun q => pcntLe q.eff p.pcnt).map (·.cmd)
      let srcs := slotSources (slotAhead x due)
      let k : Comp := { pc := p.pcnt, cmds := due, srcs := srcs, pts := srcs.map (pointSample s), encs := srcs.map (encNow s) }
      setSlotL l (fun x => { x with sampled := some p.pcnt, pend := x.pend.filter fun q => !pcntLe q.eff p.pcnt, comps := x.comps ++ [k] }) s
  else s)

/-- A position or velocity of an encoder port as a sample command gets it, none where it is invalid (R242, R244 to R246): an incremental
count is a signed 32-bit value, an SSI position an unsigned one (R190). -/
def encSample (e : Enc) (velocity : Bool) (c : Capture) : Option Int :=
  let x := c.lines.foldl encAfter e
  if e.cfg.emode = .ssi then
    (if velocity then (if encVelValid e then some e.vel else none)
     else if !(encPosValid e) then none
     else if e.cfg.extrap then some (((e.pos.toNat : Int) + roundDiv (e.vel * c.ageNs) 1000000000) % (2 ^ e.cfg.ssiBits : Nat))
     else some e.pos.toNat)
  else if velocity then (if encVelValid x then some (if x.still then 0 else velocityOf (encDir x.cfg c.winEdges) c.winNs) else none)
  else if encPosValid x then some x.pos.toInt
  else none

/-- The raw value that a capture gives (R170); none where it counts as not returned. -/
def captureValue (s : State) (f : SrcCfg) (pt : Int) (at_ : Option Enc) (fwd : Option Int) (c : Capture) : Option Int :=
  if c.mark ≠ .good || c.full then none
  else if f.kind = 1 then some pt
  else if f.kind = 2 then (if h : f.index < 16 then aioCapture (vget s.aio ⟨f.index, h⟩) fwd c else none)
  else at_.bind fun e => encSample e (f.kind = 4) c

/-- The source is a channel that delivers the last forwarded value as its own (R238). -/
def captureFwd (s : State) (f : SrcCfg) (fwd : Option Int) : Bool :=
  f.kind = 2 && fwd.isSome && (if h : f.index < 16 then (vget s.aio ⟨f.index, h⟩).fwdUntil else false)

/-- A source return meets a poisoned crossing of the engine or of its producer (R383, R385). -/
def returnPois (s : State) (n : Fin 4) (f : SrcCfg) : Bool :=
  crossPois s (8 + n.val) || (f.kind = 2 && crossPois s 21) || ((f.kind = 3 || f.kind = 4) && crossPois s 19)

/-- SOURCE_RETURN: the computation whose sample command it answers takes the value, unless its window has come (R169, R229, R246, R377,
R378). -/
def execSourceReturn (l : Fin 256) (j : Fin 5) (c : Capture) (s : State) : Res :=
  let n := loopEngine l
  let x := slotGet s l
  ok (if prismRuns s n && !(follows s) then
    match x.comps.find? fun k => !k.done && k.pc % 2 ^ 32 = c.pcnt.toNat && (vget k.got j).isNone && srcNamed (vget k.srcs j) with
    | none => s
    | some k =>
      let f := vget k.srcs j
      let v := captureValue s f (vget k.pts j) (vget k.encs j) (vget x.fwdV j) c
      let fwd := captureFwd s f (vget x.fwdV j)
      let s1 := when (c.mark = .parityBad) (parityFail (8 + n.val)) s
      let s2 := if returnPois s n f then crossDiscard s1 else (bobCarry ⟨n.val, by omega⟩ (leBytesInt 4 (v.getD c.value)) c.full s1).1
      let s3 := if h : f.kind = 2 ∧ f.index < 16 then
          when (c.held || (c.mark = .good && !c.full && v.isNone)) (setAio ⟨f.index, h.2⟩ (fun a => { a with noret := holdInc 0xFFFF a.noret })) s2
        else s2
      if returnPois s n f then s3
      else match v with
      | none => s3
      | some v => setSlotL l (fun x => { x with comps := x.comps.map fun q =>
          if q.pc = k.pc && !q.done then { q with got := vset q.got j (some v), fwd := vset q.fwd j fwd } else q }) s3
  else s)

/-! ## The compute window (R167 to R173, R350) -/

/-- The values of a computation from its own captures: converted values, stale bits, saturations; the slot with its last raw
values. -/
def ownValues (k : Comp) (x : Slot) : Vector Int 5 × Vector Bool 5 × Nat × Slot :=
  let stale := Vector.ofFn fun j => srcNamed (vget k.srcs j) && (vget k.got j).isNone
  let last := Vector.ofFn fun j => if vget k.fwd j then vget x.last j else (vget k.got j).getD (vget x.last j)
  let fwdV := Vector.ofFn fun j => if vget k.fwd j || (vget k.got j).isNone then vget x.fwdV j else none
  let wrap := (selSet x).wrap
  let q : Vector Sat 5 := Vector.ofFn fun j => match vget fwdV j with
    | some v => { val := v, n := 0 }
    | none => convQ (vget k.srcs j) (wrap && j.val < 2) (vget last j)
  (q.map (·.val), stale, (q.toList.map (·.n)).sum, { x with last := last, fwdV := fwdV })

/-- The body of a SAMPLE frame (R350). -/
def sampleBody (n : Fin 4) (slot pc : Nat) (v : Vector Int 5) (stale : Vector Bool 5) : List Byte :=
  leBytes 1 n.val ++ leBytes 1 slot ++ leBytes 1 ((List.finRange 5).map (fun j => flag (vget stale j) j.val)).sum ++ [0] ++ leBytes 4 pc ++
    v.toList.flatMap (leBytesInt 4) ++ List.replicate 4 0

/-- The computation of a slot with its values (R167). `raw3` is the raw position for stage 5. -/
def slotCompute (v : Vector Int 5) (stale : Vector Bool 5) (raw3 : Int) (x : Slot) : Slot × LawOut :=
  let c := selSet x
  let run := Vector.ofFn fun j => if vget stale j then vget x.staleRun j + 1 else 0
  let ns := (stale.toList.filter id).length
  let fr := staleTerm (vget run 4) x.fric (friction c x.fricTab (vget v 4)).val (c.fricEn && x.fricTab ≠ [])
  let cg := staleTerm (vget run 3) x.cog (cogging c x.cogTab raw3).val (c.cogEn && x.cogTab ≠ [])
  let nt := (if vget run 4 = 0 then (friction c x.fricTab (vget v 4)).n else 0) + (if vget run 3 = 0 then (cogging c x.cogTab raw3).n else 0)
  let lost := vget run 0 = 3
  let x1 := { x with staleRun := run, staleN := (x.staleN + ns) % 65536, stale := decide (0 < ns), fric := fr.1, cog := cg.1 }
  let o := lawStep { y := vget v 0, s := vget v 1, x := vget v 2, fric := fr.1, cog := cg.1, wrap := c.wrap } lost (countSat nt x1)
  (o.slot, { o with events := (if lost then [(0x0201, 5, 0)] else []) ++ (if cg.2 then [(0x0205, 3, 0)] else []) ++
      (if fr.2 then [(0x0205, 3, 0x100)] else []) ++ o.events })

/-- A computation's result enters the output stage. -/
def compDone (x : Slot) (k : Comp) (was : RunSt) : Comp :=
  let c := selSet x
  { k with done := true, active := was ≠ .disabled, u := x.u, y := x.y, r := x.r, run := runCode x.run, sink := c.sink, tripPt := c.tripPt
           status := slotStatus x, trip := if x.run = .tripped then some true else if x.tripOn then some false else none }

/-- The computation `k` of a loop with its values. -/
def windowRun (l : Fin 256) (k : Comp) (v : Vector Int 5) (stale : Vector Bool 5) (n0 : Nat) (raw3 : Int) (x : Slot) (s : State) : State :=
  let n := loopEngine l
  let sat0 := x.satN
  let r := slotCompute v stale raw3 (countSat n0 { x with sat := false })
  let y : Slot := { r.1 with pc := k.pc, tripOn := r.1.run = RunSt.tripped }
  let k' : Comp := { compDone r.1 k x.run with trip := if r.1.run = RunSt.tripped then some true else if x.tripOn then some false else none }
  let ns := (stale.toList.filter id).length
  let s1 := setPrism n (fun p => { p with
    sat := holdAdd 0xFFFFFFFF p.sat ((y.satN + 65536 - sat0) % 65536)
    stale := holdAdd 0xFFFFFFFF p.stale ns
    slots := vset p.slots (loopSlot l) (tearClose { y with comps := x.comps.map fun (q : Comp) => if q.pc = k.pc && !q.done then k' else q }) }) s
  let s2 := r.2.events.foldl (fun t e => raise e.1 e.2.1 (l.val + e.2.2 : Nat) t) s1
  when r.2.trip (brkLoopTripped l.val) s2

/-- COMPUTE_WINDOW: at the deadline the oldest open computation of the slot takes its commands and runs its eight stages. A module
that follows takes the values of the SAMPLE frame; without it the computation is unusable (R350). The raw position that stage 5
of a following module needs is in no frame: a free value. -/
def execComputeWindow (l : Fin 256) (s : State) : Res :=
  let n := loopEngine l
  let x := slotGet s l
  ok (if prismRuns s n then
    match x.comps.find? fun k => !k.done && !k.tear with
    | none => s
    | some k =>
      let freed := k.cmds.any fun c => c = SlotCmd.test none
      let x1 := k.cmds.foldl slotApply x
      let s0 := when freed (brkLoopFreed l.val) (setSlotL l (fun _ => x1) s)
      if x1.run = .disabled then
        setSlotL l (fun x => tearClose { x with
          comps := x.comps.map fun q => if q.pc = k.pc && !q.done then { q with
            done := true, tripPt := (selSet x).tripPt, trip := if x.tripOn then some false else none } else q
          pc := k.pc, sat := false, lim := false, stale := false, fe := false, tripOn := false, staleRun := Vector.replicate 5 0 }) s0
      else if follows s then
        match s.mir.samples.find? fun f => f.engine = n && f.slot = loopSlot l && f.pcnt.toNat = k.pc % 2 ^ 32 with
        | some f =>
          let s1 := { s0 with mir := { s0.mir with samples := s0.mir.samples.filter fun g => !(g.engine = n && g.slot = loopSlot l && g.pcnt = f.pcnt) } }
          windowRun l k (f.values.map (·.toInt)) (Vector.ofFn fun j => f.stale.getLsbD j.val) 0 (Config.open32 s.free).toInt
            { x1 with fwdV := f.values.map fun v => some v.toInt } (drawn s1)
        | none =>
          let s1 := { s0 with mir := { s0.mir with late := holdInc 0xFF s0.mir.late, lateNow := vset s0.mir.lateNow n (vget s0.mir.lateNow n ++ [k.pc]) } }
          setSlotL l (fun x => tearClose { x with comps := x.comps.map fun q => if q.pc = k.pc && !q.done then { q with done := true } else q }) s1
      else
        let o := ownValues k x1
        let s1 := when (forwards s0 && !(s0.mir.syncDue.contains (0x10 + n.val))) (sendFrame 0x03 (sampleBody n (loopSlot l).val k.pc o.1 o.2.1)) s0
        if (vget o.2.2.2.fwdV 3).isSome then windowRun l k o.1 o.2.1 o.2.2.1 (Config.open32 s.free).toInt o.2.2.2 (drawn s1)
        else windowRun l k o.1 o.2.1 o.2.2.1 (vget o.2.2.2.last 3) o.2.2.2 s1
  else s)

/-! ## The output instant (R166, R174, R176 to R178) -/

/-- The sink value of kinds 2 and 3. -/
def sinkValue (k : SinkCfg) (u : Int) : Int := sat32 (roundShift (u * k.scale) k.sh + k.offset)

/-- The payload of a CAN sink frame. -/
def sinkPayload (k : SinkCfg) (v : Int) : List Byte :=
  let base := k.canFill.take (min 8 k.canLen) ++ List.replicate (k.canLen - 8) 0
  let w := if bits k.canPos 6 2 = 0 then leBytesInt 2 v else leBytesInt 4 v
  let at_ := bits k.canPos 0 6
  (base.take at_ ++ w ++ base.drop (at_ + w.length)).take k.canLen

/-- The CAN frame of a sink. -/
def sinkFrame (k : SinkCfg) (v : Int) : CanFrame :=
  { ide := bitOf k.canFlags 0, fdf := bitOf k.canFlags 1, brs := bitOf k.canFlags 2, esi := false, rtr := false
    ident := BitVec.ofNat 29 k.canIdent, data := sinkPayload k v }

/-- The output `u` of period `pc` reaches the sink, which the old active holds between D and LIVE (R352). -/
def sinkOut (l : Fin 256) (k : SinkCfg) (pc : Nat) (u : Int) (s : State) : State :=
  if holdsOutputs s then s
  else match k.kind with
  | 1 => if h : k.index < 16 then aioCommand ⟨k.index, h⟩ (aioFromPrism (vget s.aio ⟨k.index, h⟩).cfg u) s else s
  | 2 => publishOne k.index (wordOf (sinkValue k u)) s
  | 3 =>
    if pc % k.canDiv = 0 then
      if h : k.index < 8 then
        let r := canSubmit ⟨k.index, h⟩ (sinkFrame k (sinkValue k u)) s
        when r.2 (raise 0x0203 3 l.val) r.1
      else s
    else s
  | _ => s

/-- The trace record (R178). -/
def traceBytes (k : Comp) : List Byte := leBytes 4 k.pc ++ leBytesInt 4 k.y ++ leBytesInt 4 k.r ++ leBytesInt 4 k.u

/-- What a computation delivers to TRIP_PT (R201). -/
def compTrip (k : Comp) (s : State) : State :=
  match k.trip with
  | some b => pointUpdate k.tripPt (BitVec.ofNat 32 (b2n b)) s
  | none => s

/-- The crossing from an engine to a sink is poisoned (R383, R385). -/
def sinkPois (s : State) (n : Fin 4) (k : SinkCfg) : Bool :=
  crossPois s (8 + n.val) || (k.kind = 1 && crossPois s 21) || (k.kind = 3 && crossPois s 18)

/-- A poisoned word at the sink: a channel or a point keeps its value, a CAN frame is dropped and counted (R377). -/
def sinkPoisoned (k : SinkCfg) (pc : Nat) (s : State) : State :=
  if h : k.kind = 3 ∧ k.index < 8 ∧ pc % k.canDiv = 0 then setCan ⟨k.index, h.2.1⟩ (fun x => { x with txDrop := holdInc 0xFFFF x.txDrop }) s else s

/-- An output crosses to its sink: one that finds its bobbin full is counted in PE_SATn, and the sink keeps its value (R166, R377, R378,
R385). -/
def sinkCross (l : Fin 256) (k : Comp) (mark : Mark) (full : Bool) (s : State) : State :=
  let n := loopEngine l
  if k.sink.kind = 0 then s
  else if sinkPois s n k.sink then crossDiscard s
  else
    let r := bobCarry ⟨4 + n.val, by omega⟩ (leBytesInt 4 k.u) full s
    if !r.2 then setPrism n (fun p => { p with sat := holdInc 0xFFFFFFFF p.sat }) r.1
    else if mark = .good then sinkOut l k.sink k.pc k.u r.1
    else sinkPoisoned k.sink k.pc (when (mark = .parityBad) (parityFail (8 + n.val)) r.1)

/-- The output stage releases a computation. -/
def compOut (l : Fin 256) (k : Comp) (mark : Mark) (full : Bool) (s : State) : State :=
  let n := loopEngine l
  let s2 := sinkCross l k mark full s
  if k.tear then compTrip k s2
  else
    let s3 := when (mark = .good && !crossPois s (8 + n.val)) (pointUpdate k.sink.statusPt (BitVec.ofNat 32 (k.status + k.pc % 65536 * 65536))) s2
    let s4 := compTrip k s3
    (streamsOf s4 2).foldl (fun t p => if p.2 = l.val then streamRecord p.1 (fun _ => traceBytes k) t else t) s4

/-- OUTPUT_INSTANT: 2,048 cycles after the sample instant. A slot that is DISABLED releases nothing (R177, R178; DEDUCED, assumption
log 161). -/
def execOutputInstant (l : Fin 256) (w : SinkWord) (s : State) : Res :=
  let n := loopEngine l
  let x := slotGet s l
  ok (if prismRuns s n then
    match x.comps with
    | [] => s
    | k :: rest =>
      if !k.done then s
      else
        let s1 := setSlotL l (fun x => { x with comps := rest, outU := if k.active then k.u else x.outU
                                                live := x.live && !k.tear }) s
        let s2 := if k.active then
            (if k.tear then compOut l k w.mark w.full s1
             else setPrism n (fun p => { p with sigOut := p.sigOut ++ [(k.pc, (loopSlot l).val, k.run, k.u)] }) (compOut l k w.mark w.full s1))
          else compTrip k s1
        prismSign n k.pc s2
  else s)

/-! ## Engine faults (R183, R184) -/

/-- The fail outputs of an engine's slots, from the sink side, the last outputs released from then on (R194); CAN sinks send nothing. -/
def prismFail (n : Fin 4) (s : State) : State :=
  foldFin 64 (fun t i =>
    let x := vget (prismAt t n).slots i
    let c := selSet x
    if x.run ≠ .disabled && c.sink.kind ≠ 3 && !holdsOutputs t then
      let l : Fin 256 := ⟨n.val * 64 + i.val, by omega⟩
      setSlotL l (fun x => { x with uPrev := c.failOut, outU := c.failOut }) (sinkOut l c.sink 0 c.failOut t)
    else t) s

/-- Some slot of the engine that is not DISABLED has PAIR_CRIT. -/
def prismCrit (p : Prism) : Bool := p.slots.toList.any fun (x : Slot) => x.run ≠ .disabled && (selSet x).crit

/-- The forced points, with their values. -/
def forcedPts (s : State) : List (Nat × Word) := s.hub.force.filterMap fun p => p.2.map fun v => (p.1, v)

/-- The fail values of tasks that do not run and the fail outputs of faulted Prism engines, where a switch-over has held them back (R129,
R184, R354); forced points take their values. -/
def failsOut (s : State) : State :=
  let s1 := foldFin 8 (fun t n => when (decide ((vget t.loom n).state ≠ .running) && decide ((vget t.loom n).state ≠ .none)) (failPublish n) t)
    (publishPts (forcedPts s) s)
  foldFin 4 (fun t n => when ((prismAt t n).state = .fault) (prismFail n) t) s1

/-- A Prism engine has failed (R183, R184): with `sw` a switch-over is decided and the sinks hold; else in a pair both modules disable its
slots. The ladder then reinitialises it (R454); after an uncorrectable error of its bank the bank's test result is no longer fresh (R445). -/
def prismStop (n : Fin 4) (cause : Nat) (sw : Bool) (s : State) : State :=
  let s1 := when (!sw) (prismFail n) s
  let s2 := setPrism n (fun p => { p with
    state := .fault, fcause := cause, sigOut := []
    slots := p.slots.map fun (x : Slot) => { x with
      run := if !sw && pairedActive s then .disabled else x.run, comps := [], pend := [], live := x.live && x.tearAt.isNone, tearAt := none } }) s1
  let s3 := raise 0x0202 7 cause { s2 with mir := { s2.mir with noCompare := s2.mir.noCompare ++ [0x10 + n.val] } }
  climb (8 + n.val) 1000 (when (cause = 2) (unitBad (0x20 + 8 + n.val)) <|
    if sw then handOver 1 false s3 else when (tellsPartner s3) (faultTell (8 + n.val) (prismAt s n).pcnt false) s3)

/-- A Prism engine fault: PAIR_CRIT on an ACTIVE module with a STANDBY partner asks for a switch-over (R184). -/
def prismFault (n : Fin 4) (cause : Nat) (s : State) : State := prismStop n cause (prismCrit (prismAt s n) && mayHandOver s) s

/-- PRISM_ENGINE_FAULT. -/
def execPrismEngineFault (n : Fin 4) (cause : Fin 5) (s : State) : Res :=
  ok (when (prismRuns s n && cause.val ≠ 0) (prismFault n cause.val) s)

/-! ## The slot window (R186) -/

/-- PE_SSEL takes a snapshot of a loop; one on an absent engine gives zeros. -/
def slotWindow (loop : Nat) (s : State) : State :=
  if h : loop < 256 ∧ loop / 64 < prismCount s then
    let x := slotGet s ⟨loop, h.1⟩
    { s with win := { loop := loop, valid := true, sstat := slotStatus x + x.pc % 65536 * 65536, y := x.y, r := x.r, u := x.u
                      i := Int.fdiv x.i (2 ^ 32), scnt := x.staleN * 65536 + x.satN } }
  else { s with win := { loop := loop, valid := true } }

end Sys2Proof.Machine
end

