-- ==== Sys2Proof/Machine/Security.lean ====
section
/-! DEFINITION. The secure session of the host link (R35 to R38), the life cycle (R396 to R401), the session of the service port
(R400, R405). -/

namespace Sys2Proof.Machine

/-- The lock after three failures: 60 s (R37, R400), in µs. -/
def sessLockUs : Nat := 60000000

/-! ## The host link session (R36 to R38) -/

/-- Change the session. -/
def setSess (f : Session → Session) (s : State) : State := { s with shu := { s.shu with sess := f s.shu.sess } }

/-- The ring pairs of the secure world go to DISABLED. -/
def secureRingsOff (s : State) : State := foldFin 64 (fun t r => when (ringSecure t r) (disableRing r) t) s

/-- An open session ends. -/
def sessEnd (s : State) : State :=
  if s.shu.sess.state = .open then secureRingsOff (setSess (fun x => { x with state := .idle }) s) else s

/-- OPEN = 1: a session that is open ends, and a fresh nonce is drawn. Discarded while no key is provisioned (R396), during a
lock, and while a check runs. -/
def sessOpen (s : State) : State :=
  if !s.sec.keySet || s.shu.sess.state = .locked || s.shu.sess.checking then s
  else drawn (setSess (fun x => { x with state := .challenged, lastFail := false, nonce := Config.random128 s.free }) (sessEnd s))

/-- CLOSE = 1: ends the session, or abandons an attempt that is not being checked. -/
def sessClose (s : State) : State :=
  if s.shu.sess.state = .challenged && !s.shu.sess.checking then setSess (fun x => { x with state := .idle }) s else sessEnd s

/-- Word `i` of a 256-bit number set. -/
def setWord256 (x : BitVec 256) (i : Nat) (v : Word) : BitVec 256 :=
  (x &&& ~~~((0xFFFFFFFF : BitVec 256) <<< (32 * i))) ||| (v.setWidth 256 <<< (32 * i))

/-- A write of response word `i`; the last one starts the check. -/
def sessResp (i : Nat) (v : Word) (s : State) : State :=
  if s.shu.sess.state = .challenged && !s.shu.sess.checking then
    setSess (fun x => { x with resp := setWord256 x.resp i v, checking := x.checking || i = 7 }) s
  else s

/-- The right answer of an attempt: HMAC-SHA-256 under the station key over nonce, serial number and COUNT. -/
def sessAnswer (s : State) (nonce : BitVec 128) (count : Nat) (mark : List Byte) : List Byte :=
  hmac (bvBytes 32 s.sec.key) (bvBytes 16 nonce ++ bvBytes 8 s.ident.serial ++ leBytes 4 count ++ mark)

/-- SESSION_CHECK_END: the check in HK1 ends (R36, R37). -/
def execSessionCheckEnd (s : State) : Res :=
  let x := s.shu.sess
  ok (if hkOn s && x.checking then
    let s1 := setSess (fun x => { x with checking := false, count := (x.count + 1) % 65536 }) s
    if bvBytes 32 x.resp = sessAnswer s x.nonce x.count [] then setSess (fun x => { x with state := .open, fails := 0 }) s1
    else
      let s2 := raise 0x0B01 4 0 (setSess (fun x => { x with state := .idle, lastFail := true, fails := x.fails + 1 }) s1)
      if 3 ≤ s2.shu.sess.fails then raise 0x0B02 5 0 (setSess (fun x => { x with state := .locked, lockUs := sessLockUs }) s2) else s2
  else s)

/-- The lock of the session ends: the failures in a row count from 0 again (R37). -/
def sessUnlock (s : State) : State := when (s.shu.sess.state = .locked) (setSess fun x => { x with state := .idle, fails := 0, lockUs := 0 }) s

/-- SESSION_LOCK_END (R37). -/
def execSessionLockEnd (s : State) : Res := ok (sessUnlock s)

/-! ## The service port's session (R400, R405) -/

/-- Change the service port. -/
def setSvc (f : Svc → Svc) (s : State) : State := { s with svc := f s.svc }

/-- A key or presence session, or a challenge. -/
def svcOpen (v : Svc) : Bool := v.sess = .key || v.sess = .presence

/-- The session, or the attempt in hand, ends. -/
def svcEnd (s : State) : State :=
  setSvc (fun v => { v with sess := if v.sess = .locked then .locked else .none, endAfter := false }) s

/-! ## Life-cycle states (R397 to R399) -/

/-- The state of a code. -/
def lifeOf (n : Nat) : Option Life :=
  match n with
  | 0 => some .manufacture
  | 1 => some .commission
  | 2 => some .service
  | 3 => some .operate
  | 4 => some .decommissioned
  | _ => none

/-- Every slot of an engine is disabled with its fail output. -/
def slotsOff (n : Fin 4) (s : State) : State :=
  setPrism n (fun p => { p with slots := p.slots.map fun (x : Slot) =>
    if x.run = .disabled then x else { x with run := .disabled, comps := [], pend := [] } }) (prismFail n s)

/-- Everything that the module drives goes off: slots disabled, digital switches off, CAN channels in LISTEN, brakes engaged; passive
transmitters close their bypass in a pair, and drive 3,600 µA in ALONE (R448 step 1). The caller has made `drives` false. -/
def fieldOff (s : State) : State :=
  let s1 := foldFin 4 (fun t n => slotsOff n t) s
  let s2 := dioEvalAll s1
  let s3 := if s2.mir.decided && s2.mir.role = .alone then foldFin 16 (fun t c => modAio c (fun a => { a with cmdKnown := false }) t) s2 else aioBypassAll true s2
  brkEngageAll (canListenAll s3)

/-- Every task stops, with its fail values. -/
def tasksStop (s : State) : State :=
  foldFin 8 (fun t n => if (vget t.loom n).state = .running then taskLeave n .stopped 0 true t else t) s

/-- Entry to DECOMMISSIONED (R399). -/
def decommission (s : State) : State :=
  let s2 := fieldOff (tasksStop s)
  { s2 with
    sec := { s2.sec with keySet := false, key := 0 }
    brk := { s2.brk with hasPw := false, salt := 0, hash := 0 }
    zor := { s2.zor with store := none, chans := [], retA := {}, retB := {} } }

/-- In a pair that synchronises, a change of the life-cycle state that makes the two modules differ ends the synchronisation (R401). An ACTIVE
module tells a partner that waits in phase 0 what it is now (assumption log 179). -/
def lifePair (s : State) : State :=
  if !(mirPresent s) then s
  else if s.mir.role = .syncing && s.mir.syncph ≠ 0 && lifeDiffers s then lifeEvent (syncAbandon s)
  else if s.mir.role = .active && s.mir.prole = 1 then
    (if s.mir.syncph ≠ 0 && lifeDiffers s then syncDrop s else if s.mir.syncph = 0 then syncSeg 0 (helloBytes s) (drawn s) else s)
  else s

/-- An accepted change of the life-cycle state. A service session whose own command changes it ends after the response. -/
def lifeChange (l : Life) (own : Bool) (s : State) : State :=
  let old := lifeCode s.sec.life
  let s1 := vector64 { s with sec := { s.sec with life := l, pend := false }, shu := { s.shu with lcChg := true } }
  let s2 := if own then setSvc (fun v => { v with endAfter := true }) (sessEnd s1) else svcEnd (sessEnd s1)
  let s3 := raise 0x0B07 5 (old * 16 + lifeCode l : Nat) s2
  let s4 := lifePair s3
  if l = .decommissioned then decommission s4 else s4

/-- The transitions of R398 that host software can ask for: whether each must be confirmed. -/
def lifeTransition (a b : Life) : Option Bool :=
  match a, b with
  | .commission, .operate => some false
  | .operate, .service => some true
  | .service, .operate => some false
  | .service, .commission => some true
  | .commission, .decommissioned => some true
  | .service, .decommissioned => some true
  | .operate, .decommissioned => some true
  | _, _ => none

/-- The conditions of R398 hold. -/
def lifeCondition (s : State) (a b : Life) : Bool :=
  !(a = .commission && b = .operate) || (s.sec.keySet && s.zor.imageCrc ≠ 0 && (s.brk.hasPw || brkCount s = 0))

/-- Rolling BIST runs: on a STANDBY module that permits it, with a bank owned by NONE (R451). -/
def rollActive (s : State) : Bool :=
  s.mir.decided && s.mir.role = .standby && s.pwr.rollEn && s.hed.banks.toList.any fun (k : Bank) => k.owner = 0x1F || k.owner = 0x10

/-- The BIST engine holds a bank or is testing. -/
def bistActive (s : State) : Bool := s.hed.banks.toList.any (fun (k : Bank) => k.owner = 0x10) || s.pwr.testing ≠ [] || rollActive s

/-- A write to SEC_LCREQ (R399). -/
def lcRequest (v : Word) (s : State) : State :=
  let refuse (c : Nat) (s : State) : State := { s with sec := { s.sec with cause := c } }
  let t := bits v.toNat 0 3
  if bits v.toNat 16 16 ≠ 0x5A3C then refuse 7 s
  else if s.sec.pend then refuse 6 s
  else
    let s1 := { s with sec := { s.sec with target := t } }
    match lifeOf t with
    | none => refuse 1 s1
    | some l =>
      match lifeTransition s.sec.life l with
      | none => refuse 1 s1
      | some confirm =>
        if !lifeCondition s s.sec.life l then refuse 2 s1
        else if s.mir.decided && (s.mir.role = .active || s.mir.role = .standby) then refuse 3 s1
        else if bistActive s then refuse 5 s1
        else if confirm then { s1 with sec := { s1.sec with pend := true } }
        else lifeChange l false s1

/-- LC_CONFIRM_TIMEOUT: 60 s have passed without confirmation. -/
def execLcConfirmTimeout (s : State) : Res :=
  ok (if hkOn s && s.sec.pend then { s with sec := { s.sec with pend := false, cause := 4 } } else s)

/-! ## The service port's timers -/

/-- SERVICE_SESSION_IDLE_TIMEOUT: 10 minutes without a request. -/
def execServiceSessionIdleTimeout (s : State) : Res := ok (when (svcOpen s.svc) svcEnd s)

/-- USB_RESET_OR_VBUS_LOSS; without VBUS the pull-up leaves the bus (R402). -/
def execUsbResetOrVbusLoss (vbusLost : Bool) (s : State) : Res :=
  ok (when vbusLost (setSvc fun v => { v with vbus := false, pullup := false }) (svcEnd s))

/-- The lock of the port ends. -/
def svcUnlock (s : State) : State := when (s.svc.sess = .locked) (setSvc fun v => { v with sess := .none, fails := 0, lockUs := 0 }) s

/-- SERVICE_PORT_LOCK_END (R400). -/
def execServicePortLockEnd (s : State) : Res := ok (svcUnlock s)

/-- PRESENCE_WINDOW_END: 600 s after power-good. -/
def execPresenceWindowEnd (s : State) : Res := ok (setSvc (fun v => { v with window := false }) s)

/-- The PCI device ID (R469). -/
def deviceId (v : Variant) : Nat :=
  match v with
  | .hz9248 => 0x9248
  | .hz9240 => 0x9240
  | .hz9232 => 0x9232

/-- The ASCII code of a hexadecimal digit, upper case. -/
def hexChar (n : Nat) : Byte := BitVec.ofNat 8 (if n < 10 then 48 + n else 55 + n)

/-- What the service port's descriptors give (R402). -/
def usbDevice (s : State) : UsbDevice :=
  { vendor := 0x1F3D, product := deviceId s.ident.variant, bcdDevice := bits s.ident.fw.toNat 16 16
    serial := (List.range 16).map fun i => hexChar (bits s.ident.serial.toNat (60 - 4 * i) 4)
    attributes := 0xC0, maxPower := 1, class_ := 0xFF, subclass := 0x01, protocol := 0x01
    bulkOut := 0x01, bulkIn := 0x81, packetHigh := 512, packetFull := 64 }

/-- The service port connects to the bus, by its pull-up, where VBUS is present and HK1 runs (R402). -/
def usbAttach (s : State) : State :=
  if s.svc.vbus && hkOn s then emit (.usbDevice (usbDevice s)) (setSvc (fun v => { v with pullup := true }) s)
  else setSvc (fun v => { v with pullup := false }) s

/-- VBUS_CONNECT (R402). -/
def execVbusConnect (s : State) : Res := ok (if s.svc.vbus && s.svc.pullup then s else usbAttach (setSvc (fun v => { v with vbus := true }) s))

end Sys2Proof.Machine
end

