-- ==== Sys2Proof/Machine/Rings.lean ====
section
/-! DEFINITION. Ring pairs in host memory (02_shuttle_host_interface.md R34, R39 to R54): their pages, arming, doorbells, the fetch of
descriptors, completions. -/

namespace Sys2Proof.Machine

/-! ## The pages (R39, R41 to R45) -/

/-- An access to a ring pair page through a function: whether it reaches the page, and the state with event 0x0B03 where the page is
of the other world. Function 1 answers only with an open session (R35). -/
def ringReach (fn : Func) (r : Fin 64) (write : Bool) (s : State) : Bool × State :=
  if fn = .f1 && s.shu.sess.state ≠ .open then (false, s)
  else if ringFn s r = fn then (true, s)
  else (false, when write (raise 0x0B03 4 r.val) s)

/-- The new submission tail (R45, R51). -/
def ringTail (r : Fin 64) (v : Word) (s : State) : State :=
  let g := vget s.shu.rings r
  let i := v.toNat % 4096
  if g.state ≠ .running then s
  else if 2 ^ g.sqLog2 ≤ i then stopRing r 2 s
  else setRing r (fun g => { g with sqTail := i }) s

/-- The completion entries that the host has consumed (R45, R49). DESIGN CHOICE: a value equal to CQ_HEAD releases none (assumption
log 159). -/
def ringConsume (r : Fin 64) (v : Word) (s : State) : State :=
  let g := vget s.shu.rings r
  let i := v.toNat % 4096
  let n := 2 ^ g.cqLog2
  if g.state ≠ .running then s
  else if n ≤ i then stopRing r 2 s
  else setRing r (fun g => { g with cqHead := i, cqUsed := g.cqUsed - (i + n - g.cqHead) % n }) s

/-- The conditions of R40; the bases are aligned to 4 KiB by their form. -/
def ringSound (g : Ring) : Bool := 4 ≤ g.sqLog2 && g.sqLog2 ≤ 12 && g.cqLog2 ≤ 12 && g.sqLog2 ≤ g.cqLog2

/-- A write to SHU_RP_ARM (R44), accepted while READY is 1 (R73). -/
def ringArm (r : Fin 64) (v : Word) (s : State) : State :=
  let g := vget s.shu.rings r
  let may := g.state = .disabled || g.state = .halted || (g.state = .stopped && inflight s r = 0)
  if !s.shu.ready || !may then s
  else if v.toNat ≠ epoch s then setRing r (fun g => { g with fault := true, cause := 5 }) s
  else if !ringSound g then setRing r (fun g => { g with fault := true, cause := 1 }) s
  else setRing r (fun g => { g with
    state := .running, fault := false, sqTail := 0, sqHead := 0, cqHead := 0, cqTail := 0, cqUsed := 0, phase := true }) s

/-- SHU_RP_CFG (R42). -/
def ringCfg (g : Ring) : Nat := fld g.irqMod 16 8 + fld g.cqLog2 8 4 + fld g.sqLog2 0 4

/-- STATE of SHU_RP_STAT. -/
def ringStateCode : RingState → Nat
  | .disabled => 0
  | .running => 1
  | .halted => 2
  | .stopped => 3

/-- A register of a ring pair page (R41); 0 at a reserved offset. -/
def ringRead (s : State) (r : Fin 64) (off : Nat) : Nat :=
  let g := vget s.shu.rings r
  match off with
  | 0x000 => g.sqTail
  | 0x004 => g.cqHead
  | 0x008 => g.sqHead
  | 0x00C => g.cqTail
  | 0x010 => bits g.sqBase 0 32
  | 0x014 => bits g.sqBase 32 32
  | 0x018 => bits g.cqBase 0 32
  | 0x01C => bits g.cqBase 32 32
  | 0x020 => ringCfg g
  | 0x028 => fld (inflight s r) 16 16 + fld g.cause 4 4 + flag g.fault 3 + ringStateCode g.state
  | _ => 0

/-- The low or the high half of a 64-bit base replaced. -/
def setHalf (old : Nat) (high : Bool) (v : Nat) : Nat := if high then bits old 0 32 + v * 2 ^ 32 else bits old 32 32 * 2 ^ 32 + v

/-- A write to a register of a ring pair page (R41, R42). -/
def ringWrite (r : Fin 64) (off : Nat) (v : Word) (s : State) : State :=
  let base (f : Ring → Ring) : State := if (vget s.shu.rings r).state = .disabled then setRing r f s else s
  match off with
  | 0x000 => ringTail r v s
  | 0x004 => ringConsume r v s
  | 0x010 => base fun g => { g with sqBase := setHalf g.sqBase false (v.toNat / 4096 * 4096) }
  | 0x014 => base fun g => { g with sqBase := setHalf g.sqBase true v.toNat }
  | 0x018 => base fun g => { g with cqBase := setHalf g.cqBase false (v.toNat / 4096 * 4096) }
  | 0x01C => base fun g => { g with cqBase := setHalf g.cqBase true v.toNat }
  | 0x020 => base fun g => { g with irqMod := bits v.toNat 16 8, cqLog2 := bits v.toNat 8 4, sqLog2 := bits v.toNat 0 4 }
  | 0x024 => ringArm r v s
  | 0x02C => when (v.getLsbD 0) (disableRing r) s
  | _ => s

/-- A write to a page through a function, in the host link domain. -/
def ringAccess (fn : Func) (r : Fin 64) (off : Nat) (v : Word) (s : State) : State :=
  if linkOn s then
    let p := ringReach fn r true s
    if p.1 then ringWrite r off v p.2 else p.2
  else s

/-- SUBMISSION_DOORBELL (R45, R51). -/
def execSubmissionDoorbell (fn : Func) (rp : Fin 64) (v : Word) (s : State) : Res := ok (ringAccess fn rp 0x000 v s)

/-- COMPLETION_DOORBELL (R45, R49). -/
def execCompletionDoorbell (fn : Func) (rp : Fin 64) (v : Word) (s : State) : Res := ok (ringAccess fn rp 0x004 v s)

/-- SHU_RP_ARM (R44). -/
def execShuRpArm (fn : Func) (rp : Fin 64) (v : Word) (s : State) : Res := ok (ringAccess fn rp 0x024 v s)

/-- SHU_RP_CTRL_DISABLE: a write of bit 0 (R44). -/
def execShuRpCtrlDisable (fn : Func) (rp : Fin 64) (s : State) : Res := ok (ringAccess fn rp 0x02C 1 s)

/-- FUNCTION_LEVEL_RESET (R34): the ring pairs of the function's world; on function 1 the session closes. -/
def execFunctionLevelReset (fn : Func) (s : State) : Res :=
  ok (if linkOn s then
    let s1 := foldFin 64 (fun t r => when (ringFn t r = fn) (disableRing r) t) s
    when (fn = .f1) sessClose s1
  else s)

/-! ## The fetch (R46, R52) -/

/-- A descriptor from its 32 bytes. -/
def descRead (b : List Byte) : Desc :=
  { op := leAt b 0 1, flags := leAt b 1 1, tag := leAt b 2 2, handle := leAt b 4 2, arg0 := leAt b 6 2, addr := leAt b 8 8, arg1 := leAt b 16 4
    arg2 := leAt b 20 4, arg3 := leAt b 24 8 }

/-- The 32 bytes of a descriptor. -/
def descBytes (d : Desc) : List Byte :=
  leBytes 1 d.op ++ leBytes 1 d.flags ++ leBytes 2 d.tag ++ leBytes 2 d.handle ++ leBytes 2 d.arg0 ++ leBytes 8 d.addr ++ leBytes 4 d.arg1 ++
    leBytes 4 d.arg2 ++ leBytes 8 d.arg3

/-- Descriptors that a ring holds and the module has not fetched. -/
def ringAvail (g : Ring) : Nat := (g.sqTail + 2 ^ g.sqLog2 - g.sqHead) % 2 ^ g.sqLog2

/-- The mover may fetch from the ring: RUNNING, not empty, a free completion entry (R49). -/
def ringFetchable (g : Ring) : Bool := g.state = .running && 0 < ringAvail g && g.cqUsed < 2 ^ g.cqLog2

/-- The ring that is served next: the first one after the last one served. -/
def ringNext (s : State) : Option (Fin 64) :=
  ((List.finRange 64).map fun i => Fin.ofNat 64 (s.shu.lastRing.val + 1 + i.val)).find? fun r => ringFetchable (vget s.shu.rings r)

/-- One fetched descriptor joins HK0's queue; a parity failure of its words is counted (R377). -/
def takeDesc (r : Fin 64) (s : State) (b : Fetched) : State :=
  let s := when (b.mark = .parityBad) (parityFail 12) s
  { s with shu := { s.shu with
    nextNo := s.shu.nextNo + 1
    flights := s.shu.flights ++ [{ no := s.shu.nextNo, ring := r, desc := descRead b.bytes, poison := b.mark ≠ .good }] } }

/-- DESCRIPTOR_FETCH: `raw` is what host memory holds from SHU_SQ_HEAD upwards, at most eight descriptors (R52). -/
def execDescriptorFetch (raw : List Fetched) (s : State) : Res :=
  ok (if linkOn s && hkOn s then
    match ringNext s with
    | some r =>
      let g := vget s.shu.rings r
      let l := raw.take (min 8 (ringAvail g))
      let s1 := l.foldl (takeDesc r) s
      setRing r (fun g => { g with sqHead := (g.sqHead + l.length) % 2 ^ g.sqLog2 }) { s1 with shu := { s1.shu with lastRing := r } }
    | none => s
  else s)

/-- RING_HOST_MEMORY_ERROR: an access to a ring in host memory fails (R43). -/
def execRingHostMemoryError (rp : Fin 64) (write : Bool) (s : State) : Res :=
  ok (when (linkOn s && (vget s.shu.rings rp).state = .running) (stopRing rp (if write then 4 else 3)) s)

/-! ## Completions and interrupts (R48, R49, R53) -/

/-- COMPLETION_WRITE. -/
def execCompletionWrite (rp : Fin 64) (s : State) : Res := ok (when (linkOn s) (writeCompletion rp) s)

/-- IRQ_MODERATION_EXPIRY: a held message goes out and a new interval runs; otherwise the interval ends (R53). -/
def execIrqModerationExpiry (rp : Fin 64) (s : State) : Res :=
  let g := vget s.shu.rings rp
  ok (if linkOn s && g.modRun then
    if g.modPend then msix (ringFn s rp) rp.val (setRing rp (fun g => { g with modPend := false }) s)
    else setRing rp (fun g => { g with modRun := false }) s
  else s)

end Sys2Proof.Machine
end

