-- ==== Sys2Proof/Machine/Channels.lean ====
section
/-! DEFINITION. Handles and channels (02_shuttle_host_interface.md R60 to R65): the handle table, CREATE and its checks, what each
kind does when it comes to life, DESTROY and the end of a teardown, the configuration store's channel set. -/

namespace Sys2Proof.Machine

/-! ## The handle table (R60, R61) -/

/-- The entry of an index; none for an index never created since reset. -/
def handleEnt (s : State) (idx : Nat) : Option HEntry := mapGet s.shu.handles idx

/-- The handle of an index: generation and index. -/
def handleNo (idx : Nat) (e : HEntry) : Nat := e.gen * 8192 + idx

/-- Write the entry of an index. -/
def setHandle (idx : Nat) (e : HEntry) (s : State) : State := { s with shu := { s.shu with handles := mapSet s.shu.handles idx e } }

/-- The generation after `g` (R60). -/
def nextGen (g : Nat) : Nat := if g = 7 then 1 else g + 1

/-- What a handle names: a live channel of a kind that suits, or the status to report (R61). -/
inductive HLook where
  | found (idx : Nat) (e : HEntry)
  | bad (status : Nat)
deriving DecidableEq, Repr

/-- Look a handle up; an empty list of kinds suits every kind. -/
def handleLook (s : State) (h : Nat) (kinds : List Nat) : HLook :=
  let idx := h % 8192
  match handleEnt s idx with
  | none => .bad stBadHandle
  | some e =>
    if h = 0 || (e.st = .free && h / 8192 = e.gen) || (kinds ≠ [] && !(kinds.contains e.kind)) then .bad stBadHandle
    else if h / 8192 ≠ e.gen || e.st = .destroying then .bad stStaleGen
    else .found idx e

/-- RESULT of HANDLE_QUERY (R66). -/
def handleQuery (s : State) (idx : Nat) : Nat :=
  match handleEnt s idx with
  | none => 0
  | some e => e.kind + fld e.gen 4 3 + fld (match e.st with
      | .free => 0
      | .live => 1
      | .destroying => 2) 8 2 + fld e.target 16 16

/-- Indices of a kind that are not FREE: they count towards the limit and bind their targets (R64). -/
def heldHandles (s : State) (kind : Nat) : List (Nat × HEntry) := s.shu.handles.filter fun p => p.2.kind = kind && p.2.st ≠ .free

/-- The CRC-32 that CREATE compares: of the block, of set A for a loop slot, 0 for none (R63). -/
def blockCrc (kind : Nat) (b : List Byte) : Nat := if b = [] then 0 else crc32n (if kind = 2 then b.take 208 else b)

/-! ## A channel comes to life -/

/-- The words of a program or constant pool as a sparse map. -/
def wordMap (l : List Word) : SMap Word := (l.zipIdx.filter fun p => p.1 ≠ 0).map fun p => (p.2, p.1)

/-- An engine loads its task, with data and a state; a faulted engine, or one under test, stays what it is (R128, R134). -/
def loomLoad (n : Fin 8) (t : TaskImg) (data : LData) (st : TaskSt) (s : State) : State :=
  drainHub <| setLoom n (fun (e : Loom) => { loomHalt e with
    task := some t, prog := wordMap t.prog, kw := wordMap t.const, com := data, miniv := t.miniv, budget := t.budget, crit := t.crit
    state := if e.state = .fault || e.state = .test then e.state else st, firstDue := false, stops := [], stopReq := false, teardown := false
    patches := [] }) s

/-- The task of an engine in the running image. -/
def runningTask (s : State) (n : Fin 8) : Option (Image × TaskImg) := s.zor.running.bind fun img => (vget img.tasks n).map fun t => (img, t)

/-- A live channel of a kind names a target. -/
def liveTarget (s : State) (kind target : Nat) : Bool := s.shu.handles.any fun p => p.2.kind = kind && p.2.target = target && p.2.st = .live

/-- Engine `n` is loaded from an image: its task STOPPED, or NONE without a live channel; an engine for which the image has no task holds
none. The data are the task's, not the channel's (assumption log 29). -/
def engineLoad (img : Image) (n : Fin 8) (data : TaskImg → LData) (s : State) : State :=
  match vget img.tasks n with
  | some t => loomLoad n t (data t) (if liveTarget s 1 n.val then .stopped else .none) s
  | none => drainHub <| setLoom n (fun (e : Loom) => { loomHalt e with task := none, prog := [], kw := [] }) s

/-- A logic task channel opens: the task, which the engine holds already, is STOPPED (R104). -/
def taskOpen (n : Fin 8) (s : State) : State := setLoom n (fun e => if e.state = .none then { e with state := .stopped } else e) s

/-- A loop slot opens, DISABLED, with set A selected and its tables (R180, R191). -/
def slotOpen (l : Fin 256) (d : ChanDef) (s : State) : State :=
  let g := loopSets d.block
  setSlotL l (fun (_ : Slot) => { live := true, setA := g.1, setB := g.2, fricTab := d.fric, cogTab := d.cog }) s

/-- A channel of kind `d.kind` opens at index `idx`. -/
def chanOpen (idx : Nat) (d : ChanDef) (s : State) : State :=
  let t := d.target
  match d.kind with
  | 1 => taskOpen (Fin.ofNat 8 t) s
  | 2 => slotOpen (Fin.ofNat 256 t) d s
  | 3 => dioApply (Fin.ofNat 4 t) (dioRead d.block).statusPt (dioRead d.block).chs s
  | 4 => aioApply (Fin.ofNat 16 t) (aioRead d.block) s
  | 5 => encApply (Fin.ofNat 4 t) (encRead d.block) s
  | 6 => filtLoad (Fin.ofNat 8 t) (filtTable d.filt) (canCreate (Fin.ofNat 8 t) (canRead d.block) s)
  | 7 => { s with shu := { s.shu with streams := mapSet s.shu.streams idx {} } }
  | 9 => { s with hub := { s.hub with force := mapSet s.hub.force t none } }
  | _ => s

/-- The channel enters the handle table and opens; the configuration store records it (R65). -/
def chanMake (idx gen : Nat) (d : ChanDef) (s : State) : State :=
  let s1 := setHandle idx { kind := d.kind, target := d.target, gen := gen, st := .live, crc := blockCrc d.kind d.block, secure := d.secure } s
  chanOpen idx d { s1 with zor := { s1.zor with chans := mapSet s1.zor.chans idx d } }

/-- The generation that a CREATE of an index gives (R60). -/
def createGen (s : State) (idx : Nat) : Nat := ((handleEnt s idx).map fun (e : HEntry) => e.gen).getD 1

/-! ## CREATE (R57, R58, R62 to R64) -/

/-- The reason to deny a CREATE of kind `kind` on `target` with block `b`; 0 for none. -/
def createDeny (s : State) (kind target : Nat) (b : List Byte) : Nat :=
  let c := liveCtx s
  let absent := targetAbsent (idCap s.ident.variant) kind target
  let frame : Nat := (prismAt s (Fin.ofNat 4 (target / 64))).nslot
  if blockReserved kind b && (blockLens kind).contains b.length then 2
  else if within 1 9 kind && targetOk kind target && (blockLens kind).contains b.length &&
      (kind ≠ 1 || (target < 8 && (runningTask s (Fin.ofNat 8 target)).isSome)) &&
      (kind ≠ 2 || absent || target % 64 < frame) &&
      (kind ≠ 9 || (c.pt target).kind = 3 || (c.pt target).kind = 4) &&
      blockOk c kind target ((liveAio s target).map fun (g : AioCfg) => g.cmode) b then 0
  else 3

/-- The index is LIVE with the same kind, target and configuration (R63). -/
def createRepeats (s : State) (idx kind target : Nat) (b : List Byte) : Bool :=
  match handleEnt s idx with
  | some e => e.st = .live && e.kind = kind && e.target = target && e.crc = blockCrc kind b
  | none => false

/-- The handle that blocks a CREATE: of the index itself, or of the index that holds the target; sixteen recorder cursors share
their target (R59, R62, R64). -/
def createBlocked (s : State) (idx kind target : Nat) : Option Nat :=
  match handleEnt s idx with
  | some e =>
    if e.st ≠ .free then some (handleNo idx e)
    else ((heldHandles s kind).find? fun p => kind ≠ 8 && p.2.target = target).map fun p => handleNo p.1 p.2
  | none => ((heldHandles s kind).find? fun p => kind ≠ 8 && p.2.target = target).map fun p => handleNo p.1 p.2

/-! ## DESTROY and the teardown (R62, R64) -/

/-- The posted buffers' descriptors end, with the bytes written into them; the mover discards the rest of a packet under way (R379). -/
def streamEnd (idx status : Nat) (s : State) : State :=
  let st : Stream := mapGetD {} s.shu.streams idx
  bobAbandon 8 (st.bufs.foldl (fun t (b : PostedBuf) => complete b.no status b.used t) (setStream idx (fun x => { x with bufs := [] }) s))

/-- The engine of the task that writes a point; none where no task does. -/
def pointWriter (s : State) (pt : Nat) : Option (Fin 8) := let w := (pointDef s pt).writer; if h : w < 8 then some ⟨w, h⟩ else none

/-- The writer of a point is a RUNNING task. -/
def writerRuns (s : State) (pt : Nat) : Option (Fin 8) := (pointWriter s pt).filter fun n => (vget s.loom n).state = .running

/-- The value that a Prism sink last gave a point: of the live loop that names it, its output or, DISABLED, its fail output; the
point's fail value where no loop has released one (assumption log 20). -/
def sinkWorking (s : State) (pt : Nat) : Word :=
  match (List.finRange 256).find? fun l => let x := slotGet s l; x.live && x.hasRun && (selSet x).sink.kind = 2 && (selSet x).sink.index = pt with
  | some l =>
    let x := slotGet s l
    let c := selSet x
    wordOf (sinkValue c.sink (if x.run = .disabled || (prismAt s (loopEngine l)).state ≠ .run then c.failOut else x.outU))
  | none => (pointDef s pt).value

/-- The value that the writer of a point holds for it: the working value of a task that runs, and the fail value of one that does
not. -/
def workingValue (s : State) (pt : Nat) : Word :=
  match pointWriter s pt with
  | some n => if (vget s.loom n).state = .running then mapGetD 0 (vget s.loom n).com.work pt else (pointDef s pt).value
  | none => if (pointDef s pt).writer = 0x10 then sinkWorking s pt else (pointDef s pt).value

/-- The slot of a DESTROY: it disables at the end of the present period, in a pair at the period count at which both modules apply it (R71);
at once where its engine does not run. -/
def slotClose (l : Fin 256) (count : Option Nat) (s : State) : State :=
  let p := prismAt s (loopEngine l)
  let s1 := brkLoopFreed l.val s
  if prismRuns s (loopEngine l) then setSlotL l (fun x => { x with tearAt := some (match count with
    | some k => pcntFull p.pcnt k
    | none => pcntNext p.pcnt) }) s1
  else setSlotL l (fun (_ : Slot) => {}) s1

/-- A force entry leaves: at the writer's next publish, or at once (R62). -/
def forceClose (pt : Nat) (fwd : Option Nat) (s : State) : State :=
  match writerRuns s pt with
  | some n => { s with hub := { s.hub with wait := s.hub.wait ++ [{ engine := n.val, no := 0, pt := pt, set := none, fwd := fwd, gone := true }] } }
  | none => publishOne pt (workingValue s pt) { s with hub := { s.hub with force := mapDel s.hub.force pt } }

/-- What a DESTROY at index `idx` starts (R62). -/
def chanClose (idx : Nat) (e : HEntry) (fwd count : Option Nat) (s : State) : State :=
  let t := e.target
  match e.kind with
  | 1 =>
    let n : Fin 8 := Fin.ofNat 8 t
    if (vget s.loom n).state = .running then stopNow n (setLoom n (fun x => { x with teardown := true }) s) else s
  | 2 => slotClose (Fin.ofNat 256 t) count s
  | 3 => dioDestroy (Fin.ofNat 4 t) s
  | 4 => aioDestroy (Fin.ofNat 16 t) s
  | 5 => encDestroy (Fin.ofNat 4 t) s
  | 6 => canDestroy (Fin.ofNat 8 t) s
  | 7 => streamEnd idx stAborted s
  | 8 => freezeDrop idx s
  | 9 => forceClose t fwd s
  | _ => s

/-- DESTROY is accepted: the index becomes DESTROYING with the next generation, and the teardown starts. -/
def chanDestroy (idx : Nat) (fwd count : Option Nat) (s : State) : State :=
  match handleEnt s idx with
  | some e =>
    let s1 := setHandle idx { e with st := .destroying, gen := nextGen e.gen } s
    chanClose idx e fwd count { s1 with zor := { s1.zor with chans := mapDel s1.zor.chans idx } }
  | none => s

/-- The teardown has nothing left to do (R62). -/
def tornDown (s : State) (e : HEntry) : Bool :=
  match e.kind with
  | 1 => let x := vget s.loom (Fin.ofNat 8 e.target); x.state ≠ .running && !x.teardown
  | 2 => let x := slotGet s (Fin.ofNat 256 e.target); x.tearAt.isNone && x.comps = []
  | 9 => !(s.hub.wait.any fun w => w.gone && w.pt = e.target)
  | _ => true

/-- What the end of a teardown leaves of the channel. -/
def chanGone (idx : Nat) (e : HEntry) (s : State) : State :=
  match e.kind with
  | 1 => setLoom (Fin.ofNat 8 e.target) (fun x => { x with
      state := if x.state = .fault || x.state = .test then x.state else .none, patches := [] }) s
  | 2 => setSlotL (Fin.ofNat 256 e.target) (fun (_ : Slot) => {}) s
  | 7 => { s with shu := { s.shu with streams := mapDel s.shu.streams idx } }
  | _ => s

/-- A create of a switch may be made: its index is FREE and its target is bound to none (R152). -/
def waitFree (s : State) (w : Nat × ChanDef × Bool) : Bool := (createBlocked s w.1 w.2.1.kind w.2.1.target).isNone

/-- The task of a channel just created by a switch starts, with FIRST = 1. -/
def taskBegin (n : Fin 8) (s : State) : State :=
  setLoom n (fun e => if e.state = .stopped && !(bankHeld s n.val) then { e with state := .running, firstDue := true } else e) s

/-- A create of a switch is made under the rules of CREATE: one that CREATE would deny in the present state is not (R152, assumption log
148). -/
def waitMake (w : Nat × ChanDef × Bool) (s : State) : State :=
  if createDeny s w.2.1.kind w.2.1.target w.2.1.block ≠ 0 then s
  else when w.2.2 (taskBegin (Fin.ofNat 8 w.2.1.target)) (chanMake w.1 (createGen s w.1) w.2.1 s)

/-- The creates that waited for a teardown are made where nothing blocks them any more. -/
def waitRun (s : State) : State :=
  let l := s.zor.waiting
  l.foldl (fun t w => if waitFree t w then waitMake w t else { t with zor := { t.zor with waiting := t.zor.waiting ++ [w] } })
    { s with zor := { s.zor with waiting := [] } }

/-- TEARDOWN_END: the index becomes FREE, keeping its kind, target and generation (R60, R64). -/
def execTeardownEnd (idx : Fin 8192) (s : State) : Res :=
  ok (match handleEnt s idx.val with
    | some e =>
      if e.st = .destroying && tornDown s e then waitRun (setHandle idx.val { e with st := .free } (chanGone idx.val e s)) else s
    | none => s)

/-! ## The channels at start-up (R65, R160) -/

/-- The channels of the configuration store are created at their indices, with generation 1. -/
def chansRestore (s : State) : State := s.zor.chans.foldl (fun t p => chanMake p.1 1 p.2 t) { s with shu := { s.shu with handles := [] } }

/-- The configuration in force of a channel changes: the handle's CRC and the configuration store (R63, R65). -/
def chanRecord (idx : Nat) (f : ChanDef → ChanDef) (s : State) : State :=
  match mapGet s.zor.chans idx, handleEnt s idx with
  | some d, some e =>
    let d1 := f d
    { setHandle idx { e with crc := blockCrc d1.kind d1.block } s with zor := { s.zor with chans := mapSet s.zor.chans idx d1 } }
  | _, _ => s

end Sys2Proof.Machine
end

