-- ==== Sys2Proof/Machine/EthTime.lean ====
section
/-! DEFINITION. The plant Ethernet switch with its transparent clock, the local clock, master selection and the servo, the followers
of vessel time (11_ethernet_and_vessel_time.md). -/

namespace Sys2Proof.Machine

/-- Change the switch. -/
def setEth (f : Eth → Eth) (s : State) : State := { s with eth := f s.eth }

/-- Change an external port. -/
def setPort (p : Fin 2) (f : EthPort → EthPort) (s : State) : State :=
  setEth (fun e => { e with ports := vmod e.ports p f }) s

/-- Change the time unit. -/
def setTim (f : Tim → Tim) (s : State) : State := { s with tim := f s.tim }

/-- The other external port. -/
def otherPort (p : Fin 2) : Fin 2 := if p = 0 then 1 else 0

/-- The link at a port is up. -/
def ethLink (s : State) (p : Fin 2) : Bool := ethOn s && (vget s.eth.ports p).speed ≠ 0

/-! ## The transparent clock (R284 to R287) -/

/-- The largest positive correctionField. -/
def corrMax : Int := 2 ^ 63 - 1

/-- Add a residence time in ns to a correctionField, in units of 2^-16 ns, with saturation. -/
def corrAdd (c : Int) (res : Nat) : Int := min corrMax (c + res * 65536)

/-- A corrected event message: over UDP/IPv4 a non-zero checksum becomes 0. -/
def corrected (m : PtpMsg) (res : Nat) : PtpMsg :=
  { m with correction := corrAdd m.correction res, udpSum := if m.transport = .udp4 then 0 else m.udpSum }

/-- The PTP messages that take a timestamp. -/
def isEventMsg (k : PtpType) : Bool :=
  match k with
  | .sync | .delayReq | .pdelayReq | .pdelayResp => true
  | _ => false

/-- The table key of a two-step Sync. -/
def sameKey (m : PtpMsg) (t : TwoStep) : Bool := t.source = m.source && t.domain = m.domain && t.seqId = m.seqId

/-- The longest residence time is kept. -/
def resNote (r : Nat) (e : Eth) : Eth := { e with resMax := max e.resMax (min r 0xFFFFFFFF) }

/-- A PTP message that leaves at the other port than `p`, where it came in, with residence time `res`: the message as it leaves, and the
state. -/
def tcPass (p : Fin 2) (res : Nat) (m : PtpMsg) (s : State) : PtpMsg × State :=
  let noted := setEth (resNote res) s
  if m.transport = .udp6 then
    (m, if isEventMsg m.kind then setEth (fun e => { e with v6N := holdInc 0xFFFF e.v6N }) s else s)
  else match m.kind with
    | .sync =>
      if m.twoStep then
        let l := (vget s.eth.ports p).pending.filter fun t => !sameKey m t
        (m, if 32 ≤ l.length then noted
            else setPort p (fun k => { k with pending := l ++ [{ source := m.source, domain := m.domain, seqId := m.seqId, res := res }] }) noted)
      else (corrected m res, noted)
    | .delayReq => (corrected m res, noted)
    | .followUp =>
      match (vget s.eth.ports p).pending.find? (sameKey m) with
      | some t => ({ m with correction := corrAdd m.correction t.res },
                   setPort p (fun k => { k with pending := k.pending.filter fun t => !sameKey m t }) s)
      | none => (m, raise 0x0607 2 p.val (setEth (fun e => { e with unmatched := holdInc 0xFFFF e.unmatched }) s))
    | _ => (m, s)

/-! ## The switch (R280 to R283) -/

/-- The switch learns a source address; a full table learns no new one. -/
def ethLearn (p : Fin 2) (a : BitVec 48) (e : Eth) : Eth :=
  let l := e.learned.filter (·.1 ≠ a)
  if l.length < 1024 then { e with learned := l ++ [(a, p)] } else e

/-- The frame leaves at the other external port: it is not for this port or for the module itself. -/
def ethForwards (e : Eth) (p : Fin 2) (f : EthFrame) : Bool :=
  f.multicast || (f.dst ≠ e.mac && !(e.learned.any fun l => l.1 = f.dst && l.2 = p))

/-- A clock's value in ns. -/
def clockNs (c : Clock) : Nat := c.sec * 1000000000 + c.ns

/-- The local clock's value in ns, `age` ns ago: an instant before steps has the time before them (R289, R290). -/
def stampAgo (t : Tim) (age : Nat) : Int :=
  (clockNs t.clk : Int) - age - ((t.steps.filter fun p => clockNs t.res - age < p.1).map (·.2)).sum

/-- PTP frames, and frames of 802.1Q priority 6 or 7, use the high queue (R281). -/
def ethHigh (f : EthFrame) : Bool :=
  6 ≤ f.prio || match f.content with
    | .ptp _ => true
    | _ => false

/-- The bytes that wait in an egress buffer. -/
def ethBytes (k : EthPort) : Nat := ((k.high ++ k.low).map (·.frame.len)).sum

/-- A frame joins the egress queue of the other external port; one that finds its buffer full is dropped and counted (R281). -/
def ethForward (p : Fin 2) (f : EthFrame) (s : State) : State :=
  let q := otherPort p
  let k := vget s.eth.ports q
  let w : EthWait := { frame := f, from_ := p, ingress := clockNs s.tim.res - f.age }
  if !(ethLink s q) then s
  else if 65536 < ethBytes k + f.len then setPort q (fun k => { k with qdrop := holdInc 0xFFFF k.qdrop }) s
  else if ethHigh f then setPort q (fun k => { k with high := k.high ++ [w] }) s
  else setPort q (fun k => { k with low := k.low ++ [w] }) s

/-- A frame begins to leave at port `q` at `egress` ns of the residence counter (R284, R287). -/
def ethLeave (q : Fin 2) (w : EthWait) (egress : Nat) (s : State) : State :=
  match w.frame.content with
  | .ptp m =>
    if s.eth.tcEn then
      let r := tcPass w.from_ (egress - w.ingress) m s
      emit (.ethFrame q { w.frame with content := .ptp r.1 }) r.2
    else emit (.ethFrame q w.frame) s
  | _ => emit (.ethFrame q w.frame) s

/-- A port sends for the `bits` that its line still carries in this microsecond: the rest of the frame that is leaving, then the next one,
the high queue first (R281). A frame takes 20 bytes of preamble and gap beside its own. -/
def ethSend (q : Fin 2) : Nat → Nat → State → State
  | 0, _, s => s
  | fuel + 1, bits, s =>
    let k := vget s.eth.ports q
    if bits < k.left then setPort q (fun k => { k with left := k.left - bits }) s
    else
      let rest := bits - k.left
      let nsPerBit := if k.speed = 2 then 1 else 10
      let begin_ (w : EthWait) (f : EthPort → EthPort) : State :=
        ethLeave q w (max w.ingress (clockNs s.tim.res - rest * nsPerBit))
          (setPort q (fun k => { f k with left := (w.frame.len + 20) * 8 }) s)
      match k.high, k.low with
      | w :: r, _ => ethSend q fuel rest (begin_ w fun k => { k with high := r })
      | [], w :: r => ethSend q fuel rest (begin_ w fun k => { k with low := r })
      | [], [] => setPort q (fun k => { k with left := 0 }) s

/-- One microsecond of a port: 1,000 or 100 bits, in which at most two frames begin to leave. -/
def ethTick (q : Fin 2) (s : State) : State :=
  if ethLink s q then ethSend q 3 (if (vget s.eth.ports q).speed = 2 then 1000 else 100) s else s

/-- A PTP message is for the internal port: by Ethertype, sent to a multicast address, or to the module's IPv4 address (R282). -/
def internalVia (e : Eth) (v : PtpVia) : Bool :=
  v.transport = .l2 || (v.transport = .udp4 && (v.multicast || v.dst = e.ipv4))

/-- The internal port keeps the timestamp of a Sync (R290, R291). -/
def internalTake (p : Fin 2) (f : EthFrame) (s : State) : State :=
  match f.content with
  | .ptp m =>
    if m.kind = .sync && internalVia s.eth { transport := m.transport, multicast := f.multicast, dst := m.dst } then
      setTim (fun t => { t with rx := (t.rx.filter fun r => !(r.port = p && r.domain = m.domain && r.source = m.source)) ++
        [{ port := p, domain := m.domain, source := m.source, seqId := m.seqId, t2 := stampAgo t f.age, corr := m.correction }] }) s
    else s
  | _ => s

/-- ETH_FRAME_INGRESS. What the internal port makes of a message has commands of its own. -/
def execEthFrameIngress (p : Fin 2) (f : EthFrame) (s : State) : Res :=
  ok (if !(ethLink s p) then s
    else if f.badFcs || f.len < 64 || 1522 < f.len then setPort p (fun k => { k with errN := holdInc 0xFFFF k.errN }) s
    else
      let s0 := internalTake p f s
      if s0.eth.swmode then s0
      else
        let s1 := setEth (ethLearn p f.src) s0
        when (ethForwards s1.eth p f) (ethForward p f) s1)

/-- LINK_UP. -/
def execLinkUp (p : Fin 2) (gig : Bool) (s : State) : Res :=
  ok (if ethOn s && s.eth.portEn.testBit p.val && (gig || s.eth.allow100) && (vget s.eth.ports p).speed = 0 then
    raise 0x0602 2 p.val (setPort p (fun k => { k with speed := if gig then 2 else 1 }) s)
  else s)

/-- A link goes down. -/
def linkLost (p : Fin 2) (s : State) : State :=
  if (vget s.eth.ports p).speed = 0 then s else raise 0x0601 4 p.val (setPort p (fun k => { k with speed := 0, high := [], low := [], left := 0 }) s)

/-- LINK_DOWN. -/
def execLinkDown (p : Fin 2) (s : State) : Res := ok (when (ethOn s) (linkLost p) s)

/-- ADDRESS_AGEING. -/
def execAddressAgeing (a : BitVec 48) (s : State) : Res :=
  ok (when (ethOn s) (setEth fun e => { e with learned := e.learned.filter (·.1 ≠ a) }) s)

/-- TWO_STEP_ENTRY_EXPIRY. -/
def execTwoStepEntryExpiry (p : Fin 2) (source : BitVec 80) (domain : Nat) (seqId : BitVec 16) (s : State) : Res :=
  ok (when (ethOn s) (setPort p fun k => { k with pending := k.pending.filter fun t =>
    !(t.source = source && t.domain = domain && t.seqId = seqId) }) s)

/-- ARP_REQUEST (R282). -/
def execArpRequest (p : Fin 2) (target : Word) (sender : BitVec 48) (s : State) : Res :=
  ok (when (ethLink s p && target = s.eth.ipv4) (emit (.arpReply p sender s.eth.mac s.eth.ipv4)) s)

/-! ## The local clock (R288, R289) -/

/-- The nanoseconds in the clock's full range. -/
def clockRange : Int := 2 ^ 48 * 1000000000

/-- The clock with a signed number of nanoseconds added. -/
def clockAdd (d : Int) (c : Clock) : Clock :=
  let t := ((c.sec * 1000000000 + c.ns : Nat) + d) % clockRange
  { c with sec := t.toNat / 1000000000, ns := t.toNat % 1000000000 }

/-- One step of the local clock, with event 0x0605. -/
def clockStep (d : Int) (s : State) : State :=
  raise 0x0605 3 (max (-2147483647) (min d 2147483647)) (setTim (fun t => { t with
    clk := clockAdd d t.clk, steps := (t.steps.filter fun p => clockNs t.res < p.1 + 1000000000) ++ [(clockNs t.res, d)] }) s)

/-- The port that TIM_STAT shows. -/
def timPort (s : State) : Nat := ((s.tim.master.map fun (m : Master) => m.port.val)).getD 0

/-! ## Master selection (R291) -/

/-- The slave accepts a message of this transport and domain (R300). -/
def ptpAccepts (t : Tim) (tr : PtpTransport) (domain : Nat) : Bool :=
  domain = t.domain && (match tr with
    | .l2 => t.l2
    | .udp4 => t.udp4
    | .udp6 => false)

/-- What IEEE 1588's dataset comparison compares of two different grandmasters, first to last. -/
def dataset (m : Master) : List Nat :=
  [m.ann.priority1, m.ann.clockClass, m.ann.accuracy, m.ann.variance, m.ann.priority2, m.ann.gmId.toNat]

/-- What it compares of two paths to one grandmaster. -/
def datasetPath (m : Master) : List Nat := [m.ann.stepsRemoved, m.ann.source.toNat, m.port.val]

/-- The first list is below the second, compared element by element. -/
def listLt : List Nat → List Nat → Bool
  | a :: r, b :: t => if a < b then true else if a = b then listLt r t else false
  | _, _ => false

/-- A master is better than another. -/
def masterLt (a b : Master) : Bool :=
  if a.ann.gmId = b.ann.gmId then listLt (datasetPath a) (datasetPath b) else listLt (dataset a) (dataset b)

/-- The best of the masters heard. -/
def bestMaster (l : List Master) : Option Master :=
  l.foldl (fun b m => match b with
    | none => some m
    | some c => if masterLt m c then some m else some c) none

/-- The best of the masters heard is chosen (R291): another choice forgets the measurements in hand, and a change of the grandmaster raises
event 0x0606 and sends a servo that is LOCKED back to ACQUIRING (R292). -/
def masterChoose (l : List Master) (s : State) : State :=
  let t := s.tim
  let best := bestMaster l
  let same := match t.master, best with
    | some x, some y => x.port = y.port && x.ann.source = y.ann.source
    | none, none => true
    | _, _ => false
  let gm := ((best.map (·.ann.gmId))).getD t.gmid
  let changed := gm ≠ t.gmid
  let s1 := setTim (fun t => { t with
    masters := l, master := best, gmid := gm
    sync := if same then t.sync else none
    t3 := if same then t.t3 else none
    run16 := if changed then 0 else t.run16
    servo := if changed && t.auto && t.servo = .locked then .acquiring else t.servo }) s
  when changed (raise 0x0606 3 (timPort s1)) s1

/-- ANNOUNCE_RECEIVED. -/
def execAnnounceReceived (p : Fin 2) (a : Announce) (s : State) : Res :=
  ok (if !(ethLink s p) || !(internalVia s.eth a.via) || !(ptpAccepts s.tim a.via.transport a.domain) then s
    else masterChoose ((s.tim.masters.filter fun m => !(m.port = p && m.ann.source = a.source)) ++ [{ port := p, ann := a }])
      (setTim (fun t => { t with utcV := a.utcValid, utcOfs := a.utcOffset }) s))

/-- The message comes from the chosen master on its port. -/
def fromMaster (s : State) (p : Fin 2) (source : BitVec 80) : Bool :=
  s.tim.master.any fun (m : Master) => m.port = p && m.ann.source = source

/-! ## The servo (R292, R293) -/

/-- TIM_ADDEND for a rate in ppb: rounded, halves upwards, and clamped. -/
def addendOf (f : Rat) : Int := max (-17179869) (min 17179869 (f * 34359738368 / 1000000000 + 1 / 2).floor)

/-- The nearest integer, halves upwards. -/
def roundRat (x : Rat) : Int := (x + 1 / 2).floor

/-- (t2 − t1) − c_s of a Sync, in ns. -/
def syncSpan (r : RxStamp) (m : SyncMsg) : Rat := (r.t2 - m.t1 : Int) - (r.corr + m.corr : Rat) / 65536

/-- The servo's action on one Sync with its span (t2 − t1) − c_s and its interval. -/
def servoSync (span : Rat) (interval : Nat) (s : State) : State :=
  let t := s.tim
  let offset := span - t.mpd
  let size := if offset < 0 then -offset else offset
  let s1 := setTim (fun t => { t with offs := sat32 (roundRat offset) }) s
  if size > (t.stepThr * 1000 : Nat) then
    clockStep (-(roundRat offset)) (setTim (fun t => { t with servo := .acquiring, run16 := 0 }) s1)
  else
    let sI : Rat := (interval : Rat) / 128
    let i := t.i - offset * sI / (4 * (t.tau : Rat) * t.tau)
    let f := i - offset / t.tau
    let run := if size < 1000 then t.run16 + 1 else 0
    let lock := t.servo ≠ .locked && 16 ≤ run
    let s2 := setTim (fun t => { t with
      i := i, addend := addendOf f
      run16 := if lock || t.servo = .locked then 0 else run
      servo := if lock then .locked else if t.servo = .locked then .locked else .acquiring }) s1
    when lock (raise 0x0603 2 (timPort s2)) s2

/-- SYNC_RECEIVED: a Sync of the chosen master with its t1 known. -/
def execSyncReceived (p : Fin 2) (m : SyncMsg) (s : State) : Res :=
  ok (if ethLink s p && internalVia s.eth m.via && ptpAccepts s.tim m.via.transport m.domain && fromMaster s p m.source then
    match s.tim.rx.find? fun r => r.port = p && r.domain = m.domain && r.source = m.source && r.seqId = m.seqId with
    | some r =>
      let s1 := setTim (fun t => { t with sync := some (syncSpan r m) }) s
      when (s.tim.auto && hkOn s) (servoSync (syncSpan r m) m.interval) s1
    | none => s
  else s)

/-- The mean of a list of values of d. -/
def meanOf (l : List Rat) : Rat := if l = [] then 0 else l.sum / l.length

/-- DELAY_RESP_RECEIVED: d from the last Sync and this answer to the Delay_Req in hand, and the mean of the last 16. -/
def execDelayRespReceived (p : Fin 2) (r : DelayRespHdr) (t4 corr logInterval : Int) (s : State) : Res :=
  ok (if ethLink s p && internalVia s.eth r.via && ptpAccepts s.tim r.via.transport r.domain && fromMaster s p r.source && r.mine &&
      r.seqId = s.tim.reqSeq then
    match s.tim.sync, s.tim.t3 with
    | some span, some t3 =>
      let d := (span + ((t4 - t3 : Int) - (corr : Rat) / 65536)) / 2
      let l := s.tim.ds ++ [d]
      let ds := l.drop (l.length - 16)
      setTim (fun t => { t with reqInt := logInterval, t3 := none
                                ds := if t.auto then ds else t.ds
                                mpd := if t.auto then meanOf ds else t.mpd }) s
    | _, _ => setTim (fun t => { t with reqInt := logInterval, t3 := none }) s
  else s)

/-- DELAY_REQ_SEND: a Delay_Req leaves at the master's port; t3 is its egress time on the local clock, `ns` into the present microsecond
(R290, R291). -/
def execDelayReqSend (ns : Fin 1000) (s : State) : Res :=
  ok (match s.tim.master with
    | some m => when (ethLink s m.port) (fun s =>
        let seq := s.tim.reqSeq + 1
        emit (.delayReq m.port seq) (setTim (fun t => { t with t3 := some (stampAgo t 0 + ns.val), reqSeq := seq }) s)) s
    | none => s)

/-- HOLDOVER: no Sync from the chosen master for 1 s; TIM_ADDEND is held at the integral term. -/
def execHoldover (s : State) : Res :=
  ok (if ethOn s && hkOn s && s.tim.auto && s.tim.servo = .locked then
    raise 0x0604 4 (timPort s) (setTim (fun t => { t with servo := .holdover, addend := addendOf t.i, run16 := 0 }) s)
  else s)

/-- HOLDOVER_EXPIRY: TIM_ADDEND is kept. -/
def execHoldoverExpiry (s : State) : Res :=
  ok (if ethOn s && hkOn s && s.tim.auto && s.tim.servo = .holdover then
    raise 0x0608 5 (timPort s) (setTim (fun t => { t with servo := .freerun, run16 := 0 }) s)
  else s)

/-- A write of 1 to TIM_SNAP: the pulse crosses to the time unit (R300, R380, R381). -/
def timSnapWrite (v : Word) (s : State) : State :=
  if v.getLsbD 0 then
    let r := togglePulse 17 s
    when r.2 timSnapshot r.1
  else s

/-- A write to TIM_ADJ, in manual mode only (R289, R293). -/
def timAdjWrite (v : Word) (s : State) : State := if s.tim.auto then s else clockStep v.toInt s

/-- A follower takes the time unit's value and trim, and notes by how much it has jumped. -/
def followTake (t : Tim) (f : Follower) : Follower :=
  let d : Int := (clockNs t.clk : Int) - clockNs f.clk
  { clk := t.clk, addend := t.addend, hist := if d = 0 then f.hist else f.hist ++ [(0, d)] }

/-- FOLLOWER_UPDATE: every follower whose domain runs takes the time unit's value and trim (R295). -/
def execFollowerUpdate (s : State) : Res :=
  ok (if ethOn s then
    setTim (fun t => { t with
      field := if fieldOn s then followTake t t.field else t.field
      can := if canOn s then followTake t t.can else t.can
      hk := if hkOn s then followTake t t.hk else t.hk
      fabric := if fabricOn s then followTake t t.fabric else t.fabric }) s
  else s)

end Sys2Proof.Machine
end

