-- ==== Sys2Proof/Machine/Roles.lean ====
section
/-! DEFINITION. What a module does when its role changes (13_mirror_redundancy.md R332 to R334, R346, R352, R355): it takes the field, it is
left alone, it becomes ALONE with everything stopped. -/

namespace Sys2Proof.Machine

/-- What the Mirror engine follows or waits for is forgotten, but for latches that have arrived and a divergence check. -/
def mirForget (m : Mirror) : Mirror :=
  { m with samples := [], ownSig := [], peerSig := [], fwdWait := [], syncHold := false, syncDue := [], early := []
           syncSent := [], syncReq := [], noCompare := [], matched := [], syncph := 0, synced := false, syncBuf := [], lag := 0
           lateRun := Vector.replicate 4 0, lateNow := Vector.replicate 4 [] }

/-- Steps 3 and 4 of R352: the module takes role `r` with decision code `code` and drives the field. Scans that were latched from the old
active go on and are published here. -/
def takeField (r : Role) (code : Nat) (s : State) : State :=
  let s1 := roleChange r s
  startDriving true { s1 with mir := { mirForget s1.mir with
    lastDec := code, swoCause := code, swcnt := (s1.mir.swcnt + 1) % 2 ^ 32, swo := .newOutputs, cmds := [], healthy := true } }

/-- A task of an engine stops where it exists, with its fail values published. -/
def taskHalt (n : Fin 8) (s : State) : State :=
  let st := (vget s.loom n).state
  if st = .running || st = .trapped || st = .overrun || st = .stopped then taskStop n s else s

/-- Every configured brake channel is APPLIED with HOLD set; faults stay latched. -/
def brkAllApplied (s : State) : State :=
  foldFin 4 (fun t c =>
    if (brkCh t c).st = .nocfg || (brkCh t c).st = .fault then t
    else brkReport c (setBrk c (fun x => { brkOpen (brkDiscard x) with st := .applied, hold := true, testRun := false, testWait := false, relWait := false }) t))
    s

/-- ALONE with every task STOPPED, every slot DISABLED and every brake APPLIED, with event 0x0806 (R346 code 11, R360). -/
def aloneStopped (code : Nat) (s : State) : State :=
  let s1 := roleChange .alone s
  let s2 := drainHub { s1 with
    mir := { mirForget s1.mir with latches := [], div := none, lastDec := code, detached := false, swo := .none, cmds := [] }
    loom := s1.loom.map loomHalt }
  let s3 := foldFin 8 (fun t n => taskHalt n t) s2
  let s4 := startDriving false (foldFin 4 (fun t n => slotsOff n t) s3)
  raise 0x0806 6 code (brkAllApplied s4)

/-- The partner of an ACTIVE module is gone: it is ALONE and goes on (R334, R346 code 13). A swap in progress ends with cause 3; a
switch-over that has made this module ACTIVE goes on to its end (R357). -/
def partnerGone (code : Nat) (s : State) : State :=
  let s1 := when (s.zor.phase ≠ .idle) (swapEnd 3 stDenied (some 5)) s
  let s2 := roleChange .alone s1
  { s2 with mir := { mirForget s2.mir with
    lastDec := code, swo := if s2.mir.swo = .newOutputs || s2.mir.swo = .newAio then s2.mir.swo else .none, cmds := [] } }

end Sys2Proof.Machine
end

