-- ==== Sys2Proof/Machine/Zoros.lean ====
section
/-! DEFINITION. Images at work (05_online_change_and_forcing.md): the staging area and the check, the parameters an image sets, carried
state and its mapping, the handover swap and the standalone exchange. -/

namespace Sys2Proof.Machine

/-- Change the image unit. -/
def setZor (f : Zoros → Zoros) (s : State) : State := { s with zor := f s.zor }

/-! ## Station parameters and registers they set (R139, R299, R300, R393, R437) -/

/-- ETH_CFG takes a value; a port that is disabled loses its link. In ISOLATE nothing passes from one port to the other any more: what waits
to do so is dropped (R281). -/
def ethCfgPut (v : Nat) (s : State) : State :=
  let s1 := setEth (fun e => { e with
    tcEn := bitOf v 7, allow100 := bitOf v 4, portEn := bits v 2 2, swmode := bitOf v 0
    ports := if bitOf v 0 then e.ports.map fun (k : EthPort) => { k with high := [], low := [] } else e.ports }) s
  foldFin 2 (fun t p => when (!(bitOf v (2 + p.val)) && (vget t.eth.ports p).speed ≠ 0) (linkLost p) t) s1

/-- The masters that the slave no longer accepts are forgotten, and the best of the others is chosen (R291, R300). -/
def mastersKeep (s : State) : State := masterChoose (s.tim.masters.filter fun m => ptpAccepts s.tim m.ann.via.transport m.ann.domain) s

/-- TIM_CTRL takes a value. -/
def timCtrlPut (v : Nat) (s : State) : State :=
  mastersKeep (setTim (fun t => { t with domain := bits v 24 8, udp4 := bitOf v 5, l2 := bitOf v 4, auto := bitOf v 0 }) s)

/-- TIM_SRV takes a value; a field of 0 keeps its value. -/
def timSrvPut (v : Nat) (s : State) : State :=
  setTim (fun t => { t with
    holdMax := if bits v 16 16 = 0 then t.holdMax else bits v 16 16
    tau := if bits v 8 8 = 0 then t.tau else bits v 8 8
    stepThr := if bits v 0 8 = 0 then t.stepThr else bits v 0 8 }) s

/-- The world bits that an image sets: 3 to 9, 12 and 13. -/
def blkwStation : Nat := 0x33F8

/-- SEC_BLKW takes the bits of `mask` from a value. -/
def blkwPut (mask v : Nat) (s : State) : State := { s with sec := { s.sec with blkw := (s.sec.blkw - (s.sec.blkw &&& mask)) ||| (v &&& mask) } }

/-- PAN_CTRL takes a value; a RATE of 0 or above 60 is discarded. -/
def panCtrlPut (v : Nat) (s : State) : State :=
  { s with pan := { s.pan with rate := if within 1 60 (bits v 8 6) then bits v 8 6 else s.pan.rate, host := bitOf v 0 } }

/-- The station parameters of an image are set. -/
def stationApply (g : Station) (s : State) : State :=
  let s1 := setEth (fun e => { e with mac := g.mac, ipv4 := g.ipv4 }) s
  panCtrlPut g.panel (blkwPut blkwStation g.blkw (timSrvPut g.timSrv (timCtrlPut g.timCtrl (ethCfgPut g.ethCfg s1))))

/-- An image's regions are set where they are not locked; those that it does not name are disabled (R134, R394). -/
def regionsApply (l : List RegionDef) (s : State) : State :=
  { s with sec := { s.sec with regions := l.foldl (fun m r =>
      if (mapGetD {} m r.region).lock then m
      else mapSet m r.region { base := r.base, limit := r.limit, en := r.en, wrS := r.wrS, rdS := r.rdS }) (s.sec.regions.filter (·.2.lock)) } }

/-- A Prism engine's frame; a frame that changes starts again at period count 0 (R163, R164). -/
def frameApply (n : Fin 4) (f : Nat × Nat) (s : State) : State :=
  let p := prismAt s n
  if p.nslot = f.1 && p.perU = f.2 then s
  else setPrism n (fun p => { p with
    nslot := f.1, perU := f.2, pcnt := 0, sigOut := [], offAt := p.offAt.map fun _ => 0
    slots := p.slots.map fun (x : Slot) => { x with sampled := none, tearAt := x.tearAt.map (fun _ => 0), pend := x.pend.map fun q => { q with eff := 0 } }
    state := if p.state = .fault || p.state = .test then p.state else if f.1 = 0 then .idle else .run }) s

/-- The recorder's buckets keep their content under new code configurations, clipped to the new depths (R414). -/
def bucketsClip (s : State) : State :=
  { s with rcd := { s.rcd with slots := s.rcd.slots.map fun p => (p.1, { p.2 with tokens := min p.2.tokens (fullBucket (codeCfg s p.2.body.code)) }) } }

/-- The parameters of an image other than points, tasks and channels. -/
def paramsApply (img : Image) (s : State) : State :=
  let s1 := regionsApply img.regions (stationApply img.station s)
  foldFin 4 (fun t n => frameApply n (vget img.frames n) t) (bucketsClip { s1 with codes := img.codes })

/-! ## Staging and checking (R140) -/

/-- The bytes of the staging area from its start. -/
def stageBytes (s : State) (n : Nat) : List Byte :=
  ((List.range ((n + 3) / 4)).flatMap fun i => leBytes 4 (mapGetD 0 s.zor.stage i).toNat).take n

/-- ZOROS_STAGE: the bytes are copied, ID_STAGED becomes 0, a check that runs is cut short. -/
def stageWrite (ofs : Nat) (b : List Byte) (s : State) : State :=
  let s1 := s.zor.checks.foldl (fun t c => complete c.1 stAborted 0 t) s
  setZor (fun z => { z with
    stage := ((pieces 4 b).zipIdx.foldl (fun m p => mapPut 0 m (ofs / 4 + p.2) (BitVec.ofNat 32 (leAt p.1 0 4))) z.stage)
    staged := 0, stagedImg := none, checks := [] }) s1

/-- ZOROS_CHECK_DONE: the check of the oldest ZOROS_CHECK ends. A failure leaves ID_STAGED at the last image that has passed since the last
staging (R140, R161, assumption log 149). -/
def execZorosCheckDone (s : State) : Res :=
  ok (match s.zor.checks with
    | [] => s
    | (no, len) :: rest =>
      if !(hkOn s) || !(dramOn s) then s
      else
        let s1 := setZor (fun z => { z with checks := rest }) s
        match imageCheck (idCap s.ident.variant) (stageBytes s len) with
        | .inl (st, res) => complete no st res s1
        | .inr img => complete no stOk img.crc (setZor (fun z => { z with staged := img.crc, stagedImg := some img }) s1))

/-! ## Carried state (R150, R151) -/

/-- The old symbol that a new one carries on: the same identifier, engine, kind and type. -/
def survives (old : Option Image) (y : Symbol) : Option Symbol :=
  old.bind fun o => o.symbols.find? fun x => x.id = y.id && x.engine = y.engine && x.kind = y.kind && x.ty = y.ty

/-- Old symbol `o`'s state becomes that of new symbol `y`. -/
def carryOne (c : LData) (o y : Symbol) (d : LData) : LData :=
  match y.kind with
  | 1 => { d with mb := mapPut false d.mb y.loc (mapGetD false c.mb o.loc) }
  | 2 => { d with mw := mapPut 0 d.mw y.loc (mapGetD 0 c.mw o.loc) }
  | 4 => { d with timers := mapPut {} d.timers y.loc (mapGetD {} c.timers o.loc) }
  | 5 => { d with ctrs := mapPut {} d.ctrs y.loc (mapGetD {} c.ctrs o.loc) }
  | 6 => match mapGet c.edges o.loc with
    | some v => { d with edges := mapSet d.edges y.loc v }
    | none => d
  | 7 => { d with work := mapPut 0 d.work y.loc (mapGetD 0 c.work o.loc) }
  | 8 => { d with work := mapPut 0 d.work y.loc (mapGetD 0 c.work o.loc) }
  | _ => d

/-- The data of a task under a new image. -/
def carryData (old : Option Image) (c : LData) (img : Image) (n : Fin 8) (t : TaskImg) : LData :=
  (img.symbols.filter fun y => y.engine = n).foldl (fun d y =>
    match survives old y with
    | some o => carryOne c o y d
    | none => d) (initData img n t)

/-- The new index of a Warp point that survives. -/
def pointMove (old : Option Image) (img : Image) (j : Nat) : Option Nat :=
  (img.symbols.find? fun y => (y.kind = 7 || y.kind = 8) && (survives old y).any (·.loc = j)).map (·.loc)

/-- The value of a point of the new directory at the switch: a Warp point that survives keeps its published value, a Prism sink's
point in both directories its last publish (R149), and any other takes its fail value; a Weft point that is the same in both directories keeps what was delivered (R136, R150). -/
def pointCarry (s : State) (old : Option Image) (img : Image) (i : Nat) (p : PointDef) : Word :=
  if p.kind = 3 || p.kind = 4 then
    match (img.symbols.find? fun y => (y.kind = 7 || y.kind = 8) && y.loc = i).bind (survives old) with
    | some o => fitPoint p (ptGet s o.loc)
    | none =>
      if p.writer = 0x10 && ((old.map (·.points)).bind fun l => mapGet l i).any fun (q : PointDef) => q.kind = p.kind && q.writer = 0x10 then ptGet s i
      else p.value
  else if ((old.map (·.points)).bind fun l => mapGet l i).any fun (q : PointDef) => q.kind = p.kind then ptGet s i
  else p.value

/-- The bytes of a symbol's committed state, for the CRC-64 of carried state. -/
def symBytes (s : State) (y : Symbol) : List Byte :=
  let c := (vget s.loom y.engine).com
  match y.kind with
  | 1 => [BitVec.ofNat 8 (b2n (mapGetD false c.mb y.loc))]
  | 2 => leBytes 4 (mapGetD 0 c.mw y.loc).toNat
  | 4 =>
    let t := mapGetD {} c.timers y.loc
    [BitVec.ofNat 8 (match t.st with
      | .idle => 0
      | .running => 1
      | .done => 2), BitVec.ofNat 8 (b2n t.mem)] ++ leBytes 4 t.start.toNat ++ leBytes 4 t.pt.toNat
  | 5 =>
    let k := mapGetD {} c.ctrs y.loc
    leBytesInt 4 k.cv ++ leBytesInt 4 k.pv ++ [BitVec.ofNat 8 (b2n k.up), BitVec.ofNat 8 (b2n k.down)]
  | 6 => [match mapGet c.edges y.loc with
    | none => 2
    | some v => BitVec.ofNat 8 (b2n v)]
  | 7 => leBytes 4 (mapGetD 0 c.work y.loc).toNat
  | 8 => leBytes 4 (mapGetD 0 c.work y.loc).toNat
  | _ => []

/-- The CRC-64 over the committed state of every symbol of the running image, in the order of its symbol table. -/
def carriedCrc (s : State) : Nat := (crc64 (((s.zor.running.map (·.symbols)).getD []).flatMap (symBytes s))).toNat

/-! ## The switch to a new image (R150 to R152, R155, R159) -/

/-- Old timers that ran or were DONE and are not carried raise event 0x0108 (R150). -/
def timersDropped (old : Option Image) (img : Image) (s : State) : State :=
  ((old.map (·.symbols)).getD []).foldl (fun t o =>
    let e := vget s.loom o.engine
    if o.kind = 4 && e.task.isSome && (mapGetD {} e.com.timers o.loc).st ≠ .idle &&
        !(img.symbols.any fun y => y.id = o.id && y.engine = o.engine && y.kind = o.kind && y.ty = o.ty) then
      raise 0x0108 4 o.id t
    else t) s

/-- A force entry moves with its point, or is cancelled with event 0x010C (R159). -/
def forceMove (old : Option Image) (img : Image) (idx : Nat) (e : HEntry) (s : State) : State :=
  match pointMove old img e.target with
  | some j =>
    let z := { s.zor with chans := match mapGet s.zor.chans idx with
      | some d => mapSet s.zor.chans idx { d with target := j }
      | none => s.zor.chans }
    setHandle idx { e with target := j } { s with zor := z }
  | none =>
    raise 0x010C 4 e.target (setHandle idx { e with st := .destroying, gen := nextGen e.gen } (setZor (fun z => { z with chans := mapDel z.chans idx }) s))

/-- Every force entry, the force table and the forces that wait follow their points. -/
def forcesMove (old : Option Image) (img : Image) (s : State) : State :=
  let live := s.shu.handles.filter fun p => p.2.kind = 9 && p.2.st = .live
  let s1 := live.foldl (fun t p => forceMove old img p.1 p.2 t) s
  { s1 with hub := { s1.hub with
    force := s.hub.force.foldl (fun m p => match pointMove old img p.1 with
      | some j => mapSet m j p.2
      | none => m) []
    wait := s.hub.wait.filterMap fun w => (pointMove old img w.pt).map fun j => { w with pt := j } } }

/-- Engine `n` takes the new image. A task in both images goes on with its state, in an exchange STOPPED; a new one is loaded, and its
channel starts it. -/
def engineSwitch (old : Option Image) (img : Image) (exchange : Bool) (n : Fin 8) (s : State) : State :=
  let e := vget s.loom n
  match vget img.tasks n, e.task with
  | some t, some _ =>
    setLoom n (fun e => { e with fresh1 := true })
      (loomLoad n t (carryData old e.com img n t) (if exchange && e.state ≠ .none then .stopped else e.state) s)
  | some t, none => loomLoad n t (initData img n t) .none s
  | _, _ => s

/-- A task that the new image does not have stops, with its fail values. -/
def engineDrop (img : Image) (n : Fin 8) (s : State) : State :=
  let e := vget s.loom n
  if (vget img.tasks n).isNone && e.task.isSome then
    setLoom n (fun e => { e with task := none, prog := [], kw := [] }) (when (e.state = .running) (taskLeave n .stopped 0 true) s)
  else s

/-- Is a channel's configuration in force that of a block? -/
def sameBlock (kind : Nat) (a b : List Byte) : Bool :=
  let f (x : List Byte) := if kind = 2 && x.length = 208 then x ++ x else x
  decide (f a = f b)

/-- The configuration opcode of a channel's kind takes its new block in the channel's present state (R181, R223, R240, R248, R276); a block that it would deny
is not taken (assumption log 148). -/
def chanCfgOk (d : ChanDef) (s : State) : Bool :=
  blockOk (liveCtx s) d.kind d.target ((liveAio s d.target).map fun (g : AioCfg) => g.cmode) d.block && match d.kind with
  | 2 =>
    let x := slotGet s (Fin.ofNat 256 d.target)
    x.run = .disabled || decide ((loopSets d.block).1.sink = x.setA.sink)
  | 6 =>
    let x := vget s.can (Fin.ofNat 8 d.target)
    !(canTimingDiffers (x.next.getD x.cfg) (canRead d.block)) || x.st = .startup || x.st = .test || x.st = .recovery || x.st = .sleep
  | _ => true

/-- A block becomes a live channel's configuration, as its configuration opcode does. -/
def chanReconfig (d : ChanDef) (s : State) : State :=
  let t := d.target
  match d.kind with
  | 2 =>
    let g := loopSets d.block
    let l : Fin 256 := Fin.ofNat 256 t
    slotSend l (.cfg true g.2) (slotSend l (.cfg false g.1) s)
  | 3 => dioApply (Fin.ofNat 4 t) (dioRead d.block).statusPt (dioRead d.block).chs s
  | 4 => aioApply (Fin.ofNat 16 t) (aioRead d.block) s
  | 5 => encApply (Fin.ofNat 4 t) (encRead d.block) s
  | 6 => canApply (Fin.ofNat 8 t) (canRead d.block) s
  | _ => s

/-- The indices that a switch destroys: those of the old image alone, and those of the new image that hold another kind or target. Force
entries follow R159. -/
def switchKills (old : Option Image) (img : Image) (s : State) : List Nat :=
  let oldIdx := ((old.map (·.channels)).getD []).filter fun p => (mapGet img.channels p.1).isNone
  (oldIdx.filter fun p => (handleEnt s p.1).any fun e => e.st = .live && e.kind ≠ 9).map (·.1) ++
    (img.channels.filter fun p => (handleEnt s p.1).any fun e =>
      e.st = .live && !(e.kind = p.2.kind && (e.target = p.2.target || e.kind = 9))).map (·.1)

/-- The channels that a switch creates; an index still DESTROYING is made once its teardown ends (R152; DEDUCED, assumption log 147). -/
def switchMakes (img : Image) (s : State) : List (Nat × ChanDef) :=
  img.channels.filter fun p => !((handleEnt s p.1).any fun e => e.st = .live && e.kind = p.2.kind && (e.target = p.2.target || e.kind = 9))

/-- The channels that a switch configures anew. -/
def switchCfgs (img : Image) (s : State) : List (Nat × ChanDef) :=
  img.channels.filter fun p => (handleEnt s p.1).any fun e => e.st = .live && e.kind = p.2.kind && e.target = p.2.target &&
    within 2 6 p.2.kind && !((mapGet s.zor.chans p.1).any fun d => sameBlock p.2.kind d.block p.2.block)

/-- The differences in the channel set: destroys, creates (those that must wait do), configurations (R152). A new task of a swap starts
where its header says so. -/
def chansSwitch (old : Option Image) (img : Image) (exchange : Bool) (s : State) : State :=
  let kills := switchKills old img s
  let makes := switchMakes img s
  let cfgs := switchCfgs img s
  let isNew (n : Fin 8) : Bool := !((old.bind fun o => vget o.tasks n).isSome)
  let auto (d : ChanDef) : Bool := !exchange && d.kind = 1 && isNew (Fin.ofNat 8 d.target) && (vget img.tasks (Fin.ofNat 8 d.target)).any (·.autostart)
  let s1 := kills.foldl (fun t i => chanDestroy i none none t) s
  let s2 := waitRun (setZor (fun z => { z with waiting := z.waiting ++ makes.map fun p => (p.1, p.2, auto p.2) }) s1)
  cfgs.foldl (fun t p => when (chanCfgOk p.2 t) (fun t => chanRecord p.1 (fun d => { d with block := p.2.block }) (chanReconfig p.2 t)) t) s2

/-- The new image goes live: tasks, points with the signatures of their publishes (R27), forces, parameters, channels; it becomes the running image of the configuration store. -/
def imageSwitch (img : Image) (exchange : Bool) (s : State) : State :=
  let old := s.zor.running
  let s1 := foldFin 8 (fun t n => engineDrop img n t) (timersDropped old img (drainHub s))
  let s2 := forcesMove old img (foldFin 8 (fun t n => engineSwitch old img exchange n t) s1)
  let vals := img.points.map fun p => (p.1, pointCarry s1 old img p.1 p.2)
  let warp := vals.filter fun p => let q := mapGetD {} img.points p.1; q.kind = 3 || q.kind = 4
  let s3 := setZor (fun z => { z with
    running := some img, store := some img, imageCrc := img.crc, staged := 0, stagedImg := none, shadow := none
    phase := .idle, freezeF := none, frozen := false, lone := false, ownCrc := none, peerCrc := none, count := (z.count + 1) % 256 }) s2
  let kept (p : Nat × Word) : Bool := ((old.map (·.points)).bind fun l => mapGet l p.1).any fun (q : PointDef) => q.kind = (mapGetD {} img.points p.1).kind
  let s4 := publishPts warp { s3 with hub := { s3.hub with
    pts := vals.foldl (fun m p => mapPut 0 m p.1 p.2) [], buf := s3.hub.buf.filter kept, held := s3.hub.held.filter kept } }
  let s5 := foldFin 8 (fun t n => when (vget img.tasks n).isSome (if exchange then failPublish n else taskSigned n) t) s4
  let s6 := chansSwitch old img exchange (paramsApply img s5)
  raise 0x0109 3 img.crc s6

/-! ## Swap and exchange (R149, R152 to R155, R164) -/

/-- PREPARE refuses the image: a frame changes under a slot in use, or to be in use under a LOOP_CTRL that waits for its period (R164), or its channels clash with channels created at run time at
indices that neither image lists (R152). -/
def prepareBad (s : State) (img : Image) : Bool :=
  let frames := (List.finRange 4).any fun n =>
    let p := prismAt s n
    vget img.frames n ≠ (p.nslot, p.perU) && p.slots.toList.any fun (x : Slot) =>
      x.run ≠ .disabled || (slotAhead x (x.pend.map (·.cmd))).run ≠ .disabled
  let listed (i : Nat) : Bool := (mapGet img.channels i).isSome || (s.zor.running.any fun o => (mapGet o.channels i).isSome)
  let rt := s.shu.handles.filter fun p => p.2.st = .live && !(listed p.1)
  let clash := img.channels.any fun p => rt.any fun q => q.2.kind = p.2.kind && q.2.target = p.2.target && p.2.kind ≠ 8
  let many := (List.range 9).any fun k =>
    kindLimit (k + 1) < (img.channels.filter fun p => p.2.kind = k + 1).length + (rt.filter fun p => p.2.kind = k + 1).length
  frames || clash || many

/-- PREPARE begins with the staged image whose CRC-32 is `crc`, or ends at once with cause 1 or 2; then a standby tells the active. -/
def swapBegin (crc : Nat) (s : State) : State :=
  let fail (cause : Nat) : State := swapFail cause stBadImage s
  match s.zor.stagedImg with
  | some img =>
    if img.crc ≠ crc then fail 1
    else if prepareBad s img then fail 2
    else hedImage img.banks (setZor (fun z => { z with phase := .prepare, swapCrc := crc, shadow := some img, ownCrc := none, peerCrc := none, peerScan := 0 }) s)
  | none => fail 1

/-- A task is RUNNING. -/
def anyRunning (s : State) : Bool := s.loom.toList.any fun (e : Loom) => e.state = .running

/-- SWAP_PREPARED: what PREPARE does has ended: a standby reports it, a standalone module goes on to MAP (R149, R155). A slot that came into
use in PREPARE under a frame that changes fails it (R164). -/
def execSwapPrepared (s : State) : Res :=
  ok (if hkOn s && s.zor.phase = .prepare && s.zor.shadow.isSome && !(hedPending s) then
    if s.zor.shadow.any (prepareBad s) then swapFail 2 stBadImage s
    else if s.mir.decided && s.mir.role = .standby then swapSend 1 0 0 (setZor (fun z => { z with phase := .prepared }) s)
    else setZor (fun z => { z with phase := .map }) s
  else s)

/-- PREPARE_TIMEOUT (R154 cause 4). -/
def execPrepareTimeout (s : State) : Res := ok (when (s.zor.phase = .prepare) (swapFail 4 stTimeout) s)

/-- No scan is in progress and none is still to come. -/
def swapQuiet (s : State) : Bool :=
  s.mir.latches = [] && s.loom.toList.all fun (e : Loom) => e.mode = .idle && e.gather.isNone && e.commit.isNone

/-- The CRC-64 values of carried state are known and differ: both modules stay on the old image; the standby starts a divergence check
(R154 cause 5, assumption log 23). -/
def swapCompare (s : State) : State :=
  match s.zor.ownCrc, s.zor.peerCrc with
  | some a, some b =>
    if a = b then s
    else
      let first := ((List.finRange 8).find? fun n => (vget s.loom n).state = .running).map (·.val)
      let s1 := swapEnd 5 stDiverged none s
      when (s1.mir.role = .standby && s1.mir.div.isNone) (divStart (first.getD 0)) s1
  | _, _ => s

/-- A task of the new image runs on engine `n` after the switch: it ran before, or it is new, with a channel and AUTOSTART (R152). -/
def runsUnder (s : State) (img : Image) (n : Fin 8) : Bool :=
  (vget img.tasks n).any fun t =>
    if (s.zor.running.bind fun o => vget o.tasks n).isSome then (vget s.loom n).state = .running
    else t.autostart && img.channels.any fun p => p.2.kind = 1 && p.2.target = n.val

/-- The scan number of R153: of the first new scan on the lowest-numbered engine that runs a task under the new image, 0 for none. The
standby, which holds that image, tells the active (assumption log 22). -/
def swapScan (s : State) : Nat :=
  match s.zor.shadow with
  | some img => match (List.finRange 8).find? (runsUnder s img) with
    | some n => (vget s.loom n).scan + 1
    | none => 0
  | none => 0

/-- The freeze is complete: MAP begins with the CRC-64 of carried state (R149). -/
def swapFrozen (s : State) : State :=
  if s.zor.frozen && s.zor.phase = .freeze && swapQuiet s then
    let crc := carriedCrc s
    swapCompare (swapSend 4 crc (swapScan s) (setZor (fun z => { z with phase := .map, ownCrc := some crc }) s))
  else s

/-- FREEZE_INSTANT: from F on no scan latches. -/
def execFreezeInstant (s : State) : Res :=
  ok (match s.zor.freezeF with
    | some f => if (loomTime s - f).toNat < 2 ^ 31 && s.zor.phase = .freeze then swapFrozen (setZor (fun z => { z with frozen := true }) s) else s
    | none => s)

/-- SWAP_SWITCH: an exchange ends; the standby goes live with the new image as ACTIVE, or ALONE where the active was lost; the old active
completes the descriptor and becomes SYNCING, driving on until LIVE (R149, R153 to R155). -/
def execSwapSwitch (s : State) : Res :=
  let agreed := s.zor.lone || (s.zor.ownCrc.isSome && decide (s.zor.ownCrc = s.zor.peerCrc))
  ok (if s.zor.phase ≠ .map then s
  else if s.mir.role = .alone then
    match s.zor.shadow with
    | some img =>
      if prepareBad s img then swapEnd 2 stBadImage none s
      else setZor (fun z => { z with swapNo := none }) (completeOpt s.zor.swapNo stOk 0 (imageSwitch img true s))
    | none => s
  else if s.mir.role = .standby && agreed then
    match s.zor.shadow with
    | some img =>
      let lone := s.zor.lone
      let s1 := imageSwitch img false s
      if lone then raise 0x0806 6 4 (takeField .alone 4 s1) else takeField .active 6 s1
    | none => s
  else if s.mir.role = .active && agreed then
    let s1 := completeOpt s.zor.swapNo stOk s.zor.peerScan s
    let s2 := toSyncing 6 (setZor (fun z => { z with count := (z.count + 1) % 256, staged := 0, stagedImg := none, swapNo := none }) s1)
    { s2 with mir := { s2.mir with swo := .oldWait, swoCode := 6, swoReset := false } }
  else s)

end Sys2Proof.Machine
end

