-- ==== Sys2Proof/Machine/Panel.lean ====
section
/-! DEFINITION. The front panel display (17_front_panel_display.md): frames and their two fields, the balance ledger, temperature bands,
compensation at the driver's start, loss of supply. -/

namespace Sys2Proof.Machine

/-- Change the panel driver. -/
def setPan (f : Pan → Pan) (s : State) : State := { s with pan := f s.pan }

/-! ## The ledger (R428, R429) -/

/-- A pixel's L changed by `d`, and whether it saturated. -/
def ledgerAdd (d x : Int) : Int × Bool := if x + d > 7 then (7, true) else if x + d < -8 then (-8, true) else (x + d, false)

/-- The ledger with the L of pixels changed by `d`, and the number that saturated. -/
def ledgerMove (d : Int) (l : List Nat) (r : SMap Int × Nat) : SMap Int × Nat :=
  l.foldl (fun r p =>
    let v := ledgerAdd d (mapGetD 0 r.1 p)
    (mapPut 0 r.1 p v.1, if v.2 then r.2 + 1 else r.2)) r

/-- L in its nibble, in two's complement. -/
def ledgerNibble (v : Int) : BitVec 8 := (BitVec.ofInt 4 v).zeroExtend 8

/-- Byte `k` of the 48,000 bytes of the ledger region: pixel 2k in its low nibble, pixel 2k + 1 in its high nibble (R428). -/
def ledgerByte (l : SMap Int) (k : Nat) : Byte := ledgerNibble (mapGetD 0 l (2 * k)) ||| (ledgerNibble (mapGetD 0 l (2 * k + 1)) <<< 4)

/-- The ledger at the end of field A of a new frame: the field A of the frame before is closed by its field B. -/
def ledgerFrame (old new : List Nat) (l : SMap Int) : SMap Int × Nat := ledgerMove 1 new (ledgerMove (-1) old (l, 0))

/-- A ledger write in progress is interrupted: each nibble is at its old or its new value. -/
def ledgerCut (s : State) : State :=
  if s.pan.phase = .ledger then
    let keys := (s.pan.ledger ++ s.pan.ledNext).map (·.1)
    let l := keys.foldl (fun m p => mapPut 0 m p (if Config.ledgerTorn s.free p then mapGetD 0 s.pan.ledNext p else mapGetD 0 s.pan.ledger p)) []
    drawn (setPan (fun x => { x with ledger := l }) s)
  else s

/-! ## Start and stop of the driver (R434, R435) -/

/-- The driver starts: it compensates if the ledger is not zero. -/
def panStart (s : State) : State :=
  setPan (fun x => { ({ ledger := x.ledger, store := x.store, fmem := x.fmem, fcrc := x.fcrc, stored := x.stored, due := x.due } : Pan) with
    phase := if x.ledger = [] then .blank else .comp, nz := x.ledger.length }) (ledgerCut s)

/-- The driver stops: every pixel line and the common electrode at common. -/
def panStop (s : State) : State := setPan (fun x => { x with phase := .blank, effRate := 0, shown := [] }) (ledgerCut s)

/-- A controlled shutdown writes the ledger to its end, and the driver stops (R448). -/
def panFinish (s : State) : State :=
  setPan (fun x =>
    let l := if x.phase = .ledger then x.ledNext else x.ledger
    { x with phase := .blank, effRate := 0, shown := [], ledger := l, nz := l.length }) s

/-! ## Temperature bands (R432, R433) -/

/-- The frame rate cap of a band. -/
def bandCap (b : Nat) : Nat := if b = 0 then 20 else if b = 1 then 40 else 60

/-- The boundary above band `b`, in 0.1 °C. -/
def bandTop (b : Nat) : Int := if b = 0 then -100 else if b = 1 then 100 else 450

/-- The band after a reading: a boundary must be passed by 2 °C. -/
def bandNext (t : Int) (b : Nat) : Nat :=
  let up (b : Nat) : Nat := if b < 3 && bandTop b + 20 ≤ t then b + 1 else b
  let down (b : Nat) : Nat := if 0 < b && t ≤ bandTop (b - 1) - 20 then b - 1 else b
  let u := up (up (up b))
  if u = b then down (down (down b)) else u

/-- PANEL_TEMPERATURE_READ. -/
def execPanelTemperatureRead (t : Int) (s : State) : Res :=
  ok (if panOn s then
    let b := bandNext t s.pan.nextBand
    let s1 := setPan (fun x => { x with temp := t, nextBand := b }) s
    when (b ≠ s.pan.nextBand) (raise 0x0C03 1 b) s1
  else s)

/-! ## Frames (R426, R429 to R431) -/

/-- The numbers of the dark pixels of a frame's content (R427, R428). -/
def darkPixels (b : List Byte) : List Nat :=
  b.zipIdx.flatMap fun p => ((List.range 8).filter fun i => p.1.getLsbD i).map fun i => 8 * p.2 + i

/-- The firmware's status page, which the spec does not give: a free value (R430). -/
def statusPage (s : State) : List Byte :=
  (List.range 12000).map fun k => (List.range 8).foldl (fun b i => if Config.statusPixel s.free (8 * k + i) then b ||| (1#8 <<< i) else b) 0

/-- What HK1 has passed to the driver's frame memory for the next commit, with its CRC-32 (R430). -/
def panPassed (s : State) : List Byte × Nat :=
  if s.pan.host && s.pan.stored then (s.pan.fmem, s.pan.fcrc) else (statusPage s, crc32n (statusPage s))

/-- A frame memory some of whose bits have flipped. -/
def flipBits (l : List Byte) (flips : List Nat) : List Byte := flips.foldl (fun m f => m.modify (f / 8) (· ^^^ (1#8 <<< (f % 8)))) l

/-- The CRC-32 that the driver recomputes over its frame memory differs from the one it was given (R431). -/
def frameBad (flips : List Nat) (s : State) : Bool := crc32n (flipBits (panPassed s).1 flips) ≠ (panPassed s).2

/-- The content that the driver finds in its frame memory. -/
def panContent (flips : List Nat) (s : State) : List Nat := darkPixels (flipBits (panPassed s).1 flips)

/-- HK1 fills the frame memory from the host frame store in bank 15, with its CRC-32 (R430, R431). -/
def panLoad (s : State) : State := setPan (fun x => { x with fmem := x.store, fcrc := crc32n x.store }) s

/-- A frame may begin: the frame before has run its field B, or the driver has nothing to compensate. -/
def panMayCommit (s : State) : Bool := panOn s && (s.pan.phase = .fieldB || (s.pan.phase = .blank && s.pan.ledger = []))

/-- FRAME_COMMIT: `flips` are bits of the frame memory that have flipped since HK1 filled it. Where its check fails the pixels keep their
content, and HK1 fills the frame memory again for the next commit (R431). -/
def execFrameCommit (flips : List Nat) (s : State) : Res :=
  ok (if panMayCommit s then
    let p := s.pan
    let crcBad := frameBad flips s
    let new := if crcBad then p.shown else panContent flips s
    let led := ledgerFrame p.shown new p.ledger
    let k := (p.fcnt + 1) % 2 ^ 32
    let same : Bool := decide (led.1 = p.ledger)
    let s1 := setPan (fun x => { x with
      fcnt := k, band := x.nextBand, effRate := min x.rate (bandCap x.nextBand), shown := new, ledNext := led.1
      phase := if same then .fieldA else .ledger
      crcN := if crcBad then holdInc 0xFFFF x.crcN else x.crcN
      satN := holdAdd 0xFFFF x.satN led.2
      due := if crcBad || !x.host then x.due else none }) (drawn s)
    let s2 := when (0 < led.2) (raise 0x0C04 3 led.2) s1
    if crcBad then panLoad (raise 0x0C02 4 (k : Nat) s2) else if p.host then completeOpt p.due stOk k s2 else s2
  else s)

/-- LEDGER_WRITE_DONE: field A starts; `delayUs` is the delay that the write has added. -/
def execLedgerWriteDone (delayUs : Nat) (s : State) : Res :=
  ok (when (panOn s && s.pan.phase = .ledger) (setPan fun x => { x with
    phase := .fieldA, ledger := x.ledNext, nz := x.ledNext.length, cmax := max x.cmax (min delayUs 0xFFFFFFFF) }) s)

/-- FIELD_B_START. -/
def execFieldBStart (s : State) : Res := ok (when (panOn s && s.pan.phase = .fieldA) (setPan fun x => { x with phase := .fieldB }) s)

/-! ## Compensation (R435) -/

/-- One compensation field: of polarity B for every pixel with L > 0, of polarity A for every pixel with L < 0, by turns. -/
def compRun (x : Pan) : Pan :=
  let pos := x.ledger.any fun p => 0 < p.2
  let neg := x.ledger.any fun p => p.2 < 0
  let polA := (x.compA && neg) || !pos
  let l := x.ledger.foldl (fun m p => mapPut 0 m p.1 (if polA then (if p.2 < 0 then p.2 + 1 else p.2) else (if 0 < p.2 then p.2 - 1 else p.2))) []
  { x with ledger := l, nz := l.length, compN := x.compN + 1, compA := !polA, phase := if l = [] then .blank else .comp }

/-- COMPENSATION_FIELD; the last one raises event 0x0C01. -/
def execCompensationField (s : State) : Res :=
  ok (if panOn s && s.pan.phase = .comp then
    let s1 := setPan compRun s
    when (s1.pan.phase = .blank) (raise 0x0C01 2 s1.pan.compN) s1
  else s)

end Sys2Proof.Machine
end

