-- ==== Sys2Proof/Machine/Descr.lean ====
section
/-! DEFINITION. What the opcodes do (02_shuttle_host_interface.md R57 to R67 and the chapters that R66 names): the effect of a descriptor that
has passed the checks of R57, and its answer. The checks and the order of starting are in Machine/Runner.lean. -/

namespace Sys2Proof.Machine

/-- A descriptor at work: its flight number (0 for one that the partner forwarded), itself, the world of its ring, its data, in a pair
its FWDSEQ and the period count at which both modules apply it, how the data that it returns cross to the mover, and
how the frames of a CAN_TX go on to the controller. -/
structure Call where
  no     : Nat
  d      : Desc
  secure : Bool
  data   : List Byte := []
  fwd    : Option Nat := none
  count  : Option Nat := none
  xfer   : Xfer := .whole
  onward : Mark := .good

/-- A completion: a RESULT of none is one that the spec does not state, a free value (assumption log 21). -/
structure Ans where
  status : Nat := 0
  result : Option Nat := some 0
  cflags : Nat := 0
  handle : Option Nat := none
deriving DecidableEq, Repr

/-- The state after a descriptor's effect, and its answer; none where it completes later. -/
abbrev Done := State × Option Ans

/-- OK with a RESULT. -/
def good (r : Nat) (s : State) : Done := (s, some { result := some r })

/-- A status for which no RESULT is stated. -/
def bad (st : Nat) (s : State) : Done := (s, some { status := st, result := none })

/-- A completion later. -/
def later (s : State) : Done := (s, none)

/-- Complete a descriptor with an answer. -/
def answer (no : Nat) (a : Ans) (s : State) : State :=
  match a.result with
  | some r => completeH no a.status r a.cflags a.handle s
  | none => completeH no a.status (Config.open32 s.free).toNat a.cflags a.handle (drawn s)

/-- The index that a handle names. -/
def descIdx (d : Desc) : Nat := d.handle % 8192

/-- What the table holds at the index that a descriptor's handle names. -/
def descEnt (s : State) (d : Desc) : Option HEntry := handleEnt s (descIdx d)

/-- The kind at that index, 0 for none. -/
def descKind (s : State) (d : Desc) : Nat := ((descEnt s d).map (·.kind)).getD 0

/-- The target at that index. -/
def descTarget (s : State) (d : Desc) : Nat := ((descEnt s d).map (·.target)).getD 0

/-! ## Channels -/

/-- The block as the configuration store keeps it: both sets of a loop slot. -/
def storedBlock (kind : Nat) (b : List Byte) : List Byte := if kind = 2 && b.length = 208 then b ++ b else b

/-- CREATE (R63, R64). -/
def apCreate (c : Call) (s : State) : Done :=
  let idx := c.d.arg0 % 8192
  let kind := c.d.arg1 % 256
  let target := c.d.arg1 / 256
  if createRepeats s idx kind target c.data then
    (s, some { result := some target, cflags := 2, handle := (handleEnt s idx).map (handleNo idx) })
  else
    match createBlocked s idx kind target with
    | some h => (s, some { status := stBusy, result := some h })
    | none =>
      if kindLimit kind ≤ (heldHandles s kind).length then bad stFull s
      else
        let gen := createGen s idx
        (chanMake idx gen { kind := kind, target := target, block := storedBlock kind c.data, secure := c.secure } s,
          some { result := some target, handle := some (gen * 8192 + idx) })

/-- DESTROY (R64). -/
def apDestroy (c : Call) (s : State) : Done := good 0 (chanDestroy (descIdx c.d) c.fwd c.count s)

/-! ## Images (R140, R149, R155) -/

/-- ZOROS_STAGE. -/
def apStage (c : Call) (s : State) : Done := good c.d.arg1 (stageWrite c.d.arg2 c.data s)

/-- ZOROS_CHECK. -/
def apCheck (c : Call) (s : State) : Done := later (setZor (fun z => { z with checks := z.checks ++ [(c.no, c.d.arg1)] }) s)

/-- ZOROS_SWAP: an exchange in ALONE; in a pair PREPARE is asked of the standby. -/
def apSwap (c : Call) (s : State) : Done :=
  let s1 := setZor (fun z => { z with swapNo := some c.no, swapCrc := c.d.arg2, ownCrc := none, peerCrc := none, peerScan := 0 }) s
  if s.mir.role = .active then
    let n := s1.mir.fwdseq
    later (forwardSend n 0 c.secure (descBytes c.d)
      { setZor (fun z => { z with phase := .prepare }) s1 with mir := { s1.mir with fwdseq := (n + 1) % 2 ^ 32 } })
  else later (swapBegin c.d.arg2 s1)

/-! ## Tasks, patches, points, forces (R104, R105, R142 to R144, R158) -/

/-- The engine of the task that a descriptor names. -/
def descEngine (s : State) (d : Desc) : Fin 8 := Fin.ofNat 8 (descTarget s d)

/-- TASK_CTRL: start, stop, set LM_MINIV (R105). A standby compares the signatures of a task that starts again (R129). -/
def apTask (c : Call) (s : State) : Done :=
  let n := descEngine s c.d
  let e := vget s.loom n
  match c.d.arg0 with
  | 0 =>
    if e.state = .stopped || e.state = .trapped || e.state = .overrun then
      good (e.scan + 1) { setLoom n (fun e => { e with state := .running, firstDue := true }) s with
        mir := { s.mir with noCompare := s.mir.noCompare.filter (· ≠ n.val) } }
    else good e.scan s
  | 1 =>
    if e.state = .running then later (stopNow n (setLoom n (fun e => { e with stopReq := true, stops := e.stops ++ [c.no] }) s))
    else good e.scan s
  | _ => good e.scan (setLoom n (fun e => { e with miniv := c.d.arg1 }) s)

/-- PATCH_VALUE (R142, R143). -/
def apPatch (c : Call) (s : State) : Done :=
  let n := descEngine s c.d
  let e := vget s.loom n
  let p : Patch := { no := c.no, sym := c.d.arg1, value := BitVec.ofNat 32 c.d.arg2, mask := BitVec.ofNat 32 c.d.arg3, fwd := c.fwd }
  match symbolOf s n c.d.arg1 with
  | none => (s, some { status := stBadImage, result := some 1 })
  | some y =>
    if !(within 1 3 y.kind) then (s, some { status := stBadImage, result := some 3 })
    else if !y.patchable then (s, some { status := stBadImage, result := some 2 })
    else if e.state = .running then later (setLoom n (fun e => { e with patches := e.patches ++ [p] }) s)
    else good e.done (patchApply n p s)

/-- Module data on their way to host memory (R59, R376 to R378): the descriptor completes with RESULT `r` where they cross sound. -/
def sendData (g : Nat) (addr : Nat) (b : List Byte) (r : Nat) (x : Xfer) (s : State) : Done :=
  let w := moverWrite g addr b x s
  match w.2 with
  | some st => bad st w.1
  | none => good r w.1

/-- The value of a point as software reads it: 0 at an unused index (R67). -/
def ptRead (s : State) (i : Nat) : Word := if (pointDef s i).kind = 0 then 0 else fitPoint (pointDef s i) (ptGet s i)

/-- POINT_READ (R67). -/
def apPointRead (c : Call) (s : State) : Done :=
  sendData 15 c.d.addr ((List.range c.d.arg0).flatMap fun i => leBytes 4 (ptRead s (c.d.arg1 + i)).toNat) c.d.arg0 c.xfer s

/-- FORCE_SET: at the next publish of a RUNNING writer, or at once (R158). -/
def apForce (c : Call) (s : State) : Done :=
  let pt := descTarget s c.d
  let v : Option Word := if bitOf c.d.arg0 0 then some (BitVec.ofNat 32 c.d.arg2) else none
  match writerRuns s pt with
  | some n => later { s with hub := { s.hub with wait := s.hub.wait ++ [{ engine := n.val, no := c.no, pt := pt, set := v, fwd := c.fwd }] } }
  | none =>
    let done := ((pointWriter s pt).map fun n => (vget s.loom n).done).getD 0
    good done (raiseFabric 0x010B 3 pt (publishOne pt (workingValue s pt) (forcePut { engine := 0, no := 0, pt := pt, set := v } s)))

/-! ## Loops (R181, R191, R202) -/

/-- The loop that a descriptor names. -/
def descLoop (s : State) (d : Desc) : Fin 256 := Fin.ofNat 256 (descTarget s d)

/-- The first period count that a command accepted now applies to. -/
def loopEff (c : Call) (s : State) (l : Fin 256) : Nat := 
  let p := (prismAt s (loopEngine l)).pcnt
  match c.count with
  | some k => pcntFull p k
  | none => pcntNext p

/-- A command joins what waits for a slot. -/
def slotSendAt (l : Fin 256) (eff : Nat) (cmd : SlotCmd) (s : State) : State :=
  setSlotL l (fun x => { x with pend := x.pend ++ [{ eff := eff, cmd := cmd }] }) s

/-- A set replaced in a stored block; the sink fields go into both. -/
def blockSet (setB : Bool) (b n : List Byte) : List Byte :=
  let sink (x : List Byte) := x.take 48 ++ slice n 48 32 ++ x.drop 80
  if setB then sink (b.take 208) ++ n else n ++ sink (b.drop 208)

/-- LOOP_CFG (R180, R181). -/
def apLoopCfg (c : Call) (s : State) : Done :=
  let l := descLoop s c.d
  let eff := loopEff c s l
  let setB := bitOf c.d.arg0 0
  good eff (chanRecord (descIdx c.d) (fun d => { d with block := blockSet setB d.block c.data })
    (slotSendAt l eff (.cfg setB (loopRead c.data 0)) s))

/-- The state of a slot in the present period, with what takes effect in it (R202). -/
def slotNow (s : State) (l : Fin 256) : RunSt :=
  let x := slotGet s l
  (slotAhead x ((x.pend.filter fun q => pcntLe q.eff (prismAt s (loopEngine l)).pcnt).map (·.cmd))).run

/-- LOOP_CTRL (R202). -/
def apLoopCtrl (c : Call) (s : State) : Done :=
  let l := descLoop s c.d
  let eff := loopEff c s l
  good eff (slotSendAt l eff (.ctrl c.d.arg0 (signed 32 c.d.arg2) (slotNow s l)) s)

/-- The signed 16-bit entries of a table. -/
def tableRead (b : List Byte) : List Int := (pieces 2 b).map fun p => signed 16 (leAt p 0 2)

/-- A table of a kind among the commands of a slot. -/
def isTable (cog : Bool) : SlotCmd → Bool
  | .table k _ => k == cog
  | _ => false

/-- A table that waits for the period of a new one is replaced by it: it never takes effect. -/
def tableSuperseded (cog : Bool) (eff : Nat) (p : SlotPend) : Bool := isTable cog p.cmd && p.eff = eff

/-- LOOP_TABLE (R191, R192). -/
def apLoopTable (c : Call) (s : State) : Done :=
  let l := descLoop s c.d
  let t := tableRead c.data
  let cog : Bool := c.d.arg0 = 1
  good (c.d.arg1 / 2) (chanRecord (descIdx c.d) (fun d => if cog then { d with cog := t } else { d with fric := t })
    (slotSendAt l (loopEff c s l) (.table cog t)
      (setSlotL l (fun x => { x with pend := x.pend.filter fun p => !tableSuperseded cog (loopEff c s l) p }) s)))

/-- The units of 512 bytes that a table takes (R192). -/
def tableUnits (t : List Int) : Nat := (2 * t.length + 511) / 512

/-- The units of a table that a command carries. -/
def cmdUnits : SlotCmd → Nat
  | .table _ t => tableUnits t
  | _ => 0

/-- The table that a LOOP_TABLE replaces is in use. -/
def tableInUse (x : Slot) (cog : Bool) : Bool := x.run ≠ .disabled && (if cog then (selSet x).cogEn else (selSet x).fricEn)

/-- The new tables of a kind that wait to take effect: the period and the units. -/
def tablesNew (x : Slot) (cog : Bool) : List (Nat × Nat) :=
  ((x.comps.filter (!·.done)).flatMap fun k => (k.cmds.filter (isTable cog)).map fun c => (k.pc, cmdUnits c)) ++
    ((x.pend.filter fun p => isTable cog p.cmd).map fun p => (p.eff, cmdUnits p.cmd))

/-- The units that a slot's table of a kind takes in period `pc` (R192). A table that is not in use is replaced in its own units; one in use
keeps them until the last computation that uses it has completed. -/
def kindUnits (pc : Nat) (x : Slot) (cog : Bool) : Nat :=
  let cur := tableUnits (if cog then x.cogTab else x.fricTab)
  let new := tablesNew x cog
  if tableInUse x cog then
    (if new.any (fun e => e.1 ≤ pc && x.comps.all fun k => e.1 ≤ k.pc) then 0 else cur) + (new.map (·.2)).sum
  else ((new.getLast?).map (·.2)).getD cur

/-- The table units in use on an engine. -/
def unitsUsed (s : State) (n : Fin 4) : Nat :=
  let p := prismAt s n
  (p.slots.toList.map fun x => kindUnits p.pcnt x false + kindUnits p.pcnt x true).sum

/-- Units free for a LOOP_TABLE accepted now: the units of a table that is not in use, and of one that the new one supersedes, are its
own. -/
def unitsFree (s : State) (l : Fin 256) (cog : Bool) : Nat :=
  let x := slotGet s l
  let p := prismAt s (loopEngine l)
  128 - unitsUsed s (loopEngine l) +
    (if tableInUse x cog then ((x.pend.filter (tableSuperseded cog (pcntNext p.pcnt))).map fun q => cmdUnits q.cmd).sum else kindUnits p.pcnt x cog)

/-! ## Field and CAN channels (R223, R240, R248, R258, R262, R266, R276) -/

/-- FIELD_CFG: the block of the kind that the handle names. -/
def apFieldCfg (c : Call) (s : State) : Done :=
  let d : ChanDef := { kind := descKind s c.d, target := descTarget s c.d, block := c.data }
  good 0 (chanRecord (descIdx c.d) (fun x => { x with block := c.data }) (chanReconfig d s))

/-- The CAN channel that a descriptor names. -/
def descCan (s : State) (d : Desc) : Fin 8 := Fin.ofNat 8 (descTarget s d)

/-- CAN_CFG. -/
def apCanCfg (c : Call) (s : State) : Done :=
  good 0 (chanRecord (descIdx c.d) (fun x => { x with block := c.data }) (canApply (descCan s c.d) (canRead c.data) s))

/-- Frames of CAN_TX (R266): the frame, its IDENT word and its LEN; none where the bytes end early. -/
def txFrames : Nat → List Byte → Option (List (Nat × Nat × CanFrame))
  | 0, b => if b = [] then some [] else none
  | n + 1, b =>
    let w := leAt b 0 4
    let len := leAt b 4 1
    let all := 8 + (len + 7) / 8 * 8
    if b.length < all then none
    else (txFrames n (b.drop all)).map fun r =>
      (w, len, { ide := bitOf w 29, fdf := bitOf w 30, brs := bitOf w 31, esi := false, rtr := false
                 ident := BitVec.ofNat 29 w, data := slice b 8 len }) :: r

/-- CAN_TX: the frames that fit are queued; frames that reach the controller poisoned are dropped and counted (R377). -/
def apCanTx (c : Call) (s : State) : Done :=
  let ch := descCan s c.d
  let l := ((txFrames c.d.arg0 c.data).getD []).map (·.2.2)
  let fit := min l.length (64 - (vget s.can ch).tx.length)
  let s1 := if crossPois s 18 then crossDiscard s else match c.onward with
    | .good => canPush ch (l.take fit) s
    | .poisoned => canLost ch fit s
    | .parityBad => canLost ch fit (parityFail 18 s)
  (s1, some { status := if fit = l.length then stOk else stFull, result := some fit })

/-- CAN_STATE, with its cancel (R258, R268). -/
def apCanState (c : Call) (s : State) : Done :=
  match canStOf (c.d.arg0 % 16) with
  | some st => later (canRequest (descCan s c.d) { want := st, no := if c.no = 0 then none else some c.no, cancel := bitOf c.d.arg0 8 } s)
  | none => (s, some { status := stDenied, result := some 3 })

/-- CAN_FILTER (R262). -/
def apCanFilter (c : Call) (s : State) : Done :=
  good (c.d.arg1 / 24) (chanRecord (descIdx c.d) (fun x => { x with filt := c.data })
    (filtLoad (descCan s c.d) (filtTable c.data) s))

/-! ## Streams and recorder (R66, R418, R420, R422) -/

/-- STREAM_POST: the buffer joins the list; a CAN receive queue drains into it (R260). -/
def apStreamPost (c : Call) (s : State) : Done :=
  let s1 := setStream (descIdx c.d) (fun x => { x with bufs := x.bufs ++ [{ no := c.no, addr := c.d.addr, len := c.d.arg1 }] }) s
  let t := descTarget s c.d
  let ch : Fin 8 := Fin.ofNat 8 t
  later (when (t / 256 = 1) (canDrain (vget s1.can ch).rx.length ch) s1)

/-- STREAM_DROP. -/
def apStreamDrop (c : Call) (s : State) : Done :=
  let idx := descIdx c.d
  good (mapGetD {} s.shu.streams idx).bufs.length (streamEnd idx stAborted s)

/-- REC_READ. -/
def apRecRead (c : Call) (s : State) : Done :=
  let l := recordsFrom s (c.d.arg1 / 256) c.d.arg0
  sendData 13 c.d.addr l.flatten l.length c.xfer s

/-- REC_FREEZE. -/
def apRecFreeze (c : Call) (s : State) : Done :=
  let s1 := if c.d.arg0 = 1 then freezeTake (descIdx c.d) s else freezeDrop (descIdx c.d) s
  good s1.rcd.floss s1

/-- REC_CLEAR. -/
def apRecClear (_ : Call) (s : State) : Done := good 0 (recorderClear s)

/-! ## Brakes (R304, R306, R318, R322 to R326) -/

/-- BRK_REQ. -/
def apBrkReq (c : Call) (s : State) : Done :=
  let ch : Fin 4 := Fin.ofNat 4 (c.d.arg0 % 4)
  good 0 (match c.d.arg0 / 16 with
    | 1 => brkReqEngage ch s
    | 2 => brkReqRelease ch s
    | _ => brkReqTest ch (c.count.getD 0) s)

/-- The hash of a password (R324). -/
def pwHash (pw : List Byte) (salt : BitVec 128) : BitVec 256 := bvOf 256 (pbkdf2 pw (bvBytes 16 salt) 10000)

/-- The 10-minute lock, in µs. -/
def brkLockTime : Nat := 600000000

/-- A wrong password (R324, R325). -/
def brkWrong (op : Nat) (s : State) : State :=
  let n := s.brk.fails + 1
  let s1 := raise 0x0708 4 op { s with brk := { s.brk with fails := n } }
  when (5 ≤ n) (fun s => raise 0x0709 6 op { s with brk := { s.brk with lockUs := brkLockTime } }) s1

/-- A new password with a fresh salt. -/
def brkNewPw (pw : List Byte) (s : State) : State :=
  let salt := Config.random128 s.free
  { drawn s with brk := { s.brk with hasPw := true, salt := salt, hash := pwHash pw salt } }

/-- BRK_CFG. -/
def apBrkCfg (c : Call) (s : State) : Done :=
  let b := c.data
  let op := leAt b 2 2
  let newPw := bitOf (leAt b 1 1) 0
  let crc := crc32n (b.drop 40)
  if s.brk.hasPw && pwHash ((pwChars (slice b 4 16)).getD []) s.brk.salt ≠ s.brk.hash then
    (brkWrong op s, some { status := stDenied, result := some 7 })
  else
    let old := s.brk.crc
    let s1 : State := { s with brk := { s.brk with fails := 0 } }
    let now := s.brk.ch.toList.any (fun (y : BrkCh) => brkAtOnce y.st)
    let again := newPw && decide (crc = s.brk.pcrc)
    let pwOnly := newPw && (again || !now)
    let s2 := when newPw (brkNewPw ((pwChars (slice b 20 16)).getD [])) s1
    let s3 := when pwOnly (brkLogAdd op old old 2) s2
    let due := if again then s.brk.logDue else some (op, old, if newPw && now then 3 else 1)
    good crc (brkCfgApply (Vector.ofFn fun j => brkRead b j.val) crc due { s3 with brk := { s3.brk with raw := b.drop 40 } })

/-! ## Panel and role (R360, R430) -/

/-- PANEL_FRAME: the content goes into the host frame store and, with its CRC-32, into the driver's frame memory for the next frame commit;
a frame that waited before it is never shown. -/
def apPanel (c : Call) (s : State) : Done :=
  let s1 := completeOpt s.pan.due stOk 0 (panLoad { s with pan := { s.pan with store := c.data, stored := true, due := none } })
  if s.pan.host then later { s1 with pan := { s1.pan with due := some c.no } } else good 0 s1

/-- No heartbeat for 1 ms, and the partner's alive line low for 1 ms. -/
def partnerSilent (s : State) : Bool := !s.mir.palive && decide (1000 ≤ s.mir.hbUs) && decide (1000 ≤ s.mir.lowUs)

/-- What MIR_ROLE asks for can be done in this state, with no switch-over asked for or in progress (R357). -/
def mirRoleOk (s : State) (want : Nat) : Bool :=
  s.mir.decided && s.mir.swo = .none && (match want with
    | 1 => s.mir.role = .standby || (s.mir.role = .syncing && s.mir.syncph = 0)
    | 2 => (s.mir.role = .standby && !s.mir.detached) || ((s.mir.role = .standby || s.mir.role = .syncing) && partnerSilent s)
    | _ => s.mir.role = .active && s.mir.prole = 3)

/-- MIR_ROLE. A descriptor completes before the role change that it causes. -/
def apMirRole (c : Call) (s : State) : Done :=
  match c.d.arg0 with
  | 1 =>
    let s1 := complete c.no stOk 1 s
    later (if s.mir.role = .standby then toSyncing s.mir.lastDec s1 else syncBegin s1)
  | 2 =>
    if partnerSilent s then later (aloneStopped 11 (complete c.no stOk 0 s))
    else later (sendCmd .request 3 { s with mir := { s.mir with roleNo := some c.no, swo := .requested } })
  | _ => later (handOver 3 false { s with mir := { s.mir with roleNo := some c.no } })

/-! ## Every opcode -/

/-- The handle still names a live channel: otherwise a teardown has removed what the descriptor needs (R64). -/
def onHandle (c : Call) (f : Call → State → Done) (s : State) : Done :=
  match handleLook s c.d.handle [] with
  | .found _ _ => f c s
  | .bad _ => bad stAborted s

/-- The effect of an opcode. -/
def apply (c : Call) (s : State) : Done :=
  match c.d.op with
  | 0x00 => good 0 s
  | 0x01 => apCreate c s
  | 0x02 => onHandle c apDestroy s
  | 0x03 => good (handleQuery s c.d.arg0) s
  | 0x08 => apStage c s
  | 0x09 => apCheck c s
  | 0x0A => apSwap c s
  | 0x10 => onHandle c apTask s
  | 0x11 => onHandle c apPatch s
  | 0x12 => apPointRead c s
  | 0x13 => onHandle c apForce s
  | 0x18 => onHandle c apLoopCfg s
  | 0x19 => onHandle c apLoopCtrl s
  | 0x1A => onHandle c apLoopTable s
  | 0x20 => onHandle c apFieldCfg s
  | 0x28 => onHandle c apCanCfg s
  | 0x29 => onHandle c apCanTx s
  | 0x2A => onHandle c apCanState s
  | 0x2B => onHandle c apCanFilter s
  | 0x30 => onHandle c apStreamPost s
  | 0x31 => onHandle c apStreamDrop s
  | 0x38 => onHandle c apRecRead s
  | 0x39 => onHandle c apRecFreeze s
  | 0x3A => apRecClear c s
  | 0x40 => apBrkReq c s
  | 0x41 => apBrkCfg c s
  | 0x48 => apPanel c s
  | 0x50 => apMirRole c s
  | _ => (s, some { status := stDenied, result := some 1 })

end Sys2Proof.Machine
end

