-- ==== Sys2Proof/Machine/Runner.lean ====
section
/-! DEFINITION. HK0 and its descriptors (02_shuttle_host_interface.md R50, R55 to R59, R61, R66, R71, R72): which descriptor starts next, the
checks in the order of R57, the forwarding to the partner, and the commands of the opcodes. -/

namespace Sys2Proof.Machine

/-! ## The table of opcodes (R66) -/

/-- The Pair column. -/
inductive PairUse where
  | mirrored | activeOnly | here
deriving DecidableEq, Repr

/-- An opcode: the kinds its handle may name (none: it names no handle; an empty list: every kind), its treatment in a pair, whether it
uses ADDR, ARG1 and ARG2, the bits of ARG0 and ARG3 that it names, its world, and whether a DECOMMISSIONED module denies it (R397). -/
structure OpSpec where
  kinds  : Option (List Nat) := none
  pair   : PairUse := .here
  addr   : Bool := false
  arg1   : Bool := false
  arg2   : Bool := false
  arg0   : Nat := 0
  arg3   : Nat := 0
  secure : Bool := false
  life   : Bool := false

/-- The row of an opcode. -/
def opSpec (op : Nat) : Option OpSpec :=
  match op with
  | 0x00 => some {}
  | 0x01 => some { pair := .mirrored, addr := true, arg1 := true, arg2 := true, arg0 := 0x1FFF }
  | 0x02 => some { kinds := some [], pair := .mirrored }
  | 0x03 => some { arg0 := 0x1FFF }
  | 0x08 => some { addr := true, arg1 := true, arg2 := true, life := true }
  | 0x09 => some { arg1 := true, life := true }
  | 0x0A => some { pair := .activeOnly, arg2 := true, life := true }
  | 0x10 => some { kinds := some [1], pair := .mirrored, arg1 := true, arg0 := 0xFFFF, life := true }
  | 0x11 => some { kinds := some [1], pair := .mirrored, arg1 := true, arg2 := true, arg3 := 0xFFFFFFFF }
  | 0x12 => some { addr := true, arg1 := true, arg0 := 0xFFFF }
  | 0x13 => some { kinds := some [9], pair := .mirrored, arg2 := true, arg0 := 1 }
  | 0x18 => some { kinds := some [2], pair := .mirrored, addr := true, arg1 := true, arg0 := 1, life := true }
  | 0x19 => some { kinds := some [2], pair := .mirrored, arg2 := true, arg0 := 0xFFFF, life := true }
  | 0x1A => some { kinds := some [2], pair := .mirrored, addr := true, arg1 := true, arg0 := 0xFFFF, life := true }
  | 0x20 => some { kinds := some [3, 4, 5], pair := .mirrored, addr := true, arg1 := true, life := true }
  | 0x28 => some { kinds := some [6], pair := .mirrored, addr := true, arg1 := true, life := true }
  | 0x29 => some { kinds := some [6], pair := .activeOnly, addr := true, arg1 := true, arg0 := 0xFFFF, life := true }
  | 0x2A => some { kinds := some [6], pair := .mirrored, arg0 := 0x10F, life := true }
  | 0x2B => some { kinds := some [6], pair := .mirrored, addr := true, arg1 := true, life := true }
  | 0x30 => some { kinds := some [7], addr := true, arg1 := true }
  | 0x31 => some { kinds := some [7] }
  | 0x38 => some { kinds := some [8], addr := true, arg1 := true, arg0 := 0xFFFF }
  | 0x39 => some { kinds := some [8], arg0 := 0xFFFF }
  | 0x3A => some { secure := true, life := true }
  | 0x40 => some { pair := .mirrored, arg0 := 0xFF }
  | 0x41 => some { pair := .mirrored, addr := true, arg1 := true, secure := true, life := true }
  | 0x48 => some { addr := true, arg1 := true }
  | 0x50 => some { arg0 := 0xFFFF, secure := true }
  | _ => none

/-- The bytes that a descriptor reads from host memory. -/
def dataLen (d : Desc) : Nat :=
  if d.op = 0x01 then d.arg2
  else if [0x08, 0x18, 0x1A, 0x20, 0x28, 0x29, 0x2B, 0x41, 0x48].contains d.op then d.arg1
  else 0

/-- The length that R50 limits. -/
def limitLen (d : Desc) : Nat :=
  if d.op = 0x01 then d.arg2 else if d.op = 0x12 then 4 * d.arg0 else d.arg1

/-! ## Order (R55) -/

/-- A CAN_STATE whose state its channel has not reached. -/
def stateWaits (s : State) (g : Flight) : Bool :=
  let x := vget s.can (descCan s g.desc)
  x.req.any (·.no = some g.no) || x.held.any (·.no = some g.no)

/-- An earlier descriptor `g` of its ring holds `f` up: it has not started; a FENCE of either; or it names the same handle and has not
completed, a posted buffer apart, and a CAN_STATE that a later one cuts short (R259). -/
def holdsUp (s : State) (g f : Flight) : Bool :=
  g.st = .queued || bitOf f.desc.flags 0 || bitOf g.desc.flags 0 ||
    (g.st = .started && f.desc.handle ≠ 0 && g.desc.handle = f.desc.handle && g.desc.op ≠ 0x30 &&
      !(g.desc.op = 0x2A && f.desc.op = 0x2A && stateWaits s g))

/-! ## The checks (R57, R58) -/

/-- The fields that the opcode does not name, its reserved bits (reason 2). -/
def fieldsBad (p : OpSpec) (d : Desc) : Bool :=
  d.flags / 4 ≠ 0 || (p.kinds.isNone && d.handle ≠ 0) || d.arg0 &&& p.arg0 ≠ d.arg0 || d.arg3 &&& p.arg3 ≠ d.arg3 ||
    (!p.arg1 && d.arg1 ≠ 0) || (!p.arg2 && d.arg2 ≠ 0)

/-- A point lies in a secure region, one that the image sets (R393, R394; assumption log 101). -/
def pointSecure (s : State) (i : Nat) : Bool :=
  s.sec.regions.any fun p => 8 ≤ p.1 && p.2.en && (p.2.rdS || p.2.wrS) && p.2.base ≤ Config.pointAddr i / 4096 && Config.pointAddr i / 4096 ≤ p.2.limit

/-- The opcode needs the secure world and the ring is non-secure (reason 4). -/
def worldBad (s : State) (p : OpSpec) (d : Desc) (secure : Bool) : Bool :=
  !secure && (p.secure || (d.op = 0x02 && (descEnt s d).any (·.secure)) ||
    (d.op = 0x01 && d.arg1 % 256 = 9 && pointSecure s (d.arg1 / 256)) || (d.op = 0x13 && descKind s d = 9 && pointSecure s (descTarget s d)))

/-- The life-cycle state does not permit the opcode (reason 6). `b` is the data of a BRK_CFG. -/
def lifeBad (s : State) (p : OpSpec) (d : Desc) (b : Option (List Byte)) : Bool :=
  (d.op = 0x50 && d.arg0 = 1 && s.mir.decided && s.mir.role = .syncing && s.mir.syncph = 0 && lifeDiffers s) ||
    (s.sec.life = .decommissioned && (p.life || (d.op = 0x40 && d.arg0 / 16 = 2))) ||
    (d.op = 0x41 && (s.sec.life = .manufacture ||
      (!s.brk.hasPw && 0 < brkCount s && (s.sec.life ≠ .commission || b.any fun x => !(bitOf (leAt x 1 1) 0)))))

/-- The role does not permit the opcode (reason 5). -/
def roleBad (s : State) (p : OpSpec) (d : Desc) : Bool :=
  (p.pair ≠ .here && s.mir.decided && (s.mir.role = .syncing || s.mir.role = .standby)) ||
    (d.op = 0x0A && ((s.mir.role = .active && s.mir.prole ≠ 3) || (s.mir.role = .alone && s.zor.phase = .idle && anyRunning s))) ||
    (d.op = 0x50 && mirPresent s && within 1 3 d.arg0 && !(mirRoleOk s d.arg0))

/-- A reserved field of the descriptor's data is not 0 (reason 2). -/
def dataReserved (s : State) (d : Desc) (b : List Byte) : Bool :=
  match d.op with
  | 0x01 => (blockLens (d.arg1 % 256)).contains b.length && blockReserved (d.arg1 % 256) b
  | 0x18 => b.length = 208 && !(loopReserved b 0)
  | 0x20 => (blockLens (descKind s d)).contains b.length && blockReserved (descKind s d) b
  | 0x28 => b.length = 40 && !(canReserved b)
  | 0x29 => ((txFrames d.arg0 b).any fun l =>
      (l.zipIdx.any fun p => let ofs := ((l.take p.2).map fun x => 8 + (x.2.1 + 7) / 8 * 8).sum; !(zeroAt b (ofs + 5) 3)))
  | 0x2B => (List.range (b.length / 24)).any fun i => !(filtReserved b i)
  | 0x41 => b.length = 232 && !(brkReserved b)
  | _ => false

/-- ADDR and the length break R50 (reason 3). -/
def addrBad (p : OpSpec) (d : Desc) : Bool :=
  if p.addr then d.addr % 8 ≠ 0 || limitLen d % 4 ≠ 0 || 4194304 < limitLen d || (d.op = 0x01 && d.addr ≠ 0 && d.arg2 = 0)
  else d.addr ≠ 0

/-- The numbers of a descriptor are in their ranges, its data apart. -/
def rangeOk (s : State) (d : Desc) : Bool :=
  match d.op with
  | 0x01 => within 1 9 (d.arg1 % 256) && targetOk (d.arg1 % 256) (d.arg1 / 256) && (blockLens (d.arg1 % 256)).contains d.arg2
  | 0x08 => d.arg2 % 8 = 0 && d.arg2 + d.arg1 ≤ 16777216
  | 0x10 => d.arg0 ≤ 2 && (d.arg0 ≠ 2 || d.arg1 ≤ 0xFFFFFF)
  | 0x12 => within 1 4096 d.arg0 && d.arg1 + d.arg0 ≤ 16384
  | 0x18 => d.arg1 = 208
  | 0x19 => d.arg0 ≤ 5
  | 0x1A => (d.arg0 = 0 && d.arg1 = 512) || (d.arg0 = 1 && [32, 64, 128, 256, 512, 1024, 2048, 4096, 8192].contains d.arg1)
  | 0x20 => (descEnt s d).isNone || !([3, 4, 5].contains (descKind s d)) || (blockLens (descKind s d)).contains d.arg1
  | 0x28 => d.arg1 = 40
  | 0x29 => within 1 64 d.arg0
  | 0x2A => (canStOf (d.arg0 % 16)).isSome && (!(bitOf d.arg0 8) || [1, 3, 4].contains (d.arg0 % 16))
  | 0x2B => d.arg1 % 24 = 0 && d.arg1 ≤ 6144
  | 0x30 => 256 ≤ d.arg1
  | 0x38 => 256 ≤ d.arg1 && d.arg1 % 256 = 0
  | 0x39 => d.arg0 ≤ 1
  | 0x40 => bits d.arg0 2 2 = 0 && within 1 3 (d.arg0 / 16) &&
      (brkCount s = 0 || (let x := brkCh s (Fin.ofNat 4 (d.arg0 % 4)); x.cfg.enable))
  | 0x41 => d.arg1 = 232
  | 0x48 => d.arg1 = 12000
  | 0x50 => !(mirPresent s) || within 1 3 d.arg0
  | _ => true

/-- The data of a descriptor pass the checks of their chapter. -/
def dataOk (s : State) (d : Desc) (b : List Byte) : Bool :=
  let c := liveCtx s
  match d.op with
  | 0x01 => createDeny s (d.arg1 % 256) (d.arg1 / 256) b = 0
  | 0x18 => descKind s d ≠ 2 || (loopCheck c (descTarget s d) b 0 &&
      (let x := slotGet s (descLoop s d); x.run = .disabled || decide ((loopRead b 0).sink = x.setA.sink)))
  | 0x20 => !([3, 4, 5].contains (descKind s d)) ||
      blockOk c (descKind s d) (descTarget s d) ((liveAio s (descTarget s d)).map fun (g : AioCfg) => g.cmode) b
  | 0x28 => descKind s d ≠ 6 || (canCheck c (descTarget s d) b &&
      (let x := vget s.can (descCan s d)
       !(canTimingDiffers (x.next.getD x.cfg) (canRead b)) || x.st = .startup || x.st = .test || x.st = .recovery || x.st = .sleep))
  | 0x29 => match txFrames d.arg0 b with
    | some l => l.all fun x => frameOk (x.1 % 2 ^ 29) x.2.2.ide x.2.2.fdf x.2.2.brs x.2.1 &&
        (!x.2.2.fdf || descKind s d ≠ 6 || (vget s.can (descCan s d)).cfg.fdEn)
    | none => false
  | 0x2B => descKind s d ≠ 6 || filtCheck c (descTarget s d) (filtTable b)
  | 0x41 => brkCheck c s.brk.hasPw b
  | _ => true

/-- The PASSWORD of a BRK_CFG block does not match the stored password (R58, R324); during a lockout it is not judged (R325). -/
def passwordBad (s : State) (b : List Byte) : Bool :=
  s.brk.hasPw && decide (pwHash ((pwChars (slice b 4 16)).getD []) s.brk.salt ≠ s.brk.hash)

/-- The reason to deny a descriptor, 0 for none, in the order 1, 2, 4, 6, 5, 2 and 3 of the data (assumption log 25). `b` are its data,
none where they did not arrive sound. -/
def denyReason (s : State) (secure : Bool) (d : Desc) (b : Option (List Byte)) : Nat :=
  match opSpec d.op with
  | none => 1
  | some p =>
    if fieldsBad p d then 2
    else if worldBad s p d secure then 4
    else if lifeBad s p d b then 6
    else if roleBad s p d then 5
    else if b.any (dataReserved s d) then 2
    else if addrBad p d || !(rangeOk s d) then 3
    else if b.any fun x => !(dataOk s d x) then 3
    else if d.op = 0x41 && s.brk.lockUs = 0 && b.any (passwordBad s) then 7
    else 0

/-- The unit named is absent (R5, R8). -/
def unitAbsent (s : State) (d : Desc) : Bool :=
  match d.op with
  | 0x01 => targetAbsent (idCap s.ident.variant) (d.arg1 % 256) (d.arg1 / 256)
  | 0x40 => brkCount s = 0
  | 0x41 => brkCount s = 0
  | 0x50 => !(mirPresent s)
  | _ => false

/-- The handle does not name a live channel of a kind that suits (R61): the status. -/
def handleBad (s : State) (d : Desc) : Option Nat :=
  match (opSpec d.op).bind (·.kinds) with
  | none => none
  | some k => match handleLook s d.handle k with
    | .found _ _ => none
    | .bad st => some st

/-- The test unit of a channel (R445). -/
def kindUnit (kind target : Nat) : Option Nat :=
  match kind with
  | 1 => some target
  | 2 => some (8 + target / 64)
  | 3 => some 0x14
  | 4 => some 0x14
  | 5 => some 0x12
  | 6 => some 0x12
  | 7 => match target / 256 with
    | 1 => some 0x12
    | 2 => some (8 + target % 256 / 64)
    | 3 => some 0x14
    | _ => some 0x0D
  | 8 => some 0x0D
  | 9 => some 0x15
  | _ => none

/-- The test unit that a descriptor's target belongs to. -/
def descUnit (s : State) (d : Desc) : Option Nat :=
  match d.op with
  | 0x01 => kindUnit (d.arg1 % 256) (d.arg1 / 256)
  | 0x08 => some 0x10
  | 0x09 => some 0x10
  | 0x12 => some 0x15
  | 0x3A => some 0x0D
  | 0x50 => some 0x0E
  | op => if ((opSpec op).bind (·.kinds)).isSome then kindUnit (descKind s d) (descTarget s d) else none

/-- The descriptors that act as usual during a shutdown (R449). -/
def shutdownActs (op : Nat) : Bool := [0x00, 0x03, 0x12, 0x38, 0x39, 0x30, 0x31, 0x48].contains op

/-- The target is under self-test (R104, R185, R449, R451). -/
def testBusy (s : State) (d : Desc) : Bool :=
  (s.pwr.phase = .shutdown && !(shutdownActs d.op)) ||
    (match descUnit s d with
     | some u => s.pwr.testing.head? = some u || (u < 8 && (vget s.loom (Fin.ofNat 8 u)).state = .test) ||
        (within 8 11 u && (prismAt s (Fin.ofNat 4 (u - 8))).state = .test)
     | none => false)

/-- RETRY (R59, R153, R155, R356, R358). -/
def mustRetry (s : State) (d : Desc) : Bool :=
  match opSpec d.op with
  | none => false
  | some p =>
    (p.pair = .mirrored && s.mir.decided && s.mir.role = .active && s.mir.prole = 1 && within 1 4 s.mir.syncph) ||
      (p.pair = .mirrored && s.mir.role = .active && s.zor.phase ≠ .idle) || (p.pair = .mirrored && s.mir.div.isSome) || (p.pair ≠ .here && s.zor.frozen) ||
      (d.op = 0x10 && d.arg0 = 0 && s.mir.role = .alone && s.zor.phase ≠ .idle)

/-- The index or the table is full (R59, R62, R66, R192): none where it is not, else the RESULT, where one is stated. -/
def tableFull (s : State) (d : Desc) : Option (Option Nat) :=
  match d.op with
  | 0x30 => if 16 ≤ (mapGetD {} s.shu.streams (descIdx d)).bufs.length then some none else none
  | 0x1A =>
    let cog : Bool := d.arg0 = 1
    let free := unitsFree s (descLoop s d) cog
    if free < (d.arg1 + 511) / 512 then some (some (512 * (128 - unitsUsed s (loopEngine (descLoop s d))))) else none
  | _ => none

/-- The engine of the channel named has failed (R128, R184), or its bank is out of service (R446; assumption log 165). -/
def engineFailed (s : State) (d : Desc) : Bool :=
  let failed (kind target : Nat) : Bool := match kind with
    | 1 => (vget s.loom (Fin.ofNat 8 target)).state = .fault || bankHeld s (Fin.ofNat 8 target).val
    | 2 => (prismAt s (loopEngine (Fin.ofNat 256 target))).state = .fault || bankHeld s (8 + (loopEngine (Fin.ofNat 256 target)).val)
    | _ => false
  if d.op = 0x01 then failed (d.arg1 % 256) (d.arg1 / 256)
  else d.op ≠ 0x02 && ((opSpec d.op).bind (·.kinds)).isSome && failed (descKind s d) (descTarget s d)

/-- CREATE's BUSY and FULL, as far as they can be told from its data `b`: without them nothing where the index is LIVE with the same kind and
target. -/
def createHeld (s : State) (d : Desc) (b : Option (List Byte)) : Option Ans :=
  let idx := d.arg0 % 8192
  let kind := d.arg1 % 256
  let target := d.arg1 / 256
  let same : Bool := match b with
    | some x => createRepeats s idx kind target x
    | none => (handleEnt s idx).any fun e => e.st = .live && e.kind = kind && e.target = target
  if same then none
  else
    match createBlocked s idx kind target with
    | some h => some { status := stBusy, result := some h }
    | none => if kindLimit kind ≤ (heldHandles s kind).length then some { status := stFull, result := none } else none

/-- The statuses that are decided before a descriptor has any effect, in the order of R57. CREATE's BUSY and FULL are decided with its
effect, at the same instant. -/
def refusal (s : State) (secure : Bool) (d : Desc) (b : Option (List Byte)) : Option Ans :=
  let deny := denyReason s secure d b
  if deny ≠ 0 then some { status := stDenied, result := some deny }
  else if unitAbsent s d then some { status := stNotPresent, result := none }
  else
    match handleBad s d with
    | some st => some { status := st, result := none }
    | none =>
      if testBusy s d then some { status := stTestBusy, result := none }
      else if d.op = 0x41 && 0 < s.brk.lockUs then some { status := stLocked, result := none }
      else if mustRetry s d then some { status := stRetry, result := none }
      else if d.op = 0x0A && s.zor.phase ≠ .idle then some { status := stBusy, result := some 0 }
      else
        match tableFull s d with
        | some r => some { status := stFull, result := r }
        | none =>
          if engineFailed s d then
            (if d.op = 0x01 then (createHeld s d b).orElse fun _ => some { status := stTimeout, result := none }
             else some { status := stTimeout, result := none })
          else if d.op = 0x01 && b.isNone then createHeld s d none
          else none

/-- What a denial leaves. A ZOROS_SWAP that the role denies leaves its cause: 3 with event 0x010A where the partner is not STANDBY, 8
where tasks run (R154, R155). A MIR_ROLE that the life-cycle states deny raises event 0x0B08 (R401). A wrong password is counted (R324,
R325). -/
def deniedEffect (s : State) (secure : Bool) (d : Desc) (b : Option (List Byte)) : State :=
  if d.op = 0x41 && denyReason s secure d b = 7 then brkWrong (leAt (b.getD []) 2 2) s else
  if d.op = 0x0A && denyReason s secure d none = 5 then
    if s.mir.role = .active then raise 0x010A 5 3 (setZor (fun z => { z with lastCause := 3 }) s)
    else if s.mir.role = .alone then setZor (fun z => { z with lastCause := 8 }) s
    else s
  else if d.op = 0x50 && denyReason s secure d none = 6 then lifeEvent s
  else s

/-! ## Forwarding (R71) -/

/-- Mirrored descriptors are forwarded: the partner is STANDBY, or SYNCING in phase 5 (R358). -/
def mirrors (s : State) : Bool :=
  s.mir.decided && s.mir.role = .active && (s.mir.prole = 3 || (s.mir.prole = 1 && s.mir.syncph = 5))

/-- The period count at which both modules apply a loop descriptor: the first one that begins at least 1 ms from now (assumption log
26). -/
def forwardCount (s : State) (d : Desc) : Nat :=
  if d.op = 0x18 || d.op = 0x19 || d.op = 0x1A || (d.op = 0x02 && descKind s d = 2) then
    let p := prismAt s (loopEngine (descLoop s d))
    p.pcnt + 1 + 1000000 / (320 * max 1 p.perU) + 1
  else if h : d.op = 0x40 ∧ d.arg0 / 16 = 3 ∧ (brkCh s (Fin.ofNat 4 (d.arg0 % 4))).cfg.testLoop < 256 then
    let p := prismAt s (loopEngine ⟨(brkCh s (Fin.ofNat 4 (d.arg0 % 4))).cfg.testLoop, h.2.2⟩)
    p.pcnt + 1 + 1000000 / (320 * max 1 p.perU) + 1
  else 0

/-- A stop or DESTROY of a running task: latches are withheld until both modules apply it. -/
def stopsTask (s : State) (d : Desc) : Bool :=
  ((d.op = 0x10 && d.arg0 = 1) || d.op = 0x02) && descKind s d = 1 && (vget s.loom (descEngine s d)).state = .running

/-- Forward a mirrored descriptor, and wait for its acknowledgement. -/
def forwardDesc (c : Call) (s : State) : State :=
  let n := s.mir.fwdseq
  let k := forwardCount s c.d
  let w : FwdDesc := { fwdseq := n, count := k, no := c.no, bytes := descBytes c.d, data := c.data, secure := c.secure }
  let s1 := forwardSend n k c.secure (descBytes c.d ++ c.data) { s with mir := { s.mir with
    fwdseq := (n + 1) % 2 ^ 32, fwdWait := s.mir.fwdWait ++ [w] } }
  when (stopsTask s c.d) (setLoom (descEngine s c.d) fun e => { e with freezeAt := true }) s1

/-- The call of a descriptor that both modules apply. -/
def fwdCall (w : FwdDesc) : Call :=
  let d := descRead w.bytes
  { no := w.no, d := d, secure := w.secure, data := w.data, fwd := some w.fwdseq
    count := if d.op = 0x18 || d.op = 0x19 || d.op = 0x1A || d.op = 0x02 || d.op = 0x40 then some w.count else none }

/-- Apply a descriptor and complete it with its answer. -/
def applyNow (c : Call) (s : State) : State :=
  let r := apply c s
  match r.2 with
  | some a => answer c.no a r.1
  | none => r.1

/-- The active applies a forwarded descriptor: after its acknowledgement with MIRRORED set, or without it. One whose engine has failed
meanwhile completes with TIMEOUT (R128, R184). -/
def applyForwarded (w : FwdDesc) (mirrored : Bool) (peer : Option (Nat × Option Nat)) (s : State) : State :=
  let c := fwdCall w
  let s1 := { s with
    mir := { s.mir with fwdWait := s.mir.fwdWait.filter (·.fwdseq ≠ w.fwdseq) }
    shu := { s.shu with flights := s.shu.flights.map fun x =>
      if x.no = w.no then { x with cflags := if mirrored then 4 else 0, peer := peer } else x } }
  let s2 := when (descKind s c.d = 1) (setLoom (descEngine s c.d) fun e => { e with freezeAt := false }) s1
  if engineFailed s2 c.d then answer c.no { status := stTimeout, result := none } s2 else applyNow c s2

/-- MIRROR_ACK_TIMEOUT: no acknowledgement within 1 ms (R71). -/
def execMirrorAckTimeout (fwdseq : Word) (s : State) : Res :=
  ok (match s.mir.fwdWait.find? (fun w => w.fwdseq = fwdseq.toNat) with
    | some w => when (hkOn s) (applyForwarded w false none) s
    | none => s)

/-! ## The next descriptor (R52, R55) -/

/-- The domains of the block that serves a channel of a kind, and their clocks, run (R16, R19). -/
def kindRuns (s : State) (kind target : Nat) : Bool :=
  match kind with
  | 1 => loomOn s (Fin.ofNat 8 target)
  | 2 => prismOn s
  | 3 => pdOn s 11 && clkOn s 9
  | 4 => pdOn s 11 && clkOn s 9
  | 5 => pdOn s 10 && clkOn s 9
  | 6 => pdOn s 10 && clkOn s 8
  | 9 => fabricOn s
  | _ => true

/-- The block that the descriptor's effect needs runs (R20, R386): that of its channel, with the bank that HK0 writes (R366); the point hub,
the BMP, the DRAM controller, the ME, the panel driver. -/
def targetRuns (s : State) (d : Desc) : Bool :=
  match d.op with
  | 0x01 => kindRuns s (d.arg1 % 256) (d.arg1 / 256)
  | 0x08 => dramOn s
  | 0x09 => dramOn s
  | 0x0A => dramOn s
  | 0x11 => loomUp s (descEngine s d)
  | 0x12 => fabricOn s
  | 0x18 => prismOn s && bankOn s (8 + (loopEngine (descLoop s d)).val)
  | 0x1A => prismOn s && bankOn s (8 + (loopEngine (descLoop s d)).val)
  | 0x40 => bmpOn s || brkCount s = 0
  | 0x41 => bmpOn s || brkCount s = 0
  | 0x48 => panOn s
  | 0x50 => meOn s || !(mirPresent s)
  | op => ((opSpec op).bind (·.kinds)).isNone || kindRuns s (descKind s d) (descTarget s d)

/-- HK0 can start a descriptor: its target runs, or HK0 refuses it without it (R57, R72). -/
def mayStart (s : State) (f : Flight) : Bool :=
  f.poison || targetRuns s f.desc || (refusal s (ringSecure s f.ring) f.desc none).isSome

/-- The first descriptor in the order of fetch that may start; `pre` are those before it. -/
def readyIn (up : Flight → Flight → Bool) (may : Flight → Bool) : List Flight → List Flight → Option Flight
  | _, [] => none
  | pre, f :: r =>
    if f.st = .queued && pre.all (fun g => g.ring ≠ f.ring || !(up g f)) && may f then some f else readyIn up may (f :: pre) r

/-- The descriptor that HK0 starts next. -/
def nextDesc (s : State) : Option Flight := readyIn (holdsUp s) (mayStart s) [] s.shu.flights

/-! ## Starting a descriptor -/

/-- The bytes that host memory gives for a descriptor. -/
def hostBytes (d : Desc) (h : HostData) : List Byte := (h.bytes ++ List.replicate (dataLen d - h.bytes.length) 0).take (dataLen d)

/-- The addresses at which a run of bytes meets the units of the memory regions (R394). -/
def unitStarts (base len : Nat) : List Nat :=
  if len = 0 then [] else base :: ((List.range (len / 4096 + 1)).map fun k => (base / 4096 + 1 + k) * 4096).filter (· < base + len)

/-- The opcodes whose data go to module memory: the staging area by the mover, parameter sets and tables of loops by HK0 (R366). -/
def dataWrites (op : Nat) : Bool := [0x01, 0x08, 0x18, 0x1A].contains op

/-- The module address of an offset in the bank of a loop's engine (R366, R394). -/
def loopAddr (l : Fin 256) (ofs : BitVec 21) : Nat := bankBase (Fin.ofNat 24 (8 + l.val / 64)) + ofs.toNat

/-- The module addresses that the data of a descriptor touch: the staging area, points, records, and the parameter sets and tables of loops
(assumption log 164). -/
def dataAddrs (s : State) (d : Desc) : List Nat :=
  match d.op with
  | 0x08 => unitStarts (Config.stageAddr + d.arg2) d.arg1
  | 0x12 => (List.range d.arg0).map fun i => Config.pointAddr (d.arg1 + i)
  | 0x38 => (slotsFrom s (d.arg1 / 256) d.arg0).map fun p => Config.recAddr p.1
  | 0x01 =>
    let l : Fin 256 := Fin.ofNat 256 (d.arg1 / 256)
    if d.arg1 % 256 = 2 then
      unitStarts (loopAddr l (Config.loopSetOfs l.val false)) 208 ++ unitStarts (loopAddr l (Config.loopSetOfs l.val true)) 208
    else []
  | 0x18 => unitStarts (loopAddr (descLoop s d) (Config.loopSetOfs (descLoop s d).val (bitOf d.arg0 0))) d.arg1
  | 0x1A => unitStarts (loopAddr (descLoop s d) (Config.loopTabOfs (descLoop s d).val (d.arg0 = 1))) d.arg1
  | _ => []

/-- The regions that the image sets: those fixed by the firmware hold none of a descriptor's data against it (R394). -/
def imageRegions (s : State) : List (Nat × Region) := s.sec.regions.filter fun p => 8 ≤ p.1 && p.2.en

/-- The region that refuses a data access of a descriptor, and the address (R395). -/
def dataRefused (s : State) (secure : Bool) (d : Desc) : Option (Nat × Nat) :=
  let refuses (a : Nat) (p : Nat × Region) : Bool := regionCovers p.2 a && (if dataWrites d.op then p.2.wrS else p.2.rdS)
  if secure || imageRegions s = [] then none
  else (dataAddrs s d).findSome? fun a => ((imageRegions s).find? (refuses a)).map fun p => (p.1, a)

/-- A descriptor without its data, for which `st` says why there are none: refused where the order of R57 says so without them. -/
def dataMissing (f : Flight) (st : Nat) (s : State) : State :=
  let secure := ringSecure s f.ring
  match refusal s secure f.desc none with
  | some a => answer f.no a (deniedEffect s secure f.desc none)
  | none => answer f.no { status := st, result := none } s

/-- A descriptor starts with its data `b`: refused (HK0 then discards its data, R379), refused by a region (R395), forwarded or applied. -/
def startDesc (f : Flight) (b : List Byte) (xf : Xfer) (onward : Mark) (s : State) : State :=
  let secure := ringSecure s f.ring
  match refusal s secure f.desc (some b) with
  | some a => answer f.no a (bobRefuse 10 b (deniedEffect s secure f.desc (some b)))
  | none =>
    match dataRefused s secure f.desc with
    | some r => answer f.no { status := stPoison, result := none } (bobRefuse 10 b (regionViol r.1 (if dataWrites f.desc.op && f.desc.op ≠ 0x08 then 0x0C else 0x0F) r.2 (dataWrites f.desc.op) s))
    | none =>
      let c : Call := { no := f.no, d := f.desc, secure := secure, data := b, xfer := xf, onward := onward }
      let s1 := started f.no (when (b ≠ []) (bobThrough 10 b) s)
      if (opSpec f.desc.op).any (fun p => p.pair = .mirrored) && mirrors s then forwardDesc c s1 else applyNow c s1

/-- HK0 can start descriptors: not while its crossings are poisoned, for its pops see EMPTY (R385). -/
def hk0Runs (s : State) : Bool := hkOn s && linkOn s && !crossPois s 12

/-- HK0 starts the next descriptor if it satisfies `p`; `h` is what host memory gives for it, a poisoned TLP or a parity failure among it
(R59, R377); `x` is how the data that it returns cross to the mover. Of a descriptor whose own words came poisoned nothing is applied. -/
def runXfer (p : Desc → Bool) (h : HostData) (x : Xfer) (s : State) : Res :=
  ok (match nextDesc s with
    | some f =>
      if p f.desc && hk0Runs s then
        if f.poison then dataMissing f stPoison s
        else if 0 < dataLen f.desc && h.mark = .poisoned then aerNote (ringFn s f.ring) 12 (dataMissing f stPoison s)
        else if 0 < dataLen f.desc && h.mark = .parityBad then dataMissing f stPoison (parityFail 12 s)
        else startDesc f (hostBytes f.desc h) x h.onward s
      else s
    | none => s)

/-- A row that returns no data to host memory. -/
def runRow (p : Desc → Bool) (h : HostData) (s : State) : Res := runXfer p h .whole s

/-- A row whose opcode takes no data. -/
def runBare (p : Desc → Bool) (s : State) : Res := runRow p { bytes := [], mark := .good } s

/-- HOST_READ_TIMEOUT: the next descriptor's data do not arrive within 1 ms (R59): a completion timeout of the link. -/
def execHostReadTimeout (s : State) : Res :=
  ok (match nextDesc s with
    | some f =>
      if 0 < dataLen f.desc && hk0Runs s then aerNote (ringFn s f.ring) 14 (dataMissing f stTimeout s) else s
    | none => s)

/-! ## The commands of the opcodes -/

/-- UNKNOWN_OPCODE (R58 reason 1). -/
def execUnknownOpcode (s : State) : Res := runBare (fun d => (opSpec d.op).isNone) s

/-- NOP. -/
def execDescriptorNop (s : State) : Res := runBare (fun d => d.op = 0x00) s

/-- CREATE (R63). -/
def execCreate (h : HostData) (s : State) : Res := runRow (fun d => d.op = 0x01) h s

/-- DESTROY (R64). -/
def execDestroy (s : State) : Res := runBare (fun d => d.op = 0x02) s

/-- HANDLE_QUERY (R66). -/
def execHandleQuery (s : State) : Res := runBare (fun d => d.op = 0x03) s

/-- ZOROS_STAGE (R140). -/
def execZorosStage (h : HostData) (s : State) : Res := runRow (fun d => d.op = 0x08) h s

/-- ZOROS_CHECK (R140). -/
def execZorosCheck (s : State) : Res := runBare (fun d => d.op = 0x09) s

/-- ZOROS_SWAP (R149, R155). -/
def execZorosSwap (s : State) : Res := runBare (fun d => d.op = 0x0A) s

/-- TASK_CTRL start; an ARG0 that names no action is denied here. -/
def execTaskCtrlStart (s : State) : Res := runBare (fun d => d.op = 0x10 && d.arg0 ≠ 1 && d.arg0 ≠ 2) s

/-- TASK_CTRL stop. -/
def execTaskCtrlStop (s : State) : Res := runBare (fun d => d.op = 0x10 && d.arg0 = 1) s

/-- TASK_CTRL set LM_MINIV. -/
def execTaskCtrlSetMiniv (s : State) : Res := runBare (fun d => d.op = 0x10 && d.arg0 = 2) s

/-- PATCH_VALUE (R142). -/
def execPatchValue (s : State) : Res := runBare (fun d => d.op = 0x11) s

/-- POINT_READ (R67). -/
def execPointRead (s : State) : Res := runXfer (fun d => d.op = 0x12) { bytes := [], mark := .good } (moverData s) s

/-- FORCE_SET that forces (R158). -/
def execForceSet (s : State) : Res := runBare (fun d => d.op = 0x13 && bitOf d.arg0 0) s

/-- FORCE_SET that releases. -/
def execForceRelease (s : State) : Res := runBare (fun d => d.op = 0x13 && !(bitOf d.arg0 0)) s

/-- LOOP_CFG (R181). -/
def execLoopCfg (h : HostData) (s : State) : Res := runRow (fun d => d.op = 0x18) h s

/-- LOOP_CTRL enable; a code that is not in R202's table is denied here. -/
def execLoopCtrlEnable (s : State) : Res := runBare (fun d => d.op = 0x19 && !(within 1 5 d.arg0)) s

/-- LOOP_CTRL soft stop. -/
def execLoopCtrlSoftStop (s : State) : Res := runBare (fun d => d.op = 0x19 && d.arg0 = 1) s

/-- LOOP_CTRL select set A. -/
def execLoopCtrlSelectA (s : State) : Res := runBare (fun d => d.op = 0x19 && d.arg0 = 2) s

/-- LOOP_CTRL select set B. -/
def execLoopCtrlSelectB (s : State) : Res := runBare (fun d => d.op = 0x19 && d.arg0 = 3) s

/-- LOOP_CTRL manual. -/
def execLoopCtrlManual (s : State) : Res := runBare (fun d => d.op = 0x19 && d.arg0 = 4) s

/-- LOOP_CTRL auto. -/
def execLoopCtrlAuto (s : State) : Res := runBare (fun d => d.op = 0x19 && d.arg0 = 5) s

/-- LOOP_TABLE (R191). -/
def execLoopTable (h : HostData) (s : State) : Res := runRow (fun d => d.op = 0x1A) h s

/-- FIELD_CFG (R223, R240, R248). -/
def execFieldCfg (h : HostData) (s : State) : Res := runRow (fun d => d.op = 0x20) h s

/-- CAN_CFG (R276). -/
def execCanCfg (h : HostData) (s : State) : Res := runRow (fun d => d.op = 0x28) h s

/-- CAN_TX (R266). -/
def execCanTx (h : HostData) (s : State) : Res := runRow (fun d => d.op = 0x29) h s

/-- CAN_STATE without a cancel (R258). -/
def execCanState (s : State) : Res := runBare (fun d => d.op = 0x2A && !(bitOf d.arg0 8)) s

/-- CAN_STATE with a cancel (R268). -/
def execCanCancel (s : State) : Res := runBare (fun d => d.op = 0x2A && bitOf d.arg0 8) s

/-- CAN_FILTER (R262). -/
def execCanFilter (h : HostData) (s : State) : Res := runRow (fun d => d.op = 0x2B) h s

/-- STREAM_POST (R66). -/
def execStreamPost (s : State) : Res := runBare (fun d => d.op = 0x30) s

/-- STREAM_DROP (R66). -/
def execStreamDrop (s : State) : Res := runBare (fun d => d.op = 0x31) s

/-- REC_READ (R420). -/
def execRecRead (s : State) : Res := runXfer (fun d => d.op = 0x38) { bytes := [], mark := .good } (moverData s) s

/-- REC_FREEZE 1 (R418); an ARG0 above 1 is denied here. -/
def execRecFreeze (s : State) : Res := runBare (fun d => d.op = 0x39 && d.arg0 ≠ 0) s

/-- REC_FREEZE 0. -/
def execRecFreezeRelease (s : State) : Res := runBare (fun d => d.op = 0x39 && d.arg0 = 0) s

/-- REC_CLEAR (R422). -/
def execRecClear (s : State) : Res := runBare (fun d => d.op = 0x3A) s

/-- BRK_REQ engage; a code that R306 does not list is denied here. -/
def execBrkReqEngage (s : State) : Res := runBare (fun d => d.op = 0x40 && d.arg0 / 16 ≠ 2 && d.arg0 / 16 ≠ 3) s

/-- BRK_REQ release. -/
def execBrkReqRelease (s : State) : Res := runBare (fun d => d.op = 0x40 && d.arg0 / 16 = 2) s

/-- BRK_REQ brake test (R318). -/
def execBrkReqBrakeTest (s : State) : Res := runBare (fun d => d.op = 0x40 && d.arg0 / 16 = 3) s

/-- BRK_CFG (R323, R324). -/
def execBrkCfg (h : HostData) (s : State) : Res := runRow (fun d => d.op = 0x41) h s

/-- PANEL_FRAME (R430). -/
def execPanelFrame (h : HostData) (s : State) : Res := runRow (fun d => d.op = 0x48) h s

/-- MIR_ROLE 1; an ARG0 outside 1 to 3 is denied here. -/
def execMirRoleSyncing (s : State) : Res := runBare (fun d => d.op = 0x50 && d.arg0 ≠ 2 && d.arg0 ≠ 3) s

/-- MIR_ROLE 2 (R360). -/
def execMirRoleActive (s : State) : Res := runBare (fun d => d.op = 0x50 && d.arg0 = 2) s

/-- MIR_ROLE 3 (R360). -/
def execMirRoleStandby (s : State) : Res := runBare (fun d => d.op = 0x50 && d.arg0 = 3) s

/-- STREAM_BUFFER_TIMEOUT: 1 ms after the first byte was written into a posted buffer (R66). -/
def execStreamBufferTimeout (idx : Fin 8192) (s : State) : Res :=
  ok (match (mapGetD {} s.shu.streams idx.val).bufs with
    | b :: rest =>
      if hkOn s && 0 < b.used then complete b.no stOk b.used (setStream idx.val (fun x => { x with bufs := rest }) s) else s
    | [] => s)

end Sys2Proof.Machine
end

