-- ==== Sys2Proof/Machine/Power.lean ====
section
/-! DEFINITION. Power, start-up, self-test and the recovery ladder (18_power_start_up_and_recovery.md): what a reset keeps, the steps of the
ladder, function reinitialisation, the tests. -/

namespace Sys2Proof.Machine

/-- Change the power unit. -/
def setPwr (f : Pwr → Pwr) (s : State) : State := { s with pwr := f s.pwr }

/-! ## What a reset keeps (R68, R452, R455) -/

/-- Every domain that the variant has (R442). -/
def pdAll (s : State) : BitVec 12 := if mirPresent s then 0xFFF else 0xDFF

/-- Every clock domain that the variant has. -/
def clkAll (s : State) : BitVec 12 := if mirPresent s then 0xFFF else 0xF7F

/-- The count of module resets after `n`. -/
def nextReset (n : Nat) : Nat := if n = 0xFFFF then 1 else n + 1

/-- Every domain except PD0 is reset: what MRAM and PD0 hold stays, and the link's configuration (R452, R455). -/
def resetState (s : State) : State :=
  { State.reset with
    ident := s.ident, out := s.out, free := s.free, pending := s.pending
    shu := { nextNo := s.shu.nextNo, resets := nextReset s.shu.resets
             msixTab := s.shu.msixTab, msixPend := s.shu.msixPend, barAddr := s.shu.barAddr, aer := s.shu.aer
             sess := { count := s.shu.sess.count, fails := s.shu.sess.fails, lockUs := s.shu.sess.lockUs
                       state := if 0 < s.shu.sess.lockUs then .locked else .idle } }
    zor := { store := s.zor.store, chans := s.zor.chans, retA := s.zor.retA, retB := s.zor.retB }
    brk := { crc := s.brk.crc, logDue := s.brk.logDue, pcrc := s.brk.pcrc
             hasPw := s.brk.hasPw, salt := s.brk.salt, hash := s.brk.hash, fails := s.brk.fails, lockUs := s.brk.lockUs
             log := s.brk.log, logN := s.brk.logN, raw := s.brk.raw, stored := s.brk.stored }
    hed := { banks := resetBanks s.ident.variant, epochA := s.hed.epochA.map (· + 1), epochB := s.hed.epochA.map (· + 1) }
    sec := { State.reset.sec with life := s.sec.life, keySet := s.sec.keySet, key := s.sec.key }
    svc := { vbus := s.svc.vbus, count := s.svc.count, fails := s.svc.fails, lockUs := s.svc.lockUs, window := s.svc.window
             sess := if 0 < s.svc.lockUs then .locked else .none }
    rcd := { slots := s.rcd.slots, seq := s.rcd.seq, clr := s.rcd.clr }
    pan := { ledger := (ledgerCut s).pan.ledger }
    pwr := { up := s.pwr.up, link := s.pwr.link, aonRc := s.pwr.aonRc, feed0 := s.pwr.feed0, feed1 := s.pwr.feed1, lost0 := s.pwr.lost0, lost1 := s.pwr.lost1
             load := s.pwr.load, loadMax := s.pwr.loadMax, warmN := s.pwr.warmN, cause := s.pwr.cause, group := s.pwr.group, age := s.pwr.age
             ageUs := s.pwr.ageUs, units := s.pwr.units, todo := s.pwr.todo, warmAt := s.pwr.warmAt, late := s.pwr.late, noted := s.pwr.noted, pd := 0x001, run := 0 }
    side := s.side }

/-- The link's configuration is lost with the power of its domain. -/
def linkForget (s : State) : State :=
  { s with shu := { s.shu with msixTab := [], msixPend := Vector.replicate 2 0, barAddr := [], aer := Vector.replicate 2 0 } }

/-! ## Test units (R445) -/

/-- The test units present, in the order of the table. -/
def unitList (s : State) : List Nat :=
  List.range 8 ++ (List.range (prismCount s)).map (8 + ·) ++ [0x0C, 0x0D] ++ (if mirPresent s then [0x0E] else []) ++
    [0x10, 0x11, 0x12, 0x14, 0x15, 0x17] ++ (List.range 24).map (0x20 + ·)

/-- A unit's result is fresh. -/
def unitFresh (s : State) (u : Nat) : Bool :=
  match mapGet s.pwr.units u with
  | some r => r.result = 1 && decide (s.pwr.age < r.at_ + 2592000) && r.clean
  | none => false

/-- The code of a test's result. -/
def resultCode : TestResult → Nat
  | .pass => 1
  | .fail => 2
  | .aborted => 3

/-- A unit's result is written to MRAM; a failure raises event 0x0A05 (R446). A unit that passes is out of service no longer
(assumption log 165). -/
def unitRecord (u : Nat) (r : TestResult) (s : State) : State :=
  when (r = .fail) (raiseOrLate 0x0A05 7 u)
    (setPwr (fun p => { p with units := mapSet p.units u { result := resultCode r, at_ := p.age, clean := true }
                               todo := p.todo.filter (· ≠ u)
                               outFault := if r = .pass then p.outFault.filter (· ≠ u) else p.outFault }) s)

/-! ## Start-up and halt (R443, R455, R456) -/

/-- The module is in halt: READY 0, no role, event 0x0A08, which goes into a recorder rebuilt from MRAM (R416). After a reset nothing runs and the outputs are as before a role is decided. -/
def haltEnter (s : State) : State :=
  let s1 := setPwr (fun p => { p with phase := .halt, testing := [], testFor := none }) (when (!s.pwr.loaded) recorderRestart s)
  raiseOrLate 0x0A08 7 0 { s1 with shu := { s1.shu with ready := false }, mir := { s1.mir with decided := false, oalive := false } }

/-- Halt of a module that has run: tasks stop, outputs as before a role is decided (R444), vector 64 (R474). -/
def haltNow (s : State) : State := fieldOff (haltEnter (tasksStop (vector64 s)))

/-- Steps 2 to 10 of start-up, on a reset state: PD1 comes on, the other domains follow in their time (R443), and the units that are not
fresh, or that a shutdown has left untested (R450), are to be tested. -/
def startUp (s : State) : State :=
  let stale := (unitList s).filter fun u => !unitFresh s u || s.pwr.todo.contains u
  let s1 := setPwr (fun p => { p with
    pd := 0x003, run := 0x011, stage := some 0, pfw := false, loaded := false, off := false, testing := stale
    testFor := if stale = [] then none else some .startUp, phase := if stale = [] then .start else .startBist }) s
  panStart (brkRestart (usbAttach s1))

/-- A module warm reset with the cause and group recorded (R455); the third within 1 h of operating time leads to halt (R454). -/
def warmReset (s : State) : State :=
  let at_ := (s.pwr.warmAt.filter fun a => s.pwr.age < a + 3600) ++ [s.pwr.age]
  let s1 := resetState (vector64 s)
  let s2 := setPwr (fun p => { p with warmN := holdInc 0xFF p.warmN, warmAt := at_, late := p.late ++ [(0x0A04, 5, (p.cause : Int))] }) s1
  if !s.side.resetN then s2 else if 3 ≤ at_.length then haltEnter (startUp s2) else startUp s2

/-- Step 3 of the ladder: on an ACTIVE module with a STANDBY partner after a decided switch-over with code 2 (R346, R454). -/
def stepThree (cause group : Nat) (s : State) : State :=
  let s1 := setPwr (fun p => { p with cause := cause, group := group, reinit := [] }) s
  if s1.mir.swo = .oldWait then { s1 with mir := { s1.mir with swoReset := true, healthy := false } }
  else if mayHandOver s1 && meOn s1 && s1.pwr.phase = .run then handOver 2 true s1
  else warmReset s1

/-! ## Fences (R384, R387) -/

/-- The clock of a fence group's function runs (R16, R383). -/
def groupRuns (s : State) (g : Nat) : Bool :=
  if g < 8 then loomOn s (Fin.ofNat 8 g)
  else if g < 12 then prismOn s
  else match g with
    | 14 => meOn s
    | 15 => linkOn s
    | 16 => dramOn s
    | 17 => pdOn s 8 && clkOn s 6
    | 18 => pdOn s 10 && clkOn s 8
    | 19 => pdOn s 10 && clkOn s 9
    | 20 => panOn s
    | 21 => fieldOn s
    | 22 => bmpOn s
    | 24 => fabricOn s
    | _ => hkOn s

/-- The fences of a group close within 10 µs: its toggles get their acknowledges. -/
def fenceCloses (s : State) (g : Nat) : Bool := !(vget s.hed.toggles (Fin.ofNat 25 g)).busy || groupRuns s g

/-- The fences of a group close: a pulse that is held goes out when the acknowledge before it has come, holding bobbins drain, and what is
left of a partial packet is discarded. They open again in the same command (assumption log 175). -/
def fenceClose (g : Nat) (s : State) : State :=
  let t := vget s.hed.toggles (Fin.ofNat 25 g)
  let s1 := when (t.held && g = 17 && ethOn s) timSnapshot s
  foldFin 11 (fun u i => when ((bobGroups i).contains g) (bobAbandon i) u) s1

/-! ## Function reinitialisation (R128, R184, R384, R453) -/

/-- The groups that can be reinitialised. -/
def groupPermitted (g : Nat) : Bool := g ≤ 13 || (16 ≤ g && g ≤ 20) || g = 24

/-- A Loom engine is loaded afresh: its task STOPPED, or NONE without a live channel; the scan number continues. An engine that is out of
service stays in ENGINE_FAULT (R446). -/
def loomReinit (n : Fin 8) (s : State) : State :=
  let s1 := when ((vget s.loom n).state = .running) (taskLeave n .stopped 0 true) s
  let e := vget s1.loom n
  let s2 := setLoom n (fun _ => { scan := e.scan, done := e.done, ts := e.ts, state := if s1.pwr.outFault.contains n.val then .fault else .none }) s1
  match s2.zor.running with
  | some img => engineLoad img n (restoredData s2.zor img n) s2
  | none => drainHub s2

/-- A Prism engine starts its frame again with every slot DISABLED, its slots configured as their channels are. -/
def prismReinit (n : Fin 4) (s : State) : State :=
  let s1 := when ((prismAt s n).state = .run) (prismFail n) s
  let fresh (i : Nat) (x : Slot) : Slot :=
    match s1.zor.chans.find? fun p => p.2.kind = 2 && p.2.target = n.val * 64 + i with
    | some (_, d) => let g := loopSets d.block; if x.live then { live := true, setA := g.1, setB := g.2, fricTab := d.fric, cogTab := d.cog, tripOn := x.tripOn } else {}
    | none => {}
  setPrism n (fun p => { nslot := p.nslot, perU := p.perU, state := if s1.pwr.outFault.contains (8 + n.val) then .fault else if p.nslot = 0 then .idle else .run
                         slots := Vector.ofFn fun i => fresh i.val (vget p.slots i) }) s1

/-- HK0 holds no descriptor any more. -/
def hk0Reinit (s : State) : State :=
  pruneStreams { s with shu := { s.shu with flights := s.shu.flights.filter fun f => f.st = .done }
                        zor := { s.zor with checks := [] } }

/-- HK1 starts again: its session checks and confirmations end, its records come from MRAM. -/
def hk1Reinit (s : State) : State :=
  let s1 := svcEnd (setSess (fun x => if x.checking then { x with checking := false, state := .idle } else x) s)
  recorderRestart { s1 with sec := { s1.sec with pend := false } }

/-- The DRAM controller: histories, queues and staging are lost; streams complete ABORTED. -/
def dramReinit (s : State) : State :=
  let s1 := s.shu.streams.foldl (fun t p => streamEnd p.1 stAborted t) s
  let s2 := s1.zor.checks.foldl (fun t c => complete c.1 stAborted 0 t) s1
  { setZor (fun z => { z with stage := [], staged := 0, stagedImg := none, checks := [] }) s2 with
    can := s2.can.map fun (x : Can) => { x with rx := [], rxLoss := x.rxLoss || x.rx ≠ [] } }

/-- The Ethernet switch and the time unit, with the station parameters of the running image. -/
def ethReinit (s : State) : State :=
  let s1 : State := { s with eth := {}, tim := {} }
  match s.zor.running with
  | some img =>
    let g := img.station
    timSrvPut g.timSrv (timCtrlPut g.timCtrl (ethCfgPut g.ethCfg (setEth (fun e => { e with mac := g.mac, ipv4 := g.ipv4 }) s1)))
  | none => s1

/-- The CAN controllers: a DESTROY and a CREATE of every channel. -/
def canReinit (s : State) : State :=
  foldFin 8 (fun t c =>
    let x := vget t.can c
    if x.live then filtLoad c x.filt (setCan c (fun y => { y with recorded := x.recorded }) (canCreate c (x.next.getD x.cfg) (canDestroy c t))) else t) s

/-- The encoder interfaces. -/
def encReinit (s : State) : State :=
  foldFin 4 (fun t p => let x := vget t.enc p; if x.live then encApply p x.cfg (encDestroy p t) else t) s

/-- Field I/O logic: a DESTROY and a CREATE of every channel. -/
def fieldReinit (s : State) : State :=
  s.zor.chans.foldl (fun t p =>
    if !(liveTarget t p.2.kind p.2.target) then t
    else if p.2.kind = 3 then dioApply (Fin.ofNat 4 p.2.target) (dioRead p.2.block).statusPt (dioRead p.2.block).chs (dioDestroy (Fin.ofNat 4 p.2.target) t)
    else if p.2.kind = 4 then aioApply (Fin.ofNat 16 p.2.target) (aioRead p.2.block) (aioDestroy (Fin.ofNat 16 p.2.target) t)
    else t) s

/-- The ME and its lanes: nothing waits to be sent, the lanes train again. -/
def meReinit (s : State) : State :=
  { s with mir := { s.mir with
    txQ := [], cmds := [], peerCmds := [], fseqIn := none, pheard := false
    lanes := s.mir.lanes.map fun (l : Lane) => { l with up := false, lock := false, hb := false } } }

/-- The function of a group is reset. -/
def reinitEffect (g : Nat) (s : State) : State :=
  if h : g < 8 then loomReinit ⟨g, h⟩ s
  else if 8 ≤ g ∧ g < 12 then prismReinit (Fin.ofNat 4 (g - 8)) s
  else match g with
    | 12 => hk0Reinit s
    | 13 => hk1Reinit s
    | 14 => meReinit s
    | 16 => dramReinit s
    | 17 => ethReinit s
    | 18 => canReinit s
    | 19 => encReinit s
    | 20 => match s.zor.running with
      | some img => panCtrlPut img.station.panel (panStart s)
      | none => panStart s
    | 21 => fieldReinit s
    | 24 => setPwr (fun p => if p.testFor = some .direct then { p with testing := [], testFor := none, bRes := 3, bUnit := p.testing.headD 0 } else p) s
    | _ => s

/-- Step 2 of the ladder for one group: its fences close, its function is reset, event 0x0A03; both sides of its crossings agree again, and what its banks' handovers wait for is gone (R368). -/
def funcReinit (g : Nat) (s : State) : State :=
  let s1 := unitFault g (reinitEffect g (fenceClose g s))
  let s2 := crossReset g (hedOwnerReset g s1)
  let s3 := setPwr (fun p => { p with friN := holdInc 0xFF p.friN, friGroup := g, friAt := mapSet p.friAt g p.age, reinit := mapDel p.reinit g }) s2
  let s4 : State := when (g < 12 && tellsPartner s3) (faultTell g 0 true) { s3 with mir := { s3.mir with healthy := s3.mir.healthy || s3.pwr.reinit.isEmpty } }
  raiseOrLate 0x0A03 5 g s4

/-- The group has been reinitialised within the last 10 s. -/
def reinitRecent (s : State) (g : Nat) : Bool := (mapGet s.pwr.friAt g).any fun a => s.pwr.age < a + 10

/-- The ladder answers a fault of a group: step 2, or step 3 where step 2 is not permitted, was taken within 10 s, or the group's fences do
not close (R384). A standby then synchronises again (R346 code 8). -/
def ladder (g cause : Nat) (s : State) : State :=
  if groupPermitted g && !(reinitRecent s g) && fenceCloses s g then
    let s1 := funcReinit g s
    when s1.mir.decided (standbyLeaves 8) s1
  else stepThree cause g s

/-- The cause that PWR_RSTC shows for a step 3 of a group. -/
def groupCause (g : Nat) : Nat := if g = 22 then 7 else if g = 12 || g = 13 then 5 else if g = 14 then 6 else 3

/-- The groups whose time has come, with `us` µs gone by; an engine that has asked for a switch-over waits for its end. -/
def ladderRun (us : Nat) (s : State) : State :=
  let held : Bool := s.mir.swo = .oldWait
  let due := (s.pwr.reinit.filter fun p => p.2 ≤ us && !(held && p.1 < 12)).map (·.1)
  let left := (s.pwr.reinit.filter fun p => !due.contains p.1).map fun p => (p.1, p.2 - us)
  let s1 := setPwr (fun p => { p with reinit := left }) s
  due.foldl (fun t g => ladder g (groupCause g) t) s1

/-! ## Tests (R446, R448, R451) -/

/-- A unit is held out of service. -/
def unitOut (u : Nat) (s : State) : State :=
  setPwr (fun p => { p with outFault := if p.outFault.contains u then p.outFault else p.outFault ++ [u] }) s

/-- A failed bank is held out of service, owned by NONE; where a handover of it is stuck, when the old owner has been reset (R368). -/
def bankFail (b : Fin 24) (s : State) : State :=
  setHed b (fun k => if k.stuck then { k with req := 0x1F, back := none }
    else { k with owner := 0x1F, req := 0x1F, pend := false, drained := true, outst := 0, back := none }) (unitOut (0x20 + b.val) s)

/-- A failed unit is held out of service, or the module halts (R446). -/
def unitFail (u : Nat) (s : State) : State :=
  let s1 := unitOut u s
  if h : u < 8 then setLoom ⟨u, h⟩ (fun e => { e with state := .fault }) s1
  else if 8 ≤ u ∧ u < 12 then setPrism (Fin.ofNat 4 (u - 8)) (fun p => { p with state := .fault }) s1
  else if u = 0x11 ∨ u = 0x12 then s1
  else if 0x20 ≤ u then bankFail (Fin.ofNat 24 (u - 0x20)) s
  else haltNow s

/-- The fence groups whose function a unit's test reinitialises. -/
def unitGroups (u : Nat) : List Nat :=
  if u < 12 then [u] else if u = 0x10 then [16] else if u = 0x11 then [17] else if u = 0x12 then [18, 19]
  else if u = 0x0C then [12] else if u = 0x0D then [13] else if u = 0x0E then [14] else if u = 0x14 then [21] else []

/-- A tested unit comes back: its functions as reset, a bank with zeros. -/
def unitBack (u : Nat) (s : State) : State :=
  let s1 := (unitGroups u).foldl (fun t g => reinitEffect g t) s
  when (0x20 ≤ u) (bankZero (Fin.ofNat 24 (u - 0x20))) s1

/-- The order of a shutdown's tests: the two HK cores last. -/
def shutdownUnits (s : State) : List Nat := (unitList s).filter (fun u => u ≠ 0x0C && u ≠ 0x0D) ++ [0x0C, 0x0D]

/-- Step 2 of a shutdown: the retentive state, every unwritten record and the ledger are in MRAM. -/
def shutdownSave (s : State) : State :=
  let s1 := when s.zor.running.isSome retainSave s
  panFinish { s1 with rcd := { s1.rcd with slots := s1.rcd.slots.map fun p => (p.1, if p.2.dirty then writeSlot s1.rcd.clr p.2 else p.2) } }

/-- Step 1 of a shutdown: every task stops at the end of its scan, the field goes off (R448). -/
def shutdownBegin (restart : Bool) (s : State) : State :=
  let s1 := setPwr (fun p => { p with phase := .shutdown, shutReq := none, testing := shutdownUnits s, testFor := some (.shutdown restart) }) s
  let s2 := foldFin 8 (fun t n =>
    if (vget t.loom n).state = .running then stopNow n (setLoom n (fun e => { e with stopReq := true }) t) else t) s1
  fieldOff s2

/-- Step 4 of a shutdown: every ring pair DISABLED, READY 0, vector 64. -/
def ringsOff (s : State) : State :=
  vector64 (foldFin 64 (fun t r => disableRing r t) { s with shu := { s.shu with ready := false } })

/-- Step 5 of a shutdown: every fence closes (R387), and the module is off, or starts up again with cause 10. -/
def shutdownEnd (restart : Bool) (s : State) : State :=
  let s1 := resetState (setPwr (fun p => { p with cause := 10, group := 0xFF }) ((List.range 25).foldl (fun t g => fenceClose g t) s))
  if restart then startUp s1 else linkForget (setPwr (fun p => { p with off := true, cause := s.pwr.cause, group := s.pwr.group }) s1)

/-- UNIT_TEST_DONE. A shutdown's first test waits for the tasks to stop; before HK0's test every ring pair goes DISABLED (R448). -/
def execUnitTestDone (r : TestResult) (s : State) : Res :=
  ok (match s.pwr.testing, s.pwr.testFor with
    | u :: rest, some .startUp =>
      let s1 := unitRecord u r (setPwr (fun p => { p with
        testing := rest, testFor := if rest = [] then none else p.testFor, phase := if rest = [] then .start else p.phase }) s)
      when (r = .fail) (unitFail u) s1
    | u :: rest, some (.shutdown restart) =>
      if anyRunning s then s
      else
        let s0 := when (s.pwr.testing = shutdownUnits s) shutdownSave s
        let s1 := unitBack u (unitRecord u r (setPwr (fun p => { p with testing := rest }) s0))
        if rest = [] then shutdownEnd restart s1
        else when (rest.head? = some 0x0C) ringsOff ((unitGroups (rest.headD 0)).foldl (fun t g => fenceClose g t) s1)
    | u :: _, some .direct =>
      let s1 := unitRecord u r (setPwr (fun p => { p with testing := [], testFor := none, bRes := resultCode r, bUnit := u }) s)
      when (r = .fail) (unitFail u) (unitBack u s1)
    | _, _ => s)

/-- The BST block answers (R463). -/
def bstOpen (s : State) : Bool := s.sec.life ≠ .operate && s.sec.life ≠ .decommissioned

/-- A write of BST_CTRL: UNIT, and START (R451, R463). -/
def bstWrite (v : Nat) (s : State) : State :=
  let u := v % 256
  let s1 := setPwr (fun p => { p with bctl := u }) s
  let refused : Bool := s.pwr.testing ≠ [] || !((unitList s).contains u) ||
    (s.mir.decided && (s.mir.role = .active || (s.mir.role = .alone && anyRunning s)))
  if !(bitOf v 31) then s1
  else if refused then setPwr (fun p => { p with bRes := 3 }) s1
  else
    let s2 := setPwr (fun p => { p with testing := [u], testFor := some .direct }) ((unitGroups u).foldl (fun t g => fenceClose g t) s1)
    if h : u < 8 then setLoom ⟨u, h⟩ (fun e => { e with state := .test }) s2
    else if 8 ≤ u ∧ u < 12 then setPrism (Fin.ofNat 4 (u - 8)) (fun p => { p with state := .test }) s2
    else s2

/-- ROLLING_BIST_BANK_DONE. -/
def execRollingBistBankDone (b : Fin 24) (r : TestResult) (s : State) : Res :=
  ok (if rollActive s && ((hedBank s b).owner = 0x1F || (hedBank s b).owner = 0x10) && fabricOn s then
    let next := ((List.range 24).map fun i => (b.val + 1 + i) % 24).find? fun i => (hedBank s (Fin.ofNat 24 i)).owner = 0x1F
    let s1 := setPwr (fun p => { p with rollBank := next.getD p.rollBank }) (if (hedBank s b).owner = 0x10 then bistReturn b s else bankZero b s)
    let s2 := unitRecord (0x20 + b.val) r s1
    when (r = .fail) (bankFail b) s2
  else s)

/-- PWR_TREC for a unit (R462). -/
def unitShown (s : State) (u : Nat) : Nat :=
  if (unitList s).contains u then
    match mapGet s.pwr.units u with
    | some r => flag true 31 + flag (unitFresh s u) 30 + fld r.result 28 2 + min 0xFFFFFF ((s.pwr.age - r.at_) / 3600)
    | none => 0
  else 0

/-- A write of PWR_TSEL loads PWR_TREC. -/
def tselWrite (v : Nat) (s : State) : State := setPwr (fun p => { p with tsel := v % 256, trec := unitShown s (v % 256) }) s

/-! ## PWR_REQ (R447, R452, R453, R462) -/

/-- A request is refused. -/
def pwrRefuse (err : Nat) (s : State) : State := setPwr (fun p => { p with err := err }) s

/-- A controlled shutdown is asked for (R447). -/
def shutdownAsk (restart force : Bool) (s : State) : State :=
  if s.zor.phase ≠ .idle then pwrRefuse 5 s
  else if s.mir.role = .alone && anyRunning s && !force then pwrRefuse 6 s
  else if s.pwr.shutReq.isSome || s.pwr.phase = .shutdown || s.pwr.testing ≠ [] || s.mir.swo = .oldWait then pwrRefuse 7 s
  else if pairedActive s then handOver 3 false (setPwr (fun p => { p with shutReq := some (restart, force) }) s)
  else shutdownBegin restart s

/-- A write of PWR_REQ. In halt only OP 2 is accepted (R456). -/
def pwrReq (secure : Bool) (v : Nat) (s : State) : State :=
  let op := bits v 12 4
  let g := v % 256
  if bits v 16 16 ≠ 0x5AA5 then pwrRefuse 1 s
  else if within 2 4 op && !secure then pwrRefuse 3 s
  else if s.pwr.phase = .halt && op ≠ 2 then s
  else match op with
    | 1 =>
      if !(groupPermitted g) then pwrRefuse 2 s
      else if s.pwr.phase = .shutdown || (s.pwr.testing.head?).any (fun u => groupUnit g = some u) then pwrRefuse 4 s
      else
        let s1 := funcReinit g s
        when (s1.mir.decided && g < 12) (standbyLeaves 14) s1
    | 2 => stepThree 2 0xFF (setPwr (fun p => { p with warmAt := if p.phase = .halt then [] else p.warmAt }) s)
    | 3 => shutdownAsk false (bitOf v 8) s
    | 4 => shutdownAsk true (bitOf v 8) s
    | _ => s

/-! ## Feeds, start and loss of power (R440 to R443) -/

/-- 16.0 V, 15.0 V and 16.8 V in units of 10 mV. -/
def feedLost : Nat := 1600
/-- Below it the module rides through. -/
def feedRide : Nat := 1500
/-- Above it power-good can be declared. -/
def feedGood : Nat := 1680

/-- POWER_GOOD: the feeds and the core regulator have been in range for 2 ms. The event that a warm reset or a failure has left
behind is raised with step 12. -/
def execPowerGood (feed0 feed1 : Nat) (slot : Fin 2) (s : State) : Res :=
  ok (if !s.pwr.up && (feedGood < feed0 || feedGood < feed1) then
    let s0 := linkForget (if s.pwr.pd = 0x003 then s else resetState s)
    let s1 := setPwr (fun p => { p with
      up := true, link := false, uptime := 0, upUs := 0, feed0 := feed0, feed1 := feed1, lost0 := feed0 < feedLost, lost1 := feed1 < feedLost, warmN := 0, pfw := false, off := false
      cause := if p.noted then p.cause else 1, group := if p.noted then p.group else 0xFF, noted := false }) s0
    let s2 : State := { s1 with svc := { s1.svc with window := true }
                                side := { s1.side with slot := if s1.side.vioOk then slot else s1.side.slot, lit := true } }
    if s2.side.resetN then startUp s2 else setPwr (fun p => { p with pd := 0x001, run := 0 }) s2
  else s)

/-- The configuration store's image goes to work, with its channels; one that fails its check does not, with event 0x010D (R65, R140,
R147, R160, R443 steps 11 to 13). -/
def imageLoad (s : State) : State :=
  match s.zor.store.map fun (img : Image) => (img, imageCheck (idCap s.ident.variant) img.raw) with
  | none => chansRestore s
  | some (_, .inl (_, r)) => raise 0x010D 7 r (setZor (fun z => { z with running := none, imageCrc := 0 }) s)
  | some (img, .inr _) =>
    let s1 := setZor (fun z => { z with running := some img, imageCrc := img.crc }) s
    let s2 := foldFin 24 (fun t b => when (bankMovable b && !(t.pwr.outFault.contains (0x20 + b.val)) &&
      (hedBank t b).owner ≠ imageOwner img.banks b.val) (hedStart b (imageOwner img.banks b.val)) t) s1
    let s3 := foldFin 8 (fun t n => engineLoad img n (restoredData t.zor img n) t) s2
    chansRestore (paramsApply img { s3 with hub := { s3.hub with pts := img.points.foldl (fun m p => mapPut 0 m p.1 p.2.value) [] } })

/-- STARTUP_IMAGE_LOAD. Events that waited for HK1 are raised. -/
def execStartupImageLoad (s : State) : Res :=
  ok (if hkOn s && s.pwr.up && s.pwr.phase = .start && s.pwr.testing = [] && !s.pwr.loaded then
    let s0 := foldFin 24 (fun t b => when ((b.val = 10 || b.val = 11) && prismCount t < 4) (setHed b fun k => { k with owner := 0x1F, req := 0x1F }) t) s
    let s1 := recorderRestart (imageLoad s0)
    let s2 := s1.pwr.late.foldl (fun t e => raise e.1 e.2.1 e.2.2 t) s1
    setPwr (fun p => { p with loaded := true, late := [] }) s2
  else s)

/-- FEED_LOST: `v` in units of 10 mV. -/
def execFeedLost (n : Fin 2) (v : Nat) (s : State) : Res :=
  ok (if s.pwr.up && decide (v < feedLost) && !(if n = 0 then s.pwr.lost0 else s.pwr.lost1) then
    raiseOrLate 0x0A01 4 n.val (setPwr (fun p => if n = 0 then { p with feed0 := v, lost0 := true } else { p with feed1 := v, lost1 := true }) s)
  else s)

/-- FEED_INTERRUPTION: both feeds below 15.0 V, ridden through on the hold-up capacitance. -/
def execFeedInterruption (v0 v1 : Nat) (s : State) : Res :=
  ok (when (s.pwr.up && decide (v0 < feedRide) && decide (v1 < feedRide)) (setPwr fun p => { p with feed0 := v0, feed1 := v1 }) s)

/-- FEED_RESTORED: a lost feed returns, or both do; the end of an interruption raises event 0x0A01 with value 2. -/
def execFeedRestored (n : Option (Fin 2)) (v0 v1 : Nat) (s : State) : Res :=
  let rode : Bool := decide (s.pwr.feed0 < feedRide) && decide (s.pwr.feed1 < feedRide)
  ok (if s.pwr.up && !s.pwr.pfw then
    match n with
    | some k =>
      let v := if k = 0 then v0 else v1
      let s1 := setPwr (fun p => if k = 0 then { p with feed0 := v, lost0 := p.lost0 && decide (v < feedGood) }
        else { p with feed1 := v, lost1 := p.lost1 && decide (v < feedGood) }) s
      when (rode && decide (feedRide ≤ v)) (raiseOrLate 0x0A01 4 2) s1
    | none =>
      if feedRide ≤ v0 || feedRide ≤ v1 then
        let s1 := setPwr (fun p => { p with feed0 := v0, feed1 := v1, lost0 := decide (v0 < feedLost), lost1 := decide (v1 < feedLost) }) s
        when rode (raiseOrLate 0x0A01 4 2) s1
      else s
  else s)

/-- Everything that the module drives is off: digital switches, brake switches, CAN. -/
def outputsDead (s : State) : State :=
  { s with
    dio := s.dio.map fun (x : DioCh) => { x with sw := false }
    can := s.can.map fun (x : Can) => { x with st := .off, onBus := false, integ := false, tx := [] }
    brk := { s.brk with ch := s.brk.ch.map fun (x : BrkCh) => brkOpen x } }

/-- POWER_FAIL_WARNING (R441): lanes silent, outputs off, the panel at common, state saved, every domain except PD0 off. -/
def execPowerFailWarning (s : State) : Res :=
  ok (if s.pwr.up && decide (s.pwr.feed0 < feedRide) && decide (s.pwr.feed1 < feedRide) then
    let s1 := outputsDead (setPwr (fun p => { p with pfw := true }) s)
    let s2 := when (hkOn s1) shutdownSave (panStop s1)
    let s3 := setPwr (fun p => { p with
      up := false, link := false, cause := 9, group := 0xFF, noted := true, stage := none
      todo := match s.pwr.testFor with
        | some (.shutdown _) => s.pwr.testing
        | _ => p.todo
      pd := 0x001, run := 0, late := p.late ++ [(0x0A02, 7, 0)] }) s2
    { s3 with mir := { s3.mir with oalive := false, aliveUs := 0 }, svc := { s3.svc with pullup := false } }
  else s)

/-- CORE_REGULATOR_FAILURE (R459). -/
def execCoreRegulatorFailure (s : State) : Res :=
  ok (if s.pwr.up then
    let s1 := outputsDead s
    let s2 := setPwr (fun p => { p with up := false, link := false, cause := 11, group := 0xFF, noted := true, stage := none, pd := 0x001, run := 0 }) s1
    { s2 with
      svc := { s2.svc with pullup := false }
      mir := { s2.mir with oalive := false, aliveUs := 0 }
      brk := { s2.brk with disc := true }
      dbank := s2.dbank.map fun (k : DioBank) => { k with wdog := true }
      aio := s2.aio.map fun (a : Aio) => { a with wdog := true, bypass := a.bypass || (paired s && a.live && a.cfg.cmode = .passive) } }
  else s)

/-- POWER_CYCLE: the supply returns with PD0 reset (R456). -/
def execPowerCycle (s : State) : Res :=
  ok (let s1 := linkForget (resetState s)
    { s1 with
      pwr := { cause := s1.pwr.cause, group := s1.pwr.group, age := s1.pwr.age, ageUs := s1.pwr.ageUs, units := s1.pwr.units
               todo := s1.pwr.todo, warmAt := s1.pwr.warmAt, late := s1.pwr.late, noted := s1.pwr.noted }
      svc := { s1.svc with window := false, pullup := false }
      side := { s1.side with lit := false } })

/-! ## The carrier's reset line and sideband (R481 to R483) -/

/-- CARRIER_RESET: the module is held in reset. -/
def execCarrierReset (s : State) : Res :=
  ok (if s.side.vioOk && s.side.resetN then
    let s1 : State := { s with side := { s.side with resetN := false } }
    if s.pwr.up then warmReset (setPwr (fun p => { p with cause := 4, group := 0xFF }) s1) else s1
  else s)

/-- The warm reset that the line holds was the third within 1 h (R454). -/
def heldHalts (s : State) : Bool := s.pwr.warmN ≠ 0 && decide (3 ≤ s.pwr.warmAt.length)

/-- CARRIER_RESET_RELEASE: it starts again. -/
def execCarrierResetRelease (s : State) : Res :=
  ok (if !s.side.resetN then
    let s1 : State := { s with side := { s.side with resetN := true } }
    if !s.pwr.up then s1 else if heldHalts s then haltEnter (startUp s1) else startUp s1
  else s)

/-- VIO_AUX_OUT_OF_RANGE: RESET_N is taken as not asserted. -/
def execVioAuxOutOfRange (s : State) : Res :=
  ok (let s1 : State := { s with side := { s.side with vioOk := false, resetN := true } }
    if s.side.resetN || !s.pwr.up then s1 else if heldHalts s then haltEnter (startUp s1) else startUp s1)

/-- VIO_AUX_RESTORED. -/
def execVioAuxRestored (s : State) : Res := ok { s with side := { s.side with vioOk := true } }

/-- INDICATOR_TEST_END (R489). -/
def execIndicatorTestEnd (s : State) : Res := ok { s with side := { s.side with lit := false } }

/-! ## Watchdogs and failures (R454, R457 to R459) -/

/-- HK_WATCHDOG: the core is reset alone, with its fences open: words in flight, of which the spec gives no number, are discarded, its
crossings are poisoned, and the ladder acts within 1 ms (R385, R454, R457). -/
def execHkWatchdog (second : Bool) (s : State) : Res :=
  let g : Nat := if second then 13 else 12
  ok (if hkOn s then
    climb g 1000 (crossEpoch (Fin.ofNat 25 g) ((Config.open32 s.free).toNat % 0x10000) (reinitEffect g (raiseOrLate 0x0A06 6 g (drawn s))))
  else s)

/-- ME_WATCHDOG: the alive line falls, step 3; no switch-over can precede it. -/
def execMeWatchdog (s : State) : Res :=
  ok (if meOn s && mirPresent s then
    warmReset (setPwr (fun p => { p with cause := 6, group := 14, late := p.late ++ [(0x0A06, 6, 14)] }) (unitFault 14 s))
  else s)

/-- BMP_WATCHDOG: the disconnect and every brake switch open, step 3 (R317). -/
def execBmpWatchdog (s : State) : Res :=
  ok (if pdOn s 11 && 0 < brkCount s then
    let s1 := foldFin 4 (fun t c => brkReport c (setBrk c (fun x => brkOpen (brkDiscard x)) t)) (brkDisc s)
    stepThree 7 22 (setPwr (fun p => { p with late := p.late ++ [(0x0A06, 6, 22)] }) s1)
  else s)

/-- PLL_LOCK_LOSS: `d` is the CLK_STAT bit. With the Mirror PLL the alive line falls and no switch-over precedes step 3. -/
def execPllLockLoss (d : Fin 12) (s : State) : Res :=
  ok (if s.pwr.up && clkOn s d.val then
    let s1 := setPwr (fun p => { p with run := p.run &&& ~~~(1#12 <<< d.val), late := p.late ++ [(0x0A07, 7, (d.val : Int))] }) s
    if d.val = 7 then warmReset (setPwr (fun p => { p with cause := 8, group := 0xFF }) { s1 with mir := { s1.mir with oalive := false } })
    else stepThree 8 0xFF s1
  else s)

/-- CRYSTAL_FAILURE: the always-on domain runs on from the RC oscillator. -/
def execCrystalFailure (s : State) : Res :=
  ok (when (!s.pwr.aonRc) (fun s => raiseOrLate 0x0A09 4 0 (setPwr (fun p => { p with aonRc := true }) s)) s)

/-- DOMAIN_SUPPLY_LOSS: `d` is the power domain. Its blocks stop; without PD11 the coils de-energise (R21), without PD9 the alive line
falls (R347), without PD0 everything stops. -/
def execDomainSupplyLoss (d : Fin 12) (s : State) : Res :=
  ok (if s.pwr.up && pdOn s d.val then
    let s1 := setPwr (fun p => { p with pd := p.pd &&& ~~~(1#12 <<< d.val) }) s
    match d.val with
    | 1 => { s1 with svc := { s1.svc with pullup := false } }
    | 0 => outputsDead (setPwr (fun p => { p with pd := 0, run := 0, up := false, link := false, stage := none }) { s1 with mir := { s1.mir with oalive := false } })
    | 9 => { s1 with mir := { s1.mir with oalive := false } }
    | 11 => foldFin 4 (fun t c => setBrk c brkOpen t) s1
    | _ => s1
  else s)

/-- DRAM_UNCORRECTABLE_ERROR. -/
def execDramUncorrectableError (s : State) : Res := ok (when (pdOn s 7 && clkOn s 5) (fun s => ladder 16 3 (unitFault 16 s)) s)

/-- FIELD_IO_LOGIC_FAULT. -/
def execFieldIoLogicFault (s : State) : Res := ok (when (fieldOn s) (fun s => stepThree 3 21 (unitFault 21 s)) s)

/-- CDC_EPOCH: words in flight are discarded, the crossing is poisoned until its far side is reset, and the ladder acts (R385, R454). -/
def execCdcEpoch (g : Fin 25) (words : Nat) (s : State) : Res :=
  ok (if fabricOn s then
    climb g.val 1000 (crossEpoch g words s)
  else s)

/-! ## Indicators (R489) -/

/-- How an indicator shows. -/
inductive Lamp where
  | off | steady | flash
deriving DecidableEq, Repr

/-- PWR. -/
def lampPwr (s : State) : Lamp :=
  if s.side.lit then .steady
  else if s.pwr.feed0 < feedLost && s.pwr.feed1 < feedLost then .off
  else if s.pwr.lost0 || s.pwr.lost1 then .flash else .steady

/-- RUN. -/
def lampRun (s : State) : Lamp :=
  if s.side.lit then .steady
  else if !(pdOn s 1) then .off
  else match s.pwr.phase with
    | .run => if s.shu.ready then .steady else .off
    | .halt => .off
    | _ => .flash

/-- ROLE: how it shows, and whether green. -/
def lampRole (s : State) : Lamp × Bool :=
  if s.side.lit then (.steady, true)
  else if !(pdOn s 1) || !s.mir.decided then (.off, true)
  else match s.mir.role with
    | .active => (.steady, true)
    | .standby => (.steady, false)
    | .alone => (.flash, true)
    | .syncing => (.flash, false)

/-- FLT. -/
def lampFlt (s : State) : Lamp :=
  if s.side.lit || s.pwr.phase = .halt || s.pwr.outFault ≠ [] then .steady
  else if pdOn s 1 && (s.loom.toList.any (fun (e : Loom) => e.state = .fault) || s.prism.toList.any (fun (p : Prism) => p.state = .fault) ||
      s.brk.ch.toList.any fun (x : BrkCh) => x.st = .fault) then .flash
  else .off

/-- BRK. -/
def lampBrk (s : State) : Lamp :=
  if s.side.lit then .steady
  else if pdOn s 1 && s.brk.ch.toList.any (fun (x : BrkCh) => x.st = .releasing || x.st = .released) then .steady
  else .off

/-- P0 and P1: a frame that leaves the port is one that passes (DESIGN CHOICE, assumption log 166). -/
def lampPort (s : State) (p : Fin 2) : Lamp :=
  let x := vget s.eth.ports p
  if s.side.lit then .steady
  else if !(pdOn s 1) || x.speed = 0 then .off
  else if x.left ≠ 0 || x.high ≠ [] || x.low ≠ [] then .flash else .steady

/-- L0 and L1. -/
def lampLane (s : State) (l : Fin 2) : Lamp :=
  if s.side.lit then .steady else if pdOn s 1 && (vget s.mir.lanes l).up then .steady else .off

end Sys2Proof.Machine
end

