-- ==== Sys2Proof/Machine/SyncData.lean ====
section
/-! DEFINITION. Synchronisation data (13_mirror_redundancy.md R358): what phases 3 and 4 carry and how it is taken. The spec names the
content and gives no layout: numbers of 16 bytes in a row, each record behind a tag (assumption log 27). -/

namespace Sys2Proof.Machine

/-! ## Numbers in a row -/

/-- The bytes of a row of numbers. -/
def rowBytes (l : List Int) : List Byte := l.flatMap (leBytesInt 16)

/-- The numbers of a row of bytes. -/
def rowRead (b : List Byte) : List Int := (pieces 16 b).map fun p => signed 128 (leAt p 0 16)

/-- A reader takes what it needs from the front of a row. -/
abbrev Rd (α : Type) := List Int → Option (α × List Int)

/-- One number. -/
def rdInt : Rd Int
  | [] => none
  | x :: r => some (x, r)

/-- One natural number. -/
def rdNat : Rd Nat := fun l => (rdInt l).map fun p => (p.1.toNat, p.2)

/-- `n` things. -/
def rdMany {α : Type} (f : Rd α) : Nat → Rd (List α)
  | 0, l => some ([], l)
  | n + 1, l =>
    match f l with
    | none => none
    | some (x, r) => (rdMany f n r).map fun p => (x :: p.1, p.2)

/-- A list behind its length. -/
def rdList {α : Type} (f : Rd α) : Rd (List α) := fun l =>
  match rdNat l with
  | some (n, r) => if n ≤ r.length then rdMany f n r else none
  | none => none

/-- `n` numbers. -/
def rdInts (n : Nat) : Rd (List Int) := rdMany rdInt n

/-- A list behind its length. -/
def rowList {α : Type} (f : α → List Int) (l : List α) : List Int := (l.length : Int) :: l.flatMap f

/-- A truth value. -/
def rowBool (b : Bool) : Int := if b then 1 else 0

/-- A natural number. -/
def rowNum (n : Nat) : Int := n

/-- Number `i` of a row. -/
def rowAt (l : List Int) (i : Nat) : Int := (l[i]?).getD 0

/-- Number `i` of a row as a natural number. -/
def rowNat (l : List Int) (i : Nat) : Nat := (rowAt l i).toNat

/-- Number `i` of a row as a truth value. -/
def rowTrue (l : List Int) (i : Nat) : Bool := rowAt l i ≠ 0

/-- Number `i` of a row as a word. -/
def rowWord (l : List Int) (i : Nat) : Word := BitVec.ofInt 32 (rowAt l i)

/-! ## Phase 3, CONFIG -/

/-- One channel: index, generation and definition. -/
def chanRow (s : State) (p : Nat × ChanDef) : List Int :=
  let d := p.2
  [(p.1 : Int), (((handleEnt s p.1).map (·.gen)).getD 1 : Nat), (d.kind : Nat), (d.target : Nat), rowBool d.secure] ++
    rowList (fun b => [(b.toNat : Int)]) d.block ++ rowList (fun x => [x]) d.fric ++ rowList (fun x => [x]) d.cog ++
    rowList (fun b => [(b.toNat : Int)]) d.filt

/-- The configuration that the active sends; the channel table with every entry: kind, target and generation too of an index that is not LIVE
(R60, R65, R358). -/
def configRow (s : State) : List Int :=
  rowList (fun p : Nat × HEntry => [(p.1 : Int), (p.2.gen : Nat), (p.2.kind : Nat), (p.2.target : Nat), rowBool (p.2.st = .destroying)])
    (s.shu.handles.filter (·.2.st ≠ .live)) ++
  rowList (chanRow s) (s.zor.chans.filter fun p => (handleEnt s p.1).any (·.st = .live)) ++
    rowList (fun p : Nat × Option Word => [(p.1 : Int), rowBool p.2.isSome, ((p.2.getD 0).toNat : Int)]) s.hub.force ++
    s.can.toList.map (fun (x : Can) => ((canStCode x.recorded : Nat) : Int)) ++
    rowList (fun b => [(b.toNat : Int)]) s.brk.raw ++
    [(s.brk.pcrc : Int), rowBool s.brk.hasPw, (s.brk.salt.toNat : Int), (s.brk.hash.toNat / 2 ^ 128 : Nat), (s.brk.hash.toNat % 2 ^ 128 : Nat),
     (s.brk.fails : Nat), (s.brk.lockUs : Nat)] ++ s.brk.ch.toList.map fun (x : BrkCh) => rowBool x.hostRel

/-- The configuration as it arrives. -/
structure SyncCfg where
  gens  : List (Nat × HEntry)
  chans : List (Nat × Nat × ChanDef)
  force : SMap (Option Word)
  can   : List Nat
  raw   : List Byte
  brk   : List Int

/-- Bytes behind their number. -/
def rdBytes : Rd (List Byte) := fun l => (rdList rdInt l).map fun p => (p.1.map (BitVec.ofInt 8), p.2)

/-- One channel. -/
def rdChan : Rd (Nat × Nat × ChanDef) := fun l => do
  let (h, l) ← rdInts 5 l
  let (block, l) ← rdBytes l
  let (fric, l) ← rdList rdInt l
  let (cog, l) ← rdList rdInt l
  let (filt, l) ← rdBytes l
  some ((rowNat h 0, rowNat h 1,
    { kind := rowNat h 2, target := rowNat h 3, secure := rowTrue h 4, block := block, fric := fric, cog := cog, filt := filt }), l)

/-- The whole configuration. -/
def rdConfig : Rd SyncCfg := fun l => do
  let (ge, l) ← rdList (rdInts 5) l
  let (ch, l) ← rdList rdChan l
  let (fo, l) ← rdList (rdInts 3) l
  let (ca, l) ← rdInts 8 l
  let (raw, l) ← rdBytes l
  let (b, l) ← rdInts 11 l
  some ({ gens := ge.map (fun x =>
            (rowNat x 0, { gen := rowNat x 1, kind := rowNat x 2, target := rowNat x 3, st := if rowTrue x 4 then .destroying else .free }))
          chans := ch, force := fo.foldl (fun m f => mapSet m (rowNat f 0) (if rowTrue f 1 then some (rowWord f 2) else none)) []
          can := ca.map (·.toNat), raw := raw, brk := b }, l)

/-- A channel that the active does not have, or has otherwise, is taken away at once: nothing of it runs here. -/
def chanDrop (idx : Nat) (s : State) : State :=
  match handleEnt s idx with
  | some e =>
    let s1 := chanClose idx e none none (setHandle idx { e with st := .destroying } s)
    setHandle idx { e with st := .free } (chanGone idx e { s1 with zor := { s1.zor with chans := mapDel s1.zor.chans idx } })
  | none => s

/-- A channel stands here as the active has it but for tables and generation. -/
def chanSame (s : State) (c : Nat × Nat × ChanDef) : Bool :=
  (handleEnt s c.1).any (fun e => e.st = .live && e.kind = c.2.2.kind && e.target = c.2.2.target) &&
    (mapGet s.zor.chans c.1).any fun d => sameBlock d.kind d.block c.2.2.block

/-- A channel that stands already takes the generation and the tables. -/
def chanKeep (c : Nat × Nat × ChanDef) (s : State) : State :=
  let d := c.2.2
  let s1 := setHandle c.1 { kind := d.kind, target := d.target, gen := c.2.1, st := .live, crc := blockCrc d.kind d.block, secure := d.secure }
    { s with zor := { s.zor with chans := mapSet s.zor.chans c.1 d } }
  match d.kind with
  | 2 =>
    let g := loopSets d.block
    setSlotL (Fin.ofNat 256 d.target) (fun (x : Slot) => { x with setA := g.1, setB := g.2, fricTab := d.fric, cogTab := d.cog, pend := [] }) s1
  | 6 => filtLoad (Fin.ofNat 8 d.target) (filtTable d.filt) s1
  | _ => s1

/-- The brake configuration, the password hash and the lock state of the active, with a log entry of kind 4, and its host requests (R320,
R326). -/
def syncBrk (c : SyncCfg) (s : State) : State :=
  if brkCount s = 0 then s
  else
    let crc := rowNat c.brk 0
    let hash := BitVec.ofNat 256 ((BitVec.ofInt 128 (rowAt c.brk 3)).toNat * 2 ^ 128 + (BitVec.ofInt 128 (rowAt c.brk 4)).toNat)
    let s1 := brkLogAdd 0xFFFF s.brk.pcrc crc 4 s
    let s2 := { s1 with brk := { s1.brk with
      raw := c.raw, hasPw := rowTrue c.brk 1, salt := BitVec.ofInt 128 (rowAt c.brk 2), hash := hash, fails := rowNat c.brk 5, lockUs := rowNat c.brk 6 } }
    let g := if c.raw = [] then Vector.replicate 4 {} else Vector.ofFn fun j => brkRead (List.replicate 40 0 ++ c.raw) j.val
    foldFin 4 (fun t j => setBrk j (fun x => { x with hostRel := rowTrue c.brk (7 + j.val) }) t) (brkCfgApply g crc none s2)

/-- An index that is FREE here takes the entry that it has on the active (R65, R358). -/
def genTake (g : Nat × HEntry) (s : State) : State := if ((handleEnt s g.1).getD {}).st = .free then setHandle g.1 g.2 s else s

/-- Phase 3 is taken. -/
def syncConfig (c : SyncCfg) (s : State) : State :=
  let keep := c.chans.filter (chanSame s)
  let drop := (s.shu.handles.filter fun p => p.2.st ≠ .free && !(keep.any fun k => k.1 = p.1)).map (·.1)
  let s1 := drop.foldl (fun t i => chanDrop i t) (setZor (fun z => { z with waiting := [] }) s)
  let s1 := { s1 with shu := { s1.shu with handles := s1.shu.handles.filter fun p => p.2.st ≠ .free || c.gens.any fun g => g.1 = p.1 } }
  let s1 := c.gens.foldl (fun t g => genTake g t) s1
  let s2 := c.chans.foldl (fun t k => if keep.any (fun q => q.1 = k.1) then chanKeep k t else chanMake k.1 k.2.1 k.2.2 t) s1
  let s3 := foldFin 8 (fun t n => setCan n (fun x => { x with recorded := ((c.can[n.val]?).bind canStOf).getD x.recorded }) t) s2
  syncBrk c { s3 with hub := { s3.hub with force := c.force, wait := [] } }

/-! ## Phase 4, STATE -/

/-- Task states in order. -/
def taskCode : TaskSt → Nat
  | .none => 0
  | .stopped => 1
  | .running => 2
  | .trapped => 3
  | .overrun => 4
  | .fault => 5
  | .test => 6

/-- The task state of a code. -/
def taskOf_ (n : Nat) : TaskSt :=
  match n with
  | 1 => .stopped
  | 2 => .running
  | 3 => .trapped
  | 4 => .overrun
  | 5 => .fault
  | 6 => .test
  | _ => .none

/-- A map of words. -/
def rowMap (m : SMap Word) : List Int := rowList (fun p => [(p.1 : Int), (p.2.toNat : Int)]) m

/-- A map of words. -/
def rdMap : Rd (SMap Word) := fun l => (rdList (rdInts 2) l).map fun p => (p.1.map fun x => (rowNat x 0, rowWord x 1), p.2)

/-- A map of truth values. -/
def rowBits (m : SMap Bool) : List Int := rowList (fun p => [(p.1 : Int), rowBool p.2]) m

/-- A map of truth values. -/
def rdBits : Rd (SMap Bool) := fun l => (rdList (rdInts 2) l).map fun p => (p.1.map fun x => (rowNat x 0, rowTrue x 1), p.2)

/-- The committed data of a task. -/
def dataRow (d : LData) : List Int :=
  rowBits d.mb ++ rowMap d.mw ++
    rowList (fun p : Nat × Timer => [(p.1 : Int), (match p.2.st with
      | .idle => 0
      | .running => 1
      | .done => 2), (p.2.start.toNat : Int), (p.2.pt.toNat : Int), rowBool p.2.mem]) d.timers ++
    rowList (fun p : Nat × Counter => [(p.1 : Int), p.2.cv, p.2.pv, rowBool p.2.up, rowBool p.2.down]) d.ctrs ++
    rowBits d.edges ++ rowMap d.work

/-- The committed data of a task. -/
def rdData : Rd LData := fun l => do
  let (mb, l) ← rdBits l
  let (mw, l) ← rdMap l
  let (ti, l) ← rdList (rdInts 5) l
  let (ct, l) ← rdList (rdInts 5) l
  let (ed, l) ← rdBits l
  let (wk, l) ← rdMap l
  some ({ mb := mb, mw := mw, edges := ed, work := wk
          timers := ti.map fun x => (rowNat x 0, { st := if rowAt x 1 = 0 then .idle else if rowAt x 1 = 1 then .running else .done
                                                   start := rowWord x 2, pt := rowWord x 3, mem := rowTrue x 4 })
          ctrs := ct.map fun x => (rowNat x 0, { cv := rowAt x 1, pv := rowAt x 2, up := rowTrue x 3, down := rowTrue x 4 }) }, l)

/-- A task: engine, state, scan numbers, T_s, LM_MINIV, constants as patched, data. -/
def taskRow (s : State) (n : Fin 8) : List Int :=
  let e := vget s.loom n
  [2, (n.val : Int), (taskCode e.state : Nat), (e.scan : Nat), (e.done : Nat), (e.ts.toNat : Int), (e.miniv : Nat)] ++ rowMap e.kw ++ dataRow e.com

/-- The mirror point store. -/
def pointsRow (s : State) : List Int := 1 :: rowMap s.hub.pts

/-- A truth value that may be absent. -/
def rowOpt (o : Option Bool) : Int :=
  match o with
  | none => 0
  | some false => 1
  | some true => 2

/-- One slot, with the periods of its open computations. -/
def slotRow (x : Slot) : List Int :=
  [rowNum (runCode x.run), rowBool x.selB, rowBool x.manual, x.m, x.i, x.d, rowNum (x.act.val), rowOpt x.recSet, rowOpt (x.recMode.map (·.1)),
   ((x.recMode.map (·.2)).getD 0), x.vPrev, x.uPrev, x.r, rowBool x.ho, rowBool x.fe, rowNum (x.feCnt), rowBool x.hand, rowBool x.startR, x.fric, x.cog,
   rowNum (x.satN), rowNum (x.staleN), rowBool x.sat, rowBool x.lim, rowBool x.stale, x.y, x.u, rowNum (x.pc), rowBool x.hasRun, rowBool x.tripOn, x.outU] ++
    x.last.toList ++ x.staleRun.toList.map (fun k => rowNum k) ++ rowList (fun k : Comp => [rowNum k.pc]) (x.comps.filter (!·.done))

/-- RUN of a code. -/
def runOf (n : Nat) : RunSt :=
  match n with
  | 1 => .starting
  | 2 => .running
  | 3 => .stopping
  | 4 => .tripped
  | _ => .disabled

/-- One slot's state, laid over the slot as configured. -/
def rdSlot : Rd (Slot → Slot) := fun l => do
  let (h, l) ← rdInts 41 l
  let (o, l) ← rdList (rdInts 1) l
  let opt (i : Nat) : Option Bool := if rowAt h i = 1 then some false else if rowAt h i = 2 then some true else none
  some (fun x => { x with
    run := runOf (rowNat h 0), selB := rowTrue h 1, manual := rowTrue h 2, m := rowAt h 3, i := rowAt h 4, d := rowAt h 5
    act := Fin.ofNat 4 (rowNat h 6), recSet := opt 7, recMode := (opt 8).map fun b => (b, rowAt h 9), vPrev := rowAt h 10, uPrev := rowAt h 11
    r := rowAt h 12, ho := rowTrue h 13, fe := rowTrue h 14, feCnt := rowNat h 15, hand := rowTrue h 16, startR := rowTrue h 17
    fric := rowAt h 18, cog := rowAt h 19, satN := rowNat h 20, staleN := rowNat h 21, sat := rowTrue h 22, lim := rowTrue h 23
    stale := rowTrue h 24, y := rowAt h 25, u := rowAt h 26, pc := rowNat h 27, hasRun := rowTrue h 28, tripOn := rowTrue h 29, outU := rowAt h 30
    last := Vector.ofFn fun j => rowAt h (31 + j.val), staleRun := Vector.ofFn fun j => rowNat h (36 + j.val)
    sampled := none, pend := [], comps := o.map fun p => { pc := rowNat p 0 } }, l)

/-- A Prism engine at a period boundary: the period count, every slot, and the outputs released whose signature is not complete. -/
def prismRow (s : State) (n : Fin 4) : List Int :=
  let p := prismAt s n
  [3, (n.val : Int), (p.pcnt : Nat)] ++ rowList (fun e : Nat × Nat × Nat × Int => [(e.1 : Int), (e.2.1 : Int), (e.2.2.1 : Int), e.2.2.2]) p.sigOut ++
    p.slots.toList.flatMap slotRow

/-- A task's state is taken; one whose bank is out of service stays STOPPED (R446). -/
def taskTake (h : List Int) (kw : SMap Word) (d : LData) (s : State) : State :=
  drainHub <| setLoom (Fin.ofNat 8 (rowNat h 0)) (fun e => { loomHalt e with
    state := if e.state = .fault || e.state = .test then e.state
      else if bankHeld s (Fin.ofNat 8 (rowNat h 0)).val && taskOf_ (rowNat h 1) = .running then .stopped
      else taskOf_ (rowNat h 1)
    scan := rowNat h 2, done := rowNat h 3
    ts := rowWord h 4, miniv := rowNat h 5, kw := kw, com := d, fresh1 := true, firstDue := false, patches := [], stops := [], stopReq := false
    teardown := false }) s

/-- A Prism engine's state is taken; the loops of an engine that has failed, or whose bank is out of service, stay DISABLED (R446). -/
def prismTake (h : List Int) (o : List (List Int)) (f : List (Slot → Slot)) (s : State) : State :=
  if (prismAt s (Fin.ofNat 4 (rowNat h 0))).state = .fault || bankHeld s (8 + (Fin.ofNat 4 (rowNat h 0)).val) then s
  else setPrism (Fin.ofNat 4 (rowNat h 0)) (fun p => { p with
    pcnt := rowNat h 1
    sigOut := o.map fun e => (rowNat e 0, rowNat e 1, rowNat e 2, rowAt e 3)
    slots := Vector.ofFn fun i => ((f[i.val]?).getD id) (vget p.slots i) }) s

/-- The active's points: the mirror point store, and the Warp as the active holds it, so that every output has its command here too, whoever
its writer and whether it runs (R221, R358). -/
def pointsTake (m : SMap Word) (s : State) : State :=
  let warp := match s.zor.running with
    | some img => (img.points.filter fun p => p.2.kind = 3 || p.2.kind = 4).map fun p => (p.1, mapGetD 0 m p.1)
    | none => []
  publishPts warp { s with mir := { s.mir with pts := m } }

/-- One record of phase 4: the engine code it is for, 0x20 for the points, and what it does. -/
def rdState : Rd (Nat × (State → State)) := fun l => do
  let (tag, l) ← rdInt l
  if tag = 1 then
    let (m, l) ← rdMap l
    some ((0x20, fun s => pointsTake m s), l)
  else if tag = 2 then
    let (h, l) ← rdInts 6 l
    let (kw, l) ← rdMap l
    let (d, l) ← rdData l
    some ((rowNat h 0, taskTake h kw d), l)
  else if tag = 3 then
    let (h, l) ← rdInts 2 l
    let (o, l) ← rdList (rdInts 4) l
    let (f, l) ← rdMany rdSlot 64 l
    some ((0x10 + rowNat h 0, prismTake h o f), l)
  else none

/-- Every record of phase 4; `n` bounds their number. -/
def rdStates : Nat → List Int → Option (List (Nat × (State → State)))
  | _, [] => some []
  | 0, _ => none
  | n + 1, l =>
    match rdState l with
    | none => none
    | some (f, r) => (rdStates n r).map (f :: ·)

/-! ## Segments -/

/-- Send bytes in segments behind what the phase has sent. -/
def syncSend (b : List Byte) (s : State) : State :=
  let o := (s.mir.syncSent.map fun p => p.1 + p.2.length).foldl max 0
  (List.range ((b.length + 255) / 256)).foldl (fun t i => syncSeg (o + 256 * i) (slice b (256 * i) 256) t) s

/-- The bytes received, as far as they lie without a gap from offset `o`. -/
def syncJoin : Nat → SMap (List Byte) → List Byte
  | _, [] => []
  | o, (k, b) :: r => if k = o then b ++ syncJoin (o + b.length) r else []

/-- The bytes received in this phase. -/
def syncGot (s : State) : List Byte := syncJoin 0 s.mir.syncBuf

/-- Nothing is missing between the segments received. -/
def syncWhole (s : State) : Bool := (syncGot s).length = ((s.mir.syncBuf.map fun p => p.2.length).sum)

end Sys2Proof.Machine
end

