-- ==== Sys2Proof/Machine/Mirror.lean ====
section
/-! DEFINITION. The Mirror engine's commands (13_mirror_redundancy.md): the role decision, heartbeats and lanes, the decision logic, frames
from the partner, switch-overs, divergence checks, synchronisation; the publish of a scan and the period boundary, at which the state of
an engine is sent to a partner that synchronises. -/

namespace Sys2Proof.Machine

/-- Change the Mirror engine's state. -/
def setMir (f : Mirror → Mirror) (s : State) : State := { s with mir := f s.mir }

/-- The ME of a module with Mirror links runs. -/
def meRuns (s : State) : Bool := meOn s && mirPresent s

/-! ## Synchronisation on the active (R358) -/

/-- An engine's state is sent. -/
def syncSent (code : Nat) (row : List Int) (s : State) : State :=
  syncSend (rowBytes row) (setMir (fun m => { m with syncDue := m.syncDue.filter (· ≠ code) }) s)

/-- Phase 4 on the active: the point store at once, tasks that do not run and engines without a frame at once, the others at their next
publish or period boundary. Forwarding starts here. -/
def syncState (s : State) : State :=
  let tasks := (List.finRange 8).filter fun n => (vget s.loom n).task.isSome
  let run := tasks.filter fun n => (vget s.loom n).state = .running
  let frames := (List.finRange 4).filter fun n => n.val < prismCount s && prismRuns s n
  let s1 := setMir (fun m => { m with syncDue := run.map (·.val) ++ frames.map (0x10 + ·.val) }) s
  let s2 := syncSend (rowBytes (pointsRow s1)) s1
  (tasks.filter fun n => (vget s.loom n).state ≠ .running).foldl (fun t n => syncSend (rowBytes (taskRow t n)) t) s2

/-- The partner's phase has changed: the active sends what the phase carries. -/
def syncServe (ph : Nat) (s : State) : State :=
  let s1 := syncEnter ph s
  match ph with
  | 1 => syncSeg 0 (helloBytes s1) (drawn s1)
  | 2 => syncSend ((s1.zor.running.map (·.raw)).getD []) s1
  | 3 => syncSend (rowBytes (configRow s1)) s1
  | 4 => syncState s1
  | _ => s1

/-! ## The latches of a following module (R107, R144, R158, R348) -/

/-- A latch of the partner's begins a scan here, with the patches and forces that it names; one that is not held here makes the modules
differ, and a check starts (R356). -/
def latchStart (n : Fin 8) (f : LatchFrame) (w : SMap Word) (s : State) : State :=
  let names := f.named.map (·.toNat)
  let held := (vget s.loom n).patches.filterMap (·.fwd) ++ (s.hub.wait.filter fun x => x.engine = n.val).filterMap (·.fwd)
  let due (o : Option Nat) : Bool := o.any names.contains
  let k := f.scan.toNat
  let s1 := patchesApply n (fun p => due p.fwd) k (forcesNamed n (fun x => due x.fwd) k s)
  let s2 := when (f.freeze && s1.zor.phase = .prepared) (setZor fun z => { z with phase := .freeze, freezeF := some f.f }) s1
  let s3 := latchScan n f.ts k f.first f.forced w s2
  when (names.any (fun x => !held.contains x) && s3.mir.div.isNone && s3.mir.role = .standby) (divStart n.val) s3

/-- The engine can begin a scan. -/
def latchReady (s : State) (n : Fin 8) : Bool :=
  let e := vget s.loom n
  e.state = .running && e.mode = .idle && e.gather.isNone

/-- The oldest latch that waits for the engine begins its scan. -/
def latchNext (n : Fin 8) (s : State) : State :=
  match s.mir.latches.find? fun p => p.1.engine = n with
  | some p =>
    if latchReady s n then latchStart n p.1 p.2 (setMir (fun m => { m with latches := m.latches.erase p }) s) else s
  | none => s

/-! ## The publish of a scan and the period boundary -/

/-- PUBLISH: 2 µs after the commit began (R109); it waits while the scan's LATCH frame has not reached the standby (R349); the last publish of a freeze begins MAP; a latch that waits begins the next scan. -/
def execPublish (n : Fin 8) (s : State) : Res :=
  ok (match (vget s.loom n).commit with
    | some k =>
      if !(loomOn s n && fabricOn s) || publishHeld s then s
      else if forwards s && latchQueued s n.val k.scan then
        when (!k.waited) (fun s => setLoom n (fun e => { e with commit := some { k with waited := true } })
          (setMir (fun m => { m with wait := holdInc 0xFFFF m.wait }) s)) s
      else
        let s1 := swapFrozen (publishScan n k s)
        let e := vget s1.loom n
        let s2 := when (s1.mir.syncDue.contains n.val && e.mode = .idle && e.gather.isNone) (syncSent n.val (taskRow s1 n)) s1
        latchNext n s2
    | none => s)

/-- PRISM_PERIOD_START (R163). -/
def execPrismPeriodStart (n : Fin 4) (s : State) : Res :=
  ok (let s1 := prismPeriod n s
    let p := prismAt s1 n
    let s1 := when (p.offAt.any fun k => pcntLe k p.pcnt) (fun s => slotsOff n (setPrism n (fun p => { p with offAt := none }) s)) s1
    when (prismRuns s n && s1.mir.syncDue.contains (0x10 + n.val)) (syncSent (0x10 + n.val) (prismRow s1 n)) s1)

/-! ## The role decision (R333, R443 steps 14 and 15) -/

/-- The role that the ME decides. -/
def roleDecided (s : State) : Role × Bool :=
  if !(mirPresent s) then (.alone, false)
  else if s.mir.pheard then
    (if s.mir.prole = 0 || s.mir.prole = 2 then (.syncing, false) else if s.side.slot = 0 then (.alone, false) else (.syncing, false))
  else if s.mir.palive then (.syncing, true) else (.alone, false)

/-- A loop slot with AUTOENABLE is enabled (R179, R443). -/
def autoEnable (s : State) : State :=
  foldFin 256 (fun t l =>
    let x := slotGet t l
    when (x.live && x.setA.autoEn && prismRuns t (loopEngine l) && !(bankHeld t (8 + (loopEngine l).val))) (slotSend l (.ctrl 0 0 x.run)) t) s

/-- What starts by itself in ALONE: tasks with AUTOSTART, slots with AUTOENABLE, CAN channels with SVC_AT_START; every Warp point is
published with its fail value first. -/
def autoStart (s : State) : State :=
  let warp := match s.zor.running with
    | some img => (img.points.filter fun p => p.2.kind = 3 || p.2.kind = 4).map fun p => (p.1, p.2.value)
    | none => []
  let s1 := foldFin 8 (fun t n => when (vget t.loom n).task.isSome (taskSigned n) t) (publishPts warp (aioBypassAll false (dioEvalAll s)))
  let s2 := foldFin 8 (fun t n => when ((vget t.loom n).task.any (·.autostart)) (taskBegin n) t) s1
  let s3 := foldFin 8 (fun t c => when ((vget t.can c).live && (vget t.can c).cfg.svcStart) (setCan c fun x => { x with recorded := .service }) t) (autoEnable s2)
  canLeaveListen s3

/-- ROLE_DECISION. -/
def execRoleDecision (s : State) : Res :=
  ok (if hkOn s && s.pwr.phase = .start && s.pwr.loaded && !s.mir.decided then
    let r := roleDecided s
    let s1 := setMir (fun m => { m with role := r.1, decided := true, detached := r.2 }) (setPwr (fun p => { p with phase := .run }) s)
    let s2 := vector64 { s1 with shu := { s1.shu with ready := true } }
    let s3 := when (s2.mir.role = .alone && drives s2) autoStart s2
    when (syncMayBegin s3) syncBegin s3
  else s)

/-! ## Blocks sent (R338 to R341, R347) -/

/-- ROLE of a HEARTBEAT block. -/
def hbRole (s : State) : Nat := if s.mir.decided then roleCode s.mir.role else 4

/-- A HEARTBEAT block. -/
def heartbeatBlock (s : State) (l : Fin 2) : List Byte :=
  ctrlBlock ([0x4B] ++ leBytes 1 (hbRole s + flag (l = 1) 3 + flag s.mir.healthy 4 + flag s.mir.palive 5 + flag s.mir.detached 6 + flag (s.side.slot = 1) 7) ++
    leBytes 2 (vget s.mir.lanes l).hbseq ++ [0, 0] ++ leBytes 1 s.mir.syncph)

/-- A BRAKE block. -/
def brakeBlock (s : State) : List Byte :=
  let x (j : Fin 4) := brkCh s j
  ctrlBlock ([0x55] ++ (List.finRange 4).flatMap (fun j => leBytes 1 (x j).fcause) ++
    leBytes 2 ((List.finRange 4).map fun j => fld (brkStCode (x j).st) (3 * j.val) 3 + flag (x j).hold (12 + j.val)).sum)

/-- HEARTBEAT_SEND. -/
def execHeartbeatSend (s : State) : Res :=
  ok (if meRuns s && !s.pwr.pfw && s.side.resetN then
    foldFin 2 (fun t l =>
      let t1 := emit (.block l (heartbeatBlock t l)) t
      let t2 := setMir (fun m => { m with lanes := vmod m.lanes l fun x => { x with hbseq := (x.hbseq + 1) % 65536 } }) t1
      when (t2.mir.decided && t2.mir.role = .active) (emit (.block l (brakeBlock t2))) t2) s
  else s)

/-- ALIVE_REFRESH: not in halt or in reset, nor by a module that has handed over unhealthy. -/
def execAliveRefresh (s : State) : Res :=
  ok (when (meRuns s && !s.pwr.pfw && s.side.resetN && s.pwr.phase ≠ .halt && (s.mir.healthy || s.mir.role ≠ .syncing))
    (setMir fun m => { m with oalive := true, aliveUs := 0 }) s)

/-- COMMAND_REPEAT: another copy of every command without its answer, up to 8. -/
def execCommandRepeat (s : State) : Res :=
  ok (if meRuns s then
    let s1 := s.mir.cmds.foldl (fun t c => bothLanes (cmdBlock c.code c.arg c.seq) t) s
    setMir (fun m => { m with cmds := (m.cmds.map fun c => { c with sent := c.sent + 1 }).filter fun c => c.sent < 8 }) s1
  else s)

/-! ## The divergence check (R356) -/

/-- An engine fault that a check has found on a module that stays: no switch-over follows (outcome 4 of R356). -/
def engineFailedBy (code : Nat) (s : State) : State :=
  if h : code < 8 then (if (vget s.loom ⟨code, h⟩).state = .fault then s else engineFail ⟨code, h⟩ 4 false s)
  else if 0x10 ≤ code ∧ code < 0x14 then
    let n : Fin 4 := Fin.ofNat 4 (code - 0x10)
    if prismRuns s n then prismStop n 4 false s else s
  else s

/-- The events of an outcome. -/
def divEvents (out code : Nat) (failed : Bool) (s : State) : State :=
  when (failed && out ≠ 3) (raise 0x0809 7 code) (raise 0x0808 6 (out * 256 + code : Nat) (setMir (fun m => { m with div := none, divOut := out }) s))

/-- The outcome of a check, both results known: OUTCOME by the active's and the standby's failure. -/
def divOutcome (active standby : Bool) : Nat :=
  match active, standby with
  | false, false => 3
  | false, true => 2
  | true, false => 1
  | true, true => 4

/-- A check ends when both results are known; on a module left without its partner a failed result counts as outcome 4. -/
def divDecide (s : State) : State :=
  match s.mir.div with
  | none => s
  | some d =>
    match d.own, d.peer with
    | some own, peer? =>
      if s.mir.role = .alone then
        (if own then engineFailedBy d.engine (divEvents 4 d.engine true s) else setMir (fun m => { m with div := none }) s)
      else match peer? with
      | none => s
      | some peer =>
      if s.mir.role = .active then
        let out := divOutcome own peer
        let s1 := divEvents out d.engine own s
        if out = 1 then (if mayHandOver s1 then handOver 5 false s1 else s1)
        else if out = 4 then engineFailedBy d.engine s1 else s1
      else if s.mir.role = .standby then
        let out := divOutcome peer own
        let s1 := divEvents out d.engine own s
        if out = 1 then s1 else toSyncing s1.mir.lastDec s1
      else setMir (fun m => { m with div := none }) s
    | none, _ => s

/-- The readback of a digital output is wrong: RB_LOW or EXT_DRIVE, protection and forces left out (R213, R356). -/
def divDigital (s : State) (pt : Nat → Bool) : Bool :=
  s.dio.toList.any fun (x : DioCh) => dioOut x && pt x.cfg.outPt && x.prot = .none && !x.shed && (x.rbLow || x.ext)

/-- A transmitter's measured current lies more than 48 µA from its command. -/
def divAnalog (s : State) (pt : Nat → Bool) (ch : Nat → Bool) : Bool :=
  (List.finRange 16).any fun c =>
    let a := vget s.aio c
    a.live && a.cfg.cmode = .passive && (pt a.cfg.outPt || ch c.val) && a.cmdKnown && !a.wdog && !a.iso && 48 < ((a.pri : Int) - a.cmd).natAbs

/-- The field readback of an engine's last published outputs. -/
def divReadback (s : State) (code : Nat) : Bool :=
  let free (i : Nat) : Bool := match mapGet s.hub.force i with
    | some (some _) => false
    | _ => true
  if code < 8 then
    let pt (i : Nat) : Bool := (pointDef s i).writer = code && ((pointDef s i).kind = 3 || (pointDef s i).kind = 4) && free i
    divDigital s pt || divAnalog s pt (fun _ => false)
  else
    let sinks := ((prismAt s (Fin.ofNat 4 (code - 0x10))).slots.toList.filter fun (x : Slot) => x.run ≠ .disabled).map fun (x : Slot) => (selSet x).sink
    let pt (i : Nat) : Bool := (sinks.any fun (k : SinkCfg) => k.kind = 2 && k.index = i) && free i
    divDigital s pt || divAnalog s pt (fun c => sinks.any fun (k : SinkCfg) => k.kind = 1 && k.index = c)

/-- DIVERGENCE_CHECK_END: `pathFail` is the failure of the engine test or of the signature path; the active adds its readback. -/
def execDivergenceCheckEnd (pathFail : Bool) (s : State) : Res :=
  ok (match s.mir.div with
    | some d =>
      if meRuns s && d.own.isNone then
        let failed := pathFail || (holdsField s && divReadback s d.engine)
        let s1 := setMir (fun m => { m with div := some { d with own := some failed } }) s
        let s2 := when (s1.mir.role = .active || s1.mir.role = .standby) (sendCmd .checkResult (b2n failed + d.engine * 256)) s1
        divDecide s2
      else s
    | none => s)

/-! ## The decision logic (R334, R346, R355, R357) -/

/-- Both lanes are down. -/
def lanesLost (s : State) : Bool := s.mir.lanes.toList.all fun (l : Lane) => !l.up

/-- A decided switch-over is between D and the end of its step 7: a second decision is ignored (R357). -/
def switching (s : State) : Bool := s.mir.swo = .oldWait || s.mir.swo = .newScans || s.mir.swo = .newOutputs || s.mir.swo = .newAio

/-- The link is broken with the partner alive (R346 code 9). -/
def linkFault (s : State) : State :=
  syncDrop (raise 0x0803 6 0 (setMir (fun m => { m with detached := true, pdet := true, lossUs := none, lastDec := 9 }) s))

/-- The link is whole again (R357). -/
def linkWhole (s : State) : State :=
  let s1 := raise 0x0804 3 0 (setMir (fun m => { m with detached := false }) s)
  if s1.mir.role = .standby then toSyncing s1.mir.lastDec s1 else when (syncMayBegin s1) syncBegin s1

/-- The lanes and the partner's alive line are judged: codes 11 and 13; `drop` says that the line has just fallen, code 10. A line that is
high when both lanes go down may have begun to fall: code 9 waits until it has been watched for 5 µs (R347, R355; assumption log 176). -/
def judge (drop : Bool) (s : State) : State :=
  if !(meRuns s && s.mir.decided) || switching s then s
  else if lanesLost s then
    if s.mir.palive then
      when ((s.mir.role = .active || s.mir.role = .standby) && !s.mir.detached && s.mir.lossUs.isNone) (setMir fun m => { m with lossUs := some 0 }) s
    else if s.mir.role = .active then divDecide (partnerGone 13 s)
    else if s.mir.role = .syncing && s.pwr.phase = .run then aloneStopped 11 s
    else s
  else if drop && !s.mir.palive then syncDrop (raise 0x0805 5 0 (setMir (fun m => { m with lastDec := 10 }) s))
  else s

/-- ALIVE_LINE_DROP: the line has been low for 5 µs. -/
def execAliveLineDrop (s : State) : Res := ok (if meRuns s then judge s.mir.palive (setMir (fun m => { m with palive := false, lossUs := none, lowUs := if m.palive then 5 else m.lowUs }) s) else s)

/-- PARTNER_ALIVE_LINE_HIGH. -/
def execPartnerAliveLineHigh (s : State) : Res := ok (when (meRuns s) (setMir fun m => { m with palive := true, lowUs := 0 }) s)

/-- LANE_UP: DETACHED clears with the first lane, and a standby synchronises again. -/
def execLaneUp (l : Fin 2) (s : State) : Res :=
  ok (if meRuns s && (vget s.mir.lanes l).hb && !(vget s.mir.lanes l).up then
    let s1 := raise 0x0802 2 l.val (setMir (fun m => { m with lossUs := none, lanes := vmod m.lanes l fun x => { x with lock := true, up := true } }) s)
    if s1.mir.detached then linkWhole s1 else s1
  else s)

/-- The 10 µs intervals of the 50 µs without a heartbeat that have not been counted yet (R362). -/
def missLeft (x : Lane) : Nat := 5 - (x.gapUs - 1) / 10

/-- LANE_DOWN. With the second lane nothing is known of the partner any more. -/
def execLaneDown (l : Fin 2) (k : LaneCause) (s : State) : Res :=
  ok (if meRuns s && (vget s.mir.lanes l).up then
    let s1 := raise 0x0801 4 l.val (setMir (fun m => { m with lanes := vmod m.lanes l fun x =>
      match k with
      | .lockLost => { x with up := false, lock := false, hb := false }
      | .headerErrors => { x with up := false, crcN := holdAdd 0xFFFF x.crcN 16 }
      | .noHeartbeat => { x with up := false, hb := false, hbMiss := holdAdd 0xFFFF x.hbMiss (missLeft x), gapUs := max 51 x.gapUs } }) s)
    judge false (when (lanesLost s1) (setMir fun m => { m with pheard := false, fseqIn := none, peerCmds := [], plife := none }) s1)
  else s)

/-- EYE_OPENING_LOW (R336): the openings in the units of MIR_LANEn, below 0.25 UI or 40 mV. -/
def execEyeOpeningLow (l : Fin 2) (h v : Byte) (s : State) : Res :=
  ok (if meRuns s then
    let s1 := setMir (fun m => { m with lanes := vmod m.lanes l fun x => { x with eyeH := h.toNat, eyeV := v.toNat } }) s
    when (h.toNat < 64 || v.toNat < 10) (raise 0x080E 3 l.val) s1
  else s)

/-- SILENT_LOSS: the standby takes over as ALONE (R355); at or after the freeze instant of a swap it completes the swap alone (R154 cause
7); in a switch-over that it has begun it goes on (R357). -/
def execSilentLoss (s : State) : Res :=
  ok (if meRuns s && s.mir.decided && s.mir.role = .standby && !s.mir.detached && lanesLost s && !s.mir.palive && s.mir.swo ≠ .newScans then
    if s.zor.phase = .freeze || s.zor.phase = .map then raise 0x010A 5 7 (setZor (fun z => { z with lone := true, lastCause := 7 }) s)
    else
      let s1 := when (s.zor.phase = .prepare || s.zor.phase = .prepared) (swapEnd 6 stAborted none) s
      divDecide (raise 0x0806 6 4 (takeField .alone 4 s1))
  else s)

/-! ## Heartbeats received (R337, R339, R340) -/

/-- ROLE of a received HEARTBEAT. -/
def hbCode : HbRole → Nat
  | .alone => 0
  | .syncing => 1
  | .active => 2
  | .standby => 3
  | .starting => 4

/-- What an ACTIVE module does when its partner's role or phase shows a change; `was` and `ph` are the role and the phase that the partner
had shown. A synchronisation that the active has dropped goes on only from its beginning (R357). -/
def heartbeatActive (h : Heartbeat) (was ph : Nat) (s : State) : State :=
  let now := hbCode h.role
  if now = 0 || now = 2 then
    (if s.mir.swo = .none && s.side.slot = 1 then raise 0x080F 7 0 (aioBypassAll true (stopDriving (toSyncing 12 s))) else s)
  else if now = 4 then (if s.mir.swo = .none then divDecide (partnerGone s.mir.lastDec s) else s)
  else
    let s1 := when (was = 3 && now = 1 && (s.zor.phase = .prepare || s.zor.phase = .prepared)) (swapEnd 3 stDenied (some 5)) s
    if now = 3 then when (s1.mir.syncph ≠ 0) (syncEnter 0) s1
    else if h.syncph.val ≠ s1.mir.syncph && (h.syncph.val ≤ 1 || s1.mir.syncph ≠ 0) && h.syncph.val ≠ ph then syncServe h.syncph.val s1
    else s1

/-- DETACHED is set on both modules (R346 code 9): one follows its partner's bit when that changes; `was` is what it had shown. -/
def detachedSeen (was : Bool) (s : State) : State :=
  if s.mir.pdet && !was && !s.mir.detached && (s.mir.role = .active || s.mir.role = .standby) && !switching s then linkFault s
  else if !s.mir.pdet && was && s.mir.detached && !lanesLost s then linkWhole s
  else s

/-- HEARTBEAT. A partner that starts afresh numbers its commands anew. A module that synchronises sees from its partner's phase that the
active has dropped the synchronisation (R357). -/
def execHeartbeat (h : Heartbeat) (s : State) : Res :=
  ok (if !(meRuns s) then s
  else if !h.crcOk then setMir (fun m => { m with lanes := vmod m.lanes h.lane fun x => { x with crcN := holdInc 0xFFFF x.crcN } }) s
  else if h.laneBit ≠ h.lane then s
  else
    let was := s.mir.prole
    let fresh : Bool := h.role = .starting
    let s0 := setMir (fun m => { m with
      lanes := vmod m.lanes h.lane fun x => { x with hb := true, lock := true, gapUs := 0 }
      prole := hbCode h.role, phealthy := h.healthy, pslot := h.slot.val, pheard := true, peerSyncph := h.syncph.val
      pdet := h.detached, hbUs := 0, peerCmds := if fresh then [] else m.peerCmds, plife := if fresh then none else m.plife }) s
    if !s0.mir.decided || s0.pwr.phase ≠ .run then s0
    else
      let s1 := detachedSeen s.mir.pdet s0
      match s1.mir.role with
      | .alone =>
        if h.role = .syncing && h.syncph.val ≠ 0 && s1.mir.swo = .none then syncServe h.syncph.val (roleChange .active s1) else s1
      | .active => heartbeatActive h was s.mir.peerSyncph s1
      | .syncing =>
        if s.mir.peerSyncph ≠ 0 && h.syncph.val = 0 && s1.mir.syncph ≠ 0 then syncAbandon s1 else when (syncMayBegin s1) syncBegin s1
      | .standby => s1)

/-- BRAKE: a module that does not hold the field copies the active's brake states; its own faults stay (R320). -/
def execBrake (b : BrakeBlock) (s : State) : Res :=
  ok (if !(meRuns s) then s
  else if !b.crcOk then setMir (fun m => { m with lanes := vmod m.lanes b.lane fun x => { x with crcN := holdInc 0xFFFF x.crcN } }) s
  else if s.mir.decided && (s.mir.role = .standby || s.mir.role = .syncing) && s.mir.swo = .none then
    foldFin 4 (fun t j =>
      let st := brkStOf (vget b.state j).val
      let fc := vget b.fcause j
      let t1 : State := { t with brk := { t.brk with partner := vset t.brk.partner j ((vget b.state j).val, fc) } }
      let x := brkCh t1 j
      if x.st = .nocfg || x.st = .fault || st = .nocfg then t1
      else brkReport j (brkCopy j st (vget b.hold j) fc t1)) s
  else s)

/-! ## Commands received (R341) -/

/-- A command is taken at the first good copy of its sequence number; a copy with a bad CRC-8 is counted on its lane. -/
def cmdTake (m : MirCmd) (f : State → State) (s : State) : Res :=
  ok (if !(meRuns s) then s
  else if !m.crcOk then setMir (fun x => { x with lanes := vmod x.lanes m.lane fun l => { l with crcN := holdInc 0xFFFF l.crcN } }) s
  else if s.mir.peerCmds.contains m.seq.toNat then s
  else f (setMir (fun x => { x with peerCmds := (m.seq.toNat :: x.peerCmds).take 128 }) s))

/-- HANDOVER: the standby begins step 2 of R352; a swap in PREPARE ends with cause 3. -/
def execHandover (m : MirCmd) (s : State) : Res :=
  cmdTake m (fun s =>
    if s.mir.decided && s.mir.role = .standby && (s.mir.swo = .none || s.mir.swo = .requested) then
      let s1 := when (s.zor.phase = .prepare || s.zor.phase = .prepared) (swapEnd 3 stDenied (some 5)) s
      raise 0x0807 4 m.arg.toNat (cmdAnswered .request (setMir (fun x => { x with swo := .newScans, swoCode := m.arg.toNat, div := none }) s1))
    else s) s

/-- REQUEST: the active answers HANDOVER, or REFUSE. -/
def execRequest (m : MirCmd) (s : State) : Res :=
  cmdTake m (fun s =>
    if s.mir.decided && s.mir.role = .active && s.mir.swo = .none then
      if s.mir.prole ≠ 3 then sendCmd .refuse 1 s
      else if s.mir.div.isSome then sendCmd .refuse 2 s
      else if s.zor.phase = .freeze || s.zor.phase = .map then sendCmd .refuse 3 s
      else handOver m.arg.toNat false s
    else s) s

/-- Step 6 of R352: the old active stops driving and becomes SYNCING, or resets under code 2; a shutdown that waits begins. -/
def oldSteps (s : State) : State :=
  let s1 := completeOpt s.mir.roleNo stOk 3 (cmdAnswered .handover (setMir (fun x => { x with roleNo := none }) s))
  if s1.mir.swoReset then warmReset s1
  else
    let code := s1.mir.swoCode
    let s2 := if s1.mir.role = .syncing then setMir (fun x => { x with swo := .none }) s1 else toSyncing code s1
    let s3 := setMir (fun x => { x with swo := .oldAio }) (stopDriving s2)
    match s3.pwr.shutReq with
    | some (restart, _) => shutdownBegin restart s3
    | none => s3

/-- LIVE. -/
def execLive (m : MirCmd) (s : State) : Res := cmdTake m (fun s => if s.mir.swo = .oldWait then oldSteps s else s) s

/-- AIO_LIVE: the old active closes its bypass switches (R352 step 7); what was ignored until then is judged. -/
def execAioLive (m : MirCmd) (s : State) : Res :=
  cmdTake m (fun s => if s.mir.swo = .oldAio then judge false (aioBypassAll true (setMir (fun x => { x with swo := .none }) s)) else s) s

/-- DIVERGE: the active's own check starts. -/
def execDiverge (m : MirCmd) (s : State) : Res :=
  cmdTake m (fun s =>
    let code := m.arg.toNat
    if s.mir.decided && s.mir.role = .active && s.mir.div.isNone && s.mir.swo = .none && (code < 8 || (0x10 ≤ code && code < 0x14)) then
      setMir (fun x => { x with div := some { engine := code }, divEng := code, divCount := (x.divCount + 1) % 256 }) s
    else s) s

/-- CHECK_RESULT. -/
def execCheckResult (m : MirCmd) (s : State) : Res :=
  cmdTake m (fun s =>
    match s.mir.div with
    | some d =>
      if bits m.arg.toNat 8 8 = d.engine then
        divDecide (cmdAnswered .diverge (setMir (fun x => { x with div := some { d with peer := some (bitOf m.arg.toNat 0) } }) s))
      else s
    | none => s) s

/-- REFUSE completes the MIR_ROLE that asked, with BUSY and the reason. -/
def execRefuse (m : MirCmd) (s : State) : Res :=
  cmdTake m (fun s =>
    if s.mir.swo = .requested then
      completeOpt s.mir.roleNo stBusy m.arg.toNat (cmdAnswered .request (setMir (fun x => { x with swo := .none, roleNo := none }) s))
    else s) s

/-! ## Steps of a switch-over (R352, R354) -/

/-- Every running task has published the scan that the old active published last. -/
def scansDone (s : State) : Bool := (List.finRange 8).all fun n =>
  (vget s.loom n).state ≠ .running || decide (vget s.mir.lastPub n ≤ (vget s.loom n).done)

/-- SWITCHOVER_SCANS_COMMITTED: steps 3 and 4; the MIR_ROLE that asked completes before the role change. -/
def execSwitchoverScansCommitted (s : State) : Res :=
  ok (if meRuns s && s.mir.role = .standby && s.mir.swo = .newScans && scansDone s then
    let s1 := completeOpt s.mir.roleNo stOk 2 (setMir (fun x => { x with roleNo := none }) s)
    takeField .active s.mir.swoCode s1
  else s)

/-- OUTPUTS_LIVE: step 5; the gap in units of 100 ns. -/
def execOutputsLive (gap100ns : Nat) (s : State) : Res :=
  ok (if s.mir.swo = .newOutputs then
    let s1 := setMir (fun x => { x with swo := .newAio, swoGap := min gap100ns 0xFFFF }) s
    when (s1.mir.role = .active) (sendCmd .live 0xFFFF) s1
  else s)

/-- TRANSMITTERS_SETTLED: step 7; a partner that has been lost meanwhile leaves the module ALONE (R357). -/
def execTransmittersSettled (s : State) : Res :=
  ok (if s.mir.swo = .newAio then
    judge false (when (s.mir.role = .active) (sendCmd .aioLive 0xFFFF) (setMir (fun x => { x with swo := .none }) s))
  else s)

/-- LIVE_TIMEOUT: with the partner's alive line high the old active goes on with step 6; with the line low it stays ACTIVE whatever the code,
publishes what it held, fail values included, and resumes (R129, R354; assumption log 177). -/
def execLiveTimeout (s : State) : Res :=
  ok (if meRuns s && s.mir.swo = .oldWait then
    let s1 := raise 0x0807 4 (0x100 + s.mir.swoCode : Nat) s
    if s1.mir.palive then oldSteps s1
    else if s1.mir.role = .syncing then aloneStopped 11 (stopDriving (setMir (fun x => { x with swo := .none }) s1))
    else
      let s2 := failsOut (cmdAnswered .handover (setMir (fun x => { x with swo := .none, swoReset := false, roleNo := none }) s1))
      let s3 := match s.mir.roleNo with
        | some no => completeOpen no stTimeout s2
        | none => s2
      let s4 := judge false (setPwr (fun p => { p with shutReq := none }) s3)
      match s.pwr.shutReq with
      | some (restart, force) => shutdownAsk restart force s4
      | none => s4
  else s)

/-! ## Frames received (R342, R345) -/

/-- A lost segment is asked for again, at most 4 times (R358). -/
def syncAgain (ofs : Nat) (s : State) : State :=
  let n := mapGetD 0 s.mir.syncReq ofs
  if 4 ≤ n then syncAbandon s
  else sendFrame 0x08 (leBytes 4 ofs) (setMir (fun m => { m with syncReq := mapSet m.syncReq ofs (n + 1) }) s)

/-- Forwarded data are lost: decision code 7 on a standby; a synchronisation that already follows is abandoned. -/
def framesLost (ftype : Int) (s : State) : State :=
  if s.mir.role = .standby then standbyLeaves 7 (raise 0x080D 5 ftype s)
  else if s.mir.role = .syncing && 4 ≤ s.mir.syncph then syncAbandon s
  else s

/-- A frame of type `ftype` that takes `n` FSEQs: whether it is taken, and the state with its loss or a gap seen. A frame behind the one
expected is the other copy of one already taken. A frame that finds the receive bobbin full or its crossing poisoned is lost (R378, R385).
`segs` is the number of SYNC_DATA segments whose loss the frame itself shows: a gap of no more loses nothing else. A gap that another frame
shows while segments come may have lost the next one, which is asked for; forwarded data lost with it show as a mismatch in phase 5 (R345,
R358; DEDUCED, assumption log 178). -/
def frameSeen (ftype n segs : Nat) (h : FrameHdr) (s : State) : State × Bool :=
  let k := h.fseq.toNat
  let bad (b : Bool) (l : Fin 2) (s : State) : State :=
    when b (setMir fun m => { m with lanes := vmod m.lanes l fun x => { x with crcN := holdInc 0xFFFF x.crcN } }) s
  let s := bad h.bad1 1 (bad h.bad0 0 s)
  let s := when h.full (fun s => { s with hed := { s.hed with fullDrop := holdInc 0xFFFF s.hed.fullDrop } }) s
  let s := when (!h.full && crossPois s 14) crossDiscard s
  let good : Bool := h.good && !h.full && !(crossPois s 14)
  let seen (s : State) : State := setMir (fun m => { m with fseqIn := some ((k + n) % 65536) }) s
  let ahead := (k + 65536 - s.mir.fseqIn.getD k) % 65536
  let lost (n : Nat) (s : State) : State := setMir (fun m => { m with lost := holdAdd 0xFF m.lost n }) s
  if !(meRuns s && s.mir.decided) then (s, false)
  else if 32768 ≤ ahead then (s, false)
  else if ahead ≠ 0 then
    let s1 := lost (ahead + if good then 0 else n) (seen s)
    if s1.mir.role = .standby || (s1.mir.role = .syncing && (s1.mir.syncph = 5 || (s1.mir.syncph = 4 && ftype = 0x08 && segs < ahead))) then
      (framesLost (Config.open32 s1.free).toInt (drawn s1), false)
    else (when (s1.mir.role = .syncing && within 1 4 s1.mir.syncph && ftype ≠ 0x08) (syncAgain (syncGot s1).length) s1, good)
  else if !good then
    let s1 := lost n (seen s)
    (if ftype = 0x08 then s1 else framesLost ftype s1, false)
  else (seen s, true)

/-- A frame other than SYNC_DATA. -/
def frameTake (ftype n : Nat) (h : FrameHdr) (s : State) : State × Bool := frameSeen ftype n 0 h s

/-- The module follows what the active forwards. -/
def following (s : State) : Bool := s.mir.role = .standby || (s.mir.role = .syncing && s.mir.syncph = 5)

/-- A frame of the high class: acted upon by a module that follows; kept in phase 4, until its end. -/
def frameHigh (ftype : Nat) (h : FrameHdr) (i : Instr) (f : State → State) (s : State) : Res :=
  let r := frameTake ftype 1 h s
  ok (if !r.2 then r.1
  else if following r.1 then f r.1
  else if r.1.mir.role = .syncing && r.1.mir.syncph = 4 then setMir (fun m => { m with early := m.early ++ [i] }) r.1
  else r.1)

/-- Entries of an UPDATE enter the mirror store. -/
def updateTake (entries : List (BitVec 14 × Word)) (s : State) : State :=
  setMir (fun m => { m with pts := entries.foldl (fun p e => mapPut 0 p e.1.toNat e.2) m.pts }) s

/-- A LATCH: the Weft is gathered from the mirror store and checked; it begins a scan, or waits for the engine. -/
def latchTake (f : LatchFrame) (s : State) : State :=
  let n := f.engine
  let w := weftOf s n s.mir.pts
  if weftCrc s n w ≠ f.wcrc.toNat then (if s.mir.role = .standby then standbyLeaves 8 s else syncAbandon s)
  else if (vget s.loom n).state ≠ .running then s
  else latchNext n (setMir (fun m => { m with tbOfs := f.ts - s.tbase, latches := m.latches ++ [(f, w)], gotLatch := vset m.gotLatch n f.scan.toNat }) s)

/-- A SAMPLE waits for its slot's window. -/
def sampleTake (f : SampleFrame) (s : State) : State := setMir (fun m => { m with samples := m.samples ++ [f] }) s

/-- Signatures of the active. -/
def signatureTake (entries : List SigEntry) (s : State) : State :=
  entries.foldl (fun t e => sigPeer { isTask := e.isTask, engine := e.engine.val, num := e.num.toNat, crc := e.crc.toNat } t) s

/-- UPDATE. -/
def execUpdate (h : FrameHdr) (entries : List (BitVec 14 × Word)) (s : State) : Res := frameHigh 0x01 h (.update h entries) (updateTake entries) s

/-- LATCH. -/
def execLatch (h : FrameHdr) (f : LatchFrame) (s : State) : Res := frameHigh 0x02 h (.latch h f) (latchTake f) s

/-- SAMPLE. -/
def execSample (h : FrameHdr) (f : SampleFrame) (s : State) : Res := frameHigh 0x03 h (.sample h f) (sampleTake f) s

/-- SIGNATURE. -/
def execSignature (h : FrameHdr) (entries : List SigEntry) (s : State) : Res := frameHigh 0x04 h (.signature h entries) (signatureTake entries) s

/-- A frame that came early is acted upon. -/
def earlyRun (s : State) : Instr → State
  | .update _ e => updateTake e s
  | .latch _ f => latchTake f s
  | .sample _ f => sampleTake f s
  | .signature _ e => signatureTake e s
  | _ => s

/-- SIGNATURE_TIMEOUT: 1 ms after an own signature without the partner's (R351). -/
def execSignatureTimeout (s : State) : Res :=
  ok (if meRuns s && s.mir.ownSig.any (fun g => sigCompared s (sigCode g)) then framesLost 0x04 s else s)

/-! ## Mirrored descriptors (R71, R144) -/

/-- The acknowledgement of a forwarded descriptor (R343; assumption log 24). -/
def fwdAckBody (fwdseq status result : Nat) : List Byte := leBytes 4 fwdseq ++ leBytes 1 status ++ [0, 0, 0] ++ leBytes 4 result

/-- The descriptor of a FORWARD frame as this module runs it, at the active's count where one is named. -/
def forwardCall (f : ForwardFrame) : Call :=
  let d := descRead f.desc
  { no := 0, d := d, secure := f.secure, data := f.data, fwd := some f.fwdseq.toNat
    count := if d.op = 0x18 || d.op = 0x19 || d.op = 0x1A || d.op = 0x02 then some f.count.toNat else none }

/-- A forwarded descriptor is applied as the active applies it, or staged until a LATCH names it. ZOROS_SWAP begins PREPARE (R149). -/
def forwardTake (f : ForwardFrame) (s : State) : State :=
  let d := descRead f.desc
  if d.op = 0x0A then swapBegin d.arg2 s
  else
    let r := if engineFailed s d then bad stTimeout s else apply (forwardCall f) s
    let a := r.2.getD {}
    match a.result with
    | some x => sendFrame 0x06 (fwdAckBody f.fwdseq.toNat a.status x) r.1
    | none => sendFrame 0x06 (fwdAckBody f.fwdseq.toNat a.status (Config.open32 r.1.free).toNat) (drawn r.1)

/-- The active has told of an engine that failed: the task stops after the scan that the active published last, or the slots are disabled at
the period count named; when the engine has been reinitialised the standby synchronises again. A synchronisation in progress is given up
(R129, R184, R346 code 14, R357; assumption log 145). -/
def faultTaken (g count : Nat) (back : Bool) (s : State) : State :=
  if s.mir.role = .syncing then (if s.mir.syncph ≠ 0 then syncAbandon s else s)
  else if s.mir.role ≠ .standby || s.mir.swo = .newScans then s
  else if back then toSyncing 14 s
  else if h : g < 8 then
    let n : Fin 8 := ⟨g, h⟩
    let s1 := setMir (fun m => { m with
      noCompare := m.noCompare ++ [g], latches := m.latches.filter fun f => !(f.1.engine = n && decide (count < f.1.scan.toNat)) }) s
    if (vget s1.loom n).state ≠ .running then s1
    else if count ≤ (vget s1.loom n).done then taskStop n s1
    else setLoom n (fun e => { e with stopScan := some count }) s1
  else if within 8 11 g then
    let n : Fin 4 := Fin.ofNat 4 (g - 8)
    let s1 := setMir (fun m => { m with noCompare := m.noCompare ++ [g + 8] }) s
    if !(prismRuns s1 n) then s1
    else
      let k := pcntFull (prismAt s1 n).pcnt count
      if pcntLe k (prismAt s1 n).pcnt then slotsOff n s1 else setPrism n (fun p => { p with offAt := some k }) s1
  else s

/-- FORWARD: its segments take one FSEQ each. -/
def execForward (h : FrameHdr) (f : ForwardFrame) (s : State) : Res :=
  let r := frameTake 0x05 ((f.desc.length + f.data.length + 247) / 248) h s
  ok (if !r.2 then r.1
  else if leAt f.desc 0 1 = opBrake then
    when (r.1.mir.role = .standby) (brkTestTaken (Fin.ofNat 4 (leAt f.desc 6 2)) (leAt f.desc 8 8)) r.1
  else if leAt f.desc 0 1 = opFault then faultTaken (leAt f.desc 6 2) (leAt f.desc 16 8) (leAt f.desc 8 1 = 1) r.1
  else if following r.1 then forwardTake f r.1 else r.1)

/-- The partner's status and result that must agree with the own; a result that only one module can state is not compared. -/
def ackPeer (op : Nat) (f : FwdAckFrame) : Option (Nat × Option Nat) :=
  if op = 0x2A then none
  else some (f.status, if op = 0x10 || op = 0x11 || op = 0x13 || f.status ≠ 0 then none else some f.result.toNat)

/-- FWD_ACK. -/
def execFwdAck (h : FrameHdr) (f : FwdAckFrame) (s : State) : Res :=
  let r := frameTake 0x06 1 h s
  ok (if r.2 && r.1.mir.role = .active then
    match r.1.mir.fwdWait.find? fun w => w.fwdseq = f.fwdseq.toNat with
    | some w => applyForwarded w true (ackPeer (fwdCall w).d.op f) r.1
    | none => r.1
  else r.1)

/-! ## Swap messages (R149) -/

/-- A swap message. The active sets the freeze instant 101 µs after PREPARED. -/
def swapTake (m : SwapMsg) (s : State) : State :=
  match m with
  | .prepared =>
    if s.mir.role = .active && s.zor.phase = .prepare then
      let f : Word := loomTime s + 101
      swapSend 3 f.toNat 0 (setZor (fun z => { z with phase := .freeze, freezeF := some f }) s)
    else s
  | .prepareFailed cause absent =>
    if s.mir.role = .active && s.zor.phase = .prepare then swapEnd cause (if absent then stNotPresent else if cause = 4 || cause = 9 then stTimeout else stBadImage) none s else s
  | .freezeAt f => if s.mir.role = .standby && s.zor.phase = .prepared then setZor (fun z => { z with phase := .freeze, freezeF := some f }) s else s
  | .carriedCrc c k =>
    if s.zor.phase = .freeze || s.zor.phase = .map then swapCompare (setZor (fun z => { z with peerCrc := some c.toNat, peerScan := k.toNat }) s) else s

/-- SWAP. -/
def execSwap (h : FrameHdr) (m : SwapMsg) (s : State) : Res :=
  let r := frameTake 0x07 1 h s
  ok (if r.2 then swapTake m r.1 else r.1)

/-! ## Synchronisation on both modules (R358, R401) -/

/-- HELLO: what the partner is. -/
def helloTake (b : List Byte) (s : State) : State :=
  let s1 := setMir (fun m => { m with pser := leAt b 0 8, pimage := leAt b 8 4, plife := some (leAt b 20 1) }) s
  if s1.mir.role = .syncing && lifeDiffers s1 then lifeEvent (syncEnter 0 (setMir (fun m => { m with synced := false }) s1)) else s1

/-- SYNC_DATA: HELLO, a segment, or the request of a segment. A gap before a segment, or a segment asked for, shows the next one that is
missing, which is asked for (R345, R358). -/
def execSyncData (h : FrameHdr) (offset : Nat) (bytes : List Byte) (s : State) : Res :=
  let hole := offset - (syncGot s).length
  let r := frameSeen 0x08 1 ((hole + 255) / 256) h s
  let t := r.1
  ok (if t.mir.role = .syncing && within 1 4 t.mir.syncph then
    if !r.2 then (if meRuns t && t.mir.fseqIn ≠ s.mir.fseqIn then syncAgain offset t else t)
    else if t.mir.syncph = 1 then helloTake bytes t
    else
      let u := setMir (fun m => { m with syncBuf := mapSet m.syncBuf offset bytes }) t
      let asked : Bool := (mapGet s.mir.syncReq offset).isSome
      when (!(syncWhole u) && (asked || t.mir.lost ≠ s.mir.lost || h.fseq.toNat ≠ s.mir.fseqIn.getD h.fseq.toNat))
        (syncAgain (syncGot u).length) u
  else if t.mir.role = .syncing && t.mir.syncph = 0 && r.2 && lifeDiffers t && offset = 0 && bytes.length = 21 then
    (let u := helloTake bytes t; when (syncMayBegin u) syncBegin u)
  else if t.mir.role = .active && r.2 then
    (if t.mir.syncph = 1 && bytes ≠ [] then helloTake bytes t
     else if bytes = [] then
      (match mapGet t.mir.syncSent offset with
       | some b => syncSeg offset b t
       | none => t)
     else t)
  else t)

/-- The image that phase 2 has brought goes to work in place of the module's own. -/
def syncImage (img : Image) (s : State) : State :=
  let s1 := setZor (fun z => { z with running := some img, store := some img, imageCrc := img.crc }) s
  hedImage img.banks (paramsApply img (foldFin 8 (fun t n => engineLoad img n (initData img n) t) s1))

/-- The engines whose state phase 4 must bring. -/
def syncWanted (s : State) : List Nat :=
  ((List.finRange 8).filter fun n => (vget s.loom n).task.isSome).map (·.val) ++
    ((List.finRange 4).filter fun n => prismRuns s n).map (0x10 + ·.val) ++ [0x20]

/-- Every running task and every Prism engine with a slot not DISABLED has matched 16 signatures in a row. -/
def syncVerified (s : State) : Bool :=
  ((List.finRange 8).all fun n => (vget s.loom n).state ≠ .running || decide (16 ≤ mapGetD 0 s.mir.matched n.val)) &&
    (List.finRange 4).all fun n =>
      (prismAt s n).slots.toList.all (fun (x : Slot) => x.run = .disabled) || decide (16 ≤ mapGetD 0 s.mir.matched (0x10 + n.val))

/-- The end of phase 4: the state is taken, and what came early is acted upon. -/
def syncStateEnd (l : List (Nat × (State → State))) (s : State) : State :=
  let s1 := l.foldl (fun t f => f.2 t) s
  let e := s1.mir.early
  e.foldl earlyRun (syncEnter 5 (setMir (fun m => { m with early := [], matched := [] }) s1))

/-- A phase of a SYNCING module ends; in another life-cycle state than the partner's it goes back to phase 0 (R401). -/
def syncPhaseEnd (ms : Nat) (s : State) : State :=
  if s.mir.syncph ≠ 0 && lifeDiffers s then lifeEvent (syncAbandon s)
  else match s.mir.syncph with
  | 1 => if s.mir.plife.isSome then syncEnter (if s.mir.pimage = s.zor.imageCrc then 3 else 2) s else s
  | 2 =>
    if !(syncWhole s) then s
    else match imageCheck (idCap s.ident.variant) (syncGot s) with
      | .inr img => syncEnter 3 (syncImage img s)
      | .inl _ => syncAbandon s
  | 3 =>
    if !(syncWhole s) then s
    else match rdConfig (rowRead (syncGot s)) with
      | some (c, _) => syncEnter 4 (syncConfig c s)
      | none => syncAbandon s
  | 4 =>
    if !(syncWhole s) then s
    else
      let l := rowRead (syncGot s)
      match rdStates l.length l with
      | some fs => if (syncWanted s).all (fun k => fs.any (·.1 = k)) then syncStateEnd fs s else s
      | none => syncAbandon s
  | 5 =>
    if syncVerified s then
      let s1 := roleChange .standby s
      raise 0x080B 2 ms (setMir (fun m => { m with syncph := 0, synced := false, syncMs := ms, matched := [], healthy := true }) s1)
    else s
  | _ => s

/-- SYNC_PHASE_END: `ms` is the time since phase 1 began. -/
def execSyncPhaseEnd (ms : Nat) (s : State) : Res := ok (if meRuns s && s.mir.decided && s.mir.role = .syncing then syncPhaseEnd ms s else s)

/-- SYNC_TIMEOUT: 10 s. -/
def execSyncTimeout (s : State) : Res := ok (if meRuns s && s.mir.role = .syncing && s.mir.synced then syncAbandon s else s)

/-- SYNC_RESTART: 1 s after an abandonment. -/
def execSyncRestart (s : State) : Res :=
  ok (if meRuns s && s.mir.syncHold then
    let s1 := setMir (fun m => { m with syncHold := false }) s
    when (syncMayBegin s1) syncBegin s1
  else s)

end Sys2Proof.Machine
end

