-- ==== Sys2Proof/Machine/Registers.lean ====
section
/-! DEFINITION. The register map (19_setup_register_map.md, and the register tables of every chapter): how an access is decoded, what
every register reads, what a read clears, what a write changes. -/

namespace Sys2Proof.Machine

/-! ## Offsets and blocks (R393, R468, R471) -/

/-- The number of a block: its bit of SEC_BLKW. -/
def blockNo (off : Nat) : Nat := if off < 0x400 then 0 else if off < 0x800 then 1 else off / 0x800 + 1

/-- An array of `n` pieces of `size` bytes from `base`: the piece and the offset in it. -/
def arrayAt (base size n off : Nat) : Option (Nat × Nat) :=
  if base ≤ off ∧ off < base + size * n then some ((off - base) / size, (off - base) % size) else none

/-- The offset lies among the registers from `lo` to `hi`. -/
def spans (off : Nat) (l : List (Nat × Nat)) : Bool := l.any fun p => p.1 ≤ off && off ≤ p.2

/-- The offset lies in an array whose pieces have registers at the spans `l`. -/
def arraySpans (base size n off : Nat) (l : List (Nat × Nat)) : Bool := (arrayAt base size n off).any fun p => spans p.2 l

/-- The registers of R471; every other offset is reserved (R14). -/
def regKnown (off : Nat) : Bool :=
  spans off [(0x0000, 0x0018), (0x0020, 0x0028), (0x0400, 0x0428), (0x0800, 0x0810), (0x0820, 0x0820), (0x0830, 0x085C),
    (0x1C00, 0x1C18), (0x2000, 0x205C), (0x2080, 0x20DC), (0x2100, 0x2144), (0x2180, 0x2184), (0x2200, 0x220C), (0x2900, 0x297C),
    (0x3200, 0x320C), (0x4000, 0x4000), (0x4010, 0x4014), (0x4020, 0x4024), (0x4030, 0x4034), (0x4100, 0x4134), (0x4880, 0x4898),
    (0x48A0, 0x48BC), (0x5000, 0x5038), (0x5800, 0x5928), (0x6000, 0x6018), (0x6800, 0x6824), (0x7000, 0x7004)] ||
  arraySpans 0x1000 0x100 8 off [(0x00, 0x00), (0x08, 0x34), (0x80, 0x84)] ||
  arraySpans 0x1800 0x100 4 off [(0x00, 0x18)] || arraySpans 0x2800 0x40 4 off [(0x00, 0x1C)] ||
  arraySpans 0x3000 0x20 16 off [(0x00, 0x14)] || arraySpans 0x3400 0x20 4 off [(0x00, 0x10)] ||
  arraySpans 0x3800 0x40 8 off [(0x00, 0x24)] || arraySpans 0x4800 0x20 4 off [(0x00, 0x10)]

/-- SEC_BLKW as it reads and acts (R393). -/
def blkwShown (s : State) : Nat :=
  let v := (s.sec.blkw &&& 0xB3F8) ||| 0x4C00
  if bstOpen s then v else v ||| 0x8000

/-- The whole register is secure (R408, R472). -/
def regSecure (s : State) (off : Nat) : Bool := off ≠ 0x6800 && bitOf (blkwShown s) (blockNo off)

/-- A register outside the secure blocks with an RW-S field: SHU_RPSEC, and REQ of the banks that can be handed over. -/
def regFieldSecure (off : Nat) : Bool := off = 0x080C || off = 0x0810 || (0x2040 ≤ off && off ≤ 0x2054)

/-- The register belongs to a unit that the variant lacks (R6). -/
def regAbsent (s : State) (off : Nat) : Bool :=
  (arrayAt 0x1800 0x100 4 off).any (fun p => prismCount s ≤ p.1) || (arrayAt 0x2800 0x40 4 off).any (fun p => bankCount s ≤ p.1) ||
  (arrayAt 0x2900 0x20 4 off).any (fun p => bankCount s ≤ p.1) || (blockNo off = 10 && brkCount s = 0) || (blockNo off = 11 && !(mirPresent s))

/-- The PWR_STAT and CLK_STAT bits that must be set before the register is reached; none for the host link (R473). -/
def regDomain (off : Nat) : Option (Nat × Nat) :=
  match blockNo off with
  | 0 => none
  | 1 => none
  | 2 => none
  | 3 => some (if off < 0x1400 then 2 else 3, 1)
  | 4 => some (4, 3)
  | 5 => some (6, 2)
  | 6 => some (11, 9)
  | 7 => some (if off < 0x3400 then 11 else 10, 9)
  | 8 => some (10, 8)
  | 9 => some (8, 6)
  | 10 => some (11, 10)
  | 11 => some (9, 7)
  | 13 => some (10, 11)
  | 15 => some (1, 2)
  | _ => some (1, 4)

/-- The register's domain runs. -/
def regRuns (s : State) (off : Nat) : Bool := (regDomain off).all fun p => pdOn s p.1 && clkOn s p.2

/-- In halt only the ID, CLK/PWR and BST blocks answer (R456). -/
def regAnswers (s : State) (off : Nat) : Bool :=
  regRuns s off && (s.pwr.phase ≠ .halt || blockNo off ≤ 1 || blockNo off = 15)

/-- Where an access ends (R464, R386): served in the host link domain with 0; discarded with event 0x0B04 if it is a write; never
answered; or at the register. -/
inductive Gate where
  | zero | denied | dead | reach
deriving DecidableEq, Repr

/-- Steps 2 to 5 of R464, then the domain. In OPERATE a direct access to the BST block is handled as R392 says, even through function 1
(R397). -/
def regGate (s : State) (secure : Bool) (off : Nat) : Gate :=
  if !(regKnown off) then .zero
  else if !secure && regSecure s off then .denied
  else if regAbsent s off then (if !secure && regFieldSecure off then .denied else .zero)
  else if blockNo off = 15 && !(bstOpen s) then (if s.sec.life = .operate then .denied else .zero)
  else if !(regAnswers s off) then .dead
  else .reach

/-! ## Codes -/

/-- A two's complement number in 32 bits. -/
def u32 (x : Int) : Nat := (wordOf x).toNat

/-- A two's complement number in 16 bits. -/
def u16 (x : Int) : Nat := (BitVec.ofInt 16 x).toNat

/-- PE_STATn.STATE (R185). -/
def peCode : PeState → Nat
  | .idle => 0
  | .run => 1
  | .test => 2
  | .fault => 3

/-- ID_SWAP.PHASE (R161). -/
def swapCode : SwapPhase → Nat
  | .idle => 0
  | .prepare => 1
  | .prepared => 2
  | .freeze => 3
  | .map => 4

/-- PWR_STAT.PHASE (R462). -/
def phaseCode : Phase → Nat
  | .start => 0
  | .startBist => 1
  | .run => 2
  | .shutdown => 3
  | .halt => 4

/-- SHU_SESS_CTRL.STATE (R73). -/
def sessCode : SessState → Nat
  | .idle => 0
  | .challenged => 1
  | .open => 2
  | .locked => 3

/-- TIM_STAT.STATE (R300). -/
def servoCode : Servo → Nat
  | .freerun => 0
  | .acquiring => 1
  | .locked => 2
  | .holdover => 3

/-- BRK_STATn.PULSE (R330). -/
def pulseCode : BrkPulse → Nat
  | .none => 0
  | .offHs => 1
  | .offLs => 2
  | .on => 3

/-- AIO_STATc.CMODE (R228). -/
def cmodeCode : CMode → Nat
  | .unused => 0
  | .active => 1
  | .passive => 2

/-! ## What the registers read -/

/-- ID (R2, R161, R469). -/
def regId (s : State) (off : Nat) : Nat :=
  match off with
  | 0x00 => deviceId s.ident.variant * 0x10000 + 0x1F3D
  | 0x04 => fld s.ident.board 16 8 + fld s.ident.chip 8 8 + 1
  | 0x08 => idCap s.ident.variant
  | 0x0C => bits s.ident.serial.toNat 0 32
  | 0x10 => bits s.ident.serial.toNat 32 32
  | 0x14 => s.ident.fw.toNat
  | 0x18 => s.pwr.uptime
  | 0x20 => s.zor.imageCrc
  | 0x24 => s.zor.staged
  | 0x28 => fld s.zor.count 24 8 + fld s.zor.lastCause 8 8 + swapCode s.zor.phase
  | _ => 0

/-- PWR_STAT (R462). -/
def pwrStat (s : State) : Nat := flag s.pwr.pfw 30 + fld (phaseCode s.pwr.phase) 24 3 + s.pwr.pd.toNat

/-- PWR_FEED. -/
def pwrFeed (s : State) : Nat := fld s.pwr.feed1 16 16 + fld s.pwr.feed0 0 16

/-- PWR_RSTC. -/
def pwrRstc (s : State) : Nat := fld s.pwr.warmN 24 8 + fld s.pwr.cause 8 8 + fld s.pwr.group 0 8

/-- CLK/PWR (R462). -/
def regPwr (s : State) (off : Nat) : Nat :=
  match off with
  | 0x400 => pwrStat s
  | 0x404 => flag s.pwr.aonRc 12 + s.pwr.run.toNat
  | 0x408 => pwrFeed s
  | 0x40C => fld s.pwr.loadMax 16 16 + fld s.pwr.load 0 16
  | 0x410 => pwrRstc s
  | 0x418 => fld s.pwr.err 24 8 + fld s.pwr.friN 8 8 + fld s.pwr.friGroup 0 8
  | 0x41C => s.pwr.age % 2 ^ 32
  | 0x420 => s.pwr.tsel
  | 0x424 => s.pwr.trec
  | 0x428 => fld s.pwr.rollBank 8 8 + flag (rollActive s) 1 + flag s.pwr.rollEn 0
  | _ => 0

/-- SHU (R73, R470). The session registers are no RW-S fields: function 0 reads them too (assumption log 28). -/
def regShu (s : State) (secure : Bool) (off : Nat) : Nat :=
  let x := s.shu
  match off with
  | 0x800 => 0x004041C4
  | 0x804 => flag x.lcChg 7 + flag x.rpStop 6 + flag x.epochChg 5 + flag x.ready 4 + (if s.mir.decided then roleCode s.mir.role else 0)
  | 0x808 => epoch s
  | 0x80C => if secure then bits x.rpsec.toNat 0 32 else 0
  | 0x810 => if secure then bits x.rpsec.toNat 32 32 else 0
  | 0x820 => fld x.sess.count 16 16 + flag x.sess.lastFail 4 + fld (sessCode x.sess.state) 2 2
  | 0x830 => bits x.sess.nonce.toNat 0 32
  | 0x834 => bits x.sess.nonce.toNat 32 32
  | 0x838 => bits x.sess.nonce.toNat 64 32
  | 0x83C => bits x.sess.nonce.toNat 96 32
  | _ => 0

/-- An engine as its registers show it: under test (R104), or waiting for LM_MINIV and nothing else (R107). -/
def loomShown (s : State) (n : Fin 8) : Loom :=
  let e := vget s.loom n
  { e with state := if underTest s n.val then .test else e.state
           mwait := e.mwait && e.state = .running && decide ((loomTime s - e.ts).toNat < e.miniv) }

/-- LM registers of one engine (R102, R131). -/
def regLoom (e : Loom) (o : Nat) : Nat :=
  match o with
  | 0x00 => fld e.lastAbn 8 8 + flag e.crit 7 + flag e.fbLast 6 + flag e.mwait 5 + flag (e.mode = .ahead || (e.mode = .wait && e.picks ≠ [])) 4 + fld (taskCode e.state) 0 3
  | 0x08 => fld e.miniv 0 24
  | 0x0C => fld e.budget 0 20
  | 0x10 => bits e.done 0 32
  | 0x14 => bits e.done 32 32
  | 0x18 => e.per
  | 0x1C => e.perMax
  | 0x20 => fld e.replayed 16 16 + fld e.aheadN 0 16
  | 0x24 => e.fallbacks
  | 0x28 => fld e.hwm 16 13 + fld e.jLast 0 13
  | 0x2C => fld e.stalls 0 32
  | 0x30 => fld e.budgetN 16 16 + fld e.jexhN 0 16
  | 0x34 => fld e.flt 0 8
  | 0x80 => flag e.trapV 31 + fld e.trapCause 16 8 + fld e.trapPick 0 16
  | 0x84 => fld e.trapPc 0 17
  | _ => 0

/-- Slots of an engine that are not DISABLED, from slot `lo`, as bits. -/
def enabledBits (p : Prism) (lo : Nat) : Nat :=
  foldFin 64 (fun n i => n + (if lo ≤ i.val ∧ i.val < lo + 32 then flag ((vget p.slots i).run ≠ .disabled) (i.val - lo) else 0)) 0

/-- An engine as its registers show it: under test (R163, R185). -/
def prismShown (s : State) (n : Fin 4) : Prism :=
  let p := vget s.prism n
  { p with state := if underTest s (8 + n.val) then .test else p.state }

/-- PE registers of one engine (R185). -/
def regPrism (p : Prism) (o : Nat) : Nat :=
  match o with
  | 0x00 => fld (p.slots.toList.filter fun (x : Slot) => x.run ≠ .disabled).length 16 7 + fld p.fcause 8 8 + peCode p.state
  | 0x04 => fld p.nslot 20 7 + fld p.perU 0 19
  | 0x08 => fld p.pcnt 0 32
  | 0x0C => p.sat
  | 0x10 => p.stale
  | 0x14 => enabledBits p 0
  | 0x18 => enabledBits p 32
  | _ => 0

/-- The slot window (R186). -/
def regWindow (w : SlotWin) (off : Nat) : Nat :=
  match off with
  | 0x1C00 => flag w.valid 31 + fld w.loop 0 8
  | 0x1C04 => w.sstat
  | 0x1C08 => u32 w.y
  | 0x1C0C => u32 w.r
  | 0x1C10 => u32 w.u
  | 0x1C14 => u32 w.i
  | 0x1C18 => w.scnt
  | _ => 0

/-- HED_OWNn (R389): a non-secure read finds REQ 0 where REQ is RW-S. -/
def regOwn (s : State) (secure : Bool) (b : Fin 24) : Nat :=
  let k := hedBank s b
  fld k.ownerB 16 5 + (if secure || !(bankMovable b) then fld k.req 8 5 else 0) + fld k.owner 0 5

/-- HED_STAn. -/
def regHedSta (k : Bank) : Nat :=
  fld k.eccN 16 16 + fld k.outst 8 8 + flag k.rej 4 + flag k.coll 3 + flag k.stuck 2 + flag k.pend 1 + flag k.drained 0

/-- HED (R389, R390). -/
def regHed (s : State) (secure : Bool) (off : Nat) : Nat :=
  let h := s.hed
  match arrayAt 0x2000 4 24 off, arrayAt 0x2080 4 24 off, arrayAt 0x2100 4 18 off with
  | some p, _, _ => regOwn s secure (Fin.ofNat 24 p.1)
  | _, some p, _ => regHedSta (hedBank s (Fin.ofNat 24 p.1))
  | _, _, some p => vget h.conf (Fin.ofNat 18 p.1)
  | none, none, none =>
    match off with
    | 0x2180 => flag h.violV 31 + fld h.violM 24 5 + fld h.violB 16 5 + fld h.violN 0 16
    | 0x2200 => fld h.epochN 16 16 + fld h.parityN 0 16
    | 0x2204 => fld h.fullDrop 16 16 + fld h.underN 0 16
    | 0x2208 => fld h.discard 16 16 + fld h.merge 0 16
    | 0x220C => h.pois.toNat
    | _ => 0

/-- PSTATE (R226). -/
def dioState (s : State) (c : Fin 32) : Nat :=
  let x := vget s.dio c
  let k := vget s.dbank (dioBankOf c)
  if !k.live then 8
  else if !(dioOut x) then 0
  else if x.prot = .latched then 4
  else if x.shed then 5
  else if x.prot = .retry then 3
  else if k.uvOff then 6
  else if s.mir.decided && (s.mir.role = .standby || s.mir.role = .syncing) && !(holdsField s) then 7
  else if x.sw then (if x.limit then 2 else 1)
  else 0

/-- DIO registers of one bank (R225). -/
def regBank (s : State) (b : Fin 4) (o : Nat) : Nat :=
  let k := vget s.dbank b
  match o with
  | 0x00 => flag k.live 7 + flag k.low 6 + flag (bankShed s b) 5 + flag k.high 4 + flag k.uvOff 3 + flag k.low 2 + flag k.warn 1 + flag k.nosup 0
  | 0x04 => fld k.vmin 16 16 + fld k.vbank 0 16
  | 0x08 => fld k.imax 16 16 + fld k.ibank 0 16
  | 0x0C => fld (bankMask s b fun x => dioOut x && dioHeld (vget s.dbank b) x) 16 8 + fld (bankMask s b (·.cmd)) 8 8 + bankMask s b (·.sw)
  | 0x10 => fld (bankMask s b dioRaw) 8 8 + bankMask s b (·.deb)
  | 0x14 => fld (bankMask s b (·.disagree)) 24 8 + fld (bankMask s b (·.wbrk)) 16 8 + fld (bankMask s b (·.ext)) 8 8 + bankMask s b (·.rbLow)
  | 0x18 => fld (bankMask s b (·.shed)) 8 8 + bankMask s b (·.prot = .latched)
  | 0x1C => fld k.von 16 16 + fld k.voff 0 16
  | _ => 0

/-- DIO_CHc (R226). -/
def regDioCh (s : State) (c : Fin 32) : Nat :=
  let x := vget s.dio c
  fld x.tsd 24 8 + fld x.retries 8 4 + fld x.cfg.mode.val 4 2 + dioState s c

/-- AIO registers of one channel (R250). -/
def regAio (x : Aio) (o : Nat) : Nat :=
  match o with
  | 0x00 => fld (if x.live then cmodeCode x.cfg.cmode else 0) 14 2 + flag (!x.live) 13 + fld (aioFlags x) 0 13
  | 0x04 => fld x.sec 16 16 + fld x.pri 0 16
  | 0x08 => if x.cfg.cmode = .passive then fld x.cmd 0 16 else 0
  | 0x0C => fld (u16 x.margMin) 16 16 + u16 x.margin
  | 0x10 => fld x.vt 0 16
  | 0x14 => fld x.noret 16 16
  | _ => 0

/-- ENC registers of one port (R251). -/
def regEnc (x : Enc) (o : Nat) : Nat :=
  match o with
  | 0x00 => encStat x
  | 0x04 => x.pos.toNat
  | 0x08 => u32 x.vel
  | 0x0C => x.ref.toNat
  | 0x10 => fld x.qerrN 16 16 + fld x.frameN 0 16
  | _ => 0

/-- CAN registers of one channel (R253, R278, R279). -/
def regCan (x : Can) (o : Nat) : Nat :=
  match o with
  | 0x00 => canStat x
  | 0x04 => fld x.lec 24 3 + fld (min x.rec_ 255) 16 8 + fld (if x.busOff then 255 else min x.tec 255) 0 8
  | 0x08 => fld x.rx.length 16 10 + fld x.tx.length 0 7
  | 0x0C => x.rxN
  | 0x10 => x.txN
  | 0x14 => fld x.rxLost 16 16 + fld x.txDrop 0 16
  | 0x18 => fld x.cancelN 16 16 + fld x.ackRun 0 16
  | 0x1C => if x.live then fld (1 + x.cfg.nom.prop + x.cfg.nom.ph1) 16 8 + fld (canTq x.cfg.nom) 8 8 + fld x.cfg.nom.brp 0 8 else 0
  | 0x20 => fld x.tdcv 24 8 + (if x.live then
      fld (1 + x.cfg.dat.prop + x.cfg.dat.ph1) 16 8 + (if x.cfg.fdEn then fld (canTq x.cfg.dat) 8 8 else 0) + fld x.cfg.dat.brp 0 8 else 0)
  | 0x24 => fld x.shortN 16 16 + fld x.matchN 0 16
  | _ => 0

/-- ETH (R299). -/
def regEth (e : Eth) (off : Nat) : Nat :=
  let port (p : Fin 2) : EthPort := vget e.ports p
  match off with
  | 0x4000 => flag e.tcEn 7 + flag e.allow100 4 + fld e.portEn 2 2 + flag e.swmode 0
  | 0x4010 => fld (port 0).errN 16 16 + fld (port 0).speed 1 2 + flag ((port 0).speed ≠ 0) 0
  | 0x4014 => fld (port 0).qdrop 16 16
  | 0x4020 => fld (port 1).errN 16 16 + fld (port 1).speed 1 2 + flag ((port 1).speed ≠ 0) 0
  | 0x4024 => fld (port 1).qdrop 16 16
  | 0x4030 => fld e.unmatched 16 16 + fld e.v6N 0 16
  | 0x4034 => e.resMax
  | _ => 0

/-- The bytes of a clock identity from byte `i`, little-endian in a word. -/
def gmWord (g : BitVec 64) (i : Nat) : Nat :=
  (List.range 4).foldl (fun n k => n + fld (bits g.toNat (56 - 8 * (i + k)) 8) (8 * k) 8) 0

/-- TIM (R300). -/
def regTim (s : State) (off : Nat) : Nat :=
  let t := s.tim
  match off with
  | 0x4100 => fld t.domain 24 8 + flag t.udp4 5 + flag t.l2 4 + flag t.auto 0
  | 0x4104 => fld (timPort s) 8 1 + flag (unsync s) 2 + servoCode t.servo
  | 0x410C => bits t.snap.sec 32 16
  | 0x4110 => bits t.snap.sec 0 32
  | 0x4114 => fld t.snap.ns 0 30
  | 0x4118 => u32 t.addend
  | 0x4120 => u32 (sat32 t.offs)
  | 0x4124 => u32 (roundRat t.mpd)
  | 0x4128 => fld t.holdMax 16 16 + fld t.tau 8 8 + fld t.stepThr 0 8
  | 0x412C => flag t.utcV 16 + u16 t.utcOfs
  | 0x4130 => gmWord t.gmid 0
  | 0x4134 => gmWord t.gmid 4
  | _ => 0

/-- BRK registers of one channel (R330). -/
def regBrkCh (x : BrkCh) (o : Nat) : Nat :=
  match o with
  | 0x00 => fld x.fcause 16 8 + flag x.hold 15 + flag x.hostRel 14 + flag (x.loomOk && x.loomVal) 13 + flag x.fb 12 +
      fld (pulseCode x.pulse) 8 2 + fld (brkStCode x.st) 0 3
  | 0x04 => fld (u16 (Int.fdiv (x.vPlus - x.vMinus) 10)) 16 16 + fld (brkCur x) 0 16
  | 0x08 => fld x.testRes 16 3 + fld (min x.maxDev 0xFFFF) 0 16
  | 0x0C => fld x.failN 16 16 + fld x.skipN 0 16
  | 0x10 => fld x.tRel 16 16 + fld x.tEng 0 16
  | _ => 0

/-- The common BRK registers (R331). -/
def regBrk (s : State) (off : Nat) : Nat :=
  let b := s.brk
  match off with
  | 0x4880 => flag b.warn 1 + flag b.disc 0
  | 0x4884 => fld (b.vmin / 10) 16 16 + fld (b.vsup / 10) 0 16
  | 0x4888 => b.crc
  | 0x488C => b.pcrc
  | 0x4890 => fld ((b.lockUs + 999999) / 1000000) 16 10 + flag b.hasPw 3 + fld b.fails 0 3
  | 0x4894 => flag b.logValid 31 + fld b.logSel 0 9
  | 0x4898 => ((b.log.head?).map fun (e : BrkLog) => e.seq).getD 0
  | _ => if 0x48A0 ≤ off ∧ off ≤ 0x48BC then leAt b.logData (off - 0x48A0) 4 else 0

/-- MIR (R362). While VIO_AUX is out of its range the alive line cannot be high (R482). -/
def regMir (s : State) (off : Nat) : Nat :=
  let m := s.mir
  let lane (l : Fin 2) : Lane := vget m.lanes l
  let laneReg (l : Fin 2) : Nat := fld (lane l).eyeH 24 8 + fld (lane l).eyeV 16 8 + flag (lane l).lock 2 + flag (lane l).hb 1 + flag (lane l).up 0
  let errReg (l : Fin 2) : Nat := fld (lane l).crcN 16 16 + fld (lane l).hbMiss 0 16
  match off with
  | 0x5000 => fld m.lastDec 24 4 + fld m.syncph 16 3 + flag m.detached 15 + flag m.palive 14 + flag (m.oalive && s.side.vioOk) 13 +
      fld s.side.slot.val 12 1 + fld m.prole 8 3 + flag (lane 1).up 1 + flag (lane 0).up 0
  | 0x5004 => flag m.joinEn 0
  | 0x5008 => laneReg 0
  | 0x500C => laneReg 1
  | 0x5010 => errReg 0
  | 0x5014 => errReg 1
  | 0x5018 => fld m.lagMax 16 16 + (if m.decided && m.role = .standby then fld m.lag 0 16 else 0)
  | 0x501C => fld m.divOut 24 8 + fld m.divEng 8 8 + fld m.divCount 0 8
  | 0x5020 => fld m.swoCause 24 8 + fld m.swoGap 0 16
  | 0x5024 => m.swcnt
  | 0x5028 => fld m.syncMs 16 16 + fld m.abortN 0 8
  | 0x502C => fld m.lost 24 8 + fld m.late 16 8 + fld m.wait 0 16
  | 0x5030 => m.pimage
  | 0x5034 => bits m.pser 0 32
  | 0x5038 => bits m.pser 32 32
  | _ => 0

/-- LOU (R424). -/
def regLou (s : State) (off : Nat) : Nat :=
  let r := s.rcd
  match off with
  | 0x5900 => r.cur
  | 0x5904 => flag r.valid 31 + flag r.found 30 + fld (holders s) 16 5 + fld r.slot 0 12
  | 0x5908 => flag r.louFrz 0
  | 0x590C => fld (recUsed s) 0 13
  | 0x5910 => fld r.floss 0 32
  | 0x5914 => fld r.fullN 16 16 + fld r.raiseN 0 16
  | 0x5918 => r.ovr
  | 0x591C => r.supp
  | 0x5920 => bits r.seq 0 32
  | 0x5924 => r.clr
  | 0x5928 => fld r.ftmo 0 16
  | _ => if off < 0x5900 then leAt r.snap (off - 0x5800) 4 else 0

/-- PAN (R437). -/
def regPan (p : Pan) (off : Nat) : Nat :=
  match off with
  | 0x6000 => fld p.rate 8 6 + flag p.host 0
  | 0x6004 => fld p.effRate 8 6 + flag (p.phase = .blank) 3 + flag (p.phase = .comp) 2 + fld p.band 0 2
  | 0x6008 => p.fcnt
  | 0x600C => u16 p.temp
  | 0x6010 => fld p.crcN 16 16 + fld p.satN 0 16
  | 0x6014 => fld p.nz 0 17
  | 0x6018 => p.cmax
  | _ => 0

/-- The region that SEC_RSEL shows. -/
def regionShown (s : State) : Region := mapGetD {} s.sec.regions s.sec.rsel

/-- SEC (R407). -/
def regSec (s : State) (off : Nat) : Nat :=
  let x := s.sec
  let r := regionShown s
  match off with
  | 0x6800 => fld x.target 12 4 + fld x.cause 8 4 + flag x.pend 4 + lifeCode x.life
  | 0x6808 => blkwShown s
  | 0x680C => flag x.keySet 0
  | 0x6810 => fld x.rsel 0 6
  | 0x6814 => fld r.base 12 20
  | 0x6818 => fld r.limit 12 20
  | 0x681C => flag r.lock 3 + flag r.en 2 + flag r.wrS 1 + flag r.rdS 0
  | 0x6820 => flag x.violV 31 + flag x.violW 30 + fld x.violR 24 6 + fld x.violM 16 5 + fld x.violN 0 16
  | 0x6824 => fld x.vaddr 0 32
  | _ => 0

/-- BST (R463). -/
def regBst (p : Pwr) (off : Nat) : Nat :=
  match off with
  | 0x7000 => fld p.bctl 0 8
  | 0x7004 => flag (p.testing ≠ []) 31 + fld p.bRes 29 2 + fld p.bUnit 8 8
  | _ => 0

/-- The value of a register that an access has reached. -/
def regValue (s : State) (secure : Bool) (off : Nat) : Nat :=
  match blockNo off with
  | 0 => regId s off
  | 1 => regPwr s off
  | 2 => regShu s secure off
  | 3 => regLoom (loomShown s (Fin.ofNat 8 ((off - 0x1000) / 0x100))) (off % 0x100)
  | 4 => if off < 0x1C00 then regPrism (prismShown s (Fin.ofNat 4 ((off - 0x1800) / 0x100))) (off % 0x100) else regWindow s.win off
  | 5 => regHed s secure off
  | 6 => if off < 0x2900 then regBank s (Fin.ofNat 4 ((off - 0x2800) / 0x40)) (off % 0x40) else regDioCh s (Fin.ofNat 32 ((off - 0x2900) / 4))
  | 7 =>
    if off < 0x3200 then regAio (vget s.aio (Fin.ofNat 16 ((off - 0x3000) / 0x20))) (off % 0x20)
    else if off < 0x3400 then flag (vget s.aio (Fin.ofNat 16 (off - 0x3200))).iso 0
    else regEnc (vget s.enc (Fin.ofNat 4 ((off - 0x3400) / 0x20))) (off % 0x20)
  | 8 => regCan (vget s.can (Fin.ofNat 8 ((off - 0x3800) / 0x40))) (off % 0x40)
  | 9 => if off < 0x4100 then regEth s.eth off else regTim s off
  | 10 => if off < 0x4880 then regBrkCh (brkCh s (Fin.ofNat 4 ((off - 0x4800) / 0x20))) (off % 0x20) else regBrk s off
  | 11 => regMir s off
  | 12 => regLou s off
  | 13 => regPan s.pan off
  | 14 => regSec s off
  | 15 => regBst s.pwr off
  | _ => 0

/-! ## What a read clears (R13, R15) -/

/-- The RC fields of an engine's LM register. -/
def rcLoom (o : Nat) (e : Loom) : Loom :=
  match o with
  | 0x1C => { e with perMax := 0 }
  | 0x24 => { e with fallbacks := 0 }
  | 0x28 => { e with hwm := 0 }
  | 0x2C => { e with stalls := 0 }
  | 0x30 => { e with budgetN := 0, jexhN := 0 }
  | _ => e

/-- The RC fields of an engine's PE register. -/
def rcPrism (o : Nat) (p : Prism) : Prism :=
  match o with
  | 0x0C => { p with sat := 0 }
  | 0x10 => { p with stale := 0 }
  | _ => p

/-- The RC fields of HED. -/
def rcHed (off : Nat) (h : Hed) : Hed :=
  match arrayAt 0x2080 4 24 off, arrayAt 0x2100 4 18 off with
  | some p, _ => { h with banks := vmod h.banks (Fin.ofNat 24 p.1) fun k => { k with eccN := 0 } }
  | _, some p => { h with conf := vset h.conf (Fin.ofNat 18 p.1) 0 }
  | none, none =>
    match off with
    | 0x2180 => { h with violN := 0 }
    | 0x2200 => { h with epochN := 0, parityN := 0 }
    | 0x2204 => { h with fullDrop := 0, underN := 0 }
    | 0x2208 => { h with discard := 0, merge := 0 }
    | _ => h

/-- The RC fields of a digital bank: a read reloads VMIN and IMAX. -/
def rcBank (o : Nat) (k : DioBank) : DioBank :=
  match o with
  | 0x04 => { k with vmin := k.vbank }
  | 0x08 => { k with imax := k.ibank }
  | _ => k

/-- The RC fields of a current channel. -/
def rcAio (o : Nat) (x : Aio) : Aio :=
  match o with
  | 0x0C => { x with margMin := x.margin }
  | 0x14 => { x with noret := 0 }
  | _ => x

/-- The RC fields of a CAN channel. -/
def rcCan (o : Nat) (x : Can) : Can :=
  match o with
  | 0x0C => { x with rxN := 0 }
  | 0x10 => { x with txN := 0 }
  | 0x14 => { x with rxLost := 0, txDrop := 0 }
  | 0x18 => { x with cancelN := 0 }
  | 0x24 => { x with shortN := 0, matchN := 0 }
  | _ => x

/-- The RC fields of ETH. -/
def rcEth (off : Nat) (e : Eth) : Eth :=
  match off with
  | 0x4010 => { e with ports := vmod e.ports 0 fun p => { p with errN := 0 } }
  | 0x4014 => { e with ports := vmod e.ports 0 fun p => { p with qdrop := 0 } }
  | 0x4020 => { e with ports := vmod e.ports 1 fun p => { p with errN := 0 } }
  | 0x4024 => { e with ports := vmod e.ports 1 fun p => { p with qdrop := 0 } }
  | 0x4030 => { e with unmatched := 0, v6N := 0 }
  | 0x4034 => { e with resMax := 0 }
  | _ => e

/-- The RC fields of MIR. -/
def rcMir (off : Nat) (m : Mirror) : Mirror :=
  let clear (l : Fin 2) : Mirror := { m with lanes := vmod m.lanes l fun x => { x with crcN := 0, hbMiss := 0 } }
  match off with
  | 0x5010 => clear 0
  | 0x5014 => clear 1
  | 0x5018 => { m with lagMax := 0 }
  | 0x5028 => { m with abortN := 0 }
  | 0x502C => { m with lost := 0, late := 0, wait := 0 }
  | _ => m

/-- The RC fields of LOU. -/
def rcLou (off : Nat) (r : Recorder) : Recorder :=
  match off with
  | 0x5914 => { r with fullN := 0, raiseN := 0 }
  | 0x5918 => { r with ovr := 0 }
  | 0x591C => { r with supp := 0 }
  | 0x5928 => { r with ftmo := 0 }
  | _ => r

/-- The RC fields of PAN. -/
def rcPan (off : Nat) (p : Pan) : Pan :=
  match off with
  | 0x6010 => { p with crcN := 0, satN := 0 }
  | 0x6018 => { p with cmax := 0 }
  | _ => p

/-- The RC fields of CLK/PWR. -/
def rcPwr (off : Nat) (p : Pwr) : Pwr :=
  match off with
  | 0x40C => { p with loadMax := 0 }
  | 0x410 => { p with warmN := 0 }
  | 0x418 => { p with friN := 0 }
  | _ => p

/-- A read of a register clears its RC fields. -/
def regClear (off : Nat) (s : State) : State :=
  match blockNo off with
  | 1 => setPwr (rcPwr off) s
  | 3 => setLoom (Fin.ofNat 8 ((off - 0x1000) / 0x100)) (rcLoom (off % 0x100)) s
  | 4 => if off < 0x1C00 then setPrism (Fin.ofNat 4 ((off - 0x1800) / 0x100)) (rcPrism (off % 0x100)) s else s
  | 5 => { s with hed := rcHed off s.hed }
  | 6 =>
    if off < 0x2900 then setBank (Fin.ofNat 4 ((off - 0x2800) / 0x40)) (rcBank (off % 0x40)) s
    else setDio (Fin.ofNat 32 ((off - 0x2900) / 4)) (fun x => { x with tsd := 0 }) s
  | 7 =>
    if off < 0x3200 then setAio (Fin.ofNat 16 ((off - 0x3000) / 0x20)) (rcAio (off % 0x20)) s
    else if off < 0x3400 then s
    else when (off % 0x20 = 0x10) (setEnc (Fin.ofNat 4 ((off - 0x3400) / 0x20)) fun x => { x with qerrN := 0, frameN := 0 }) s
  | 8 => setCan (Fin.ofNat 8 ((off - 0x3800) / 0x40)) (rcCan (off % 0x40)) s
  | 9 => setEth (rcEth off) s
  | 10 =>
    if off < 0x4880 then when (off % 0x20 = 0x0C) (setBrk (Fin.ofNat 4 ((off - 0x4800) / 0x20)) fun x => { x with failN := 0, skipN := 0 }) s
    else if off = 0x4884 then { s with brk := { s.brk with vmin := s.brk.vsup } } else s
  | 11 => { s with mir := rcMir off s.mir }
  | 12 => { s with rcd := rcLou off s.rcd }
  | 13 => setPan (rcPan off) s
  | 14 => if off = 0x6820 then { s with sec := { s.sec with violN := 0 } } else s
  | _ => s

/-! ## What a write changes (R13, R466) -/

/-- SHU_RPSEC takes a half: only the bits of ring pairs that are DISABLED change (R39). -/
def rpsecPut (high : Bool) (v : Nat) (s : State) : State :=
  let mask := foldFin 64 (fun m r => if (vget s.shu.rings r).state = .disabled && decide (high = decide (32 ≤ r.val)) then m ||| (1#64 <<< r.val) else m) (0#64)
  let n := BitVec.ofNat 64 (if high then v * 2 ^ 32 else v)
  { s with shu := { s.shu with rpsec := (s.shu.rpsec &&& ~~~mask) ||| (n &&& mask) } }

/-- A write of SHU_SESS_CTRL: CLOSE, then OPEN (R36 to R38). -/
def sessCtrl (v : Nat) (s : State) : State := when (bitOf v 0) sessOpen (when (bitOf v 1) sessClose s)

/-- A write to SHU (R73). -/
def putShu (off v : Nat) (s : State) : State :=
  match off with
  | 0x804 => { s with shu := { s.shu with
      lcChg := s.shu.lcChg && !(bitOf v 7), rpStop := s.shu.rpStop && !(bitOf v 6), epochChg := s.shu.epochChg && !(bitOf v 5) } }
  | 0x80C => rpsecPut false v s
  | 0x810 => rpsecPut true v s
  | 0x820 => sessCtrl v s
  | _ => if 0x840 ≤ off ∧ off ≤ 0x85C then sessResp ((off - 0x840) / 4) (BitVec.ofNat 32 v) s else s

/-- A write to CLK/PWR (R462). -/
def putPwr (secure : Bool) (off v : Nat) (s : State) : State :=
  match off with
  | 0x414 => pwrReq secure v s
  | 0x420 => tselWrite v s
  | 0x428 => setPwr (fun p => { p with rollEn := bitOf v 0 }) s
  | _ => s

/-- A write to HED: REQ, and the W1C bits (R389, R390). -/
def putHed (off v : Nat) (s : State) : State :=
  match arrayAt 0x2000 4 24 off, arrayAt 0x2080 4 24 off with
  | some p, _ => hedRequest (Fin.ofNat 24 p.1) (bits v 8 5) s
  | _, some p => setHed (Fin.ofNat 24 p.1) (fun k => { k with rej := k.rej && !(bitOf v 4), coll := k.coll && !(bitOf v 3) }) s
  | none, none => if off = 0x2180 ∧ bitOf v 31 then { s with hed := { s.hed with violV := false } } else s

/-- A write to DIO: the releases of DIO_LATn (R219). -/
def putDio (off v : Nat) (s : State) : State :=
  match arrayAt 0x2800 0x40 4 off with
  | some (b, 0x18) => foldFin 8 (fun t i => dioRelease (dioChOf (Fin.ofNat 4 b) i) (bitOf v i.val) (bitOf v (8 + i.val)) t) s
  | _ => s

/-- A write to ETH and TIM (R299, R300). -/
def putEth (off v : Nat) (s : State) : State :=
  match off with
  | 0x4000 => ethCfgPut v s
  | 0x4100 => timCtrlPut v s
  | 0x4108 => timSnapWrite (BitVec.ofNat 32 v) s
  | 0x4118 => if s.tim.auto then s else setTim (fun t => { t with addend := signed 32 v }) s
  | 0x411C => timAdjWrite (BitVec.ofNat 32 v) s
  | 0x4128 => timSrvPut v s
  | _ => s

/-- A write to LOU (R418, R419). -/
def putLou (off v : Nat) (s : State) : State :=
  match off with
  | 0x5900 => louLoad v s
  | 0x5908 => { s with rcd := { s.rcd with louFrz := bitOf v 0 } }
  | _ => s

/-- A change of the region shown, unless it is locked. -/
def regionPut (f : Region → Region) (s : State) : State :=
  if (regionShown s).lock then s else { s with sec := { s.sec with regions := mapPut {} s.sec.regions s.sec.rsel (f (regionShown s)) } }

/-- A write to SEC (R393, R399, R407). -/
def putSec (off v : Nat) (s : State) : State :=
  match off with
  | 0x6804 => lcRequest (BitVec.ofNat 32 v) s
  | 0x6808 => blkwPut (if bstOpen s then 0xB3F8 else 0x33F8) v s
  | 0x6810 => { s with sec := { s.sec with rsel := v % 64 } }
  | 0x6814 => regionPut (fun r => { r with base := bits v 12 20 }) s
  | 0x6818 => regionPut (fun r => { r with limit := bits v 12 20 }) s
  | 0x681C => regionPut (fun r => { r with en := bitOf v 2, wrS := bitOf v 1, rdS := bitOf v 0 }) s
  | 0x6820 => when (bitOf v 31) (fun s => { s with sec := { s.sec with violV := false } }) s
  | _ => s

/-- A write that has reached its register. A write to RO fields is discarded. -/
def regPut (secure : Bool) (off v : Nat) (s : State) : State :=
  match blockNo off with
  | 1 => putPwr secure off v s
  | 2 => putShu off v s
  | 3 => when (off % 0x100 = 0x80 && bitOf v 31) (setLoom (Fin.ofNat 8 ((off - 0x1000) / 0x100)) fun e => { e with trapV := false }) s
  | 4 => when (off = 0x1C00) (slotWindow (v % 256)) s
  | 5 => putHed off v s
  | 6 => putDio off v s
  | 7 => when (0x3400 ≤ off && off % 0x20 = 0 && bitOf v 6) (encQerrDrop (Fin.ofNat 4 ((off - 0x3400) / 0x20))) s
  | 9 => putEth off v s
  | 10 => when (off = 0x4894) (brkLogLoad (v % 512)) s
  | 11 => when (off = 0x5004) (fun s => { s with mir := { s.mir with joinEn := bitOf v 0 } }) s
  | 12 => putLou off v s
  | 13 => when (off = 0x6000) (panCtrlPut v) s
  | 14 => putSec off v s
  | 15 => when (off = 0x7000) (bstWrite v) s
  | _ => s

/-! ## Accesses -/

/-- A consumption and the highest since the last read, from the highest so far: the measurements, which no command brings, are free
values. -/
def measure (top : Nat) (w : Word) : Nat × Nat := (bits w.toNat 0 16, max top (max (bits w.toNat 0 16) (bits w.toNat 16 16)))

/-- The logic consumption in 0.1 W and the highest since the last read: at most 40.0 W (R438). -/
def loadMeasure (top : Nat) (w : Word) : Nat × Nat :=
  let p := bits w.toNat 0 16 % 401
  (p, max top (max p (bits w.toNat 16 16 % 401)))

/-- What is measured stands at its present value when it is read: the logic consumption (R462), a bank's current (R225), whether a switch
that is on is in current limit (R226), how many accesses a handover still waits for, at least one and no more than were (R367, R389). -/
def measured (off : Nat) (s : State) : State :=
  let w := Config.open32 s.free
  if 0x2080 ≤ off && off < 0x20E0 && (hedBank s (Fin.ofNat 24 ((off - 0x2080) / 4))).outst ≠ 0 then
    drawn (setHed (Fin.ofNat 24 ((off - 0x2080) / 4)) (fun k => { k with outst := 1 + (Config.openByte s.free).toNat % k.outst }) s)
  else if off = 0x40C then
    drawn (setPwr (fun p => { p with load := (loadMeasure p.loadMax w).1, loadMax := (loadMeasure p.loadMax w).2 }) s)
  else if blockNo off = 6 && off < 0x2900 && off % 0x40 = 0x08 && fieldOn s then
    drawn (setBank (Fin.ofNat 4 ((off - 0x2800) / 0x40)) (fun k => { k with ibank := (measure k.imax w).1, imax := (measure k.imax w).2 }) s)
  else if blockNo off = 6 && 0x2900 ≤ off && fieldOn s && (vget s.dio (Fin.ofNat 32 ((off - 0x2900) / 4))).sw then
    drawn (setDio (Fin.ofNat 32 ((off - 0x2900) / 4)) (fun x => { x with limit := w.getLsbD 0 }) s)
  else s

/-- A register read by a request of a world: its value, and what the read clears; none where it is not answered. -/
def regRead (secure : Bool) (off : Nat) (s : State) : Option Nat × State :=
  match regGate s secure off with
  | .reach => let s1 := measured off s; (some (regValue s1 secure off), regClear off s1)
  | .dead => (none, s)
  | _ => (some 0, s)

/-- A register write by a request of a world; a non-secure one to an RW-S field ends before the register's domain (R464). -/
def regWrite (secure : Bool) (off v : Nat) (s : State) : State :=
  match regGate s secure off with
  | .reach => if !secure && regFieldSecure off then raise 0x0B04 4 off s else regPut secure off v s
  | .denied => raise 0x0B04 4 off s
  | .dead => when (!secure && regFieldSecure off) (raise 0x0B04 4 off) s
  | .zero => s

/-- The session registers, which function 1 reaches at any time (R35). -/
def sessReg (off : Nat) : Bool := off = 0x820 || (0x830 ≤ off && off ≤ 0x85C)

/-- Function 1 without an open session reaches nothing else. -/
def fnShut (fn : Func) (off : Nat) (s : State) : Bool := fn = .f1 && s.shu.sess.state ≠ .open && !(sessReg off)

/-- One dword read through a function. -/
def barRead (fn : Func) (off : Nat) (s : State) : State :=
  if fnShut fn off s then emit (.regData fn off 0) s
  else
    let r := regRead (fn = .f1) off s
    match r.1 with
    | some v => emit (.regData fn off v) r.2
    | none => emit (.noAnswer fn off) r.2

/-- One dword written through a function, while the link is up. -/
def barWrite (fn : Func) (off : Nat) (v : Word) (s : State) : State :=
  if !(linkOn s) || fnShut fn off s then s else regWrite (fn = .f1) off v.toNat s

/-! ## BAR4 and configuration space (R32, R33; the layouts are those of the PCI Express standard, assumption log 135) -/

/-- Vendor and device ID. -/
def pciIds (s : State) : Nat := 0x1F3D + deviceId s.ident.variant * 65536

/-- A dword of a function's BAR4: an entry of the MSI-X table, or the pending-bit array from 0x800. -/
def bar4Value (s : State) (fn : Func) (off : Nat) : Nat :=
  if off < 1040 then
    let e := msixEnt s fn (off / 16)
    match off % 16 / 4 with
    | 0 => bits e.addr 0 32
    | 1 => bits e.addr 32 32
    | 2 => e.data
    | _ => b2n e.mask
  else if 0x800 ≤ off ∧ off < 0x80C then bits (vget s.shu.msixPend (fnIdx fn)).toNat (8 * (off - 0x800)) 32
  else 0

/-- A message that waited for its vector's mask goes out when the mask is cleared. -/
def msixRelease (fn : Func) (v : Nat) (s : State) : State :=
  if (vget s.shu.msixPend (fnIdx fn)).getLsbD v && !(msixEnt s fn v).mask then msix fn v (msixMark fn v false s) else s

/-- A dword written to a function's MSI-X table; the pending bits are read-only. -/
def bar4Put (fn : Func) (off : Nat) (v : Word) (s : State) : State :=
  if off < 1040 then
    let k := 65 * (fnIdx fn).val + off / 16
    let e := msixEnt s fn (off / 16)
    let e1 : MsixEnt := match off % 16 / 4 with
      | 0 => { e with addr := setHalf e.addr false (v.toNat / 4 * 4) }
      | 1 => { e with addr := setHalf e.addr true v.toNat }
      | 2 => { e with data := v.toNat }
      | _ => { e with mask := v.getLsbD 0 }
    msixRelease fn (off / 16) { s with shu := { s.shu with msixTab := mapPut {} s.shu.msixTab k e1 } }
  else s

/-- The size of BAR `k` (0, 2, 4 by half), in bytes (R32). -/
def barSize : Nat → Nat
  | 0 => 0x10000
  | 1 => 0x40000
  | _ => 0x1000

/-- A dword of a function's configuration space (R32): the header's identifiers, the class code, three 64-bit non-prefetchable memory
BARs, the subsystem identifiers, and the uncorrectable error status of Advanced Error Reporting; the rest reads 0. -/
def configValue (s : State) (fn : Func) (off : Nat) : Nat :=
  if off = 0x000 || off = 0x02C then pciIds s
  else if off = 0x008 then 0x118000 * 256
  else if off = 0x00C then 0x800000
  else if 0x010 ≤ off ∧ off < 0x028 then
    let b := mapGetD 0 s.shu.barAddr (3 * (fnIdx fn).val + (off - 0x010) / 8)
    if off % 8 = 0 then bits b 0 32 + 4 else bits b 32 32
  else if off = 0x104 then (vget s.shu.aer (fnIdx fn)).toNat
  else 0

/-- A dword written to configuration space: a BAR takes the address bits above its size, an error status bit written 1 clears. -/
def configPut (fn : Func) (off : Nat) (v : Word) (s : State) : State :=
  if 0x010 ≤ off ∧ off < 0x028 then
    let k := (off - 0x010) / 8
    let key := 3 * (fnIdx fn).val + k
    let b := mapGetD 0 s.shu.barAddr key
    { s with shu := { s.shu with barAddr := mapPut 0 s.shu.barAddr key (setHalf b (off % 8 = 4) v.toNat / barSize k * barSize k) } }
  else if off = 0x104 then { s with shu := { s.shu with aer := vmod s.shu.aer (fnIdx fn) (· &&& ~~~v) } }
  else s

/-- The address by which an answer names BAR4 or configuration space: the spaces follow BAR0 and BAR2. -/
def spaceAt (bar4 : Bool) (off : Nat) : Nat := (if bar4 then 0x60000 else 0x70000) + off

/-- RC_FIELD_READ: a read of any register, in one of the forms of R465, or of a ring pair page. -/
def execRcFieldRead (fn : Func) (a : RegAddr) (form : ReadForm) (s : State) : Res :=
  ok (match a with
    | .bar0 o =>
      let off := o.toNat / 4 * 4
      if !(linkOn s) then emit (.noAnswer fn off) s
      else match form with
        | .one => barRead fn off s
        | .two =>
          if off % 8 = 0 then barRead fn (off + 4) (barRead fn off s)
          else if fnShut fn off s then emit (.regData fn off 0) s else emit (.abort fn off) (aerNote fn 15 s)
        | .other => if fnShut fn off s then emit (.regData fn off 0) s else emit (.abort fn off) (aerNote fn 15 s)
    | .ring r o =>
      let off := o.toNat / 4 * 4
      let at_ := 0x10000 + r.val * 0x1000 + off
      if !(linkOn s) then emit (.noAnswer fn at_) s
      else
        let p := ringReach fn r false s
        emit (.regData fn at_ (if p.1 then ringRead p.2 r off else 0)) p.2
    | .bar4 o =>
      let off := o.toNat / 4 * 4
      if !(linkOn s) then emit (.noAnswer fn (spaceAt true off)) s
      else emit (.regData fn (spaceAt true off) (if fn = .f1 && s.shu.sess.state ≠ .open then 0 else bar4Value s fn off)) s
    | .config o =>
      let off := o.toNat / 4 * 4
      if !(linkOn s) then emit (.noAnswer fn (spaceAt false off)) s else emit (.regData fn (spaceAt false off) (configValue s fn off)) s)

/-- REGISTER_WRITE: a write of one dword; without all four byte enables it is discarded (R465). -/
def execRegisterWrite (fn : Func) (a : RegAddr) (v : Word) (full : Bool) (s : State) : Res :=
  ok (match a with
    | .bar0 o => when full (barWrite fn (o.toNat / 4 * 4) v) s
    | .ring r o => when full (ringAccess fn r (o.toNat / 4 * 4) v) s
    | .bar4 o => when (full && linkOn s && !(fn = .f1 && s.shu.sess.state ≠ .open)) (bar4Put fn (o.toNat / 4 * 4) v) s
    | .config o => when (full && linkOn s) (configPut fn (o.toNat / 4 * 4) v) s)

/-! ## Writes that have a row of their own -/

/-- SESSION_OPEN: a write of OPEN = 1 (R36). -/
def execSessionOpen (fn : Func) (s : State) : Res := ok (barWrite fn 0x820 1 s)

/-- SESSION_CLOSE: a write of CLOSE = 1 (R38). -/
def execSessionClose (fn : Func) (s : State) : Res := ok (barWrite fn 0x820 2 s)

/-- SESSION_RESPONSE: a write of SHU_SESS_RESP7 (R36). -/
def execSessionResponse (fn : Func) (v : Word) (s : State) : Res := ok (barWrite fn 0x85C v s)

/-- PE_SSEL_WRITE (R186). -/
def execPeSselWrite (fn : Func) (v : Word) (s : State) : Res := ok (barWrite fn 0x1C00 v s)

/-- DIO_LAT_WRITE (R219). -/
def execDioLatWrite (fn : Func) (b : Fin 4) (v : Word) (s : State) : Res := ok (barWrite fn (0x2818 + 0x40 * b.val) v s)

/-- ENC_QERR_CLEAR: a write of ENC_STATn (R251). -/
def execEncQerrClear (fn : Func) (p : Fin 4) (v : Word) (s : State) : Res := ok (barWrite fn (0x3400 + 0x20 * p.val) v s)

/-- TIM_SNAP (R300). -/
def execTimSnap (fn : Func) (v : Word) (s : State) : Res := ok (barWrite fn 0x4108 v s)

/-- TIM_ADJ (R289). -/
def execTimAdj (fn : Func) (v : Word) (s : State) : Res := ok (barWrite fn 0x411C v s)

/-- BRK_LOGSEL_WRITE (R331). -/
def execBrkLogselWrite (fn : Func) (v : Word) (s : State) : Res := ok (barWrite fn 0x4894 v s)

/-- HED_OWN_WRITE (R367). -/
def execHedOwnWrite (fn : Func) (b : Fin 24) (v : Word) (s : State) : Res := ok (barWrite fn (0x2000 + 4 * b.val) v s)

/-- SEC_LCREQ (R399). -/
def execSecLcreq (fn : Func) (v : Word) (s : State) : Res := ok (barWrite fn 0x6804 v s)

/-- SEC_RSEL_WRITE (R407). -/
def execSecRselWrite (fn : Func) (v : Word) (s : State) : Res := ok (barWrite fn 0x6810 v s)

/-- LOU_CUR_WRITE (R419). -/
def execLouCurWrite (fn : Func) (v : Word) (s : State) : Res := ok (barWrite fn 0x5900 v s)

/-- LOU_FRZ_WRITE (R418). -/
def execLouFrzWrite (fn : Func) (v : Word) (s : State) : Res := ok (barWrite fn 0x5908 v s)

/-- A write of PWR_REQ whose OP is `op`. -/
def pwrReqRow (op : Nat) (fn : Func) (v : Word) (s : State) : State := when (bits v.toNat 12 4 = op) (barWrite fn 0x414 v) s

/-- PWR_REQ_FUNCTION_REINIT: OP 1 (R453). -/
def execPwrReqFunctionReinit (fn : Func) (v : Word) (s : State) : Res := ok (pwrReqRow 1 fn v s)

/-- PWR_REQ_WARM_RESET: OP 2 (R455). -/
def execPwrReqWarmReset (fn : Func) (v : Word) (s : State) : Res := ok (pwrReqRow 2 fn v s)

/-- PWR_REQ_SHUTDOWN_OFF: OP 3 (R448). -/
def execPwrReqShutdownOff (fn : Func) (v : Word) (s : State) : Res := ok (pwrReqRow 3 fn v s)

/-- PWR_REQ_SHUTDOWN_RESTART: OP 4 (R448). -/
def execPwrReqShutdownRestart (fn : Func) (v : Word) (s : State) : Res := ok (pwrReqRow 4 fn v s)

/-- BST_START (R451). -/
def execBstStart (fn : Func) (v : Word) (s : State) : Res := ok (when (v.getLsbD 31) (barWrite fn 0x7000 v) s)

/-- PWR_TSEL_WRITE (R462). -/
def execPwrTselWrite (fn : Func) (v : Word) (s : State) : Res := ok (barWrite fn 0x420 v s)

/-! ## The management port (R483) -/

/-- The 32 bytes of the I²C port. -/
def i2cBytes (s : State) : List Byte :=
  leBytes 4 (regId s 0x00) ++ leBytes 4 (regId s 0x08) ++ leBytes 4 (regId s 0x0C) ++ leBytes 4 (regId s 0x10) ++
    leBytes 4 (pwrStat s) ++ leBytes 4 (pwrFeed s) ++ leBytes 4 (pwrRstc s) ++ leBytes 4 s.pwr.age

/-- The port answers while a feed is present and its cells have their level (R481 to R483). -/
def i2cAnswers (s : State) : Bool := (feedLost ≤ s.pwr.feed0 || feedLost ≤ s.pwr.feed1) && s.side.vioOk

/-- I2C_READ: `count` bytes from a byte offset; beyond the 32 bytes the value is free. -/
def execI2cRead (offset count : Nat) (s : State) : Res :=
  ok (if i2cAnswers s then
    drawn (emit (.i2c (some ((List.range count).map fun i =>
      let k := offset + i
      if k < 32 then byteAt (i2cBytes s) k else Config.i2cByte s.free k))) s)
  else emit (.i2c none) s)

end Sys2Proof.Machine
end

