-- ==== Sys2Proof/Machine/Service.lean ====
section
/-! DEFINITION. The commands of the service port (15_worlds_and_life_cycle.md R396, R400, R402 to R405): the checks of a request, its
response, and what each command does. -/

namespace Sys2Proof.Machine

/-! ## Requests and responses (R403) -/

/-- What a command answers: STATUS, RESULT (none where the spec states none) and payload. -/
structure SvcAns where
  status  : Nat := stOk
  result  : Option Nat := none
  payload : List Byte := []
deriving DecidableEq, Repr

/-- A refusal with a RESULT. -/
def svcDeny (r : Nat) : SvcAns := { status := stDenied, result := some r }

/-- A refusal whose RESULT the spec does not state. -/
def svcDenyOpen : SvcAns := { status := stDenied }

/-- What the checks of R403 need to know of an OP: the fields it uses, its payload length where it is fixed, and its session: 0
none, 1 any, 2 a secure one. -/
structure SvcSpec where
  arg     : Bool := false
  arg2    : Bool := false
  payload : Option Nat := some 0
  session : Nat := 0
deriving DecidableEq, Repr

/-- The commands of R404. -/
def svcSpec (op : Nat) : Option SvcSpec :=
  match op with
  | 0x01 => some {}
  | 0x02 => some {}
  | 0x03 => some { payload := some 32 }
  | 0x04 => some {}
  | 0x05 => some { session := 1 }
  | 0x10 => some { arg := true, arg2 := true, session := 1 }
  | 0x11 => some { arg := true, payload := none, session := 2 }
  | 0x12 => some { arg := true, arg2 := true, session := 1 }
  | 0x13 => some { arg := true, arg2 := true, session := 1 }
  | 0x20 => some { payload := some 32, session := 2 }
  | 0x21 => some { arg := true, session := 1 }
  | 0x22 => some { session := 2 }
  | _ => none

/-- The open session is secure: in MANUFACTURE, COMMISSION and SERVICE (R397, R405). -/
def svcSecure (s : State) : Bool := svcOpen s.svc && bstOpen s

/-- The first refusal of R403 that applies to a request, in its order there (assumption log 30). -/
def svcRefusal (s : State) (op : Nat) (r : SvcReq) : Option Nat :=
  if r.payload.length ≠ r.len || 4096 < r.len then some 3
  else if r.byte1 ≠ 0 then some 2
  else match svcSpec op with
    | none => some 1
    | some p =>
      if (!p.arg && r.arg ≠ 0) || (!p.arg2 && r.arg2 ≠ 0) then some 2
      else if p.payload.any (· ≠ r.len) then some 3
      else if (p.session = 1 && !(svcOpen s.svc)) || (p.session = 2 && !(svcSecure s)) then some 4
      else none

/-- The bytes of a response. -/
def svcBytes (op : Nat) (r : SvcReq) (a : SvcAns) (open_ : Word) : List Byte :=
  leBytes 1 op ++ leBytes 1 a.status ++ leBytes 2 r.seq.toNat ++ leBytes 4 (a.result.getD open_.toNat) ++ leBytes 4 0 ++
    leBytes 4 a.payload.length ++ a.payload

/-- One request runs: HK1 answers while its port is on the bus. A session whose own command changed the life-cycle state ends after
the response (R405). -/
def svcRun (op : Nat) (r : SvcReq) (f : State → SvcAns × State) (s : State) : State :=
  if !(hkOn s) || !s.svc.pullup then s
  else
    let p := match svcRefusal s op r with
      | some c => (svcDeny c, s)
      | none => f s
    let s1 := drawn (emit (.usb (svcBytes op r p.1 (Config.open32 p.2.free))) p.2)
    when s1.svc.endAfter svcEnd s1

/-- The number of a session in INFO (R404). -/
def svcCode : SvcSess → Nat
  | .none => 0
  | .challenged => 1
  | .key => 2
  | .presence => 3
  | .locked => 4

/-! ## Sessions (R404, R405) -/

/-- INFO. -/
def execInfo (r : SvcReq) (s : State) : Res :=
  ok (svcRun 0x01 r (fun s =>
    ({ payload := [regId s 0x00, regId s 0x08, regId s 0x0C, regId s 0x10, regId s 0x14, regSec s 0x6800, regSec s 0x680C,
        svcCode s.svc.sess].flatMap (leBytes 4) }, s)) s)

/-- CHALLENGE: a session that is open ends first, whatever the answer (R405); the nonce is fresh. -/
def execChallenge (r : SvcReq) (s : State) : Res :=
  ok (svcRun 0x02 r (fun s =>
    let s := when (svcOpen s.svc) svcEnd s
    if s.svc.sess = .locked then ({ status := stLocked }, s)
    else if !s.sec.keySet then (svcDenyOpen, s)
    else
      let n := Config.random128 s.free
      ({ payload := bvBytes 16 n ++ leBytes 4 s.svc.count }, drawn (setSvc (fun v => { v with sess := .challenged, nonce := n }) s))) s)

/-- RESPOND: the check of a challenge's answer. Three wrong ones in a row lock the port for 60 s (R400). -/
def execRespond (r : SvcReq) (s : State) : Res :=
  ok (svcRun 0x03 r (fun s =>
    if s.svc.sess ≠ .challenged then (svcDenyOpen, s)
    else
      let right : Bool := decide (r.payload = sessAnswer s s.svc.nonce s.svc.count [1])
      let s1 := setSvc (fun v => { v with count := (v.count + 1) % 2 ^ 32 }) s
      if right then ({ result := some 1 }, setSvc (fun v => { v with sess := .key, fails := 0 }) s1)
      else
        let s2 := raise 0x0B01 4 1 (setSvc (fun v => { v with sess := .none, fails := v.fails + 1 }) s1)
        ({ result := some 0 },
          if 3 ≤ s2.svc.fails then raise 0x0B02 5 1 (setSvc (fun v => { v with sess := .locked, lockUs := sessLockUs }) s2) else s2)) s)

/-- PRESENCE: while no key is provisioned, in MANUFACTURE or COMMISSION, within 600 s of power-good. A session that is open ends first (R405),
unless the life-cycle state does not permit the command: then nothing else happens (R403). -/
def execPresence (r : SvcReq) (s : State) : Res :=
  ok (svcRun 0x04 r (fun s =>
    if !(s.sec.life = .manufacture || s.sec.life = .commission) then (svcDeny 6, s)
    else
      let s := when (svcOpen s.svc) svcEnd s
      if s.sec.keySet || !s.svc.window || s.svc.sess = .locked then (svcDenyOpen, s)
      else ({ result := some 1 }, setSvc (fun v => { v with sess := .presence }) s)) s)

/-- CLOSE. -/
def execClose (r : SvcReq) (s : State) : Res := ok (svcRun 0x05 r (fun s => ({}, svcEnd s)) s)

/-! ## Registers, points and records (R404) -/

/-- A range of BAR0 dwords: aligned, 1 to 1,024 of them, within the 64 KiB (assumption log 30). -/
def svcRange (a n : Nat) : Bool := a % 4 = 0 && within 1 1024 n && a + 4 * n ≤ 0x10000

/-- HK1's check before an access: a register of a present unit whose domain does not run is not accessed (R404, R473). -/
def svcDead (s : State) (off : Nat) : Bool := !(regAbsent s off) && !(regAnswers s off)

/-- `n` dwords read from `off` upwards: the bytes, whether it stopped, and the number done. -/
def svcReads (secure : Bool) : Nat → Nat → State → List Byte × Bool × State
  | 0, _, s => ([], false, s)
  | n + 1, off, s =>
    if svcDead s off then ([], true, s)
    else
      let r := regRead secure off s
      let t := svcReads secure n (off + 4) r.2
      (leBytes 4 (r.1.getD 0) ++ t.1, t.2)

/-- REG_READ: with the world of the session; the dwords already read are returned with TIMEOUT too (assumption log 30). -/
def execRegRead (r : SvcReq) (s : State) : Res :=
  ok (svcRun 0x10 r (fun s =>
    if !(svcRange r.arg.toNat r.arg2.toNat) then (svcDeny 3, s)
    else
      let t := svcReads (svcSecure s) r.arg2.toNat r.arg.toNat s
      (if t.2.1 then { status := stTimeout, result := some (t.1.length / 4), payload := t.1 } else { payload := t.1 }, t.2.2)) s)

/-- The words of a payload written from `off` upwards: whether it stopped, and the number done. -/
def svcWrites : List (List Byte) → Nat → Nat → State → Bool × Nat × State
  | [], _, k, s => (false, k, s)
  | b :: l, off, k, s => if svcDead s off then (true, k, s) else svcWrites l (off + 4) (k + 1) (regWrite true off (leNat b) s)

/-- REG_WRITE, in a secure session. -/
def execRegWrite (r : SvcReq) (s : State) : Res :=
  ok (svcRun 0x11 r (fun s =>
    if r.len % 4 ≠ 0 || !(svcRange r.arg.toNat (r.len / 4)) then (svcDeny 3, s)
    else
      let t := svcWrites (pieces 4 r.payload) r.arg.toNat 0 s
      ({ status := if t.1 then stTimeout else stOk, result := some t.2.1 }, t.2.2)) s)

/-- The region that refuses HK1's read of `a` for a session that is not secure (R394, R405). -/
def svcRegion (s : State) (a : Nat) : Option Nat :=
  if svcSecure s then none else ((imageRegions s).find? fun p => regionCovers p.2 a && p.2.rdS).map (·.1)

/-- HK1 reads pieces of memory, each with its address, in the world of the session: a piece refused reads as zeros and is recorded, and the
response has STATUS POISON (R395; assumption log 180). -/
def svcMemory (l : List (Nat × List Byte)) (s : State) : SvcAns × State :=
  let f := l.findSome? fun p => (svcRegion s p.1).map fun r => (r, p.1)
  ({ status := if f.isSome then stPoison else stOk
     payload := l.flatMap fun p => if (svcRegion s p.1).isSome then p.2.map (fun _ => 0) else p.2 },
    match f with
    | some (r, a) => regionViol r 0x0D a false s
    | none => s)

/-- POINT_READ on the service port; the hub does not answer while its domain does not run (R20, R386). -/
def execServicePointRead (r : SvcReq) (s : State) : Res :=
  ok (svcRun 0x12 r (fun s =>
    if !(within 1 1024 r.arg2.toNat) || 16384 < r.arg.toNat + r.arg2.toNat then (svcDeny 3, s)
    else if !(fabricOn s) then ({ status := stTimeout }, s)
    else svcMemory ((List.range r.arg2.toNat).map fun i => (Config.pointAddr (r.arg.toNat + i), leBytes 4 (ptRead s (r.arg.toNat + i)).toNat)) s) s)

/-- REC_READ on the service port. -/
def execServiceRecRead (r : SvcReq) (s : State) : Res :=
  ok (svcRun 0x13 r (fun s =>
    if !(within 1 16 r.arg2.toNat) then (svcDeny 3, s)
    else
      let l := recordsFrom s r.arg2.toNat r.arg.toNat
      let a := svcMemory (((slotsFrom s r.arg2.toNat r.arg.toNat).map fun p => Config.recAddr p.1).zip l) s
      ({ a.1 with result := some l.length }, a.2)) s)

/-! ## Key and life cycle (R396, R398, R399) -/

/-- KEY_WRITE: in MANUFACTURE or COMMISSION. A presence session ends when it completes. -/
def execKeyWrite (r : SvcReq) (s : State) : Res :=
  ok (svcRun 0x20 r (fun s =>
    if !(s.sec.life = .manufacture || s.sec.life = .commission) then (svcDeny 6, s)
    else
      let s1 := raise 0x0B06 5 0 { s with sec := { s.sec with keySet := true, key := bvOf 256 r.payload } }
      ({}, setSvc (fun v => { v with endAfter := v.endAfter || v.sess = .presence }) s1)) s)

/-- LC_CONFIRM: a key session, or a presence session while no key is provisioned. -/
def execLcConfirm (r : SvcReq) (s : State) : Res :=
  ok (svcRun 0x21 r (fun s =>
    if s.svc.sess = .presence && s.sec.keySet then (svcDeny 4, s)
    else if !s.sec.pend then (svcDenyOpen, s)
    else if r.arg.toNat ≠ s.sec.target then (svcDeny 3, s)
    else match lifeOf s.sec.target with
      | some l => ({}, lifeChange l true s)
      | none => (svcDenyOpen, s)) s)

/-- LC_ADVANCE: from MANUFACTURE to COMMISSION. -/
def execLcAdvance (r : SvcReq) (s : State) : Res :=
  ok (svcRun 0x22 r (fun s => if s.sec.life ≠ .manufacture then (svcDeny 6, s) else ({}, lifeChange .commission true s)) s)

/-- UNKNOWN_SERVICE_OP: an OP that R404 does not list (R403). -/
def execUnknownServiceOp (op : Byte) (r : SvcReq) (s : State) : Res :=
  ok (if (svcSpec op.toNat).isSome then s else svcRun op.toNat r (fun s => (svcDeny 1, s)) s)

end Sys2Proof.Machine
end

