-- ==== Sys2Proof/Machine/Dispatch.lean ====
section
/-! DEFINITION. One arm for each command: the meaning it calls. -/

namespace Sys2Proof.Machine

def exec (i : Instr) (s : State) : Host.Outcome State Fault Refusal :=
  match i with
  | .functionLevelReset fn => Sys2Proof.Machine.execFunctionLevelReset fn s
  | .submissionDoorbell fn rp v => Sys2Proof.Machine.execSubmissionDoorbell fn rp v s
  | .completionDoorbell fn rp v => Sys2Proof.Machine.execCompletionDoorbell fn rp v s
  | .shuRpArm fn rp v => Sys2Proof.Machine.execShuRpArm fn rp v s
  | .shuRpCtrlDisable fn rp => Sys2Proof.Machine.execShuRpCtrlDisable fn rp s
  | .descriptorFetch raw => Sys2Proof.Machine.execDescriptorFetch raw s
  | .ringHostMemoryError rp write => Sys2Proof.Machine.execRingHostMemoryError rp write s
  | .completionWrite rp => Sys2Proof.Machine.execCompletionWrite rp s
  | .irqModerationExpiry rp => Sys2Proof.Machine.execIrqModerationExpiry rp s
  | .sessionOpen fn => Sys2Proof.Machine.execSessionOpen fn s
  | .sessionClose fn => Sys2Proof.Machine.execSessionClose fn s
  | .sessionResponse fn v => Sys2Proof.Machine.execSessionResponse fn v s
  | .create d => Sys2Proof.Machine.execCreate d s
  | .teardownEnd idx => Sys2Proof.Machine.execTeardownEnd idx s
  | .zorosStage d => Sys2Proof.Machine.execZorosStage d s
  | .loopCfg d => Sys2Proof.Machine.execLoopCfg d s
  | .loopTable d => Sys2Proof.Machine.execLoopTable d s
  | .fieldCfg d => Sys2Proof.Machine.execFieldCfg d s
  | .canCfg d => Sys2Proof.Machine.execCanCfg d s
  | .canTx d => Sys2Proof.Machine.execCanTx d s
  | .canFilter d => Sys2Proof.Machine.execCanFilter d s
  | .pointRead => Sys2Proof.Machine.execPointRead s
  | .recRead => Sys2Proof.Machine.execRecRead s
  | .streamBufferTimeout idx => Sys2Proof.Machine.execStreamBufferTimeout idx s
  | .brkCfg d => Sys2Proof.Machine.execBrkCfg d s
  | .panelFrame d => Sys2Proof.Machine.execPanelFrame d s
  | .mirrorAckTimeout fwdseq => Sys2Proof.Machine.execMirrorAckTimeout fwdseq s
  | .pointUpdate idx v mark => Sys2Proof.Machine.execPointUpdate idx v mark s
  | .weftLatch n => Sys2Proof.Machine.execWeftLatch n s
  | .freshWeftArrival n => Sys2Proof.Machine.execFreshWeftArrival n s
  | .publish n => Sys2Proof.Machine.execPublish n s
  | .budgetExhausted n => Sys2Proof.Machine.execBudgetExhausted n s
  | .stoppedTimerEvaluation n => Sys2Proof.Machine.execStoppedTimerEvaluation n s
  | .engineFault n cause => Sys2Proof.Machine.execEngineFault n cause s
  | .loomNop n => Sys2Proof.Machine.execLoomNop n s
  | .loomPick n no => Sys2Proof.Machine.execLoomPick n no s
  | .loomEnd n => Sys2Proof.Machine.execLoomEnd n s
  | .loomLd n o => Sys2Proof.Machine.execLoomLd n o s
  | .loomLdn n o => Sys2Proof.Machine.execLoomLdn n o s
  | .loomAnd n o => Sys2Proof.Machine.execLoomAnd n o s
  | .loomAndn n o => Sys2Proof.Machine.execLoomAndn n o s
  | .loomOr n o => Sys2Proof.Machine.execLoomOr n o s
  | .loomOrn n o => Sys2Proof.Machine.execLoomOrn n o s
  | .loomXor n o => Sys2Proof.Machine.execLoomXor n o s
  | .loomXorn n o => Sys2Proof.Machine.execLoomXorn n o s
  | .loomNot n => Sys2Proof.Machine.execLoomNot n s
  | .loomSet1 n => Sys2Proof.Machine.execLoomSet1 n s
  | .loomSet0 n => Sys2Proof.Machine.execLoomSet0 n s
  | .loomAndp n => Sys2Proof.Machine.execLoomAndp n s
  | .loomOrp n => Sys2Proof.Machine.execLoomOrp n s
  | .loomPopb n => Sys2Proof.Machine.execLoomPopb n s
  | .loomBpsh n => Sys2Proof.Machine.execLoomBpsh n s
  | .loomBrd n => Sys2Proof.Machine.execLoomBrd n s
  | .loomBpop n => Sys2Proof.Machine.execLoomBpop n s
  | .loomSt n o => Sys2Proof.Machine.execLoomSt n o s
  | .loomStn n o => Sys2Proof.Machine.execLoomStn n o s
  | .loomSetb n o => Sys2Proof.Machine.execLoomSetb n o s
  | .loomRstb n o => Sys2Proof.Machine.execLoomRstb n o s
  | .loomPedge n ix => Sys2Proof.Machine.execLoomPedge n ix s
  | .loomNedge n ix => Sys2Proof.Machine.execLoomNedge n ix s
  | .loomTon n ix => Sys2Proof.Machine.execLoomTon n ix s
  | .loomTof n ix => Sys2Proof.Machine.execLoomTof n ix s
  | .loomTp n ix => Sys2Proof.Machine.execLoomTp n ix s
  | .loomTrst n ix => Sys2Proof.Machine.execLoomTrst n ix s
  | .loomCtu n ix => Sys2Proof.Machine.execLoomCtu n ix s
  | .loomCtd n ix => Sys2Proof.Machine.execLoomCtd n ix s
  | .loomCrst n ix => Sys2Proof.Machine.execLoomCrst n ix s
  | .loomCld n ix => Sys2Proof.Machine.execLoomCld n ix s
  | .loomLdw n o => Sys2Proof.Machine.execLoomLdw n o s
  | .loomLdi n v => Sys2Proof.Machine.execLoomLdi n v s
  | .loomLdih n v => Sys2Proof.Machine.execLoomLdih n v s
  | .loomStw n o => Sys2Proof.Machine.execLoomStw n o s
  | .loomStwc n o => Sys2Proof.Machine.execLoomStwc n o s
  | .loomAdd n o => Sys2Proof.Machine.execLoomAdd n o s
  | .loomSub n o => Sys2Proof.Machine.execLoomSub n o s
  | .loomMul n o => Sys2Proof.Machine.execLoomMul n o s
  | .loomDiv n o => Sys2Proof.Machine.execLoomDiv n o s
  | .loomMod n o => Sys2Proof.Machine.execLoomMod n o s
  | .loomAndw n o => Sys2Proof.Machine.execLoomAndw n o s
  | .loomOrw n o => Sys2Proof.Machine.execLoomOrw n o s
  | .loomXorw n o => Sys2Proof.Machine.execLoomXorw n o s
  | .loomShl n k => Sys2Proof.Machine.execLoomShl n k s
  | .loomShr n k => Sys2Proof.Machine.execLoomShr n k s
  | .loomAsr n k => Sys2Proof.Machine.execLoomAsr n k s
  | .loomCmp n c o => Sys2Proof.Machine.execLoomCmp n c o s
  | .loomMin n o => Sys2Proof.Machine.execLoomMin n o s
  | .loomMax n o => Sys2Proof.Machine.execLoomMax n o s
  | .loomGetb n k => Sys2Proof.Machine.execLoomGetb n k s
  | .loomPutb n k => Sys2Proof.Machine.execLoomPutb n k s
  | .loomMcs n => Sys2Proof.Machine.execLoomMcs n s
  | .loomMce n => Sys2Proof.Machine.execLoomMce n s
  | .loomJmp n t => Sys2Proof.Machine.execLoomJmp n t s
  | .loomJc n t => Sys2Proof.Machine.execLoomJc n t s
  | .loomJcn n t => Sys2Proof.Machine.execLoomJcn n t s
  | .loomCall n t => Sys2Proof.Machine.execLoomCall n t s
  | .loomCallc n t => Sys2Proof.Machine.execLoomCallc n t s
  | .loomRet n => Sys2Proof.Machine.execLoomRet n s
  | .loomEvt n sev num => Sys2Proof.Machine.execLoomEvt n sev num s
  | .loomCantx n tpl => Sys2Proof.Machine.execLoomCantx n tpl s
  | .prismPeriodStart n => Sys2Proof.Machine.execPrismPeriodStart n s
  | .sampleInstant l => Sys2Proof.Machine.execSampleInstant l s
  | .sourceReturn l j c => Sys2Proof.Machine.execSourceReturn l j c s
  | .computeWindow l => Sys2Proof.Machine.execComputeWindow l s
  | .outputInstant l w => Sys2Proof.Machine.execOutputInstant l w s
  | .prismEngineFault n cause => Sys2Proof.Machine.execPrismEngineFault n cause s
  | .peSselWrite fn v => Sys2Proof.Machine.execPeSselWrite fn v s
  | .inputChange c state => Sys2Proof.Machine.execInputChange c state s
  | .debounceEnd c => Sys2Proof.Machine.execDebounceEnd c s
  | .bankShed b ma => Sys2Proof.Machine.execBankShed b ma s
  | .thresholdUpdate b v => Sys2Proof.Machine.execThresholdUpdate b v s
  | .supplyConditionEntered b k => Sys2Proof.Machine.execSupplyConditionEntered b k s
  | .supplyConditionReleased b k => Sys2Proof.Machine.execSupplyConditionReleased b k s
  | .rbLow c => Sys2Proof.Machine.execRbLow c s
  | .extDrive c => Sys2Proof.Machine.execExtDrive c s
  | .readbackFlagClear c k => Sys2Proof.Machine.execReadbackFlagClear c k s
  | .wireBreak c => Sys2Proof.Machine.execWireBreak c s
  | .wireBreakClear c => Sys2Proof.Machine.execWireBreakClear c s
  | .thermalShutdown c => Sys2Proof.Machine.execThermalShutdown c s
  | .thermalRetry c => Sys2Proof.Machine.execThermalRetry c s
  | .retryCountReset c => Sys2Proof.Machine.execRetryCountReset c s
  | .dioLatWrite fn b v => Sys2Proof.Machine.execDioLatWrite fn b v s
  | .digitalDisagree c => Sys2Proof.Machine.execDigitalDisagree c s
  | .periodicConversion c m => Sys2Proof.Machine.execPeriodicConversion c m s
  | .inPtDelivery c mark => Sys2Proof.Machine.execInPtDelivery c mark s
  | .mismatch c set => Sys2Proof.Machine.execMismatch c set s
  | .ne43FlagChange c k set => Sys2Proof.Machine.execNe43FlagChange c k set s
  | .short c set => Sys2Proof.Machine.execShort c set s
  | .transmitterFlagChange c k set => Sys2Proof.Machine.execTransmitterFlagChange c k set s
  | .isoFail b => Sys2Proof.Machine.execIsoFail b s
  | .currentDisagree c => Sys2Proof.Machine.execCurrentDisagree c s
  | .share c => Sys2Proof.Machine.execShare c s
  | .cmodeChangeEnd c => Sys2Proof.Machine.execCmodeChangeEnd c s
  | .fieldSideWatchdog digital b => Sys2Proof.Machine.execFieldSideWatchdog digital b s
  | .encoderLoss p => Sys2Proof.Machine.execEncoderLoss p s
  | .encoderLossEnd p => Sys2Proof.Machine.execEncoderLossEnd p s
  | .qerr p => Sys2Proof.Machine.execQerr p s
  | .indexMark p lines => Sys2Proof.Machine.execIndexMark p lines s
  | .velocityTimeout p => Sys2Proof.Machine.execVelocityTimeout p s
  | .ssiFrameStart p => Sys2Proof.Machine.execSsiFrameStart p s
  | .ssiFrameEnd p f => Sys2Proof.Machine.execSsiFrameEnd p f s
  | .encoderDelivery p lines winEdges winNs => Sys2Proof.Machine.execEncoderDelivery p lines winEdges winNs s
  | .encQerrClear fn p v => Sys2Proof.Machine.execEncQerrClear fn p v s
  | .canIntegration c => Sys2Proof.Machine.execCanIntegration c s
  | .canFrameReceived c f => Sys2Proof.Machine.execCanFrameReceived c f s
  | .filterTimeout c e => Sys2Proof.Machine.execFilterTimeout c e s
  | .canAttemptStart c => Sys2Proof.Machine.execCanAttemptStart c s
  | .canAttemptEnd c r => Sys2Proof.Machine.execCanAttemptEnd c r s
  | .busOffRecoveryEnd c => Sys2Proof.Machine.execBusOffRecoveryEnd c s
  | .lonely c => Sys2Proof.Machine.execLonely c s
  | .canSleepReached c => Sys2Proof.Machine.execCanSleepReached c s
  | .busWake c f => Sys2Proof.Machine.execBusWake c f s
  | .canWakeEnd c => Sys2Proof.Machine.execCanWakeEnd c s
  | .canStateTimeout c => Sys2Proof.Machine.execCanStateTimeout c s
  | .canTransceiverWatchdog c => Sys2Proof.Machine.execCanTransceiverWatchdog c s
  | .ethFrameIngress p f => Sys2Proof.Machine.execEthFrameIngress p f s
  | .linkUp p gig => Sys2Proof.Machine.execLinkUp p gig s
  | .linkDown p => Sys2Proof.Machine.execLinkDown p s
  | .addressAgeing a => Sys2Proof.Machine.execAddressAgeing a s
  | .twoStepEntryExpiry p source domain seqId => Sys2Proof.Machine.execTwoStepEntryExpiry p source domain seqId s
  | .announceReceived p a => Sys2Proof.Machine.execAnnounceReceived p a s
  | .syncReceived p m => Sys2Proof.Machine.execSyncReceived p m s
  | .delayRespReceived p h t4 corr logInterval => Sys2Proof.Machine.execDelayRespReceived p h t4 corr logInterval s
  | .arpRequest p target sender => Sys2Proof.Machine.execArpRequest p target sender s
  | .timSnap fn v => Sys2Proof.Machine.execTimSnap fn v s
  | .timAdj fn v => Sys2Proof.Machine.execTimAdj fn v s
  | .bmpTick m => Sys2Proof.Machine.execBmpTick m s
  | .testSlot c => Sys2Proof.Machine.execTestSlot c s
  | .offPulseTimeout c => Sys2Proof.Machine.execOffPulseTimeout c s
  | .onPulseTimeout c => Sys2Proof.Machine.execOnPulseTimeout c s
  | .fwCheckTimeout c => Sys2Proof.Machine.execFwCheckTimeout c s
  | .tPickExpiry c => Sys2Proof.Machine.execTPickExpiry c s
  | .fbRelTimeout c => Sys2Proof.Machine.execFbRelTimeout c s
  | .fbAppTimeout c => Sys2Proof.Machine.execFbAppTimeout c s
  | .holdExpiry c => Sys2Proof.Machine.execHoldExpiry c s
  | .engageFail c => Sys2Proof.Machine.execEngageFail c s
  | .reqTmoExpiry c => Sys2Proof.Machine.execReqTmoExpiry c s
  | .brakeFault k => Sys2Proof.Machine.execBrakeFault k s
  | .brakeSupplyWarning mv => Sys2Proof.Machine.execBrakeSupplyWarning mv s
  | .brakeTestPositionRead c => Sys2Proof.Machine.execBrakeTestPositionRead c s
  | .brakeTestEnd c => Sys2Proof.Machine.execBrakeTestEnd c s
  | .brkLogselWrite fn v => Sys2Proof.Machine.execBrkLogselWrite fn v s
  | .heartbeat h => Sys2Proof.Machine.execHeartbeat h s
  | .brake b => Sys2Proof.Machine.execBrake b s
  | .laneUp l => Sys2Proof.Machine.execLaneUp l s
  | .laneDown l k => Sys2Proof.Machine.execLaneDown l k s
  | .eyeOpeningLow l h v => Sys2Proof.Machine.execEyeOpeningLow l h v s
  | .handover m => Sys2Proof.Machine.execHandover m s
  | .request m => Sys2Proof.Machine.execRequest m s
  | .live m => Sys2Proof.Machine.execLive m s
  | .aioLive m => Sys2Proof.Machine.execAioLive m s
  | .diverge m => Sys2Proof.Machine.execDiverge m s
  | .checkResult m => Sys2Proof.Machine.execCheckResult m s
  | .refuse m => Sys2Proof.Machine.execRefuse m s
  | .outputsLive gap100ns => Sys2Proof.Machine.execOutputsLive gap100ns s
  | .update h entries => Sys2Proof.Machine.execUpdate h entries s
  | .latch h f => Sys2Proof.Machine.execLatch h f s
  | .sample h f => Sys2Proof.Machine.execSample h f s
  | .signature h entries => Sys2Proof.Machine.execSignature h entries s
  | .forward h f => Sys2Proof.Machine.execForward h f s
  | .fwdAck h f => Sys2Proof.Machine.execFwdAck h f s
  | .swap h m => Sys2Proof.Machine.execSwap h m s
  | .syncData h offset bytes => Sys2Proof.Machine.execSyncData h offset bytes s
  | .divergenceCheckEnd pathFail => Sys2Proof.Machine.execDivergenceCheckEnd pathFail s
  | .syncPhaseEnd ms => Sys2Proof.Machine.execSyncPhaseEnd ms s
  | .hedOwnWrite fn b v => Sys2Proof.Machine.execHedOwnWrite fn b v s
  | .handoverDrained b => Sys2Proof.Machine.execHandoverDrained b s
  | .handoverStuck b => Sys2Proof.Machine.execHandoverStuck b s
  | .bankAccess r => Sys2Proof.Machine.execBankAccess r s
  | .toggleAcknowledge g => Sys2Proof.Machine.execToggleAcknowledge g s
  | .secLcreq fn v => Sys2Proof.Machine.execSecLcreq fn v s
  | .secRselWrite fn v => Sys2Proof.Machine.execSecRselWrite fn v s
  | .info r => Sys2Proof.Machine.execInfo r s
  | .challenge r => Sys2Proof.Machine.execChallenge r s
  | .respond r => Sys2Proof.Machine.execRespond r s
  | .presence r => Sys2Proof.Machine.execPresence r s
  | .close r => Sys2Proof.Machine.execClose r s
  | .regRead r => Sys2Proof.Machine.execRegRead r s
  | .regWrite r => Sys2Proof.Machine.execRegWrite r s
  | .servicePointRead r => Sys2Proof.Machine.execServicePointRead r s
  | .serviceRecRead r => Sys2Proof.Machine.execServiceRecRead r s
  | .keyWrite r => Sys2Proof.Machine.execKeyWrite r s
  | .lcConfirm r => Sys2Proof.Machine.execLcConfirm r s
  | .lcAdvance r => Sys2Proof.Machine.execLcAdvance r s
  | .raiseEvent code sev value => Sys2Proof.Machine.execRaiseEvent code sev value s
  | .recordWrite slot => Sys2Proof.Machine.execRecordWrite slot s
  | .freezeTimeout h => Sys2Proof.Machine.execFreezeTimeout h s
  | .louCurWrite fn v => Sys2Proof.Machine.execLouCurWrite fn v s
  | .louFrzWrite fn v => Sys2Proof.Machine.execLouFrzWrite fn v s
  | .recordErase slot => Sys2Proof.Machine.execRecordErase slot s
  | .frameCommit flips => Sys2Proof.Machine.execFrameCommit flips s
  | .ledgerWriteDone delayUs => Sys2Proof.Machine.execLedgerWriteDone delayUs s
  | .powerGood feed0 feed1 slot => Sys2Proof.Machine.execPowerGood feed0 feed1 slot s
  | .feedLost n v => Sys2Proof.Machine.execFeedLost n v s
  | .pwrReqFunctionReinit fn v => Sys2Proof.Machine.execPwrReqFunctionReinit fn v s
  | .pwrReqWarmReset fn v => Sys2Proof.Machine.execPwrReqWarmReset fn v s
  | .pwrReqShutdownOff fn v => Sys2Proof.Machine.execPwrReqShutdownOff fn v s
  | .pwrReqShutdownRestart fn v => Sys2Proof.Machine.execPwrReqShutdownRestart fn v s
  | .unitTestDone r => Sys2Proof.Machine.execUnitTestDone r s
  | .bstStart fn v => Sys2Proof.Machine.execBstStart fn v s
  | .rollingBistBankDone b r => Sys2Proof.Machine.execRollingBistBankDone b r s
  | .pwrTselWrite fn v => Sys2Proof.Machine.execPwrTselWrite fn v s
  | .hkWatchdog second => Sys2Proof.Machine.execHkWatchdog second s
  | .i2cRead offset count => Sys2Proof.Machine.execI2cRead offset count s
  | .rcFieldRead fn a form => Sys2Proof.Machine.execRcFieldRead fn a form s
  | .registerWrite fn a v full => Sys2Proof.Machine.execRegisterWrite fn a v full s
  | .bistBankReturn b => Sys2Proof.Machine.execBistBankReturn b s
  | .cdcEpoch g words => Sys2Proof.Machine.execCdcEpoch g words s
  | .usbResetOrVbusLoss vbusLost => Sys2Proof.Machine.execUsbResetOrVbusLoss vbusLost s
  | .panelTemperatureRead t => Sys2Proof.Machine.execPanelTemperatureRead t s
  | .feedInterruption v0 v1 => Sys2Proof.Machine.execFeedInterruption v0 v1 s
  | .pllLockLoss d => Sys2Proof.Machine.execPllLockLoss d s
  | .feedRestored n v0 v1 => Sys2Proof.Machine.execFeedRestored n v0 v1 s
  | .domainSupplyLoss d => Sys2Proof.Machine.execDomainSupplyLoss d s
  | .bankConverterRecovery b => Sys2Proof.Machine.execBankConverterRecovery b s
  | .fieldSideRefreshRecovery digital b => Sys2Proof.Machine.execFieldSideRefreshRecovery digital b s
  | .canReceiveError c lec inc => Sys2Proof.Machine.execCanReceiveError c lec inc s
  | .unknownServiceOp op r => Sys2Proof.Machine.execUnknownServiceOp op r s
  | .hostReadTimeout => Sys2Proof.Machine.execHostReadTimeout s
  | .sessionCheckEnd => Sys2Proof.Machine.execSessionCheckEnd s
  | .sessionLockEnd => Sys2Proof.Machine.execSessionLockEnd s
  | .descriptorNop => Sys2Proof.Machine.execDescriptorNop s
  | .destroy => Sys2Proof.Machine.execDestroy s
  | .handleQuery => Sys2Proof.Machine.execHandleQuery s
  | .zorosCheck => Sys2Proof.Machine.execZorosCheck s
  | .zorosCheckDone => Sys2Proof.Machine.execZorosCheckDone s
  | .zorosSwap => Sys2Proof.Machine.execZorosSwap s
  | .swapPrepared => Sys2Proof.Machine.execSwapPrepared s
  | .prepareTimeout => Sys2Proof.Machine.execPrepareTimeout s
  | .freezeInstant => Sys2Proof.Machine.execFreezeInstant s
  | .swapSwitch => Sys2Proof.Machine.execSwapSwitch s
  | .taskCtrlStart => Sys2Proof.Machine.execTaskCtrlStart s
  | .taskCtrlStop => Sys2Proof.Machine.execTaskCtrlStop s
  | .taskCtrlSetMiniv => Sys2Proof.Machine.execTaskCtrlSetMiniv s
  | .patchValue => Sys2Proof.Machine.execPatchValue s
  | .forceSet => Sys2Proof.Machine.execForceSet s
  | .forceRelease => Sys2Proof.Machine.execForceRelease s
  | .loopCtrlEnable => Sys2Proof.Machine.execLoopCtrlEnable s
  | .loopCtrlSoftStop => Sys2Proof.Machine.execLoopCtrlSoftStop s
  | .loopCtrlSelectA => Sys2Proof.Machine.execLoopCtrlSelectA s
  | .loopCtrlSelectB => Sys2Proof.Machine.execLoopCtrlSelectB s
  | .loopCtrlManual => Sys2Proof.Machine.execLoopCtrlManual s
  | .loopCtrlAuto => Sys2Proof.Machine.execLoopCtrlAuto s
  | .canState => Sys2Proof.Machine.execCanState s
  | .canCancel => Sys2Proof.Machine.execCanCancel s
  | .streamPost => Sys2Proof.Machine.execStreamPost s
  | .streamDrop => Sys2Proof.Machine.execStreamDrop s
  | .recFreeze => Sys2Proof.Machine.execRecFreeze s
  | .recFreezeRelease => Sys2Proof.Machine.execRecFreezeRelease s
  | .recClear => Sys2Proof.Machine.execRecClear s
  | .brkReqEngage => Sys2Proof.Machine.execBrkReqEngage s
  | .brkReqRelease => Sys2Proof.Machine.execBrkReqRelease s
  | .brkReqBrakeTest => Sys2Proof.Machine.execBrkReqBrakeTest s
  | .mirRoleSyncing => Sys2Proof.Machine.execMirRoleSyncing s
  | .mirRoleActive => Sys2Proof.Machine.execMirRoleActive s
  | .mirRoleStandby => Sys2Proof.Machine.execMirRoleStandby s
  | .retainSave => Sys2Proof.Machine.execRetainSave s
  | .extDriveCheckStart => Sys2Proof.Machine.execExtDriveCheckStart s
  | .activeInTakeoverEnd => Sys2Proof.Machine.execActiveInTakeoverEnd s
  | .delayReqSend t3 => Sys2Proof.Machine.execDelayReqSend t3 s
  | .holdover => Sys2Proof.Machine.execHoldover s
  | .holdoverExpiry => Sys2Proof.Machine.execHoldoverExpiry s
  | .followerUpdate => Sys2Proof.Machine.execFollowerUpdate s
  | .bmpWatchdog => Sys2Proof.Machine.execBmpWatchdog s
  | .passwordLockEnd => Sys2Proof.Machine.execPasswordLockEnd s
  | .roleDecision => Sys2Proof.Machine.execRoleDecision s
  | .heartbeatSend => Sys2Proof.Machine.execHeartbeatSend s
  | .aliveRefresh => Sys2Proof.Machine.execAliveRefresh s
  | .aliveLineDrop => Sys2Proof.Machine.execAliveLineDrop s
  | .silentLoss => Sys2Proof.Machine.execSilentLoss s
  | .commandRepeat => Sys2Proof.Machine.execCommandRepeat s
  | .switchoverScansCommitted => Sys2Proof.Machine.execSwitchoverScansCommitted s
  | .transmittersSettled => Sys2Proof.Machine.execTransmittersSettled s
  | .liveTimeout => Sys2Proof.Machine.execLiveTimeout s
  | .signatureTimeout => Sys2Proof.Machine.execSignatureTimeout s
  | .syncTimeout => Sys2Proof.Machine.execSyncTimeout s
  | .syncRestart => Sys2Proof.Machine.execSyncRestart s
  | .lcConfirmTimeout => Sys2Proof.Machine.execLcConfirmTimeout s
  | .serviceSessionIdleTimeout => Sys2Proof.Machine.execServiceSessionIdleTimeout s
  | .servicePortLockEnd => Sys2Proof.Machine.execServicePortLockEnd s
  | .presenceWindowEnd => Sys2Proof.Machine.execPresenceWindowEnd s
  | .raiseApply => Sys2Proof.Machine.execRaiseApply s
  | .fieldBStart => Sys2Proof.Machine.execFieldBStart s
  | .compensationField => Sys2Proof.Machine.execCompensationField s
  | .startupImageLoad => Sys2Proof.Machine.execStartupImageLoad s
  | .powerFailWarning => Sys2Proof.Machine.execPowerFailWarning s
  | .meWatchdog => Sys2Proof.Machine.execMeWatchdog s
  | .crystalFailure => Sys2Proof.Machine.execCrystalFailure s
  | .carrierReset => Sys2Proof.Machine.execCarrierReset s
  | .powerCycle => Sys2Proof.Machine.execPowerCycle s
  | .vioAuxOutOfRange => Sys2Proof.Machine.execVioAuxOutOfRange s
  | .vioAuxRestored => Sys2Proof.Machine.execVioAuxRestored s
  | .coreRegulatorFailure => Sys2Proof.Machine.execCoreRegulatorFailure s
  | .dramUncorrectableError => Sys2Proof.Machine.execDramUncorrectableError s
  | .fieldIoLogicFault => Sys2Proof.Machine.execFieldIoLogicFault s
  | .carrierResetRelease => Sys2Proof.Machine.execCarrierResetRelease s
  | .partnerAliveLineHigh => Sys2Proof.Machine.execPartnerAliveLineHigh s
  | .vbusConnect => Sys2Proof.Machine.execVbusConnect s
  | .unknownOpcode => Sys2Proof.Machine.execUnknownOpcode s
  | .indicatorTestEnd => Sys2Proof.Machine.execIndicatorTestEnd s

end Sys2Proof.Machine
end

