-- ==== Sys2Proof/Machine/Tick.lean ====
section
/-! DEFINITION. What one microsecond does to the clocks and time counts that the state holds, and to what waits for them
(assumption log 1). Every other event that time brings is a command of the table. -/

namespace Sys2Proof.Machine

/-- A clock after 125 Ethernet cycles of 8 ns plus the trim (R288). -/
def clockRun (addend : Int) (c : Clock) : Clock :=
  let t : Int := c.frac + 125 * (8 * 2 ^ 32 + addend)
  { clockAdd (Int.fdiv t (2 ^ 32)) c with frac := (Int.fmod t (2 ^ 32)).toNat }

/-- A follower after 1 µs: trimmed while the time unit runs, else at the nominal rate (R295). -/
def followRun (s : State) (on : Bool) (f : Follower) : Follower :=
  if on then { f with
    clk := clockRun (if ethOn s then f.addend else 0) f.clk
    hist := (f.hist.map fun p => (p.1 + 1000, p.2)).filter fun p => p.1 < 100000000 } else f

/-- Vessel time (R288, R295). -/
def tickTime (s : State) : State :=
  setTim (fun t => { t with
    clk := if ethOn s then clockRun t.addend t.clk else t.clk
    res := if ethOn s then clockRun t.addend t.res else t.res
    field := followRun s (fieldOn s) t.field
    can := followRun s (canOn s) t.can
    hk := followRun s (hkOn s) t.hk
    fabric := followRun s (fabricOn s) t.fabric }) s

/-- The Loom time base (R98). -/
def tickLoom (s : State) : State := if clkOn s 1 then { s with tbase := s.tbase + 1 } else s

/-- A lock counts down on the always-on clock and ends at 0 (R37, R325, R400). -/
def tickLock (left : Nat) (put : State → State) (end_ : State → State) (s : State) : State :=
  if left = 0 then s else if left = 1 then end_ s else put s

/-- The always-on clock counts while PD0 is supplied: the module is up, or a feed is in range. The hold-up time after a power-fail warning
is not counted (assumption log 31). -/
def aonRuns (s : State) : Bool := s.pwr.pd.getLsbD 0 && (s.pwr.up || feedLost ≤ s.pwr.feed0 || feedLost ≤ s.pwr.feed1)

/-- The three locks. -/
def tickLocks (s : State) : State :=
  let s1 := tickLock s.shu.sess.lockUs (setSess fun x => { x with lockUs := x.lockUs - 1 }) sessUnlock s
  let s2 := tickLock s1.svc.lockUs (setSvc fun v => { v with lockUs := v.lockUs - 1 }) svcUnlock s1
  tickLock s2.brk.lockUs (fun t => { t with brk := { t.brk with lockUs := t.brk.lockUs - 1 } }) brkUnlock s2

/-- The recorder's buckets fill while HK1 runs (R414). -/
def tickBuckets (s : State) : State :=
  if hkOn s then
    { s with rcd := { s.rcd with slots := s.rcd.slots.map fun p =>
        let c := codeCfg s p.2.body.code
        (p.1, if p.2.held then { p.2 with tokens := min (fullBucket c) (p.2.tokens + c.rate) } else p.2) } }
  else s

/-- Operating time while PD0 is supplied, and the time since power-good or warm reset, 20 ms of which the host link takes to come up (R443,
R445, R469). -/
def tickAge (s : State) : State :=
  setPwr (fun p =>
    let p1 := if aonRuns s then (if p.ageUs + 1 = 1000000 then { p with ageUs := 0, age := p.age + 1 } else { p with ageUs := p.ageUs + 1 }) else p
    let p2 := if p1.up && 20000 ≤ p1.upUs + 1 then { p1 with link := true } else p1
    if p2.up then (if p2.upUs + 1 = 1000000 then { p2 with upUs := 0, uptime := (p2.uptime + 1) % 2 ^ 32 } else { p2 with upUs := p2.upUs + 1 }) else p2) s

/-- The domains and clocks that come on at an instant of start-up, in µs from its step 2 (R443). -/
def stageOn (us : Nat) : BitVec 12 × BitVec 12 :=
  match us with
  | 2000 => (0x040, 0x004)
  | 3000 => (0x020, 0x000)
  | 4000 => (0x080, 0x020)
  | 5000 => (0x800, 0x600)
  | 6000 => (0x500, 0x940)
  | 7000 => (0x200, 0x080)
  | 8000 => (0x01C, 0x00A)
  | _ => (0, 0)

/-- Steps 2 to 9 of start-up: the domains that the variant has come on one after the other, PD6 before PD5 (R19, R443). -/
def tickStart (s : State) : State :=
  match s.pwr.stage with
  | none => s
  | some k =>
    let on := stageOn (k + 1)
    setPwr (fun p => { p with
      stage := if k + 1 < 8000 then some (k + 1) else none, pd := p.pd ||| (on.1 &&& pdAll s), run := p.run ||| (on.2 &&& clkAll s) }) s

/-- The lanes carry 156 blocks in a microsecond: frames that wait go out (R335, R342; DESIGN CHOICE, assumption log 151). -/
def tickLanes (s : State) : State :=
  if meOn s then txRun s.mir.txQ.length { s with mir := { s.mir with txRoom := 156 } } else s

/-- The plant Ethernet ports send what waits in their egress queues (R281). -/
def tickEth (s : State) : State := foldFin 2 (fun t q => ethTick q t) s

/-- The alive line falls 30 µs after the last refresh of its charge pump (R347). -/
def tickAlive (s : State) : State :=
  if s.mir.oalive then
    if 30 ≤ s.mir.aliveUs + 1 then { s with mir := { s.mir with oalive := false, aliveUs := 0 } }
    else { s with mir := { s.mir with aliveUs := s.mir.aliveUs + 1 } }
  else s

/-- A lane's time since its last heartbeat: every 10 µs without one counts (R362). -/
def laneRun (x : Lane) : Lane :=
  let g := x.gapUs + 1
  { x with gapUs := if 61 ≤ g then 51 else g, hbMiss := if 11 ≤ g && g % 10 = 1 then holdInc 0xFFFF x.hbMiss else x.hbMiss }

/-- The ME's watch on its partner: heartbeats, the alive line, and DETACHED once the line has stayed high for 5 µs after both lanes went down
(R346 code 9, R355, R360). -/
def tickWatch (s : State) : State :=
  if !(meRuns s) then s
  else
    let s1 := setMir (fun m => { m with
      lanes := m.lanes.map laneRun, hbUs := min 1000 (m.hbUs + 1), lowUs := if m.palive then 0 else min 1000 (m.lowUs + 1)
      lossUs := if lanesLost s && m.palive then m.lossUs.map (· + 1) else none }) s
    when (s1.mir.lossUs.any (5 ≤ ·) && !switching s1) linkFault s1

/-- A decision that a swap has held back is taken after it (R357): on a module that can no longer hand over, the fail values are published
and the reset is made that its fault asks for (R129, R454). -/
def tickAgain (s : State) : State :=
  match s.mir.again with
  | some (code, reset) =>
    if s.zor.phase = .freeze || s.zor.phase = .map || s.mir.swo ≠ .none then s
    else
      let s1 := { s with mir := { s.mir with again := none } }
      if mayHandOver s1 then handOver code reset s1 else if reset then warmReset s1 else when (drives s1) failsOut s1
  | none => s

/-- Rolling BIST holds one bank at a time, taken from NONE, and gives it back at once when it must stop (R371, R451). The pointer of
PWR_ROLL names the next bank. -/
def tickRoll (s : State) : State :=
  match (List.finRange 24).find? fun b => (hedBank s b).owner = 0x10 with
  | some b => if rollActive s then s else bistReturn b s
  | none =>
    if rollActive s && fabricOn s then
      match ((List.range 24).map fun i => Fin.ofNat 24 (s.pwr.rollBank + i)).find? fun b => (hedBank s b).owner = 0x1F && !(hedBank s b).pend with
      | some b => setHed b (fun k => { k with owner := 0x10, req := 0x10 }) (setPwr (fun p => { p with rollBank := b.val }) s)
      | none => s
    else s

/-- One microsecond with no command: time, then what it lets go on (creates that wait for a teardown, a freeze that is complete, the
recovery ladder, a decision held back, the next bank of rolling BIST). -/
def tick (s : State) : State :=
  tickRoll (tickAgain (tickWatch (ladderRun 1 (swapFrozen (waitRun (tickLanes (tickEth (tickAlive (tickStart (tickAge (tickBuckets (when (aonRuns s) tickLocks (tickLoom (tickTime s))))))))))))))

end Sys2Proof.Machine
end

