-- ==== Sys2Proof/Safety.lean ====
section
/-! DEFINITION. The terms that statements about a run use: the blocks of the state, which of them a command may change (its frame), and
the invariants. -/

namespace Sys2Proof

open Machine

/-- The blocks that the state consists of. -/
inductive Blk where
  /-- The module and chip it is. -/
  | ident
  /-- The bytes of the banks. -/
  | mem
  /-- The point hub. -/
  | hub
  /-- The host interface. -/
  | shu
  /-- The Loom engines. -/
  | loom
  /-- The time base. -/
  | tbase
  /-- Images and channels. -/
  | zor
  /-- The Prism engines. -/
  | prism
  /-- The slot window. -/
  | win
  /-- Digital banks. -/
  | dbank
  /-- Digital channels. -/
  | dio
  /-- Current channels. -/
  | aio
  /-- Encoder ports. -/
  | enc
  /-- CAN channels. -/
  | can
  /-- The Ethernet switch. -/
  | eth
  /-- Vessel time. -/
  | tim
  /-- Brakes. -/
  | brk
  /-- The Mirror engine. -/
  | mir
  /-- Bank heddles and crossings. -/
  | hed
  /-- Life cycle, keys and regions. -/
  | sec
  /-- The service port. -/
  | svc
  /-- The recorder. -/
  | rcd
  /-- The panel. -/
  | pan
  /-- Power and reset. -/
  | pwr
  /-- The sideband pins. -/
  | side
  /-- The code configurations in force. -/
  | codes
  /-- What has left the module. -/
  | out
  /-- The free values drawn. -/
  | free
  /-- The commands that wait. -/
  | pending
deriving DecidableEq, Repr

/-- Block `k` of `t` is that of `s`. -/
def Blk.same (k : Blk) (s t : State) : Prop :=
  match k with
  | .ident => t.ident = s.ident
  | .mem => t.mem = s.mem
  | .hub => t.hub = s.hub
  | .shu => t.shu = s.shu
  | .loom => t.loom = s.loom
  | .tbase => t.tbase = s.tbase
  | .zor => t.zor = s.zor
  | .prism => t.prism = s.prism
  | .win => t.win = s.win
  | .dbank => t.dbank = s.dbank
  | .dio => t.dio = s.dio
  | .aio => t.aio = s.aio
  | .enc => t.enc = s.enc
  | .can => t.can = s.can
  | .eth => t.eth = s.eth
  | .tim => t.tim = s.tim
  | .brk => t.brk = s.brk
  | .mir => t.mir = s.mir
  | .hed => t.hed = s.hed
  | .sec => t.sec = s.sec
  | .svc => t.svc = s.svc
  | .rcd => t.rcd = s.rcd
  | .pan => t.pan = s.pan
  | .pwr => t.pwr = s.pwr
  | .side => t.side = s.side
  | .codes => t.codes = s.codes
  | .out => t.out = s.out
  | .free => t.free = s.free
  | .pending => t.pending = s.pending

/-- The frame of each command: the blocks that it may change. Every other block is as before. -/
def mayChange (c : Instr) : List Blk :=
  match c with
  | .activeInTakeoverEnd =>
    [.aio]
  | .passwordLockEnd =>
    [.brk]
  | .canAttemptStart _ =>
    [.can]
  | .thresholdUpdate _ _ =>
    [.dbank]
  | .retryCountReset _ =>
    [.dio]
  | .velocityTimeout _ =>
    [.enc]
  | .addressAgeing _ | .twoStepEntryExpiry _ _ _ _ =>
    [.eth]
  | .stoppedTimerEvaluation _ =>
    [.loom]
  | .diverge _ | .extDriveCheckStart | .aliveRefresh | .partnerAliveLineHigh =>
    [.mir]
  | .arpRequest _ _ _ =>
    [.out]
  | .ledgerWriteDone _ | .fieldBStart =>
    [.pan]
  | .sampleInstant _ =>
    [.prism]
  | .feedInterruption _ _ =>
    [.pwr]
  | .raiseEvent _ _ _ | .recordWrite _ | .freezeTimeout _ | .louCurWrite _ _ | .louFrzWrite _ _ | .recordErase _ =>
    [.rcd]
  | .lcConfirmTimeout =>
    [.sec]
  | .functionLevelReset _ | .sessionLockEnd =>
    [.shu]
  | .vioAuxRestored | .indicatorTestEnd =>
    [.side]
  | .usbResetOrVbusLoss _ | .serviceSessionIdleTimeout | .servicePortLockEnd | .presenceWindowEnd =>
    [.svc]
  | .delayRespReceived _ _ _ _ _ | .followerUpdate =>
    [.tim]
  | .retainSave =>
    [.zor]
  | .reqTmoExpiry _ | .brakeSupplyWarning _ | .brkLogselWrite _ _ =>
    [.brk, .rcd]
  | .digitalDisagree _ =>
    [.dio, .rcd]
  | .linkUp _ _ | .linkDown _ =>
    [.eth, .rcd]
  | .ethFrameIngress _ _ =>
    [.eth, .tim]
  | .handoverDrained _ =>
    [.hed, .free]
  | .bistBankReturn _ =>
    [.mem, .hed]
  | .outputsLive _ | .heartbeatSend | .commandRepeat =>
    [.mir, .out]
  | .eyeOpeningLow _ _ _ =>
    [.mir, .rcd]
  | .i2cRead _ _ =>
    [.out, .free]
  | .panelTemperatureRead _ | .compensationField =>
    [.rcd, .pan]
  | .feedLost _ _ | .pwrTselWrite _ _ | .feedRestored _ _ _ | .crystalFailure =>
    [.rcd, .pwr]
  | .secRselWrite _ _ =>
    [.sec, .rcd]
  | .streamBufferTimeout _ =>
    [.shu, .free]
  | .ringHostMemoryError _ _ | .completionWrite _ | .irqModerationExpiry _ =>
    [.shu, .out]
  | .sessionResponse _ _ | .sessionCheckEnd =>
    [.shu, .rcd]
  | .vbusConnect =>
    [.svc, .out]
  | .toggleAcknowledge _ =>
    [.tim, .hed]
  | .delayReqSend _ =>
    [.tim, .out]
  | .announceReceived _ _ | .syncReceived _ _ | .timAdj _ _ | .holdover | .holdoverExpiry =>
    [.tim, .rcd]
  | .peSselWrite _ _ =>
    [.win, .rcd]
  | .hedOwnWrite _ _ _ =>
    [.hed, .rcd, .free]
  | .cdcEpoch _ _ =>
    [.hed, .rcd, .pwr]
  | .canStateTimeout _ =>
    [.shu, .can, .free]
  | .descriptorNop | .handleQuery | .streamDrop | .unknownOpcode =>
    [.shu, .hed, .free]
  | .refuse _ =>
    [.shu, .mir, .free]
  | .sessionOpen _ | .sessionClose _ =>
    [.shu, .rcd, .free]
  | .submissionDoorbell _ _ _ | .completionDoorbell _ _ _ | .shuRpArm _ _ _ | .shuRpCtrlDisable _ _ =>
    [.shu, .rcd, .out]
  | .zorosCheckDone =>
    [.shu, .zor, .free]
  | .info _ | .challenge _ | .presence _ | .close _ | .unknownServiceOp _ _ =>
    [.svc, .out, .free]
  | .timSnap _ _ =>
    [.tim, .hed, .rcd]
  | .rollingBistBankDone _ _ =>
    [.mem, .hed, .rcd, .pwr]
  | .syncRestart =>
    [.mir, .rcd, .out, .free]
  | .recFreeze | .recFreezeRelease =>
    [.shu, .hed, .rcd, .free]
  | .descriptorFetch _ =>
    [.shu, .hed, .rcd, .pwr]
  | .frameCommit _ =>
    [.shu, .rcd, .pan, .free]
  | .zorosCheck =>
    [.shu, .zor, .hed, .free]
  | .respond _ =>
    [.svc, .rcd, .out, .free]
  | .cmodeChangeEnd _ | .bankConverterRecovery _ =>
    [.hub, .aio, .mir, .hed, .out]
  | .testSlot _ | .holdExpiry _ =>
    [.hub, .brk, .mir, .hed, .out]
  | .encoderLossEnd _ | .ssiFrameStart _ =>
    [.hub, .enc, .mir, .hed, .out]
  | .syncTimeout =>
    [.hub, .loom, .mir, .rcd, .out]
  | .sourceReturn _ _ _ =>
    [.prism, .aio, .hed, .rcd, .pwr]
  | .servicePointRead _ | .serviceRecRead _ | .keyWrite _ =>
    [.sec, .svc, .rcd, .out, .free]
  | .hostReadTimeout =>
    [.shu, .zor, .brk, .rcd, .free]
  | .domainSupplyLoss _ =>
    [.dio, .can, .brk, .mir, .svc, .pwr]
  | .periodicConversion _ _ =>
    [.hub, .aio, .mir, .hed, .out, .free]
  | .mismatch _ _ | .ne43FlagChange _ _ _ | .short _ _ | .transmitterFlagChange _ _ _ | .isoFail _ | .currentDisagree _ | .share _ =>
    [.hub, .aio, .mir, .hed, .rcd, .out]
  | .brake _ =>
    [.hub, .brk, .mir, .hed, .rcd, .out]
  | .filterTimeout _ _ | .lonely _ | .canReceiveError _ _ _ =>
    [.hub, .can, .mir, .hed, .rcd, .out]
  | .readbackFlagClear _ _ | .wireBreakClear _ | .thermalRetry _ =>
    [.hub, .dbank, .dio, .mir, .hed, .out]
  | .encoderLoss _ | .ssiFrameEnd _ _ | .encQerrClear _ _ _ =>
    [.hub, .enc, .mir, .hed, .rcd, .out]
  | .pointUpdate _ _ _ | .inPtDelivery _ _ =>
    [.hub, .mir, .hed, .rcd, .pwr, .out]
  | .bstStart _ _ =>
    [.loom, .prism, .tim, .hed, .rcd, .pwr]
  | .bankAccess _ =>
    [.mem, .hed, .sec, .rcd, .pwr, .out]
  | .canTx _ =>
    [.shu, .can, .hed, .rcd, .pwr, .free]
  | .panelFrame _ =>
    [.shu, .hed, .rcd, .pan, .pwr, .free]
  | .recClear | .raiseApply =>
    [.shu, .hed, .rcd, .pwr, .out, .free]
  | .loopCtrlEnable | .loopCtrlSoftStop | .loopCtrlSelectA | .loopCtrlSelectB | .loopCtrlManual | .loopCtrlAuto =>
    [.shu, .prism, .mir, .hed, .out, .free]
  | .handover _ =>
    [.shu, .zor, .mir, .hed, .rcd, .free]
  | .canTransceiverWatchdog _ =>
    [.hub, .can, .mir, .hed, .rcd, .pwr, .out]
  | .bankShed _ _ | .supplyConditionEntered _ _ | .supplyConditionReleased _ _ | .rbLow _ | .extDrive _ | .wireBreak _
  | .thermalShutdown _ | .dioLatWrite _ _ _ =>
    [.hub, .dbank, .dio, .mir, .hed, .rcd, .out]
  | .qerr _ | .indexMark _ _ | .encoderDelivery _ _ _ _ =>
    [.hub, .enc, .mir, .hed, .rcd, .out, .free]
  | .brakeTestEnd _ =>
    [.hub, .prism, .brk, .mir, .hed, .rcd, .out]
  | .weftLatch _ =>
    [.hub, .shu, .loom, .mir, .rcd, .out, .free]
  | .streamPost =>
    [.shu, .can, .hed, .rcd, .pwr, .out, .free]
  | .pointRead | .recRead =>
    [.shu, .hed, .sec, .rcd, .pwr, .out, .free]
  | .patchValue =>
    [.shu, .loom, .mir, .hed, .rcd, .out, .free]
  | .zorosStage _ =>
    [.shu, .zor, .hed, .sec, .rcd, .pwr, .free]
  | .request _ | .zorosSwap | .swapPrepared | .prepareTimeout | .freezeInstant =>
    [.shu, .zor, .mir, .hed, .rcd, .out, .free]
  | .coreRegulatorFailure =>
    [.dbank, .dio, .aio, .can, .brk, .mir, .svc, .pwr]
  | .fieldSideRefreshRecovery _ _ =>
    [.hub, .dbank, .dio, .aio, .mir, .hed, .rcd, .out]
  | .bmpTick _ | .offPulseTimeout _ | .onPulseTimeout _ | .fwCheckTimeout _ | .tPickExpiry _ | .fbRelTimeout _ | .fbAppTimeout _
  | .engageFail _ | .brakeFault _ | .brakeTestPositionRead _ =>
    [.hub, .prism, .brk, .mir, .hed, .rcd, .pwr, .out]
  | .canIntegration _ | .busOffRecoveryEnd _ | .canSleepReached _ | .canWakeEnd _ | .canState | .canCancel =>
    [.hub, .shu, .can, .mir, .hed, .rcd, .out, .free]
  | .handoverStuck _ =>
    [.shu, .zor, .mir, .hed, .rcd, .pwr, .out, .free]
  | .fieldSideWatchdog _ _ =>
    [.hub, .dbank, .dio, .aio, .mir, .hed, .rcd, .pwr, .out]
  | .computeWindow _ =>
    [.hub, .prism, .brk, .mir, .hed, .rcd, .pwr, .out, .free]
  | .brkCfg _ =>
    [.hub, .shu, .brk, .mir, .hed, .rcd, .pwr, .out, .free]
  | .canFrameReceived _ _ | .canAttemptEnd _ _ | .busWake _ _ =>
    [.hub, .shu, .can, .mir, .hed, .rcd, .pwr, .out, .free]
  | .laneUp _ | .update _ _ | .latch _ _ | .sample _ _ | .signature _ _ | .swap _ _ | .syncData _ _ _ | .signatureTimeout =>
    [.hub, .shu, .loom, .zor, .mir, .hed, .rcd, .out, .free]
  | .inputChange _ _ | .debounceEnd _ =>
    [.hub, .shu, .dbank, .dio, .mir, .hed, .rcd, .pwr, .out, .free]
  | .brkReqEngage | .brkReqRelease | .brkReqBrakeTest =>
    [.hub, .shu, .prism, .brk, .mir, .hed, .rcd, .pwr, .out, .free]
  | .canCfg _ | .canFilter _ =>
    [.hub, .shu, .zor, .can, .mir, .hed, .rcd, .pwr, .out, .free]
  | .vioAuxOutOfRange | .carrierResetRelease =>
    [.shu, .brk, .mir, .svc, .rcd, .pan, .pwr, .side, .out, .free]
  | .loopCfg _ | .loopTable _ =>
    [.shu, .zor, .prism, .mir, .hed, .sec, .rcd, .pwr, .out, .free]
  | .powerFailWarning =>
    [.zor, .dio, .can, .brk, .mir, .svc, .rcd, .pan, .pwr, .free]
  | .freshWeftArrival _ | .budgetExhausted _ | .loomNop _ | .loomPick _ _ | .loomEnd _ | .loomLd _ _ | .loomLdn _ _ | .loomAnd _ _
  | .loomAndn _ _ | .loomOr _ _ | .loomOrn _ _ | .loomXor _ _ | .loomXorn _ _ | .loomNot _ | .loomSet1 _ | .loomSet0 _ | .loomAndp _
  | .loomOrp _ | .loomPopb _ | .loomBpsh _ | .loomBrd _ | .loomBpop _ | .loomSt _ _ | .loomStn _ _ | .loomSetb _ _ | .loomRstb _ _
  | .loomPedge _ _ | .loomNedge _ _ | .loomTon _ _ | .loomTof _ _ | .loomTp _ _ | .loomTrst _ _ | .loomCtu _ _ | .loomCtd _ _
  | .loomCrst _ _ | .loomCld _ _ | .loomLdw _ _ | .loomLdi _ _ | .loomLdih _ _ | .loomStw _ _ | .loomStwc _ _ | .loomAdd _ _
  | .loomSub _ _ | .loomMul _ _ | .loomDiv _ _ | .loomMod _ _ | .loomAndw _ _ | .loomOrw _ _ | .loomXorw _ _ | .loomShl _ _ | .loomShr _ _
  | .loomAsr _ _ | .loomCmp _ _ _ | .loomMin _ _ | .loomMax _ _ | .loomGetb _ _ | .loomPutb _ _ | .loomMcs _ | .loomMce _ | .loomJmp _ _
  | .loomJc _ _ | .loomJcn _ _ | .loomCall _ _ | .loomCallc _ _ | .loomRet _ | .loomEvt _ _ _ | .loomCantx _ _ | .forceSet | .forceRelease =>
    [.hub, .shu, .loom, .dbank, .dio, .aio, .mir, .hed, .rcd, .pwr, .out, .free]
  | .engineFault _ _ | .taskCtrlStart | .taskCtrlStop | .taskCtrlSetMiniv =>
    [.hub, .shu, .loom, .zor, .dbank, .dio, .aio, .mir, .hed, .rcd, .pwr, .out, .free]
  | .roleDecision =>
    [.hub, .shu, .loom, .prism, .dbank, .dio, .aio, .can, .mir, .hed, .rcd, .pwr, .out, .free]
  | .switchoverScansCommitted =>
    [.hub, .shu, .loom, .prism, .dbank, .dio, .aio, .enc, .can, .brk, .mir, .hed, .out, .free]
  | .publish _ =>
    [.hub, .shu, .loom, .zor, .dbank, .dio, .aio, .can, .brk, .mir, .hed, .rcd, .pwr, .out, .free]
  | .prismPeriodStart _ | .outputInstant _ _ | .prismEngineFault _ _ | .checkResult _ | .divergenceCheckEnd _ =>
    [.hub, .shu, .loom, .zor, .prism, .dbank, .dio, .aio, .can, .mir, .hed, .rcd, .pwr, .out, .free]
  | .fieldCfg _ =>
    [.hub, .shu, .zor, .prism, .dbank, .dio, .aio, .enc, .can, .mir, .hed, .rcd, .pwr, .out, .free]
  | .teardownEnd _ =>
    [.hub, .shu, .loom, .zor, .prism, .dbank, .dio, .aio, .enc, .can, .mir, .hed, .rcd, .pwr, .out, .free]
  | .heartbeat _ | .laneDown _ _ | .aioLive _ | .destroy | .mirRoleSyncing | .mirRoleActive | .mirRoleStandby | .aliveLineDrop
  | .silentLoss | .transmittersSettled =>
    [.hub, .shu, .loom, .zor, .prism, .dbank, .dio, .aio, .enc, .can, .brk, .mir, .hed, .rcd, .pwr, .out, .free]
  | .create _ =>
    [.hub, .shu, .loom, .zor, .prism, .dbank, .dio, .aio, .enc, .can, .mir, .hed, .sec, .rcd, .pwr, .out, .free]
  | .secLcreq _ _ | .lcConfirm _ | .lcAdvance _ =>
    [.hub, .shu, .loom, .zor, .prism, .dbank, .dio, .aio, .can, .brk, .mir, .hed, .sec, .svc, .rcd, .pwr, .out, .free]
  | .mirrorAckTimeout _ | .forward _ _ | .fwdAck _ _ =>
    [.hub, .shu, .loom, .zor, .prism, .dbank, .dio, .aio, .enc, .can, .brk, .mir, .hed, .rcd, .pan, .pwr, .out, .free]
  | .regRead _ =>
    [.loom, .prism, .dbank, .dio, .aio, .enc, .can, .eth, .brk, .mir, .hed, .sec, .svc, .rcd, .pan, .pwr, .out, .free]
  | .rcFieldRead _ _ _ =>
    [.shu, .loom, .prism, .dbank, .dio, .aio, .enc, .can, .eth, .brk, .mir, .hed, .sec, .rcd, .pan, .pwr, .out, .free]
  | .startupImageLoad =>
    [.hub, .shu, .loom, .zor, .prism, .dbank, .dio, .aio, .enc, .can, .eth, .tim, .mir, .hed, .sec, .rcd, .pan, .pwr, .codes, .out, .free]
  | .hkWatchdog _ =>
    [.hub, .shu, .loom, .zor, .prism, .dbank, .dio, .aio, .enc, .can, .eth, .tim, .mir, .hed, .sec, .svc, .rcd, .pan, .pwr, .out, .free]
  | .syncPhaseEnd _ | .swapSwitch =>
    [.hub, .shu, .loom, .zor, .prism, .dbank, .dio, .aio, .enc, .can, .eth, .tim, .brk, .mir, .hed, .sec, .rcd, .pan, .pwr, .codes, .out, .free]
  | .live _ | .regWrite _ | .pwrReqFunctionReinit _ _ | .pwrReqWarmReset _ _ | .pwrReqShutdownOff _ _ | .pwrReqShutdownRestart _ _
  | .unitTestDone _ | .registerWrite _ _ _ _ | .pllLockLoss _ | .bmpWatchdog | .liveTimeout | .meWatchdog | .dramUncorrectableError
  | .fieldIoLogicFault =>
    [.mem, .hub, .shu, .loom, .tbase, .zor, .prism, .win, .dbank, .dio, .aio, .enc, .can, .eth, .tim, .brk, .mir, .hed, .sec, .svc, .rcd, .pan, .pwr, .codes, .out, .free]
  | .powerCycle =>
    [.mem, .hub, .shu, .loom, .tbase, .zor, .prism, .win, .dbank, .dio, .aio, .enc, .can, .eth, .tim, .brk, .mir, .hed, .sec, .svc, .rcd, .pan, .pwr, .side, .codes, .free]
  | .powerGood _ _ _ | .carrierReset =>
    [.mem, .hub, .shu, .loom, .tbase, .zor, .prism, .win, .dbank, .dio, .aio, .enc, .can, .eth, .tim, .brk, .mir, .hed, .sec, .svc, .rcd, .pan, .pwr, .side, .codes, .out, .free]

/-- A write through a function reaches its register: the link is up, the session and the world let it pass, the register exists and its
domain runs (R35, R464). -/
abbrev reaches (fn : Func) (off : Nat) (s : State) : Prop :=
  linkOn s = true ∧ fnShut fn off s = false ∧ regGate s (fn = .f1) off = .reach ∧ (fn = .f0 → regFieldSecure off = false)

/-- What engine `n` holds for the instruction after the one it executes: its PC one on, the instruction counted. -/
abbrev stepped (n : Fin 8) (s : State) : LRun :=
  { (vget s.loom n).run with pc := (vget s.loom n).run.pc + 1, count := (vget s.loom n).run.count + 1 }

/-- Engine `n` executes `i` in settled mode (R112), not from the last word of the program memory. -/
abbrev settledAt (n : Fin 8) (i : LInstr) (s : State) : Prop :=
  loomRuns s n i = true ∧ (vget s.loom n).mode = .settled ∧ (vget s.loom n).run.pc < 131071

/-- The journal of engine `n` has room for `k` more entries (R79). -/
abbrev jRoom (n : Fin 8) (k : Nat) (s : State) : Prop := jUse (vget s.loom n).run + k ≤ 4096

/-- The state with the scan of engine `n` at `r`. -/
abbrev loomNow (n : Fin 8) (r : LRun) (s : State) : State := setLoom n (fun e => jNote (jUse r) { e with run := r }) s

/-- A bit operand of engine `n`, as the scan in progress reads it (R76). -/
abbrev bitAt (n : Fin 8) (o : BitOp) (s : State) : Bool := bitVal (loomCtx n (vget s.loom n)) (vget s.loom n).run o

/-- A word operand of engine `n`, as the scan in progress reads it (R76). -/
abbrev wordAt (n : Fin 8) (o : WordOp) (s : State) : Word := wordVal (loomCtx n (vget s.loom n)) (vget s.loom n).run o

/-- IN of a timer, counter, edge or effect instruction: BA AND MC. -/
abbrev inAt (n : Fin 8) (s : State) : Bool := (vget s.loom n).run.ba && (vget s.loom n).run.mc

/-- Descriptor `f` is the next that HK0 starts, it can be started, its own words came sound (R377), with the data `b` nothing in R57's order
refuses it, and no region refuses its data access (R395). -/
abbrev starts (f : Flight) (b : List Byte) (s : State) : Prop :=
  nextDesc s = some f ∧ hk0Runs s = true ∧ f.poison = false ∧ refusal s (ringSecure s f.ring) f.desc (some b) = none ∧
    dataRefused s (ringSecure s f.ring) f.desc = none

/-- The state in which a descriptor acts: HK0 has started it and taken its data `b` from the bobbin. -/
abbrev taken (f : Flight) (b : List Byte) (s : State) : State := started f.no (when (b ≠ []) (bobThrough 10 b) s)

/-- The handle of a descriptor names a live channel. -/
abbrev onLive (f : Flight) (s : State) : Prop := (match handleLook s f.desc.handle [] with
  | .found _ _ => true
  | .bad _ => false) = true

/-- The call of a descriptor of this module's own rings, with its data. -/
abbrev callOf (f : Flight) (b : List Byte) (s : State) : Call := { no := f.no, d := f.desc, secure := ringSecure s f.ring, data := b }

/-- A function reaches the page of a ring pair: the link is up, the pair belongs to the function's world, and function 1 has an open
session (R35, R39). -/
abbrev ringOpen (fn : Func) (r : Fin 64) (s : State) : Prop :=
  linkOn s = true ∧ ringFn s r = fn ∧ (fn = .f1 → s.shu.sess.state = .open)

/-- A frame that arrives at port `p` is accepted and is to leave at the other external port. -/
abbrev switched (p : Fin 2) (f : EthFrame) (s : State) : Prop :=
  ethLink s p = true ∧ f.badFcs = false ∧ 64 ≤ f.len ∧ f.len ≤ 1522 ∧ s.eth.swmode = false ∧
    ethForwards (ethLearn p f.src s.eth) p f = true ∧ ethLink s (otherPort p) = true

/-- A command from the partner arrives at its first good copy (R341). -/
abbrev heard (m : MirCmd) (s : State) : Prop := meRuns s = true ∧ m.crcOk = true ∧ s.mir.peerCmds.contains m.seq.toNat = false

/-- The state with that command's sequence number noted. -/
abbrev noted (m : MirCmd) (s : State) : State := setMir (fun x => { x with peerCmds := (m.seq.toNat :: x.peerCmds).take 128 }) s

/-- A good frame with the FSEQ that is expected arrives at a module whose role is decided (R342, R345). -/
abbrev inOrder (h : FrameHdr) (s : State) : Prop :=
  meRuns s = true ∧ s.mir.decided = true ∧ h.good = true ∧ h.bad0 = false ∧ h.bad1 = false ∧ h.full = false ∧ crossPois s 14 = false ∧
    (s.mir.fseqIn = none ∨ s.mir.fseqIn = some h.fseq.toNat)

/-- The state after a frame that took `n` FSEQs. -/
abbrev framed (n : Nat) (h : FrameHdr) (s : State) : State := setMir (fun m => { m with fseqIn := some ((h.fseq.toNat + n) % 65536) }) s

/-- The crossbar grants the access `r` in this cycle: the bank's domain and the crossbar run, the access lies in the bank, its port serves the
master, as its owner with no handover pending or by a service access of R366, no other request goes first and no region refuses it (R365 to R367, R373, R394). -/
abbrev granted (r : BankReq) (s : State) : Prop :=
  r.offset + (if r.write then r.bytes.length else r.count) ≤ 0x200000 ∧ bankOn s r.bank.val = true ∧
    portServes s r.bank r.portB r.master r.service r.write = true ∧ bankBeats s r = false ∧
    regionRefuses s (reqSecure r) r.write (bankBase r.bank + r.offset) = none

/-- A request of the service port runs: HK1 runs, the port is on the bus and no check of R403 refuses the request. -/
abbrev svcRuns (op : Nat) (r : SvcReq) (s : State) : Prop := hkOn s = true ∧ s.svc.pullup = true ∧ svcRefusal s op r = none

/-- The state after the response `a` to a request; a session whose own command changed the life-cycle state, or whose key write is
done, ends after it. -/
abbrev svcSent (op : Nat) (r : SvcReq) (a : SvcAns) (s : State) : State :=
  let t := drawn (emit (.usb (svcBytes op r a (Config.open32 s.free))) s)
  when t.svc.endAfter svcEnd t

end Sys2Proof
end

