-- ==== Sys2Proof/Certificates/Slice0/Obligations.lean ====
section
/-! DEFINITION. The statements about the module, each with the rule of spec/ that it formalises. -/

open Sys2Proof Sys2Proof.Machine

/-- R16, R52, R98: A step runs the command at the front of the queue; on an empty queue one microsecond passes. -/
def Obligations.StepRunsFront : Prop :=
  (∀ (c : Instr) (rest : List Instr) (s : State), step { s with pending := c :: rest } = exec c { s with pending := rest }) ∧
  (∀ (s : State), s.pending = [] → ∃ t, step s = .next t ∧ t = tick s ∧ t.pending = [] ∧
    (tickLoom s).tbase = (if clkOn s 1 then s.tbase + 1 else s.tbase))

/-- R22, R389, R462: what reset leaves: power, clocks, life cycle, bank owners, rings, forces, commands. -/
def Obligations.ResetValues : Prop :=
  State.reset.pwr.pd = 0x003 ∧ State.reset.pwr.run = 0x001 ∧ State.reset.pwr.phase = .start ∧ State.reset.mir.decided = false ∧
    (∀ b : Fin 24, (hedBank State.reset b).owner = (if b.val < 12 then b.val else if b.val < 14 then 0x0C else if b.val < 16 then 0x0D else if b.val <
    20 then 0x0F else if b.val < 22 then 0x1F else if b.val = 22 then 0x0E else 0x0C) ∧
    (hedBank State.reset b).ownerB = (if 22 ≤ b.val then 0x0F else 0) ∧ (hedBank State.reset b).pend = false ∧
    (hedBank State.reset b).drained = true) ∧ (∀ r : Fin 64, (vget State.reset.shu.rings r).state = .disabled) ∧ State.reset.hub.force = [] ∧
    State.reset.zor.running = none ∧ State.reset.pending = []

/-- R394: the memory of the reset state has the canonical form. -/
def Obligations.MemoryFormAtReset : Prop :=
  Memory.wf State.reset.mem = true ∧ ∀ a : Nat, memByte State.reset.mem a = 0

/-- R371, R394: every step keeps the canonical form of the memory. -/
def Obligations.StepKeepsMemoryForm : Prop :=
  ∀ (s t : State), Memory.wf s.mem = true → step s = .next t → Memory.wf t.mem = true

/-- R16, R394: every command completes, and the blocks of the state that it does not change are as they were. -/
def Obligations.BlockFrames : Prop :=
  ∀ (c : Instr) (s : State), (∀ r, c = .bankAccess r → r.offset + (if r.write then r.bytes.length else r.count) ≤ 0x200000) →
    ∃ t, exec c s = .next t ∧ ∀ k : Blk, k ∉ mayChange c → Blk.same k s t

/-- R75, R80, R99: loom words: decode of encode gives the instruction back, and encode of decode the word. -/
def Obligations.LoomDecodeEncode : Prop :=
  (∀ (i : LInstr), lInstrOk i = true → loomDecode (loomEncode i) = some i) ∧
  (∀ (w : Word) (i : LInstr), loomDecode w = some i → loomEncode i = w ∧ lInstrOk i = true)

/-- R363, R365, R366, R367, R372, R373, R394, R395: A bank access: store, load, what is refused and recorded, and the edge of the bank.

Completes (exec answers the next state written, under hypotheses on the state and the operands alone): bankAccess. -/
def Obligations.BankAccess : Prop :=
  (∀ (r : BankReq) (s : State), 0x200000 < r.offset + (if r.write then r.bytes.length else r.count) → exec (.bankAccess r) s = .fault .noSuchAddress) ∧
  (∀ (r : BankReq) (s : State), granted r s → r.write = true → (r.collide && r.portB && 22 ≤ r.bank.val) = false → Memory.wf s.mem = true →
    exec (.bankAccess r) s = .next { s with mem := memWrite s.mem (bankBase r.bank + r.offset) r.bytes } ∧
    ∀ a : Nat, memByte (memWrite s.mem (bankBase r.bank + r.offset) r.bytes) a = if bankBase r.bank + r.offset ≤ a ∧
    a < bankBase r.bank + r.offset + r.bytes.length then r.bytes.getD (a - (bankBase r.bank + r.offset)) 0 else memByte s.mem a) ∧
  (∀ (r : BankReq) (s : State), granted r s → r.write = false → r.err = .corrected →
    exec (.bankAccess r) s = .next (emit (.bankData (memRead s.mem (bankBase r.bank + r.offset) r.count) false) (setHed r.bank (fun k =>
    { k with eccN := holdInc 0xFFFF k.eccN }) s))) ∧
  (∀ (r : BankReq) (s : State), granted r s → r.write = false → r.err = .uncorrectable →
    exec (.bankAccess r) s = .next (emit (.bankData (memRead s.mem (bankBase r.bank + r.offset) r.count) true) (hubNote r .poisoned (moverNote r
    .poisoned (unitBad (0x20 + r.bank.val) s))))) ∧
  (∀ (r : BankReq) (s : State), granted r s → r.write = false → r.err = .parity →
    exec (.bankAccess r) s = .next (emit (.bankData (memRead s.mem (bankBase r.bank + r.offset) r.count) false) (hubNote r .parityBad (moverNote r
    .parityBad s)))) ∧
  (∀ (r : BankReq) (n : Nat) (s : State), granted r s → r.write = false → r.err = .late n →
    exec (.bankAccess r) s = .next (emit (.bankData (memRead s.mem (bankBase r.bank + r.offset) r.count) false) (moverNote r (.empty n) s))) ∧
  (∀ (r : BankReq) (s : State), granted r s → r.write = false → r.err = .clean →
    exec (.bankAccess r) s = .next (emit (.bankData (memRead s.mem (bankBase r.bank + r.offset) r.count) false) s)) ∧
  (∀ (r : BankReq) (s : State), granted r s → r.write = true → r.collide = true → r.portB = true → 22 ≤ r.bank.val →
    exec (.bankAccess r) s = .next (raiseFabric 0x0905 3 r.bank.val (setHed r.bank (fun k => { k with coll := true }) s))) ∧
  (∀ (r : BankReq) (s : State), r.offset + (if r.write then r.bytes.length else r.count) ≤ 0x200000 → bankOn s r.bank.val = true →
    portServes s r.bank r.portB r.master r.service r.write = false → (r.service = true ∨ portOwner s r.bank r.portB ≠ r.master.val) →
    let t := raiseFabric 0x0903 6 r.bank.val
        { s with hed := { s.hed with violV := true, violM := r.master.val, violB := r.bank.val, violN := holdInc 0xFFFF s.hed.violN } };
    exec (.bankAccess r) s = .next (if r.write then t else emit (.bankData (List.replicate r.count 0) true) (hubNote r .poisoned (moverNote r
    .poisoned t)))) ∧
  (∀ (r : BankReq) (g : Nat) (s : State), r.offset + (if r.write then r.bytes.length else r.count) ≤ 0x200000 → bankOn s r.bank.val = true →
    portServes s r.bank r.portB r.master r.service r.write = true → bankBeats s r = false →
    regionRefuses s (reqSecure r) r.write (bankBase r.bank + r.offset) = some g →
    let t := regionViol g r.master.val (bankBase r.bank + r.offset) r.write s;
    exec (.bankAccess r) s = .next (if r.write then t else emit (.bankData (List.replicate r.count 0) true) (hubNote r .poisoned (moverNote r
    .poisoned t)))) ∧
  (∀ (r : BankReq) (s : State), r.offset + (if r.write then r.bytes.length else r.count) ≤ 0x200000 → bankOn s r.bank.val = true →
    portServes s r.bank r.portB r.master r.service r.write = true → bankBeats s r = true →
    exec (.bankAccess r) s = .next { s with hed := { s.hed with conf := vmod s.hed.conf r.master (holdInc 0xFFFFFFFF) } }) ∧
  (∀ (r : BankReq) (s : State), r.offset + (if r.write then r.bytes.length else r.count) ≤ 0x200000 → bankOn s r.bank.val = true → r.service = false →
    portOwner s r.bank r.portB = r.master.val → (hedBank s r.bank).pend = true → r.portB = false →
    exec (.bankAccess r) s = .next (emit (.relinquished r.master r.bank) s))

/-- R367, R368, R369, R371, R381, R385: handovers that end, get stuck or wait for BIST, the toggle crossings and the epochs of the crossings.

Completes (exec answers the next state written, under hypotheses on the state and the operands alone): handoverDrained, handoverStuck,
toggleAcknowledge, bistBankReturn, cdcEpoch. -/
def Obligations.BankAndCrossingCommands : Prop :=
  (∀ (b : Fin 24) (s : State), fabricOn s = true → (hedBank s b).pend = true → (hedBank s b).stuck = false → (hedBank s b).owner ≠ 0x10 →
    (hedBank s b).back = none →
    exec (.handoverDrained b) s = .next (setHed b (fun k =>
    { k with owner := k.req, pend := false, drained := true, stuck := false, outst := 0, back := none }) s)) ∧
  (∀ (b : Fin 24) (s : State), (hedBank s b).owner = 0x10 → (hedBank s b).pend = true → ∃ t, exec (.bistBankReturn b) s = .next t ∧
    (hedBank t b).owner = 0x1F ∧ (hedBank t b).pend = true ∧ (hedBank t b).req = (hedBank s b).req ∧ (∀ a : Nat, bankBase b ≤ a →
    a < bankBase b + 0x200000 → ∀ c ∈ t.mem, c.1 ≠ a) ∧ (∀ c ∈ s.mem, (c.1 < bankBase b ∨ bankBase b + 0x200000 ≤ c.1) → c ∈ t.mem)) ∧
  (∀ (g : Fin 25) (s : State), (vget s.hed.toggles g).busy = true → (vget s.hed.toggles g).held = false →
    exec (.toggleAcknowledge g) s = .next { s with hed := { s.hed with toggles := vset s.hed.toggles g { busy := false, held := false } } }) ∧
  (∀ (g : Fin 25) (s : State), (vget s.hed.toggles g).busy = true → (vget s.hed.toggles g).held = true → g.val = 17 → ethOn s = true →
    exec (.toggleAcknowledge g) s = .next (timSnapshot
    { s with hed := { s.hed with toggles := vset s.hed.toggles g { busy := true, held := false } } })) ∧
  (∀ (b : Fin 24) (s : State), fabricOn s = true → (hedBank s b).pend = true → (hedBank s b).stuck = false → (hedBank s b).owner ≠ 0x10 →
    s.zor.phase ≠ .prepare → let t := raiseFabric 0x0901 5 b.val (setHed b (fun k => { k with stuck := true }) s);
    exec (.handoverStuck b) s = .next (match ownerGroup (hedBank s b).owner with | some g => climb g 1000 t | none => t)) ∧
  (∀ (b : Fin 24) (s : State), fabricOn s = true → (hedBank s b).pend = true → (hedBank s b).stuck = false → (hedBank s b).owner ≠ 0x10 →
    bankMovable b = true → s.zor.phase = .prepare → let t := raiseFabric 0x0901 5 b.val (setHed b (fun k => { k with stuck := true }) s);
    exec (.handoverStuck b) s = .next (swapFail 9 stTimeout (match ownerGroup (hedBank s b).owner with | some g => climb g 1000 t | none => t))) ∧
  (∀ (g : Fin 25) (words : Nat) (s : State), fabricOn s = true →
    exec (.cdcEpoch g words) s = .next (climb g.val 1000 (raiseFabric 0x0904 6 g.val
    { s with hed := { s.hed with epochB := vset s.hed.epochB g 0, bobs := Vector.ofFn fun i => if (bobGroups i).contains g.val then {} else vget s.hed.bobs i, epochN := holdInc 0xFFFF s.hed.epochN, discard := holdAdd 0xFFFF s.hed.discard words, pois := s.hed.pois ||| (1#25 <<< g.val) } })))

/-- R46, R57, R58, R59, R155, R324, R377, R395, R401: A descriptor that a status of R57 refuses completes with it; an unknown opcode is DENIED with reason
1; poisoned data and a region that refuses them give POISON.

Completes (exec answers the next state written, under hypotheses on the state and the operands alone): unknownOpcode. -/
def Obligations.RefusedDescriptor : Prop :=
  (∀ (p : Desc → Bool) (h : HostData) (f : Flight) (a : Ans) (s : State), nextDesc s = some f → p f.desc = true → hk0Runs s = true →
    f.poison = false → (0 < dataLen f.desc → h.mark = .good) → refusal s (ringSecure s f.ring) f.desc (some (hostBytes f.desc h)) = some a →
    runRow p h s = .next (answer f.no a (bobRefuse 10 (hostBytes f.desc h) (deniedEffect s (ringSecure s f.ring) f.desc (some (hostBytes f.desc
    h)))))) ∧
  (∀ (p : Desc → Bool) (h : HostData) (f : Flight) (r : Nat × Nat) (s : State), nextDesc s = some f → p f.desc = true → hk0Runs s = true →
    f.poison = false → (0 < dataLen f.desc → h.mark = .good) → refusal s (ringSecure s f.ring) f.desc (some (hostBytes f.desc h)) = none →
    dataRefused s (ringSecure s f.ring) f.desc = some r →
    runRow p h s = .next (answer f.no { status := stPoison, result := none } (bobRefuse 10 (hostBytes f.desc h) (regionViol r.1 (if dataWrites
    f.desc.op && f.desc.op ≠ 0x08 then 0x0C else 0x0F) r.2 (dataWrites f.desc.op) s)))) ∧
  (∀ (d : Desc) (w : Bool) (b : Option (List Byte)) (s : State), d.op ≠ 0x0A → d.op ≠ 0x41 → d.op ≠ 0x50 → deniedEffect s w d b = s) ∧
  (∀ (f : Flight) (s : State), nextDesc s = some f → hk0Runs s = true → opSpec f.desc.op = none → f.poison = false →
    exec .unknownOpcode s = .next (answer f.no { status := stDenied, result := some 1 } (bobRefuse 10 (hostBytes f.desc
    { bytes := [], mark := .good }) s))) ∧
  (∀ (p : Desc → Bool) (h : HostData) (f : Flight) (s : State), nextDesc s = some f → p f.desc = true → hk0Runs s = true → f.poison = false →
    h.mark = .poisoned → 0 < dataLen f.desc → refusal s (ringSecure s f.ring) f.desc none = none →
    runRow p h s = .next (aerNote (ringFn s f.ring) 12 (answer f.no { status := stPoison, result := none } s))) ∧
  (∀ (p : Desc → Bool) (h : HostData) (f : Flight) (s : State), nextDesc s = some f → p f.desc = true → hk0Runs s = true → f.poison = false →
    h.mark = .parityBad → 0 < dataLen f.desc → refusal (parityFail 12 s) (ringSecure s f.ring) f.desc none = none →
    runRow p h s = .next (answer f.no { status := stPoison, result := none } (parityFail 12 s))) ∧
  (∀ (p : Desc → Bool) (h : HostData) (f : Flight) (s : State), nextDesc s = some f → p f.desc = true → hk0Runs s = true → f.poison = true →
    refusal s (ringSecure s f.ring) f.desc none = none → runRow p h s = .next (answer f.no { status := stPoison, result := none } s))

/-- R35, R39, R386, R464, R465, R466: register reads and writes through the two functions.

Completes (exec answers the next state written, under hypotheses on the state and the operands alone): rcFieldRead, registerWrite. -/
def Obligations.RegisterAccess : Prop :=
  (∀ (fn : Func) (o : BitVec 16) (v : Word) (s : State), reaches fn (o.toNat / 4 * 4) s →
    exec (.registerWrite fn (.bar0 o) v true) s = .next (regPut (fn = .f1) (o.toNat / 4 * 4) v.toNat s)) ∧
  (∀ (fn : Func) (a : RegAddr) (v : Word) (s : State), exec (.registerWrite fn a v false) s = .next s) ∧
  (∀ (o : BitVec 16) (v : Word) (s : State), linkOn s = true → regGate s false (o.toNat / 4 * 4) = .denied →
    exec (.registerWrite .f0 (.bar0 o) v true) s = .next (raise 0x0B04 4 (o.toNat / 4 * 4) s)) ∧
  (∀ (o : BitVec 16) (v : Word) (s : State), s.shu.sess.state ≠ .open → sessReg (o.toNat / 4 * 4) = false →
    exec (.registerWrite .f1 (.bar0 o) v true) s = .next s) ∧
  (∀ (fn : Func) (r : Fin 64) (o : BitVec 12) (v : Word) (s : State), ringOpen fn r s →
    exec (.registerWrite fn (.ring r o) v true) s = .next (ringWrite r (o.toNat / 4 * 4) v s)) ∧
  (∀ (fn : Func) (o : BitVec 16) (s : State), linkOn s = true → fnShut fn (o.toNat / 4 * 4) s = false →
    regGate s (fn = .f1) (o.toNat / 4 * 4) = .reach →
    exec (.rcFieldRead fn (.bar0 o) .one) s = .next (emit (.regData fn (o.toNat / 4 * 4) (regValue (measured (o.toNat / 4 * 4) s) (fn = .f1) (o.toNat
    / 4 * 4))) (regClear (o.toNat / 4 * 4) (measured (o.toNat / 4 * 4) s)))) ∧
  (∀ (fn : Func) (r : Fin 64) (o : BitVec 12) (f : ReadForm) (s : State), ringOpen fn r s →
    exec (.rcFieldRead fn (.ring r o) f) s = .next (emit (.regData fn (0x10000 + r.val * 0x1000 + o.toNat / 4 * 4) (ringRead s r (o.toNat / 4 * 4)))
    s))

/-- R186, R289, R300, R331, R367, R407, R418, R419, R447, R448, R451, R452, R453, R455, R462: register writes with a row of their own: slot window, time
snapshot and step, brake log, bank owner, recorder cursor and freeze, self-test; PWR_REQ: function reinitialisation, warm reset, shutdown to off and
to restart.

Completes (exec answers the next state written, under hypotheses on the state and the operands alone): peSselWrite, timSnap, timAdj, brkLogselWrite,
hedOwnWrite, secRselWrite, louCurWrite, louFrzWrite, pwrReqFunctionReinit, pwrReqWarmReset, pwrReqShutdownOff, pwrReqShutdownRestart, bstStart,
pwrTselWrite. -/
def Obligations.RegisterRowCommands : Prop :=
  (∀ (fn : Func) (v : Word) (s : State), reaches fn 0x1C00 s → exec (.peSselWrite fn v) s = .next (slotWindow (v.toNat % 256) s)) ∧
  (∀ (fn : Func) (v : Word) (s : State), reaches fn 0x4108 s → v.getLsbD 0 = true → exec (.timSnap fn v) s = .next ((let p := togglePulse 17 s;
    if p.2 then timSnapshot p.1 else p.1))) ∧
  (∀ (fn : Func) (v : Word) (s : State), reaches fn 0x411C s → s.tim.auto = false → exec (.timAdj fn v) s = .next (clockStep v.toInt s)) ∧
  (∀ (fn : Func) (v : Word) (s : State), reaches fn 0x4894 s → exec (.brkLogselWrite fn v) s = .next (brkLogLoad (v.toNat % 512) s)) ∧
  (∀ (fn : Func) (b : Fin 24) (v : Word) (s : State), reaches fn (0x2000 + 4 * b.val) s → 16 ≤ b.val → b.val ≤ 21 →
    exec (.hedOwnWrite fn b v) s = .next (hedRequest b (bits v.toNat 8 5) s)) ∧
  (∀ (fn : Func) (v : Word) (s : State), reaches fn 0x6810 s →
    exec (.secRselWrite fn v) s = .next ({ s with sec := { s.sec with rsel := v.toNat % 64 } })) ∧
  (∀ (fn : Func) (v : Word) (s : State), reaches fn 0x5900 s → exec (.louCurWrite fn v) s = .next (louLoad v.toNat s)) ∧
  (∀ (fn : Func) (v : Word) (s : State), reaches fn 0x5908 s →
    exec (.louFrzWrite fn v) s = .next ({ s with rcd := { s.rcd with louFrz := bitOf v.toNat 0 } })) ∧
  (∀ (fn : Func) (v : Word) (s : State), reaches fn 0x7000 s → v.getLsbD 31 = true → s.pwr.testing = [] →
    (unitList s).contains (v.toNat % 256) = true → (s.mir.decided && (s.mir.role = .active || (s.mir.role = .alone && anyRunning s))) = false →
    ∃ t, exec (.bstStart fn v) s = .next t ∧ t.pwr.testing = [v.toNat % 256] ∧ t.pwr.testFor = some .direct ∧
    (∀ h : v.toNat % 256 < 8, (vget t.loom ⟨v.toNat % 256, h⟩).state = .test)) ∧
  (∀ (fn : Func) (v : Word) (s : State), reaches fn 0x7000 s → v.getLsbD 31 = true →
    (s.pwr.testing ≠ [] ∨ (unitList s).contains (v.toNat % 256) = false) →
    exec (.bstStart fn v) s = .next (setPwr (fun p => { p with bRes := 3 }) (setPwr (fun p => { p with bctl := v.toNat % 256 }) s))) ∧
  (∀ (fn : Func) (v : Word) (s : State), reaches fn 0x420 s →
    exec (.pwrTselWrite fn v) s = .next (setPwr (fun p => { p with tsel := v.toNat % 256, trec := unitShown s (v.toNat % 256) }) s)) ∧
  (∀ (fn : Func) (v : Word) (s : State), reaches fn 0x414 s → bits v.toNat 12 4 = 1 → bits v.toNat 16 16 = 0x5AA5 →
    groupPermitted (v.toNat % 256) = true → s.pwr.phase = .run → s.pwr.testing = [] →
    exec (.pwrReqFunctionReinit fn v) s = .next ((let t := funcReinit (v.toNat % 256) s;
    if (t.mir.decided && v.toNat % 256 < 12 && t.mir.role = .standby && t.mir.swo ≠ .newScans) = true then toSyncing 14 t else t))) ∧
  (∀ (fn : Func) (v : Word) (s : State), reaches fn 0x414 s → bits v.toNat 12 4 = 1 → bits v.toNat 16 16 = 0x5AA5 →
    groupPermitted (v.toNat % 256) = false → s.pwr.phase ≠ .halt → exec (.pwrReqFunctionReinit fn v) s = .next (pwrRefuse 2 s)) ∧
  (∀ (fn : Func) (v : Word) (s : State), reaches fn 0x414 s → bits v.toNat 12 4 = 2 → bits v.toNat 16 16 = 0x5AA5 → fn = .f1 → s.pwr.phase ≠ .halt →
    exec (.pwrReqWarmReset fn v) s = .next (stepThree 2 0xFF s)) ∧
  (∀ (fn : Func) (v : Word) (s : State), reaches fn 0x414 s → bits v.toNat 12 4 = 2 → bits v.toNat 16 16 = 0x5AA5 → fn = .f0 →
    exec (.pwrReqWarmReset fn v) s = .next (pwrRefuse 3 s)) ∧
  (∀ (fn : Func) (v : Word) (s : State), reaches fn 0x414 s → bits v.toNat 12 4 = 3 → bits v.toNat 16 16 = 0x5AA5 → fn = .f1 → s.pwr.phase ≠ .halt →
    exec (.pwrReqShutdownOff fn v) s = .next (shutdownAsk false (bitOf v.toNat 8) s)) ∧
  (∀ (fn : Func) (v : Word) (s : State), reaches fn 0x414 s → bits v.toNat 12 4 = 4 → bits v.toNat 16 16 = 0x5AA5 → fn = .f1 → s.pwr.phase ≠ .halt →
    exec (.pwrReqShutdownRestart fn v) s = .next (shutdownAsk true (bitOf v.toNat 8) s)) ∧
  (∀ (fn : Func) (v : Word) (s : State), reaches fn 0x414 s → bits v.toNat 12 4 = 1 → bits v.toNat 16 16 ≠ 0x5AA5 →
    exec (.pwrReqFunctionReinit fn v) s = .next (pwrRefuse 1 s))

/-- R215, R216: digital inputs: an accepted edge, the debounce timer, DEB = 0, the count of rising edges.

Completes (exec answers the next state written, under hypotheses on the state and the operands alone): inputChange, debounceEnd. -/
def Obligations.DigitalInputsTakeEdges : Prop :=
  (∀ (c : Fin 32) (v : Bool) (s : State), fieldOn s = true → dioPresent s c = true → ∃ t, exec (.inputChange c v) s = .next t ∧
    (vget t.dio c).term = v ∧ ((vget s.dio c).cfg.deb = 0 → (vget t.dio c).deb = (v != (vget s.dio c).cfg.inv)) ∧ ((vget s.dio c).cfg.deb ≠ 0 →
    (vget t.dio c).deb = (vget s.dio c).deb ∧ ((vget t.dio c).timer.isSome = ((v != (vget s.dio c).cfg.inv) != (vget s.dio c).deb))) ∧ ∀ d, d ≠ c →
    vget t.dio d = vget s.dio d) ∧
  (∀ (c : Fin 32) (s : State), fieldOn s = true → (vget s.dio c).timer.isSome = true → dioRaw (vget s.dio c) ≠ (vget s.dio c).deb →
    ∃ t, exec (.debounceEnd c) s = .next t ∧
    vget t.dio c = { vget s.dio c with deb := dioRaw (vget s.dio c), timer := none, count := if (vget s.dio c).cfg.cnt && dioRaw (vget s.dio c) then (vget s.dio c).count + 1 else (vget s.dio c).count }
    ∧ ∀ d, d ≠ c → vget t.dio d = vget s.dio d)

/-- R210, R211, R212, R225: digital bank supply: thresholds from the filtered V_bank, conditions entered and left, with their events.

Completes (exec answers the next state written, under hypotheses on the state and the operands alone): thresholdUpdate, supplyConditionEntered,
supplyConditionReleased. -/
def Obligations.DigitalSupplyCommands : Prop :=
  (∀ (b : Fin 4) (v : BankSupply) (s : State), fieldOn s = true → b.val < bankCount s → (vget s.dbank b).low = false →
    ∃ t, exec (.thresholdUpdate b v) s = .next t ∧ (vget t.dbank b).vbank = v.filtered ∧
    (vget t.dbank b).vmin = (if (vget s.dbank b).vKnown then min (vget s.dbank b).vmin (min v.filtered v.lowest) else min v.filtered v.lowest) ∧
    (vget t.dbank b).von = (4583 * max 1400 (min v.filtered 2400) + 5000) / 10000 ∧
    (vget t.dbank b).voff = (2083 * max 1400 (min v.filtered 2400) + 5000) / 10000 ∧ ∀ d, d ≠ b → vget t.dbank d = vget s.dbank d) ∧
  (∀ (b : Fin 4) (v : BankSupply) (s : State), fieldOn s = true → b.val < bankCount s → (vget s.dbank b).low = true →
    ∃ t, exec (.thresholdUpdate b v) s = .next t ∧ (vget t.dbank b).vbank = v.filtered ∧
    (vget t.dbank b).vmin = (if (vget s.dbank b).vKnown then min (vget s.dbank b).vmin (min v.filtered v.lowest) else min v.filtered v.lowest) ∧
    (vget t.dbank b).von = 642 ∧ (vget t.dbank b).voff = 292) ∧
  (∀ (b : Fin 4) (s : State), fieldOn s = true → b.val < bankCount s → (vget s.dbank b).vKnown = true → (vget s.dbank b).warn = false →
    exec (.supplyConditionEntered b .warn) s = .next (bankReport false b (raiseField 0x0301 3 b.val (setBank b (fun k => { k with warn := true })
    s)))) ∧
  (∀ (b : Fin 4) (s : State), fieldOn s = true → b.val < bankCount s → (vget s.dbank b).vKnown = true → (vget s.dbank b).low = false →
    exec (.supplyConditionEntered b .low) s = .next (bankReport false b (raiseField 0x0302 4 b.val (setThresholds b (setBank b (fun k =>
    { k with low := true }) s))))) ∧
  (∀ (b : Fin 4) (s : State), fieldOn s = true → b.val < bankCount s → (vget s.dbank b).vKnown = true → (vget s.dbank b).uvOff = false →
    exec (.supplyConditionEntered b .uvOff) s = .next (bankReport false b (enterLow b (raiseField 0x0303 5 b.val (bankEval b (setBank b (fun k =>
    { k with uvOff := true }) s)))))) ∧
  (∀ (b : Fin 4) (s : State), fieldOn s = true → b.val < bankCount s → (vget s.dbank b).vKnown = true → (vget s.dbank b).high = false →
    exec (.supplyConditionEntered b .high) s = .next (bankReport false b (raiseField 0x030C 4 b.val (setBank b (fun k => { k with high := true })
    s)))) ∧
  (∀ (b : Fin 4) (s : State), fieldOn s = true → b.val < bankCount s → (vget s.dbank b).vKnown = true →
    exec (.supplyConditionEntered b .nosup) s = .next (bankReport false b (enterLow b (enterUv b (setBank b (fun k => { k with nosup := true }) s))))) ∧
  (∀ (b : Fin 4) (s : State), fieldOn s = true → b.val < bankCount s → (vget s.dbank b).vKnown = true →
    exec (.supplyConditionReleased b .warn) s = .next (bankReport false b (setBank b (fun k => { k with warn := false }) s))) ∧
  (∀ (b : Fin 4) (s : State), fieldOn s = true → b.val < bankCount s → (vget s.dbank b).vKnown = true → (vget s.dbank b).low = true →
    exec (.supplyConditionReleased b .low) s = .next (bankReport false b (bankInputs b (setThresholds b (setBank b (fun k =>
    { k with low := false, nosup := false }) s))))) ∧
  (∀ (b : Fin 4) (s : State), fieldOn s = true → b.val < bankCount s → (vget s.dbank b).vKnown = true → (vget s.dbank b).uvOff = true →
    exec (.supplyConditionReleased b .uvOff) s = .next (bankReport false b (raiseField 0x0304 2 b.val (bankEval b (setBank b (fun k =>
    { k with uvOff := false, nosup := false }) s))))) ∧
  (∀ (b : Fin 4) (s : State), fieldOn s = true → b.val < bankCount s → (vget s.dbank b).vKnown = true →
    exec (.supplyConditionReleased b .high) s = .next (bankReport false b (setBank b (fun k => { k with high := false }) s))) ∧
  (∀ (b : Fin 4) (s : State), fieldOn s = true → b.val < bankCount s → (vget s.dbank b).vKnown = true →
    exec (.supplyConditionReleased b .nosup) s = .next (bankReport false b (setBank b (fun k => { k with nosup := false }) s)))

/-- R207, R211: UV_OFF turns off every switch of its bank; the evaluation of a bank gives each switch the state that R207 wants.

Completes (exec answers the next state written, under hypotheses on the state and the operands alone): supplyConditionEntered. -/
def Obligations.DigitalUndervoltageOpensSwitches : Prop :=
  (∀ (b : Fin 4) (s : State), fieldOn s = true → b.val < bankCount s → (vget s.dbank b).vKnown = true → (vget s.dbank b).uvOff = false →
    ∃ t, exec (.supplyConditionEntered b .uvOff) s = .next t ∧ ∀ i, (vget t.dio (dioChOf b i)).sw = false) ∧
  (∀ (b : Fin 4) (i : Fin 8) (s : State), (vget (bankEval b s).dio (dioChOf b i)).sw = dioWanted s (dioChOf b i)) ∧
  (∀ (b : Fin 4) (s : State), fieldOn s = true → b.val < bankCount s → (vget s.dbank b).vKnown = true → (vget s.dbank b).uvOff = false →
    ∃ t, exec (.supplyConditionEntered b .nosup) s = .next t ∧ ∀ i, (vget t.dio (dioChOf b i)).sw = false)

/-- R208, R213, R214, R218, R219, R220, R221: digital protection: bank shedding, thermal shutdown, retry, latch and their release; digital flags: what
sets and clears RB_LOW, EXT_DRIVE, WIRE_BREAK and DISAGREE, with their events.

Completes (exec answers the next state written, under hypotheses on the state and the operands alone): bankShed, rbLow, extDrive, readbackFlagClear,
wireBreak, wireBreakClear, thermalShutdown, thermalRetry, retryCountReset, dioLatWrite, digitalDisagree, extDriveCheckStart. -/
def Obligations.DigitalProtectionCommands : Prop :=
  (∀ (b : Fin 4) (ma : Nat) (c : Fin 32) (s : State), fieldOn s = true → b.val < bankCount s →
    highestOn (setBank b (fun k => { k with ibank := ma, imax := max k.imax ma }) s) b = some c → 3000 < ma →
    exec (.bankShed b ma) s = .next (raiseField 0x030A 5 c.val (dioUpdate c (setDio c (fun x => { x with shed := true }) (setBank b (fun k =>
    { k with ibank := ma, imax := max k.imax ma }) s))))) ∧
  (∀ (c : Fin 32) (s : State), fieldOn s = true → (vget s.dio c).sw = true → (vget s.dio c).retries < 5 → ∃ t, exec (.thermalShutdown c) s = .next t ∧
    (vget t.dio c).sw = false ∧ (vget t.dio c).prot = .retry ∧ t.rcd = (raiseField 0x0305 3 c.val s).rcd) ∧
  (∀ (c : Fin 32) (s : State), fieldOn s = true → (vget s.dio c).sw = true → 5 ≤ (vget s.dio c).retries → ∃ t, exec (.thermalShutdown c) s = .next t ∧
    (vget t.dio c).sw = false ∧ (vget t.dio c).prot = .latched ∧ t.rcd = (raiseField 0x0306 5 c.val s).rcd) ∧
  (∀ (c : Fin 32) (s : State), fieldOn s = true → (vget s.dio c).prot = .retry → ∃ t, exec (.thermalRetry c) s = .next t ∧
    (vget t.dio c).prot = .none ∧ (vget t.dio c).sw = dioWanted (setDio c (fun x => { x with prot := .none, retryDue := true }) s) c) ∧
  (∀ (fn : Func) (b : Fin 4) (v : Word) (s : State), reaches fn (0x2818 + 0x40 * b.val) s →
    exec (.dioLatWrite fn b v) s = .next (foldFin 8 (fun t i => dioRelease (dioChOf b i) (bitOf v.toNat i.val) (bitOf v.toNat (8 + i.val)) t) s)) ∧
  (∀ (c : Fin 32) (s : State), fieldOn s = true → dioOut (vget s.dio c) = true → (vget s.dio c).cmd = true → (vget s.dio c).sw = true →
    (vget s.dio c).rbLow = false → ∃ t, exec (.rbLow c) s = .next t ∧ t.dio = vset s.dio c { vget s.dio c with rbLow := true, limit := false } ∧
    t.rcd = (raiseField 0x0309 5 c.val s).rcd) ∧
  (∀ (c : Fin 32) (s : State), fieldOn s = true → (vget s.dbank (dioBankOf c)).live = true → dioOut (vget s.dio c) = true →
    (vget s.dio c).sw = false → drives s = true → s.mir.extWait = false → (vget s.dio c).ext = false → ∃ t, exec (.extDrive c) s = .next t ∧
    t.dio = vset s.dio c { vget s.dio c with ext := true } ∧ t.rcd = (raiseField 0x0307 4 c.val s).rcd) ∧
  (∀ (c : Fin 32) (s : State), fieldOn s = true → ∃ t, exec (.readbackFlagClear c .rbLow) s = .next t ∧
    t.dio = vset s.dio c { vget s.dio c with rbLow := false }) ∧
  (∀ (c : Fin 32) (s : State), fieldOn s = true → ∃ t, exec (.readbackFlagClear c .extDrive) s = .next t ∧
    t.dio = vset s.dio c { vget s.dio c with ext := false }) ∧
  (∀ (c : Fin 32) (s : State), fieldOn s = true → (vget s.dbank (dioBankOf c)).live = true → (vget s.dio c).cfg.mode = 1 →
    (vget s.dio c).cfg.wb = true → (vget s.dbank (dioBankOf c)).low = false → (vget s.dio c).wbrk = false → ∃ t, exec (.wireBreak c) s = .next t ∧
    t.dio = vset s.dio c { vget s.dio c with wbrk := true } ∧ t.rcd = (raiseField 0x0308 4 c.val s).rcd) ∧
  (∀ (c : Fin 32) (s : State), fieldOn s = true → (vget s.dio c).wbrk = true → (vget s.dbank (dioBankOf c)).low = false →
    ∃ t, exec (.wireBreakClear c) s = .next t ∧ t.dio = vset s.dio c { vget s.dio c with wbrk := false } ∧ t.rcd = s.rcd) ∧
  (∀ (c : Fin 32) (s : State), fieldOn s = true → s.mir.role = .standby → (vget s.dbank (dioBankOf c)).live = true → dioMismatch s c = true →
    (vget s.dio c).disagree = false →
    exec (.digitalDisagree c) s = .next (raiseField 0x030B 3 c.val (setDio c (fun x => { x with disagree := true }) s))) ∧
  (∀ (s : State), exec .extDriveCheckStart s = .next { s with mir := { s.mir with extWait := false } }) ∧
  (∀ (c : Fin 32) (s : State), fieldOn s = true → (vget s.dio c).sw = true →
    exec (.retryCountReset c) s = .next (setDio c (fun x => { x with retries := 0 }) s))

/-- R227, R228, R229, R230, R231, R232, R234, R236, R237, R238, R240: current channels: conversions, delivery of IN_PT, converter loss and recovery,
disagreement, mode change, watchdog; current channels: every flag is set with its event and cleared without one.

Completes (exec answers the next state written, under hypotheses on the state and the operands alone): periodicConversion, inPtDelivery, mismatch,
ne43FlagChange, short, transmitterFlagChange, isoFail, currentDisagree, share, cmodeChangeEnd, fieldSideWatchdog, bankConverterRecovery,
fieldSideRefreshRecovery, activeInTakeoverEnd. -/
def Obligations.CurrentLoopCommands : Prop :=
  (∀ (c : Fin 16) (m : Conversion) (s : State), fieldOn s = true → ((vget s.aio c).live = false ∨ (vget s.aio c).cfg.cmode = .unused) →
    exec (.periodicConversion c m) s = .next (setAio c (fun x => { x with pri := m.pri, sec := m.sec, vt := m.vt, opening := false }) s)) ∧
  (∀ (c : Fin 16) (m : Conversion) (s : State), fieldOn s = true → (vget s.aio c).live = true → (vget s.aio c).cfg.cmode = .active →
    ∃ t, exec (.periodicConversion c m) s = .next t ∧ (vget t.aio c).pri = m.pri ∧ (vget t.aio c).sec = m.sec ∧ (vget t.aio c).vt = m.vt ∧
    (vget t.aio c).fltOn = true ∧ (((vget s.aio c).cfg.filt = 0 ∨ (vget s.aio c).fltOn = false) →
    (vget t.aio c).flt = (aioChar (vget s.aio c).cfg m.pri).toInt) ∧
    min (vget s.aio c).flt (aioChar (vget s.aio c).cfg m.pri).toInt ≤ (vget t.aio c).flt ∧
    (vget t.aio c).flt ≤ max (vget s.aio c).flt (aioChar (vget s.aio c).cfg m.pri).toInt) ∧
  (∀ (c : Fin 16) (m : Conversion) (s : State), fieldOn s = true → (vget s.aio c).live = true → (vget s.aio c).cfg.cmode = .passive →
    let low : Int := Int.fdiv (10 * m.vt - 63000 - (vget s.aio c).cmd) 10;
    let high : Int := -(Int.fdiv (-(10 * m.vt - 63000 - (vget s.aio c).cmd)) 10); ∃ t, exec (.periodicConversion c m) s = .next t ∧
    (vget t.aio c).pri = m.pri ∧ (vget t.aio c).sec = m.sec ∧ (vget t.aio c).vt = m.vt ∧
    (((vget s.aio c).cfg.filt = 0 ∨ (vget s.aio c).fltOn = false) → (vget t.aio c).flt = m.pri) ∧ min (vget s.aio c).flt m.pri ≤ (vget t.aio c).flt ∧
    (vget t.aio c).flt ≤ max (vget s.aio c).flt m.pri ∧ max (-32768) (min 32767 (min (vget s.aio c).margin low)) ≤ (vget t.aio c).margin ∧
    (vget t.aio c).margin ≤ max (-32768) (min 32767 (max (vget s.aio c).margin high)) ∧
    (vget t.aio c).margMin = min (vget s.aio c).margMin (vget t.aio c).margin) ∧
  (∀ (c : Fin 16) (m : Mark) (s : State), aioUsed s (vget s.aio c) = true → (vget s.aio c).cfg.cmode = .active → (vget s.aio c).fltOn = true →
    aioHolds (vget s.aio c) = false → (vget s.aio c).fwdUntil = false →
    exec (.inPtDelivery c m) s = .next (pointWord 21 m (vget s.aio c).cfg.inPt (wordOf (vget s.aio c).flt) s)) ∧
  (∀ (c : Fin 16) (m : Mark) (s : State), aioUsed s (vget s.aio c) = true → (vget s.aio c).cfg.cmode = .active → aioHolds (vget s.aio c) = false →
    (vget s.aio c).fwdUntil = true →
    exec (.inPtDelivery c m) s = .next (pointWord 21 m (vget s.aio c).cfg.inPt (mapGetD 0 s.mir.pts (vget s.aio c).cfg.inPt) s)) ∧
  (∀ (c : Fin 16) (m : Mark) (s : State), aioUsed s (vget s.aio c) = true → (vget s.aio c).cfg.cmode = .active → aioHolds (vget s.aio c) = true →
    exec (.inPtDelivery c m) s = .next s) ∧
  (∀ (c : Fin 16) (m : Mark) (s : State), aioUsed s (vget s.aio c) = true → (vget s.aio c).cfg.cmode = .passive → (vget s.aio c).fltOn = true →
    (vget s.aio c).iso = false → exec (.inPtDelivery c m) s = .next (pointWord 21 m (vget s.aio c).cfg.inPt (wordOf (vget s.aio c).flt) s)) ∧
  (∀ (b : Fin 4) (s : State), fieldOn s = true → (vget s.aio (aioChOf b 0)).iso = false →
    exec (.isoFail b) s = .next (raiseField 0x040A 6 b.val (foldFin 4 (fun t i => modAio (aioChOf b i) (fun a => { a with iso := true }) t) s))) ∧
  (∀ (b : Fin 4) (s : State), fieldOn s = true → (vget s.aio (aioChOf b 0)).iso = true → (∀ i, (vget s.aio (aioChOf b i)).next = none) →
    ∃ t, exec (.bankConverterRecovery b) s = .next t ∧ ∀ i, (vget t.aio (aioChOf b i)).iso = false) ∧
  (∀ (c : Fin 16) (s : State), aioUsed s (vget s.aio c) = true → (vget s.aio c).cfg.cmode = .passive → s.mir.role = .standby →
    48 < (((vget s.aio c).pri : Int) - (vget s.aio c).cmd).natAbs → (vget s.aio c).disagree = false →
    exec (.currentDisagree c) s = .next (raiseField 0x0408 3 c.val (modAio c (fun a => { a with disagree := true }) s))) ∧
  (∀ (c : Fin 16) (s : State), aioUsed s (vget s.aio c) = true → (vget s.aio c).cfg.cmode = .active → s.mir.role = .standby →
    500 < (vget s.aio c).pri → (vget s.aio c).share = false →
    exec (.share c) s = .next (raiseField 0x0409 3 c.val (modAio c (fun a => { a with share := true }) s))) ∧
  (∀ (s : State), exec .activeInTakeoverEnd s = .next { s with aio := s.aio.map fun (a : Aio) => { a with fwdUntil := false } }) ∧
  (∀ (c : Fin 16) (g : AioCfg) (s : State), fieldOn s = true → (vget s.aio c).next = some g → (vget s.aio c).changing = true →
    (vget s.aio c).nextIso = false → ∃ t, exec (.cmodeChangeEnd c) s = .next t ∧ (vget t.aio c).cfg = g ∧ (vget t.aio c).changing = false ∧
    (vget t.aio c).next = none ∧ (vget t.aio c).cmd = (if g.cmode = .passive then 3600 else 0)) ∧
  (∀ (b : Fin 4) (s : State), b.val < bankCount s →
    exec (.fieldSideWatchdog true b) s = .next (raiseOrLate 0x0A06 6 21 (bankEval b (setBank b (fun k => { k with wdog := true }) s)))) ∧
  (∀ (b : Fin 4) (s : State), exec (.fieldSideWatchdog false b) s = .next (raiseOrLate 0x0A06 6 21 (foldFin 4 (fun t i => modAio (aioChOf b i) (fun a
    => { a with wdog := true, bypass := a.bypass || (paired s && a.live && a.cfg.cmode = .passive) }) t) s))) ∧
  (∀ (b : Fin 4) (s : State), fieldOn s = true → (vget s.dbank b).wdog = true →
    exec (.fieldSideRefreshRecovery true b) s = .next (bankEval b (setBank b (fun k => { k with wdog := false }) s))) ∧
  (∀ (b : Fin 4) (s : State), fieldOn s = true →
    exec (.fieldSideRefreshRecovery false b) s = .next (foldFin 4 (fun t i => when (vget t.aio (aioChOf b i)).wdog (fun t => when ((vget t.aio
    (aioChOf b i)).live && (vget t.aio (aioChOf b i)).cfg.cmode = .passive && !paired s) (raiseField 0x0407 6 (aioChOf b i).val) (modAio (aioChOf b i)
    (fun a => { a with wdog := false, bypass := a.cfg.cmode = .passive && !drives s }) t)) t) s)) ∧
  (∀ (c : Fin 16) (s : State), aioUsed s (vget s.aio c) = true → (vget s.aio c).cfg.cmode = .active → (vget s.aio c).mism = false →
    exec (.mismatch c true) s = .next (raiseField 0x0404 5 c.val (modAio c (fun a => { a with mism := true }) s))) ∧
  (∀ (c : Fin 16) (s : State), aioUsed s (vget s.aio c) = true → (vget s.aio c).cfg.cmode = .active → (vget s.aio c).mism = true →
    exec (.mismatch c false) s = .next (modAio c (fun a => { a with mism := false }) s)) ∧
  (∀ (c : Fin 16) (s : State), aioUsed s (vget s.aio c) = true → (vget s.aio c).cfg.cmode = .passive → (vget s.aio c).mism = false →
    exec (.mismatch c true) s = .next (raiseField 0x0404 5 c.val (modAio c (fun a => { a with mism := true }) s))) ∧
  (∀ (c : Fin 16) (s : State), aioUsed s (vget s.aio c) = true → (vget s.aio c).cfg.cmode = .passive → (vget s.aio c).mism = true →
    exec (.mismatch c false) s = .next (modAio c (fun a => { a with mism := false }) s)) ∧
  (∀ (c : Fin 16) (s : State), aioUsed s (vget s.aio c) = true → (vget s.aio c).cfg.cmode = .active → (vget s.aio c).cfg.ne43 = true →
    (vget s.aio c).underI = false → exec (.ne43FlagChange c .under true) s = .next (modAio c (fun a => { a with underI := true }) s)) ∧
  (∀ (c : Fin 16) (s : State), aioUsed s (vget s.aio c) = true → (vget s.aio c).cfg.cmode = .active → (vget s.aio c).cfg.ne43 = true →
    (vget s.aio c).underI = true → exec (.ne43FlagChange c .under false) s = .next (modAio c (fun a => { a with underI := false }) s)) ∧
  (∀ (c : Fin 16) (s : State), aioUsed s (vget s.aio c) = true → (vget s.aio c).cfg.cmode = .active → (vget s.aio c).cfg.ne43 = true →
    (vget s.aio c).overI = false → exec (.ne43FlagChange c .over true) s = .next (modAio c (fun a => { a with overI := true }) s)) ∧
  (∀ (c : Fin 16) (s : State), aioUsed s (vget s.aio c) = true → (vget s.aio c).cfg.cmode = .active → (vget s.aio c).cfg.ne43 = true →
    (vget s.aio c).overI = true → exec (.ne43FlagChange c .over false) s = .next (modAio c (fun a => { a with overI := false }) s)) ∧
  (∀ (c : Fin 16) (s : State), aioUsed s (vget s.aio c) = true → (vget s.aio c).cfg.cmode = .active → (vget s.aio c).cfg.ne43 = true →
    (vget s.aio c).failLo = false →
    exec (.ne43FlagChange c .failLo true) s = .next (raiseField 0x0406 4 c.val (modAio c (fun a => { a with failLo := true }) s))) ∧
  (∀ (c : Fin 16) (s : State), aioUsed s (vget s.aio c) = true → (vget s.aio c).cfg.cmode = .active → (vget s.aio c).cfg.ne43 = true →
    (vget s.aio c).failLo = true → exec (.ne43FlagChange c .failLo false) s = .next (modAio c (fun a => { a with failLo := false }) s)) ∧
  (∀ (c : Fin 16) (s : State), aioUsed s (vget s.aio c) = true → (vget s.aio c).cfg.cmode = .active → (vget s.aio c).cfg.ne43 = true →
    (vget s.aio c).failHi = false →
    exec (.ne43FlagChange c .failHi true) s = .next (raiseField 0x0406 4 c.val (modAio c (fun a => { a with failHi := true }) s))) ∧
  (∀ (c : Fin 16) (s : State), aioUsed s (vget s.aio c) = true → (vget s.aio c).cfg.cmode = .active → (vget s.aio c).cfg.ne43 = true →
    (vget s.aio c).failHi = true → exec (.ne43FlagChange c .failHi false) s = .next (modAio c (fun a => { a with failHi := false }) s)) ∧
  (∀ (c : Fin 16) (s : State), aioUsed s (vget s.aio c) = true → (vget s.aio c).cfg.cmode = .active → (vget s.aio c).short = false →
    exec (.short c true) s = .next (raiseField 0x0405 4 c.val (modAio c (fun a => { a with short := true }) s))) ∧
  (∀ (c : Fin 16) (s : State), aioUsed s (vget s.aio c) = true → (vget s.aio c).cfg.cmode = .active → (vget s.aio c).short = true →
    exec (.short c false) s = .next (modAio c (fun a => { a with short := false }) s)) ∧
  (∀ (c : Fin 16) (s : State), aioUsed s (vget s.aio c) = true → (vget s.aio c).cfg.cmode = .passive → (vget s.aio c).open_ = false →
    (vget s.aio c).compl = false →
    exec (.transmitterFlagChange c .compliance true) s = .next (raiseField 0x0402 4 c.val (modAio c (fun a => { a with compl := true }) s))) ∧
  (∀ (c : Fin 16) (s : State), aioUsed s (vget s.aio c) = true → (vget s.aio c).cfg.cmode = .passive → (vget s.aio c).open_ = false →
    (vget s.aio c).compl = true → exec (.transmitterFlagChange c .compliance false) s = .next (modAio c (fun a => { a with compl := false }) s)) ∧
  (∀ (c : Fin 16) (s : State), aioUsed s (vget s.aio c) = true → (vget s.aio c).cfg.cmode = .passive → (vget s.aio c).open_ = false →
    exec (.transmitterFlagChange c .openLoop true) s = .next (raiseField 0x0401 5 c.val (modAio c (fun a => { a with open_ := true, compl := false })
    s))) ∧
  (∀ (c : Fin 16) (s : State), aioUsed s (vget s.aio c) = true → (vget s.aio c).cfg.cmode = .passive → (vget s.aio c).open_ = true →
    exec (.transmitterFlagChange c .openLoop false) s = .next (modAio c (fun a => { a with open_ := false }) s)) ∧
  (∀ (c : Fin 16) (s : State), aioUsed s (vget s.aio c) = true → (vget s.aio c).cfg.cmode = .passive → (vget s.aio c).margLow = false →
    exec (.transmitterFlagChange c .margLow true) s = .next (raiseField 0x0403 3 c.val (modAio c (fun a => { a with margLow := true }) s))) ∧
  (∀ (c : Fin 16) (s : State), aioUsed s (vget s.aio c) = true → (vget s.aio c).cfg.cmode = .passive → (vget s.aio c).margLow = true →
    exec (.transmitterFlagChange c .margLow false) s = .next (modAio c (fun a => { a with margLow := false }) s))

/-- R241, R242, R243, R244, R245, R251: encoder ports: loss, quadrature error, index mark, SSI frames, deliveries, and the release of QERR.

Completes (exec answers the next state written, under hypotheses on the state and the operands alone): encoderLoss, encoderLossEnd, qerr, indexMark,
velocityTimeout, ssiFrameStart, ssiFrameEnd, encoderDelivery, encQerrClear. -/
def Obligations.EncoderCommands : Prop :=
  (∀ (p : Fin 4) (s : State), encOn s = true → (vget s.enc p).live = true → (vget s.enc p).cfg.emode ≠ .unused → (vget s.enc p).loss = false →
    exec (.encoderLoss p) s = .next (raiseField 0x0413 5 p.val (modEnc p (fun x => { x with loss := true }) s))) ∧
  (∀ (p : Fin 4) (s : State), encOn s = true → exec (.encoderLossEnd p) s = .next (modEnc p (fun x => { x with loss := false }) s)) ∧
  (∀ (p : Fin 4) (s : State), encRuns s p .inc = true → ∃ t, exec (.qerr p) s = .next t ∧ (vget t.enc p).qerr = true ∧
    (vget t.enc p).qerrN = holdInc 0xFFFF (vget s.enc p).qerrN ∧ (vget t.enc p).cfg = (vget s.enc p).cfg) ∧
  (∀ (p : Fin 4) (ls : List EncLine) (s : State), encRuns s p .inc = true → (vget s.enc p).cfg.zEn = true →
    ((vget (encLines p ls s).enc p).cfg.refMode = 2 ∨ ((vget (encLines p ls s).enc p).cfg.refMode = 1 ∧
    (vget (encLines p ls s).enc p).indexed = false)) → ∃ t, exec (.indexMark p ls) s = .next t ∧
    (vget t.enc p).ref = (vget (encLines p ls s).enc p).pos ∧ (vget t.enc p).pos = wordOf (vget (encLines p ls s).enc p).cfg.refVal ∧
    (vget t.enc p).refd = true ∧ (vget t.enc p).qerr = false) ∧
  (∀ (p : Fin 4) (ls : List EncLine) (s : State), encRuns s p .inc = true → (vget s.enc p).cfg.zEn = true →
    ¬ ((vget (encLines p ls s).enc p).cfg.refMode = 2 ∨ ((vget (encLines p ls s).enc p).cfg.refMode = 1 ∧
    (vget (encLines p ls s).enc p).indexed = false)) → ∃ t, exec (.indexMark p ls) s = .next t ∧
    (vget t.enc p).ref = (vget (encLines p ls s).enc p).pos ∧ (vget t.enc p).pos = (vget (encLines p ls s).enc p).pos ∧
    (vget t.enc p).refd = (vget (encLines p ls s).enc p).refd ∧ (vget t.enc p).qerr = (vget (encLines p ls s).enc p).qerr) ∧
  (∀ (p : Fin 4) (s : State), encRuns s p .inc = true →
    exec (.velocityTimeout p) s = .next (setEnc p (fun x => { x with vel := 0, still := true }) s)) ∧
  (∀ (p : Fin 4) (s : State), encRuns s p .ssi = true → ∃ t, exec (.ssiFrameStart p) s = .next t ∧ (vget t.enc p).running = true ∧
    (vget t.enc p).pos = (vget s.enc p).pos) ∧
  (∀ (p : Fin 4) (f : SsiFrame) (s : State), encRuns s p .ssi = true → (vget s.enc p).running = true → ssiGood (vget s.enc p).cfg f = true →
    ∃ t, exec (.ssiFrameEnd p f) s = .next t ∧ (vget t.enc p).pos = BitVec.ofNat 32 (ssiValue (vget s.enc p).cfg f) ∧ (vget t.enc p).ssiErr = false ∧
    (vget t.enc p).running = false ∧ t.rcd = s.rcd) ∧
  (∀ (p : Fin 4) (f : SsiFrame) (s : State), encRuns s p .ssi = true → (vget s.enc p).running = true → ssiGood (vget s.enc p).cfg f = false →
    exec (.ssiFrameEnd p f) s = .next (raiseField 0x0412 3 p.val (modEnc p (fun x =>
    { x with running := false, clk := false, ssiErr := true, frameN := holdInc 0xFFFF x.frameN }) s))) ∧
  (∀ (p : Fin 4) (ls : List EncLine) (w : Int) (ns : Nat) (s : State), encRuns s p .inc = true → ∃ t, exec (.encoderDelivery p ls w ns) s = .next t ∧
    (vget t.enc p).pos = (vget (encLines p ls s).enc p).pos ∧
    (vget t.enc p).vel = (if (vget (encLines p ls s).enc p).still then 0 else velocityOf (encDir (vget (encLines p ls s).enc p).cfg w) ns)) ∧
  (∀ (p : Fin 4) (l : EncLine) (w : Int) (ns : Nat) (s : State), encRuns s p .inc = true → (vget s.enc p).levels = none →
    ∃ t, exec (.encoderDelivery p [l] w ns) s = .next t ∧ (vget t.enc p).levels = some (l.a, l.b) ∧ (vget t.enc p).pos = (vget s.enc p).pos) ∧
  (∀ (p : Fin 4) (l : EncLine) (a b : Bool) (w : Int) (ns : Nat) (s : State), encRuns s p .inc = true → (vget s.enc p).levels = some (a, b) →
    l.a ≠ a → l.b = b → 0 < l.cycles → (vget s.enc p).heldA ≤ (vget s.enc p).cfg.filt →
    (vget s.enc p).cfg.filt + 1 ≤ (vget s.enc p).heldA + l.cycles → ∃ t, exec (.encoderDelivery p [l] w ns) s = .next t ∧
    (vget t.enc p).levels = some (l.a, b) ∧ (vget t.enc p).pos = (vget s.enc p).pos + wordOf (encDir (vget s.enc p).cfg (if l.a = b then -1 else 1))) ∧
  (∀ (p : Fin 4) (l : EncLine) (a b : Bool) (w : Int) (ns : Nat) (s : State), encRuns s p .inc = true → (vget s.enc p).levels = some (a, b) →
    l.a = a → l.b ≠ b → 0 < l.cycles → (vget s.enc p).heldB ≤ (vget s.enc p).cfg.filt →
    (vget s.enc p).cfg.filt + 1 ≤ (vget s.enc p).heldB + l.cycles → ∃ t, exec (.encoderDelivery p [l] w ns) s = .next t ∧
    (vget t.enc p).levels = some (a, l.b) ∧ (vget t.enc p).pos = (vget s.enc p).pos + wordOf (encDir (vget s.enc p).cfg (if a = l.b then 1 else -1))) ∧
  (∀ (p : Fin 4) (l : EncLine) (a b : Bool) (w : Int) (ns : Nat) (s : State), encRuns s p .inc = true → (vget s.enc p).levels = some (a, b) →
    l.a ≠ a → l.b = b → 0 < l.cycles → (vget s.enc p).heldA + l.cycles ≤ (vget s.enc p).cfg.filt →
    ∃ t, exec (.encoderDelivery p [l] w ns) s = .next t ∧ (vget t.enc p).levels = some (a, b) ∧ (vget t.enc p).pos = (vget s.enc p).pos ∧
    (vget t.enc p).heldA = (vget s.enc p).heldA + l.cycles) ∧
  (∀ (p : Fin 4) (l : EncLine) (a b : Bool) (w : Int) (ns : Nat) (s : State), encRuns s p .inc = true → (vget s.enc p).levels = some (a, b) →
    l.a ≠ a → l.b ≠ b → 0 < l.cycles → (vget s.enc p).heldA = (vget s.enc p).heldB → (vget s.enc p).cfg.filt + 1 ≤ (vget s.enc p).heldA + l.cycles →
    ∃ t, exec (.encoderDelivery p [l] w ns) s = .next t ∧ (vget t.enc p).levels = some (l.a, l.b) ∧ (vget t.enc p).qerr = true ∧
    (vget t.enc p).qerrN = holdInc 0xFFFF (vget s.enc p).qerrN) ∧
  (∀ (p : Fin 4) (ls : List EncLine) (w : Int) (ns : Nat) (s : State), encRuns s p .ssi = true → ∃ t, exec (.encoderDelivery p ls w ns) s = .next t ∧
    t.enc = s.enc) ∧
  (∀ (fn : Func) (p : Fin 4) (v : Word) (s : State), reaches fn (0x3400 + 0x20 * p.val) s → v.getLsbD 6 = true →
    exec (.encQerrClear fn p v) s = .next (modEnc p (fun x => { x with qerr := false }) s))

/-- R231, R233, R245: the square root of the characteristic, Gray code and the clamp of a transmitter, over all operands. -/
def Obligations.FieldValueArithmetic : Prop :=
  (∀ (n : Nat), n < 2 ^ 128 → isqrt n * isqrt n ≤ n ∧ n < (isqrt n + 1) * (isqrt n + 1)) ∧
  (∀ (n v : Nat), v < 2 ^ n → grayToBin n (v ^^^ (v / 2)) 0 = v) ∧
  (∀ (g : AioCfg) (x : Int), g.ne43 = true → 3800 ≤ aioClamp g x ∧ aioClamp g x ≤ 20500 ∧ (3800 ≤ x → x ≤ 20500 → (aioClamp g x : Int) = x)) ∧
  (∀ (g : AioCfg) (x : Int), g.ne43 = false → 3600 ≤ aioClamp g x ∧ aioClamp g x ≤ 21500 ∧ (3600 ≤ x → x ≤ 21500 → (aioClamp g x : Int) = x))

/-- R252, R256, R257, R258, R259, R260, R264, R267, R268, R269, R270, R271, R272, R273, R274, R278, R457: CAN channels: attempts, frames received, filter
timeouts, error counting and LONELY; CAN channels: integration, sleep, wake, bus-off recovery, timeouts, watchdog.

Completes (exec answers the next state written, under hypotheses on the state and the operands alone): canIntegration, canFrameReceived,
filterTimeout, canAttemptStart, canAttemptEnd, busOffRecoveryEnd, lonely, canSleepReached, busWake, canWakeEnd, canStateTimeout,
canTransceiverWatchdog, canReceiveError. -/
def Obligations.CanTrafficCommands : Prop :=
  (∀ (c : Fin 8) (s : State), canMayStart s c = true →
    exec (.canAttemptStart c) s = .next (setCan c (fun x => { x with onBus := true, txStamp := stampCan s }) s)) ∧
  (∀ (c : Fin 8) (f : CanFrame) (r : List CanFrame) (v : Nat) (s : State), canOn s = true → (vget s.can c).tx = f :: r → (vget s.can c).onBus = true →
    canMeasures (vget s.can c).cfg f = false →
    exec (.canAttemptEnd c (.sent v)) s = .next (canListenDue c (canTakeTiming c (canEndCancel c false (canSent c f (drawn (setCan c (fun x =>
    { x with onBus := false }) s))))))) ∧
  (∀ (c : Fin 8) (f : CanFrame) (r : List CanFrame) (v : Nat) (s : State), canOn s = true → (vget s.can c).tx = f :: r → (vget s.can c).onBus = true →
    canMeasures (vget s.can c).cfg f = true → v ≤ 127 →
    exec (.canAttemptEnd c (.sent v)) s = .next (canListenDue c (canTakeTiming c (canEndCancel c false (canSent c f (setCan c (fun x =>
    { x with tdcv := v }) (drawn (setCan c (fun x => { x with onBus := false }) s)))))))) ∧
  (∀ (c : Fin 8) (f : CanFrame) (r : List CanFrame) (v : Nat) (s : State), canOn s = true → (vget s.can c).tx = f :: r → (vget s.can c).onBus = true →
    canMeasures (vget s.can c).cfg f = true → 127 < v → ∃ l : Fin 7, (l = 4 ∨ l = 5) ∧
    exec (.canAttemptEnd c (.sent v)) s = .next (canListenDue c (canTakeTiming c (canEndCancel c true (canTxError c l.val false false 0 (setCan c (fun
    x => { x with tdcv := min v 255 }) (drawn (setCan c (fun x => { x with onBus := false }) s)))))))) ∧
  (∀ (c : Fin 8) (f : CanFrame) (r : List CanFrame) (s : State), canOn s = true → (vget s.can c).tx = f :: r → (vget s.can c).onBus = true →
    exec (.canAttemptEnd c .lost) s = .next (canListenDue c (canTakeTiming c (canEndCancel c true (drawn (setCan c (fun x =>
    { x with onBus := false }) s)))))) ∧
  (∀ (c : Fin 8) (f : CanFrame) (r : List CanFrame) (l : Fin 7) (d a : Bool) (v : Option Nat) (m : Fin 33) (s : State), canOn s = true →
    (vget s.can c).tx = f :: r → (vget s.can c).onBus = true → (canMeasures (vget s.can c).cfg f = false ∨ v = none) →
    exec (.canAttemptEnd c (.error l d a v m)) s = .next (canListenDue c (canTakeTiming c (canEndCancel c true (canTxError c l.val d a m.val (drawn
    (setCan c (fun x => { x with onBus := false }) s))))))) ∧
  (∀ (c : Fin 8) (f : CanFrame) (r : List CanFrame) (l : Fin 7) (d a : Bool) (v : Nat) (m : Fin 33) (s : State), canOn s = true →
    (vget s.can c).tx = f :: r → (vget s.can c).onBus = true → canMeasures (vget s.can c).cfg f = true → v ≤ 127 →
    exec (.canAttemptEnd c (.error l d a (some v) m)) s = .next (canListenDue c (canTakeTiming c (canEndCancel c true (canTxError c l.val d a m.val
    (setCan c (fun x => { x with tdcv := v }) (drawn (setCan c (fun x => { x with onBus := false }) s)))))))) ∧
  (∀ (c : Fin 8) (f : CanFrame) (r : List CanFrame) (l : Fin 7) (d a : Bool) (v : Nat) (m : Fin 33) (s : State), canOn s = true →
    (vget s.can c).tx = f :: r → (vget s.can c).onBus = true → canMeasures (vget s.can c).cfg f = true → 127 < v → ∃ k : Fin 7, (k = 4 ∨ k = 5) ∧
    exec (.canAttemptEnd c (.error l d a (some v) m)) s = .next (canListenDue c (canTakeTiming c (canEndCancel c true (canTxError c k.val d false
    m.val (setCan c (fun x => { x with tdcv := min v 255 }) (drawn (setCan c (fun x => { x with onBus := false }) s)))))))) ∧
  (∀ (c : Fin 8) (f : CanIn) (s : State), canOn s = true → canOnBus (vget s.can c) = true → ((vget s.can c).cfg.fdEn || !f.frame.fdf) = true →
    exec (.canFrameReceived c f) s = .next (canReceive c f false (canPassive c (setCan c (fun x =>
    { x with rec_ := recAfterGood s (vget s.can c).rec_ }) (drawn s))))) ∧
  (∀ (c : Fin 8) (f : CanIn) (s : State), canOn s = true → canOnBus (vget s.can c) = true → (vget s.can c).cfg.fdEn = false → f.frame.fdf = true →
    exec (.canFrameReceived c f) s = .next (canPassive c (setCan c (fun x => { x with lec := 2, rec_ := holdAdd 255 x.rec_ 1 }) s))) ∧
  (∀ (c : Fin 8) (e : Fin 256) (x : CanFilt) (s : State), canOn s = true → (vget s.can c).filt[e.val]? = some x → x.tmo ≠ 0 → x.timed = false →
    exec (.filterTimeout c e) s = .next (raiseCan 0x0508 3 (c.val * 256 + e.val : Nat) (pointUpdate x.vpt 0 (setFilt c e.val { x with timed := true }
    s)))) ∧
  (∀ (c : Fin 8) (s : State), canOn s = true → (vget s.can c).live = true → 64 ≤ (vget s.can c).ackRun → (vget s.can c).lonely = false →
    exec (.lonely c) s = .next (raiseCan 0x0504 4 c.val (modCan c (fun x => { x with lonely := true }) s))) ∧
  (∀ (c : Fin 8) (l : Fin 7) (i : Fin 9) (s : State), canOn s = true → canOnBus (vget s.can c) = true →
    exec (.canReceiveError c l i) s = .next (canPassive c (setCan c (fun x => { x with lec := l.val, rec_ := holdAdd 255 x.rec_ i.val }) s))) ∧
  (∀ (c : Fin 8) (s : State), canOn s = true → (vget s.can c).live = true → ((vget s.can c).integ || (vget s.can c).leaving) = true →
    (vget s.can c).st ≠ .wake → drives s = false →
    exec (.canIntegration c) s = .next (canEnter c .listen (setCan c (fun x => { x with integ := false, leaving := false }) s))) ∧
  (∀ (c : Fin 8) (s : State), canOn s = true → (vget s.can c).live = true → ((vget s.can c).integ || (vget s.can c).leaving) = true →
    (vget s.can c).st ≠ .wake → drives s = true → (vget s.can c).integTo ≠ .sleep →
    exec (.canIntegration c) s = .next (canReached c (canEnter c (vget s.can c).integTo (setCan c (fun x =>
    { x with integ := false, leaving := false }) s)))) ∧
  (∀ (c : Fin 8) (s : State), canOn s = true → (vget s.can c).live = true → ((vget s.can c).integ || (vget s.can c).leaving) = true →
    (vget s.can c).st ≠ .wake → drives s = true → (vget s.can c).integTo = .sleep →
    exec (.canIntegration c) s = .next (modCan c (fun x => { x with st := .sleepEntry, prev := .startup }) (setCan c (fun x =>
    { x with integ := false, leaving := false }) s))) ∧
  (∀ (c : Fin 8) (s : State), canOn s = true → (vget s.can c).st = .sleepEntry → (vget s.can c).onBus = false → (vget s.can c).wakeDue = false →
    exec (.canSleepReached c) s = .next (canRunHeld c (setCan c (fun x => { x with wakeDue := false }) (canReached c (modCan c (fun x =>
    { x with st := .sleep }) s))))) ∧
  (∀ (c : Fin 8) (s : State), canOn s = true → (vget s.can c).st = .sleepEntry → (vget s.can c).onBus = false → (vget s.can c).wakeDue = true →
    (vget s.can c).held = none →
    exec (.canSleepReached c) s = .next (canWake c (vget s.can c).prev (canReached c (modCan c (fun x => { x with st := .sleep }) s)))) ∧
  (∀ (c : Fin 8) (to_ : CanSt) (s : State), (vget (canWake c to_ s).can c).st = .wake ∧ (vget (canWake c to_ s).can c).integ = true ∧
    (vget (canWake c to_ s).can c).integTo = to_) ∧
  (∀ (c : Fin 8) (s : State), canOn s = true → (vget s.can c).live = true → (vget s.can c).cfg.wakeSel = false → (vget s.can c).st = .sleep →
    exec (.busWake c none) s = .next (raiseCan 0x0507 2 c.val (canWake c (vget s.can c).prev s))) ∧
  (∀ (c : Fin 8) (f : CanIn) (s : State), canOn s = true → (vget s.can c).live = true → (vget s.can c).cfg.wakeSel = true →
    canWakeFrame (vget s.can c).cfg f = true → (vget s.can c).st = .sleep →
    exec (.busWake c (some f)) s = .next (canReceive c f true (raiseCan 0x0507 2 c.val (canWake c (vget s.can c).prev s)))) ∧
  (∀ (c : Fin 8) (f : CanIn) (s : State), canOn s = true → (vget s.can c).live = true → (vget s.can c).cfg.wakeSel = false →
    (vget s.can c).st = .sleep → exec (.busWake c (some f)) s = .next (raiseCan 0x0507 2 c.val (canWake c (vget s.can c).prev s))) ∧
  (∀ (c : Fin 8) (s : State), canOn s = true → (vget s.can c).live = true → (vget s.can c).cfg.wakeSel = false → (vget s.can c).st = .sleepEntry →
    exec (.busWake c none) s = .next (raiseCan 0x0507 2 c.val (setCan c (fun x => { x with wakeDue := true }) s))) ∧
  (∀ (c : Fin 8) (s : State), canOn s = true → (vget s.can c).st = .wake →
    exec (.canWakeEnd c) s = .next (canRunHeld c (canAwake c (setCan c (fun x => { x with integ := false }) s)))) ∧
  (∀ (c : Fin 8) (s : State), ((vget s.can c).busOff = false ∨ (vget s.can c).integTo = .listen) →
    canAwake c s = canReached c (canEnter c (vget s.can c).integTo s)) ∧
  (∀ (c : Fin 8) (s : State), (vget s.can c).busOff = true → (vget s.can c).integTo ≠ .listen → (vget s.can c).req = none →
    canAwake c s = canReached c (canEnter c .recovery (setCan c (fun x => { x with recov := x.recov || x.cfg.boAuto }) s))) ∧
  (∀ (c : Fin 8) (r : CanReq) (s : State), canOn s = true → (vget s.can c).busOff = true → (vget s.can c).recov = true → (vget s.can c).req = some r →
    (vget s.can c).st ≠ .sleepEntry → (vget s.can c).st ≠ .sleep → (vget s.can c).st ≠ .wake →
    exec (.busOffRecoveryEnd c) s = .next (raiseCan 0x0503 2 c.val (canReached c (canEnter c r.want (setCan c (fun x =>
    { x with busOff := false, recov := false, tec := 0, rec_ := 0, passive := false }) s))))) ∧
  (∀ (c : Fin 8) (s : State), canOn s = true → (vget s.can c).busOff = true → (vget s.can c).recov = true → (vget s.can c).req = none →
    (vget s.can c).st ≠ .sleepEntry → (vget s.can c).st ≠ .sleep → (vget s.can c).st ≠ .wake →
    exec (.busOffRecoveryEnd c) s = .next (raiseCan 0x0503 2 c.val (canReached c (canEnter c (vget s.can c).prev (setCan c (fun x =>
    { x with busOff := false, recov := false, tec := 0, rec_ := 0, passive := false }) s))))) ∧
  (∀ (c : Fin 8) (s : State), canOn s = true → (vget s.can c).busOff = true → (vget s.can c).recov = true → (vget s.can c).st = .sleepEntry →
    exec (.busOffRecoveryEnd c) s = .next (raiseCan 0x0503 2 c.val (modCan c (fun x =>
    { x with busOff := false, recov := false, tec := 0, rec_ := 0, passive := false }) s))) ∧
  (∀ (c : Fin 8) (r : CanReq) (s : State), (vget s.can c).req = some r → r.no.isSome = true →
    exec (.canStateTimeout c) s = .next (completeOpt r.no stTimeout (canStCode (vget s.can c).st) (setCan c (fun x =>
    { x with req := some { r with no := none } }) s))) ∧
  (∀ (c : Fin 8) (r : CanReq) (s : State), (vget s.can c).req = none → (vget s.can c).held = some r →
    exec (.canStateTimeout c) s = .next (completeOpt r.no stTimeout (canStCode (vget s.can c).st) (setCan c (fun x =>
    { x with held := some { r with no := none } }) s))) ∧
  (∀ (c : Fin 8) (r q : CanReq) (s : State), (vget s.can c).req = some q → q.no = none → (vget s.can c).held = some r →
    exec (.canStateTimeout c) s = .next (completeOpt r.no stTimeout (canStCode (vget s.can c).st) (setCan c (fun x =>
    { x with held := some { r with no := none } }) s))) ∧
  (∀ (c : Fin 8) (s : State), canOn s = false →
    exec (.canTransceiverWatchdog c) s = .next (raiseOrLate 0x0A06 6 18 (canTakeTiming c (setCan c (fun x =>
    { x with onBus := false, integ := x.live, integTo := x.recorded }) s))))

/-- R267, R269, R270: A CAN frame sent without error: the queue, the bus, the counters and LONELY. -/
def Obligations.CanFrameSentLeavesQueue : Prop :=
  ∀ (c : Fin 8) (f : CanFrame) (r : List CanFrame) (s : State), (vget s.can c).tx = f :: r → (vget s.can c).st ≠ .test →
    (vget (canSent c f s).can c).tx = r ∧ (vget (canSent c f s).can c).txN = holdInc 0xFFFFFFFF (vget s.can c).txN ∧
    (vget (canSent c f s).can c).tec = (vget s.can c).tec - 1 ∧ (vget (canSent c f s).can c).ackRun = 0 ∧
    (vget (canSent c f s).can c).lonely = false ∧ Output.canFrame c f ∈ (canSent c f s).out

/-- R269, R270: CAN transmit errors: TEC rises by 8 and 8 per further increment, bus-off above 255, and an error-passive channel alone on its bus keeps its TEC. -/
def Obligations.CanTransmitErrorCounts : Prop :=
  (∀ (c : Fin 8) (l : Nat) (d a : Bool) (m : Nat) (s : State), ¬ ((vget s.can c).passive = true ∧ l = 3 ∧ d = false) → ¬ (l = 1 ∧ a = true) →
    (vget s.can c).tec + 8 + 8 * m ≤ 255 → (vget (canTxError c l d a m s).can c).tec = (vget s.can c).tec + 8 + 8 * m ∧
    (vget (canTxError c l d a m s).can c).lec = l ∧ (vget (canTxError c l d a m s).can c).busOff = (vget s.can c).busOff ∧
    (vget (canTxError c l d a m s).can c).tx = (vget s.can c).tx) ∧
  (∀ (c : Fin 8) (l : Nat) (d a : Bool) (m : Nat) (s : State), ¬ ((vget s.can c).passive = true ∧ l = 3 ∧ d = false) → ¬ (l = 1 ∧ a = true) →
    255 < (vget s.can c).tec + 8 + 8 * m → (vget (canTxError c l d a m s).can c).busOff = true ∧
    (vget (canTxError c l d a m s).can c).st = (if (vget s.can c).st = .sleepEntry then .sleepEntry else .recovery) ∧
    (vget (canTxError c l d a m s).can c).tx = (vget s.can c).tx ∧ (vget (canTxError c l d a m s).can c).recov = (vget s.can c).cfg.boAuto) ∧
  (∀ (c : Fin 8) (d : Bool) (s : State), (vget s.can c).tec ≤ 255 → (vget (canTxError c 1 d true 0 s).can c).tec = (vget s.can c).tec ∧
    (vget (canTxError c 1 d true 0 s).can c).busOff = (vget s.can c).busOff) ∧
  (∀ (c : Fin 8) (s : State), (vget s.can c).passive = true → (vget s.can c).tec ≤ 255 →
    (vget (canTxError c 3 false false 0 s).can c).tec = (vget s.can c).tec ∧
    (vget (canTxError c 3 false false 0 s).can c).busOff = (vget s.can c).busOff ∧
    (vget (canTxError c 3 false false 0 s).can c).ackRun = holdInc 0xFFFF (vget s.can c).ackRun)

/-- R76, R84, R112: loom bit logic: LD to XORN, NOT, SET1 and SET0.

Completes (exec answers the next state written, under hypotheses on the state and the operands alone): loomLd, loomLdn, loomAnd, loomAndn, loomOr,
loomOrn, loomXor, loomXorn, loomNot, loomSet1, loomSet0. -/
def Obligations.LoomBitLogic : Prop :=
  (∀ (n : Fin 8) (o : BitOp) (s : State), settledAt n (.ld o) s → exec (.loomLd n o) s = .next (loomNow n { stepped n s with ba := bitAt n o s } s)) ∧
  (∀ (n : Fin 8) (o : BitOp) (s : State), settledAt n (.ldn o) s →
    exec (.loomLdn n o) s = .next (loomNow n { stepped n s with ba := !bitAt n o s } s)) ∧
  (∀ (n : Fin 8) (o : BitOp) (s : State), settledAt n (.and o) s →
    exec (.loomAnd n o) s = .next (loomNow n { stepped n s with ba := (vget s.loom n).run.ba && bitAt n o s } s)) ∧
  (∀ (n : Fin 8) (o : BitOp) (s : State), settledAt n (.andn o) s →
    exec (.loomAndn n o) s = .next (loomNow n { stepped n s with ba := (vget s.loom n).run.ba && !bitAt n o s } s)) ∧
  (∀ (n : Fin 8) (o : BitOp) (s : State), settledAt n (.or o) s →
    exec (.loomOr n o) s = .next (loomNow n { stepped n s with ba := (vget s.loom n).run.ba || bitAt n o s } s)) ∧
  (∀ (n : Fin 8) (o : BitOp) (s : State), settledAt n (.orn o) s →
    exec (.loomOrn n o) s = .next (loomNow n { stepped n s with ba := (vget s.loom n).run.ba || !bitAt n o s } s)) ∧
  (∀ (n : Fin 8) (o : BitOp) (s : State), settledAt n (.xor o) s →
    exec (.loomXor n o) s = .next (loomNow n { stepped n s with ba := (vget s.loom n).run.ba != bitAt n o s } s)) ∧
  (∀ (n : Fin 8) (o : BitOp) (s : State), settledAt n (.xorn o) s →
    exec (.loomXorn n o) s = .next (loomNow n { stepped n s with ba := (vget s.loom n).run.ba != !bitAt n o s } s)) ∧
  (∀ (n : Fin 8) (s : State), settledAt n .not s → exec (.loomNot n) s = .next (loomNow n { stepped n s with ba := !(vget s.loom n).run.ba } s)) ∧
  (∀ (n : Fin 8) (s : State), settledAt n .set1 s → exec (.loomSet1 n) s = .next (loomNow n { stepped n s with ba := true } s)) ∧
  (∀ (n : Fin 8) (s : State), settledAt n .set0 s → exec (.loomSet0 n) s = .next (loomNow n { stepped n s with ba := false } s))

/-- R81, R82, R83, R84, R93, R94, R100, R109: loom stacks, master control, jumps, calls, PICK, NOP and END; what traps: the causes of R100.

Completes (exec answers the next state written, under hypotheses on the state and the operands alone): loomNop, loomPick, loomEnd, loomAndp, loomOrp,
loomPopb, loomBpsh, loomBrd, loomBpop, loomMcs, loomMce, loomJmp, loomJc, loomJcn, loomCall, loomCallc, loomRet. -/
def Obligations.LoomStacksAndControl : Prop :=
  (∀ (n : Fin 8) (s : State), settledAt n .nop s → exec (.loomNop n) s = .next (loomNow n (stepped n s) s)) ∧
  (∀ (n : Fin 8) (p : BitVec 16) (s : State), settledAt n (.pick p) s → (vget s.loom n).run.bst = [] →
    exec (.loomPick n p) s = .next (loomNow n { stepped n s with ba := true, wa := 0, pick := p.toNat } s)) ∧
  (∀ (n : Fin 8) (s : State), settledAt n .fin s → (vget s.loom n).run.bst = [] → (vget s.loom n).run.cst = [] → (vget s.loom n).run.mcst = [] →
    exec (.loomEnd n) s = .next (commitBegin n (stepped n s) s)) ∧
  (∀ (n : Fin 8) (s : State), settledAt n .andp s → (vget s.loom n).run.bst.length < 32 →
    exec (.loomAndp n) s = .next (loomNow n { stepped n s with bst := ((vget s.loom n).run.ba, .and) :: (vget s.loom n).run.bst, ba := true } s)) ∧
  (∀ (n : Fin 8) (s : State), settledAt n .orp s → (vget s.loom n).run.bst.length < 32 →
    exec (.loomOrp n) s = .next (loomNow n { stepped n s with bst := ((vget s.loom n).run.ba, .or) :: (vget s.loom n).run.bst, ba := true } s)) ∧
  (∀ (n : Fin 8) (s : State), settledAt n .bpsh s → (vget s.loom n).run.bst.length < 32 →
    exec (.loomBpsh n) s = .next (loomNow n { stepped n s with bst := ((vget s.loom n).run.ba, .keep) :: (vget s.loom n).run.bst } s)) ∧
  (∀ (n : Fin 8) (v : Bool) (l : List (Bool × BKind)) (s : State), settledAt n .popb s → (vget s.loom n).run.bst = (v, .and) :: l →
    exec (.loomPopb n) s = .next (loomNow n { stepped n s with bst := l, ba := v && (vget s.loom n).run.ba } s)) ∧
  (∀ (n : Fin 8) (v : Bool) (l : List (Bool × BKind)) (s : State), settledAt n .popb s → (vget s.loom n).run.bst = (v, .or) :: l →
    exec (.loomPopb n) s = .next (loomNow n { stepped n s with bst := l, ba := v || (vget s.loom n).run.ba } s)) ∧
  (∀ (n : Fin 8) (v : Bool) (l : List (Bool × BKind)) (s : State), settledAt n .brd s → (vget s.loom n).run.bst = (v, .keep) :: l →
    exec (.loomBrd n) s = .next (loomNow n { stepped n s with ba := v } s)) ∧
  (∀ (n : Fin 8) (v : Bool) (l : List (Bool × BKind)) (s : State), settledAt n .bpop s → (vget s.loom n).run.bst = (v, .keep) :: l →
    exec (.loomBpop n) s = .next (loomNow n { stepped n s with bst := l, ba := v } s)) ∧
  (∀ (n : Fin 8) (s : State), settledAt n .mcs s → (vget s.loom n).run.mcst.length < 8 →
    exec (.loomMcs n) s = .next (loomNow n
    { stepped n s with mcst := (vget s.loom n).run.mc :: (vget s.loom n).run.mcst, mc := (vget s.loom n).run.mc && (vget s.loom n).run.ba } s)) ∧
  (∀ (n : Fin 8) (m : Bool) (l : List Bool) (s : State), settledAt n .mce s → (vget s.loom n).run.mcst = m :: l →
    exec (.loomMce n) s = .next (loomNow n { stepped n s with mcst := l, mc := m } s)) ∧
  (∀ (n : Fin 8) (t : BitVec 17) (s : State), settledAt n (.jmp t) s → exec (.loomJmp n t) s = .next (loomNow n { stepped n s with pc := t.toNat } s)) ∧
  (∀ (n : Fin 8) (t : BitVec 17) (s : State), settledAt n (.jc t) s → (vget s.loom n).run.ba = true →
    exec (.loomJc n t) s = .next (loomNow n { stepped n s with pc := t.toNat } s)) ∧
  (∀ (n : Fin 8) (t : BitVec 17) (s : State), settledAt n (.jc t) s → (vget s.loom n).run.ba = false →
    exec (.loomJc n t) s = .next (loomNow n (stepped n s) s)) ∧
  (∀ (n : Fin 8) (t : BitVec 17) (s : State), settledAt n (.jcn t) s → (vget s.loom n).run.ba = false →
    exec (.loomJcn n t) s = .next (loomNow n { stepped n s with pc := t.toNat } s)) ∧
  (∀ (n : Fin 8) (t : BitVec 17) (s : State), settledAt n (.jcn t) s → (vget s.loom n).run.ba = true →
    exec (.loomJcn n t) s = .next (loomNow n (stepped n s) s)) ∧
  (∀ (n : Fin 8) (t : BitVec 17) (s : State), settledAt n (.call t) s → (vget s.loom n).run.cst.length < 8 →
    exec (.loomCall n t) s = .next (loomNow n { stepped n s with cst := ((vget s.loom n).run.pc + 1) :: (vget s.loom n).run.cst, pc := t.toNat } s)) ∧
  (∀ (n : Fin 8) (t : BitVec 17) (s : State), settledAt n (.callc t) s → (vget s.loom n).run.ba = true → (vget s.loom n).run.cst.length < 8 →
    exec (.loomCallc n t) s = .next (loomNow n { stepped n s with cst := ((vget s.loom n).run.pc + 1) :: (vget s.loom n).run.cst, pc := t.toNat } s)) ∧
  (∀ (n : Fin 8) (t : BitVec 17) (s : State), settledAt n (.callc t) s → (vget s.loom n).run.ba = false →
    exec (.loomCallc n t) s = .next (loomNow n (stepped n s) s)) ∧
  (∀ (n : Fin 8) (a : Nat) (l : List Nat) (s : State), settledAt n .ret s → (vget s.loom n).run.cst = a :: l ∧ a < 131072 →
    exec (.loomRet n) s = .next (loomNow n { stepped n s with cst := l, pc := a } s)) ∧
  (∀ (n : Fin 8) (s : State), settledAt n .andp s → 32 ≤ (vget s.loom n).run.bst.length →
    exec (.loomAndp n) s = .next (trapTaken n (vget s.loom n).run.pick { cause := 1, pc := (vget s.loom n).run.pc } s)) ∧
  (∀ (n : Fin 8) (s : State), settledAt n .orp s → 32 ≤ (vget s.loom n).run.bst.length →
    exec (.loomOrp n) s = .next (trapTaken n (vget s.loom n).run.pick { cause := 1, pc := (vget s.loom n).run.pc } s)) ∧
  (∀ (n : Fin 8) (s : State), settledAt n .bpsh s → 32 ≤ (vget s.loom n).run.bst.length →
    exec (.loomBpsh n) s = .next (trapTaken n (vget s.loom n).run.pick { cause := 1, pc := (vget s.loom n).run.pc } s)) ∧
  (∀ (n : Fin 8) (s : State), settledAt n .popb s → (vget s.loom n).run.bst = [] →
    exec (.loomPopb n) s = .next (trapTaken n (vget s.loom n).run.pick { cause := 2, pc := (vget s.loom n).run.pc } s)) ∧
  (∀ (n : Fin 8) (s : State), settledAt n .brd s → (vget s.loom n).run.bst = [] →
    exec (.loomBrd n) s = .next (trapTaken n (vget s.loom n).run.pick { cause := 2, pc := (vget s.loom n).run.pc } s)) ∧
  (∀ (n : Fin 8) (s : State), settledAt n .bpop s → (vget s.loom n).run.bst = [] →
    exec (.loomBpop n) s = .next (trapTaken n (vget s.loom n).run.pick { cause := 2, pc := (vget s.loom n).run.pc } s)) ∧
  (∀ (n : Fin 8) (v : Bool) (l : List (Bool × BKind)) (s : State), settledAt n .popb s → (vget s.loom n).run.bst = (v, .keep) :: l →
    exec (.loomPopb n) s = .next (trapTaken n (vget s.loom n).run.pick { cause := 3, pc := (vget s.loom n).run.pc } s)) ∧
  (∀ (n : Fin 8) (v : Bool) (k : BKind) (l : List (Bool × BKind)) (s : State), settledAt n .brd s → (vget s.loom n).run.bst = (v, k) :: l →
    k ≠ .keep → exec (.loomBrd n) s = .next (trapTaken n (vget s.loom n).run.pick { cause := 3, pc := (vget s.loom n).run.pc } s)) ∧
  (∀ (n : Fin 8) (v : Bool) (k : BKind) (l : List (Bool × BKind)) (s : State), settledAt n .bpop s → (vget s.loom n).run.bst = (v, k) :: l →
    k ≠ .keep → exec (.loomBpop n) s = .next (trapTaken n (vget s.loom n).run.pick { cause := 3, pc := (vget s.loom n).run.pc } s)) ∧
  (∀ (n : Fin 8) (p : BitVec 16) (s : State), settledAt n (.pick p) s → (vget s.loom n).run.bst ≠ [] →
    exec (.loomPick n p) s = .next (trapTaken n (vget s.loom n).run.pick { cause := 4, pc := (vget s.loom n).run.pc } s)) ∧
  (∀ (n : Fin 8) (s : State), settledAt n .fin s → (vget s.loom n).run.bst ≠ [] →
    exec (.loomEnd n) s = .next (trapTaken n (vget s.loom n).run.pick { cause := 4, pc := (vget s.loom n).run.pc } s)) ∧
  (∀ (n : Fin 8) (t : BitVec 17) (s : State), settledAt n (.call t) s → 8 ≤ (vget s.loom n).run.cst.length →
    exec (.loomCall n t) s = .next (trapTaken n (vget s.loom n).run.pick { cause := 5, pc := (vget s.loom n).run.pc } s)) ∧
  (∀ (n : Fin 8) (t : BitVec 17) (s : State), settledAt n (.callc t) s → (vget s.loom n).run.ba = true → 8 ≤ (vget s.loom n).run.cst.length →
    exec (.loomCallc n t) s = .next (trapTaken n (vget s.loom n).run.pick { cause := 5, pc := (vget s.loom n).run.pc } s)) ∧
  (∀ (n : Fin 8) (s : State), settledAt n .ret s → (vget s.loom n).run.cst = [] →
    exec (.loomRet n) s = .next (trapTaken n (vget s.loom n).run.pick { cause := 6, pc := (vget s.loom n).run.pc } s)) ∧
  (∀ (n : Fin 8) (s : State), settledAt n .mcs s → 8 ≤ (vget s.loom n).run.mcst.length →
    exec (.loomMcs n) s = .next (trapTaken n (vget s.loom n).run.pick { cause := 7, pc := (vget s.loom n).run.pc } s)) ∧
  (∀ (n : Fin 8) (s : State), settledAt n .mce s → (vget s.loom n).run.mcst = [] →
    exec (.loomMce n) s = .next (trapTaken n (vget s.loom n).run.pick { cause := 8, pc := (vget s.loom n).run.pc } s)) ∧
  (∀ (n : Fin 8) (s : State), settledAt n .fin s → (vget s.loom n).run.bst = [] → ((vget s.loom n).run.cst ≠ [] ∨ (vget s.loom n).run.mcst ≠ []) →
    exec (.loomEnd n) s = .next (trapTaken n (vget s.loom n).run.pick { cause := 9, pc := (vget s.loom n).run.pc } s)) ∧
  (∀ (n : Fin 8) (s : State), loomRuns s n .nop = true → (vget s.loom n).mode = .settled → 131071 ≤ (vget s.loom n).run.pc →
    exec (.loomNop n) s = .next (trapTaken n (vget s.loom n).run.pick { cause := 0x0A, pc := (vget s.loom n).run.pc } s))

/-- R77, R79, R85, R91, R93, R96, R97, R151: loom stores, edges, events and CAN requests.

Completes (exec answers the next state written, under hypotheses on the state and the operands alone): loomSt, loomStn, loomSetb, loomRstb, loomPedge,
loomNedge, loomStw, loomStwc, loomEvt, loomCantx. -/
def Obligations.LoomStores : Prop :=
  (∀ (n : Fin 8) (o : BitOp) (s : State), settledAt n (.st o) s → jRoom n 1 s →
    exec (.loomSt n o) s = .next (loomNow n (storeBit (stepped n s) o ((vget s.loom n).run.mc && (vget s.loom n).run.ba)).run s)) ∧
  (∀ (n : Fin 8) (o : BitOp) (s : State), settledAt n (.stn o) s → jRoom n 1 s →
    exec (.loomStn n o) s = .next (loomNow n (storeBit (stepped n s) o ((vget s.loom n).run.mc && !(vget s.loom n).run.ba)).run s)) ∧
  (∀ (n : Fin 8) (o : BitOp) (s : State), settledAt n (.setb o) s → inAt n s = true → jRoom n 1 s →
    exec (.loomSetb n o) s = .next (loomNow n (storeBit (stepped n s) o true).run s)) ∧
  (∀ (n : Fin 8) (o : BitOp) (s : State), settledAt n (.setb o) s → inAt n s = false → exec (.loomSetb n o) s = .next (loomNow n (stepped n s) s)) ∧
  (∀ (n : Fin 8) (o : BitOp) (s : State), settledAt n (.rstb o) s → inAt n s = true → jRoom n 1 s →
    exec (.loomRstb n o) s = .next (loomNow n (storeBit (stepped n s) o false).run s)) ∧
  (∀ (n : Fin 8) (o : BitOp) (s : State), settledAt n (.rstb o) s → inAt n s = false → exec (.loomRstb n o) s = .next (loomNow n (stepped n s) s)) ∧
  (∀ (n : Fin 8) (o : WordOp) (s : State), settledAt n (.stw o) s → (vget s.loom n).run.mc = true → jRoom n 1 s →
    exec (.loomStw n o) s = .next (loomNow n (storeWord (stepped n s) o (vget s.loom n).run.wa).run s)) ∧
  (∀ (n : Fin 8) (o : WordOp) (s : State), settledAt n (.stw o) s → (vget s.loom n).run.mc = false →
    exec (.loomStw n o) s = .next (loomNow n (stepped n s) s)) ∧
  (∀ (n : Fin 8) (o : WordOp) (s : State), settledAt n (.stwc o) s → inAt n s = true → jRoom n 1 s →
    exec (.loomStwc n o) s = .next (loomNow n (storeWord (stepped n s) o (vget s.loom n).run.wa).run s)) ∧
  (∀ (n : Fin 8) (o : WordOp) (s : State), settledAt n (.stwc o) s → inAt n s = false → exec (.loomStwc n o) s = .next (loomNow n (stepped n s) s)) ∧
  (∀ (n : Fin 8) (i : BitVec 13) (m : Bool) (s : State), settledAt n (.pedge i) s → mapGet (vget s.loom n).run.data.edges i.toNat = some m →
    m ≠ inAt n s → jRoom n 1 s →
    exec (.loomPedge n i) s = .next (loomNow n
    { stepped n s with ba := inAt n s && !m, data := { (vget s.loom n).run.data with edges := mapSet (vget s.loom n).run.data.edges i.toNat (inAt n s) }, jrn := (vget s.loom n).run.jrn ++ [.edge i.toNat (inAt n s)] }
    s)) ∧
  (∀ (n : Fin 8) (i : BitVec 13) (s : State), settledAt n (.pedge i) s → mapGet (vget s.loom n).run.data.edges i.toNat = some (inAt n s) →
    exec (.loomPedge n i) s = .next (loomNow n { stepped n s with ba := false } s)) ∧
  (∀ (n : Fin 8) (i : BitVec 13) (s : State), settledAt n (.pedge i) s → mapGet (vget s.loom n).run.data.edges i.toNat = none → jRoom n 1 s →
    exec (.loomPedge n i) s = .next (loomNow n
    { stepped n s with ba := false, data := { (vget s.loom n).run.data with edges := mapSet (vget s.loom n).run.data.edges i.toNat (inAt n s) }, jrn := (vget s.loom n).run.jrn ++ [.edge i.toNat (inAt n s)] }
    s)) ∧
  (∀ (n : Fin 8) (i : BitVec 13) (m : Bool) (s : State), settledAt n (.nedge i) s → mapGet (vget s.loom n).run.data.edges i.toNat = some m →
    m ≠ inAt n s → jRoom n 1 s →
    exec (.loomNedge n i) s = .next (loomNow n
    { stepped n s with ba := m && !inAt n s, data := { (vget s.loom n).run.data with edges := mapSet (vget s.loom n).run.data.edges i.toNat (inAt n s) }, jrn := (vget s.loom n).run.jrn ++ [.edge i.toNat (inAt n s)] }
    s)) ∧
  (∀ (n : Fin 8) (i : BitVec 13) (s : State), settledAt n (.nedge i) s → mapGet (vget s.loom n).run.data.edges i.toNat = some (inAt n s) →
    exec (.loomNedge n i) s = .next (loomNow n { stepped n s with ba := false } s)) ∧
  (∀ (n : Fin 8) (i : BitVec 13) (s : State), settledAt n (.nedge i) s → mapGet (vget s.loom n).run.data.edges i.toNat = none → jRoom n 1 s →
    exec (.loomNedge n i) s = .next (loomNow n
    { stepped n s with ba := false, data := { (vget s.loom n).run.data with edges := mapSet (vget s.loom n).run.data.edges i.toNat (inAt n s) }, jrn := (vget s.loom n).run.jrn ++ [.edge i.toNat (inAt n s)] }
    s)) ∧
  (∀ (n : Fin 8) (v : BitVec 3) (m : BitVec 8) (s : State), settledAt n (.evt v m) s → inAt n s = true → jRoom n 1 s →
    exec (.loomEvt n v m) s = .next (loomNow n
    { stepped n s with jrn := (vget s.loom n).run.jrn ++ [.event (0x1000 + 0x100 * n.val + m.toNat) v.toNat (vget s.loom n).run.wa] } s)) ∧
  (∀ (n : Fin 8) (v : BitVec 3) (m : BitVec 8) (s : State), settledAt n (.evt v m) s → inAt n s = false →
    exec (.loomEvt n v m) s = .next (loomNow n (stepped n s) s)) ∧
  (∀ (n : Fin 8) (i : BitVec 8) (t : Template) (s : State), settledAt n (.cantx i) s → inAt n s = true →
    (loomCtx n (vget s.loom n)).tmpls[i.toNat]? = some t → t.len ≤ 64 → jRoom n 5 s →
    exec (.loomCantx n i) s = .next (loomNow n
    { stepped n s with jrn := (vget s.loom n).run.jrn ++ [.can i.toNat t.channel { ide := t.ide, fdf := t.fdf, brs := t.brs, esi := false, rtr := false, ident := t.ident, data := payload (vget s.loom n).run t }] }
    s)) ∧
  (∀ (n : Fin 8) (i : BitVec 8) (s : State), settledAt n (.cantx i) s → inAt n s = false →
    exec (.loomCantx n i) s = .next (loomNow n (stepped n s) s))

/-- R78, R79, R86, R87, R90: loom timers and counters: TON, TOF, TP, TRST, CTU, CTD, CRST, CLD.

Completes (exec answers the next state written, under hypotheses on the state and the operands alone): loomTon, loomTof, loomTp, loomTrst, loomCtu,
loomCtd, loomCrst, loomCld. -/
def Obligations.LoomTimersAndCounters : Prop :=
  (∀ (n : Fin 8) (i : BitVec 13) (s : State), settledAt n (.ton i) s → jRoom n 1 s →
    let x := tonStep (vget s.loom n).ts (vget s.loom n).run.wa (inAt n s) (runTimer (vget s.loom n).ts (vget s.loom n).run i.toNat);
    exec (.loomTon n i) s = .next (loomNow n (timerEff { stepped n s with ba := x.2, wa := timerEt (vget s.loom n).ts x.1 } i.toNat (runTimer (vget
    s.loom n).ts (vget s.loom n).run i.toNat) x.1).run s)) ∧
  (∀ (n : Fin 8) (i : BitVec 13) (s : State), settledAt n (.tof i) s → jRoom n 1 s →
    let x := tofStep (vget s.loom n).ts (vget s.loom n).run.wa (inAt n s) (runTimer (vget s.loom n).ts (vget s.loom n).run i.toNat);
    exec (.loomTof n i) s = .next (loomNow n (timerEff { stepped n s with ba := x.2, wa := timerEt (vget s.loom n).ts x.1 } i.toNat (runTimer (vget
    s.loom n).ts (vget s.loom n).run i.toNat) x.1).run s)) ∧
  (∀ (n : Fin 8) (i : BitVec 13) (s : State), settledAt n (.tp i) s → jRoom n 1 s →
    let x := tpStep (vget s.loom n).ts (vget s.loom n).run.wa (inAt n s) (runTimer (vget s.loom n).ts (vget s.loom n).run i.toNat);
    exec (.loomTp n i) s = .next (loomNow n (timerEff { stepped n s with ba := x.2, wa := timerEt (vget s.loom n).ts x.1 } i.toNat (runTimer (vget
    s.loom n).ts (vget s.loom n).run i.toNat) x.1).run s)) ∧
  (∀ (n : Fin 8) (i : BitVec 13) (s : State), settledAt n (.trst i) s → inAt n s = true → jRoom n 1 s →
    exec (.loomTrst n i) s = .next (loomNow n (timerEff (stepped n s) i.toNat (runTimer (vget s.loom n).ts (vget s.loom n).run i.toNat)
    { (runTimer (vget s.loom n).ts (vget s.loom n).run i.toNat) with st := .idle, mem := false }).run s)) ∧
  (∀ (n : Fin 8) (i : BitVec 13) (s : State), settledAt n (.trst i) s → inAt n s = false → exec (.loomTrst n i) s = .next (loomNow n (stepped n s) s)) ∧
  (∀ (n : Fin 8) (i : BitVec 13) (s : State), settledAt n (.ctu i) s → jRoom n 1 s →
    let x : Counter := { (runCtr (vget s.loom n).run i.toNat) with cv := if inAt n s && !(runCtr (vget s.loom n).run i.toNat).up then min ((runCtr (vget s.loom n).run i.toNat).cv + 1) 2147483647 else (runCtr (vget s.loom n).run i.toNat).cv, pv := (vget s.loom n).run.wa.toInt, up := inAt n s };
    exec (.loomCtu n i) s = .next (loomNow n (ctrEff { stepped n s with ba := decide (x.pv ≤ x.cv), wa := wordOf x.cv } i.toNat (runCtr (vget s.loom
    n).run i.toNat) x).run s)) ∧
  (∀ (n : Fin 8) (i : BitVec 13) (s : State), settledAt n (.ctd i) s → jRoom n 1 s →
    let x : Counter := { (runCtr (vget s.loom n).run i.toNat) with cv := if inAt n s && !(runCtr (vget s.loom n).run i.toNat).down then max ((runCtr (vget s.loom n).run i.toNat).cv - 1) (-2147483648) else (runCtr (vget s.loom n).run i.toNat).cv, pv := (vget s.loom n).run.wa.toInt, down := inAt n s };
    exec (.loomCtd n i) s = .next (loomNow n (ctrEff { stepped n s with ba := decide (x.cv ≤ 0), wa := wordOf x.cv } i.toNat (runCtr (vget s.loom
    n).run i.toNat) x).run s)) ∧
  (∀ (n : Fin 8) (i : BitVec 13) (s : State), settledAt n (.crst i) s → inAt n s = true → jRoom n 1 s →
    exec (.loomCrst n i) s = .next (loomNow n (ctrEff (stepped n s) i.toNat (runCtr (vget s.loom n).run i.toNat)
    { (runCtr (vget s.loom n).run i.toNat) with cv := 0 }).run s)) ∧
  (∀ (n : Fin 8) (i : BitVec 13) (s : State), settledAt n (.crst i) s → inAt n s = false → exec (.loomCrst n i) s = .next (loomNow n (stepped n s) s)) ∧
  (∀ (n : Fin 8) (i : BitVec 13) (s : State), settledAt n (.cld i) s → inAt n s = true → jRoom n 1 s →
    exec (.loomCld n i) s = .next (loomNow n (ctrEff (stepped n s) i.toNat (runCtr (vget s.loom n).run i.toNat)
    { (runCtr (vget s.loom n).run i.toNat) with cv := (vget s.loom n).run.wa.toInt }).run s)) ∧
  (∀ (n : Fin 8) (i : BitVec 13) (s : State), settledAt n (.cld i) s → inAt n s = false → exec (.loomCld n i) s = .next (loomNow n (stepped n s) s))

/-- R76, R91, R92: loom word instructions: LDW to PUTB.

Completes (exec answers the next state written, under hypotheses on the state and the operands alone): loomLdw, loomLdi, loomLdih, loomAdd, loomSub,
loomMul, loomDiv, loomMod, loomAndw, loomOrw, loomXorw, loomShl, loomShr, loomAsr, loomCmp, loomMin, loomMax, loomGetb, loomPutb. -/
def Obligations.LoomWords : Prop :=
  (∀ (n : Fin 8) (o : WordOp) (s : State), settledAt n (.ldw o) s →
    exec (.loomLdw n o) s = .next (loomNow n { stepped n s with wa := wordAt n o s } s)) ∧
  (∀ (n : Fin 8) (v : BitVec 16) (s : State), settledAt n (.ldi v) s →
    exec (.loomLdi n v) s = .next (loomNow n { stepped n s with wa := v.signExtend 32 } s)) ∧
  (∀ (n : Fin 8) (v : BitVec 16) (s : State), settledAt n (.ldih v) s →
    exec (.loomLdih n v) s = .next (loomNow n { stepped n s with wa := ((vget s.loom n).run.wa &&& 0x0000FFFF) ||| (v.setWidth 32 <<< 16) } s)) ∧
  (∀ (n : Fin 8) (o : WordOp) (s : State), settledAt n (.add o) s →
    exec (.loomAdd n o) s = .next (loomNow n
    { stepped n s with wa := (addW (vget s.loom n).run.wa (wordAt n o s)).val, ovf := (vget s.loom n).run.ovf || (addW (vget s.loom n).run.wa (wordAt n o s)).ovf, divz := (vget s.loom n).run.divz || (addW (vget s.loom n).run.wa (wordAt n o s)).divz }
    s)) ∧
  (∀ (n : Fin 8) (o : WordOp) (s : State), settledAt n (.sub o) s →
    exec (.loomSub n o) s = .next (loomNow n
    { stepped n s with wa := (subW (vget s.loom n).run.wa (wordAt n o s)).val, ovf := (vget s.loom n).run.ovf || (subW (vget s.loom n).run.wa (wordAt n o s)).ovf, divz := (vget s.loom n).run.divz || (subW (vget s.loom n).run.wa (wordAt n o s)).divz }
    s)) ∧
  (∀ (n : Fin 8) (o : WordOp) (s : State), settledAt n (.mul o) s →
    exec (.loomMul n o) s = .next (loomNow n
    { stepped n s with wa := (mulW (vget s.loom n).run.wa (wordAt n o s)).val, ovf := (vget s.loom n).run.ovf || (mulW (vget s.loom n).run.wa (wordAt n o s)).ovf, divz := (vget s.loom n).run.divz || (mulW (vget s.loom n).run.wa (wordAt n o s)).divz }
    s)) ∧
  (∀ (n : Fin 8) (o : WordOp) (s : State), settledAt n (.div o) s →
    exec (.loomDiv n o) s = .next (loomNow n
    { stepped n s with wa := (divW (vget s.loom n).run.wa (wordAt n o s)).val, ovf := (vget s.loom n).run.ovf || (divW (vget s.loom n).run.wa (wordAt n o s)).ovf, divz := (vget s.loom n).run.divz || (divW (vget s.loom n).run.wa (wordAt n o s)).divz }
    s)) ∧
  (∀ (n : Fin 8) (o : WordOp) (s : State), settledAt n (.mod o) s →
    exec (.loomMod n o) s = .next (loomNow n
    { stepped n s with wa := (modW (vget s.loom n).run.wa (wordAt n o s)).val, ovf := (vget s.loom n).run.ovf || (modW (vget s.loom n).run.wa (wordAt n o s)).ovf, divz := (vget s.loom n).run.divz || (modW (vget s.loom n).run.wa (wordAt n o s)).divz }
    s)) ∧
  (∀ (n : Fin 8) (o : WordOp) (s : State), settledAt n (.andw o) s →
    exec (.loomAndw n o) s = .next (loomNow n { stepped n s with wa := (vget s.loom n).run.wa &&& wordAt n o s } s)) ∧
  (∀ (n : Fin 8) (o : WordOp) (s : State), settledAt n (.orw o) s →
    exec (.loomOrw n o) s = .next (loomNow n { stepped n s with wa := (vget s.loom n).run.wa ||| wordAt n o s } s)) ∧
  (∀ (n : Fin 8) (o : WordOp) (s : State), settledAt n (.xorw o) s →
    exec (.loomXorw n o) s = .next (loomNow n { stepped n s with wa := (vget s.loom n).run.wa ^^^ wordAt n o s } s)) ∧
  (∀ (n : Fin 8) (k : BitVec 5) (s : State), settledAt n (.shl k) s →
    exec (.loomShl n k) s = .next (loomNow n { stepped n s with wa := (vget s.loom n).run.wa <<< k.toNat } s)) ∧
  (∀ (n : Fin 8) (k : BitVec 5) (s : State), settledAt n (.shr k) s →
    exec (.loomShr n k) s = .next (loomNow n { stepped n s with wa := (vget s.loom n).run.wa >>> k.toNat } s)) ∧
  (∀ (n : Fin 8) (k : BitVec 5) (s : State), settledAt n (.asr k) s →
    exec (.loomAsr n k) s = .next (loomNow n { stepped n s with wa := (vget s.loom n).run.wa.sshiftRight k.toNat } s)) ∧
  (∀ (n : Fin 8) (q : Cond) (o : WordOp) (s : State), settledAt n (.cmp q o) s →
    exec (.loomCmp n q o) s = .next (loomNow n { stepped n s with ba := (vget s.loom n).run.ba && condHolds q (vget s.loom n).run.wa (wordAt n o s) }
    s)) ∧
  (∀ (n : Fin 8) (o : WordOp) (s : State), settledAt n (.min o) s →
    exec (.loomMin n o) s = .next (loomNow n
    { stepped n s with wa := if (vget s.loom n).run.wa.toInt ≤ (wordAt n o s).toInt then (vget s.loom n).run.wa else wordAt n o s } s)) ∧
  (∀ (n : Fin 8) (o : WordOp) (s : State), settledAt n (.max o) s →
    exec (.loomMax n o) s = .next (loomNow n
    { stepped n s with wa := if (vget s.loom n).run.wa.toInt ≤ (wordAt n o s).toInt then wordAt n o s else (vget s.loom n).run.wa } s)) ∧
  (∀ (n : Fin 8) (k : BitVec 5) (s : State), settledAt n (.getb k) s →
    exec (.loomGetb n k) s = .next (loomNow n { stepped n s with ba := (vget s.loom n).run.wa.getLsbD k.toNat } s)) ∧
  (∀ (n : Fin 8) (k : BitVec 5) (s : State), settledAt n (.putb k) s →
    exec (.loomPutb n k) s = .next (loomNow n { stepped n s with wa := putBit (vget s.loom n).run.wa k.toNat (vget s.loom n).run.ba } s))

/-- R77, R79: what a Loom store does to the working values, the markers and the journal. -/
def Obligations.LoomStoreEffect : Prop :=
  (∀ (r : LRun) (o : BitOp) (v : Bool), o.space = .pb →
    (storeBit r o v).run =
    { r with data := { r.data with work := mapPut 0 r.data.work o.index.toNat (if v then 1 else 0) }, jrn := r.jrn ++ (if mapGetD 0 r.data.work o.index.toNat = (if v then 1 else 0) then [] else [.warp o.index.toNat (if v then 1 else 0)]) }) ∧
  (∀ (r : LRun) (o : BitOp) (v : Bool), o.space = .mb →
    (storeBit r o v).run = { r with data := { r.data with mb := mapPut false r.data.mb o.index.toNat v } }) ∧
  (∀ (r : LRun) (o : WordOp) (v : Word), o.space = .pw →
    (storeWord r o v).run =
    { r with data := { r.data with work := mapPut 0 r.data.work o.index.toNat v }, jrn := r.jrn ++ (if mapGetD 0 r.data.work o.index.toNat = v then [] else [.warp o.index.toNat v]) }) ∧
  (∀ (r : LRun) (o : WordOp) (v : Word), o.space = .mw →
    (storeWord r o v).run = { r with data := { r.data with mw := mapPut 0 r.data.mw o.index.toNat v } }) ∧
  (∀ (m : SMap Word) (i j : Nat) (v : Word), mapSorted m = true → mapGetD 0 (mapPut 0 m i v) j = if j = i then v else mapGetD 0 m j)

/-- R92: the limits of Loom arithmetic, and the conditions of CMP. -/
def Obligations.LoomArithmetic : Prop :=
  (∀ (a b : Word), (addW a b).val.toInt = max (-2147483648) (min 2147483647 (a.toInt + b.toInt)) ∧ (addW a b).divz = false ∧
    ((addW a b).ovf = true ↔ ¬ (-2147483648 ≤ a.toInt + b.toInt ∧ a.toInt + b.toInt ≤ 2147483647))) ∧
  (∀ (a b : Word), (subW a b).val.toInt = max (-2147483648) (min 2147483647 (a.toInt - b.toInt)) ∧ (subW a b).divz = false ∧
    ((subW a b).ovf = true ↔ ¬ (-2147483648 ≤ a.toInt - b.toInt ∧ a.toInt - b.toInt ≤ 2147483647))) ∧
  (∀ (a b : Word), (mulW a b).val.toInt = max (-2147483648) (min 2147483647 (a.toInt * b.toInt)) ∧ (mulW a b).divz = false ∧
    ((mulW a b).ovf = true ↔ ¬ (-2147483648 ≤ a.toInt * b.toInt ∧ a.toInt * b.toInt ≤ 2147483647))) ∧
  (∀ (a b : Word), b ≠ 0 → ¬ (a.toInt = -2147483648 ∧ b.toInt = -1) → (divW a b).val.toInt = a.toInt.tdiv b.toInt ∧ (divW a b).ovf = false ∧
    (divW a b).divz = false) ∧
  (∀ (a b : Word), a.toInt = -2147483648 → b.toInt = -1 → divW a b = { val := 2147483647, ovf := true, divz := false }) ∧
  (∀ (a b : Word), b ≠ 0 → (modW a b).val.toInt = a.toInt.tmod b.toInt ∧ (modW a b).ovf = false ∧ (modW a b).divz = false) ∧
  (∀ (a : Word), divW a 0 = { val := 0, divz := true } ∧ modW a 0 = { val := 0, divz := true }) ∧
  (∀ (c : LCtx) (r : LRun) (o : WordOp) (i : LInstr), i ∈ [.add o, .sub o, .mul o, .div o, .mod o] → (lMeaning c r i).trap = none) ∧
  (∀ (a b : Word), condHolds .eq a b = decide (a = b) ∧ condHolds .ne a b = decide (a ≠ b) ∧ condHolds .lt a b = decide (a.toInt < b.toInt) ∧
    condHolds .le a b = decide (a.toInt ≤ b.toInt) ∧ condHolds .gt a b = decide (b.toInt < a.toInt) ∧ condHolds .ge a b = decide (b.toInt ≤ a.toInt) ∧
    condHolds .ltu a b = decide (a.toNat < b.toNat) ∧ condHolds .geu a b = decide (b.toNat ≤ a.toNat)) ∧
  ((List.range 8).map condOf = [some .eq, some .ne, some .lt, some .le, some .gt, some .ge, some .ltu, some .geu]) ∧
  (∀ (w : Word), bits w.toNat 24 8 = 0x50 → 8 ≤ bits w.toNat 16 4 → loomDecode w = none)

/-- R86, R87: the rows of the timer table: TON, TOF and TP by IN and the timer's state. -/
def Obligations.TimerTable : Prop :=
  (∀ (ts pt : Word) (t : Timer), t.st = .idle →
    tonStep ts pt true t = ({ st := if pt = 0 then .done else .running, start := ts, pt := pt, mem := true }, decide (pt = 0))) ∧
  (∀ (ts pt : Word) (t : Timer), t.st = .running → (ts - t.start).toNat < pt.toNat → tonStep ts pt true t = ({ t with pt := pt, mem := true }, false)) ∧
  (∀ (ts pt : Word) (t : Timer), t.st = .running → pt.toNat ≤ (ts - t.start).toNat →
    tonStep ts pt true t = ({ t with st := .done, pt := pt, mem := true }, true)) ∧
  (∀ (ts pt : Word) (t : Timer), t.st = .done → tonStep ts pt true t = ({ t with pt := pt, mem := true }, true)) ∧
  (∀ (ts pt : Word) (t : Timer), tonStep ts pt false t = ({ t with st := .idle, mem := false }, false)) ∧
  (∀ (ts pt : Word) (t : Timer), tofStep ts pt true t = ({ t with st := .idle, mem := true }, true)) ∧
  (∀ (ts pt : Word) (t : Timer), t.st = .idle → t.mem = true →
    tofStep ts pt false t = ({ st := if pt = 0 then .done else .running, start := ts, pt := pt, mem := false }, decide (pt ≠ 0))) ∧
  (∀ (ts pt : Word) (t : Timer), t.st = .idle → t.mem = false → tofStep ts pt false t = (t, false)) ∧
  (∀ (ts pt : Word) (t : Timer), t.st = .running → (ts - t.start).toNat < pt.toNat →
    tofStep ts pt false t = ({ t with pt := pt, mem := false }, true)) ∧
  (∀ (ts pt : Word) (t : Timer), t.st = .done → tofStep ts pt false t = ({ t with mem := false }, false)) ∧
  (∀ (ts pt : Word) (t : Timer), t.st = .idle → t.mem = false →
    tpStep ts pt true t = ({ st := if pt = 0 then .done else .running, start := ts, pt := pt, mem := true }, decide (pt ≠ 0))) ∧
  (∀ (ts pt : Word) (t : Timer), t.st = .idle → t.mem = true → tpStep ts pt true t = (t, false)) ∧
  (∀ (ts pt : Word) (b : Bool) (t : Timer), t.st = .running → (ts - t.start).toNat < pt.toNat →
    tpStep ts pt b t = ({ t with pt := pt, mem := b }, true)) ∧
  (∀ (ts pt : Word) (b : Bool) (t : Timer), t.st = .running → pt.toNat ≤ (ts - t.start).toNat →
    tpStep ts pt b t = ({ t with st := .done, pt := pt, mem := b }, false)) ∧
  (∀ (ts pt : Word) (t : Timer), t.st = .running → pt.toNat ≤ (ts - t.start).toNat →
    tofStep ts pt false t = ({ t with st := .done, pt := pt, mem := false }, false)) ∧
  (∀ (ts pt : Word) (t : Timer), t.st = .done → tpStep ts pt true t = ({ t with mem := true }, false) ∧
    tpStep ts pt false t = ({ t with st := .idle, mem := false }, false)) ∧
  (∀ (ts pt : Word) (t : Timer), t.st = .idle → tpStep ts pt false t = ({ t with mem := false }, false)) ∧
  (∀ (ts : Word) (t : Timer), timerEt ts t = match timerSt ts t with | .idle => 0 | .running => ts - t.start | .done => t.pt) ∧
  (∀ (ts : Word) (t : Timer), timerSt ts t = .done ↔ t.st = .done ∨ (t.st = .running ∧ t.pt.toNat ≤ (ts - t.start).toNat)) ∧
  (∀ (ts : Word) (t : Timer), timerQ 0x30 ts t = decide (timerSt ts t = .done) ∧ timerQ 0x31 ts t = (decide (timerSt ts t = .running) || t.mem) ∧
    timerQ 0x32 ts t = decide (timerSt ts t = .running) ∧ timerQ 0 ts t = false)

/-- R57, R60, R63, R64, R66, R71, R140: descriptors of the channel table, images and HK0: NOP, CREATE, DESTROY, HANDLE_QUERY, ZOROS_STAGE, ZOROS_CHECK.

Completes (exec answers the next state written, under hypotheses on the state and the operands alone): create, zorosStage, descriptorNop, destroy,
handleQuery, zorosCheck. -/
def Obligations.DescriptorHostCommands : Prop :=
  (∀ (p : Desc → Bool) (h : HostData) (f : Flight) (s : State), starts f (hostBytes f.desc h) s → p f.desc = true → h.mark = .good →
    h.onward = .good → ((opSpec f.desc.op).any (fun q => q.pair = .mirrored) && mirrors s) = true →
    runRow p h s = .next (forwardDesc (callOf f (hostBytes f.desc h) s) (taken f (hostBytes f.desc h) s))) ∧
  (∀ (f : Flight) (s : State), starts f [] s → f.desc.op = 0x00 → let t := started f.no s; exec (.descriptorNop) s = .next (answer f.no {} t)) ∧
  (∀ (f : Flight) (s : State), starts f [] s → f.desc.op = 0x03 → let t := started f.no s;
    exec (.handleQuery) s = .next (answer f.no { result := some (handleQuery s f.desc.arg0) } t)) ∧
  (∀ (f : Flight) (h : HostData) (s : State), starts f (hostBytes f.desc h) s → f.desc.op = 0x08 → h.mark = .good → h.onward = .good →
    let t := taken f (hostBytes f.desc h) s;
    exec (.zorosStage h) s = .next (answer f.no { result := some (f.desc.arg1) } (stageWrite f.desc.arg2 (hostBytes f.desc h) t))) ∧
  (∀ (f : Flight) (s : State), starts f [] s → f.desc.op = 0x09 → let t := started f.no s;
    exec (.zorosCheck) s = .next (setZor (fun z => { z with checks := z.checks ++ [(f.no, f.desc.arg1)] }) t)) ∧
  (∀ (f : Flight) (s : State), starts f [] s → f.desc.op = 0x02 → onLive f s → mirrors s = false → let t := started f.no s;
    exec (.destroy) s = .next (answer f.no { result := some (0) } (chanDestroy (descIdx f.desc) none none t))) ∧
  (∀ (f : Flight) (h : HostData) (s : State), starts f (hostBytes f.desc h) s → f.desc.op = 0x01 → h.mark = .good → mirrors s = false →
    createRepeats s (f.desc.arg0 % 8192) (f.desc.arg1 % 256) (f.desc.arg1 / 256) (hostBytes f.desc h) = false →
    createBlocked s (f.desc.arg0 % 8192) (f.desc.arg1 % 256) (f.desc.arg1 / 256) = none →
    (heldHandles s (f.desc.arg1 % 256)).length < kindLimit (f.desc.arg1 % 256) → h.onward = .good → let t := taken f (hostBytes f.desc h) s;
    exec (.create h) s = .next (answer f.no
    { result := some (f.desc.arg1 / 256), handle := some (createGen s (f.desc.arg0 % 8192) * 8192 + f.desc.arg0 % 8192) } (chanMake (f.desc.arg0 %
    8192) (createGen s (f.desc.arg0 % 8192))
    { kind := f.desc.arg1 % 256, target := f.desc.arg1 / 256, block := storedBlock (f.desc.arg1 % 256) (hostBytes f.desc h), secure := ringSecure s f.ring }
    t))) ∧
  (∀ (f : Flight) (h : HostData) (s : State), starts f (hostBytes f.desc h) s → f.desc.op = 0x01 → h.mark = .good → mirrors s = false →
    createRepeats s (f.desc.arg0 % 8192) (f.desc.arg1 % 256) (f.desc.arg1 / 256) (hostBytes f.desc h) = true → h.onward = .good →
    let t := taken f (hostBytes f.desc h) s;
    exec (.create h) s = .next (answer f.no
    { result := some (f.desc.arg1 / 256), cflags := 2, handle := (handleEnt s (f.desc.arg0 % 8192)).map (handleNo (f.desc.arg0 % 8192)) } t)) ∧
  (∀ (f : Flight) (h : HostData) (s : State), starts f (hostBytes f.desc h) s → f.desc.op = 0x01 → h.mark = .good → mirrors s = false →
    createRepeats s (f.desc.arg0 % 8192) (f.desc.arg1 % 256) (f.desc.arg1 / 256) (hostBytes f.desc h) = false →
    createBlocked s (f.desc.arg0 % 8192) (f.desc.arg1 % 256) (f.desc.arg1 / 256) = none →
    kindLimit (f.desc.arg1 % 256) ≤ (heldHandles s (f.desc.arg1 % 256)).length → h.onward = .good → let t := taken f (hostBytes f.desc h) s;
    exec (.create h) s = .next (answer f.no { status := stFull, result := none } t)) ∧
  (∀ (f : Flight) (h : HostData) (k : Nat) (s : State), starts f (hostBytes f.desc h) s → f.desc.op = 0x01 → h.mark = .good → mirrors s = false →
    createRepeats s (f.desc.arg0 % 8192) (f.desc.arg1 % 256) (f.desc.arg1 / 256) (hostBytes f.desc h) = false →
    createBlocked s (f.desc.arg0 % 8192) (f.desc.arg1 % 256) (f.desc.arg1 / 256) = some k → h.onward = .good →
    let t := taken f (hostBytes f.desc h) s; exec (.create h) s = .next (answer f.no { status := stBusy, result := some k } t))

/-- R59, R67, R105, R142, R143, R145, R158, R377: descriptors of tasks, patches, points and forces: TASK_CTRL, PATCH_VALUE, POINT_READ, FORCE_SET.

Completes (exec answers the next state written, under hypotheses on the state and the operands alone): pointRead, taskCtrlStart, taskCtrlStop,
taskCtrlSetMiniv, patchValue, forceSet, forceRelease. -/
def Obligations.DescriptorTaskCommands : Prop :=
  (∀ (f : Flight) (s : State), starts f [] s → f.desc.op = 0x10 → f.desc.arg0 = 0 → onLive f s → mirrors s = false →
    ((vget s.loom (descEngine s f.desc)).state = .stopped ∨ (vget s.loom (descEngine s f.desc)).state = .trapped ∨ (vget s.loom (descEngine s
    f.desc)).state = .overrun) → let t := started f.no s;
    exec (.taskCtrlStart) s = .next (answer f.no { result := some ((vget s.loom (descEngine s f.desc)).scan + 1) }
    { setLoom (descEngine s f.desc) (fun e => { e with state := .running, firstDue := true }) t with mir := { s.mir with noCompare := s.mir.noCompare.filter (· ≠ (descEngine s f.desc).val) } })) ∧
  (∀ (f : Flight) (s : State), starts f [] s → f.desc.op = 0x10 → f.desc.arg0 = 1 → onLive f s → mirrors s = false →
    (vget s.loom (descEngine s f.desc)).state = .running → let t := started f.no s;
    exec (.taskCtrlStop) s = .next (stopNow (descEngine s f.desc) (setLoom (descEngine s f.desc) (fun e =>
    { e with stopReq := true, stops := e.stops ++ [f.no] }) t))) ∧
  (∀ (f : Flight) (s : State), starts f [] s → f.desc.op = 0x10 → f.desc.arg0 = 0 → onLive f s → mirrors s = false →
    ((vget s.loom (descEngine s f.desc)).state = .none ∨ (vget s.loom (descEngine s f.desc)).state = .running ∨ (vget s.loom (descEngine s
    f.desc)).state = .fault) → let t := started f.no s;
    exec (.taskCtrlStart) s = .next (answer f.no { result := some ((vget s.loom (descEngine s f.desc)).scan) } t)) ∧
  (∀ (f : Flight) (s : State), starts f [] s → f.desc.op = 0x10 → f.desc.arg0 = 1 → onLive f s → mirrors s = false →
    (vget s.loom (descEngine s f.desc)).state ≠ .running → let t := started f.no s;
    exec (.taskCtrlStop) s = .next (answer f.no { result := some ((vget s.loom (descEngine s f.desc)).scan) } t)) ∧
  (∀ (f : Flight) (s : State), starts f [] s → f.desc.op = 0x10 → f.desc.arg0 = 2 → onLive f s → mirrors s = false → let t := started f.no s;
    exec (.taskCtrlSetMiniv) s = .next (answer f.no { result := some ((vget s.loom (descEngine s f.desc)).scan) } (setLoom (descEngine s f.desc) (fun
    e => { e with miniv := f.desc.arg1 }) t))) ∧
  (∀ (f : Flight) (y : Symbol) (s : State), starts f [] s → f.desc.op = 0x11 → onLive f s → mirrors s = false →
    symbolOf s (descEngine s f.desc) f.desc.arg1 = some y → 1 ≤ y.kind → y.kind ≤ 3 → y.patchable = true →
    (vget s.loom (descEngine s f.desc)).state = .running → let t := started f.no s;
    exec (.patchValue) s = .next (setLoom (descEngine s f.desc) (fun e =>
    { e with patches := e.patches ++ [{ no := f.no, sym := f.desc.arg1, value := BitVec.ofNat 32 f.desc.arg2, mask := BitVec.ofNat 32 f.desc.arg3 }] })
    t)) ∧
  (∀ (f : Flight) (y : Symbol) (s : State), starts f [] s → f.desc.op = 0x11 → onLive f s → mirrors s = false →
    symbolOf s (descEngine s f.desc) f.desc.arg1 = some y → 1 ≤ y.kind → y.kind ≤ 3 → y.patchable = true →
    (vget s.loom (descEngine s f.desc)).state ≠ .running → let t := started f.no s;
    exec (.patchValue) s = .next (answer f.no { result := some ((vget s.loom (descEngine s f.desc)).done) } (patchApply (descEngine s f.desc)
    { no := f.no, sym := f.desc.arg1, value := BitVec.ofNat 32 f.desc.arg2, mask := BitVec.ofNat 32 f.desc.arg3 } t))) ∧
  (∀ (f : Flight) (s : State), starts f [] s → f.desc.op = 0x12 → moverData s = .whole → let t := started f.no s; let u := moverClear t;
    exec (.pointRead) s = .next (answer f.no { result := some (f.desc.arg0) } (emit (.hostWrite f.desc.addr ((List.range f.desc.arg0).flatMap fun i =>
    leBytes 4 (ptRead s (f.desc.arg1 + i)).toNat)) (bobThrough 8 ((List.range f.desc.arg0).flatMap fun i => leBytes 4 (ptRead s (f.desc.arg1 +
    i)).toNat) u)))) ∧
  (∀ (f : Flight) (n : Nat) (s : State), starts f [] s → f.desc.op = 0x12 → moverData s = .empty n → let t := started f.no s; let u := moverClear t;
    let r := bobLate 8 n ((List.range f.desc.arg0).flatMap fun i => leBytes 4 (ptRead s (f.desc.arg1 + i)).toNat) u;
    exec (.pointRead) s = .next (answer f.no { status := stUnderrun, result := none } (emit (.hostWrite f.desc.addr r.2) r.1))) ∧
  (∀ (f : Flight) (s : State), starts f [] s → f.desc.op = 0x12 → moverData s = .parityBad → let t := started f.no s; let u := moverClear t;
    exec (.pointRead) s = .next (answer f.no { status := stPoison, result := none } (bobRefuse 8 ((List.range f.desc.arg0).flatMap fun i => leBytes 4
    (ptRead s (f.desc.arg1 + i)).toNat) (parityFail 15 u)))) ∧
  (∀ (f : Flight) (s : State), starts f [] s → f.desc.op = 0x12 → moverData s = .poisoned → let t := started f.no s; let u := moverClear t;
    exec (.pointRead) s = .next (answer f.no { status := stPoison, result := none } (bobRefuse 8 ((List.range f.desc.arg0).flatMap fun i => leBytes 4
    (ptRead s (f.desc.arg1 + i)).toNat) u))) ∧
  (∀ (f : Flight) (n : Fin 8) (s : State), starts f [] s → f.desc.op = 0x13 → bitOf f.desc.arg0 0 = true → onLive f s → mirrors s = false →
    writerRuns s (descTarget s f.desc) = some n → let t := started f.no s;
    exec (.forceSet) s = .next
    ({ t with hub := { s.hub with wait := s.hub.wait ++ [{ engine := n.val, no := f.no, pt := descTarget s f.desc, set := some (BitVec.ofNat 32 f.desc.arg2) }] } })) ∧
  (∀ (f : Flight) (n : Fin 8) (s : State), starts f [] s → f.desc.op = 0x13 → bitOf f.desc.arg0 0 = false → onLive f s → mirrors s = false →
    writerRuns s (descTarget s f.desc) = some n → let t := started f.no s;
    exec (.forceRelease) s = .next
    ({ t with hub := { s.hub with wait := s.hub.wait ++ [{ engine := n.val, no := f.no, pt := descTarget s f.desc, set := none }] } })) ∧
  (∀ (f : Flight) (s : State), starts f [] s → f.desc.op = 0x13 → bitOf f.desc.arg0 0 = true → onLive f s → mirrors s = false →
    writerRuns s (descTarget s f.desc) = none → let t := started f.no s;
    exec (.forceSet) s = .next (answer f.no { result := some (((pointWriter t (descTarget t f.desc)).map fun n => (vget t.loom n).done).getD 0) }
    (raiseFabric 0x010B 3 (descTarget t f.desc) (publishOne (descTarget t f.desc) (workingValue t (descTarget t f.desc)) (forcePut
    { engine := 0, no := 0, pt := descTarget t f.desc, set := some (BitVec.ofNat 32 f.desc.arg2) } t))))) ∧
  (∀ (f : Flight) (s : State), starts f [] s → f.desc.op = 0x13 → bitOf f.desc.arg0 0 = false → onLive f s → mirrors s = false →
    writerRuns s (descTarget s f.desc) = none → let t := started f.no s;
    exec (.forceRelease) s = .next (answer f.no { result := some (((pointWriter t (descTarget t f.desc)).map fun n => (vget t.loom n).done).getD 0) }
    (raiseFabric 0x010B 3 (descTarget t f.desc) (publishOne (descTarget t f.desc) (workingValue t (descTarget t f.desc)) (forcePut
    { engine := 0, no := 0, pt := descTarget t f.desc, set := none } t)))))

/-- R181, R191, R202, R223, R258, R262, R266, R268, R276: descriptors of loops, field channels and CAN channels: LOOP_CTRL, LOOP_CFG, LOOP_TABLE,
FIELD_CFG, CAN_CFG, CAN_TX, CAN_STATE, CAN_FILTER.

Completes (exec answers the next state written, under hypotheses on the state and the operands alone): loopCfg, loopTable, fieldCfg, canCfg, canTx,
canFilter, loopCtrlEnable, loopCtrlSoftStop, loopCtrlSelectA, loopCtrlSelectB, loopCtrlManual, loopCtrlAuto, canState, canCancel. -/
def Obligations.DescriptorLoopAndFieldCommands : Prop :=
  (∀ (f : Flight) (s : State), starts f [] s → f.desc.op = 0x19 → f.desc.arg0 = 0 → onLive f s → mirrors s = false → let t := started f.no s;
    exec (.loopCtrlEnable) s = .next (answer f.no { result := some ((pcntNext (prismAt s (loopEngine (descLoop s f.desc))).pcnt)) } (slotSendAt
    (descLoop s f.desc) (pcntNext (prismAt s (loopEngine (descLoop s f.desc))).pcnt) (.ctrl 0 (signed 32 f.desc.arg2) (slotNow s (descLoop s f.desc)))
    t))) ∧
  (∀ (f : Flight) (s : State), starts f [] s → f.desc.op = 0x19 → f.desc.arg0 = 1 → onLive f s → mirrors s = false → let t := started f.no s;
    exec (.loopCtrlSoftStop) s = .next (answer f.no { result := some ((pcntNext (prismAt s (loopEngine (descLoop s f.desc))).pcnt)) } (slotSendAt
    (descLoop s f.desc) (pcntNext (prismAt s (loopEngine (descLoop s f.desc))).pcnt) (.ctrl 1 (signed 32 f.desc.arg2) (slotNow s (descLoop s f.desc)))
    t))) ∧
  (∀ (f : Flight) (s : State), starts f [] s → f.desc.op = 0x19 → f.desc.arg0 = 2 → onLive f s → mirrors s = false → let t := started f.no s;
    exec (.loopCtrlSelectA) s = .next (answer f.no { result := some ((pcntNext (prismAt s (loopEngine (descLoop s f.desc))).pcnt)) } (slotSendAt
    (descLoop s f.desc) (pcntNext (prismAt s (loopEngine (descLoop s f.desc))).pcnt) (.ctrl 2 (signed 32 f.desc.arg2) (slotNow s (descLoop s f.desc)))
    t))) ∧
  (∀ (f : Flight) (s : State), starts f [] s → f.desc.op = 0x19 → f.desc.arg0 = 3 → onLive f s → mirrors s = false → let t := started f.no s;
    exec (.loopCtrlSelectB) s = .next (answer f.no { result := some ((pcntNext (prismAt s (loopEngine (descLoop s f.desc))).pcnt)) } (slotSendAt
    (descLoop s f.desc) (pcntNext (prismAt s (loopEngine (descLoop s f.desc))).pcnt) (.ctrl 3 (signed 32 f.desc.arg2) (slotNow s (descLoop s f.desc)))
    t))) ∧
  (∀ (f : Flight) (s : State), starts f [] s → f.desc.op = 0x19 → f.desc.arg0 = 4 → onLive f s → mirrors s = false → let t := started f.no s;
    exec (.loopCtrlManual) s = .next (answer f.no { result := some ((pcntNext (prismAt s (loopEngine (descLoop s f.desc))).pcnt)) } (slotSendAt
    (descLoop s f.desc) (pcntNext (prismAt s (loopEngine (descLoop s f.desc))).pcnt) (.ctrl 4 (signed 32 f.desc.arg2) (slotNow s (descLoop s f.desc)))
    t))) ∧
  (∀ (f : Flight) (s : State), starts f [] s → f.desc.op = 0x19 → f.desc.arg0 = 5 → onLive f s → mirrors s = false → let t := started f.no s;
    exec (.loopCtrlAuto) s = .next (answer f.no { result := some ((pcntNext (prismAt s (loopEngine (descLoop s f.desc))).pcnt)) } (slotSendAt
    (descLoop s f.desc) (pcntNext (prismAt s (loopEngine (descLoop s f.desc))).pcnt) (.ctrl 5 (signed 32 f.desc.arg2) (slotNow s (descLoop s f.desc)))
    t))) ∧
  (∀ (f : Flight) (h : HostData) (s : State), starts f (hostBytes f.desc h) s → f.desc.op = 0x18 → h.mark = .good → onLive f s → mirrors s = false →
    h.onward = .good → let t := taken f (hostBytes f.desc h) s;
    exec (.loopCfg h) s = .next (answer f.no { result := some ((pcntNext (prismAt s (loopEngine (descLoop s f.desc))).pcnt)) } (chanRecord (descIdx
    f.desc) (fun d => { d with block := blockSet (bitOf f.desc.arg0 0) d.block (hostBytes f.desc h) }) (slotSendAt (descLoop s f.desc) (pcntNext
    (prismAt s (loopEngine (descLoop s f.desc))).pcnt) (.cfg (bitOf f.desc.arg0 0) (loopRead (hostBytes f.desc h) 0)) t)))) ∧
  (∀ (f : Flight) (h : HostData) (s : State), starts f (hostBytes f.desc h) s → f.desc.op = 0x1A → h.mark = .good → onLive f s → mirrors s = false →
    h.onward = .good → let t := taken f (hostBytes f.desc h) s;
    exec (.loopTable h) s = .next (answer f.no { result := some (f.desc.arg1 / 2) } (chanRecord (descIdx f.desc) (fun d => if f.desc.arg0 = 1 then
    { d with cog := tableRead (hostBytes f.desc h) } else { d with fric := tableRead (hostBytes f.desc h) }) (slotSendAt (descLoop s f.desc) (pcntNext
    (prismAt s (loopEngine (descLoop s f.desc))).pcnt) (.table (f.desc.arg0 = 1) (tableRead (hostBytes f.desc h))) (setSlotL (descLoop s f.desc) (fun
    x => { x with pend := x.pend.filter fun p => !tableSuperseded (f.desc.arg0 = 1) (pcntNext (prismAt s (loopEngine (descLoop s f.desc))).pcnt) p })
    t))))) ∧
  (∀ (f : Flight) (h : HostData) (s : State), starts f (hostBytes f.desc h) s → f.desc.op = 0x20 → h.mark = .good → onLive f s → mirrors s = false →
    h.onward = .good → let t := taken f (hostBytes f.desc h) s;
    exec (.fieldCfg h) s = .next (answer f.no { result := some (0) } (chanRecord (descIdx f.desc) (fun x => { x with block := (hostBytes f.desc h) })
    (chanReconfig { kind := descKind s f.desc, target := descTarget s f.desc, block := (hostBytes f.desc h) } t)))) ∧
  (∀ (f : Flight) (h : HostData) (s : State), starts f (hostBytes f.desc h) s → f.desc.op = 0x28 → h.mark = .good → onLive f s → mirrors s = false →
    h.onward = .good → let t := taken f (hostBytes f.desc h) s;
    exec (.canCfg h) s = .next (answer f.no { result := some (0) } (chanRecord (descIdx f.desc) (fun x => { x with block := (hostBytes f.desc h) })
    (canApply (descCan s f.desc) (canRead (hostBytes f.desc h)) t)))) ∧
  (∀ (f : Flight) (h : HostData) (fr : List CanFrame) (fit : Nat) (s : State), starts f (hostBytes f.desc h) s → f.desc.op = 0x29 → h.mark = .good →
    onLive f s → ((txFrames f.desc.arg0 (hostBytes f.desc h)).getD []).map (·.2.2) = fr →
    min fr.length (64 - (vget s.can (descCan s f.desc)).tx.length) = fit → crossPois s 18 = false → h.onward = .good →
    let t := taken f (hostBytes f.desc h) s;
    exec (.canTx h) s = .next (answer f.no { status := if fit = fr.length then 0 else 0x0F, result := some fit } (canPush (descCan s f.desc) (fr.take
    fit) t))) ∧
  (∀ (f : Flight) (w : CanSt) (s : State), starts f [] s → f.desc.op = 0x2A → bitOf f.desc.arg0 8 = false → onLive f s → mirrors s = false →
    canStOf (f.desc.arg0 % 16) = some w → let t := started f.no s;
    exec (.canState) s = .next (canRequest (descCan s f.desc) { want := w, no := if f.no = 0 then none else some f.no, cancel := false } t)) ∧
  (∀ (f : Flight) (w : CanSt) (s : State), starts f [] s → f.desc.op = 0x2A → bitOf f.desc.arg0 8 = true → onLive f s → mirrors s = false →
    canStOf (f.desc.arg0 % 16) = some w → let t := started f.no s;
    exec (.canCancel) s = .next (canRequest (descCan s f.desc) { want := w, no := if f.no = 0 then none else some f.no, cancel := true } t)) ∧
  (∀ (f : Flight) (h : HostData) (s : State), starts f (hostBytes f.desc h) s → f.desc.op = 0x2B → h.mark = .good → onLive f s → mirrors s = false →
    h.onward = .good → let t := taken f (hostBytes f.desc h) s;
    exec (.canFilter h) s = .next (answer f.no { result := some (f.desc.arg1 / 24) } (chanRecord (descIdx f.desc) (fun x =>
    { x with filt := (hostBytes f.desc h) }) (filtLoad (descCan s f.desc) (filtTable (hostBytes f.desc h)) t))))

/-- R66, R149, R155, R260, R306, R318, R324, R360, R418, R420, R422, R430: descriptors of streams, recorder, brakes, panel, roles and swaps.

Completes (exec answers the next state written, under hypotheses on the state and the operands alone): recRead, brkCfg, panelFrame, zorosSwap,
streamPost, streamDrop, recFreeze, recFreezeRelease, recClear, brkReqEngage, brkReqRelease, brkReqBrakeTest, mirRoleSyncing, mirRoleActive,
mirRoleStandby. -/
def Obligations.DescriptorServiceCommands : Prop :=
  (∀ (f : Flight) (s : State), starts f [] s → f.desc.op = 0x30 → onLive f s → let t := started f.no s;
    exec (.streamPost) s = .next (when (descTarget s f.desc / 256 = 1) (fun u => canDrain (vget u.can (Fin.ofNat 8 (descTarget s f.desc))).rx.length
    (Fin.ofNat 8 (descTarget s f.desc)) u) (setStream (descIdx f.desc) (fun x =>
    { x with bufs := x.bufs ++ [{ no := f.no, addr := f.desc.addr, len := f.desc.arg1 }] }) t))) ∧
  (∀ (f : Flight) (s : State), starts f [] s → f.desc.op = 0x31 → onLive f s → let t := started f.no s;
    exec (.streamDrop) s = .next (answer f.no { result := some ((mapGetD {} s.shu.streams (descIdx f.desc)).bufs.length) } (streamEnd (descIdx f.desc)
    0x0E t))) ∧
  (∀ (f : Flight) (s : State), starts f [] s → f.desc.op = 0x38 → moverData s = .whole → onLive f s → let t := started f.no s; let u := moverClear t;
    exec (.recRead) s = .next (answer f.no { result := some ((recordsFrom t (f.desc.arg1 / 256) f.desc.arg0).length) } (emit (.hostWrite f.desc.addr
    (recordsFrom t (f.desc.arg1 / 256) f.desc.arg0).flatten) (bobThrough 8 (recordsFrom t (f.desc.arg1 / 256) f.desc.arg0).flatten u)))) ∧
  (∀ (f : Flight) (n : Nat) (s : State), starts f [] s → f.desc.op = 0x38 → moverData s = .empty n → onLive f s → let t := started f.no s;
    let u := moverClear t; let r := bobLate 8 n (recordsFrom t (f.desc.arg1 / 256) f.desc.arg0).flatten u;
    exec (.recRead) s = .next (answer f.no { status := stUnderrun, result := none } (emit (.hostWrite f.desc.addr r.2) r.1))) ∧
  (∀ (f : Flight) (s : State), starts f [] s → f.desc.op = 0x38 → moverData s = .parityBad → onLive f s → let t := started f.no s;
    let u := moverClear t;
    exec (.recRead) s = .next (answer f.no { status := stPoison, result := none } (bobRefuse 8 (recordsFrom t (f.desc.arg1 / 256) f.desc.arg0).flatten
    (parityFail 13 u)))) ∧
  (∀ (f : Flight) (s : State), starts f [] s → f.desc.op = 0x38 → moverData s = .poisoned → onLive f s → let t := started f.no s;
    let u := moverClear t;
    exec (.recRead) s = .next (answer f.no { status := stPoison, result := none } (bobRefuse 8 (recordsFrom t (f.desc.arg1 / 256) f.desc.arg0).flatten
    u))) ∧
  (∀ (f : Flight) (s : State), starts f [] s → f.desc.op = 0x39 → f.desc.arg0 = 1 → onLive f s → let t := started f.no s;
    exec (.recFreeze) s = .next (answer f.no { result := some (freezeTake (descIdx f.desc) t).rcd.floss } (freezeTake (descIdx f.desc) t))) ∧
  (∀ (f : Flight) (s : State), starts f [] s → f.desc.op = 0x39 → f.desc.arg0 = 0 → onLive f s → let t := started f.no s;
    exec (.recFreezeRelease) s = .next (answer f.no { result := some (freezeDrop (descIdx f.desc) t).rcd.floss } (freezeDrop (descIdx f.desc) t))) ∧
  (∀ (f : Flight) (s : State), starts f [] s → f.desc.op = 0x3A → let t := started f.no s;
    exec (.recClear) s = .next (answer f.no { result := some (0) } (recorderClear t))) ∧
  (∀ (f : Flight) (s : State), starts f [] s → f.desc.op = 0x40 → f.desc.arg0 / 16 = 1 → mirrors s = false → let t := started f.no s;
    exec (.brkReqEngage) s = .next (answer f.no { result := some (0) } (brkReqEngage (Fin.ofNat 4 (f.desc.arg0 % 4)) t))) ∧
  (∀ (f : Flight) (s : State), starts f [] s → f.desc.op = 0x40 → f.desc.arg0 / 16 = 2 → mirrors s = false → let t := started f.no s;
    exec (.brkReqRelease) s = .next (answer f.no { result := some (0) } (brkReqRelease (Fin.ofNat 4 (f.desc.arg0 % 4)) t))) ∧
  (∀ (f : Flight) (s : State), starts f [] s → f.desc.op = 0x40 → f.desc.arg0 / 16 = 3 → mirrors s = false → let t := started f.no s;
    exec (.brkReqBrakeTest) s = .next (answer f.no { result := some (0) } (brkReqTest (Fin.ofNat 4 (f.desc.arg0 % 4)) 0 t))) ∧
  (∀ (f : Flight) (h : HostData) (s : State), starts f (hostBytes f.desc h) s → f.desc.op = 0x48 → h.mark = .good → s.pan.host = false →
    h.onward = .good → let t := taken f (hostBytes f.desc h) s;
    exec (.panelFrame h) s = .next (answer f.no {} (completeOpt s.pan.due 0 0 (panLoad
    { t with pan := { s.pan with store := (hostBytes f.desc h), stored := true, due := none } })))) ∧
  (∀ (f : Flight) (h : HostData) (s : State), starts f (hostBytes f.desc h) s → f.desc.op = 0x48 → h.mark = .good → s.pan.host = true →
    h.onward = .good → let t := taken f (hostBytes f.desc h) s;
    exec (.panelFrame h) s = .next ((fun u : State => { u with pan := { u.pan with due := some f.no } }) (completeOpt s.pan.due 0 0 (panLoad
    { t with pan := { s.pan with store := (hostBytes f.desc h), stored := true, due := none } })))) ∧
  (∀ (f : Flight) (s : State), starts f [] s → f.desc.op = 0x50 → f.desc.arg0 = 1 → s.mir.role = .standby → let t := started f.no s;
    exec (.mirRoleSyncing) s = .next (toSyncing s.mir.lastDec (complete f.no 0 1 t))) ∧
  (∀ (f : Flight) (s : State), starts f [] s → f.desc.op = 0x50 → f.desc.arg0 = 1 → s.mir.role = .syncing → let t := started f.no s;
    exec (.mirRoleSyncing) s = .next (syncBegin (complete f.no 0 1 t))) ∧
  (∀ (f : Flight) (s : State), starts f [] s → f.desc.op = 0x50 → f.desc.arg0 = 2 → partnerSilent s = true → let t := started f.no s;
    exec (.mirRoleActive) s = .next (aloneStopped 11 (complete f.no 0 0 t))) ∧
  (∀ (f : Flight) (s : State), starts f [] s → f.desc.op = 0x50 → f.desc.arg0 = 2 → partnerSilent s = false → let t := started f.no s;
    exec (.mirRoleActive) s = .next (sendCmd .request 3 { t with mir := { s.mir with roleNo := some f.no, swo := .requested } })) ∧
  (∀ (f : Flight) (s : State), starts f [] s → f.desc.op = 0x50 → f.desc.arg0 = 3 → let t := started f.no s;
    exec (.mirRoleStandby) s = .next (handOver 3 false { t with mir := { s.mir with roleNo := some f.no } })) ∧
  (∀ (f : Flight) (s : State), starts f [] s → f.desc.op = 0x0A → s.mir.role ≠ .active → let t := started f.no s;
    exec (.zorosSwap) s = .next (swapBegin f.desc.arg2 (setZor (fun z =>
    { z with swapNo := some f.no, swapCrc := f.desc.arg2, ownCrc := none, peerCrc := none, peerScan := 0 }) t))) ∧
  (∀ (f : Flight) (s : State), starts f [] s → f.desc.op = 0x0A → s.mir.role = .active → let t := started f.no s;
    exec (.zorosSwap) s = .next (forwardSend s.mir.fwdseq 0 (ringSecure s f.ring) (descBytes f.desc)
    { setZor (fun z => { z with phase := .prepare, swapNo := some f.no, swapCrc := f.desc.arg2, ownCrc := none, peerCrc := none, peerScan := 0 }) t with mir := { s.mir with fwdseq := (s.mir.fwdseq + 1) % 2 ^ 32 } })) ∧
  (∀ (f : Flight) (h : HostData) (s : State), nextDesc s = some f → hk0Runs s = true → h.mark = .good → f.desc.op = 0x41 →
    refusal s (ringSecure s f.ring) f.desc (some (hostBytes f.desc h)) = some { status := stDenied, result := some 7 } →
    denyReason s (ringSecure s f.ring) f.desc (some (hostBytes f.desc h)) = 7 → f.poison = false → passwordBad s (hostBytes f.desc h) = true ∧
    s.brk.lockUs = 0 ∧ exec (.brkCfg h) s = .next (answer f.no { status := stDenied, result := some 7 } (bobRefuse 10 (hostBytes f.desc h) (brkWrong
    (leAt (hostBytes f.desc h) 2 2) s)))) ∧
  (∀ (f : Flight) (h : HostData) (s : State), starts f (hostBytes f.desc h) s → f.desc.op = 0x41 → bitOf (leAt (hostBytes f.desc h) 1 1) 0 = false →
    h.mark = .good → mirrors s = false → passwordBad s (hostBytes f.desc h) = false → h.onward = .good → let t := taken f (hostBytes f.desc h) s;
    exec (.brkCfg h) s = .next (answer f.no { result := some (crc32n ((hostBytes f.desc h).drop 40)) } (brkCfgApply (Vector.ofFn fun j => brkRead
    (hostBytes f.desc h) j.val) (crc32n ((hostBytes f.desc h).drop 40)) (some ((leAt (hostBytes f.desc h) 2 2), s.brk.crc, 1)) ((fun u : State =>
    { u with brk := { u.brk with raw := (hostBytes f.desc h).drop 40 } }) ({ t with brk := { s.brk with fails := 0 } }))))) ∧
  (∀ (f : Flight) (h : HostData) (s : State), starts f (hostBytes f.desc h) s → f.desc.op = 0x41 → bitOf (leAt (hostBytes f.desc h) 1 1) 0 = true →
    h.mark = .good → mirrors s = false → passwordBad s (hostBytes f.desc h) = false → (crc32n ((hostBytes f.desc h).drop 40)) = s.brk.pcrc →
    h.onward = .good → let t := taken f (hostBytes f.desc h) s;
    exec (.brkCfg h) s = .next (answer f.no { result := some (crc32n ((hostBytes f.desc h).drop 40)) } (brkCfgApply (Vector.ofFn fun j => brkRead
    (hostBytes f.desc h) j.val) (crc32n ((hostBytes f.desc h).drop 40)) s.brk.logDue ((fun u : State =>
    { u with brk := { u.brk with raw := (hostBytes f.desc h).drop 40 } }) (brkLogAdd (leAt (hostBytes f.desc h) 2 2) s.brk.crc s.brk.crc 2 (brkNewPw
    ((pwChars (slice (hostBytes f.desc h) 20 16)).getD []) ({ t with brk := { s.brk with fails := 0 } }))))))) ∧
  (∀ (f : Flight) (h : HostData) (s : State), starts f (hostBytes f.desc h) s → f.desc.op = 0x41 → bitOf (leAt (hostBytes f.desc h) 1 1) 0 = true →
    h.mark = .good → mirrors s = false → passwordBad s (hostBytes f.desc h) = false → (crc32n ((hostBytes f.desc h).drop 40)) ≠ s.brk.pcrc →
    s.brk.ch.toList.any (fun (y : BrkCh) => brkAtOnce y.st) = false → h.onward = .good → let t := taken f (hostBytes f.desc h) s;
    exec (.brkCfg h) s = .next (answer f.no { result := some (crc32n ((hostBytes f.desc h).drop 40)) } (brkCfgApply (Vector.ofFn fun j => brkRead
    (hostBytes f.desc h) j.val) (crc32n ((hostBytes f.desc h).drop 40)) (some ((leAt (hostBytes f.desc h) 2 2), s.brk.crc, 1)) ((fun u : State =>
    { u with brk := { u.brk with raw := (hostBytes f.desc h).drop 40 } }) (brkLogAdd (leAt (hostBytes f.desc h) 2 2) s.brk.crc s.brk.crc 2 (brkNewPw
    ((pwChars (slice (hostBytes f.desc h) 20 16)).getD []) ({ t with brk := { s.brk with fails := 0 } }))))))) ∧
  (∀ (f : Flight) (h : HostData) (s : State), starts f (hostBytes f.desc h) s → f.desc.op = 0x41 → bitOf (leAt (hostBytes f.desc h) 1 1) 0 = true →
    h.mark = .good → mirrors s = false → passwordBad s (hostBytes f.desc h) = false → (crc32n ((hostBytes f.desc h).drop 40)) ≠ s.brk.pcrc →
    s.brk.ch.toList.any (fun (y : BrkCh) => brkAtOnce y.st) = true → h.onward = .good → let t := taken f (hostBytes f.desc h) s;
    exec (.brkCfg h) s = .next (answer f.no { result := some (crc32n ((hostBytes f.desc h).drop 40)) } (brkCfgApply (Vector.ofFn fun j => brkRead
    (hostBytes f.desc h) j.val) (crc32n ((hostBytes f.desc h).drop 40)) (some ((leAt (hostBytes f.desc h) 2 2), s.brk.crc, 3)) ((fun u : State =>
    { u with brk := { u.brk with raw := (hostBytes f.desc h).drop 40 } }) (brkNewPw ((pwChars (slice (hostBytes f.desc h) 20 16)).getD [])
    ({ t with brk := { s.brk with fails := 0 } }))))))

/-- R35, R39, R40, R44, R45, R49, R51: ring pair pages: doorbells, arming, disabling.

Completes (exec answers the next state written, under hypotheses on the state and the operands alone): submissionDoorbell, completionDoorbell,
shuRpArm, shuRpCtrlDisable. -/
def Obligations.RingPageCommands : Prop :=
  (∀ (fn : Func) (r : Fin 64) (v : Word) (s : State), ringOpen fn r s → (vget s.shu.rings r).state = .running →
    v.toNat % 4096 < 2 ^ (vget s.shu.rings r).sqLog2 →
    exec (.submissionDoorbell fn r v) s = .next (setRing r (fun g => { g with sqTail := v.toNat % 4096 }) s)) ∧
  (∀ (fn : Func) (r : Fin 64) (v : Word) (s : State), ringOpen fn r s → (vget s.shu.rings r).state = .running →
    2 ^ (vget s.shu.rings r).sqLog2 ≤ v.toNat % 4096 → exec (.submissionDoorbell fn r v) s = .next (stopRing r 2 s)) ∧
  (∀ (fn : Func) (r : Fin 64) (v : Word) (s : State), ringOpen fn r s → (vget s.shu.rings r).state = .running →
    v.toNat % 4096 < 2 ^ (vget s.shu.rings r).cqLog2 →
    exec (.completionDoorbell fn r v) s = .next (setRing r (fun g =>
    { g with cqHead := v.toNat % 4096, cqUsed := g.cqUsed - (v.toNat % 4096 + 2 ^ (vget s.shu.rings r).cqLog2 - g.cqHead) % 2 ^ (vget s.shu.rings r).cqLog2 })
    s)) ∧
  (∀ (fn : Func) (r : Fin 64) (v : Word) (s : State), ringOpen fn r s → (vget s.shu.rings r).state = .running →
    2 ^ (vget s.shu.rings r).cqLog2 ≤ v.toNat % 4096 → exec (.completionDoorbell fn r v) s = .next (stopRing r 2 s)) ∧
  (∀ (fn : Func) (r : Fin 64) (v : Word) (s : State), ringOpen fn r s → s.shu.ready = true →
    ((vget s.shu.rings r).state = .disabled ∨ (vget s.shu.rings r).state = .halted ∨ ((vget s.shu.rings r).state = .stopped ∧ inflight s r = 0)) →
    v.toNat = epoch s → ringSound (vget s.shu.rings r) = true →
    exec (.shuRpArm fn r v) s = .next (setRing r (fun g =>
    { g with state := .running, fault := false, sqTail := 0, sqHead := 0, cqHead := 0, cqTail := 0, cqUsed := 0, phase := true }) s)) ∧
  (∀ (fn : Func) (r : Fin 64) (v : Word) (s : State), ringOpen fn r s → s.shu.ready = true →
    ((vget s.shu.rings r).state = .disabled ∨ (vget s.shu.rings r).state = .halted ∨ ((vget s.shu.rings r).state = .stopped ∧ inflight s r = 0)) →
    v.toNat ≠ epoch s → exec (.shuRpArm fn r v) s = .next (setRing r (fun g => { g with fault := true, cause := 5 }) s)) ∧
  (∀ (fn : Func) (r : Fin 64) (v : Word) (s : State), ringOpen fn r s → s.shu.ready = true →
    ((vget s.shu.rings r).state = .disabled ∨ (vget s.shu.rings r).state = .halted ∨ ((vget s.shu.rings r).state = .stopped ∧ inflight s r = 0)) →
    v.toNat = epoch s → ringSound (vget s.shu.rings r) = false →
    exec (.shuRpArm fn r v) s = .next (setRing r (fun g => { g with fault := true, cause := 1 }) s)) ∧
  (∀ (fn : Func) (r : Fin 64) (s : State), ringOpen fn r s → exec (.shuRpCtrlDisable fn r) s = .next (disableRing r s)) ∧
  (∀ (r : Fin 64) (v : Word) (s : State), linkOn s = true → ringSecure s r = true →
    exec (.submissionDoorbell .f0 r v) s = .next (raise 0x0B03 4 r.val s))

/-- R43, R46, R48, R49, R52, R53: ring pairs and host memory: descriptor fetch, completion write, interrupt moderation, host memory errors.

Completes (exec answers the next state written, under hypotheses on the state and the operands alone): descriptorFetch, ringHostMemoryError,
completionWrite, irqModerationExpiry. -/
def Obligations.RingTrafficCommands : Prop :=
  (∀ (l : List Fetched) (r : Fin 64) (s : State), linkOn s = true → hkOn s = true → ringNext s = some r →
    let b := l.take (min 8 (ringAvail (vget s.shu.rings r))); let t := b.foldl (takeDesc r) s;
    exec (.descriptorFetch l) s = .next (setRing r (fun g => { g with sqHead := (g.sqHead + b.length) % 2 ^ g.sqLog2 })
    { t with shu := { t.shu with lastRing := r } })) ∧
  (∀ (r : Fin 64) (w : Bool) (s : State), linkOn s = true → (vget s.shu.rings r).state = .running →
    exec (.ringHostMemoryError r w) s = .next (stopRing r (if w then 4 else 3) s)) ∧
  (∀ (r : Fin 64) (c : Completion) (l : List Completion) (s : State), linkOn s = true → (vget s.shu.rings r).waiting = c :: l →
    (vget s.shu.rings r).cqUsed < 2 ^ (vget s.shu.rings r).cqLog2 → ∃ t, exec (.completionWrite r) s = .next t ∧
    Output.completion r ((vget s.shu.rings r).cqBase + 16 * (vget s.shu.rings r).cqTail) (completionBytes s (vget s.shu.rings r) c) ∈ t.out ∧
    (vget t.shu.rings r).waiting = l ∧ (vget t.shu.rings r).cqTail = ((vget s.shu.rings r).cqTail + 1) % 2 ^ (vget s.shu.rings r).cqLog2 ∧
    (vget t.shu.rings r).cqUsed = (vget s.shu.rings r).cqUsed + 1 ∧ (∀ f ∈ t.shu.flights, f.no ≠ c.no)) ∧
  (∀ (r : Fin 64) (s : State), linkOn s = true → (vget s.shu.rings r).modRun = true → (vget s.shu.rings r).modPend = true →
    exec (.irqModerationExpiry r) s = .next (msix (ringFn s r) r.val (setRing r (fun g => { g with modPend := false }) s))) ∧
  (∀ (r : Fin 64) (s : State), linkOn s = true → (vget s.shu.rings r).modRun = true → (vget s.shu.rings r).modPend = false →
    exec (.irqModerationExpiry r) s = .next (setRing r (fun g => { g with modRun := false }) s))

/-- R34, R38, R44: A function-level reset disables the ring pairs of its function and discards their descriptors.

Completes (exec answers the next state written, under hypotheses on the state and the operands alone): functionLevelReset. -/
def Obligations.FunctionLevelReset : Prop :=
  ∀ (fn : Func) (s : State), linkOn s = true → ∃ t, exec (.functionLevelReset fn) s = .next t ∧ (∀ r, ringFn s r = fn →
    (vget t.shu.rings r).state = .disabled ∧ ∀ f ∈ t.shu.flights, f.ring ≠ r) ∧ (∀ r, ringFn s r ≠ fn → vget t.shu.rings r = vget s.shu.rings r ∧
    ∀ f ∈ s.shu.flights, f.ring = r → f ∈ t.shu.flights) ∧ (fn = .f1 → t.shu.sess.state ≠ .open)

/-- R36, R37, R38, R59: the secure session: OPEN, response, check, CLOSE and lock.

Completes (exec answers the next state written, under hypotheses on the state and the operands alone): sessionOpen, sessionClose, sessionResponse,
hostReadTimeout, sessionCheckEnd, sessionLockEnd. -/
def Obligations.SessionCommands : Prop :=
  (∀ (fn : Func) (s : State), reaches fn 0x820 s → s.sec.keySet = true → s.shu.sess.state ≠ .locked → s.shu.sess.checking = false →
    ∃ t, exec (.sessionOpen fn) s = .next t ∧ t.shu.sess.state = .challenged ∧ t.shu.sess.lastFail = false ∧
    t.shu.sess.nonce = Config.random128 (sessEnd s).free) ∧
  (∀ (fn : Func) (v : Word) (s : State), reaches fn 0x85C s → s.shu.sess.state = .challenged → s.shu.sess.checking = false →
    exec (.sessionResponse fn v) s = .next (setSess (fun x => { x with resp := setWord256 x.resp 7 v, checking := true }) s)) ∧
  (∀ (s : State), hkOn s = true → s.shu.sess.checking = true → bvBytes 32 s.shu.sess.resp = sessAnswer s s.shu.sess.nonce s.shu.sess.count [] →
    exec .sessionCheckEnd s = .next (setSess (fun x => { x with checking := false, count := (x.count + 1) % 65536, state := .open, fails := 0 }) s)) ∧
  (∀ (s : State), hkOn s = true → s.shu.sess.checking = true → bvBytes 32 s.shu.sess.resp ≠ sessAnswer s s.shu.sess.nonce s.shu.sess.count [] →
    s.shu.sess.fails < 2 →
    exec .sessionCheckEnd s = .next (raise 0x0B01 4 0 (setSess (fun x =>
    { x with checking := false, count := (x.count + 1) % 65536, state := .idle, lastFail := true, fails := x.fails + 1 }) s))) ∧
  (∀ (s : State), hkOn s = true → s.shu.sess.checking = true → bvBytes 32 s.shu.sess.resp ≠ sessAnswer s s.shu.sess.nonce s.shu.sess.count [] →
    2 ≤ s.shu.sess.fails →
    exec .sessionCheckEnd s = .next (raise 0x0B02 5 0 (setSess (fun x => { x with state := .locked, lockUs := sessLockUs }) (raise 0x0B01 4 0 (setSess
    (fun x => { x with checking := false, count := (x.count + 1) % 65536, state := .idle, lastFail := true, fails := x.fails + 1 }) s))))) ∧
  (∀ (fn : Func) (s : State), reaches fn 0x820 s → s.shu.sess.state = .challenged → s.shu.sess.checking = false →
    exec (.sessionClose fn) s = .next (setSess (fun x => { x with state := .idle }) s)) ∧
  (∀ (fn : Func) (s : State), reaches fn 0x820 s → s.shu.sess.state = .open → exec (.sessionClose fn) s = .next (sessEnd s) ∧
    (sessEnd s).shu.sess.state = .idle) ∧
  (∀ (s : State), s.shu.sess.state = .locked →
    exec .sessionLockEnd s = .next (setSess (fun x => { x with state := .idle, fails := 0, lockUs := 0 }) s)) ∧
  (∀ (f : Flight) (s : State), nextDesc s = some f → 0 < dataLen f.desc → hk0Runs s = true → refusal s (ringSecure s f.ring) f.desc none = none →
    exec .hostReadTimeout s = .next (aerNote (ringFn s f.ring) 14 (answer f.no { status := 0x08, result := none } s)))

/-- R89, R107, R108, R110, R112, R114, R118, R124, R127, R349, R454: scans: Weft latch, arrival of the fresh Weft, budget, stopped timers, engine fault.

Completes (exec answers the next state written, under hypotheses on the state and the operands alone): weftLatch, freshWeftArrival, publish,
budgetExhausted, stoppedTimerEvaluation, engineFault. -/
def Obligations.ScanCommands : Prop :=
  (∀ (n : Fin 8) (s : State), loomUp s n = true → drives s = true → (vget s.loom n).state = .running → (vget s.loom n).mode = .idle →
    (vget s.loom n).gather = none → latchHeld s n = false →
    ((vget s.loom n).firstDue = true ∨ (vget s.loom n).fresh1 = true ∨ (vget s.loom n).scan = 0 ∨ (vget s.loom n).miniv ≤ (loomTime s - (vget s.loom
    n).ts).toNat) → ∃ t, exec (.weftLatch n) s = .next t ∧ (vget t.loom n).scan = (vget s.loom n).scan + 1 ∧ (vget t.loom n).ts = loomTime s ∧
    (vget t.loom n).first = (vget s.loom n).firstDue ∧ (vget t.loom n).gather.isSome = true ∧ (vget t.loom n).picks = [] ∧
    (vget t.loom n).firstDue = false ∧ (vget t.loom n).run.data = (vget t.loom n).com ∧ (vget t.loom n).run.jrn = []) ∧
  (∀ (n : Fin 8) (s : State), loomUp s n = true → drives s = true → (vget s.loom n).state = .running → (vget s.loom n).mode = .idle →
    (vget s.loom n).gather = none → latchHeld s n = false → (vget s.loom n).firstDue = false → (vget s.loom n).fresh1 = false →
    (vget s.loom n).scan ≠ 0 → (loomTime s - (vget s.loom n).ts).toNat < (vget s.loom n).miniv →
    exec (.weftLatch n) s = .next (setLoom n (fun e => { e with mwait := true }) s)) ∧
  (∀ (n : Fin 8) (w : SMap Word) (s : State), loomUp s n = true → (vget s.loom n).gather = some w → (vget s.loom n).commit = none →
    (vget s.loom n).mode = .wait → (vget s.loom n).picks = [] →
    exec (.freshWeftArrival n) s = .next (setLoom n (fun e => { e with weft := w, mode := .settled, run := scanStart e }) (drainHub (setLoom n (fun e
    => { e with gather := none, freshIn := true }) s)))) ∧
  (∀ (n : Fin 8) (w : SMap Word) (s : State), loomUp s n = true → (vget s.loom n).gather = some w → (vget s.loom n).commit = none →
    ((vget s.loom n).mode = .ahead ∨ ((vget s.loom n).mode = .wait ∧ (vget s.loom n).picks ≠ [])) →
    exec (.freshWeftArrival n) s = .next (checkWeft n w (drainHub (setLoom n (fun e => { e with gather := none, freshIn := true }) s)))) ∧
  (∀ (n : Fin 8) (s : State), loomOn s n = true → (vget s.loom n).state = .running → budgetOf (vget s.loom n) ≤ (vget s.loom n).run.count →
    (vget s.loom n).mode = .settled → exec (.budgetExhausted n) s = .next (budgetOut n (vget s.loom n).run.pick s)) ∧
  (∀ (n : Fin 8) (s : State), loomOn s n = true → (vget s.loom n).state = .running → budgetOf (vget s.loom n) ≤ (vget s.loom n).run.count →
    (vget s.loom n).mode = .ahead →
    exec (.budgetExhausted n) s = .next (setLoom n (fun e => { e with mode := .wait, picks := logLast e.picks fun p => { p with budget := true } })
    s)) ∧
  (∀ (n : Fin 8) (s : State), loomOn s n = true →
    ((vget s.loom n).state = .stopped ∨ (vget s.loom n).state = .trapped ∨ (vget s.loom n).state = .overrun) →
    exec (.stoppedTimerEvaluation n) s = .next (setLoom n (fun e =>
    { e with com := { e.com with timers := e.com.timers.map fun p => (p.1, timerNow (loomTime s) p.2) } }) s)) ∧
  (∀ (n : Fin 8) (k : Fin 5) (s : State), loomOn s n = true → k ≠ 0 → (vget s.loom n).state ≠ .fault → ∃ t, exec (.engineFault n k) s = .next t ∧
    (vget t.loom n).flt = k.val ∧ (vget t.loom n).state = .fault ∧ (vget t.loom n).mode = .idle ∧ mapGet t.pwr.reinit n.val = some 1000) ∧
  (∀ (n : Fin 8) (k : Commit) (s : State), loomOn s n = true → fabricOn s = true → (vget s.loom n).commit = some k → s.mir.swo ≠ .oldWait →
    (forwards s && latchQueued s n.val k.scan) = false → let a := swapFrozen (publishScan n k s);
    exec (.publish n) s = .next (latchNext n (when (a.mir.syncDue.contains n.val && (vget a.loom n).mode = .idle && (vget a.loom n).gather.isNone)
    (syncSent n.val (taskRow a n)) a))) ∧
  (∀ (n : Fin 8) (k : Commit) (s : State), loomOn s n = true → fabricOn s = true → (vget s.loom n).commit = some k → s.mir.swo ≠ .oldWait →
    (forwards s && latchQueued s n.val k.scan) = true → k.waited = false →
    exec (.publish n) s = .next (setLoom n (fun e => { e with commit := some { k with waited := true } }) (setMir (fun m =>
    { m with wait := holdInc 0xFFFF m.wait }) s))) ∧
  (∀ (n : Fin 8) (k : Commit) (s : State), mirPresent s = false → (vget s.loom n).stopReq = false → (vget s.loom n).teardown = false →
    (vget s.loom n).stopScan = none → let e := vget (publishScan n k s).loom n; e.done = k.scan ∧ e.commit = none ∧ e.fbLast = k.fell ∧
    e.state = (vget s.loom n).state ∧ e.com = (vget s.loom n).com)

/-- R24, R60, R62, R66, R71, R377: point updates, and the ends that descriptors wait for.

Completes (exec answers the next state written, under hypotheses on the state and the operands alone): teardownEnd, streamBufferTimeout,
mirrorAckTimeout, pointUpdate. -/
def Obligations.HubAndChannelCommands : Prop :=
  (∀ (i : Fin 16384) (v : Word) (s : State), fabricOn s = true → gathering s = false → crossPois s (delivererGroup s i.val) = false →
    (pointDef s i.val).kind ≠ 0 → exec (.pointUpdate i v .good) s = .next (hubApply i.val (fitPoint (pointDef s i.val) v) s)) ∧
  (∀ (i : Fin 16384) (v : Word) (s : State), fabricOn s = true → gathering s = true → s.hub.buf.length < 256 →
    crossPois s (delivererGroup s i.val) = false → (pointDef s i.val).kind ≠ 0 →
    exec (.pointUpdate i v .good) s = .next { s with hub := { s.hub with buf := s.hub.buf ++ [(i.val, fitPoint (pointDef s i.val) v)] } }) ∧
  (∀ (i : Fin 16384) (v : Word) (s : State), fabricOn s = true → gathering s = true → 256 ≤ s.hub.buf.length →
    crossPois s (delivererGroup s i.val) = false → (pointDef s i.val).kind ≠ 0 →
    exec (.pointUpdate i v .good) s = .next { s with hub := { s.hub with held := s.hub.held ++ [(i.val, fitPoint (pointDef s i.val) v)] } }) ∧
  (∀ (i : Fin 16384) (v : Word) (s : State), fabricOn s = true → crossPois s (delivererGroup s i.val) = false →
    exec (.pointUpdate i v .poisoned) s = .next { s with hed := { s.hed with ptPoison := s.hed.ptPoison + 1 } }) ∧
  (∀ (i : Fin 16384) (v : Word) (s : State), fabricOn s = true → crossPois s (delivererGroup s i.val) = false →
    let t := parityFail (delivererGroup s i.val) s;
    exec (.pointUpdate i v .parityBad) s = .next { t with hed := { t.hed with ptPoison := t.hed.ptPoison + 1 } }) ∧
  (∀ (i : Fin 16384) (v : Word) (k : Mark) (s : State), fabricOn s = true → crossPois s (delivererGroup s i.val) = true →
    exec (.pointUpdate i v k) s = .next { s with hed := { s.hed with discard := holdInc 0xFFFF s.hed.discard } }) ∧
  (∀ (x : Fin 8192) (e : HEntry) (s : State), handleEnt s x.val = some e → e.st = .destroying → tornDown s e = true →
    exec (.teardownEnd x) s = .next (waitRun (setHandle x.val { e with st := .free } (chanGone x.val e s)))) ∧
  (∀ (x : Fin 8192) (b : PostedBuf) (l : List PostedBuf) (s : State), hkOn s = true → (mapGetD {} s.shu.streams x.val).bufs = b :: l → 0 < b.used →
    exec (.streamBufferTimeout x) s = .next (complete b.no stOk b.used (setStream x.val (fun x => { x with bufs := l }) s))) ∧
  (∀ (q : Word) (w : FwdDesc) (s : State), hkOn s = true → s.mir.fwdWait.find? (fun x => x.fwdseq = q.toNat) = some w →
    exec (.mirrorAckTimeout q) s = .next (applyForwarded w false none s))

/-- R101, R102, R104: A trap abandons the scan, records where, and touches no other task. -/
def Obligations.TrapTaken : Prop :=
  ∀ (n : Fin 8) (p : Nat) (h : HeldTrap) (s : State), ∃ u, trapTaken n p h s = raise 0x0101 6 h.cause u ∧ (∀ m, m ≠ n →
    vget u.loom m = vget s.loom m) ∧ let e := vget u.loom n; e.state = (if (vget s.loom n).teardown then .none else .trapped) ∧ e.trapV = true ∧
    e.trapCause = h.cause ∧ e.trapPick = p ∧ e.trapPc = h.pc ∧ e.lastAbn = 1 ∧ e.mode = .idle ∧ e.gather = none ∧ e.commit = none ∧ e.picks = [] ∧
    e.run = {} ∧ e.done = (vget s.loom n).done

/-- R163, R165, R166, R167, R169, R181, R183, R350: the Prism frame: period start, sample instant, source return, compute window, output instant, engine
fault.

Completes (exec answers the next state written, under hypotheses on the state and the operands alone): prismPeriodStart, sampleInstant, sourceReturn,
computeWindow, outputInstant, prismEngineFault. -/
def Obligations.PrismFrameCommands : Prop :=
  (∀ (n : Fin 4) (s : State), prismRuns s n = true → (prismAt s n).offAt = none → ∃ t, exec (.prismPeriodStart n) s = .next t ∧
    (prismAt t n).pcnt = (prismAt s n).pcnt + 1 ∧ (prismAt t n).slots = (prismAt s n).slots) ∧
  (∀ (n : Fin 4) (q : Nat) (s : State), prismRuns s n = true → (prismAt s n).offAt = some q → q ≤ (prismAt s n).pcnt + 1 →
    ∃ t, exec (.prismPeriodStart n) s = .next t ∧ ∀ i, (vget (prismAt t n).slots i).run = .disabled) ∧
  (∀ (l : Fin 256) (s : State), prismRuns s (loopEngine l) = true → (loopSlot l).val < (prismAt s (loopEngine l)).nslot →
    (vget (prismAt s (loopEngine l)).slots (loopSlot l)).live = true →
    (vget (prismAt s (loopEngine l)).slots (loopSlot l)).sampled ≠ some (prismAt s (loopEngine l)).pcnt →
    (vget (prismAt s (loopEngine l)).slots (loopSlot l)).tearAt = none →
    (vget (prismAt s (loopEngine l)).slots (loopSlot l)).comps.any (·.tear) = false →
    let due := ((vget (prismAt s (loopEngine l)).slots (loopSlot l)).pend.filter fun q => pcntLe q.eff (prismAt s (loopEngine l)).pcnt).map (·.cmd);
    let srcs := slotSources (slotAhead (vget (prismAt s (loopEngine l)).slots (loopSlot l)) due);
    exec (.sampleInstant l) s = .next (setSlotL l (fun x =>
    { x with sampled := some (prismAt s (loopEngine l)).pcnt, pend := x.pend.filter fun q => !pcntLe q.eff (prismAt s (loopEngine l)).pcnt, comps := x.comps ++ [{ pc := (prismAt s (loopEngine l)).pcnt, cmds := due, srcs := srcs, pts := srcs.map (pointSample s), encs := srcs.map (encNow s) }] })
    s)) ∧
  (∀ (l : Fin 256) (j : Fin 5) (c : Capture) (k : Comp) (v : Int) (s : State), prismRuns s (loopEngine l) = true → follows s = false →
    c.mark = .good → c.held = false →
    (slotGet s l).comps.find? (fun k => !k.done && k.pc % 2 ^ 32 = c.pcnt.toNat && (vget k.got j).isNone && srcNamed (vget k.srcs j)) = some k →
    returnPois s (loopEngine l) (vget k.srcs j) = false →
    captureValue s (vget k.srcs j) (vget k.pts j) (vget k.encs j) (vget (slotGet s l).fwdV j) c = some v →
    exec (.sourceReturn l j c) s = .next (setSlotL l (fun x =>
    { x with comps := x.comps.map fun q => if q.pc = k.pc && !q.done then { q with got := vset q.got j (some v), fwd := vset q.fwd j (captureFwd s (vget k.srcs j) (vget (slotGet s l).fwdV j)) } else q })
    (bobCarry ⟨(loopEngine l).val, by omega⟩ (leBytesInt 4 v) c.full s).1)) ∧
  (∀ (l : Fin 256) (j : Fin 5) (c : Capture) (k : Comp) (s : State), prismRuns s (loopEngine l) = true → follows s = false → c.mark = .poisoned →
    c.held = false → (slotGet s l).comps.find? (fun k => !k.done && k.pc % 2 ^ 32 = c.pcnt.toNat && (vget k.got j).isNone && srcNamed (vget k.srcs j))
    = some k → returnPois s (loopEngine l) (vget k.srcs j) = false →
    exec (.sourceReturn l j c) s = .next (bobCarry ⟨(loopEngine l).val, by omega⟩ (leBytesInt 4 c.value) c.full s).1) ∧
  (∀ (l : Fin 256) (k : Comp) (s : State), prismRuns s (loopEngine l) = true → follows s = false → forwards s = false →
    (slotGet s l).comps.find? (fun k => !k.done && !k.tear) = some k → k.cmds = [] → (slotGet s l).run ≠ .disabled →
    let o := ownValues k (slotGet s l);
    exec (.computeWindow l) s = .next (if (vget o.2.2.2.fwdV 3).isSome then windowRun l k o.1 o.2.1 o.2.2.1 (Config.open32 s.free).toInt o.2.2.2
    (drawn s) else windowRun l k o.1 o.2.1 o.2.2.1 (vget o.2.2.2.last 3) o.2.2.2 s)) ∧
  (∀ (l : Fin 256) (k : Comp) (s : State), prismRuns s (loopEngine l) = true → (slotGet s l).comps.find? (fun k => !k.done && !k.tear) = some k →
    k.cmds = [] → (slotGet s l).run = .disabled →
    exec (.computeWindow l) s = .next (setSlotL l (fun x => tearClose
    { x with comps := x.comps.map fun q => if q.pc = k.pc && !q.done then { q with done := true, tripPt := (selSet x).tripPt, trip := if x.tripOn then some false else none } else q, pc := k.pc, sat := false, lim := false, stale := false, fe := false, tripOn := false, staleRun := Vector.replicate 5 0 })
    s)) ∧
  (∀ (l : Fin 256) (k : Comp) (r : List Comp) (w : SinkWord) (s : State), prismRuns s (loopEngine l) = true → (slotGet s l).comps = k :: r →
    k.done = true → k.active = true → k.tear = false →
    exec (.outputInstant l w) s = .next (prismSign (loopEngine l) k.pc (setPrism (loopEngine l) (fun p =>
    { p with sigOut := p.sigOut ++ [(k.pc, (loopSlot l).val, k.run, k.u)] }) (compOut l k w.mark w.full (setSlotL l (fun x =>
    { x with comps := r, outU := k.u, live := x.live }) s))))) ∧
  (∀ (l : Fin 256) (k : Comp) (r : List Comp) (w : SinkWord) (s : State), prismRuns s (loopEngine l) = true → (slotGet s l).comps = k :: r →
    k.done = true → k.active = false →
    exec (.outputInstant l w) s = .next (prismSign (loopEngine l) k.pc (compTrip k (setSlotL l (fun x =>
    { x with comps := r, outU := x.outU, live := x.live && !k.tear }) s)))) ∧
  (∀ (n : Fin 4) (k : Fin 5) (s : State), prismRuns s n = true → k ≠ 0 → ∃ t, exec (.prismEngineFault n k) s = .next t ∧
    (prismAt t n).state = .fault ∧ (prismAt t n).fcause = k.val ∧ (∀ i, (vget (prismAt t n).slots i).comps = []) ∧
    mapGet t.pwr.reinit (8 + n.val) = some 1000)

/-- R198: A soft stop moves the output to FAIL_OUT and disables the slot there. -/
def Obligations.PrismSoftStop : Prop :=
  (∀ (m : Int) (x : Slot), x.run ≠ .disabled → (slotCtrl 1 m x.run x).run = .stopping) ∧
  (∀ (l : Law) (lost : Bool) (x : Slot), x.run = .stopping → let c := selSet x; let uPrev := if x.hasRun then x.uPrev else c.failOut;
    let y := (lawStep l lost x).slot; (0 < c.rampStop → y.u = uPrev + max (-c.rampStop) (min (c.failOut - uPrev) c.rampStop) ∧
    (y.u - c.failOut).natAbs = (uPrev - c.failOut).natAbs - c.rampStop.toNat) ∧ (c.rampStop = 0 → y.u = c.failOut) ∧ y.uPrev = y.u ∧ y.r = l.y ∧
    y.d = 0 ∧ y.run = (if y.u = c.failOut then .disabled else .stopping) ∧
    y.i = max (-(2 ^ 62)) (min (y.u * 2 ^ 31 - (accSum ((frontQ c l l.y).2.1.val :: ffTerms c l l.y)).val) (2 ^ 62 - 1)))

/-- R172, R173, R187, R201: A driven slot keeps its output within the limits or the slew, and a trip sets it by its action. -/
def Obligations.PrismDrivenOutput : Prop :=
  ∀ (l : Law) (lost : Bool) (x : Slot), (x.run = .starting ∨ x.run = .running) → x.hand = false → x.ho = false → (selSet x).umin ≤ (selSet x).umax →
    let c := selSet x; let uPrev := if x.hasRun then x.uPrev else c.failOut; let z := lawStep l lost x; z.slot.uPrev = z.slot.u ∧ z.slot.y = l.y ∧
    -(2 ^ 62) ≤ z.slot.i ∧ z.slot.i < 2 ^ 62 ∧ (z.trip = false → (c.slew = 0 → c.umin ≤ z.slot.u ∧ z.slot.u ≤ c.umax) ∧ (0 < c.slew →
    uPrev - c.slew ≤ z.slot.u ∧ z.slot.u ≤ uPrev + c.slew)) ∧ (z.trip = true → z.slot.run = .tripped ∧ z.slot.act = c.trip ∧ (c.trip = 0 →
    z.slot.u = uPrev) ∧ (c.trip = 1 → z.slot.u = towards uPrev 0 c.rampStop) ∧ (c.trip = 2 → z.slot.u = c.failOut))

/-- R280, R281, R282, R290, R298: the Ethernet switch: frames, queues, links, ageing, ARP.

Completes (exec answers the next state written, under hypotheses on the state and the operands alone): ethFrameIngress, linkUp, linkDown,
addressAgeing, arpRequest. -/
def Obligations.EthernetSwitchCommands : Prop :=
  (∀ (p : Fin 2) (f : EthFrame) (s : State), switched p f s → ethBytes (vget s.eth.ports (otherPort p)) + f.len ≤ 65536 → ethHigh f = true →
    exec (.ethFrameIngress p f) s = .next (setPort (otherPort p) (fun k =>
    { k with high := k.high ++ [{ frame := f, from_ := p, ingress := clockNs s.tim.res - f.age }] }) (setEth (ethLearn p f.src) (internalTake p f
    s)))) ∧
  (∀ (p : Fin 2) (f : EthFrame) (s : State), switched p f s → ethBytes (vget s.eth.ports (otherPort p)) + f.len ≤ 65536 → ethHigh f = false →
    exec (.ethFrameIngress p f) s = .next (setPort (otherPort p) (fun k =>
    { k with low := k.low ++ [{ frame := f, from_ := p, ingress := clockNs s.tim.res - f.age }] }) (setEth (ethLearn p f.src) (internalTake p f s)))) ∧
  (∀ (p : Fin 2) (f : EthFrame) (s : State), switched p f s → 65536 < ethBytes (vget s.eth.ports (otherPort p)) + f.len →
    exec (.ethFrameIngress p f) s = .next (setPort (otherPort p) (fun k => { k with qdrop := holdInc 0xFFFF k.qdrop }) (setEth (ethLearn p f.src)
    (internalTake p f s)))) ∧
  (∀ (p : Fin 2) (f : EthFrame) (s : State), ethLink s p = true → f.badFcs = false → 64 ≤ f.len → f.len ≤ 1522 → s.eth.swmode = false →
    ethForwards (ethLearn p f.src s.eth) p f = false → exec (.ethFrameIngress p f) s = .next (setEth (ethLearn p f.src) (internalTake p f s))) ∧
  (∀ (p : Fin 2) (f : EthFrame) (s : State), ethLink s p = true → f.badFcs = false → 64 ≤ f.len → f.len ≤ 1522 → s.eth.swmode = true →
    exec (.ethFrameIngress p f) s = .next (internalTake p f s)) ∧
  (∀ (p : Fin 2) (f : EthFrame) (s : State), ethLink s p = true → (f.badFcs = true ∨ f.len < 64 ∨ 1522 < f.len) →
    exec (.ethFrameIngress p f) s = .next (setPort p (fun k => { k with errN := holdInc 0xFFFF k.errN }) s)) ∧
  (∀ (p : Fin 2) (f : EthFrame) (m : PtpMsg) (s : State), f.content = .ptp m → m.kind = .sync →
    internalVia s.eth { transport := m.transport, multicast := f.multicast, dst := m.dst } = true →
    internalTake p f s = setTim (fun t =>
    { t with rx := (t.rx.filter fun r => !(r.port = p && r.domain = m.domain && r.source = m.source)) ++ [{ port := p, domain := m.domain, source := m.source, seqId := m.seqId, t2 := stampAgo t f.age, corr := m.correction }] })
    s) ∧
  (∀ (p : Fin 2) (f : EthFrame) (s : State), (∀ m, f.content = .ptp m → m.kind ≠ .sync) → internalTake p f s = s) ∧
  (∀ (q : Fin 2) (w : EthWait) (r : List EthWait) (s : State), ethLink s q = true → (vget s.eth.ports q).speed = 2 → (vget s.eth.ports q).left = 0 →
    (vget s.eth.ports q).high = w :: r →
    ethTick q s = ethSend q 2 1000 (ethLeave q w (max w.ingress (clockNs s.tim.res - 1000)) (setPort q (fun k =>
    { k with high := r, left := (w.frame.len + 20) * 8 }) s))) ∧
  (∀ (q : Fin 2) (w : EthWait) (r : List EthWait) (s : State), ethLink s q = true → (vget s.eth.ports q).speed = 2 → (vget s.eth.ports q).left = 0 →
    (vget s.eth.ports q).high = [] → (vget s.eth.ports q).low = w :: r →
    ethTick q s = ethSend q 2 1000 (ethLeave q w (max w.ingress (clockNs s.tim.res - 1000)) (setPort q (fun k =>
    { k with low := r, left := (w.frame.len + 20) * 8 }) s))) ∧
  (∀ (p : Fin 2) (g : Bool) (s : State), ethOn s = true → s.eth.portEn.testBit p.val = true → (g || s.eth.allow100) = true →
    (vget s.eth.ports p).speed = 0 →
    exec (.linkUp p g) s = .next (raise 0x0602 2 p.val (setPort p (fun k => { k with speed := if g then 2 else 1 }) s))) ∧
  (∀ (p : Fin 2) (s : State), ethOn s = true → (vget s.eth.ports p).speed ≠ 0 →
    exec (.linkDown p) s = .next (raise 0x0601 4 p.val (setPort p (fun k => { k with speed := 0, high := [], low := [], left := 0 }) s))) ∧
  (∀ (a : BitVec 48) (s : State), ethOn s = true →
    exec (.addressAgeing a) s = .next (setEth (fun e => { e with learned := e.learned.filter (·.1 ≠ a) }) s)) ∧
  (∀ (p : Fin 2) (t : Word) (a : BitVec 48) (s : State), ethLink s p = true → t = s.eth.ipv4 →
    exec (.arpRequest p t a) s = .next (emit (.arpReply p a s.eth.mac s.eth.ipv4) s))

/-- R285: A frame that leaves is corrected; the table of pending two-step Syncs corrects their Follow_Ups.

Completes (exec answers the next state written, under hypotheses on the state and the operands alone): twoStepEntryExpiry. -/
def Obligations.TwoStepTable : Prop :=
  (∀ (q : Fin 2) (w : EthWait) (m : PtpMsg) (e : TwoStep) (g : Nat) (s : State), w.frame.content = .ptp m → s.eth.tcEn = true → m.transport ≠ .udp6 →
    m.kind = .followUp → (vget s.eth.ports w.from_).pending.find? (sameKey m) = some e →
    ethLeave q w g s = emit (.ethFrame q { w.frame with content := .ptp { m with correction := min (2 ^ 63 - 1) (m.correction + e.res * 65536) } })
    (setPort w.from_ (fun k => { k with pending := k.pending.filter fun x => !sameKey m x }) s)) ∧
  (∀ (q : Fin 2) (w : EthWait) (m : PtpMsg) (g : Nat) (s : State), w.frame.content = .ptp m → s.eth.tcEn = true → m.transport ≠ .udp6 →
    m.kind = .followUp → (vget s.eth.ports w.from_).pending.find? (sameKey m) = none →
    ethLeave q w g s = emit (.ethFrame q w.frame) (raise 0x0607 2 w.from_.val (setEth (fun e => { e with unmatched := holdInc 0xFFFF e.unmatched })
    s))) ∧
  (∀ (q : Fin 2) (w : EthWait) (m : PtpMsg) (g : Nat) (s : State), w.frame.content = .ptp m → s.eth.tcEn = true → m.transport ≠ .udp6 →
    m.kind = .sync → m.twoStep = true → ((vget s.eth.ports w.from_).pending.filter fun x => !sameKey m x).length < 32 →
    ethLeave q w g s = emit (.ethFrame q w.frame) (setPort w.from_ (fun k =>
    { k with pending := ((vget s.eth.ports w.from_).pending.filter fun x => !sameKey m x) ++ [{ source := m.source, domain := m.domain, seqId := m.seqId, res := g - w.ingress }] })
    (setEth (resNote (g - w.ingress)) s))) ∧
  (∀ (q : Fin 2) (w : EthWait) (m : PtpMsg) (g : Nat) (s : State), w.frame.content = .ptp m → s.eth.tcEn = true → m.transport ≠ .udp6 →
    m.kind = .sync → m.twoStep = true → 32 ≤ ((vget s.eth.ports w.from_).pending.filter fun x => !sameKey m x).length →
    ethLeave q w g s = emit (.ethFrame q w.frame) (setEth (resNote (g - w.ingress)) s)) ∧
  (∀ (q : Fin 2) (w : EthWait) (m : PtpMsg) (g : Nat) (s : State), w.frame.content = .ptp m → s.eth.tcEn = true → m.transport ≠ .udp6 →
    ((m.kind = .sync ∧ m.twoStep = false) ∨ m.kind = .delayReq) →
    ethLeave q w g s = emit (.ethFrame q
    { w.frame with content := .ptp { m with correction := min (2 ^ 63 - 1) (m.correction + (g - w.ingress : Nat) * 65536), udpSum := if m.transport = .udp4 then 0 else m.udpSum } })
    (setEth (resNote (g - w.ingress)) s)) ∧
  (∀ (q : Fin 2) (w : EthWait) (m : PtpMsg) (g : Nat) (s : State), w.frame.content = .ptp m → s.eth.tcEn = false →
    ethLeave q w g s = emit (.ethFrame q w.frame) s) ∧
  (∀ (p : Fin 2) (a : BitVec 80) (d : Nat) (q : BitVec 16) (s : State), ethOn s = true →
    exec (.twoStepEntryExpiry p a d q) s = .next (setPort p (fun k =>
    { k with pending := k.pending.filter fun x => !(x.source = a && x.domain = d && x.seqId = q) }) s))

/-- R291, R292, R293, R295, R298, R300: vessel time: master selection, Sync, Delay_Req and Delay_Resp, holdover, followers.

Completes (exec answers the next state written, under hypotheses on the state and the operands alone): announceReceived, syncReceived,
delayRespReceived, delayReqSend, holdover, holdoverExpiry, followerUpdate. -/
def Obligations.TimeCommands : Prop :=
  (∀ (p : Fin 2) (a : Announce) (s : State), ethLink s p = true → internalVia s.eth a.via = true → ptpAccepts s.tim a.via.transport a.domain = true →
    (bestMaster ((s.tim.masters.filter fun m => !(m.port = p && m.ann.source = a.source)) ++ [{ port := p, ann := a }])).map (·.ann.gmId) = some
    s.tim.gmid → let l := (s.tim.masters.filter fun m => !(m.port = p && m.ann.source = a.source)) ++ [{ port := p, ann := a }];
    ∃ t, exec (.announceReceived p a) s = .next t ∧ t.tim.masters = l ∧ t.tim.master = bestMaster l ∧ t.tim.utcV = a.utcValid ∧
    t.tim.utcOfs = a.utcOffset ∧ t.tim.gmid = s.tim.gmid ∧ t.tim.servo = s.tim.servo ∧ t.rcd = s.rcd) ∧
  (∀ (p : Fin 2) (a : Announce) (g : BitVec 64) (s : State), ethLink s p = true → internalVia s.eth a.via = true →
    ptpAccepts s.tim a.via.transport a.domain = true →
    (bestMaster ((s.tim.masters.filter fun m => !(m.port = p && m.ann.source = a.source)) ++ [{ port := p, ann := a }])).map (·.ann.gmId) = some g →
    g ≠ s.tim.gmid → let l := (s.tim.masters.filter fun m => !(m.port = p && m.ann.source = a.source)) ++ [{ port := p, ann := a }];
    ∃ u, exec (.announceReceived p a) s = .next (raise 0x0606 3 (timPort u) u) ∧ u.tim.masters = l ∧ u.tim.master = bestMaster l ∧
    u.tim.utcV = a.utcValid ∧ u.tim.utcOfs = a.utcOffset ∧ u.tim.gmid = g ∧ u.tim.run16 = 0 ∧ (s.tim.auto = true → s.tim.servo = .locked →
    u.tim.servo = .acquiring)) ∧
  (∀ (p : Fin 2) (m : SyncMsg) (r : RxStamp) (s : State), ethLink s p = true → internalVia s.eth m.via = true →
    ptpAccepts s.tim m.via.transport m.domain = true → fromMaster s p m.source = true →
    s.tim.rx.find? (fun r => r.port = p && r.domain = m.domain && r.source = m.source && r.seqId = m.seqId) = some r → s.tim.auto = true →
    hkOn s = true → exec (.syncReceived p m) s = .next (servoSync (syncSpan r m) m.interval (setTim (fun t => { t with sync := some (syncSpan r m) })
    s))) ∧
  (∀ (p : Fin 2) (m : SyncMsg) (r : RxStamp) (s : State), ethLink s p = true → internalVia s.eth m.via = true →
    ptpAccepts s.tim m.via.transport m.domain = true → fromMaster s p m.source = true →
    s.tim.rx.find? (fun r => r.port = p && r.domain = m.domain && r.source = m.source && r.seqId = m.seqId) = some r → s.tim.auto = false →
    exec (.syncReceived p m) s = .next (setTim (fun t => { t with sync := some (syncSpan r m) }) s)) ∧
  (∀ (p : Fin 2) (r : DelayRespHdr) (t4 corr logInterval : Int) (b : Rat) (t3 : Int) (s : State), ethLink s p = true →
    internalVia s.eth r.via = true → ptpAccepts s.tim r.via.transport r.domain = true → fromMaster s p r.source = true → r.mine = true →
    r.seqId = s.tim.reqSeq → s.tim.sync = some b → s.tim.t3 = some t3 → s.tim.auto = true →
    let d : Rat := (b + ((t4 - t3 : Int) - (corr : Rat) / 65536)) / 2; let l := (s.tim.ds ++ [d]).drop ((s.tim.ds ++ [d]).length - 16);
    exec (.delayRespReceived p r t4 corr logInterval) s = .next (setTim (fun t =>
    { t with reqInt := logInterval, t3 := none, ds := l, mpd := meanOf l }) s)) ∧
  (∀ (ns : Fin 1000) (m : Master) (s : State), s.tim.master = some m → ethLink s m.port = true →
    exec (.delayReqSend ns) s = .next (emit (.delayReq m.port (s.tim.reqSeq + 1)) (setTim (fun t =>
    { t with t3 := some (stampAgo s.tim 0 + ns.val), reqSeq := s.tim.reqSeq + 1 }) s))) ∧
  (∀ (s : State), ethOn s = true → hkOn s = true → s.tim.auto = true → s.tim.servo = .locked →
    exec .holdover s = .next (raise 0x0604 4 (timPort s) (setTim (fun t => { t with servo := .holdover, addend := addendOf t.i, run16 := 0 }) s))) ∧
  (∀ (s : State), ethOn s = true → hkOn s = true → s.tim.auto = true → s.tim.servo = .holdover →
    exec .holdoverExpiry s = .next (raise 0x0608 5 (timPort s) (setTim (fun t => { t with servo := .freerun, run16 := 0 }) s))) ∧
  (∀ (s : State), ethOn s = true → let f : Follower →
        Follower := fun g =>
    { clk := s.tim.clk, addend := s.tim.addend, hist := if (clockNs s.tim.clk : Int) - clockNs g.clk = 0 then g.hist else g.hist ++ [(0, (clockNs s.tim.clk : Int) - clockNs g.clk)] };
    exec .followerUpdate s = .next (setTim (fun t =>
    { t with field := if fieldOn s then f t.field else t.field, can := if canOn s then f t.can else t.can, hk := if hkOn s then f t.hk else t.hk, fabric := if fabricOn s then f t.fabric else t.fabric })
    s))

/-- R288, R289, R292, R293: the servo holds TIM_ADDEND within 500 ppm, steps beyond the threshold, and locks after 16 Syncs within 1 us. -/
def Obligations.ServoLaw : Prop :=
  ∀ (span : Rat) (interval : Nat) (s : State), let off := span - s.tim.mpd; let t := servoSync span interval s; t.tim.offs = sat32 (roundRat off) ∧
    (-17179869 ≤ s.tim.addend ∧ s.tim.addend ≤ 17179869 → -17179869 ≤ t.tim.addend ∧ t.tim.addend ≤ 17179869) ∧
    (|off| > (s.tim.stepThr * 1000 : Nat) → t.tim.servo = .acquiring ∧ t.tim.run16 = 0 ∧ t.tim.i = s.tim.i ∧ t.tim.addend = s.tim.addend ∧
    t.tim.clk = clockAdd (-(roundRat off)) s.tim.clk) ∧ (|off| ≤ (s.tim.stepThr * 1000 : Nat) → t.tim.clk = s.tim.clk ∧
    t.tim.i = s.tim.i - off * ((interval : Rat) / 128) / (4 * (s.tim.tau : Rat) * s.tim.tau) ∧ t.tim.addend = addendOf (t.tim.i - off / s.tim.tau) ∧
    (t.tim.servo = .locked ↔ s.tim.servo = .locked ∨ (|off| < 1000 ∧ 15 ≤ s.tim.run16)))

/-- R311, R312, R313, R314, R315, R316, R318, R325, R330: brake test slots and the pulse time-outs; the brake test: position reads and its end, and the
password lock.

Completes (exec answers the next state written, under hypotheses on the state and the operands alone): testSlot, offPulseTimeout, onPulseTimeout,
fwCheckTimeout, brakeTestPositionRead, brakeTestEnd, passwordLockEnd. -/
def Obligations.BrakePulseCommands : Prop :=
  (∀ (c : Fin 4) (s : State), brkLive s = true → (brkCh s c).st = .applied → s.brk.disc = false → (brkCh s c).pulse = .none →
    ((brkCh s c).onSkip && !(brkCh s c).retest) = false →
    exec (.testSlot c) s = .next (brkReport c (setBrk c (fun x => { x with pulse := .on, hs := true, ls := true, fw := false, onSkip := true }) s))) ∧
  (∀ (c : Fin 4) (s : State), brkLive s = true → (brkCh s c).st = .applied → s.brk.disc = false → (brkCh s c).pulse = .none →
    (brkCh s c).onSkip = true → (brkCh s c).retest = false →
    exec (.testSlot c) s = .next (brkReport c (setBrk c (fun x => { x with onSkip := false }) s))) ∧
  (∀ (c : Fin 4) (s : State), brkLive s = true → (brkCh s c).st = .released → holdsField s = true → (brkCh s c).pulse = .none →
    (brkCh s c).offLsNext = false → exec (.testSlot c) s = .next (brkReport c (setBrk c (fun x => { x with pulse := .offHs, hs := false }) s))) ∧
  (∀ (c : Fin 4) (s : State), brkLive s = true → (brkCh s c).st = .released → holdsField s = true → (brkCh s c).pulse = .none →
    (brkCh s c).offLsNext = true → exec (.testSlot c) s = .next (brkReport c (setBrk c (fun x => { x with pulse := .offLs, ls := false }) s))) ∧
  (∀ (c : Fin 4) (s : State), brkLive s = true → (brkCh s c).st = .fault → brkFaultPulses (brkCh s c) = true → s.brk.disc = false →
    (brkCh s c).pulse = .none → ((brkCh s c).onSkip && !(brkCh s c).retest) = false →
    exec (.testSlot c) s = .next (brkReport c (setBrk c (fun x => { x with pulse := .on, hs := true, ls := true, fw := false, onSkip := true }) s))) ∧
  (∀ (c : Fin 4) (s : State), brkLive s = true →
    ((brkCh s c).st = .nocfg ∨ (brkCh s c).st = .releasing ∨ (brkCh s c).st = .engaging ∨ (brkCh s c).st = .test) →
    exec (.testSlot c) s = .next (brkReport c (setBrk c (fun x => { x with skipN := holdInc 0xFFFF x.skipN }) s))) ∧
  (∀ (c : Fin 4) (s : State), brkLive s = true → (brkCh s c).pulse = .offHs → exec (.offPulseTimeout c) s = .next (brkPulseFail c 1 s)) ∧
  (∀ (c : Fin 4) (s : State), brkLive s = true → (brkCh s c).pulse = .offLs → exec (.offPulseTimeout c) s = .next (brkPulseFail c 2 s)) ∧
  (∀ (c : Fin 4) (s : State), brkLive s = true → (brkCh s c).pulse = .on → exec (.onPulseTimeout c) s = .next (brkPulseFail c 3 s)) ∧
  (∀ (c : Fin 4) (s : State), brkLive s = true → (brkCh s c).fwCheck = true → exec (.fwCheckTimeout c) s = .next (brkPulseFail c 4 s)) ∧
  (∀ (c : Fin 4) (s : State), brkLive s = true → drives s = true → (brkCh s c).testRun = true → (brkCh s c).st = .test →
    encPosValid (vget s.enc (brkCh s c).cfg.encPort) = true →
    posDist (vget s.enc (brkCh s c).cfg.encPort).pos.toInt (brkCh s c).testP0 ≤ (brkCh s c).cfg.win →
    exec (.brakeTestPositionRead c) s = .next (setBrk c (fun x =>
    { x with maxDev := max x.maxDev (min 0xFFFF (posDist (vget s.enc (brkCh s c).cfg.encPort).pos.toInt (brkCh s c).testP0)) }) s)) ∧
  (∀ (c : Fin 4) (s : State), brkLive s = true → drives s = true → (brkCh s c).testRun = true → (brkCh s c).st = .test →
    encPosValid (vget s.enc (brkCh s c).cfg.encPort) = true →
    (brkCh s c).cfg.win < posDist (vget s.enc (brkCh s c).cfg.encPort).pos.toInt (brkCh s c).testP0 →
    exec (.brakeTestPositionRead c) s = .next (brkTestFail c 5 (setBrk c (fun x =>
    { x with maxDev := max x.maxDev (min 0xFFFF (posDist (vget s.enc (brkCh s c).cfg.encPort).pos.toInt (brkCh s c).testP0)) }) s))) ∧
  (∀ (c : Fin 4) (s : State), brkLive s = true → drives s = true → (brkCh s c).testRun = true → (brkCh s c).st = .test →
    encPosValid (vget s.enc (brkCh s c).cfg.encPort) = false → exec (.brakeTestPositionRead c) s = .next (brkTestFail c 5 s)) ∧
  (∀ (c : Fin 4) (s : State), brkLive s = true → drives s = true → (brkCh s c).testRun = true → (brkCh s c).st = .test →
    exec (.brakeTestEnd c) s = .next (brkTestEnd c 1 s)) ∧
  (∀ (s : State), 0 < s.brk.lockUs → exec .passwordLockEnd s = .next { s with brk := { s.brk with lockUs := 0, fails := 0 } })

/-- R305, R309, R310, R315, R317, R329, R454: brake supervision: pick-up, feedback, hold, engage, request time-out, lasting conditions, watchdog.

Completes (exec answers the next state written, under hypotheses on the state and the operands alone): tPickExpiry, fbRelTimeout, fbAppTimeout,
holdExpiry, engageFail, reqTmoExpiry, brakeFault, brakeSupplyWarning, bmpWatchdog. -/
def Obligations.BrakeSupervisionCommands : Prop :=
  (∀ (c : Fin 4) (s : State), brkLive s = true → (brkCh s c).st = .releasing → exec (.tPickExpiry c) s = .next (brkFault1 c 7 s)) ∧
  (∀ (c : Fin 4) (s : State), brkLive s = true → ((brkCh s c).st = .releasing ∨ (brkCh s c).st = .released) → (brkCh s c).fbSeen = false →
    exec (.fbRelTimeout c) s = .next (brkFault1 c 8 s)) ∧
  (∀ (c : Fin 4) (s : State), brkLive s = true → holdsField s = true → ((brkCh s c).st = .applied ∨ (brkCh s c).st = .engaging) →
    (brkCh s c).fbSeen = false → exec (.fbAppTimeout c) s = .next (brkFault1 c 9 s)) ∧
  (∀ (c : Fin 4) (s : State), brkLive s = true → s.mir.decided = true → (brkCh s c).hold = true →
    exec (.holdExpiry c) s = .next (brkReport c (brkTryRelease c (setBrk c (fun x => { x with hold := false }) s)))) ∧
  (∀ (c : Fin 4) (s : State), brkLive s = true → ((brkCh s c).st = .engaging ∨ (brkCh s c).st = .fault) → (brkCh s c).cfg.iDrop ≤ brkCur (brkCh s c) →
    exec (.engageFail c) s = .next (brkFault c 11 (0x0702, 7, c.val) (brkDisc s))) ∧
  (∀ (c : Fin 4) (s : State), brkLive s = true → (brkCh s c).cfg.reqSym ≠ 0 → (brkCh s c).tmoOut = false → (brkCh s c).loomOk = true →
    exec (.reqTmoExpiry c) s = .next (raiseField 0x0705 4 c.val (setBrk c (fun x => { x with loomOk := false, loomVal := false, tmoOut := true }) s))) ∧
  (∀ (c : Fin 4) (l : Bool) (s : State), brkLive s = true → (l || (brkCh s c).ocNow) = true →
    exec (.brakeFault (.overcur c l)) s = .next (brkFault1 c 5 s)) ∧
  (∀ (c : Fin 4) (s : State), brkLive s = true → (brkCh s c).st = .released → (brkCh s c).fb = false →
    exec (.brakeFault (.fbRelLost c)) s = .next (brkFault1 c 8 s)) ∧
  (∀ (c : Fin 4) (s : State), brkLive s = true → holdsField s = true → (brkCh s c).st = .applied → (brkCh s c).fb = true →
    exec (.brakeFault (.fbAppLost c)) s = .next (brkFault1 c 9 s)) ∧
  (∀ (c : Fin 4) (s : State), brkLive s = true → (brkCh s c).st = .released → brkCur (brkCh s c) < (brkCh s c).cfg.iDrop →
    exec (.brakeFault (.nocur c)) s = .next (brkFault1 c 6 s)) ∧
  (∀ (c : Fin 4) (s : State), brkLive s = true → (brkCh s c).nodeBad = true → exec (.brakeFault (.node c)) s = .next (brkFault1 c 10 s)) ∧
  (∀ (s : State), brkLive s = true → s.brk.supLow = true → exec (.brakeFault .supply) s = .next (foldFin 4 (fun t c => brkFault1 c 12 t) s)) ∧
  (∀ (c : Fin 4) (s : State), brkLive s = true → (brkCh s c).rbNow = true → exec (.brakeFault (.readback c)) s = .next (brkFault1 c 14 s)) ∧
  (∀ (s : State), brkLive s = true → exec (.brakeFault .bmp) s = .next (foldFin 4 (fun t c => brkFault1 c 15 t) (brkDisc s))) ∧
  (∀ (mv : Nat) (s : State), brkLive s = true → mv < 19200 → s.brk.warn = false →
    exec (.brakeSupplyWarning mv) s = .next (raiseField 0x0706 5 (mv / 10 : Nat)
    { s with brk := { s.brk with warn := true, vsup := mv, vmin := min s.brk.vmin mv } })) ∧
  (∀ (s : State), pdOn s 11 = true → 0 < brkCount s →
    exec .bmpWatchdog s = .next (stepThree 7 22 (setPwr (fun p => { p with late := p.late ++ [(0x0A06, 6, 22)] }) (foldFin 4 (fun t c => brkReport c
    (setBrk c (fun x => brkOpen (brkDiscard x)) t)) (brkDisc s)))))

/-- R303, R304, R308, R310, R315, R316, R320: the BMP tick: an engage demand opens the switches at once, and only a module that holds the field closes
them; A brake fault opens the channel and latches its cause, and touches no other channel.

Completes (exec answers the next state written, under hypotheses on the state and the operands alone): bmpTick. -/
def Obligations.BrakeTick : Prop :=
  (∀ (m : BmpInputs) (s : State), bmpOn s = true → 0 < brkCount s →
    exec (.bmpTick m) s = .next (foldFin 4 (fun t c => brkTickCh m.vsup (vget m.ch c) c t)
    { s with brk := { s.brk with vsup := m.vsup, vmin := min s.brk.vmin m.vsup, supTicks := if 18000 < m.vsup then min 10000 (s.brk.supTicks + 1) else 0, supLow := decide (m.vsup < 16000), warn := s.brk.warn && decide (m.vsup < 19200) } })) ∧
  (∀ (v : Nat) (m : BrkMeas) (c : Fin 4) (s : State), holdsField s = true → ((brkCh s c).st = .releasing ∨ (brkCh s c).st = .released) →
    brkDemand (brkCh s c) = false → (brkCh s c).testWait = false → let x := brkCh (brkTickCh v m c s) c; x.st = .engaging ∧ x.hs = false ∧
    x.ls = false ∧ x.fw = false ∧ x.pulse = .none) ∧
  (∀ (v : Nat) (m : BrkMeas) (c : Fin 4) (s : State), holdsField s = false → ((brkCh s c).pulse = .none ∨ (brkCh s c).pulse = .on) →
    let x := brkCh (brkTickCh v m c s) c; (x.hs → (brkCh s c).hs) ∧ (x.ls → (brkCh s c).ls) ∧ (x.fw → (brkCh s c).fw) ∧ x.st = (brkCh s c).st) ∧
  (∀ (c : Fin 4) (k : Nat) (ev : Nat × Nat × Int) (s : State), (brkCh s c).st ≠ .nocfg → (brkCh s c).fcause = 0 → let t := brkFault c k ev s;
    let x := brkCh t c;
    x.st = (if holdsField s && k ≠ 11 && ((brkCh s c).st = .releasing || (brkCh s c).st = .released || (brkCh s c).st = .engaging) then .engaging else
    .fault) ∧ x.fcause = k ∧ x.hs = false ∧ x.ls = false ∧ x.fw = false ∧ x.pulse = .none ∧ x.fwCheck = false ∧ ∀ d, d ≠ c → brkCh t d = brkCh s d) ∧
  (∀ (c : Fin 4) (s : State), (brkCh s c).st = .engaging → (brkCh s c).iHs < (brkCh s c).cfg.iDrop → (brkCh s c).iLs < (brkCh s c).cfg.iDrop →
    (brkCh s c).fcause ≠ 0 → let x := brkCh (brkAdvance c s) c; x.st = .fault ∧ x.fcause = (brkCh s c).fcause ∧
    x.tEng = min 0xFFFF (10 * ((brkCh s c).engTicks + 1)))

/-- R320, R333, R336, R337, R339, R340, R341, R347, R355: the Mirror link: role decision, blocks sent, lanes, eyes, alive lines, heartbeats, brake blocks,
silent loss.

Completes (exec answers the next state written, under hypotheses on the state and the operands alone): heartbeat, brake, laneUp, laneDown,
eyeOpeningLow, roleDecision, heartbeatSend, aliveRefresh, aliveLineDrop, silentLoss, commandRepeat, partnerAliveLineHigh. -/
def Obligations.MirrorLinkCommands : Prop :=
  (∀ (s : State), hkOn s = true → s.pwr.phase = .start → s.pwr.loaded = true → s.mir.decided = false → mirPresent s = true → s.mir.pheard = false →
    s.mir.palive = true → ∃ t, exec .roleDecision s = .next t ∧ t.mir.decided = true ∧ t.mir.role = .syncing ∧ t.mir.detached = true ∧
    t.shu.ready = true ∧ t.pwr.phase = .run) ∧
  (∀ (s : State), hkOn s = true → s.pwr.phase = .start → s.pwr.loaded = true → s.mir.decided = false → mirPresent s = true → s.mir.pheard = true →
    (s.mir.prole = 0 ∨ s.mir.prole = 2 ∨ s.side.slot ≠ 0) → s.mir.joinEn = false → ∃ t, exec .roleDecision s = .next t ∧ t.mir.decided = true ∧
    t.mir.role = .syncing ∧ t.mir.detached = false ∧ t.shu.ready = true ∧ t.pwr.phase = .run) ∧
  (∀ (s : State), hkOn s = true → s.pwr.phase = .start → s.pwr.loaded = true → s.mir.decided = false → (mirPresent s = false ∨ (s.mir.pheard = true ∧
    s.mir.prole ≠ 0 ∧ s.mir.prole ≠ 2 ∧ s.side.slot = 0) ∨ (s.mir.pheard = false ∧ s.mir.palive = false)) →
    let a := vector64 { (setMir (fun m => { m with role := .alone, decided := true, detached := false }) (setPwr (fun p => { p with phase := .run }) s)) with shu := { s.shu with ready := true } };
    let b := when (drives a) autoStart a; exec .roleDecision s = .next (when (syncMayBegin b) syncBegin b)) ∧
  (∀ (s : State), meRuns s = true → s.pwr.pfw = false → s.side.resetN = true →
    exec .heartbeatSend s = .next (foldFin 2 (fun t l => let t2 := setMir (fun m =>
        { m with lanes := vmod m.lanes l fun x => { x with hbseq := (x.hbseq + 1) % 65536 } }) (emit (.block l (heartbeatBlock t l)) t);
    when (t2.mir.decided && t2.mir.role = .active) (emit (.block l (brakeBlock t2))) t2) s)) ∧
  (∀ (s : State), meRuns s = true → s.pwr.pfw = false → s.side.resetN = true → s.pwr.phase ≠ .halt → (s.mir.healthy = true ∨ s.mir.role ≠ .syncing) →
    exec .aliveRefresh s = .next (setMir (fun m => { m with oalive := true, aliveUs := 0 }) s)) ∧
  (∀ (s : State), meRuns s = true →
    exec .commandRepeat s = .next (setMir (fun m => { m with cmds := (m.cmds.map fun c => { c with sent := c.sent + 1 }).filter fun c => c.sent < 8 })
    (s.mir.cmds.foldl (fun t c => bothLanes (cmdBlock c.code c.arg c.seq) t) s))) ∧
  (∀ (s : State), meRuns s = true →
    exec .aliveLineDrop s = .next (judge s.mir.palive (setMir (fun m =>
    { m with palive := false, lossUs := none, lowUs := if m.palive then 5 else m.lowUs }) s))) ∧
  (∀ (s : State), meRuns s = true → exec .partnerAliveLineHigh s = .next (setMir (fun m => { m with palive := true, lowUs := 0 }) s)) ∧
  (∀ (l : Fin 2) (s : State), meRuns s = true → (vget s.mir.lanes l).hb = true → (vget s.mir.lanes l).up = false → s.mir.detached = false →
    exec (.laneUp l) s = .next (raise 0x0802 2 l.val (setMir (fun m =>
    { m with lossUs := none, lanes := vmod m.lanes l fun x => { x with lock := true, up := true } }) s))) ∧
  (∀ (l : Fin 2) (s : State), meRuns s = true → (vget s.mir.lanes l).hb = true → (vget s.mir.lanes l).up = false → s.mir.detached = true →
    exec (.laneUp l) s = .next (linkWhole (raise 0x0802 2 l.val (setMir (fun m =>
    { m with lossUs := none, lanes := vmod m.lanes l fun x => { x with lock := true, up := true } }) s)))) ∧
  (∀ (l : Fin 2) (s : State), meRuns s = true → (vget s.mir.lanes l).up = true →
    lanesLost (setMir (fun m => { m with lanes := vmod m.lanes l fun x => { x with up := false, lock := false, hb := false } }) s) = false →
    exec (.laneDown l .lockLost) s = .next (judge false (raise 0x0801 4 l.val (setMir (fun m =>
    { m with lanes := vmod m.lanes l fun x => { x with up := false, lock := false, hb := false } }) s)))) ∧
  (∀ (l : Fin 2) (s : State), meRuns s = true → (vget s.mir.lanes l).up = true →
    lanesLost (setMir (fun m => { m with lanes := vmod m.lanes l fun x => { x with up := false, crcN := holdAdd 0xFFFF x.crcN 16 } }) s) = false →
    exec (.laneDown l .headerErrors) s = .next (judge false (raise 0x0801 4 l.val (setMir (fun m =>
    { m with lanes := vmod m.lanes l fun x => { x with up := false, crcN := holdAdd 0xFFFF x.crcN 16 } }) s)))) ∧
  (∀ (l : Fin 2) (s : State), meRuns s = true → (vget s.mir.lanes l).up = true →
    lanesLost (setMir (fun m =>
    { m with lanes := vmod m.lanes l fun x => { x with up := false, hb := false, hbMiss := holdAdd 0xFFFF x.hbMiss (missLeft x), gapUs := max 51 x.gapUs } })
    s) = false → exec (.laneDown l .noHeartbeat) s = .next (judge false (raise 0x0801 4 l.val (setMir (fun m =>
    { m with lanes := vmod m.lanes l fun x => { x with up := false, hb := false, hbMiss := holdAdd 0xFFFF x.hbMiss (missLeft x), gapUs := max 51 x.gapUs } })
    s)))) ∧
  (∀ (l : Fin 2) (s : State), meRuns s = true → (vget s.mir.lanes l).up = true →
    lanesLost (setMir (fun m => { m with lanes := vmod m.lanes l fun x => { x with up := false, lock := false, hb := false } }) s) = true →
    exec (.laneDown l .lockLost) s = .next (judge false (setMir (fun m => { m with pheard := false, fseqIn := none, peerCmds := [], plife := none })
    (raise 0x0801 4 l.val (setMir (fun m => { m with lanes := vmod m.lanes l fun x => { x with up := false, lock := false, hb := false } }) s))))) ∧
  (∀ (l : Fin 2) (s : State), meRuns s = true → (vget s.mir.lanes l).up = true →
    lanesLost (setMir (fun m => { m with lanes := vmod m.lanes l fun x => { x with up := false, crcN := holdAdd 0xFFFF x.crcN 16 } }) s) = true →
    exec (.laneDown l .headerErrors) s = .next (judge false (setMir (fun m =>
    { m with pheard := false, fseqIn := none, peerCmds := [], plife := none }) (raise 0x0801 4 l.val (setMir (fun m =>
    { m with lanes := vmod m.lanes l fun x => { x with up := false, crcN := holdAdd 0xFFFF x.crcN 16 } }) s))))) ∧
  (∀ (l : Fin 2) (s : State), meRuns s = true → (vget s.mir.lanes l).up = true →
    lanesLost (setMir (fun m =>
    { m with lanes := vmod m.lanes l fun x => { x with up := false, hb := false, hbMiss := holdAdd 0xFFFF x.hbMiss (missLeft x), gapUs := max 51 x.gapUs } })
    s) = true → exec (.laneDown l .noHeartbeat) s = .next (judge false (setMir (fun m =>
    { m with pheard := false, fseqIn := none, peerCmds := [], plife := none }) (raise 0x0801 4 l.val (setMir (fun m =>
    { m with lanes := vmod m.lanes l fun x => { x with up := false, hb := false, hbMiss := holdAdd 0xFFFF x.hbMiss (missLeft x), gapUs := max 51 x.gapUs } })
    s))))) ∧
  (∀ (l : Fin 2) (h v : Byte) (s : State), meRuns s = true → (h.toNat < 64 ∨ v.toNat < 10) →
    exec (.eyeOpeningLow l h v) s = .next (raise 0x080E 3 l.val (setMir (fun m =>
    { m with lanes := vmod m.lanes l fun x => { x with eyeH := h.toNat, eyeV := v.toNat } }) s))) ∧
  (∀ (h : Heartbeat) (s : State), meRuns s = true → h.crcOk = true → h.laneBit = h.lane → s.mir.decided = true → s.pwr.phase = .run →
    h.detached = s.mir.pdet → s.mir.role = .standby →
    exec (.heartbeat h) s = .next (setMir (fun m =>
    { m with lanes := vmod m.lanes h.lane fun x => { x with hb := true, lock := true, gapUs := 0 }, prole := hbCode h.role, phealthy := h.healthy, pslot := h.slot.val, pheard := true, peerSyncph := h.syncph.val, pdet := h.detached, hbUs := 0, peerCmds := if h.role = .starting then [] else m.peerCmds, plife := if h.role = .starting then none else m.plife })
    s)) ∧
  (∀ (h : Heartbeat) (s : State), meRuns s = true → h.crcOk = true → h.laneBit = h.lane → s.mir.decided = true → s.pwr.phase = .run →
    h.detached = s.mir.pdet → s.mir.role = .active →
    exec (.heartbeat h) s = .next (heartbeatActive h s.mir.prole s.mir.peerSyncph (setMir (fun m =>
    { m with lanes := vmod m.lanes h.lane fun x => { x with hb := true, lock := true, gapUs := 0 }, prole := hbCode h.role, phealthy := h.healthy, pslot := h.slot.val, pheard := true, peerSyncph := h.syncph.val, pdet := h.detached, hbUs := 0, peerCmds := if h.role = .starting then [] else m.peerCmds, plife := if h.role = .starting then none else m.plife })
    s))) ∧
  (∀ (h : Heartbeat) (s : State), meRuns s = true → h.crcOk = true → h.laneBit = h.lane → s.mir.decided = true → s.pwr.phase = .run →
    h.detached = s.mir.pdet → s.mir.role = .alone → h.role = .syncing → h.syncph.val ≠ 0 → s.mir.swo = .none →
    exec (.heartbeat h) s = .next (syncServe h.syncph.val (roleChange .active (setMir (fun m =>
    { m with lanes := vmod m.lanes h.lane fun x => { x with hb := true, lock := true, gapUs := 0 }, prole := hbCode h.role, phealthy := h.healthy, pslot := h.slot.val, pheard := true, peerSyncph := h.syncph.val, pdet := h.detached, hbUs := 0, peerCmds := if h.role = .starting then [] else m.peerCmds, plife := if h.role = .starting then none else m.plife })
    s)))) ∧
  (∀ (h : Heartbeat) (s : State), meRuns s = true → h.crcOk = false →
    exec (.heartbeat h) s = .next (setMir (fun m => { m with lanes := vmod m.lanes h.lane fun x => { x with crcN := holdInc 0xFFFF x.crcN } }) s)) ∧
  (∀ (b : BrakeBlock) (s : State), meRuns s = true → b.crcOk = true → s.mir.decided = true → s.mir.role = .standby → s.mir.swo = .none →
    exec (.brake b) s = .next (foldFin 4 (fun t j => let t1 :=
        { t with brk := { t.brk with partner := vset t.brk.partner j ((vget b.state j).val, vget b.fcause j) } };
    if (brkCh t1 j).st = .nocfg || (brkCh t1 j).st = .fault || brkStOf (vget b.state j).val = .nocfg then t1 else brkReport j (brkCopy j (brkStOf
    (vget b.state j).val) (vget b.hold j) (vget b.fcause j) t1)) s)) ∧
  (∀ (c : Fin 4) (st : BrkSt) (hold : Bool) (cause : Nat) (s : State), st ≠ .applied → (brkCh (brkCopy c st hold cause s) c).st = st ∧
    (brkCh (brkCopy c st hold cause s) c).hold = hold ∧ (brkCh (brkCopy c st hold cause s) c).fcause = cause) ∧
  (∀ (s : State), meRuns s = true → s.mir.decided = true → s.mir.role = .standby → s.mir.detached = false → lanesLost s = true →
    s.mir.palive = false → s.mir.swo ≠ .newScans → s.zor.phase = .idle →
    exec .silentLoss s = .next (divDecide (raise 0x0806 6 4 (takeField .alone 4 s))))

/-- R341, R346, R352, R354, R356, R360: commands of the Mirror lanes and the steps of a switch-over.

Completes (exec answers the next state written, under hypotheses on the state and the operands alone): handover, request, live, aioLive, diverge,
checkResult, refuse, outputsLive, divergenceCheckEnd, switchoverScansCommitted, transmittersSettled, liveTimeout. -/
def Obligations.MirrorCommandCommands : Prop :=
  (∀ (m : MirCmd) (s : State), meRuns s = true → m.crcOk = true → s.mir.peerCmds.contains m.seq.toNat = true → exec (.handover m) s = .next s ∧
    exec (.request m) s = .next s ∧ exec (.live m) s = .next s ∧ exec (.aioLive m) s = .next s ∧ exec (.diverge m) s = .next s ∧
    exec (.checkResult m) s = .next s ∧ exec (.refuse m) s = .next s) ∧
  (∀ (m : MirCmd) (s : State), meRuns s = true → m.crcOk = false →
    let t := setMir (fun x => { x with lanes := vmod x.lanes m.lane fun l => { l with crcN := holdInc 0xFFFF l.crcN } }) s;
    exec (.handover m) s = .next t ∧ exec (.request m) s = .next t ∧ exec (.live m) s = .next t ∧ exec (.aioLive m) s = .next t ∧
    exec (.diverge m) s = .next t ∧ exec (.checkResult m) s = .next t ∧ exec (.refuse m) s = .next t) ∧
  (∀ (m : MirCmd) (s : State), heard m s → s.mir.decided = true → s.mir.role = .standby → (s.mir.swo = .none ∨ s.mir.swo = .requested) →
    s.zor.phase = .idle →
    exec (.handover m) s = .next (raise 0x0807 4 m.arg.toNat (cmdAnswered .request (setMir (fun x =>
    { x with swo := .newScans, swoCode := m.arg.toNat, div := none }) (noted m s))))) ∧
  (∀ (m : MirCmd) (s : State), heard m s → s.mir.decided = true → s.mir.role = .active → s.mir.swo = .none → s.mir.prole = 3 → s.mir.div = none →
    s.zor.phase ≠ .freeze → s.zor.phase ≠ .map → exec (.request m) s = .next (handOver m.arg.toNat false (noted m s))) ∧
  (∀ (m : MirCmd) (s : State), heard m s → s.mir.decided = true → s.mir.role = .active → s.mir.swo = .none → s.mir.prole ≠ 3 →
    exec (.request m) s = .next (sendCmd .refuse 1 (noted m s))) ∧
  (∀ (m : MirCmd) (s : State), heard m s → s.mir.decided = true → s.mir.role = .active → s.mir.swo = .none → s.mir.prole = 3 → s.mir.div ≠ none →
    exec (.request m) s = .next (sendCmd .refuse 2 (noted m s))) ∧
  (∀ (m : MirCmd) (s : State), heard m s → s.mir.swo = .oldWait → exec (.live m) s = .next (oldSteps (noted m s))) ∧
  (∀ (m : MirCmd) (s : State), heard m s → s.mir.swo = .oldAio →
    exec (.aioLive m) s = .next (judge false (aioBypassAll true (setMir (fun x => { x with swo := .none }) (noted m s))))) ∧
  (∀ (m : MirCmd) (s : State), heard m s → s.mir.decided = true → s.mir.role = .active → s.mir.div = none → s.mir.swo = .none →
    (m.arg.toNat < 8 ∨ (0x10 ≤ m.arg.toNat ∧ m.arg.toNat < 0x14)) →
    exec (.diverge m) s = .next (setMir (fun x =>
    { x with div := some { engine := m.arg.toNat }, divEng := m.arg.toNat, divCount := (x.divCount + 1) % 256 }) (noted m s))) ∧
  (∀ (m : MirCmd) (d : DivCheck) (s : State), heard m s → s.mir.div = some d → bits m.arg.toNat 8 8 = d.engine →
    exec (.checkResult m) s = .next (divDecide (cmdAnswered .diverge (setMir (fun x =>
    { x with div := some { d with peer := some (bitOf m.arg.toNat 0) } }) (noted m s))))) ∧
  (∀ (m : MirCmd) (s : State), heard m s → s.mir.swo = .requested →
    exec (.refuse m) s = .next (completeOpt s.mir.roleNo stBusy m.arg.toNat (cmdAnswered .request (setMir (fun x =>
    { x with swo := .none, roleNo := none }) (noted m s))))) ∧
  (∀ (s : State), meRuns s = true → s.mir.role = .standby → s.mir.swo = .newScans → scansDone s = true →
    exec .switchoverScansCommitted s = .next ((takeField .active s.mir.swoCode (completeOpt s.mir.roleNo stOk 2 (setMir (fun x =>
    { x with roleNo := none }) s))))) ∧
  (∀ (g : Nat) (s : State), s.mir.swo = .newOutputs →
    exec (.outputsLive g) s = .next (when (s.mir.role = .active) (sendCmd .live 0xFFFF) (setMir (fun x =>
    { x with swo := .newAio, swoGap := min g 0xFFFF }) s))) ∧
  (∀ (s : State), s.mir.swo = .newAio →
    exec .transmittersSettled s = .next (judge false (when (s.mir.role = .active) (sendCmd .aioLive 0xFFFF) (setMir (fun x => { x with swo := .none })
    s)))) ∧
  (∀ (s : State), meRuns s = true → s.mir.swo = .oldWait → s.mir.palive = true →
    exec .liveTimeout s = .next (oldSteps (raise 0x0807 4 (0x100 + s.mir.swoCode : Nat) s))) ∧
  (∀ (b : Bool) (d : DivCheck) (s : State), meRuns s = true → s.mir.div = some d → d.own = none →
    let failed := b || (holdsField s && divReadback s d.engine); let s1 := setMir (fun m => { m with div := some { d with own := some failed } }) s;
    exec (.divergenceCheckEnd b) s = .next (divDecide (when (s.mir.role = .active || s.mir.role = .standby) (sendCmd .checkResult (b2n failed +
    d.engine * 256)) s1)))

/-- R71, R342, R343, R345, R348, R349, R350, R351, R358, R401: frames from the partner: updates, latches, samples, signatures, forwarded descriptors, swap
messages, synchronisation data.

Completes (exec answers the next state written, under hypotheses on the state and the operands alone): update, latch, sample, signature, forward,
fwdAck, swap, syncData, syncPhaseEnd, signatureTimeout, syncTimeout, syncRestart. -/
def Obligations.MirrorFrameCommands : Prop :=
  (∀ (h : FrameHdr) (e : List (BitVec 14 × Word)) (s : State), inOrder h s → following s = true →
    exec (.update h e) s = .next (setMir (fun m => { m with pts := e.foldl (fun p x => mapPut 0 p x.1.toNat x.2) m.pts }) (framed 1 h s))) ∧
  (∀ (h : FrameHdr) (f : LatchFrame) (s : State), inOrder h s → following s = true → weftCrc s f.engine (weftOf s f.engine s.mir.pts) ≠ f.wcrc.toNat →
    exec (.latch h f) s = .next (if s.mir.role = .standby then standbyLeaves 8 (framed 1 h s) else syncAbandon (framed 1 h s))) ∧
  (∀ (h : FrameHdr) (f : LatchFrame) (s : State), inOrder h s → following s = true → weftCrc s f.engine (weftOf s f.engine s.mir.pts) = f.wcrc.toNat →
    (vget s.loom f.engine).state ≠ .running → exec (.latch h f) s = .next (framed 1 h s)) ∧
  (∀ (h : FrameHdr) (f : LatchFrame) (s : State), inOrder h s → following s = true → weftCrc s f.engine (weftOf s f.engine s.mir.pts) = f.wcrc.toNat →
    latchReady s f.engine = true → (s.mir.latches.find? fun p => p.1.engine = f.engine) = none →
    exec (.latch h f) s = .next (latchStart f.engine f (weftOf s f.engine s.mir.pts) (setMir (fun m =>
    { m with tbOfs := f.ts - s.tbase, gotLatch := vset m.gotLatch f.engine f.scan.toNat }) (framed 1 h s)))) ∧
  (∀ (h : FrameHdr) (f : LatchFrame) (s : State), inOrder h s → following s = true → weftCrc s f.engine (weftOf s f.engine s.mir.pts) = f.wcrc.toNat →
    (vget s.loom f.engine).state = .running → latchReady s f.engine = false →
    exec (.latch h f) s = .next (setMir (fun m =>
    { m with tbOfs := f.ts - s.tbase, latches := m.latches ++ [(f, weftOf s f.engine s.mir.pts)], gotLatch := vset m.gotLatch f.engine f.scan.toNat })
    (framed 1 h s))) ∧
  (∀ (h : FrameHdr) (f : SampleFrame) (s : State), inOrder h s → following s = true →
    exec (.sample h f) s = .next (setMir (fun m => { m with samples := m.samples ++ [f] }) (framed 1 h s))) ∧
  (∀ (h : FrameHdr) (e : List SigEntry) (s : State), inOrder h s → following s = true →
    exec (.signature h e) s = .next (e.foldl (fun t x => sigPeer
    { isTask := x.isTask, engine := x.engine.val, num := x.num.toNat, crc := x.crc.toNat } t) (framed 1 h s))) ∧
  (∀ (g p : Sig) (n : Fin 8) (s : State), g.isTask = true → g.engine = n.val → s.mir.ownSig.find? (sigMeets g) = some p →
    sigPeer g s = sigCompare p g
    { s with mir := { s.mir with lastPub := vset s.mir.lastPub n g.num, ownSig := s.mir.ownSig.filter fun x => !sigMeets g x } }) ∧
  (∀ (g p : Sig) (s : State), g.isTask = false → s.mir.ownSig.find? (sigMeets g) = some p →
    sigPeer g s = sigCompare p g { s with mir := { s.mir with ownSig := s.mir.ownSig.filter fun x => !sigMeets g x } }) ∧
  (∀ (g : Sig) (s : State), s.mir.ownSig.find? (sigMeets g) = none → (sigPeer g s).mir.peerSig = s.mir.peerSig ++ [g]) ∧
  (∀ (a b : Sig) (s : State), sigCompared s (sigCode a) = true → a.crc = b.crc →
    sigCompare a b s = { s with mir := { s.mir with matched := mapSet s.mir.matched (sigCode a) (mapGetD 0 s.mir.matched (sigCode a) + 1) } }) ∧
  (∀ (a b : Sig) (s : State), sigCompared s (sigCode a) = true → a.crc ≠ b.crc → s.mir.role = .standby → s.mir.div = none → s.mir.swo ≠ .newScans →
    sigCompare a b s = divStart (sigCode a) s) ∧
  (∀ (h : FrameHdr) (e : List (BitVec 14 × Word)) (s : State), inOrder h s → s.mir.role = .syncing → s.mir.syncph = 4 →
    exec (.update h e) s = .next (setMir (fun m => { m with early := m.early ++ [.update h e] }) (framed 1 h s))) ∧
  (∀ (h : FrameHdr) (f : LatchFrame) (s : State), inOrder h s → s.mir.role = .syncing → s.mir.syncph = 4 →
    exec (.latch h f) s = .next (setMir (fun m => { m with early := m.early ++ [.latch h f] }) (framed 1 h s))) ∧
  (∀ (h : FrameHdr) (f : SampleFrame) (s : State), inOrder h s → s.mir.role = .syncing → s.mir.syncph = 4 →
    exec (.sample h f) s = .next (setMir (fun m => { m with early := m.early ++ [.sample h f] }) (framed 1 h s))) ∧
  (∀ (h : FrameHdr) (e : List SigEntry) (s : State), inOrder h s → s.mir.role = .syncing → s.mir.syncph = 4 →
    exec (.signature h e) s = .next (setMir (fun m => { m with early := m.early ++ [.signature h e] }) (framed 1 h s))) ∧
  (∀ (s : State), meRuns s = true → (s.mir.ownSig.any fun g => sigCompared s (sigCode g)) = true →
    exec .signatureTimeout s = .next (framesLost 0x04 s)) ∧
  (∀ (s : State), s.mir.role = .standby → s.mir.swo ≠ .newScans → framesLost 0x04 s = toSyncing 7 (raise 0x080D 5 0x04 s)) ∧
  (∀ (h : FrameHdr) (f : ForwardFrame) (s : State), inOrder h s → leAt f.desc 0 1 = opBrake → s.mir.role = .standby →
    exec (.forward h f) s = .next (brkTestTaken (Fin.ofNat 4 (leAt f.desc 6 2)) (leAt f.desc 8 8) (framed ((f.desc.length + f.data.length + 247) /
    248) h s))) ∧
  (∀ (h : FrameHdr) (f : ForwardFrame) (s : State), inOrder h s → leAt f.desc 0 1 = opFault →
    exec (.forward h f) s = .next (faultTaken (leAt f.desc 6 2) (leAt f.desc 16 8) (leAt f.desc 8 1 = 1) (framed ((f.desc.length + f.data.length +
    247) / 248) h s))) ∧
  (∀ (h : FrameHdr) (f : ForwardFrame) (s : State), inOrder h s → leAt f.desc 0 1 ≠ opBrake → leAt f.desc 0 1 ≠ opFault → following s = true →
    (descRead f.desc).op = 0x0A →
    exec (.forward h f) s = .next (swapBegin (descRead f.desc).arg2 (framed ((f.desc.length + f.data.length + 247) / 248) h s))) ∧
  (∀ (h : FrameHdr) (f : ForwardFrame) (s : State) (x : Nat), inOrder h s → leAt f.desc 0 1 ≠ opBrake → leAt f.desc 0 1 ≠ opFault →
    following s = true → (descRead f.desc).op ≠ 0x0A →
    engineFailed (framed ((f.desc.length + f.data.length + 247) / 248) h s) (descRead f.desc) = false →
    ((apply (forwardCall f) (framed ((f.desc.length + f.data.length + 247) / 248) h s)).2.getD {}).result = some x →
    exec (.forward h f) s = .next (sendFrame 0x06 (fwdAckBody f.fwdseq.toNat ((apply (forwardCall f) (framed ((f.desc.length + f.data.length + 247) /
    248) h s)).2.getD {}).status x) (apply (forwardCall f) (framed ((f.desc.length + f.data.length + 247) / 248) h s)).1)) ∧
  (∀ (h : FrameHdr) (f : ForwardFrame) (s : State), inOrder h s → leAt f.desc 0 1 ≠ opBrake → leAt f.desc 0 1 ≠ opFault → following s = true →
    (descRead f.desc).op ≠ 0x0A → engineFailed (framed ((f.desc.length + f.data.length + 247) / 248) h s) (descRead f.desc) = false →
    ((apply (forwardCall f) (framed ((f.desc.length + f.data.length + 247) / 248) h s)).2.getD {}).result = none →
    exec (.forward h f) s = .next (sendFrame 0x06 (fwdAckBody f.fwdseq.toNat ((apply (forwardCall f) (framed ((f.desc.length + f.data.length + 247) /
    248) h s)).2.getD {}).status (Config.open32 (apply (forwardCall f) (framed ((f.desc.length + f.data.length + 247) / 248) h s)).1.free).toNat)
    (drawn (apply (forwardCall f) (framed ((f.desc.length + f.data.length + 247) / 248) h s)).1))) ∧
  (∀ (h : FrameHdr) (f : ForwardFrame) (s : State), inOrder h s → leAt f.desc 0 1 ≠ opBrake → leAt f.desc 0 1 ≠ opFault → following s = true →
    (descRead f.desc).op ≠ 0x0A → engineFailed (framed ((f.desc.length + f.data.length + 247) / 248) h s) (descRead f.desc) = true →
    exec (.forward h f) s = .next (sendFrame 0x06 (fwdAckBody f.fwdseq.toNat stTimeout (Config.open32 s.free).toNat) (drawn (framed ((f.desc.length +
    f.data.length + 247) / 248) h s)))) ∧
  (∀ (h : FrameHdr) (f : FwdAckFrame) (w : FwdDesc) (s : State), inOrder h s → s.mir.role = .active →
    s.mir.fwdWait.find? (fun w => w.fwdseq = f.fwdseq.toNat) = some w →
    exec (.fwdAck h f) s = .next (applyForwarded w true (ackPeer (fwdCall w).d.op f) (framed 1 h s))) ∧
  (∀ (w : FwdDesc) (b : Bool) (p : Option (Nat × Option Nat)) (s : State), descKind s (fwdCall w).d ≠ 1 →
    engineFailed { s with mir := { s.mir with fwdWait := s.mir.fwdWait.filter (·.fwdseq ≠ w.fwdseq) }, shu := { s.shu with flights := s.shu.flights.map fun x => if x.no = w.no then { x with cflags := if b then 4 else 0, peer := p } else x } }
    (fwdCall w).d = false →
    applyForwarded w b p s = applyNow (fwdCall w)
    { s with mir := { s.mir with fwdWait := s.mir.fwdWait.filter (·.fwdseq ≠ w.fwdseq) }, shu := { s.shu with flights := s.shu.flights.map fun x => if x.no = w.no then { x with cflags := if b then 4 else 0, peer := p } else x } }) ∧
  (∀ (h : FrameHdr) (s : State), inOrder h s → s.mir.role = .active → s.zor.phase = .prepare →
    exec (.swap h .prepared) s = .next (swapSend 3 (loomTime s + 101).toNat 0 (setZor (fun z =>
    { z with phase := .freeze, freezeF := some (loomTime s + 101) }) (framed 1 h s)))) ∧
  (∀ (h : FrameHdr) (c : Nat) (a : Bool) (s : State), inOrder h s → s.mir.role = .active → s.zor.phase = .prepare →
    exec (.swap h (.prepareFailed c a)) s = .next (swapEnd c (if a then stNotPresent else if c = 4 || c = 9 then stTimeout else stBadImage) none
    (framed 1 h s))) ∧
  (∀ (h : FrameHdr) (f : Word) (s : State), inOrder h s → s.mir.role = .standby → s.zor.phase = .prepared →
    exec (.swap h (.freezeAt f)) s = .next (setZor (fun z => { z with phase := .freeze, freezeF := some f }) (framed 1 h s))) ∧
  (∀ (h : FrameHdr) (c : BitVec 64) (k : BitVec 64) (s : State), inOrder h s → (s.zor.phase = .freeze ∨ s.zor.phase = .map) →
    exec (.swap h (.carriedCrc c k)) s = .next (swapCompare (setZor (fun z => { z with peerCrc := some c.toNat, peerScan := k.toNat }) (framed 1 h
    s)))) ∧
  (∀ (h : FrameHdr) (o : Nat) (b : List Byte) (s : State), inOrder h s → s.mir.role = .syncing → 2 ≤ s.mir.syncph → s.mir.syncph ≤ 4 →
    mapGet s.mir.syncReq o = none → exec (.syncData h o b) s = .next (setMir (fun m => { m with syncBuf := mapSet m.syncBuf o b }) (framed 1 h s))) ∧
  (∀ (h : FrameHdr) (o : Nat) (b : List Byte) (s : State), inOrder h s → s.mir.role = .syncing → s.mir.syncph = 1 →
    exec (.syncData h o b) s = .next (helloTake b (framed 1 h s))) ∧
  (∀ (h : FrameHdr) (o : Nat) (b : List Byte) (s : State), inOrder h s → s.mir.role = .active → mapGet s.mir.syncSent o = some b →
    exec (.syncData h o []) s = .next (syncSeg o b (framed 1 h s))) ∧
  (∀ (ms : Nat) (s : State), meRuns s = true → s.mir.decided = true → s.mir.role = .syncing → lifeDiffers s = false → s.mir.syncph = 1 →
    exec (.syncPhaseEnd ms) s = .next (if s.mir.plife.isSome then syncEnter (if s.mir.pimage = s.zor.imageCrc then 3 else 2) s else s)) ∧
  (∀ (ms : Nat) (s : State), meRuns s = true → s.mir.decided = true → s.mir.role = .syncing → lifeDiffers s = false → s.mir.syncph = 2 →
    syncWhole s = true →
    exec (.syncPhaseEnd ms) s = .next ((imageCheck (idCap s.ident.variant) (syncGot s)).elim (fun _ => syncAbandon s) fun img => syncEnter 3
    (syncImage img s))) ∧
  (∀ (ms : Nat) (s : State), meRuns s = true → s.mir.decided = true → s.mir.role = .syncing → lifeDiffers s = false → s.mir.syncph = 3 →
    syncWhole s = true →
    exec (.syncPhaseEnd ms) s = .next ((rdConfig (rowRead (syncGot s))).elim (syncAbandon s) fun c => syncEnter 4 (syncConfig c.1 s))) ∧
  (∀ (ms : Nat) (s : State), meRuns s = true → s.mir.decided = true → s.mir.role = .syncing → lifeDiffers s = false → s.mir.syncph = 4 →
    syncWhole s = true →
    exec (.syncPhaseEnd ms) s = .next ((rdStates (rowRead (syncGot s)).length (rowRead (syncGot s))).elim (syncAbandon s) fun fs => if (syncWanted
    s).all (fun k => fs.any (·.1 = k)) then syncStateEnd fs s else s)) ∧
  (∀ (ms : Nat) (s : State), meRuns s = true → s.mir.decided = true → s.mir.role = .syncing → lifeDiffers s = false → s.mir.syncph = 5 →
    syncVerified s = true →
    exec (.syncPhaseEnd ms) s = .next (raise 0x080B 2 ms (setMir (fun m =>
    { m with syncph := 0, synced := false, syncMs := ms, matched := [], healthy := true }) (roleChange .standby s)))) ∧
  (∀ (ms : Nat) (s : State), meRuns s = true → s.mir.decided = true → s.mir.role = .syncing → s.mir.syncph ≠ 0 → lifeDiffers s = true →
    exec (.syncPhaseEnd ms) s = .next (lifeEvent (syncAbandon s))) ∧
  (∀ (s : State), meRuns s = true → s.mir.role = .syncing → s.mir.synced = true → exec .syncTimeout s = .next (syncAbandon s)) ∧
  (∀ (s : State), meRuns s = true → s.mir.syncHold = true → exec .syncRestart s = .next (let a := setMir (fun m => { m with syncHold := false }) s;
    when (syncMayBegin a) syncBegin a))

/-- R396, R398, R399, R400, R402, R403, R404, R405: the service port: sessions by challenge and by presence, CLOSE, time-outs, VBUS and USB reset, refused
and unknown requests; the service port: register, point and record access, the station key, and the life cycle.

Completes (exec answers the next state written, under hypotheses on the state and the operands alone): secLcreq, info, challenge, respond, presence,
close, regRead, regWrite, servicePointRead, serviceRecRead, keyWrite, lcConfirm, lcAdvance, usbResetOrVbusLoss, unknownServiceOp, lcConfirmTimeout,
serviceSessionIdleTimeout, servicePortLockEnd, presenceWindowEnd, vbusConnect. -/
def Obligations.ServiceSessionCommands : Prop :=
  (∀ (r : SvcReq) (s : State), svcRuns 0x01 r s →
    exec (.info r) s = .next (svcSent 0x01 r
    { payload := [regId s 0x00, regId s 0x08, regId s 0x0C, regId s 0x10, regId s 0x14, regSec s 0x6800, regSec s 0x680C, svcCode s.svc.sess].flatMap (leBytes 4) }
    s)) ∧
  (∀ (r : SvcReq) (s : State), svcRuns 0x02 r s → s.svc.sess ≠ .locked → s.sec.keySet = true →
    exec (.challenge r) s = .next (svcSent 0x02 r { payload := bvBytes 16 (Config.random128 s.free) ++ leBytes 4 s.svc.count } (drawn (setSvc (fun v
    => { v with sess := .challenged, nonce := Config.random128 s.free }) (when (svcOpen s.svc) svcEnd s))))) ∧
  (∀ (r : SvcReq) (s : State), svcRuns 0x02 r s → s.svc.sess = .locked → exec (.challenge r) s = .next (svcSent 0x02 r { status := stLocked } s)) ∧
  (∀ (r : SvcReq) (s : State), svcRuns 0x02 r s → s.svc.sess ≠ .locked → s.sec.keySet = false →
    exec (.challenge r) s = .next (svcSent 0x02 r svcDenyOpen (when (svcOpen s.svc) svcEnd s))) ∧
  (∀ (r : SvcReq) (s : State), svcRuns 0x03 r s → s.svc.sess = .challenged → r.payload = sessAnswer s s.svc.nonce s.svc.count [1] →
    exec (.respond r) s = .next (svcSent 0x03 r { result := some 1 } (setSvc (fun v =>
    { v with count := (v.count + 1) % 2 ^ 32, sess := .key, fails := 0 }) s))) ∧
  (∀ (r : SvcReq) (s : State), svcRuns 0x03 r s → s.svc.sess = .challenged → r.payload ≠ sessAnswer s s.svc.nonce s.svc.count [1] → s.svc.fails < 2 →
    exec (.respond r) s = .next (svcSent 0x03 r { result := some 0 } (raise 0x0B01 4 1 (setSvc (fun v =>
    { v with count := (v.count + 1) % 2 ^ 32, sess := .none, fails := v.fails + 1 }) s)))) ∧
  (∀ (r : SvcReq) (s : State), svcRuns 0x03 r s → s.svc.sess = .challenged → r.payload ≠ sessAnswer s s.svc.nonce s.svc.count [1] → 2 ≤ s.svc.fails →
    exec (.respond r) s = .next (svcSent 0x03 r { result := some 0 } (raise 0x0B02 5 1 (setSvc (fun v =>
    { v with sess := .locked, lockUs := sessLockUs }) (raise 0x0B01 4 1 (setSvc (fun v =>
    { v with count := (v.count + 1) % 2 ^ 32, sess := .none, fails := v.fails + 1 }) s)))))) ∧
  (∀ (r : SvcReq) (s : State), svcRuns 0x04 r s → (s.sec.life = .manufacture ∨ s.sec.life = .commission) → s.sec.keySet = false →
    s.svc.window = true → s.svc.sess ≠ .locked →
    exec (.presence r) s = .next (svcSent 0x04 r { result := some 1 } (setSvc (fun v => { v with sess := .presence }) (when (svcOpen s.svc) svcEnd
    s)))) ∧
  (∀ (r : SvcReq) (s : State), svcRuns 0x05 r s → exec (.close r) s = .next (svcSent 0x05 r {} (svcEnd s))) ∧
  (∀ (op : Byte) (r : SvcReq) (c : Nat) (s : State), hkOn s = true → s.svc.pullup = true → svcSpec op.toNat = none →
    svcRefusal s op.toNat r = some c → exec (.unknownServiceOp op r) s = .next (svcSent op.toNat r (svcDeny c) s)) ∧
  (∀ (op : Byte) (r : SvcReq) (s : State), hkOn s = true → s.svc.pullup = true → svcSpec op.toNat = none → r.payload.length = r.len → r.len ≤ 4096 →
    r.byte1 = 0 → exec (.unknownServiceOp op r) s = .next (svcSent op.toNat r (svcDeny 1) s)) ∧
  (∀ (op : Nat) (i : Instr) (r : SvcReq) (c : Nat) (s : State), (op, i) ∈
    ([(0x01, .info r), (0x02, .challenge r), (0x03, .respond r), (0x04, .presence r), (0x05, .close r), (0x10, .regRead r), (0x11, .regWrite r), (0x12, .servicePointRead r), (0x13, .serviceRecRead r), (0x20, .keyWrite r), (0x21, .lcConfirm r), (0x22, .lcAdvance r)]
    : List (Nat × Instr)) → hkOn s = true → s.svc.pullup = true → svcRefusal s op r = some c → exec i s = .next (svcSent op r (svcDeny c) s)) ∧
  (∀ (s : State), svcOpen s.svc = true → exec .serviceSessionIdleTimeout s = .next (svcEnd s)) ∧
  (∀ (s : State), s.svc.sess = .locked → exec .servicePortLockEnd s = .next (setSvc (fun v => { v with sess := .none, fails := 0, lockUs := 0 }) s)) ∧
  (∀ (s : State), exec .presenceWindowEnd s = .next (setSvc (fun v => { v with window := false }) s)) ∧
  (∀ (s : State), exec (.usbResetOrVbusLoss false) s = .next (svcEnd s) ∧
    exec (.usbResetOrVbusLoss true) s = .next (setSvc (fun v => { v with vbus := false, pullup := false }) (svcEnd s))) ∧
  (∀ (s : State), hkOn s = true → s.svc.pullup = false →
    exec .vbusConnect s = .next (emit (.usbDevice
    { vendor := 0x1F3D, product := deviceId s.ident.variant, bcdDevice := bits s.ident.fw.toNat 16 16, serial := (List.range 16).map fun i => hexChar (bits s.ident.serial.toNat (60 - 4 * i) 4), attributes := 0xC0, maxPower := 1, class_ := 0xFF, subclass := 0x01, protocol := 0x01, bulkOut := 0x01, bulkIn := 0x81, packetHigh := 512, packetFull := 64 })
    (setSvc (fun v => { v with vbus := true, pullup := true }) s))) ∧
  (∀ (s : State), hkOn s = false → s.svc.pullup = false → exec .vbusConnect s = .next (setSvc (fun v => { v with vbus := true, pullup := false }) s)) ∧
  (∀ (r : SvcReq) (s : State), svcRuns 0x10 r s → svcRange r.arg.toNat r.arg2.toNat = true →
    exec (.regRead r) s = .next (svcSent 0x10 r (if (svcReads (svcSecure s) r.arg2.toNat r.arg.toNat s).2.1 then
    { status := stTimeout, result := some ((svcReads (svcSecure s) r.arg2.toNat r.arg.toNat s).1.length / 4), payload := (svcReads (svcSecure s) r.arg2.toNat r.arg.toNat s).1 }
    else { payload := (svcReads (svcSecure s) r.arg2.toNat r.arg.toNat s).1 }) (svcReads (svcSecure s) r.arg2.toNat r.arg.toNat s).2.2)) ∧
  (∀ (w : Bool) (n off : Nat) (s : State), svcReads w 0 off s = ([], false, s) ∧ (svcDead s off = true → svcReads w (n + 1) off s = ([], true, s)) ∧
    (svcDead s off = false → let r := regRead w off s; let t := svcReads w n (off + 4) r.2;
    svcReads w (n + 1) off s = (leBytes 4 (r.1.getD 0) ++ t.1, t.2))) ∧
  (∀ (b : List Byte) (l : List (List Byte)) (off k : Nat) (s : State), svcWrites [] off k s = (false, k, s) ∧ (svcDead s off = true →
    svcWrites (b :: l) off k s = (true, k, s)) ∧ (svcDead s off = false →
    svcWrites (b :: l) off k s = svcWrites l (off + 4) (k + 1) (regWrite true off (leNat b) s))) ∧
  (∀ (r : SvcReq) (s : State), svcRuns 0x11 r s → r.len % 4 = 0 → svcRange r.arg.toNat (r.len / 4) = true →
    exec (.regWrite r) s = .next (svcSent 0x11 r
    { status := if (svcWrites (pieces 4 r.payload) r.arg.toNat 0 s).1 then stTimeout else stOk, result := some (svcWrites (pieces 4 r.payload) r.arg.toNat 0 s).2.1 }
    (svcWrites (pieces 4 r.payload) r.arg.toNat 0 s).2.2)) ∧
  (∀ (i : Nat) (s : State), (pointDef s i).kind = 0 → ptRead s i = 0) ∧
  (∀ (r : SvcReq) (s : State), svcRuns 0x12 r s → 1 ≤ r.arg2.toNat → r.arg2.toNat ≤ 1024 → r.arg.toNat + r.arg2.toNat ≤ 16384 → fabricOn s = true →
    (∀ i, i < r.arg2.toNat → svcRegion s (Config.pointAddr (r.arg.toNat + i)) = none) →
    exec (.servicePointRead r) s = .next (svcSent 0x12 r
    { payload := (List.range r.arg2.toNat).flatMap fun i => leBytes 4 (ptRead s (r.arg.toNat + i)).toNat } s)) ∧
  (∀ (r : SvcReq) (x a : Nat) (s : State), svcRuns 0x12 r s → 1 ≤ r.arg2.toNat → r.arg2.toNat ≤ 1024 → r.arg.toNat + r.arg2.toNat ≤ 16384 →
    fabricOn s = true →
    (((List.range r.arg2.toNat).map fun i => (Config.pointAddr (r.arg.toNat + i), leBytes 4 (ptRead s (r.arg.toNat + i)).toNat)).findSome? fun p =>
    (svcRegion s p.1).map fun q => (q, p.1)) = some (x, a) →
    exec (.servicePointRead r) s = .next (svcSent 0x12 r
    { status := stPoison, payload := ((List.range r.arg2.toNat).map fun i => (Config.pointAddr (r.arg.toNat + i), leBytes 4 (ptRead s (r.arg.toNat + i)).toNat)).flatMap fun p => if (svcRegion s p.1).isSome then List.replicate p.2.length 0 else p.2 }
    (regionViol x 0x0D a false s))) ∧
  (∀ (r : SvcReq) (s : State), svcRuns 0x12 r s → 1 ≤ r.arg2.toNat → r.arg2.toNat ≤ 1024 → r.arg.toNat + r.arg2.toNat ≤ 16384 → fabricOn s = false →
    exec (.servicePointRead r) s = .next (svcSent 0x12 r { status := stTimeout } s)) ∧
  (∀ (r : SvcReq) (s : State), svcRuns 0x13 r s → 1 ≤ r.arg2.toNat → r.arg2.toNat ≤ 16 →
    (∀ p ∈ slotsFrom s r.arg2.toNat r.arg.toNat, svcRegion s (Config.recAddr p.1) = none) →
    exec (.serviceRecRead r) s = .next (svcSent 0x13 r
    { result := some (slotsFrom s r.arg2.toNat r.arg.toNat).length, payload := (slotsFrom s r.arg2.toNat r.arg.toNat).flatMap fun p => slotBytes s p.2 }
    s)) ∧
  (∀ (r : SvcReq) (x a : Nat) (s : State), svcRuns 0x13 r s → 1 ≤ r.arg2.toNat → r.arg2.toNat ≤ 16 →
    (((slotsFrom s r.arg2.toNat r.arg.toNat).map fun p => (Config.recAddr p.1, slotBytes s p.2)).findSome? fun p => (svcRegion s p.1).map fun q => (q,
    p.1)) = some (x, a) →
    exec (.serviceRecRead r) s = .next (svcSent 0x13 r
    { status := stPoison, result := some (slotsFrom s r.arg2.toNat r.arg.toNat).length, payload := ((slotsFrom s r.arg2.toNat r.arg.toNat).map fun p => (Config.recAddr p.1, slotBytes s p.2)).flatMap fun p => if (svcRegion s p.1).isSome then List.replicate p.2.length 0 else p.2 }
    (regionViol x 0x0D a false s))) ∧
  (∀ (r : SvcReq) (s : State), svcRuns 0x20 r s → (s.sec.life = .manufacture ∨ s.sec.life = .commission) →
    exec (.keyWrite r) s = .next (svcSent 0x20 r {} (setSvc (fun v => { v with endAfter := v.endAfter || v.sess = .presence }) (raise 0x0B06 5 0
    { s with sec := { s.sec with keySet := true, key := bvOf 256 r.payload } })))) ∧
  (∀ (r : SvcReq) (l : Life) (s : State), svcRuns 0x21 r s → (s.svc.sess = .presence → s.sec.keySet = false) → s.sec.pend = true →
    r.arg.toNat = s.sec.target → lifeOf s.sec.target = some l → exec (.lcConfirm r) s = .next (svcSent 0x21 r {} (lifeChange l true s))) ∧
  (∀ (r : SvcReq) (s : State), svcRuns 0x22 r s → s.sec.life = .manufacture →
    exec (.lcAdvance r) s = .next (svcSent 0x22 r {} (lifeChange .commission true s))) ∧
  (∀ (l : Life) (own : Bool) (s : State), (lifeChange l own s).sec.life = l ∧ (lifeChange l own s).sec.pend = false ∧ (l ≠ .decommissioned →
    (lifeChange l own s).sec.keySet = s.sec.keySet ∧ (lifeChange l own s).sec.key = s.sec.key ∧ (lifeChange l own s).brk = s.brk ∧
    (lifeChange l own s).zor = s.zor) ∧ (l = .decommissioned → (lifeChange l own s).sec.keySet = false ∧ (lifeChange l own s).sec.key = 0 ∧
    (lifeChange l own s).zor.store = none ∧ (lifeChange l own s).brk.hasPw = false)) ∧
  (∀ (fn : Func) (v : Word) (l : Life) (s : State), reaches fn 0x6804 s → bits v.toNat 16 16 = 0x5A3C → s.sec.pend = false →
    lifeOf (bits v.toNat 0 3) = some l → lifeTransition s.sec.life l = some true → lifeCondition s s.sec.life l = true →
    (s.mir.decided && (s.mir.role = .active || s.mir.role = .standby)) = false → bistActive s = false →
    exec (.secLcreq fn v) s = .next { s with sec := { s.sec with target := bits v.toNat 0 3, pend := true } }) ∧
  (∀ (fn : Func) (v : Word) (l : Life) (s : State), reaches fn 0x6804 s → bits v.toNat 16 16 = 0x5A3C → s.sec.pend = false →
    lifeOf (bits v.toNat 0 3) = some l → lifeTransition s.sec.life l = some false → lifeCondition s s.sec.life l = true →
    (s.mir.decided && (s.mir.role = .active || s.mir.role = .standby)) = false → bistActive s = false →
    exec (.secLcreq fn v) s = .next (lifeChange l false { s with sec := { s.sec with target := bits v.toNat 0 3 } })) ∧
  (∀ (s : State), hkOn s = true → s.sec.pend = true → exec .lcConfirmTimeout s = .next { s with sec := { s.sec with pend := false, cause := 4 } })

/-- R409, R410, R412, R415, R416, R417, R418, R421, R422: the recorder: raises, records and their copies, freezes, erasure.

Completes (exec answers the next state written, under hypotheses on the state and the operands alone): raiseEvent, recordWrite, freezeTimeout,
recordErase, raiseApply. -/
def Obligations.RecorderCommands : Prop :=
  (∀ (c : BitVec 16) (sev : Fin 8) (v : Word) (s : State), codeReserved c.toNat = false → s.rcd.bobbin.length < 256 →
    exec (.raiseEvent c sev v) s = .next
    { s with rcd := { s.rcd with bobbin := s.rcd.bobbin ++ [{ code := c.toNat, sev := sev.val, value := v.toInt, stamp := if codeFabric c.toNat then stampFabric s else stampHk s }] } }) ∧
  (∀ (c : BitVec 16) (sev : Fin 8) (v : Word) (s : State), codeReserved c.toNat = false → 256 ≤ s.rcd.bobbin.length →
    exec (.raiseEvent c sev v) s = .next { s with rcd := { s.rcd with raiseN := holdInc 0xFFFF s.rcd.raiseN } }) ∧
  (∀ (c : BitVec 16) (sev : Fin 8) (v : Word) (s : State), codeReserved c.toNat = true → exec (.raiseEvent c sev v) s = .next s) ∧
  (∀ (s : State), hkOn s = true → (s.pwr.loaded || s.pwr.phase = .halt) = true → s.rcd.bobbin = [] → exec .raiseApply s = .next (s)) ∧
  (∀ (x : Raise) (l : List Raise) (s : State), hkOn s = true → (s.pwr.loaded || s.pwr.phase = .halt) = true → s.rcd.bobbin = x :: l →
    (s.rcd.louFrz || !s.rcd.frozen.isEmpty) = true →
    exec .raiseApply s = .next (feed x .frozen ({ s with rcd := { s.rcd with bobbin := l, floss := (s.rcd.floss + 1) % 2 ^ 32 } }))) ∧
  (∀ (x : Raise) (l : List Raise) (i : Nat) (s : State), hkOn s = true → (s.pwr.loaded || s.pwr.phase = .halt) = true → s.rcd.bobbin = x :: l →
    (s.rcd.louFrz || !s.rcd.frozen.isEmpty) = false → slotOf s x.code = some i →
    ((codeCfg s x.code).rate ≠ 0 && (recSlot s i).tokens < 1000000) = true →
    exec .raiseApply s = .next (feed x .supp
    ({ setSlot i { (recSlot s i) with body := { (recSlot s i).body with suppN := holdInc 0xFFFFFFFF (recSlot s i).body.suppN }, dirty := true } { s with rcd := { s.rcd with bobbin := l } } with rcd := { (setSlot i { (recSlot s i) with body := { (recSlot s i).body with suppN := holdInc 0xFFFFFFFF (recSlot s i).body.suppN }, dirty := true } { s with rcd := { s.rcd with bobbin := l } }).rcd with supp := holdInc 0xFFFFFFFF s.rcd.supp } }))) ∧
  (∀ (x : Raise) (l : List Raise) (i : Nat) (s : State), hkOn s = true → (s.pwr.loaded || s.pwr.phase = .halt) = true → s.rcd.bobbin = x :: l →
    (s.rcd.louFrz || !s.rcd.frozen.isEmpty) = false → slotOf s x.code = some i →
    ((codeCfg s x.code).rate ≠ 0 && (recSlot s i).tokens < 1000000) = false →
    exec .raiseApply s = .next (feed x .recorded
    ({ setSlot i { (recSlot s i) with body := recUpdate (recSlot s i).body x ((s.rcd.seq + 1) % 2 ^ 64), tokens := (recSlot s i).tokens - 1000000, dirty := true } { s with rcd := { s.rcd with bobbin := l } } with rcd := { (setSlot i { (recSlot s i) with body := recUpdate (recSlot s i).body x ((s.rcd.seq + 1) % 2 ^ 64), tokens := (recSlot s i).tokens - 1000000, dirty := true } { s with rcd := { s.rcd with bobbin := l } }).rcd with seq := (s.rcd.seq + 1) % 2 ^ 64 } }))) ∧
  (∀ (x : Raise) (l : List Raise) (i : Nat) (s : State), hkOn s = true → (s.pwr.loaded || s.pwr.phase = .halt) = true → s.rcd.bobbin = x :: l →
    (s.rcd.louFrz || !s.rcd.frozen.isEmpty) = false → slotOf s x.code = none → freeSlot s = some i →
    exec .raiseApply s = .next (feed x (applyNew x i none { s with rcd := { s.rcd with bobbin := l } }).2 ((applyNew x i none
    { s with rcd := { s.rcd with bobbin := l } }).1))) ∧
  (∀ (x : Raise) (l : List Raise) (i : Nat) (v : RecSlot) (s : State), hkOn s = true → (s.pwr.loaded || s.pwr.phase = .halt) = true →
    s.rcd.bobbin = x :: l → (s.rcd.louFrz || !s.rcd.frozen.isEmpty) = false → slotOf s x.code = none → freeSlot s = none →
    victim s x.sev = some (i, v) →
    exec .raiseApply s = .next (feed x (applyNew x i (some v.body)
    { s with rcd := { s.rcd with bobbin := l, ovr := holdInc 0xFFFFFFFF s.rcd.ovr } }).2 ((applyNew x i (some v.body)
    { s with rcd := { s.rcd with bobbin := l, ovr := holdInc 0xFFFFFFFF s.rcd.ovr } }).1))) ∧
  (∀ (x : Raise) (l : List Raise) (s : State), hkOn s = true → (s.pwr.loaded || s.pwr.phase = .halt) = true → s.rcd.bobbin = x :: l →
    (s.rcd.louFrz || !s.rcd.frozen.isEmpty) = false → slotOf s x.code = none → freeSlot s = none → victim s x.sev = none →
    exec .raiseApply s = .next (feed x .full ({ s with rcd := { s.rcd with bobbin := l, fullN := holdInc 0xFFFF s.rcd.fullN } }))) ∧
  (∀ (c : Nat) (x : RecSlot), (newerCopy c x = some true →
    writeSlot c x = { x with copyB := { body := x.body, gen := (slotGen c x + 1) % 2 ^ 32, ok := true }, dirty := false }) ∧
    (newerCopy c x ≠ some true →
    writeSlot c x = { x with copyA := { body := x.body, gen := (slotGen c x + 1) % 2 ^ 32, ok := true }, dirty := false })) ∧
  (∀ (i : Fin 4096) (s : State), hkOn s = true → (recSlot s i.val).held = true → (recSlot s i.val).dirty = true →
    exec (.recordWrite i) s = .next (setSlot i.val (writeSlot s.rcd.clr (recSlot s i.val)) s)) ∧
  (∀ (i : Fin 4096) (s : State), hkOn s = true → (recSlot s i.val).erase = true →
    exec (.recordErase i) s = .next (setSlot i.val { (recSlot s i.val) with erase := false, copyA := {}, copyB := {} } s)) ∧
  (∀ (s : State), hkOn s = true → s.rcd.louFrz = true →
    exec (.freezeTimeout .louFrz) s = .next ({ s with rcd := { s.rcd with louFrz := false, ftmo := holdInc 0xFFFF s.rcd.ftmo } })) ∧
  (∀ (i : Nat) (s : State), hkOn s = true → s.rcd.frozen.contains i = true →
    exec (.freezeTimeout (.cursor i)) s = .next (freezeDrop i { s with rcd := { s.rcd with ftmo := holdInc 0xFFFF s.rcd.ftmo } }))

/-- R426, R428, R429, R431, R432, R433, R435, R489: the panel: frames and their two fields, the ledger, temperature, compensation, the indicators.

Completes (exec answers the next state written, under hypotheses on the state and the operands alone): frameCommit, ledgerWriteDone,
panelTemperatureRead, fieldBStart, compensationField, indicatorTestEnd. -/
def Obligations.PanelCommands : Prop :=
  (∀ (flips : List Nat) (s : State), panMayCommit s = true → frameBad flips s = false → s.pan.host = true →
    (ledgerFrame s.pan.shown (panContent flips s) s.pan.ledger).2 = 0 →
    exec (.frameCommit flips) s = .next (completeOpt s.pan.due stOk ((s.pan.fcnt + 1) % 2 ^ 32) (setPan (fun x =>
    { x with fcnt := (s.pan.fcnt + 1) % 2 ^ 32, band := x.nextBand, effRate := min x.rate (bandCap x.nextBand), shown := panContent flips s, ledNext := (ledgerFrame s.pan.shown (panContent flips s) s.pan.ledger).1, phase := if (ledgerFrame s.pan.shown (panContent flips s) s.pan.ledger).1 = s.pan.ledger then .fieldA else .ledger, satN := holdAdd 0xFFFF x.satN 0, due := none })
    (drawn s)))) ∧
  (∀ (flips : List Nat) (s : State), panMayCommit s = true → frameBad flips s = true → (ledgerFrame s.pan.shown s.pan.shown s.pan.ledger).2 = 0 →
    exec (.frameCommit flips) s = .next (panLoad (raise 0x0C02 4 ((s.pan.fcnt + 1) % 2 ^ 32 : Nat) (setPan (fun x =>
    { x with fcnt := (s.pan.fcnt + 1) % 2 ^ 32, band := x.nextBand, effRate := min x.rate (bandCap x.nextBand), ledNext := (ledgerFrame s.pan.shown s.pan.shown s.pan.ledger).1, phase := if (ledgerFrame s.pan.shown s.pan.shown s.pan.ledger).1 = s.pan.ledger then .fieldA else .ledger, crcN := holdInc 0xFFFF x.crcN, satN := holdAdd 0xFFFF x.satN 0 })
    (drawn s))))) ∧
  (∀ (d : Nat) (s : State), panOn s = true → s.pan.phase = .ledger →
    exec (.ledgerWriteDone d) s = .next (setPan (fun x =>
    { x with phase := .fieldA, ledger := x.ledNext, nz := x.ledNext.length, cmax := max x.cmax (min d 0xFFFFFFFF) }) s)) ∧
  (∀ (s : State), panOn s = true → s.pan.phase = .fieldA → exec .fieldBStart s = .next (setPan (fun x => { x with phase := .fieldB }) s)) ∧
  (∀ (s : State), panOn s = true → s.pan.phase = .comp → (compRun s.pan).phase ≠ .blank → exec .compensationField s = .next (setPan compRun s)) ∧
  (∀ (s : State), panOn s = true → s.pan.phase = .comp → (compRun s.pan).phase = .blank →
    exec .compensationField s = .next (raise 0x0C01 2 (compRun s.pan).compN (setPan compRun s))) ∧
  (∀ (t : Int) (s : State), panOn s = true → bandNext t s.pan.nextBand = s.pan.nextBand →
    exec (.panelTemperatureRead t) s = .next (setPan (fun x => { x with temp := t, nextBand := s.pan.nextBand }) s)) ∧
  (∀ (t : Int) (s : State), panOn s = true → bandNext t s.pan.nextBand ≠ s.pan.nextBand →
    exec (.panelTemperatureRead t) s = .next (raise 0x0C03 1 (bandNext t s.pan.nextBand) (setPan (fun x =>
    { x with temp := t, nextBand := bandNext t s.pan.nextBand }) s))) ∧
  (∀ (s : State), exec .indicatorTestEnd s = .next ({ s with side := { s.side with lit := false } }))

/-- R440, R441, R443, R459, R481, R482, R483: supply: power good, feeds lost, interrupted and restored, the power-fail warning, domains, regulators,
sideband and I2C.

Completes (exec answers the next state written, under hypotheses on the state and the operands alone): powerGood, feedLost, i2cRead, feedInterruption,
feedRestored, domainSupplyLoss, powerFailWarning, crystalFailure, powerCycle, vioAuxOutOfRange, vioAuxRestored, coreRegulatorFailure,
carrierResetRelease. -/
def Obligations.PowerSupplyCommands : Prop :=
  (∀ (f0 f1 : Nat) (n : Fin 2) (s : State), s.pwr.up = false → (feedGood < f0 ∨ feedGood < f1) →
    let a := linkForget (if s.pwr.pd = 0x003 then s else resetState s);
    let b := { (setPwr (fun p => { p with up := true, link := false, uptime := 0, upUs := 0, feed0 := f0, feed1 := f1, lost0 := f0 < feedLost, lost1 := f1 < feedLost, warmN := 0, pfw := false, off := false, cause := if p.noted then p.cause else 1, group := if p.noted then p.group else 0xFF, noted := false }) a) with svc := { a.svc with window := true }, side := { a.side with slot := if a.side.vioOk then n else a.side.slot, lit := true } };
    exec (.powerGood f0 f1 n) s = .next (if a.side.resetN then startUp b else setPwr (fun p => { p with pd := 0x001, run := 0 }) b)) ∧
  (∀ (f0 f1 : Nat) (n : Fin 2) (s : State), f0 ≤ feedGood → f1 ≤ feedGood → exec (.powerGood f0 f1 n) s = .next s) ∧
  (∀ (n : Fin 2) (v : Nat) (s : State), s.pwr.up = true → v < feedLost → (if n = 0 then s.pwr.lost0 else s.pwr.lost1) = false →
    exec (.feedLost n v) s = .next (raiseOrLate 0x0A01 4 n.val (setPwr (fun p => if n = 0 then { p with feed0 := v, lost0 := true } else
    { p with feed1 := v, lost1 := true }) s))) ∧
  (∀ (a b : Nat) (s : State), s.pwr.up = true → a < feedRide → b < feedRide →
    exec (.feedInterruption a b) s = .next (setPwr (fun p => { p with feed0 := a, feed1 := b }) s)) ∧
  (∀ (n : Fin 2) (v : Nat) (s : State), s.pwr.up = true → (if n = 0 then s.pwr.lost0 else s.pwr.lost1) = true → exec (.feedLost n v) s = .next (s)) ∧
  (∀ (a b : Nat) (s : State), s.pwr.up = true → s.pwr.pfw = false → (feedRide ≤ a ∨ feedRide ≤ b) → s.pwr.feed0 < feedRide → s.pwr.feed1 < feedRide →
    exec (.feedRestored none a b) s = .next (raiseOrLate 0x0A01 4 2 (setPwr (fun p =>
    { p with feed0 := a, feed1 := b, lost0 := decide (a < feedLost), lost1 := decide (b < feedLost) }) s))) ∧
  (∀ (k : Fin 2) (a b : Nat) (s : State), s.pwr.up = true → s.pwr.pfw = false → let v := if k = 0 then a else b;
    let t := setPwr (fun p => if k = 0 then { p with feed0 := v, lost0 := p.lost0 && decide (v < feedGood) } else
        { p with feed1 := v, lost1 := p.lost1 && decide (v < feedGood) }) s; (s.pwr.feed0 < feedRide ∧ s.pwr.feed1 < feedRide ∧ feedRide ≤ v →
    exec (.feedRestored (some k) a b) s = .next (raiseOrLate 0x0A01 4 2 t)) ∧ (¬ (s.pwr.feed0 < feedRide ∧ s.pwr.feed1 < feedRide ∧ feedRide ≤ v) →
    exec (.feedRestored (some k) a b) s = .next t)) ∧
  (∀ (s : State), s.pwr.up = true → s.pwr.feed0 < feedRide → s.pwr.feed1 < feedRide →
    let a := outputsDead (setPwr (fun p => { p with pfw := true }) s); let c := when (hkOn a) shutdownSave (panStop a);
    let b : State := { c with pwr := { c.pwr with up := false, link := false, cause := 9, group := 0xFF, noted := true, stage := none, todo := (match s.pwr.testFor with | some (.shutdown _) => s.pwr.testing | _ => c.pwr.todo), pd := 0x001, run := 0, late := c.pwr.late ++ [(0x0A02, 7, 0)] } };
    exec .powerFailWarning s = .next ({ b with mir := { b.mir with oalive := false, aliveUs := 0 }, svc := { b.svc with pullup := false } })) ∧
  (∀ (s : State), let t := outputsDead s; (∀ c, (vget t.dio c).sw = false) ∧ (∀ c, (vget t.can c).st = .off ∧ (vget t.can c).onBus = false ∧
    (vget t.can c).tx = []) ∧ ∀ c, (vget t.brk.ch c).hs = false ∧ (vget t.brk.ch c).ls = false ∧ (vget t.brk.ch c).fw = false) ∧
  (∀ (s : State), let t := shutdownSave s; (s.zor.running.isSome = true → t.zor = (retainSave s).zor) ∧
    t.rcd.slots = (when s.zor.running.isSome retainSave s).rcd.slots.map (fun p => (p.1, if p.2.dirty then writeSlot (when s.zor.running.isSome
    retainSave s).rcd.clr p.2 else p.2)) ∧
    t.pan.ledger = (if (when s.zor.running.isSome retainSave s).pan.phase = .ledger then (when s.zor.running.isSome retainSave s).pan.ledNext else
    (when s.zor.running.isSome retainSave s).pan.ledger)) ∧
  (∀ (s : State), s.pwr.up = true → pdOn s 0 = true →
    exec (.domainSupplyLoss 0) s = .next (outputsDead (setPwr (fun p => { p with pd := 0, run := 0, up := false, link := false, stage := none })
    ({ (setPwr (fun p => { p with pd := p.pd &&& 0xFFE }) s) with mir := { s.mir with oalive := false } })))) ∧
  (∀ (s : State), s.pwr.up = true → pdOn s 11 = true →
    exec (.domainSupplyLoss 11) s = .next (foldFin 4 (fun t c => setBrk c brkOpen t) (setPwr (fun p => { p with pd := p.pd &&& 0x7FF }) s))) ∧
  (∀ (s : State), s.pwr.up = true → pdOn s 9 = true →
    exec (.domainSupplyLoss 9) s = .next (setMir (fun m => { m with oalive := false }) (setPwr (fun p => { p with pd := p.pd &&& 0xDFF }) s))) ∧
  (∀ (s : State), s.pwr.up = true → pdOn s 1 = true →
    exec (.domainSupplyLoss 1) s = .next (setSvc (fun v => { v with pullup := false }) (setPwr (fun p => { p with pd := p.pd &&& 0xFFD }) s))) ∧
  (∀ (d : Fin 12) (s : State), s.pwr.up = true → pdOn s d.val = true → d.val ≠ 0 → d.val ≠ 1 → d.val ≠ 9 → d.val ≠ 11 →
    exec (.domainSupplyLoss d) s = .next (setPwr (fun p => { p with pd := p.pd &&& ~~~(1#12 <<< d.val) }) s)) ∧
  (∀ (s : State), s.side.resetN = true → exec .vioAuxOutOfRange s = .next ({ s with side := { s.side with vioOk := false, resetN := true } })) ∧
  (∀ (s : State), exec .vioAuxRestored s = .next ({ s with side := { s.side with vioOk := true } })) ∧
  (∀ (s : State), s.side.resetN = false → s.pwr.up = true → (s.pwr.warmN = 0 ∨ s.pwr.warmAt.length < 3) →
    exec .carrierResetRelease s = .next (startUp { s with side := { s.side with resetN := true } })) ∧
  (∀ (s : State), s.pwr.up = true →
    let a := setPwr (fun p => { p with up := false, link := false, cause := 11, group := 0xFF, noted := true, stage := none, pd := 0x001, run := 0 })
        ((outputsDead s));
    exec .coreRegulatorFailure s = .next
    ({ a with svc := { a.svc with pullup := false }, mir := { a.mir with oalive := false, aliveUs := 0 }, brk := { a.brk with disc := true }, dbank := a.dbank.map fun (k : DioBank) => { k with wdog := true }, aio := a.aio.map fun (x : Aio) => { x with wdog := true, bypass := x.bypass || (paired s && x.live && x.cfg.cmode = .passive) } })) ∧
  (∀ (s : State), let a := linkForget (resetState s);
    exec .powerCycle s = .next
    ({ a with pwr := { cause := a.pwr.cause, group := a.pwr.group, age := a.pwr.age, ageUs := a.pwr.ageUs, units := a.pwr.units, todo := a.pwr.todo, warmAt := a.pwr.warmAt, late := a.pwr.late, noted := a.pwr.noted }, svc := { a.svc with window := false, pullup := false }, side := { a.side with lit := false } })) ∧
  (∀ (s : State), s.pwr.aonRc = false → exec .crystalFailure s = .next (raiseOrLate 0x0A09 4 0 (setPwr (fun p => { p with aonRc := true }) s))) ∧
  (∀ (o n : Nat) (s : State), i2cAnswers s = true →
    exec (.i2cRead o n) s = .next (drawn (emit (.i2c (some ((List.range n).map fun i => if o + i < 32 then byteAt (i2cBytes s) (o + i) else
    Config.i2cByte s.free (o + i)))) s))) ∧
  (∀ (o n : Nat) (s : State), i2cAnswers s = false → exec (.i2cRead o n) s = .next (emit (.i2c none) s))

/-- R443, R445, R446, R451, R452, R454, R455, R458: tests, watchdogs, lost clocks and other faults: the recovery ladder and the warm reset.

Completes (exec answers the next state written, under hypotheses on the state and the operands alone): unitTestDone, rollingBistBankDone, hkWatchdog,
pllLockLoss, startupImageLoad, meWatchdog, carrierReset, dramUncorrectableError, fieldIoLogicFault. -/
def Obligations.PowerFaultCommands : Prop :=
  (∀ (u v : Nat) (rest : List Nat) (s : State), s.pwr.testing = u :: v :: rest → s.pwr.testFor = some .startUp →
    exec (.unitTestDone .pass) s = .next (unitRecord u .pass (setPwr (fun p => { p with testing := v :: rest }) s))) ∧
  (∀ (u : Nat) (s : State), s.pwr.testing = [u] → s.pwr.testFor = some .startUp →
    exec (.unitTestDone .pass) s = .next (unitRecord u .pass (setPwr (fun p => { p with testing := [], testFor := none, phase := .start }) s)) ∧
    exec (.unitTestDone .fail) s = .next (unitFail u (unitRecord u .fail (setPwr (fun p => { p with testing := [], testFor := none, phase := .start })
    s)))) ∧
  (∀ (u : Nat) (rest : List Nat) (s : State), s.pwr.testing = u :: rest → s.pwr.testFor = some .direct →
    exec (.unitTestDone .pass) s = .next (unitBack u (unitRecord u .pass (setPwr (fun p =>
    { p with testing := [], testFor := none, bRes := 1, bUnit := u }) s)))) ∧
  (∀ (b : Fin 24) (s : State), rollActive s = true → fabricOn s = true → (hedBank s b).owner = 0x10 →
    ∃ t, exec (.rollingBistBankDone b .pass) s = .next t ∧ (hedBank t b).owner = 0x1F ∧
    mapGet t.pwr.units (0x20 + b.val) = some { result := resultCode .pass, at_ := s.pwr.age, clean := true } ∧ ∀ c ∈ t.mem, ¬ (bankBase b ≤ c.1 ∧
    c.1 < bankBase b + 0x200000)) ∧
  (∀ (b : Bool) (s : State), hkOn s = true → let g := if b then 13 else 12;
    exec (.hkWatchdog b) s = .next (climb g 1000 (crossEpoch (Fin.ofNat 25 g) ((Config.open32 s.free).toNat % 0x10000) (reinitEffect g (raiseOrLate
    0x0A06 6 g (drawn s)))))) ∧
  (∀ (s : State), meOn s = true → mirPresent s = true →
    exec .meWatchdog s = .next (warmReset (setPwr (fun p => { p with cause := 6, group := 14, late := p.late ++ [(0x0A06, 6, 14)] }) (unitFault 14
    s)))) ∧
  (∀ (s : State), s.pwr.up = true → clkOn s 7 = true →
    exec (.pllLockLoss 7) s = .next (warmReset (setPwr (fun p =>
    { p with cause := 8, group := 0xFF, run := p.run &&& 0xF7F, late := p.late ++ [(0x0A07, 7, 7)] }) (setMir (fun m => { m with oalive := false })
    s)))) ∧
  (∀ (d : Fin 12) (s : State), s.pwr.up = true → clkOn s d.val = true → d.val ≠ 7 →
    exec (.pllLockLoss d) s = .next (stepThree 8 0xFF (setPwr (fun p =>
    { p with run := p.run &&& ~~~(1#12 <<< d.val), late := p.late ++ [(0x0A07, 7, (d.val : Int))] }) s))) ∧
  (∀ (s : State), fieldOn s = true → exec .fieldIoLogicFault s = .next (stepThree 3 21 (unitFault 21 s))) ∧
  (∀ (s : State), pdOn s 7 = true → clkOn s 5 = true → exec .dramUncorrectableError s = .next (ladder 16 3 (unitFault 16 s))) ∧
  (∀ (s : State), s.side.vioOk = true → s.side.resetN = true → s.pwr.up = true →
    exec .carrierReset s = .next (warmReset (setPwr (fun p => { p with cause := 4, group := 0xFF })
    { s with side := { s.side with resetN := false } }))) ∧
  (∀ (s : State), hkOn s = true → s.pwr.up = true → s.pwr.phase = .start → s.pwr.testing = [] → s.pwr.loaded = false → prismCount s = 4 →
    exec .startupImageLoad s = .next (setPwr (fun p => { p with loaded := true, late := [] }) ((recorderRestart (imageLoad s)).pwr.late.foldl (fun t e
    => raise e.1 e.2.1 e.2.2 t) (recorderRestart (imageLoad s)))))

/-- R443, R454, R455, R462: A warm reset clears what the domains hold and keeps what MRAM and PD0 hold. -/
def Obligations.WarmResetKeeps : Prop :=
  ∀ (s : State), let t := warmReset s; t.mem = [] ∧ t.loom = Vector.replicate 8 {} ∧ t.prism = Vector.replicate 4 {} ∧ t.can = Vector.replicate 8 {} ∧
    t.shu.rings = Vector.replicate 64 {} ∧ t.shu.flights = [] ∧ t.shu.msixTab = s.shu.msixTab ∧ t.shu.barAddr = s.shu.barAddr ∧
    t.sec.life = s.sec.life ∧ t.sec.keySet = s.sec.keySet ∧ t.sec.key = s.sec.key ∧ t.zor.store = s.zor.store ∧ t.zor.running = none ∧
    t.zor.retA = s.zor.retA ∧ t.zor.retB = s.zor.retB ∧ t.ident = s.ident ∧ t.pwr.warmN = holdInc 0xFF s.pwr.warmN ∧
    (t.pwr.phase = .halt ↔ s.side.resetN = true ∧ 2 ≤ (s.pwr.warmAt.filter fun a => s.pwr.age < a + 3600).length)

/-- R140, R146, R149, R153, R154, R155: images: the end of a check, the steps of a swap and of an exchange, the retentive state.

Completes (exec answers the next state written, under hypotheses on the state and the operands alone): zorosCheckDone, swapPrepared, prepareTimeout,
freezeInstant, swapSwitch, retainSave. -/
def Obligations.SwapCommands : Prop :=
  (∀ (no len : Nat) (rest : List (Nat × Nat)) (s : State), hkOn s = true → dramOn s = true → s.zor.checks = (no, len) :: rest →
    exec .zorosCheckDone s = .next ((imageCheck (idCap s.ident.variant) (stageBytes s len)).elim (fun r => complete no r.1 r.2 (setZor (fun z =>
    { z with checks := rest }) s)) (fun img => complete no stOk img.crc (setZor (fun z =>
    { z with checks := rest, staged := img.crc, stagedImg := some img }) s)))) ∧
  (∀ (s : State), hkOn s = true → s.zor.phase = .prepare → s.zor.shadow.isSome = true → hedPending s = false →
    s.zor.shadow.any (prepareBad s) = false → s.mir.decided = true → s.mir.role = .standby →
    exec .swapPrepared s = .next (swapSend 1 0 0 (setZor (fun z => { z with phase := .prepared }) s))) ∧
  (∀ (s : State), hkOn s = true → s.zor.phase = .prepare → s.zor.shadow.isSome = true → hedPending s = false →
    s.zor.shadow.any (prepareBad s) = false → s.mir.role = .alone → exec .swapPrepared s = .next (setZor (fun z => { z with phase := .map }) s)) ∧
  (∀ (s : State), hkOn s = true → s.zor.phase = .prepare → s.zor.shadow.isSome = true → hedPending s = false →
    s.zor.shadow.any (prepareBad s) = true → exec .swapPrepared s = .next (swapFail 2 stBadImage s)) ∧
  (∀ (s : State), s.zor.phase = .prepare → exec .prepareTimeout s = .next (swapFail 4 stTimeout s)) ∧
  (∀ (f : Word) (s : State), s.zor.freezeF = some f → (loomTime s - f).toNat < 2 ^ 31 → s.zor.phase = .freeze →
    exec .freezeInstant s = .next (swapFrozen (setZor (fun z => { z with frozen := true }) s))) ∧
  (∀ (img : Image) (s : State), s.zor.phase = .map → s.mir.role = .alone → s.zor.shadow = some img → prepareBad s img = false →
    exec .swapSwitch s = .next (setZor (fun z => { z with swapNo := none }) (completeOpt s.zor.swapNo stOk 0 (imageSwitch img true s)))) ∧
  (∀ (img : Image) (s : State), s.zor.phase = .map → s.mir.role = .alone → s.zor.shadow = some img → prepareBad s img = true →
    exec .swapSwitch s = .next (swapEnd 2 stBadImage none s)) ∧
  (∀ (img : Image) (s : State), s.zor.phase = .map → s.mir.role = .standby → s.zor.shadow = some img → s.zor.lone = false →
    s.zor.ownCrc.isSome = true → s.zor.ownCrc = s.zor.peerCrc → exec .swapSwitch s = .next (takeField .active 6 (imageSwitch img false s))) ∧
  (∀ (img : Image) (s : State), s.zor.phase = .map → s.mir.role = .standby → s.zor.shadow = some img → s.zor.lone = true →
    exec .swapSwitch s = .next (raise 0x0806 6 4 (takeField .alone 4 (imageSwitch img false s)))) ∧
  (∀ (s : State), s.zor.phase = .map → s.mir.role = .active → s.zor.lone = false → s.zor.ownCrc.isSome = true → s.zor.ownCrc = s.zor.peerCrc →
    exec .swapSwitch s = .next (setMir (fun m => { m with swo := .oldWait, swoCode := 6, swoReset := false }) (toSyncing 6 (setZor (fun z =>
    { z with count := (z.count + 1) % 256, staged := 0, stagedImg := none, swapNo := none }) (completeOpt s.zor.swapNo stOk s.zor.peerScan s))))) ∧
  (∀ (s : State), hkOn s = true → s.zor.running.isSome = true → exec .retainSave s = .next (retainSave s))
end

