-- ==== Sys2Proof/Laws/State.lean ====
section
/-! SUPPORT. What an update of one block leaves of the state: one lemma for each field of each update, and reading a vector after a write. -/

set_option Elab.async false

namespace Sys2Proof.Machine

@[simp] theorem vget_vset_self {α : Type} {n : Nat} (v : Vector α n) (i : Fin n) (x : α) : vget (vset v i x) i = x := by
  simp [vget, vset]

theorem vget_vset_ne {α : Type} {n : Nat} (v : Vector α n) (i j : Fin n) (x : α) (h : j ≠ i) : vget (vset v i x) j = vget v j := by
  have h' : i.val ≠ j.val := fun e => h (Fin.ext e.symm)
  simp [vget, vset, h']

@[simp] theorem vget_vmod_self {α : Type} {n : Nat} (v : Vector α n) (i : Fin n) (f : α → α) : vget (vmod v i f) i = f (vget v i) := by
  simp [vmod]

theorem vget_vmod_ne {α : Type} {n : Nat} (v : Vector α n) (i j : Fin n) (f : α → α) (h : j ≠ i) : vget (vmod v i f) j = vget v j :=
  vget_vset_ne v i j _ h

theorem vget_vmod {α : Type} {n : Nat} (v : Vector α n) (i j : Fin n) (f : α → α) :
    vget (vmod v i f) j = if j = i then f (vget v i) else vget v j := by
  by_cases h : j = i
  · subst h; simp
  · rw [if_neg h, vget_vmod_ne v i j f h]

@[simp] theorem vget_replicate {α : Type} {n : Nat} (x : α) (i : Fin n) : vget (Vector.replicate n x) i = x := by simp [vget]

@[simp] theorem vget_map {α β : Type} {n : Nat} (v : Vector α n) (f : α → β) (i : Fin n) : vget (v.map f) i = f (vget v i) := by simp [vget]

@[simp] theorem vget_ofFn {α : Type} {n : Nat} (f : Fin n → α) (i : Fin n) : vget (Vector.ofFn f) i = f i := by simp [vget]

@[simp] theorem when_true {σ : Type} (f : σ → σ) (s : σ) : when true f s = f s := rfl

@[simp] theorem when_false {σ : Type} (f : σ → σ) (s : σ) : when false f s = s := rfl

@[simp] theorem setLoom_ident (n : Fin 8) (f : Loom → Loom) (s : State) : (setLoom n f s).ident = s.ident := rfl
@[simp] theorem setLoom_mem (n : Fin 8) (f : Loom → Loom) (s : State) : (setLoom n f s).mem = s.mem := rfl
@[simp] theorem setLoom_hub (n : Fin 8) (f : Loom → Loom) (s : State) : (setLoom n f s).hub = s.hub := rfl
@[simp] theorem setLoom_shu (n : Fin 8) (f : Loom → Loom) (s : State) : (setLoom n f s).shu = s.shu := rfl
@[simp] theorem setLoom_loom (n : Fin 8) (f : Loom → Loom) (s : State) : (setLoom n f s).loom = vmod s.loom n f := rfl
@[simp] theorem setLoom_tbase (n : Fin 8) (f : Loom → Loom) (s : State) : (setLoom n f s).tbase = s.tbase := rfl
@[simp] theorem setLoom_zor (n : Fin 8) (f : Loom → Loom) (s : State) : (setLoom n f s).zor = s.zor := rfl
@[simp] theorem setLoom_prism (n : Fin 8) (f : Loom → Loom) (s : State) : (setLoom n f s).prism = s.prism := rfl
@[simp] theorem setLoom_win (n : Fin 8) (f : Loom → Loom) (s : State) : (setLoom n f s).win = s.win := rfl
@[simp] theorem setLoom_dbank (n : Fin 8) (f : Loom → Loom) (s : State) : (setLoom n f s).dbank = s.dbank := rfl
@[simp] theorem setLoom_dio (n : Fin 8) (f : Loom → Loom) (s : State) : (setLoom n f s).dio = s.dio := rfl
@[simp] theorem setLoom_aio (n : Fin 8) (f : Loom → Loom) (s : State) : (setLoom n f s).aio = s.aio := rfl
@[simp] theorem setLoom_enc (n : Fin 8) (f : Loom → Loom) (s : State) : (setLoom n f s).enc = s.enc := rfl
@[simp] theorem setLoom_can (n : Fin 8) (f : Loom → Loom) (s : State) : (setLoom n f s).can = s.can := rfl
@[simp] theorem setLoom_eth (n : Fin 8) (f : Loom → Loom) (s : State) : (setLoom n f s).eth = s.eth := rfl
@[simp] theorem setLoom_tim (n : Fin 8) (f : Loom → Loom) (s : State) : (setLoom n f s).tim = s.tim := rfl
@[simp] theorem setLoom_brk (n : Fin 8) (f : Loom → Loom) (s : State) : (setLoom n f s).brk = s.brk := rfl
@[simp] theorem setLoom_mir (n : Fin 8) (f : Loom → Loom) (s : State) : (setLoom n f s).mir = s.mir := rfl
@[simp] theorem setLoom_hed (n : Fin 8) (f : Loom → Loom) (s : State) : (setLoom n f s).hed = s.hed := rfl
@[simp] theorem setLoom_sec (n : Fin 8) (f : Loom → Loom) (s : State) : (setLoom n f s).sec = s.sec := rfl
@[simp] theorem setLoom_svc (n : Fin 8) (f : Loom → Loom) (s : State) : (setLoom n f s).svc = s.svc := rfl
@[simp] theorem setLoom_rcd (n : Fin 8) (f : Loom → Loom) (s : State) : (setLoom n f s).rcd = s.rcd := rfl
@[simp] theorem setLoom_pan (n : Fin 8) (f : Loom → Loom) (s : State) : (setLoom n f s).pan = s.pan := rfl
@[simp] theorem setLoom_pwr (n : Fin 8) (f : Loom → Loom) (s : State) : (setLoom n f s).pwr = s.pwr := rfl
@[simp] theorem setLoom_side (n : Fin 8) (f : Loom → Loom) (s : State) : (setLoom n f s).side = s.side := rfl
@[simp] theorem setLoom_codes (n : Fin 8) (f : Loom → Loom) (s : State) : (setLoom n f s).codes = s.codes := rfl
@[simp] theorem setLoom_out (n : Fin 8) (f : Loom → Loom) (s : State) : (setLoom n f s).out = s.out := rfl
@[simp] theorem setLoom_free (n : Fin 8) (f : Loom → Loom) (s : State) : (setLoom n f s).free = s.free := rfl
@[simp] theorem setLoom_pending (n : Fin 8) (f : Loom → Loom) (s : State) : (setLoom n f s).pending = s.pending := rfl

@[simp] theorem setPrism_ident (n : Fin 4) (f : Prism → Prism) (s : State) : (setPrism n f s).ident = s.ident := rfl
@[simp] theorem setPrism_mem (n : Fin 4) (f : Prism → Prism) (s : State) : (setPrism n f s).mem = s.mem := rfl
@[simp] theorem setPrism_hub (n : Fin 4) (f : Prism → Prism) (s : State) : (setPrism n f s).hub = s.hub := rfl
@[simp] theorem setPrism_shu (n : Fin 4) (f : Prism → Prism) (s : State) : (setPrism n f s).shu = s.shu := rfl
@[simp] theorem setPrism_loom (n : Fin 4) (f : Prism → Prism) (s : State) : (setPrism n f s).loom = s.loom := rfl
@[simp] theorem setPrism_tbase (n : Fin 4) (f : Prism → Prism) (s : State) : (setPrism n f s).tbase = s.tbase := rfl
@[simp] theorem setPrism_zor (n : Fin 4) (f : Prism → Prism) (s : State) : (setPrism n f s).zor = s.zor := rfl
@[simp] theorem setPrism_prism (n : Fin 4) (f : Prism → Prism) (s : State) : (setPrism n f s).prism = vmod s.prism n f := rfl
@[simp] theorem setPrism_win (n : Fin 4) (f : Prism → Prism) (s : State) : (setPrism n f s).win = s.win := rfl
@[simp] theorem setPrism_dbank (n : Fin 4) (f : Prism → Prism) (s : State) : (setPrism n f s).dbank = s.dbank := rfl
@[simp] theorem setPrism_dio (n : Fin 4) (f : Prism → Prism) (s : State) : (setPrism n f s).dio = s.dio := rfl
@[simp] theorem setPrism_aio (n : Fin 4) (f : Prism → Prism) (s : State) : (setPrism n f s).aio = s.aio := rfl
@[simp] theorem setPrism_enc (n : Fin 4) (f : Prism → Prism) (s : State) : (setPrism n f s).enc = s.enc := rfl
@[simp] theorem setPrism_can (n : Fin 4) (f : Prism → Prism) (s : State) : (setPrism n f s).can = s.can := rfl
@[simp] theorem setPrism_eth (n : Fin 4) (f : Prism → Prism) (s : State) : (setPrism n f s).eth = s.eth := rfl
@[simp] theorem setPrism_tim (n : Fin 4) (f : Prism → Prism) (s : State) : (setPrism n f s).tim = s.tim := rfl
@[simp] theorem setPrism_brk (n : Fin 4) (f : Prism → Prism) (s : State) : (setPrism n f s).brk = s.brk := rfl
@[simp] theorem setPrism_mir (n : Fin 4) (f : Prism → Prism) (s : State) : (setPrism n f s).mir = s.mir := rfl
@[simp] theorem setPrism_hed (n : Fin 4) (f : Prism → Prism) (s : State) : (setPrism n f s).hed = s.hed := rfl
@[simp] theorem setPrism_sec (n : Fin 4) (f : Prism → Prism) (s : State) : (setPrism n f s).sec = s.sec := rfl
@[simp] theorem setPrism_svc (n : Fin 4) (f : Prism → Prism) (s : State) : (setPrism n f s).svc = s.svc := rfl
@[simp] theorem setPrism_rcd (n : Fin 4) (f : Prism → Prism) (s : State) : (setPrism n f s).rcd = s.rcd := rfl
@[simp] theorem setPrism_pan (n : Fin 4) (f : Prism → Prism) (s : State) : (setPrism n f s).pan = s.pan := rfl
@[simp] theorem setPrism_pwr (n : Fin 4) (f : Prism → Prism) (s : State) : (setPrism n f s).pwr = s.pwr := rfl
@[simp] theorem setPrism_side (n : Fin 4) (f : Prism → Prism) (s : State) : (setPrism n f s).side = s.side := rfl
@[simp] theorem setPrism_codes (n : Fin 4) (f : Prism → Prism) (s : State) : (setPrism n f s).codes = s.codes := rfl
@[simp] theorem setPrism_out (n : Fin 4) (f : Prism → Prism) (s : State) : (setPrism n f s).out = s.out := rfl
@[simp] theorem setPrism_free (n : Fin 4) (f : Prism → Prism) (s : State) : (setPrism n f s).free = s.free := rfl
@[simp] theorem setPrism_pending (n : Fin 4) (f : Prism → Prism) (s : State) : (setPrism n f s).pending = s.pending := rfl

@[simp] theorem setDio_ident (c : Fin 32) (f : DioCh → DioCh) (s : State) : (setDio c f s).ident = s.ident := rfl
@[simp] theorem setDio_mem (c : Fin 32) (f : DioCh → DioCh) (s : State) : (setDio c f s).mem = s.mem := rfl
@[simp] theorem setDio_hub (c : Fin 32) (f : DioCh → DioCh) (s : State) : (setDio c f s).hub = s.hub := rfl
@[simp] theorem setDio_shu (c : Fin 32) (f : DioCh → DioCh) (s : State) : (setDio c f s).shu = s.shu := rfl
@[simp] theorem setDio_loom (c : Fin 32) (f : DioCh → DioCh) (s : State) : (setDio c f s).loom = s.loom := rfl
@[simp] theorem setDio_tbase (c : Fin 32) (f : DioCh → DioCh) (s : State) : (setDio c f s).tbase = s.tbase := rfl
@[simp] theorem setDio_zor (c : Fin 32) (f : DioCh → DioCh) (s : State) : (setDio c f s).zor = s.zor := rfl
@[simp] theorem setDio_prism (c : Fin 32) (f : DioCh → DioCh) (s : State) : (setDio c f s).prism = s.prism := rfl
@[simp] theorem setDio_win (c : Fin 32) (f : DioCh → DioCh) (s : State) : (setDio c f s).win = s.win := rfl
@[simp] theorem setDio_dbank (c : Fin 32) (f : DioCh → DioCh) (s : State) : (setDio c f s).dbank = s.dbank := rfl
@[simp] theorem setDio_dio (c : Fin 32) (f : DioCh → DioCh) (s : State) : (setDio c f s).dio = vmod s.dio c f := rfl
@[simp] theorem setDio_aio (c : Fin 32) (f : DioCh → DioCh) (s : State) : (setDio c f s).aio = s.aio := rfl
@[simp] theorem setDio_enc (c : Fin 32) (f : DioCh → DioCh) (s : State) : (setDio c f s).enc = s.enc := rfl
@[simp] theorem setDio_can (c : Fin 32) (f : DioCh → DioCh) (s : State) : (setDio c f s).can = s.can := rfl
@[simp] theorem setDio_eth (c : Fin 32) (f : DioCh → DioCh) (s : State) : (setDio c f s).eth = s.eth := rfl
@[simp] theorem setDio_tim (c : Fin 32) (f : DioCh → DioCh) (s : State) : (setDio c f s).tim = s.tim := rfl
@[simp] theorem setDio_brk (c : Fin 32) (f : DioCh → DioCh) (s : State) : (setDio c f s).brk = s.brk := rfl
@[simp] theorem setDio_mir (c : Fin 32) (f : DioCh → DioCh) (s : State) : (setDio c f s).mir = s.mir := rfl
@[simp] theorem setDio_hed (c : Fin 32) (f : DioCh → DioCh) (s : State) : (setDio c f s).hed = s.hed := rfl
@[simp] theorem setDio_sec (c : Fin 32) (f : DioCh → DioCh) (s : State) : (setDio c f s).sec = s.sec := rfl
@[simp] theorem setDio_svc (c : Fin 32) (f : DioCh → DioCh) (s : State) : (setDio c f s).svc = s.svc := rfl
@[simp] theorem setDio_rcd (c : Fin 32) (f : DioCh → DioCh) (s : State) : (setDio c f s).rcd = s.rcd := rfl
@[simp] theorem setDio_pan (c : Fin 32) (f : DioCh → DioCh) (s : State) : (setDio c f s).pan = s.pan := rfl
@[simp] theorem setDio_pwr (c : Fin 32) (f : DioCh → DioCh) (s : State) : (setDio c f s).pwr = s.pwr := rfl
@[simp] theorem setDio_side (c : Fin 32) (f : DioCh → DioCh) (s : State) : (setDio c f s).side = s.side := rfl
@[simp] theorem setDio_codes (c : Fin 32) (f : DioCh → DioCh) (s : State) : (setDio c f s).codes = s.codes := rfl
@[simp] theorem setDio_out (c : Fin 32) (f : DioCh → DioCh) (s : State) : (setDio c f s).out = s.out := rfl
@[simp] theorem setDio_free (c : Fin 32) (f : DioCh → DioCh) (s : State) : (setDio c f s).free = s.free := rfl
@[simp] theorem setDio_pending (c : Fin 32) (f : DioCh → DioCh) (s : State) : (setDio c f s).pending = s.pending := rfl

@[simp] theorem setBank_ident (b : Fin 4) (f : DioBank → DioBank) (s : State) : (setBank b f s).ident = s.ident := rfl
@[simp] theorem setBank_mem (b : Fin 4) (f : DioBank → DioBank) (s : State) : (setBank b f s).mem = s.mem := rfl
@[simp] theorem setBank_hub (b : Fin 4) (f : DioBank → DioBank) (s : State) : (setBank b f s).hub = s.hub := rfl
@[simp] theorem setBank_shu (b : Fin 4) (f : DioBank → DioBank) (s : State) : (setBank b f s).shu = s.shu := rfl
@[simp] theorem setBank_loom (b : Fin 4) (f : DioBank → DioBank) (s : State) : (setBank b f s).loom = s.loom := rfl
@[simp] theorem setBank_tbase (b : Fin 4) (f : DioBank → DioBank) (s : State) : (setBank b f s).tbase = s.tbase := rfl
@[simp] theorem setBank_zor (b : Fin 4) (f : DioBank → DioBank) (s : State) : (setBank b f s).zor = s.zor := rfl
@[simp] theorem setBank_prism (b : Fin 4) (f : DioBank → DioBank) (s : State) : (setBank b f s).prism = s.prism := rfl
@[simp] theorem setBank_win (b : Fin 4) (f : DioBank → DioBank) (s : State) : (setBank b f s).win = s.win := rfl
@[simp] theorem setBank_dbank (b : Fin 4) (f : DioBank → DioBank) (s : State) : (setBank b f s).dbank = vmod s.dbank b f := rfl
@[simp] theorem setBank_dio (b : Fin 4) (f : DioBank → DioBank) (s : State) : (setBank b f s).dio = s.dio := rfl
@[simp] theorem setBank_aio (b : Fin 4) (f : DioBank → DioBank) (s : State) : (setBank b f s).aio = s.aio := rfl
@[simp] theorem setBank_enc (b : Fin 4) (f : DioBank → DioBank) (s : State) : (setBank b f s).enc = s.enc := rfl
@[simp] theorem setBank_can (b : Fin 4) (f : DioBank → DioBank) (s : State) : (setBank b f s).can = s.can := rfl
@[simp] theorem setBank_eth (b : Fin 4) (f : DioBank → DioBank) (s : State) : (setBank b f s).eth = s.eth := rfl
@[simp] theorem setBank_tim (b : Fin 4) (f : DioBank → DioBank) (s : State) : (setBank b f s).tim = s.tim := rfl
@[simp] theorem setBank_brk (b : Fin 4) (f : DioBank → DioBank) (s : State) : (setBank b f s).brk = s.brk := rfl
@[simp] theorem setBank_mir (b : Fin 4) (f : DioBank → DioBank) (s : State) : (setBank b f s).mir = s.mir := rfl
@[simp] theorem setBank_hed (b : Fin 4) (f : DioBank → DioBank) (s : State) : (setBank b f s).hed = s.hed := rfl
@[simp] theorem setBank_sec (b : Fin 4) (f : DioBank → DioBank) (s : State) : (setBank b f s).sec = s.sec := rfl
@[simp] theorem setBank_svc (b : Fin 4) (f : DioBank → DioBank) (s : State) : (setBank b f s).svc = s.svc := rfl
@[simp] theorem setBank_rcd (b : Fin 4) (f : DioBank → DioBank) (s : State) : (setBank b f s).rcd = s.rcd := rfl
@[simp] theorem setBank_pan (b : Fin 4) (f : DioBank → DioBank) (s : State) : (setBank b f s).pan = s.pan := rfl
@[simp] theorem setBank_pwr (b : Fin 4) (f : DioBank → DioBank) (s : State) : (setBank b f s).pwr = s.pwr := rfl
@[simp] theorem setBank_side (b : Fin 4) (f : DioBank → DioBank) (s : State) : (setBank b f s).side = s.side := rfl
@[simp] theorem setBank_codes (b : Fin 4) (f : DioBank → DioBank) (s : State) : (setBank b f s).codes = s.codes := rfl
@[simp] theorem setBank_out (b : Fin 4) (f : DioBank → DioBank) (s : State) : (setBank b f s).out = s.out := rfl
@[simp] theorem setBank_free (b : Fin 4) (f : DioBank → DioBank) (s : State) : (setBank b f s).free = s.free := rfl
@[simp] theorem setBank_pending (b : Fin 4) (f : DioBank → DioBank) (s : State) : (setBank b f s).pending = s.pending := rfl

@[simp] theorem setAio_ident (c : Fin 16) (f : Aio → Aio) (s : State) : (setAio c f s).ident = s.ident := rfl
@[simp] theorem setAio_mem (c : Fin 16) (f : Aio → Aio) (s : State) : (setAio c f s).mem = s.mem := rfl
@[simp] theorem setAio_hub (c : Fin 16) (f : Aio → Aio) (s : State) : (setAio c f s).hub = s.hub := rfl
@[simp] theorem setAio_shu (c : Fin 16) (f : Aio → Aio) (s : State) : (setAio c f s).shu = s.shu := rfl
@[simp] theorem setAio_loom (c : Fin 16) (f : Aio → Aio) (s : State) : (setAio c f s).loom = s.loom := rfl
@[simp] theorem setAio_tbase (c : Fin 16) (f : Aio → Aio) (s : State) : (setAio c f s).tbase = s.tbase := rfl
@[simp] theorem setAio_zor (c : Fin 16) (f : Aio → Aio) (s : State) : (setAio c f s).zor = s.zor := rfl
@[simp] theorem setAio_prism (c : Fin 16) (f : Aio → Aio) (s : State) : (setAio c f s).prism = s.prism := rfl
@[simp] theorem setAio_win (c : Fin 16) (f : Aio → Aio) (s : State) : (setAio c f s).win = s.win := rfl
@[simp] theorem setAio_dbank (c : Fin 16) (f : Aio → Aio) (s : State) : (setAio c f s).dbank = s.dbank := rfl
@[simp] theorem setAio_dio (c : Fin 16) (f : Aio → Aio) (s : State) : (setAio c f s).dio = s.dio := rfl
@[simp] theorem setAio_aio (c : Fin 16) (f : Aio → Aio) (s : State) : (setAio c f s).aio = vmod s.aio c f := rfl
@[simp] theorem setAio_enc (c : Fin 16) (f : Aio → Aio) (s : State) : (setAio c f s).enc = s.enc := rfl
@[simp] theorem setAio_can (c : Fin 16) (f : Aio → Aio) (s : State) : (setAio c f s).can = s.can := rfl
@[simp] theorem setAio_eth (c : Fin 16) (f : Aio → Aio) (s : State) : (setAio c f s).eth = s.eth := rfl
@[simp] theorem setAio_tim (c : Fin 16) (f : Aio → Aio) (s : State) : (setAio c f s).tim = s.tim := rfl
@[simp] theorem setAio_brk (c : Fin 16) (f : Aio → Aio) (s : State) : (setAio c f s).brk = s.brk := rfl
@[simp] theorem setAio_mir (c : Fin 16) (f : Aio → Aio) (s : State) : (setAio c f s).mir = s.mir := rfl
@[simp] theorem setAio_hed (c : Fin 16) (f : Aio → Aio) (s : State) : (setAio c f s).hed = s.hed := rfl
@[simp] theorem setAio_sec (c : Fin 16) (f : Aio → Aio) (s : State) : (setAio c f s).sec = s.sec := rfl
@[simp] theorem setAio_svc (c : Fin 16) (f : Aio → Aio) (s : State) : (setAio c f s).svc = s.svc := rfl
@[simp] theorem setAio_rcd (c : Fin 16) (f : Aio → Aio) (s : State) : (setAio c f s).rcd = s.rcd := rfl
@[simp] theorem setAio_pan (c : Fin 16) (f : Aio → Aio) (s : State) : (setAio c f s).pan = s.pan := rfl
@[simp] theorem setAio_pwr (c : Fin 16) (f : Aio → Aio) (s : State) : (setAio c f s).pwr = s.pwr := rfl
@[simp] theorem setAio_side (c : Fin 16) (f : Aio → Aio) (s : State) : (setAio c f s).side = s.side := rfl
@[simp] theorem setAio_codes (c : Fin 16) (f : Aio → Aio) (s : State) : (setAio c f s).codes = s.codes := rfl
@[simp] theorem setAio_out (c : Fin 16) (f : Aio → Aio) (s : State) : (setAio c f s).out = s.out := rfl
@[simp] theorem setAio_free (c : Fin 16) (f : Aio → Aio) (s : State) : (setAio c f s).free = s.free := rfl
@[simp] theorem setAio_pending (c : Fin 16) (f : Aio → Aio) (s : State) : (setAio c f s).pending = s.pending := rfl

@[simp] theorem setEnc_ident (p : Fin 4) (f : Enc → Enc) (s : State) : (setEnc p f s).ident = s.ident := rfl
@[simp] theorem setEnc_mem (p : Fin 4) (f : Enc → Enc) (s : State) : (setEnc p f s).mem = s.mem := rfl
@[simp] theorem setEnc_hub (p : Fin 4) (f : Enc → Enc) (s : State) : (setEnc p f s).hub = s.hub := rfl
@[simp] theorem setEnc_shu (p : Fin 4) (f : Enc → Enc) (s : State) : (setEnc p f s).shu = s.shu := rfl
@[simp] theorem setEnc_loom (p : Fin 4) (f : Enc → Enc) (s : State) : (setEnc p f s).loom = s.loom := rfl
@[simp] theorem setEnc_tbase (p : Fin 4) (f : Enc → Enc) (s : State) : (setEnc p f s).tbase = s.tbase := rfl
@[simp] theorem setEnc_zor (p : Fin 4) (f : Enc → Enc) (s : State) : (setEnc p f s).zor = s.zor := rfl
@[simp] theorem setEnc_prism (p : Fin 4) (f : Enc → Enc) (s : State) : (setEnc p f s).prism = s.prism := rfl
@[simp] theorem setEnc_win (p : Fin 4) (f : Enc → Enc) (s : State) : (setEnc p f s).win = s.win := rfl
@[simp] theorem setEnc_dbank (p : Fin 4) (f : Enc → Enc) (s : State) : (setEnc p f s).dbank = s.dbank := rfl
@[simp] theorem setEnc_dio (p : Fin 4) (f : Enc → Enc) (s : State) : (setEnc p f s).dio = s.dio := rfl
@[simp] theorem setEnc_aio (p : Fin 4) (f : Enc → Enc) (s : State) : (setEnc p f s).aio = s.aio := rfl
@[simp] theorem setEnc_enc (p : Fin 4) (f : Enc → Enc) (s : State) : (setEnc p f s).enc = vmod s.enc p f := rfl
@[simp] theorem setEnc_can (p : Fin 4) (f : Enc → Enc) (s : State) : (setEnc p f s).can = s.can := rfl
@[simp] theorem setEnc_eth (p : Fin 4) (f : Enc → Enc) (s : State) : (setEnc p f s).eth = s.eth := rfl
@[simp] theorem setEnc_tim (p : Fin 4) (f : Enc → Enc) (s : State) : (setEnc p f s).tim = s.tim := rfl
@[simp] theorem setEnc_brk (p : Fin 4) (f : Enc → Enc) (s : State) : (setEnc p f s).brk = s.brk := rfl
@[simp] theorem setEnc_mir (p : Fin 4) (f : Enc → Enc) (s : State) : (setEnc p f s).mir = s.mir := rfl
@[simp] theorem setEnc_hed (p : Fin 4) (f : Enc → Enc) (s : State) : (setEnc p f s).hed = s.hed := rfl
@[simp] theorem setEnc_sec (p : Fin 4) (f : Enc → Enc) (s : State) : (setEnc p f s).sec = s.sec := rfl
@[simp] theorem setEnc_svc (p : Fin 4) (f : Enc → Enc) (s : State) : (setEnc p f s).svc = s.svc := rfl
@[simp] theorem setEnc_rcd (p : Fin 4) (f : Enc → Enc) (s : State) : (setEnc p f s).rcd = s.rcd := rfl
@[simp] theorem setEnc_pan (p : Fin 4) (f : Enc → Enc) (s : State) : (setEnc p f s).pan = s.pan := rfl
@[simp] theorem setEnc_pwr (p : Fin 4) (f : Enc → Enc) (s : State) : (setEnc p f s).pwr = s.pwr := rfl
@[simp] theorem setEnc_side (p : Fin 4) (f : Enc → Enc) (s : State) : (setEnc p f s).side = s.side := rfl
@[simp] theorem setEnc_codes (p : Fin 4) (f : Enc → Enc) (s : State) : (setEnc p f s).codes = s.codes := rfl
@[simp] theorem setEnc_out (p : Fin 4) (f : Enc → Enc) (s : State) : (setEnc p f s).out = s.out := rfl
@[simp] theorem setEnc_free (p : Fin 4) (f : Enc → Enc) (s : State) : (setEnc p f s).free = s.free := rfl
@[simp] theorem setEnc_pending (p : Fin 4) (f : Enc → Enc) (s : State) : (setEnc p f s).pending = s.pending := rfl

@[simp] theorem setCan_ident (c : Fin 8) (f : Can → Can) (s : State) : (setCan c f s).ident = s.ident := rfl
@[simp] theorem setCan_mem (c : Fin 8) (f : Can → Can) (s : State) : (setCan c f s).mem = s.mem := rfl
@[simp] theorem setCan_hub (c : Fin 8) (f : Can → Can) (s : State) : (setCan c f s).hub = s.hub := rfl
@[simp] theorem setCan_shu (c : Fin 8) (f : Can → Can) (s : State) : (setCan c f s).shu = s.shu := rfl
@[simp] theorem setCan_loom (c : Fin 8) (f : Can → Can) (s : State) : (setCan c f s).loom = s.loom := rfl
@[simp] theorem setCan_tbase (c : Fin 8) (f : Can → Can) (s : State) : (setCan c f s).tbase = s.tbase := rfl
@[simp] theorem setCan_zor (c : Fin 8) (f : Can → Can) (s : State) : (setCan c f s).zor = s.zor := rfl
@[simp] theorem setCan_prism (c : Fin 8) (f : Can → Can) (s : State) : (setCan c f s).prism = s.prism := rfl
@[simp] theorem setCan_win (c : Fin 8) (f : Can → Can) (s : State) : (setCan c f s).win = s.win := rfl
@[simp] theorem setCan_dbank (c : Fin 8) (f : Can → Can) (s : State) : (setCan c f s).dbank = s.dbank := rfl
@[simp] theorem setCan_dio (c : Fin 8) (f : Can → Can) (s : State) : (setCan c f s).dio = s.dio := rfl
@[simp] theorem setCan_aio (c : Fin 8) (f : Can → Can) (s : State) : (setCan c f s).aio = s.aio := rfl
@[simp] theorem setCan_enc (c : Fin 8) (f : Can → Can) (s : State) : (setCan c f s).enc = s.enc := rfl
@[simp] theorem setCan_can (c : Fin 8) (f : Can → Can) (s : State) : (setCan c f s).can = vmod s.can c f := rfl
@[simp] theorem setCan_eth (c : Fin 8) (f : Can → Can) (s : State) : (setCan c f s).eth = s.eth := rfl
@[simp] theorem setCan_tim (c : Fin 8) (f : Can → Can) (s : State) : (setCan c f s).tim = s.tim := rfl
@[simp] theorem setCan_brk (c : Fin 8) (f : Can → Can) (s : State) : (setCan c f s).brk = s.brk := rfl
@[simp] theorem setCan_mir (c : Fin 8) (f : Can → Can) (s : State) : (setCan c f s).mir = s.mir := rfl
@[simp] theorem setCan_hed (c : Fin 8) (f : Can → Can) (s : State) : (setCan c f s).hed = s.hed := rfl
@[simp] theorem setCan_sec (c : Fin 8) (f : Can → Can) (s : State) : (setCan c f s).sec = s.sec := rfl
@[simp] theorem setCan_svc (c : Fin 8) (f : Can → Can) (s : State) : (setCan c f s).svc = s.svc := rfl
@[simp] theorem setCan_rcd (c : Fin 8) (f : Can → Can) (s : State) : (setCan c f s).rcd = s.rcd := rfl
@[simp] theorem setCan_pan (c : Fin 8) (f : Can → Can) (s : State) : (setCan c f s).pan = s.pan := rfl
@[simp] theorem setCan_pwr (c : Fin 8) (f : Can → Can) (s : State) : (setCan c f s).pwr = s.pwr := rfl
@[simp] theorem setCan_side (c : Fin 8) (f : Can → Can) (s : State) : (setCan c f s).side = s.side := rfl
@[simp] theorem setCan_codes (c : Fin 8) (f : Can → Can) (s : State) : (setCan c f s).codes = s.codes := rfl
@[simp] theorem setCan_out (c : Fin 8) (f : Can → Can) (s : State) : (setCan c f s).out = s.out := rfl
@[simp] theorem setCan_free (c : Fin 8) (f : Can → Can) (s : State) : (setCan c f s).free = s.free := rfl
@[simp] theorem setCan_pending (c : Fin 8) (f : Can → Can) (s : State) : (setCan c f s).pending = s.pending := rfl

@[simp] theorem setEth_ident (f : Eth → Eth) (s : State) : (setEth f s).ident = s.ident := rfl
@[simp] theorem setEth_mem (f : Eth → Eth) (s : State) : (setEth f s).mem = s.mem := rfl
@[simp] theorem setEth_hub (f : Eth → Eth) (s : State) : (setEth f s).hub = s.hub := rfl
@[simp] theorem setEth_shu (f : Eth → Eth) (s : State) : (setEth f s).shu = s.shu := rfl
@[simp] theorem setEth_loom (f : Eth → Eth) (s : State) : (setEth f s).loom = s.loom := rfl
@[simp] theorem setEth_tbase (f : Eth → Eth) (s : State) : (setEth f s).tbase = s.tbase := rfl
@[simp] theorem setEth_zor (f : Eth → Eth) (s : State) : (setEth f s).zor = s.zor := rfl
@[simp] theorem setEth_prism (f : Eth → Eth) (s : State) : (setEth f s).prism = s.prism := rfl
@[simp] theorem setEth_win (f : Eth → Eth) (s : State) : (setEth f s).win = s.win := rfl
@[simp] theorem setEth_dbank (f : Eth → Eth) (s : State) : (setEth f s).dbank = s.dbank := rfl
@[simp] theorem setEth_dio (f : Eth → Eth) (s : State) : (setEth f s).dio = s.dio := rfl
@[simp] theorem setEth_aio (f : Eth → Eth) (s : State) : (setEth f s).aio = s.aio := rfl
@[simp] theorem setEth_enc (f : Eth → Eth) (s : State) : (setEth f s).enc = s.enc := rfl
@[simp] theorem setEth_can (f : Eth → Eth) (s : State) : (setEth f s).can = s.can := rfl
@[simp] theorem setEth_eth (f : Eth → Eth) (s : State) : (setEth f s).eth = f s.eth := rfl
@[simp] theorem setEth_tim (f : Eth → Eth) (s : State) : (setEth f s).tim = s.tim := rfl
@[simp] theorem setEth_brk (f : Eth → Eth) (s : State) : (setEth f s).brk = s.brk := rfl
@[simp] theorem setEth_mir (f : Eth → Eth) (s : State) : (setEth f s).mir = s.mir := rfl
@[simp] theorem setEth_hed (f : Eth → Eth) (s : State) : (setEth f s).hed = s.hed := rfl
@[simp] theorem setEth_sec (f : Eth → Eth) (s : State) : (setEth f s).sec = s.sec := rfl
@[simp] theorem setEth_svc (f : Eth → Eth) (s : State) : (setEth f s).svc = s.svc := rfl
@[simp] theorem setEth_rcd (f : Eth → Eth) (s : State) : (setEth f s).rcd = s.rcd := rfl
@[simp] theorem setEth_pan (f : Eth → Eth) (s : State) : (setEth f s).pan = s.pan := rfl
@[simp] theorem setEth_pwr (f : Eth → Eth) (s : State) : (setEth f s).pwr = s.pwr := rfl
@[simp] theorem setEth_side (f : Eth → Eth) (s : State) : (setEth f s).side = s.side := rfl
@[simp] theorem setEth_codes (f : Eth → Eth) (s : State) : (setEth f s).codes = s.codes := rfl
@[simp] theorem setEth_out (f : Eth → Eth) (s : State) : (setEth f s).out = s.out := rfl
@[simp] theorem setEth_free (f : Eth → Eth) (s : State) : (setEth f s).free = s.free := rfl
@[simp] theorem setEth_pending (f : Eth → Eth) (s : State) : (setEth f s).pending = s.pending := rfl

@[simp] theorem setTim_ident (f : Tim → Tim) (s : State) : (setTim f s).ident = s.ident := rfl
@[simp] theorem setTim_mem (f : Tim → Tim) (s : State) : (setTim f s).mem = s.mem := rfl
@[simp] theorem setTim_hub (f : Tim → Tim) (s : State) : (setTim f s).hub = s.hub := rfl
@[simp] theorem setTim_shu (f : Tim → Tim) (s : State) : (setTim f s).shu = s.shu := rfl
@[simp] theorem setTim_loom (f : Tim → Tim) (s : State) : (setTim f s).loom = s.loom := rfl
@[simp] theorem setTim_tbase (f : Tim → Tim) (s : State) : (setTim f s).tbase = s.tbase := rfl
@[simp] theorem setTim_zor (f : Tim → Tim) (s : State) : (setTim f s).zor = s.zor := rfl
@[simp] theorem setTim_prism (f : Tim → Tim) (s : State) : (setTim f s).prism = s.prism := rfl
@[simp] theorem setTim_win (f : Tim → Tim) (s : State) : (setTim f s).win = s.win := rfl
@[simp] theorem setTim_dbank (f : Tim → Tim) (s : State) : (setTim f s).dbank = s.dbank := rfl
@[simp] theorem setTim_dio (f : Tim → Tim) (s : State) : (setTim f s).dio = s.dio := rfl
@[simp] theorem setTim_aio (f : Tim → Tim) (s : State) : (setTim f s).aio = s.aio := rfl
@[simp] theorem setTim_enc (f : Tim → Tim) (s : State) : (setTim f s).enc = s.enc := rfl
@[simp] theorem setTim_can (f : Tim → Tim) (s : State) : (setTim f s).can = s.can := rfl
@[simp] theorem setTim_eth (f : Tim → Tim) (s : State) : (setTim f s).eth = s.eth := rfl
@[simp] theorem setTim_tim (f : Tim → Tim) (s : State) : (setTim f s).tim = f s.tim := rfl
@[simp] theorem setTim_brk (f : Tim → Tim) (s : State) : (setTim f s).brk = s.brk := rfl
@[simp] theorem setTim_mir (f : Tim → Tim) (s : State) : (setTim f s).mir = s.mir := rfl
@[simp] theorem setTim_hed (f : Tim → Tim) (s : State) : (setTim f s).hed = s.hed := rfl
@[simp] theorem setTim_sec (f : Tim → Tim) (s : State) : (setTim f s).sec = s.sec := rfl
@[simp] theorem setTim_svc (f : Tim → Tim) (s : State) : (setTim f s).svc = s.svc := rfl
@[simp] theorem setTim_rcd (f : Tim → Tim) (s : State) : (setTim f s).rcd = s.rcd := rfl
@[simp] theorem setTim_pan (f : Tim → Tim) (s : State) : (setTim f s).pan = s.pan := rfl
@[simp] theorem setTim_pwr (f : Tim → Tim) (s : State) : (setTim f s).pwr = s.pwr := rfl
@[simp] theorem setTim_side (f : Tim → Tim) (s : State) : (setTim f s).side = s.side := rfl
@[simp] theorem setTim_codes (f : Tim → Tim) (s : State) : (setTim f s).codes = s.codes := rfl
@[simp] theorem setTim_out (f : Tim → Tim) (s : State) : (setTim f s).out = s.out := rfl
@[simp] theorem setTim_free (f : Tim → Tim) (s : State) : (setTim f s).free = s.free := rfl
@[simp] theorem setTim_pending (f : Tim → Tim) (s : State) : (setTim f s).pending = s.pending := rfl

@[simp] theorem setZor_ident (f : Zoros → Zoros) (s : State) : (setZor f s).ident = s.ident := rfl
@[simp] theorem setZor_mem (f : Zoros → Zoros) (s : State) : (setZor f s).mem = s.mem := rfl
@[simp] theorem setZor_hub (f : Zoros → Zoros) (s : State) : (setZor f s).hub = s.hub := rfl
@[simp] theorem setZor_shu (f : Zoros → Zoros) (s : State) : (setZor f s).shu = s.shu := rfl
@[simp] theorem setZor_loom (f : Zoros → Zoros) (s : State) : (setZor f s).loom = s.loom := rfl
@[simp] theorem setZor_tbase (f : Zoros → Zoros) (s : State) : (setZor f s).tbase = s.tbase := rfl
@[simp] theorem setZor_zor (f : Zoros → Zoros) (s : State) : (setZor f s).zor = f s.zor := rfl
@[simp] theorem setZor_prism (f : Zoros → Zoros) (s : State) : (setZor f s).prism = s.prism := rfl
@[simp] theorem setZor_win (f : Zoros → Zoros) (s : State) : (setZor f s).win = s.win := rfl
@[simp] theorem setZor_dbank (f : Zoros → Zoros) (s : State) : (setZor f s).dbank = s.dbank := rfl
@[simp] theorem setZor_dio (f : Zoros → Zoros) (s : State) : (setZor f s).dio = s.dio := rfl
@[simp] theorem setZor_aio (f : Zoros → Zoros) (s : State) : (setZor f s).aio = s.aio := rfl
@[simp] theorem setZor_enc (f : Zoros → Zoros) (s : State) : (setZor f s).enc = s.enc := rfl
@[simp] theorem setZor_can (f : Zoros → Zoros) (s : State) : (setZor f s).can = s.can := rfl
@[simp] theorem setZor_eth (f : Zoros → Zoros) (s : State) : (setZor f s).eth = s.eth := rfl
@[simp] theorem setZor_tim (f : Zoros → Zoros) (s : State) : (setZor f s).tim = s.tim := rfl
@[simp] theorem setZor_brk (f : Zoros → Zoros) (s : State) : (setZor f s).brk = s.brk := rfl
@[simp] theorem setZor_mir (f : Zoros → Zoros) (s : State) : (setZor f s).mir = s.mir := rfl
@[simp] theorem setZor_hed (f : Zoros → Zoros) (s : State) : (setZor f s).hed = s.hed := rfl
@[simp] theorem setZor_sec (f : Zoros → Zoros) (s : State) : (setZor f s).sec = s.sec := rfl
@[simp] theorem setZor_svc (f : Zoros → Zoros) (s : State) : (setZor f s).svc = s.svc := rfl
@[simp] theorem setZor_rcd (f : Zoros → Zoros) (s : State) : (setZor f s).rcd = s.rcd := rfl
@[simp] theorem setZor_pan (f : Zoros → Zoros) (s : State) : (setZor f s).pan = s.pan := rfl
@[simp] theorem setZor_pwr (f : Zoros → Zoros) (s : State) : (setZor f s).pwr = s.pwr := rfl
@[simp] theorem setZor_side (f : Zoros → Zoros) (s : State) : (setZor f s).side = s.side := rfl
@[simp] theorem setZor_codes (f : Zoros → Zoros) (s : State) : (setZor f s).codes = s.codes := rfl
@[simp] theorem setZor_out (f : Zoros → Zoros) (s : State) : (setZor f s).out = s.out := rfl
@[simp] theorem setZor_free (f : Zoros → Zoros) (s : State) : (setZor f s).free = s.free := rfl
@[simp] theorem setZor_pending (f : Zoros → Zoros) (s : State) : (setZor f s).pending = s.pending := rfl

@[simp] theorem setMir_ident (f : Mirror → Mirror) (s : State) : (setMir f s).ident = s.ident := rfl
@[simp] theorem setMir_mem (f : Mirror → Mirror) (s : State) : (setMir f s).mem = s.mem := rfl
@[simp] theorem setMir_hub (f : Mirror → Mirror) (s : State) : (setMir f s).hub = s.hub := rfl
@[simp] theorem setMir_shu (f : Mirror → Mirror) (s : State) : (setMir f s).shu = s.shu := rfl
@[simp] theorem setMir_loom (f : Mirror → Mirror) (s : State) : (setMir f s).loom = s.loom := rfl
@[simp] theorem setMir_tbase (f : Mirror → Mirror) (s : State) : (setMir f s).tbase = s.tbase := rfl
@[simp] theorem setMir_zor (f : Mirror → Mirror) (s : State) : (setMir f s).zor = s.zor := rfl
@[simp] theorem setMir_prism (f : Mirror → Mirror) (s : State) : (setMir f s).prism = s.prism := rfl
@[simp] theorem setMir_win (f : Mirror → Mirror) (s : State) : (setMir f s).win = s.win := rfl
@[simp] theorem setMir_dbank (f : Mirror → Mirror) (s : State) : (setMir f s).dbank = s.dbank := rfl
@[simp] theorem setMir_dio (f : Mirror → Mirror) (s : State) : (setMir f s).dio = s.dio := rfl
@[simp] theorem setMir_aio (f : Mirror → Mirror) (s : State) : (setMir f s).aio = s.aio := rfl
@[simp] theorem setMir_enc (f : Mirror → Mirror) (s : State) : (setMir f s).enc = s.enc := rfl
@[simp] theorem setMir_can (f : Mirror → Mirror) (s : State) : (setMir f s).can = s.can := rfl
@[simp] theorem setMir_eth (f : Mirror → Mirror) (s : State) : (setMir f s).eth = s.eth := rfl
@[simp] theorem setMir_tim (f : Mirror → Mirror) (s : State) : (setMir f s).tim = s.tim := rfl
@[simp] theorem setMir_brk (f : Mirror → Mirror) (s : State) : (setMir f s).brk = s.brk := rfl
@[simp] theorem setMir_mir (f : Mirror → Mirror) (s : State) : (setMir f s).mir = f s.mir := rfl
@[simp] theorem setMir_hed (f : Mirror → Mirror) (s : State) : (setMir f s).hed = s.hed := rfl
@[simp] theorem setMir_sec (f : Mirror → Mirror) (s : State) : (setMir f s).sec = s.sec := rfl
@[simp] theorem setMir_svc (f : Mirror → Mirror) (s : State) : (setMir f s).svc = s.svc := rfl
@[simp] theorem setMir_rcd (f : Mirror → Mirror) (s : State) : (setMir f s).rcd = s.rcd := rfl
@[simp] theorem setMir_pan (f : Mirror → Mirror) (s : State) : (setMir f s).pan = s.pan := rfl
@[simp] theorem setMir_pwr (f : Mirror → Mirror) (s : State) : (setMir f s).pwr = s.pwr := rfl
@[simp] theorem setMir_side (f : Mirror → Mirror) (s : State) : (setMir f s).side = s.side := rfl
@[simp] theorem setMir_codes (f : Mirror → Mirror) (s : State) : (setMir f s).codes = s.codes := rfl
@[simp] theorem setMir_out (f : Mirror → Mirror) (s : State) : (setMir f s).out = s.out := rfl
@[simp] theorem setMir_free (f : Mirror → Mirror) (s : State) : (setMir f s).free = s.free := rfl
@[simp] theorem setMir_pending (f : Mirror → Mirror) (s : State) : (setMir f s).pending = s.pending := rfl

@[simp] theorem setPwr_ident (f : Pwr → Pwr) (s : State) : (setPwr f s).ident = s.ident := rfl
@[simp] theorem setPwr_mem (f : Pwr → Pwr) (s : State) : (setPwr f s).mem = s.mem := rfl
@[simp] theorem setPwr_hub (f : Pwr → Pwr) (s : State) : (setPwr f s).hub = s.hub := rfl
@[simp] theorem setPwr_shu (f : Pwr → Pwr) (s : State) : (setPwr f s).shu = s.shu := rfl
@[simp] theorem setPwr_loom (f : Pwr → Pwr) (s : State) : (setPwr f s).loom = s.loom := rfl
@[simp] theorem setPwr_tbase (f : Pwr → Pwr) (s : State) : (setPwr f s).tbase = s.tbase := rfl
@[simp] theorem setPwr_zor (f : Pwr → Pwr) (s : State) : (setPwr f s).zor = s.zor := rfl
@[simp] theorem setPwr_prism (f : Pwr → Pwr) (s : State) : (setPwr f s).prism = s.prism := rfl
@[simp] theorem setPwr_win (f : Pwr → Pwr) (s : State) : (setPwr f s).win = s.win := rfl
@[simp] theorem setPwr_dbank (f : Pwr → Pwr) (s : State) : (setPwr f s).dbank = s.dbank := rfl
@[simp] theorem setPwr_dio (f : Pwr → Pwr) (s : State) : (setPwr f s).dio = s.dio := rfl
@[simp] theorem setPwr_aio (f : Pwr → Pwr) (s : State) : (setPwr f s).aio = s.aio := rfl
@[simp] theorem setPwr_enc (f : Pwr → Pwr) (s : State) : (setPwr f s).enc = s.enc := rfl
@[simp] theorem setPwr_can (f : Pwr → Pwr) (s : State) : (setPwr f s).can = s.can := rfl
@[simp] theorem setPwr_eth (f : Pwr → Pwr) (s : State) : (setPwr f s).eth = s.eth := rfl
@[simp] theorem setPwr_tim (f : Pwr → Pwr) (s : State) : (setPwr f s).tim = s.tim := rfl
@[simp] theorem setPwr_brk (f : Pwr → Pwr) (s : State) : (setPwr f s).brk = s.brk := rfl
@[simp] theorem setPwr_mir (f : Pwr → Pwr) (s : State) : (setPwr f s).mir = s.mir := rfl
@[simp] theorem setPwr_hed (f : Pwr → Pwr) (s : State) : (setPwr f s).hed = s.hed := rfl
@[simp] theorem setPwr_sec (f : Pwr → Pwr) (s : State) : (setPwr f s).sec = s.sec := rfl
@[simp] theorem setPwr_svc (f : Pwr → Pwr) (s : State) : (setPwr f s).svc = s.svc := rfl
@[simp] theorem setPwr_rcd (f : Pwr → Pwr) (s : State) : (setPwr f s).rcd = s.rcd := rfl
@[simp] theorem setPwr_pan (f : Pwr → Pwr) (s : State) : (setPwr f s).pan = s.pan := rfl
@[simp] theorem setPwr_pwr (f : Pwr → Pwr) (s : State) : (setPwr f s).pwr = f s.pwr := rfl
@[simp] theorem setPwr_side (f : Pwr → Pwr) (s : State) : (setPwr f s).side = s.side := rfl
@[simp] theorem setPwr_codes (f : Pwr → Pwr) (s : State) : (setPwr f s).codes = s.codes := rfl
@[simp] theorem setPwr_out (f : Pwr → Pwr) (s : State) : (setPwr f s).out = s.out := rfl
@[simp] theorem setPwr_free (f : Pwr → Pwr) (s : State) : (setPwr f s).free = s.free := rfl
@[simp] theorem setPwr_pending (f : Pwr → Pwr) (s : State) : (setPwr f s).pending = s.pending := rfl

@[simp] theorem setPan_ident (f : Pan → Pan) (s : State) : (setPan f s).ident = s.ident := rfl
@[simp] theorem setPan_mem (f : Pan → Pan) (s : State) : (setPan f s).mem = s.mem := rfl
@[simp] theorem setPan_hub (f : Pan → Pan) (s : State) : (setPan f s).hub = s.hub := rfl
@[simp] theorem setPan_shu (f : Pan → Pan) (s : State) : (setPan f s).shu = s.shu := rfl
@[simp] theorem setPan_loom (f : Pan → Pan) (s : State) : (setPan f s).loom = s.loom := rfl
@[simp] theorem setPan_tbase (f : Pan → Pan) (s : State) : (setPan f s).tbase = s.tbase := rfl
@[simp] theorem setPan_zor (f : Pan → Pan) (s : State) : (setPan f s).zor = s.zor := rfl
@[simp] theorem setPan_prism (f : Pan → Pan) (s : State) : (setPan f s).prism = s.prism := rfl
@[simp] theorem setPan_win (f : Pan → Pan) (s : State) : (setPan f s).win = s.win := rfl
@[simp] theorem setPan_dbank (f : Pan → Pan) (s : State) : (setPan f s).dbank = s.dbank := rfl
@[simp] theorem setPan_dio (f : Pan → Pan) (s : State) : (setPan f s).dio = s.dio := rfl
@[simp] theorem setPan_aio (f : Pan → Pan) (s : State) : (setPan f s).aio = s.aio := rfl
@[simp] theorem setPan_enc (f : Pan → Pan) (s : State) : (setPan f s).enc = s.enc := rfl
@[simp] theorem setPan_can (f : Pan → Pan) (s : State) : (setPan f s).can = s.can := rfl
@[simp] theorem setPan_eth (f : Pan → Pan) (s : State) : (setPan f s).eth = s.eth := rfl
@[simp] theorem setPan_tim (f : Pan → Pan) (s : State) : (setPan f s).tim = s.tim := rfl
@[simp] theorem setPan_brk (f : Pan → Pan) (s : State) : (setPan f s).brk = s.brk := rfl
@[simp] theorem setPan_mir (f : Pan → Pan) (s : State) : (setPan f s).mir = s.mir := rfl
@[simp] theorem setPan_hed (f : Pan → Pan) (s : State) : (setPan f s).hed = s.hed := rfl
@[simp] theorem setPan_sec (f : Pan → Pan) (s : State) : (setPan f s).sec = s.sec := rfl
@[simp] theorem setPan_svc (f : Pan → Pan) (s : State) : (setPan f s).svc = s.svc := rfl
@[simp] theorem setPan_rcd (f : Pan → Pan) (s : State) : (setPan f s).rcd = s.rcd := rfl
@[simp] theorem setPan_pan (f : Pan → Pan) (s : State) : (setPan f s).pan = f s.pan := rfl
@[simp] theorem setPan_pwr (f : Pan → Pan) (s : State) : (setPan f s).pwr = s.pwr := rfl
@[simp] theorem setPan_side (f : Pan → Pan) (s : State) : (setPan f s).side = s.side := rfl
@[simp] theorem setPan_codes (f : Pan → Pan) (s : State) : (setPan f s).codes = s.codes := rfl
@[simp] theorem setPan_out (f : Pan → Pan) (s : State) : (setPan f s).out = s.out := rfl
@[simp] theorem setPan_free (f : Pan → Pan) (s : State) : (setPan f s).free = s.free := rfl
@[simp] theorem setPan_pending (f : Pan → Pan) (s : State) : (setPan f s).pending = s.pending := rfl

@[simp] theorem setSvc_ident (f : Svc → Svc) (s : State) : (setSvc f s).ident = s.ident := rfl
@[simp] theorem setSvc_mem (f : Svc → Svc) (s : State) : (setSvc f s).mem = s.mem := rfl
@[simp] theorem setSvc_hub (f : Svc → Svc) (s : State) : (setSvc f s).hub = s.hub := rfl
@[simp] theorem setSvc_shu (f : Svc → Svc) (s : State) : (setSvc f s).shu = s.shu := rfl
@[simp] theorem setSvc_loom (f : Svc → Svc) (s : State) : (setSvc f s).loom = s.loom := rfl
@[simp] theorem setSvc_tbase (f : Svc → Svc) (s : State) : (setSvc f s).tbase = s.tbase := rfl
@[simp] theorem setSvc_zor (f : Svc → Svc) (s : State) : (setSvc f s).zor = s.zor := rfl
@[simp] theorem setSvc_prism (f : Svc → Svc) (s : State) : (setSvc f s).prism = s.prism := rfl
@[simp] theorem setSvc_win (f : Svc → Svc) (s : State) : (setSvc f s).win = s.win := rfl
@[simp] theorem setSvc_dbank (f : Svc → Svc) (s : State) : (setSvc f s).dbank = s.dbank := rfl
@[simp] theorem setSvc_dio (f : Svc → Svc) (s : State) : (setSvc f s).dio = s.dio := rfl
@[simp] theorem setSvc_aio (f : Svc → Svc) (s : State) : (setSvc f s).aio = s.aio := rfl
@[simp] theorem setSvc_enc (f : Svc → Svc) (s : State) : (setSvc f s).enc = s.enc := rfl
@[simp] theorem setSvc_can (f : Svc → Svc) (s : State) : (setSvc f s).can = s.can := rfl
@[simp] theorem setSvc_eth (f : Svc → Svc) (s : State) : (setSvc f s).eth = s.eth := rfl
@[simp] theorem setSvc_tim (f : Svc → Svc) (s : State) : (setSvc f s).tim = s.tim := rfl
@[simp] theorem setSvc_brk (f : Svc → Svc) (s : State) : (setSvc f s).brk = s.brk := rfl
@[simp] theorem setSvc_mir (f : Svc → Svc) (s : State) : (setSvc f s).mir = s.mir := rfl
@[simp] theorem setSvc_hed (f : Svc → Svc) (s : State) : (setSvc f s).hed = s.hed := rfl
@[simp] theorem setSvc_sec (f : Svc → Svc) (s : State) : (setSvc f s).sec = s.sec := rfl
@[simp] theorem setSvc_svc (f : Svc → Svc) (s : State) : (setSvc f s).svc = f s.svc := rfl
@[simp] theorem setSvc_rcd (f : Svc → Svc) (s : State) : (setSvc f s).rcd = s.rcd := rfl
@[simp] theorem setSvc_pan (f : Svc → Svc) (s : State) : (setSvc f s).pan = s.pan := rfl
@[simp] theorem setSvc_pwr (f : Svc → Svc) (s : State) : (setSvc f s).pwr = s.pwr := rfl
@[simp] theorem setSvc_side (f : Svc → Svc) (s : State) : (setSvc f s).side = s.side := rfl
@[simp] theorem setSvc_codes (f : Svc → Svc) (s : State) : (setSvc f s).codes = s.codes := rfl
@[simp] theorem setSvc_out (f : Svc → Svc) (s : State) : (setSvc f s).out = s.out := rfl
@[simp] theorem setSvc_free (f : Svc → Svc) (s : State) : (setSvc f s).free = s.free := rfl
@[simp] theorem setSvc_pending (f : Svc → Svc) (s : State) : (setSvc f s).pending = s.pending := rfl

@[simp] theorem setHed_ident (b : Fin 24) (f : Bank → Bank) (s : State) : (setHed b f s).ident = s.ident := rfl
@[simp] theorem setHed_mem (b : Fin 24) (f : Bank → Bank) (s : State) : (setHed b f s).mem = s.mem := rfl
@[simp] theorem setHed_hub (b : Fin 24) (f : Bank → Bank) (s : State) : (setHed b f s).hub = s.hub := rfl
@[simp] theorem setHed_shu (b : Fin 24) (f : Bank → Bank) (s : State) : (setHed b f s).shu = s.shu := rfl
@[simp] theorem setHed_loom (b : Fin 24) (f : Bank → Bank) (s : State) : (setHed b f s).loom = s.loom := rfl
@[simp] theorem setHed_tbase (b : Fin 24) (f : Bank → Bank) (s : State) : (setHed b f s).tbase = s.tbase := rfl
@[simp] theorem setHed_zor (b : Fin 24) (f : Bank → Bank) (s : State) : (setHed b f s).zor = s.zor := rfl
@[simp] theorem setHed_prism (b : Fin 24) (f : Bank → Bank) (s : State) : (setHed b f s).prism = s.prism := rfl
@[simp] theorem setHed_win (b : Fin 24) (f : Bank → Bank) (s : State) : (setHed b f s).win = s.win := rfl
@[simp] theorem setHed_dbank (b : Fin 24) (f : Bank → Bank) (s : State) : (setHed b f s).dbank = s.dbank := rfl
@[simp] theorem setHed_dio (b : Fin 24) (f : Bank → Bank) (s : State) : (setHed b f s).dio = s.dio := rfl
@[simp] theorem setHed_aio (b : Fin 24) (f : Bank → Bank) (s : State) : (setHed b f s).aio = s.aio := rfl
@[simp] theorem setHed_enc (b : Fin 24) (f : Bank → Bank) (s : State) : (setHed b f s).enc = s.enc := rfl
@[simp] theorem setHed_can (b : Fin 24) (f : Bank → Bank) (s : State) : (setHed b f s).can = s.can := rfl
@[simp] theorem setHed_eth (b : Fin 24) (f : Bank → Bank) (s : State) : (setHed b f s).eth = s.eth := rfl
@[simp] theorem setHed_tim (b : Fin 24) (f : Bank → Bank) (s : State) : (setHed b f s).tim = s.tim := rfl
@[simp] theorem setHed_brk (b : Fin 24) (f : Bank → Bank) (s : State) : (setHed b f s).brk = s.brk := rfl
@[simp] theorem setHed_mir (b : Fin 24) (f : Bank → Bank) (s : State) : (setHed b f s).mir = s.mir := rfl
@[simp] theorem setHed_hed (b : Fin 24) (f : Bank → Bank) (s : State) : (setHed b f s).hed = { s.hed with banks := vmod s.hed.banks b f } := rfl
@[simp] theorem setHed_sec (b : Fin 24) (f : Bank → Bank) (s : State) : (setHed b f s).sec = s.sec := rfl
@[simp] theorem setHed_svc (b : Fin 24) (f : Bank → Bank) (s : State) : (setHed b f s).svc = s.svc := rfl
@[simp] theorem setHed_rcd (b : Fin 24) (f : Bank → Bank) (s : State) : (setHed b f s).rcd = s.rcd := rfl
@[simp] theorem setHed_pan (b : Fin 24) (f : Bank → Bank) (s : State) : (setHed b f s).pan = s.pan := rfl
@[simp] theorem setHed_pwr (b : Fin 24) (f : Bank → Bank) (s : State) : (setHed b f s).pwr = s.pwr := rfl
@[simp] theorem setHed_side (b : Fin 24) (f : Bank → Bank) (s : State) : (setHed b f s).side = s.side := rfl
@[simp] theorem setHed_codes (b : Fin 24) (f : Bank → Bank) (s : State) : (setHed b f s).codes = s.codes := rfl
@[simp] theorem setHed_out (b : Fin 24) (f : Bank → Bank) (s : State) : (setHed b f s).out = s.out := rfl
@[simp] theorem setHed_free (b : Fin 24) (f : Bank → Bank) (s : State) : (setHed b f s).free = s.free := rfl
@[simp] theorem setHed_pending (b : Fin 24) (f : Bank → Bank) (s : State) : (setHed b f s).pending = s.pending := rfl

@[simp] theorem setBrk_ident (c : Fin 4) (f : BrkCh → BrkCh) (s : State) : (setBrk c f s).ident = s.ident := rfl
@[simp] theorem setBrk_mem (c : Fin 4) (f : BrkCh → BrkCh) (s : State) : (setBrk c f s).mem = s.mem := rfl
@[simp] theorem setBrk_hub (c : Fin 4) (f : BrkCh → BrkCh) (s : State) : (setBrk c f s).hub = s.hub := rfl
@[simp] theorem setBrk_shu (c : Fin 4) (f : BrkCh → BrkCh) (s : State) : (setBrk c f s).shu = s.shu := rfl
@[simp] theorem setBrk_loom (c : Fin 4) (f : BrkCh → BrkCh) (s : State) : (setBrk c f s).loom = s.loom := rfl
@[simp] theorem setBrk_tbase (c : Fin 4) (f : BrkCh → BrkCh) (s : State) : (setBrk c f s).tbase = s.tbase := rfl
@[simp] theorem setBrk_zor (c : Fin 4) (f : BrkCh → BrkCh) (s : State) : (setBrk c f s).zor = s.zor := rfl
@[simp] theorem setBrk_prism (c : Fin 4) (f : BrkCh → BrkCh) (s : State) : (setBrk c f s).prism = s.prism := rfl
@[simp] theorem setBrk_win (c : Fin 4) (f : BrkCh → BrkCh) (s : State) : (setBrk c f s).win = s.win := rfl
@[simp] theorem setBrk_dbank (c : Fin 4) (f : BrkCh → BrkCh) (s : State) : (setBrk c f s).dbank = s.dbank := rfl
@[simp] theorem setBrk_dio (c : Fin 4) (f : BrkCh → BrkCh) (s : State) : (setBrk c f s).dio = s.dio := rfl
@[simp] theorem setBrk_aio (c : Fin 4) (f : BrkCh → BrkCh) (s : State) : (setBrk c f s).aio = s.aio := rfl
@[simp] theorem setBrk_enc (c : Fin 4) (f : BrkCh → BrkCh) (s : State) : (setBrk c f s).enc = s.enc := rfl
@[simp] theorem setBrk_can (c : Fin 4) (f : BrkCh → BrkCh) (s : State) : (setBrk c f s).can = s.can := rfl
@[simp] theorem setBrk_eth (c : Fin 4) (f : BrkCh → BrkCh) (s : State) : (setBrk c f s).eth = s.eth := rfl
@[simp] theorem setBrk_tim (c : Fin 4) (f : BrkCh → BrkCh) (s : State) : (setBrk c f s).tim = s.tim := rfl
@[simp] theorem setBrk_brk (c : Fin 4) (f : BrkCh → BrkCh) (s : State) : (setBrk c f s).brk = { s.brk with ch := vmod s.brk.ch c f } := rfl
@[simp] theorem setBrk_mir (c : Fin 4) (f : BrkCh → BrkCh) (s : State) : (setBrk c f s).mir = s.mir := rfl
@[simp] theorem setBrk_hed (c : Fin 4) (f : BrkCh → BrkCh) (s : State) : (setBrk c f s).hed = s.hed := rfl
@[simp] theorem setBrk_sec (c : Fin 4) (f : BrkCh → BrkCh) (s : State) : (setBrk c f s).sec = s.sec := rfl
@[simp] theorem setBrk_svc (c : Fin 4) (f : BrkCh → BrkCh) (s : State) : (setBrk c f s).svc = s.svc := rfl
@[simp] theorem setBrk_rcd (c : Fin 4) (f : BrkCh → BrkCh) (s : State) : (setBrk c f s).rcd = s.rcd := rfl
@[simp] theorem setBrk_pan (c : Fin 4) (f : BrkCh → BrkCh) (s : State) : (setBrk c f s).pan = s.pan := rfl
@[simp] theorem setBrk_pwr (c : Fin 4) (f : BrkCh → BrkCh) (s : State) : (setBrk c f s).pwr = s.pwr := rfl
@[simp] theorem setBrk_side (c : Fin 4) (f : BrkCh → BrkCh) (s : State) : (setBrk c f s).side = s.side := rfl
@[simp] theorem setBrk_codes (c : Fin 4) (f : BrkCh → BrkCh) (s : State) : (setBrk c f s).codes = s.codes := rfl
@[simp] theorem setBrk_out (c : Fin 4) (f : BrkCh → BrkCh) (s : State) : (setBrk c f s).out = s.out := rfl
@[simp] theorem setBrk_free (c : Fin 4) (f : BrkCh → BrkCh) (s : State) : (setBrk c f s).free = s.free := rfl
@[simp] theorem setBrk_pending (c : Fin 4) (f : BrkCh → BrkCh) (s : State) : (setBrk c f s).pending = s.pending := rfl

@[simp] theorem setRing_ident (r : Fin 64) (f : Ring → Ring) (s : State) : (setRing r f s).ident = s.ident := rfl
@[simp] theorem setRing_mem (r : Fin 64) (f : Ring → Ring) (s : State) : (setRing r f s).mem = s.mem := rfl
@[simp] theorem setRing_hub (r : Fin 64) (f : Ring → Ring) (s : State) : (setRing r f s).hub = s.hub := rfl
@[simp] theorem setRing_shu (r : Fin 64) (f : Ring → Ring) (s : State) : (setRing r f s).shu = { s.shu with rings := vmod s.shu.rings r f } := rfl
@[simp] theorem setRing_loom (r : Fin 64) (f : Ring → Ring) (s : State) : (setRing r f s).loom = s.loom := rfl
@[simp] theorem setRing_tbase (r : Fin 64) (f : Ring → Ring) (s : State) : (setRing r f s).tbase = s.tbase := rfl
@[simp] theorem setRing_zor (r : Fin 64) (f : Ring → Ring) (s : State) : (setRing r f s).zor = s.zor := rfl
@[simp] theorem setRing_prism (r : Fin 64) (f : Ring → Ring) (s : State) : (setRing r f s).prism = s.prism := rfl
@[simp] theorem setRing_win (r : Fin 64) (f : Ring → Ring) (s : State) : (setRing r f s).win = s.win := rfl
@[simp] theorem setRing_dbank (r : Fin 64) (f : Ring → Ring) (s : State) : (setRing r f s).dbank = s.dbank := rfl
@[simp] theorem setRing_dio (r : Fin 64) (f : Ring → Ring) (s : State) : (setRing r f s).dio = s.dio := rfl
@[simp] theorem setRing_aio (r : Fin 64) (f : Ring → Ring) (s : State) : (setRing r f s).aio = s.aio := rfl
@[simp] theorem setRing_enc (r : Fin 64) (f : Ring → Ring) (s : State) : (setRing r f s).enc = s.enc := rfl
@[simp] theorem setRing_can (r : Fin 64) (f : Ring → Ring) (s : State) : (setRing r f s).can = s.can := rfl
@[simp] theorem setRing_eth (r : Fin 64) (f : Ring → Ring) (s : State) : (setRing r f s).eth = s.eth := rfl
@[simp] theorem setRing_tim (r : Fin 64) (f : Ring → Ring) (s : State) : (setRing r f s).tim = s.tim := rfl
@[simp] theorem setRing_brk (r : Fin 64) (f : Ring → Ring) (s : State) : (setRing r f s).brk = s.brk := rfl
@[simp] theorem setRing_mir (r : Fin 64) (f : Ring → Ring) (s : State) : (setRing r f s).mir = s.mir := rfl
@[simp] theorem setRing_hed (r : Fin 64) (f : Ring → Ring) (s : State) : (setRing r f s).hed = s.hed := rfl
@[simp] theorem setRing_sec (r : Fin 64) (f : Ring → Ring) (s : State) : (setRing r f s).sec = s.sec := rfl
@[simp] theorem setRing_svc (r : Fin 64) (f : Ring → Ring) (s : State) : (setRing r f s).svc = s.svc := rfl
@[simp] theorem setRing_rcd (r : Fin 64) (f : Ring → Ring) (s : State) : (setRing r f s).rcd = s.rcd := rfl
@[simp] theorem setRing_pan (r : Fin 64) (f : Ring → Ring) (s : State) : (setRing r f s).pan = s.pan := rfl
@[simp] theorem setRing_pwr (r : Fin 64) (f : Ring → Ring) (s : State) : (setRing r f s).pwr = s.pwr := rfl
@[simp] theorem setRing_side (r : Fin 64) (f : Ring → Ring) (s : State) : (setRing r f s).side = s.side := rfl
@[simp] theorem setRing_codes (r : Fin 64) (f : Ring → Ring) (s : State) : (setRing r f s).codes = s.codes := rfl
@[simp] theorem setRing_out (r : Fin 64) (f : Ring → Ring) (s : State) : (setRing r f s).out = s.out := rfl
@[simp] theorem setRing_free (r : Fin 64) (f : Ring → Ring) (s : State) : (setRing r f s).free = s.free := rfl
@[simp] theorem setRing_pending (r : Fin 64) (f : Ring → Ring) (s : State) : (setRing r f s).pending = s.pending := rfl

@[simp] theorem setSess_ident (f : Session → Session) (s : State) : (setSess f s).ident = s.ident := rfl
@[simp] theorem setSess_mem (f : Session → Session) (s : State) : (setSess f s).mem = s.mem := rfl
@[simp] theorem setSess_hub (f : Session → Session) (s : State) : (setSess f s).hub = s.hub := rfl
@[simp] theorem setSess_shu (f : Session → Session) (s : State) : (setSess f s).shu = { s.shu with sess := f s.shu.sess } := rfl
@[simp] theorem setSess_loom (f : Session → Session) (s : State) : (setSess f s).loom = s.loom := rfl
@[simp] theorem setSess_tbase (f : Session → Session) (s : State) : (setSess f s).tbase = s.tbase := rfl
@[simp] theorem setSess_zor (f : Session → Session) (s : State) : (setSess f s).zor = s.zor := rfl
@[simp] theorem setSess_prism (f : Session → Session) (s : State) : (setSess f s).prism = s.prism := rfl
@[simp] theorem setSess_win (f : Session → Session) (s : State) : (setSess f s).win = s.win := rfl
@[simp] theorem setSess_dbank (f : Session → Session) (s : State) : (setSess f s).dbank = s.dbank := rfl
@[simp] theorem setSess_dio (f : Session → Session) (s : State) : (setSess f s).dio = s.dio := rfl
@[simp] theorem setSess_aio (f : Session → Session) (s : State) : (setSess f s).aio = s.aio := rfl
@[simp] theorem setSess_enc (f : Session → Session) (s : State) : (setSess f s).enc = s.enc := rfl
@[simp] theorem setSess_can (f : Session → Session) (s : State) : (setSess f s).can = s.can := rfl
@[simp] theorem setSess_eth (f : Session → Session) (s : State) : (setSess f s).eth = s.eth := rfl
@[simp] theorem setSess_tim (f : Session → Session) (s : State) : (setSess f s).tim = s.tim := rfl
@[simp] theorem setSess_brk (f : Session → Session) (s : State) : (setSess f s).brk = s.brk := rfl
@[simp] theorem setSess_mir (f : Session → Session) (s : State) : (setSess f s).mir = s.mir := rfl
@[simp] theorem setSess_hed (f : Session → Session) (s : State) : (setSess f s).hed = s.hed := rfl
@[simp] theorem setSess_sec (f : Session → Session) (s : State) : (setSess f s).sec = s.sec := rfl
@[simp] theorem setSess_svc (f : Session → Session) (s : State) : (setSess f s).svc = s.svc := rfl
@[simp] theorem setSess_rcd (f : Session → Session) (s : State) : (setSess f s).rcd = s.rcd := rfl
@[simp] theorem setSess_pan (f : Session → Session) (s : State) : (setSess f s).pan = s.pan := rfl
@[simp] theorem setSess_pwr (f : Session → Session) (s : State) : (setSess f s).pwr = s.pwr := rfl
@[simp] theorem setSess_side (f : Session → Session) (s : State) : (setSess f s).side = s.side := rfl
@[simp] theorem setSess_codes (f : Session → Session) (s : State) : (setSess f s).codes = s.codes := rfl
@[simp] theorem setSess_out (f : Session → Session) (s : State) : (setSess f s).out = s.out := rfl
@[simp] theorem setSess_free (f : Session → Session) (s : State) : (setSess f s).free = s.free := rfl
@[simp] theorem setSess_pending (f : Session → Session) (s : State) : (setSess f s).pending = s.pending := rfl

@[simp] theorem setHandle_ident (i : Nat) (e : HEntry) (s : State) : (setHandle i e s).ident = s.ident := rfl
@[simp] theorem setHandle_mem (i : Nat) (e : HEntry) (s : State) : (setHandle i e s).mem = s.mem := rfl
@[simp] theorem setHandle_hub (i : Nat) (e : HEntry) (s : State) : (setHandle i e s).hub = s.hub := rfl
@[simp] theorem setHandle_shu (i : Nat) (e : HEntry) (s : State) : (setHandle i e s).shu = { s.shu with handles := mapSet s.shu.handles i e } := rfl
@[simp] theorem setHandle_loom (i : Nat) (e : HEntry) (s : State) : (setHandle i e s).loom = s.loom := rfl
@[simp] theorem setHandle_tbase (i : Nat) (e : HEntry) (s : State) : (setHandle i e s).tbase = s.tbase := rfl
@[simp] theorem setHandle_zor (i : Nat) (e : HEntry) (s : State) : (setHandle i e s).zor = s.zor := rfl
@[simp] theorem setHandle_prism (i : Nat) (e : HEntry) (s : State) : (setHandle i e s).prism = s.prism := rfl
@[simp] theorem setHandle_win (i : Nat) (e : HEntry) (s : State) : (setHandle i e s).win = s.win := rfl
@[simp] theorem setHandle_dbank (i : Nat) (e : HEntry) (s : State) : (setHandle i e s).dbank = s.dbank := rfl
@[simp] theorem setHandle_dio (i : Nat) (e : HEntry) (s : State) : (setHandle i e s).dio = s.dio := rfl
@[simp] theorem setHandle_aio (i : Nat) (e : HEntry) (s : State) : (setHandle i e s).aio = s.aio := rfl
@[simp] theorem setHandle_enc (i : Nat) (e : HEntry) (s : State) : (setHandle i e s).enc = s.enc := rfl
@[simp] theorem setHandle_can (i : Nat) (e : HEntry) (s : State) : (setHandle i e s).can = s.can := rfl
@[simp] theorem setHandle_eth (i : Nat) (e : HEntry) (s : State) : (setHandle i e s).eth = s.eth := rfl
@[simp] theorem setHandle_tim (i : Nat) (e : HEntry) (s : State) : (setHandle i e s).tim = s.tim := rfl
@[simp] theorem setHandle_brk (i : Nat) (e : HEntry) (s : State) : (setHandle i e s).brk = s.brk := rfl
@[simp] theorem setHandle_mir (i : Nat) (e : HEntry) (s : State) : (setHandle i e s).mir = s.mir := rfl
@[simp] theorem setHandle_hed (i : Nat) (e : HEntry) (s : State) : (setHandle i e s).hed = s.hed := rfl
@[simp] theorem setHandle_sec (i : Nat) (e : HEntry) (s : State) : (setHandle i e s).sec = s.sec := rfl
@[simp] theorem setHandle_svc (i : Nat) (e : HEntry) (s : State) : (setHandle i e s).svc = s.svc := rfl
@[simp] theorem setHandle_rcd (i : Nat) (e : HEntry) (s : State) : (setHandle i e s).rcd = s.rcd := rfl
@[simp] theorem setHandle_pan (i : Nat) (e : HEntry) (s : State) : (setHandle i e s).pan = s.pan := rfl
@[simp] theorem setHandle_pwr (i : Nat) (e : HEntry) (s : State) : (setHandle i e s).pwr = s.pwr := rfl
@[simp] theorem setHandle_side (i : Nat) (e : HEntry) (s : State) : (setHandle i e s).side = s.side := rfl
@[simp] theorem setHandle_codes (i : Nat) (e : HEntry) (s : State) : (setHandle i e s).codes = s.codes := rfl
@[simp] theorem setHandle_out (i : Nat) (e : HEntry) (s : State) : (setHandle i e s).out = s.out := rfl
@[simp] theorem setHandle_free (i : Nat) (e : HEntry) (s : State) : (setHandle i e s).free = s.free := rfl
@[simp] theorem setHandle_pending (i : Nat) (e : HEntry) (s : State) : (setHandle i e s).pending = s.pending := rfl

@[simp] theorem emit_ident (o : Output) (s : State) : (emit o s).ident = s.ident := rfl
@[simp] theorem emit_mem (o : Output) (s : State) : (emit o s).mem = s.mem := rfl
@[simp] theorem emit_hub (o : Output) (s : State) : (emit o s).hub = s.hub := rfl
@[simp] theorem emit_shu (o : Output) (s : State) : (emit o s).shu = s.shu := rfl
@[simp] theorem emit_loom (o : Output) (s : State) : (emit o s).loom = s.loom := rfl
@[simp] theorem emit_tbase (o : Output) (s : State) : (emit o s).tbase = s.tbase := rfl
@[simp] theorem emit_zor (o : Output) (s : State) : (emit o s).zor = s.zor := rfl
@[simp] theorem emit_prism (o : Output) (s : State) : (emit o s).prism = s.prism := rfl
@[simp] theorem emit_win (o : Output) (s : State) : (emit o s).win = s.win := rfl
@[simp] theorem emit_dbank (o : Output) (s : State) : (emit o s).dbank = s.dbank := rfl
@[simp] theorem emit_dio (o : Output) (s : State) : (emit o s).dio = s.dio := rfl
@[simp] theorem emit_aio (o : Output) (s : State) : (emit o s).aio = s.aio := rfl
@[simp] theorem emit_enc (o : Output) (s : State) : (emit o s).enc = s.enc := rfl
@[simp] theorem emit_can (o : Output) (s : State) : (emit o s).can = s.can := rfl
@[simp] theorem emit_eth (o : Output) (s : State) : (emit o s).eth = s.eth := rfl
@[simp] theorem emit_tim (o : Output) (s : State) : (emit o s).tim = s.tim := rfl
@[simp] theorem emit_brk (o : Output) (s : State) : (emit o s).brk = s.brk := rfl
@[simp] theorem emit_mir (o : Output) (s : State) : (emit o s).mir = s.mir := rfl
@[simp] theorem emit_hed (o : Output) (s : State) : (emit o s).hed = s.hed := rfl
@[simp] theorem emit_sec (o : Output) (s : State) : (emit o s).sec = s.sec := rfl
@[simp] theorem emit_svc (o : Output) (s : State) : (emit o s).svc = s.svc := rfl
@[simp] theorem emit_rcd (o : Output) (s : State) : (emit o s).rcd = s.rcd := rfl
@[simp] theorem emit_pan (o : Output) (s : State) : (emit o s).pan = s.pan := rfl
@[simp] theorem emit_pwr (o : Output) (s : State) : (emit o s).pwr = s.pwr := rfl
@[simp] theorem emit_side (o : Output) (s : State) : (emit o s).side = s.side := rfl
@[simp] theorem emit_codes (o : Output) (s : State) : (emit o s).codes = s.codes := rfl
@[simp] theorem emit_out (o : Output) (s : State) : (emit o s).out = o :: s.out := rfl
@[simp] theorem emit_free (o : Output) (s : State) : (emit o s).free = s.free := rfl
@[simp] theorem emit_pending (o : Output) (s : State) : (emit o s).pending = s.pending := rfl

@[simp] theorem drawn_ident (s : State) : (drawn s).ident = s.ident := rfl
@[simp] theorem drawn_mem (s : State) : (drawn s).mem = s.mem := rfl
@[simp] theorem drawn_hub (s : State) : (drawn s).hub = s.hub := rfl
@[simp] theorem drawn_shu (s : State) : (drawn s).shu = s.shu := rfl
@[simp] theorem drawn_loom (s : State) : (drawn s).loom = s.loom := rfl
@[simp] theorem drawn_tbase (s : State) : (drawn s).tbase = s.tbase := rfl
@[simp] theorem drawn_zor (s : State) : (drawn s).zor = s.zor := rfl
@[simp] theorem drawn_prism (s : State) : (drawn s).prism = s.prism := rfl
@[simp] theorem drawn_win (s : State) : (drawn s).win = s.win := rfl
@[simp] theorem drawn_dbank (s : State) : (drawn s).dbank = s.dbank := rfl
@[simp] theorem drawn_dio (s : State) : (drawn s).dio = s.dio := rfl
@[simp] theorem drawn_aio (s : State) : (drawn s).aio = s.aio := rfl
@[simp] theorem drawn_enc (s : State) : (drawn s).enc = s.enc := rfl
@[simp] theorem drawn_can (s : State) : (drawn s).can = s.can := rfl
@[simp] theorem drawn_eth (s : State) : (drawn s).eth = s.eth := rfl
@[simp] theorem drawn_tim (s : State) : (drawn s).tim = s.tim := rfl
@[simp] theorem drawn_brk (s : State) : (drawn s).brk = s.brk := rfl
@[simp] theorem drawn_mir (s : State) : (drawn s).mir = s.mir := rfl
@[simp] theorem drawn_hed (s : State) : (drawn s).hed = s.hed := rfl
@[simp] theorem drawn_sec (s : State) : (drawn s).sec = s.sec := rfl
@[simp] theorem drawn_svc (s : State) : (drawn s).svc = s.svc := rfl
@[simp] theorem drawn_rcd (s : State) : (drawn s).rcd = s.rcd := rfl
@[simp] theorem drawn_pan (s : State) : (drawn s).pan = s.pan := rfl
@[simp] theorem drawn_pwr (s : State) : (drawn s).pwr = s.pwr := rfl
@[simp] theorem drawn_side (s : State) : (drawn s).side = s.side := rfl
@[simp] theorem drawn_codes (s : State) : (drawn s).codes = s.codes := rfl
@[simp] theorem drawn_out (s : State) : (drawn s).out = s.out := rfl
@[simp] theorem drawn_free (s : State) : (drawn s).free = s.free + 1 := rfl
@[simp] theorem drawn_pending (s : State) : (drawn s).pending = s.pending := rfl

end Sys2Proof.Machine
end

