-- ==== Sys2Proof/Laws/Frame.lean ====
section
/-! SUPPORT. A block of the state as one value, and what record updates and folds keep of it. -/

set_option Elab.async false

namespace Sys2Proof.Laws

open Machine

/-- What stands in one block. -/
inductive View where
  | ident (x : Ident)
  | mem (x : List Host.Cell)
  | hub (x : Hub)
  | shu (x : Shuttle)
  | loom (x : Vector Loom 8)
  | tbase (x : Word)
  | zor (x : Zoros)
  | prism (x : Vector Prism 4)
  | win (x : SlotWin)
  | dbank (x : Vector DioBank 4)
  | dio (x : Vector DioCh 32)
  | aio (x : Vector Aio 16)
  | enc (x : Vector Enc 4)
  | can (x : Vector Can 8)
  | eth (x : Eth)
  | tim (x : Tim)
  | brk (x : Brk)
  | mir (x : Mirror)
  | hed (x : Hed)
  | sec (x : Sec)
  | svc (x : Svc)
  | rcd (x : Recorder)
  | pan (x : Pan)
  | pwr (x : Pwr)
  | side (x : Side)
  | codes (x : List CodeDef)
  | out (x : List Output)
  | free (x : Nat)
  | pending (x : List Instr)

/-- Block `k` of a state, as a value: a frame lemma says that an operation keeps it. -/
def view (k : Blk) (s : State) : View :=
  match k with
  | .ident => .ident s.ident
  | .mem => .mem s.mem
  | .hub => .hub s.hub
  | .shu => .shu s.shu
  | .loom => .loom s.loom
  | .tbase => .tbase s.tbase
  | .zor => .zor s.zor
  | .prism => .prism s.prism
  | .win => .win s.win
  | .dbank => .dbank s.dbank
  | .dio => .dio s.dio
  | .aio => .aio s.aio
  | .enc => .enc s.enc
  | .can => .can s.can
  | .eth => .eth s.eth
  | .tim => .tim s.tim
  | .brk => .brk s.brk
  | .mir => .mir s.mir
  | .hed => .hed s.hed
  | .sec => .sec s.sec
  | .svc => .svc s.svc
  | .rcd => .rcd s.rcd
  | .pan => .pan s.pan
  | .pwr => .pwr s.pwr
  | .side => .side s.side
  | .codes => .codes s.codes
  | .out => .out s.out
  | .free => .free s.free
  | .pending => .pending s.pending

theorem same_iff (k : Blk) (s t : State) : k.same s t ↔ view k t = view k s := by cases k <;> simp [Blk.same, view]

theorem view_when {k : Blk} {c : Bool} {f : State → State} (s : State) (h : ∀ t, view k (f t) = view k t) : view k (when c f s) = view k s := by
  cases c
  · rfl
  · exact h s

theorem view_foldl {k : Blk} {α : Type} {f : State → α → State} (h : ∀ t x, view k (f t x) = view k t) (l : List α) (s : State) :
    view k (l.foldl f s) = view k s := by
  induction l generalizing s with
  | nil => rfl
  | cons a l ih => rw [List.foldl_cons, ih, h]

theorem view_foldFin {k : Blk} {n : Nat} {f : State → Fin n → State} (h : ∀ t x, view k (f t x) = view k t) (s : State) :
    view k (foldFin n f s) = view k s := view_foldl h _ s

/-- What a command's outcome keeps: some view of the next state. -/
def viewR (k : Blk) (r : Res) : Option View :=
  match r with
  | .next t => some (view k t)
  | _ => none

theorem viewR_ok (k : Blk) (s : State) : viewR k (ok s) = some (view k s) := rfl

theorem viewR_next (k : Blk) (s : State) : viewR k (.next s) = some (view k s) := rfl

theorem view_put_mem {k : Blk} (h : k ≠ .mem) (s : State) (x : _) : view k { s with mem := x } = view k s := by
  cases k <;> first | rfl | exact absurd rfl h

theorem view_put_hub {k : Blk} (h : k ≠ .hub) (s : State) (x : _) : view k { s with hub := x } = view k s := by
  cases k <;> first | rfl | exact absurd rfl h

theorem view_put_shu {k : Blk} (h : k ≠ .shu) (s : State) (x : _) : view k { s with shu := x } = view k s := by
  cases k <;> first | rfl | exact absurd rfl h

theorem view_put_loom {k : Blk} (h : k ≠ .loom) (s : State) (x : _) : view k { s with loom := x } = view k s := by
  cases k <;> first | rfl | exact absurd rfl h

theorem view_put_tbase {k : Blk} (h : k ≠ .tbase) (s : State) (x : _) : view k { s with tbase := x } = view k s := by
  cases k <;> first | rfl | exact absurd rfl h

theorem view_put_zor {k : Blk} (h : k ≠ .zor) (s : State) (x : _) : view k { s with zor := x } = view k s := by
  cases k <;> first | rfl | exact absurd rfl h

theorem view_put_prism {k : Blk} (h : k ≠ .prism) (s : State) (x : _) : view k { s with prism := x } = view k s := by
  cases k <;> first | rfl | exact absurd rfl h

theorem view_put_win {k : Blk} (h : k ≠ .win) (s : State) (x : _) : view k { s with win := x } = view k s := by
  cases k <;> first | rfl | exact absurd rfl h

theorem view_put_dbank {k : Blk} (h : k ≠ .dbank) (s : State) (x : _) : view k { s with dbank := x } = view k s := by
  cases k <;> first | rfl | exact absurd rfl h

theorem view_put_dio {k : Blk} (h : k ≠ .dio) (s : State) (x : _) : view k { s with dio := x } = view k s := by
  cases k <;> first | rfl | exact absurd rfl h

theorem view_put_aio {k : Blk} (h : k ≠ .aio) (s : State) (x : _) : view k { s with aio := x } = view k s := by
  cases k <;> first | rfl | exact absurd rfl h

theorem view_put_enc {k : Blk} (h : k ≠ .enc) (s : State) (x : _) : view k { s with enc := x } = view k s := by
  cases k <;> first | rfl | exact absurd rfl h

theorem view_put_can {k : Blk} (h : k ≠ .can) (s : State) (x : _) : view k { s with can := x } = view k s := by
  cases k <;> first | rfl | exact absurd rfl h

theorem view_put_eth {k : Blk} (h : k ≠ .eth) (s : State) (x : _) : view k { s with eth := x } = view k s := by
  cases k <;> first | rfl | exact absurd rfl h

theorem view_put_tim {k : Blk} (h : k ≠ .tim) (s : State) (x : _) : view k { s with tim := x } = view k s := by
  cases k <;> first | rfl | exact absurd rfl h

theorem view_put_brk {k : Blk} (h : k ≠ .brk) (s : State) (x : _) : view k { s with brk := x } = view k s := by
  cases k <;> first | rfl | exact absurd rfl h

theorem view_put_mir {k : Blk} (h : k ≠ .mir) (s : State) (x : _) : view k { s with mir := x } = view k s := by
  cases k <;> first | rfl | exact absurd rfl h

theorem view_put_hed {k : Blk} (h : k ≠ .hed) (s : State) (x : _) : view k { s with hed := x } = view k s := by
  cases k <;> first | rfl | exact absurd rfl h

theorem view_put_sec {k : Blk} (h : k ≠ .sec) (s : State) (x : _) : view k { s with sec := x } = view k s := by
  cases k <;> first | rfl | exact absurd rfl h

theorem view_put_svc {k : Blk} (h : k ≠ .svc) (s : State) (x : _) : view k { s with svc := x } = view k s := by
  cases k <;> first | rfl | exact absurd rfl h

theorem view_put_rcd {k : Blk} (h : k ≠ .rcd) (s : State) (x : _) : view k { s with rcd := x } = view k s := by
  cases k <;> first | rfl | exact absurd rfl h

theorem view_put_pan {k : Blk} (h : k ≠ .pan) (s : State) (x : _) : view k { s with pan := x } = view k s := by
  cases k <;> first | rfl | exact absurd rfl h

theorem view_put_pwr {k : Blk} (h : k ≠ .pwr) (s : State) (x : _) : view k { s with pwr := x } = view k s := by
  cases k <;> first | rfl | exact absurd rfl h

theorem view_put_side {k : Blk} (h : k ≠ .side) (s : State) (x : _) : view k { s with side := x } = view k s := by
  cases k <;> first | rfl | exact absurd rfl h

theorem view_put_codes {k : Blk} (h : k ≠ .codes) (s : State) (x : _) : view k { s with codes := x } = view k s := by
  cases k <;> first | rfl | exact absurd rfl h

theorem view_put_out {k : Blk} (h : k ≠ .out) (s : State) (x : _) : view k { s with out := x } = view k s := by
  cases k <;> first | rfl | exact absurd rfl h

theorem view_put_free {k : Blk} (h : k ≠ .free) (s : State) (x : _) : view k { s with free := x } = view k s := by
  cases k <;> first | rfl | exact absurd rfl h

theorem view_put_aio_mir {k : Blk} (h0 : k ≠ .aio) (h1 : k ≠ .mir) (s : State) (x0 : _) (x1 : _) : view k { s with aio := x0, mir := x1 } = view k s := by
  cases k <;> first | rfl | exact absurd rfl h0 | exact absurd rfl h1

theorem view_put_aio_enc_mir {k : Blk} (h0 : k ≠ .aio) (h1 : k ≠ .enc) (h2 : k ≠ .mir) (s : State) (x0 : _) (x1 : _) (x2 : _) : view k { s with aio := x0, enc := x1, mir := x2 } = view k s := by
  cases k <;> first | rfl | exact absurd rfl h0 | exact absurd rfl h1 | exact absurd rfl h2

theorem view_put_dbank_aio {k : Blk} (h0 : k ≠ .dbank) (h1 : k ≠ .aio) (s : State) (x0 : _) (x1 : _) : view k { s with dbank := x0, aio := x1 } = view k s := by
  cases k <;> first | rfl | exact absurd rfl h0 | exact absurd rfl h1

theorem view_put_dbank_aio_brk {k : Blk} (h0 : k ≠ .dbank) (h1 : k ≠ .aio) (h2 : k ≠ .brk) (s : State) (x0 : _) (x1 : _) (x2 : _) : view k { s with dbank := x0, aio := x1, brk := x2 } = view k s := by
  cases k <;> first | rfl | exact absurd rfl h0 | exact absurd rfl h1 | exact absurd rfl h2

theorem view_put_dbank_aio_brk_mir {k : Blk} (h0 : k ≠ .dbank) (h1 : k ≠ .aio) (h2 : k ≠ .brk) (h3 : k ≠ .mir) (s : State) (x0 : _) (x1 : _) (x2 : _) (x3 : _) : view k { s with dbank := x0, aio := x1, brk := x2, mir := x3 } = view k s := by
  cases k <;> first | rfl | exact absurd rfl h0 | exact absurd rfl h1 | exact absurd rfl h2 | exact absurd rfl h3

theorem view_put_dio_can {k : Blk} (h0 : k ≠ .dio) (h1 : k ≠ .can) (s : State) (x0 : _) (x1 : _) : view k { s with dio := x0, can := x1 } = view k s := by
  cases k <;> first | rfl | exact absurd rfl h0 | exact absurd rfl h1

theorem view_put_dio_can_brk {k : Blk} (h0 : k ≠ .dio) (h1 : k ≠ .can) (h2 : k ≠ .brk) (s : State) (x0 : _) (x1 : _) (x2 : _) : view k { s with dio := x0, can := x1, brk := x2 } = view k s := by
  cases k <;> first | rfl | exact absurd rfl h0 | exact absurd rfl h1 | exact absurd rfl h2

theorem view_put_eth_tim {k : Blk} (h0 : k ≠ .eth) (h1 : k ≠ .tim) (s : State) (x0 : _) (x1 : _) : view k { s with eth := x0, tim := x1 } = view k s := by
  cases k <;> first | rfl | exact absurd rfl h0 | exact absurd rfl h1

theorem view_put_loom_mir {k : Blk} (h0 : k ≠ .loom) (h1 : k ≠ .mir) (s : State) (x0 : _) (x1 : _) : view k { s with loom := x0, mir := x1 } = view k s := by
  cases k <;> first | rfl | exact absurd rfl h0 | exact absurd rfl h1

theorem view_put_loom_zor {k : Blk} (h0 : k ≠ .loom) (h1 : k ≠ .zor) (s : State) (x0 : _) (x1 : _) : view k { s with loom := x0, zor := x1 } = view k s := by
  cases k <;> first | rfl | exact absurd rfl h0 | exact absurd rfl h1

theorem view_put_loom_zor_mir {k : Blk} (h0 : k ≠ .loom) (h1 : k ≠ .zor) (h2 : k ≠ .mir) (s : State) (x0 : _) (x1 : _) (x2 : _) : view k { s with loom := x0, zor := x1, mir := x2 } = view k s := by
  cases k <;> first | rfl | exact absurd rfl h0 | exact absurd rfl h1 | exact absurd rfl h2

theorem view_put_shu_mir {k : Blk} (h0 : k ≠ .shu) (h1 : k ≠ .mir) (s : State) (x0 : _) (x1 : _) : view k { s with shu := x0, mir := x1 } = view k s := by
  cases k <;> first | rfl | exact absurd rfl h0 | exact absurd rfl h1

theorem view_put_shu_sec {k : Blk} (h0 : k ≠ .shu) (h1 : k ≠ .sec) (s : State) (x0 : _) (x1 : _) : view k { s with shu := x0, sec := x1 } = view k s := by
  cases k <;> first | rfl | exact absurd rfl h0 | exact absurd rfl h1

theorem view_put_shu_zor {k : Blk} (h0 : k ≠ .shu) (h1 : k ≠ .zor) (s : State) (x0 : _) (x1 : _) : view k { s with shu := x0, zor := x1 } = view k s := by
  cases k <;> first | rfl | exact absurd rfl h0 | exact absurd rfl h1

theorem view_put_svc_pwr {k : Blk} (h0 : k ≠ .svc) (h1 : k ≠ .pwr) (s : State) (x0 : _) (x1 : _) : view k { s with svc := x0, pwr := x1 } = view k s := by
  cases k <;> first | rfl | exact absurd rfl h0 | exact absurd rfl h1

theorem view_put_svc_pwr_side {k : Blk} (h0 : k ≠ .svc) (h1 : k ≠ .pwr) (h2 : k ≠ .side) (s : State) (x0 : _) (x1 : _) (x2 : _) : view k { s with svc := x0, pwr := x1, side := x2 } = view k s := by
  cases k <;> first | rfl | exact absurd rfl h0 | exact absurd rfl h1 | exact absurd rfl h2

theorem view_put_svc_side {k : Blk} (h0 : k ≠ .svc) (h1 : k ≠ .side) (s : State) (x0 : _) (x1 : _) : view k { s with svc := x0, side := x1 } = view k s := by
  cases k <;> first | rfl | exact absurd rfl h0 | exact absurd rfl h1

theorem view_put_zor_brk {k : Blk} (h0 : k ≠ .zor) (h1 : k ≠ .brk) (s : State) (x0 : _) (x1 : _) : view k { s with zor := x0, brk := x1 } = view k s := by
  cases k <;> first | rfl | exact absurd rfl h0 | exact absurd rfl h1

theorem view_put_zor_brk_sec {k : Blk} (h0 : k ≠ .zor) (h1 : k ≠ .brk) (h2 : k ≠ .sec) (s : State) (x0 : _) (x1 : _) (x2 : _) : view k { s with zor := x0, brk := x1, sec := x2 } = view k s := by
  cases k <;> first | rfl | exact absurd rfl h0 | exact absurd rfl h1 | exact absurd rfl h2

@[simp] theorem view_ident_iff (s t : State) : view .ident t = view .ident s ↔ t.ident = s.ident := by simp [view]
@[simp] theorem view_mem_iff (s t : State) : view .mem t = view .mem s ↔ t.mem = s.mem := by simp [view]
@[simp] theorem view_hub_iff (s t : State) : view .hub t = view .hub s ↔ t.hub = s.hub := by simp [view]
@[simp] theorem view_shu_iff (s t : State) : view .shu t = view .shu s ↔ t.shu = s.shu := by simp [view]
@[simp] theorem view_loom_iff (s t : State) : view .loom t = view .loom s ↔ t.loom = s.loom := by simp [view]
@[simp] theorem view_tbase_iff (s t : State) : view .tbase t = view .tbase s ↔ t.tbase = s.tbase := by simp [view]
@[simp] theorem view_zor_iff (s t : State) : view .zor t = view .zor s ↔ t.zor = s.zor := by simp [view]
@[simp] theorem view_prism_iff (s t : State) : view .prism t = view .prism s ↔ t.prism = s.prism := by simp [view]
@[simp] theorem view_win_iff (s t : State) : view .win t = view .win s ↔ t.win = s.win := by simp [view]
@[simp] theorem view_dbank_iff (s t : State) : view .dbank t = view .dbank s ↔ t.dbank = s.dbank := by simp [view]
@[simp] theorem view_dio_iff (s t : State) : view .dio t = view .dio s ↔ t.dio = s.dio := by simp [view]
@[simp] theorem view_aio_iff (s t : State) : view .aio t = view .aio s ↔ t.aio = s.aio := by simp [view]
@[simp] theorem view_enc_iff (s t : State) : view .enc t = view .enc s ↔ t.enc = s.enc := by simp [view]
@[simp] theorem view_can_iff (s t : State) : view .can t = view .can s ↔ t.can = s.can := by simp [view]
@[simp] theorem view_eth_iff (s t : State) : view .eth t = view .eth s ↔ t.eth = s.eth := by simp [view]
@[simp] theorem view_tim_iff (s t : State) : view .tim t = view .tim s ↔ t.tim = s.tim := by simp [view]
@[simp] theorem view_brk_iff (s t : State) : view .brk t = view .brk s ↔ t.brk = s.brk := by simp [view]
@[simp] theorem view_mir_iff (s t : State) : view .mir t = view .mir s ↔ t.mir = s.mir := by simp [view]
@[simp] theorem view_hed_iff (s t : State) : view .hed t = view .hed s ↔ t.hed = s.hed := by simp [view]
@[simp] theorem view_sec_iff (s t : State) : view .sec t = view .sec s ↔ t.sec = s.sec := by simp [view]
@[simp] theorem view_svc_iff (s t : State) : view .svc t = view .svc s ↔ t.svc = s.svc := by simp [view]
@[simp] theorem view_rcd_iff (s t : State) : view .rcd t = view .rcd s ↔ t.rcd = s.rcd := by simp [view]
@[simp] theorem view_pan_iff (s t : State) : view .pan t = view .pan s ↔ t.pan = s.pan := by simp [view]
@[simp] theorem view_pwr_iff (s t : State) : view .pwr t = view .pwr s ↔ t.pwr = s.pwr := by simp [view]
@[simp] theorem view_side_iff (s t : State) : view .side t = view .side s ↔ t.side = s.side := by simp [view]
@[simp] theorem view_codes_iff (s t : State) : view .codes t = view .codes s ↔ t.codes = s.codes := by simp [view]
@[simp] theorem view_out_iff (s t : State) : view .out t = view .out s ↔ t.out = s.out := by simp [view]
@[simp] theorem view_free_iff (s t : State) : view .free t = view .free s ↔ t.free = s.free := by simp [view]
@[simp] theorem view_pending_iff (s t : State) : view .pending t = view .pending s ↔ t.pending = s.pending := by simp [view]

/-- A frame lemma read on the outcome of a command. -/
theorem viewR_frame {k : Blk} {r : Res} {s t : State} (h : viewR k r = some (view k s)) (e : r = .next t) : k.same s t := by
  subst e
  exact (same_iff k s t).mpr (Option.some.inj h)

end Sys2Proof.Laws
end

