-- ==== Sys2Proof/Laws/FrameOps.lean ====
section
/-! SUPPORT. What each operation of Machine/Ops.lean keeps: every block outside its footprint. -/

set_option Elab.async false

set_option linter.unusedSimpArgs false
set_option linter.unusedVariables false
set_option linter.unreachableTactic false
set_option linter.unusedTactic false
set_option linter.unnecessarySeqFocus false

namespace Sys2Proof.Laws

open Machine

theorem emit_view {k : Blk} (h : k ∉ ([.out] : List Blk)) (a0 : _) (a1 : _) :
    view k (emit a0 a1) = view k a1 := by
  simp only [List.mem_cons, List.not_mem_nil, or_false, not_or] at h
  simp only [emit, view_put_out, view_when, view_foldl, view_foldFin, h, List.mem_cons, List.not_mem_nil, or_false, not_or, ne_eq, not_false_eq_true, and_self]

theorem drawn_view {k : Blk} (h : k ∉ ([.free] : List Blk)) (a0 : _) :
    view k (drawn a0) = view k a0 := by
  simp only [List.mem_cons, List.not_mem_nil, or_false, not_or] at h
  simp only [drawn, view_put_free, view_when, view_foldl, view_foldFin, h, List.mem_cons, List.not_mem_nil, or_false, not_or, ne_eq, not_false_eq_true, and_self]

theorem raiseAt_view {k : Blk} (h : k ∉ ([.rcd] : List Blk)) (a0 : _) (a1 : _) (a2 : _) (a3 : _) (a4 : _) :
    view k (raiseAt a0 a1 a2 a3 a4) = view k a4 := by
  simp only [List.mem_cons, List.not_mem_nil, or_false, not_or] at h
  simp only [raiseAt, view_put_rcd, view_when, view_foldl, view_foldFin, apply_ite (view k), ite_self, implies_true, h, List.mem_cons, List.not_mem_nil, or_false, not_or, ne_eq, not_false_eq_true, and_self]

theorem raise_view {k : Blk} (h : k ∉ ([.rcd] : List Blk)) (a0 : _) (a1 : _) (a2 : _) (a3 : _) :
    view k (raise a0 a1 a2 a3) = view k a3 := by
  simp only [List.mem_cons, List.not_mem_nil, or_false, not_or] at h
  simp only [raise, raiseAt_view, view_when, view_foldl, view_foldFin, h, List.mem_cons, List.not_mem_nil, or_false, not_or, ne_eq, not_false_eq_true, and_self]

theorem raiseField_view {k : Blk} (h : k ∉ ([.rcd] : List Blk)) (a0 : _) (a1 : _) (a2 : _) (a3 : _) :
    view k (raiseField a0 a1 a2 a3) = view k a3 := by
  simp only [List.mem_cons, List.not_mem_nil, or_false, not_or] at h
  simp only [raiseField, raiseAt_view, view_when, view_foldl, view_foldFin, h, List.mem_cons, List.not_mem_nil, or_false, not_or, ne_eq, not_false_eq_true, and_self]

theorem raiseFabric_view {k : Blk} (h : k ∉ ([.rcd] : List Blk)) (a0 : _) (a1 : _) (a2 : _) (a3 : _) :
    view k (raiseFabric a0 a1 a2 a3) = view k a3 := by
  simp only [List.mem_cons, List.not_mem_nil, or_false, not_or] at h
  simp only [raiseFabric, raiseAt_view, view_when, view_foldl, view_foldFin, h, List.mem_cons, List.not_mem_nil, or_false, not_or, ne_eq, not_false_eq_true, and_self]

theorem raiseCan_view {k : Blk} (h : k ∉ ([.rcd] : List Blk)) (a0 : _) (a1 : _) (a2 : _) (a3 : _) :
    view k (raiseCan a0 a1 a2 a3) = view k a3 := by
  simp only [List.mem_cons, List.not_mem_nil, or_false, not_or] at h
  simp only [raiseCan, raiseAt_view, view_when, view_foldl, view_foldFin, h, List.mem_cons, List.not_mem_nil, or_false, not_or, ne_eq, not_false_eq_true, and_self]

theorem raiseOrLate_view {k : Blk} (h : k ∉ ([.rcd, .pwr] : List Blk)) (a0 : _) (a1 : _) (a2 : _) (a3 : _) :
    view k (raiseOrLate a0 a1 a2 a3) = view k a3 := by
  simp only [List.mem_cons, List.not_mem_nil, or_false, not_or] at h
  simp only [raiseOrLate, raise_view, view_put_pwr, view_when, view_foldl, view_foldFin, apply_ite (view k), ite_self, implies_true, h, List.mem_cons, List.not_mem_nil, or_false, not_or, ne_eq, not_false_eq_true, and_self]

theorem unitBad_view {k : Blk} (h : k ∉ ([.pwr] : List Blk)) (a0 : _) (a1 : _) :
    view k (unitBad a0 a1) = view k a1 := by
  simp only [List.mem_cons, List.not_mem_nil, or_false, not_or] at h
  simp only [unitBad, view_put_pwr, view_when, view_foldl, view_foldFin, h, List.mem_cons, List.not_mem_nil, or_false, not_or, ne_eq, not_false_eq_true, and_self]

theorem unitFault_view {k : Blk} (h : k ∉ ([.pwr] : List Blk)) (a0 : _) (a1 : _) :
    view k (unitFault a0 a1) = view k a1 := by
  simp only [List.mem_cons, List.not_mem_nil, or_false, not_or] at h
  unfold unitFault
  (repeat' split) <;> simp only [unitBad_view, view_put_pwr, view_when, view_foldl, view_foldFin, apply_ite (view k), ite_self, implies_true, h, List.mem_cons, List.not_mem_nil, or_false, not_or, ne_eq, not_false_eq_true, and_self]

theorem climb_view {k : Blk} (h : k ∉ ([.pwr] : List Blk)) (a0 : _) (a1 : _) (a2 : _) :
    view k (climb a0 a1 a2) = view k a2 := by
  simp only [List.mem_cons, List.not_mem_nil, or_false, not_or] at h
  simp only [climb, unitFault_view, view_put_pwr, view_when, view_foldl, view_foldFin, h, List.mem_cons, List.not_mem_nil, or_false, not_or, ne_eq, not_false_eq_true, and_self]

theorem frameOut_view {k : Blk} (h : k ∉ ([.mir, .out] : List Blk)) (a0 : _) (a1 : _) (a2 : _) :
    view k (frameOut a0 a1 a2) = view k a2 := by
  simp only [List.mem_cons, List.not_mem_nil, or_false, not_or] at h
  simp only [frameOut, emit_view, view_put_mir, view_when, view_foldl, view_foldFin, h, List.mem_cons, List.not_mem_nil, or_false, not_or, ne_eq, not_false_eq_true, and_self]

theorem sendFrame_view {k : Blk} (h : k ∉ ([.mir, .out] : List Blk)) (a0 : _) (a1 : _) (a2 : _) :
    view k (sendFrame a0 a1 a2) = view k a2 := by
  simp only [List.mem_cons, List.not_mem_nil, or_false, not_or] at h
  simp only [sendFrame, frameOut_view, view_put_mir, view_when, view_foldl, view_foldFin, apply_ite (view k), ite_self, implies_true, h, List.mem_cons, List.not_mem_nil, or_false, not_or, ne_eq, not_false_eq_true, and_self]

theorem txRun_view {k : Blk} (h : k ∉ ([.mir, .out] : List Blk)) (n s : _) :
    view k (txRun n s) = view k s := by
  simp only [List.mem_cons, List.not_mem_nil, or_false, not_or] at h
  induction n generalizing s with
  | zero => rfl
  | succ n ih =>
    unfold txRun
    (repeat' split) <;> first | rfl | simp only [ih, frameOut_view, view_put_mir, h, List.mem_cons, List.not_mem_nil, or_false, not_or, ne_eq, not_false_eq_true, and_self]

theorem forwardSend_view {k : Blk} (h : k ∉ ([.mir, .out] : List Blk)) (a0 : _) (a1 : _) (a2 : _) (a3 : _) (a4 : _) :
    view k (forwardSend a0 a1 a2 a3 a4) = view k a4 := by
  simp only [List.mem_cons, List.not_mem_nil, or_false, not_or] at h
  simp only [forwardSend, sendFrame_view, view_when, view_foldl, view_foldFin, apply_ite (view k), ite_self, implies_true, h, List.mem_cons, List.not_mem_nil, or_false, not_or, ne_eq, not_false_eq_true, and_self]

theorem pairTell_view {k : Blk} (h : k ∉ ([.mir, .out] : List Blk)) (a0 : _) (a1 : _) (a2 : _) (a3 : _) (a4 : _) :
    view k (pairTell a0 a1 a2 a3 a4) = view k a4 := by
  simp only [List.mem_cons, List.not_mem_nil, or_false, not_or] at h
  simp only [pairTell, forwardSend_view, view_put_mir, view_when, view_foldl, view_foldFin, h, List.mem_cons, List.not_mem_nil, or_false, not_or, ne_eq, not_false_eq_true, and_self]

theorem faultTell_view {k : Blk} (h : k ∉ ([.mir, .out] : List Blk)) (a0 : _) (a1 : _) (a2 : _) (a3 : _) :
    view k (faultTell a0 a1 a2 a3) = view k a3 := by
  simp only [List.mem_cons, List.not_mem_nil, or_false, not_or] at h
  simp only [faultTell, pairTell_view, view_put_mir, view_when, view_foldl, view_foldFin, h, List.mem_cons, List.not_mem_nil, or_false, not_or, ne_eq, not_false_eq_true, and_self]

theorem ptSet_view {k : Blk} (h : k ∉ ([.hub] : List Blk)) (a0 : _) (a1 : _) (a2 : _) :
    view k (ptSet a0 a1 a2) = view k a2 := by
  simp only [List.mem_cons, List.not_mem_nil, or_false, not_or] at h
  simp only [ptSet, view_put_hub, view_when, view_foldl, view_foldFin, h, List.mem_cons, List.not_mem_nil, or_false, not_or, ne_eq, not_false_eq_true, and_self]

theorem hubApply_view {k : Blk} (h : k ∉ ([.hub, .mir, .out] : List Blk)) (a0 : _) (a1 : _) (a2 : _) :
    view k (hubApply a0 a1 a2) = view k a2 := by
  simp only [List.mem_cons, List.not_mem_nil, or_false, not_or] at h
  simp only [hubApply, ptSet_view, sendFrame_view, view_when, view_foldl, view_foldFin, apply_ite (view k), ite_self, implies_true, h, List.mem_cons, List.not_mem_nil, or_false, not_or, ne_eq, not_false_eq_true, and_self]

theorem crossDiscard_view {k : Blk} (h : k ∉ ([.hed] : List Blk)) (a0 : _) :
    view k (crossDiscard a0) = view k a0 := by
  simp only [List.mem_cons, List.not_mem_nil, or_false, not_or] at h
  simp only [crossDiscard, view_put_hed, view_when, view_foldl, view_foldFin, h, List.mem_cons, List.not_mem_nil, or_false, not_or, ne_eq, not_false_eq_true, and_self]

theorem pointUpdate_view {k : Blk} (h : k ∉ ([.hub, .mir, .hed, .out] : List Blk)) (a0 : _) (a1 : _) (a2 : _) :
    view k (pointUpdate a0 a1 a2) = view k a2 := by
  simp only [List.mem_cons, List.not_mem_nil, or_false, not_or] at h
  simp only [pointUpdate, crossDiscard_view, hubApply_view, view_put_hub, view_when, view_foldl, view_foldFin, apply_ite (view k), ite_self, implies_true, h, List.mem_cons, List.not_mem_nil, or_false, not_or, ne_eq, not_false_eq_true, and_self]

theorem parityFail_view {k : Blk} (h : k ∉ ([.hed, .rcd, .pwr] : List Blk)) (a0 : _) (a1 : _) :
    view k (parityFail a0 a1) = view k a1 := by
  simp only [List.mem_cons, List.not_mem_nil, or_false, not_or] at h
  simp only [parityFail, raiseFabric_view, unitFault_view, view_put_hed, view_when, view_foldl, view_foldFin, h, List.mem_cons, List.not_mem_nil, or_false, not_or, ne_eq, not_false_eq_true, and_self]

theorem pointWord_view {k : Blk} (h : k ∉ ([.hub, .mir, .hed, .rcd, .pwr, .out] : List Blk)) (a0 : _) (a1 : _) (a2 : _) (a3 : _) (a4 : _) :
    view k (pointWord a0 a1 a2 a3 a4) = view k a4 := by
  simp only [List.mem_cons, List.not_mem_nil, or_false, not_or] at h
  unfold pointWord
  (repeat' split) <;> simp only [parityFail_view, pointUpdate_view, view_put_hed, view_when, view_foldl, view_foldFin, apply_ite (view k), ite_self, implies_true, h, List.mem_cons, List.not_mem_nil, or_false, not_or, ne_eq, not_false_eq_true, and_self]

theorem drainHub_view {k : Blk} (h : k ∉ ([.hub, .mir, .out] : List Blk)) (a0 : _) :
    view k (drainHub a0) = view k a0 := by
  simp only [List.mem_cons, List.not_mem_nil, or_false, not_or] at h
  simp only [drainHub, hubApply_view, view_put_hub, view_when, view_foldl, view_foldFin, apply_ite (view k), ite_self, implies_true, h, List.mem_cons, List.not_mem_nil, or_false, not_or, ne_eq, not_false_eq_true, and_self]

theorem msixMark_view {k : Blk} (h : k ∉ ([.shu] : List Blk)) (a0 : _) (a1 : _) (a2 : _) (a3 : _) :
    view k (msixMark a0 a1 a2 a3) = view k a3 := by
  simp only [List.mem_cons, List.not_mem_nil, or_false, not_or] at h
  simp only [msixMark, view_put_shu, view_when, view_foldl, view_foldFin, h, List.mem_cons, List.not_mem_nil, or_false, not_or, ne_eq, not_false_eq_true, and_self]

theorem msix_view {k : Blk} (h : k ∉ ([.shu, .out] : List Blk)) (a0 : _) (a1 : _) (a2 : _) :
    view k (msix a0 a1 a2) = view k a2 := by
  simp only [List.mem_cons, List.not_mem_nil, or_false, not_or] at h
  simp only [msix, msixMark_view, emit_view, view_when, view_foldl, view_foldFin, apply_ite (view k), ite_self, implies_true, h, List.mem_cons, List.not_mem_nil, or_false, not_or, ne_eq, not_false_eq_true, and_self]

theorem aerNote_view {k : Blk} (h : k ∉ ([.shu] : List Blk)) (a0 : _) (a1 : _) (a2 : _) :
    view k (aerNote a0 a1 a2) = view k a2 := by
  simp only [List.mem_cons, List.not_mem_nil, or_false, not_or] at h
  simp only [aerNote, view_put_shu, view_when, view_foldl, view_foldFin, h, List.mem_cons, List.not_mem_nil, or_false, not_or, ne_eq, not_false_eq_true, and_self]

theorem vector64_view {k : Blk} (h : k ∉ ([.shu, .out] : List Blk)) (a0 : _) :
    view k (vector64 a0) = view k a0 := by
  simp only [List.mem_cons, List.not_mem_nil, or_false, not_or] at h
  simp only [vector64, msix_view, view_when, view_foldl, view_foldFin, h, List.mem_cons, List.not_mem_nil, or_false, not_or, ne_eq, not_false_eq_true, and_self]

theorem setRing_view {k : Blk} (h : k ∉ ([.shu] : List Blk)) (a0 : _) (a1 : _) (a2 : _) :
    view k (setRing a0 a1 a2) = view k a2 := by
  simp only [List.mem_cons, List.not_mem_nil, or_false, not_or] at h
  simp only [setRing, view_put_shu, view_when, view_foldl, view_foldFin, h, List.mem_cons, List.not_mem_nil, or_false, not_or, ne_eq, not_false_eq_true, and_self]

theorem pruneStreams_view {k : Blk} (h : k ∉ ([.shu] : List Blk)) (a0 : _) :
    view k (pruneStreams a0) = view k a0 := by
  simp only [List.mem_cons, List.not_mem_nil, or_false, not_or] at h
  simp only [pruneStreams, view_put_shu, view_when, view_foldl, view_foldFin, h, List.mem_cons, List.not_mem_nil, or_false, not_or, ne_eq, not_false_eq_true, and_self]

theorem discardRing_view {k : Blk} (h : k ∉ ([.shu] : List Blk)) (a0 : _) (a1 : _) :
    view k (discardRing a0 a1) = view k a1 := by
  simp only [List.mem_cons, List.not_mem_nil, or_false, not_or] at h
  simp only [discardRing, pruneStreams_view, view_put_shu, view_when, view_foldl, view_foldFin, h, List.mem_cons, List.not_mem_nil, or_false, not_or, ne_eq, not_false_eq_true, and_self]

theorem disableRing_view {k : Blk} (h : k ∉ ([.shu] : List Blk)) (a0 : _) (a1 : _) :
    view k (disableRing a0 a1) = view k a1 := by
  simp only [List.mem_cons, List.not_mem_nil, or_false, not_or] at h
  simp only [disableRing, discardRing_view, setRing_view, view_when, view_foldl, view_foldFin, h, List.mem_cons, List.not_mem_nil, or_false, not_or, ne_eq, not_false_eq_true, and_self]

theorem stopRing_view {k : Blk} (h : k ∉ ([.shu, .out] : List Blk)) (a0 : _) (a1 : _) (a2 : _) :
    view k (stopRing a0 a1 a2) = view k a2 := by
  simp only [List.mem_cons, List.not_mem_nil, or_false, not_or] at h
  simp only [stopRing, setRing_view, vector64_view, view_put_shu, view_when, view_foldl, view_foldFin, h, List.mem_cons, List.not_mem_nil, or_false, not_or, ne_eq, not_false_eq_true, and_self]

theorem ringIrq_view {k : Blk} (h : k ∉ ([.shu, .out] : List Blk)) (a0 : _) (a1 : _) :
    view k (ringIrq a0 a1) = view k a1 := by
  simp only [List.mem_cons, List.not_mem_nil, or_false, not_or] at h
  simp only [ringIrq, setRing_view, msix_view, view_when, view_foldl, view_foldFin, apply_ite (view k), ite_self, implies_true, h, List.mem_cons, List.not_mem_nil, or_false, not_or, ne_eq, not_false_eq_true, and_self]

theorem writeCompletion_view {k : Blk} (h : k ∉ ([.shu, .out] : List Blk)) (a0 : _) (a1 : _) :
    view k (writeCompletion a0 a1) = view k a1 := by
  simp only [List.mem_cons, List.not_mem_nil, or_false, not_or] at h
  simp only [writeCompletion, ringIrq_view, setRing_view, emit_view, view_put_shu, view_when, view_foldl, view_foldFin, apply_ite (view k), ite_self, implies_true, h, List.mem_cons, List.not_mem_nil, or_false, not_or, ne_eq, not_false_eq_true, and_self]
  (repeat' split) <;> first | with_reducible rfl | simp only [ringIrq_view, setRing_view, emit_view, view_put_shu, view_when, view_foldl, view_foldFin, apply_ite (view k), ite_self, implies_true, h, List.mem_cons, List.not_mem_nil, or_false, not_or, ne_eq, not_false_eq_true, and_self]

theorem flushRing_view {k : Blk} (h : k ∉ ([.shu, .out] : List Blk)) (n : _) (r : _) (s : _) :
    view k (flushRing n r s) = view k s := by
  simp only [List.mem_cons, List.not_mem_nil, or_false, not_or] at h
  induction n generalizing s with
  | zero => rfl
  | succ n ih => rw [flushRing, ih, writeCompletion_view (by simp [h])]

theorem completeH_view {k : Blk} (h : k ∉ ([.shu, .free] : List Blk)) (a0 : _) (a1 : _) (a2 : _) (a3 : _) (a4 : _) (a5 : _) :
    view k (completeH a0 a1 a2 a3 a4 a5) = view k a5 := by
  simp only [List.mem_cons, List.not_mem_nil, or_false, not_or] at h
  unfold completeH
  (repeat' split) <;> simp only [setRing_view, drawn_view, view_put_shu, view_when, view_foldl, view_foldFin, apply_ite (view k), ite_self, implies_true, h, List.mem_cons, List.not_mem_nil, or_false, not_or, ne_eq, not_false_eq_true, and_self]

theorem complete_view {k : Blk} (h : k ∉ ([.shu, .free] : List Blk)) (a0 : _) (a1 : _) (a2 : _) (a3 : _) :
    view k (complete a0 a1 a2 a3) = view k a3 := by
  simp only [List.mem_cons, List.not_mem_nil, or_false, not_or] at h
  simp only [complete, completeH_view, view_when, view_foldl, view_foldFin, h, List.mem_cons, List.not_mem_nil, or_false, not_or, ne_eq, not_false_eq_true, and_self]

theorem completeOpen_view {k : Blk} (h : k ∉ ([.shu, .free] : List Blk)) (a0 : _) (a1 : _) (a2 : _) :
    view k (completeOpen a0 a1 a2) = view k a2 := by
  simp only [List.mem_cons, List.not_mem_nil, or_false, not_or] at h
  simp only [completeOpen, drawn_view, complete_view, view_when, view_foldl, view_foldFin, h, List.mem_cons, List.not_mem_nil, or_false, not_or, ne_eq, not_false_eq_true, and_self]

theorem completeAll_view {k : Blk} (h : k ∉ ([.shu, .free] : List Blk)) (a0 : _) (a1 : _) (a2 : _) (a3 : _) :
    view k (completeAll a0 a1 a2 a3) = view k a3 := by
  simp only [List.mem_cons, List.not_mem_nil, or_false, not_or] at h
  simp only [completeAll, complete_view, view_when, view_foldl, view_foldFin, apply_ite (view k), ite_self, implies_true, h, List.mem_cons, List.not_mem_nil, or_false, not_or, ne_eq, not_false_eq_true, and_self]

theorem started_view {k : Blk} (h : k ∉ ([.shu] : List Blk)) (a0 : _) (a1 : _) :
    view k (started a0 a1) = view k a1 := by
  simp only [List.mem_cons, List.not_mem_nil, or_false, not_or] at h
  simp only [started, view_put_shu, view_when, view_foldl, view_foldFin, h, List.mem_cons, List.not_mem_nil, or_false, not_or, ne_eq, not_false_eq_true, and_self]

theorem ringsHalt_view {k : Blk} (h : k ∉ ([.shu] : List Blk)) (a0 : _) :
    view k (ringsHalt a0) = view k a0 := by
  simp only [List.mem_cons, List.not_mem_nil, or_false, not_or] at h
  simp only [ringsHalt, view_put_shu, view_when, view_foldl, view_foldFin, h, List.mem_cons, List.not_mem_nil, or_false, not_or, ne_eq, not_false_eq_true, and_self]

theorem roleChange_view {k : Blk} (h : k ∉ ([.shu, .loom, .mir, .out] : List Blk)) (a0 : _) (a1 : _) :
    view k (roleChange a0 a1) = view k a1 := by
  simp only [List.mem_cons, List.not_mem_nil, or_false, not_or] at h
  simp only [roleChange, vector64_view, discardRing_view, ringsHalt_view, flushRing_view, view_put_loom, view_put_loom_mir, view_when, view_foldl, view_foldFin, apply_ite (view k), ite_self, implies_true, h, List.mem_cons, List.not_mem_nil, or_false, not_or, ne_eq, not_false_eq_true, and_self]

end Sys2Proof.Laws
end

