-- ==== Sys2Proof/Laws/FrameBanks.lean ====
section
/-! SUPPORT. What each operation of Machine/Banks.lean keeps: every block outside its footprint. -/

set_option Elab.async false

set_option linter.unusedSimpArgs false
set_option linter.unusedVariables false
set_option linter.unreachableTactic false
set_option linter.unusedTactic false
set_option linter.unnecessarySeqFocus false

namespace Sys2Proof.Laws

open Machine

theorem setHed_view {k : Blk} (h : k ∉ ([.hed] : List Blk)) (a0 : _) (a1 : _) (a2 : _) :
    view k (setHed a0 a1 a2) = view k a2 := by
  simp only [List.mem_cons, List.not_mem_nil, or_false, not_or] at h
  simp only [setHed, view_put_hed, view_when, view_foldl, view_foldFin, h, List.mem_cons, List.not_mem_nil, or_false, not_or, ne_eq, not_false_eq_true, and_self]

theorem hedCount_view {k : Blk} (h : k ∉ ([.hed, .free] : List Blk)) (a0 : _) (a1 : _) :
    view k (hedCount a0 a1) = view k a1 := by
  simp only [List.mem_cons, List.not_mem_nil, or_false, not_or] at h
  simp only [hedCount, setHed_view, drawn_view, view_when, view_foldl, view_foldFin, apply_ite (view k), ite_self, implies_true, h, List.mem_cons, List.not_mem_nil, or_false, not_or, ne_eq, not_false_eq_true, and_self]

theorem hedStart_view {k : Blk} (h : k ∉ ([.hed, .free] : List Blk)) (a0 : _) (a1 : _) (a2 : _) :
    view k (hedStart a0 a1 a2) = view k a2 := by
  simp only [List.mem_cons, List.not_mem_nil, or_false, not_or] at h
  simp only [hedStart, hedCount_view, setHed_view, view_when, view_foldl, view_foldFin, h, List.mem_cons, List.not_mem_nil, or_false, not_or, ne_eq, not_false_eq_true, and_self]

theorem hedRequest_view {k : Blk} (h : k ∉ ([.hed, .free] : List Blk)) (a0 : _) (a1 : _) (a2 : _) :
    view k (hedRequest a0 a1 a2) = view k a2 := by
  simp only [List.mem_cons, List.not_mem_nil, or_false, not_or] at h
  simp only [hedRequest, hedStart_view, setHed_view, view_when, view_foldl, view_foldFin, apply_ite (view k), ite_self, implies_true, h, List.mem_cons, List.not_mem_nil, or_false, not_or, ne_eq, not_false_eq_true, and_self]

theorem hedImage_view {k : Blk} (h : k ∉ ([.hed, .free] : List Blk)) (a0 : _) (a1 : _) :
    view k (hedImage a0 a1) = view k a1 := by
  simp only [List.mem_cons, List.not_mem_nil, or_false, not_or] at h
  simp only [hedImage, hedStart_view, setHed_view, view_when, view_foldl, view_foldFin, apply_ite (view k), ite_self, implies_true, h, List.mem_cons, List.not_mem_nil, or_false, not_or, ne_eq, not_false_eq_true, and_self]

theorem hedDrained_view {k : Blk} (h : k ∉ ([.hed, .free] : List Blk)) (a0 : _) (a1 : _) :
    view k (hedDrained a0 a1) = view k a1 := by
  simp only [List.mem_cons, List.not_mem_nil, or_false, not_or] at h
  simp only [hedDrained, hedStart_view, setHed_view, view_when, view_foldl, view_foldFin, apply_ite (view k), ite_self, implies_true, h, List.mem_cons, List.not_mem_nil, or_false, not_or, ne_eq, not_false_eq_true, and_self]
  (repeat' split) <;> first | with_reducible rfl | simp only [hedStart_view, setHed_view, view_when, view_foldl, view_foldFin, apply_ite (view k), ite_self, implies_true, h, List.mem_cons, List.not_mem_nil, or_false, not_or, ne_eq, not_false_eq_true, and_self]

theorem hedOwnerReset_view {k : Blk} (h : k ∉ ([.hed, .free] : List Blk)) (a0 : _) (a1 : _) :
    view k (hedOwnerReset a0 a1) = view k a1 :=
  view_foldFin (fun _ b => view_when _ fun u => hedDrained_view h b u) _

theorem execHandoverDrained_view {k : Blk} (h : k ∉ ([.hed, .free] : List Blk)) (a0 : _) (a1 : _) :
    viewR k (execHandoverDrained a0 a1) = some (view k a1) := by
  simp only [List.mem_cons, List.not_mem_nil, or_false, not_or] at h
  simp only [execHandoverDrained, hedDrained_view, view_when, view_foldl, view_foldFin, viewR_ok, apply_ite (view k), ite_self, implies_true, h, List.mem_cons, List.not_mem_nil, or_false, not_or, ne_eq, not_false_eq_true, and_self]

theorem bankZero_view {k : Blk} (h : k ∉ ([.mem] : List Blk)) (a0 : _) (a1 : _) :
    view k (bankZero a0 a1) = view k a1 := by
  simp only [List.mem_cons, List.not_mem_nil, or_false, not_or] at h
  simp only [bankZero, view_put_mem, view_when, view_foldl, view_foldFin, h, List.mem_cons, List.not_mem_nil, or_false, not_or, ne_eq, not_false_eq_true, and_self]

theorem bistReturn_view {k : Blk} (h : k ∉ ([.mem, .hed] : List Blk)) (a0 : _) (a1 : _) :
    view k (bistReturn a0 a1) = view k a1 := by
  simp only [List.mem_cons, List.not_mem_nil, or_false, not_or] at h
  simp only [bistReturn, bankZero_view, setHed_view, view_when, view_foldl, view_foldFin, h, List.mem_cons, List.not_mem_nil, or_false, not_or, ne_eq, not_false_eq_true, and_self]

theorem execBistBankReturn_view {k : Blk} (h : k ∉ ([.mem, .hed] : List Blk)) (a0 : _) (a1 : _) :
    viewR k (execBistBankReturn a0 a1) = some (view k a1) := by
  simp only [List.mem_cons, List.not_mem_nil, or_false, not_or] at h
  simp only [execBistBankReturn, bistReturn_view, view_when, view_foldl, view_foldFin, viewR_ok, apply_ite (view k), ite_self, implies_true, h, List.mem_cons, List.not_mem_nil, or_false, not_or, ne_eq, not_false_eq_true, and_self]

theorem regionViol_view {k : Blk} (h : k ∉ ([.sec, .rcd] : List Blk)) (a0 : _) (a1 : _) (a2 : _) (a3 : _) (a4 : _) :
    view k (regionViol a0 a1 a2 a3 a4) = view k a4 := by
  simp only [List.mem_cons, List.not_mem_nil, or_false, not_or] at h
  simp only [regionViol, raise_view, view_put_sec, view_when, view_foldl, view_foldFin, h, List.mem_cons, List.not_mem_nil, or_false, not_or, ne_eq, not_false_eq_true, and_self]

theorem moverNote_view {k : Blk} (h : k ∉ ([.hed] : List Blk)) (a0 : _) (a1 : _) (a2 : _) :
    view k (moverNote a0 a1 a2) = view k a2 := by
  simp only [List.mem_cons, List.not_mem_nil, or_false, not_or] at h
  simp only [moverNote, view_put_hed, view_when, view_foldl, view_foldFin, apply_ite (view k), ite_self, implies_true, h, List.mem_cons, List.not_mem_nil, or_false, not_or, ne_eq, not_false_eq_true, and_self]

theorem hubNote_view {k : Blk} (h : k ∉ ([.hed] : List Blk)) (a0 : _) (a1 : _) (a2 : _) :
    view k (hubNote a0 a1 a2) = view k a2 := by
  simp only [List.mem_cons, List.not_mem_nil, or_false, not_or] at h
  simp only [hubNote, view_put_hed, view_when, view_foldl, view_foldFin, apply_ite (view k), ite_self, implies_true, h, List.mem_cons, List.not_mem_nil, or_false, not_or, ne_eq, not_false_eq_true, and_self]

theorem bankRefused_view {k : Blk} (h : k ∉ ([.hed, .out] : List Blk)) (a0 : _) (a1 : _) :
    view k (bankRefused a0 a1) = view k a1 := by
  simp only [List.mem_cons, List.not_mem_nil, or_false, not_or] at h
  simp only [bankRefused, hubNote_view, moverNote_view, emit_view, view_when, view_foldl, view_foldFin, apply_ite (view k), ite_self, implies_true, h, List.mem_cons, List.not_mem_nil, or_false, not_or, ne_eq, not_false_eq_true, and_self]

theorem bankRead_view {k : Blk} (h : k ∉ ([.hed, .pwr, .out] : List Blk)) (a0 : _) (a1 : _) :
    view k (bankRead a0 a1) = view k a1 := by
  simp only [List.mem_cons, List.not_mem_nil, or_false, not_or] at h
  unfold bankRead
  (repeat' split) <;> simp only [hubNote_view, unitBad_view, moverNote_view, emit_view, setHed_view, view_when, view_foldl, view_foldFin, apply_ite (view k), ite_self, implies_true, h, List.mem_cons, List.not_mem_nil, or_false, not_or, ne_eq, not_false_eq_true, and_self]

theorem bankViol_view {k : Blk} (h : k ∉ ([.hed, .rcd, .out] : List Blk)) (a0 : _) (a1 : _) :
    view k (bankViol a0 a1) = view k a1 := by
  simp only [List.mem_cons, List.not_mem_nil, or_false, not_or] at h
  simp only [bankViol, raiseFabric_view, bankRefused_view, view_put_hed, view_when, view_foldl, view_foldFin, h, List.mem_cons, List.not_mem_nil, or_false, not_or, ne_eq, not_false_eq_true, and_self]

theorem bankGrant_view {k : Blk} (h : k ∉ ([.mem, .hed, .sec, .rcd, .pwr, .out] : List Blk)) (a0 : _) (a1 : _) :
    view k (bankGrant a0 a1) = view k a1 := by
  simp only [List.mem_cons, List.not_mem_nil, or_false, not_or] at h
  simp only [bankGrant, bankRead_view, emit_view, setHed_view, raiseFabric_view, regionViol_view, bankRefused_view, view_put_mem, view_when, view_foldl, view_foldFin, apply_ite (view k), ite_self, implies_true, h, List.mem_cons, List.not_mem_nil, or_false, not_or, ne_eq, not_false_eq_true, and_self]
  (repeat' split) <;> first | with_reducible rfl | simp only [bankRead_view, emit_view, setHed_view, raiseFabric_view, regionViol_view, bankRefused_view, view_put_mem, view_when, view_foldl, view_foldFin, apply_ite (view k), ite_self, implies_true, h, List.mem_cons, List.not_mem_nil, or_false, not_or, ne_eq, not_false_eq_true, and_self]

theorem bankBeaten_view {k : Blk} (h : k ∉ ([.hed] : List Blk)) (a0 : _) (a1 : _) :
    view k (bankBeaten a0 a1) = view k a1 := by
  simp only [List.mem_cons, List.not_mem_nil, or_false, not_or] at h
  simp only [bankBeaten, view_put_hed, view_when, view_foldl, view_foldFin, h, List.mem_cons, List.not_mem_nil, or_false, not_or, ne_eq, not_false_eq_true, and_self]

theorem execBankAccess_view {k : Blk} (h : k ∉ ([.mem, .hed, .sec, .rcd, .pwr, .out] : List Blk)) (r : _) (s t : State) (e : execBankAccess r s = .next t) :
    view k t = view k s := by
  simp only [List.mem_cons, List.not_mem_nil, or_false, not_or] at h
  unfold execBankAccess at e
  by_cases hc : 0x200000 < r.offset + (if r.write then r.bytes.length else r.count)
  · rw [if_pos hc] at e
    cases e
  · rw [if_neg hc] at e
    dsimp only [ok] at e
    injection e with e
    subst e
    (repeat' split) <;> simp only [emit_view, bankBeaten_view, bankGrant_view, bankViol_view, view_put_hed, apply_ite (view k), ite_self, h, List.mem_cons, List.not_mem_nil, or_false, not_or, ne_eq, not_false_eq_true, and_self]

theorem togglePulse_view {k : Blk} (h : k ∉ ([.hed, .rcd] : List Blk)) (a0 : _) (a1 : _) :
    view k (togglePulse a0 a1).1 = view k a1 := by
  simp only [List.mem_cons, List.not_mem_nil, or_false, not_or] at h
  simp only [togglePulse, raise_view, view_put_hed, view_when, view_foldl, view_foldFin, apply_ite (view k), ite_self, implies_true, h, List.mem_cons, List.not_mem_nil, or_false, not_or, ne_eq, not_false_eq_true, and_self]
  (repeat' split) <;> first | with_reducible rfl | simp only [raise_view, view_put_hed, view_when, view_foldl, view_foldFin, apply_ite (view k), ite_self, implies_true, h, List.mem_cons, List.not_mem_nil, or_false, not_or, ne_eq, not_false_eq_true, and_self]

theorem timSnapshot_view {k : Blk} (h : k ∉ ([.tim] : List Blk)) (a0 : _) :
    view k (timSnapshot a0) = view k a0 := by
  simp only [List.mem_cons, List.not_mem_nil, or_false, not_or] at h
  simp only [timSnapshot, view_put_tim, view_when, view_foldl, view_foldFin, h, List.mem_cons, List.not_mem_nil, or_false, not_or, ne_eq, not_false_eq_true, and_self]

theorem execToggleAcknowledge_view {k : Blk} (h : k ∉ ([.tim, .hed] : List Blk)) (a0 : _) (a1 : _) :
    viewR k (execToggleAcknowledge a0 a1) = some (view k a1) := by
  simp only [List.mem_cons, List.not_mem_nil, or_false, not_or] at h
  simp only [execToggleAcknowledge, timSnapshot_view, view_put_hed, view_when, view_foldl, view_foldFin, viewR_ok, apply_ite (view k), ite_self, implies_true, h, List.mem_cons, List.not_mem_nil, or_false, not_or, ne_eq, not_false_eq_true, and_self]

theorem setBob_view {k : Blk} (h : k ∉ ([.hed] : List Blk)) (a0 : _) (a1 : _) (a2 : _) :
    view k (setBob a0 a1 a2) = view k a2 := by
  simp only [List.mem_cons, List.not_mem_nil, or_false, not_or] at h
  simp only [setBob, view_put_hed, view_when, view_foldl, view_foldFin, h, List.mem_cons, List.not_mem_nil, or_false, not_or, ne_eq, not_false_eq_true, and_self]

theorem bobPush_view {k : Blk} (h : k ∉ ([.hed] : List Blk)) (a0 : _) (a1 : _) (a2 : _) (a3 : _) :
    view k (bobPush a0 a1 a2 a3).1 = view k a3 := by
  simp only [List.mem_cons, List.not_mem_nil, or_false, not_or] at h
  simp only [bobPush, setBob_view, view_put_hed, view_when, view_foldl, view_foldFin, apply_ite Prod.fst, apply_ite (view k), ite_self, implies_true, h, List.mem_cons, List.not_mem_nil, or_false, not_or, ne_eq, not_false_eq_true, and_self]

theorem bobPop_view {k : Blk} (h : k ∉ ([.hed] : List Blk)) (a0 : _) (a1 : _) (a2 : _) :
    view k (bobPop a0 a1 a2).1 = view k a2 := by
  simp only [List.mem_cons, List.not_mem_nil, or_false, not_or] at h
  simp only [bobPop, setBob_view, view_put_hed, view_when, view_foldl, view_foldFin, apply_ite Prod.fst, apply_ite (view k), ite_self, implies_true, h, List.mem_cons, List.not_mem_nil, or_false, not_or, ne_eq, not_false_eq_true, and_self]
  (repeat' split) <;> first | with_reducible rfl | simp only [setBob_view, view_put_hed, view_when, view_foldl, view_foldFin, apply_ite Prod.fst, apply_ite (view k), ite_self, implies_true, h, List.mem_cons, List.not_mem_nil, or_false, not_or, ne_eq, not_false_eq_true, and_self]

theorem bobUnder_view {k : Blk} (h : k ∉ ([.hed] : List Blk)) (a0 : _) (a1 : _) (a2 : _) :
    view k (bobUnder a0 a1 a2).1 = view k a2 := by
  simp only [List.mem_cons, List.not_mem_nil, or_false, not_or] at h
  induction a1 generalizing a2 with
  | zero => rfl
  | succ n ih => simp only [bobUnder, ih, bobPop_view, h, List.mem_cons, List.not_mem_nil, or_false, not_or, ne_eq, not_false_eq_true, and_self]

theorem bobCarry_view {k : Blk} (h : k ∉ ([.hed] : List Blk)) (a0 : _) (a1 : _) (a2 : _) (a3 : _) :
    view k (bobCarry a0 a1 a2 a3).1 = view k a3 := by
  simp only [List.mem_cons, List.not_mem_nil, or_false, not_or] at h
  simp only [bobCarry, bobPop_view, bobPush_view, view_when, view_foldl, view_foldFin, apply_ite Prod.fst, apply_ite (view k), ite_self, implies_true, h, List.mem_cons, List.not_mem_nil, or_false, not_or, ne_eq, not_false_eq_true, and_self]

theorem bobDropPkt_view {k : Blk} (h : k ∉ ([.hed] : List Blk)) (a0 : _) (a1 : _) :
    view k (bobDropPkt a0 a1) = view k a1 := by
  simp only [List.mem_cons, List.not_mem_nil, or_false, not_or] at h
  simp only [bobDropPkt, setBob_view, view_when, view_foldl, view_foldFin, h, List.mem_cons, List.not_mem_nil, or_false, not_or, ne_eq, not_false_eq_true, and_self]

theorem bobThrough_view {k : Blk} (h : k ∉ ([.hed] : List Blk)) (a0 : _) (a1 : _) (a2 : _) :
    view k (bobThrough a0 a1 a2) = view k a2 := by
  simp only [List.mem_cons, List.not_mem_nil, or_false, not_or] at h
  simp only [bobThrough, setBob_view, view_when, view_foldl, view_foldFin, h, List.mem_cons, List.not_mem_nil, or_false, not_or, ne_eq, not_false_eq_true, and_self]

theorem bobRefuse_view {k : Blk} (h : k ∉ ([.hed] : List Blk)) (a0 : _) (a1 : _) (a2 : _) :
    view k (bobRefuse a0 a1 a2) = view k a2 := by
  simp only [List.mem_cons, List.not_mem_nil, or_false, not_or] at h
  simp only [bobRefuse, setBob_view, bobDropPkt_view, view_when, view_foldl, view_foldFin, apply_ite (view k), ite_self, implies_true, h, List.mem_cons, List.not_mem_nil, or_false, not_or, ne_eq, not_false_eq_true, and_self]

theorem bobAbandon_view {k : Blk} (h : k ∉ ([.hed] : List Blk)) (a0 : _) (a1 : _) :
    view k (bobAbandon a0 a1) = view k a1 := by
  simp only [List.mem_cons, List.not_mem_nil, or_false, not_or] at h
  simp only [bobAbandon, bobDropPkt_view, view_when, view_foldl, view_foldFin, apply_ite (view k), ite_self, implies_true, h, List.mem_cons, List.not_mem_nil, or_false, not_or, ne_eq, not_false_eq_true, and_self]

theorem moverClear_view {k : Blk} (h : k ∉ ([.hed] : List Blk)) (a0 : _) :
    view k (moverClear a0) = view k a0 := by
  simp only [List.mem_cons, List.not_mem_nil, or_false, not_or] at h
  simp only [moverClear, view_put_hed, view_when, view_foldl, view_foldFin, h, List.mem_cons, List.not_mem_nil, or_false, not_or, ne_eq, not_false_eq_true, and_self]

theorem bobLate_view {k : Blk} (h : k ∉ ([.hed] : List Blk)) (a0 : _) (a1 : _) (a2 : _) (a3 : _) :
    view k (bobLate a0 a1 a2 a3).1 = view k a3 := by
  simp only [List.mem_cons, List.not_mem_nil, or_false, not_or] at h
  simp only [bobLate, bobRefuse_view, bobThrough_view, bobUnder_view, view_when, view_foldl, view_foldFin, apply_ite Prod.fst, h, List.mem_cons, List.not_mem_nil, or_false, not_or, ne_eq, not_false_eq_true, and_self]

theorem moverWrite_view {k : Blk} (h : k ∉ ([.hed, .rcd, .pwr, .out] : List Blk)) (a0 : _) (a1 : _) (a2 : _) (a3 : _) (a4 : _) :
    view k (moverWrite a0 a1 a2 a3 a4).1 = view k a4 := by
  simp only [List.mem_cons, List.not_mem_nil, or_false, not_or] at h
  unfold moverWrite
  (repeat' split) <;> simp only [bobRefuse_view, parityFail_view, emit_view, bobLate_view, bobThrough_view, moverClear_view, view_when, view_foldl, view_foldFin, apply_ite Prod.fst, apply_ite (view k), ite_self, implies_true, h, List.mem_cons, List.not_mem_nil, or_false, not_or, ne_eq, not_false_eq_true, and_self]

theorem crossReset_view {k : Blk} (h : k ∉ ([.hed] : List Blk)) (a0 : _) (a1 : _) :
    view k (crossReset a0 a1) = view k a1 := by
  simp only [List.mem_cons, List.not_mem_nil, or_false, not_or] at h
  simp only [crossReset, view_put_hed, view_when, view_foldl, view_foldFin, h, List.mem_cons, List.not_mem_nil, or_false, not_or, ne_eq, not_false_eq_true, and_self]

theorem crossEpoch_view {k : Blk} (h : k ∉ ([.hed, .rcd] : List Blk)) (a0 : _) (a1 : _) (a2 : _) :
    view k (crossEpoch a0 a1 a2) = view k a2 := by
  simp only [List.mem_cons, List.not_mem_nil, or_false, not_or] at h
  simp only [crossEpoch, raiseFabric_view, view_put_hed, view_when, view_foldl, view_foldFin, h, List.mem_cons, List.not_mem_nil, or_false, not_or, ne_eq, not_false_eq_true, and_self]

theorem execPointUpdate_view {k : Blk} (h : k ∉ ([.hub, .mir, .hed, .rcd, .pwr, .out] : List Blk)) (a0 : _) (a1 : _) (a2 : _) (a3 : _) :
    viewR k (execPointUpdate a0 a1 a2 a3) = some (view k a3) := by
  simp only [List.mem_cons, List.not_mem_nil, or_false, not_or] at h
  unfold execPointUpdate
  (repeat' split) <;> simp only [pointWord_view, crossDiscard_view, parityFail_view, pointUpdate_view, view_put_hed, view_when, view_foldl, view_foldFin, viewR_ok, apply_ite (view k), ite_self, implies_true, h, List.mem_cons, List.not_mem_nil, or_false, not_or, ne_eq, not_false_eq_true, and_self]

end Sys2Proof.Laws
end

