-- ==== Sys2Proof/Laws/FrameRecorder.lean ====
section
/-! SUPPORT. What each operation of Machine/Recorder.lean keeps: every block outside its footprint. -/

set_option Elab.async false

set_option linter.unusedSimpArgs false
set_option linter.unusedVariables false
set_option linter.unreachableTactic false
set_option linter.unusedTactic false
set_option linter.unnecessarySeqFocus false

namespace Sys2Proof.Laws

open Machine

theorem setStream_view {k : Blk} (h : k ∉ ([.shu] : List Blk)) (a0 : _) (a1 : _) (a2 : _) :
    view k (setStream a0 a1 a2) = view k a2 := by
  simp only [List.mem_cons, List.not_mem_nil, or_false, not_or] at h
  unfold setStream
  (repeat' split) <;> simp only [view_put_shu, view_when, view_foldl, view_foldFin, apply_ite (view k), ite_self, implies_true, h, List.mem_cons, List.not_mem_nil, or_false, not_or, ne_eq, not_false_eq_true, and_self]

theorem streamPut_view {k : Blk} (h : k ∉ ([.shu, .hed, .rcd, .pwr, .out, .free] : List Blk)) (n i b s : _) :
    view k (streamPut n i b s).1 = view k s := by
  simp only [List.mem_cons, List.not_mem_nil, or_false, not_or] at h
  induction n generalizing s with
  | zero => rfl
  | succ n ih =>
    unfold streamPut
    dsimp only
    (repeat' split) <;> (try dsimp only) <;> simp only [ih, setStream_view, complete_view, completeOpen_view, moverWrite_view, emit_view, apply_ite Prod.fst, apply_ite (view k), ite_self, h, List.mem_cons, List.not_mem_nil, or_false, not_or, ne_eq, not_false_eq_true, and_self]

theorem streamRecord_view {k : Blk} (h : k ∉ ([.shu, .hed, .rcd, .pwr, .out, .free] : List Blk)) (a0 : _) (a1 : _) (a2 : _) :
    view k (streamRecord a0 a1 a2) = view k a2 := by
  simp only [List.mem_cons, List.not_mem_nil, or_false, not_or] at h
  unfold streamRecord
  (repeat' split) <;> simp only [setStream_view, streamPut_view, view_when, view_foldl, view_foldFin, apply_ite (view k), ite_self, implies_true, h, List.mem_cons, List.not_mem_nil, or_false, not_or, ne_eq, not_false_eq_true, and_self]

theorem setSlot_view {k : Blk} (h : k ∉ ([.rcd] : List Blk)) (a0 : _) (a1 : _) (a2 : _) :
    view k (setSlot a0 a1 a2) = view k a2 := by
  simp only [List.mem_cons, List.not_mem_nil, or_false, not_or] at h
  simp only [setSlot, view_put_rcd, view_when, view_foldl, view_foldFin, h, List.mem_cons, List.not_mem_nil, or_false, not_or, ne_eq, not_false_eq_true, and_self]

theorem feed_view {k : Blk} (h : k ∉ ([.shu, .hed, .rcd, .pwr, .out, .free] : List Blk)) (a0 : _) (a1 : _) (a2 : _) :
    view k (feed a0 a1 a2) = view k a2 := by
  simp only [List.mem_cons, List.not_mem_nil, or_false, not_or] at h
  simp only [feed, streamRecord_view, view_put_rcd, view_when, view_foldl, view_foldFin, apply_ite (view k), ite_self, implies_true, h, List.mem_cons, List.not_mem_nil, or_false, not_or, ne_eq, not_false_eq_true, and_self]

theorem applyHeld_view {k : Blk} (h : k ∉ ([.rcd] : List Blk)) (a0 : _) (a1 : _) (a2 : _) :
    view k (applyHeld a0 a1 a2).1 = view k a2 := by
  simp only [List.mem_cons, List.not_mem_nil, or_false, not_or] at h
  simp only [applyHeld, setSlot_view, view_put_rcd, view_when, view_foldl, view_foldFin, apply_ite (view k), ite_self, implies_true, h, List.mem_cons, List.not_mem_nil, or_false, not_or, ne_eq, not_false_eq_true, and_self]
  (repeat' split) <;> first | with_reducible rfl | simp only [setSlot_view, view_put_rcd, view_when, view_foldl, view_foldFin, apply_ite (view k), ite_self, implies_true, h, List.mem_cons, List.not_mem_nil, or_false, not_or, ne_eq, not_false_eq_true, and_self]

theorem applyNew_view {k : Blk} (h : k ∉ ([.rcd] : List Blk)) (a0 : _) (a1 : _) (a2 : _) (a3 : _) :
    view k (applyNew a0 a1 a2 a3).1 = view k a3 := by
  simp only [List.mem_cons, List.not_mem_nil, or_false, not_or] at h
  simp only [applyNew, setSlot_view, applyHeld_view, view_when, view_foldl, view_foldFin, h, List.mem_cons, List.not_mem_nil, or_false, not_or, ne_eq, not_false_eq_true, and_self]

theorem applyRaise_view {k : Blk} (h : k ∉ ([.rcd] : List Blk)) (a0 : _) (a1 : _) :
    view k (applyRaise a0 a1).1 = view k a1 := by
  simp only [List.mem_cons, List.not_mem_nil, or_false, not_or] at h
  unfold applyRaise
  (repeat' split) <;> simp only [applyNew_view, applyHeld_view, view_put_rcd, view_when, view_foldl, view_foldFin, apply_ite (view k), ite_self, implies_true, h, List.mem_cons, List.not_mem_nil, or_false, not_or, ne_eq, not_false_eq_true, and_self]

theorem raiseTake_view {k : Blk} (h : k ∉ ([.shu, .hed, .rcd, .pwr, .out, .free] : List Blk)) (a0 : _) :
    view k (raiseTake a0) = view k a0 := by
  simp only [List.mem_cons, List.not_mem_nil, or_false, not_or] at h
  unfold raiseTake
  (repeat' split) <;> simp only [feed_view, applyRaise_view, view_put_rcd, view_when, view_foldl, view_foldFin, apply_ite (view k), ite_self, implies_true, h, List.mem_cons, List.not_mem_nil, or_false, not_or, ne_eq, not_false_eq_true, and_self]

theorem recorderRestart_view {k : Blk} (h : k ∉ ([.rcd] : List Blk)) (a0 : _) :
    view k (recorderRestart a0) = view k a0 := by
  simp only [List.mem_cons, List.not_mem_nil, or_false, not_or] at h
  simp only [recorderRestart, view_put_rcd, view_when, view_foldl, view_foldFin, h, List.mem_cons, List.not_mem_nil, or_false, not_or, ne_eq, not_false_eq_true, and_self]

theorem louLoad_view {k : Blk} (h : k ∉ ([.rcd] : List Blk)) (a0 : _) (a1 : _) :
    view k (louLoad a0 a1) = view k a1 := by
  simp only [List.mem_cons, List.not_mem_nil, or_false, not_or] at h
  unfold louLoad
  (repeat' split) <;> simp only [view_put_rcd, view_when, view_foldl, view_foldFin, apply_ite (view k), ite_self, implies_true, h, List.mem_cons, List.not_mem_nil, or_false, not_or, ne_eq, not_false_eq_true, and_self]

theorem freezeTake_view {k : Blk} (h : k ∉ ([.rcd] : List Blk)) (a0 : _) (a1 : _) :
    view k (freezeTake a0 a1) = view k a1 := by
  simp only [List.mem_cons, List.not_mem_nil, or_false, not_or] at h
  simp only [freezeTake, view_put_rcd, view_when, view_foldl, view_foldFin, apply_ite (view k), ite_self, implies_true, h, List.mem_cons, List.not_mem_nil, or_false, not_or, ne_eq, not_false_eq_true, and_self]

theorem freezeDrop_view {k : Blk} (h : k ∉ ([.rcd] : List Blk)) (a0 : _) (a1 : _) :
    view k (freezeDrop a0 a1) = view k a1 := by
  simp only [List.mem_cons, List.not_mem_nil, or_false, not_or] at h
  simp only [freezeDrop, view_put_rcd, view_when, view_foldl, view_foldFin, h, List.mem_cons, List.not_mem_nil, or_false, not_or, ne_eq, not_false_eq_true, and_self]

theorem recorderClear_view {k : Blk} (h : k ∉ ([.shu, .hed, .rcd, .pwr, .out, .free] : List Blk)) (a0 : _) :
    view k (recorderClear a0) = view k a0 := by
  simp only [List.mem_cons, List.not_mem_nil, or_false, not_or] at h
  simp only [recorderClear, feed_view, applyRaise_view, view_put_rcd, view_when, view_foldl, view_foldFin, h, List.mem_cons, List.not_mem_nil, or_false, not_or, ne_eq, not_false_eq_true, and_self]

theorem execRaiseEvent_view {k : Blk} (h : k ∉ ([.rcd] : List Blk)) (a0 : _) (a1 : _) (a2 : _) (a3 : _) :
    viewR k (execRaiseEvent a0 a1 a2 a3) = some (view k a3) := by
  simp only [List.mem_cons, List.not_mem_nil, or_false, not_or] at h
  unfold execRaiseEvent
  (repeat' split) <;> simp only [raise_view, raiseFabric_view, view_when, view_foldl, view_foldFin, viewR_ok, apply_ite (view k), ite_self, implies_true, h, List.mem_cons, List.not_mem_nil, or_false, not_or, ne_eq, not_false_eq_true, and_self]

theorem execRaiseApply_view {k : Blk} (h : k ∉ ([.shu, .hed, .rcd, .pwr, .out, .free] : List Blk)) (a0 : _) :
    viewR k (execRaiseApply a0) = some (view k a0) := by
  simp only [List.mem_cons, List.not_mem_nil, or_false, not_or] at h
  simp only [execRaiseApply, raiseTake_view, view_when, view_foldl, view_foldFin, viewR_ok, apply_ite (view k), ite_self, implies_true, h, List.mem_cons, List.not_mem_nil, or_false, not_or, ne_eq, not_false_eq_true, and_self]

theorem execRecordWrite_view {k : Blk} (h : k ∉ ([.rcd] : List Blk)) (a0 : _) (a1 : _) :
    viewR k (execRecordWrite a0 a1) = some (view k a1) := by
  simp only [List.mem_cons, List.not_mem_nil, or_false, not_or] at h
  simp only [execRecordWrite, setSlot_view, view_when, view_foldl, view_foldFin, viewR_ok, apply_ite (view k), ite_self, implies_true, h, List.mem_cons, List.not_mem_nil, or_false, not_or, ne_eq, not_false_eq_true, and_self]

theorem execFreezeTimeout_view {k : Blk} (h : k ∉ ([.rcd] : List Blk)) (a0 : _) (a1 : _) :
    viewR k (execFreezeTimeout a0 a1) = some (view k a1) := by
  simp only [List.mem_cons, List.not_mem_nil, or_false, not_or] at h
  unfold execFreezeTimeout
  (repeat' split) <;> simp only [freezeDrop_view, view_put_rcd, view_when, view_foldl, view_foldFin, viewR_ok, apply_ite (view k), ite_self, implies_true, h, List.mem_cons, List.not_mem_nil, or_false, not_or, ne_eq, not_false_eq_true, and_self]

theorem execRecordErase_view {k : Blk} (h : k ∉ ([.rcd] : List Blk)) (a0 : _) (a1 : _) :
    viewR k (execRecordErase a0 a1) = some (view k a1) := by
  simp only [List.mem_cons, List.not_mem_nil, or_false, not_or] at h
  simp only [execRecordErase, setSlot_view, view_when, view_foldl, view_foldFin, viewR_ok, apply_ite (view k), ite_self, implies_true, h, List.mem_cons, List.not_mem_nil, or_false, not_or, ne_eq, not_false_eq_true, and_self]

end Sys2Proof.Laws
end

