-- ==== Sys2Proof/Laws/FrameDigital.lean ====
section
/-! SUPPORT. What each operation of Machine/Digital.lean keeps: every block outside its footprint. -/

set_option Elab.async false

set_option linter.unusedSimpArgs false
set_option linter.unusedVariables false
set_option linter.unreachableTactic false
set_option linter.unusedTactic false
set_option linter.unnecessarySeqFocus false

namespace Sys2Proof.Laws

open Machine

theorem setDio_view {k : Blk} (h : k ∉ ([.dio] : List Blk)) (a0 : _) (a1 : _) (a2 : _) :
    view k (setDio a0 a1 a2) = view k a2 := by
  simp only [List.mem_cons, List.not_mem_nil, or_false, not_or] at h
  simp only [setDio, view_put_dio, view_when, view_foldl, view_foldFin, h, List.mem_cons, List.not_mem_nil, or_false, not_or, ne_eq, not_false_eq_true, and_self]

theorem setBank_view {k : Blk} (h : k ∉ ([.dbank] : List Blk)) (a0 : _) (a1 : _) (a2 : _) :
    view k (setBank a0 a1 a2) = view k a2 := by
  simp only [List.mem_cons, List.not_mem_nil, or_false, not_or] at h
  simp only [setBank, view_put_dbank, view_when, view_foldl, view_foldFin, h, List.mem_cons, List.not_mem_nil, or_false, not_or, ne_eq, not_false_eq_true, and_self]

theorem dioEval_view {k : Blk} (h : k ∉ ([.dio] : List Blk)) (a0 : _) (a1 : _) :
    view k (dioEval a0 a1) = view k a1 := by
  simp only [List.mem_cons, List.not_mem_nil, or_false, not_or] at h
  simp only [dioEval, setDio_view, view_when, view_foldl, view_foldFin, h, List.mem_cons, List.not_mem_nil, or_false, not_or, ne_eq, not_false_eq_true, and_self]

theorem bankReport_view {k : Blk} (h : k ∉ ([.hub, .dbank, .mir, .hed, .out] : List Blk)) (a0 : _) (a1 : _) (a2 : _) :
    view k (bankReport a0 a1 a2) = view k a2 := by
  simp only [List.mem_cons, List.not_mem_nil, or_false, not_or] at h
  simp only [bankReport, setBank_view, pointUpdate_view, view_when, view_foldl, view_foldFin, apply_ite (view k), ite_self, implies_true, h, List.mem_cons, List.not_mem_nil, or_false, not_or, ne_eq, not_false_eq_true, and_self]

theorem bankEval_view {k : Blk} (h : k ∉ ([.hub, .dbank, .dio, .mir, .hed, .out] : List Blk)) (a0 : _) (a1 : _) :
    view k (bankEval a0 a1) = view k a1 := by
  simp only [List.mem_cons, List.not_mem_nil, or_false, not_or] at h
  simp only [bankEval, dioEval_view, bankReport_view, view_when, view_foldl, view_foldFin, apply_ite (view k), ite_self, implies_true, h, List.mem_cons, List.not_mem_nil, or_false, not_or, ne_eq, not_false_eq_true, and_self]

theorem dioEvalAll_view {k : Blk} (h : k ∉ ([.hub, .dbank, .dio, .mir, .hed, .out] : List Blk)) (a0 : _) :
    view k (dioEvalAll a0) = view k a0 := by
  simp only [List.mem_cons, List.not_mem_nil, or_false, not_or] at h
  simp only [dioEvalAll, bankEval_view, view_when, view_foldl, view_foldFin, apply_ite (view k), ite_self, implies_true, h, List.mem_cons, List.not_mem_nil, or_false, not_or, ne_eq, not_false_eq_true, and_self]

theorem dioUpdate_view {k : Blk} (h : k ∉ ([.hub, .dbank, .dio, .mir, .hed, .out] : List Blk)) (a0 : _) (a1 : _) :
    view k (dioUpdate a0 a1) = view k a1 := by
  simp only [List.mem_cons, List.not_mem_nil, or_false, not_or] at h
  simp only [dioUpdate, dioEval_view, bankReport_view, view_when, view_foldl, view_foldFin, h, List.mem_cons, List.not_mem_nil, or_false, not_or, ne_eq, not_false_eq_true, and_self]

theorem dioCommand_view {k : Blk} (h : k ∉ ([.hub, .dbank, .dio, .mir, .hed, .out] : List Blk)) (a0 : _) (a1 : _) (a2 : _) :
    view k (dioCommand a0 a1 a2) = view k a2 := by
  simp only [List.mem_cons, List.not_mem_nil, or_false, not_or] at h
  simp only [dioCommand, setDio_view, dioUpdate_view, view_when, view_foldl, view_foldFin, apply_ite (view k), ite_self, implies_true, h, List.mem_cons, List.not_mem_nil, or_false, not_or, ne_eq, not_false_eq_true, and_self]

theorem setThresholds_view {k : Blk} (h : k ∉ ([.dbank] : List Blk)) (a0 : _) (a1 : _) :
    view k (setThresholds a0 a1) = view k a1 := by
  simp only [List.mem_cons, List.not_mem_nil, or_false, not_or] at h
  simp only [setThresholds, setBank_view, view_when, view_foldl, view_foldFin, h, List.mem_cons, List.not_mem_nil, or_false, not_or, ne_eq, not_false_eq_true, and_self]

theorem dioDeliver_view {k : Blk} (h : k ∉ ([.hub, .mir, .hed, .out] : List Blk)) (a0 : _) (a1 : _) :
    view k (dioDeliver a0 a1) = view k a1 := by
  simp only [List.mem_cons, List.not_mem_nil, or_false, not_or] at h
  simp only [dioDeliver, pointUpdate_view, view_when, view_foldl, view_foldFin, apply_ite (view k), ite_self, implies_true, h, List.mem_cons, List.not_mem_nil, or_false, not_or, ne_eq, not_false_eq_true, and_self]

theorem dioDeliverCount_view {k : Blk} (h : k ∉ ([.hub, .mir, .hed, .out] : List Blk)) (a0 : _) (a1 : _) :
    view k (dioDeliverCount a0 a1) = view k a1 := by
  simp only [List.mem_cons, List.not_mem_nil, or_false, not_or] at h
  simp only [dioDeliverCount, pointUpdate_view, view_when, view_foldl, view_foldFin, apply_ite (view k), ite_self, implies_true, h, List.mem_cons, List.not_mem_nil, or_false, not_or, ne_eq, not_false_eq_true, and_self]

theorem edgeLog_view {k : Blk} (h : k ∉ ([.shu, .dbank, .hed, .rcd, .pwr, .out, .free] : List Blk)) (a0 : _) (a1 : _) (a2 : _) (a3 : _) (a4 : _) (a5 : _) :
    view k (edgeLog a0 a1 a2 a3 a4 a5) = view k a5 := by
  simp only [List.mem_cons, List.not_mem_nil, or_false, not_or] at h
  simp only [edgeLog, setBank_view, streamRecord_view, view_when, view_foldl, view_foldFin, apply_ite (view k), ite_self, implies_true, h, List.mem_cons, List.not_mem_nil, or_false, not_or, ne_eq, not_false_eq_true, and_self]

theorem dioAccept_view {k : Blk} (h : k ∉ ([.hub, .shu, .dbank, .dio, .mir, .hed, .rcd, .pwr, .out, .free] : List Blk)) (a0 : _) (a1 : _) (a2 : _) (a3 : _) (a4 : _) :
    view k (dioAccept a0 a1 a2 a3 a4) = view k a4 := by
  simp only [List.mem_cons, List.not_mem_nil, or_false, not_or] at h
  simp only [dioAccept, dioDeliver_view, dioDeliverCount_view, edgeLog_view, setDio_view, view_when, view_foldl, view_foldFin, apply_ite (view k), ite_self, implies_true, h, List.mem_cons, List.not_mem_nil, or_false, not_or, ne_eq, not_false_eq_true, and_self]

theorem dioCompare_view {k : Blk} (h : k ∉ ([.hub, .shu, .dbank, .dio, .mir, .hed, .rcd, .pwr, .out, .free] : List Blk)) (a0 : _) (a1 : _) :
    view k (dioCompare a0 a1) = view k a1 := by
  simp only [List.mem_cons, List.not_mem_nil, or_false, not_or] at h
  simp only [dioCompare, setDio_view, dioAccept_view, view_when, view_foldl, view_foldFin, apply_ite (view k), ite_self, implies_true, h, List.mem_cons, List.not_mem_nil, or_false, not_or, ne_eq, not_false_eq_true, and_self]

theorem execInputChange_view {k : Blk} (h : k ∉ ([.hub, .shu, .dbank, .dio, .mir, .hed, .rcd, .pwr, .out, .free] : List Blk)) (a0 : _) (a1 : _) (a2 : _) :
    viewR k (execInputChange a0 a1 a2) = some (view k a2) := by
  simp only [List.mem_cons, List.not_mem_nil, or_false, not_or] at h
  simp only [execInputChange, setDio_view, dioCompare_view, view_when, view_foldl, view_foldFin, viewR_ok, apply_ite (view k), ite_self, implies_true, h, List.mem_cons, List.not_mem_nil, or_false, not_or, ne_eq, not_false_eq_true, and_self]

theorem execDebounceEnd_view {k : Blk} (h : k ∉ ([.hub, .shu, .dbank, .dio, .mir, .hed, .rcd, .pwr, .out, .free] : List Blk)) (a0 : _) (a1 : _) :
    viewR k (execDebounceEnd a0 a1) = some (view k a1) := by
  simp only [List.mem_cons, List.not_mem_nil, or_false, not_or] at h
  unfold execDebounceEnd
  (repeat' split) <;> simp only [dioAccept_view, view_when, view_foldl, view_foldFin, viewR_ok, apply_ite (view k), ite_self, implies_true, h, List.mem_cons, List.not_mem_nil, or_false, not_or, ne_eq, not_false_eq_true, and_self]

theorem execBankShed_view {k : Blk} (h : k ∉ ([.hub, .dbank, .dio, .mir, .hed, .rcd, .out] : List Blk)) (a0 : _) (a1 : _) (a2 : _) :
    viewR k (execBankShed a0 a1 a2) = some (view k a2) := by
  simp only [List.mem_cons, List.not_mem_nil, or_false, not_or] at h
  simp only [execBankShed, setDio_view, dioUpdate_view, raiseField_view, setBank_view, view_when, view_foldl, view_foldFin, viewR_ok, apply_ite (view k), ite_self, implies_true, h, List.mem_cons, List.not_mem_nil, or_false, not_or, ne_eq, not_false_eq_true, and_self]
  (repeat' split) <;> first | with_reducible rfl | simp only [setDio_view, dioUpdate_view, raiseField_view, setBank_view, view_when, view_foldl, view_foldFin, viewR_ok, apply_ite (view k), ite_self, implies_true, h, List.mem_cons, List.not_mem_nil, or_false, not_or, ne_eq, not_false_eq_true, and_self]

theorem execThresholdUpdate_view {k : Blk} (h : k ∉ ([.dbank] : List Blk)) (a0 : _) (a1 : _) (a2 : _) :
    viewR k (execThresholdUpdate a0 a1 a2) = some (view k a2) := by
  simp only [List.mem_cons, List.not_mem_nil, or_false, not_or] at h
  simp only [execThresholdUpdate, setBank_view, setThresholds_view, view_when, view_foldl, view_foldFin, viewR_ok, apply_ite (view k), ite_self, implies_true, h, List.mem_cons, List.not_mem_nil, or_false, not_or, ne_eq, not_false_eq_true, and_self]

theorem enterLow_view {k : Blk} (h : k ∉ ([.dbank, .rcd] : List Blk)) (a0 : _) (a1 : _) :
    view k (enterLow a0 a1) = view k a1 := by
  simp only [List.mem_cons, List.not_mem_nil, or_false, not_or] at h
  simp only [enterLow, setBank_view, setThresholds_view, raiseField_view, view_when, view_foldl, view_foldFin, apply_ite (view k), ite_self, implies_true, h, List.mem_cons, List.not_mem_nil, or_false, not_or, ne_eq, not_false_eq_true, and_self]

theorem enterUv_view {k : Blk} (h : k ∉ ([.hub, .dbank, .dio, .mir, .hed, .rcd, .out] : List Blk)) (a0 : _) (a1 : _) :
    view k (enterUv a0 a1) = view k a1 := by
  simp only [List.mem_cons, List.not_mem_nil, or_false, not_or] at h
  simp only [enterUv, setBank_view, bankEval_view, raiseField_view, enterLow_view, view_when, view_foldl, view_foldFin, apply_ite (view k), ite_self, implies_true, h, List.mem_cons, List.not_mem_nil, or_false, not_or, ne_eq, not_false_eq_true, and_self]

theorem execSupplyConditionEntered_view {k : Blk} (h : k ∉ ([.hub, .dbank, .dio, .mir, .hed, .rcd, .out] : List Blk)) (a0 : _) (a1 : _) (a2 : _) :
    viewR k (execSupplyConditionEntered a0 a1 a2) = some (view k a2) := by
  simp only [List.mem_cons, List.not_mem_nil, or_false, not_or] at h
  unfold execSupplyConditionEntered
  (repeat' split) <;> simp only [setBank_view, enterUv_view, enterLow_view, raiseField_view, bankReport_view, view_when, view_foldl, view_foldFin, viewR_ok, apply_ite (view k), ite_self, implies_true, h, List.mem_cons, List.not_mem_nil, or_false, not_or, ne_eq, not_false_eq_true, and_self]

theorem bankInputs_view {k : Blk} (h : k ∉ ([.hub, .mir, .hed, .out] : List Blk)) (a0 : _) (a1 : _) :
    view k (bankInputs a0 a1) = view k a1 := by
  simp only [List.mem_cons, List.not_mem_nil, or_false, not_or] at h
  simp only [bankInputs, dioDeliver_view, dioDeliverCount_view, view_when, view_foldl, view_foldFin, apply_ite (view k), ite_self, implies_true, h, List.mem_cons, List.not_mem_nil, or_false, not_or, ne_eq, not_false_eq_true, and_self]

theorem execSupplyConditionReleased_view {k : Blk} (h : k ∉ ([.hub, .dbank, .dio, .mir, .hed, .rcd, .out] : List Blk)) (a0 : _) (a1 : _) (a2 : _) :
    viewR k (execSupplyConditionReleased a0 a1 a2) = some (view k a2) := by
  simp only [List.mem_cons, List.not_mem_nil, or_false, not_or] at h
  unfold execSupplyConditionReleased
  (repeat' split) <;> simp only [setBank_view, bankEval_view, raiseField_view, setThresholds_view, bankInputs_view, bankReport_view, view_when, view_foldl, view_foldFin, viewR_ok, apply_ite (view k), ite_self, implies_true, h, List.mem_cons, List.not_mem_nil, or_false, not_or, ne_eq, not_false_eq_true, and_self]

theorem execRbLow_view {k : Blk} (h : k ∉ ([.hub, .dbank, .dio, .mir, .hed, .rcd, .out] : List Blk)) (a0 : _) (a1 : _) :
    viewR k (execRbLow a0 a1) = some (view k a1) := by
  simp only [List.mem_cons, List.not_mem_nil, or_false, not_or] at h
  simp only [execRbLow, setDio_view, raiseField_view, bankReport_view, view_when, view_foldl, view_foldFin, viewR_ok, apply_ite (view k), ite_self, implies_true, h, List.mem_cons, List.not_mem_nil, or_false, not_or, ne_eq, not_false_eq_true, and_self]

theorem execExtDrive_view {k : Blk} (h : k ∉ ([.hub, .dbank, .dio, .mir, .hed, .rcd, .out] : List Blk)) (a0 : _) (a1 : _) :
    viewR k (execExtDrive a0 a1) = some (view k a1) := by
  simp only [List.mem_cons, List.not_mem_nil, or_false, not_or] at h
  simp only [execExtDrive, setDio_view, raiseField_view, bankReport_view, view_when, view_foldl, view_foldFin, viewR_ok, apply_ite (view k), ite_self, implies_true, h, List.mem_cons, List.not_mem_nil, or_false, not_or, ne_eq, not_false_eq_true, and_self]

theorem execReadbackFlagClear_view {k : Blk} (h : k ∉ ([.hub, .dbank, .dio, .mir, .hed, .out] : List Blk)) (a0 : _) (a1 : _) (a2 : _) :
    viewR k (execReadbackFlagClear a0 a1 a2) = some (view k a2) := by
  simp only [List.mem_cons, List.not_mem_nil, or_false, not_or] at h
  simp only [execReadbackFlagClear, setDio_view, bankReport_view, view_when, view_foldl, view_foldFin, viewR_ok, apply_ite (view k), ite_self, implies_true, h, List.mem_cons, List.not_mem_nil, or_false, not_or, ne_eq, not_false_eq_true, and_self]

theorem execWireBreak_view {k : Blk} (h : k ∉ ([.hub, .dbank, .dio, .mir, .hed, .rcd, .out] : List Blk)) (a0 : _) (a1 : _) :
    viewR k (execWireBreak a0 a1) = some (view k a1) := by
  simp only [List.mem_cons, List.not_mem_nil, or_false, not_or] at h
  simp only [execWireBreak, setDio_view, raiseField_view, bankReport_view, view_when, view_foldl, view_foldFin, viewR_ok, apply_ite (view k), ite_self, implies_true, h, List.mem_cons, List.not_mem_nil, or_false, not_or, ne_eq, not_false_eq_true, and_self]

theorem execWireBreakClear_view {k : Blk} (h : k ∉ ([.hub, .dbank, .dio, .mir, .hed, .out] : List Blk)) (a0 : _) (a1 : _) :
    viewR k (execWireBreakClear a0 a1) = some (view k a1) := by
  simp only [List.mem_cons, List.not_mem_nil, or_false, not_or] at h
  simp only [execWireBreakClear, setDio_view, dioDeliver_view, bankReport_view, view_when, view_foldl, view_foldFin, viewR_ok, apply_ite (view k), ite_self, implies_true, h, List.mem_cons, List.not_mem_nil, or_false, not_or, ne_eq, not_false_eq_true, and_self]

theorem execThermalShutdown_view {k : Blk} (h : k ∉ ([.hub, .dbank, .dio, .mir, .hed, .rcd, .out] : List Blk)) (a0 : _) (a1 : _) :
    viewR k (execThermalShutdown a0 a1) = some (view k a1) := by
  simp only [List.mem_cons, List.not_mem_nil, or_false, not_or] at h
  simp only [execThermalShutdown, dioUpdate_view, raiseField_view, setDio_view, view_when, view_foldl, view_foldFin, viewR_ok, apply_ite (view k), ite_self, implies_true, h, List.mem_cons, List.not_mem_nil, or_false, not_or, ne_eq, not_false_eq_true, and_self]

theorem execThermalRetry_view {k : Blk} (h : k ∉ ([.hub, .dbank, .dio, .mir, .hed, .out] : List Blk)) (a0 : _) (a1 : _) :
    viewR k (execThermalRetry a0 a1) = some (view k a1) := by
  simp only [List.mem_cons, List.not_mem_nil, or_false, not_or] at h
  simp only [execThermalRetry, setDio_view, dioUpdate_view, view_when, view_foldl, view_foldFin, viewR_ok, apply_ite (view k), ite_self, implies_true, h, List.mem_cons, List.not_mem_nil, or_false, not_or, ne_eq, not_false_eq_true, and_self]

theorem execRetryCountReset_view {k : Blk} (h : k ∉ ([.dio] : List Blk)) (a0 : _) (a1 : _) :
    viewR k (execRetryCountReset a0 a1) = some (view k a1) := by
  simp only [List.mem_cons, List.not_mem_nil, or_false, not_or] at h
  simp only [execRetryCountReset, setDio_view, view_when, view_foldl, view_foldFin, viewR_ok, apply_ite (view k), ite_self, implies_true, h, List.mem_cons, List.not_mem_nil, or_false, not_or, ne_eq, not_false_eq_true, and_self]

theorem dioRelease_view {k : Blk} (h : k ∉ ([.hub, .dbank, .dio, .mir, .hed, .out] : List Blk)) (a0 : _) (a1 : _) (a2 : _) (a3 : _) :
    view k (dioRelease a0 a1 a2 a3) = view k a3 := by
  simp only [List.mem_cons, List.not_mem_nil, or_false, not_or] at h
  simp only [dioRelease, setDio_view, dioUpdate_view, view_when, view_foldl, view_foldFin, apply_ite (view k), ite_self, implies_true, h, List.mem_cons, List.not_mem_nil, or_false, not_or, ne_eq, not_false_eq_true, and_self]

theorem execDigitalDisagree_view {k : Blk} (h : k ∉ ([.dio, .rcd] : List Blk)) (a0 : _) (a1 : _) :
    viewR k (execDigitalDisagree a0 a1) = some (view k a1) := by
  simp only [List.mem_cons, List.not_mem_nil, or_false, not_or] at h
  simp only [execDigitalDisagree, setDio_view, raiseField_view, view_when, view_foldl, view_foldFin, viewR_ok, apply_ite (view k), ite_self, implies_true, h, List.mem_cons, List.not_mem_nil, or_false, not_or, ne_eq, not_false_eq_true, and_self]

theorem execExtDriveCheckStart_view {k : Blk} (h : k ∉ ([.mir] : List Blk)) (a0 : _) :
    viewR k (execExtDriveCheckStart a0) = some (view k a0) := by
  simp only [List.mem_cons, List.not_mem_nil, or_false, not_or] at h
  simp only [execExtDriveCheckStart, view_put_mir, view_when, view_foldl, view_foldFin, viewR_ok, h, List.mem_cons, List.not_mem_nil, or_false, not_or, ne_eq, not_false_eq_true, and_self]

theorem dioChApply_view {k : Blk} (h : k ∉ ([.hub, .shu, .dbank, .dio, .mir, .hed, .rcd, .pwr, .out, .free] : List Blk)) (a0 : _) (a1 : _) (a2 : _) :
    view k (dioChApply a0 a1 a2) = view k a2 := by
  simp only [List.mem_cons, List.not_mem_nil, or_false, not_or] at h
  simp only [dioChApply, dioDeliverCount_view, dioCompare_view, dioDeliver_view, dioEval_view, setDio_view, view_when, view_foldl, view_foldFin, apply_ite (view k), ite_self, implies_true, h, List.mem_cons, List.not_mem_nil, or_false, not_or, ne_eq, not_false_eq_true, and_self]

theorem dioApply_view {k : Blk} (h : k ∉ ([.hub, .shu, .dbank, .dio, .mir, .hed, .rcd, .pwr, .out, .free] : List Blk)) (a0 : _) (a1 : _) (a2 : _) (a3 : _) :
    view k (dioApply a0 a1 a2 a3) = view k a3 := by
  simp only [List.mem_cons, List.not_mem_nil, or_false, not_or] at h
  simp only [dioApply, bankReport_view, dioChApply_view, setBank_view, view_when, view_foldl, view_foldFin, apply_ite (view k), ite_self, implies_true, h, List.mem_cons, List.not_mem_nil, or_false, not_or, ne_eq, not_false_eq_true, and_self]

theorem dioDestroy_view {k : Blk} (h : k ∉ ([.dbank, .dio] : List Blk)) (a0 : _) (a1 : _) :
    view k (dioDestroy a0 a1) = view k a1 := by
  simp only [List.mem_cons, List.not_mem_nil, or_false, not_or] at h
  simp only [dioDestroy, setBank_view, setDio_view, view_when, view_foldl, view_foldFin, apply_ite (view k), ite_self, implies_true, h, List.mem_cons, List.not_mem_nil, or_false, not_or, ne_eq, not_false_eq_true, and_self]

end Sys2Proof.Laws
end

