-- ==== Sys2Proof/Laws/FrameAnalog.lean ====
section
/-! SUPPORT. What each operation of Machine/Analog.lean keeps: every block outside its footprint. -/

set_option Elab.async false

set_option linter.unusedSimpArgs false
set_option linter.unusedVariables false
set_option linter.unreachableTactic false
set_option linter.unusedTactic false
set_option linter.unnecessarySeqFocus false

namespace Sys2Proof.Laws

open Machine

theorem setAio_view {k : Blk} (h : k ∉ ([.aio] : List Blk)) (a0 : _) (a1 : _) (a2 : _) :
    view k (setAio a0 a1 a2) = view k a2 := by
  simp only [List.mem_cons, List.not_mem_nil, or_false, not_or] at h
  simp only [setAio, view_put_aio, view_when, view_foldl, view_foldFin, h, List.mem_cons, List.not_mem_nil, or_false, not_or, ne_eq, not_false_eq_true, and_self]

theorem aioReport_view {k : Blk} (h : k ∉ ([.hub, .aio, .mir, .hed, .out] : List Blk)) (a0 : _) (a1 : _) (a2 : _) :
    view k (aioReport a0 a1 a2) = view k a2 := by
  simp only [List.mem_cons, List.not_mem_nil, or_false, not_or] at h
  simp only [aioReport, setAio_view, pointUpdate_view, view_when, view_foldl, view_foldFin, apply_ite (view k), ite_self, implies_true, h, List.mem_cons, List.not_mem_nil, or_false, not_or, ne_eq, not_false_eq_true, and_self]

theorem modAio_view {k : Blk} (h : k ∉ ([.hub, .aio, .mir, .hed, .out] : List Blk)) (a0 : _) (a1 : _) (a2 : _) :
    view k (modAio a0 a1 a2) = view k a2 := by
  simp only [List.mem_cons, List.not_mem_nil, or_false, not_or] at h
  simp only [modAio, setAio_view, aioReport_view, view_when, view_foldl, view_foldFin, h, List.mem_cons, List.not_mem_nil, or_false, not_or, ne_eq, not_false_eq_true, and_self]

theorem aioCommand_view {k : Blk} (h : k ∉ ([.aio] : List Blk)) (a0 : _) (a1 : _) (a2 : _) :
    view k (aioCommand a0 a1 a2) = view k a2 := by
  simp only [List.mem_cons, List.not_mem_nil, or_false, not_or] at h
  simp only [aioCommand, setAio_view, view_when, view_foldl, view_foldFin, apply_ite (view k), ite_self, implies_true, h, List.mem_cons, List.not_mem_nil, or_false, not_or, ne_eq, not_false_eq_true, and_self]

theorem aioPublish_view {k : Blk} (h : k ∉ ([.aio] : List Blk)) (a0 : _) (a1 : _) (a2 : _) :
    view k (aioPublish a0 a1 a2) = view k a2 := by
  simp only [List.mem_cons, List.not_mem_nil, or_false, not_or] at h
  simp only [aioPublish, aioCommand_view, view_when, view_foldl, view_foldFin, apply_ite (view k), ite_self, implies_true, h, List.mem_cons, List.not_mem_nil, or_false, not_or, ne_eq, not_false_eq_true, and_self]

theorem aioBypass_view {k : Blk} (h : k ∉ ([.hub, .aio, .mir, .hed, .out] : List Blk)) (a0 : _) (a1 : _) (a2 : _) :
    view k (aioBypass a0 a1 a2) = view k a2 := by
  simp only [List.mem_cons, List.not_mem_nil, or_false, not_or] at h
  simp only [aioBypass, modAio_view, view_when, view_foldl, view_foldFin, apply_ite (view k), ite_self, implies_true, h, List.mem_cons, List.not_mem_nil, or_false, not_or, ne_eq, not_false_eq_true, and_self]

theorem aioBypassAll_view {k : Blk} (h : k ∉ ([.hub, .aio, .mir, .hed, .out] : List Blk)) (a0 : _) (a1 : _) :
    view k (aioBypassAll a0 a1) = view k a1 := by
  simp only [List.mem_cons, List.not_mem_nil, or_false, not_or] at h
  simp only [aioBypassAll, aioBypass_view, view_when, view_foldl, view_foldFin, apply_ite (view k), ite_self, implies_true, h, List.mem_cons, List.not_mem_nil, or_false, not_or, ne_eq, not_false_eq_true, and_self]

theorem execPeriodicConversion_view {k : Blk} (h : k ∉ ([.hub, .aio, .mir, .hed, .out, .free] : List Blk)) (a0 : _) (a1 : _) (a2 : _) :
    viewR k (execPeriodicConversion a0 a1 a2) = some (view k a2) := by
  simp only [List.mem_cons, List.not_mem_nil, or_false, not_or] at h
  simp only [execPeriodicConversion, setAio_view, drawn_view, modAio_view, view_when, view_foldl, view_foldFin, viewR_ok, apply_ite (view k), ite_self, implies_true, h, List.mem_cons, List.not_mem_nil, or_false, not_or, ne_eq, not_false_eq_true, and_self]

theorem execInPtDelivery_view {k : Blk} (h : k ∉ ([.hub, .mir, .hed, .rcd, .pwr, .out] : List Blk)) (a0 : _) (a1 : _) (a2 : _) :
    viewR k (execInPtDelivery a0 a1 a2) = some (view k a2) := by
  simp only [List.mem_cons, List.not_mem_nil, or_false, not_or] at h
  simp only [execInPtDelivery, pointWord_view, view_when, view_foldl, view_foldFin, viewR_ok, apply_ite (view k), ite_self, implies_true, h, List.mem_cons, List.not_mem_nil, or_false, not_or, ne_eq, not_false_eq_true, and_self]
  (repeat' split) <;> first | with_reducible rfl | simp only [pointWord_view, view_when, view_foldl, view_foldFin, viewR_ok, apply_ite (view k), ite_self, implies_true, h, List.mem_cons, List.not_mem_nil, or_false, not_or, ne_eq, not_false_eq_true, and_self]

theorem aioFlag_view {k : Blk} (h : k ∉ ([.hub, .aio, .mir, .hed, .rcd, .out] : List Blk)) (a0 : _) (a1 : _) (a2 : _) (a3 : _) (a4 : _) (a5 : _) :
    view k (aioFlag a0 a1 a2 a3 a4 a5) = view k a5 := by
  simp only [List.mem_cons, List.not_mem_nil, or_false, not_or] at h
  unfold aioFlag
  (repeat' split) <;> simp only [raiseField_view, modAio_view, view_when, view_foldl, view_foldFin, apply_ite (view k), ite_self, implies_true, h, List.mem_cons, List.not_mem_nil, or_false, not_or, ne_eq, not_false_eq_true, and_self]

theorem execMismatch_view {k : Blk} (h : k ∉ ([.hub, .aio, .mir, .hed, .rcd, .out] : List Blk)) (a0 : _) (a1 : _) (a2 : _) :
    viewR k (execMismatch a0 a1 a2) = some (view k a2) := by
  simp only [List.mem_cons, List.not_mem_nil, or_false, not_or] at h
  simp only [execMismatch, aioFlag_view, view_when, view_foldl, view_foldFin, viewR_ok, apply_ite (view k), ite_self, implies_true, h, List.mem_cons, List.not_mem_nil, or_false, not_or, ne_eq, not_false_eq_true, and_self]

theorem execNe43FlagChange_view {k : Blk} (h : k ∉ ([.hub, .aio, .mir, .hed, .rcd, .out] : List Blk)) (a0 : _) (a1 : _) (a2 : _) (a3 : _) :
    viewR k (execNe43FlagChange a0 a1 a2 a3) = some (view k a3) := by
  simp only [List.mem_cons, List.not_mem_nil, or_false, not_or] at h
  unfold execNe43FlagChange
  (repeat' split) <;> simp only [aioFlag_view, view_when, view_foldl, view_foldFin, viewR_ok, apply_ite (view k), ite_self, implies_true, h, List.mem_cons, List.not_mem_nil, or_false, not_or, ne_eq, not_false_eq_true, and_self]

theorem execShort_view {k : Blk} (h : k ∉ ([.hub, .aio, .mir, .hed, .rcd, .out] : List Blk)) (a0 : _) (a1 : _) (a2 : _) :
    viewR k (execShort a0 a1 a2) = some (view k a2) := by
  simp only [List.mem_cons, List.not_mem_nil, or_false, not_or] at h
  simp only [execShort, aioFlag_view, view_when, view_foldl, view_foldFin, viewR_ok, apply_ite (view k), ite_self, implies_true, h, List.mem_cons, List.not_mem_nil, or_false, not_or, ne_eq, not_false_eq_true, and_self]

theorem execTransmitterFlagChange_view {k : Blk} (h : k ∉ ([.hub, .aio, .mir, .hed, .rcd, .out] : List Blk)) (c b x s : _) :
    viewR k (execTransmitterFlagChange c b x s) = some (view k s) := by
  simp only [List.mem_cons, List.not_mem_nil, or_false, not_or] at h
  unfold execTransmitterFlagChange
  cases b <;> dsimp only [ok, viewR, when] <;> (repeat' split) <;> first | rfl | simp only [id_eq, aioFlag_view, h, List.mem_cons, List.not_mem_nil, or_false, not_or, ne_eq, not_false_eq_true, and_self]

theorem execIsoFail_view {k : Blk} (h : k ∉ ([.hub, .aio, .mir, .hed, .rcd, .out] : List Blk)) (a0 : _) (a1 : _) :
    viewR k (execIsoFail a0 a1) = some (view k a1) := by
  simp only [List.mem_cons, List.not_mem_nil, or_false, not_or] at h
  simp only [execIsoFail, modAio_view, raiseField_view, view_when, view_foldl, view_foldFin, viewR_ok, apply_ite (view k), ite_self, implies_true, h, List.mem_cons, List.not_mem_nil, or_false, not_or, ne_eq, not_false_eq_true, and_self]

theorem execCurrentDisagree_view {k : Blk} (h : k ∉ ([.hub, .aio, .mir, .hed, .rcd, .out] : List Blk)) (a0 : _) (a1 : _) :
    viewR k (execCurrentDisagree a0 a1) = some (view k a1) := by
  simp only [List.mem_cons, List.not_mem_nil, or_false, not_or] at h
  simp only [execCurrentDisagree, aioFlag_view, view_when, view_foldl, view_foldFin, viewR_ok, apply_ite (view k), ite_self, implies_true, h, List.mem_cons, List.not_mem_nil, or_false, not_or, ne_eq, not_false_eq_true, and_self]

theorem execShare_view {k : Blk} (h : k ∉ ([.hub, .aio, .mir, .hed, .rcd, .out] : List Blk)) (a0 : _) (a1 : _) :
    viewR k (execShare a0 a1) = some (view k a1) := by
  simp only [List.mem_cons, List.not_mem_nil, or_false, not_or] at h
  simp only [execShare, aioFlag_view, view_when, view_foldl, view_foldFin, viewR_ok, apply_ite (view k), ite_self, implies_true, h, List.mem_cons, List.not_mem_nil, or_false, not_or, ne_eq, not_false_eq_true, and_self]

theorem execActiveInTakeoverEnd_view {k : Blk} (h : k ∉ ([.aio] : List Blk)) (a0 : _) :
    viewR k (execActiveInTakeoverEnd a0) = some (view k a0) := by
  simp only [List.mem_cons, List.not_mem_nil, or_false, not_or] at h
  simp only [execActiveInTakeoverEnd, view_put_aio, view_when, view_foldl, view_foldFin, viewR_ok, h, List.mem_cons, List.not_mem_nil, or_false, not_or, ne_eq, not_false_eq_true, and_self]

theorem aioApply_view {k : Blk} (h : k ∉ ([.hub, .aio, .mir, .hed, .out] : List Blk)) (a0 : _) (a1 : _) (a2 : _) :
    view k (aioApply a0 a1 a2) = view k a2 := by
  simp only [List.mem_cons, List.not_mem_nil, or_false, not_or] at h
  simp only [aioApply, setAio_view, aioReport_view, view_when, view_foldl, view_foldFin, apply_ite (view k), ite_self, implies_true, h, List.mem_cons, List.not_mem_nil, or_false, not_or, ne_eq, not_false_eq_true, and_self]

theorem execCmodeChangeEnd_view {k : Blk} (h : k ∉ ([.hub, .aio, .mir, .hed, .out] : List Blk)) (a0 : _) (a1 : _) :
    viewR k (execCmodeChangeEnd a0 a1) = some (view k a1) := by
  simp only [List.mem_cons, List.not_mem_nil, or_false, not_or] at h
  simp only [execCmodeChangeEnd, setAio_view, aioReport_view, view_when, view_foldl, view_foldFin, viewR_ok, apply_ite (view k), ite_self, implies_true, h, List.mem_cons, List.not_mem_nil, or_false, not_or, ne_eq, not_false_eq_true, and_self]
  (repeat' split) <;> first | with_reducible rfl | simp only [setAio_view, aioReport_view, view_when, view_foldl, view_foldFin, viewR_ok, apply_ite (view k), ite_self, implies_true, h, List.mem_cons, List.not_mem_nil, or_false, not_or, ne_eq, not_false_eq_true, and_self]

theorem execBankConverterRecovery_view {k : Blk} (h : k ∉ ([.hub, .aio, .mir, .hed, .out] : List Blk)) (b s : _) :
    viewR k (execBankConverterRecovery b s) = some (view k s) := by
  simp only [List.mem_cons, List.not_mem_nil, or_false, not_or] at h
  unfold execBankConverterRecovery
  rw [viewR_ok]
  split
  · refine congrArg some (view_foldFin (fun t c => ?_) s)
    dsimp only
    (repeat' split) <;> simp only [setAio_view, aioApply_view, modAio_view, h, List.mem_cons, List.not_mem_nil, or_false, not_or, ne_eq, not_false_eq_true, and_self]
  · rfl

theorem aioDestroy_view {k : Blk} (h : k ∉ ([.aio] : List Blk)) (a0 : _) (a1 : _) :
    view k (aioDestroy a0 a1) = view k a1 := by
  simp only [List.mem_cons, List.not_mem_nil, or_false, not_or] at h
  simp only [aioDestroy, setAio_view, view_when, view_foldl, view_foldFin, h, List.mem_cons, List.not_mem_nil, or_false, not_or, ne_eq, not_false_eq_true, and_self]

theorem execFieldSideWatchdog_view {k : Blk} (h : k ∉ ([.hub, .dbank, .dio, .aio, .mir, .hed, .rcd, .pwr, .out] : List Blk)) (a0 : _) (a1 : _) (a2 : _) :
    viewR k (execFieldSideWatchdog a0 a1 a2) = some (view k a2) := by
  simp only [List.mem_cons, List.not_mem_nil, or_false, not_or] at h
  simp only [execFieldSideWatchdog, modAio_view, raiseOrLate_view, setBank_view, bankEval_view, view_when, view_foldl, view_foldFin, viewR_ok, apply_ite (view k), ite_self, implies_true, h, List.mem_cons, List.not_mem_nil, or_false, not_or, ne_eq, not_false_eq_true, and_self]

theorem execFieldSideRefreshRecovery_view {k : Blk} (h : k ∉ ([.hub, .dbank, .dio, .aio, .mir, .hed, .rcd, .out] : List Blk)) (a0 : _) (a1 : _) (a2 : _) :
    viewR k (execFieldSideRefreshRecovery a0 a1 a2) = some (view k a2) := by
  simp only [List.mem_cons, List.not_mem_nil, or_false, not_or] at h
  simp only [execFieldSideRefreshRecovery, raiseField_view, modAio_view, setBank_view, bankEval_view, view_when, view_foldl, view_foldFin, viewR_ok, apply_ite (view k), ite_self, implies_true, h, List.mem_cons, List.not_mem_nil, or_false, not_or, ne_eq, not_false_eq_true, and_self]

theorem setEnc_view {k : Blk} (h : k ∉ ([.enc] : List Blk)) (a0 : _) (a1 : _) (a2 : _) :
    view k (setEnc a0 a1 a2) = view k a2 := by
  simp only [List.mem_cons, List.not_mem_nil, or_false, not_or] at h
  simp only [setEnc, view_put_enc, view_when, view_foldl, view_foldFin, h, List.mem_cons, List.not_mem_nil, or_false, not_or, ne_eq, not_false_eq_true, and_self]

theorem encReport_view {k : Blk} (h : k ∉ ([.hub, .enc, .mir, .hed, .out] : List Blk)) (a0 : _) (a1 : _) (a2 : _) :
    view k (encReport a0 a1 a2) = view k a2 := by
  simp only [List.mem_cons, List.not_mem_nil, or_false, not_or] at h
  simp only [encReport, setEnc_view, pointUpdate_view, view_when, view_foldl, view_foldFin, apply_ite (view k), ite_self, implies_true, h, List.mem_cons, List.not_mem_nil, or_false, not_or, ne_eq, not_false_eq_true, and_self]

theorem modEnc_view {k : Blk} (h : k ∉ ([.hub, .enc, .mir, .hed, .out] : List Blk)) (a0 : _) (a1 : _) (a2 : _) :
    view k (modEnc a0 a1 a2) = view k a2 := by
  simp only [List.mem_cons, List.not_mem_nil, or_false, not_or] at h
  simp only [modEnc, setEnc_view, encReport_view, view_when, view_foldl, view_foldFin, h, List.mem_cons, List.not_mem_nil, or_false, not_or, ne_eq, not_false_eq_true, and_self]

theorem execEncoderLoss_view {k : Blk} (h : k ∉ ([.hub, .enc, .mir, .hed, .rcd, .out] : List Blk)) (a0 : _) (a1 : _) :
    viewR k (execEncoderLoss a0 a1) = some (view k a1) := by
  simp only [List.mem_cons, List.not_mem_nil, or_false, not_or] at h
  simp only [execEncoderLoss, modEnc_view, raiseField_view, view_when, view_foldl, view_foldFin, viewR_ok, apply_ite (view k), ite_self, implies_true, h, List.mem_cons, List.not_mem_nil, or_false, not_or, ne_eq, not_false_eq_true, and_self]

theorem execEncoderLossEnd_view {k : Blk} (h : k ∉ ([.hub, .enc, .mir, .hed, .out] : List Blk)) (a0 : _) (a1 : _) :
    viewR k (execEncoderLossEnd a0 a1) = some (view k a1) := by
  simp only [List.mem_cons, List.not_mem_nil, or_false, not_or] at h
  simp only [execEncoderLossEnd, modEnc_view, view_when, view_foldl, view_foldFin, viewR_ok, apply_ite (view k), ite_self, implies_true, h, List.mem_cons, List.not_mem_nil, or_false, not_or, ne_eq, not_false_eq_true, and_self]

theorem encQuadErr_view {k : Blk} (h : k ∉ ([.hub, .enc, .mir, .hed, .rcd, .out, .free] : List Blk)) (a0 : _) (a1 : _) :
    view k (encQuadErr a0 a1) = view k a1 := by
  simp only [List.mem_cons, List.not_mem_nil, or_false, not_or] at h
  simp only [encQuadErr, drawn_view, modEnc_view, raiseField_view, view_when, view_foldl, view_foldFin, h, List.mem_cons, List.not_mem_nil, or_false, not_or, ne_eq, not_false_eq_true, and_self]

theorem encCount_view {k : Blk} (h : k ∉ ([.enc] : List Blk)) (a0 : _) (a1 : _) (a2 : _) :
    view k (encCount a0 a1 a2) = view k a2 := by
  simp only [List.mem_cons, List.not_mem_nil, or_false, not_or] at h
  simp only [encCount, setEnc_view, view_when, view_foldl, view_foldFin, h, List.mem_cons, List.not_mem_nil, or_false, not_or, ne_eq, not_false_eq_true, and_self]

theorem encLine_view {k : Blk} (h : k ∉ ([.hub, .enc, .mir, .hed, .rcd, .out, .free] : List Blk)) (a0 : _) (a1 : _) (a2 : _) :
    view k (encLine a0 a1 a2) = view k a2 := by
  simp only [List.mem_cons, List.not_mem_nil, or_false, not_or] at h
  simp only [encLine, encCount_view, encQuadErr_view, setEnc_view, view_when, view_foldl, view_foldFin, apply_ite (view k), ite_self, implies_true, h, List.mem_cons, List.not_mem_nil, or_false, not_or, ne_eq, not_false_eq_true, and_self]
  (repeat' split) <;> first | with_reducible rfl | simp only [encCount_view, encQuadErr_view, setEnc_view, view_when, view_foldl, view_foldFin, apply_ite (view k), ite_self, implies_true, h, List.mem_cons, List.not_mem_nil, or_false, not_or, ne_eq, not_false_eq_true, and_self]

theorem encLines_view {k : Blk} (h : k ∉ ([.hub, .enc, .mir, .hed, .rcd, .out, .free] : List Blk)) (a0 : _) (a1 : _) (a2 : _) :
    view k (encLines a0 a1 a2) = view k a2 := by
  simp only [List.mem_cons, List.not_mem_nil, or_false, not_or] at h
  simp only [encLines, encLine_view, view_when, view_foldl, view_foldFin, apply_ite (view k), ite_self, implies_true, h, List.mem_cons, List.not_mem_nil, or_false, not_or, ne_eq, not_false_eq_true, and_self]

theorem execQerr_view {k : Blk} (h : k ∉ ([.hub, .enc, .mir, .hed, .rcd, .out, .free] : List Blk)) (a0 : _) (a1 : _) :
    viewR k (execQerr a0 a1) = some (view k a1) := by
  simp only [List.mem_cons, List.not_mem_nil, or_false, not_or] at h
  simp only [execQerr, setEnc_view, encQuadErr_view, modEnc_view, raiseField_view, view_when, view_foldl, view_foldFin, viewR_ok, apply_ite (view k), ite_self, implies_true, h, List.mem_cons, List.not_mem_nil, or_false, not_or, ne_eq, not_false_eq_true, and_self]

theorem execIndexMark_view {k : Blk} (h : k ∉ ([.hub, .enc, .mir, .hed, .rcd, .out, .free] : List Blk)) (a0 : _) (a1 : _) (a2 : _) :
    viewR k (execIndexMark a0 a1 a2) = some (view k a2) := by
  simp only [List.mem_cons, List.not_mem_nil, or_false, not_or] at h
  simp only [execIndexMark, encLines_view, modEnc_view, view_when, view_foldl, view_foldFin, viewR_ok, apply_ite (view k), ite_self, implies_true, h, List.mem_cons, List.not_mem_nil, or_false, not_or, ne_eq, not_false_eq_true, and_self]

theorem execVelocityTimeout_view {k : Blk} (h : k ∉ ([.enc] : List Blk)) (a0 : _) (a1 : _) :
    viewR k (execVelocityTimeout a0 a1) = some (view k a1) := by
  simp only [List.mem_cons, List.not_mem_nil, or_false, not_or] at h
  simp only [execVelocityTimeout, setEnc_view, view_when, view_foldl, view_foldFin, viewR_ok, apply_ite (view k), ite_self, implies_true, h, List.mem_cons, List.not_mem_nil, or_false, not_or, ne_eq, not_false_eq_true, and_self]

theorem execSsiFrameStart_view {k : Blk} (h : k ∉ ([.hub, .enc, .mir, .hed, .out] : List Blk)) (a0 : _) (a1 : _) :
    viewR k (execSsiFrameStart a0 a1) = some (view k a1) := by
  simp only [List.mem_cons, List.not_mem_nil, or_false, not_or] at h
  simp only [execSsiFrameStart, modEnc_view, view_when, view_foldl, view_foldFin, viewR_ok, apply_ite (view k), ite_self, implies_true, h, List.mem_cons, List.not_mem_nil, or_false, not_or, ne_eq, not_false_eq_true, and_self]

theorem execSsiFrameEnd_view {k : Blk} (h : k ∉ ([.hub, .enc, .mir, .hed, .rcd, .out] : List Blk)) (a0 : _) (a1 : _) (a2 : _) :
    viewR k (execSsiFrameEnd a0 a1 a2) = some (view k a2) := by
  simp only [List.mem_cons, List.not_mem_nil, or_false, not_or] at h
  simp only [execSsiFrameEnd, modEnc_view, raiseField_view, view_when, view_foldl, view_foldFin, viewR_ok, apply_ite (view k), ite_self, implies_true, h, List.mem_cons, List.not_mem_nil, or_false, not_or, ne_eq, not_false_eq_true, and_self]

theorem execEncoderDelivery_view {k : Blk} (h : k ∉ ([.hub, .enc, .mir, .hed, .rcd, .out, .free] : List Blk)) (a0 : _) (a1 : _) (a2 : _) (a3 : _) (a4 : _) :
    viewR k (execEncoderDelivery a0 a1 a2 a3 a4) = some (view k a4) := by
  simp only [List.mem_cons, List.not_mem_nil, or_false, not_or] at h
  simp only [execEncoderDelivery, encLines_view, pointUpdate_view, setEnc_view, view_when, view_foldl, view_foldFin, viewR_ok, apply_ite (view k), ite_self, implies_true, h, List.mem_cons, List.not_mem_nil, or_false, not_or, ne_eq, not_false_eq_true, and_self]

theorem encQerrDrop_view {k : Blk} (h : k ∉ ([.hub, .enc, .mir, .hed, .out] : List Blk)) (a0 : _) (a1 : _) :
    view k (encQerrDrop a0 a1) = view k a1 := by
  simp only [List.mem_cons, List.not_mem_nil, or_false, not_or] at h
  simp only [encQerrDrop, modEnc_view, view_when, view_foldl, view_foldFin, h, List.mem_cons, List.not_mem_nil, or_false, not_or, ne_eq, not_false_eq_true, and_self]

theorem encApply_view {k : Blk} (h : k ∉ ([.hub, .enc, .mir, .hed, .out] : List Blk)) (a0 : _) (a1 : _) (a2 : _) :
    view k (encApply a0 a1 a2) = view k a2 := by
  simp only [List.mem_cons, List.not_mem_nil, or_false, not_or] at h
  simp only [encApply, setEnc_view, encReport_view, view_when, view_foldl, view_foldFin, h, List.mem_cons, List.not_mem_nil, or_false, not_or, ne_eq, not_false_eq_true, and_self]

theorem encDestroy_view {k : Blk} (h : k ∉ ([.enc] : List Blk)) (a0 : _) (a1 : _) :
    view k (encDestroy a0 a1) = view k a1 := by
  simp only [List.mem_cons, List.not_mem_nil, or_false, not_or] at h
  simp only [encDestroy, setEnc_view, view_when, view_foldl, view_foldFin, h, List.mem_cons, List.not_mem_nil, or_false, not_or, ne_eq, not_false_eq_true, and_self]

theorem fieldCommand_view {k : Blk} (h : k ∉ ([.hub, .dbank, .dio, .aio, .mir, .hed, .out] : List Blk)) (a0 : _) (a1 : _) (a2 : _) :
    view k (fieldCommand a0 a1 a2) = view k a2 := by
  simp only [List.mem_cons, List.not_mem_nil, or_false, not_or] at h
  simp only [fieldCommand, dioCommand_view, aioPublish_view, view_when, view_foldl, view_foldFin, h, List.mem_cons, List.not_mem_nil, or_false, not_or, ne_eq, not_false_eq_true, and_self]

end Sys2Proof.Laws
end

