-- ==== Sys2Proof/Laws/FrameCanOps.lean ====
section
/-! SUPPORT. What each operation of Machine/CanOps.lean keeps: every block outside its footprint. -/

set_option Elab.async false

set_option linter.unusedSimpArgs false
set_option linter.unusedVariables false
set_option linter.unreachableTactic false
set_option linter.unusedTactic false
set_option linter.unnecessarySeqFocus false

namespace Sys2Proof.Laws

open Machine

theorem setCan_view {k : Blk} (h : k ∉ ([.can] : List Blk)) (a0 : _) (a1 : _) (a2 : _) :
    view k (setCan a0 a1 a2) = view k a2 := by
  simp only [List.mem_cons, List.not_mem_nil, or_false, not_or] at h
  simp only [setCan, view_put_can, view_when, view_foldl, view_foldFin, h, List.mem_cons, List.not_mem_nil, or_false, not_or, ne_eq, not_false_eq_true, and_self]

theorem canReport_view {k : Blk} (h : k ∉ ([.hub, .can, .mir, .hed, .out] : List Blk)) (a0 : _) (a1 : _) (a2 : _) :
    view k (canReport a0 a1 a2) = view k a2 := by
  simp only [List.mem_cons, List.not_mem_nil, or_false, not_or] at h
  simp only [canReport, setCan_view, pointUpdate_view, view_when, view_foldl, view_foldFin, apply_ite (view k), ite_self, implies_true, h, List.mem_cons, List.not_mem_nil, or_false, not_or, ne_eq, not_false_eq_true, and_self]

theorem modCan_view {k : Blk} (h : k ∉ ([.hub, .can, .mir, .hed, .out] : List Blk)) (a0 : _) (a1 : _) (a2 : _) :
    view k (modCan a0 a1 a2) = view k a2 := by
  simp only [List.mem_cons, List.not_mem_nil, or_false, not_or] at h
  simp only [modCan, setCan_view, canReport_view, view_when, view_foldl, view_foldFin, h, List.mem_cons, List.not_mem_nil, or_false, not_or, ne_eq, not_false_eq_true, and_self]

theorem canDrain_view {k : Blk} (h : k ∉ ([.shu, .can, .hed, .rcd, .pwr, .out, .free] : List Blk)) (n c s : _) :
    view k (canDrain n c s) = view k s := by
  simp only [List.mem_cons, List.not_mem_nil, or_false, not_or] at h
  induction n generalizing s with
  | zero => rfl
  | succ n ih =>
    unfold canDrain
    dsimp only
    (repeat' split) <;> simp only [ih, setCan_view, streamPut_view, h, List.mem_cons, List.not_mem_nil, or_false, not_or, ne_eq, not_false_eq_true, and_self]

theorem canQueueRx_view {k : Blk} (h : k ∉ ([.shu, .can, .hed, .rcd, .pwr, .out, .free] : List Blk)) (a0 : _) (a1 : _) (a2 : _) :
    view k (canQueueRx a0 a1 a2) = view k a2 := by
  simp only [List.mem_cons, List.not_mem_nil, or_false, not_or] at h
  unfold canQueueRx
  (repeat' split) <;> simp only [setCan_view, raiseCan_view, canDrain_view, view_when, view_foldl, view_foldFin, apply_ite (view k), ite_self, implies_true, h, List.mem_cons, List.not_mem_nil, or_false, not_or, ne_eq, not_false_eq_true, and_self]

theorem setFilt_view {k : Blk} (h : k ∉ ([.can] : List Blk)) (a0 : _) (a1 : _) (a2 : _) (a3 : _) :
    view k (setFilt a0 a1 a2 a3) = view k a3 := by
  simp only [List.mem_cons, List.not_mem_nil, or_false, not_or] at h
  simp only [setFilt, setCan_view, view_when, view_foldl, view_foldFin, h, List.mem_cons, List.not_mem_nil, or_false, not_or, ne_eq, not_false_eq_true, and_self]

theorem filtApply_view {k : Blk} (h : k ∉ ([.hub, .can, .mir, .hed, .out] : List Blk)) (c f l i : _) (r : State × Bool) :
    view k (filtApply c f l i r).1 = view k r.1 := by
  simp only [List.mem_cons, List.not_mem_nil, or_false, not_or] at h
  induction l generalizing i r with
  | nil => rfl
  | cons e l ih =>
    obtain ⟨s, m⟩ := r
    unfold filtApply
    (repeat' split) <;> simp only [ih, setCan_view, setFilt_view, pointUpdate_view, h, List.mem_cons, List.not_mem_nil, or_false, not_or, ne_eq, not_false_eq_true, and_self]

theorem filtLoad_view {k : Blk} (h : k ∉ ([.hub, .can, .mir, .hed, .out] : List Blk)) (a0 : _) (a1 : _) (a2 : _) :
    view k (filtLoad a0 a1 a2) = view k a2 := by
  simp only [List.mem_cons, List.not_mem_nil, or_false, not_or] at h
  simp only [filtLoad, setCan_view, pointUpdate_view, view_when, view_foldl, view_foldFin, apply_ite (view k), ite_self, implies_true, h, List.mem_cons, List.not_mem_nil, or_false, not_or, ne_eq, not_false_eq_true, and_self]

theorem canDeliver_view {k : Blk} (h : k ∉ ([.hub, .shu, .can, .mir, .hed, .rcd, .pwr, .out, .free] : List Blk)) (a0 : _) (a1 : _) (a2 : _) (a3 : _) (a4 : _) (a5 : _) :
    view k (canDeliver a0 a1 a2 a3 a4 a5) = view k a5 := by
  simp only [List.mem_cons, List.not_mem_nil, or_false, not_or] at h
  unfold canDeliver
  dsimp only
  (repeat' split) <;> simp only [filtApply_view, canQueueRx_view, setCan_view, h, List.mem_cons, List.not_mem_nil, or_false, not_or, ne_eq, not_false_eq_true, and_self]

theorem canReceive_view {k : Blk} (h : k ∉ ([.hub, .shu, .can, .mir, .hed, .rcd, .pwr, .out, .free] : List Blk)) (a0 : _) (a1 : _) (a2 : _) (a3 : _) :
    view k (canReceive a0 a1 a2 a3) = view k a3 := by
  simp only [List.mem_cons, List.not_mem_nil, or_false, not_or] at h
  simp only [canReceive, canDeliver_view, view_when, view_foldl, view_foldFin, h, List.mem_cons, List.not_mem_nil, or_false, not_or, ne_eq, not_false_eq_true, and_self]

theorem canPush_view {k : Blk} (h : k ∉ ([.can] : List Blk)) (a0 : _) (a1 : _) (a2 : _) :
    view k (canPush a0 a1 a2) = view k a2 := by
  simp only [List.mem_cons, List.not_mem_nil, or_false, not_or] at h
  simp only [canPush, setCan_view, view_when, view_foldl, view_foldFin, h, List.mem_cons, List.not_mem_nil, or_false, not_or, ne_eq, not_false_eq_true, and_self]

theorem canLost_view {k : Blk} (h : k ∉ ([.can] : List Blk)) (a0 : _) (a1 : _) (a2 : _) :
    view k (canLost a0 a1 a2) = view k a2 := by
  simp only [List.mem_cons, List.not_mem_nil, or_false, not_or] at h
  simp only [canLost, setCan_view, view_when, view_foldl, view_foldFin, h, List.mem_cons, List.not_mem_nil, or_false, not_or, ne_eq, not_false_eq_true, and_self]

theorem canSubmit_view {k : Blk} (h : k ∉ ([.can, .hed] : List Blk)) (a0 : _) (a1 : _) (a2 : _) :
    view k (canSubmit a0 a1 a2).1 = view k a2 := by
  simp only [List.mem_cons, List.not_mem_nil, or_false, not_or] at h
  simp only [canSubmit, crossDiscard_view, canPush_view, setCan_view, view_when, view_foldl, view_foldFin, apply_ite (view k), ite_self, implies_true, h, List.mem_cons, List.not_mem_nil, or_false, not_or, ne_eq, not_false_eq_true, and_self]
  (repeat' split) <;> first | with_reducible rfl | simp only [crossDiscard_view, canPush_view, setCan_view, view_when, view_foldl, view_foldFin, apply_ite (view k), ite_self, implies_true, h, List.mem_cons, List.not_mem_nil, or_false, not_or, ne_eq, not_false_eq_true, and_self]

theorem canPop_view {k : Blk} (h : k ∉ ([.can] : List Blk)) (a0 : _) (a1 : _) :
    view k (canPop a0 a1) = view k a1 := by
  simp only [List.mem_cons, List.not_mem_nil, or_false, not_or] at h
  simp only [canPop, setCan_view, view_when, view_foldl, view_foldFin, h, List.mem_cons, List.not_mem_nil, or_false, not_or, ne_eq, not_false_eq_true, and_self]

theorem canRemove_view {k : Blk} (h : k ∉ ([.can, .rcd] : List Blk)) (a0 : _) (a1 : _) :
    view k (canRemove a0 a1) = view k a1 := by
  simp only [List.mem_cons, List.not_mem_nil, or_false, not_or] at h
  simp only [canRemove, canPop_view, setCan_view, raiseCan_view, view_when, view_foldl, view_foldFin, h, List.mem_cons, List.not_mem_nil, or_false, not_or, ne_eq, not_false_eq_true, and_self]

theorem completeOpt_view {k : Blk} (h : k ∉ ([.shu, .free] : List Blk)) (a0 : _) (a1 : _) (a2 : _) (a3 : _) :
    view k (completeOpt a0 a1 a2 a3) = view k a3 := by
  simp only [List.mem_cons, List.not_mem_nil, or_false, not_or] at h
  unfold completeOpt
  (repeat' split) <;> simp only [complete_view, view_when, view_foldl, view_foldFin, apply_ite (view k), ite_self, implies_true, h, List.mem_cons, List.not_mem_nil, or_false, not_or, ne_eq, not_false_eq_true, and_self]

theorem abortOpt_view {k : Blk} (h : k ∉ ([.shu, .free] : List Blk)) (a0 : _) (a1 : _) :
    view k (abortOpt a0 a1) = view k a1 := by
  simp only [List.mem_cons, List.not_mem_nil, or_false, not_or] at h
  unfold abortOpt
  (repeat' split) <;> simp only [completeOpen_view, view_when, view_foldl, view_foldFin, apply_ite (view k), ite_self, implies_true, h, List.mem_cons, List.not_mem_nil, or_false, not_or, ne_eq, not_false_eq_true, and_self]

theorem canDoCancel_view {k : Blk} (h : k ∉ ([.shu, .can, .rcd, .free] : List Blk)) (a0 : _) (a1 : _) (a2 : _) :
    view k (canDoCancel a0 a1 a2) = view k a2 := by
  simp only [List.mem_cons, List.not_mem_nil, or_false, not_or] at h
  simp only [canDoCancel, canRemove_view, completeOpt_view, setCan_view, view_when, view_foldl, view_foldFin, apply_ite (view k), ite_self, implies_true, h, List.mem_cons, List.not_mem_nil, or_false, not_or, ne_eq, not_false_eq_true, and_self]

theorem canEnter_view {k : Blk} (h : k ∉ ([.hub, .can, .mir, .hed, .out] : List Blk)) (a0 : _) (a1 : _) (a2 : _) :
    view k (canEnter a0 a1 a2) = view k a2 := by
  simp only [List.mem_cons, List.not_mem_nil, or_false, not_or] at h
  simp only [canEnter, modCan_view, view_when, view_foldl, view_foldFin, h, List.mem_cons, List.not_mem_nil, or_false, not_or, ne_eq, not_false_eq_true, and_self]

theorem canReached_view {k : Blk} (h : k ∉ ([.hub, .shu, .can, .mir, .hed, .rcd, .out, .free] : List Blk)) (a0 : _) (a1 : _) :
    view k (canReached a0 a1) = view k a1 := by
  simp only [List.mem_cons, List.not_mem_nil, or_false, not_or] at h
  simp only [canReached, completeOpt_view, canDoCancel_view, modCan_view, view_when, view_foldl, view_foldFin, apply_ite (view k), ite_self, implies_true, h, List.mem_cons, List.not_mem_nil, or_false, not_or, ne_eq, not_false_eq_true, and_self]
  (repeat' split) <;> first | with_reducible rfl | simp only [completeOpt_view, canDoCancel_view, modCan_view, view_when, view_foldl, view_foldFin, apply_ite (view k), ite_self, implies_true, h, List.mem_cons, List.not_mem_nil, or_false, not_or, ne_eq, not_false_eq_true, and_self]

theorem canStart_view {k : Blk} (h : k ∉ ([.hub, .shu, .can, .mir, .hed, .rcd, .out, .free] : List Blk)) (a0 : _) (a1 : _) (a2 : _) :
    view k (canStart a0 a1 a2) = view k a2 := by
  simp only [List.mem_cons, List.not_mem_nil, or_false, not_or] at h
  unfold canStart
  (repeat' split) <;> simp only [canEnter_view, canReached_view, setCan_view, modCan_view, view_when, view_foldl, view_foldFin, apply_ite (view k), ite_self, implies_true, h, List.mem_cons, List.not_mem_nil, or_false, not_or, ne_eq, not_false_eq_true, and_self]

theorem canRequest_view {k : Blk} (h : k ∉ ([.hub, .shu, .can, .mir, .hed, .rcd, .out, .free] : List Blk)) (a0 : _) (a1 : _) (a2 : _) :
    view k (canRequest a0 a1 a2) = view k a2 := by
  simp only [List.mem_cons, List.not_mem_nil, or_false, not_or] at h
  simp only [canRequest, canStart_view, modCan_view, completeOpt_view, setCan_view, abortOpt_view, view_when, view_foldl, view_foldFin, apply_ite (view k), ite_self, implies_true, h, List.mem_cons, List.not_mem_nil, or_false, not_or, ne_eq, not_false_eq_true, and_self]
  (repeat' split) <;> first | with_reducible rfl | simp only [canStart_view, modCan_view, completeOpt_view, setCan_view, abortOpt_view, view_when, view_foldl, view_foldFin, apply_ite (view k), ite_self, implies_true, h, List.mem_cons, List.not_mem_nil, or_false, not_or, ne_eq, not_false_eq_true, and_self]

theorem canRunHeld_view {k : Blk} (h : k ∉ ([.hub, .shu, .can, .mir, .hed, .rcd, .out, .free] : List Blk)) (a0 : _) (a1 : _) :
    view k (canRunHeld a0 a1) = view k a1 := by
  simp only [List.mem_cons, List.not_mem_nil, or_false, not_or] at h
  unfold canRunHeld
  (repeat' split) <;> simp only [abortOpt_view, modCan_view, canStart_view, view_when, view_foldl, view_foldFin, apply_ite (view k), ite_self, implies_true, h, List.mem_cons, List.not_mem_nil, or_false, not_or, ne_eq, not_false_eq_true, and_self]

theorem canPassive_view {k : Blk} (h : k ∉ ([.hub, .can, .mir, .hed, .rcd, .out] : List Blk)) (a0 : _) (a1 : _) :
    view k (canPassive a0 a1) = view k a1 := by
  simp only [List.mem_cons, List.not_mem_nil, or_false, not_or] at h
  simp only [canPassive, raiseCan_view, modCan_view, view_when, view_foldl, view_foldFin, apply_ite (view k), ite_self, implies_true, h, List.mem_cons, List.not_mem_nil, or_false, not_or, ne_eq, not_false_eq_true, and_self]

theorem canBusOff_view {k : Blk} (h : k ∉ ([.hub, .can, .mir, .hed, .rcd, .out] : List Blk)) (a0 : _) (a1 : _) :
    view k (canBusOff a0 a1) = view k a1 := by
  simp only [List.mem_cons, List.not_mem_nil, or_false, not_or] at h
  simp only [canBusOff, modCan_view, raiseCan_view, view_when, view_foldl, view_foldFin, h, List.mem_cons, List.not_mem_nil, or_false, not_or, ne_eq, not_false_eq_true, and_self]

theorem canTakeTiming_view {k : Blk} (h : k ∉ ([.hub, .can, .mir, .hed, .out] : List Blk)) (a0 : _) (a1 : _) :
    view k (canTakeTiming a0 a1) = view k a1 := by
  simp only [List.mem_cons, List.not_mem_nil, or_false, not_or] at h
  unfold canTakeTiming
  (repeat' split) <;> simp only [modCan_view, view_when, view_foldl, view_foldFin, apply_ite (view k), ite_self, implies_true, h, List.mem_cons, List.not_mem_nil, or_false, not_or, ne_eq, not_false_eq_true, and_self]

theorem canApply_view {k : Blk} (h : k ∉ ([.hub, .can, .mir, .hed, .out] : List Blk)) (a0 : _) (a1 : _) (a2 : _) :
    view k (canApply a0 a1 a2) = view k a2 := by
  simp only [List.mem_cons, List.not_mem_nil, or_false, not_or] at h
  simp only [canApply, canReport_view, setCan_view, canTakeTiming_view, view_when, view_foldl, view_foldFin, apply_ite (view k), ite_self, implies_true, h, List.mem_cons, List.not_mem_nil, or_false, not_or, ne_eq, not_false_eq_true, and_self]

theorem canCreate_view {k : Blk} (h : k ∉ ([.hub, .can, .mir, .hed, .out] : List Blk)) (a0 : _) (a1 : _) (a2 : _) :
    view k (canCreate a0 a1 a2) = view k a2 := by
  simp only [List.mem_cons, List.not_mem_nil, or_false, not_or] at h
  simp only [canCreate, setCan_view, canReport_view, view_when, view_foldl, view_foldFin, h, List.mem_cons, List.not_mem_nil, or_false, not_or, ne_eq, not_false_eq_true, and_self]

theorem canDestroy_view {k : Blk} (h : k ∉ ([.shu, .can, .free] : List Blk)) (a0 : _) (a1 : _) :
    view k (canDestroy a0 a1) = view k a1 := by
  simp only [List.mem_cons, List.not_mem_nil, or_false, not_or] at h
  simp only [canDestroy, setCan_view, abortOpt_view, view_when, view_foldl, view_foldFin, apply_ite (view k), ite_self, implies_true, h, List.mem_cons, List.not_mem_nil, or_false, not_or, ne_eq, not_false_eq_true, and_self]

theorem canListenAll_view {k : Blk} (h : k ∉ ([.hub, .can, .mir, .hed, .out] : List Blk)) (s : _) :
    view k (canListenAll s) = view k s := by
  simp only [List.mem_cons, List.not_mem_nil, or_false, not_or] at h
  unfold canListenAll
  refine view_foldFin (fun t c => ?_) s
  try dsimp only
  (repeat' split) <;> simp only [canTakeTiming_view, modCan_view, view_when, apply_ite (view k), ite_self, implies_true, h, List.mem_cons, List.not_mem_nil, or_false, not_or, ne_eq, not_false_eq_true, and_self]

theorem canLeaveListen_view {k : Blk} (h : k ∉ ([.hub, .can, .mir, .hed, .out] : List Blk)) (s : _) :
    view k (canLeaveListen s) = view k s := by
  simp only [List.mem_cons, List.not_mem_nil, or_false, not_or] at h
  unfold canLeaveListen
  refine view_foldFin (fun t c => ?_) s
  try dsimp only
  (repeat' split) <;> simp only [modCan_view, view_when, apply_ite (view k), ite_self, implies_true, h, List.mem_cons, List.not_mem_nil, or_false, not_or, ne_eq, not_false_eq_true, and_self]

theorem execCanIntegration_view {k : Blk} (h : k ∉ ([.hub, .shu, .can, .mir, .hed, .rcd, .out, .free] : List Blk)) (a0 : _) (a1 : _) :
    viewR k (execCanIntegration a0 a1) = some (view k a1) := by
  simp only [List.mem_cons, List.not_mem_nil, or_false, not_or] at h
  simp only [execCanIntegration, canEnter_view, canReached_view, modCan_view, setCan_view, view_when, view_foldl, view_foldFin, viewR_ok, apply_ite (view k), ite_self, implies_true, h, List.mem_cons, List.not_mem_nil, or_false, not_or, ne_eq, not_false_eq_true, and_self]

theorem canRxError_view {k : Blk} (h : k ∉ ([.hub, .can, .mir, .hed, .rcd, .out] : List Blk)) (a0 : _) (a1 : _) (a2 : _) (a3 : _) :
    view k (canRxError a0 a1 a2 a3) = view k a3 := by
  simp only [List.mem_cons, List.not_mem_nil, or_false, not_or] at h
  simp only [canRxError, setCan_view, canPassive_view, view_when, view_foldl, view_foldFin, h, List.mem_cons, List.not_mem_nil, or_false, not_or, ne_eq, not_false_eq_true, and_self]

theorem execCanFrameReceived_view {k : Blk} (h : k ∉ ([.hub, .shu, .can, .mir, .hed, .rcd, .pwr, .out, .free] : List Blk)) (a0 : _) (a1 : _) (a2 : _) :
    viewR k (execCanFrameReceived a0 a1 a2) = some (view k a2) := by
  simp only [List.mem_cons, List.not_mem_nil, or_false, not_or] at h
  simp only [execCanFrameReceived, canRxError_view, drawn_view, setCan_view, canPassive_view, canReceive_view, view_when, view_foldl, view_foldFin, viewR_ok, apply_ite (view k), ite_self, implies_true, h, List.mem_cons, List.not_mem_nil, or_false, not_or, ne_eq, not_false_eq_true, and_self]

theorem execFilterTimeout_view {k : Blk} (h : k ∉ ([.hub, .can, .mir, .hed, .rcd, .out] : List Blk)) (a0 : _) (a1 : _) (a2 : _) :
    viewR k (execFilterTimeout a0 a1 a2) = some (view k a2) := by
  simp only [List.mem_cons, List.not_mem_nil, or_false, not_or] at h
  unfold execFilterTimeout
  (repeat' split) <;> simp only [setFilt_view, pointUpdate_view, raiseCan_view, view_when, view_foldl, view_foldFin, viewR_ok, apply_ite (view k), ite_self, implies_true, h, List.mem_cons, List.not_mem_nil, or_false, not_or, ne_eq, not_false_eq_true, and_self]

theorem execCanAttemptStart_view {k : Blk} (h : k ∉ ([.can] : List Blk)) (a0 : _) (a1 : _) :
    viewR k (execCanAttemptStart a0 a1) = some (view k a1) := by
  simp only [List.mem_cons, List.not_mem_nil, or_false, not_or] at h
  simp only [execCanAttemptStart, setCan_view, view_when, view_foldl, view_foldFin, viewR_ok, apply_ite (view k), ite_self, implies_true, h, List.mem_cons, List.not_mem_nil, or_false, not_or, ne_eq, not_false_eq_true, and_self]

theorem canSent_view {k : Blk} (h : k ∉ ([.hub, .shu, .can, .mir, .hed, .rcd, .pwr, .out, .free] : List Blk)) (a0 : _) (a1 : _) (a2 : _) :
    view k (canSent a0 a1 a2) = view k a2 := by
  simp only [List.mem_cons, List.not_mem_nil, or_false, not_or] at h
  simp only [canSent, canDeliver_view, canQueueRx_view, setCan_view, canPassive_view, canPop_view, emit_view, view_when, view_foldl, view_foldFin, apply_ite (view k), ite_self, implies_true, h, List.mem_cons, List.not_mem_nil, or_false, not_or, ne_eq, not_false_eq_true, and_self]

theorem canTxError_view {k : Blk} (h : k ∉ ([.hub, .can, .mir, .hed, .rcd, .out] : List Blk)) (a0 : _) (a1 : _) (a2 : _) (a3 : _) (a4 : _) (a5 : _) :
    view k (canTxError a0 a1 a2 a3 a4 a5) = view k a5 := by
  simp only [List.mem_cons, List.not_mem_nil, or_false, not_or] at h
  simp only [canTxError, canPassive_view, canBusOff_view, setCan_view, view_when, view_foldl, view_foldFin, apply_ite (view k), ite_self, implies_true, h, List.mem_cons, List.not_mem_nil, or_false, not_or, ne_eq, not_false_eq_true, and_self]

theorem canEndCancel_view {k : Blk} (h : k ∉ ([.shu, .can, .rcd, .free] : List Blk)) (a0 : _) (a1 : _) (a2 : _) :
    view k (canEndCancel a0 a1 a2) = view k a2 := by
  simp only [List.mem_cons, List.not_mem_nil, or_false, not_or] at h
  simp only [canEndCancel, completeOpt_view, canRemove_view, setCan_view, view_when, view_foldl, view_foldFin, apply_ite (view k), ite_self, implies_true, h, List.mem_cons, List.not_mem_nil, or_false, not_or, ne_eq, not_false_eq_true, and_self]

theorem canListenDue_view {k : Blk} (h : k ∉ ([.hub, .shu, .can, .mir, .hed, .rcd, .out, .free] : List Blk)) (a0 : _) (a1 : _) :
    view k (canListenDue a0 a1) = view k a1 := by
  simp only [List.mem_cons, List.not_mem_nil, or_false, not_or] at h
  unfold canListenDue
  (repeat' split) <;> simp only [canStart_view, view_when, view_foldl, view_foldFin, apply_ite (view k), ite_self, implies_true, h, List.mem_cons, List.not_mem_nil, or_false, not_or, ne_eq, not_false_eq_true, and_self]

theorem execCanAttemptEnd_view {k : Blk} (h : k ∉ ([.hub, .shu, .can, .mir, .hed, .rcd, .pwr, .out, .free] : List Blk)) (a0 : _) (a1 : _) (a2 : _) :
    viewR k (execCanAttemptEnd a0 a1 a2) = some (view k a2) := by
  simp only [List.mem_cons, List.not_mem_nil, or_false, not_or] at h
  simp only [execCanAttemptEnd, canListenDue_view, drawn_view, canTxError_view, canEndCancel_view, canSent_view, canTakeTiming_view, setCan_view, view_when, view_foldl, view_foldFin, viewR_ok, apply_ite (view k), ite_self, implies_true, h, List.mem_cons, List.not_mem_nil, or_false, not_or, ne_eq, not_false_eq_true, and_self]
  (repeat' split) <;> first | with_reducible rfl | simp only [canListenDue_view, drawn_view, canTxError_view, canEndCancel_view, canSent_view, canTakeTiming_view, setCan_view, view_when, view_foldl, view_foldFin, viewR_ok, apply_ite (view k), ite_self, implies_true, h, List.mem_cons, List.not_mem_nil, or_false, not_or, ne_eq, not_false_eq_true, and_self]

theorem execBusOffRecoveryEnd_view {k : Blk} (h : k ∉ ([.hub, .shu, .can, .mir, .hed, .rcd, .out, .free] : List Blk)) (a0 : _) (a1 : _) :
    viewR k (execBusOffRecoveryEnd a0 a1) = some (view k a1) := by
  simp only [List.mem_cons, List.not_mem_nil, or_false, not_or] at h
  simp only [execBusOffRecoveryEnd, modCan_view, canEnter_view, canReached_view, raiseCan_view, setCan_view, view_when, view_foldl, view_foldFin, viewR_ok, apply_ite (view k), ite_self, implies_true, h, List.mem_cons, List.not_mem_nil, or_false, not_or, ne_eq, not_false_eq_true, and_self]

theorem execLonely_view {k : Blk} (h : k ∉ ([.hub, .can, .mir, .hed, .rcd, .out] : List Blk)) (a0 : _) (a1 : _) :
    viewR k (execLonely a0 a1) = some (view k a1) := by
  simp only [List.mem_cons, List.not_mem_nil, or_false, not_or] at h
  simp only [execLonely, modCan_view, raiseCan_view, view_when, view_foldl, view_foldFin, viewR_ok, apply_ite (view k), ite_self, implies_true, h, List.mem_cons, List.not_mem_nil, or_false, not_or, ne_eq, not_false_eq_true, and_self]

theorem canWake_view {k : Blk} (h : k ∉ ([.hub, .can, .mir, .hed, .out] : List Blk)) (a0 : _) (a1 : _) (a2 : _) :
    view k (canWake a0 a1 a2) = view k a2 := by
  simp only [List.mem_cons, List.not_mem_nil, or_false, not_or] at h
  simp only [canWake, modCan_view, view_when, view_foldl, view_foldFin, h, List.mem_cons, List.not_mem_nil, or_false, not_or, ne_eq, not_false_eq_true, and_self]

theorem execCanSleepReached_view {k : Blk} (h : k ∉ ([.hub, .shu, .can, .mir, .hed, .rcd, .out, .free] : List Blk)) (a0 : _) (a1 : _) :
    viewR k (execCanSleepReached a0 a1) = some (view k a1) := by
  simp only [List.mem_cons, List.not_mem_nil, or_false, not_or] at h
  simp only [execCanSleepReached, setCan_view, canWake_view, modCan_view, canReached_view, canRunHeld_view, view_when, view_foldl, view_foldFin, viewR_ok, apply_ite (view k), ite_self, implies_true, h, List.mem_cons, List.not_mem_nil, or_false, not_or, ne_eq, not_false_eq_true, and_self]

theorem execBusWake_view {k : Blk} (h : k ∉ ([.hub, .shu, .can, .mir, .hed, .rcd, .pwr, .out, .free] : List Blk)) (a0 : _) (a1 : _) (a2 : _) :
    viewR k (execBusWake a0 a1 a2) = some (view k a2) := by
  simp only [List.mem_cons, List.not_mem_nil, or_false, not_or] at h
  unfold execBusWake
  (repeat' split) <;> simp only [setCan_view, canWake_view, modCan_view, raiseCan_view, canReceive_view, view_when, view_foldl, view_foldFin, viewR_ok, apply_ite (view k), ite_self, implies_true, h, List.mem_cons, List.not_mem_nil, or_false, not_or, ne_eq, not_false_eq_true, and_self]

theorem canAwake_view {k : Blk} (h : k ∉ ([.hub, .shu, .can, .mir, .hed, .rcd, .out, .free] : List Blk)) (a0 : _) (a1 : _) :
    view k (canAwake a0 a1) = view k a1 := by
  simp only [List.mem_cons, List.not_mem_nil, or_false, not_or] at h
  simp only [canAwake, canReached_view, setCan_view, canEnter_view, view_when, view_foldl, view_foldFin, apply_ite (view k), ite_self, implies_true, h, List.mem_cons, List.not_mem_nil, or_false, not_or, ne_eq, not_false_eq_true, and_self]

theorem execCanWakeEnd_view {k : Blk} (h : k ∉ ([.hub, .shu, .can, .mir, .hed, .rcd, .out, .free] : List Blk)) (a0 : _) (a1 : _) :
    viewR k (execCanWakeEnd a0 a1) = some (view k a1) := by
  simp only [List.mem_cons, List.not_mem_nil, or_false, not_or] at h
  simp only [execCanWakeEnd, canAwake_view, setCan_view, canEnter_view, canReached_view, canRunHeld_view, view_when, view_foldl, view_foldFin, viewR_ok, apply_ite (view k), ite_self, implies_true, h, List.mem_cons, List.not_mem_nil, or_false, not_or, ne_eq, not_false_eq_true, and_self]

theorem execCanStateTimeout_view {k : Blk} (h : k ∉ ([.shu, .can, .free] : List Blk)) (a0 : _) (a1 : _) :
    viewR k (execCanStateTimeout a0 a1) = some (view k a1) := by
  simp only [List.mem_cons, List.not_mem_nil, or_false, not_or] at h
  simp only [execCanStateTimeout, setCan_view, completeOpt_view, view_when, view_foldl, view_foldFin, viewR_ok, apply_ite (view k), ite_self, implies_true, h, List.mem_cons, List.not_mem_nil, or_false, not_or, ne_eq, not_false_eq_true, and_self]

theorem execCanTransceiverWatchdog_view {k : Blk} (h : k ∉ ([.hub, .can, .mir, .hed, .rcd, .pwr, .out] : List Blk)) (a0 : _) (a1 : _) :
    viewR k (execCanTransceiverWatchdog a0 a1) = some (view k a1) := by
  simp only [List.mem_cons, List.not_mem_nil, or_false, not_or] at h
  simp only [execCanTransceiverWatchdog, canTakeTiming_view, setCan_view, raiseOrLate_view, view_when, view_foldl, view_foldFin, viewR_ok, apply_ite (view k), ite_self, implies_true, h, List.mem_cons, List.not_mem_nil, or_false, not_or, ne_eq, not_false_eq_true, and_self]

theorem execCanReceiveError_view {k : Blk} (h : k ∉ ([.hub, .can, .mir, .hed, .rcd, .out] : List Blk)) (a0 : _) (a1 : _) (a2 : _) (a3 : _) :
    viewR k (execCanReceiveError a0 a1 a2 a3) = some (view k a3) := by
  simp only [List.mem_cons, List.not_mem_nil, or_false, not_or] at h
  simp only [execCanReceiveError, canRxError_view, setCan_view, canPassive_view, view_when, view_foldl, view_foldFin, viewR_ok, apply_ite (view k), ite_self, implies_true, h, List.mem_cons, List.not_mem_nil, or_false, not_or, ne_eq, not_false_eq_true, and_self]

end Sys2Proof.Laws
end

