-- ==== Sys2Proof/Laws/FrameBrake.lean ====
section
/-! SUPPORT. What each operation of Machine/Brake.lean keeps: every block outside its footprint. -/

set_option Elab.async false

set_option linter.unusedSimpArgs false
set_option linter.unusedVariables false
set_option linter.unreachableTactic false
set_option linter.unusedTactic false
set_option linter.unnecessarySeqFocus false

namespace Sys2Proof.Laws

open Machine

theorem setBrk_view {k : Blk} (h : k ∉ ([.brk] : List Blk)) (a0 : _) (a1 : _) (a2 : _) :
    view k (setBrk a0 a1 a2) = view k a2 := by
  simp only [List.mem_cons, List.not_mem_nil, or_false, not_or] at h
  simp only [setBrk, view_put_brk, view_when, view_foldl, view_foldFin, h, List.mem_cons, List.not_mem_nil, or_false, not_or, ne_eq, not_false_eq_true, and_self]

theorem brkReport_view {k : Blk} (h : k ∉ ([.hub, .brk, .mir, .hed, .out] : List Blk)) (a0 : _) (a1 : _) :
    view k (brkReport a0 a1) = view k a1 := by
  simp only [List.mem_cons, List.not_mem_nil, or_false, not_or] at h
  simp only [brkReport, setBrk_view, pointUpdate_view, view_when, view_foldl, view_foldFin, apply_ite (view k), ite_self, implies_true, h, List.mem_cons, List.not_mem_nil, or_false, not_or, ne_eq, not_false_eq_true, and_self]

theorem brkPublish_view {k : Blk} (h : k ∉ ([.brk] : List Blk)) (n : _) (w : _) (s : _) :
    view k (brkPublish n w s) = view k s := by
  simp only [List.mem_cons, List.not_mem_nil, or_false, not_or] at h
  unfold brkPublish
  refine view_foldFin (fun t c => ?_) s
  try dsimp only
  (repeat' split) <;> simp only [setBrk_view, view_when, apply_ite (view k), ite_self, implies_true, h, List.mem_cons, List.not_mem_nil, or_false, not_or, ne_eq, not_false_eq_true, and_self]

theorem brkLoomDrop_view {k : Blk} (h : k ∉ ([.brk, .rcd] : List Blk)) (a0 : _) (a1 : _) :
    view k (brkLoomDrop a0 a1) = view k a1 := by
  simp only [List.mem_cons, List.not_mem_nil, or_false, not_or] at h
  simp only [brkLoomDrop, raiseField_view, setBrk_view, view_when, view_foldl, view_foldFin, apply_ite (view k), ite_self, implies_true, h, List.mem_cons, List.not_mem_nil, or_false, not_or, ne_eq, not_false_eq_true, and_self]

theorem brkLogAdd_view {k : Blk} (h : k ∉ ([.brk] : List Blk)) (a0 : _) (a1 : _) (a2 : _) (a3 : _) (a4 : _) :
    view k (brkLogAdd a0 a1 a2 a3 a4) = view k a4 := by
  simp only [List.mem_cons, List.not_mem_nil, or_false, not_or] at h
  simp only [brkLogAdd, view_put_brk, view_when, view_foldl, view_foldFin, h, List.mem_cons, List.not_mem_nil, or_false, not_or, ne_eq, not_false_eq_true, and_self]

theorem brkTaken_view {k : Blk} (h : k ∉ ([.brk, .rcd] : List Blk)) (a0 : _) :
    view k (brkTaken a0) = view k a0 := by
  simp only [List.mem_cons, List.not_mem_nil, or_false, not_or] at h
  unfold brkTaken
  (repeat' split) <;> simp only [raiseField_view, brkLogAdd_view, view_put_brk, view_when, view_foldl, view_foldFin, apply_ite (view k), ite_self, implies_true, h, List.mem_cons, List.not_mem_nil, or_false, not_or, ne_eq, not_false_eq_true, and_self]

theorem brkInForce_view {k : Blk} (h : k ∉ ([.brk] : List Blk)) (a0 : _) :
    view k (brkInForce a0) = view k a0 := by
  simp only [List.mem_cons, List.not_mem_nil, or_false, not_or] at h
  unfold brkInForce
  (repeat' split) <;> simp only [brkLogAdd_view, view_put_brk, view_when, view_foldl, view_foldFin, apply_ite (view k), ite_self, implies_true, h, List.mem_cons, List.not_mem_nil, or_false, not_or, ne_eq, not_false_eq_true, and_self]

theorem brkTakeNext_view {k : Blk} (h : k ∉ ([.brk, .rcd] : List Blk)) (a0 : _) (a1 : _) :
    view k (brkTakeNext a0 a1) = view k a1 := by
  simp only [List.mem_cons, List.not_mem_nil, or_false, not_or] at h
  simp only [brkTakeNext, brkTaken_view, brkInForce_view, raiseField_view, setBrk_view, view_put_brk, view_when, view_foldl, view_foldFin, apply_ite (view k), ite_self, implies_true, h, List.mem_cons, List.not_mem_nil, or_false, not_or, ne_eq, not_false_eq_true, and_self]
  (repeat' split) <;> first | with_reducible rfl | simp only [brkTaken_view, brkInForce_view, raiseField_view, setBrk_view, view_put_brk, view_when, view_foldl, view_foldFin, apply_ite (view k), ite_self, implies_true, h, List.mem_cons, List.not_mem_nil, or_false, not_or, ne_eq, not_false_eq_true, and_self]

theorem brkApplied_view {k : Blk} (h : k ∉ ([.brk, .rcd] : List Blk)) (a0 : _) (a1 : _) :
    view k (brkApplied a0 a1) = view k a1 := by
  simp only [List.mem_cons, List.not_mem_nil, or_false, not_or] at h
  simp only [brkApplied, setBrk_view, brkTakeNext_view, view_when, view_foldl, view_foldFin, h, List.mem_cons, List.not_mem_nil, or_false, not_or, ne_eq, not_false_eq_true, and_self]

theorem brkTryRelease_view {k : Blk} (h : k ∉ ([.brk] : List Blk)) (a0 : _) (a1 : _) :
    view k (brkTryRelease a0 a1) = view k a1 := by
  simp only [List.mem_cons, List.not_mem_nil, or_false, not_or] at h
  simp only [brkTryRelease, setBrk_view, view_when, view_foldl, view_foldFin, apply_ite (view k), ite_self, implies_true, h, List.mem_cons, List.not_mem_nil, or_false, not_or, ne_eq, not_false_eq_true, and_self]

theorem slotSendFrom_view {k : Blk} (h : k ∉ ([.prism] : List Blk)) (a0 : _) (a1 : _) (a2 : _) (a3 : _) :
    view k (slotSendFrom a0 a1 a2 a3) = view k a3 := by
  simp only [List.mem_cons, List.not_mem_nil, or_false, not_or] at h
  simp only [slotSendFrom, view_put_prism, view_when, view_foldl, view_foldFin, h, List.mem_cons, List.not_mem_nil, or_false, not_or, ne_eq, not_false_eq_true, and_self]

theorem slotSend_view {k : Blk} (h : k ∉ ([.prism] : List Blk)) (a0 : _) (a1 : _) (a2 : _) :
    view k (slotSend a0 a1 a2) = view k a2 := by
  simp only [List.mem_cons, List.not_mem_nil, or_false, not_or] at h
  simp only [slotSend, slotSendFrom_view, view_put_prism, view_when, view_foldl, view_foldFin, h, List.mem_cons, List.not_mem_nil, or_false, not_or, ne_eq, not_false_eq_true, and_self]

theorem brkTell_view {k : Blk} (h : k ∉ ([.mir, .out] : List Blk)) (a0 : _) (a1 : _) (a2 : _) :
    view k (brkTell a0 a1 a2) = view k a2 := by
  simp only [List.mem_cons, List.not_mem_nil, or_false, not_or] at h
  simp only [brkTell, pairTell_view, view_when, view_foldl, view_foldFin, apply_ite (view k), ite_self, implies_true, h, List.mem_cons, List.not_mem_nil, or_false, not_or, ne_eq, not_false_eq_true, and_self]

theorem brkLoopBack_view {k : Blk} (h : k ∉ ([.prism, .brk] : List Blk)) (a0 : _) (a1 : _) :
    view k (brkLoopBack a0 a1) = view k a1 := by
  simp only [List.mem_cons, List.not_mem_nil, or_false, not_or] at h
  simp only [brkLoopBack, slotSendFrom_view, slotSend_view, setBrk_view, view_when, view_foldl, view_foldFin, apply_ite (view k), ite_self, implies_true, h, List.mem_cons, List.not_mem_nil, or_false, not_or, ne_eq, not_false_eq_true, and_self]
  (repeat' split) <;> first | with_reducible rfl | simp only [slotSendFrom_view, slotSend_view, setBrk_view, view_when, view_foldl, view_foldFin, apply_ite (view k), ite_self, implies_true, h, List.mem_cons, List.not_mem_nil, or_false, not_or, ne_eq, not_false_eq_true, and_self]

theorem brkOverride_view {k : Blk} (h : k ∉ ([.prism, .brk] : List Blk)) (a0 : _) (a1 : _) (a2 : _) :
    view k (brkOverride a0 a1 a2) = view k a2 := by
  simp only [List.mem_cons, List.not_mem_nil, or_false, not_or] at h
  simp only [brkOverride, slotSendFrom_view, setBrk_view, view_when, view_foldl, view_foldFin, h, List.mem_cons, List.not_mem_nil, or_false, not_or, ne_eq, not_false_eq_true, and_self]

theorem brkTestEnd_view {k : Blk} (h : k ∉ ([.hub, .prism, .brk, .mir, .hed, .rcd, .out] : List Blk)) (a0 : _) (a1 : _) (a2 : _) :
    view k (brkTestEnd a0 a1 a2) = view k a2 := by
  simp only [List.mem_cons, List.not_mem_nil, or_false, not_or] at h
  simp only [brkTestEnd, brkTell_view, raiseField_view, brkReport_view, setBrk_view, brkTakeNext_view, brkLoopBack_view, view_when, view_foldl, view_foldFin, apply_ite (view k), ite_self, implies_true, h, List.mem_cons, List.not_mem_nil, or_false, not_or, ne_eq, not_false_eq_true, and_self]

theorem brkTestTaken_view {k : Blk} (h : k ∉ ([.prism, .brk] : List Blk)) (a0 : _) (a1 : _) (a2 : _) :
    view k (brkTestTaken a0 a1 a2) = view k a2 := by
  simp only [List.mem_cons, List.not_mem_nil, or_false, not_or] at h
  simp only [brkTestTaken, brkLoopBack_view, setBrk_view, view_when, view_foldl, view_foldFin, h, List.mem_cons, List.not_mem_nil, or_false, not_or, ne_eq, not_false_eq_true, and_self]

theorem brkDisc_view {k : Blk} (h : k ∉ ([.brk] : List Blk)) (a0 : _) :
    view k (brkDisc a0) = view k a0 := by
  simp only [List.mem_cons, List.not_mem_nil, or_false, not_or] at h
  simp only [brkDisc, view_put_brk, view_when, view_foldl, view_foldFin, h, List.mem_cons, List.not_mem_nil, or_false, not_or, ne_eq, not_false_eq_true, and_self]

theorem brkFault_view {k : Blk} (h : k ∉ ([.hub, .prism, .brk, .mir, .hed, .rcd, .pwr, .out] : List Blk)) (a0 : _) (a1 : _) (a2 : _) (a3 : _) :
    view k (brkFault a0 a1 a2 a3) = view k a3 := by
  simp only [List.mem_cons, List.not_mem_nil, or_false, not_or] at h
  simp only [brkFault, brkTell_view, brkTestEnd_view, raiseField_view, brkReport_view, climb_view, setBrk_view, brkLoopBack_view, view_when, view_foldl, view_foldFin, apply_ite (view k), ite_self, implies_true, h, List.mem_cons, List.not_mem_nil, or_false, not_or, ne_eq, not_false_eq_true, and_self]

theorem brkFault1_view {k : Blk} (h : k ∉ ([.hub, .prism, .brk, .mir, .hed, .rcd, .pwr, .out] : List Blk)) (a0 : _) (a1 : _) (a2 : _) :
    view k (brkFault1 a0 a1 a2) = view k a2 := by
  simp only [List.mem_cons, List.not_mem_nil, or_false, not_or] at h
  simp only [brkFault1, brkFault_view, view_when, view_foldl, view_foldFin, h, List.mem_cons, List.not_mem_nil, or_false, not_or, ne_eq, not_false_eq_true, and_self]

theorem brkPulseFail_view {k : Blk} (h : k ∉ ([.hub, .prism, .brk, .mir, .hed, .rcd, .pwr, .out] : List Blk)) (a0 : _) (a1 : _) (a2 : _) :
    view k (brkPulseFail a0 a1 a2) = view k a2 := by
  simp only [List.mem_cons, List.not_mem_nil, or_false, not_or] at h
  simp only [brkPulseFail, setBrk_view, brkFault1_view, view_when, view_foldl, view_foldFin, h, List.mem_cons, List.not_mem_nil, or_false, not_or, ne_eq, not_false_eq_true, and_self]

theorem brkTestFail_view {k : Blk} (h : k ∉ ([.hub, .prism, .brk, .mir, .hed, .rcd, .pwr, .out] : List Blk)) (a0 : _) (a1 : _) (a2 : _) :
    view k (brkTestFail a0 a1 a2) = view k a2 := by
  simp only [List.mem_cons, List.not_mem_nil, or_false, not_or] at h
  simp only [brkTestFail, brkTell_view, brkLoopBack_view, setBrk_view, brkFault_view, raiseField_view, brkReport_view, view_when, view_foldl, view_foldFin, apply_ite (view k), ite_self, implies_true, h, List.mem_cons, List.not_mem_nil, or_false, not_or, ne_eq, not_false_eq_true, and_self]

theorem brkReqEngage_view {k : Blk} (h : k ∉ ([.hub, .brk, .mir, .hed, .rcd, .out] : List Blk)) (a0 : _) (a1 : _) :
    view k (brkReqEngage a0 a1) = view k a1 := by
  simp only [List.mem_cons, List.not_mem_nil, or_false, not_or] at h
  simp only [brkReqEngage, brkReport_view, setBrk_view, brkApplied_view, view_when, view_foldl, view_foldFin, apply_ite (view k), ite_self, implies_true, h, List.mem_cons, List.not_mem_nil, or_false, not_or, ne_eq, not_false_eq_true, and_self]

theorem brkReqRelease_view {k : Blk} (h : k ∉ ([.hub, .brk, .mir, .hed, .out] : List Blk)) (a0 : _) (a1 : _) :
    view k (brkReqRelease a0 a1) = view k a1 := by
  simp only [List.mem_cons, List.not_mem_nil, or_false, not_or] at h
  simp only [brkReqRelease, setBrk_view, brkTryRelease_view, brkReport_view, view_when, view_foldl, view_foldFin, h, List.mem_cons, List.not_mem_nil, or_false, not_or, ne_eq, not_false_eq_true, and_self]

theorem brkTestStart_view {k : Blk} (h : k ∉ ([.hub, .prism, .brk, .mir, .hed, .rcd, .pwr, .out] : List Blk)) (c s : _) :
    view k (brkTestStart c s) = view k s := by
  simp only [List.mem_cons, List.not_mem_nil, or_false, not_or] at h
  unfold brkTestStart
  dsimp only
  (repeat' split) <;> simp only [brkOverride_view, brkTestEnd_view, slotSend_view, setBrk_view, brkReport_view, brkTestFail_view, h, List.mem_cons, List.not_mem_nil, or_false, not_or, ne_eq, not_false_eq_true, and_self]

theorem brkReqFollow_view {k : Blk} (h : k ∉ ([.prism, .brk] : List Blk)) (a0 : _) (a1 : _) :
    view k (brkReqFollow a0 a1) = view k a1 := by
  simp only [List.mem_cons, List.not_mem_nil, or_false, not_or] at h
  simp only [brkReqFollow, brkOverride_view, slotSend_view, setBrk_view, view_when, view_foldl, view_foldFin, apply_ite (view k), ite_self, implies_true, h, List.mem_cons, List.not_mem_nil, or_false, not_or, ne_eq, not_false_eq_true, and_self]
  (repeat' split) <;> first | with_reducible rfl | simp only [brkOverride_view, slotSend_view, setBrk_view, view_when, view_foldl, view_foldFin, apply_ite (view k), ite_self, implies_true, h, List.mem_cons, List.not_mem_nil, or_false, not_or, ne_eq, not_false_eq_true, and_self]

theorem brkTestOrNot_view {k : Blk} (h : k ∉ ([.hub, .prism, .brk, .mir, .hed, .rcd, .pwr, .out] : List Blk)) (a0 : _) (a1 : _) :
    view k (brkTestOrNot a0 a1) = view k a1 := by
  simp only [List.mem_cons, List.not_mem_nil, or_false, not_or] at h
  simp only [brkTestOrNot, setBrk_view, brkTell_view, brkTestStart_view, view_when, view_foldl, view_foldFin, apply_ite (view k), ite_self, implies_true, h, List.mem_cons, List.not_mem_nil, or_false, not_or, ne_eq, not_false_eq_true, and_self]

theorem brkReqTest_view {k : Blk} (h : k ∉ ([.hub, .prism, .brk, .mir, .hed, .rcd, .pwr, .out] : List Blk)) (a0 : _) (a1 : _) (a2 : _) :
    view k (brkReqTest a0 a1 a2) = view k a2 := by
  simp only [List.mem_cons, List.not_mem_nil, or_false, not_or] at h
  simp only [brkReqTest, brkTestOrNot_view, setBrk_view, brkReqFollow_view, view_when, view_foldl, view_foldFin, apply_ite (view k), ite_self, implies_true, h, List.mem_cons, List.not_mem_nil, or_false, not_or, ne_eq, not_false_eq_true, and_self]

theorem brkTestPending_view {k : Blk} (h : k ∉ ([.hub, .prism, .brk, .mir, .hed, .rcd, .pwr, .out] : List Blk)) (a0 : _) (a1 : _) :
    view k (brkTestPending a0 a1) = view k a1 := by
  simp only [List.mem_cons, List.not_mem_nil, or_false, not_or] at h
  unfold brkTestPending
  (repeat' split) <;> first | with_reducible rfl | simp only [brkTestOrNot_view, brkTestStart_view, view_when, view_foldl, view_foldFin, apply_ite (view k), ite_self, implies_true, h, List.mem_cons, List.not_mem_nil, or_false, not_or, ne_eq, not_false_eq_true, and_self]

theorem brkLoopTripped_view {k : Blk} (h : k ∉ ([.hub, .prism, .brk, .mir, .hed, .rcd, .pwr, .out] : List Blk)) (a0 : _) (a1 : _) :
    view k (brkLoopTripped a0 a1) = view k a1 := by
  simp only [List.mem_cons, List.not_mem_nil, or_false, not_or] at h
  simp only [brkLoopTripped, brkTestFail_view, view_when, view_foldl, view_foldFin, apply_ite (view k), ite_self, implies_true, h, List.mem_cons, List.not_mem_nil, or_false, not_or, ne_eq, not_false_eq_true, and_self]

theorem brkLoopFreed_view {k : Blk} (h : k ∉ ([.hub, .brk, .mir, .hed, .out] : List Blk)) (a0 : _) (a1 : _) :
    view k (brkLoopFreed a0 a1) = view k a1 := by
  simp only [List.mem_cons, List.not_mem_nil, or_false, not_or] at h
  simp only [brkLoopFreed, setBrk_view, brkTryRelease_view, brkReport_view, view_when, view_foldl, view_foldFin, apply_ite (view k), ite_self, implies_true, h, List.mem_cons, List.not_mem_nil, or_false, not_or, ne_eq, not_false_eq_true, and_self]

theorem brkAdvance_view {k : Blk} (h : k ∉ ([.hub, .prism, .brk, .mir, .hed, .rcd, .pwr, .out] : List Blk)) (c s : _) :
    view k (brkAdvance c s) = view k s := by
  simp only [List.mem_cons, List.not_mem_nil, or_false, not_or] at h
  unfold brkAdvance
  dsimp only
  cases (brkCh s c).st <;> dsimp only <;>
    simp only [apply_ite (view k), ite_self, view_when, brkTestEnd_view, setBrk_view, brkApplied_view, brkFault1_view, brkTryRelease_view, implies_true, h, List.mem_cons, List.not_mem_nil, or_false, not_or, ne_eq, not_false_eq_true, and_self]

theorem brkEngageAll_view {k : Blk} (h : k ∉ ([.hub, .prism, .brk, .mir, .hed, .rcd, .out] : List Blk)) (s : _) :
    view k (brkEngageAll s) = view k s := by
  simp only [List.mem_cons, List.not_mem_nil, or_false, not_or] at h
  unfold brkEngageAll
  refine view_foldFin (fun t c => ?_) s
  try dsimp only
  (repeat' split) <;> simp only [brkReport_view, brkTestEnd_view, setBrk_view, view_when, apply_ite (view k), ite_self, implies_true, h, List.mem_cons, List.not_mem_nil, or_false, not_or, ne_eq, not_false_eq_true, and_self]

theorem brkTickCh_view {k : Blk} (h : k ∉ ([.hub, .prism, .brk, .mir, .hed, .rcd, .pwr, .out] : List Blk)) (a0 : _) (a1 : _) (a2 : _) (a3 : _) :
    view k (brkTickCh a0 a1 a2 a3) = view k a3 := by
  simp only [List.mem_cons, List.not_mem_nil, or_false, not_or] at h
  simp only [brkTickCh, setBrk_view, brkReport_view, brkAdvance_view, brkTestPending_view, brkLoomDrop_view, view_when, view_foldl, view_foldFin, apply_ite (view k), ite_self, implies_true, h, List.mem_cons, List.not_mem_nil, or_false, not_or, ne_eq, not_false_eq_true, and_self]

theorem execBmpTick_view {k : Blk} (h : k ∉ ([.hub, .prism, .brk, .mir, .hed, .rcd, .pwr, .out] : List Blk)) (a0 : _) (a1 : _) :
    viewR k (execBmpTick a0 a1) = some (view k a1) := by
  simp only [List.mem_cons, List.not_mem_nil, or_false, not_or] at h
  unfold execBmpTick
  (repeat' split) <;> simp only [brkTickCh_view, view_put_brk, view_when, view_foldl, view_foldFin, viewR_ok, apply_ite (view k), ite_self, implies_true, h, List.mem_cons, List.not_mem_nil, or_false, not_or, ne_eq, not_false_eq_true, and_self]

theorem execTestSlot_view {k : Blk} (h : k ∉ ([.hub, .brk, .mir, .hed, .out] : List Blk)) (a0 : _) (a1 : _) :
    viewR k (execTestSlot a0 a1) = some (view k a1) := by
  simp only [List.mem_cons, List.not_mem_nil, or_false, not_or] at h
  simp only [execTestSlot, setBrk_view, brkReport_view, view_when, view_foldl, view_foldFin, viewR_ok, apply_ite (view k), ite_self, implies_true, h, List.mem_cons, List.not_mem_nil, or_false, not_or, ne_eq, not_false_eq_true, and_self]
  (repeat' split) <;> first | with_reducible rfl | simp only [setBrk_view, brkReport_view, view_when, view_foldl, view_foldFin, viewR_ok, apply_ite (view k), ite_self, implies_true, h, List.mem_cons, List.not_mem_nil, or_false, not_or, ne_eq, not_false_eq_true, and_self]

theorem execOffPulseTimeout_view {k : Blk} (h : k ∉ ([.hub, .prism, .brk, .mir, .hed, .rcd, .pwr, .out] : List Blk)) (a0 : _) (a1 : _) :
    viewR k (execOffPulseTimeout a0 a1) = some (view k a1) := by
  simp only [List.mem_cons, List.not_mem_nil, or_false, not_or] at h
  unfold execOffPulseTimeout
  (repeat' split) <;> simp only [brkPulseFail_view, view_when, view_foldl, view_foldFin, viewR_ok, apply_ite (view k), ite_self, implies_true, h, List.mem_cons, List.not_mem_nil, or_false, not_or, ne_eq, not_false_eq_true, and_self]

theorem execOnPulseTimeout_view {k : Blk} (h : k ∉ ([.hub, .prism, .brk, .mir, .hed, .rcd, .pwr, .out] : List Blk)) (a0 : _) (a1 : _) :
    viewR k (execOnPulseTimeout a0 a1) = some (view k a1) := by
  simp only [List.mem_cons, List.not_mem_nil, or_false, not_or] at h
  simp only [execOnPulseTimeout, brkPulseFail_view, view_when, view_foldl, view_foldFin, viewR_ok, apply_ite (view k), ite_self, implies_true, h, List.mem_cons, List.not_mem_nil, or_false, not_or, ne_eq, not_false_eq_true, and_self]

theorem execFwCheckTimeout_view {k : Blk} (h : k ∉ ([.hub, .prism, .brk, .mir, .hed, .rcd, .pwr, .out] : List Blk)) (a0 : _) (a1 : _) :
    viewR k (execFwCheckTimeout a0 a1) = some (view k a1) := by
  simp only [List.mem_cons, List.not_mem_nil, or_false, not_or] at h
  simp only [execFwCheckTimeout, brkPulseFail_view, view_when, view_foldl, view_foldFin, viewR_ok, apply_ite (view k), ite_self, implies_true, h, List.mem_cons, List.not_mem_nil, or_false, not_or, ne_eq, not_false_eq_true, and_self]

theorem execTPickExpiry_view {k : Blk} (h : k ∉ ([.hub, .prism, .brk, .mir, .hed, .rcd, .pwr, .out] : List Blk)) (a0 : _) (a1 : _) :
    viewR k (execTPickExpiry a0 a1) = some (view k a1) := by
  simp only [List.mem_cons, List.not_mem_nil, or_false, not_or] at h
  simp only [execTPickExpiry, brkFault1_view, view_when, view_foldl, view_foldFin, viewR_ok, apply_ite (view k), ite_self, implies_true, h, List.mem_cons, List.not_mem_nil, or_false, not_or, ne_eq, not_false_eq_true, and_self]

theorem execFbRelTimeout_view {k : Blk} (h : k ∉ ([.hub, .prism, .brk, .mir, .hed, .rcd, .pwr, .out] : List Blk)) (a0 : _) (a1 : _) :
    viewR k (execFbRelTimeout a0 a1) = some (view k a1) := by
  simp only [List.mem_cons, List.not_mem_nil, or_false, not_or] at h
  simp only [execFbRelTimeout, brkFault1_view, view_when, view_foldl, view_foldFin, viewR_ok, apply_ite (view k), ite_self, implies_true, h, List.mem_cons, List.not_mem_nil, or_false, not_or, ne_eq, not_false_eq_true, and_self]

theorem execFbAppTimeout_view {k : Blk} (h : k ∉ ([.hub, .prism, .brk, .mir, .hed, .rcd, .pwr, .out] : List Blk)) (a0 : _) (a1 : _) :
    viewR k (execFbAppTimeout a0 a1) = some (view k a1) := by
  simp only [List.mem_cons, List.not_mem_nil, or_false, not_or] at h
  simp only [execFbAppTimeout, brkFault1_view, view_when, view_foldl, view_foldFin, viewR_ok, apply_ite (view k), ite_self, implies_true, h, List.mem_cons, List.not_mem_nil, or_false, not_or, ne_eq, not_false_eq_true, and_self]

theorem execHoldExpiry_view {k : Blk} (h : k ∉ ([.hub, .brk, .mir, .hed, .out] : List Blk)) (a0 : _) (a1 : _) :
    viewR k (execHoldExpiry a0 a1) = some (view k a1) := by
  simp only [List.mem_cons, List.not_mem_nil, or_false, not_or] at h
  simp only [execHoldExpiry, setBrk_view, brkTryRelease_view, brkReport_view, view_when, view_foldl, view_foldFin, viewR_ok, apply_ite (view k), ite_self, implies_true, h, List.mem_cons, List.not_mem_nil, or_false, not_or, ne_eq, not_false_eq_true, and_self]

theorem execEngageFail_view {k : Blk} (h : k ∉ ([.hub, .prism, .brk, .mir, .hed, .rcd, .pwr, .out] : List Blk)) (a0 : _) (a1 : _) :
    viewR k (execEngageFail a0 a1) = some (view k a1) := by
  simp only [List.mem_cons, List.not_mem_nil, or_false, not_or] at h
  simp only [execEngageFail, brkDisc_view, brkFault_view, view_when, view_foldl, view_foldFin, viewR_ok, apply_ite (view k), ite_self, implies_true, h, List.mem_cons, List.not_mem_nil, or_false, not_or, ne_eq, not_false_eq_true, and_self]

theorem execReqTmoExpiry_view {k : Blk} (h : k ∉ ([.brk, .rcd] : List Blk)) (a0 : _) (a1 : _) :
    viewR k (execReqTmoExpiry a0 a1) = some (view k a1) := by
  simp only [List.mem_cons, List.not_mem_nil, or_false, not_or] at h
  simp only [execReqTmoExpiry, brkLoomDrop_view, view_when, view_foldl, view_foldFin, viewR_ok, apply_ite (view k), ite_self, implies_true, h, List.mem_cons, List.not_mem_nil, or_false, not_or, ne_eq, not_false_eq_true, and_self]

theorem brkFaultAll_view {k : Blk} (h : k ∉ ([.hub, .prism, .brk, .mir, .hed, .rcd, .pwr, .out] : List Blk)) (a0 : _) (a1 : _) :
    view k (brkFaultAll a0 a1) = view k a1 := by
  simp only [List.mem_cons, List.not_mem_nil, or_false, not_or] at h
  simp only [brkFaultAll, brkFault1_view, view_when, view_foldl, view_foldFin, apply_ite (view k), ite_self, implies_true, h, List.mem_cons, List.not_mem_nil, or_false, not_or, ne_eq, not_false_eq_true, and_self]

theorem execBrakeFault_view {k : Blk} (h : k ∉ ([.hub, .prism, .brk, .mir, .hed, .rcd, .pwr, .out] : List Blk)) (a0 : _) (a1 : _) :
    viewR k (execBrakeFault a0 a1) = some (view k a1) := by
  simp only [List.mem_cons, List.not_mem_nil, or_false, not_or] at h
  unfold execBrakeFault
  (repeat' split) <;> simp only [brkDisc_view, brkFaultAll_view, brkFault1_view, view_when, view_foldl, view_foldFin, viewR_ok, apply_ite (view k), ite_self, implies_true, h, List.mem_cons, List.not_mem_nil, or_false, not_or, ne_eq, not_false_eq_true, and_self]

theorem execBrakeSupplyWarning_view {k : Blk} (h : k ∉ ([.brk, .rcd] : List Blk)) (a0 : _) (a1 : _) :
    viewR k (execBrakeSupplyWarning a0 a1) = some (view k a1) := by
  simp only [List.mem_cons, List.not_mem_nil, or_false, not_or] at h
  simp only [execBrakeSupplyWarning, raiseField_view, view_put_brk, view_when, view_foldl, view_foldFin, viewR_ok, apply_ite (view k), ite_self, implies_true, h, List.mem_cons, List.not_mem_nil, or_false, not_or, ne_eq, not_false_eq_true, and_self]

theorem execBrakeTestPositionRead_view {k : Blk} (h : k ∉ ([.hub, .prism, .brk, .mir, .hed, .rcd, .pwr, .out] : List Blk)) (a0 : _) (a1 : _) :
    viewR k (execBrakeTestPositionRead a0 a1) = some (view k a1) := by
  simp only [List.mem_cons, List.not_mem_nil, or_false, not_or] at h
  simp only [execBrakeTestPositionRead, brkTestFail_view, setBrk_view, view_when, view_foldl, view_foldFin, viewR_ok, apply_ite (view k), ite_self, implies_true, h, List.mem_cons, List.not_mem_nil, or_false, not_or, ne_eq, not_false_eq_true, and_self]

theorem execBrakeTestEnd_view {k : Blk} (h : k ∉ ([.hub, .prism, .brk, .mir, .hed, .rcd, .out] : List Blk)) (a0 : _) (a1 : _) :
    viewR k (execBrakeTestEnd a0 a1) = some (view k a1) := by
  simp only [List.mem_cons, List.not_mem_nil, or_false, not_or] at h
  simp only [execBrakeTestEnd, brkTestEnd_view, view_when, view_foldl, view_foldFin, viewR_ok, apply_ite (view k), ite_self, implies_true, h, List.mem_cons, List.not_mem_nil, or_false, not_or, ne_eq, not_false_eq_true, and_self]

theorem brkUnlock_view {k : Blk} (h : k ∉ ([.brk] : List Blk)) (a0 : _) :
    view k (brkUnlock a0) = view k a0 := by
  simp only [List.mem_cons, List.not_mem_nil, or_false, not_or] at h
  simp only [brkUnlock, view_put_brk, view_when, view_foldl, view_foldFin, apply_ite (view k), ite_self, implies_true, h, List.mem_cons, List.not_mem_nil, or_false, not_or, ne_eq, not_false_eq_true, and_self]

theorem execPasswordLockEnd_view {k : Blk} (h : k ∉ ([.brk] : List Blk)) (a0 : _) :
    viewR k (execPasswordLockEnd a0) = some (view k a0) := by
  simp only [List.mem_cons, List.not_mem_nil, or_false, not_or] at h
  simp only [execPasswordLockEnd, brkUnlock_view, view_when, view_foldl, view_foldFin, viewR_ok, h, List.mem_cons, List.not_mem_nil, or_false, not_or, ne_eq, not_false_eq_true, and_self]

theorem brkLogLoad_view {k : Blk} (h : k ∉ ([.brk] : List Blk)) (a0 : _) (a1 : _) :
    view k (brkLogLoad a0 a1) = view k a1 := by
  simp only [List.mem_cons, List.not_mem_nil, or_false, not_or] at h
  unfold brkLogLoad
  (repeat' split) <;> simp only [view_put_brk, view_when, view_foldl, view_foldFin, apply_ite (view k), ite_self, implies_true, h, List.mem_cons, List.not_mem_nil, or_false, not_or, ne_eq, not_false_eq_true, and_self]

theorem brkCfgCh_view {k : Blk} (h : k ∉ ([.brk] : List Blk)) (a0 : _) (a1 : _) (a2 : _) :
    view k (brkCfgCh a0 a1 a2) = view k a2 := by
  simp only [List.mem_cons, List.not_mem_nil, or_false, not_or] at h
  simp only [brkCfgCh, setBrk_view, view_when, view_foldl, view_foldFin, apply_ite (view k), ite_self, implies_true, h, List.mem_cons, List.not_mem_nil, or_false, not_or, ne_eq, not_false_eq_true, and_self]
  (repeat' split) <;> first | with_reducible rfl | simp only [setBrk_view, view_when, view_foldl, view_foldFin, apply_ite (view k), ite_self, implies_true, h, List.mem_cons, List.not_mem_nil, or_false, not_or, ne_eq, not_false_eq_true, and_self]

theorem brkCfgApply_view {k : Blk} (h : k ∉ ([.hub, .brk, .mir, .hed, .rcd, .out] : List Blk)) (a0 : _) (a1 : _) (a2 : _) (a3 : _) :
    view k (brkCfgApply a0 a1 a2 a3) = view k a3 := by
  simp only [List.mem_cons, List.not_mem_nil, or_false, not_or] at h
  simp only [brkCfgApply, brkTaken_view, raiseField_view, brkInForce_view, brkReport_view, brkCfgCh_view, view_put_brk, view_when, view_foldl, view_foldFin, apply_ite (view k), ite_self, implies_true, h, List.mem_cons, List.not_mem_nil, or_false, not_or, ne_eq, not_false_eq_true, and_self]

theorem brkCopy_view {k : Blk} (h : k ∉ ([.hub, .brk, .mir, .hed, .rcd, .out] : List Blk)) (a0 : _) (a1 : _) (a2 : _) (a3 : _) (a4 : _) :
    view k (brkCopy a0 a1 a2 a3 a4) = view k a4 := by
  simp only [List.mem_cons, List.not_mem_nil, or_false, not_or] at h
  simp only [brkCopy, brkTakeNext_view, brkReport_view, setBrk_view, view_when, view_foldl, view_foldFin, apply_ite (view k), ite_self, implies_true, h, List.mem_cons, List.not_mem_nil, or_false, not_or, ne_eq, not_false_eq_true, and_self]

theorem brkHoldOpen_view {k : Blk} (h : k ∉ ([.hub, .prism, .brk, .mir, .hed, .out] : List Blk)) (a0 : _) :
    view k (brkHoldOpen a0) = view k a0 := by
  simp only [List.mem_cons, List.not_mem_nil, or_false, not_or] at h
  simp only [brkHoldOpen, brkLoopBack_view, setBrk_view, brkReport_view, view_when, view_foldl, view_foldFin, apply_ite (view k), ite_self, implies_true, h, List.mem_cons, List.not_mem_nil, or_false, not_or, ne_eq, not_false_eq_true, and_self]

theorem brkTakeOver_view {k : Blk} (h : k ∉ ([.hub, .prism, .brk, .mir, .hed, .out] : List Blk)) (s : _) :
    view k (brkTakeOver s) = view k s := by
  simp only [List.mem_cons, List.not_mem_nil, or_false, not_or] at h
  unfold brkTakeOver
  refine view_foldFin (fun t c => ?_) s
  try dsimp only
  (repeat' split) <;> simp only [brkLoopBack_view, setBrk_view, brkReport_view, view_when, apply_ite (view k), ite_self, implies_true, h, List.mem_cons, List.not_mem_nil, or_false, not_or, ne_eq, not_false_eq_true, and_self]

theorem brkRestart_view {k : Blk} (h : k ∉ ([.brk, .rcd, .pwr] : List Blk)) (a0 : _) :
    view k (brkRestart a0) = view k a0 := by
  simp only [List.mem_cons, List.not_mem_nil, or_false, not_or] at h
  simp only [brkRestart, raiseOrLate_view, brkInForce_view, brkLogAdd_view, setBrk_view, view_put_brk, view_when, view_foldl, view_foldFin, apply_ite (view k), ite_self, implies_true, h, List.mem_cons, List.not_mem_nil, or_false, not_or, ne_eq, not_false_eq_true, and_self]
  (repeat' split) <;> first | with_reducible rfl | simp only [raiseOrLate_view, brkInForce_view, brkLogAdd_view, setBrk_view, view_put_brk, view_when, view_foldl, view_foldFin, apply_ite (view k), ite_self, implies_true, h, List.mem_cons, List.not_mem_nil, or_false, not_or, ne_eq, not_false_eq_true, and_self]

end Sys2Proof.Laws
end

