-- ==== Sys2Proof/Laws/FrameFollow.lean ====
section
/-! SUPPORT. What each operation of Machine/Follow.lean keeps: every block outside its footprint. -/

set_option Elab.async false

set_option linter.unusedSimpArgs false
set_option linter.unusedVariables false
set_option linter.unreachableTactic false
set_option linter.unusedTactic false
set_option linter.unnecessarySeqFocus false

namespace Sys2Proof.Laws

open Machine

theorem bothLanes_view {k : Blk} (h : k ∉ ([.out] : List Blk)) (a0 : _) (a1 : _) :
    view k (bothLanes a0 a1) = view k a1 := by
  simp only [List.mem_cons, List.not_mem_nil, or_false, not_or] at h
  simp only [bothLanes, emit_view, view_when, view_foldl, view_foldFin, h, List.mem_cons, List.not_mem_nil, or_false, not_or, ne_eq, not_false_eq_true, and_self]

theorem sendCmd_view {k : Blk} (h : k ∉ ([.mir, .out] : List Blk)) (a0 : _) (a1 : _) (a2 : _) :
    view k (sendCmd a0 a1 a2) = view k a2 := by
  simp only [List.mem_cons, List.not_mem_nil, or_false, not_or] at h
  simp only [sendCmd, bothLanes_view, view_put_mir, view_when, view_foldl, view_foldFin, h, List.mem_cons, List.not_mem_nil, or_false, not_or, ne_eq, not_false_eq_true, and_self]

theorem cmdAnswered_view {k : Blk} (h : k ∉ ([.mir] : List Blk)) (a0 : _) (a1 : _) :
    view k (cmdAnswered a0 a1) = view k a1 := by
  simp only [List.mem_cons, List.not_mem_nil, or_false, not_or] at h
  simp only [cmdAnswered, view_put_mir, view_when, view_foldl, view_foldFin, h, List.mem_cons, List.not_mem_nil, or_false, not_or, ne_eq, not_false_eq_true, and_self]

theorem startDriving_view {k : Blk} (h : k ∉ ([.hub, .prism, .dbank, .dio, .aio, .enc, .can, .brk, .mir, .hed, .out] : List Blk)) (a0 : _) (a1 : _) :
    view k (startDriving a0 a1) = view k a1 := by
  simp only [List.mem_cons, List.not_mem_nil, or_false, not_or] at h
  simp only [startDriving, dioEvalAll_view, aioBypassAll_view, brkTakeOver_view, canLeaveListen_view, view_put_aio_enc_mir, h, List.mem_cons, List.not_mem_nil, or_false, not_or, ne_eq, not_false_eq_true, and_self]

theorem stopDriving_view {k : Blk} (h : k ∉ ([.hub, .prism, .dbank, .dio, .enc, .can, .brk, .mir, .hed, .out] : List Blk)) (a0 : _) :
    view k (stopDriving a0) = view k a0 := by
  simp only [List.mem_cons, List.not_mem_nil, or_false, not_or] at h
  simp only [stopDriving, view_put_enc, dioEvalAll_view, brkHoldOpen_view, canListenAll_view, view_when, view_foldl, view_foldFin, h, List.mem_cons, List.not_mem_nil, or_false, not_or, ne_eq, not_false_eq_true, and_self]

theorem swapEnd_view {k : Blk} (h : k ∉ ([.shu, .zor, .hed, .rcd, .free] : List Blk)) (a0 : _) (a1 : _) (a2 : _) (a3 : _) :
    view k (swapEnd a0 a1 a2 a3) = view k a3 := by
  simp only [List.mem_cons, List.not_mem_nil, or_false, not_or] at h
  unfold swapEnd
  (repeat' split) <;> simp only [hedImage_view, raise_view, completeOpen_view, complete_view, view_put_zor, view_when, view_foldl, view_foldFin, apply_ite (view k), ite_self, implies_true, h, List.mem_cons, List.not_mem_nil, or_false, not_or, ne_eq, not_false_eq_true, and_self]

theorem swapQuit_view {k : Blk} (h : k ∉ ([.shu, .zor, .hed, .rcd, .free] : List Blk)) (a0 : _) :
    view k (swapQuit a0) = view k a0 := by
  simp only [List.mem_cons, List.not_mem_nil, or_false, not_or] at h
  simp only [swapQuit, swapEnd_view, view_when, view_foldl, view_foldFin, apply_ite (view k), ite_self, implies_true, h, List.mem_cons, List.not_mem_nil, or_false, not_or, ne_eq, not_false_eq_true, and_self]

theorem syncSeg_view {k : Blk} (h : k ∉ ([.mir, .out] : List Blk)) (a0 : _) (a1 : _) (a2 : _) :
    view k (syncSeg a0 a1 a2) = view k a2 := by
  simp only [List.mem_cons, List.not_mem_nil, or_false, not_or] at h
  simp only [syncSeg, sendFrame_view, view_put_mir, view_when, view_foldl, view_foldFin, h, List.mem_cons, List.not_mem_nil, or_false, not_or, ne_eq, not_false_eq_true, and_self]

theorem syncEnter_view {k : Blk} (h : k ∉ ([.mir] : List Blk)) (a0 : _) (a1 : _) :
    view k (syncEnter a0 a1) = view k a1 := by
  simp only [List.mem_cons, List.not_mem_nil, or_false, not_or] at h
  simp only [syncEnter, view_put_mir, view_when, view_foldl, view_foldFin, h, List.mem_cons, List.not_mem_nil, or_false, not_or, ne_eq, not_false_eq_true, and_self]

theorem lifeEvent_view {k : Blk} (h : k ∉ ([.rcd] : List Blk)) (a0 : _) :
    view k (lifeEvent a0) = view k a0 := by
  simp only [List.mem_cons, List.not_mem_nil, or_false, not_or] at h
  simp only [lifeEvent, raise_view, view_when, view_foldl, view_foldFin, h, List.mem_cons, List.not_mem_nil, or_false, not_or, ne_eq, not_false_eq_true, and_self]

theorem syncBegin_view {k : Blk} (h : k ∉ ([.mir, .rcd, .out, .free] : List Blk)) (a0 : _) :
    view k (syncBegin a0) = view k a0 := by
  simp only [List.mem_cons, List.not_mem_nil, or_false, not_or] at h
  simp only [syncBegin, raise_view, drawn_view, syncSeg_view, syncEnter_view, lifeEvent_view, view_put_mir, view_when, view_foldl, view_foldFin, apply_ite (view k), ite_self, implies_true, h, List.mem_cons, List.not_mem_nil, or_false, not_or, ne_eq, not_false_eq_true, and_self]

theorem toSyncing_view {k : Blk} (h : k ∉ ([.hub, .shu, .loom, .zor, .mir, .hed, .rcd, .out, .free] : List Blk)) (a0 : _) (a1 : _) :
    view k (toSyncing a0 a1) = view k a1 := by
  simp only [List.mem_cons, List.not_mem_nil, or_false, not_or] at h
  simp only [toSyncing, drainHub_view, swapQuit_view, syncBegin_view, roleChange_view, view_put_loom, view_put_loom_zor, view_put_loom_zor_mir, view_when, view_foldl, view_foldFin, apply_ite (view k), ite_self, implies_true, h, List.mem_cons, List.not_mem_nil, or_false, not_or, ne_eq, not_false_eq_true, and_self]

theorem syncAbandon_view {k : Blk} (h : k ∉ ([.hub, .loom, .mir, .rcd, .out] : List Blk)) (a0 : _) :
    view k (syncAbandon a0) = view k a0 := by
  simp only [List.mem_cons, List.not_mem_nil, or_false, not_or] at h
  simp only [syncAbandon, drainHub_view, raise_view, view_put_loom, view_put_loom_mir, view_when, view_foldl, view_foldFin, h, List.mem_cons, List.not_mem_nil, or_false, not_or, ne_eq, not_false_eq_true, and_self]

theorem standbyLeaves_view {k : Blk} (h : k ∉ ([.hub, .shu, .loom, .zor, .mir, .hed, .rcd, .out, .free] : List Blk)) (a0 : _) (a1 : _) :
    view k (standbyLeaves a0 a1) = view k a1 := by
  simp only [List.mem_cons, List.not_mem_nil, or_false, not_or] at h
  simp only [standbyLeaves, toSyncing_view, view_when, view_foldl, view_foldFin, apply_ite (view k), ite_self, implies_true, h, List.mem_cons, List.not_mem_nil, or_false, not_or, ne_eq, not_false_eq_true, and_self]

theorem syncDrop_view {k : Blk} (h : k ∉ ([.mir] : List Blk)) (a0 : _) :
    view k (syncDrop a0) = view k a0 := by
  simp only [List.mem_cons, List.not_mem_nil, or_false, not_or] at h
  simp only [syncDrop, syncEnter_view, view_put_mir, view_when, view_foldl, view_foldFin, apply_ite (view k), ite_self, implies_true, h, List.mem_cons, List.not_mem_nil, or_false, not_or, ne_eq, not_false_eq_true, and_self]

theorem divStart_view {k : Blk} (h : k ∉ ([.mir, .out] : List Blk)) (a0 : _) (a1 : _) :
    view k (divStart a0 a1) = view k a1 := by
  simp only [List.mem_cons, List.not_mem_nil, or_false, not_or] at h
  simp only [divStart, sendCmd_view, view_put_mir, view_when, view_foldl, view_foldFin, h, List.mem_cons, List.not_mem_nil, or_false, not_or, ne_eq, not_false_eq_true, and_self]

theorem sigCompare_view {k : Blk} (h : k ∉ ([.hub, .loom, .mir, .rcd, .out] : List Blk)) (a0 : _) (a1 : _) (a2 : _) :
    view k (sigCompare a0 a1 a2) = view k a2 := by
  simp only [List.mem_cons, List.not_mem_nil, or_false, not_or] at h
  simp only [sigCompare, syncAbandon_view, divStart_view, view_put_mir, view_when, view_foldl, view_foldFin, apply_ite (view k), ite_self, implies_true, h, List.mem_cons, List.not_mem_nil, or_false, not_or, ne_eq, not_false_eq_true, and_self]

theorem sigOwn_view {k : Blk} (h : k ∉ ([.hub, .loom, .mir, .rcd, .out] : List Blk)) (a0 : _) (a1 : _) :
    view k (sigOwn a0 a1) = view k a1 := by
  simp only [List.mem_cons, List.not_mem_nil, or_false, not_or] at h
  unfold sigOwn
  (repeat' split) <;> simp only [sigCompare_view, view_put_mir, view_when, view_foldl, view_foldFin, apply_ite (view k), ite_self, implies_true, h, List.mem_cons, List.not_mem_nil, or_false, not_or, ne_eq, not_false_eq_true, and_self]

theorem sigPeer_view {k : Blk} (h : k ∉ ([.hub, .loom, .mir, .rcd, .out] : List Blk)) (a0 : _) (a1 : _) :
    view k (sigPeer a0 a1) = view k a1 := by
  simp only [List.mem_cons, List.not_mem_nil, or_false, not_or] at h
  simp only [sigPeer, sigCompare_view, view_put_mir, view_when, view_foldl, view_foldFin, apply_ite (view k), ite_self, implies_true, h, List.mem_cons, List.not_mem_nil, or_false, not_or, ne_eq, not_false_eq_true, and_self]
  (repeat' split) <;> first | with_reducible rfl | simp only [sigCompare_view, view_put_mir, view_when, view_foldl, view_foldFin, apply_ite (view k), ite_self, implies_true, h, List.mem_cons, List.not_mem_nil, or_false, not_or, ne_eq, not_false_eq_true, and_self]

theorem meSignature_view {k : Blk} (h : k ∉ ([.hub, .loom, .mir, .rcd, .out] : List Blk)) (a0 : _) (a1 : _) :
    view k (meSignature a0 a1) = view k a1 := by
  simp only [List.mem_cons, List.not_mem_nil, or_false, not_or] at h
  simp only [meSignature, sigOwn_view, sendFrame_view, view_when, view_foldl, view_foldFin, apply_ite (view k), ite_self, implies_true, h, List.mem_cons, List.not_mem_nil, or_false, not_or, ne_eq, not_false_eq_true, and_self]

theorem swapSend_view {k : Blk} (h : k ∉ ([.mir, .out] : List Blk)) (a0 : _) (a1 : _) (a2 : _) (a3 : _) :
    view k (swapSend a0 a1 a2 a3) = view k a3 := by
  simp only [List.mem_cons, List.not_mem_nil, or_false, not_or] at h
  simp only [swapSend, sendFrame_view, view_when, view_foldl, view_foldFin, h, List.mem_cons, List.not_mem_nil, or_false, not_or, ne_eq, not_false_eq_true, and_self]

theorem swapFail_view {k : Blk} (h : k ∉ ([.shu, .zor, .mir, .hed, .rcd, .out, .free] : List Blk)) (a0 : _) (a1 : _) (a2 : _) :
    view k (swapFail a0 a1 a2) = view k a2 := by
  simp only [List.mem_cons, List.not_mem_nil, or_false, not_or] at h
  simp only [swapFail, swapEnd_view, swapSend_view, view_when, view_foldl, view_foldFin, apply_ite (view k), ite_self, implies_true, h, List.mem_cons, List.not_mem_nil, or_false, not_or, ne_eq, not_false_eq_true, and_self]

theorem execHandoverStuck_view {k : Blk} (h : k ∉ ([.shu, .zor, .mir, .hed, .rcd, .pwr, .out, .free] : List Blk)) (a0 : _) (a1 : _) :
    viewR k (execHandoverStuck a0 a1) = some (view k a1) := by
  simp only [List.mem_cons, List.not_mem_nil, or_false, not_or] at h
  simp only [execHandoverStuck, swapFail_view, swapEnd_view, climb_view, setHed_view, raiseFabric_view, view_when, view_foldl, view_foldFin, viewR_ok, apply_ite (view k), ite_self, implies_true, h, List.mem_cons, List.not_mem_nil, or_false, not_or, ne_eq, not_false_eq_true, and_self]
  (repeat' split) <;> first | with_reducible rfl | simp only [swapFail_view, swapEnd_view, climb_view, setHed_view, raiseFabric_view, view_when, view_foldl, view_foldFin, viewR_ok, apply_ite (view k), ite_self, implies_true, h, List.mem_cons, List.not_mem_nil, or_false, not_or, ne_eq, not_false_eq_true, and_self]

theorem handOver_view {k : Blk} (h : k ∉ ([.shu, .zor, .mir, .hed, .rcd, .out, .free] : List Blk)) (a0 : _) (a1 : _) (a2 : _) :
    view k (handOver a0 a1 a2) = view k a2 := by
  simp only [List.mem_cons, List.not_mem_nil, or_false, not_or] at h
  simp only [handOver, raise_view, sendCmd_view, swapEnd_view, view_put_mir, view_when, view_foldl, view_foldFin, apply_ite (view k), ite_self, implies_true, h, List.mem_cons, List.not_mem_nil, or_false, not_or, ne_eq, not_false_eq_true, and_self]

end Sys2Proof.Laws
end

