-- ==== Sys2Proof/Laws/FramePublish.lean ====
section
/-! SUPPORT. What each operation of Machine/Publish.lean keeps: every block outside its footprint. -/

set_option Elab.async false

set_option linter.unusedSimpArgs false
set_option linter.unusedVariables false
set_option linter.unreachableTactic false
set_option linter.unusedTactic false
set_option linter.unnecessarySeqFocus false

namespace Sys2Proof.Laws

open Machine

theorem setLoom_view {k : Blk} (h : k ∉ ([.loom] : List Blk)) (a0 : _) (a1 : _) (a2 : _) :
    view k (setLoom a0 a1 a2) = view k a2 := by
  simp only [List.mem_cons, List.not_mem_nil, or_false, not_or] at h
  simp only [setLoom, view_put_loom, view_when, view_foldl, view_foldFin, h, List.mem_cons, List.not_mem_nil, or_false, not_or, ne_eq, not_false_eq_true, and_self]

theorem commandWord_view {k : Blk} (h : k ∉ ([.hub, .dbank, .dio, .aio, .mir, .hed, .rcd, .pwr, .out] : List Blk)) (a0 : _) (a1 : _) (a2 : _) (a3 : _) :
    view k (commandWord a0 a1 a2 a3) = view k a3 := by
  simp only [List.mem_cons, List.not_mem_nil, or_false, not_or] at h
  unfold commandWord
  (repeat' split) <;> simp only [parityFail_view, fieldCommand_view, crossDiscard_view, view_when, view_foldl, view_foldFin, apply_ite (view k), ite_self, implies_true, h, List.mem_cons, List.not_mem_nil, or_false, not_or, ne_eq, not_false_eq_true, and_self]

theorem publishMarked_view {k : Blk} (h : k ∉ ([.hub, .dbank, .dio, .aio, .mir, .hed, .rcd, .pwr, .out] : List Blk)) (a0 : _) (a1 : _) (a2 : _) :
    view k (publishMarked a0 a1 a2) = view k a2 := by
  simp only [List.mem_cons, List.not_mem_nil, or_false, not_or] at h
  simp only [publishMarked, commandWord_view, ptSet_view, view_when, view_foldl, view_foldFin, apply_ite (view k), ite_self, implies_true, h, List.mem_cons, List.not_mem_nil, or_false, not_or, ne_eq, not_false_eq_true, and_self]

theorem publishPts_view {k : Blk} (h : k ∉ ([.hub, .dbank, .dio, .aio, .mir, .hed, .rcd, .pwr, .out] : List Blk)) (a0 : _) (a1 : _) :
    view k (publishPts a0 a1) = view k a1 := by
  simp only [List.mem_cons, List.not_mem_nil, or_false, not_or] at h
  simp only [publishPts, publishMarked_view, fieldCommand_view, ptSet_view, view_when, view_foldl, view_foldFin, apply_ite (view k), ite_self, implies_true, h, List.mem_cons, List.not_mem_nil, or_false, not_or, ne_eq, not_false_eq_true, and_self]

theorem warpTaken_view {k : Blk} (h : k ∉ ([.hed] : List Blk)) (a0 : _) (a1 : _) :
    view k (warpTaken a0 a1) = view k a1 := by
  simp only [List.mem_cons, List.not_mem_nil, or_false, not_or] at h
  simp only [warpTaken, view_put_hed, view_when, view_foldl, view_foldFin, h, List.mem_cons, List.not_mem_nil, or_false, not_or, ne_eq, not_false_eq_true, and_self]

theorem taskSigned_view {k : Blk} (h : k ∉ ([.hub, .loom, .mir, .rcd, .out] : List Blk)) (a0 : _) (a1 : _) :
    view k (taskSigned a0 a1) = view k a1 := by
  simp only [List.mem_cons, List.not_mem_nil, or_false, not_or] at h
  simp only [taskSigned, setLoom_view, meSignature_view, view_when, view_foldl, view_foldFin, h, List.mem_cons, List.not_mem_nil, or_false, not_or, ne_eq, not_false_eq_true, and_self]

theorem failPublish_view {k : Blk} (h : k ∉ ([.hub, .loom, .dbank, .dio, .aio, .mir, .hed, .rcd, .pwr, .out] : List Blk)) (a0 : _) (a1 : _) :
    view k (failPublish a0 a1) = view k a1 := by
  simp only [List.mem_cons, List.not_mem_nil, or_false, not_or] at h
  simp only [failPublish, taskSigned_view, setLoom_view, publishPts_view, view_when, view_foldl, view_foldFin, h, List.mem_cons, List.not_mem_nil, or_false, not_or, ne_eq, not_false_eq_true, and_self]

theorem forcePut_view {k : Blk} (h : k ∉ ([.hub] : List Blk)) (a0 : _) (a1 : _) :
    view k (forcePut a0 a1) = view k a1 := by
  simp only [List.mem_cons, List.not_mem_nil, or_false, not_or] at h
  simp only [forcePut, view_put_hub, view_when, view_foldl, view_foldFin, h, List.mem_cons, List.not_mem_nil, or_false, not_or, ne_eq, not_false_eq_true, and_self]

theorem forcesIn_view {k : Blk} (h : k ∉ ([.hub] : List Blk)) (a0 : _) (a1 : _) :
    view k (forcesIn a0 a1) = view k a1 := by
  simp only [List.mem_cons, List.not_mem_nil, or_false, not_or] at h
  simp only [forcesIn, forcePut_view, view_when, view_foldl, view_foldFin, apply_ite (view k), ite_self, implies_true, h, List.mem_cons, List.not_mem_nil, or_false, not_or, ne_eq, not_false_eq_true, and_self]

theorem forcesDone_view {k : Blk} (h : k ∉ ([.hub, .shu, .rcd, .free] : List Blk)) (a0 : _) (a1 : _) (a2 : _) :
    view k (forcesDone a0 a1 a2) = view k a2 := by
  simp only [List.mem_cons, List.not_mem_nil, or_false, not_or] at h
  simp only [forcesDone, complete_view, raiseFabric_view, view_put_hub, view_when, view_foldl, view_foldFin, apply_ite (view k), ite_self, implies_true, h, List.mem_cons, List.not_mem_nil, or_false, not_or, ne_eq, not_false_eq_true, and_self]

theorem patchApply_view {k : Blk} (h : k ∉ ([.loom, .rcd] : List Blk)) (a0 : _) (a1 : _) (a2 : _) :
    view k (patchApply a0 a1 a2) = view k a2 := by
  simp only [List.mem_cons, List.not_mem_nil, or_false, not_or] at h
  unfold patchApply
  (repeat' split) <;> simp only [raiseFabric_view, setLoom_view, view_when, view_foldl, view_foldFin, apply_ite (view k), ite_self, implies_true, h, List.mem_cons, List.not_mem_nil, or_false, not_or, ne_eq, not_false_eq_true, and_self]

theorem patchesApply_view {k : Blk} (h : k ∉ ([.shu, .loom, .rcd, .free] : List Blk)) (a0 : _) (a1 : _) (a2 : _) (a3 : _) :
    view k (patchesApply a0 a1 a2 a3) = view k a3 := by
  simp only [List.mem_cons, List.not_mem_nil, or_false, not_or] at h
  simp only [patchesApply, setLoom_view, patchApply_view, complete_view, view_when, view_foldl, view_foldFin, apply_ite (view k), ite_self, implies_true, h, List.mem_cons, List.not_mem_nil, or_false, not_or, ne_eq, not_false_eq_true, and_self]

theorem retainSave_view {k : Blk} (h : k ∉ ([.zor] : List Blk)) (a0 : _) :
    view k (retainSave a0) = view k a0 := by
  simp only [List.mem_cons, List.not_mem_nil, or_false, not_or] at h
  simp only [retainSave, view_put_zor, view_when, view_foldl, view_foldFin, h, List.mem_cons, List.not_mem_nil, or_false, not_or, ne_eq, not_false_eq_true, and_self]

theorem execRetainSave_view {k : Blk} (h : k ∉ ([.zor] : List Blk)) (a0 : _) :
    viewR k (execRetainSave a0) = some (view k a0) := by
  simp only [List.mem_cons, List.not_mem_nil, or_false, not_or] at h
  simp only [execRetainSave, retainSave_view, view_when, view_foldl, view_foldFin, viewR_ok, apply_ite (view k), ite_self, implies_true, h, List.mem_cons, List.not_mem_nil, or_false, not_or, ne_eq, not_false_eq_true, and_self]

theorem taskLeave_view {k : Blk} (h : k ∉ ([.hub, .shu, .loom, .dbank, .dio, .aio, .mir, .hed, .rcd, .pwr, .out, .free] : List Blk)) (a0 : _) (a1 : _) (a2 : _) (a3 : _) (a4 : _) :
    view k (taskLeave a0 a1 a2 a3 a4) = view k a4 := by
  simp only [List.mem_cons, List.not_mem_nil, or_false, not_or] at h
  simp only [taskLeave, drainHub_view, setLoom_view, completeAll_view, forcesDone_view, patchesApply_view, failPublish_view, forcesIn_view, view_put_mir, view_when, view_foldl, view_foldFin, apply_ite (view k), ite_self, implies_true, h, List.mem_cons, List.not_mem_nil, or_false, not_or, ne_eq, not_false_eq_true, and_self]

theorem taskStop_view {k : Blk} (h : k ∉ ([.hub, .shu, .loom, .zor, .dbank, .dio, .aio, .mir, .hed, .rcd, .pwr, .out, .free] : List Blk)) (a0 : _) (a1 : _) :
    view k (taskStop a0 a1) = view k a1 := by
  simp only [List.mem_cons, List.not_mem_nil, or_false, not_or] at h
  simp only [taskStop, taskLeave_view, retainSave_view, view_when, view_foldl, view_foldFin, h, List.mem_cons, List.not_mem_nil, or_false, not_or, ne_eq, not_false_eq_true, and_self]

theorem publishOne_view {k : Blk} (h : k ∉ ([.hub, .loom, .dbank, .dio, .aio, .mir, .hed, .rcd, .pwr, .out] : List Blk)) (a0 : _) (a1 : _) (a2 : _) :
    view k (publishOne a0 a1 a2) = view k a2 := by
  simp only [List.mem_cons, List.not_mem_nil, or_false, not_or] at h
  simp only [publishOne, taskSigned_view, publishPts_view, view_when, view_foldl, view_foldFin, apply_ite (view k), ite_self, implies_true, h, List.mem_cons, List.not_mem_nil, or_false, not_or, ne_eq, not_false_eq_true, and_self]
  (repeat' split) <;> first | with_reducible rfl | simp only [taskSigned_view, publishPts_view, view_when, view_foldl, view_foldFin, apply_ite (view k), ite_self, implies_true, h, List.mem_cons, List.not_mem_nil, or_false, not_or, ne_eq, not_false_eq_true, and_self]

end Sys2Proof.Laws
end

