-- ==== Sys2Proof/Laws/FrameLoom.lean ====
section
/-! SUPPORT. What each operation of Machine/Loom.lean keeps: every block outside its footprint. -/

set_option Elab.async false

set_option linter.unusedSimpArgs false
set_option linter.unusedVariables false
set_option linter.unreachableTactic false
set_option linter.unusedTactic false
set_option linter.unnecessarySeqFocus false

namespace Sys2Proof.Laws

open Machine

theorem commitBegin_view {k : Blk} (h : k ∉ ([.loom] : List Blk)) (a0 : _) (a1 : _) (a2 : _) :
    view k (commitBegin a0 a1 a2) = view k a2 := by
  simp only [List.mem_cons, List.not_mem_nil, or_false, not_or] at h
  simp only [commitBegin, setLoom_view, view_when, view_foldl, view_foldFin, h, List.mem_cons, List.not_mem_nil, or_false, not_or, ne_eq, not_false_eq_true, and_self]

theorem trapTaken_view {k : Blk} (h : k ∉ ([.hub, .shu, .loom, .dbank, .dio, .aio, .mir, .hed, .rcd, .pwr, .out, .free] : List Blk)) (a0 : _) (a1 : _) (a2 : _) (a3 : _) :
    view k (trapTaken a0 a1 a2 a3) = view k a3 := by
  simp only [List.mem_cons, List.not_mem_nil, or_false, not_or] at h
  simp only [trapTaken, taskLeave_view, raise_view, setLoom_view, view_when, view_foldl, view_foldFin, h, List.mem_cons, List.not_mem_nil, or_false, not_or, ne_eq, not_false_eq_true, and_self]

theorem budgetOut_view {k : Blk} (h : k ∉ ([.hub, .shu, .loom, .dbank, .dio, .aio, .mir, .hed, .rcd, .pwr, .out, .free] : List Blk)) (a0 : _) (a1 : _) (a2 : _) :
    view k (budgetOut a0 a1 a2) = view k a2 := by
  simp only [List.mem_cons, List.not_mem_nil, or_false, not_or] at h
  simp only [budgetOut, taskLeave_view, raise_view, setLoom_view, view_when, view_foldl, view_foldFin, h, List.mem_cons, List.not_mem_nil, or_false, not_or, ne_eq, not_false_eq_true, and_self]

theorem journalOut_view {k : Blk} (h : k ∉ ([.hub, .shu, .loom, .dbank, .dio, .aio, .mir, .hed, .rcd, .pwr, .out, .free] : List Blk)) (a0 : _) (a1 : _) (a2 : _) :
    view k (journalOut a0 a1 a2) = view k a2 := by
  simp only [List.mem_cons, List.not_mem_nil, or_false, not_or] at h
  simp only [journalOut, taskLeave_view, raise_view, setLoom_view, view_when, view_foldl, view_foldFin, h, List.mem_cons, List.not_mem_nil, or_false, not_or, ne_eq, not_false_eq_true, and_self]

theorem fallBack_view {k : Blk} (h : k ∉ ([.loom, .rcd] : List Blk)) (a0 : _) (a1 : _) :
    view k (fallBack a0 a1) = view k a1 := by
  simp only [List.mem_cons, List.not_mem_nil, or_false, not_or] at h
  simp only [fallBack, setLoom_view, raise_view, view_when, view_foldl, view_foldFin, h, List.mem_cons, List.not_mem_nil, or_false, not_or, ne_eq, not_false_eq_true, and_self]

theorem journalFull_view {k : Blk} (h : k ∉ ([.hub, .shu, .loom, .dbank, .dio, .aio, .mir, .hed, .rcd, .pwr, .out, .free] : List Blk)) (a0 : _) (a1 : _) (a2 : _) (a3 : _) :
    view k (journalFull a0 a1 a2 a3) = view k a3 := by
  simp only [List.mem_cons, List.not_mem_nil, or_false, not_or] at h
  simp only [journalFull, journalOut_view, fallBack_view, view_when, view_foldl, view_foldFin, apply_ite (view k), ite_self, implies_true, h, List.mem_cons, List.not_mem_nil, or_false, not_or, ne_eq, not_false_eq_true, and_self]

theorem settledStep_view {k : Blk} (h : k ∉ ([.hub, .shu, .loom, .dbank, .dio, .aio, .mir, .hed, .rcd, .pwr, .out, .free] : List Blk)) (a0 : _) (a1 : _) (a2 : _) :
    view k (settledStep a0 a1 a2) = view k a2 := by
  simp only [List.mem_cons, List.not_mem_nil, or_false, not_or] at h
  simp only [settledStep, setLoom_view, commitBegin_view, trapTaken_view, journalFull_view, view_when, view_foldl, view_foldFin, apply_ite (view k), ite_self, implies_true, h, List.mem_cons, List.not_mem_nil, or_false, not_or, ne_eq, not_false_eq_true, and_self]
  (repeat' split) <;> first | with_reducible rfl | simp only [setLoom_view, commitBegin_view, trapTaken_view, journalFull_view, view_when, view_foldl, view_foldFin, apply_ite (view k), ite_self, implies_true, h, List.mem_cons, List.not_mem_nil, or_false, not_or, ne_eq, not_false_eq_true, and_self]

theorem aheadStep_view {k : Blk} (h : k ∉ ([.loom] : List Blk)) (a0 : _) (a1 : _) (a2 : _) :
    view k (aheadStep a0 a1 a2) = view k a2 := by
  simp only [List.mem_cons, List.not_mem_nil, or_false, not_or] at h
  simp only [aheadStep, setLoom_view, view_when, view_foldl, view_foldFin, apply_ite (view k), ite_self, implies_true, h, List.mem_cons, List.not_mem_nil, or_false, not_or, ne_eq, not_false_eq_true, and_self]
  (repeat' split) <;> first | with_reducible rfl | simp only [setLoom_view, view_when, view_foldl, view_foldFin, apply_ite (view k), ite_self, implies_true, h, List.mem_cons, List.not_mem_nil, or_false, not_or, ne_eq, not_false_eq_true, and_self]

theorem checkWeft_view {k : Blk} (h : k ∉ ([.hub, .shu, .loom, .dbank, .dio, .aio, .mir, .hed, .rcd, .pwr, .out, .free] : List Blk)) (a0 : _) (a1 : _) (a2 : _) :
    view k (checkWeft a0 a1 a2) = view k a2 := by
  simp only [List.mem_cons, List.not_mem_nil, or_false, not_or] at h
  simp only [checkWeft, journalFull_view, budgetOut_view, trapTaken_view, commitBegin_view, setLoom_view, view_when, view_foldl, view_foldFin, apply_ite (view k), ite_self, implies_true, h, List.mem_cons, List.not_mem_nil, or_false, not_or, ne_eq, not_false_eq_true, and_self]
  (repeat' split) <;> first | with_reducible rfl | simp only [journalFull_view, budgetOut_view, trapTaken_view, commitBegin_view, setLoom_view, view_when, view_foldl, view_foldFin, apply_ite (view k), ite_self, implies_true, h, List.mem_cons, List.not_mem_nil, or_false, not_or, ne_eq, not_false_eq_true, and_self]

theorem execFreshWeftArrival_view {k : Blk} (h : k ∉ ([.hub, .shu, .loom, .dbank, .dio, .aio, .mir, .hed, .rcd, .pwr, .out, .free] : List Blk)) (a0 : _) (a1 : _) :
    viewR k (execFreshWeftArrival a0 a1) = some (view k a1) := by
  simp only [List.mem_cons, List.not_mem_nil, or_false, not_or] at h
  simp only [execFreshWeftArrival, checkWeft_view, setLoom_view, drainHub_view, view_when, view_foldl, view_foldFin, viewR_ok, apply_ite (view k), ite_self, implies_true, h, List.mem_cons, List.not_mem_nil, or_false, not_or, ne_eq, not_false_eq_true, and_self]
  (repeat' split) <;> first | with_reducible rfl | simp only [checkWeft_view, setLoom_view, drainHub_view, view_when, view_foldl, view_foldFin, viewR_ok, apply_ite (view k), ite_self, implies_true, h, List.mem_cons, List.not_mem_nil, or_false, not_or, ne_eq, not_false_eq_true, and_self]

theorem latchScan_view {k : Blk} (h : k ∉ ([.loom, .free] : List Blk)) (a0 : _) (a1 : _) (a2 : _) (a3 : _) (a4 : _) (a5 : _) (a6 : _) :
    view k (latchScan a0 a1 a2 a3 a4 a5 a6) = view k a6 := by
  simp only [List.mem_cons, List.not_mem_nil, or_false, not_or] at h
  simp only [latchScan, setLoom_view, drawn_view, view_when, view_foldl, view_foldFin, h, List.mem_cons, List.not_mem_nil, or_false, not_or, ne_eq, not_false_eq_true, and_self]

theorem forcesNamed_view {k : Blk} (h : k ∉ ([.hub] : List Blk)) (a0 : _) (a1 : _) (a2 : _) (a3 : _) :
    view k (forcesNamed a0 a1 a2 a3) = view k a3 := by
  simp only [List.mem_cons, List.not_mem_nil, or_false, not_or] at h
  simp only [forcesNamed, view_put_hub, view_when, view_foldl, view_foldFin, h, List.mem_cons, List.not_mem_nil, or_false, not_or, ne_eq, not_false_eq_true, and_self]

theorem execWeftLatch_view {k : Blk} (h : k ∉ ([.hub, .shu, .loom, .mir, .rcd, .out, .free] : List Blk)) (a0 : _) (a1 : _) :
    viewR k (execWeftLatch a0 a1) = some (view k a1) := by
  simp only [List.mem_cons, List.not_mem_nil, or_false, not_or] at h
  simp only [execWeftLatch, latchScan_view, sendFrame_view, forcesNamed_view, patchesApply_view, setLoom_view, view_when, view_foldl, view_foldFin, viewR_ok, apply_ite (view k), ite_self, implies_true, h, List.mem_cons, List.not_mem_nil, or_false, not_or, ne_eq, not_false_eq_true, and_self]

theorem publishEntry_view {k : Blk} (h : k ∉ ([.can, .hed, .rcd] : List Blk)) (a0 : _) (a1 : _) :
    view k (publishEntry a0 a1) = view k a0 := by
  simp only [List.mem_cons, List.not_mem_nil, or_false, not_or] at h
  unfold publishEntry
  (repeat' split) <;> simp only [raiseFabric_view, canSubmit_view, view_when, view_foldl, view_foldFin, apply_ite (view k), ite_self, implies_true, h, List.mem_cons, List.not_mem_nil, or_false, not_or, ne_eq, not_false_eq_true, and_self]

theorem lagNote_view {k : Blk} (h : k ∉ ([.mir, .free] : List Blk)) (a0 : _) :
    view k (lagNote a0) = view k a0 := by
  simp only [List.mem_cons, List.not_mem_nil, or_false, not_or] at h
  simp only [lagNote, drawn_view, view_put_mir, view_when, view_foldl, view_foldFin, apply_ite (view k), ite_self, implies_true, h, List.mem_cons, List.not_mem_nil, or_false, not_or, ne_eq, not_false_eq_true, and_self]

theorem publishScan_view {k : Blk} (h : k ∉ ([.hub, .shu, .loom, .zor, .dbank, .dio, .aio, .can, .brk, .mir, .hed, .rcd, .pwr, .out, .free] : List Blk)) (a0 : _) (a1 : _) (a2 : _) :
    view k (publishScan a0 a1 a2) = view k a2 := by
  simp only [List.mem_cons, List.not_mem_nil, or_false, not_or] at h
  simp only [publishScan, publishMarked_view, warpTaken_view, lagNote_view, taskStop_view, meSignature_view, forcesDone_view, setLoom_view, publishEntry_view, publishPts_view, brkPublish_view, forcesIn_view, view_when, view_foldl, view_foldFin, apply_ite (view k), ite_self, implies_true, h, List.mem_cons, List.not_mem_nil, or_false, not_or, ne_eq, not_false_eq_true, and_self]

theorem stopNow_view {k : Blk} (h : k ∉ ([.hub, .shu, .loom, .zor, .dbank, .dio, .aio, .mir, .hed, .rcd, .pwr, .out, .free] : List Blk)) (a0 : _) (a1 : _) :
    view k (stopNow a0 a1) = view k a1 := by
  simp only [List.mem_cons, List.not_mem_nil, or_false, not_or] at h
  simp only [stopNow, taskStop_view, view_when, view_foldl, view_foldFin, apply_ite (view k), ite_self, implies_true, h, List.mem_cons, List.not_mem_nil, or_false, not_or, ne_eq, not_false_eq_true, and_self]

theorem execBudgetExhausted_view {k : Blk} (h : k ∉ ([.hub, .shu, .loom, .dbank, .dio, .aio, .mir, .hed, .rcd, .pwr, .out, .free] : List Blk)) (a0 : _) (a1 : _) :
    viewR k (execBudgetExhausted a0 a1) = some (view k a1) := by
  simp only [List.mem_cons, List.not_mem_nil, or_false, not_or] at h
  simp only [execBudgetExhausted, setLoom_view, budgetOut_view, view_when, view_foldl, view_foldFin, viewR_ok, apply_ite (view k), ite_self, implies_true, h, List.mem_cons, List.not_mem_nil, or_false, not_or, ne_eq, not_false_eq_true, and_self]
  (repeat' split) <;> first | with_reducible rfl | simp only [setLoom_view, budgetOut_view, view_when, view_foldl, view_foldFin, viewR_ok, apply_ite (view k), ite_self, implies_true, h, List.mem_cons, List.not_mem_nil, or_false, not_or, ne_eq, not_false_eq_true, and_self]

theorem execStoppedTimerEvaluation_view {k : Blk} (h : k ∉ ([.loom] : List Blk)) (a0 : _) (a1 : _) :
    viewR k (execStoppedTimerEvaluation a0 a1) = some (view k a1) := by
  simp only [List.mem_cons, List.not_mem_nil, or_false, not_or] at h
  simp only [execStoppedTimerEvaluation, setLoom_view, view_when, view_foldl, view_foldFin, viewR_ok, apply_ite (view k), ite_self, implies_true, h, List.mem_cons, List.not_mem_nil, or_false, not_or, ne_eq, not_false_eq_true, and_self]

theorem indexFreed_view {k : Blk} (h : k ∉ ([.shu] : List Blk)) (a0 : _) (a1 : _) (a2 : _) :
    view k (indexFreed a0 a1 a2) = view k a2 := by
  simp only [List.mem_cons, List.not_mem_nil, or_false, not_or] at h
  simp only [indexFreed, view_put_shu, view_when, view_foldl, view_foldFin, h, List.mem_cons, List.not_mem_nil, or_false, not_or, ne_eq, not_false_eq_true, and_self]

theorem engineFail_view {k : Blk} (h : k ∉ ([.hub, .shu, .loom, .zor, .dbank, .dio, .aio, .mir, .hed, .rcd, .pwr, .out, .free] : List Blk)) (a0 : _) (a1 : _) (a2 : _) (a3 : _) :
    view k (engineFail a0 a1 a2 a3) = view k a3 := by
  simp only [List.mem_cons, List.not_mem_nil, or_false, not_or] at h
  simp only [engineFail, faultTell_view, handOver_view, unitBad_view, climb_view, raise_view, taskLeave_view, indexFreed_view, setLoom_view, view_put_mir, view_when, view_foldl, view_foldFin, apply_ite (view k), ite_self, implies_true, h, List.mem_cons, List.not_mem_nil, or_false, not_or, ne_eq, not_false_eq_true, and_self]

theorem engineFault_view {k : Blk} (h : k ∉ ([.hub, .shu, .loom, .zor, .dbank, .dio, .aio, .mir, .hed, .rcd, .pwr, .out, .free] : List Blk)) (a0 : _) (a1 : _) (a2 : _) :
    view k (engineFault a0 a1 a2) = view k a2 := by
  simp only [List.mem_cons, List.not_mem_nil, or_false, not_or] at h
  simp only [engineFault, engineFail_view, faultTell_view, handOver_view, climb_view, raise_view, taskLeave_view, indexFreed_view, setLoom_view, view_put_mir, view_when, view_foldl, view_foldFin, apply_ite (view k), ite_self, implies_true, h, List.mem_cons, List.not_mem_nil, or_false, not_or, ne_eq, not_false_eq_true, and_self]

theorem execEngineFault_view {k : Blk} (h : k ∉ ([.hub, .shu, .loom, .zor, .dbank, .dio, .aio, .mir, .hed, .rcd, .pwr, .out, .free] : List Blk)) (a0 : _) (a1 : _) (a2 : _) :
    viewR k (execEngineFault a0 a1 a2) = some (view k a2) := by
  simp only [List.mem_cons, List.not_mem_nil, or_false, not_or] at h
  simp only [execEngineFault, engineFault_view, view_when, view_foldl, view_foldFin, viewR_ok, apply_ite (view k), ite_self, implies_true, h, List.mem_cons, List.not_mem_nil, or_false, not_or, ne_eq, not_false_eq_true, and_self]

theorem loomInstr_view {k : Blk} (h : k ∉ ([.hub, .shu, .loom, .dbank, .dio, .aio, .mir, .hed, .rcd, .pwr, .out, .free] : List Blk)) (a0 : _) (a1 : _) (a2 : _) :
    view k (loomInstr a0 a1 a2) = view k a2 := by
  simp only [List.mem_cons, List.not_mem_nil, or_false, not_or] at h
  simp only [loomInstr, settledStep_view, aheadStep_view, view_when, view_foldl, view_foldFin, apply_ite (view k), ite_self, implies_true, h, List.mem_cons, List.not_mem_nil, or_false, not_or, ne_eq, not_false_eq_true, and_self]

theorem execLoomNop_view {k : Blk} (h : k ∉ ([.hub, .shu, .loom, .dbank, .dio, .aio, .mir, .hed, .rcd, .pwr, .out, .free] : List Blk)) (a0 : _) (a1 : _) :
    viewR k (execLoomNop a0 a1) = some (view k a1) := by
  simp only [List.mem_cons, List.not_mem_nil, or_false, not_or] at h
  simp only [execLoomNop, loomInstr_view, view_when, view_foldl, view_foldFin, viewR_ok, h, List.mem_cons, List.not_mem_nil, or_false, not_or, ne_eq, not_false_eq_true, and_self]

theorem execLoomPick_view {k : Blk} (h : k ∉ ([.hub, .shu, .loom, .dbank, .dio, .aio, .mir, .hed, .rcd, .pwr, .out, .free] : List Blk)) (a0 : _) (a1 : _) (a2 : _) :
    viewR k (execLoomPick a0 a1 a2) = some (view k a2) := by
  simp only [List.mem_cons, List.not_mem_nil, or_false, not_or] at h
  simp only [execLoomPick, loomInstr_view, view_when, view_foldl, view_foldFin, viewR_ok, h, List.mem_cons, List.not_mem_nil, or_false, not_or, ne_eq, not_false_eq_true, and_self]

theorem execLoomEnd_view {k : Blk} (h : k ∉ ([.hub, .shu, .loom, .dbank, .dio, .aio, .mir, .hed, .rcd, .pwr, .out, .free] : List Blk)) (a0 : _) (a1 : _) :
    viewR k (execLoomEnd a0 a1) = some (view k a1) := by
  simp only [List.mem_cons, List.not_mem_nil, or_false, not_or] at h
  simp only [execLoomEnd, loomInstr_view, view_when, view_foldl, view_foldFin, viewR_ok, h, List.mem_cons, List.not_mem_nil, or_false, not_or, ne_eq, not_false_eq_true, and_self]

theorem execLoomLd_view {k : Blk} (h : k ∉ ([.hub, .shu, .loom, .dbank, .dio, .aio, .mir, .hed, .rcd, .pwr, .out, .free] : List Blk)) (a0 : _) (a1 : _) (a2 : _) :
    viewR k (execLoomLd a0 a1 a2) = some (view k a2) := by
  simp only [List.mem_cons, List.not_mem_nil, or_false, not_or] at h
  simp only [execLoomLd, loomInstr_view, view_when, view_foldl, view_foldFin, viewR_ok, h, List.mem_cons, List.not_mem_nil, or_false, not_or, ne_eq, not_false_eq_true, and_self]

theorem execLoomLdn_view {k : Blk} (h : k ∉ ([.hub, .shu, .loom, .dbank, .dio, .aio, .mir, .hed, .rcd, .pwr, .out, .free] : List Blk)) (a0 : _) (a1 : _) (a2 : _) :
    viewR k (execLoomLdn a0 a1 a2) = some (view k a2) := by
  simp only [List.mem_cons, List.not_mem_nil, or_false, not_or] at h
  simp only [execLoomLdn, loomInstr_view, view_when, view_foldl, view_foldFin, viewR_ok, h, List.mem_cons, List.not_mem_nil, or_false, not_or, ne_eq, not_false_eq_true, and_self]

theorem execLoomAnd_view {k : Blk} (h : k ∉ ([.hub, .shu, .loom, .dbank, .dio, .aio, .mir, .hed, .rcd, .pwr, .out, .free] : List Blk)) (a0 : _) (a1 : _) (a2 : _) :
    viewR k (execLoomAnd a0 a1 a2) = some (view k a2) := by
  simp only [List.mem_cons, List.not_mem_nil, or_false, not_or] at h
  simp only [execLoomAnd, loomInstr_view, view_when, view_foldl, view_foldFin, viewR_ok, h, List.mem_cons, List.not_mem_nil, or_false, not_or, ne_eq, not_false_eq_true, and_self]

theorem execLoomAndn_view {k : Blk} (h : k ∉ ([.hub, .shu, .loom, .dbank, .dio, .aio, .mir, .hed, .rcd, .pwr, .out, .free] : List Blk)) (a0 : _) (a1 : _) (a2 : _) :
    viewR k (execLoomAndn a0 a1 a2) = some (view k a2) := by
  simp only [List.mem_cons, List.not_mem_nil, or_false, not_or] at h
  simp only [execLoomAndn, loomInstr_view, view_when, view_foldl, view_foldFin, viewR_ok, h, List.mem_cons, List.not_mem_nil, or_false, not_or, ne_eq, not_false_eq_true, and_self]

theorem execLoomOr_view {k : Blk} (h : k ∉ ([.hub, .shu, .loom, .dbank, .dio, .aio, .mir, .hed, .rcd, .pwr, .out, .free] : List Blk)) (a0 : _) (a1 : _) (a2 : _) :
    viewR k (execLoomOr a0 a1 a2) = some (view k a2) := by
  simp only [List.mem_cons, List.not_mem_nil, or_false, not_or] at h
  simp only [execLoomOr, loomInstr_view, view_when, view_foldl, view_foldFin, viewR_ok, h, List.mem_cons, List.not_mem_nil, or_false, not_or, ne_eq, not_false_eq_true, and_self]

theorem execLoomOrn_view {k : Blk} (h : k ∉ ([.hub, .shu, .loom, .dbank, .dio, .aio, .mir, .hed, .rcd, .pwr, .out, .free] : List Blk)) (a0 : _) (a1 : _) (a2 : _) :
    viewR k (execLoomOrn a0 a1 a2) = some (view k a2) := by
  simp only [List.mem_cons, List.not_mem_nil, or_false, not_or] at h
  simp only [execLoomOrn, loomInstr_view, view_when, view_foldl, view_foldFin, viewR_ok, h, List.mem_cons, List.not_mem_nil, or_false, not_or, ne_eq, not_false_eq_true, and_self]

theorem execLoomXor_view {k : Blk} (h : k ∉ ([.hub, .shu, .loom, .dbank, .dio, .aio, .mir, .hed, .rcd, .pwr, .out, .free] : List Blk)) (a0 : _) (a1 : _) (a2 : _) :
    viewR k (execLoomXor a0 a1 a2) = some (view k a2) := by
  simp only [List.mem_cons, List.not_mem_nil, or_false, not_or] at h
  simp only [execLoomXor, loomInstr_view, view_when, view_foldl, view_foldFin, viewR_ok, h, List.mem_cons, List.not_mem_nil, or_false, not_or, ne_eq, not_false_eq_true, and_self]

theorem execLoomXorn_view {k : Blk} (h : k ∉ ([.hub, .shu, .loom, .dbank, .dio, .aio, .mir, .hed, .rcd, .pwr, .out, .free] : List Blk)) (a0 : _) (a1 : _) (a2 : _) :
    viewR k (execLoomXorn a0 a1 a2) = some (view k a2) := by
  simp only [List.mem_cons, List.not_mem_nil, or_false, not_or] at h
  simp only [execLoomXorn, loomInstr_view, view_when, view_foldl, view_foldFin, viewR_ok, h, List.mem_cons, List.not_mem_nil, or_false, not_or, ne_eq, not_false_eq_true, and_self]

theorem execLoomNot_view {k : Blk} (h : k ∉ ([.hub, .shu, .loom, .dbank, .dio, .aio, .mir, .hed, .rcd, .pwr, .out, .free] : List Blk)) (a0 : _) (a1 : _) :
    viewR k (execLoomNot a0 a1) = some (view k a1) := by
  simp only [List.mem_cons, List.not_mem_nil, or_false, not_or] at h
  simp only [execLoomNot, loomInstr_view, view_when, view_foldl, view_foldFin, viewR_ok, h, List.mem_cons, List.not_mem_nil, or_false, not_or, ne_eq, not_false_eq_true, and_self]

theorem execLoomSet1_view {k : Blk} (h : k ∉ ([.hub, .shu, .loom, .dbank, .dio, .aio, .mir, .hed, .rcd, .pwr, .out, .free] : List Blk)) (a0 : _) (a1 : _) :
    viewR k (execLoomSet1 a0 a1) = some (view k a1) := by
  simp only [List.mem_cons, List.not_mem_nil, or_false, not_or] at h
  simp only [execLoomSet1, loomInstr_view, view_when, view_foldl, view_foldFin, viewR_ok, h, List.mem_cons, List.not_mem_nil, or_false, not_or, ne_eq, not_false_eq_true, and_self]

theorem execLoomSet0_view {k : Blk} (h : k ∉ ([.hub, .shu, .loom, .dbank, .dio, .aio, .mir, .hed, .rcd, .pwr, .out, .free] : List Blk)) (a0 : _) (a1 : _) :
    viewR k (execLoomSet0 a0 a1) = some (view k a1) := by
  simp only [List.mem_cons, List.not_mem_nil, or_false, not_or] at h
  simp only [execLoomSet0, loomInstr_view, view_when, view_foldl, view_foldFin, viewR_ok, h, List.mem_cons, List.not_mem_nil, or_false, not_or, ne_eq, not_false_eq_true, and_self]

theorem execLoomAndp_view {k : Blk} (h : k ∉ ([.hub, .shu, .loom, .dbank, .dio, .aio, .mir, .hed, .rcd, .pwr, .out, .free] : List Blk)) (a0 : _) (a1 : _) :
    viewR k (execLoomAndp a0 a1) = some (view k a1) := by
  simp only [List.mem_cons, List.not_mem_nil, or_false, not_or] at h
  simp only [execLoomAndp, loomInstr_view, view_when, view_foldl, view_foldFin, viewR_ok, h, List.mem_cons, List.not_mem_nil, or_false, not_or, ne_eq, not_false_eq_true, and_self]

theorem execLoomOrp_view {k : Blk} (h : k ∉ ([.hub, .shu, .loom, .dbank, .dio, .aio, .mir, .hed, .rcd, .pwr, .out, .free] : List Blk)) (a0 : _) (a1 : _) :
    viewR k (execLoomOrp a0 a1) = some (view k a1) := by
  simp only [List.mem_cons, List.not_mem_nil, or_false, not_or] at h
  simp only [execLoomOrp, loomInstr_view, view_when, view_foldl, view_foldFin, viewR_ok, h, List.mem_cons, List.not_mem_nil, or_false, not_or, ne_eq, not_false_eq_true, and_self]

theorem execLoomPopb_view {k : Blk} (h : k ∉ ([.hub, .shu, .loom, .dbank, .dio, .aio, .mir, .hed, .rcd, .pwr, .out, .free] : List Blk)) (a0 : _) (a1 : _) :
    viewR k (execLoomPopb a0 a1) = some (view k a1) := by
  simp only [List.mem_cons, List.not_mem_nil, or_false, not_or] at h
  simp only [execLoomPopb, loomInstr_view, view_when, view_foldl, view_foldFin, viewR_ok, h, List.mem_cons, List.not_mem_nil, or_false, not_or, ne_eq, not_false_eq_true, and_self]

theorem execLoomBpsh_view {k : Blk} (h : k ∉ ([.hub, .shu, .loom, .dbank, .dio, .aio, .mir, .hed, .rcd, .pwr, .out, .free] : List Blk)) (a0 : _) (a1 : _) :
    viewR k (execLoomBpsh a0 a1) = some (view k a1) := by
  simp only [List.mem_cons, List.not_mem_nil, or_false, not_or] at h
  simp only [execLoomBpsh, loomInstr_view, view_when, view_foldl, view_foldFin, viewR_ok, h, List.mem_cons, List.not_mem_nil, or_false, not_or, ne_eq, not_false_eq_true, and_self]

theorem execLoomBrd_view {k : Blk} (h : k ∉ ([.hub, .shu, .loom, .dbank, .dio, .aio, .mir, .hed, .rcd, .pwr, .out, .free] : List Blk)) (a0 : _) (a1 : _) :
    viewR k (execLoomBrd a0 a1) = some (view k a1) := by
  simp only [List.mem_cons, List.not_mem_nil, or_false, not_or] at h
  simp only [execLoomBrd, loomInstr_view, view_when, view_foldl, view_foldFin, viewR_ok, h, List.mem_cons, List.not_mem_nil, or_false, not_or, ne_eq, not_false_eq_true, and_self]

theorem execLoomBpop_view {k : Blk} (h : k ∉ ([.hub, .shu, .loom, .dbank, .dio, .aio, .mir, .hed, .rcd, .pwr, .out, .free] : List Blk)) (a0 : _) (a1 : _) :
    viewR k (execLoomBpop a0 a1) = some (view k a1) := by
  simp only [List.mem_cons, List.not_mem_nil, or_false, not_or] at h
  simp only [execLoomBpop, loomInstr_view, view_when, view_foldl, view_foldFin, viewR_ok, h, List.mem_cons, List.not_mem_nil, or_false, not_or, ne_eq, not_false_eq_true, and_self]

theorem execLoomSt_view {k : Blk} (h : k ∉ ([.hub, .shu, .loom, .dbank, .dio, .aio, .mir, .hed, .rcd, .pwr, .out, .free] : List Blk)) (a0 : _) (a1 : _) (a2 : _) :
    viewR k (execLoomSt a0 a1 a2) = some (view k a2) := by
  simp only [List.mem_cons, List.not_mem_nil, or_false, not_or] at h
  simp only [execLoomSt, loomInstr_view, view_when, view_foldl, view_foldFin, viewR_ok, h, List.mem_cons, List.not_mem_nil, or_false, not_or, ne_eq, not_false_eq_true, and_self]

theorem execLoomStn_view {k : Blk} (h : k ∉ ([.hub, .shu, .loom, .dbank, .dio, .aio, .mir, .hed, .rcd, .pwr, .out, .free] : List Blk)) (a0 : _) (a1 : _) (a2 : _) :
    viewR k (execLoomStn a0 a1 a2) = some (view k a2) := by
  simp only [List.mem_cons, List.not_mem_nil, or_false, not_or] at h
  simp only [execLoomStn, loomInstr_view, view_when, view_foldl, view_foldFin, viewR_ok, h, List.mem_cons, List.not_mem_nil, or_false, not_or, ne_eq, not_false_eq_true, and_self]

theorem execLoomSetb_view {k : Blk} (h : k ∉ ([.hub, .shu, .loom, .dbank, .dio, .aio, .mir, .hed, .rcd, .pwr, .out, .free] : List Blk)) (a0 : _) (a1 : _) (a2 : _) :
    viewR k (execLoomSetb a0 a1 a2) = some (view k a2) := by
  simp only [List.mem_cons, List.not_mem_nil, or_false, not_or] at h
  simp only [execLoomSetb, loomInstr_view, view_when, view_foldl, view_foldFin, viewR_ok, h, List.mem_cons, List.not_mem_nil, or_false, not_or, ne_eq, not_false_eq_true, and_self]

theorem execLoomRstb_view {k : Blk} (h : k ∉ ([.hub, .shu, .loom, .dbank, .dio, .aio, .mir, .hed, .rcd, .pwr, .out, .free] : List Blk)) (a0 : _) (a1 : _) (a2 : _) :
    viewR k (execLoomRstb a0 a1 a2) = some (view k a2) := by
  simp only [List.mem_cons, List.not_mem_nil, or_false, not_or] at h
  simp only [execLoomRstb, loomInstr_view, view_when, view_foldl, view_foldFin, viewR_ok, h, List.mem_cons, List.not_mem_nil, or_false, not_or, ne_eq, not_false_eq_true, and_self]

theorem execLoomPedge_view {k : Blk} (h : k ∉ ([.hub, .shu, .loom, .dbank, .dio, .aio, .mir, .hed, .rcd, .pwr, .out, .free] : List Blk)) (a0 : _) (a1 : _) (a2 : _) :
    viewR k (execLoomPedge a0 a1 a2) = some (view k a2) := by
  simp only [List.mem_cons, List.not_mem_nil, or_false, not_or] at h
  simp only [execLoomPedge, loomInstr_view, view_when, view_foldl, view_foldFin, viewR_ok, h, List.mem_cons, List.not_mem_nil, or_false, not_or, ne_eq, not_false_eq_true, and_self]

theorem execLoomNedge_view {k : Blk} (h : k ∉ ([.hub, .shu, .loom, .dbank, .dio, .aio, .mir, .hed, .rcd, .pwr, .out, .free] : List Blk)) (a0 : _) (a1 : _) (a2 : _) :
    viewR k (execLoomNedge a0 a1 a2) = some (view k a2) := by
  simp only [List.mem_cons, List.not_mem_nil, or_false, not_or] at h
  simp only [execLoomNedge, loomInstr_view, view_when, view_foldl, view_foldFin, viewR_ok, h, List.mem_cons, List.not_mem_nil, or_false, not_or, ne_eq, not_false_eq_true, and_self]

theorem execLoomTon_view {k : Blk} (h : k ∉ ([.hub, .shu, .loom, .dbank, .dio, .aio, .mir, .hed, .rcd, .pwr, .out, .free] : List Blk)) (a0 : _) (a1 : _) (a2 : _) :
    viewR k (execLoomTon a0 a1 a2) = some (view k a2) := by
  simp only [List.mem_cons, List.not_mem_nil, or_false, not_or] at h
  simp only [execLoomTon, loomInstr_view, view_when, view_foldl, view_foldFin, viewR_ok, h, List.mem_cons, List.not_mem_nil, or_false, not_or, ne_eq, not_false_eq_true, and_self]

theorem execLoomTof_view {k : Blk} (h : k ∉ ([.hub, .shu, .loom, .dbank, .dio, .aio, .mir, .hed, .rcd, .pwr, .out, .free] : List Blk)) (a0 : _) (a1 : _) (a2 : _) :
    viewR k (execLoomTof a0 a1 a2) = some (view k a2) := by
  simp only [List.mem_cons, List.not_mem_nil, or_false, not_or] at h
  simp only [execLoomTof, loomInstr_view, view_when, view_foldl, view_foldFin, viewR_ok, h, List.mem_cons, List.not_mem_nil, or_false, not_or, ne_eq, not_false_eq_true, and_self]

theorem execLoomTp_view {k : Blk} (h : k ∉ ([.hub, .shu, .loom, .dbank, .dio, .aio, .mir, .hed, .rcd, .pwr, .out, .free] : List Blk)) (a0 : _) (a1 : _) (a2 : _) :
    viewR k (execLoomTp a0 a1 a2) = some (view k a2) := by
  simp only [List.mem_cons, List.not_mem_nil, or_false, not_or] at h
  simp only [execLoomTp, loomInstr_view, view_when, view_foldl, view_foldFin, viewR_ok, h, List.mem_cons, List.not_mem_nil, or_false, not_or, ne_eq, not_false_eq_true, and_self]

theorem execLoomTrst_view {k : Blk} (h : k ∉ ([.hub, .shu, .loom, .dbank, .dio, .aio, .mir, .hed, .rcd, .pwr, .out, .free] : List Blk)) (a0 : _) (a1 : _) (a2 : _) :
    viewR k (execLoomTrst a0 a1 a2) = some (view k a2) := by
  simp only [List.mem_cons, List.not_mem_nil, or_false, not_or] at h
  simp only [execLoomTrst, loomInstr_view, view_when, view_foldl, view_foldFin, viewR_ok, h, List.mem_cons, List.not_mem_nil, or_false, not_or, ne_eq, not_false_eq_true, and_self]

theorem execLoomCtu_view {k : Blk} (h : k ∉ ([.hub, .shu, .loom, .dbank, .dio, .aio, .mir, .hed, .rcd, .pwr, .out, .free] : List Blk)) (a0 : _) (a1 : _) (a2 : _) :
    viewR k (execLoomCtu a0 a1 a2) = some (view k a2) := by
  simp only [List.mem_cons, List.not_mem_nil, or_false, not_or] at h
  simp only [execLoomCtu, loomInstr_view, view_when, view_foldl, view_foldFin, viewR_ok, h, List.mem_cons, List.not_mem_nil, or_false, not_or, ne_eq, not_false_eq_true, and_self]

theorem execLoomCtd_view {k : Blk} (h : k ∉ ([.hub, .shu, .loom, .dbank, .dio, .aio, .mir, .hed, .rcd, .pwr, .out, .free] : List Blk)) (a0 : _) (a1 : _) (a2 : _) :
    viewR k (execLoomCtd a0 a1 a2) = some (view k a2) := by
  simp only [List.mem_cons, List.not_mem_nil, or_false, not_or] at h
  simp only [execLoomCtd, loomInstr_view, view_when, view_foldl, view_foldFin, viewR_ok, h, List.mem_cons, List.not_mem_nil, or_false, not_or, ne_eq, not_false_eq_true, and_self]

theorem execLoomCrst_view {k : Blk} (h : k ∉ ([.hub, .shu, .loom, .dbank, .dio, .aio, .mir, .hed, .rcd, .pwr, .out, .free] : List Blk)) (a0 : _) (a1 : _) (a2 : _) :
    viewR k (execLoomCrst a0 a1 a2) = some (view k a2) := by
  simp only [List.mem_cons, List.not_mem_nil, or_false, not_or] at h
  simp only [execLoomCrst, loomInstr_view, view_when, view_foldl, view_foldFin, viewR_ok, h, List.mem_cons, List.not_mem_nil, or_false, not_or, ne_eq, not_false_eq_true, and_self]

theorem execLoomCld_view {k : Blk} (h : k ∉ ([.hub, .shu, .loom, .dbank, .dio, .aio, .mir, .hed, .rcd, .pwr, .out, .free] : List Blk)) (a0 : _) (a1 : _) (a2 : _) :
    viewR k (execLoomCld a0 a1 a2) = some (view k a2) := by
  simp only [List.mem_cons, List.not_mem_nil, or_false, not_or] at h
  simp only [execLoomCld, loomInstr_view, view_when, view_foldl, view_foldFin, viewR_ok, h, List.mem_cons, List.not_mem_nil, or_false, not_or, ne_eq, not_false_eq_true, and_self]

theorem execLoomLdw_view {k : Blk} (h : k ∉ ([.hub, .shu, .loom, .dbank, .dio, .aio, .mir, .hed, .rcd, .pwr, .out, .free] : List Blk)) (a0 : _) (a1 : _) (a2 : _) :
    viewR k (execLoomLdw a0 a1 a2) = some (view k a2) := by
  simp only [List.mem_cons, List.not_mem_nil, or_false, not_or] at h
  simp only [execLoomLdw, loomInstr_view, view_when, view_foldl, view_foldFin, viewR_ok, h, List.mem_cons, List.not_mem_nil, or_false, not_or, ne_eq, not_false_eq_true, and_self]

theorem execLoomLdi_view {k : Blk} (h : k ∉ ([.hub, .shu, .loom, .dbank, .dio, .aio, .mir, .hed, .rcd, .pwr, .out, .free] : List Blk)) (a0 : _) (a1 : _) (a2 : _) :
    viewR k (execLoomLdi a0 a1 a2) = some (view k a2) := by
  simp only [List.mem_cons, List.not_mem_nil, or_false, not_or] at h
  simp only [execLoomLdi, loomInstr_view, view_when, view_foldl, view_foldFin, viewR_ok, h, List.mem_cons, List.not_mem_nil, or_false, not_or, ne_eq, not_false_eq_true, and_self]

theorem execLoomLdih_view {k : Blk} (h : k ∉ ([.hub, .shu, .loom, .dbank, .dio, .aio, .mir, .hed, .rcd, .pwr, .out, .free] : List Blk)) (a0 : _) (a1 : _) (a2 : _) :
    viewR k (execLoomLdih a0 a1 a2) = some (view k a2) := by
  simp only [List.mem_cons, List.not_mem_nil, or_false, not_or] at h
  simp only [execLoomLdih, loomInstr_view, view_when, view_foldl, view_foldFin, viewR_ok, h, List.mem_cons, List.not_mem_nil, or_false, not_or, ne_eq, not_false_eq_true, and_self]

theorem execLoomStw_view {k : Blk} (h : k ∉ ([.hub, .shu, .loom, .dbank, .dio, .aio, .mir, .hed, .rcd, .pwr, .out, .free] : List Blk)) (a0 : _) (a1 : _) (a2 : _) :
    viewR k (execLoomStw a0 a1 a2) = some (view k a2) := by
  simp only [List.mem_cons, List.not_mem_nil, or_false, not_or] at h
  simp only [execLoomStw, loomInstr_view, view_when, view_foldl, view_foldFin, viewR_ok, h, List.mem_cons, List.not_mem_nil, or_false, not_or, ne_eq, not_false_eq_true, and_self]

theorem execLoomStwc_view {k : Blk} (h : k ∉ ([.hub, .shu, .loom, .dbank, .dio, .aio, .mir, .hed, .rcd, .pwr, .out, .free] : List Blk)) (a0 : _) (a1 : _) (a2 : _) :
    viewR k (execLoomStwc a0 a1 a2) = some (view k a2) := by
  simp only [List.mem_cons, List.not_mem_nil, or_false, not_or] at h
  simp only [execLoomStwc, loomInstr_view, view_when, view_foldl, view_foldFin, viewR_ok, h, List.mem_cons, List.not_mem_nil, or_false, not_or, ne_eq, not_false_eq_true, and_self]

theorem execLoomAdd_view {k : Blk} (h : k ∉ ([.hub, .shu, .loom, .dbank, .dio, .aio, .mir, .hed, .rcd, .pwr, .out, .free] : List Blk)) (a0 : _) (a1 : _) (a2 : _) :
    viewR k (execLoomAdd a0 a1 a2) = some (view k a2) := by
  simp only [List.mem_cons, List.not_mem_nil, or_false, not_or] at h
  simp only [execLoomAdd, loomInstr_view, view_when, view_foldl, view_foldFin, viewR_ok, h, List.mem_cons, List.not_mem_nil, or_false, not_or, ne_eq, not_false_eq_true, and_self]

theorem execLoomSub_view {k : Blk} (h : k ∉ ([.hub, .shu, .loom, .dbank, .dio, .aio, .mir, .hed, .rcd, .pwr, .out, .free] : List Blk)) (a0 : _) (a1 : _) (a2 : _) :
    viewR k (execLoomSub a0 a1 a2) = some (view k a2) := by
  simp only [List.mem_cons, List.not_mem_nil, or_false, not_or] at h
  simp only [execLoomSub, loomInstr_view, view_when, view_foldl, view_foldFin, viewR_ok, h, List.mem_cons, List.not_mem_nil, or_false, not_or, ne_eq, not_false_eq_true, and_self]

theorem execLoomMul_view {k : Blk} (h : k ∉ ([.hub, .shu, .loom, .dbank, .dio, .aio, .mir, .hed, .rcd, .pwr, .out, .free] : List Blk)) (a0 : _) (a1 : _) (a2 : _) :
    viewR k (execLoomMul a0 a1 a2) = some (view k a2) := by
  simp only [List.mem_cons, List.not_mem_nil, or_false, not_or] at h
  simp only [execLoomMul, loomInstr_view, view_when, view_foldl, view_foldFin, viewR_ok, h, List.mem_cons, List.not_mem_nil, or_false, not_or, ne_eq, not_false_eq_true, and_self]

theorem execLoomDiv_view {k : Blk} (h : k ∉ ([.hub, .shu, .loom, .dbank, .dio, .aio, .mir, .hed, .rcd, .pwr, .out, .free] : List Blk)) (a0 : _) (a1 : _) (a2 : _) :
    viewR k (execLoomDiv a0 a1 a2) = some (view k a2) := by
  simp only [List.mem_cons, List.not_mem_nil, or_false, not_or] at h
  simp only [execLoomDiv, loomInstr_view, view_when, view_foldl, view_foldFin, viewR_ok, h, List.mem_cons, List.not_mem_nil, or_false, not_or, ne_eq, not_false_eq_true, and_self]

theorem execLoomMod_view {k : Blk} (h : k ∉ ([.hub, .shu, .loom, .dbank, .dio, .aio, .mir, .hed, .rcd, .pwr, .out, .free] : List Blk)) (a0 : _) (a1 : _) (a2 : _) :
    viewR k (execLoomMod a0 a1 a2) = some (view k a2) := by
  simp only [List.mem_cons, List.not_mem_nil, or_false, not_or] at h
  simp only [execLoomMod, loomInstr_view, view_when, view_foldl, view_foldFin, viewR_ok, h, List.mem_cons, List.not_mem_nil, or_false, not_or, ne_eq, not_false_eq_true, and_self]

theorem execLoomAndw_view {k : Blk} (h : k ∉ ([.hub, .shu, .loom, .dbank, .dio, .aio, .mir, .hed, .rcd, .pwr, .out, .free] : List Blk)) (a0 : _) (a1 : _) (a2 : _) :
    viewR k (execLoomAndw a0 a1 a2) = some (view k a2) := by
  simp only [List.mem_cons, List.not_mem_nil, or_false, not_or] at h
  simp only [execLoomAndw, loomInstr_view, view_when, view_foldl, view_foldFin, viewR_ok, h, List.mem_cons, List.not_mem_nil, or_false, not_or, ne_eq, not_false_eq_true, and_self]

theorem execLoomOrw_view {k : Blk} (h : k ∉ ([.hub, .shu, .loom, .dbank, .dio, .aio, .mir, .hed, .rcd, .pwr, .out, .free] : List Blk)) (a0 : _) (a1 : _) (a2 : _) :
    viewR k (execLoomOrw a0 a1 a2) = some (view k a2) := by
  simp only [List.mem_cons, List.not_mem_nil, or_false, not_or] at h
  simp only [execLoomOrw, loomInstr_view, view_when, view_foldl, view_foldFin, viewR_ok, h, List.mem_cons, List.not_mem_nil, or_false, not_or, ne_eq, not_false_eq_true, and_self]

theorem execLoomXorw_view {k : Blk} (h : k ∉ ([.hub, .shu, .loom, .dbank, .dio, .aio, .mir, .hed, .rcd, .pwr, .out, .free] : List Blk)) (a0 : _) (a1 : _) (a2 : _) :
    viewR k (execLoomXorw a0 a1 a2) = some (view k a2) := by
  simp only [List.mem_cons, List.not_mem_nil, or_false, not_or] at h
  simp only [execLoomXorw, loomInstr_view, view_when, view_foldl, view_foldFin, viewR_ok, h, List.mem_cons, List.not_mem_nil, or_false, not_or, ne_eq, not_false_eq_true, and_self]

theorem execLoomShl_view {k : Blk} (h : k ∉ ([.hub, .shu, .loom, .dbank, .dio, .aio, .mir, .hed, .rcd, .pwr, .out, .free] : List Blk)) (a0 : _) (a1 : _) (a2 : _) :
    viewR k (execLoomShl a0 a1 a2) = some (view k a2) := by
  simp only [List.mem_cons, List.not_mem_nil, or_false, not_or] at h
  simp only [execLoomShl, loomInstr_view, view_when, view_foldl, view_foldFin, viewR_ok, h, List.mem_cons, List.not_mem_nil, or_false, not_or, ne_eq, not_false_eq_true, and_self]

theorem execLoomShr_view {k : Blk} (h : k ∉ ([.hub, .shu, .loom, .dbank, .dio, .aio, .mir, .hed, .rcd, .pwr, .out, .free] : List Blk)) (a0 : _) (a1 : _) (a2 : _) :
    viewR k (execLoomShr a0 a1 a2) = some (view k a2) := by
  simp only [List.mem_cons, List.not_mem_nil, or_false, not_or] at h
  simp only [execLoomShr, loomInstr_view, view_when, view_foldl, view_foldFin, viewR_ok, h, List.mem_cons, List.not_mem_nil, or_false, not_or, ne_eq, not_false_eq_true, and_self]

theorem execLoomAsr_view {k : Blk} (h : k ∉ ([.hub, .shu, .loom, .dbank, .dio, .aio, .mir, .hed, .rcd, .pwr, .out, .free] : List Blk)) (a0 : _) (a1 : _) (a2 : _) :
    viewR k (execLoomAsr a0 a1 a2) = some (view k a2) := by
  simp only [List.mem_cons, List.not_mem_nil, or_false, not_or] at h
  simp only [execLoomAsr, loomInstr_view, view_when, view_foldl, view_foldFin, viewR_ok, h, List.mem_cons, List.not_mem_nil, or_false, not_or, ne_eq, not_false_eq_true, and_self]

theorem execLoomCmp_view {k : Blk} (h : k ∉ ([.hub, .shu, .loom, .dbank, .dio, .aio, .mir, .hed, .rcd, .pwr, .out, .free] : List Blk)) (a0 : _) (a1 : _) (a2 : _) (a3 : _) :
    viewR k (execLoomCmp a0 a1 a2 a3) = some (view k a3) := by
  simp only [List.mem_cons, List.not_mem_nil, or_false, not_or] at h
  simp only [execLoomCmp, loomInstr_view, view_when, view_foldl, view_foldFin, viewR_ok, h, List.mem_cons, List.not_mem_nil, or_false, not_or, ne_eq, not_false_eq_true, and_self]

theorem execLoomMin_view {k : Blk} (h : k ∉ ([.hub, .shu, .loom, .dbank, .dio, .aio, .mir, .hed, .rcd, .pwr, .out, .free] : List Blk)) (a0 : _) (a1 : _) (a2 : _) :
    viewR k (execLoomMin a0 a1 a2) = some (view k a2) := by
  simp only [List.mem_cons, List.not_mem_nil, or_false, not_or] at h
  simp only [execLoomMin, loomInstr_view, view_when, view_foldl, view_foldFin, viewR_ok, h, List.mem_cons, List.not_mem_nil, or_false, not_or, ne_eq, not_false_eq_true, and_self]

theorem execLoomMax_view {k : Blk} (h : k ∉ ([.hub, .shu, .loom, .dbank, .dio, .aio, .mir, .hed, .rcd, .pwr, .out, .free] : List Blk)) (a0 : _) (a1 : _) (a2 : _) :
    viewR k (execLoomMax a0 a1 a2) = some (view k a2) := by
  simp only [List.mem_cons, List.not_mem_nil, or_false, not_or] at h
  simp only [execLoomMax, loomInstr_view, view_when, view_foldl, view_foldFin, viewR_ok, h, List.mem_cons, List.not_mem_nil, or_false, not_or, ne_eq, not_false_eq_true, and_self]

theorem execLoomGetb_view {k : Blk} (h : k ∉ ([.hub, .shu, .loom, .dbank, .dio, .aio, .mir, .hed, .rcd, .pwr, .out, .free] : List Blk)) (a0 : _) (a1 : _) (a2 : _) :
    viewR k (execLoomGetb a0 a1 a2) = some (view k a2) := by
  simp only [List.mem_cons, List.not_mem_nil, or_false, not_or] at h
  simp only [execLoomGetb, loomInstr_view, view_when, view_foldl, view_foldFin, viewR_ok, h, List.mem_cons, List.not_mem_nil, or_false, not_or, ne_eq, not_false_eq_true, and_self]

theorem execLoomPutb_view {k : Blk} (h : k ∉ ([.hub, .shu, .loom, .dbank, .dio, .aio, .mir, .hed, .rcd, .pwr, .out, .free] : List Blk)) (a0 : _) (a1 : _) (a2 : _) :
    viewR k (execLoomPutb a0 a1 a2) = some (view k a2) := by
  simp only [List.mem_cons, List.not_mem_nil, or_false, not_or] at h
  simp only [execLoomPutb, loomInstr_view, view_when, view_foldl, view_foldFin, viewR_ok, h, List.mem_cons, List.not_mem_nil, or_false, not_or, ne_eq, not_false_eq_true, and_self]

theorem execLoomMcs_view {k : Blk} (h : k ∉ ([.hub, .shu, .loom, .dbank, .dio, .aio, .mir, .hed, .rcd, .pwr, .out, .free] : List Blk)) (a0 : _) (a1 : _) :
    viewR k (execLoomMcs a0 a1) = some (view k a1) := by
  simp only [List.mem_cons, List.not_mem_nil, or_false, not_or] at h
  simp only [execLoomMcs, loomInstr_view, view_when, view_foldl, view_foldFin, viewR_ok, h, List.mem_cons, List.not_mem_nil, or_false, not_or, ne_eq, not_false_eq_true, and_self]

theorem execLoomMce_view {k : Blk} (h : k ∉ ([.hub, .shu, .loom, .dbank, .dio, .aio, .mir, .hed, .rcd, .pwr, .out, .free] : List Blk)) (a0 : _) (a1 : _) :
    viewR k (execLoomMce a0 a1) = some (view k a1) := by
  simp only [List.mem_cons, List.not_mem_nil, or_false, not_or] at h
  simp only [execLoomMce, loomInstr_view, view_when, view_foldl, view_foldFin, viewR_ok, h, List.mem_cons, List.not_mem_nil, or_false, not_or, ne_eq, not_false_eq_true, and_self]

theorem execLoomJmp_view {k : Blk} (h : k ∉ ([.hub, .shu, .loom, .dbank, .dio, .aio, .mir, .hed, .rcd, .pwr, .out, .free] : List Blk)) (a0 : _) (a1 : _) (a2 : _) :
    viewR k (execLoomJmp a0 a1 a2) = some (view k a2) := by
  simp only [List.mem_cons, List.not_mem_nil, or_false, not_or] at h
  simp only [execLoomJmp, loomInstr_view, view_when, view_foldl, view_foldFin, viewR_ok, h, List.mem_cons, List.not_mem_nil, or_false, not_or, ne_eq, not_false_eq_true, and_self]

theorem execLoomJc_view {k : Blk} (h : k ∉ ([.hub, .shu, .loom, .dbank, .dio, .aio, .mir, .hed, .rcd, .pwr, .out, .free] : List Blk)) (a0 : _) (a1 : _) (a2 : _) :
    viewR k (execLoomJc a0 a1 a2) = some (view k a2) := by
  simp only [List.mem_cons, List.not_mem_nil, or_false, not_or] at h
  simp only [execLoomJc, loomInstr_view, view_when, view_foldl, view_foldFin, viewR_ok, h, List.mem_cons, List.not_mem_nil, or_false, not_or, ne_eq, not_false_eq_true, and_self]

theorem execLoomJcn_view {k : Blk} (h : k ∉ ([.hub, .shu, .loom, .dbank, .dio, .aio, .mir, .hed, .rcd, .pwr, .out, .free] : List Blk)) (a0 : _) (a1 : _) (a2 : _) :
    viewR k (execLoomJcn a0 a1 a2) = some (view k a2) := by
  simp only [List.mem_cons, List.not_mem_nil, or_false, not_or] at h
  simp only [execLoomJcn, loomInstr_view, view_when, view_foldl, view_foldFin, viewR_ok, h, List.mem_cons, List.not_mem_nil, or_false, not_or, ne_eq, not_false_eq_true, and_self]

theorem execLoomCall_view {k : Blk} (h : k ∉ ([.hub, .shu, .loom, .dbank, .dio, .aio, .mir, .hed, .rcd, .pwr, .out, .free] : List Blk)) (a0 : _) (a1 : _) (a2 : _) :
    viewR k (execLoomCall a0 a1 a2) = some (view k a2) := by
  simp only [List.mem_cons, List.not_mem_nil, or_false, not_or] at h
  simp only [execLoomCall, loomInstr_view, view_when, view_foldl, view_foldFin, viewR_ok, h, List.mem_cons, List.not_mem_nil, or_false, not_or, ne_eq, not_false_eq_true, and_self]

theorem execLoomCallc_view {k : Blk} (h : k ∉ ([.hub, .shu, .loom, .dbank, .dio, .aio, .mir, .hed, .rcd, .pwr, .out, .free] : List Blk)) (a0 : _) (a1 : _) (a2 : _) :
    viewR k (execLoomCallc a0 a1 a2) = some (view k a2) := by
  simp only [List.mem_cons, List.not_mem_nil, or_false, not_or] at h
  simp only [execLoomCallc, loomInstr_view, view_when, view_foldl, view_foldFin, viewR_ok, h, List.mem_cons, List.not_mem_nil, or_false, not_or, ne_eq, not_false_eq_true, and_self]

theorem execLoomRet_view {k : Blk} (h : k ∉ ([.hub, .shu, .loom, .dbank, .dio, .aio, .mir, .hed, .rcd, .pwr, .out, .free] : List Blk)) (a0 : _) (a1 : _) :
    viewR k (execLoomRet a0 a1) = some (view k a1) := by
  simp only [List.mem_cons, List.not_mem_nil, or_false, not_or] at h
  simp only [execLoomRet, loomInstr_view, view_when, view_foldl, view_foldFin, viewR_ok, h, List.mem_cons, List.not_mem_nil, or_false, not_or, ne_eq, not_false_eq_true, and_self]

theorem execLoomEvt_view {k : Blk} (h : k ∉ ([.hub, .shu, .loom, .dbank, .dio, .aio, .mir, .hed, .rcd, .pwr, .out, .free] : List Blk)) (a0 : _) (a1 : _) (a2 : _) (a3 : _) :
    viewR k (execLoomEvt a0 a1 a2 a3) = some (view k a3) := by
  simp only [List.mem_cons, List.not_mem_nil, or_false, not_or] at h
  simp only [execLoomEvt, loomInstr_view, view_when, view_foldl, view_foldFin, viewR_ok, h, List.mem_cons, List.not_mem_nil, or_false, not_or, ne_eq, not_false_eq_true, and_self]

theorem execLoomCantx_view {k : Blk} (h : k ∉ ([.hub, .shu, .loom, .dbank, .dio, .aio, .mir, .hed, .rcd, .pwr, .out, .free] : List Blk)) (a0 : _) (a1 : _) (a2 : _) :
    viewR k (execLoomCantx a0 a1 a2) = some (view k a2) := by
  simp only [List.mem_cons, List.not_mem_nil, or_false, not_or] at h
  simp only [execLoomCantx, loomInstr_view, view_when, view_foldl, view_foldFin, viewR_ok, h, List.mem_cons, List.not_mem_nil, or_false, not_or, ne_eq, not_false_eq_true, and_self]

end Sys2Proof.Laws
end

