-- ==== Sys2Proof/Laws/FramePrism.lean ====
section
/-! SUPPORT. What each operation of Machine/Prism.lean keeps: every block outside its footprint. -/

set_option Elab.async false

set_option linter.unusedSimpArgs false
set_option linter.unusedVariables false
set_option linter.unreachableTactic false
set_option linter.unusedTactic false
set_option linter.unnecessarySeqFocus false

namespace Sys2Proof.Laws

open Machine

theorem setPrism_view {k : Blk} (h : k ∉ ([.prism] : List Blk)) (a0 : _) (a1 : _) (a2 : _) :
    view k (setPrism a0 a1 a2) = view k a2 := by
  simp only [List.mem_cons, List.not_mem_nil, or_false, not_or] at h
  simp only [setPrism, view_put_prism, view_when, view_foldl, view_foldFin, h, List.mem_cons, List.not_mem_nil, or_false, not_or, ne_eq, not_false_eq_true, and_self]

theorem setSlotL_view {k : Blk} (h : k ∉ ([.prism] : List Blk)) (a0 : _) (a1 : _) (a2 : _) :
    view k (setSlotL a0 a1 a2) = view k a2 := by
  simp only [List.mem_cons, List.not_mem_nil, or_false, not_or] at h
  simp only [setSlotL, setPrism_view, view_when, view_foldl, view_foldFin, h, List.mem_cons, List.not_mem_nil, or_false, not_or, ne_eq, not_false_eq_true, and_self]

theorem lateJudge_view {k : Blk} (h : k ∉ ([.hub, .shu, .loom, .zor, .mir, .hed, .rcd, .out, .free] : List Blk)) (a0 : _) (a1 : _) (a2 : _) :
    view k (lateJudge a0 a1 a2) = view k a2 := by
  simp only [List.mem_cons, List.not_mem_nil, or_false, not_or] at h
  simp only [lateJudge, raise_view, standbyLeaves_view, view_put_mir, view_when, view_foldl, view_foldFin, apply_ite (view k), ite_self, implies_true, h, List.mem_cons, List.not_mem_nil, or_false, not_or, ne_eq, not_false_eq_true, and_self]

theorem prismSign_view {k : Blk} (h : k ∉ ([.hub, .shu, .loom, .zor, .prism, .mir, .hed, .rcd, .out, .free] : List Blk)) (a0 : _) (a1 : _) (a2 : _) :
    view k (prismSign a0 a1 a2) = view k a2 := by
  simp only [List.mem_cons, List.not_mem_nil, or_false, not_or] at h
  simp only [prismSign, meSignature_view, lateJudge_view, setPrism_view, view_put_mir, view_when, view_foldl, view_foldFin, apply_ite (view k), ite_self, implies_true, h, List.mem_cons, List.not_mem_nil, or_false, not_or, ne_eq, not_false_eq_true, and_self]

theorem prismPeriod_view {k : Blk} (h : k ∉ ([.hub, .shu, .loom, .zor, .prism, .mir, .hed, .rcd, .out, .free] : List Blk)) (a0 : _) (a1 : _) :
    view k (prismPeriod a0 a1) = view k a1 := by
  simp only [List.mem_cons, List.not_mem_nil, or_false, not_or] at h
  simp only [prismPeriod, toSyncing_view, raise_view, prismSign_view, setPrism_view, view_put_mir, view_when, view_foldl, view_foldFin, apply_ite (view k), ite_self, implies_true, h, List.mem_cons, List.not_mem_nil, or_false, not_or, ne_eq, not_false_eq_true, and_self]

theorem execSampleInstant_view {k : Blk} (h : k ∉ ([.prism] : List Blk)) (a0 : _) (a1 : _) :
    viewR k (execSampleInstant a0 a1) = some (view k a1) := by
  simp only [List.mem_cons, List.not_mem_nil, or_false, not_or] at h
  simp only [execSampleInstant, setSlotL_view, view_when, view_foldl, view_foldFin, viewR_ok, apply_ite (view k), ite_self, implies_true, h, List.mem_cons, List.not_mem_nil, or_false, not_or, ne_eq, not_false_eq_true, and_self]

theorem execSourceReturn_view {k : Blk} (h : k ∉ ([.prism, .aio, .hed, .rcd, .pwr] : List Blk)) (a0 : _) (a1 : _) (a2 : _) (a3 : _) :
    viewR k (execSourceReturn a0 a1 a2 a3) = some (view k a3) := by
  simp only [List.mem_cons, List.not_mem_nil, or_false, not_or] at h
  simp only [execSourceReturn, bobCarry_view, crossDiscard_view, setSlotL_view, setAio_view, parityFail_view, view_when, view_foldl, view_foldFin, viewR_ok, apply_ite (view k), ite_self, implies_true, h, List.mem_cons, List.not_mem_nil, or_false, not_or, ne_eq, not_false_eq_true, and_self]
  (repeat' split) <;> first | with_reducible rfl | simp only [bobCarry_view, crossDiscard_view, setSlotL_view, setAio_view, parityFail_view, view_when, view_foldl, view_foldFin, viewR_ok, apply_ite (view k), ite_self, implies_true, h, List.mem_cons, List.not_mem_nil, or_false, not_or, ne_eq, not_false_eq_true, and_self]

theorem windowRun_view {k : Blk} (h : k ∉ ([.hub, .prism, .brk, .mir, .hed, .rcd, .pwr, .out] : List Blk)) (a0 : _) (a1 : _) (a2 : _) (a3 : _) (a4 : _) (a5 : _) (a6 : _) (a7 : _) :
    view k (windowRun a0 a1 a2 a3 a4 a5 a6 a7) = view k a7 := by
  simp only [List.mem_cons, List.not_mem_nil, or_false, not_or] at h
  simp only [windowRun, brkLoopTripped_view, raise_view, setPrism_view, view_when, view_foldl, view_foldFin, apply_ite (view k), ite_self, implies_true, h, List.mem_cons, List.not_mem_nil, or_false, not_or, ne_eq, not_false_eq_true, and_self]

theorem execComputeWindow_view {k : Blk} (h : k ∉ ([.hub, .prism, .brk, .mir, .hed, .rcd, .pwr, .out, .free] : List Blk)) (a0 : _) (a1 : _) :
    viewR k (execComputeWindow a0 a1) = some (view k a1) := by
  simp only [List.mem_cons, List.not_mem_nil, or_false, not_or] at h
  simp only [execComputeWindow, windowRun_view, sendFrame_view, setSlotL_view, drawn_view, brkLoopFreed_view, view_put_mir, view_when, view_foldl, view_foldFin, viewR_ok, apply_ite (view k), ite_self, implies_true, h, List.mem_cons, List.not_mem_nil, or_false, not_or, ne_eq, not_false_eq_true, and_self]
  (repeat' split) <;> first | with_reducible rfl | simp only [windowRun_view, sendFrame_view, setSlotL_view, drawn_view, brkLoopFreed_view, view_put_mir, view_when, view_foldl, view_foldFin, viewR_ok, apply_ite (view k), ite_self, implies_true, h, List.mem_cons, List.not_mem_nil, or_false, not_or, ne_eq, not_false_eq_true, and_self]

theorem sinkOut_view {k : Blk} (h : k ∉ ([.hub, .loom, .dbank, .dio, .aio, .can, .mir, .hed, .rcd, .pwr, .out] : List Blk)) (a0 : _) (a1 : _) (a2 : _) (a3 : _) (a4 : _) :
    view k (sinkOut a0 a1 a2 a3 a4) = view k a4 := by
  simp only [List.mem_cons, List.not_mem_nil, or_false, not_or] at h
  unfold sinkOut
  (repeat' split) <;> simp only [raise_view, canSubmit_view, publishOne_view, aioCommand_view, view_when, view_foldl, view_foldFin, apply_ite (view k), ite_self, implies_true, h, List.mem_cons, List.not_mem_nil, or_false, not_or, ne_eq, not_false_eq_true, and_self]

theorem compTrip_view {k : Blk} (h : k ∉ ([.hub, .mir, .hed, .out] : List Blk)) (a0 : _) (a1 : _) :
    view k (compTrip a0 a1) = view k a1 := by
  simp only [List.mem_cons, List.not_mem_nil, or_false, not_or] at h
  unfold compTrip
  (repeat' split) <;> simp only [pointUpdate_view, view_when, view_foldl, view_foldFin, apply_ite (view k), ite_self, implies_true, h, List.mem_cons, List.not_mem_nil, or_false, not_or, ne_eq, not_false_eq_true, and_self]

theorem sinkPoisoned_view {k : Blk} (h : k ∉ ([.can] : List Blk)) (a0 : _) (a1 : _) (a2 : _) :
    view k (sinkPoisoned a0 a1 a2) = view k a2 := by
  simp only [List.mem_cons, List.not_mem_nil, or_false, not_or] at h
  unfold sinkPoisoned
  (repeat' split) <;> simp only [setCan_view, view_when, view_foldl, view_foldFin, apply_ite (view k), ite_self, implies_true, h, List.mem_cons, List.not_mem_nil, or_false, not_or, ne_eq, not_false_eq_true, and_self]

theorem sinkCross_view {k : Blk} (h : k ∉ ([.hub, .loom, .prism, .dbank, .dio, .aio, .can, .mir, .hed, .rcd, .pwr, .out] : List Blk)) (a0 : _) (a1 : _) (a2 : _) (a3 : _) (a4 : _) :
    view k (sinkCross a0 a1 a2 a3 a4) = view k a4 := by
  simp only [List.mem_cons, List.not_mem_nil, or_false, not_or] at h
  simp only [sinkCross, parityFail_view, sinkPoisoned_view, sinkOut_view, setPrism_view, bobCarry_view, crossDiscard_view, view_when, view_foldl, view_foldFin, apply_ite (view k), ite_self, implies_true, h, List.mem_cons, List.not_mem_nil, or_false, not_or, ne_eq, not_false_eq_true, and_self]

theorem compOut_view {k : Blk} (h : k ∉ ([.hub, .shu, .loom, .prism, .dbank, .dio, .aio, .can, .mir, .hed, .rcd, .pwr, .out, .free] : List Blk)) (a0 : _) (a1 : _) (a2 : _) (a3 : _) (a4 : _) :
    view k (compOut a0 a1 a2 a3 a4) = view k a4 := by
  simp only [List.mem_cons, List.not_mem_nil, or_false, not_or] at h
  simp only [compOut, streamRecord_view, compTrip_view, pointUpdate_view, sinkCross_view, view_when, view_foldl, view_foldFin, apply_ite (view k), ite_self, implies_true, h, List.mem_cons, List.not_mem_nil, or_false, not_or, ne_eq, not_false_eq_true, and_self]

theorem execOutputInstant_view {k : Blk} (h : k ∉ ([.hub, .shu, .loom, .zor, .prism, .dbank, .dio, .aio, .can, .mir, .hed, .rcd, .pwr, .out, .free] : List Blk)) (a0 : _) (a1 : _) (a2 : _) :
    viewR k (execOutputInstant a0 a1 a2) = some (view k a2) := by
  simp only [List.mem_cons, List.not_mem_nil, or_false, not_or] at h
  simp only [execOutputInstant, prismSign_view, compTrip_view, compOut_view, setPrism_view, setSlotL_view, view_when, view_foldl, view_foldFin, viewR_ok, apply_ite (view k), ite_self, implies_true, h, List.mem_cons, List.not_mem_nil, or_false, not_or, ne_eq, not_false_eq_true, and_self]
  (repeat' split) <;> first | with_reducible rfl | simp only [prismSign_view, compTrip_view, compOut_view, setPrism_view, setSlotL_view, view_when, view_foldl, view_foldFin, viewR_ok, apply_ite (view k), ite_self, implies_true, h, List.mem_cons, List.not_mem_nil, or_false, not_or, ne_eq, not_false_eq_true, and_self]

theorem prismFail_view {k : Blk} (h : k ∉ ([.hub, .loom, .prism, .dbank, .dio, .aio, .can, .mir, .hed, .rcd, .pwr, .out] : List Blk)) (a0 : _) (a1 : _) :
    view k (prismFail a0 a1) = view k a1 := by
  simp only [List.mem_cons, List.not_mem_nil, or_false, not_or] at h
  simp only [prismFail, setSlotL_view, sinkOut_view, view_when, view_foldl, view_foldFin, apply_ite (view k), ite_self, implies_true, h, List.mem_cons, List.not_mem_nil, or_false, not_or, ne_eq, not_false_eq_true, and_self]

theorem failsOut_view {k : Blk} (h : k ∉ ([.hub, .loom, .prism, .dbank, .dio, .aio, .can, .mir, .hed, .rcd, .pwr, .out] : List Blk)) (a0 : _) :
    view k (failsOut a0) = view k a0 := by
  simp only [List.mem_cons, List.not_mem_nil, or_false, not_or] at h
  have e : ∀ (b : Bool) (n : Fin 8) (t : State), view k (when b (failPublish n) t) = view k t := fun b n t => view_when t fun s =>
    failPublish_view (by simp only [h, List.mem_cons, List.not_mem_nil, or_false, not_or, ne_eq, not_false_eq_true, and_self]) n s
  have e' : ∀ (b : Bool) (n : Fin 4) (t : State), view k (when b (prismFail n) t) = view k t := fun b n t => view_when t fun s =>
    prismFail_view (by simp only [h, List.mem_cons, List.not_mem_nil, or_false, not_or, ne_eq, not_false_eq_true, and_self]) n s
  unfold failsOut
  rw [view_foldFin (fun t n => e' _ n t), view_foldFin (fun t n => e _ n t), publishPts_view (by simp only [h, List.mem_cons, List.not_mem_nil, or_false, not_or, ne_eq, not_false_eq_true, and_self])]

theorem prismStop_view {k : Blk} (h : k ∉ ([.hub, .shu, .loom, .zor, .prism, .dbank, .dio, .aio, .can, .mir, .hed, .rcd, .pwr, .out, .free] : List Blk)) (a0 : _) (a1 : _) (a2 : _) (a3 : _) :
    view k (prismStop a0 a1 a2 a3) = view k a3 := by
  simp only [List.mem_cons, List.not_mem_nil, or_false, not_or] at h
  simp only [prismStop, faultTell_view, handOver_view, unitBad_view, climb_view, raise_view, setPrism_view, prismFail_view, view_put_mir, view_when, view_foldl, view_foldFin, apply_ite (view k), ite_self, implies_true, h, List.mem_cons, List.not_mem_nil, or_false, not_or, ne_eq, not_false_eq_true, and_self]

theorem prismFault_view {k : Blk} (h : k ∉ ([.hub, .shu, .loom, .zor, .prism, .dbank, .dio, .aio, .can, .mir, .hed, .rcd, .pwr, .out, .free] : List Blk)) (a0 : _) (a1 : _) (a2 : _) :
    view k (prismFault a0 a1 a2) = view k a2 := by
  simp only [List.mem_cons, List.not_mem_nil, or_false, not_or] at h
  simp only [prismFault, prismStop_view, faultTell_view, handOver_view, climb_view, raise_view, setPrism_view, prismFail_view, view_put_mir, view_when, view_foldl, view_foldFin, apply_ite (view k), ite_self, implies_true, h, List.mem_cons, List.not_mem_nil, or_false, not_or, ne_eq, not_false_eq_true, and_self]

theorem execPrismEngineFault_view {k : Blk} (h : k ∉ ([.hub, .shu, .loom, .zor, .prism, .dbank, .dio, .aio, .can, .mir, .hed, .rcd, .pwr, .out, .free] : List Blk)) (a0 : _) (a1 : _) (a2 : _) :
    viewR k (execPrismEngineFault a0 a1 a2) = some (view k a2) := by
  simp only [List.mem_cons, List.not_mem_nil, or_false, not_or] at h
  simp only [execPrismEngineFault, prismFault_view, view_when, view_foldl, view_foldFin, viewR_ok, apply_ite (view k), ite_self, implies_true, h, List.mem_cons, List.not_mem_nil, or_false, not_or, ne_eq, not_false_eq_true, and_self]

theorem slotWindow_view {k : Blk} (h : k ∉ ([.win] : List Blk)) (a0 : _) (a1 : _) :
    view k (slotWindow a0 a1) = view k a1 := by
  simp only [List.mem_cons, List.not_mem_nil, or_false, not_or] at h
  unfold slotWindow
  (repeat' split) <;> simp only [view_put_win, view_when, view_foldl, view_foldFin, apply_ite (view k), ite_self, implies_true, h, List.mem_cons, List.not_mem_nil, or_false, not_or, ne_eq, not_false_eq_true, and_self]

end Sys2Proof.Laws
end

