-- ==== Sys2Proof/Laws/FrameEthTime.lean ====
section
/-! SUPPORT. What each operation of Machine/EthTime.lean keeps: every block outside its footprint. -/

set_option Elab.async false

set_option linter.unusedSimpArgs false
set_option linter.unusedVariables false
set_option linter.unreachableTactic false
set_option linter.unusedTactic false
set_option linter.unnecessarySeqFocus false

namespace Sys2Proof.Laws

open Machine

theorem setEth_view {k : Blk} (h : k ∉ ([.eth] : List Blk)) (a0 : _) (a1 : _) :
    view k (setEth a0 a1) = view k a1 := by
  simp only [List.mem_cons, List.not_mem_nil, or_false, not_or] at h
  simp only [setEth, view_put_eth, view_when, view_foldl, view_foldFin, h, List.mem_cons, List.not_mem_nil, or_false, not_or, ne_eq, not_false_eq_true, and_self]

theorem setPort_view {k : Blk} (h : k ∉ ([.eth] : List Blk)) (a0 : _) (a1 : _) (a2 : _) :
    view k (setPort a0 a1 a2) = view k a2 := by
  simp only [List.mem_cons, List.not_mem_nil, or_false, not_or] at h
  simp only [setPort, setEth_view, view_when, view_foldl, view_foldFin, h, List.mem_cons, List.not_mem_nil, or_false, not_or, ne_eq, not_false_eq_true, and_self]

theorem setTim_view {k : Blk} (h : k ∉ ([.tim] : List Blk)) (a0 : _) (a1 : _) :
    view k (setTim a0 a1) = view k a1 := by
  simp only [List.mem_cons, List.not_mem_nil, or_false, not_or] at h
  simp only [setTim, view_put_tim, view_when, view_foldl, view_foldFin, h, List.mem_cons, List.not_mem_nil, or_false, not_or, ne_eq, not_false_eq_true, and_self]

theorem tcPass_view {k : Blk} (h : k ∉ ([.eth, .rcd] : List Blk)) (a0 : _) (a1 : _) (a2 : _) (a3 : _) :
    view k (tcPass a0 a1 a2 a3).2 = view k a3 := by
  simp only [List.mem_cons, List.not_mem_nil, or_false, not_or] at h
  unfold tcPass
  (repeat' split) <;> simp only [setEth_view, raise_view, setPort_view, view_when, view_foldl, view_foldFin, apply_ite (view k), ite_self, implies_true, h, List.mem_cons, List.not_mem_nil, or_false, not_or, ne_eq, not_false_eq_true, and_self]

theorem ethForward_view {k : Blk} (h : k ∉ ([.eth] : List Blk)) (a0 : _) (a1 : _) (a2 : _) :
    view k (ethForward a0 a1 a2) = view k a2 := by
  simp only [List.mem_cons, List.not_mem_nil, or_false, not_or] at h
  unfold ethForward
  (repeat' split) <;> simp only [emit_view, tcPass_view, setPort_view, view_when, view_foldl, view_foldFin, apply_ite (view k), ite_self, implies_true, h, List.mem_cons, List.not_mem_nil, or_false, not_or, ne_eq, not_false_eq_true, and_self]

theorem ethLeave_view {k : Blk} (h : k ∉ ([.eth, .rcd, .out] : List Blk)) (a0 : _) (a1 : _) (a2 : _) (a3 : _) :
    view k (ethLeave a0 a1 a2 a3) = view k a3 := by
  simp only [List.mem_cons, List.not_mem_nil, or_false, not_or] at h
  unfold ethLeave
  (repeat' split) <;> simp only [emit_view, tcPass_view, view_when, view_foldl, view_foldFin, apply_ite (view k), ite_self, implies_true, h, List.mem_cons, List.not_mem_nil, or_false, not_or, ne_eq, not_false_eq_true, and_self]

theorem ethSend_view {k : Blk} (h : k ∉ ([.eth, .rcd, .out] : List Blk)) (q n b s : _) :
    view k (ethSend q n b s) = view k s := by
  simp only [List.mem_cons, List.not_mem_nil, or_false, not_or] at h
  induction n generalizing b s with
  | zero => rfl
  | succ n ih =>
    unfold ethSend
    dsimp only
    (repeat' split) <;> simp only [ih, setPort_view, ethLeave_view, h, List.mem_cons, List.not_mem_nil, or_false, not_or, ne_eq, not_false_eq_true, and_self]

theorem ethTick_view {k : Blk} (h : k ∉ ([.eth, .rcd, .out] : List Blk)) (a0 : _) (a1 : _) :
    view k (ethTick a0 a1) = view k a1 := by
  simp only [List.mem_cons, List.not_mem_nil, or_false, not_or] at h
  simp only [ethTick, ethSend_view, view_when, view_foldl, view_foldFin, apply_ite (view k), ite_self, implies_true, h, List.mem_cons, List.not_mem_nil, or_false, not_or, ne_eq, not_false_eq_true, and_self]

theorem internalTake_view {k : Blk} (h : k ∉ ([.tim] : List Blk)) (a0 : _) (a1 : _) (a2 : _) :
    view k (internalTake a0 a1 a2) = view k a2 := by
  simp only [List.mem_cons, List.not_mem_nil, or_false, not_or] at h
  unfold internalTake
  (repeat' split) <;> simp only [setTim_view, view_when, view_foldl, view_foldFin, apply_ite (view k), ite_self, implies_true, h, List.mem_cons, List.not_mem_nil, or_false, not_or, ne_eq, not_false_eq_true, and_self]

theorem execEthFrameIngress_view {k : Blk} (h : k ∉ ([.eth, .tim] : List Blk)) (a0 : _) (a1 : _) (a2 : _) :
    viewR k (execEthFrameIngress a0 a1 a2) = some (view k a2) := by
  simp only [List.mem_cons, List.not_mem_nil, or_false, not_or] at h
  simp only [execEthFrameIngress, internalTake_view, ethForward_view, setEth_view, setPort_view, view_when, view_foldl, view_foldFin, viewR_ok, apply_ite (view k), ite_self, implies_true, h, List.mem_cons, List.not_mem_nil, or_false, not_or, ne_eq, not_false_eq_true, and_self]

theorem execLinkUp_view {k : Blk} (h : k ∉ ([.eth, .rcd] : List Blk)) (a0 : _) (a1 : _) (a2 : _) :
    viewR k (execLinkUp a0 a1 a2) = some (view k a2) := by
  simp only [List.mem_cons, List.not_mem_nil, or_false, not_or] at h
  simp only [execLinkUp, setPort_view, raise_view, view_when, view_foldl, view_foldFin, viewR_ok, apply_ite (view k), ite_self, implies_true, h, List.mem_cons, List.not_mem_nil, or_false, not_or, ne_eq, not_false_eq_true, and_self]

theorem linkLost_view {k : Blk} (h : k ∉ ([.eth, .rcd] : List Blk)) (a0 : _) (a1 : _) :
    view k (linkLost a0 a1) = view k a1 := by
  simp only [List.mem_cons, List.not_mem_nil, or_false, not_or] at h
  simp only [linkLost, setPort_view, raise_view, view_when, view_foldl, view_foldFin, apply_ite (view k), ite_self, implies_true, h, List.mem_cons, List.not_mem_nil, or_false, not_or, ne_eq, not_false_eq_true, and_self]

theorem execLinkDown_view {k : Blk} (h : k ∉ ([.eth, .rcd] : List Blk)) (a0 : _) (a1 : _) :
    viewR k (execLinkDown a0 a1) = some (view k a1) := by
  simp only [List.mem_cons, List.not_mem_nil, or_false, not_or] at h
  simp only [execLinkDown, linkLost_view, view_when, view_foldl, view_foldFin, viewR_ok, apply_ite (view k), ite_self, implies_true, h, List.mem_cons, List.not_mem_nil, or_false, not_or, ne_eq, not_false_eq_true, and_self]

theorem execAddressAgeing_view {k : Blk} (h : k ∉ ([.eth] : List Blk)) (a0 : _) (a1 : _) :
    viewR k (execAddressAgeing a0 a1) = some (view k a1) := by
  simp only [List.mem_cons, List.not_mem_nil, or_false, not_or] at h
  simp only [execAddressAgeing, setEth_view, view_when, view_foldl, view_foldFin, viewR_ok, apply_ite (view k), ite_self, implies_true, h, List.mem_cons, List.not_mem_nil, or_false, not_or, ne_eq, not_false_eq_true, and_self]

theorem execTwoStepEntryExpiry_view {k : Blk} (h : k ∉ ([.eth] : List Blk)) (a0 : _) (a1 : _) (a2 : _) (a3 : _) (a4 : _) :
    viewR k (execTwoStepEntryExpiry a0 a1 a2 a3 a4) = some (view k a4) := by
  simp only [List.mem_cons, List.not_mem_nil, or_false, not_or] at h
  simp only [execTwoStepEntryExpiry, setPort_view, view_when, view_foldl, view_foldFin, viewR_ok, apply_ite (view k), ite_self, implies_true, h, List.mem_cons, List.not_mem_nil, or_false, not_or, ne_eq, not_false_eq_true, and_self]

theorem execArpRequest_view {k : Blk} (h : k ∉ ([.out] : List Blk)) (a0 : _) (a1 : _) (a2 : _) (a3 : _) :
    viewR k (execArpRequest a0 a1 a2 a3) = some (view k a3) := by
  simp only [List.mem_cons, List.not_mem_nil, or_false, not_or] at h
  simp only [execArpRequest, emit_view, view_when, view_foldl, view_foldFin, viewR_ok, apply_ite (view k), ite_self, implies_true, h, List.mem_cons, List.not_mem_nil, or_false, not_or, ne_eq, not_false_eq_true, and_self]

theorem clockStep_view {k : Blk} (h : k ∉ ([.tim, .rcd] : List Blk)) (a0 : _) (a1 : _) :
    view k (clockStep a0 a1) = view k a1 := by
  simp only [List.mem_cons, List.not_mem_nil, or_false, not_or] at h
  simp only [clockStep, setTim_view, raise_view, view_when, view_foldl, view_foldFin, h, List.mem_cons, List.not_mem_nil, or_false, not_or, ne_eq, not_false_eq_true, and_self]

theorem masterChoose_view {k : Blk} (h : k ∉ ([.tim, .rcd] : List Blk)) (a0 : _) (a1 : _) :
    view k (masterChoose a0 a1) = view k a1 := by
  simp only [List.mem_cons, List.not_mem_nil, or_false, not_or] at h
  simp only [masterChoose, raise_view, setTim_view, view_when, view_foldl, view_foldFin, apply_ite (view k), ite_self, implies_true, h, List.mem_cons, List.not_mem_nil, or_false, not_or, ne_eq, not_false_eq_true, and_self]

theorem execAnnounceReceived_view {k : Blk} (h : k ∉ ([.tim, .rcd] : List Blk)) (a0 : _) (a1 : _) (a2 : _) :
    viewR k (execAnnounceReceived a0 a1 a2) = some (view k a2) := by
  simp only [List.mem_cons, List.not_mem_nil, or_false, not_or] at h
  simp only [execAnnounceReceived, masterChoose_view, raise_view, setTim_view, view_when, view_foldl, view_foldFin, viewR_ok, apply_ite (view k), ite_self, implies_true, h, List.mem_cons, List.not_mem_nil, or_false, not_or, ne_eq, not_false_eq_true, and_self]

theorem servoSync_view {k : Blk} (h : k ∉ ([.tim, .rcd] : List Blk)) (a0 : _) (a1 : _) (a2 : _) :
    view k (servoSync a0 a1 a2) = view k a2 := by
  simp only [List.mem_cons, List.not_mem_nil, or_false, not_or] at h
  simp only [servoSync, raise_view, setTim_view, clockStep_view, view_when, view_foldl, view_foldFin, apply_ite (view k), ite_self, implies_true, h, List.mem_cons, List.not_mem_nil, or_false, not_or, ne_eq, not_false_eq_true, and_self]

theorem execSyncReceived_view {k : Blk} (h : k ∉ ([.tim, .rcd] : List Blk)) (a0 : _) (a1 : _) (a2 : _) :
    viewR k (execSyncReceived a0 a1 a2) = some (view k a2) := by
  simp only [List.mem_cons, List.not_mem_nil, or_false, not_or] at h
  unfold execSyncReceived
  (repeat' split) <;> simp only [servoSync_view, setTim_view, view_when, view_foldl, view_foldFin, viewR_ok, apply_ite (view k), ite_self, implies_true, h, List.mem_cons, List.not_mem_nil, or_false, not_or, ne_eq, not_false_eq_true, and_self]

theorem execDelayRespReceived_view {k : Blk} (h : k ∉ ([.tim] : List Blk)) (a0 : _) (a1 : _) (a2 : _) (a3 : _) (a4 : _) (a5 : _) :
    viewR k (execDelayRespReceived a0 a1 a2 a3 a4 a5) = some (view k a5) := by
  simp only [List.mem_cons, List.not_mem_nil, or_false, not_or] at h
  unfold execDelayRespReceived
  (repeat' split) <;> simp only [setTim_view, view_when, view_foldl, view_foldFin, viewR_ok, apply_ite (view k), ite_self, implies_true, h, List.mem_cons, List.not_mem_nil, or_false, not_or, ne_eq, not_false_eq_true, and_self]

theorem execDelayReqSend_view {k : Blk} (h : k ∉ ([.tim, .out] : List Blk)) (a0 : _) (a1 : _) :
    viewR k (execDelayReqSend a0 a1) = some (view k a1) := by
  simp only [List.mem_cons, List.not_mem_nil, or_false, not_or] at h
  unfold execDelayReqSend
  (repeat' split) <;> simp only [setTim_view, emit_view, view_when, view_foldl, view_foldFin, viewR_ok, apply_ite (view k), ite_self, implies_true, h, List.mem_cons, List.not_mem_nil, or_false, not_or, ne_eq, not_false_eq_true, and_self]

theorem execHoldover_view {k : Blk} (h : k ∉ ([.tim, .rcd] : List Blk)) (a0 : _) :
    viewR k (execHoldover a0) = some (view k a0) := by
  simp only [List.mem_cons, List.not_mem_nil, or_false, not_or] at h
  simp only [execHoldover, setTim_view, raise_view, view_when, view_foldl, view_foldFin, viewR_ok, apply_ite (view k), ite_self, implies_true, h, List.mem_cons, List.not_mem_nil, or_false, not_or, ne_eq, not_false_eq_true, and_self]

theorem execHoldoverExpiry_view {k : Blk} (h : k ∉ ([.tim, .rcd] : List Blk)) (a0 : _) :
    viewR k (execHoldoverExpiry a0) = some (view k a0) := by
  simp only [List.mem_cons, List.not_mem_nil, or_false, not_or] at h
  simp only [execHoldoverExpiry, setTim_view, raise_view, view_when, view_foldl, view_foldFin, viewR_ok, apply_ite (view k), ite_self, implies_true, h, List.mem_cons, List.not_mem_nil, or_false, not_or, ne_eq, not_false_eq_true, and_self]

theorem timSnapWrite_view {k : Blk} (h : k ∉ ([.tim, .hed, .rcd] : List Blk)) (a0 : _) (a1 : _) :
    view k (timSnapWrite a0 a1) = view k a1 := by
  simp only [List.mem_cons, List.not_mem_nil, or_false, not_or] at h
  simp only [timSnapWrite, timSnapshot_view, togglePulse_view, view_when, view_foldl, view_foldFin, apply_ite (view k), ite_self, implies_true, h, List.mem_cons, List.not_mem_nil, or_false, not_or, ne_eq, not_false_eq_true, and_self]

theorem timAdjWrite_view {k : Blk} (h : k ∉ ([.tim, .rcd] : List Blk)) (a0 : _) (a1 : _) :
    view k (timAdjWrite a0 a1) = view k a1 := by
  simp only [List.mem_cons, List.not_mem_nil, or_false, not_or] at h
  simp only [timAdjWrite, clockStep_view, view_when, view_foldl, view_foldFin, apply_ite (view k), ite_self, implies_true, h, List.mem_cons, List.not_mem_nil, or_false, not_or, ne_eq, not_false_eq_true, and_self]

theorem execFollowerUpdate_view {k : Blk} (h : k ∉ ([.tim] : List Blk)) (a0 : _) :
    viewR k (execFollowerUpdate a0) = some (view k a0) := by
  simp only [List.mem_cons, List.not_mem_nil, or_false, not_or] at h
  simp only [execFollowerUpdate, setTim_view, view_when, view_foldl, view_foldFin, viewR_ok, apply_ite (view k), ite_self, implies_true, h, List.mem_cons, List.not_mem_nil, or_false, not_or, ne_eq, not_false_eq_true, and_self]

end Sys2Proof.Laws
end

