-- ==== Sys2Proof/Laws/FrameSecurity.lean ====
section
/-! SUPPORT. What each operation of Machine/Security.lean keeps: every block outside its footprint. -/

set_option Elab.async false

set_option linter.unusedSimpArgs false
set_option linter.unusedVariables false
set_option linter.unreachableTactic false
set_option linter.unusedTactic false
set_option linter.unnecessarySeqFocus false

namespace Sys2Proof.Laws

open Machine

theorem setSess_view {k : Blk} (h : k ∉ ([.shu] : List Blk)) (a0 : _) (a1 : _) :
    view k (setSess a0 a1) = view k a1 := by
  simp only [List.mem_cons, List.not_mem_nil, or_false, not_or] at h
  simp only [setSess, view_put_shu, view_when, view_foldl, view_foldFin, h, List.mem_cons, List.not_mem_nil, or_false, not_or, ne_eq, not_false_eq_true, and_self]

theorem secureRingsOff_view {k : Blk} (h : k ∉ ([.shu] : List Blk)) (s : _) :
    view k (secureRingsOff s) = view k s := by
  simp only [List.mem_cons, List.not_mem_nil, or_false, not_or] at h
  unfold secureRingsOff
  refine view_foldFin (fun t c => ?_) s
  try dsimp only
  (repeat' split) <;> simp only [disableRing_view, view_when, apply_ite (view k), ite_self, implies_true, h, List.mem_cons, List.not_mem_nil, or_false, not_or, ne_eq, not_false_eq_true, and_self]

theorem sessEnd_view {k : Blk} (h : k ∉ ([.shu] : List Blk)) (a0 : _) :
    view k (sessEnd a0) = view k a0 := by
  simp only [List.mem_cons, List.not_mem_nil, or_false, not_or] at h
  simp only [sessEnd, setSess_view, secureRingsOff_view, view_when, view_foldl, view_foldFin, apply_ite (view k), ite_self, implies_true, h, List.mem_cons, List.not_mem_nil, or_false, not_or, ne_eq, not_false_eq_true, and_self]

theorem sessOpen_view {k : Blk} (h : k ∉ ([.shu, .free] : List Blk)) (a0 : _) :
    view k (sessOpen a0) = view k a0 := by
  simp only [List.mem_cons, List.not_mem_nil, or_false, not_or] at h
  simp only [sessOpen, sessEnd_view, setSess_view, drawn_view, view_when, view_foldl, view_foldFin, apply_ite (view k), ite_self, implies_true, h, List.mem_cons, List.not_mem_nil, or_false, not_or, ne_eq, not_false_eq_true, and_self]

theorem sessClose_view {k : Blk} (h : k ∉ ([.shu] : List Blk)) (a0 : _) :
    view k (sessClose a0) = view k a0 := by
  simp only [List.mem_cons, List.not_mem_nil, or_false, not_or] at h
  simp only [sessClose, sessEnd_view, setSess_view, view_when, view_foldl, view_foldFin, apply_ite (view k), ite_self, implies_true, h, List.mem_cons, List.not_mem_nil, or_false, not_or, ne_eq, not_false_eq_true, and_self]

theorem sessResp_view {k : Blk} (h : k ∉ ([.shu] : List Blk)) (a0 : _) (a1 : _) (a2 : _) :
    view k (sessResp a0 a1 a2) = view k a2 := by
  simp only [List.mem_cons, List.not_mem_nil, or_false, not_or] at h
  simp only [sessResp, setSess_view, view_when, view_foldl, view_foldFin, apply_ite (view k), ite_self, implies_true, h, List.mem_cons, List.not_mem_nil, or_false, not_or, ne_eq, not_false_eq_true, and_self]

theorem execSessionCheckEnd_view {k : Blk} (h : k ∉ ([.shu, .rcd] : List Blk)) (a0 : _) :
    viewR k (execSessionCheckEnd a0) = some (view k a0) := by
  simp only [List.mem_cons, List.not_mem_nil, or_false, not_or] at h
  simp only [execSessionCheckEnd, setSess_view, raise_view, view_when, view_foldl, view_foldFin, viewR_ok, apply_ite (view k), ite_self, implies_true, h, List.mem_cons, List.not_mem_nil, or_false, not_or, ne_eq, not_false_eq_true, and_self]

theorem sessUnlock_view {k : Blk} (h : k ∉ ([.shu] : List Blk)) (a0 : _) :
    view k (sessUnlock a0) = view k a0 := by
  simp only [List.mem_cons, List.not_mem_nil, or_false, not_or] at h
  simp only [sessUnlock, setSess_view, view_when, view_foldl, view_foldFin, apply_ite (view k), ite_self, implies_true, h, List.mem_cons, List.not_mem_nil, or_false, not_or, ne_eq, not_false_eq_true, and_self]

theorem execSessionLockEnd_view {k : Blk} (h : k ∉ ([.shu] : List Blk)) (a0 : _) :
    viewR k (execSessionLockEnd a0) = some (view k a0) := by
  simp only [List.mem_cons, List.not_mem_nil, or_false, not_or] at h
  simp only [execSessionLockEnd, sessUnlock_view, view_when, view_foldl, view_foldFin, viewR_ok, h, List.mem_cons, List.not_mem_nil, or_false, not_or, ne_eq, not_false_eq_true, and_self]

theorem setSvc_view {k : Blk} (h : k ∉ ([.svc] : List Blk)) (a0 : _) (a1 : _) :
    view k (setSvc a0 a1) = view k a1 := by
  simp only [List.mem_cons, List.not_mem_nil, or_false, not_or] at h
  simp only [setSvc, view_put_svc, view_when, view_foldl, view_foldFin, h, List.mem_cons, List.not_mem_nil, or_false, not_or, ne_eq, not_false_eq_true, and_self]

theorem svcEnd_view {k : Blk} (h : k ∉ ([.svc] : List Blk)) (a0 : _) :
    view k (svcEnd a0) = view k a0 := by
  simp only [List.mem_cons, List.not_mem_nil, or_false, not_or] at h
  simp only [svcEnd, setSvc_view, view_when, view_foldl, view_foldFin, h, List.mem_cons, List.not_mem_nil, or_false, not_or, ne_eq, not_false_eq_true, and_self]

theorem slotsOff_view {k : Blk} (h : k ∉ ([.hub, .loom, .prism, .dbank, .dio, .aio, .can, .mir, .hed, .rcd, .pwr, .out] : List Blk)) (a0 : _) (a1 : _) :
    view k (slotsOff a0 a1) = view k a1 := by
  simp only [List.mem_cons, List.not_mem_nil, or_false, not_or] at h
  simp only [slotsOff, prismFail_view, setPrism_view, view_when, view_foldl, view_foldFin, h, List.mem_cons, List.not_mem_nil, or_false, not_or, ne_eq, not_false_eq_true, and_self]

theorem fieldOff_view {k : Blk} (h : k ∉ ([.hub, .loom, .prism, .dbank, .dio, .aio, .can, .brk, .mir, .hed, .rcd, .pwr, .out] : List Blk)) (a0 : _) :
    view k (fieldOff a0) = view k a0 := by
  simp only [List.mem_cons, List.not_mem_nil, or_false, not_or] at h
  simp only [fieldOff, canListenAll_view, brkEngageAll_view, aioBypassAll_view, modAio_view, dioEvalAll_view, slotsOff_view, view_when, view_foldl, view_foldFin, apply_ite (view k), ite_self, implies_true, h, List.mem_cons, List.not_mem_nil, or_false, not_or, ne_eq, not_false_eq_true, and_self]

theorem tasksStop_view {k : Blk} (h : k ∉ ([.hub, .shu, .loom, .dbank, .dio, .aio, .mir, .hed, .rcd, .pwr, .out, .free] : List Blk)) (a0 : _) :
    view k (tasksStop a0) = view k a0 := by
  simp only [List.mem_cons, List.not_mem_nil, or_false, not_or] at h
  simp only [tasksStop, taskLeave_view, view_when, view_foldl, view_foldFin, apply_ite (view k), ite_self, implies_true, h, List.mem_cons, List.not_mem_nil, or_false, not_or, ne_eq, not_false_eq_true, and_self]

theorem decommission_view {k : Blk} (h : k ∉ ([.hub, .shu, .loom, .zor, .prism, .dbank, .dio, .aio, .can, .brk, .mir, .hed, .sec, .rcd, .pwr, .out, .free] : List Blk)) (a0 : _) :
    view k (decommission a0) = view k a0 := by
  simp only [List.mem_cons, List.not_mem_nil, or_false, not_or] at h
  simp only [decommission, fieldOff_view, tasksStop_view, view_put_zor, view_put_zor_brk, view_put_zor_brk_sec, view_when, view_foldl, view_foldFin, apply_ite (view k), ite_self, implies_true, h, List.mem_cons, List.not_mem_nil, or_false, not_or, ne_eq, not_false_eq_true, and_self]

theorem lifePair_view {k : Blk} (h : k ∉ ([.hub, .loom, .mir, .rcd, .out, .free] : List Blk)) (a0 : _) :
    view k (lifePair a0) = view k a0 := by
  simp only [List.mem_cons, List.not_mem_nil, or_false, not_or] at h
  simp only [lifePair, drawn_view, syncSeg_view, syncDrop_view, syncAbandon_view, lifeEvent_view, view_when, view_foldl, view_foldFin, apply_ite (view k), ite_self, implies_true, h, List.mem_cons, List.not_mem_nil, or_false, not_or, ne_eq, not_false_eq_true, and_self]

theorem lifeChange_view {k : Blk} (h : k ∉ ([.hub, .shu, .loom, .zor, .prism, .dbank, .dio, .aio, .can, .brk, .mir, .hed, .sec, .svc, .rcd, .pwr, .out, .free] : List Blk)) (a0 : _) (a1 : _) (a2 : _) :
    view k (lifeChange a0 a1 a2) = view k a2 := by
  simp only [List.mem_cons, List.not_mem_nil, or_false, not_or] at h
  simp only [lifeChange, lifePair_view, decommission_view, raise_view, sessEnd_view, svcEnd_view, setSvc_view, vector64_view, view_put_shu, view_put_shu_sec, view_when, view_foldl, view_foldFin, apply_ite (view k), ite_self, implies_true, h, List.mem_cons, List.not_mem_nil, or_false, not_or, ne_eq, not_false_eq_true, and_self]

theorem lcRequest_view {k : Blk} (h : k ∉ ([.hub, .shu, .loom, .zor, .prism, .dbank, .dio, .aio, .can, .brk, .mir, .hed, .sec, .svc, .rcd, .pwr, .out, .free] : List Blk)) (a0 : _) (a1 : _) :
    view k (lcRequest a0 a1) = view k a1 := by
  simp only [List.mem_cons, List.not_mem_nil, or_false, not_or] at h
  simp only [lcRequest, lifeChange_view, view_put_sec, view_when, view_foldl, view_foldFin, apply_ite (view k), ite_self, implies_true, h, List.mem_cons, List.not_mem_nil, or_false, not_or, ne_eq, not_false_eq_true, and_self]
  (repeat' split) <;> first | with_reducible rfl | simp only [lifeChange_view, view_put_sec, view_when, view_foldl, view_foldFin, apply_ite (view k), ite_self, implies_true, h, List.mem_cons, List.not_mem_nil, or_false, not_or, ne_eq, not_false_eq_true, and_self]

theorem execLcConfirmTimeout_view {k : Blk} (h : k ∉ ([.sec] : List Blk)) (a0 : _) :
    viewR k (execLcConfirmTimeout a0) = some (view k a0) := by
  simp only [List.mem_cons, List.not_mem_nil, or_false, not_or] at h
  simp only [execLcConfirmTimeout, view_put_sec, view_when, view_foldl, view_foldFin, viewR_ok, apply_ite (view k), ite_self, implies_true, h, List.mem_cons, List.not_mem_nil, or_false, not_or, ne_eq, not_false_eq_true, and_self]

theorem execServiceSessionIdleTimeout_view {k : Blk} (h : k ∉ ([.svc] : List Blk)) (a0 : _) :
    viewR k (execServiceSessionIdleTimeout a0) = some (view k a0) := by
  simp only [List.mem_cons, List.not_mem_nil, or_false, not_or] at h
  simp only [execServiceSessionIdleTimeout, svcEnd_view, view_when, view_foldl, view_foldFin, viewR_ok, apply_ite (view k), ite_self, implies_true, h, List.mem_cons, List.not_mem_nil, or_false, not_or, ne_eq, not_false_eq_true, and_self]

theorem execUsbResetOrVbusLoss_view {k : Blk} (h : k ∉ ([.svc] : List Blk)) (a0 : _) (a1 : _) :
    viewR k (execUsbResetOrVbusLoss a0 a1) = some (view k a1) := by
  simp only [List.mem_cons, List.not_mem_nil, or_false, not_or] at h
  simp only [execUsbResetOrVbusLoss, svcEnd_view, setSvc_view, view_when, view_foldl, view_foldFin, viewR_ok, apply_ite (view k), ite_self, implies_true, h, List.mem_cons, List.not_mem_nil, or_false, not_or, ne_eq, not_false_eq_true, and_self]

theorem svcUnlock_view {k : Blk} (h : k ∉ ([.svc] : List Blk)) (a0 : _) :
    view k (svcUnlock a0) = view k a0 := by
  simp only [List.mem_cons, List.not_mem_nil, or_false, not_or] at h
  simp only [svcUnlock, setSvc_view, view_when, view_foldl, view_foldFin, apply_ite (view k), ite_self, implies_true, h, List.mem_cons, List.not_mem_nil, or_false, not_or, ne_eq, not_false_eq_true, and_self]

theorem execServicePortLockEnd_view {k : Blk} (h : k ∉ ([.svc] : List Blk)) (a0 : _) :
    viewR k (execServicePortLockEnd a0) = some (view k a0) := by
  simp only [List.mem_cons, List.not_mem_nil, or_false, not_or] at h
  simp only [execServicePortLockEnd, svcUnlock_view, view_when, view_foldl, view_foldFin, viewR_ok, h, List.mem_cons, List.not_mem_nil, or_false, not_or, ne_eq, not_false_eq_true, and_self]

theorem execPresenceWindowEnd_view {k : Blk} (h : k ∉ ([.svc] : List Blk)) (a0 : _) :
    viewR k (execPresenceWindowEnd a0) = some (view k a0) := by
  simp only [List.mem_cons, List.not_mem_nil, or_false, not_or] at h
  simp only [execPresenceWindowEnd, setSvc_view, view_when, view_foldl, view_foldFin, viewR_ok, h, List.mem_cons, List.not_mem_nil, or_false, not_or, ne_eq, not_false_eq_true, and_self]

theorem usbAttach_view {k : Blk} (h : k ∉ ([.svc, .out] : List Blk)) (a0 : _) :
    view k (usbAttach a0) = view k a0 := by
  simp only [List.mem_cons, List.not_mem_nil, or_false, not_or] at h
  simp only [usbAttach, setSvc_view, emit_view, view_when, view_foldl, view_foldFin, apply_ite (view k), ite_self, implies_true, h, List.mem_cons, List.not_mem_nil, or_false, not_or, ne_eq, not_false_eq_true, and_self]

theorem execVbusConnect_view {k : Blk} (h : k ∉ ([.svc, .out] : List Blk)) (a0 : _) :
    viewR k (execVbusConnect a0) = some (view k a0) := by
  simp only [List.mem_cons, List.not_mem_nil, or_false, not_or] at h
  simp only [execVbusConnect, setSvc_view, usbAttach_view, view_when, view_foldl, view_foldFin, viewR_ok, apply_ite (view k), ite_self, implies_true, h, List.mem_cons, List.not_mem_nil, or_false, not_or, ne_eq, not_false_eq_true, and_self]

end Sys2Proof.Laws
end

