-- ==== Sys2Proof/Laws/FrameRings.lean ====
section
/-! SUPPORT. What each operation of Machine/Rings.lean keeps: every block outside its footprint. -/

set_option Elab.async false

set_option linter.unusedSimpArgs false
set_option linter.unusedVariables false
set_option linter.unreachableTactic false
set_option linter.unusedTactic false
set_option linter.unnecessarySeqFocus false

namespace Sys2Proof.Laws

open Machine

theorem ringReach_view {k : Blk} (h : k ∉ ([.rcd] : List Blk)) (a0 : _) (a1 : _) (a2 : _) (a3 : _) :
    view k (ringReach a0 a1 a2 a3).2 = view k a3 := by
  simp only [List.mem_cons, List.not_mem_nil, or_false, not_or] at h
  unfold ringReach
  (repeat' split) <;> simp only [raise_view, view_when, view_foldl, view_foldFin, apply_ite (view k), ite_self, implies_true, h, List.mem_cons, List.not_mem_nil, or_false, not_or, ne_eq, not_false_eq_true, and_self]

theorem ringTail_view {k : Blk} (h : k ∉ ([.shu, .out] : List Blk)) (a0 : _) (a1 : _) (a2 : _) :
    view k (ringTail a0 a1 a2) = view k a2 := by
  simp only [List.mem_cons, List.not_mem_nil, or_false, not_or] at h
  simp only [ringTail, setRing_view, stopRing_view, view_when, view_foldl, view_foldFin, apply_ite (view k), ite_self, implies_true, h, List.mem_cons, List.not_mem_nil, or_false, not_or, ne_eq, not_false_eq_true, and_self]

theorem ringConsume_view {k : Blk} (h : k ∉ ([.shu, .out] : List Blk)) (a0 : _) (a1 : _) (a2 : _) :
    view k (ringConsume a0 a1 a2) = view k a2 := by
  simp only [List.mem_cons, List.not_mem_nil, or_false, not_or] at h
  simp only [ringConsume, setRing_view, stopRing_view, view_when, view_foldl, view_foldFin, apply_ite (view k), ite_self, implies_true, h, List.mem_cons, List.not_mem_nil, or_false, not_or, ne_eq, not_false_eq_true, and_self]

theorem ringArm_view {k : Blk} (h : k ∉ ([.shu] : List Blk)) (a0 : _) (a1 : _) (a2 : _) :
    view k (ringArm a0 a1 a2) = view k a2 := by
  simp only [List.mem_cons, List.not_mem_nil, or_false, not_or] at h
  simp only [ringArm, setRing_view, view_when, view_foldl, view_foldFin, apply_ite (view k), ite_self, implies_true, h, List.mem_cons, List.not_mem_nil, or_false, not_or, ne_eq, not_false_eq_true, and_self]

theorem ringWrite_view {k : Blk} (h : k ∉ ([.shu, .out] : List Blk)) (a0 : _) (a1 : _) (a2 : _) (a3 : _) :
    view k (ringWrite a0 a1 a2 a3) = view k a3 := by
  simp only [List.mem_cons, List.not_mem_nil, or_false, not_or] at h
  unfold ringWrite
  (repeat' split) <;> simp only [disableRing_view, ringArm_view, ringConsume_view, ringTail_view, setRing_view, view_when, view_foldl, view_foldFin, apply_ite (view k), ite_self, implies_true, h, List.mem_cons, List.not_mem_nil, or_false, not_or, ne_eq, not_false_eq_true, and_self]

theorem ringAccess_view {k : Blk} (h : k ∉ ([.shu, .rcd, .out] : List Blk)) (a0 : _) (a1 : _) (a2 : _) (a3 : _) (a4 : _) :
    view k (ringAccess a0 a1 a2 a3 a4) = view k a4 := by
  simp only [List.mem_cons, List.not_mem_nil, or_false, not_or] at h
  simp only [ringAccess, ringWrite_view, ringReach_view, view_when, view_foldl, view_foldFin, apply_ite (view k), ite_self, implies_true, h, List.mem_cons, List.not_mem_nil, or_false, not_or, ne_eq, not_false_eq_true, and_self]

theorem execSubmissionDoorbell_view {k : Blk} (h : k ∉ ([.shu, .rcd, .out] : List Blk)) (a0 : _) (a1 : _) (a2 : _) (a3 : _) :
    viewR k (execSubmissionDoorbell a0 a1 a2 a3) = some (view k a3) := by
  simp only [List.mem_cons, List.not_mem_nil, or_false, not_or] at h
  simp only [execSubmissionDoorbell, ringAccess_view, view_when, view_foldl, view_foldFin, viewR_ok, h, List.mem_cons, List.not_mem_nil, or_false, not_or, ne_eq, not_false_eq_true, and_self]

theorem execCompletionDoorbell_view {k : Blk} (h : k ∉ ([.shu, .rcd, .out] : List Blk)) (a0 : _) (a1 : _) (a2 : _) (a3 : _) :
    viewR k (execCompletionDoorbell a0 a1 a2 a3) = some (view k a3) := by
  simp only [List.mem_cons, List.not_mem_nil, or_false, not_or] at h
  simp only [execCompletionDoorbell, ringAccess_view, view_when, view_foldl, view_foldFin, viewR_ok, h, List.mem_cons, List.not_mem_nil, or_false, not_or, ne_eq, not_false_eq_true, and_self]

theorem execShuRpArm_view {k : Blk} (h : k ∉ ([.shu, .rcd, .out] : List Blk)) (a0 : _) (a1 : _) (a2 : _) (a3 : _) :
    viewR k (execShuRpArm a0 a1 a2 a3) = some (view k a3) := by
  simp only [List.mem_cons, List.not_mem_nil, or_false, not_or] at h
  simp only [execShuRpArm, ringAccess_view, view_when, view_foldl, view_foldFin, viewR_ok, h, List.mem_cons, List.not_mem_nil, or_false, not_or, ne_eq, not_false_eq_true, and_self]

theorem execShuRpCtrlDisable_view {k : Blk} (h : k ∉ ([.shu, .rcd, .out] : List Blk)) (a0 : _) (a1 : _) (a2 : _) :
    viewR k (execShuRpCtrlDisable a0 a1 a2) = some (view k a2) := by
  simp only [List.mem_cons, List.not_mem_nil, or_false, not_or] at h
  simp only [execShuRpCtrlDisable, ringAccess_view, view_when, view_foldl, view_foldFin, viewR_ok, h, List.mem_cons, List.not_mem_nil, or_false, not_or, ne_eq, not_false_eq_true, and_self]

theorem execFunctionLevelReset_view {k : Blk} (h : k ∉ ([.shu] : List Blk)) (f s : _) :
    viewR k (execFunctionLevelReset f s) = some (view k s) := by
  simp only [List.mem_cons, List.not_mem_nil, or_false, not_or] at h
  unfold execFunctionLevelReset
  rw [viewR_ok]
  split
  · have e : ∀ s, view k (foldFin 64 (fun t r => when (ringFn t r = f) (disableRing r) t) s) = view k s :=
      fun s => view_foldFin (fun t r => view_when t fun t => disableRing_view (by simp only [h, List.mem_cons, List.not_mem_nil, or_false, not_or, ne_eq, not_false_eq_true, and_self]) r t) s
    simp only [view_when, e, sessClose_view, disableRing_view, implies_true, h, List.mem_cons, List.not_mem_nil, or_false, not_or, ne_eq, not_false_eq_true, and_self]
  · rfl

theorem takeDesc_view {k : Blk} (h : k ∉ ([.shu, .hed, .rcd, .pwr] : List Blk)) (a0 : _) (a1 : _) (a2 : _) :
    view k (takeDesc a0 a1 a2) = view k a1 := by
  simp only [List.mem_cons, List.not_mem_nil, or_false, not_or] at h
  simp only [takeDesc, parityFail_view, view_put_shu, view_when, view_foldl, view_foldFin, apply_ite (view k), ite_self, implies_true, h, List.mem_cons, List.not_mem_nil, or_false, not_or, ne_eq, not_false_eq_true, and_self]

theorem execDescriptorFetch_view {k : Blk} (h : k ∉ ([.shu, .hed, .rcd, .pwr] : List Blk)) (a0 : _) (a1 : _) :
    viewR k (execDescriptorFetch a0 a1) = some (view k a1) := by
  simp only [List.mem_cons, List.not_mem_nil, or_false, not_or] at h
  unfold execDescriptorFetch
  (repeat' split) <;> simp only [setRing_view, takeDesc_view, view_put_shu, view_when, view_foldl, view_foldFin, viewR_ok, apply_ite (view k), ite_self, implies_true, h, List.mem_cons, List.not_mem_nil, or_false, not_or, ne_eq, not_false_eq_true, and_self]

theorem execRingHostMemoryError_view {k : Blk} (h : k ∉ ([.shu, .out] : List Blk)) (a0 : _) (a1 : _) (a2 : _) :
    viewR k (execRingHostMemoryError a0 a1 a2) = some (view k a2) := by
  simp only [List.mem_cons, List.not_mem_nil, or_false, not_or] at h
  simp only [execRingHostMemoryError, stopRing_view, view_when, view_foldl, view_foldFin, viewR_ok, apply_ite (view k), ite_self, implies_true, h, List.mem_cons, List.not_mem_nil, or_false, not_or, ne_eq, not_false_eq_true, and_self]

theorem execCompletionWrite_view {k : Blk} (h : k ∉ ([.shu, .out] : List Blk)) (a0 : _) (a1 : _) :
    viewR k (execCompletionWrite a0 a1) = some (view k a1) := by
  simp only [List.mem_cons, List.not_mem_nil, or_false, not_or] at h
  simp only [execCompletionWrite, writeCompletion_view, view_when, view_foldl, view_foldFin, viewR_ok, apply_ite (view k), ite_self, implies_true, h, List.mem_cons, List.not_mem_nil, or_false, not_or, ne_eq, not_false_eq_true, and_self]

theorem execIrqModerationExpiry_view {k : Blk} (h : k ∉ ([.shu, .out] : List Blk)) (a0 : _) (a1 : _) :
    viewR k (execIrqModerationExpiry a0 a1) = some (view k a1) := by
  simp only [List.mem_cons, List.not_mem_nil, or_false, not_or] at h
  simp only [execIrqModerationExpiry, setRing_view, msix_view, view_when, view_foldl, view_foldFin, viewR_ok, apply_ite (view k), ite_self, implies_true, h, List.mem_cons, List.not_mem_nil, or_false, not_or, ne_eq, not_false_eq_true, and_self]

end Sys2Proof.Laws
end

