-- ==== Sys2Proof/Laws/FrameChannels.lean ====
section
/-! SUPPORT. What each operation of Machine/Channels.lean keeps: every block outside its footprint. -/

set_option Elab.async false

set_option linter.unusedSimpArgs false
set_option linter.unusedVariables false
set_option linter.unreachableTactic false
set_option linter.unusedTactic false
set_option linter.unnecessarySeqFocus false

namespace Sys2Proof.Laws

open Machine

theorem setHandle_view {k : Blk} (h : k ∉ ([.shu] : List Blk)) (a0 : _) (a1 : _) (a2 : _) :
    view k (setHandle a0 a1 a2) = view k a2 := by
  simp only [List.mem_cons, List.not_mem_nil, or_false, not_or] at h
  simp only [setHandle, view_put_shu, view_when, view_foldl, view_foldFin, h, List.mem_cons, List.not_mem_nil, or_false, not_or, ne_eq, not_false_eq_true, and_self]

theorem loomLoad_view {k : Blk} (h : k ∉ ([.hub, .loom, .mir, .out] : List Blk)) (a0 : _) (a1 : _) (a2 : _) (a3 : _) (a4 : _) :
    view k (loomLoad a0 a1 a2 a3 a4) = view k a4 := by
  simp only [List.mem_cons, List.not_mem_nil, or_false, not_or] at h
  simp only [loomLoad, drainHub_view, setLoom_view, view_when, view_foldl, view_foldFin, h, List.mem_cons, List.not_mem_nil, or_false, not_or, ne_eq, not_false_eq_true, and_self]

theorem engineLoad_view {k : Blk} (h : k ∉ ([.hub, .loom, .mir, .out] : List Blk)) (a0 : _) (a1 : _) (a2 : _) (a3 : _) :
    view k (engineLoad a0 a1 a2 a3) = view k a3 := by
  simp only [List.mem_cons, List.not_mem_nil, or_false, not_or] at h
  unfold engineLoad
  (repeat' split) <;> simp only [drainHub_view, setLoom_view, loomLoad_view, view_when, view_foldl, view_foldFin, apply_ite (view k), ite_self, implies_true, h, List.mem_cons, List.not_mem_nil, or_false, not_or, ne_eq, not_false_eq_true, and_self]

theorem taskOpen_view {k : Blk} (h : k ∉ ([.loom] : List Blk)) (a0 : _) (a1 : _) :
    view k (taskOpen a0 a1) = view k a1 := by
  simp only [List.mem_cons, List.not_mem_nil, or_false, not_or] at h
  simp only [taskOpen, setLoom_view, view_when, view_foldl, view_foldFin, h, List.mem_cons, List.not_mem_nil, or_false, not_or, ne_eq, not_false_eq_true, and_self]

theorem slotOpen_view {k : Blk} (h : k ∉ ([.prism] : List Blk)) (a0 : _) (a1 : _) (a2 : _) :
    view k (slotOpen a0 a1 a2) = view k a2 := by
  simp only [List.mem_cons, List.not_mem_nil, or_false, not_or] at h
  simp only [slotOpen, setSlotL_view, view_when, view_foldl, view_foldFin, h, List.mem_cons, List.not_mem_nil, or_false, not_or, ne_eq, not_false_eq_true, and_self]

theorem chanOpen_view {k : Blk} (h : k ∉ ([.hub, .shu, .loom, .prism, .dbank, .dio, .aio, .enc, .can, .mir, .hed, .rcd, .pwr, .out, .free] : List Blk)) (a0 : _) (a1 : _) (a2 : _) :
    view k (chanOpen a0 a1 a2) = view k a2 := by
  simp only [List.mem_cons, List.not_mem_nil, or_false, not_or] at h
  unfold chanOpen
  (repeat' split) <;> simp only [filtLoad_view, canCreate_view, setCan_view, encApply_view, aioApply_view, dioApply_view, slotOpen_view, taskOpen_view, view_put_hub, view_put_shu, view_when, view_foldl, view_foldFin, apply_ite (view k), ite_self, implies_true, h, List.mem_cons, List.not_mem_nil, or_false, not_or, ne_eq, not_false_eq_true, and_self]

theorem chanMake_view {k : Blk} (h : k ∉ ([.hub, .shu, .loom, .zor, .prism, .dbank, .dio, .aio, .enc, .can, .mir, .hed, .rcd, .pwr, .out, .free] : List Blk)) (a0 : _) (a1 : _) (a2 : _) (a3 : _) :
    view k (chanMake a0 a1 a2 a3) = view k a3 := by
  simp only [List.mem_cons, List.not_mem_nil, or_false, not_or] at h
  simp only [chanMake, chanOpen_view, setHandle_view, view_put_zor, view_when, view_foldl, view_foldFin, h, List.mem_cons, List.not_mem_nil, or_false, not_or, ne_eq, not_false_eq_true, and_self]

theorem streamEnd_view {k : Blk} (h : k ∉ ([.shu, .hed, .free] : List Blk)) (a0 : _) (a1 : _) (a2 : _) :
    view k (streamEnd a0 a1 a2) = view k a2 := by
  simp only [List.mem_cons, List.not_mem_nil, or_false, not_or] at h
  simp only [streamEnd, bobAbandon_view, setStream_view, complete_view, view_when, view_foldl, view_foldFin, apply_ite (view k), ite_self, implies_true, h, List.mem_cons, List.not_mem_nil, or_false, not_or, ne_eq, not_false_eq_true, and_self]

theorem slotClose_view {k : Blk} (h : k ∉ ([.hub, .prism, .brk, .mir, .hed, .out] : List Blk)) (a0 : _) (a1 : _) (a2 : _) :
    view k (slotClose a0 a1 a2) = view k a2 := by
  simp only [List.mem_cons, List.not_mem_nil, or_false, not_or] at h
  simp only [slotClose, setSlotL_view, brkLoopFreed_view, view_when, view_foldl, view_foldFin, apply_ite (view k), ite_self, implies_true, h, List.mem_cons, List.not_mem_nil, or_false, not_or, ne_eq, not_false_eq_true, and_self]

theorem forceClose_view {k : Blk} (h : k ∉ ([.hub, .loom, .dbank, .dio, .aio, .mir, .hed, .rcd, .pwr, .out] : List Blk)) (a0 : _) (a1 : _) (a2 : _) :
    view k (forceClose a0 a1 a2) = view k a2 := by
  simp only [List.mem_cons, List.not_mem_nil, or_false, not_or] at h
  unfold forceClose
  (repeat' split) <;> simp only [publishOne_view, view_put_hub, view_when, view_foldl, view_foldFin, apply_ite (view k), ite_self, implies_true, h, List.mem_cons, List.not_mem_nil, or_false, not_or, ne_eq, not_false_eq_true, and_self]

theorem chanClose_view {k : Blk} (h : k ∉ ([.hub, .shu, .loom, .zor, .prism, .dbank, .dio, .aio, .enc, .can, .brk, .mir, .hed, .rcd, .pwr, .out, .free] : List Blk)) (a0 : _) (a1 : _) (a2 : _) (a3 : _) (a4 : _) :
    view k (chanClose a0 a1 a2 a3 a4) = view k a4 := by
  simp only [List.mem_cons, List.not_mem_nil, or_false, not_or] at h
  unfold chanClose
  (repeat' split) <;> simp only [forceClose_view, freezeDrop_view, streamEnd_view, canDestroy_view, encDestroy_view, aioDestroy_view, dioDestroy_view, slotClose_view, setLoom_view, stopNow_view, view_when, view_foldl, view_foldFin, apply_ite (view k), ite_self, implies_true, h, List.mem_cons, List.not_mem_nil, or_false, not_or, ne_eq, not_false_eq_true, and_self]

theorem chanDestroy_view {k : Blk} (h : k ∉ ([.hub, .shu, .loom, .zor, .prism, .dbank, .dio, .aio, .enc, .can, .brk, .mir, .hed, .rcd, .pwr, .out, .free] : List Blk)) (a0 : _) (a1 : _) (a2 : _) (a3 : _) :
    view k (chanDestroy a0 a1 a2 a3) = view k a3 := by
  simp only [List.mem_cons, List.not_mem_nil, or_false, not_or] at h
  unfold chanDestroy
  (repeat' split) <;> simp only [chanClose_view, setHandle_view, view_put_zor, view_when, view_foldl, view_foldFin, apply_ite (view k), ite_self, implies_true, h, List.mem_cons, List.not_mem_nil, or_false, not_or, ne_eq, not_false_eq_true, and_self]

theorem chanGone_view {k : Blk} (h : k ∉ ([.shu, .loom, .prism] : List Blk)) (a0 : _) (a1 : _) (a2 : _) :
    view k (chanGone a0 a1 a2) = view k a2 := by
  simp only [List.mem_cons, List.not_mem_nil, or_false, not_or] at h
  unfold chanGone
  (repeat' split) <;> simp only [setSlotL_view, setLoom_view, view_put_shu, view_when, view_foldl, view_foldFin, apply_ite (view k), ite_self, implies_true, h, List.mem_cons, List.not_mem_nil, or_false, not_or, ne_eq, not_false_eq_true, and_self]

theorem taskBegin_view {k : Blk} (h : k ∉ ([.loom] : List Blk)) (a0 : _) (a1 : _) :
    view k (taskBegin a0 a1) = view k a1 := by
  simp only [List.mem_cons, List.not_mem_nil, or_false, not_or] at h
  simp only [taskBegin, setLoom_view, view_when, view_foldl, view_foldFin, h, List.mem_cons, List.not_mem_nil, or_false, not_or, ne_eq, not_false_eq_true, and_self]

theorem waitMake_view {k : Blk} (h : k ∉ ([.hub, .shu, .loom, .zor, .prism, .dbank, .dio, .aio, .enc, .can, .mir, .hed, .rcd, .pwr, .out, .free] : List Blk)) (a0 : _) (a1 : _) :
    view k (waitMake a0 a1) = view k a1 := by
  simp only [List.mem_cons, List.not_mem_nil, or_false, not_or] at h
  simp only [waitMake, chanMake_view, taskBegin_view, view_when, view_foldl, view_foldFin, apply_ite (view k), ite_self, implies_true, h, List.mem_cons, List.not_mem_nil, or_false, not_or, ne_eq, not_false_eq_true, and_self]

theorem waitRun_view {k : Blk} (h : k ∉ ([.hub, .shu, .loom, .zor, .prism, .dbank, .dio, .aio, .enc, .can, .mir, .hed, .rcd, .pwr, .out, .free] : List Blk)) (a0 : _) :
    view k (waitRun a0) = view k a0 := by
  simp only [List.mem_cons, List.not_mem_nil, or_false, not_or] at h
  simp only [waitRun, waitMake_view, view_put_zor, view_when, view_foldl, view_foldFin, apply_ite (view k), ite_self, implies_true, h, List.mem_cons, List.not_mem_nil, or_false, not_or, ne_eq, not_false_eq_true, and_self]

theorem execTeardownEnd_view {k : Blk} (h : k ∉ ([.hub, .shu, .loom, .zor, .prism, .dbank, .dio, .aio, .enc, .can, .mir, .hed, .rcd, .pwr, .out, .free] : List Blk)) (a0 : _) (a1 : _) :
    viewR k (execTeardownEnd a0 a1) = some (view k a1) := by
  simp only [List.mem_cons, List.not_mem_nil, or_false, not_or] at h
  unfold execTeardownEnd
  (repeat' split) <;> simp only [chanGone_view, setHandle_view, waitRun_view, view_when, view_foldl, view_foldFin, viewR_ok, apply_ite (view k), ite_self, implies_true, h, List.mem_cons, List.not_mem_nil, or_false, not_or, ne_eq, not_false_eq_true, and_self]

theorem chansRestore_view {k : Blk} (h : k ∉ ([.hub, .shu, .loom, .zor, .prism, .dbank, .dio, .aio, .enc, .can, .mir, .hed, .rcd, .pwr, .out, .free] : List Blk)) (a0 : _) :
    view k (chansRestore a0) = view k a0 := by
  simp only [List.mem_cons, List.not_mem_nil, or_false, not_or] at h
  simp only [chansRestore, chanMake_view, view_put_shu, view_when, view_foldl, view_foldFin, apply_ite (view k), ite_self, implies_true, h, List.mem_cons, List.not_mem_nil, or_false, not_or, ne_eq, not_false_eq_true, and_self]

theorem chanRecord_view {k : Blk} (h : k ∉ ([.shu, .zor] : List Blk)) (a0 : _) (a1 : _) (a2 : _) :
    view k (chanRecord a0 a1 a2) = view k a2 := by
  simp only [List.mem_cons, List.not_mem_nil, or_false, not_or] at h
  unfold chanRecord
  (repeat' split) <;> simp only [setHandle_view, view_put_zor, view_when, view_foldl, view_foldFin, apply_ite (view k), ite_self, implies_true, h, List.mem_cons, List.not_mem_nil, or_false, not_or, ne_eq, not_false_eq_true, and_self]

end Sys2Proof.Laws
end

