-- ==== Sys2Proof/Laws/FrameRoles.lean ====
section
/-! SUPPORT. What each operation of Machine/Roles.lean keeps: every block outside its footprint. -/

set_option Elab.async false

set_option linter.unusedSimpArgs false
set_option linter.unusedVariables false
set_option linter.unreachableTactic false
set_option linter.unusedTactic false
set_option linter.unnecessarySeqFocus false

namespace Sys2Proof.Laws

open Machine

theorem takeField_view {k : Blk} (h : k ∉ ([.hub, .shu, .loom, .prism, .dbank, .dio, .aio, .enc, .can, .brk, .mir, .hed, .out] : List Blk)) (a0 : _) (a1 : _) (a2 : _) :
    view k (takeField a0 a1 a2) = view k a2 := by
  simp only [List.mem_cons, List.not_mem_nil, or_false, not_or] at h
  simp only [takeField, startDriving_view, roleChange_view, view_put_mir, view_when, view_foldl, view_foldFin, h, List.mem_cons, List.not_mem_nil, or_false, not_or, ne_eq, not_false_eq_true, and_self]

theorem taskHalt_view {k : Blk} (h : k ∉ ([.hub, .shu, .loom, .zor, .dbank, .dio, .aio, .mir, .hed, .rcd, .pwr, .out, .free] : List Blk)) (a0 : _) (a1 : _) :
    view k (taskHalt a0 a1) = view k a1 := by
  simp only [List.mem_cons, List.not_mem_nil, or_false, not_or] at h
  simp only [taskHalt, taskStop_view, view_when, view_foldl, view_foldFin, apply_ite (view k), ite_self, implies_true, h, List.mem_cons, List.not_mem_nil, or_false, not_or, ne_eq, not_false_eq_true, and_self]

theorem brkAllApplied_view {k : Blk} (h : k ∉ ([.hub, .brk, .mir, .hed, .out] : List Blk)) (a0 : _) :
    view k (brkAllApplied a0) = view k a0 := by
  simp only [List.mem_cons, List.not_mem_nil, or_false, not_or] at h
  simp only [brkAllApplied, setBrk_view, brkReport_view, view_when, view_foldl, view_foldFin, apply_ite (view k), ite_self, implies_true, h, List.mem_cons, List.not_mem_nil, or_false, not_or, ne_eq, not_false_eq_true, and_self]

theorem aloneStopped_view {k : Blk} (h : k ∉ ([.hub, .shu, .loom, .zor, .prism, .dbank, .dio, .aio, .enc, .can, .brk, .mir, .hed, .rcd, .pwr, .out, .free] : List Blk)) (a0 : _) (a1 : _) :
    view k (aloneStopped a0 a1) = view k a1 := by
  simp only [List.mem_cons, List.not_mem_nil, or_false, not_or] at h
  simp only [aloneStopped, drainHub_view, brkAllApplied_view, raise_view, slotsOff_view, startDriving_view, taskHalt_view, roleChange_view, view_put_loom, view_put_loom_mir, view_when, view_foldl, view_foldFin, apply_ite (view k), ite_self, implies_true, h, List.mem_cons, List.not_mem_nil, or_false, not_or, ne_eq, not_false_eq_true, and_self]

theorem partnerGone_view {k : Blk} (h : k ∉ ([.shu, .loom, .zor, .mir, .hed, .rcd, .out, .free] : List Blk)) (a0 : _) (a1 : _) :
    view k (partnerGone a0 a1) = view k a1 := by
  simp only [List.mem_cons, List.not_mem_nil, or_false, not_or] at h
  simp only [partnerGone, roleChange_view, swapEnd_view, view_put_mir, view_when, view_foldl, view_foldFin, apply_ite (view k), ite_self, implies_true, h, List.mem_cons, List.not_mem_nil, or_false, not_or, ne_eq, not_false_eq_true, and_self]

end Sys2Proof.Laws
end

