-- ==== Sys2Proof/Laws/FrameZoros.lean ====
section
/-! SUPPORT. What each operation of Machine/Zoros.lean keeps: every block outside its footprint. -/

set_option Elab.async false

set_option linter.unusedSimpArgs false
set_option linter.unusedVariables false
set_option linter.unreachableTactic false
set_option linter.unusedTactic false
set_option linter.unnecessarySeqFocus false

namespace Sys2Proof.Laws

open Machine

theorem setZor_view {k : Blk} (h : k ∉ ([.zor] : List Blk)) (a0 : _) (a1 : _) :
    view k (setZor a0 a1) = view k a1 := by
  simp only [List.mem_cons, List.not_mem_nil, or_false, not_or] at h
  simp only [setZor, view_put_zor, view_when, view_foldl, view_foldFin, h, List.mem_cons, List.not_mem_nil, or_false, not_or, ne_eq, not_false_eq_true, and_self]

theorem ethCfgPut_view {k : Blk} (h : k ∉ ([.eth, .rcd] : List Blk)) (v s : _) :
    view k (ethCfgPut v s) = view k s := by
  simp only [List.mem_cons, List.not_mem_nil, or_false, not_or] at h
  unfold ethCfgPut
  refine (view_foldFin (fun t p => view_when t fun t => ?_) _).trans ?_ <;> simp only [linkLost_view, setEth_view, h, List.mem_cons, List.not_mem_nil, or_false, not_or, ne_eq, not_false_eq_true, and_self]

theorem mastersKeep_view {k : Blk} (h : k ∉ ([.tim, .rcd] : List Blk)) (a0 : _) :
    view k (mastersKeep a0) = view k a0 := by
  simp only [List.mem_cons, List.not_mem_nil, or_false, not_or] at h
  simp only [mastersKeep, masterChoose_view, view_when, view_foldl, view_foldFin, h, List.mem_cons, List.not_mem_nil, or_false, not_or, ne_eq, not_false_eq_true, and_self]

theorem timCtrlPut_view {k : Blk} (h : k ∉ ([.tim, .rcd] : List Blk)) (a0 : _) (a1 : _) :
    view k (timCtrlPut a0 a1) = view k a1 := by
  simp only [List.mem_cons, List.not_mem_nil, or_false, not_or] at h
  simp only [timCtrlPut, mastersKeep_view, setTim_view, view_when, view_foldl, view_foldFin, h, List.mem_cons, List.not_mem_nil, or_false, not_or, ne_eq, not_false_eq_true, and_self]

theorem timSrvPut_view {k : Blk} (h : k ∉ ([.tim] : List Blk)) (a0 : _) (a1 : _) :
    view k (timSrvPut a0 a1) = view k a1 := by
  simp only [List.mem_cons, List.not_mem_nil, or_false, not_or] at h
  simp only [timSrvPut, setTim_view, view_when, view_foldl, view_foldFin, h, List.mem_cons, List.not_mem_nil, or_false, not_or, ne_eq, not_false_eq_true, and_self]

theorem blkwPut_view {k : Blk} (h : k ∉ ([.sec] : List Blk)) (a0 : _) (a1 : _) (a2 : _) :
    view k (blkwPut a0 a1 a2) = view k a2 := by
  simp only [List.mem_cons, List.not_mem_nil, or_false, not_or] at h
  simp only [blkwPut, view_put_sec, view_when, view_foldl, view_foldFin, h, List.mem_cons, List.not_mem_nil, or_false, not_or, ne_eq, not_false_eq_true, and_self]

theorem panCtrlPut_view {k : Blk} (h : k ∉ ([.pan] : List Blk)) (a0 : _) (a1 : _) :
    view k (panCtrlPut a0 a1) = view k a1 := by
  simp only [List.mem_cons, List.not_mem_nil, or_false, not_or] at h
  simp only [panCtrlPut, view_put_pan, view_when, view_foldl, view_foldFin, h, List.mem_cons, List.not_mem_nil, or_false, not_or, ne_eq, not_false_eq_true, and_self]

theorem stationApply_view {k : Blk} (h : k ∉ ([.eth, .tim, .sec, .rcd, .pan] : List Blk)) (a0 : _) (a1 : _) :
    view k (stationApply a0 a1) = view k a1 := by
  simp only [List.mem_cons, List.not_mem_nil, or_false, not_or] at h
  simp only [stationApply, ethCfgPut_view, timCtrlPut_view, timSrvPut_view, blkwPut_view, panCtrlPut_view, setEth_view, view_when, view_foldl, view_foldFin, h, List.mem_cons, List.not_mem_nil, or_false, not_or, ne_eq, not_false_eq_true, and_self]

theorem regionsApply_view {k : Blk} (h : k ∉ ([.sec] : List Blk)) (a0 : _) (a1 : _) :
    view k (regionsApply a0 a1) = view k a1 := by
  simp only [List.mem_cons, List.not_mem_nil, or_false, not_or] at h
  simp only [regionsApply, view_put_sec, view_when, view_foldl, view_foldFin, h, List.mem_cons, List.not_mem_nil, or_false, not_or, ne_eq, not_false_eq_true, and_self]

theorem frameApply_view {k : Blk} (h : k ∉ ([.prism] : List Blk)) (a0 : _) (a1 : _) (a2 : _) :
    view k (frameApply a0 a1 a2) = view k a2 := by
  simp only [List.mem_cons, List.not_mem_nil, or_false, not_or] at h
  simp only [frameApply, setPrism_view, view_when, view_foldl, view_foldFin, apply_ite (view k), ite_self, implies_true, h, List.mem_cons, List.not_mem_nil, or_false, not_or, ne_eq, not_false_eq_true, and_self]

theorem bucketsClip_view {k : Blk} (h : k ∉ ([.rcd] : List Blk)) (a0 : _) :
    view k (bucketsClip a0) = view k a0 := by
  simp only [List.mem_cons, List.not_mem_nil, or_false, not_or] at h
  simp only [bucketsClip, view_put_rcd, view_when, view_foldl, view_foldFin, h, List.mem_cons, List.not_mem_nil, or_false, not_or, ne_eq, not_false_eq_true, and_self]

theorem paramsApply_view {k : Blk} (h : k ∉ ([.prism, .eth, .tim, .sec, .rcd, .pan, .codes] : List Blk)) (a0 : _) (a1 : _) :
    view k (paramsApply a0 a1) = view k a1 := by
  simp only [List.mem_cons, List.not_mem_nil, or_false, not_or] at h
  simp only [paramsApply, bucketsClip_view, frameApply_view, stationApply_view, regionsApply_view, view_put_codes, view_when, view_foldl, view_foldFin, apply_ite (view k), ite_self, implies_true, h, List.mem_cons, List.not_mem_nil, or_false, not_or, ne_eq, not_false_eq_true, and_self]

theorem stageWrite_view {k : Blk} (h : k ∉ ([.shu, .zor, .free] : List Blk)) (a0 : _) (a1 : _) (a2 : _) :
    view k (stageWrite a0 a1 a2) = view k a2 := by
  simp only [List.mem_cons, List.not_mem_nil, or_false, not_or] at h
  simp only [stageWrite, setZor_view, complete_view, view_when, view_foldl, view_foldFin, apply_ite (view k), ite_self, implies_true, h, List.mem_cons, List.not_mem_nil, or_false, not_or, ne_eq, not_false_eq_true, and_self]

theorem execZorosCheckDone_view {k : Blk} (h : k ∉ ([.shu, .zor, .free] : List Blk)) (a0 : _) :
    viewR k (execZorosCheckDone a0) = some (view k a0) := by
  simp only [List.mem_cons, List.not_mem_nil, or_false, not_or] at h
  unfold execZorosCheckDone
  (repeat' split) <;> simp only [setZor_view, complete_view, view_when, view_foldl, view_foldFin, viewR_ok, apply_ite (view k), ite_self, implies_true, h, List.mem_cons, List.not_mem_nil, or_false, not_or, ne_eq, not_false_eq_true, and_self]

theorem timersDropped_view {k : Blk} (h : k ∉ ([.rcd] : List Blk)) (a0 : _) (a1 : _) (a2 : _) :
    view k (timersDropped a0 a1 a2) = view k a2 := by
  simp only [List.mem_cons, List.not_mem_nil, or_false, not_or] at h
  simp only [timersDropped, raise_view, view_when, view_foldl, view_foldFin, apply_ite (view k), ite_self, implies_true, h, List.mem_cons, List.not_mem_nil, or_false, not_or, ne_eq, not_false_eq_true, and_self]

theorem forceMove_view {k : Blk} (h : k ∉ ([.shu, .zor, .rcd] : List Blk)) (a0 : _) (a1 : _) (a2 : _) (a3 : _) (a4 : _) :
    view k (forceMove a0 a1 a2 a3 a4) = view k a4 := by
  simp only [List.mem_cons, List.not_mem_nil, or_false, not_or] at h
  unfold forceMove
  (repeat' split) <;> simp only [setZor_view, setHandle_view, raise_view, view_put_zor, view_when, view_foldl, view_foldFin, apply_ite (view k), ite_self, implies_true, h, List.mem_cons, List.not_mem_nil, or_false, not_or, ne_eq, not_false_eq_true, and_self]

theorem forcesMove_view {k : Blk} (h : k ∉ ([.hub, .shu, .zor, .rcd] : List Blk)) (a0 : _) (a1 : _) (a2 : _) :
    view k (forcesMove a0 a1 a2) = view k a2 := by
  simp only [List.mem_cons, List.not_mem_nil, or_false, not_or] at h
  simp only [forcesMove, forceMove_view, view_put_hub, view_when, view_foldl, view_foldFin, apply_ite (view k), ite_self, implies_true, h, List.mem_cons, List.not_mem_nil, or_false, not_or, ne_eq, not_false_eq_true, and_self]

theorem engineSwitch_view {k : Blk} (h : k ∉ ([.hub, .loom, .mir, .out] : List Blk)) (a0 : _) (a1 : _) (a2 : _) (a3 : _) (a4 : _) :
    view k (engineSwitch a0 a1 a2 a3 a4) = view k a4 := by
  simp only [List.mem_cons, List.not_mem_nil, or_false, not_or] at h
  simp only [engineSwitch, loomLoad_view, setLoom_view, view_when, view_foldl, view_foldFin, apply_ite (view k), ite_self, implies_true, h, List.mem_cons, List.not_mem_nil, or_false, not_or, ne_eq, not_false_eq_true, and_self]
  (repeat' split) <;> first | with_reducible rfl | simp only [loomLoad_view, setLoom_view, view_when, view_foldl, view_foldFin, apply_ite (view k), ite_self, implies_true, h, List.mem_cons, List.not_mem_nil, or_false, not_or, ne_eq, not_false_eq_true, and_self]

theorem engineDrop_view {k : Blk} (h : k ∉ ([.hub, .shu, .loom, .dbank, .dio, .aio, .mir, .hed, .rcd, .pwr, .out, .free] : List Blk)) (a0 : _) (a1 : _) (a2 : _) :
    view k (engineDrop a0 a1 a2) = view k a2 := by
  simp only [List.mem_cons, List.not_mem_nil, or_false, not_or] at h
  simp only [engineDrop, taskLeave_view, setLoom_view, view_when, view_foldl, view_foldFin, apply_ite (view k), ite_self, implies_true, h, List.mem_cons, List.not_mem_nil, or_false, not_or, ne_eq, not_false_eq_true, and_self]

theorem chanReconfig_view {k : Blk} (h : k ∉ ([.hub, .shu, .prism, .dbank, .dio, .aio, .enc, .can, .mir, .hed, .rcd, .pwr, .out, .free] : List Blk)) (a0 : _) (a1 : _) :
    view k (chanReconfig a0 a1) = view k a1 := by
  simp only [List.mem_cons, List.not_mem_nil, or_false, not_or] at h
  unfold chanReconfig
  (repeat' split) <;> simp only [canApply_view, encApply_view, aioApply_view, dioApply_view, slotSend_view, view_when, view_foldl, view_foldFin, apply_ite (view k), ite_self, implies_true, h, List.mem_cons, List.not_mem_nil, or_false, not_or, ne_eq, not_false_eq_true, and_self]

theorem chansSwitch_view {k : Blk} (h : k ∉ ([.hub, .shu, .loom, .zor, .prism, .dbank, .dio, .aio, .enc, .can, .brk, .mir, .hed, .rcd, .pwr, .out, .free] : List Blk)) (a0 : _) (a1 : _) (a2 : _) (a3 : _) :
    view k (chansSwitch a0 a1 a2 a3) = view k a3 := by
  simp only [List.mem_cons, List.not_mem_nil, or_false, not_or] at h
  unfold chansSwitch
  dsimp only
  rw [view_foldl fun t p => view_when t fun t => by simp only [setZor_view, waitRun_view, chanDestroy_view, chanRecord_view, chanReconfig_view, h, List.mem_cons, List.not_mem_nil, or_false, not_or, ne_eq, not_false_eq_true, and_self],
    waitRun_view (by simp only [h, List.mem_cons, List.not_mem_nil, or_false, not_or, ne_eq, not_false_eq_true, and_self]), setZor_view (by simp only [h, List.mem_cons, List.not_mem_nil, or_false, not_or, ne_eq, not_false_eq_true, and_self]), view_foldl fun t i => chanDestroy_view (by simp only [h, List.mem_cons, List.not_mem_nil, or_false, not_or, ne_eq, not_false_eq_true, and_self]) i none none t]

theorem imageSwitch_view {k : Blk} (h : k ∉ ([.hub, .shu, .loom, .zor, .prism, .dbank, .dio, .aio, .enc, .can, .eth, .tim, .brk, .mir, .hed, .sec, .rcd, .pan, .pwr, .codes, .out, .free] : List Blk)) (img x s : _) :
    view k (imageSwitch img x s) = view k s := by
  simp only [List.mem_cons, List.not_mem_nil, or_false, not_or] at h
  have e1 : ∀ t, view k (foldFin 8 (fun t n => engineDrop img n t) t) = view k t :=
    fun t => view_foldFin (fun t n => engineDrop_view (by simp only [h, List.mem_cons, List.not_mem_nil, or_false, not_or, ne_eq, not_false_eq_true, and_self]) _ _ t) t
  have e2 : ∀ old t, view k (foldFin 8 (fun t n => engineSwitch old img x n t) t) = view k t :=
    fun old t => view_foldFin (fun t n => engineSwitch_view (by simp only [h, List.mem_cons, List.not_mem_nil, or_false, not_or, ne_eq, not_false_eq_true, and_self]) _ _ _ _ t) t
  have e3 : ∀ t, view k (foldFin 8 (fun t n => when (vget img.tasks n).isSome (if x then failPublish n else taskSigned n) t) t) = view k t :=
    fun t => view_foldFin (fun t n => view_when t fun t => by
      cases x
      · exact taskSigned_view (by simp only [h, List.mem_cons, List.not_mem_nil, or_false, not_or, ne_eq, not_false_eq_true, and_self]) _ t
      · exact failPublish_view (by simp only [h, List.mem_cons, List.not_mem_nil, or_false, not_or, ne_eq, not_false_eq_true, and_self]) _ t) t
  unfold imageSwitch
  dsimp only
  rw [raise_view (by simp only [h, List.mem_cons, List.not_mem_nil, or_false, not_or, ne_eq, not_false_eq_true, and_self]), chansSwitch_view (by simp only [h, List.mem_cons, List.not_mem_nil, or_false, not_or, ne_eq, not_false_eq_true, and_self]), paramsApply_view (by simp only [h, List.mem_cons, List.not_mem_nil, or_false, not_or, ne_eq, not_false_eq_true, and_self]), e3, publishPts_view (by simp only [h, List.mem_cons, List.not_mem_nil, or_false, not_or, ne_eq, not_false_eq_true, and_self]), view_put_hub (by simp only [h, List.mem_cons, List.not_mem_nil, or_false, not_or, ne_eq, not_false_eq_true, and_self]), setZor_view (by simp only [h, List.mem_cons, List.not_mem_nil, or_false, not_or, ne_eq, not_false_eq_true, and_self]),
    forcesMove_view (by simp only [h, List.mem_cons, List.not_mem_nil, or_false, not_or, ne_eq, not_false_eq_true, and_self]), e2, e1, timersDropped_view (by simp only [h, List.mem_cons, List.not_mem_nil, or_false, not_or, ne_eq, not_false_eq_true, and_self]), drainHub_view (by simp only [h, List.mem_cons, List.not_mem_nil, or_false, not_or, ne_eq, not_false_eq_true, and_self])]

theorem swapBegin_view {k : Blk} (h : k ∉ ([.shu, .zor, .mir, .hed, .rcd, .out, .free] : List Blk)) (a0 : _) (a1 : _) :
    view k (swapBegin a0 a1) = view k a1 := by
  simp only [List.mem_cons, List.not_mem_nil, or_false, not_or] at h
  unfold swapBegin
  (repeat' split) <;> simp only [swapFail_view, setZor_view, hedImage_view, swapEnd_view, swapSend_view, view_when, view_foldl, view_foldFin, apply_ite (view k), ite_self, implies_true, h, List.mem_cons, List.not_mem_nil, or_false, not_or, ne_eq, not_false_eq_true, and_self]

theorem execSwapPrepared_view {k : Blk} (h : k ∉ ([.shu, .zor, .mir, .hed, .rcd, .out, .free] : List Blk)) (a0 : _) :
    viewR k (execSwapPrepared a0) = some (view k a0) := by
  simp only [List.mem_cons, List.not_mem_nil, or_false, not_or] at h
  simp only [execSwapPrepared, swapFail_view, setZor_view, swapSend_view, view_when, view_foldl, view_foldFin, viewR_ok, apply_ite (view k), ite_self, implies_true, h, List.mem_cons, List.not_mem_nil, or_false, not_or, ne_eq, not_false_eq_true, and_self]

theorem execPrepareTimeout_view {k : Blk} (h : k ∉ ([.shu, .zor, .mir, .hed, .rcd, .out, .free] : List Blk)) (a0 : _) :
    viewR k (execPrepareTimeout a0) = some (view k a0) := by
  simp only [List.mem_cons, List.not_mem_nil, or_false, not_or] at h
  simp only [execPrepareTimeout, swapFail_view, swapEnd_view, view_when, view_foldl, view_foldFin, viewR_ok, apply_ite (view k), ite_self, implies_true, h, List.mem_cons, List.not_mem_nil, or_false, not_or, ne_eq, not_false_eq_true, and_self]

theorem swapCompare_view {k : Blk} (h : k ∉ ([.shu, .zor, .mir, .hed, .rcd, .out, .free] : List Blk)) (a0 : _) :
    view k (swapCompare a0) = view k a0 := by
  simp only [List.mem_cons, List.not_mem_nil, or_false, not_or] at h
  unfold swapCompare
  (repeat' split) <;> simp only [divStart_view, swapEnd_view, view_when, view_foldl, view_foldFin, apply_ite (view k), ite_self, implies_true, h, List.mem_cons, List.not_mem_nil, or_false, not_or, ne_eq, not_false_eq_true, and_self]

theorem swapFrozen_view {k : Blk} (h : k ∉ ([.shu, .zor, .mir, .hed, .rcd, .out, .free] : List Blk)) (a0 : _) :
    view k (swapFrozen a0) = view k a0 := by
  simp only [List.mem_cons, List.not_mem_nil, or_false, not_or] at h
  simp only [swapFrozen, setZor_view, swapSend_view, swapCompare_view, view_when, view_foldl, view_foldFin, apply_ite (view k), ite_self, implies_true, h, List.mem_cons, List.not_mem_nil, or_false, not_or, ne_eq, not_false_eq_true, and_self]

theorem execFreezeInstant_view {k : Blk} (h : k ∉ ([.shu, .zor, .mir, .hed, .rcd, .out, .free] : List Blk)) (a0 : _) :
    viewR k (execFreezeInstant a0) = some (view k a0) := by
  simp only [List.mem_cons, List.not_mem_nil, or_false, not_or] at h
  unfold execFreezeInstant
  (repeat' split) <;> simp only [setZor_view, swapFrozen_view, view_when, view_foldl, view_foldFin, viewR_ok, apply_ite (view k), ite_self, implies_true, h, List.mem_cons, List.not_mem_nil, or_false, not_or, ne_eq, not_false_eq_true, and_self]

theorem execSwapSwitch_view {k : Blk} (h : k ∉ ([.hub, .shu, .loom, .zor, .prism, .dbank, .dio, .aio, .enc, .can, .eth, .tim, .brk, .mir, .hed, .sec, .rcd, .pan, .pwr, .codes, .out, .free] : List Blk)) (a0 : _) :
    viewR k (execSwapSwitch a0) = some (view k a0) := by
  simp only [List.mem_cons, List.not_mem_nil, or_false, not_or] at h
  unfold execSwapSwitch
  (repeat' split) <;> simp only [swapEnd_view, setZor_view, toSyncing_view, completeOpt_view, takeField_view, raise_view, imageSwitch_view, view_put_mir, view_when, view_foldl, view_foldFin, viewR_ok, apply_ite (view k), ite_self, implies_true, h, List.mem_cons, List.not_mem_nil, or_false, not_or, ne_eq, not_false_eq_true, and_self]

end Sys2Proof.Laws
end

