-- ==== Sys2Proof/Laws/FramePanel.lean ====
section
/-! SUPPORT. What each operation of Machine/Panel.lean keeps: every block outside its footprint. -/

set_option Elab.async false

set_option linter.unusedSimpArgs false
set_option linter.unusedVariables false
set_option linter.unreachableTactic false
set_option linter.unusedTactic false
set_option linter.unnecessarySeqFocus false

namespace Sys2Proof.Laws

open Machine

theorem setPan_view {k : Blk} (h : k ∉ ([.pan] : List Blk)) (a0 : _) (a1 : _) :
    view k (setPan a0 a1) = view k a1 := by
  simp only [List.mem_cons, List.not_mem_nil, or_false, not_or] at h
  simp only [setPan, view_put_pan, view_when, view_foldl, view_foldFin, h, List.mem_cons, List.not_mem_nil, or_false, not_or, ne_eq, not_false_eq_true, and_self]

theorem ledgerCut_view {k : Blk} (h : k ∉ ([.pan, .free] : List Blk)) (a0 : _) :
    view k (ledgerCut a0) = view k a0 := by
  simp only [List.mem_cons, List.not_mem_nil, or_false, not_or] at h
  simp only [ledgerCut, setPan_view, drawn_view, view_when, view_foldl, view_foldFin, apply_ite (view k), ite_self, implies_true, h, List.mem_cons, List.not_mem_nil, or_false, not_or, ne_eq, not_false_eq_true, and_self]

theorem panStart_view {k : Blk} (h : k ∉ ([.pan, .free] : List Blk)) (a0 : _) :
    view k (panStart a0) = view k a0 := by
  simp only [List.mem_cons, List.not_mem_nil, or_false, not_or] at h
  simp only [panStart, ledgerCut_view, setPan_view, view_when, view_foldl, view_foldFin, h, List.mem_cons, List.not_mem_nil, or_false, not_or, ne_eq, not_false_eq_true, and_self]

theorem panStop_view {k : Blk} (h : k ∉ ([.pan, .free] : List Blk)) (a0 : _) :
    view k (panStop a0) = view k a0 := by
  simp only [List.mem_cons, List.not_mem_nil, or_false, not_or] at h
  simp only [panStop, ledgerCut_view, setPan_view, view_when, view_foldl, view_foldFin, h, List.mem_cons, List.not_mem_nil, or_false, not_or, ne_eq, not_false_eq_true, and_self]

theorem panFinish_view {k : Blk} (h : k ∉ ([.pan] : List Blk)) (a0 : _) :
    view k (panFinish a0) = view k a0 := by
  simp only [List.mem_cons, List.not_mem_nil, or_false, not_or] at h
  simp only [panFinish, setPan_view, view_when, view_foldl, view_foldFin, h, List.mem_cons, List.not_mem_nil, or_false, not_or, ne_eq, not_false_eq_true, and_self]

theorem execPanelTemperatureRead_view {k : Blk} (h : k ∉ ([.rcd, .pan] : List Blk)) (a0 : _) (a1 : _) :
    viewR k (execPanelTemperatureRead a0 a1) = some (view k a1) := by
  simp only [List.mem_cons, List.not_mem_nil, or_false, not_or] at h
  simp only [execPanelTemperatureRead, raise_view, setPan_view, view_when, view_foldl, view_foldFin, viewR_ok, apply_ite (view k), ite_self, implies_true, h, List.mem_cons, List.not_mem_nil, or_false, not_or, ne_eq, not_false_eq_true, and_self]

theorem panLoad_view {k : Blk} (h : k ∉ ([.pan] : List Blk)) (a0 : _) :
    view k (panLoad a0) = view k a0 := by
  simp only [List.mem_cons, List.not_mem_nil, or_false, not_or] at h
  simp only [panLoad, setPan_view, view_when, view_foldl, view_foldFin, h, List.mem_cons, List.not_mem_nil, or_false, not_or, ne_eq, not_false_eq_true, and_self]

theorem execFrameCommit_view {k : Blk} (h : k ∉ ([.shu, .rcd, .pan, .free] : List Blk)) (a0 : _) (a1 : _) :
    viewR k (execFrameCommit a0 a1) = some (view k a1) := by
  simp only [List.mem_cons, List.not_mem_nil, or_false, not_or] at h
  simp only [execFrameCommit, panLoad_view, completeOpt_view, raise_view, drawn_view, setPan_view, view_when, view_foldl, view_foldFin, viewR_ok, apply_ite (view k), ite_self, implies_true, h, List.mem_cons, List.not_mem_nil, or_false, not_or, ne_eq, not_false_eq_true, and_self]

theorem execLedgerWriteDone_view {k : Blk} (h : k ∉ ([.pan] : List Blk)) (a0 : _) (a1 : _) :
    viewR k (execLedgerWriteDone a0 a1) = some (view k a1) := by
  simp only [List.mem_cons, List.not_mem_nil, or_false, not_or] at h
  simp only [execLedgerWriteDone, setPan_view, view_when, view_foldl, view_foldFin, viewR_ok, apply_ite (view k), ite_self, implies_true, h, List.mem_cons, List.not_mem_nil, or_false, not_or, ne_eq, not_false_eq_true, and_self]

theorem execFieldBStart_view {k : Blk} (h : k ∉ ([.pan] : List Blk)) (a0 : _) :
    viewR k (execFieldBStart a0) = some (view k a0) := by
  simp only [List.mem_cons, List.not_mem_nil, or_false, not_or] at h
  simp only [execFieldBStart, setPan_view, view_when, view_foldl, view_foldFin, viewR_ok, apply_ite (view k), ite_self, implies_true, h, List.mem_cons, List.not_mem_nil, or_false, not_or, ne_eq, not_false_eq_true, and_self]

theorem execCompensationField_view {k : Blk} (h : k ∉ ([.rcd, .pan] : List Blk)) (a0 : _) :
    viewR k (execCompensationField a0) = some (view k a0) := by
  simp only [List.mem_cons, List.not_mem_nil, or_false, not_or] at h
  simp only [execCompensationField, raise_view, setPan_view, view_when, view_foldl, view_foldFin, viewR_ok, apply_ite (view k), ite_self, implies_true, h, List.mem_cons, List.not_mem_nil, or_false, not_or, ne_eq, not_false_eq_true, and_self]

end Sys2Proof.Laws
end

