-- ==== Sys2Proof/Laws/FrameDescr.lean ====
section
/-! SUPPORT. What each operation of Machine/Descr.lean keeps: every block outside its footprint. -/

set_option Elab.async false

set_option linter.unusedSimpArgs false
set_option linter.unusedVariables false
set_option linter.unreachableTactic false
set_option linter.unusedTactic false
set_option linter.unnecessarySeqFocus false

namespace Sys2Proof.Laws

open Machine

theorem good_view {k : Blk} (a0 : _) (a1 : _) :
    view k (good a0 a1).1 = view k a1 := by
  simp only [good, view_when, view_foldl, view_foldFin, ne_eq, not_false_eq_true, and_self]

theorem bad_view {k : Blk} (a0 : _) (a1 : _) :
    view k (bad a0 a1).1 = view k a1 := by
  simp only [bad, view_when, view_foldl, view_foldFin, ne_eq, not_false_eq_true, and_self]

theorem later_view {k : Blk} (a0 : _) :
    view k (later a0).1 = view k a0 := by
  simp only [later, view_when, view_foldl, view_foldFin, ne_eq, not_false_eq_true, and_self]

theorem answer_view {k : Blk} (h : k ∉ ([.shu, .free] : List Blk)) (a0 : _) (a1 : _) (a2 : _) :
    view k (answer a0 a1 a2) = view k a2 := by
  simp only [List.mem_cons, List.not_mem_nil, or_false, not_or] at h
  unfold answer
  (repeat' split) <;> simp only [drawn_view, completeH_view, view_when, view_foldl, view_foldFin, apply_ite (view k), ite_self, implies_true, h, List.mem_cons, List.not_mem_nil, or_false, not_or, ne_eq, not_false_eq_true, and_self]

theorem apCreate_view {k : Blk} (h : k ∉ ([.hub, .shu, .loom, .zor, .prism, .dbank, .dio, .aio, .enc, .can, .mir, .hed, .rcd, .pwr, .out, .free] : List Blk)) (a0 : _) (a1 : _) :
    view k (apCreate a0 a1).1 = view k a1 := by
  simp only [List.mem_cons, List.not_mem_nil, or_false, not_or] at h
  simp only [apCreate, chanMake_view, bad_view, view_when, view_foldl, view_foldFin, apply_ite (view k), ite_self, implies_true, h, List.mem_cons, List.not_mem_nil, or_false, not_or, ne_eq, not_false_eq_true, and_self]
  (repeat' split) <;> first | with_reducible rfl | simp only [chanMake_view, bad_view, view_when, view_foldl, view_foldFin, apply_ite (view k), ite_self, implies_true, h, List.mem_cons, List.not_mem_nil, or_false, not_or, ne_eq, not_false_eq_true, and_self]

theorem apDestroy_view {k : Blk} (h : k ∉ ([.hub, .shu, .loom, .zor, .prism, .dbank, .dio, .aio, .enc, .can, .brk, .mir, .hed, .rcd, .pwr, .out, .free] : List Blk)) (a0 : _) (a1 : _) :
    view k (apDestroy a0 a1).1 = view k a1 := by
  simp only [List.mem_cons, List.not_mem_nil, or_false, not_or] at h
  simp only [apDestroy, chanDestroy_view, good_view, view_when, view_foldl, view_foldFin, h, List.mem_cons, List.not_mem_nil, or_false, not_or, ne_eq, not_false_eq_true, and_self]

theorem apStage_view {k : Blk} (h : k ∉ ([.shu, .zor, .free] : List Blk)) (a0 : _) (a1 : _) :
    view k (apStage a0 a1).1 = view k a1 := by
  simp only [List.mem_cons, List.not_mem_nil, or_false, not_or] at h
  simp only [apStage, stageWrite_view, good_view, view_when, view_foldl, view_foldFin, h, List.mem_cons, List.not_mem_nil, or_false, not_or, ne_eq, not_false_eq_true, and_self]

theorem apCheck_view {k : Blk} (h : k ∉ ([.zor] : List Blk)) (a0 : _) (a1 : _) :
    view k (apCheck a0 a1).1 = view k a1 := by
  simp only [List.mem_cons, List.not_mem_nil, or_false, not_or] at h
  simp only [apCheck, setZor_view, later_view, view_when, view_foldl, view_foldFin, h, List.mem_cons, List.not_mem_nil, or_false, not_or, ne_eq, not_false_eq_true, and_self]

theorem apSwap_view {k : Blk} (h : k ∉ ([.shu, .zor, .mir, .hed, .rcd, .out, .free] : List Blk)) (a0 : _) (a1 : _) :
    view k (apSwap a0 a1).1 = view k a1 := by
  simp only [List.mem_cons, List.not_mem_nil, or_false, not_or] at h
  unfold apSwap
  (repeat' split) <;> simp only [swapBegin_view, later_view, setZor_view, forwardSend_view, view_put_mir, view_when, view_foldl, view_foldFin, apply_ite (view k), ite_self, implies_true, h, List.mem_cons, List.not_mem_nil, or_false, not_or, ne_eq, not_false_eq_true, and_self]

theorem apTask_view {k : Blk} (h : k ∉ ([.hub, .shu, .loom, .zor, .dbank, .dio, .aio, .mir, .hed, .rcd, .pwr, .out, .free] : List Blk)) (a0 : _) (a1 : _) :
    view k (apTask a0 a1).1 = view k a1 := by
  simp only [List.mem_cons, List.not_mem_nil, or_false, not_or] at h
  simp only [apTask, setLoom_view, good_view, stopNow_view, later_view, view_put_mir, view_when, view_foldl, view_foldFin, apply_ite (view k), ite_self, implies_true, h, List.mem_cons, List.not_mem_nil, or_false, not_or, ne_eq, not_false_eq_true, and_self]
  (repeat' split) <;> first | with_reducible rfl | simp only [setLoom_view, good_view, stopNow_view, later_view, view_put_mir, view_when, view_foldl, view_foldFin, apply_ite (view k), ite_self, implies_true, h, List.mem_cons, List.not_mem_nil, or_false, not_or, ne_eq, not_false_eq_true, and_self]

theorem apPatch_view {k : Blk} (h : k ∉ ([.loom, .rcd] : List Blk)) (a0 : _) (a1 : _) :
    view k (apPatch a0 a1).1 = view k a1 := by
  simp only [List.mem_cons, List.not_mem_nil, or_false, not_or] at h
  simp only [apPatch, patchApply_view, good_view, setLoom_view, later_view, view_when, view_foldl, view_foldFin, apply_ite (view k), ite_self, implies_true, h, List.mem_cons, List.not_mem_nil, or_false, not_or, ne_eq, not_false_eq_true, and_self]
  (repeat' split) <;> first | with_reducible rfl | simp only [patchApply_view, good_view, setLoom_view, later_view, view_when, view_foldl, view_foldFin, apply_ite (view k), ite_self, implies_true, h, List.mem_cons, List.not_mem_nil, or_false, not_or, ne_eq, not_false_eq_true, and_self]

theorem sendData_view {k : Blk} (h : k ∉ ([.hed, .rcd, .pwr, .out] : List Blk)) (a0 : _) (a1 : _) (a2 : _) (a3 : _) (a4 : _) (a5 : _) :
    view k (sendData a0 a1 a2 a3 a4 a5).1 = view k a5 := by
  simp only [List.mem_cons, List.not_mem_nil, or_false, not_or] at h
  simp only [sendData, good_view, bad_view, moverWrite_view, view_when, view_foldl, view_foldFin, apply_ite Prod.fst, apply_ite (view k), ite_self, implies_true, h, List.mem_cons, List.not_mem_nil, or_false, not_or, ne_eq, not_false_eq_true, and_self]
  (repeat' split) <;> first | with_reducible rfl | simp only [good_view, bad_view, moverWrite_view, view_when, view_foldl, view_foldFin, apply_ite Prod.fst, apply_ite (view k), ite_self, implies_true, h, List.mem_cons, List.not_mem_nil, or_false, not_or, ne_eq, not_false_eq_true, and_self]

theorem apPointRead_view {k : Blk} (h : k ∉ ([.hed, .rcd, .pwr, .out] : List Blk)) (a0 : _) (a1 : _) :
    view k (apPointRead a0 a1).1 = view k a1 := by
  simp only [List.mem_cons, List.not_mem_nil, or_false, not_or] at h
  simp only [apPointRead, sendData_view, emit_view, good_view, view_when, view_foldl, view_foldFin, h, List.mem_cons, List.not_mem_nil, or_false, not_or, ne_eq, not_false_eq_true, and_self]

theorem apForce_view {k : Blk} (h : k ∉ ([.hub, .loom, .dbank, .dio, .aio, .mir, .hed, .rcd, .pwr, .out] : List Blk)) (a0 : _) (a1 : _) :
    view k (apForce a0 a1).1 = view k a1 := by
  simp only [List.mem_cons, List.not_mem_nil, or_false, not_or] at h
  simp only [apForce, forcePut_view, publishOne_view, raiseFabric_view, good_view, later_view, view_put_hub, view_when, view_foldl, view_foldFin, apply_ite (view k), ite_self, implies_true, h, List.mem_cons, List.not_mem_nil, or_false, not_or, ne_eq, not_false_eq_true, and_self]
  (repeat' split) <;> first | with_reducible rfl | simp only [forcePut_view, publishOne_view, raiseFabric_view, good_view, later_view, view_put_hub, view_when, view_foldl, view_foldFin, apply_ite (view k), ite_self, implies_true, h, List.mem_cons, List.not_mem_nil, or_false, not_or, ne_eq, not_false_eq_true, and_self]

theorem slotSendAt_view {k : Blk} (h : k ∉ ([.prism] : List Blk)) (a0 : _) (a1 : _) (a2 : _) (a3 : _) :
    view k (slotSendAt a0 a1 a2 a3) = view k a3 := by
  simp only [List.mem_cons, List.not_mem_nil, or_false, not_or] at h
  simp only [slotSendAt, setSlotL_view, view_when, view_foldl, view_foldFin, h, List.mem_cons, List.not_mem_nil, or_false, not_or, ne_eq, not_false_eq_true, and_self]

theorem apLoopCfg_view {k : Blk} (h : k ∉ ([.shu, .zor, .prism] : List Blk)) (a0 : _) (a1 : _) :
    view k (apLoopCfg a0 a1).1 = view k a1 := by
  simp only [List.mem_cons, List.not_mem_nil, or_false, not_or] at h
  simp only [apLoopCfg, slotSendAt_view, chanRecord_view, good_view, view_when, view_foldl, view_foldFin, h, List.mem_cons, List.not_mem_nil, or_false, not_or, ne_eq, not_false_eq_true, and_self]

theorem apLoopCtrl_view {k : Blk} (h : k ∉ ([.prism] : List Blk)) (a0 : _) (a1 : _) :
    view k (apLoopCtrl a0 a1).1 = view k a1 := by
  simp only [List.mem_cons, List.not_mem_nil, or_false, not_or] at h
  simp only [apLoopCtrl, slotSendAt_view, good_view, view_when, view_foldl, view_foldFin, h, List.mem_cons, List.not_mem_nil, or_false, not_or, ne_eq, not_false_eq_true, and_self]

theorem apLoopTable_view {k : Blk} (h : k ∉ ([.shu, .zor, .prism] : List Blk)) (a0 : _) (a1 : _) :
    view k (apLoopTable a0 a1).1 = view k a1 := by
  simp only [List.mem_cons, List.not_mem_nil, or_false, not_or] at h
  simp only [apLoopTable, setSlotL_view, slotSendAt_view, chanRecord_view, good_view, view_when, view_foldl, view_foldFin, h, List.mem_cons, List.not_mem_nil, or_false, not_or, ne_eq, not_false_eq_true, and_self]

theorem apFieldCfg_view {k : Blk} (h : k ∉ ([.hub, .shu, .zor, .prism, .dbank, .dio, .aio, .enc, .can, .mir, .hed, .rcd, .pwr, .out, .free] : List Blk)) (a0 : _) (a1 : _) :
    view k (apFieldCfg a0 a1).1 = view k a1 := by
  simp only [List.mem_cons, List.not_mem_nil, or_false, not_or] at h
  simp only [apFieldCfg, chanReconfig_view, chanRecord_view, good_view, view_when, view_foldl, view_foldFin, h, List.mem_cons, List.not_mem_nil, or_false, not_or, ne_eq, not_false_eq_true, and_self]

theorem apCanCfg_view {k : Blk} (h : k ∉ ([.hub, .shu, .zor, .can, .mir, .hed, .out] : List Blk)) (a0 : _) (a1 : _) :
    view k (apCanCfg a0 a1).1 = view k a1 := by
  simp only [List.mem_cons, List.not_mem_nil, or_false, not_or] at h
  simp only [apCanCfg, canApply_view, chanRecord_view, good_view, view_when, view_foldl, view_foldFin, h, List.mem_cons, List.not_mem_nil, or_false, not_or, ne_eq, not_false_eq_true, and_self]

theorem apCanTx_view {k : Blk} (h : k ∉ ([.can, .hed, .rcd, .pwr] : List Blk)) (a0 : _) (a1 : _) :
    view k (apCanTx a0 a1).1 = view k a1 := by
  simp only [List.mem_cons, List.not_mem_nil, or_false, not_or] at h
  unfold apCanTx
  (repeat' split) <;> simp only [parityFail_view, canLost_view, canPush_view, crossDiscard_view, view_when, view_foldl, view_foldFin, apply_ite Prod.fst, apply_ite (view k), ite_self, implies_true, h, List.mem_cons, List.not_mem_nil, or_false, not_or, ne_eq, not_false_eq_true, and_self]

theorem apCanState_view {k : Blk} (h : k ∉ ([.hub, .shu, .can, .mir, .hed, .rcd, .out, .free] : List Blk)) (a0 : _) (a1 : _) :
    view k (apCanState a0 a1).1 = view k a1 := by
  simp only [List.mem_cons, List.not_mem_nil, or_false, not_or] at h
  unfold apCanState
  (repeat' split) <;> simp only [canRequest_view, later_view, view_when, view_foldl, view_foldFin, apply_ite (view k), ite_self, implies_true, h, List.mem_cons, List.not_mem_nil, or_false, not_or, ne_eq, not_false_eq_true, and_self]

theorem apCanFilter_view {k : Blk} (h : k ∉ ([.hub, .shu, .zor, .can, .mir, .hed, .out] : List Blk)) (a0 : _) (a1 : _) :
    view k (apCanFilter a0 a1).1 = view k a1 := by
  simp only [List.mem_cons, List.not_mem_nil, or_false, not_or] at h
  simp only [apCanFilter, filtLoad_view, setCan_view, chanRecord_view, good_view, view_when, view_foldl, view_foldFin, h, List.mem_cons, List.not_mem_nil, or_false, not_or, ne_eq, not_false_eq_true, and_self]

theorem apStreamPost_view {k : Blk} (h : k ∉ ([.shu, .can, .hed, .rcd, .pwr, .out, .free] : List Blk)) (a0 : _) (a1 : _) :
    view k (apStreamPost a0 a1).1 = view k a1 := by
  simp only [List.mem_cons, List.not_mem_nil, or_false, not_or] at h
  simp only [apStreamPost, canDrain_view, later_view, setStream_view, view_when, view_foldl, view_foldFin, apply_ite (view k), ite_self, implies_true, h, List.mem_cons, List.not_mem_nil, or_false, not_or, ne_eq, not_false_eq_true, and_self]

theorem apStreamDrop_view {k : Blk} (h : k ∉ ([.shu, .hed, .free] : List Blk)) (a0 : _) (a1 : _) :
    view k (apStreamDrop a0 a1).1 = view k a1 := by
  simp only [List.mem_cons, List.not_mem_nil, or_false, not_or] at h
  simp only [apStreamDrop, streamEnd_view, good_view, view_when, view_foldl, view_foldFin, h, List.mem_cons, List.not_mem_nil, or_false, not_or, ne_eq, not_false_eq_true, and_self]

theorem apRecRead_view {k : Blk} (h : k ∉ ([.hed, .rcd, .pwr, .out] : List Blk)) (a0 : _) (a1 : _) :
    view k (apRecRead a0 a1).1 = view k a1 := by
  simp only [List.mem_cons, List.not_mem_nil, or_false, not_or] at h
  simp only [apRecRead, sendData_view, emit_view, good_view, view_when, view_foldl, view_foldFin, h, List.mem_cons, List.not_mem_nil, or_false, not_or, ne_eq, not_false_eq_true, and_self]

theorem apRecFreeze_view {k : Blk} (h : k ∉ ([.rcd] : List Blk)) (a0 : _) (a1 : _) :
    view k (apRecFreeze a0 a1).1 = view k a1 := by
  simp only [List.mem_cons, List.not_mem_nil, or_false, not_or] at h
  simp only [apRecFreeze, good_view, freezeDrop_view, freezeTake_view, view_when, view_foldl, view_foldFin, apply_ite (view k), ite_self, implies_true, h, List.mem_cons, List.not_mem_nil, or_false, not_or, ne_eq, not_false_eq_true, and_self]

theorem apRecClear_view {k : Blk} (h : k ∉ ([.shu, .hed, .rcd, .pwr, .out, .free] : List Blk)) (a0 : _) (a1 : _) :
    view k (apRecClear a0 a1).1 = view k a1 := by
  simp only [List.mem_cons, List.not_mem_nil, or_false, not_or] at h
  simp only [apRecClear, recorderClear_view, good_view, view_when, view_foldl, view_foldFin, h, List.mem_cons, List.not_mem_nil, or_false, not_or, ne_eq, not_false_eq_true, and_self]

theorem apBrkReq_view {k : Blk} (h : k ∉ ([.hub, .prism, .brk, .mir, .hed, .rcd, .pwr, .out] : List Blk)) (a0 : _) (a1 : _) :
    view k (apBrkReq a0 a1).1 = view k a1 := by
  simp only [List.mem_cons, List.not_mem_nil, or_false, not_or] at h
  unfold apBrkReq
  (repeat' split) <;> simp only [brkReqTest_view, brkReqRelease_view, brkReqEngage_view, good_view, view_when, view_foldl, view_foldFin, apply_ite (view k), ite_self, implies_true, h, List.mem_cons, List.not_mem_nil, or_false, not_or, ne_eq, not_false_eq_true, and_self]

theorem brkWrong_view {k : Blk} (h : k ∉ ([.brk, .rcd] : List Blk)) (a0 : _) (a1 : _) :
    view k (brkWrong a0 a1) = view k a1 := by
  simp only [List.mem_cons, List.not_mem_nil, or_false, not_or] at h
  simp only [brkWrong, raise_view, view_put_brk, view_when, view_foldl, view_foldFin, apply_ite (view k), ite_self, implies_true, h, List.mem_cons, List.not_mem_nil, or_false, not_or, ne_eq, not_false_eq_true, and_self]

theorem brkNewPw_view {k : Blk} (h : k ∉ ([.brk, .free] : List Blk)) (a0 : _) (a1 : _) :
    view k (brkNewPw a0 a1) = view k a1 := by
  simp only [List.mem_cons, List.not_mem_nil, or_false, not_or] at h
  simp only [brkNewPw, drawn_view, view_put_brk, view_when, view_foldl, view_foldFin, h, List.mem_cons, List.not_mem_nil, or_false, not_or, ne_eq, not_false_eq_true, and_self]

theorem apBrkCfg_view {k : Blk} (h : k ∉ ([.hub, .brk, .mir, .hed, .rcd, .out, .free] : List Blk)) (a0 : _) (a1 : _) :
    view k (apBrkCfg a0 a1).1 = view k a1 := by
  simp only [List.mem_cons, List.not_mem_nil, or_false, not_or] at h
  simp only [apBrkCfg, brkCfgApply_view, good_view, brkNewPw_view, brkLogAdd_view, brkWrong_view, view_put_brk, view_when, view_foldl, view_foldFin, apply_ite (view k), ite_self, implies_true, h, List.mem_cons, List.not_mem_nil, or_false, not_or, ne_eq, not_false_eq_true, and_self]
  (repeat' split) <;> first | with_reducible rfl | simp only [brkCfgApply_view, good_view, brkNewPw_view, brkLogAdd_view, brkWrong_view, view_put_brk, view_when, view_foldl, view_foldFin, apply_ite (view k), ite_self, implies_true, h, List.mem_cons, List.not_mem_nil, or_false, not_or, ne_eq, not_false_eq_true, and_self]

theorem apPanel_view {k : Blk} (h : k ∉ ([.shu, .pan, .free] : List Blk)) (a0 : _) (a1 : _) :
    view k (apPanel a0 a1).1 = view k a1 := by
  simp only [List.mem_cons, List.not_mem_nil, or_false, not_or] at h
  unfold apPanel
  (repeat' split) <;> simp only [panLoad_view, good_view, later_view, completeOpt_view, view_put_pan, view_when, view_foldl, view_foldFin, apply_ite (view k), ite_self, implies_true, h, List.mem_cons, List.not_mem_nil, or_false, not_or, ne_eq, not_false_eq_true, and_self]

theorem apMirRole_view {k : Blk} (h : k ∉ ([.hub, .shu, .loom, .zor, .prism, .dbank, .dio, .aio, .enc, .can, .brk, .mir, .hed, .rcd, .pwr, .out, .free] : List Blk)) (a0 : _) (a1 : _) :
    view k (apMirRole a0 a1).1 = view k a1 := by
  simp only [List.mem_cons, List.not_mem_nil, or_false, not_or] at h
  unfold apMirRole
  (repeat' split) <;> simp only [handOver_view, later_view, sendCmd_view, complete_view, aloneStopped_view, syncBegin_view, toSyncing_view, view_put_mir, view_when, view_foldl, view_foldFin, apply_ite (view k), ite_self, implies_true, h, List.mem_cons, List.not_mem_nil, or_false, not_or, ne_eq, not_false_eq_true, and_self]

theorem onHandle_view {k : Blk} (c : Call) (f : Call → State → Done) (s : State) (hf : view k (f c s).1 = view k s) :
    view k (onHandle c f s).1 = view k s := by
  unfold onHandle
  split
  · exact hf
  · rfl

theorem apply_view {k : Blk} (h : k ∉ ([.hub, .shu, .loom, .zor, .prism, .dbank, .dio, .aio, .enc, .can, .brk, .mir, .hed, .rcd, .pan, .pwr, .out, .free] : List Blk)) (a0 : _) (a1 : _) :
    view k (apply a0 a1).1 = view k a1 := by
  simp only [List.mem_cons, List.not_mem_nil, or_false, not_or] at h
  unfold apply
  (repeat' split) <;> simp only [apMirRole_view, apPanel_view, apBrkCfg_view, apBrkReq_view, apRecClear_view, apRecFreeze_view, onHandle_view, apRecRead_view, apStreamDrop_view, apStreamPost_view, apCanFilter_view, apCanState_view, apCanTx_view, apCanCfg_view, apFieldCfg_view, apLoopTable_view, apLoopCtrl_view, apLoopCfg_view, apForce_view, apPointRead_view, apPatch_view, apTask_view, apSwap_view, apCheck_view, apStage_view, good_view, apDestroy_view, apCreate_view, view_when, view_foldl, view_foldFin, apply_ite (view k), ite_self, implies_true, h, List.mem_cons, List.not_mem_nil, or_false, not_or, ne_eq, not_false_eq_true, and_self]

end Sys2Proof.Laws
end

