-- ==== Sys2Proof/Laws/FrameSyncData.lean ====
section
/-! SUPPORT. What each operation of Machine/SyncData.lean keeps: every block outside its footprint. -/

set_option Elab.async false

set_option linter.unusedSimpArgs false
set_option linter.unusedVariables false
set_option linter.unreachableTactic false
set_option linter.unusedTactic false
set_option linter.unnecessarySeqFocus false

namespace Sys2Proof.Laws

open Machine

theorem chanDrop_view {k : Blk} (h : k ∉ ([.hub, .shu, .loom, .zor, .prism, .dbank, .dio, .aio, .enc, .can, .brk, .mir, .hed, .rcd, .pwr, .out, .free] : List Blk)) (a0 : _) (a1 : _) :
    view k (chanDrop a0 a1) = view k a1 := by
  simp only [List.mem_cons, List.not_mem_nil, or_false, not_or] at h
  unfold chanDrop
  (repeat' split) <;> simp only [chanGone_view, setHandle_view, chanClose_view, view_put_zor, view_when, view_foldl, view_foldFin, apply_ite (view k), ite_self, implies_true, h, List.mem_cons, List.not_mem_nil, or_false, not_or, ne_eq, not_false_eq_true, and_self]

theorem chanKeep_view {k : Blk} (h : k ∉ ([.hub, .shu, .zor, .prism, .can, .mir, .hed, .out] : List Blk)) (a0 : _) (a1 : _) :
    view k (chanKeep a0 a1) = view k a1 := by
  simp only [List.mem_cons, List.not_mem_nil, or_false, not_or] at h
  simp only [chanKeep, filtLoad_view, setCan_view, setSlotL_view, setHandle_view, view_put_zor, view_when, view_foldl, view_foldFin, apply_ite (view k), ite_self, implies_true, h, List.mem_cons, List.not_mem_nil, or_false, not_or, ne_eq, not_false_eq_true, and_self]
  (repeat' split) <;> first | with_reducible rfl | simp only [filtLoad_view, setCan_view, setSlotL_view, setHandle_view, view_put_zor, view_when, view_foldl, view_foldFin, apply_ite (view k), ite_self, implies_true, h, List.mem_cons, List.not_mem_nil, or_false, not_or, ne_eq, not_false_eq_true, and_self]

theorem syncBrk_view {k : Blk} (h : k ∉ ([.hub, .brk, .mir, .hed, .rcd, .out] : List Blk)) (a0 : _) (a1 : _) :
    view k (syncBrk a0 a1) = view k a1 := by
  simp only [List.mem_cons, List.not_mem_nil, or_false, not_or] at h
  simp only [syncBrk, setBrk_view, brkCfgApply_view, brkLogAdd_view, view_put_brk, view_when, view_foldl, view_foldFin, apply_ite (view k), ite_self, implies_true, h, List.mem_cons, List.not_mem_nil, or_false, not_or, ne_eq, not_false_eq_true, and_self]

theorem genTake_view {k : Blk} (h : k ∉ ([.shu] : List Blk)) (a0 : _) (a1 : _) :
    view k (genTake a0 a1) = view k a1 := by
  simp only [List.mem_cons, List.not_mem_nil, or_false, not_or] at h
  simp only [genTake, setHandle_view, view_when, view_foldl, view_foldFin, apply_ite (view k), ite_self, implies_true, h, List.mem_cons, List.not_mem_nil, or_false, not_or, ne_eq, not_false_eq_true, and_self]

theorem syncConfig_view {k : Blk} (h : k ∉ ([.hub, .shu, .loom, .zor, .prism, .dbank, .dio, .aio, .enc, .can, .brk, .mir, .hed, .rcd, .pwr, .out, .free] : List Blk)) (a0 : _) (a1 : _) :
    view k (syncConfig a0 a1) = view k a1 := by
  simp only [List.mem_cons, List.not_mem_nil, or_false, not_or] at h
  simp only [syncConfig, view_put_shu, genTake_view, syncBrk_view, setCan_view, chanMake_view, chanKeep_view, setZor_view, chanDrop_view, view_put_hub, view_when, view_foldl, view_foldFin, apply_ite (view k), ite_self, implies_true, h, List.mem_cons, List.not_mem_nil, or_false, not_or, ne_eq, not_false_eq_true, and_self]

theorem taskTake_view {k : Blk} (h : k ∉ ([.hub, .loom, .mir, .out] : List Blk)) (a0 : _) (a1 : _) (a2 : _) (a3 : _) :
    view k (taskTake a0 a1 a2 a3) = view k a3 := by
  simp only [List.mem_cons, List.not_mem_nil, or_false, not_or] at h
  simp only [taskTake, drainHub_view, setLoom_view, view_when, view_foldl, view_foldFin, h, List.mem_cons, List.not_mem_nil, or_false, not_or, ne_eq, not_false_eq_true, and_self]

theorem prismTake_view {k : Blk} (h : k ∉ ([.prism] : List Blk)) (a0 : _) (a1 : _) (a2 : _) (a3 : _) :
    view k (prismTake a0 a1 a2 a3) = view k a3 := by
  simp only [List.mem_cons, List.not_mem_nil, or_false, not_or] at h
  simp only [prismTake, setPrism_view, view_when, view_foldl, view_foldFin, apply_ite (view k), ite_self, implies_true, h, List.mem_cons, List.not_mem_nil, or_false, not_or, ne_eq, not_false_eq_true, and_self]

theorem pointsTake_view {k : Blk} (h : k ∉ ([.hub, .dbank, .dio, .aio, .mir, .hed, .rcd, .pwr, .out] : List Blk)) (a0 : _) (a1 : _) :
    view k (pointsTake a0 a1) = view k a1 := by
  simp only [List.mem_cons, List.not_mem_nil, or_false, not_or] at h
  simp only [pointsTake, publishPts_view, view_put_mir, view_when, view_foldl, view_foldFin, h, List.mem_cons, List.not_mem_nil, or_false, not_or, ne_eq, not_false_eq_true, and_self]

theorem rdState_view {k : Blk} (h : k ∉ ([.hub, .loom, .prism, .dbank, .dio, .aio, .mir, .hed, .rcd, .pwr, .out] : List Blk)) (l : List Int) (p : (Nat × (State → State)) × List Int)
    (e : rdState l = some p) (t : State) : view k (p.1.2 t) = view k t := by
  simp only [List.mem_cons, List.not_mem_nil, or_false, not_or] at h
  have hm : ∀ t x, view k { t with mir := x } = view k t := fun t x => view_put_mir (by simp only [h, List.mem_cons, List.not_mem_nil, or_false, not_or, ne_eq, not_false_eq_true, and_self]) t x
  unfold rdState at e
  simp only [Option.bind_eq_bind, Option.bind_eq_some_iff] at e
  obtain ⟨a, -, e⟩ := e
  (repeat' split at e) <;> simp only [Option.bind_eq_some_iff, reduceCtorEq] at e
  · obtain ⟨b, -, e⟩ := e
    cases e
    exact pointsTake_view (by simp only [h, List.mem_cons, List.not_mem_nil, or_false, not_or, ne_eq, not_false_eq_true, and_self]) _ _
  · obtain ⟨b, -, c, -, d, -, e⟩ := e
    cases e
    exact taskTake_view (by simp only [h, List.mem_cons, List.not_mem_nil, or_false, not_or, ne_eq, not_false_eq_true, and_self]) _ _ _ _
  · obtain ⟨b, -, c, -, d, -, e⟩ := e
    cases e
    exact prismTake_view (by simp only [h, List.mem_cons, List.not_mem_nil, or_false, not_or, ne_eq, not_false_eq_true, and_self]) _ _ _ _

theorem rdStates_view {k : Blk} (h : k ∉ ([.hub, .loom, .prism, .dbank, .dio, .aio, .mir, .hed, .rcd, .pwr, .out] : List Blk)) (n : Nat) (l : List Int) (fs : List (Nat × (State → State)))
    (e : rdStates n l = some fs) : ∀ p ∈ fs, ∀ t, view k (p.2 t) = view k t := by
  induction n generalizing l fs with
  | zero => cases l <;> simp [rdStates] at e; subst e; simp
  | succ n ih =>
    cases l with
    | nil => simp [rdStates] at e; subst e; simp
    | cons x l =>
      unfold rdStates at e
      split at e
      · cases e
      · rename_i f r hr
        simp only [Option.map_eq_some_iff] at e
        obtain ⟨g, hg, rfl⟩ := e
        intro p hp t
        rcases List.mem_cons.mp hp with rfl | hp
        · exact rdState_view h _ _ hr t
        · exact ih _ _ hg p hp t

theorem syncSend_view {k : Blk} (h : k ∉ ([.mir, .out] : List Blk)) (a0 : _) (a1 : _) :
    view k (syncSend a0 a1) = view k a1 := by
  simp only [List.mem_cons, List.not_mem_nil, or_false, not_or] at h
  simp only [syncSend, syncSeg_view, view_when, view_foldl, view_foldFin, apply_ite (view k), ite_self, implies_true, h, List.mem_cons, List.not_mem_nil, or_false, not_or, ne_eq, not_false_eq_true, and_self]

end Sys2Proof.Laws
end

