-- ==== Sys2Proof/Laws/FramePower.lean ====
section
/-! SUPPORT. What each operation of Machine/Power.lean keeps: every block outside its footprint. -/

set_option Elab.async false

set_option linter.unusedSimpArgs false
set_option linter.unusedVariables false
set_option linter.unreachableTactic false
set_option linter.unusedTactic false
set_option linter.unnecessarySeqFocus false

namespace Sys2Proof.Laws

open Machine

theorem setPwr_view {k : Blk} (h : k ∉ ([.pwr] : List Blk)) (a0 : _) (a1 : _) :
    view k (setPwr a0 a1) = view k a1 := by
  simp only [List.mem_cons, List.not_mem_nil, or_false, not_or] at h
  simp only [setPwr, view_put_pwr, view_when, view_foldl, view_foldFin, h, List.mem_cons, List.not_mem_nil, or_false, not_or, ne_eq, not_false_eq_true, and_self]

theorem resetState_view {k : Blk} (h : k ∉ ([.mem, .hub, .shu, .loom, .tbase, .zor, .prism, .win, .dbank, .dio, .aio, .enc, .can, .eth, .tim, .brk, .mir, .hed, .sec, .svc, .rcd, .pan, .pwr, .codes, .free] : List Blk)) (s : State) :
    view k (resetState s) = view k s := by
  cases k <;> first | exact absurd (by decide) h | rfl

theorem linkForget_view {k : Blk} (h : k ∉ ([.shu] : List Blk)) (a0 : _) :
    view k (linkForget a0) = view k a0 := by
  simp only [List.mem_cons, List.not_mem_nil, or_false, not_or] at h
  simp only [linkForget, view_put_shu, view_when, view_foldl, view_foldFin, h, List.mem_cons, List.not_mem_nil, or_false, not_or, ne_eq, not_false_eq_true, and_self]

theorem unitRecord_view {k : Blk} (h : k ∉ ([.rcd, .pwr] : List Blk)) (a0 : _) (a1 : _) (a2 : _) :
    view k (unitRecord a0 a1 a2) = view k a2 := by
  simp only [List.mem_cons, List.not_mem_nil, or_false, not_or] at h
  simp only [unitRecord, setPwr_view, raiseOrLate_view, view_when, view_foldl, view_foldFin, apply_ite (view k), ite_self, implies_true, h, List.mem_cons, List.not_mem_nil, or_false, not_or, ne_eq, not_false_eq_true, and_self]

theorem haltEnter_view {k : Blk} (h : k ∉ ([.shu, .mir, .rcd, .pwr] : List Blk)) (a0 : _) :
    view k (haltEnter a0) = view k a0 := by
  simp only [List.mem_cons, List.not_mem_nil, or_false, not_or] at h
  simp only [haltEnter, raiseOrLate_view, recorderRestart_view, setPwr_view, view_put_shu, view_put_shu_mir, view_when, view_foldl, view_foldFin, apply_ite (view k), ite_self, implies_true, h, List.mem_cons, List.not_mem_nil, or_false, not_or, ne_eq, not_false_eq_true, and_self]

theorem haltNow_view {k : Blk} (h : k ∉ ([.hub, .shu, .loom, .prism, .dbank, .dio, .aio, .can, .brk, .mir, .hed, .rcd, .pwr, .out, .free] : List Blk)) (a0 : _) :
    view k (haltNow a0) = view k a0 := by
  simp only [List.mem_cons, List.not_mem_nil, or_false, not_or] at h
  simp only [haltNow, vector64_view, haltEnter_view, fieldOff_view, tasksStop_view, raiseOrLate_view, setPwr_view, view_put_shu, view_put_shu_mir, view_when, view_foldl, view_foldFin, h, List.mem_cons, List.not_mem_nil, or_false, not_or, ne_eq, not_false_eq_true, and_self]

theorem startUp_view {k : Blk} (h : k ∉ ([.brk, .svc, .rcd, .pan, .pwr, .out, .free] : List Blk)) (a0 : _) :
    view k (startUp a0) = view k a0 := by
  simp only [List.mem_cons, List.not_mem_nil, or_false, not_or] at h
  simp only [startUp, usbAttach_view, brkRestart_view, panStart_view, setPwr_view, view_put_svc, view_when, view_foldl, view_foldFin, h, List.mem_cons, List.not_mem_nil, or_false, not_or, ne_eq, not_false_eq_true, and_self]

theorem warmReset_view {k : Blk} (h : k ∉ ([.mem, .hub, .shu, .loom, .tbase, .zor, .prism, .win, .dbank, .dio, .aio, .enc, .can, .eth, .tim, .brk, .mir, .hed, .sec, .svc, .rcd, .pan, .pwr, .codes, .out, .free] : List Blk)) (a0 : _) :
    view k (warmReset a0) = view k a0 := by
  simp only [List.mem_cons, List.not_mem_nil, or_false, not_or] at h
  simp only [warmReset, haltEnter_view, startUp_view, haltNow_view, setPwr_view, vector64_view, resetState_view, view_when, view_foldl, view_foldFin, apply_ite (view k), ite_self, implies_true, h, List.mem_cons, List.not_mem_nil, or_false, not_or, ne_eq, not_false_eq_true, and_self]

theorem stepThree_view {k : Blk} (h : k ∉ ([.mem, .hub, .shu, .loom, .tbase, .zor, .prism, .win, .dbank, .dio, .aio, .enc, .can, .eth, .tim, .brk, .mir, .hed, .sec, .svc, .rcd, .pan, .pwr, .codes, .out, .free] : List Blk)) (a0 : _) (a1 : _) (a2 : _) :
    view k (stepThree a0 a1 a2) = view k a2 := by
  simp only [List.mem_cons, List.not_mem_nil, or_false, not_or] at h
  simp only [stepThree, warmReset_view, handOver_view, setPwr_view, view_put_mir, view_when, view_foldl, view_foldFin, apply_ite (view k), ite_self, implies_true, h, List.mem_cons, List.not_mem_nil, or_false, not_or, ne_eq, not_false_eq_true, and_self]

theorem fenceClose_view {k : Blk} (h : k ∉ ([.tim, .hed] : List Blk)) (a0 : _) (a1 : _) :
    view k (fenceClose a0 a1) = view k a1 := by
  simp only [List.mem_cons, List.not_mem_nil, or_false, not_or] at h
  unfold fenceClose
  dsimp only
  rw [view_foldFin fun t i => view_when t fun t => bobAbandon_view (by simp only [h, List.mem_cons, List.not_mem_nil, or_false, not_or, ne_eq, not_false_eq_true, and_self]) _ t,
    view_when (h := fun t => timSnapshot_view (by simp only [h, List.mem_cons, List.not_mem_nil, or_false, not_or, ne_eq, not_false_eq_true, and_self]) t)]

theorem loomReinit_view {k : Blk} (h : k ∉ ([.hub, .shu, .loom, .dbank, .dio, .aio, .mir, .hed, .rcd, .pwr, .out, .free] : List Blk)) (a0 : _) (a1 : _) :
    view k (loomReinit a0 a1) = view k a1 := by
  simp only [List.mem_cons, List.not_mem_nil, or_false, not_or] at h
  simp only [loomReinit, drainHub_view, engineLoad_view, setLoom_view, taskLeave_view, view_when, view_foldl, view_foldFin, apply_ite (view k), ite_self, implies_true, h, List.mem_cons, List.not_mem_nil, or_false, not_or, ne_eq, not_false_eq_true, and_self]
  (repeat' split) <;> first | with_reducible rfl | simp only [drainHub_view, engineLoad_view, setLoom_view, taskLeave_view, view_when, view_foldl, view_foldFin, apply_ite (view k), ite_self, implies_true, h, List.mem_cons, List.not_mem_nil, or_false, not_or, ne_eq, not_false_eq_true, and_self]

theorem prismReinit_view {k : Blk} (h : k ∉ ([.hub, .loom, .prism, .dbank, .dio, .aio, .can, .mir, .hed, .rcd, .pwr, .out] : List Blk)) (a0 : _) (a1 : _) :
    view k (prismReinit a0 a1) = view k a1 := by
  simp only [List.mem_cons, List.not_mem_nil, or_false, not_or] at h
  simp only [prismReinit, setPrism_view, prismFail_view, view_when, view_foldl, view_foldFin, apply_ite (view k), ite_self, implies_true, h, List.mem_cons, List.not_mem_nil, or_false, not_or, ne_eq, not_false_eq_true, and_self]

theorem hk0Reinit_view {k : Blk} (h : k ∉ ([.shu, .zor] : List Blk)) (a0 : _) :
    view k (hk0Reinit a0) = view k a0 := by
  simp only [List.mem_cons, List.not_mem_nil, or_false, not_or] at h
  simp only [hk0Reinit, pruneStreams_view, view_put_shu, view_put_shu_zor, view_when, view_foldl, view_foldFin, h, List.mem_cons, List.not_mem_nil, or_false, not_or, ne_eq, not_false_eq_true, and_self]

theorem hk1Reinit_view {k : Blk} (h : k ∉ ([.shu, .sec, .svc, .rcd] : List Blk)) (a0 : _) :
    view k (hk1Reinit a0) = view k a0 := by
  simp only [List.mem_cons, List.not_mem_nil, or_false, not_or] at h
  simp only [hk1Reinit, recorderRestart_view, setSess_view, svcEnd_view, view_put_sec, view_when, view_foldl, view_foldFin, h, List.mem_cons, List.not_mem_nil, or_false, not_or, ne_eq, not_false_eq_true, and_self]

theorem dramReinit_view {k : Blk} (h : k ∉ ([.shu, .zor, .can, .hed, .free] : List Blk)) (a0 : _) :
    view k (dramReinit a0) = view k a0 := by
  simp only [List.mem_cons, List.not_mem_nil, or_false, not_or] at h
  simp only [dramReinit, setZor_view, complete_view, streamEnd_view, view_put_can, view_when, view_foldl, view_foldFin, apply_ite (view k), ite_self, implies_true, h, List.mem_cons, List.not_mem_nil, or_false, not_or, ne_eq, not_false_eq_true, and_self]

theorem ethReinit_view {k : Blk} (h : k ∉ ([.eth, .tim, .rcd] : List Blk)) (a0 : _) :
    view k (ethReinit a0) = view k a0 := by
  simp only [List.mem_cons, List.not_mem_nil, or_false, not_or] at h
  unfold ethReinit
  (repeat' split) <;> simp only [setEth_view, ethCfgPut_view, timCtrlPut_view, timSrvPut_view, view_put_eth, view_put_eth_tim, view_when, view_foldl, view_foldFin, apply_ite (view k), ite_self, implies_true, h, List.mem_cons, List.not_mem_nil, or_false, not_or, ne_eq, not_false_eq_true, and_self]

theorem canReinit_view {k : Blk} (h : k ∉ ([.hub, .shu, .can, .mir, .hed, .out, .free] : List Blk)) (a0 : _) :
    view k (canReinit a0) = view k a0 := by
  simp only [List.mem_cons, List.not_mem_nil, or_false, not_or] at h
  simp only [canReinit, filtLoad_view, canDestroy_view, canCreate_view, setCan_view, view_when, view_foldl, view_foldFin, apply_ite (view k), ite_self, implies_true, h, List.mem_cons, List.not_mem_nil, or_false, not_or, ne_eq, not_false_eq_true, and_self]

theorem encReinit_view {k : Blk} (h : k ∉ ([.hub, .enc, .mir, .hed, .out] : List Blk)) (a0 : _) :
    view k (encReinit a0) = view k a0 := by
  simp only [List.mem_cons, List.not_mem_nil, or_false, not_or] at h
  simp only [encReinit, encDestroy_view, encApply_view, view_when, view_foldl, view_foldFin, apply_ite (view k), ite_self, implies_true, h, List.mem_cons, List.not_mem_nil, or_false, not_or, ne_eq, not_false_eq_true, and_self]

theorem fieldReinit_view {k : Blk} (h : k ∉ ([.hub, .shu, .dbank, .dio, .aio, .mir, .hed, .rcd, .pwr, .out, .free] : List Blk)) (a0 : _) :
    view k (fieldReinit a0) = view k a0 := by
  simp only [List.mem_cons, List.not_mem_nil, or_false, not_or] at h
  simp only [fieldReinit, aioDestroy_view, aioApply_view, dioDestroy_view, dioApply_view, view_when, view_foldl, view_foldFin, apply_ite (view k), ite_self, implies_true, h, List.mem_cons, List.not_mem_nil, or_false, not_or, ne_eq, not_false_eq_true, and_self]

theorem meReinit_view {k : Blk} (h : k ∉ ([.mir] : List Blk)) (a0 : _) :
    view k (meReinit a0) = view k a0 := by
  simp only [List.mem_cons, List.not_mem_nil, or_false, not_or] at h
  simp only [meReinit, view_put_mir, view_when, view_foldl, view_foldFin, h, List.mem_cons, List.not_mem_nil, or_false, not_or, ne_eq, not_false_eq_true, and_self]

theorem reinitEffect_view {k : Blk} (h : k ∉ ([.hub, .shu, .loom, .zor, .prism, .dbank, .dio, .aio, .enc, .can, .eth, .tim, .mir, .hed, .sec, .svc, .rcd, .pan, .pwr, .out, .free] : List Blk)) (a0 : _) (a1 : _) :
    view k (reinitEffect a0 a1) = view k a1 := by
  simp only [List.mem_cons, List.not_mem_nil, or_false, not_or] at h
  unfold reinitEffect
  (repeat' split) <;> simp only [fieldReinit_view, meReinit_view, setPwr_view, panStart_view, panCtrlPut_view, encReinit_view, canReinit_view, ethReinit_view, dramReinit_view, hk1Reinit_view, hk0Reinit_view, prismReinit_view, loomReinit_view, view_when, view_foldl, view_foldFin, apply_ite (view k), ite_self, implies_true, h, List.mem_cons, List.not_mem_nil, or_false, not_or, ne_eq, not_false_eq_true, and_self]

theorem funcReinit_view {k : Blk} (h : k ∉ ([.hub, .shu, .loom, .zor, .prism, .dbank, .dio, .aio, .enc, .can, .eth, .tim, .mir, .hed, .sec, .svc, .rcd, .pan, .pwr, .out, .free] : List Blk)) (a0 : _) (a1 : _) :
    view k (funcReinit a0 a1) = view k a1 := by
  simp only [List.mem_cons, List.not_mem_nil, or_false, not_or] at h
  simp only [funcReinit, fenceClose_view, hedOwnerReset_view, raiseOrLate_view, faultTell_view, setPwr_view, crossReset_view, reinitEffect_view, unitFault_view, view_put_mir, view_when, view_foldl, view_foldFin, apply_ite (view k), ite_self, implies_true, h, List.mem_cons, List.not_mem_nil, or_false, not_or, ne_eq, not_false_eq_true, and_self]

theorem ladder_view {k : Blk} (h : k ∉ ([.mem, .hub, .shu, .loom, .tbase, .zor, .prism, .win, .dbank, .dio, .aio, .enc, .can, .eth, .tim, .brk, .mir, .hed, .sec, .svc, .rcd, .pan, .pwr, .codes, .out, .free] : List Blk)) (a0 : _) (a1 : _) (a2 : _) :
    view k (ladder a0 a1 a2) = view k a2 := by
  simp only [List.mem_cons, List.not_mem_nil, or_false, not_or] at h
  simp only [ladder, standbyLeaves_view, stepThree_view, toSyncing_view, funcReinit_view, view_when, view_foldl, view_foldFin, apply_ite (view k), ite_self, implies_true, h, List.mem_cons, List.not_mem_nil, or_false, not_or, ne_eq, not_false_eq_true, and_self]

theorem ladderRun_view {k : Blk} (h : k ∉ ([.mem, .hub, .shu, .loom, .tbase, .zor, .prism, .win, .dbank, .dio, .aio, .enc, .can, .eth, .tim, .brk, .mir, .hed, .sec, .svc, .rcd, .pan, .pwr, .codes, .out, .free] : List Blk)) (a0 : _) (a1 : _) :
    view k (ladderRun a0 a1) = view k a1 := by
  simp only [List.mem_cons, List.not_mem_nil, or_false, not_or] at h
  simp only [ladderRun, ladder_view, setPwr_view, view_when, view_foldl, view_foldFin, apply_ite (view k), ite_self, implies_true, h, List.mem_cons, List.not_mem_nil, or_false, not_or, ne_eq, not_false_eq_true, and_self]

theorem unitOut_view {k : Blk} (h : k ∉ ([.pwr] : List Blk)) (a0 : _) (a1 : _) :
    view k (unitOut a0 a1) = view k a1 := by
  simp only [List.mem_cons, List.not_mem_nil, or_false, not_or] at h
  simp only [unitOut, setPwr_view, view_when, view_foldl, view_foldFin, h, List.mem_cons, List.not_mem_nil, or_false, not_or, ne_eq, not_false_eq_true, and_self]

theorem bankFail_view {k : Blk} (h : k ∉ ([.hed, .pwr] : List Blk)) (a0 : _) (a1 : _) :
    view k (bankFail a0 a1) = view k a1 := by
  simp only [List.mem_cons, List.not_mem_nil, or_false, not_or] at h
  simp only [bankFail, unitOut_view, setHed_view, view_when, view_foldl, view_foldFin, h, List.mem_cons, List.not_mem_nil, or_false, not_or, ne_eq, not_false_eq_true, and_self]

theorem unitFail_view {k : Blk} (h : k ∉ ([.hub, .shu, .loom, .prism, .dbank, .dio, .aio, .can, .brk, .mir, .hed, .rcd, .pwr, .out, .free] : List Blk)) (a0 : _) (a1 : _) :
    view k (unitFail a0 a1) = view k a1 := by
  simp only [List.mem_cons, List.not_mem_nil, or_false, not_or] at h
  unfold unitFail
  (repeat' split) <;> simp only [bankFail_view, unitOut_view, vector64_view, haltNow_view, setHed_view, setPrism_view, setLoom_view, setPwr_view, view_when, view_foldl, view_foldFin, apply_ite (view k), ite_self, implies_true, h, List.mem_cons, List.not_mem_nil, or_false, not_or, ne_eq, not_false_eq_true, and_self]

theorem unitBack_view {k : Blk} (h : k ∉ ([.mem, .hub, .shu, .loom, .zor, .prism, .dbank, .dio, .aio, .enc, .can, .eth, .tim, .mir, .hed, .sec, .svc, .rcd, .pan, .pwr, .out, .free] : List Blk)) (a0 : _) (a1 : _) :
    view k (unitBack a0 a1) = view k a1 := by
  simp only [List.mem_cons, List.not_mem_nil, or_false, not_or] at h
  simp only [unitBack, bankZero_view, reinitEffect_view, view_when, view_foldl, view_foldFin, apply_ite (view k), ite_self, implies_true, h, List.mem_cons, List.not_mem_nil, or_false, not_or, ne_eq, not_false_eq_true, and_self]

theorem shutdownSave_view {k : Blk} (h : k ∉ ([.zor, .rcd, .pan] : List Blk)) (a0 : _) :
    view k (shutdownSave a0) = view k a0 := by
  simp only [List.mem_cons, List.not_mem_nil, or_false, not_or] at h
  simp only [shutdownSave, panFinish_view, panStop_view, retainSave_view, view_put_rcd, view_when, view_foldl, view_foldFin, apply_ite (view k), ite_self, implies_true, h, List.mem_cons, List.not_mem_nil, or_false, not_or, ne_eq, not_false_eq_true, and_self]

theorem shutdownBegin_view {k : Blk} (h : k ∉ ([.hub, .shu, .loom, .zor, .prism, .dbank, .dio, .aio, .can, .brk, .mir, .hed, .rcd, .pwr, .out, .free] : List Blk)) (a0 : _) (a1 : _) :
    view k (shutdownBegin a0 a1) = view k a1 := by
  simp only [List.mem_cons, List.not_mem_nil, or_false, not_or] at h
  simp only [shutdownBegin, fieldOff_view, setLoom_view, stopNow_view, setPwr_view, view_when, view_foldl, view_foldFin, apply_ite (view k), ite_self, implies_true, h, List.mem_cons, List.not_mem_nil, or_false, not_or, ne_eq, not_false_eq_true, and_self]

theorem ringsOff_view {k : Blk} (h : k ∉ ([.shu, .out] : List Blk)) (a0 : _) :
    view k (ringsOff a0) = view k a0 := by
  simp only [List.mem_cons, List.not_mem_nil, or_false, not_or] at h
  simp only [ringsOff, disableRing_view, vector64_view, view_put_shu, view_when, view_foldl, view_foldFin, apply_ite (view k), ite_self, implies_true, h, List.mem_cons, List.not_mem_nil, or_false, not_or, ne_eq, not_false_eq_true, and_self]

theorem shutdownEnd_view {k : Blk} (h : k ∉ ([.mem, .hub, .shu, .loom, .tbase, .zor, .prism, .win, .dbank, .dio, .aio, .enc, .can, .eth, .tim, .brk, .mir, .hed, .sec, .svc, .rcd, .pan, .pwr, .codes, .out, .free] : List Blk)) (a0 : _) (a1 : _) :
    view k (shutdownEnd a0 a1) = view k a1 := by
  simp only [List.mem_cons, List.not_mem_nil, or_false, not_or] at h
  simp only [shutdownEnd, fenceClose_view, linkForget_view, setPwr_view, startUp_view, resetState_view, view_when, view_foldl, view_foldFin, apply_ite (view k), ite_self, implies_true, h, List.mem_cons, List.not_mem_nil, or_false, not_or, ne_eq, not_false_eq_true, and_self]

theorem execUnitTestDone_view {k : Blk} (h : k ∉ ([.mem, .hub, .shu, .loom, .tbase, .zor, .prism, .win, .dbank, .dio, .aio, .enc, .can, .eth, .tim, .brk, .mir, .hed, .sec, .svc, .rcd, .pan, .pwr, .codes, .out, .free] : List Blk)) (a0 : _) (a1 : _) :
    viewR k (execUnitTestDone a0 a1) = some (view k a1) := by
  simp only [List.mem_cons, List.not_mem_nil, or_false, not_or] at h
  unfold execUnitTestDone
  (repeat' split) <;> simp only [fenceClose_view, unitFail_view, unitRecord_view, setPwr_view, unitBack_view, shutdownEnd_view, ringsOff_view, shutdownSave_view, view_when, view_foldl, view_foldFin, viewR_ok, apply_ite (view k), ite_self, implies_true, h, List.mem_cons, List.not_mem_nil, or_false, not_or, ne_eq, not_false_eq_true, and_self]

theorem bstWrite_view {k : Blk} (h : k ∉ ([.loom, .prism, .tim, .hed, .pwr] : List Blk)) (a0 : _) (a1 : _) :
    view k (bstWrite a0 a1) = view k a1 := by
  simp only [List.mem_cons, List.not_mem_nil, or_false, not_or] at h
  simp only [bstWrite, fenceClose_view, setPrism_view, setLoom_view, setPwr_view, view_when, view_foldl, view_foldFin, apply_ite (view k), ite_self, implies_true, h, List.mem_cons, List.not_mem_nil, or_false, not_or, ne_eq, not_false_eq_true, and_self]
  (repeat' split) <;> first | with_reducible rfl | simp only [fenceClose_view, setPrism_view, setLoom_view, setPwr_view, view_when, view_foldl, view_foldFin, apply_ite (view k), ite_self, implies_true, h, List.mem_cons, List.not_mem_nil, or_false, not_or, ne_eq, not_false_eq_true, and_self]

theorem execRollingBistBankDone_view {k : Blk} (h : k ∉ ([.mem, .hed, .rcd, .pwr] : List Blk)) (a0 : _) (a1 : _) (a2 : _) :
    viewR k (execRollingBistBankDone a0 a1 a2) = some (view k a2) := by
  simp only [List.mem_cons, List.not_mem_nil, or_false, not_or] at h
  simp only [execRollingBistBankDone, bankFail_view, unitFail_view, unitRecord_view, bankZero_view, bistReturn_view, setPwr_view, view_when, view_foldl, view_foldFin, viewR_ok, apply_ite (view k), ite_self, implies_true, h, List.mem_cons, List.not_mem_nil, or_false, not_or, ne_eq, not_false_eq_true, and_self]

theorem tselWrite_view {k : Blk} (h : k ∉ ([.pwr] : List Blk)) (a0 : _) (a1 : _) :
    view k (tselWrite a0 a1) = view k a1 := by
  simp only [List.mem_cons, List.not_mem_nil, or_false, not_or] at h
  simp only [tselWrite, setPwr_view, view_when, view_foldl, view_foldFin, h, List.mem_cons, List.not_mem_nil, or_false, not_or, ne_eq, not_false_eq_true, and_self]

theorem pwrRefuse_view {k : Blk} (h : k ∉ ([.pwr] : List Blk)) (a0 : _) (a1 : _) :
    view k (pwrRefuse a0 a1) = view k a1 := by
  simp only [List.mem_cons, List.not_mem_nil, or_false, not_or] at h
  simp only [pwrRefuse, setPwr_view, view_when, view_foldl, view_foldFin, h, List.mem_cons, List.not_mem_nil, or_false, not_or, ne_eq, not_false_eq_true, and_self]

theorem shutdownAsk_view {k : Blk} (h : k ∉ ([.hub, .shu, .loom, .zor, .prism, .dbank, .dio, .aio, .can, .brk, .mir, .hed, .rcd, .pwr, .out, .free] : List Blk)) (a0 : _) (a1 : _) (a2 : _) :
    view k (shutdownAsk a0 a1 a2) = view k a2 := by
  simp only [List.mem_cons, List.not_mem_nil, or_false, not_or] at h
  simp only [shutdownAsk, shutdownBegin_view, setPwr_view, handOver_view, pwrRefuse_view, view_when, view_foldl, view_foldFin, apply_ite (view k), ite_self, implies_true, h, List.mem_cons, List.not_mem_nil, or_false, not_or, ne_eq, not_false_eq_true, and_self]

theorem pwrReq_view {k : Blk} (h : k ∉ ([.mem, .hub, .shu, .loom, .tbase, .zor, .prism, .win, .dbank, .dio, .aio, .enc, .can, .eth, .tim, .brk, .mir, .hed, .sec, .svc, .rcd, .pan, .pwr, .codes, .out, .free] : List Blk)) (a0 : _) (a1 : _) (a2 : _) :
    view k (pwrReq a0 a1 a2) = view k a2 := by
  simp only [List.mem_cons, List.not_mem_nil, or_false, not_or] at h
  simp only [pwrReq, standbyLeaves_view, shutdownAsk_view, setPwr_view, stepThree_view, toSyncing_view, funcReinit_view, pwrRefuse_view, view_when, view_foldl, view_foldFin, apply_ite (view k), ite_self, implies_true, h, List.mem_cons, List.not_mem_nil, or_false, not_or, ne_eq, not_false_eq_true, and_self]
  (repeat' split) <;> first | with_reducible rfl | simp only [standbyLeaves_view, shutdownAsk_view, setPwr_view, stepThree_view, toSyncing_view, funcReinit_view, pwrRefuse_view, view_when, view_foldl, view_foldFin, apply_ite (view k), ite_self, implies_true, h, List.mem_cons, List.not_mem_nil, or_false, not_or, ne_eq, not_false_eq_true, and_self]

theorem execPowerGood_view {k : Blk} (h : k ∉ ([.mem, .hub, .shu, .loom, .tbase, .zor, .prism, .win, .dbank, .dio, .aio, .enc, .can, .eth, .tim, .brk, .mir, .hed, .sec, .svc, .rcd, .pan, .pwr, .side, .codes, .out, .free] : List Blk)) (a0 : _) (a1 : _) (a2 : _) (a3 : _) :
    viewR k (execPowerGood a0 a1 a2 a3) = some (view k a3) := by
  simp only [List.mem_cons, List.not_mem_nil, or_false, not_or] at h
  simp only [execPowerGood, linkForget_view, setPwr_view, startUp_view, resetState_view, view_put_svc, view_put_svc_side, view_when, view_foldl, view_foldFin, viewR_ok, apply_ite (view k), ite_self, implies_true, h, List.mem_cons, List.not_mem_nil, or_false, not_or, ne_eq, not_false_eq_true, and_self]

theorem imageLoad_view {k : Blk} (h : k ∉ ([.hub, .shu, .loom, .zor, .prism, .dbank, .dio, .aio, .enc, .can, .eth, .tim, .mir, .hed, .sec, .rcd, .pan, .pwr, .codes, .out, .free] : List Blk)) (s : _) :
    view k (imageLoad s) = view k s := by
  simp only [List.mem_cons, List.not_mem_nil, or_false, not_or] at h
  unfold imageLoad
  split
  · simp only [paramsApply_view, chansRestore_view, engineLoad_view, hedStart_view, setZor_view, raise_view, view_put_hub, h, List.mem_cons, List.not_mem_nil, or_false, not_or, ne_eq, not_false_eq_true, and_self]
  · simp only [paramsApply_view, chansRestore_view, engineLoad_view, hedStart_view, setZor_view, raise_view, view_put_hub, h, List.mem_cons, List.not_mem_nil, or_false, not_or, ne_eq, not_false_eq_true, and_self]
  · rename_i img _ _
    dsimp only
    rw [chansRestore_view (by simp only [h, List.mem_cons, List.not_mem_nil, or_false, not_or, ne_eq, not_false_eq_true, and_self]), paramsApply_view (by simp only [h, List.mem_cons, List.not_mem_nil, or_false, not_or, ne_eq, not_false_eq_true, and_self]), view_put_hub (by simp only [h, List.mem_cons, List.not_mem_nil, or_false, not_or, ne_eq, not_false_eq_true, and_self]),
      view_foldFin (fun t n => engineLoad_view (by simp only [h, List.mem_cons, List.not_mem_nil, or_false, not_or, ne_eq, not_false_eq_true, and_self]) _ _ _ t),
      view_foldFin (fun t b => view_when t fun t => hedStart_view (by simp only [h, List.mem_cons, List.not_mem_nil, or_false, not_or, ne_eq, not_false_eq_true, and_self]) _ _ t), setZor_view (by simp only [h, List.mem_cons, List.not_mem_nil, or_false, not_or, ne_eq, not_false_eq_true, and_self])]

theorem execStartupImageLoad_view {k : Blk} (h : k ∉ ([.hub, .shu, .loom, .zor, .prism, .dbank, .dio, .aio, .enc, .can, .eth, .tim, .mir, .hed, .sec, .rcd, .pan, .pwr, .codes, .out, .free] : List Blk)) (s : _) :
    viewR k (execStartupImageLoad s) = some (view k s) := by
  simp only [List.mem_cons, List.not_mem_nil, or_false, not_or] at h
  unfold execStartupImageLoad
  rw [viewR_ok]
  split
  · dsimp only
    rw [setPwr_view (by simp only [h, List.mem_cons, List.not_mem_nil, or_false, not_or, ne_eq, not_false_eq_true, and_self]), view_foldl (fun t e => raise_view (by simp only [h, List.mem_cons, List.not_mem_nil, or_false, not_or, ne_eq, not_false_eq_true, and_self]) _ _ _ t), recorderRestart_view (by simp only [h, List.mem_cons, List.not_mem_nil, or_false, not_or, ne_eq, not_false_eq_true, and_self]),
      imageLoad_view (by simp only [h, List.mem_cons, List.not_mem_nil, or_false, not_or, ne_eq, not_false_eq_true, and_self]), view_foldFin (fun t b => view_when t fun t => setHed_view (by simp only [h, List.mem_cons, List.not_mem_nil, or_false, not_or, ne_eq, not_false_eq_true, and_self]) _ _ t)]
  · rfl

theorem execFeedLost_view {k : Blk} (h : k ∉ ([.rcd, .pwr] : List Blk)) (a0 : _) (a1 : _) (a2 : _) :
    viewR k (execFeedLost a0 a1 a2) = some (view k a2) := by
  simp only [List.mem_cons, List.not_mem_nil, or_false, not_or] at h
  simp only [execFeedLost, setPwr_view, raiseOrLate_view, view_when, view_foldl, view_foldFin, viewR_ok, apply_ite (view k), ite_self, implies_true, h, List.mem_cons, List.not_mem_nil, or_false, not_or, ne_eq, not_false_eq_true, and_self]

theorem execFeedInterruption_view {k : Blk} (h : k ∉ ([.pwr] : List Blk)) (a0 : _) (a1 : _) (a2 : _) :
    viewR k (execFeedInterruption a0 a1 a2) = some (view k a2) := by
  simp only [List.mem_cons, List.not_mem_nil, or_false, not_or] at h
  simp only [execFeedInterruption, setPwr_view, view_when, view_foldl, view_foldFin, viewR_ok, apply_ite (view k), ite_self, implies_true, h, List.mem_cons, List.not_mem_nil, or_false, not_or, ne_eq, not_false_eq_true, and_self]

theorem execFeedRestored_view {k : Blk} (h : k ∉ ([.rcd, .pwr] : List Blk)) (a0 : _) (a1 : _) (a2 : _) (a3 : _) :
    viewR k (execFeedRestored a0 a1 a2 a3) = some (view k a3) := by
  simp only [List.mem_cons, List.not_mem_nil, or_false, not_or] at h
  unfold execFeedRestored
  (repeat' split) <;> simp only [raiseOrLate_view, setPwr_view, view_when, view_foldl, view_foldFin, viewR_ok, apply_ite (view k), ite_self, implies_true, h, List.mem_cons, List.not_mem_nil, or_false, not_or, ne_eq, not_false_eq_true, and_self]

theorem outputsDead_view {k : Blk} (h : k ∉ ([.dio, .can, .brk] : List Blk)) (a0 : _) :
    view k (outputsDead a0) = view k a0 := by
  simp only [List.mem_cons, List.not_mem_nil, or_false, not_or] at h
  simp only [outputsDead, view_put_dio, view_put_dio_can, view_put_dio_can_brk, view_when, view_foldl, view_foldFin, h, List.mem_cons, List.not_mem_nil, or_false, not_or, ne_eq, not_false_eq_true, and_self]

theorem execPowerFailWarning_view {k : Blk} (h : k ∉ ([.zor, .dio, .can, .brk, .mir, .svc, .rcd, .pan, .pwr, .free] : List Blk)) (a0 : _) :
    viewR k (execPowerFailWarning a0) = some (view k a0) := by
  simp only [List.mem_cons, List.not_mem_nil, or_false, not_or] at h
  have e : ∀ (s : State) (x y : _), view k { s with mir := x, svc := y } = view k s :=
    fun s x y => (view_put_svc (s := { s with mir := x }) (by simp only [h, List.mem_cons, List.not_mem_nil, or_false, not_or, ne_eq, not_false_eq_true, and_self]) y).trans (view_put_mir (by simp only [h, List.mem_cons, List.not_mem_nil, or_false, not_or, ne_eq, not_false_eq_true, and_self]) s x)
  simp only [execPowerFailWarning, setPwr_view, panStop_view, shutdownSave_view, outputsDead_view, e, view_when, view_foldl, view_foldFin, viewR_ok, apply_ite (view k), ite_self, implies_true, h, List.mem_cons, List.not_mem_nil, or_false, not_or, ne_eq, not_false_eq_true, and_self]

theorem execCoreRegulatorFailure_view {k : Blk} (h : k ∉ ([.dbank, .dio, .aio, .can, .brk, .mir, .svc, .pwr] : List Blk)) (a0 : _) :
    viewR k (execCoreRegulatorFailure a0) = some (view k a0) := by
  simp only [List.mem_cons, List.not_mem_nil, or_false, not_or] at h
  have e : ∀ (s : State) (a b c d x : _), view k { s with svc := a, mir := b, brk := c, dbank := d, aio := x } = view k s :=
    fun s a b c d x => (view_put_svc (s := { s with mir := b, brk := c, dbank := d, aio := x }) (by simp only [h, List.mem_cons, List.not_mem_nil, or_false, not_or, ne_eq, not_false_eq_true, and_self]) a).trans
      (view_put_dbank_aio_brk_mir (by simp only [h, List.mem_cons, List.not_mem_nil, or_false, not_or, ne_eq, not_false_eq_true, and_self]) (by simp only [h, List.mem_cons, List.not_mem_nil, or_false, not_or, ne_eq, not_false_eq_true, and_self]) (by simp only [h, List.mem_cons, List.not_mem_nil, or_false, not_or, ne_eq, not_false_eq_true, and_self]) (by simp only [h, List.mem_cons, List.not_mem_nil, or_false, not_or, ne_eq, not_false_eq_true, and_self]) s d x c b)
  simp only [execCoreRegulatorFailure, setPwr_view, outputsDead_view, e, view_when, view_foldl, view_foldFin, viewR_ok, apply_ite (view k), ite_self, implies_true, h, List.mem_cons, List.not_mem_nil, or_false, not_or, ne_eq, not_false_eq_true, and_self]

theorem execPowerCycle_view {k : Blk} (h : k ∉ ([.mem, .hub, .shu, .loom, .tbase, .zor, .prism, .win, .dbank, .dio, .aio, .enc, .can, .eth, .tim, .brk, .mir, .hed, .sec, .svc, .rcd, .pan, .pwr, .side, .codes, .free] : List Blk)) (a0 : _) :
    viewR k (execPowerCycle a0) = some (view k a0) := by
  simp only [List.mem_cons, List.not_mem_nil, or_false, not_or] at h
  simp only [execPowerCycle, linkForget_view, resetState_view, view_put_svc, view_put_svc_pwr, view_put_svc_pwr_side, view_when, view_foldl, view_foldFin, viewR_ok, h, List.mem_cons, List.not_mem_nil, or_false, not_or, ne_eq, not_false_eq_true, and_self]

theorem execCarrierReset_view {k : Blk} (h : k ∉ ([.mem, .hub, .shu, .loom, .tbase, .zor, .prism, .win, .dbank, .dio, .aio, .enc, .can, .eth, .tim, .brk, .mir, .hed, .sec, .svc, .rcd, .pan, .pwr, .side, .codes, .out, .free] : List Blk)) (a0 : _) :
    viewR k (execCarrierReset a0) = some (view k a0) := by
  simp only [List.mem_cons, List.not_mem_nil, or_false, not_or] at h
  simp only [execCarrierReset, setPwr_view, warmReset_view, view_put_side, view_when, view_foldl, view_foldFin, viewR_ok, apply_ite (view k), ite_self, implies_true, h, List.mem_cons, List.not_mem_nil, or_false, not_or, ne_eq, not_false_eq_true, and_self]

theorem execCarrierResetRelease_view {k : Blk} (h : k ∉ ([.shu, .brk, .mir, .svc, .rcd, .pan, .pwr, .side, .out, .free] : List Blk)) (a0 : _) :
    viewR k (execCarrierResetRelease a0) = some (view k a0) := by
  simp only [List.mem_cons, List.not_mem_nil, or_false, not_or] at h
  simp only [execCarrierResetRelease, haltEnter_view, startUp_view, haltNow_view, view_put_side, view_when, view_foldl, view_foldFin, viewR_ok, apply_ite (view k), ite_self, implies_true, h, List.mem_cons, List.not_mem_nil, or_false, not_or, ne_eq, not_false_eq_true, and_self]

theorem execVioAuxOutOfRange_view {k : Blk} (h : k ∉ ([.shu, .brk, .mir, .svc, .rcd, .pan, .pwr, .side, .out, .free] : List Blk)) (a0 : _) :
    viewR k (execVioAuxOutOfRange a0) = some (view k a0) := by
  simp only [List.mem_cons, List.not_mem_nil, or_false, not_or] at h
  simp only [execVioAuxOutOfRange, haltEnter_view, startUp_view, haltNow_view, view_put_side, view_when, view_foldl, view_foldFin, viewR_ok, apply_ite (view k), ite_self, implies_true, h, List.mem_cons, List.not_mem_nil, or_false, not_or, ne_eq, not_false_eq_true, and_self]

theorem execVioAuxRestored_view {k : Blk} (h : k ∉ ([.side] : List Blk)) (a0 : _) :
    viewR k (execVioAuxRestored a0) = some (view k a0) := by
  simp only [List.mem_cons, List.not_mem_nil, or_false, not_or] at h
  simp only [execVioAuxRestored, view_put_side, view_when, view_foldl, view_foldFin, viewR_ok, h, List.mem_cons, List.not_mem_nil, or_false, not_or, ne_eq, not_false_eq_true, and_self]

theorem execIndicatorTestEnd_view {k : Blk} (h : k ∉ ([.side] : List Blk)) (a0 : _) :
    viewR k (execIndicatorTestEnd a0) = some (view k a0) := by
  simp only [List.mem_cons, List.not_mem_nil, or_false, not_or] at h
  simp only [execIndicatorTestEnd, view_put_side, view_when, view_foldl, view_foldFin, viewR_ok, h, List.mem_cons, List.not_mem_nil, or_false, not_or, ne_eq, not_false_eq_true, and_self]

theorem execHkWatchdog_view {k : Blk} (h : k ∉ ([.hub, .shu, .loom, .zor, .prism, .dbank, .dio, .aio, .enc, .can, .eth, .tim, .mir, .hed, .sec, .svc, .rcd, .pan, .pwr, .out, .free] : List Blk)) (a0 : _) (a1 : _) :
    viewR k (execHkWatchdog a0 a1) = some (view k a1) := by
  simp only [List.mem_cons, List.not_mem_nil, or_false, not_or] at h
  simp only [execHkWatchdog, drawn_view, reinitEffect_view, climb_view, crossEpoch_view, raiseFabric_view, unitFault_view, ladder_view, raiseOrLate_view, view_put_hed, view_when, view_foldl, view_foldFin, viewR_ok, apply_ite (view k), ite_self, implies_true, h, List.mem_cons, List.not_mem_nil, or_false, not_or, ne_eq, not_false_eq_true, and_self]

theorem execMeWatchdog_view {k : Blk} (h : k ∉ ([.mem, .hub, .shu, .loom, .tbase, .zor, .prism, .win, .dbank, .dio, .aio, .enc, .can, .eth, .tim, .brk, .mir, .hed, .sec, .svc, .rcd, .pan, .pwr, .codes, .out, .free] : List Blk)) (a0 : _) :
    viewR k (execMeWatchdog a0) = some (view k a0) := by
  simp only [List.mem_cons, List.not_mem_nil, or_false, not_or] at h
  simp only [execMeWatchdog, unitFault_view, setPwr_view, warmReset_view, view_when, view_foldl, view_foldFin, viewR_ok, apply_ite (view k), ite_self, implies_true, h, List.mem_cons, List.not_mem_nil, or_false, not_or, ne_eq, not_false_eq_true, and_self]

theorem execBmpWatchdog_view {k : Blk} (h : k ∉ ([.mem, .hub, .shu, .loom, .tbase, .zor, .prism, .win, .dbank, .dio, .aio, .enc, .can, .eth, .tim, .brk, .mir, .hed, .sec, .svc, .rcd, .pan, .pwr, .codes, .out, .free] : List Blk)) (a0 : _) :
    viewR k (execBmpWatchdog a0) = some (view k a0) := by
  simp only [List.mem_cons, List.not_mem_nil, or_false, not_or] at h
  simp only [execBmpWatchdog, setPwr_view, stepThree_view, brkDisc_view, setBrk_view, brkReport_view, view_when, view_foldl, view_foldFin, viewR_ok, apply_ite (view k), ite_self, implies_true, h, List.mem_cons, List.not_mem_nil, or_false, not_or, ne_eq, not_false_eq_true, and_self]

theorem execPllLockLoss_view {k : Blk} (h : k ∉ ([.mem, .hub, .shu, .loom, .tbase, .zor, .prism, .win, .dbank, .dio, .aio, .enc, .can, .eth, .tim, .brk, .mir, .hed, .sec, .svc, .rcd, .pan, .pwr, .codes, .out, .free] : List Blk)) (a0 : _) (a1 : _) :
    viewR k (execPllLockLoss a0 a1) = some (view k a1) := by
  simp only [List.mem_cons, List.not_mem_nil, or_false, not_or] at h
  simp only [execPllLockLoss, stepThree_view, setPwr_view, warmReset_view, view_put_mir, view_when, view_foldl, view_foldFin, viewR_ok, apply_ite (view k), ite_self, implies_true, h, List.mem_cons, List.not_mem_nil, or_false, not_or, ne_eq, not_false_eq_true, and_self]

theorem execCrystalFailure_view {k : Blk} (h : k ∉ ([.rcd, .pwr] : List Blk)) (a0 : _) :
    viewR k (execCrystalFailure a0) = some (view k a0) := by
  simp only [List.mem_cons, List.not_mem_nil, or_false, not_or] at h
  simp only [execCrystalFailure, setPwr_view, raiseOrLate_view, view_when, view_foldl, view_foldFin, viewR_ok, apply_ite (view k), ite_self, implies_true, h, List.mem_cons, List.not_mem_nil, or_false, not_or, ne_eq, not_false_eq_true, and_self]

theorem execDomainSupplyLoss_view {k : Blk} (h : k ∉ ([.dio, .can, .brk, .mir, .svc, .pwr] : List Blk)) (a0 : _) (a1 : _) :
    viewR k (execDomainSupplyLoss a0 a1) = some (view k a1) := by
  simp only [List.mem_cons, List.not_mem_nil, or_false, not_or] at h
  unfold execDomainSupplyLoss
  (repeat' split) <;> simp only [view_put_svc, setBrk_view, setPwr_view, outputsDead_view, view_put_mir, view_when, view_foldl, view_foldFin, viewR_ok, apply_ite (view k), ite_self, implies_true, h, List.mem_cons, List.not_mem_nil, or_false, not_or, ne_eq, not_false_eq_true, and_self]

theorem execDramUncorrectableError_view {k : Blk} (h : k ∉ ([.mem, .hub, .shu, .loom, .tbase, .zor, .prism, .win, .dbank, .dio, .aio, .enc, .can, .eth, .tim, .brk, .mir, .hed, .sec, .svc, .rcd, .pan, .pwr, .codes, .out, .free] : List Blk)) (a0 : _) :
    viewR k (execDramUncorrectableError a0) = some (view k a0) := by
  simp only [List.mem_cons, List.not_mem_nil, or_false, not_or] at h
  simp only [execDramUncorrectableError, unitFault_view, ladder_view, view_when, view_foldl, view_foldFin, viewR_ok, apply_ite (view k), ite_self, implies_true, h, List.mem_cons, List.not_mem_nil, or_false, not_or, ne_eq, not_false_eq_true, and_self]

theorem execFieldIoLogicFault_view {k : Blk} (h : k ∉ ([.mem, .hub, .shu, .loom, .tbase, .zor, .prism, .win, .dbank, .dio, .aio, .enc, .can, .eth, .tim, .brk, .mir, .hed, .sec, .svc, .rcd, .pan, .pwr, .codes, .out, .free] : List Blk)) (a0 : _) :
    viewR k (execFieldIoLogicFault a0) = some (view k a0) := by
  simp only [List.mem_cons, List.not_mem_nil, or_false, not_or] at h
  simp only [execFieldIoLogicFault, unitFault_view, stepThree_view, view_when, view_foldl, view_foldFin, viewR_ok, apply_ite (view k), ite_self, implies_true, h, List.mem_cons, List.not_mem_nil, or_false, not_or, ne_eq, not_false_eq_true, and_self]

theorem execCdcEpoch_view {k : Blk} (h : k ∉ ([.hed, .rcd, .pwr] : List Blk)) (a0 : _) (a1 : _) (a2 : _) :
    viewR k (execCdcEpoch a0 a1 a2) = some (view k a2) := by
  simp only [List.mem_cons, List.not_mem_nil, or_false, not_or] at h
  simp only [execCdcEpoch, crossEpoch_view, raiseFabric_view, climb_view, view_put_hed, view_when, view_foldl, view_foldFin, viewR_ok, apply_ite (view k), ite_self, implies_true, h, List.mem_cons, List.not_mem_nil, or_false, not_or, ne_eq, not_false_eq_true, and_self]

end Sys2Proof.Laws
end

