-- ==== Sys2Proof/Laws/FrameRegisters.lean ====
section
/-! SUPPORT. What each operation of Machine/Registers.lean keeps: every block outside its footprint. -/

set_option Elab.async false

set_option linter.unusedSimpArgs false
set_option linter.unusedVariables false
set_option linter.unreachableTactic false
set_option linter.unusedTactic false
set_option linter.unnecessarySeqFocus false

namespace Sys2Proof.Laws

open Machine

theorem regClear_view {k : Blk} (h : k ∉ ([.loom, .prism, .dbank, .dio, .aio, .enc, .can, .eth, .brk, .mir, .hed, .sec, .rcd, .pan, .pwr] : List Blk)) (a0 : _) (a1 : _) :
    view k (regClear a0 a1) = view k a1 := by
  simp only [List.mem_cons, List.not_mem_nil, or_false, not_or] at h
  unfold regClear
  (repeat' split) <;> simp only [setPan_view, setBrk_view, setEth_view, setCan_view, setEnc_view, setAio_view, setDio_view, setBank_view, setPrism_view, setLoom_view, setPwr_view, view_put_sec, view_put_rcd, view_put_mir, view_put_brk, view_put_hed, view_when, view_foldl, view_foldFin, apply_ite (view k), ite_self, implies_true, h, List.mem_cons, List.not_mem_nil, or_false, not_or, ne_eq, not_false_eq_true, and_self]

theorem rpsecPut_view {k : Blk} (h : k ∉ ([.shu] : List Blk)) (a0 : _) (a1 : _) (a2 : _) :
    view k (rpsecPut a0 a1 a2) = view k a2 := by
  simp only [List.mem_cons, List.not_mem_nil, or_false, not_or] at h
  simp only [rpsecPut, view_put_shu, view_when, view_foldl, view_foldFin, h, List.mem_cons, List.not_mem_nil, or_false, not_or, ne_eq, not_false_eq_true, and_self]

theorem sessCtrl_view {k : Blk} (h : k ∉ ([.shu, .free] : List Blk)) (a0 : _) (a1 : _) :
    view k (sessCtrl a0 a1) = view k a1 := by
  simp only [List.mem_cons, List.not_mem_nil, or_false, not_or] at h
  simp only [sessCtrl, sessClose_view, sessOpen_view, view_when, view_foldl, view_foldFin, apply_ite (view k), ite_self, implies_true, h, List.mem_cons, List.not_mem_nil, or_false, not_or, ne_eq, not_false_eq_true, and_self]

theorem putShu_view {k : Blk} (h : k ∉ ([.shu, .free] : List Blk)) (a0 : _) (a1 : _) (a2 : _) :
    view k (putShu a0 a1 a2) = view k a2 := by
  simp only [List.mem_cons, List.not_mem_nil, or_false, not_or] at h
  unfold putShu
  (repeat' split) <;> simp only [sessResp_view, sessCtrl_view, rpsecPut_view, view_put_shu, view_when, view_foldl, view_foldFin, apply_ite (view k), ite_self, implies_true, h, List.mem_cons, List.not_mem_nil, or_false, not_or, ne_eq, not_false_eq_true, and_self]

theorem putPwr_view {k : Blk} (h : k ∉ ([.mem, .hub, .shu, .loom, .tbase, .zor, .prism, .win, .dbank, .dio, .aio, .enc, .can, .eth, .tim, .brk, .mir, .hed, .sec, .svc, .rcd, .pan, .pwr, .codes, .out, .free] : List Blk)) (a0 : _) (a1 : _) (a2 : _) (a3 : _) :
    view k (putPwr a0 a1 a2 a3) = view k a3 := by
  simp only [List.mem_cons, List.not_mem_nil, or_false, not_or] at h
  unfold putPwr
  (repeat' split) <;> simp only [setPwr_view, tselWrite_view, pwrReq_view, view_when, view_foldl, view_foldFin, apply_ite (view k), ite_self, implies_true, h, List.mem_cons, List.not_mem_nil, or_false, not_or, ne_eq, not_false_eq_true, and_self]

theorem putHed_view {k : Blk} (h : k ∉ ([.hed, .free] : List Blk)) (a0 : _) (a1 : _) (a2 : _) :
    view k (putHed a0 a1 a2) = view k a2 := by
  simp only [List.mem_cons, List.not_mem_nil, or_false, not_or] at h
  unfold putHed
  (repeat' split) <;> simp only [setHed_view, hedRequest_view, view_put_hed, view_when, view_foldl, view_foldFin, apply_ite (view k), ite_self, implies_true, h, List.mem_cons, List.not_mem_nil, or_false, not_or, ne_eq, not_false_eq_true, and_self]

theorem putDio_view {k : Blk} (h : k ∉ ([.hub, .dbank, .dio, .mir, .hed, .out] : List Blk)) (a0 : _) (a1 : _) (a2 : _) :
    view k (putDio a0 a1 a2) = view k a2 := by
  simp only [List.mem_cons, List.not_mem_nil, or_false, not_or] at h
  unfold putDio
  (repeat' split) <;> simp only [dioRelease_view, view_when, view_foldl, view_foldFin, apply_ite (view k), ite_self, implies_true, h, List.mem_cons, List.not_mem_nil, or_false, not_or, ne_eq, not_false_eq_true, and_self]

theorem putEth_view {k : Blk} (h : k ∉ ([.eth, .tim, .hed, .rcd] : List Blk)) (a0 : _) (a1 : _) (a2 : _) :
    view k (putEth a0 a1 a2) = view k a2 := by
  simp only [List.mem_cons, List.not_mem_nil, or_false, not_or] at h
  unfold putEth
  (repeat' split) <;> simp only [timSrvPut_view, timAdjWrite_view, setTim_view, timSnapWrite_view, timCtrlPut_view, ethCfgPut_view, view_when, view_foldl, view_foldFin, apply_ite (view k), ite_self, implies_true, h, List.mem_cons, List.not_mem_nil, or_false, not_or, ne_eq, not_false_eq_true, and_self]

theorem putLou_view {k : Blk} (h : k ∉ ([.rcd] : List Blk)) (a0 : _) (a1 : _) (a2 : _) :
    view k (putLou a0 a1 a2) = view k a2 := by
  simp only [List.mem_cons, List.not_mem_nil, or_false, not_or] at h
  unfold putLou
  (repeat' split) <;> simp only [louLoad_view, view_put_rcd, view_when, view_foldl, view_foldFin, apply_ite (view k), ite_self, implies_true, h, List.mem_cons, List.not_mem_nil, or_false, not_or, ne_eq, not_false_eq_true, and_self]

theorem regionPut_view {k : Blk} (h : k ∉ ([.sec] : List Blk)) (a0 : _) (a1 : _) :
    view k (regionPut a0 a1) = view k a1 := by
  simp only [List.mem_cons, List.not_mem_nil, or_false, not_or] at h
  simp only [regionPut, view_put_sec, view_when, view_foldl, view_foldFin, apply_ite (view k), ite_self, implies_true, h, List.mem_cons, List.not_mem_nil, or_false, not_or, ne_eq, not_false_eq_true, and_self]

theorem putSec_view {k : Blk} (h : k ∉ ([.hub, .shu, .loom, .zor, .prism, .dbank, .dio, .aio, .can, .brk, .mir, .hed, .sec, .svc, .rcd, .pwr, .out, .free] : List Blk)) (a0 : _) (a1 : _) (a2 : _) :
    view k (putSec a0 a1 a2) = view k a2 := by
  simp only [List.mem_cons, List.not_mem_nil, or_false, not_or] at h
  unfold putSec
  (repeat' split) <;> simp only [regionPut_view, blkwPut_view, lcRequest_view, view_put_sec, view_when, view_foldl, view_foldFin, apply_ite (view k), ite_self, implies_true, h, List.mem_cons, List.not_mem_nil, or_false, not_or, ne_eq, not_false_eq_true, and_self]

theorem regPut_view {k : Blk} (h : k ∉ ([.mem, .hub, .shu, .loom, .tbase, .zor, .prism, .win, .dbank, .dio, .aio, .enc, .can, .eth, .tim, .brk, .mir, .hed, .sec, .svc, .rcd, .pan, .pwr, .codes, .out, .free] : List Blk)) (a0 : _) (a1 : _) (a2 : _) (a3 : _) :
    view k (regPut a0 a1 a2 a3) = view k a3 := by
  simp only [List.mem_cons, List.not_mem_nil, or_false, not_or] at h
  unfold regPut
  (repeat' split) <;> simp only [bstWrite_view, putSec_view, panCtrlPut_view, putLou_view, brkLogLoad_view, putEth_view, encQerrDrop_view, putDio_view, putHed_view, slotWindow_view, setLoom_view, putShu_view, putPwr_view, view_put_mir, view_when, view_foldl, view_foldFin, apply_ite (view k), ite_self, implies_true, h, List.mem_cons, List.not_mem_nil, or_false, not_or, ne_eq, not_false_eq_true, and_self]

theorem measured_view {k : Blk} (h : k ∉ ([.dbank, .dio, .hed, .pwr, .free] : List Blk)) (a0 : _) (a1 : _) :
    view k (measured a0 a1) = view k a1 := by
  simp only [List.mem_cons, List.not_mem_nil, or_false, not_or] at h
  simp only [measured, setHed_view, setDio_view, drawn_view, setBank_view, setPwr_view, view_when, view_foldl, view_foldFin, apply_ite (view k), ite_self, implies_true, h, List.mem_cons, List.not_mem_nil, or_false, not_or, ne_eq, not_false_eq_true, and_self]

theorem regRead_view {k : Blk} (h : k ∉ ([.loom, .prism, .dbank, .dio, .aio, .enc, .can, .eth, .brk, .mir, .hed, .sec, .rcd, .pan, .pwr, .free] : List Blk)) (a0 : _) (a1 : _) (a2 : _) :
    view k (regRead a0 a1 a2).2 = view k a2 := by
  simp only [List.mem_cons, List.not_mem_nil, or_false, not_or] at h
  unfold regRead
  (repeat' split) <;> simp only [regClear_view, measured_view, view_when, view_foldl, view_foldFin, apply_ite (view k), ite_self, implies_true, h, List.mem_cons, List.not_mem_nil, or_false, not_or, ne_eq, not_false_eq_true, and_self]

theorem regWrite_view {k : Blk} (h : k ∉ ([.mem, .hub, .shu, .loom, .tbase, .zor, .prism, .win, .dbank, .dio, .aio, .enc, .can, .eth, .tim, .brk, .mir, .hed, .sec, .svc, .rcd, .pan, .pwr, .codes, .out, .free] : List Blk)) (a0 : _) (a1 : _) (a2 : _) (a3 : _) :
    view k (regWrite a0 a1 a2 a3) = view k a3 := by
  simp only [List.mem_cons, List.not_mem_nil, or_false, not_or] at h
  unfold regWrite
  (repeat' split) <;> simp only [raise_view, regPut_view, view_when, view_foldl, view_foldFin, apply_ite (view k), ite_self, implies_true, h, List.mem_cons, List.not_mem_nil, or_false, not_or, ne_eq, not_false_eq_true, and_self]

theorem barRead_view {k : Blk} (h : k ∉ ([.loom, .prism, .dbank, .dio, .aio, .enc, .can, .eth, .brk, .mir, .hed, .sec, .rcd, .pan, .pwr, .out, .free] : List Blk)) (a0 : _) (a1 : _) (a2 : _) :
    view k (barRead a0 a1 a2) = view k a2 := by
  simp only [List.mem_cons, List.not_mem_nil, or_false, not_or] at h
  simp only [barRead, emit_view, regRead_view, view_when, view_foldl, view_foldFin, apply_ite (view k), ite_self, implies_true, h, List.mem_cons, List.not_mem_nil, or_false, not_or, ne_eq, not_false_eq_true, and_self]
  (repeat' split) <;> first | with_reducible rfl | simp only [emit_view, regRead_view, view_when, view_foldl, view_foldFin, apply_ite (view k), ite_self, implies_true, h, List.mem_cons, List.not_mem_nil, or_false, not_or, ne_eq, not_false_eq_true, and_self]

theorem barWrite_view {k : Blk} (h : k ∉ ([.mem, .hub, .shu, .loom, .tbase, .zor, .prism, .win, .dbank, .dio, .aio, .enc, .can, .eth, .tim, .brk, .mir, .hed, .sec, .svc, .rcd, .pan, .pwr, .codes, .out, .free] : List Blk)) (a0 : _) (a1 : _) (a2 : _) (a3 : _) :
    view k (barWrite a0 a1 a2 a3) = view k a3 := by
  simp only [List.mem_cons, List.not_mem_nil, or_false, not_or] at h
  simp only [barWrite, regWrite_view, view_when, view_foldl, view_foldFin, apply_ite (view k), ite_self, implies_true, h, List.mem_cons, List.not_mem_nil, or_false, not_or, ne_eq, not_false_eq_true, and_self]

theorem msixRelease_view {k : Blk} (h : k ∉ ([.shu, .out] : List Blk)) (a0 : _) (a1 : _) (a2 : _) :
    view k (msixRelease a0 a1 a2) = view k a2 := by
  simp only [List.mem_cons, List.not_mem_nil, or_false, not_or] at h
  simp only [msixRelease, msixMark_view, msix_view, view_when, view_foldl, view_foldFin, apply_ite (view k), ite_self, implies_true, h, List.mem_cons, List.not_mem_nil, or_false, not_or, ne_eq, not_false_eq_true, and_self]

theorem bar4Put_view {k : Blk} (h : k ∉ ([.shu, .out] : List Blk)) (a0 : _) (a1 : _) (a2 : _) (a3 : _) :
    view k (bar4Put a0 a1 a2 a3) = view k a3 := by
  simp only [List.mem_cons, List.not_mem_nil, or_false, not_or] at h
  simp only [bar4Put, msixRelease_view, view_put_shu, view_when, view_foldl, view_foldFin, apply_ite (view k), ite_self, implies_true, h, List.mem_cons, List.not_mem_nil, or_false, not_or, ne_eq, not_false_eq_true, and_self]

theorem configPut_view {k : Blk} (h : k ∉ ([.shu] : List Blk)) (a0 : _) (a1 : _) (a2 : _) (a3 : _) :
    view k (configPut a0 a1 a2 a3) = view k a3 := by
  simp only [List.mem_cons, List.not_mem_nil, or_false, not_or] at h
  simp only [configPut, view_put_shu, view_when, view_foldl, view_foldFin, apply_ite (view k), ite_self, implies_true, h, List.mem_cons, List.not_mem_nil, or_false, not_or, ne_eq, not_false_eq_true, and_self]

theorem execRcFieldRead_view {k : Blk} (h : k ∉ ([.shu, .loom, .prism, .dbank, .dio, .aio, .enc, .can, .eth, .brk, .mir, .hed, .sec, .rcd, .pan, .pwr, .out, .free] : List Blk)) (a0 : _) (a1 : _) (a2 : _) (a3 : _) :
    viewR k (execRcFieldRead a0 a1 a2 a3) = some (view k a3) := by
  simp only [List.mem_cons, List.not_mem_nil, or_false, not_or] at h
  unfold execRcFieldRead
  (repeat' split) <;> simp only [aerNote_view, emit_view, ringReach_view, barRead_view, view_when, view_foldl, view_foldFin, viewR_ok, apply_ite (view k), ite_self, implies_true, h, List.mem_cons, List.not_mem_nil, or_false, not_or, ne_eq, not_false_eq_true, and_self]

theorem execRegisterWrite_view {k : Blk} (h : k ∉ ([.mem, .hub, .shu, .loom, .tbase, .zor, .prism, .win, .dbank, .dio, .aio, .enc, .can, .eth, .tim, .brk, .mir, .hed, .sec, .svc, .rcd, .pan, .pwr, .codes, .out, .free] : List Blk)) (a0 : _) (a1 : _) (a2 : _) (a3 : _) (a4 : _) :
    viewR k (execRegisterWrite a0 a1 a2 a3 a4) = some (view k a4) := by
  simp only [List.mem_cons, List.not_mem_nil, or_false, not_or] at h
  unfold execRegisterWrite
  (repeat' split) <;> simp only [configPut_view, bar4Put_view, ringAccess_view, barWrite_view, view_when, view_foldl, view_foldFin, viewR_ok, apply_ite (view k), ite_self, implies_true, h, List.mem_cons, List.not_mem_nil, or_false, not_or, ne_eq, not_false_eq_true, and_self]

theorem pwrReqRow_view {k : Blk} (h : k ∉ ([.mem, .hub, .shu, .loom, .tbase, .zor, .prism, .win, .dbank, .dio, .aio, .enc, .can, .eth, .tim, .brk, .mir, .hed, .sec, .svc, .rcd, .pan, .pwr, .codes, .out, .free] : List Blk)) (a0 : _) (a1 : _) (a2 : _) (a3 : _) :
    view k (pwrReqRow a0 a1 a2 a3) = view k a3 := by
  simp only [List.mem_cons, List.not_mem_nil, or_false, not_or] at h
  simp only [pwrReqRow, barWrite_view, view_when, view_foldl, view_foldFin, apply_ite (view k), ite_self, implies_true, h, List.mem_cons, List.not_mem_nil, or_false, not_or, ne_eq, not_false_eq_true, and_self]

theorem execPwrReqFunctionReinit_view {k : Blk} (h : k ∉ ([.mem, .hub, .shu, .loom, .tbase, .zor, .prism, .win, .dbank, .dio, .aio, .enc, .can, .eth, .tim, .brk, .mir, .hed, .sec, .svc, .rcd, .pan, .pwr, .codes, .out, .free] : List Blk)) (a0 : _) (a1 : _) (a2 : _) :
    viewR k (execPwrReqFunctionReinit a0 a1 a2) = some (view k a2) := by
  simp only [List.mem_cons, List.not_mem_nil, or_false, not_or] at h
  simp only [execPwrReqFunctionReinit, pwrReqRow_view, view_when, view_foldl, view_foldFin, viewR_ok, h, List.mem_cons, List.not_mem_nil, or_false, not_or, ne_eq, not_false_eq_true, and_self]

theorem execPwrReqWarmReset_view {k : Blk} (h : k ∉ ([.mem, .hub, .shu, .loom, .tbase, .zor, .prism, .win, .dbank, .dio, .aio, .enc, .can, .eth, .tim, .brk, .mir, .hed, .sec, .svc, .rcd, .pan, .pwr, .codes, .out, .free] : List Blk)) (a0 : _) (a1 : _) (a2 : _) :
    viewR k (execPwrReqWarmReset a0 a1 a2) = some (view k a2) := by
  simp only [List.mem_cons, List.not_mem_nil, or_false, not_or] at h
  simp only [execPwrReqWarmReset, pwrReqRow_view, view_when, view_foldl, view_foldFin, viewR_ok, h, List.mem_cons, List.not_mem_nil, or_false, not_or, ne_eq, not_false_eq_true, and_self]

theorem execPwrReqShutdownOff_view {k : Blk} (h : k ∉ ([.mem, .hub, .shu, .loom, .tbase, .zor, .prism, .win, .dbank, .dio, .aio, .enc, .can, .eth, .tim, .brk, .mir, .hed, .sec, .svc, .rcd, .pan, .pwr, .codes, .out, .free] : List Blk)) (a0 : _) (a1 : _) (a2 : _) :
    viewR k (execPwrReqShutdownOff a0 a1 a2) = some (view k a2) := by
  simp only [List.mem_cons, List.not_mem_nil, or_false, not_or] at h
  simp only [execPwrReqShutdownOff, pwrReqRow_view, view_when, view_foldl, view_foldFin, viewR_ok, h, List.mem_cons, List.not_mem_nil, or_false, not_or, ne_eq, not_false_eq_true, and_self]

theorem execPwrReqShutdownRestart_view {k : Blk} (h : k ∉ ([.mem, .hub, .shu, .loom, .tbase, .zor, .prism, .win, .dbank, .dio, .aio, .enc, .can, .eth, .tim, .brk, .mir, .hed, .sec, .svc, .rcd, .pan, .pwr, .codes, .out, .free] : List Blk)) (a0 : _) (a1 : _) (a2 : _) :
    viewR k (execPwrReqShutdownRestart a0 a1 a2) = some (view k a2) := by
  simp only [List.mem_cons, List.not_mem_nil, or_false, not_or] at h
  simp only [execPwrReqShutdownRestart, pwrReqRow_view, view_when, view_foldl, view_foldFin, viewR_ok, h, List.mem_cons, List.not_mem_nil, or_false, not_or, ne_eq, not_false_eq_true, and_self]

theorem execI2cRead_view {k : Blk} (h : k ∉ ([.out, .free] : List Blk)) (a0 : _) (a1 : _) (a2 : _) :
    viewR k (execI2cRead a0 a1 a2) = some (view k a2) := by
  simp only [List.mem_cons, List.not_mem_nil, or_false, not_or] at h
  simp only [execI2cRead, emit_view, drawn_view, view_when, view_foldl, view_foldFin, viewR_ok, apply_ite (view k), ite_self, implies_true, h, List.mem_cons, List.not_mem_nil, or_false, not_or, ne_eq, not_false_eq_true, and_self]

end Sys2Proof.Laws
end

