-- ==== Sys2Proof/Laws/FrameService.lean ====
section
/-! SUPPORT. What each operation of Machine/Service.lean keeps: every block outside its footprint. -/

set_option Elab.async false

set_option linter.unusedSimpArgs false
set_option linter.unusedVariables false
set_option linter.unreachableTactic false
set_option linter.unusedTactic false
set_option linter.unnecessarySeqFocus false

namespace Sys2Proof.Laws

open Machine

theorem svcRun_view {k : Blk} (h : k ∉ ([.svc, .out, .free] : List Blk)) (op : _) (r : _) (f : State → SvcAns × State) (s : State)
    (hf : view k (f s).2 = view k s) : view k (svcRun op r f s) = view k s := by
  simp only [List.mem_cons, List.not_mem_nil, or_false, not_or] at h
  unfold svcRun
  split
  · rfl
  · dsimp only
    rw [view_when _ fun t => svcEnd_view (by simp only [h, List.mem_cons, List.not_mem_nil, or_false, not_or, ne_eq, not_false_eq_true, and_self]) t]
    split <;> simp only [svcEnd_view, drawn_view, emit_view, hf, h, List.mem_cons, List.not_mem_nil, or_false, not_or, ne_eq, not_false_eq_true, and_self]

theorem execInfo_view {k : Blk} (h : k ∉ ([.svc, .out, .free] : List Blk)) (a0 : _) (a1 : _) :
    viewR k (execInfo a0 a1) = some (view k a1) := by
  simp only [List.mem_cons, List.not_mem_nil, or_false, not_or] at h
  simp only [execInfo, svcRun_view, view_when, view_foldl, view_foldFin, viewR_ok, h, List.mem_cons, List.not_mem_nil, or_false, not_or, ne_eq, not_false_eq_true, and_self]

theorem execChallenge_view {k : Blk} (h : k ∉ ([.svc, .out, .free] : List Blk)) (r s : _) :
    viewR k (execChallenge r s) = some (view k s) := by
  simp only [List.mem_cons, List.not_mem_nil, or_false, not_or] at h
  unfold execChallenge
  rw [viewR_ok, svcRun_view (by simp only [h, List.mem_cons, List.not_mem_nil, or_false, not_or, ne_eq, not_false_eq_true, and_self])]
  try dsimp only
  (repeat' split) <;> (try dsimp only) <;> simp only [svcRun_view, setSvc_view, svcEnd_view, view_when, drawn_view, apply_ite (view k), ite_self, implies_true, h, List.mem_cons, List.not_mem_nil, or_false, not_or, ne_eq, not_false_eq_true, and_self]

theorem execRespond_view {k : Blk} (h : k ∉ ([.svc, .rcd, .out, .free] : List Blk)) (r s : _) :
    viewR k (execRespond r s) = some (view k s) := by
  simp only [List.mem_cons, List.not_mem_nil, or_false, not_or] at h
  unfold execRespond
  rw [viewR_ok, svcRun_view (by simp only [h, List.mem_cons, List.not_mem_nil, or_false, not_or, ne_eq, not_false_eq_true, and_self])]
  try dsimp only
  (repeat' split) <;> (try dsimp only) <;> simp only [svcRun_view, setSvc_view, raise_view, apply_ite (view k), ite_self, h, List.mem_cons, List.not_mem_nil, or_false, not_or, ne_eq, not_false_eq_true, and_self]

theorem execPresence_view {k : Blk} (h : k ∉ ([.svc, .out, .free] : List Blk)) (r s : _) :
    viewR k (execPresence r s) = some (view k s) := by
  simp only [List.mem_cons, List.not_mem_nil, or_false, not_or] at h
  unfold execPresence
  rw [viewR_ok, svcRun_view (by simp only [h, List.mem_cons, List.not_mem_nil, or_false, not_or, ne_eq, not_false_eq_true, and_self])]
  try dsimp only
  (repeat' split) <;> (try dsimp only) <;> simp only [svcRun_view, setSvc_view, svcEnd_view, view_when, apply_ite (view k), ite_self, implies_true, h, List.mem_cons, List.not_mem_nil, or_false, not_or, ne_eq, not_false_eq_true, and_self]

theorem execClose_view {k : Blk} (h : k ∉ ([.svc, .out, .free] : List Blk)) (a0 : _) (a1 : _) :
    viewR k (execClose a0 a1) = some (view k a1) := by
  simp only [List.mem_cons, List.not_mem_nil, or_false, not_or] at h
  simp only [execClose, svcEnd_view, svcRun_view, view_when, view_foldl, view_foldFin, viewR_ok, h, List.mem_cons, List.not_mem_nil, or_false, not_or, ne_eq, not_false_eq_true, and_self]

theorem svcReads_view {k : Blk} (h : k ∉ ([.loom, .prism, .dbank, .dio, .aio, .enc, .can, .eth, .brk, .mir, .hed, .sec, .rcd, .pan, .pwr, .free] : List Blk)) (w n o s : _) :
    view k (svcReads w n o s).2.2 = view k s := by
  simp only [List.mem_cons, List.not_mem_nil, or_false, not_or] at h
  induction n generalizing o s with
  | zero => rfl
  | succ n ih =>
    unfold svcReads
    split
    · rfl
    · dsimp only
      rw [ih, regRead_view (by simp only [h, List.mem_cons, List.not_mem_nil, or_false, not_or, ne_eq, not_false_eq_true, and_self])]

theorem execRegRead_view {k : Blk} (h : k ∉ ([.loom, .prism, .dbank, .dio, .aio, .enc, .can, .eth, .brk, .mir, .hed, .sec, .svc, .rcd, .pan, .pwr, .out, .free] : List Blk)) (a0 : _) (a1 : _) :
    viewR k (execRegRead a0 a1) = some (view k a1) := by
  simp only [List.mem_cons, List.not_mem_nil, or_false, not_or] at h
  unfold execRegRead
  (repeat' split) <;> simp only [svcReads_view, svcRun_view, view_when, view_foldl, view_foldFin, viewR_ok, apply_ite (view k), ite_self, implies_true, h, List.mem_cons, List.not_mem_nil, or_false, not_or, ne_eq, not_false_eq_true, and_self]

theorem svcWrites_view {k : Blk} (h : k ∉ ([.mem, .hub, .shu, .loom, .tbase, .zor, .prism, .win, .dbank, .dio, .aio, .enc, .can, .eth, .tim, .brk, .mir, .hed, .sec, .svc, .rcd, .pan, .pwr, .codes, .out, .free] : List Blk)) (l o n s : _) :
    view k (svcWrites l o n s).2.2 = view k s := by
  simp only [List.mem_cons, List.not_mem_nil, or_false, not_or] at h
  induction l generalizing o n s with
  | nil => rfl
  | cons b l ih =>
    unfold svcWrites
    split
    · rfl
    · rw [ih, regWrite_view (by simp only [h, List.mem_cons, List.not_mem_nil, or_false, not_or, ne_eq, not_false_eq_true, and_self])]

theorem execRegWrite_view {k : Blk} (h : k ∉ ([.mem, .hub, .shu, .loom, .tbase, .zor, .prism, .win, .dbank, .dio, .aio, .enc, .can, .eth, .tim, .brk, .mir, .hed, .sec, .svc, .rcd, .pan, .pwr, .codes, .out, .free] : List Blk)) (a0 : _) (a1 : _) :
    viewR k (execRegWrite a0 a1) = some (view k a1) := by
  simp only [List.mem_cons, List.not_mem_nil, or_false, not_or] at h
  unfold execRegWrite
  (repeat' split) <;> simp only [svcWrites_view, svcRun_view, view_when, view_foldl, view_foldFin, viewR_ok, apply_ite (view k), ite_self, implies_true, h, List.mem_cons, List.not_mem_nil, or_false, not_or, ne_eq, not_false_eq_true, and_self]

theorem svcMemory_view {k : Blk} (h : k ∉ ([.sec, .rcd] : List Blk)) (a0 : _) (a1 : _) :
    view k (svcMemory a0 a1).2 = view k a1 := by
  simp only [List.mem_cons, List.not_mem_nil, or_false, not_or] at h
  unfold svcMemory
  try dsimp only
  split
  · exact regionViol_view (by simp only [h, List.mem_cons, List.not_mem_nil, or_false, not_or, ne_eq, not_false_eq_true, and_self]) _ _ _ _ _
  · rfl

theorem execServicePointRead_view {k : Blk} (h : k ∉ ([.sec, .svc, .rcd, .out, .free] : List Blk)) (a0 : _) (a1 : _) :
    viewR k (execServicePointRead a0 a1) = some (view k a1) := by
  simp only [List.mem_cons, List.not_mem_nil, or_false, not_or] at h
  unfold execServicePointRead
  rw [viewR_ok, svcRun_view (by simp only [h, List.mem_cons, List.not_mem_nil, or_false, not_or, ne_eq, not_false_eq_true, and_self])]
  try dsimp only
  (repeat' split) <;> simp only [svcMemory_view, h, List.mem_cons, List.not_mem_nil, or_false, not_or, ne_eq, not_false_eq_true, and_self]

theorem execServiceRecRead_view {k : Blk} (h : k ∉ ([.sec, .svc, .rcd, .out, .free] : List Blk)) (a0 : _) (a1 : _) :
    viewR k (execServiceRecRead a0 a1) = some (view k a1) := by
  simp only [List.mem_cons, List.not_mem_nil, or_false, not_or] at h
  unfold execServiceRecRead
  rw [viewR_ok, svcRun_view (by simp only [h, List.mem_cons, List.not_mem_nil, or_false, not_or, ne_eq, not_false_eq_true, and_self])]
  try dsimp only
  (repeat' split) <;> simp only [svcMemory_view, h, List.mem_cons, List.not_mem_nil, or_false, not_or, ne_eq, not_false_eq_true, and_self]

theorem execKeyWrite_view {k : Blk} (h : k ∉ ([.sec, .svc, .rcd, .out, .free] : List Blk)) (r s : _) :
    viewR k (execKeyWrite r s) = some (view k s) := by
  simp only [List.mem_cons, List.not_mem_nil, or_false, not_or] at h
  unfold execKeyWrite
  rw [viewR_ok, svcRun_view (by simp only [h, List.mem_cons, List.not_mem_nil, or_false, not_or, ne_eq, not_false_eq_true, and_self])]
  try dsimp only
  (repeat' split) <;> (try dsimp only) <;> simp only [svcRun_view, setSvc_view, raise_view, view_put_sec, apply_ite (view k), ite_self, h, List.mem_cons, List.not_mem_nil, or_false, not_or, ne_eq, not_false_eq_true, and_self]

theorem execLcConfirm_view {k : Blk} (h : k ∉ ([.hub, .shu, .loom, .zor, .prism, .dbank, .dio, .aio, .can, .brk, .mir, .hed, .sec, .svc, .rcd, .pwr, .out, .free] : List Blk)) (r s : _) :
    viewR k (execLcConfirm r s) = some (view k s) := by
  simp only [List.mem_cons, List.not_mem_nil, or_false, not_or] at h
  unfold execLcConfirm
  rw [viewR_ok, svcRun_view (by simp only [h, List.mem_cons, List.not_mem_nil, or_false, not_or, ne_eq, not_false_eq_true, and_self])]
  try dsimp only
  (repeat' split) <;> (try dsimp only) <;> simp only [svcRun_view, lifeChange_view, apply_ite (view k), ite_self, h, List.mem_cons, List.not_mem_nil, or_false, not_or, ne_eq, not_false_eq_true, and_self]

theorem execLcAdvance_view {k : Blk} (h : k ∉ ([.hub, .shu, .loom, .zor, .prism, .dbank, .dio, .aio, .can, .brk, .mir, .hed, .sec, .svc, .rcd, .pwr, .out, .free] : List Blk)) (r s : _) :
    viewR k (execLcAdvance r s) = some (view k s) := by
  simp only [List.mem_cons, List.not_mem_nil, or_false, not_or] at h
  unfold execLcAdvance
  rw [viewR_ok, svcRun_view (by simp only [h, List.mem_cons, List.not_mem_nil, or_false, not_or, ne_eq, not_false_eq_true, and_self])]
  try dsimp only
  (repeat' split) <;> (try dsimp only) <;> simp only [svcRun_view, lifeChange_view, apply_ite (view k), ite_self, h, List.mem_cons, List.not_mem_nil, or_false, not_or, ne_eq, not_false_eq_true, and_self]

theorem execUnknownServiceOp_view {k : Blk} (h : k ∉ ([.svc, .out, .free] : List Blk)) (a0 : _) (a1 : _) (a2 : _) :
    viewR k (execUnknownServiceOp a0 a1 a2) = some (view k a2) := by
  simp only [List.mem_cons, List.not_mem_nil, or_false, not_or] at h
  simp only [execUnknownServiceOp, svcRun_view, view_when, view_foldl, view_foldFin, viewR_ok, apply_ite (view k), ite_self, implies_true, h, List.mem_cons, List.not_mem_nil, or_false, not_or, ne_eq, not_false_eq_true, and_self]

end Sys2Proof.Laws
end

