-- ==== Sys2Proof/Laws/FrameMirror.lean ====
section
/-! SUPPORT. What each operation of Machine/Mirror.lean keeps: every block outside its footprint. -/

set_option Elab.async false

set_option linter.unusedSimpArgs false
set_option linter.unusedVariables false
set_option linter.unreachableTactic false
set_option linter.unusedTactic false
set_option linter.unnecessarySeqFocus false

namespace Sys2Proof.Laws

open Machine

theorem setMir_view {k : Blk} (h : k ∉ ([.mir] : List Blk)) (a0 : _) (a1 : _) :
    view k (setMir a0 a1) = view k a1 := by
  simp only [List.mem_cons, List.not_mem_nil, or_false, not_or] at h
  simp only [setMir, view_put_mir, view_when, view_foldl, view_foldFin, h, List.mem_cons, List.not_mem_nil, or_false, not_or, ne_eq, not_false_eq_true, and_self]

theorem syncSent_view {k : Blk} (h : k ∉ ([.mir, .out] : List Blk)) (a0 : _) (a1 : _) (a2 : _) :
    view k (syncSent a0 a1 a2) = view k a2 := by
  simp only [List.mem_cons, List.not_mem_nil, or_false, not_or] at h
  simp only [syncSent, setMir_view, syncSend_view, view_when, view_foldl, view_foldFin, h, List.mem_cons, List.not_mem_nil, or_false, not_or, ne_eq, not_false_eq_true, and_self]

theorem syncState_view {k : Blk} (h : k ∉ ([.mir, .out] : List Blk)) (a0 : _) :
    view k (syncState a0) = view k a0 := by
  simp only [List.mem_cons, List.not_mem_nil, or_false, not_or] at h
  simp only [syncState, syncSend_view, setMir_view, view_when, view_foldl, view_foldFin, apply_ite (view k), ite_self, implies_true, h, List.mem_cons, List.not_mem_nil, or_false, not_or, ne_eq, not_false_eq_true, and_self]

theorem syncServe_view {k : Blk} (h : k ∉ ([.mir, .out, .free] : List Blk)) (a0 : _) (a1 : _) :
    view k (syncServe a0 a1) = view k a1 := by
  simp only [List.mem_cons, List.not_mem_nil, or_false, not_or] at h
  unfold syncServe
  (repeat' split) <;> simp only [syncState_view, syncSend_view, drawn_view, syncSeg_view, syncEnter_view, view_when, view_foldl, view_foldFin, apply_ite (view k), ite_self, implies_true, h, List.mem_cons, List.not_mem_nil, or_false, not_or, ne_eq, not_false_eq_true, and_self]

theorem latchStart_view {k : Blk} (h : k ∉ ([.hub, .shu, .loom, .zor, .mir, .rcd, .out, .free] : List Blk)) (a0 : _) (a1 : _) (a2 : _) (a3 : _) :
    view k (latchStart a0 a1 a2 a3) = view k a3 := by
  simp only [List.mem_cons, List.not_mem_nil, or_false, not_or] at h
  simp only [latchStart, divStart_view, latchScan_view, setZor_view, forcesNamed_view, patchesApply_view, view_when, view_foldl, view_foldFin, apply_ite (view k), ite_self, implies_true, h, List.mem_cons, List.not_mem_nil, or_false, not_or, ne_eq, not_false_eq_true, and_self]

theorem latchNext_view {k : Blk} (h : k ∉ ([.hub, .shu, .loom, .zor, .mir, .rcd, .out, .free] : List Blk)) (a0 : _) (a1 : _) :
    view k (latchNext a0 a1) = view k a1 := by
  simp only [List.mem_cons, List.not_mem_nil, or_false, not_or] at h
  unfold latchNext
  (repeat' split) <;> simp only [setMir_view, latchStart_view, view_when, view_foldl, view_foldFin, apply_ite (view k), ite_self, implies_true, h, List.mem_cons, List.not_mem_nil, or_false, not_or, ne_eq, not_false_eq_true, and_self]

theorem execPublish_view {k : Blk} (h : k ∉ ([.hub, .shu, .loom, .zor, .dbank, .dio, .aio, .can, .brk, .mir, .hed, .rcd, .pwr, .out, .free] : List Blk)) (a0 : _) (a1 : _) :
    viewR k (execPublish a0 a1) = some (view k a1) := by
  simp only [List.mem_cons, List.not_mem_nil, or_false, not_or] at h
  unfold execPublish
  (repeat' split) <;> simp only [setMir_view, setLoom_view, latchNext_view, syncSent_view, publishScan_view, swapFrozen_view, view_when, view_foldl, view_foldFin, viewR_ok, apply_ite (view k), ite_self, implies_true, h, List.mem_cons, List.not_mem_nil, or_false, not_or, ne_eq, not_false_eq_true, and_self]

theorem execPrismPeriodStart_view {k : Blk} (h : k ∉ ([.hub, .shu, .loom, .zor, .prism, .dbank, .dio, .aio, .can, .mir, .hed, .rcd, .pwr, .out, .free] : List Blk)) (a0 : _) (a1 : _) :
    viewR k (execPrismPeriodStart a0 a1) = some (view k a1) := by
  simp only [List.mem_cons, List.not_mem_nil, or_false, not_or] at h
  simp only [execPrismPeriodStart, setPrism_view, slotsOff_view, syncSent_view, prismPeriod_view, view_when, view_foldl, view_foldFin, viewR_ok, apply_ite (view k), ite_self, implies_true, h, List.mem_cons, List.not_mem_nil, or_false, not_or, ne_eq, not_false_eq_true, and_self]

theorem autoEnable_view {k : Blk} (h : k ∉ ([.prism] : List Blk)) (s : _) :
    view k (autoEnable s) = view k s := by
  simp only [List.mem_cons, List.not_mem_nil, or_false, not_or] at h
  unfold autoEnable
  refine view_foldFin (fun t c => ?_) s
  try dsimp only
  (repeat' split) <;> simp only [slotSend_view, view_when, apply_ite (view k), ite_self, implies_true, h, List.mem_cons, List.not_mem_nil, or_false, not_or, ne_eq, not_false_eq_true, and_self]

theorem autoStart_view {k : Blk} (h : k ∉ ([.hub, .loom, .prism, .dbank, .dio, .aio, .can, .mir, .hed, .rcd, .pwr, .out] : List Blk)) (s : _) :
    view k (autoStart s) = view k s := by
  simp only [List.mem_cons, List.not_mem_nil, or_false, not_or] at h
  have e0 : ∀ t, view k (foldFin 8 (fun t n => when (vget t.loom n).task.isSome (taskSigned n) t) t) = view k t :=
    fun t => view_foldFin (fun t n => view_when t fun t => taskSigned_view (by simp only [h, List.mem_cons, List.not_mem_nil, or_false, not_or, ne_eq, not_false_eq_true, and_self]) n t) t
  have e1 : ∀ t, view k (foldFin 8 (fun t n => when ((vget t.loom n).task.any (·.autostart)) (taskBegin n) t) t) = view k t :=
    fun t => view_foldFin (fun t n => view_when t fun t => taskBegin_view (by simp only [h, List.mem_cons, List.not_mem_nil, or_false, not_or, ne_eq, not_false_eq_true, and_self]) n t) t
  have e2 : ∀ t, view k (foldFin 8 (fun t c => when ((vget t.can c).live && (vget t.can c).cfg.svcStart) (setCan c fun x => { x with recorded := .service }) t) t) = view k t :=
    fun t => view_foldFin (fun t n => view_when t fun t => setCan_view (by simp only [h, List.mem_cons, List.not_mem_nil, or_false, not_or, ne_eq, not_false_eq_true, and_self]) _ _ t) t
  unfold autoStart
  dsimp only
  rw [canLeaveListen_view (by simp only [h, List.mem_cons, List.not_mem_nil, or_false, not_or, ne_eq, not_false_eq_true, and_self]), e2, autoEnable_view (by simp only [h, List.mem_cons, List.not_mem_nil, or_false, not_or, ne_eq, not_false_eq_true, and_self]), e1, e0, publishPts_view (by simp only [h, List.mem_cons, List.not_mem_nil, or_false, not_or, ne_eq, not_false_eq_true, and_self]),
    aioBypassAll_view (by simp only [h, List.mem_cons, List.not_mem_nil, or_false, not_or, ne_eq, not_false_eq_true, and_self]), dioEvalAll_view (by simp only [h, List.mem_cons, List.not_mem_nil, or_false, not_or, ne_eq, not_false_eq_true, and_self])]

theorem execRoleDecision_view {k : Blk} (h : k ∉ ([.hub, .shu, .loom, .prism, .dbank, .dio, .aio, .can, .mir, .hed, .rcd, .pwr, .out, .free] : List Blk)) (a0 : _) :
    viewR k (execRoleDecision a0) = some (view k a0) := by
  simp only [List.mem_cons, List.not_mem_nil, or_false, not_or] at h
  simp only [execRoleDecision, syncBegin_view, autoStart_view, vector64_view, setPwr_view, setMir_view, view_put_shu, view_when, view_foldl, view_foldFin, viewR_ok, apply_ite (view k), ite_self, implies_true, h, List.mem_cons, List.not_mem_nil, or_false, not_or, ne_eq, not_false_eq_true, and_self]

theorem execHeartbeatSend_view {k : Blk} (h : k ∉ ([.mir, .out] : List Blk)) (s : _) :
    viewR k (execHeartbeatSend s) = some (view k s) := by
  simp only [List.mem_cons, List.not_mem_nil, or_false, not_or] at h
  unfold execHeartbeatSend
  rw [viewR_ok]
  split
  · refine congrArg some (view_foldFin (fun t c => ?_) s)
    dsimp only
    rw [view_when _ fun t => ?_]
    all_goals simp only [emit_view, setMir_view, h, List.mem_cons, List.not_mem_nil, or_false, not_or, ne_eq, not_false_eq_true, and_self]
  · rfl

theorem execAliveRefresh_view {k : Blk} (h : k ∉ ([.mir] : List Blk)) (a0 : _) :
    viewR k (execAliveRefresh a0) = some (view k a0) := by
  simp only [List.mem_cons, List.not_mem_nil, or_false, not_or] at h
  simp only [execAliveRefresh, setMir_view, view_when, view_foldl, view_foldFin, viewR_ok, apply_ite (view k), ite_self, implies_true, h, List.mem_cons, List.not_mem_nil, or_false, not_or, ne_eq, not_false_eq_true, and_self]

theorem execCommandRepeat_view {k : Blk} (h : k ∉ ([.mir, .out] : List Blk)) (a0 : _) :
    viewR k (execCommandRepeat a0) = some (view k a0) := by
  simp only [List.mem_cons, List.not_mem_nil, or_false, not_or] at h
  simp only [execCommandRepeat, setMir_view, bothLanes_view, view_when, view_foldl, view_foldFin, viewR_ok, apply_ite (view k), ite_self, implies_true, h, List.mem_cons, List.not_mem_nil, or_false, not_or, ne_eq, not_false_eq_true, and_self]

theorem engineFailedBy_view {k : Blk} (h : k ∉ ([.hub, .shu, .loom, .zor, .prism, .dbank, .dio, .aio, .can, .mir, .hed, .rcd, .pwr, .out, .free] : List Blk)) (a0 : _) (a1 : _) :
    view k (engineFailedBy a0 a1) = view k a1 := by
  simp only [List.mem_cons, List.not_mem_nil, or_false, not_or] at h
  unfold engineFailedBy
  (repeat' split) <;> simp only [prismStop_view, engineFail_view, prismFault_view, engineFault_view, view_when, view_foldl, view_foldFin, apply_ite (view k), ite_self, implies_true, h, List.mem_cons, List.not_mem_nil, or_false, not_or, ne_eq, not_false_eq_true, and_self]

theorem divEvents_view {k : Blk} (h : k ∉ ([.mir, .rcd] : List Blk)) (a0 : _) (a1 : _) (a2 : _) (a3 : _) :
    view k (divEvents a0 a1 a2 a3) = view k a3 := by
  simp only [List.mem_cons, List.not_mem_nil, or_false, not_or] at h
  simp only [divEvents, setMir_view, raise_view, view_when, view_foldl, view_foldFin, apply_ite (view k), ite_self, implies_true, h, List.mem_cons, List.not_mem_nil, or_false, not_or, ne_eq, not_false_eq_true, and_self]

theorem divDecide_view {k : Blk} (h : k ∉ ([.hub, .shu, .loom, .zor, .prism, .dbank, .dio, .aio, .can, .mir, .hed, .rcd, .pwr, .out, .free] : List Blk)) (a0 : _) :
    view k (divDecide a0) = view k a0 := by
  simp only [List.mem_cons, List.not_mem_nil, or_false, not_or] at h
  unfold divDecide
  (repeat' split) <;> simp only [setMir_view, divEvents_view, engineFailedBy_view, toSyncing_view, handOver_view, view_when, view_foldl, view_foldFin, apply_ite (view k), ite_self, implies_true, h, List.mem_cons, List.not_mem_nil, or_false, not_or, ne_eq, not_false_eq_true, and_self]

theorem execDivergenceCheckEnd_view {k : Blk} (h : k ∉ ([.hub, .shu, .loom, .zor, .prism, .dbank, .dio, .aio, .can, .mir, .hed, .rcd, .pwr, .out, .free] : List Blk)) (a0 : _) (a1 : _) :
    viewR k (execDivergenceCheckEnd a0 a1) = some (view k a1) := by
  simp only [List.mem_cons, List.not_mem_nil, or_false, not_or] at h
  unfold execDivergenceCheckEnd
  (repeat' split) <;> simp only [divDecide_view, sendCmd_view, setMir_view, view_when, view_foldl, view_foldFin, viewR_ok, apply_ite (view k), ite_self, implies_true, h, List.mem_cons, List.not_mem_nil, or_false, not_or, ne_eq, not_false_eq_true, and_self]

theorem linkFault_view {k : Blk} (h : k ∉ ([.mir, .rcd] : List Blk)) (a0 : _) :
    view k (linkFault a0) = view k a0 := by
  simp only [List.mem_cons, List.not_mem_nil, or_false, not_or] at h
  simp only [linkFault, setMir_view, raise_view, syncDrop_view, view_when, view_foldl, view_foldFin, h, List.mem_cons, List.not_mem_nil, or_false, not_or, ne_eq, not_false_eq_true, and_self]

theorem linkWhole_view {k : Blk} (h : k ∉ ([.hub, .shu, .loom, .zor, .mir, .hed, .rcd, .out, .free] : List Blk)) (a0 : _) :
    view k (linkWhole a0) = view k a0 := by
  simp only [List.mem_cons, List.not_mem_nil, or_false, not_or] at h
  simp only [linkWhole, syncBegin_view, toSyncing_view, setMir_view, raise_view, view_when, view_foldl, view_foldFin, apply_ite (view k), ite_self, implies_true, h, List.mem_cons, List.not_mem_nil, or_false, not_or, ne_eq, not_false_eq_true, and_self]

theorem judge_view {k : Blk} (h : k ∉ ([.hub, .shu, .loom, .zor, .prism, .dbank, .dio, .aio, .enc, .can, .brk, .mir, .hed, .rcd, .pwr, .out, .free] : List Blk)) (a0 : _) (a1 : _) :
    view k (judge a0 a1) = view k a1 := by
  simp only [List.mem_cons, List.not_mem_nil, or_false, not_or] at h
  simp only [judge, syncDrop_view, setMir_view, raise_view, aloneStopped_view, partnerGone_view, divDecide_view, view_when, view_foldl, view_foldFin, apply_ite (view k), ite_self, implies_true, h, List.mem_cons, List.not_mem_nil, or_false, not_or, ne_eq, not_false_eq_true, and_self]

theorem execAliveLineDrop_view {k : Blk} (h : k ∉ ([.hub, .shu, .loom, .zor, .prism, .dbank, .dio, .aio, .enc, .can, .brk, .mir, .hed, .rcd, .pwr, .out, .free] : List Blk)) (a0 : _) :
    viewR k (execAliveLineDrop a0) = some (view k a0) := by
  simp only [List.mem_cons, List.not_mem_nil, or_false, not_or] at h
  simp only [execAliveLineDrop, setMir_view, judge_view, view_when, view_foldl, view_foldFin, viewR_ok, apply_ite (view k), ite_self, implies_true, h, List.mem_cons, List.not_mem_nil, or_false, not_or, ne_eq, not_false_eq_true, and_self]

theorem execPartnerAliveLineHigh_view {k : Blk} (h : k ∉ ([.mir] : List Blk)) (a0 : _) :
    viewR k (execPartnerAliveLineHigh a0) = some (view k a0) := by
  simp only [List.mem_cons, List.not_mem_nil, or_false, not_or] at h
  simp only [execPartnerAliveLineHigh, setMir_view, view_when, view_foldl, view_foldFin, viewR_ok, apply_ite (view k), ite_self, implies_true, h, List.mem_cons, List.not_mem_nil, or_false, not_or, ne_eq, not_false_eq_true, and_self]

theorem execLaneUp_view {k : Blk} (h : k ∉ ([.hub, .shu, .loom, .zor, .mir, .hed, .rcd, .out, .free] : List Blk)) (a0 : _) (a1 : _) :
    viewR k (execLaneUp a0 a1) = some (view k a1) := by
  simp only [List.mem_cons, List.not_mem_nil, or_false, not_or] at h
  simp only [execLaneUp, linkWhole_view, syncBegin_view, toSyncing_view, setMir_view, raise_view, view_when, view_foldl, view_foldFin, viewR_ok, apply_ite (view k), ite_self, implies_true, h, List.mem_cons, List.not_mem_nil, or_false, not_or, ne_eq, not_false_eq_true, and_self]

theorem execLaneDown_view {k : Blk} (h : k ∉ ([.hub, .shu, .loom, .zor, .prism, .dbank, .dio, .aio, .enc, .can, .brk, .mir, .hed, .rcd, .pwr, .out, .free] : List Blk)) (a0 : _) (a1 : _) (a2 : _) :
    viewR k (execLaneDown a0 a1 a2) = some (view k a2) := by
  simp only [List.mem_cons, List.not_mem_nil, or_false, not_or] at h
  simp only [execLaneDown, setMir_view, judge_view, raise_view, view_when, view_foldl, view_foldFin, viewR_ok, apply_ite (view k), ite_self, implies_true, h, List.mem_cons, List.not_mem_nil, or_false, not_or, ne_eq, not_false_eq_true, and_self]

theorem execEyeOpeningLow_view {k : Blk} (h : k ∉ ([.mir, .rcd] : List Blk)) (a0 : _) (a1 : _) (a2 : _) (a3 : _) :
    viewR k (execEyeOpeningLow a0 a1 a2 a3) = some (view k a3) := by
  simp only [List.mem_cons, List.not_mem_nil, or_false, not_or] at h
  simp only [execEyeOpeningLow, raise_view, setMir_view, view_when, view_foldl, view_foldFin, viewR_ok, apply_ite (view k), ite_self, implies_true, h, List.mem_cons, List.not_mem_nil, or_false, not_or, ne_eq, not_false_eq_true, and_self]

theorem execSilentLoss_view {k : Blk} (h : k ∉ ([.hub, .shu, .loom, .zor, .prism, .dbank, .dio, .aio, .enc, .can, .brk, .mir, .hed, .rcd, .pwr, .out, .free] : List Blk)) (a0 : _) :
    viewR k (execSilentLoss a0) = some (view k a0) := by
  simp only [List.mem_cons, List.not_mem_nil, or_false, not_or] at h
  simp only [execSilentLoss, takeField_view, raise_view, divDecide_view, swapEnd_view, setZor_view, view_when, view_foldl, view_foldFin, viewR_ok, apply_ite (view k), ite_self, implies_true, h, List.mem_cons, List.not_mem_nil, or_false, not_or, ne_eq, not_false_eq_true, and_self]

theorem heartbeatActive_view {k : Blk} (h : k ∉ ([.hub, .shu, .loom, .zor, .prism, .dbank, .dio, .aio, .enc, .can, .brk, .mir, .hed, .rcd, .pwr, .out, .free] : List Blk)) (a0 : _) (a1 : _) (a2 : _) (a3 : _) :
    view k (heartbeatActive a0 a1 a2 a3) = view k a3 := by
  simp only [List.mem_cons, List.not_mem_nil, or_false, not_or] at h
  simp only [heartbeatActive, syncServe_view, syncEnter_view, swapEnd_view, partnerGone_view, divDecide_view, toSyncing_view, stopDriving_view, aioBypassAll_view, raise_view, view_when, view_foldl, view_foldFin, apply_ite (view k), ite_self, implies_true, h, List.mem_cons, List.not_mem_nil, or_false, not_or, ne_eq, not_false_eq_true, and_self]

theorem detachedSeen_view {k : Blk} (h : k ∉ ([.hub, .shu, .loom, .zor, .mir, .hed, .rcd, .out, .free] : List Blk)) (a0 : _) (a1 : _) :
    view k (detachedSeen a0 a1) = view k a1 := by
  simp only [List.mem_cons, List.not_mem_nil, or_false, not_or] at h
  simp only [detachedSeen, linkWhole_view, linkFault_view, view_when, view_foldl, view_foldFin, apply_ite (view k), ite_self, implies_true, h, List.mem_cons, List.not_mem_nil, or_false, not_or, ne_eq, not_false_eq_true, and_self]

theorem execHeartbeat_view {k : Blk} (h : k ∉ ([.hub, .shu, .loom, .zor, .prism, .dbank, .dio, .aio, .enc, .can, .brk, .mir, .hed, .rcd, .pwr, .out, .free] : List Blk)) (a0 : _) (a1 : _) :
    viewR k (execHeartbeat a0 a1) = some (view k a1) := by
  simp only [List.mem_cons, List.not_mem_nil, or_false, not_or] at h
  simp only [execHeartbeat, syncAbandon_view, detachedSeen_view, syncBegin_view, heartbeatActive_view, roleChange_view, syncServe_view, setMir_view, view_when, view_foldl, view_foldFin, viewR_ok, apply_ite (view k), ite_self, implies_true, h, List.mem_cons, List.not_mem_nil, or_false, not_or, ne_eq, not_false_eq_true, and_self]
  (repeat' split) <;> first | with_reducible rfl | simp only [syncAbandon_view, detachedSeen_view, syncBegin_view, heartbeatActive_view, roleChange_view, syncServe_view, setMir_view, view_when, view_foldl, view_foldFin, viewR_ok, apply_ite (view k), ite_self, implies_true, h, List.mem_cons, List.not_mem_nil, or_false, not_or, ne_eq, not_false_eq_true, and_self]

theorem execBrake_view {k : Blk} (h : k ∉ ([.hub, .brk, .mir, .hed, .rcd, .out] : List Blk)) (a0 : _) (a1 : _) :
    viewR k (execBrake a0 a1) = some (view k a1) := by
  simp only [List.mem_cons, List.not_mem_nil, or_false, not_or] at h
  simp only [execBrake, brkCopy_view, setBrk_view, brkReport_view, setMir_view, view_put_brk, view_when, view_foldl, view_foldFin, viewR_ok, apply_ite (view k), ite_self, implies_true, h, List.mem_cons, List.not_mem_nil, or_false, not_or, ne_eq, not_false_eq_true, and_self]

theorem cmdTake_view {k : Blk} (h : k ∉ ([.mir] : List Blk)) (m : MirCmd) (f : State → State) (s : State)
    (hf : ∀ t, view k (f t) = view k t) : viewR k (cmdTake m f s) = some (view k s) := by
  simp only [List.mem_cons, List.not_mem_nil, or_false, not_or] at h
  unfold cmdTake
  rw [viewR_ok]
  (repeat' split) <;> simp only [hf, setMir_view, h, List.mem_cons, List.not_mem_nil, or_false, not_or, ne_eq, not_false_eq_true, and_self]

theorem execHandover_view {k : Blk} (h : k ∉ ([.shu, .zor, .mir, .hed, .rcd, .free] : List Blk)) (m s : _) :
    viewR k (execHandover m s) = some (view k s) := by
  simp only [List.mem_cons, List.not_mem_nil, or_false, not_or] at h
  unfold execHandover
  refine cmdTake_view (by simp only [h, List.mem_cons, List.not_mem_nil, or_false, not_or, ne_eq, not_false_eq_true, and_self]) m _ s fun t => ?_
  try dsimp only
  (repeat' split) <;> simp only [cmdTake_view, setMir_view, cmdAnswered_view, raise_view, swapEnd_view, view_when, apply_ite (view k), ite_self, implies_true, h, List.mem_cons, List.not_mem_nil, or_false, not_or, ne_eq, not_false_eq_true, and_self]

theorem execRequest_view {k : Blk} (h : k ∉ ([.shu, .zor, .mir, .hed, .rcd, .out, .free] : List Blk)) (a0 : _) (a1 : _) :
    viewR k (execRequest a0 a1) = some (view k a1) := by
  simp only [List.mem_cons, List.not_mem_nil, or_false, not_or] at h
  simp only [execRequest, handOver_view, sendCmd_view, cmdTake_view, view_when, view_foldl, view_foldFin, viewR_ok, apply_ite (view k), ite_self, implies_true, h, List.mem_cons, List.not_mem_nil, or_false, not_or, ne_eq, not_false_eq_true, and_self]

theorem oldSteps_view {k : Blk} (h : k ∉ ([.mem, .hub, .shu, .loom, .tbase, .zor, .prism, .win, .dbank, .dio, .aio, .enc, .can, .eth, .tim, .brk, .mir, .hed, .sec, .svc, .rcd, .pan, .pwr, .codes, .out, .free] : List Blk)) (a0 : _) :
    view k (oldSteps a0) = view k a0 := by
  simp only [List.mem_cons, List.not_mem_nil, or_false, not_or] at h
  simp only [oldSteps, shutdownBegin_view, stopDriving_view, setMir_view, toSyncing_view, warmReset_view, cmdAnswered_view, completeOpt_view, view_when, view_foldl, view_foldFin, apply_ite (view k), ite_self, implies_true, h, List.mem_cons, List.not_mem_nil, or_false, not_or, ne_eq, not_false_eq_true, and_self]
  (repeat' split) <;> first | with_reducible rfl | simp only [shutdownBegin_view, stopDriving_view, setMir_view, toSyncing_view, warmReset_view, cmdAnswered_view, completeOpt_view, view_when, view_foldl, view_foldFin, apply_ite (view k), ite_self, implies_true, h, List.mem_cons, List.not_mem_nil, or_false, not_or, ne_eq, not_false_eq_true, and_self]

theorem execLive_view {k : Blk} (h : k ∉ ([.mem, .hub, .shu, .loom, .tbase, .zor, .prism, .win, .dbank, .dio, .aio, .enc, .can, .eth, .tim, .brk, .mir, .hed, .sec, .svc, .rcd, .pan, .pwr, .codes, .out, .free] : List Blk)) (a0 : _) (a1 : _) :
    viewR k (execLive a0 a1) = some (view k a1) := by
  simp only [List.mem_cons, List.not_mem_nil, or_false, not_or] at h
  simp only [execLive, oldSteps_view, cmdTake_view, view_when, view_foldl, view_foldFin, viewR_ok, apply_ite (view k), ite_self, implies_true, h, List.mem_cons, List.not_mem_nil, or_false, not_or, ne_eq, not_false_eq_true, and_self]

theorem execAioLive_view {k : Blk} (h : k ∉ ([.hub, .shu, .loom, .zor, .prism, .dbank, .dio, .aio, .enc, .can, .brk, .mir, .hed, .rcd, .pwr, .out, .free] : List Blk)) (a0 : _) (a1 : _) :
    viewR k (execAioLive a0 a1) = some (view k a1) := by
  simp only [List.mem_cons, List.not_mem_nil, or_false, not_or] at h
  simp only [execAioLive, judge_view, setMir_view, aioBypassAll_view, cmdTake_view, view_when, view_foldl, view_foldFin, viewR_ok, apply_ite (view k), ite_self, implies_true, h, List.mem_cons, List.not_mem_nil, or_false, not_or, ne_eq, not_false_eq_true, and_self]

theorem execDiverge_view {k : Blk} (h : k ∉ ([.mir] : List Blk)) (a0 : _) (a1 : _) :
    viewR k (execDiverge a0 a1) = some (view k a1) := by
  simp only [List.mem_cons, List.not_mem_nil, or_false, not_or] at h
  simp only [execDiverge, setMir_view, cmdTake_view, view_when, view_foldl, view_foldFin, viewR_ok, apply_ite (view k), ite_self, implies_true, h, List.mem_cons, List.not_mem_nil, or_false, not_or, ne_eq, not_false_eq_true, and_self]

theorem execCheckResult_view {k : Blk} (h : k ∉ ([.hub, .shu, .loom, .zor, .prism, .dbank, .dio, .aio, .can, .mir, .hed, .rcd, .pwr, .out, .free] : List Blk)) (m s : _) :
    viewR k (execCheckResult m s) = some (view k s) := by
  simp only [List.mem_cons, List.not_mem_nil, or_false, not_or] at h
  unfold execCheckResult
  refine cmdTake_view (by simp only [h, List.mem_cons, List.not_mem_nil, or_false, not_or, ne_eq, not_false_eq_true, and_self]) m _ s fun t => ?_
  try dsimp only
  (repeat' split) <;> simp only [cmdTake_view, setMir_view, cmdAnswered_view, divDecide_view, view_when, apply_ite (view k), ite_self, implies_true, h, List.mem_cons, List.not_mem_nil, or_false, not_or, ne_eq, not_false_eq_true, and_self]

theorem execRefuse_view {k : Blk} (h : k ∉ ([.shu, .mir, .free] : List Blk)) (a0 : _) (a1 : _) :
    viewR k (execRefuse a0 a1) = some (view k a1) := by
  simp only [List.mem_cons, List.not_mem_nil, or_false, not_or] at h
  simp only [execRefuse, setMir_view, cmdAnswered_view, completeOpt_view, cmdTake_view, view_when, view_foldl, view_foldFin, viewR_ok, apply_ite (view k), ite_self, implies_true, h, List.mem_cons, List.not_mem_nil, or_false, not_or, ne_eq, not_false_eq_true, and_self]

theorem execSwitchoverScansCommitted_view {k : Blk} (h : k ∉ ([.hub, .shu, .loom, .prism, .dbank, .dio, .aio, .enc, .can, .brk, .mir, .hed, .out, .free] : List Blk)) (a0 : _) :
    viewR k (execSwitchoverScansCommitted a0) = some (view k a0) := by
  simp only [List.mem_cons, List.not_mem_nil, or_false, not_or] at h
  simp only [execSwitchoverScansCommitted, takeField_view, judge_view, setMir_view, completeOpt_view, view_when, view_foldl, view_foldFin, viewR_ok, apply_ite (view k), ite_self, implies_true, h, List.mem_cons, List.not_mem_nil, or_false, not_or, ne_eq, not_false_eq_true, and_self]

theorem execOutputsLive_view {k : Blk} (h : k ∉ ([.mir, .out] : List Blk)) (a0 : _) (a1 : _) :
    viewR k (execOutputsLive a0 a1) = some (view k a1) := by
  simp only [List.mem_cons, List.not_mem_nil, or_false, not_or] at h
  simp only [execOutputsLive, sendCmd_view, setMir_view, view_when, view_foldl, view_foldFin, viewR_ok, apply_ite (view k), ite_self, implies_true, h, List.mem_cons, List.not_mem_nil, or_false, not_or, ne_eq, not_false_eq_true, and_self]

theorem execTransmittersSettled_view {k : Blk} (h : k ∉ ([.hub, .shu, .loom, .zor, .prism, .dbank, .dio, .aio, .enc, .can, .brk, .mir, .hed, .rcd, .pwr, .out, .free] : List Blk)) (a0 : _) :
    viewR k (execTransmittersSettled a0) = some (view k a0) := by
  simp only [List.mem_cons, List.not_mem_nil, or_false, not_or] at h
  simp only [execTransmittersSettled, judge_view, setMir_view, sendCmd_view, view_when, view_foldl, view_foldFin, viewR_ok, apply_ite (view k), ite_self, implies_true, h, List.mem_cons, List.not_mem_nil, or_false, not_or, ne_eq, not_false_eq_true, and_self]

theorem execLiveTimeout_view {k : Blk} (h : k ∉ ([.mem, .hub, .shu, .loom, .tbase, .zor, .prism, .win, .dbank, .dio, .aio, .enc, .can, .eth, .tim, .brk, .mir, .hed, .sec, .svc, .rcd, .pan, .pwr, .codes, .out, .free] : List Blk)) (a0 : _) :
    viewR k (execLiveTimeout a0) = some (view k a0) := by
  simp only [List.mem_cons, List.not_mem_nil, or_false, not_or] at h
  unfold execLiveTimeout
  (repeat' split) <;> simp only [failsOut_view, shutdownAsk_view, setPwr_view, judge_view, completeOpen_view, setMir_view, cmdAnswered_view, warmReset_view, stopDriving_view, aloneStopped_view, oldSteps_view, raise_view, view_when, view_foldl, view_foldFin, viewR_ok, apply_ite (view k), ite_self, implies_true, h, List.mem_cons, List.not_mem_nil, or_false, not_or, ne_eq, not_false_eq_true, and_self]

theorem syncAgain_view {k : Blk} (h : k ∉ ([.hub, .loom, .mir, .rcd, .out] : List Blk)) (a0 : _) (a1 : _) :
    view k (syncAgain a0 a1) = view k a1 := by
  simp only [List.mem_cons, List.not_mem_nil, or_false, not_or] at h
  simp only [syncAgain, setMir_view, sendFrame_view, syncAbandon_view, view_when, view_foldl, view_foldFin, apply_ite (view k), ite_self, implies_true, h, List.mem_cons, List.not_mem_nil, or_false, not_or, ne_eq, not_false_eq_true, and_self]

theorem framesLost_view {k : Blk} (h : k ∉ ([.hub, .shu, .loom, .zor, .mir, .hed, .rcd, .out, .free] : List Blk)) (a0 : _) (a1 : _) :
    view k (framesLost a0 a1) = view k a1 := by
  simp only [List.mem_cons, List.not_mem_nil, or_false, not_or] at h
  simp only [framesLost, standbyLeaves_view, syncAbandon_view, raise_view, toSyncing_view, view_when, view_foldl, view_foldFin, apply_ite (view k), ite_self, implies_true, h, List.mem_cons, List.not_mem_nil, or_false, not_or, ne_eq, not_false_eq_true, and_self]

theorem frameSeen_view {k : Blk} (h : k ∉ ([.hub, .shu, .loom, .zor, .mir, .hed, .rcd, .out, .free] : List Blk)) (a0 : _) (a1 : _) (a2 : _) (a3 : _) (a4 : _) :
    view k (frameSeen a0 a1 a2 a3 a4).1 = view k a4 := by
  simp only [List.mem_cons, List.not_mem_nil, or_false, not_or] at h
  simp only [frameSeen, syncAgain_view, framesLost_view, drawn_view, setMir_view, crossDiscard_view, view_put_hed, view_when, view_foldl, view_foldFin, apply_ite Prod.fst, apply_ite (view k), ite_self, implies_true, h, List.mem_cons, List.not_mem_nil, or_false, not_or, ne_eq, not_false_eq_true, and_self]

theorem frameTake_view {k : Blk} (h : k ∉ ([.hub, .shu, .loom, .zor, .mir, .hed, .rcd, .out, .free] : List Blk)) (a0 : _) (a1 : _) (a2 : _) (a3 : _) :
    view k (frameTake a0 a1 a2 a3).1 = view k a3 := by
  simp only [List.mem_cons, List.not_mem_nil, or_false, not_or] at h
  simp only [frameTake, frameSeen_view, view_when, view_foldl, view_foldFin, apply_ite Prod.fst, h, List.mem_cons, List.not_mem_nil, or_false, not_or, ne_eq, not_false_eq_true, and_self]

theorem frameHigh_view {k : Blk} (h : k ∉ ([.hub, .shu, .loom, .zor, .mir, .hed, .rcd, .out, .free] : List Blk)) (n : _) (e : _) (i : _) (f : State → State) (s : State)
    (hf : ∀ t, view k (f t) = view k t) : viewR k (frameHigh n e i f s) = some (view k s) := by
  simp only [List.mem_cons, List.not_mem_nil, or_false, not_or] at h
  have e : view k (frameTake n 1 e s).1 = view k s := frameTake_view (by simp only [h, List.mem_cons, List.not_mem_nil, or_false, not_or, ne_eq, not_false_eq_true, and_self]) _ _ _ _
  unfold frameHigh
  rw [viewR_ok]
  (repeat' split) <;> simp only [hf, e, frameTake_view, setMir_view, h, List.mem_cons, List.not_mem_nil, or_false, not_or, ne_eq, not_false_eq_true, and_self]

theorem updateTake_view {k : Blk} (h : k ∉ ([.mir] : List Blk)) (a0 : _) (a1 : _) :
    view k (updateTake a0 a1) = view k a1 := by
  simp only [List.mem_cons, List.not_mem_nil, or_false, not_or] at h
  simp only [updateTake, setMir_view, view_when, view_foldl, view_foldFin, h, List.mem_cons, List.not_mem_nil, or_false, not_or, ne_eq, not_false_eq_true, and_self]

theorem latchTake_view {k : Blk} (h : k ∉ ([.hub, .shu, .loom, .zor, .mir, .hed, .rcd, .out, .free] : List Blk)) (a0 : _) (a1 : _) :
    view k (latchTake a0 a1) = view k a1 := by
  simp only [List.mem_cons, List.not_mem_nil, or_false, not_or] at h
  simp only [latchTake, standbyLeaves_view, setMir_view, latchNext_view, syncAbandon_view, toSyncing_view, view_when, view_foldl, view_foldFin, apply_ite (view k), ite_self, implies_true, h, List.mem_cons, List.not_mem_nil, or_false, not_or, ne_eq, not_false_eq_true, and_self]

theorem sampleTake_view {k : Blk} (h : k ∉ ([.mir] : List Blk)) (a0 : _) (a1 : _) :
    view k (sampleTake a0 a1) = view k a1 := by
  simp only [List.mem_cons, List.not_mem_nil, or_false, not_or] at h
  simp only [sampleTake, setMir_view, view_when, view_foldl, view_foldFin, h, List.mem_cons, List.not_mem_nil, or_false, not_or, ne_eq, not_false_eq_true, and_self]

theorem signatureTake_view {k : Blk} (h : k ∉ ([.hub, .loom, .mir, .rcd, .out] : List Blk)) (a0 : _) (a1 : _) :
    view k (signatureTake a0 a1) = view k a1 := by
  simp only [List.mem_cons, List.not_mem_nil, or_false, not_or] at h
  simp only [signatureTake, sigPeer_view, view_when, view_foldl, view_foldFin, apply_ite (view k), ite_self, implies_true, h, List.mem_cons, List.not_mem_nil, or_false, not_or, ne_eq, not_false_eq_true, and_self]

theorem execUpdate_view {k : Blk} (h : k ∉ ([.hub, .shu, .loom, .zor, .mir, .hed, .rcd, .out, .free] : List Blk)) (a0 : _) (a1 : _) (a2 : _) :
    viewR k (execUpdate a0 a1 a2) = some (view k a2) := by
  simp only [List.mem_cons, List.not_mem_nil, or_false, not_or] at h
  simp only [execUpdate, updateTake_view, frameHigh_view, view_when, view_foldl, view_foldFin, viewR_ok, apply_ite (view k), ite_self, implies_true, h, List.mem_cons, List.not_mem_nil, or_false, not_or, ne_eq, not_false_eq_true, and_self]

theorem execLatch_view {k : Blk} (h : k ∉ ([.hub, .shu, .loom, .zor, .mir, .hed, .rcd, .out, .free] : List Blk)) (a0 : _) (a1 : _) (a2 : _) :
    viewR k (execLatch a0 a1 a2) = some (view k a2) := by
  simp only [List.mem_cons, List.not_mem_nil, or_false, not_or] at h
  simp only [execLatch, latchTake_view, frameHigh_view, view_when, view_foldl, view_foldFin, viewR_ok, apply_ite (view k), ite_self, implies_true, h, List.mem_cons, List.not_mem_nil, or_false, not_or, ne_eq, not_false_eq_true, and_self]

theorem execSample_view {k : Blk} (h : k ∉ ([.hub, .shu, .loom, .zor, .mir, .hed, .rcd, .out, .free] : List Blk)) (a0 : _) (a1 : _) (a2 : _) :
    viewR k (execSample a0 a1 a2) = some (view k a2) := by
  simp only [List.mem_cons, List.not_mem_nil, or_false, not_or] at h
  simp only [execSample, sampleTake_view, frameHigh_view, view_when, view_foldl, view_foldFin, viewR_ok, apply_ite (view k), ite_self, implies_true, h, List.mem_cons, List.not_mem_nil, or_false, not_or, ne_eq, not_false_eq_true, and_self]

theorem execSignature_view {k : Blk} (h : k ∉ ([.hub, .shu, .loom, .zor, .mir, .hed, .rcd, .out, .free] : List Blk)) (a0 : _) (a1 : _) (a2 : _) :
    viewR k (execSignature a0 a1 a2) = some (view k a2) := by
  simp only [List.mem_cons, List.not_mem_nil, or_false, not_or] at h
  simp only [execSignature, signatureTake_view, frameHigh_view, view_when, view_foldl, view_foldFin, viewR_ok, apply_ite (view k), ite_self, implies_true, h, List.mem_cons, List.not_mem_nil, or_false, not_or, ne_eq, not_false_eq_true, and_self]

theorem earlyRun_view {k : Blk} (h : k ∉ ([.hub, .shu, .loom, .zor, .mir, .hed, .rcd, .out, .free] : List Blk)) (a0 : _) (a1 : _) :
    view k (earlyRun a0 a1) = view k a0 := by
  simp only [List.mem_cons, List.not_mem_nil, or_false, not_or] at h
  unfold earlyRun
  (repeat' split) <;> simp only [signatureTake_view, sampleTake_view, latchTake_view, updateTake_view, view_when, view_foldl, view_foldFin, apply_ite (view k), ite_self, implies_true, h, List.mem_cons, List.not_mem_nil, or_false, not_or, ne_eq, not_false_eq_true, and_self]

theorem execSignatureTimeout_view {k : Blk} (h : k ∉ ([.hub, .shu, .loom, .zor, .mir, .hed, .rcd, .out, .free] : List Blk)) (a0 : _) :
    viewR k (execSignatureTimeout a0) = some (view k a0) := by
  simp only [List.mem_cons, List.not_mem_nil, or_false, not_or] at h
  simp only [execSignatureTimeout, framesLost_view, view_when, view_foldl, view_foldFin, viewR_ok, apply_ite (view k), ite_self, implies_true, h, List.mem_cons, List.not_mem_nil, or_false, not_or, ne_eq, not_false_eq_true, and_self]

theorem forwardTake_view {k : Blk} (h : k ∉ ([.hub, .shu, .loom, .zor, .prism, .dbank, .dio, .aio, .enc, .can, .brk, .mir, .hed, .rcd, .pan, .pwr, .out, .free] : List Blk)) (a0 : _) (a1 : _) :
    view k (forwardTake a0 a1) = view k a1 := by
  simp only [List.mem_cons, List.not_mem_nil, or_false, not_or] at h
  simp only [forwardTake, bad_view, drawn_view, sendFrame_view, apply_view, swapBegin_view, view_when, view_foldl, view_foldFin, apply_ite (view k), ite_self, implies_true, h, List.mem_cons, List.not_mem_nil, or_false, not_or, ne_eq, not_false_eq_true, and_self]
  (repeat' split) <;> first | with_reducible rfl | simp only [bad_view, drawn_view, sendFrame_view, apply_view, swapBegin_view, view_when, view_foldl, view_foldFin, apply_ite (view k), ite_self, implies_true, h, List.mem_cons, List.not_mem_nil, or_false, not_or, ne_eq, not_false_eq_true, and_self]

theorem faultTaken_view {k : Blk} (h : k ∉ ([.hub, .shu, .loom, .zor, .prism, .dbank, .dio, .aio, .can, .mir, .hed, .rcd, .pwr, .out, .free] : List Blk)) (a0 : _) (a1 : _) (a2 : _) (a3 : _) :
    view k (faultTaken a0 a1 a2 a3) = view k a3 := by
  simp only [List.mem_cons, List.not_mem_nil, or_false, not_or] at h
  unfold faultTaken
  (repeat' split) <;> simp only [setPrism_view, slotsOff_view, setMir_view, setLoom_view, taskStop_view, toSyncing_view, syncAbandon_view, view_when, view_foldl, view_foldFin, apply_ite (view k), ite_self, implies_true, h, List.mem_cons, List.not_mem_nil, or_false, not_or, ne_eq, not_false_eq_true, and_self]

theorem execForward_view {k : Blk} (h : k ∉ ([.hub, .shu, .loom, .zor, .prism, .dbank, .dio, .aio, .enc, .can, .brk, .mir, .hed, .rcd, .pan, .pwr, .out, .free] : List Blk)) (a0 : _) (a1 : _) (a2 : _) :
    viewR k (execForward a0 a1 a2) = some (view k a2) := by
  simp only [List.mem_cons, List.not_mem_nil, or_false, not_or] at h
  simp only [execForward, faultTaken_view, brkTestTaken_view, forwardTake_view, frameTake_view, view_when, view_foldl, view_foldFin, viewR_ok, apply_ite (view k), ite_self, implies_true, h, List.mem_cons, List.not_mem_nil, or_false, not_or, ne_eq, not_false_eq_true, and_self]

theorem execFwdAck_view {k : Blk} (h : k ∉ ([.hub, .shu, .loom, .zor, .prism, .dbank, .dio, .aio, .enc, .can, .brk, .mir, .hed, .rcd, .pan, .pwr, .out, .free] : List Blk)) (a0 : _) (a1 : _) (a2 : _) :
    viewR k (execFwdAck a0 a1 a2) = some (view k a2) := by
  simp only [List.mem_cons, List.not_mem_nil, or_false, not_or] at h
  simp only [execFwdAck, applyForwarded_view, frameTake_view, view_when, view_foldl, view_foldFin, viewR_ok, apply_ite (view k), ite_self, implies_true, h, List.mem_cons, List.not_mem_nil, or_false, not_or, ne_eq, not_false_eq_true, and_self]
  (repeat' split) <;> first | with_reducible rfl | simp only [applyForwarded_view, frameTake_view, view_when, view_foldl, view_foldFin, viewR_ok, apply_ite (view k), ite_self, implies_true, h, List.mem_cons, List.not_mem_nil, or_false, not_or, ne_eq, not_false_eq_true, and_self]

theorem swapTake_view {k : Blk} (h : k ∉ ([.shu, .zor, .mir, .hed, .rcd, .out, .free] : List Blk)) (a0 : _) (a1 : _) :
    view k (swapTake a0 a1) = view k a1 := by
  simp only [List.mem_cons, List.not_mem_nil, or_false, not_or] at h
  unfold swapTake
  (repeat' split) <;> simp only [setZor_view, swapCompare_view, swapEnd_view, swapSend_view, view_when, view_foldl, view_foldFin, apply_ite (view k), ite_self, implies_true, h, List.mem_cons, List.not_mem_nil, or_false, not_or, ne_eq, not_false_eq_true, and_self]

theorem execSwap_view {k : Blk} (h : k ∉ ([.hub, .shu, .loom, .zor, .mir, .hed, .rcd, .out, .free] : List Blk)) (a0 : _) (a1 : _) (a2 : _) :
    viewR k (execSwap a0 a1 a2) = some (view k a2) := by
  simp only [List.mem_cons, List.not_mem_nil, or_false, not_or] at h
  simp only [execSwap, swapTake_view, frameTake_view, view_when, view_foldl, view_foldFin, viewR_ok, apply_ite (view k), ite_self, implies_true, h, List.mem_cons, List.not_mem_nil, or_false, not_or, ne_eq, not_false_eq_true, and_self]

theorem helloTake_view {k : Blk} (h : k ∉ ([.mir, .rcd] : List Blk)) (a0 : _) (a1 : _) :
    view k (helloTake a0 a1) = view k a1 := by
  simp only [List.mem_cons, List.not_mem_nil, or_false, not_or] at h
  simp only [helloTake, setMir_view, syncEnter_view, lifeEvent_view, view_when, view_foldl, view_foldFin, apply_ite (view k), ite_self, implies_true, h, List.mem_cons, List.not_mem_nil, or_false, not_or, ne_eq, not_false_eq_true, and_self]

theorem execSyncData_view {k : Blk} (h : k ∉ ([.hub, .shu, .loom, .zor, .mir, .hed, .rcd, .out, .free] : List Blk)) (a0 : _) (a1 : _) (a2 : _) (a3 : _) :
    viewR k (execSyncData a0 a1 a2 a3) = some (view k a3) := by
  simp only [List.mem_cons, List.not_mem_nil, or_false, not_or] at h
  simp only [execSyncData, syncBegin_view, frameSeen_view, syncSeg_view, helloTake_view, setMir_view, syncAgain_view, frameTake_view, view_when, view_foldl, view_foldFin, viewR_ok, apply_ite (view k), ite_self, implies_true, h, List.mem_cons, List.not_mem_nil, or_false, not_or, ne_eq, not_false_eq_true, and_self]
  (repeat' split) <;> first | with_reducible rfl | simp only [syncBegin_view, frameSeen_view, syncSeg_view, helloTake_view, setMir_view, syncAgain_view, frameTake_view, view_when, view_foldl, view_foldFin, viewR_ok, apply_ite (view k), ite_self, implies_true, h, List.mem_cons, List.not_mem_nil, or_false, not_or, ne_eq, not_false_eq_true, and_self]

theorem syncImage_view {k : Blk} (h : k ∉ ([.hub, .loom, .zor, .prism, .eth, .tim, .mir, .hed, .sec, .rcd, .pan, .codes, .out, .free] : List Blk)) (a0 : _) (a1 : _) :
    view k (syncImage a0 a1) = view k a1 := by
  simp only [List.mem_cons, List.not_mem_nil, or_false, not_or] at h
  simp only [syncImage, engineLoad_view, paramsApply_view, hedImage_view, setZor_view, view_when, view_foldl, view_foldFin, apply_ite (view k), ite_self, implies_true, h, List.mem_cons, List.not_mem_nil, or_false, not_or, ne_eq, not_false_eq_true, and_self]

theorem syncStateEnd_view {k : Blk} (h : k ∉ ([.hub, .shu, .loom, .zor, .mir, .hed, .rcd, .out, .free] : List Blk)) (l : List (Nat × (State → State))) (s : State)
    (hl : ∀ p ∈ l, ∀ t, view k (p.2 t) = view k t) : view k (syncStateEnd l s) = view k s := by
  simp only [List.mem_cons, List.not_mem_nil, or_false, not_or] at h
  have e : ∀ (l : List (Nat × (State → State))), (∀ p ∈ l, ∀ t, view k (p.2 t) = view k t) → ∀ s, view k (l.foldl (fun t f => f.2 t) s) = view k s := by
    intro l
    induction l with
    | nil => intro _ s; rfl
    | cons a l ih => intro hl s; rw [List.foldl_cons, ih (fun p hp => hl p (List.mem_cons_of_mem _ hp)), hl a List.mem_cons_self]
  unfold syncStateEnd
  dsimp only
  rw [view_foldl (fun t i => earlyRun_view (by simp only [h, List.mem_cons, List.not_mem_nil, or_false, not_or, ne_eq, not_false_eq_true, and_self]) t i), syncEnter_view (by simp only [h, List.mem_cons, List.not_mem_nil, or_false, not_or, ne_eq, not_false_eq_true, and_self]), setMir_view (by simp only [h, List.mem_cons, List.not_mem_nil, or_false, not_or, ne_eq, not_false_eq_true, and_self]), e l hl]

theorem syncPhaseEnd_view {k : Blk} (h : k ∉ ([.hub, .shu, .loom, .zor, .prism, .dbank, .dio, .aio, .enc, .can, .eth, .tim, .brk, .mir, .hed, .sec, .rcd, .pan, .pwr, .codes, .out, .free] : List Blk)) (ms : _) (s : State) :
    view k (syncPhaseEnd ms s) = view k s := by
  simp only [List.mem_cons, List.not_mem_nil, or_false, not_or] at h
  unfold syncPhaseEnd
  split
  · simp only [lifeEvent_view, syncAbandon_view, h, List.mem_cons, List.not_mem_nil, or_false, not_or, ne_eq, not_false_eq_true, and_self]
  split
  · (repeat' split) <;> simp only [syncStateEnd_view, setMir_view, raise_view, roleChange_view, syncAbandon_view, syncConfig_view, syncEnter_view, syncImage_view, h, List.mem_cons, List.not_mem_nil, or_false, not_or, ne_eq, not_false_eq_true, and_self]
  · (repeat' split) <;> simp only [syncStateEnd_view, setMir_view, raise_view, roleChange_view, syncAbandon_view, syncConfig_view, syncEnter_view, syncImage_view, h, List.mem_cons, List.not_mem_nil, or_false, not_or, ne_eq, not_false_eq_true, and_self]
  · (repeat' split) <;> simp only [syncStateEnd_view, setMir_view, raise_view, roleChange_view, syncAbandon_view, syncConfig_view, syncEnter_view, syncImage_view, h, List.mem_cons, List.not_mem_nil, or_false, not_or, ne_eq, not_false_eq_true, and_self]
  · split
    · rfl
    · dsimp only
      split
      · rename_i fs hf
        split
        · exact syncStateEnd_view (by simp only [h, List.mem_cons, List.not_mem_nil, or_false, not_or, ne_eq, not_false_eq_true, and_self]) fs s (rdStates_view (by simp only [h, List.mem_cons, List.not_mem_nil, or_false, not_or, ne_eq, not_false_eq_true, and_self]) _ _ _ hf)
        · rfl
      · simp only [syncStateEnd_view, setMir_view, raise_view, roleChange_view, syncAbandon_view, syncConfig_view, syncEnter_view, syncImage_view, h, List.mem_cons, List.not_mem_nil, or_false, not_or, ne_eq, not_false_eq_true, and_self]
  · (repeat' split) <;> simp only [syncStateEnd_view, setMir_view, raise_view, roleChange_view, syncAbandon_view, syncConfig_view, syncEnter_view, syncImage_view, h, List.mem_cons, List.not_mem_nil, or_false, not_or, ne_eq, not_false_eq_true, and_self]
  · rfl

theorem execSyncPhaseEnd_view {k : Blk} (h : k ∉ ([.hub, .shu, .loom, .zor, .prism, .dbank, .dio, .aio, .enc, .can, .eth, .tim, .brk, .mir, .hed, .sec, .rcd, .pan, .pwr, .codes, .out, .free] : List Blk)) (a0 : _) (a1 : _) :
    viewR k (execSyncPhaseEnd a0 a1) = some (view k a1) := by
  simp only [List.mem_cons, List.not_mem_nil, or_false, not_or] at h
  simp only [execSyncPhaseEnd, syncPhaseEnd_view, view_when, view_foldl, view_foldFin, viewR_ok, apply_ite (view k), ite_self, implies_true, h, List.mem_cons, List.not_mem_nil, or_false, not_or, ne_eq, not_false_eq_true, and_self]

theorem execSyncTimeout_view {k : Blk} (h : k ∉ ([.hub, .loom, .mir, .rcd, .out] : List Blk)) (a0 : _) :
    viewR k (execSyncTimeout a0) = some (view k a0) := by
  simp only [List.mem_cons, List.not_mem_nil, or_false, not_or] at h
  simp only [execSyncTimeout, syncAbandon_view, view_when, view_foldl, view_foldFin, viewR_ok, apply_ite (view k), ite_self, implies_true, h, List.mem_cons, List.not_mem_nil, or_false, not_or, ne_eq, not_false_eq_true, and_self]

theorem execSyncRestart_view {k : Blk} (h : k ∉ ([.mir, .rcd, .out, .free] : List Blk)) (a0 : _) :
    viewR k (execSyncRestart a0) = some (view k a0) := by
  simp only [List.mem_cons, List.not_mem_nil, or_false, not_or] at h
  simp only [execSyncRestart, syncBegin_view, setMir_view, view_when, view_foldl, view_foldFin, viewR_ok, apply_ite (view k), ite_self, implies_true, h, List.mem_cons, List.not_mem_nil, or_false, not_or, ne_eq, not_false_eq_true, and_self]

end Sys2Proof.Laws
end

