-- ==== Sys2Proof/Laws/FrameTick.lean ====
section
/-! SUPPORT. What each operation of Machine/Tick.lean keeps: every block outside its footprint. -/

set_option Elab.async false

set_option linter.unusedSimpArgs false
set_option linter.unusedVariables false
set_option linter.unreachableTactic false
set_option linter.unusedTactic false
set_option linter.unnecessarySeqFocus false

namespace Sys2Proof.Laws

open Machine

theorem tickTime_view {k : Blk} (h : k ∉ ([.tim] : List Blk)) (a0 : _) :
    view k (tickTime a0) = view k a0 := by
  simp only [List.mem_cons, List.not_mem_nil, or_false, not_or] at h
  simp only [tickTime, setTim_view, view_when, view_foldl, view_foldFin, h, List.mem_cons, List.not_mem_nil, or_false, not_or, ne_eq, not_false_eq_true, and_self]

theorem tickLoom_view {k : Blk} (h : k ∉ ([.tbase] : List Blk)) (a0 : _) :
    view k (tickLoom a0) = view k a0 := by
  simp only [List.mem_cons, List.not_mem_nil, or_false, not_or] at h
  simp only [tickLoom, view_put_tbase, view_when, view_foldl, view_foldFin, apply_ite (view k), ite_self, implies_true, h, List.mem_cons, List.not_mem_nil, or_false, not_or, ne_eq, not_false_eq_true, and_self]

theorem tickLock_view {k : Blk} (n : _) (f g : State → State) (s : State) (hf : view k (f s) = view k s) (hg : view k (g s) = view k s) :
    view k (tickLock n f g s) = view k s := by
  unfold tickLock
  (repeat' split) <;> first | rfl | assumption

theorem tickLocks_view {k : Blk} (h : k ∉ ([.shu, .brk, .svc] : List Blk)) (a0 : _) :
    view k (tickLocks a0) = view k a0 := by
  simp only [List.mem_cons, List.not_mem_nil, or_false, not_or] at h
  simp only [tickLocks, brkUnlock_view, tickLock_view, svcUnlock_view, setSvc_view, sessUnlock_view, setSess_view, view_put_brk, view_when, view_foldl, view_foldFin, h, List.mem_cons, List.not_mem_nil, or_false, not_or, ne_eq, not_false_eq_true, and_self]

theorem tickBuckets_view {k : Blk} (h : k ∉ ([.rcd] : List Blk)) (a0 : _) :
    view k (tickBuckets a0) = view k a0 := by
  simp only [List.mem_cons, List.not_mem_nil, or_false, not_or] at h
  simp only [tickBuckets, view_put_rcd, view_when, view_foldl, view_foldFin, apply_ite (view k), ite_self, implies_true, h, List.mem_cons, List.not_mem_nil, or_false, not_or, ne_eq, not_false_eq_true, and_self]

theorem tickAge_view {k : Blk} (h : k ∉ ([.pwr] : List Blk)) (a0 : _) :
    view k (tickAge a0) = view k a0 := by
  simp only [List.mem_cons, List.not_mem_nil, or_false, not_or] at h
  simp only [tickAge, setPwr_view, view_when, view_foldl, view_foldFin, h, List.mem_cons, List.not_mem_nil, or_false, not_or, ne_eq, not_false_eq_true, and_self]

theorem tickStart_view {k : Blk} (h : k ∉ ([.pwr] : List Blk)) (a0 : _) :
    view k (tickStart a0) = view k a0 := by
  simp only [List.mem_cons, List.not_mem_nil, or_false, not_or] at h
  unfold tickStart
  (repeat' split) <;> simp only [setPwr_view, view_when, view_foldl, view_foldFin, apply_ite (view k), ite_self, implies_true, h, List.mem_cons, List.not_mem_nil, or_false, not_or, ne_eq, not_false_eq_true, and_self]

theorem tickLanes_view {k : Blk} (h : k ∉ ([.mir, .out] : List Blk)) (a0 : _) :
    view k (tickLanes a0) = view k a0 := by
  simp only [List.mem_cons, List.not_mem_nil, or_false, not_or] at h
  simp only [tickLanes, txRun_view, view_put_mir, view_when, view_foldl, view_foldFin, apply_ite (view k), ite_self, implies_true, h, List.mem_cons, List.not_mem_nil, or_false, not_or, ne_eq, not_false_eq_true, and_self]

theorem tickEth_view {k : Blk} (h : k ∉ ([.eth, .rcd, .out] : List Blk)) (a0 : _) :
    view k (tickEth a0) = view k a0 := by
  simp only [List.mem_cons, List.not_mem_nil, or_false, not_or] at h
  simp only [tickEth, ethTick_view, view_when, view_foldl, view_foldFin, apply_ite (view k), ite_self, implies_true, h, List.mem_cons, List.not_mem_nil, or_false, not_or, ne_eq, not_false_eq_true, and_self]

theorem tickAlive_view {k : Blk} (h : k ∉ ([.mir] : List Blk)) (a0 : _) :
    view k (tickAlive a0) = view k a0 := by
  simp only [List.mem_cons, List.not_mem_nil, or_false, not_or] at h
  simp only [tickAlive, view_put_mir, view_when, view_foldl, view_foldFin, apply_ite (view k), ite_self, implies_true, h, List.mem_cons, List.not_mem_nil, or_false, not_or, ne_eq, not_false_eq_true, and_self]

theorem tickWatch_view {k : Blk} (h : k ∉ ([.mir, .rcd] : List Blk)) (a0 : _) :
    view k (tickWatch a0) = view k a0 := by
  simp only [List.mem_cons, List.not_mem_nil, or_false, not_or] at h
  simp only [tickWatch, linkFault_view, setMir_view, view_when, view_foldl, view_foldFin, apply_ite (view k), ite_self, implies_true, h, List.mem_cons, List.not_mem_nil, or_false, not_or, ne_eq, not_false_eq_true, and_self]

theorem tickAgain_view {k : Blk} (h : k ∉ ([.mem, .hub, .shu, .loom, .tbase, .zor, .prism, .win, .dbank, .dio, .aio, .enc, .can, .eth, .tim, .brk, .mir, .hed, .sec, .svc, .rcd, .pan, .pwr, .codes, .out, .free] : List Blk)) (a0 : _) :
    view k (tickAgain a0) = view k a0 := by
  simp only [List.mem_cons, List.not_mem_nil, or_false, not_or] at h
  unfold tickAgain
  (repeat' split) <;> simp only [failsOut_view, warmReset_view, handOver_view, view_put_mir, view_when, view_foldl, view_foldFin, apply_ite (view k), ite_self, implies_true, h, List.mem_cons, List.not_mem_nil, or_false, not_or, ne_eq, not_false_eq_true, and_self]

theorem tickRoll_view {k : Blk} (h : k ∉ ([.mem, .hed, .pwr] : List Blk)) (a0 : _) :
    view k (tickRoll a0) = view k a0 := by
  simp only [List.mem_cons, List.not_mem_nil, or_false, not_or] at h
  unfold tickRoll
  (repeat' split) <;> simp only [bistReturn_view, setHed_view, setPwr_view, view_when, apply_ite (view k), ite_self, implies_true, h, List.mem_cons, List.not_mem_nil, or_false, not_or, ne_eq, not_false_eq_true, and_self]

theorem tick_view {k : Blk} (h : k ∉ ([.mem, .hub, .shu, .loom, .tbase, .zor, .prism, .win, .dbank, .dio, .aio, .enc, .can, .eth, .tim, .brk, .mir, .hed, .sec, .svc, .rcd, .pan, .pwr, .codes, .out, .free] : List Blk)) (a0 : _) :
    view k (tick a0) = view k a0 := by
  simp only [List.mem_cons, List.not_mem_nil, or_false, not_or] at h
  simp only [tick, tickStart_view, tickWatch_view, tickEth_view, tickLanes_view, tickTime_view, tickLoom_view, tickLocks_view, tickBuckets_view, tickAge_view, tickAlive_view, waitRun_view, swapFrozen_view, ladderRun_view, tickAgain_view, tickRoll_view, view_when, view_foldl, view_foldFin, apply_ite (view k), ite_self, implies_true, h, List.mem_cons, List.not_mem_nil, or_false, not_or, ne_eq, not_false_eq_true, and_self]

end Sys2Proof.Laws
end

