-- ==== Sys2Proof/Laws/FrameRows.lean ====
section
/-! SUPPORT. What the commands of opcodes and of single registers keep: every block outside its footprint. -/

set_option Elab.async false

set_option linter.unusedSimpArgs false
set_option linter.unusedVariables false
set_option linter.unreachableTactic false
set_option linter.unusedTactic false
set_option linter.unnecessarySeqFocus false

namespace Sys2Proof.Laws

open Machine

theorem dataRefused_op {s : State} {b : Bool} {d : Desc} {r : Nat × Nat} (h : dataRefused s b d = some r) :
    d.op ∈ ([0x01, 0x08, 0x12, 0x18, 0x1A, 0x38] : List Nat) := by
  unfold dataRefused at h
  dsimp only at h
  split at h
  · exact absurd h (by simp)
  · by_contra hn
    simp only [List.mem_cons, List.not_mem_nil, or_false, not_or] at hn
    have e : dataAddrs s d = [] := by
      unfold dataAddrs
      split <;> simp_all
    rw [e] at h
    exact absurd h (by simp)

theorem runXfer_at {k : Blk} (h : k ∉ ([.shu, .hed, .free] : List Blk)) (p : Desc → Bool) (d : HostData) (x : Xfer) (s : State)
    (hs : ∀ t b e z, p e = true → view k (deniedEffect t b e z) = view k t)
    (hf : ∀ c t, p c.d = true → (opSpec c.d.op).any (fun q => q.pair = .mirrored) = true → view k (forwardDesc c t) = view k t)
    (hr : ∀ e, p e = true → e.op ∈ ([0x01, 0x08, 0x12, 0x18, 0x1A, 0x38] : List Nat) → k ∉ ([.sec, .rcd] : List Blk))
    (hl : ∀ e, p e = true → 0 < dataLen e → k ∉ ([.hed, .rcd, .pwr] : List Blk))
    (ha : ∀ c t, p c.d = true → view k (apply c t).1 = view k t) : viewR k (runXfer p d x s) = some (view k s) := by
  simp only [List.mem_cons, List.not_mem_nil, or_false, not_or] at h
  have an : ∀ n a t, view k (answer n a t) = view k t := fun n a t => answer_view (by simp only [h, List.mem_cons, List.not_mem_nil, or_false, not_or, ne_eq, not_false_eq_true, and_self]) n a t
  have st : ∀ n t, view k (started n t) = view k t := fun n t => started_view (by simp only [h, List.mem_cons, List.not_mem_nil, or_false, not_or, ne_eq, not_false_eq_true, and_self]) n t
  have br : ∀ i l t, view k (bobRefuse i l t) = view k t := fun i l t => bobRefuse_view (by simp only [h, List.mem_cons, List.not_mem_nil, or_false, not_or, ne_eq, not_false_eq_true, and_self]) i l t
  have bt : ∀ i l t, view k (bobThrough i l t) = view k t := fun i l t => bobThrough_view (by simp only [h, List.mem_cons, List.not_mem_nil, or_false, not_or, ne_eq, not_false_eq_true, and_self]) i l t
  unfold runXfer
  rw [viewR_ok]
  split
  · rename_i f _
    split
    · rename_i hp
      have hp : p f.desc = true := by revert hp; simp only [Bool.and_eq_true]; exact fun q => q.1
      have hm : ∀ t, view k (dataMissing f stPoison t) = view k t := by
        intro t
        unfold dataMissing
        dsimp only
        split
        · rw [an, hs _ _ _ _ hp]
        · rw [an]
      have hd : ∀ b xf o t, view k (startDesc f b xf o t) = view k t := by
        intro b xf o t
        unfold startDesc
        dsimp only
        split
        · rw [an, br, hs _ _ _ _ hp]
        · split
          · rename_i r hq
            rw [an, br, regionViol_view (hr _ hp (dataRefused_op hq))]
          · have s2 : ∀ y u, view k (started f.no (when y (bobThrough 10 b) u)) = view k u := fun y u => by
              rw [st, view_when _ fun t => bt _ _ t]
            split
            · rename_i hm
              simp only [Bool.and_eq_true] at hm
              rw [hf _ _ hp hm.1, s2]
            · unfold applyNow
              dsimp only
              have hb : ∀ a1 a2 a3 a4 a5 a6 u, view k (apply { no := a1, d := f.desc, secure := a2, data := a3, xfer := a4, count := a5, onward := a6 } u).1 = view k u :=
                fun a1 a2 a3 a4 a5 a6 u => ha _ u hp
              split <;> simp only [an, hb, s2]
      split
      · rw [hm]
      · split
        · rw [aerNote_view (by simp only [h, List.mem_cons, List.not_mem_nil, or_false, not_or, ne_eq, not_false_eq_true, and_self]), hm]
        · split
          · rename_i q
            simp only [Bool.and_eq_true, decide_eq_true_eq] at q
            rw [hm, parityFail_view (hl _ hp q.1)]
          · rw [hd]
    · rfl
  · rfl

theorem runRow_at {k : Blk} (h : k ∉ ([.shu, .hed, .free] : List Blk)) (p : Desc → Bool) (d : HostData) (s : State)
    (hs : ∀ t b e z, p e = true → view k (deniedEffect t b e z) = view k t)
    (hf : ∀ c t, p c.d = true → (opSpec c.d.op).any (fun q => q.pair = .mirrored) = true → view k (forwardDesc c t) = view k t)
    (hr : ∀ e, p e = true → e.op ∈ ([0x01, 0x08, 0x12, 0x18, 0x1A, 0x38] : List Nat) → k ∉ ([.sec, .rcd] : List Blk))
    (hl : ∀ e, p e = true → 0 < dataLen e → k ∉ ([.hed, .rcd, .pwr] : List Blk))
    (ha : ∀ c t, p c.d = true → view k (apply c t).1 = view k t) : viewR k (runRow p d s) = some (view k s) :=
  runXfer_at h p d .whole s hs hf hr hl ha

theorem deniedEffect_other {k : Blk} (s : State) (b : Bool) (d : Desc) (z : Option (List Byte)) (h : d.op ≠ 0x0A) (h' : d.op ≠ 0x50)
    (h'' : d.op ≠ 0x41) : view k (deniedEffect s b d z) = view k s := by
  unfold deniedEffect
  rw [if_neg (by simp [h'']), if_neg (by simp [h]), if_neg (by simp [h'])]

theorem forwardDesc_other {k : Blk} (h : k ∉ ([.mir, .out] : List Blk)) (c : Call) (s : State) (e : stopsTask s c.d = false) :
    view k (forwardDesc c s) = view k s := by
  simp only [List.mem_cons, List.not_mem_nil, or_false, not_or] at h
  unfold forwardDesc
  dsimp only
  rw [e]
  simp only [when, Bool.false_eq_true, if_false, forwardSend_view, view_put_mir, h, List.mem_cons, List.not_mem_nil, or_false, not_or, ne_eq, not_false_eq_true, and_self]

theorem execUnknownOpcode_view {k : Blk} (h : k ∉ ([.shu, .hed, .free] : List Blk)) (s : State) :
    viewR k (execUnknownOpcode s) = some (view k s) := by
  simp only [List.mem_cons, List.not_mem_nil, or_false, not_or] at h
  unfold execUnknownOpcode runBare
  refine runRow_at (k := k) (by simp only [h, List.mem_cons, List.not_mem_nil, or_false, not_or, ne_eq, not_false_eq_true, and_self]) _ _ s ?_ ?_ ?_ ?_ ?_
  · intro t b e z hp
    exact deniedEffect_other t b e z (fun q => by rw [q] at hp; exact absurd hp (by decide)) (fun q => by rw [q] at hp; exact absurd hp (by decide))
      (fun q => by rw [q] at hp; exact absurd hp (by decide))
  · intro c t hp hm
    revert hm
    rw [Option.isNone_iff_eq_none.mp hp]
    exact fun hm => absurd hm (by decide)
  · intro e hp q
    simp only [List.mem_cons, List.not_mem_nil, or_false] at q
    rcases q with q | q | q | q | q | q <;> (rw [q] at hp; exact absurd hp (by decide))
  · intro e hp q
    unfold dataLen at q
    split at q
    · rename_i q1
      rw [q1] at hp
      exact absurd hp (by decide)
    · split at q
      · rename_i q1
        simp only [List.contains_cons, List.contains_nil, Bool.or_false, Bool.or_eq_true, beq_iff_eq] at q1
        rcases q1 with q1 | q1 | q1 | q1 | q1 | q1 | q1 | q1 | q1 <;> (rw [q1] at hp; exact absurd hp (by decide))
      · exact absurd q (by omega)
  · intro c t hp
    unfold apply
    split <;> first | rfl | (rename_i q; simp only [q] at hp; exact absurd hp (by decide))

theorem execDescriptorNop_view {k : Blk} (h : k ∉ ([.shu, .hed, .free] : List Blk)) (s : State) :
    viewR k (execDescriptorNop s) = some (view k s) := by
  simp only [List.mem_cons, List.not_mem_nil, or_false, not_or] at h
  unfold execDescriptorNop runBare
  refine runRow_at (k := k) (by simp only [h, List.mem_cons, List.not_mem_nil, or_false, not_or, ne_eq, not_false_eq_true, and_self]) _ _ s ?_ ?_ ?_ ?_ ?_
  · intro t b e z hp
    have q : e.op = 0x00 := by simp only [Bool.and_eq_true, decide_eq_true_eq, ne_eq] at hp; first | exact hp | exact hp.1 | exact hp.1.1
    exact deniedEffect_other t b e z (by rw [q]; decide) (by rw [q]; decide) (by rw [q]; decide)
  · intro c t hp hm
    have q : c.d.op = 0x00 := by simp only [Bool.and_eq_true, decide_eq_true_eq, ne_eq] at hp; first | exact hp | exact hp.1 | exact hp.1.1
    rw [q] at hm
    exact absurd hm (by decide)
  · intro e hp q
    have q' : e.op = 0x00 := by simp only [Bool.and_eq_true, decide_eq_true_eq, ne_eq] at hp; first | exact hp | exact hp.1 | exact hp.1.1
    rw [q'] at q
    exact absurd q (by decide)
  · intro e hp q
    have q' : e.op = 0x00 := by simp only [Bool.and_eq_true, decide_eq_true_eq, ne_eq] at hp; first | exact hp | exact hp.1 | exact hp.1.1
    unfold dataLen at q
    rw [q'] at q
    exact absurd q (Nat.lt_irrefl 0)
  · intro c t hp
    have q : c.d.op = 0x00 := by simp only [Bool.and_eq_true, decide_eq_true_eq, ne_eq] at hp; first | exact hp | exact hp.1 | exact hp.1.1
    unfold apply
    rw [q]
    rfl

theorem execCreate_view {k : Blk} (h : k ∉ ([.hub, .shu, .loom, .zor, .prism, .dbank, .dio, .aio, .enc, .can, .mir, .hed, .sec, .rcd, .pwr, .out, .free] : List Blk)) (d : HostData) (s : State) :
    viewR k (execCreate d s) = some (view k s) := by
  simp only [List.mem_cons, List.not_mem_nil, or_false, not_or] at h
  unfold execCreate
  refine runRow_at (k := k) (by simp only [h, List.mem_cons, List.not_mem_nil, or_false, not_or, ne_eq, not_false_eq_true, and_self]) _ _ s ?_ ?_ ?_ ?_ ?_
  · intro t b e z hp
    have q : e.op = 0x01 := by simp only [Bool.and_eq_true, decide_eq_true_eq, ne_eq] at hp; first | exact hp | exact hp.1 | exact hp.1.1
    exact deniedEffect_other t b e z (by rw [q]; decide) (by rw [q]; decide) (by rw [q]; decide)
  · intro c t hp hm
    have q : c.d.op = 0x01 := by simp only [Bool.and_eq_true, decide_eq_true_eq, ne_eq] at hp; first | exact hp | exact hp.1 | exact hp.1.1
    exact forwardDesc_other (by simp only [h, List.mem_cons, List.not_mem_nil, or_false, not_or, ne_eq, not_false_eq_true, and_self]) c t (by simp [stopsTask, q])
  · exact fun _ _ _ => by simp only [h, List.mem_cons, List.not_mem_nil, or_false, not_or, ne_eq, not_false_eq_true, and_self]
  · exact fun _ _ _ => by simp only [h, List.mem_cons, List.not_mem_nil, or_false, not_or, ne_eq, not_false_eq_true, and_self]
  · intro c t hp
    have q : c.d.op = 0x01 := by simp only [Bool.and_eq_true, decide_eq_true_eq, ne_eq] at hp; first | exact hp | exact hp.1 | exact hp.1.1
    unfold apply
    rw [q]
    exact apCreate_view (by simp only [h, List.mem_cons, List.not_mem_nil, or_false, not_or, ne_eq, not_false_eq_true, and_self]) c t

theorem execDestroy_view {k : Blk} (h : k ∉ ([.hub, .shu, .loom, .zor, .prism, .dbank, .dio, .aio, .enc, .can, .brk, .mir, .hed, .rcd, .pwr, .out, .free] : List Blk)) (s : State) :
    viewR k (execDestroy s) = some (view k s) := by
  simp only [List.mem_cons, List.not_mem_nil, or_false, not_or] at h
  unfold execDestroy runBare
  refine runRow_at (k := k) (by simp only [h, List.mem_cons, List.not_mem_nil, or_false, not_or, ne_eq, not_false_eq_true, and_self]) _ _ s ?_ ?_ ?_ ?_ ?_
  · intro t b e z hp
    have q : e.op = 0x02 := by simp only [Bool.and_eq_true, decide_eq_true_eq, ne_eq] at hp; first | exact hp | exact hp.1 | exact hp.1.1
    exact deniedEffect_other t b e z (by rw [q]; decide) (by rw [q]; decide) (by rw [q]; decide)
  · intro c t hp hm
    have q : c.d.op = 0x02 := by simp only [Bool.and_eq_true, decide_eq_true_eq, ne_eq] at hp; first | exact hp | exact hp.1 | exact hp.1.1
    exact forwardDesc_view (by simp only [h, List.mem_cons, List.not_mem_nil, or_false, not_or, ne_eq, not_false_eq_true, and_self]) c t
  · intro e hp q
    have q' : e.op = 0x02 := by simp only [Bool.and_eq_true, decide_eq_true_eq, ne_eq] at hp; first | exact hp | exact hp.1 | exact hp.1.1
    rw [q'] at q
    exact absurd q (by decide)
  · intro e hp q
    have q' : e.op = 0x02 := by simp only [Bool.and_eq_true, decide_eq_true_eq, ne_eq] at hp; first | exact hp | exact hp.1 | exact hp.1.1
    unfold dataLen at q
    rw [q'] at q
    exact absurd q (Nat.lt_irrefl 0)
  · intro c t hp
    have q : c.d.op = 0x02 := by simp only [Bool.and_eq_true, decide_eq_true_eq, ne_eq] at hp; first | exact hp | exact hp.1 | exact hp.1.1
    unfold apply
    rw [q]
    exact onHandle_view c apDestroy t (apDestroy_view (by simp only [h, List.mem_cons, List.not_mem_nil, or_false, not_or, ne_eq, not_false_eq_true, and_self]) c t)

theorem execHandleQuery_view {k : Blk} (h : k ∉ ([.shu, .hed, .free] : List Blk)) (s : State) :
    viewR k (execHandleQuery s) = some (view k s) := by
  simp only [List.mem_cons, List.not_mem_nil, or_false, not_or] at h
  unfold execHandleQuery runBare
  refine runRow_at (k := k) (by simp only [h, List.mem_cons, List.not_mem_nil, or_false, not_or, ne_eq, not_false_eq_true, and_self]) _ _ s ?_ ?_ ?_ ?_ ?_
  · intro t b e z hp
    have q : e.op = 0x03 := by simp only [Bool.and_eq_true, decide_eq_true_eq, ne_eq] at hp; first | exact hp | exact hp.1 | exact hp.1.1
    exact deniedEffect_other t b e z (by rw [q]; decide) (by rw [q]; decide) (by rw [q]; decide)
  · intro c t hp hm
    have q : c.d.op = 0x03 := by simp only [Bool.and_eq_true, decide_eq_true_eq, ne_eq] at hp; first | exact hp | exact hp.1 | exact hp.1.1
    rw [q] at hm
    exact absurd hm (by decide)
  · intro e hp q
    have q' : e.op = 0x03 := by simp only [Bool.and_eq_true, decide_eq_true_eq, ne_eq] at hp; first | exact hp | exact hp.1 | exact hp.1.1
    rw [q'] at q
    exact absurd q (by decide)
  · intro e hp q
    have q' : e.op = 0x03 := by simp only [Bool.and_eq_true, decide_eq_true_eq, ne_eq] at hp; first | exact hp | exact hp.1 | exact hp.1.1
    unfold dataLen at q
    rw [q'] at q
    exact absurd q (Nat.lt_irrefl 0)
  · intro c t hp
    have q : c.d.op = 0x03 := by simp only [Bool.and_eq_true, decide_eq_true_eq, ne_eq] at hp; first | exact hp | exact hp.1 | exact hp.1.1
    unfold apply
    rw [q]
    rfl

theorem execZorosStage_view {k : Blk} (h : k ∉ ([.shu, .zor, .hed, .sec, .rcd, .pwr, .free] : List Blk)) (d : HostData) (s : State) :
    viewR k (execZorosStage d s) = some (view k s) := by
  simp only [List.mem_cons, List.not_mem_nil, or_false, not_or] at h
  unfold execZorosStage
  refine runRow_at (k := k) (by simp only [h, List.mem_cons, List.not_mem_nil, or_false, not_or, ne_eq, not_false_eq_true, and_self]) _ _ s ?_ ?_ ?_ ?_ ?_
  · intro t b e z hp
    have q : e.op = 0x08 := by simp only [Bool.and_eq_true, decide_eq_true_eq, ne_eq] at hp; first | exact hp | exact hp.1 | exact hp.1.1
    exact deniedEffect_other t b e z (by rw [q]; decide) (by rw [q]; decide) (by rw [q]; decide)
  · intro c t hp hm
    have q : c.d.op = 0x08 := by simp only [Bool.and_eq_true, decide_eq_true_eq, ne_eq] at hp; first | exact hp | exact hp.1 | exact hp.1.1
    rw [q] at hm
    exact absurd hm (by decide)
  · exact fun _ _ _ => by simp only [h, List.mem_cons, List.not_mem_nil, or_false, not_or, ne_eq, not_false_eq_true, and_self]
  · exact fun _ _ _ => by simp only [h, List.mem_cons, List.not_mem_nil, or_false, not_or, ne_eq, not_false_eq_true, and_self]
  · intro c t hp
    have q : c.d.op = 0x08 := by simp only [Bool.and_eq_true, decide_eq_true_eq, ne_eq] at hp; first | exact hp | exact hp.1 | exact hp.1.1
    unfold apply
    rw [q]
    exact apStage_view (by simp only [h, List.mem_cons, List.not_mem_nil, or_false, not_or, ne_eq, not_false_eq_true, and_self]) c t

theorem execZorosCheck_view {k : Blk} (h : k ∉ ([.shu, .zor, .hed, .free] : List Blk)) (s : State) :
    viewR k (execZorosCheck s) = some (view k s) := by
  simp only [List.mem_cons, List.not_mem_nil, or_false, not_or] at h
  unfold execZorosCheck runBare
  refine runRow_at (k := k) (by simp only [h, List.mem_cons, List.not_mem_nil, or_false, not_or, ne_eq, not_false_eq_true, and_self]) _ _ s ?_ ?_ ?_ ?_ ?_
  · intro t b e z hp
    have q : e.op = 0x09 := by simp only [Bool.and_eq_true, decide_eq_true_eq, ne_eq] at hp; first | exact hp | exact hp.1 | exact hp.1.1
    exact deniedEffect_other t b e z (by rw [q]; decide) (by rw [q]; decide) (by rw [q]; decide)
  · intro c t hp hm
    have q : c.d.op = 0x09 := by simp only [Bool.and_eq_true, decide_eq_true_eq, ne_eq] at hp; first | exact hp | exact hp.1 | exact hp.1.1
    rw [q] at hm
    exact absurd hm (by decide)
  · intro e hp q
    have q' : e.op = 0x09 := by simp only [Bool.and_eq_true, decide_eq_true_eq, ne_eq] at hp; first | exact hp | exact hp.1 | exact hp.1.1
    rw [q'] at q
    exact absurd q (by decide)
  · intro e hp q
    have q' : e.op = 0x09 := by simp only [Bool.and_eq_true, decide_eq_true_eq, ne_eq] at hp; first | exact hp | exact hp.1 | exact hp.1.1
    unfold dataLen at q
    rw [q'] at q
    exact absurd q (Nat.lt_irrefl 0)
  · intro c t hp
    have q : c.d.op = 0x09 := by simp only [Bool.and_eq_true, decide_eq_true_eq, ne_eq] at hp; first | exact hp | exact hp.1 | exact hp.1.1
    unfold apply
    rw [q]
    exact apCheck_view (by simp only [h, List.mem_cons, List.not_mem_nil, or_false, not_or, ne_eq, not_false_eq_true, and_self]) c t

theorem execZorosSwap_view {k : Blk} (h : k ∉ ([.shu, .zor, .mir, .hed, .rcd, .out, .free] : List Blk)) (s : State) :
    viewR k (execZorosSwap s) = some (view k s) := by
  simp only [List.mem_cons, List.not_mem_nil, or_false, not_or] at h
  unfold execZorosSwap runBare
  refine runRow_at (k := k) (by simp only [h, List.mem_cons, List.not_mem_nil, or_false, not_or, ne_eq, not_false_eq_true, and_self]) _ _ s ?_ ?_ ?_ ?_ ?_
  · intro t b e z hp
    have q : e.op = 0x0A := by simp only [Bool.and_eq_true, decide_eq_true_eq, ne_eq] at hp; first | exact hp | exact hp.1 | exact hp.1.1
    unfold deniedEffect
    rw [if_neg (by simp [q])]
    (repeat' split) <;> first | rfl | simp only [raise_view, setZor_view, h, List.mem_cons, List.not_mem_nil, or_false, not_or, ne_eq, not_false_eq_true, and_self] | (rename_i q'; simp [q] at q')
  · intro c t hp hm
    have q : c.d.op = 0x0A := by simp only [Bool.and_eq_true, decide_eq_true_eq, ne_eq] at hp; first | exact hp | exact hp.1 | exact hp.1.1
    rw [q] at hm
    exact absurd hm (by decide)
  · intro e hp q
    have q' : e.op = 0x0A := by simp only [Bool.and_eq_true, decide_eq_true_eq, ne_eq] at hp; first | exact hp | exact hp.1 | exact hp.1.1
    rw [q'] at q
    exact absurd q (by decide)
  · intro e hp q
    have q' : e.op = 0x0A := by simp only [Bool.and_eq_true, decide_eq_true_eq, ne_eq] at hp; first | exact hp | exact hp.1 | exact hp.1.1
    unfold dataLen at q
    rw [q'] at q
    exact absurd q (Nat.lt_irrefl 0)
  · intro c t hp
    have q : c.d.op = 0x0A := by simp only [Bool.and_eq_true, decide_eq_true_eq, ne_eq] at hp; first | exact hp | exact hp.1 | exact hp.1.1
    unfold apply
    rw [q]
    exact apSwap_view (by simp only [h, List.mem_cons, List.not_mem_nil, or_false, not_or, ne_eq, not_false_eq_true, and_self]) c t

theorem execTaskCtrlStart_view {k : Blk} (h : k ∉ ([.hub, .shu, .loom, .zor, .dbank, .dio, .aio, .mir, .hed, .rcd, .pwr, .out, .free] : List Blk)) (s : State) :
    viewR k (execTaskCtrlStart s) = some (view k s) := by
  simp only [List.mem_cons, List.not_mem_nil, or_false, not_or] at h
  unfold execTaskCtrlStart runBare
  refine runRow_at (k := k) (by simp only [h, List.mem_cons, List.not_mem_nil, or_false, not_or, ne_eq, not_false_eq_true, and_self]) _ _ s ?_ ?_ ?_ ?_ ?_
  · intro t b e z hp
    have q : e.op = 0x10 := by simp only [Bool.and_eq_true, decide_eq_true_eq, ne_eq] at hp; first | exact hp | exact hp.1 | exact hp.1.1
    exact deniedEffect_other t b e z (by rw [q]; decide) (by rw [q]; decide) (by rw [q]; decide)
  · intro c t hp hm
    have q : c.d.op = 0x10 := by simp only [Bool.and_eq_true, decide_eq_true_eq, ne_eq] at hp; first | exact hp | exact hp.1 | exact hp.1.1
    exact forwardDesc_view (by simp only [h, List.mem_cons, List.not_mem_nil, or_false, not_or, ne_eq, not_false_eq_true, and_self]) c t
  · intro e hp q
    have q' : e.op = 0x10 := by simp only [Bool.and_eq_true, decide_eq_true_eq, ne_eq] at hp; first | exact hp | exact hp.1 | exact hp.1.1
    rw [q'] at q
    exact absurd q (by decide)
  · intro e hp q
    have q' : e.op = 0x10 := by simp only [Bool.and_eq_true, decide_eq_true_eq, ne_eq] at hp; first | exact hp | exact hp.1 | exact hp.1.1
    unfold dataLen at q
    rw [q'] at q
    exact absurd q (Nat.lt_irrefl 0)
  · intro c t hp
    have q : c.d.op = 0x10 := by simp only [Bool.and_eq_true, decide_eq_true_eq, ne_eq] at hp; first | exact hp | exact hp.1 | exact hp.1.1
    unfold apply
    rw [q]
    exact onHandle_view c apTask t (apTask_view (by simp only [h, List.mem_cons, List.not_mem_nil, or_false, not_or, ne_eq, not_false_eq_true, and_self]) c t)

theorem execTaskCtrlStop_view {k : Blk} (h : k ∉ ([.hub, .shu, .loom, .zor, .dbank, .dio, .aio, .mir, .hed, .rcd, .pwr, .out, .free] : List Blk)) (s : State) :
    viewR k (execTaskCtrlStop s) = some (view k s) := by
  simp only [List.mem_cons, List.not_mem_nil, or_false, not_or] at h
  unfold execTaskCtrlStop runBare
  refine runRow_at (k := k) (by simp only [h, List.mem_cons, List.not_mem_nil, or_false, not_or, ne_eq, not_false_eq_true, and_self]) _ _ s ?_ ?_ ?_ ?_ ?_
  · intro t b e z hp
    have q : e.op = 0x10 := by simp only [Bool.and_eq_true, decide_eq_true_eq, ne_eq] at hp; first | exact hp | exact hp.1 | exact hp.1.1
    exact deniedEffect_other t b e z (by rw [q]; decide) (by rw [q]; decide) (by rw [q]; decide)
  · intro c t hp hm
    have q : c.d.op = 0x10 := by simp only [Bool.and_eq_true, decide_eq_true_eq, ne_eq] at hp; first | exact hp | exact hp.1 | exact hp.1.1
    exact forwardDesc_view (by simp only [h, List.mem_cons, List.not_mem_nil, or_false, not_or, ne_eq, not_false_eq_true, and_self]) c t
  · intro e hp q
    have q' : e.op = 0x10 := by simp only [Bool.and_eq_true, decide_eq_true_eq, ne_eq] at hp; first | exact hp | exact hp.1 | exact hp.1.1
    rw [q'] at q
    exact absurd q (by decide)
  · intro e hp q
    have q' : e.op = 0x10 := by simp only [Bool.and_eq_true, decide_eq_true_eq, ne_eq] at hp; first | exact hp | exact hp.1 | exact hp.1.1
    unfold dataLen at q
    rw [q'] at q
    exact absurd q (Nat.lt_irrefl 0)
  · intro c t hp
    have q : c.d.op = 0x10 := by simp only [Bool.and_eq_true, decide_eq_true_eq, ne_eq] at hp; first | exact hp | exact hp.1 | exact hp.1.1
    unfold apply
    rw [q]
    exact onHandle_view c apTask t (apTask_view (by simp only [h, List.mem_cons, List.not_mem_nil, or_false, not_or, ne_eq, not_false_eq_true, and_self]) c t)

theorem execTaskCtrlSetMiniv_view {k : Blk} (h : k ∉ ([.hub, .shu, .loom, .zor, .dbank, .dio, .aio, .mir, .hed, .rcd, .pwr, .out, .free] : List Blk)) (s : State) :
    viewR k (execTaskCtrlSetMiniv s) = some (view k s) := by
  simp only [List.mem_cons, List.not_mem_nil, or_false, not_or] at h
  unfold execTaskCtrlSetMiniv runBare
  refine runRow_at (k := k) (by simp only [h, List.mem_cons, List.not_mem_nil, or_false, not_or, ne_eq, not_false_eq_true, and_self]) _ _ s ?_ ?_ ?_ ?_ ?_
  · intro t b e z hp
    have q : e.op = 0x10 := by simp only [Bool.and_eq_true, decide_eq_true_eq, ne_eq] at hp; first | exact hp | exact hp.1 | exact hp.1.1
    exact deniedEffect_other t b e z (by rw [q]; decide) (by rw [q]; decide) (by rw [q]; decide)
  · intro c t hp hm
    have q : c.d.op = 0x10 := by simp only [Bool.and_eq_true, decide_eq_true_eq, ne_eq] at hp; first | exact hp | exact hp.1 | exact hp.1.1
    exact forwardDesc_view (by simp only [h, List.mem_cons, List.not_mem_nil, or_false, not_or, ne_eq, not_false_eq_true, and_self]) c t
  · intro e hp q
    have q' : e.op = 0x10 := by simp only [Bool.and_eq_true, decide_eq_true_eq, ne_eq] at hp; first | exact hp | exact hp.1 | exact hp.1.1
    rw [q'] at q
    exact absurd q (by decide)
  · intro e hp q
    have q' : e.op = 0x10 := by simp only [Bool.and_eq_true, decide_eq_true_eq, ne_eq] at hp; first | exact hp | exact hp.1 | exact hp.1.1
    unfold dataLen at q
    rw [q'] at q
    exact absurd q (Nat.lt_irrefl 0)
  · intro c t hp
    have q : c.d.op = 0x10 := by simp only [Bool.and_eq_true, decide_eq_true_eq, ne_eq] at hp; first | exact hp | exact hp.1 | exact hp.1.1
    unfold apply
    rw [q]
    exact onHandle_view c apTask t (apTask_view (by simp only [h, List.mem_cons, List.not_mem_nil, or_false, not_or, ne_eq, not_false_eq_true, and_self]) c t)

theorem execPatchValue_view {k : Blk} (h : k ∉ ([.shu, .loom, .mir, .hed, .rcd, .out, .free] : List Blk)) (s : State) :
    viewR k (execPatchValue s) = some (view k s) := by
  simp only [List.mem_cons, List.not_mem_nil, or_false, not_or] at h
  unfold execPatchValue runBare
  refine runRow_at (k := k) (by simp only [h, List.mem_cons, List.not_mem_nil, or_false, not_or, ne_eq, not_false_eq_true, and_self]) _ _ s ?_ ?_ ?_ ?_ ?_
  · intro t b e z hp
    have q : e.op = 0x11 := by simp only [Bool.and_eq_true, decide_eq_true_eq, ne_eq] at hp; first | exact hp | exact hp.1 | exact hp.1.1
    exact deniedEffect_other t b e z (by rw [q]; decide) (by rw [q]; decide) (by rw [q]; decide)
  · intro c t hp hm
    have q : c.d.op = 0x11 := by simp only [Bool.and_eq_true, decide_eq_true_eq, ne_eq] at hp; first | exact hp | exact hp.1 | exact hp.1.1
    exact forwardDesc_other (by simp only [h, List.mem_cons, List.not_mem_nil, or_false, not_or, ne_eq, not_false_eq_true, and_self]) c t (by simp [stopsTask, q])
  · intro e hp q
    have q' : e.op = 0x11 := by simp only [Bool.and_eq_true, decide_eq_true_eq, ne_eq] at hp; first | exact hp | exact hp.1 | exact hp.1.1
    rw [q'] at q
    exact absurd q (by decide)
  · intro e hp q
    have q' : e.op = 0x11 := by simp only [Bool.and_eq_true, decide_eq_true_eq, ne_eq] at hp; first | exact hp | exact hp.1 | exact hp.1.1
    unfold dataLen at q
    rw [q'] at q
    exact absurd q (Nat.lt_irrefl 0)
  · intro c t hp
    have q : c.d.op = 0x11 := by simp only [Bool.and_eq_true, decide_eq_true_eq, ne_eq] at hp; first | exact hp | exact hp.1 | exact hp.1.1
    unfold apply
    rw [q]
    exact onHandle_view c apPatch t (apPatch_view (by simp only [h, List.mem_cons, List.not_mem_nil, or_false, not_or, ne_eq, not_false_eq_true, and_self]) c t)

theorem execPointRead_view {k : Blk} (h : k ∉ ([.shu, .hed, .sec, .rcd, .pwr, .out, .free] : List Blk)) (s : State) :
    viewR k (execPointRead s) = some (view k s) := by
  simp only [List.mem_cons, List.not_mem_nil, or_false, not_or] at h
  unfold execPointRead
  refine runXfer_at (k := k) (by simp only [h, List.mem_cons, List.not_mem_nil, or_false, not_or, ne_eq, not_false_eq_true, and_self]) _ _ _ s ?_ ?_ ?_ ?_ ?_
  · intro t b e z hp
    have q : e.op = 0x12 := by simp only [Bool.and_eq_true, decide_eq_true_eq, ne_eq] at hp; first | exact hp | exact hp.1 | exact hp.1.1
    exact deniedEffect_other t b e z (by rw [q]; decide) (by rw [q]; decide) (by rw [q]; decide)
  · intro c t hp hm
    have q : c.d.op = 0x12 := by simp only [Bool.and_eq_true, decide_eq_true_eq, ne_eq] at hp; first | exact hp | exact hp.1 | exact hp.1.1
    rw [q] at hm
    exact absurd hm (by decide)
  · exact fun _ _ _ => by simp only [h, List.mem_cons, List.not_mem_nil, or_false, not_or, ne_eq, not_false_eq_true, and_self]
  · intro e hp q
    have q' : e.op = 0x12 := by simp only [Bool.and_eq_true, decide_eq_true_eq, ne_eq] at hp; first | exact hp | exact hp.1 | exact hp.1.1
    unfold dataLen at q
    rw [q'] at q
    exact absurd q (Nat.lt_irrefl 0)
  · intro c t hp
    have q : c.d.op = 0x12 := by simp only [Bool.and_eq_true, decide_eq_true_eq, ne_eq] at hp; first | exact hp | exact hp.1 | exact hp.1.1
    unfold apply
    rw [q]
    exact apPointRead_view (by simp only [h, List.mem_cons, List.not_mem_nil, or_false, not_or, ne_eq, not_false_eq_true, and_self]) c t

theorem execForceSet_view {k : Blk} (h : k ∉ ([.hub, .shu, .loom, .dbank, .dio, .aio, .mir, .hed, .rcd, .pwr, .out, .free] : List Blk)) (s : State) :
    viewR k (execForceSet s) = some (view k s) := by
  simp only [List.mem_cons, List.not_mem_nil, or_false, not_or] at h
  unfold execForceSet runBare
  refine runRow_at (k := k) (by simp only [h, List.mem_cons, List.not_mem_nil, or_false, not_or, ne_eq, not_false_eq_true, and_self]) _ _ s ?_ ?_ ?_ ?_ ?_
  · intro t b e z hp
    have q : e.op = 0x13 := by simp only [Bool.and_eq_true, decide_eq_true_eq, ne_eq] at hp; first | exact hp | exact hp.1 | exact hp.1.1
    exact deniedEffect_other t b e z (by rw [q]; decide) (by rw [q]; decide) (by rw [q]; decide)
  · intro c t hp hm
    have q : c.d.op = 0x13 := by simp only [Bool.and_eq_true, decide_eq_true_eq, ne_eq] at hp; first | exact hp | exact hp.1 | exact hp.1.1
    exact forwardDesc_other (by simp only [h, List.mem_cons, List.not_mem_nil, or_false, not_or, ne_eq, not_false_eq_true, and_self]) c t (by simp [stopsTask, q])
  · intro e hp q
    have q' : e.op = 0x13 := by simp only [Bool.and_eq_true, decide_eq_true_eq, ne_eq] at hp; first | exact hp | exact hp.1 | exact hp.1.1
    rw [q'] at q
    exact absurd q (by decide)
  · intro e hp q
    have q' : e.op = 0x13 := by simp only [Bool.and_eq_true, decide_eq_true_eq, ne_eq] at hp; first | exact hp | exact hp.1 | exact hp.1.1
    unfold dataLen at q
    rw [q'] at q
    exact absurd q (Nat.lt_irrefl 0)
  · intro c t hp
    have q : c.d.op = 0x13 := by simp only [Bool.and_eq_true, decide_eq_true_eq, ne_eq] at hp; first | exact hp | exact hp.1 | exact hp.1.1
    unfold apply
    rw [q]
    exact onHandle_view c apForce t (apForce_view (by simp only [h, List.mem_cons, List.not_mem_nil, or_false, not_or, ne_eq, not_false_eq_true, and_self]) c t)

theorem execForceRelease_view {k : Blk} (h : k ∉ ([.hub, .shu, .loom, .dbank, .dio, .aio, .mir, .hed, .rcd, .pwr, .out, .free] : List Blk)) (s : State) :
    viewR k (execForceRelease s) = some (view k s) := by
  simp only [List.mem_cons, List.not_mem_nil, or_false, not_or] at h
  unfold execForceRelease runBare
  refine runRow_at (k := k) (by simp only [h, List.mem_cons, List.not_mem_nil, or_false, not_or, ne_eq, not_false_eq_true, and_self]) _ _ s ?_ ?_ ?_ ?_ ?_
  · intro t b e z hp
    have q : e.op = 0x13 := by simp only [Bool.and_eq_true, decide_eq_true_eq, ne_eq] at hp; first | exact hp | exact hp.1 | exact hp.1.1
    exact deniedEffect_other t b e z (by rw [q]; decide) (by rw [q]; decide) (by rw [q]; decide)
  · intro c t hp hm
    have q : c.d.op = 0x13 := by simp only [Bool.and_eq_true, decide_eq_true_eq, ne_eq] at hp; first | exact hp | exact hp.1 | exact hp.1.1
    exact forwardDesc_other (by simp only [h, List.mem_cons, List.not_mem_nil, or_false, not_or, ne_eq, not_false_eq_true, and_self]) c t (by simp [stopsTask, q])
  · intro e hp q
    have q' : e.op = 0x13 := by simp only [Bool.and_eq_true, decide_eq_true_eq, ne_eq] at hp; first | exact hp | exact hp.1 | exact hp.1.1
    rw [q'] at q
    exact absurd q (by decide)
  · intro e hp q
    have q' : e.op = 0x13 := by simp only [Bool.and_eq_true, decide_eq_true_eq, ne_eq] at hp; first | exact hp | exact hp.1 | exact hp.1.1
    unfold dataLen at q
    rw [q'] at q
    exact absurd q (Nat.lt_irrefl 0)
  · intro c t hp
    have q : c.d.op = 0x13 := by simp only [Bool.and_eq_true, decide_eq_true_eq, ne_eq] at hp; first | exact hp | exact hp.1 | exact hp.1.1
    unfold apply
    rw [q]
    exact onHandle_view c apForce t (apForce_view (by simp only [h, List.mem_cons, List.not_mem_nil, or_false, not_or, ne_eq, not_false_eq_true, and_self]) c t)

theorem execLoopCfg_view {k : Blk} (h : k ∉ ([.shu, .zor, .prism, .mir, .hed, .sec, .rcd, .pwr, .out, .free] : List Blk)) (d : HostData) (s : State) :
    viewR k (execLoopCfg d s) = some (view k s) := by
  simp only [List.mem_cons, List.not_mem_nil, or_false, not_or] at h
  unfold execLoopCfg
  refine runRow_at (k := k) (by simp only [h, List.mem_cons, List.not_mem_nil, or_false, not_or, ne_eq, not_false_eq_true, and_self]) _ _ s ?_ ?_ ?_ ?_ ?_
  · intro t b e z hp
    have q : e.op = 0x18 := by simp only [Bool.and_eq_true, decide_eq_true_eq, ne_eq] at hp; first | exact hp | exact hp.1 | exact hp.1.1
    exact deniedEffect_other t b e z (by rw [q]; decide) (by rw [q]; decide) (by rw [q]; decide)
  · intro c t hp hm
    have q : c.d.op = 0x18 := by simp only [Bool.and_eq_true, decide_eq_true_eq, ne_eq] at hp; first | exact hp | exact hp.1 | exact hp.1.1
    exact forwardDesc_other (by simp only [h, List.mem_cons, List.not_mem_nil, or_false, not_or, ne_eq, not_false_eq_true, and_self]) c t (by simp [stopsTask, q])
  · exact fun _ _ _ => by simp only [h, List.mem_cons, List.not_mem_nil, or_false, not_or, ne_eq, not_false_eq_true, and_self]
  · exact fun _ _ _ => by simp only [h, List.mem_cons, List.not_mem_nil, or_false, not_or, ne_eq, not_false_eq_true, and_self]
  · intro c t hp
    have q : c.d.op = 0x18 := by simp only [Bool.and_eq_true, decide_eq_true_eq, ne_eq] at hp; first | exact hp | exact hp.1 | exact hp.1.1
    unfold apply
    rw [q]
    exact onHandle_view c apLoopCfg t (apLoopCfg_view (by simp only [h, List.mem_cons, List.not_mem_nil, or_false, not_or, ne_eq, not_false_eq_true, and_self]) c t)

theorem execLoopCtrlEnable_view {k : Blk} (h : k ∉ ([.shu, .prism, .mir, .hed, .out, .free] : List Blk)) (s : State) :
    viewR k (execLoopCtrlEnable s) = some (view k s) := by
  simp only [List.mem_cons, List.not_mem_nil, or_false, not_or] at h
  unfold execLoopCtrlEnable runBare
  refine runRow_at (k := k) (by simp only [h, List.mem_cons, List.not_mem_nil, or_false, not_or, ne_eq, not_false_eq_true, and_self]) _ _ s ?_ ?_ ?_ ?_ ?_
  · intro t b e z hp
    have q : e.op = 0x19 := by simp only [Bool.and_eq_true, decide_eq_true_eq, ne_eq] at hp; first | exact hp | exact hp.1 | exact hp.1.1
    exact deniedEffect_other t b e z (by rw [q]; decide) (by rw [q]; decide) (by rw [q]; decide)
  · intro c t hp hm
    have q : c.d.op = 0x19 := by simp only [Bool.and_eq_true, decide_eq_true_eq, ne_eq] at hp; first | exact hp | exact hp.1 | exact hp.1.1
    exact forwardDesc_other (by simp only [h, List.mem_cons, List.not_mem_nil, or_false, not_or, ne_eq, not_false_eq_true, and_self]) c t (by simp [stopsTask, q])
  · intro e hp q
    have q' : e.op = 0x19 := by simp only [Bool.and_eq_true, decide_eq_true_eq, ne_eq] at hp; first | exact hp | exact hp.1 | exact hp.1.1
    rw [q'] at q
    exact absurd q (by decide)
  · intro e hp q
    have q' : e.op = 0x19 := by simp only [Bool.and_eq_true, decide_eq_true_eq, ne_eq] at hp; first | exact hp | exact hp.1 | exact hp.1.1
    unfold dataLen at q
    rw [q'] at q
    exact absurd q (Nat.lt_irrefl 0)
  · intro c t hp
    have q : c.d.op = 0x19 := by simp only [Bool.and_eq_true, decide_eq_true_eq, ne_eq] at hp; first | exact hp | exact hp.1 | exact hp.1.1
    unfold apply
    rw [q]
    exact onHandle_view c apLoopCtrl t (apLoopCtrl_view (by simp only [h, List.mem_cons, List.not_mem_nil, or_false, not_or, ne_eq, not_false_eq_true, and_self]) c t)

theorem execLoopCtrlSoftStop_view {k : Blk} (h : k ∉ ([.shu, .prism, .mir, .hed, .out, .free] : List Blk)) (s : State) :
    viewR k (execLoopCtrlSoftStop s) = some (view k s) := by
  simp only [List.mem_cons, List.not_mem_nil, or_false, not_or] at h
  unfold execLoopCtrlSoftStop runBare
  refine runRow_at (k := k) (by simp only [h, List.mem_cons, List.not_mem_nil, or_false, not_or, ne_eq, not_false_eq_true, and_self]) _ _ s ?_ ?_ ?_ ?_ ?_
  · intro t b e z hp
    have q : e.op = 0x19 := by simp only [Bool.and_eq_true, decide_eq_true_eq, ne_eq] at hp; first | exact hp | exact hp.1 | exact hp.1.1
    exact deniedEffect_other t b e z (by rw [q]; decide) (by rw [q]; decide) (by rw [q]; decide)
  · intro c t hp hm
    have q : c.d.op = 0x19 := by simp only [Bool.and_eq_true, decide_eq_true_eq, ne_eq] at hp; first | exact hp | exact hp.1 | exact hp.1.1
    exact forwardDesc_other (by simp only [h, List.mem_cons, List.not_mem_nil, or_false, not_or, ne_eq, not_false_eq_true, and_self]) c t (by simp [stopsTask, q])
  · intro e hp q
    have q' : e.op = 0x19 := by simp only [Bool.and_eq_true, decide_eq_true_eq, ne_eq] at hp; first | exact hp | exact hp.1 | exact hp.1.1
    rw [q'] at q
    exact absurd q (by decide)
  · intro e hp q
    have q' : e.op = 0x19 := by simp only [Bool.and_eq_true, decide_eq_true_eq, ne_eq] at hp; first | exact hp | exact hp.1 | exact hp.1.1
    unfold dataLen at q
    rw [q'] at q
    exact absurd q (Nat.lt_irrefl 0)
  · intro c t hp
    have q : c.d.op = 0x19 := by simp only [Bool.and_eq_true, decide_eq_true_eq, ne_eq] at hp; first | exact hp | exact hp.1 | exact hp.1.1
    unfold apply
    rw [q]
    exact onHandle_view c apLoopCtrl t (apLoopCtrl_view (by simp only [h, List.mem_cons, List.not_mem_nil, or_false, not_or, ne_eq, not_false_eq_true, and_self]) c t)

theorem execLoopCtrlSelectA_view {k : Blk} (h : k ∉ ([.shu, .prism, .mir, .hed, .out, .free] : List Blk)) (s : State) :
    viewR k (execLoopCtrlSelectA s) = some (view k s) := by
  simp only [List.mem_cons, List.not_mem_nil, or_false, not_or] at h
  unfold execLoopCtrlSelectA runBare
  refine runRow_at (k := k) (by simp only [h, List.mem_cons, List.not_mem_nil, or_false, not_or, ne_eq, not_false_eq_true, and_self]) _ _ s ?_ ?_ ?_ ?_ ?_
  · intro t b e z hp
    have q : e.op = 0x19 := by simp only [Bool.and_eq_true, decide_eq_true_eq, ne_eq] at hp; first | exact hp | exact hp.1 | exact hp.1.1
    exact deniedEffect_other t b e z (by rw [q]; decide) (by rw [q]; decide) (by rw [q]; decide)
  · intro c t hp hm
    have q : c.d.op = 0x19 := by simp only [Bool.and_eq_true, decide_eq_true_eq, ne_eq] at hp; first | exact hp | exact hp.1 | exact hp.1.1
    exact forwardDesc_other (by simp only [h, List.mem_cons, List.not_mem_nil, or_false, not_or, ne_eq, not_false_eq_true, and_self]) c t (by simp [stopsTask, q])
  · intro e hp q
    have q' : e.op = 0x19 := by simp only [Bool.and_eq_true, decide_eq_true_eq, ne_eq] at hp; first | exact hp | exact hp.1 | exact hp.1.1
    rw [q'] at q
    exact absurd q (by decide)
  · intro e hp q
    have q' : e.op = 0x19 := by simp only [Bool.and_eq_true, decide_eq_true_eq, ne_eq] at hp; first | exact hp | exact hp.1 | exact hp.1.1
    unfold dataLen at q
    rw [q'] at q
    exact absurd q (Nat.lt_irrefl 0)
  · intro c t hp
    have q : c.d.op = 0x19 := by simp only [Bool.and_eq_true, decide_eq_true_eq, ne_eq] at hp; first | exact hp | exact hp.1 | exact hp.1.1
    unfold apply
    rw [q]
    exact onHandle_view c apLoopCtrl t (apLoopCtrl_view (by simp only [h, List.mem_cons, List.not_mem_nil, or_false, not_or, ne_eq, not_false_eq_true, and_self]) c t)

theorem execLoopCtrlSelectB_view {k : Blk} (h : k ∉ ([.shu, .prism, .mir, .hed, .out, .free] : List Blk)) (s : State) :
    viewR k (execLoopCtrlSelectB s) = some (view k s) := by
  simp only [List.mem_cons, List.not_mem_nil, or_false, not_or] at h
  unfold execLoopCtrlSelectB runBare
  refine runRow_at (k := k) (by simp only [h, List.mem_cons, List.not_mem_nil, or_false, not_or, ne_eq, not_false_eq_true, and_self]) _ _ s ?_ ?_ ?_ ?_ ?_
  · intro t b e z hp
    have q : e.op = 0x19 := by simp only [Bool.and_eq_true, decide_eq_true_eq, ne_eq] at hp; first | exact hp | exact hp.1 | exact hp.1.1
    exact deniedEffect_other t b e z (by rw [q]; decide) (by rw [q]; decide) (by rw [q]; decide)
  · intro c t hp hm
    have q : c.d.op = 0x19 := by simp only [Bool.and_eq_true, decide_eq_true_eq, ne_eq] at hp; first | exact hp | exact hp.1 | exact hp.1.1
    exact forwardDesc_other (by simp only [h, List.mem_cons, List.not_mem_nil, or_false, not_or, ne_eq, not_false_eq_true, and_self]) c t (by simp [stopsTask, q])
  · intro e hp q
    have q' : e.op = 0x19 := by simp only [Bool.and_eq_true, decide_eq_true_eq, ne_eq] at hp; first | exact hp | exact hp.1 | exact hp.1.1
    rw [q'] at q
    exact absurd q (by decide)
  · intro e hp q
    have q' : e.op = 0x19 := by simp only [Bool.and_eq_true, decide_eq_true_eq, ne_eq] at hp; first | exact hp | exact hp.1 | exact hp.1.1
    unfold dataLen at q
    rw [q'] at q
    exact absurd q (Nat.lt_irrefl 0)
  · intro c t hp
    have q : c.d.op = 0x19 := by simp only [Bool.and_eq_true, decide_eq_true_eq, ne_eq] at hp; first | exact hp | exact hp.1 | exact hp.1.1
    unfold apply
    rw [q]
    exact onHandle_view c apLoopCtrl t (apLoopCtrl_view (by simp only [h, List.mem_cons, List.not_mem_nil, or_false, not_or, ne_eq, not_false_eq_true, and_self]) c t)

theorem execLoopCtrlManual_view {k : Blk} (h : k ∉ ([.shu, .prism, .mir, .hed, .out, .free] : List Blk)) (s : State) :
    viewR k (execLoopCtrlManual s) = some (view k s) := by
  simp only [List.mem_cons, List.not_mem_nil, or_false, not_or] at h
  unfold execLoopCtrlManual runBare
  refine runRow_at (k := k) (by simp only [h, List.mem_cons, List.not_mem_nil, or_false, not_or, ne_eq, not_false_eq_true, and_self]) _ _ s ?_ ?_ ?_ ?_ ?_
  · intro t b e z hp
    have q : e.op = 0x19 := by simp only [Bool.and_eq_true, decide_eq_true_eq, ne_eq] at hp; first | exact hp | exact hp.1 | exact hp.1.1
    exact deniedEffect_other t b e z (by rw [q]; decide) (by rw [q]; decide) (by rw [q]; decide)
  · intro c t hp hm
    have q : c.d.op = 0x19 := by simp only [Bool.and_eq_true, decide_eq_true_eq, ne_eq] at hp; first | exact hp | exact hp.1 | exact hp.1.1
    exact forwardDesc_other (by simp only [h, List.mem_cons, List.not_mem_nil, or_false, not_or, ne_eq, not_false_eq_true, and_self]) c t (by simp [stopsTask, q])
  · intro e hp q
    have q' : e.op = 0x19 := by simp only [Bool.and_eq_true, decide_eq_true_eq, ne_eq] at hp; first | exact hp | exact hp.1 | exact hp.1.1
    rw [q'] at q
    exact absurd q (by decide)
  · intro e hp q
    have q' : e.op = 0x19 := by simp only [Bool.and_eq_true, decide_eq_true_eq, ne_eq] at hp; first | exact hp | exact hp.1 | exact hp.1.1
    unfold dataLen at q
    rw [q'] at q
    exact absurd q (Nat.lt_irrefl 0)
  · intro c t hp
    have q : c.d.op = 0x19 := by simp only [Bool.and_eq_true, decide_eq_true_eq, ne_eq] at hp; first | exact hp | exact hp.1 | exact hp.1.1
    unfold apply
    rw [q]
    exact onHandle_view c apLoopCtrl t (apLoopCtrl_view (by simp only [h, List.mem_cons, List.not_mem_nil, or_false, not_or, ne_eq, not_false_eq_true, and_self]) c t)

theorem execLoopCtrlAuto_view {k : Blk} (h : k ∉ ([.shu, .prism, .mir, .hed, .out, .free] : List Blk)) (s : State) :
    viewR k (execLoopCtrlAuto s) = some (view k s) := by
  simp only [List.mem_cons, List.not_mem_nil, or_false, not_or] at h
  unfold execLoopCtrlAuto runBare
  refine runRow_at (k := k) (by simp only [h, List.mem_cons, List.not_mem_nil, or_false, not_or, ne_eq, not_false_eq_true, and_self]) _ _ s ?_ ?_ ?_ ?_ ?_
  · intro t b e z hp
    have q : e.op = 0x19 := by simp only [Bool.and_eq_true, decide_eq_true_eq, ne_eq] at hp; first | exact hp | exact hp.1 | exact hp.1.1
    exact deniedEffect_other t b e z (by rw [q]; decide) (by rw [q]; decide) (by rw [q]; decide)
  · intro c t hp hm
    have q : c.d.op = 0x19 := by simp only [Bool.and_eq_true, decide_eq_true_eq, ne_eq] at hp; first | exact hp | exact hp.1 | exact hp.1.1
    exact forwardDesc_other (by simp only [h, List.mem_cons, List.not_mem_nil, or_false, not_or, ne_eq, not_false_eq_true, and_self]) c t (by simp [stopsTask, q])
  · intro e hp q
    have q' : e.op = 0x19 := by simp only [Bool.and_eq_true, decide_eq_true_eq, ne_eq] at hp; first | exact hp | exact hp.1 | exact hp.1.1
    rw [q'] at q
    exact absurd q (by decide)
  · intro e hp q
    have q' : e.op = 0x19 := by simp only [Bool.and_eq_true, decide_eq_true_eq, ne_eq] at hp; first | exact hp | exact hp.1 | exact hp.1.1
    unfold dataLen at q
    rw [q'] at q
    exact absurd q (Nat.lt_irrefl 0)
  · intro c t hp
    have q : c.d.op = 0x19 := by simp only [Bool.and_eq_true, decide_eq_true_eq, ne_eq] at hp; first | exact hp | exact hp.1 | exact hp.1.1
    unfold apply
    rw [q]
    exact onHandle_view c apLoopCtrl t (apLoopCtrl_view (by simp only [h, List.mem_cons, List.not_mem_nil, or_false, not_or, ne_eq, not_false_eq_true, and_self]) c t)

theorem execLoopTable_view {k : Blk} (h : k ∉ ([.shu, .zor, .prism, .mir, .hed, .sec, .rcd, .pwr, .out, .free] : List Blk)) (d : HostData) (s : State) :
    viewR k (execLoopTable d s) = some (view k s) := by
  simp only [List.mem_cons, List.not_mem_nil, or_false, not_or] at h
  unfold execLoopTable
  refine runRow_at (k := k) (by simp only [h, List.mem_cons, List.not_mem_nil, or_false, not_or, ne_eq, not_false_eq_true, and_self]) _ _ s ?_ ?_ ?_ ?_ ?_
  · intro t b e z hp
    have q : e.op = 0x1A := by simp only [Bool.and_eq_true, decide_eq_true_eq, ne_eq] at hp; first | exact hp | exact hp.1 | exact hp.1.1
    exact deniedEffect_other t b e z (by rw [q]; decide) (by rw [q]; decide) (by rw [q]; decide)
  · intro c t hp hm
    have q : c.d.op = 0x1A := by simp only [Bool.and_eq_true, decide_eq_true_eq, ne_eq] at hp; first | exact hp | exact hp.1 | exact hp.1.1
    exact forwardDesc_other (by simp only [h, List.mem_cons, List.not_mem_nil, or_false, not_or, ne_eq, not_false_eq_true, and_self]) c t (by simp [stopsTask, q])
  · exact fun _ _ _ => by simp only [h, List.mem_cons, List.not_mem_nil, or_false, not_or, ne_eq, not_false_eq_true, and_self]
  · exact fun _ _ _ => by simp only [h, List.mem_cons, List.not_mem_nil, or_false, not_or, ne_eq, not_false_eq_true, and_self]
  · intro c t hp
    have q : c.d.op = 0x1A := by simp only [Bool.and_eq_true, decide_eq_true_eq, ne_eq] at hp; first | exact hp | exact hp.1 | exact hp.1.1
    unfold apply
    rw [q]
    exact onHandle_view c apLoopTable t (apLoopTable_view (by simp only [h, List.mem_cons, List.not_mem_nil, or_false, not_or, ne_eq, not_false_eq_true, and_self]) c t)

theorem execFieldCfg_view {k : Blk} (h : k ∉ ([.hub, .shu, .zor, .prism, .dbank, .dio, .aio, .enc, .can, .mir, .hed, .rcd, .pwr, .out, .free] : List Blk)) (d : HostData) (s : State) :
    viewR k (execFieldCfg d s) = some (view k s) := by
  simp only [List.mem_cons, List.not_mem_nil, or_false, not_or] at h
  unfold execFieldCfg
  refine runRow_at (k := k) (by simp only [h, List.mem_cons, List.not_mem_nil, or_false, not_or, ne_eq, not_false_eq_true, and_self]) _ _ s ?_ ?_ ?_ ?_ ?_
  · intro t b e z hp
    have q : e.op = 0x20 := by simp only [Bool.and_eq_true, decide_eq_true_eq, ne_eq] at hp; first | exact hp | exact hp.1 | exact hp.1.1
    exact deniedEffect_other t b e z (by rw [q]; decide) (by rw [q]; decide) (by rw [q]; decide)
  · intro c t hp hm
    have q : c.d.op = 0x20 := by simp only [Bool.and_eq_true, decide_eq_true_eq, ne_eq] at hp; first | exact hp | exact hp.1 | exact hp.1.1
    exact forwardDesc_other (by simp only [h, List.mem_cons, List.not_mem_nil, or_false, not_or, ne_eq, not_false_eq_true, and_self]) c t (by simp [stopsTask, q])
  · intro e hp q
    have q' : e.op = 0x20 := by simp only [Bool.and_eq_true, decide_eq_true_eq, ne_eq] at hp; first | exact hp | exact hp.1 | exact hp.1.1
    rw [q'] at q
    exact absurd q (by decide)
  · exact fun _ _ _ => by simp only [h, List.mem_cons, List.not_mem_nil, or_false, not_or, ne_eq, not_false_eq_true, and_self]
  · intro c t hp
    have q : c.d.op = 0x20 := by simp only [Bool.and_eq_true, decide_eq_true_eq, ne_eq] at hp; first | exact hp | exact hp.1 | exact hp.1.1
    unfold apply
    rw [q]
    exact onHandle_view c apFieldCfg t (apFieldCfg_view (by simp only [h, List.mem_cons, List.not_mem_nil, or_false, not_or, ne_eq, not_false_eq_true, and_self]) c t)

theorem execCanCfg_view {k : Blk} (h : k ∉ ([.hub, .shu, .zor, .can, .mir, .hed, .rcd, .pwr, .out, .free] : List Blk)) (d : HostData) (s : State) :
    viewR k (execCanCfg d s) = some (view k s) := by
  simp only [List.mem_cons, List.not_mem_nil, or_false, not_or] at h
  unfold execCanCfg
  refine runRow_at (k := k) (by simp only [h, List.mem_cons, List.not_mem_nil, or_false, not_or, ne_eq, not_false_eq_true, and_self]) _ _ s ?_ ?_ ?_ ?_ ?_
  · intro t b e z hp
    have q : e.op = 0x28 := by simp only [Bool.and_eq_true, decide_eq_true_eq, ne_eq] at hp; first | exact hp | exact hp.1 | exact hp.1.1
    exact deniedEffect_other t b e z (by rw [q]; decide) (by rw [q]; decide) (by rw [q]; decide)
  · intro c t hp hm
    have q : c.d.op = 0x28 := by simp only [Bool.and_eq_true, decide_eq_true_eq, ne_eq] at hp; first | exact hp | exact hp.1 | exact hp.1.1
    exact forwardDesc_other (by simp only [h, List.mem_cons, List.not_mem_nil, or_false, not_or, ne_eq, not_false_eq_true, and_self]) c t (by simp [stopsTask, q])
  · intro e hp q
    have q' : e.op = 0x28 := by simp only [Bool.and_eq_true, decide_eq_true_eq, ne_eq] at hp; first | exact hp | exact hp.1 | exact hp.1.1
    rw [q'] at q
    exact absurd q (by decide)
  · exact fun _ _ _ => by simp only [h, List.mem_cons, List.not_mem_nil, or_false, not_or, ne_eq, not_false_eq_true, and_self]
  · intro c t hp
    have q : c.d.op = 0x28 := by simp only [Bool.and_eq_true, decide_eq_true_eq, ne_eq] at hp; first | exact hp | exact hp.1 | exact hp.1.1
    unfold apply
    rw [q]
    exact onHandle_view c apCanCfg t (apCanCfg_view (by simp only [h, List.mem_cons, List.not_mem_nil, or_false, not_or, ne_eq, not_false_eq_true, and_self]) c t)

theorem execCanTx_view {k : Blk} (h : k ∉ ([.shu, .can, .hed, .rcd, .pwr, .free] : List Blk)) (d : HostData) (s : State) :
    viewR k (execCanTx d s) = some (view k s) := by
  simp only [List.mem_cons, List.not_mem_nil, or_false, not_or] at h
  unfold execCanTx
  refine runRow_at (k := k) (by simp only [h, List.mem_cons, List.not_mem_nil, or_false, not_or, ne_eq, not_false_eq_true, and_self]) _ _ s ?_ ?_ ?_ ?_ ?_
  · intro t b e z hp
    have q : e.op = 0x29 := by simp only [Bool.and_eq_true, decide_eq_true_eq, ne_eq] at hp; first | exact hp | exact hp.1 | exact hp.1.1
    exact deniedEffect_other t b e z (by rw [q]; decide) (by rw [q]; decide) (by rw [q]; decide)
  · intro c t hp hm
    have q : c.d.op = 0x29 := by simp only [Bool.and_eq_true, decide_eq_true_eq, ne_eq] at hp; first | exact hp | exact hp.1 | exact hp.1.1
    rw [q] at hm
    exact absurd hm (by decide)
  · intro e hp q
    have q' : e.op = 0x29 := by simp only [Bool.and_eq_true, decide_eq_true_eq, ne_eq] at hp; first | exact hp | exact hp.1 | exact hp.1.1
    rw [q'] at q
    exact absurd q (by decide)
  · exact fun _ _ _ => by simp only [h, List.mem_cons, List.not_mem_nil, or_false, not_or, ne_eq, not_false_eq_true, and_self]
  · intro c t hp
    have q : c.d.op = 0x29 := by simp only [Bool.and_eq_true, decide_eq_true_eq, ne_eq] at hp; first | exact hp | exact hp.1 | exact hp.1.1
    unfold apply
    rw [q]
    exact onHandle_view c apCanTx t (apCanTx_view (by simp only [h, List.mem_cons, List.not_mem_nil, or_false, not_or, ne_eq, not_false_eq_true, and_self]) c t)

theorem execCanState_view {k : Blk} (h : k ∉ ([.hub, .shu, .can, .mir, .hed, .rcd, .out, .free] : List Blk)) (s : State) :
    viewR k (execCanState s) = some (view k s) := by
  simp only [List.mem_cons, List.not_mem_nil, or_false, not_or] at h
  unfold execCanState runBare
  refine runRow_at (k := k) (by simp only [h, List.mem_cons, List.not_mem_nil, or_false, not_or, ne_eq, not_false_eq_true, and_self]) _ _ s ?_ ?_ ?_ ?_ ?_
  · intro t b e z hp
    have q : e.op = 0x2A := by simp only [Bool.and_eq_true, decide_eq_true_eq, ne_eq] at hp; first | exact hp | exact hp.1 | exact hp.1.1
    exact deniedEffect_other t b e z (by rw [q]; decide) (by rw [q]; decide) (by rw [q]; decide)
  · intro c t hp hm
    have q : c.d.op = 0x2A := by simp only [Bool.and_eq_true, decide_eq_true_eq, ne_eq] at hp; first | exact hp | exact hp.1 | exact hp.1.1
    exact forwardDesc_other (by simp only [h, List.mem_cons, List.not_mem_nil, or_false, not_or, ne_eq, not_false_eq_true, and_self]) c t (by simp [stopsTask, q])
  · intro e hp q
    have q' : e.op = 0x2A := by simp only [Bool.and_eq_true, decide_eq_true_eq, ne_eq] at hp; first | exact hp | exact hp.1 | exact hp.1.1
    rw [q'] at q
    exact absurd q (by decide)
  · intro e hp q
    have q' : e.op = 0x2A := by simp only [Bool.and_eq_true, decide_eq_true_eq, ne_eq] at hp; first | exact hp | exact hp.1 | exact hp.1.1
    unfold dataLen at q
    rw [q'] at q
    exact absurd q (Nat.lt_irrefl 0)
  · intro c t hp
    have q : c.d.op = 0x2A := by simp only [Bool.and_eq_true, decide_eq_true_eq, ne_eq] at hp; first | exact hp | exact hp.1 | exact hp.1.1
    unfold apply
    rw [q]
    exact onHandle_view c apCanState t (apCanState_view (by simp only [h, List.mem_cons, List.not_mem_nil, or_false, not_or, ne_eq, not_false_eq_true, and_self]) c t)

theorem execCanCancel_view {k : Blk} (h : k ∉ ([.hub, .shu, .can, .mir, .hed, .rcd, .out, .free] : List Blk)) (s : State) :
    viewR k (execCanCancel s) = some (view k s) := by
  simp only [List.mem_cons, List.not_mem_nil, or_false, not_or] at h
  unfold execCanCancel runBare
  refine runRow_at (k := k) (by simp only [h, List.mem_cons, List.not_mem_nil, or_false, not_or, ne_eq, not_false_eq_true, and_self]) _ _ s ?_ ?_ ?_ ?_ ?_
  · intro t b e z hp
    have q : e.op = 0x2A := by simp only [Bool.and_eq_true, decide_eq_true_eq, ne_eq] at hp; first | exact hp | exact hp.1 | exact hp.1.1
    exact deniedEffect_other t b e z (by rw [q]; decide) (by rw [q]; decide) (by rw [q]; decide)
  · intro c t hp hm
    have q : c.d.op = 0x2A := by simp only [Bool.and_eq_true, decide_eq_true_eq, ne_eq] at hp; first | exact hp | exact hp.1 | exact hp.1.1
    exact forwardDesc_other (by simp only [h, List.mem_cons, List.not_mem_nil, or_false, not_or, ne_eq, not_false_eq_true, and_self]) c t (by simp [stopsTask, q])
  · intro e hp q
    have q' : e.op = 0x2A := by simp only [Bool.and_eq_true, decide_eq_true_eq, ne_eq] at hp; first | exact hp | exact hp.1 | exact hp.1.1
    rw [q'] at q
    exact absurd q (by decide)
  · intro e hp q
    have q' : e.op = 0x2A := by simp only [Bool.and_eq_true, decide_eq_true_eq, ne_eq] at hp; first | exact hp | exact hp.1 | exact hp.1.1
    unfold dataLen at q
    rw [q'] at q
    exact absurd q (Nat.lt_irrefl 0)
  · intro c t hp
    have q : c.d.op = 0x2A := by simp only [Bool.and_eq_true, decide_eq_true_eq, ne_eq] at hp; first | exact hp | exact hp.1 | exact hp.1.1
    unfold apply
    rw [q]
    exact onHandle_view c apCanState t (apCanState_view (by simp only [h, List.mem_cons, List.not_mem_nil, or_false, not_or, ne_eq, not_false_eq_true, and_self]) c t)

theorem execCanFilter_view {k : Blk} (h : k ∉ ([.hub, .shu, .zor, .can, .mir, .hed, .rcd, .pwr, .out, .free] : List Blk)) (d : HostData) (s : State) :
    viewR k (execCanFilter d s) = some (view k s) := by
  simp only [List.mem_cons, List.not_mem_nil, or_false, not_or] at h
  unfold execCanFilter
  refine runRow_at (k := k) (by simp only [h, List.mem_cons, List.not_mem_nil, or_false, not_or, ne_eq, not_false_eq_true, and_self]) _ _ s ?_ ?_ ?_ ?_ ?_
  · intro t b e z hp
    have q : e.op = 0x2B := by simp only [Bool.and_eq_true, decide_eq_true_eq, ne_eq] at hp; first | exact hp | exact hp.1 | exact hp.1.1
    exact deniedEffect_other t b e z (by rw [q]; decide) (by rw [q]; decide) (by rw [q]; decide)
  · intro c t hp hm
    have q : c.d.op = 0x2B := by simp only [Bool.and_eq_true, decide_eq_true_eq, ne_eq] at hp; first | exact hp | exact hp.1 | exact hp.1.1
    exact forwardDesc_other (by simp only [h, List.mem_cons, List.not_mem_nil, or_false, not_or, ne_eq, not_false_eq_true, and_self]) c t (by simp [stopsTask, q])
  · intro e hp q
    have q' : e.op = 0x2B := by simp only [Bool.and_eq_true, decide_eq_true_eq, ne_eq] at hp; first | exact hp | exact hp.1 | exact hp.1.1
    rw [q'] at q
    exact absurd q (by decide)
  · exact fun _ _ _ => by simp only [h, List.mem_cons, List.not_mem_nil, or_false, not_or, ne_eq, not_false_eq_true, and_self]
  · intro c t hp
    have q : c.d.op = 0x2B := by simp only [Bool.and_eq_true, decide_eq_true_eq, ne_eq] at hp; first | exact hp | exact hp.1 | exact hp.1.1
    unfold apply
    rw [q]
    exact onHandle_view c apCanFilter t (apCanFilter_view (by simp only [h, List.mem_cons, List.not_mem_nil, or_false, not_or, ne_eq, not_false_eq_true, and_self]) c t)

theorem execStreamPost_view {k : Blk} (h : k ∉ ([.shu, .can, .hed, .rcd, .pwr, .out, .free] : List Blk)) (s : State) :
    viewR k (execStreamPost s) = some (view k s) := by
  simp only [List.mem_cons, List.not_mem_nil, or_false, not_or] at h
  unfold execStreamPost runBare
  refine runRow_at (k := k) (by simp only [h, List.mem_cons, List.not_mem_nil, or_false, not_or, ne_eq, not_false_eq_true, and_self]) _ _ s ?_ ?_ ?_ ?_ ?_
  · intro t b e z hp
    have q : e.op = 0x30 := by simp only [Bool.and_eq_true, decide_eq_true_eq, ne_eq] at hp; first | exact hp | exact hp.1 | exact hp.1.1
    exact deniedEffect_other t b e z (by rw [q]; decide) (by rw [q]; decide) (by rw [q]; decide)
  · intro c t hp hm
    have q : c.d.op = 0x30 := by simp only [Bool.and_eq_true, decide_eq_true_eq, ne_eq] at hp; first | exact hp | exact hp.1 | exact hp.1.1
    rw [q] at hm
    exact absurd hm (by decide)
  · intro e hp q
    have q' : e.op = 0x30 := by simp only [Bool.and_eq_true, decide_eq_true_eq, ne_eq] at hp; first | exact hp | exact hp.1 | exact hp.1.1
    rw [q'] at q
    exact absurd q (by decide)
  · intro e hp q
    have q' : e.op = 0x30 := by simp only [Bool.and_eq_true, decide_eq_true_eq, ne_eq] at hp; first | exact hp | exact hp.1 | exact hp.1.1
    unfold dataLen at q
    rw [q'] at q
    exact absurd q (Nat.lt_irrefl 0)
  · intro c t hp
    have q : c.d.op = 0x30 := by simp only [Bool.and_eq_true, decide_eq_true_eq, ne_eq] at hp; first | exact hp | exact hp.1 | exact hp.1.1
    unfold apply
    rw [q]
    exact onHandle_view c apStreamPost t (apStreamPost_view (by simp only [h, List.mem_cons, List.not_mem_nil, or_false, not_or, ne_eq, not_false_eq_true, and_self]) c t)

theorem execStreamDrop_view {k : Blk} (h : k ∉ ([.shu, .hed, .free] : List Blk)) (s : State) :
    viewR k (execStreamDrop s) = some (view k s) := by
  simp only [List.mem_cons, List.not_mem_nil, or_false, not_or] at h
  unfold execStreamDrop runBare
  refine runRow_at (k := k) (by simp only [h, List.mem_cons, List.not_mem_nil, or_false, not_or, ne_eq, not_false_eq_true, and_self]) _ _ s ?_ ?_ ?_ ?_ ?_
  · intro t b e z hp
    have q : e.op = 0x31 := by simp only [Bool.and_eq_true, decide_eq_true_eq, ne_eq] at hp; first | exact hp | exact hp.1 | exact hp.1.1
    exact deniedEffect_other t b e z (by rw [q]; decide) (by rw [q]; decide) (by rw [q]; decide)
  · intro c t hp hm
    have q : c.d.op = 0x31 := by simp only [Bool.and_eq_true, decide_eq_true_eq, ne_eq] at hp; first | exact hp | exact hp.1 | exact hp.1.1
    rw [q] at hm
    exact absurd hm (by decide)
  · intro e hp q
    have q' : e.op = 0x31 := by simp only [Bool.and_eq_true, decide_eq_true_eq, ne_eq] at hp; first | exact hp | exact hp.1 | exact hp.1.1
    rw [q'] at q
    exact absurd q (by decide)
  · intro e hp q
    have q' : e.op = 0x31 := by simp only [Bool.and_eq_true, decide_eq_true_eq, ne_eq] at hp; first | exact hp | exact hp.1 | exact hp.1.1
    unfold dataLen at q
    rw [q'] at q
    exact absurd q (Nat.lt_irrefl 0)
  · intro c t hp
    have q : c.d.op = 0x31 := by simp only [Bool.and_eq_true, decide_eq_true_eq, ne_eq] at hp; first | exact hp | exact hp.1 | exact hp.1.1
    unfold apply
    rw [q]
    exact onHandle_view c apStreamDrop t (apStreamDrop_view (by simp only [h, List.mem_cons, List.not_mem_nil, or_false, not_or, ne_eq, not_false_eq_true, and_self]) c t)

theorem execRecRead_view {k : Blk} (h : k ∉ ([.shu, .hed, .sec, .rcd, .pwr, .out, .free] : List Blk)) (s : State) :
    viewR k (execRecRead s) = some (view k s) := by
  simp only [List.mem_cons, List.not_mem_nil, or_false, not_or] at h
  unfold execRecRead
  refine runXfer_at (k := k) (by simp only [h, List.mem_cons, List.not_mem_nil, or_false, not_or, ne_eq, not_false_eq_true, and_self]) _ _ _ s ?_ ?_ ?_ ?_ ?_
  · intro t b e z hp
    have q : e.op = 0x38 := by simp only [Bool.and_eq_true, decide_eq_true_eq, ne_eq] at hp; first | exact hp | exact hp.1 | exact hp.1.1
    exact deniedEffect_other t b e z (by rw [q]; decide) (by rw [q]; decide) (by rw [q]; decide)
  · intro c t hp hm
    have q : c.d.op = 0x38 := by simp only [Bool.and_eq_true, decide_eq_true_eq, ne_eq] at hp; first | exact hp | exact hp.1 | exact hp.1.1
    rw [q] at hm
    exact absurd hm (by decide)
  · exact fun _ _ _ => by simp only [h, List.mem_cons, List.not_mem_nil, or_false, not_or, ne_eq, not_false_eq_true, and_self]
  · intro e hp q
    have q' : e.op = 0x38 := by simp only [Bool.and_eq_true, decide_eq_true_eq, ne_eq] at hp; first | exact hp | exact hp.1 | exact hp.1.1
    unfold dataLen at q
    rw [q'] at q
    exact absurd q (Nat.lt_irrefl 0)
  · intro c t hp
    have q : c.d.op = 0x38 := by simp only [Bool.and_eq_true, decide_eq_true_eq, ne_eq] at hp; first | exact hp | exact hp.1 | exact hp.1.1
    unfold apply
    rw [q]
    exact onHandle_view c apRecRead t (apRecRead_view (by simp only [h, List.mem_cons, List.not_mem_nil, or_false, not_or, ne_eq, not_false_eq_true, and_self]) c t)

theorem execRecFreeze_view {k : Blk} (h : k ∉ ([.shu, .hed, .rcd, .free] : List Blk)) (s : State) :
    viewR k (execRecFreeze s) = some (view k s) := by
  simp only [List.mem_cons, List.not_mem_nil, or_false, not_or] at h
  unfold execRecFreeze runBare
  refine runRow_at (k := k) (by simp only [h, List.mem_cons, List.not_mem_nil, or_false, not_or, ne_eq, not_false_eq_true, and_self]) _ _ s ?_ ?_ ?_ ?_ ?_
  · intro t b e z hp
    have q : e.op = 0x39 := by simp only [Bool.and_eq_true, decide_eq_true_eq, ne_eq] at hp; first | exact hp | exact hp.1 | exact hp.1.1
    exact deniedEffect_other t b e z (by rw [q]; decide) (by rw [q]; decide) (by rw [q]; decide)
  · intro c t hp hm
    have q : c.d.op = 0x39 := by simp only [Bool.and_eq_true, decide_eq_true_eq, ne_eq] at hp; first | exact hp | exact hp.1 | exact hp.1.1
    rw [q] at hm
    exact absurd hm (by decide)
  · intro e hp q
    have q' : e.op = 0x39 := by simp only [Bool.and_eq_true, decide_eq_true_eq, ne_eq] at hp; first | exact hp | exact hp.1 | exact hp.1.1
    rw [q'] at q
    exact absurd q (by decide)
  · intro e hp q
    have q' : e.op = 0x39 := by simp only [Bool.and_eq_true, decide_eq_true_eq, ne_eq] at hp; first | exact hp | exact hp.1 | exact hp.1.1
    unfold dataLen at q
    rw [q'] at q
    exact absurd q (Nat.lt_irrefl 0)
  · intro c t hp
    have q : c.d.op = 0x39 := by simp only [Bool.and_eq_true, decide_eq_true_eq, ne_eq] at hp; first | exact hp | exact hp.1 | exact hp.1.1
    unfold apply
    rw [q]
    exact onHandle_view c apRecFreeze t (apRecFreeze_view (by simp only [h, List.mem_cons, List.not_mem_nil, or_false, not_or, ne_eq, not_false_eq_true, and_self]) c t)

theorem execRecFreezeRelease_view {k : Blk} (h : k ∉ ([.shu, .hed, .rcd, .free] : List Blk)) (s : State) :
    viewR k (execRecFreezeRelease s) = some (view k s) := by
  simp only [List.mem_cons, List.not_mem_nil, or_false, not_or] at h
  unfold execRecFreezeRelease runBare
  refine runRow_at (k := k) (by simp only [h, List.mem_cons, List.not_mem_nil, or_false, not_or, ne_eq, not_false_eq_true, and_self]) _ _ s ?_ ?_ ?_ ?_ ?_
  · intro t b e z hp
    have q : e.op = 0x39 := by simp only [Bool.and_eq_true, decide_eq_true_eq, ne_eq] at hp; first | exact hp | exact hp.1 | exact hp.1.1
    exact deniedEffect_other t b e z (by rw [q]; decide) (by rw [q]; decide) (by rw [q]; decide)
  · intro c t hp hm
    have q : c.d.op = 0x39 := by simp only [Bool.and_eq_true, decide_eq_true_eq, ne_eq] at hp; first | exact hp | exact hp.1 | exact hp.1.1
    rw [q] at hm
    exact absurd hm (by decide)
  · intro e hp q
    have q' : e.op = 0x39 := by simp only [Bool.and_eq_true, decide_eq_true_eq, ne_eq] at hp; first | exact hp | exact hp.1 | exact hp.1.1
    rw [q'] at q
    exact absurd q (by decide)
  · intro e hp q
    have q' : e.op = 0x39 := by simp only [Bool.and_eq_true, decide_eq_true_eq, ne_eq] at hp; first | exact hp | exact hp.1 | exact hp.1.1
    unfold dataLen at q
    rw [q'] at q
    exact absurd q (Nat.lt_irrefl 0)
  · intro c t hp
    have q : c.d.op = 0x39 := by simp only [Bool.and_eq_true, decide_eq_true_eq, ne_eq] at hp; first | exact hp | exact hp.1 | exact hp.1.1
    unfold apply
    rw [q]
    exact onHandle_view c apRecFreeze t (apRecFreeze_view (by simp only [h, List.mem_cons, List.not_mem_nil, or_false, not_or, ne_eq, not_false_eq_true, and_self]) c t)

theorem execRecClear_view {k : Blk} (h : k ∉ ([.shu, .hed, .rcd, .pwr, .out, .free] : List Blk)) (s : State) :
    viewR k (execRecClear s) = some (view k s) := by
  simp only [List.mem_cons, List.not_mem_nil, or_false, not_or] at h
  unfold execRecClear runBare
  refine runRow_at (k := k) (by simp only [h, List.mem_cons, List.not_mem_nil, or_false, not_or, ne_eq, not_false_eq_true, and_self]) _ _ s ?_ ?_ ?_ ?_ ?_
  · intro t b e z hp
    have q : e.op = 0x3A := by simp only [Bool.and_eq_true, decide_eq_true_eq, ne_eq] at hp; first | exact hp | exact hp.1 | exact hp.1.1
    exact deniedEffect_other t b e z (by rw [q]; decide) (by rw [q]; decide) (by rw [q]; decide)
  · intro c t hp hm
    have q : c.d.op = 0x3A := by simp only [Bool.and_eq_true, decide_eq_true_eq, ne_eq] at hp; first | exact hp | exact hp.1 | exact hp.1.1
    rw [q] at hm
    exact absurd hm (by decide)
  · intro e hp q
    have q' : e.op = 0x3A := by simp only [Bool.and_eq_true, decide_eq_true_eq, ne_eq] at hp; first | exact hp | exact hp.1 | exact hp.1.1
    rw [q'] at q
    exact absurd q (by decide)
  · intro e hp q
    have q' : e.op = 0x3A := by simp only [Bool.and_eq_true, decide_eq_true_eq, ne_eq] at hp; first | exact hp | exact hp.1 | exact hp.1.1
    unfold dataLen at q
    rw [q'] at q
    exact absurd q (Nat.lt_irrefl 0)
  · intro c t hp
    have q : c.d.op = 0x3A := by simp only [Bool.and_eq_true, decide_eq_true_eq, ne_eq] at hp; first | exact hp | exact hp.1 | exact hp.1.1
    unfold apply
    rw [q]
    exact apRecClear_view (by simp only [h, List.mem_cons, List.not_mem_nil, or_false, not_or, ne_eq, not_false_eq_true, and_self]) c t

theorem execBrkReqEngage_view {k : Blk} (h : k ∉ ([.hub, .shu, .prism, .brk, .mir, .hed, .rcd, .pwr, .out, .free] : List Blk)) (s : State) :
    viewR k (execBrkReqEngage s) = some (view k s) := by
  simp only [List.mem_cons, List.not_mem_nil, or_false, not_or] at h
  unfold execBrkReqEngage runBare
  refine runRow_at (k := k) (by simp only [h, List.mem_cons, List.not_mem_nil, or_false, not_or, ne_eq, not_false_eq_true, and_self]) _ _ s ?_ ?_ ?_ ?_ ?_
  · intro t b e z hp
    have q : e.op = 0x40 := by simp only [Bool.and_eq_true, decide_eq_true_eq, ne_eq] at hp; first | exact hp | exact hp.1 | exact hp.1.1
    exact deniedEffect_other t b e z (by rw [q]; decide) (by rw [q]; decide) (by rw [q]; decide)
  · intro c t hp hm
    have q : c.d.op = 0x40 := by simp only [Bool.and_eq_true, decide_eq_true_eq, ne_eq] at hp; first | exact hp | exact hp.1 | exact hp.1.1
    exact forwardDesc_other (by simp only [h, List.mem_cons, List.not_mem_nil, or_false, not_or, ne_eq, not_false_eq_true, and_self]) c t (by simp [stopsTask, q])
  · intro e hp q
    have q' : e.op = 0x40 := by simp only [Bool.and_eq_true, decide_eq_true_eq, ne_eq] at hp; first | exact hp | exact hp.1 | exact hp.1.1
    rw [q'] at q
    exact absurd q (by decide)
  · intro e hp q
    have q' : e.op = 0x40 := by simp only [Bool.and_eq_true, decide_eq_true_eq, ne_eq] at hp; first | exact hp | exact hp.1 | exact hp.1.1
    unfold dataLen at q
    rw [q'] at q
    exact absurd q (Nat.lt_irrefl 0)
  · intro c t hp
    have q : c.d.op = 0x40 := by simp only [Bool.and_eq_true, decide_eq_true_eq, ne_eq] at hp; first | exact hp | exact hp.1 | exact hp.1.1
    unfold apply
    rw [q]
    exact apBrkReq_view (by simp only [h, List.mem_cons, List.not_mem_nil, or_false, not_or, ne_eq, not_false_eq_true, and_self]) c t

theorem execBrkReqRelease_view {k : Blk} (h : k ∉ ([.hub, .shu, .prism, .brk, .mir, .hed, .rcd, .pwr, .out, .free] : List Blk)) (s : State) :
    viewR k (execBrkReqRelease s) = some (view k s) := by
  simp only [List.mem_cons, List.not_mem_nil, or_false, not_or] at h
  unfold execBrkReqRelease runBare
  refine runRow_at (k := k) (by simp only [h, List.mem_cons, List.not_mem_nil, or_false, not_or, ne_eq, not_false_eq_true, and_self]) _ _ s ?_ ?_ ?_ ?_ ?_
  · intro t b e z hp
    have q : e.op = 0x40 := by simp only [Bool.and_eq_true, decide_eq_true_eq, ne_eq] at hp; first | exact hp | exact hp.1 | exact hp.1.1
    exact deniedEffect_other t b e z (by rw [q]; decide) (by rw [q]; decide) (by rw [q]; decide)
  · intro c t hp hm
    have q : c.d.op = 0x40 := by simp only [Bool.and_eq_true, decide_eq_true_eq, ne_eq] at hp; first | exact hp | exact hp.1 | exact hp.1.1
    exact forwardDesc_other (by simp only [h, List.mem_cons, List.not_mem_nil, or_false, not_or, ne_eq, not_false_eq_true, and_self]) c t (by simp [stopsTask, q])
  · intro e hp q
    have q' : e.op = 0x40 := by simp only [Bool.and_eq_true, decide_eq_true_eq, ne_eq] at hp; first | exact hp | exact hp.1 | exact hp.1.1
    rw [q'] at q
    exact absurd q (by decide)
  · intro e hp q
    have q' : e.op = 0x40 := by simp only [Bool.and_eq_true, decide_eq_true_eq, ne_eq] at hp; first | exact hp | exact hp.1 | exact hp.1.1
    unfold dataLen at q
    rw [q'] at q
    exact absurd q (Nat.lt_irrefl 0)
  · intro c t hp
    have q : c.d.op = 0x40 := by simp only [Bool.and_eq_true, decide_eq_true_eq, ne_eq] at hp; first | exact hp | exact hp.1 | exact hp.1.1
    unfold apply
    rw [q]
    exact apBrkReq_view (by simp only [h, List.mem_cons, List.not_mem_nil, or_false, not_or, ne_eq, not_false_eq_true, and_self]) c t

theorem execBrkReqBrakeTest_view {k : Blk} (h : k ∉ ([.hub, .shu, .prism, .brk, .mir, .hed, .rcd, .pwr, .out, .free] : List Blk)) (s : State) :
    viewR k (execBrkReqBrakeTest s) = some (view k s) := by
  simp only [List.mem_cons, List.not_mem_nil, or_false, not_or] at h
  unfold execBrkReqBrakeTest runBare
  refine runRow_at (k := k) (by simp only [h, List.mem_cons, List.not_mem_nil, or_false, not_or, ne_eq, not_false_eq_true, and_self]) _ _ s ?_ ?_ ?_ ?_ ?_
  · intro t b e z hp
    have q : e.op = 0x40 := by simp only [Bool.and_eq_true, decide_eq_true_eq, ne_eq] at hp; first | exact hp | exact hp.1 | exact hp.1.1
    exact deniedEffect_other t b e z (by rw [q]; decide) (by rw [q]; decide) (by rw [q]; decide)
  · intro c t hp hm
    have q : c.d.op = 0x40 := by simp only [Bool.and_eq_true, decide_eq_true_eq, ne_eq] at hp; first | exact hp | exact hp.1 | exact hp.1.1
    exact forwardDesc_other (by simp only [h, List.mem_cons, List.not_mem_nil, or_false, not_or, ne_eq, not_false_eq_true, and_self]) c t (by simp [stopsTask, q])
  · intro e hp q
    have q' : e.op = 0x40 := by simp only [Bool.and_eq_true, decide_eq_true_eq, ne_eq] at hp; first | exact hp | exact hp.1 | exact hp.1.1
    rw [q'] at q
    exact absurd q (by decide)
  · intro e hp q
    have q' : e.op = 0x40 := by simp only [Bool.and_eq_true, decide_eq_true_eq, ne_eq] at hp; first | exact hp | exact hp.1 | exact hp.1.1
    unfold dataLen at q
    rw [q'] at q
    exact absurd q (Nat.lt_irrefl 0)
  · intro c t hp
    have q : c.d.op = 0x40 := by simp only [Bool.and_eq_true, decide_eq_true_eq, ne_eq] at hp; first | exact hp | exact hp.1 | exact hp.1.1
    unfold apply
    rw [q]
    exact apBrkReq_view (by simp only [h, List.mem_cons, List.not_mem_nil, or_false, not_or, ne_eq, not_false_eq_true, and_self]) c t

theorem execBrkCfg_view {k : Blk} (h : k ∉ ([.hub, .shu, .brk, .mir, .hed, .rcd, .pwr, .out, .free] : List Blk)) (d : HostData) (s : State) :
    viewR k (execBrkCfg d s) = some (view k s) := by
  simp only [List.mem_cons, List.not_mem_nil, or_false, not_or] at h
  unfold execBrkCfg
  refine runRow_at (k := k) (by simp only [h, List.mem_cons, List.not_mem_nil, or_false, not_or, ne_eq, not_false_eq_true, and_self]) _ _ s ?_ ?_ ?_ ?_ ?_
  · intro t b e z hp
    have q : e.op = 0x41 := by simp only [Bool.and_eq_true, decide_eq_true_eq, ne_eq] at hp; first | exact hp | exact hp.1 | exact hp.1.1
    unfold deniedEffect
    split
    · exact brkWrong_view (by simp only [h, List.mem_cons, List.not_mem_nil, or_false, not_or, ne_eq, not_false_eq_true, and_self]) _ t
    · rw [if_neg (by simp [q]), if_neg (by simp [q])]
  · intro c t hp hm
    have q : c.d.op = 0x41 := by simp only [Bool.and_eq_true, decide_eq_true_eq, ne_eq] at hp; first | exact hp | exact hp.1 | exact hp.1.1
    exact forwardDesc_other (by simp only [h, List.mem_cons, List.not_mem_nil, or_false, not_or, ne_eq, not_false_eq_true, and_self]) c t (by simp [stopsTask, q])
  · intro e hp q
    have q' : e.op = 0x41 := by simp only [Bool.and_eq_true, decide_eq_true_eq, ne_eq] at hp; first | exact hp | exact hp.1 | exact hp.1.1
    rw [q'] at q
    exact absurd q (by decide)
  · exact fun _ _ _ => by simp only [h, List.mem_cons, List.not_mem_nil, or_false, not_or, ne_eq, not_false_eq_true, and_self]
  · intro c t hp
    have q : c.d.op = 0x41 := by simp only [Bool.and_eq_true, decide_eq_true_eq, ne_eq] at hp; first | exact hp | exact hp.1 | exact hp.1.1
    unfold apply
    rw [q]
    exact apBrkCfg_view (by simp only [h, List.mem_cons, List.not_mem_nil, or_false, not_or, ne_eq, not_false_eq_true, and_self]) c t

theorem execPanelFrame_view {k : Blk} (h : k ∉ ([.shu, .hed, .rcd, .pan, .pwr, .free] : List Blk)) (d : HostData) (s : State) :
    viewR k (execPanelFrame d s) = some (view k s) := by
  simp only [List.mem_cons, List.not_mem_nil, or_false, not_or] at h
  unfold execPanelFrame
  refine runRow_at (k := k) (by simp only [h, List.mem_cons, List.not_mem_nil, or_false, not_or, ne_eq, not_false_eq_true, and_self]) _ _ s ?_ ?_ ?_ ?_ ?_
  · intro t b e z hp
    have q : e.op = 0x48 := by simp only [Bool.and_eq_true, decide_eq_true_eq, ne_eq] at hp; first | exact hp | exact hp.1 | exact hp.1.1
    exact deniedEffect_other t b e z (by rw [q]; decide) (by rw [q]; decide) (by rw [q]; decide)
  · intro c t hp hm
    have q : c.d.op = 0x48 := by simp only [Bool.and_eq_true, decide_eq_true_eq, ne_eq] at hp; first | exact hp | exact hp.1 | exact hp.1.1
    rw [q] at hm
    exact absurd hm (by decide)
  · intro e hp q
    have q' : e.op = 0x48 := by simp only [Bool.and_eq_true, decide_eq_true_eq, ne_eq] at hp; first | exact hp | exact hp.1 | exact hp.1.1
    rw [q'] at q
    exact absurd q (by decide)
  · exact fun _ _ _ => by simp only [h, List.mem_cons, List.not_mem_nil, or_false, not_or, ne_eq, not_false_eq_true, and_self]
  · intro c t hp
    have q : c.d.op = 0x48 := by simp only [Bool.and_eq_true, decide_eq_true_eq, ne_eq] at hp; first | exact hp | exact hp.1 | exact hp.1.1
    unfold apply
    rw [q]
    exact apPanel_view (by simp only [h, List.mem_cons, List.not_mem_nil, or_false, not_or, ne_eq, not_false_eq_true, and_self]) c t

theorem execMirRoleSyncing_view {k : Blk} (h : k ∉ ([.hub, .shu, .loom, .zor, .prism, .dbank, .dio, .aio, .enc, .can, .brk, .mir, .hed, .rcd, .pwr, .out, .free] : List Blk)) (s : State) :
    viewR k (execMirRoleSyncing s) = some (view k s) := by
  simp only [List.mem_cons, List.not_mem_nil, or_false, not_or] at h
  unfold execMirRoleSyncing runBare
  refine runRow_at (k := k) (by simp only [h, List.mem_cons, List.not_mem_nil, or_false, not_or, ne_eq, not_false_eq_true, and_self]) _ _ s ?_ ?_ ?_ ?_ ?_
  · intro t b e z hp
    have q : e.op = 0x50 := by simp only [Bool.and_eq_true, decide_eq_true_eq, ne_eq] at hp; first | exact hp | exact hp.1 | exact hp.1.1
    unfold deniedEffect
    rw [if_neg (by simp [q]), if_neg (by simp [q])]
    split
    · exact lifeEvent_view (by simp only [h, List.mem_cons, List.not_mem_nil, or_false, not_or, ne_eq, not_false_eq_true, and_self]) t
    · rfl
  · intro c t hp hm
    have q : c.d.op = 0x50 := by simp only [Bool.and_eq_true, decide_eq_true_eq, ne_eq] at hp; first | exact hp | exact hp.1 | exact hp.1.1
    rw [q] at hm
    exact absurd hm (by decide)
  · intro e hp q
    have q' : e.op = 0x50 := by simp only [Bool.and_eq_true, decide_eq_true_eq, ne_eq] at hp; first | exact hp | exact hp.1 | exact hp.1.1
    rw [q'] at q
    exact absurd q (by decide)
  · intro e hp q
    have q' : e.op = 0x50 := by simp only [Bool.and_eq_true, decide_eq_true_eq, ne_eq] at hp; first | exact hp | exact hp.1 | exact hp.1.1
    unfold dataLen at q
    rw [q'] at q
    exact absurd q (Nat.lt_irrefl 0)
  · intro c t hp
    have q : c.d.op = 0x50 := by simp only [Bool.and_eq_true, decide_eq_true_eq, ne_eq] at hp; first | exact hp | exact hp.1 | exact hp.1.1
    unfold apply
    rw [q]
    exact apMirRole_view (by simp only [h, List.mem_cons, List.not_mem_nil, or_false, not_or, ne_eq, not_false_eq_true, and_self]) c t

theorem execMirRoleActive_view {k : Blk} (h : k ∉ ([.hub, .shu, .loom, .zor, .prism, .dbank, .dio, .aio, .enc, .can, .brk, .mir, .hed, .rcd, .pwr, .out, .free] : List Blk)) (s : State) :
    viewR k (execMirRoleActive s) = some (view k s) := by
  simp only [List.mem_cons, List.not_mem_nil, or_false, not_or] at h
  unfold execMirRoleActive runBare
  refine runRow_at (k := k) (by simp only [h, List.mem_cons, List.not_mem_nil, or_false, not_or, ne_eq, not_false_eq_true, and_self]) _ _ s ?_ ?_ ?_ ?_ ?_
  · intro t b e z hp
    have q : e.op = 0x50 := by simp only [Bool.and_eq_true, decide_eq_true_eq, ne_eq] at hp; first | exact hp | exact hp.1 | exact hp.1.1
    unfold deniedEffect
    rw [if_neg (by simp [q]), if_neg (by simp [q])]
    split
    · exact lifeEvent_view (by simp only [h, List.mem_cons, List.not_mem_nil, or_false, not_or, ne_eq, not_false_eq_true, and_self]) t
    · rfl
  · intro c t hp hm
    have q : c.d.op = 0x50 := by simp only [Bool.and_eq_true, decide_eq_true_eq, ne_eq] at hp; first | exact hp | exact hp.1 | exact hp.1.1
    rw [q] at hm
    exact absurd hm (by decide)
  · intro e hp q
    have q' : e.op = 0x50 := by simp only [Bool.and_eq_true, decide_eq_true_eq, ne_eq] at hp; first | exact hp | exact hp.1 | exact hp.1.1
    rw [q'] at q
    exact absurd q (by decide)
  · intro e hp q
    have q' : e.op = 0x50 := by simp only [Bool.and_eq_true, decide_eq_true_eq, ne_eq] at hp; first | exact hp | exact hp.1 | exact hp.1.1
    unfold dataLen at q
    rw [q'] at q
    exact absurd q (Nat.lt_irrefl 0)
  · intro c t hp
    have q : c.d.op = 0x50 := by simp only [Bool.and_eq_true, decide_eq_true_eq, ne_eq] at hp; first | exact hp | exact hp.1 | exact hp.1.1
    unfold apply
    rw [q]
    exact apMirRole_view (by simp only [h, List.mem_cons, List.not_mem_nil, or_false, not_or, ne_eq, not_false_eq_true, and_self]) c t

theorem execMirRoleStandby_view {k : Blk} (h : k ∉ ([.hub, .shu, .loom, .zor, .prism, .dbank, .dio, .aio, .enc, .can, .brk, .mir, .hed, .rcd, .pwr, .out, .free] : List Blk)) (s : State) :
    viewR k (execMirRoleStandby s) = some (view k s) := by
  simp only [List.mem_cons, List.not_mem_nil, or_false, not_or] at h
  unfold execMirRoleStandby runBare
  refine runRow_at (k := k) (by simp only [h, List.mem_cons, List.not_mem_nil, or_false, not_or, ne_eq, not_false_eq_true, and_self]) _ _ s ?_ ?_ ?_ ?_ ?_
  · intro t b e z hp
    have q : e.op = 0x50 := by simp only [Bool.and_eq_true, decide_eq_true_eq, ne_eq] at hp; first | exact hp | exact hp.1 | exact hp.1.1
    unfold deniedEffect
    rw [if_neg (by simp [q]), if_neg (by simp [q])]
    split
    · exact lifeEvent_view (by simp only [h, List.mem_cons, List.not_mem_nil, or_false, not_or, ne_eq, not_false_eq_true, and_self]) t
    · rfl
  · intro c t hp hm
    have q : c.d.op = 0x50 := by simp only [Bool.and_eq_true, decide_eq_true_eq, ne_eq] at hp; first | exact hp | exact hp.1 | exact hp.1.1
    rw [q] at hm
    exact absurd hm (by decide)
  · intro e hp q
    have q' : e.op = 0x50 := by simp only [Bool.and_eq_true, decide_eq_true_eq, ne_eq] at hp; first | exact hp | exact hp.1 | exact hp.1.1
    rw [q'] at q
    exact absurd q (by decide)
  · intro e hp q
    have q' : e.op = 0x50 := by simp only [Bool.and_eq_true, decide_eq_true_eq, ne_eq] at hp; first | exact hp | exact hp.1 | exact hp.1.1
    unfold dataLen at q
    rw [q'] at q
    exact absurd q (Nat.lt_irrefl 0)
  · intro c t hp
    have q : c.d.op = 0x50 := by simp only [Bool.and_eq_true, decide_eq_true_eq, ne_eq] at hp; first | exact hp | exact hp.1 | exact hp.1.1
    unfold apply
    rw [q]
    exact apMirRole_view (by simp only [h, List.mem_cons, List.not_mem_nil, or_false, not_or, ne_eq, not_false_eq_true, and_self]) c t

theorem barWrite_at {k : Blk} (h : k ≠ .rcd) (fn : Func) (off : Nat) (v : Word) (s : State)
    (hp : ∀ b t, view k (regPut b off v.toNat t) = view k t) : view k (barWrite fn off v s) = view k s := by
  have e : view k (raise 0x0B04 4 off s) = view k s := raise_view (by simp only [List.mem_cons, List.not_mem_nil, or_false]; exact h) _ _ _ s
  unfold barWrite
  split
  · rfl
  · unfold regWrite
    split
    · split
      · exact e
      · exact hp _ _
    · exact e
    · unfold when
      split
      · exact e
      · rfl
    · rfl

theorem execSessionOpen_view {k : Blk} (h : k ∉ ([.shu, .rcd, .free] : List Blk)) (fn : Func) (s : State) :
    viewR k (execSessionOpen fn s) = some (view k s) := by
  simp only [List.mem_cons, List.not_mem_nil, or_false, not_or] at h
  unfold execSessionOpen
  rw [viewR_ok, barWrite_at (k := k) (by simp only [h, List.mem_cons, List.not_mem_nil, or_false, not_or, ne_eq, not_false_eq_true, and_self]) fn _ 1 s fun b t => ?_]
  have e : blockNo 0x820 = 2 := by decide
  simp only [regPut, e]
  unfold putShu
  simp only [sessCtrl_view, view_when, implies_true, h, List.mem_cons, List.not_mem_nil, or_false, not_or, ne_eq, not_false_eq_true, and_self]

theorem execSessionClose_view {k : Blk} (h : k ∉ ([.shu, .rcd, .free] : List Blk)) (fn : Func) (s : State) :
    viewR k (execSessionClose fn s) = some (view k s) := by
  simp only [List.mem_cons, List.not_mem_nil, or_false, not_or] at h
  unfold execSessionClose
  rw [viewR_ok, barWrite_at (k := k) (by simp only [h, List.mem_cons, List.not_mem_nil, or_false, not_or, ne_eq, not_false_eq_true, and_self]) fn _ 2 s fun b t => ?_]
  have e : blockNo 0x820 = 2 := by decide
  simp only [regPut, e]
  unfold putShu
  simp only [sessCtrl_view, view_when, implies_true, h, List.mem_cons, List.not_mem_nil, or_false, not_or, ne_eq, not_false_eq_true, and_self]

theorem execSessionResponse_view {k : Blk} (h : k ∉ ([.shu, .rcd] : List Blk)) (fn : Func) (v : Word) (s : State) :
    viewR k (execSessionResponse fn v s) = some (view k s) := by
  simp only [List.mem_cons, List.not_mem_nil, or_false, not_or] at h
  unfold execSessionResponse
  rw [viewR_ok, barWrite_at (k := k) (by simp only [h, List.mem_cons, List.not_mem_nil, or_false, not_or, ne_eq, not_false_eq_true, and_self]) fn _ v s fun b t => ?_]
  have e : blockNo 0x85C = 2 := by decide
  simp only [regPut, e]
  unfold putShu
  rw [if_pos (by decide)]
  simp only [sessResp_view, view_when, implies_true, h, List.mem_cons, List.not_mem_nil, or_false, not_or, ne_eq, not_false_eq_true, and_self]

theorem execPeSselWrite_view {k : Blk} (h : k ∉ ([.win, .rcd] : List Blk)) (fn : Func) (v : Word) (s : State) :
    viewR k (execPeSselWrite fn v s) = some (view k s) := by
  simp only [List.mem_cons, List.not_mem_nil, or_false, not_or] at h
  unfold execPeSselWrite
  rw [viewR_ok, barWrite_at (k := k) (by simp only [h, List.mem_cons, List.not_mem_nil, or_false, not_or, ne_eq, not_false_eq_true, and_self]) fn _ v s fun b t => ?_]
  have e : blockNo 0x1C00 = 4 := by decide
  simp only [regPut, e]
  simp only [slotWindow_view, view_when, implies_true, h, List.mem_cons, List.not_mem_nil, or_false, not_or, ne_eq, not_false_eq_true, and_self]

theorem execDioLatWrite_view {k : Blk} (h : k ∉ ([.hub, .dbank, .dio, .mir, .hed, .rcd, .out] : List Blk)) (fn : Func) (b : Fin 4) (v : Word) (s : State) :
    viewR k (execDioLatWrite fn b v s) = some (view k s) := by
  simp only [List.mem_cons, List.not_mem_nil, or_false, not_or] at h
  unfold execDioLatWrite
  rw [viewR_ok, barWrite_at (k := k) (by simp only [h, List.mem_cons, List.not_mem_nil, or_false, not_or, ne_eq, not_false_eq_true, and_self]) fn _ v s fun w t => ?_]
  have e : blockNo (0x2818 + 0x40 * b.val) = 6 := by simp only [blockNo]; split_ifs <;> omega
  simp only [regPut, e]
  simp only [putDio_view, view_when, implies_true, h, List.mem_cons, List.not_mem_nil, or_false, not_or, ne_eq, not_false_eq_true, and_self]

theorem execEncQerrClear_view {k : Blk} (h : k ∉ ([.hub, .enc, .mir, .hed, .rcd, .out] : List Blk)) (fn : Func) (p : Fin 4) (v : Word) (s : State) :
    viewR k (execEncQerrClear fn p v s) = some (view k s) := by
  simp only [List.mem_cons, List.not_mem_nil, or_false, not_or] at h
  unfold execEncQerrClear
  rw [viewR_ok, barWrite_at (k := k) (by simp only [h, List.mem_cons, List.not_mem_nil, or_false, not_or, ne_eq, not_false_eq_true, and_self]) fn _ v s fun b t => ?_]
  have e : blockNo (0x3400 + 0x20 * p.val) = 7 := by simp only [blockNo]; split_ifs <;> omega
  simp only [regPut, e]
  simp only [encQerrDrop_view, view_when, implies_true, h, List.mem_cons, List.not_mem_nil, or_false, not_or, ne_eq, not_false_eq_true, and_self]

theorem execTimSnap_view {k : Blk} (h : k ∉ ([.tim, .hed, .rcd] : List Blk)) (fn : Func) (v : Word) (s : State) :
    viewR k (execTimSnap fn v s) = some (view k s) := by
  simp only [List.mem_cons, List.not_mem_nil, or_false, not_or] at h
  unfold execTimSnap
  rw [viewR_ok, barWrite_at (k := k) (by simp only [h, List.mem_cons, List.not_mem_nil, or_false, not_or, ne_eq, not_false_eq_true, and_self]) fn _ v s fun b t => ?_]
  have e : blockNo 0x4108 = 9 := by decide
  simp only [regPut, e]
  unfold putEth
  simp only [timSnapWrite_view, view_when, implies_true, h, List.mem_cons, List.not_mem_nil, or_false, not_or, ne_eq, not_false_eq_true, and_self]

theorem execTimAdj_view {k : Blk} (h : k ∉ ([.tim, .rcd] : List Blk)) (fn : Func) (v : Word) (s : State) :
    viewR k (execTimAdj fn v s) = some (view k s) := by
  simp only [List.mem_cons, List.not_mem_nil, or_false, not_or] at h
  unfold execTimAdj
  rw [viewR_ok, barWrite_at (k := k) (by simp only [h, List.mem_cons, List.not_mem_nil, or_false, not_or, ne_eq, not_false_eq_true, and_self]) fn _ v s fun b t => ?_]
  have e : blockNo 0x411C = 9 := by decide
  simp only [regPut, e]
  unfold putEth
  simp only [timAdjWrite_view, view_when, implies_true, h, List.mem_cons, List.not_mem_nil, or_false, not_or, ne_eq, not_false_eq_true, and_self]

theorem execBrkLogselWrite_view {k : Blk} (h : k ∉ ([.brk, .rcd] : List Blk)) (fn : Func) (v : Word) (s : State) :
    viewR k (execBrkLogselWrite fn v s) = some (view k s) := by
  simp only [List.mem_cons, List.not_mem_nil, or_false, not_or] at h
  unfold execBrkLogselWrite
  rw [viewR_ok, barWrite_at (k := k) (by simp only [h, List.mem_cons, List.not_mem_nil, or_false, not_or, ne_eq, not_false_eq_true, and_self]) fn _ v s fun b t => ?_]
  have e : blockNo 0x4894 = 10 := by decide
  simp only [regPut, e]
  simp only [brkLogLoad_view, view_when, implies_true, h, List.mem_cons, List.not_mem_nil, or_false, not_or, ne_eq, not_false_eq_true, and_self]

theorem execHedOwnWrite_view {k : Blk} (h : k ∉ ([.hed, .rcd, .free] : List Blk)) (fn : Func) (b : Fin 24) (v : Word) (s : State) :
    viewR k (execHedOwnWrite fn b v s) = some (view k s) := by
  simp only [List.mem_cons, List.not_mem_nil, or_false, not_or] at h
  unfold execHedOwnWrite
  rw [viewR_ok, barWrite_at (k := k) (by simp only [h, List.mem_cons, List.not_mem_nil, or_false, not_or, ne_eq, not_false_eq_true, and_self]) fn _ v s fun w t => ?_]
  have e : blockNo (0x2000 + 4 * b.val) = 5 := by simp only [blockNo]; split_ifs <;> omega
  simp only [regPut, e]
  simp only [putHed_view, view_when, implies_true, h, List.mem_cons, List.not_mem_nil, or_false, not_or, ne_eq, not_false_eq_true, and_self]

theorem execSecLcreq_view {k : Blk} (h : k ∉ ([.hub, .shu, .loom, .zor, .prism, .dbank, .dio, .aio, .can, .brk, .mir, .hed, .sec, .svc, .rcd, .pwr, .out, .free] : List Blk)) (fn : Func) (v : Word) (s : State) :
    viewR k (execSecLcreq fn v s) = some (view k s) := by
  simp only [List.mem_cons, List.not_mem_nil, or_false, not_or] at h
  unfold execSecLcreq
  rw [viewR_ok, barWrite_at (k := k) (by simp only [h, List.mem_cons, List.not_mem_nil, or_false, not_or, ne_eq, not_false_eq_true, and_self]) fn _ v s fun b t => ?_]
  have e : blockNo 0x6804 = 14 := by decide
  simp only [regPut, e]
  unfold putSec
  simp only [lcRequest_view, view_when, implies_true, h, List.mem_cons, List.not_mem_nil, or_false, not_or, ne_eq, not_false_eq_true, and_self]

theorem execSecRselWrite_view {k : Blk} (h : k ∉ ([.sec, .rcd] : List Blk)) (fn : Func) (v : Word) (s : State) :
    viewR k (execSecRselWrite fn v s) = some (view k s) := by
  simp only [List.mem_cons, List.not_mem_nil, or_false, not_or] at h
  unfold execSecRselWrite
  rw [viewR_ok, barWrite_at (k := k) (by simp only [h, List.mem_cons, List.not_mem_nil, or_false, not_or, ne_eq, not_false_eq_true, and_self]) fn _ v s fun b t => ?_]
  have e : blockNo 0x6810 = 14 := by decide
  simp only [regPut, e]
  unfold putSec
  simp only [view_put_sec, view_when, implies_true, h, List.mem_cons, List.not_mem_nil, or_false, not_or, ne_eq, not_false_eq_true, and_self]

theorem execLouCurWrite_view {k : Blk} (h : k ∉ ([.rcd] : List Blk)) (fn : Func) (v : Word) (s : State) :
    viewR k (execLouCurWrite fn v s) = some (view k s) := by
  simp only [List.mem_cons, List.not_mem_nil, or_false, not_or] at h
  unfold execLouCurWrite
  rw [viewR_ok, barWrite_at (k := k) (by simp only [h, List.mem_cons, List.not_mem_nil, or_false, not_or, ne_eq, not_false_eq_true, and_self]) fn _ v s fun b t => ?_]
  have e : blockNo 0x5900 = 12 := by decide
  simp only [regPut, e]
  unfold putLou
  simp only [louLoad_view, view_when, implies_true, h, List.mem_cons, List.not_mem_nil, or_false, not_or, ne_eq, not_false_eq_true, and_self]

theorem execLouFrzWrite_view {k : Blk} (h : k ∉ ([.rcd] : List Blk)) (fn : Func) (v : Word) (s : State) :
    viewR k (execLouFrzWrite fn v s) = some (view k s) := by
  simp only [List.mem_cons, List.not_mem_nil, or_false, not_or] at h
  unfold execLouFrzWrite
  rw [viewR_ok, barWrite_at (k := k) (by simp only [h, List.mem_cons, List.not_mem_nil, or_false, not_or, ne_eq, not_false_eq_true, and_self]) fn _ v s fun b t => ?_]
  have e : blockNo 0x5908 = 12 := by decide
  simp only [regPut, e]
  unfold putLou
  simp only [view_put_rcd, view_when, implies_true, h, List.mem_cons, List.not_mem_nil, or_false, not_or, ne_eq, not_false_eq_true, and_self]

theorem execBstStart_view {k : Blk} (h : k ∉ ([.loom, .prism, .tim, .hed, .rcd, .pwr] : List Blk)) (fn : Func) (v : Word) (s : State) :
    viewR k (execBstStart fn v s) = some (view k s) := by
  simp only [List.mem_cons, List.not_mem_nil, or_false, not_or] at h
  unfold execBstStart
  rw [viewR_ok, view_when _ fun t => barWrite_at (k := k) (by simp only [h, List.mem_cons, List.not_mem_nil, or_false, not_or, ne_eq, not_false_eq_true, and_self]) fn _ v t fun b t => ?_]
  have e : blockNo 0x7000 = 15 := by decide
  simp only [regPut, e]
  simp only [bstWrite_view, view_when, implies_true, h, List.mem_cons, List.not_mem_nil, or_false, not_or, ne_eq, not_false_eq_true, and_self]

theorem execPwrTselWrite_view {k : Blk} (h : k ∉ ([.rcd, .pwr] : List Blk)) (fn : Func) (v : Word) (s : State) :
    viewR k (execPwrTselWrite fn v s) = some (view k s) := by
  simp only [List.mem_cons, List.not_mem_nil, or_false, not_or] at h
  unfold execPwrTselWrite
  rw [viewR_ok, barWrite_at (k := k) (by simp only [h, List.mem_cons, List.not_mem_nil, or_false, not_or, ne_eq, not_false_eq_true, and_self]) fn _ v s fun b t => ?_]
  have e : blockNo 0x420 = 1 := by decide
  simp only [regPut, e]
  unfold putPwr
  simp only [tselWrite_view, view_when, implies_true, h, List.mem_cons, List.not_mem_nil, or_false, not_or, ne_eq, not_false_eq_true, and_self]

end Sys2Proof.Laws
end

