-- ==== Sys2Proof/Laws/Analog.lean ====
section
/-! SUPPORT. What the shared operations of the current channels and encoder ports do to the channels themselves. -/

set_option Elab.async false

namespace Sys2Proof.Laws

open Machine

/-- A report keeps every channel but for the status word last delivered and the count since then. -/
theorem aioReport_aio (a : Bool) (c d : Fin 16) (s : State) :
    ∃ w m, vget (aioReport a c s).aio d = { vget s.aio d with lastStat := w, margN := m } := by
  unfold aioReport
  dsimp only
  split
  · rw [(view_aio_iff _ _).mp (pointUpdate_view (by decide) _ _ _), setAio_aio, vget_vmod]
    split
    · rename_i h; subst h; exact ⟨_, _, rfl⟩
    · exact ⟨_, _, rfl⟩
  · exact ⟨_, _, rfl⟩

/-- A change of a channel with its report. -/
theorem modAio_aio (c : Fin 16) (f : Aio → Aio) (s : State) :
    ∃ w m, vget (modAio c f s).aio c = { f (vget s.aio c) with lastStat := w, margN := m } := by
  obtain ⟨w, m, h⟩ := aioReport_aio false c c (setAio c f s)
  exact ⟨w, m, by rw [modAio, h, setAio_aio, vget_vmod_self]⟩

theorem modAio_other (c d : Fin 16) (f : Aio → Aio) (s : State) (h : d ≠ c) :
    ∃ w m, vget (modAio c f s).aio d = { vget s.aio d with lastStat := w, margN := m } := by
  obtain ⟨w, m, e⟩ := aioReport_aio false c d (setAio c f s)
  exact ⟨w, m, by rw [modAio, e, setAio_aio, vget_vmod_ne _ _ _ _ h]⟩

/-- A report keeps every port but for the status word last delivered. -/
theorem encReport_enc (a : Bool) (p d : Fin 4) (s : State) :
    ∃ w, vget (encReport a p s).enc d = { vget s.enc d with lastStat := w } := by
  unfold encReport
  dsimp only
  split
  · rw [(view_enc_iff _ _).mp (pointUpdate_view (by decide) _ _ _), setEnc_enc, vget_vmod]
    split
    · rename_i h; subst h; exact ⟨_, rfl⟩
    · exact ⟨_, rfl⟩
  · exact ⟨_, rfl⟩

theorem modEnc_enc (p : Fin 4) (f : Enc → Enc) (s : State) : ∃ w, vget (modEnc p f s).enc p = { f (vget s.enc p) with lastStat := w } := by
  obtain ⟨w, h⟩ := encReport_enc false p p (setEnc p f s)
  exact ⟨w, by rw [modEnc, h, setEnc_enc, vget_vmod_self]⟩

end Sys2Proof.Laws
end

