-- ==== Sys2Proof/Laws/Banks.lean ====
section
/-! SUPPORT. What the crossbar does with an access that it grants. -/

set_option Elab.async false

namespace Sys2Proof.Laws

open Sys2Proof Sys2Proof.Machine

/-- A port that serves a master is not one whose handover from it is pending (R367). -/
theorem portServes_new {r : BankReq} {s : State} (h : portServes s r.bank r.portB r.master r.service r.write = true) :
    ¬(r.service = false ∧ portOwner s r.bank r.portB = r.master.val ∧ (hedBank s r.bank).pend = true ∧ r.portB = false) := by
  rintro ⟨q, -, u, v⟩
  simp [portServes, q, u, v] at h

/-- A granted access reads or writes the bank. -/
theorem bankAccess_granted {r : BankReq} {s : State} (h : granted r s) : exec (.bankAccess r) s = .next (bankGrant r s) := by
  obtain ⟨a, b, c, d, e⟩ := h
  simp only [exec, execBankAccess, if_neg (Nat.not_lt.mpr a), ok, b, d, Bool.not_true, Bool.false_eq_true, if_false]
  by_cases q : r.service = true
  · simp only [q, if_true] at c ⊢
    simp [c]
  · simp only [q] at c ⊢
    have n : ¬(portOwner s r.bank r.portB = r.master.val ∧ (hedBank s r.bank).pend = true ∧ r.portB = false) := by
      rintro ⟨-, u, v⟩
      simp only [portServes, Bool.false_eq_true, if_false, u, v, Bool.not_false, Bool.and_self, Bool.not_true, Bool.and_false] at c
    simp only [Bool.not_eq_true, Bool.not_false, Bool.and_eq_true, decide_eq_true_eq, Bool.not_eq_eq_eq_not, Bool.not_true]
    rw [if_neg (by rintro ⟨⟨⟨-, u⟩, v⟩, w⟩; exact n ⟨u, v, by simpa using w⟩)]
    simp [c]

/-- A granted write outside a collision stores its bytes. -/
theorem bankGrant_write {r : BankReq} {s : State} (h : granted r s) (w : r.write = true) (k : (r.collide && r.portB && 22 ≤ r.bank.val) = false) :
    bankGrant r s = { s with mem := memWrite s.mem (bankBase r.bank + r.offset) r.bytes } := by
  obtain ⟨-, -, -, -, e⟩ := h
  unfold bankGrant
  dsimp only
  rw [e]
  dsimp only
  rw [if_pos w, if_neg (by simpa using k)]

/-- A granted read returns the words as they come. -/
theorem bankGrant_reads {r : BankReq} {s : State} (h : granted r s) (w : r.write = false) : bankGrant r s = bankRead r s := by
  obtain ⟨-, -, -, -, e⟩ := h
  unfold bankGrant
  dsimp only
  rw [e]
  dsimp only
  rw [if_neg (by simp [w])]

/-- A granted read of sound words returns what is stored. -/
theorem bankGrant_read {r : BankReq} {s : State} (h : granted r s) (w : r.write = false) (q : r.err = .clean) :
    bankGrant r s = emit (.bankData (memRead s.mem (bankBase r.bank + r.offset) r.count) false) s := by
  rw [bankGrant_reads h w]
  simp only [bankRead, q]

/-- Port B's write in a collision is lost. -/
theorem bankGrant_collide {r : BankReq} {s : State} (h : granted r s) (w : r.write = true) (k : (r.collide && r.portB && 22 ≤ r.bank.val) = true) :
    bankGrant r s = raiseFabric 0x0905 3 r.bank.val (setHed r.bank (fun k => { k with coll := true }) s) := by
  obtain ⟨-, -, -, -, e⟩ := h
  unfold bankGrant
  dsimp only
  rw [e]
  dsimp only
  rw [if_pos w, if_pos (by simpa using k)]

end Sys2Proof.Laws
end

