-- ==== Sys2Proof/Laws/Brake.lean ====
section
/-! SUPPORT. What a brake channel's operations leave of it and of the other channels. -/

set_option Elab.async false

namespace Sys2Proof.Laws

open Sys2Proof Sys2Proof.Machine

theorem brk_of_view {s t : State} (h : view .brk t = view .brk s) : t.brk = s.brk := by simpa [view] using h

/-- The switches, the state, the cause and the pulse of a channel: what a report leaves alone. -/
abbrev brkFace (x : BrkCh) : Bool × Bool × Bool × BrkSt × Nat × BrkPulse × Bool := (x.hs, x.ls, x.fw, x.st, x.fcause, x.pulse, x.fwCheck)

theorem brkCh_setBrk (c : Fin 4) (f : BrkCh → BrkCh) (s : State) : brkCh (setBrk c f s) c = f (brkCh s c) := by
  simp [brkCh, setBrk]

theorem brkCh_setBrk_ne (c d : Fin 4) (h : d ≠ c) (f : BrkCh → BrkCh) (s : State) : brkCh (setBrk c f s) d = brkCh s d := by
  simp [brkCh, setBrk, vget_vmod_ne _ _ _ _ h]

theorem brkCh_congr {s t : State} (h : t.brk = s.brk) (d : Fin 4) : brkCh t d = brkCh s d := by rw [brkCh, brkCh, h]

theorem brkReport_self (c : Fin 4) (s : State) : brkFace (brkCh (brkReport c s) c) = brkFace (brkCh s c) := by
  unfold brkReport
  dsimp only
  split
  · rw [brkCh_congr (brk_of_view (pointUpdate_view (k := .brk) (by decide) _ _ _)), brkCh_setBrk]
  · rfl

theorem brkReport_other (c d : Fin 4) (h : d ≠ c) (s : State) : brkCh (brkReport c s) d = brkCh s d := by
  unfold brkReport
  dsimp only
  split
  · rw [brkCh_congr (brk_of_view (pointUpdate_view (k := .brk) (by decide) _ _ _)), brkCh_setBrk_ne _ _ h]
  · rfl

theorem brkLoopBack_other (c d : Fin 4) (h : d ≠ c) (s : State) : brkCh (brkLoopBack c s) d = brkCh s d := by
  unfold brkLoopBack
  dsimp only
  split
  · split
    · rw [brkCh_setBrk_ne _ _ h]; rfl
    · rfl
  · rfl

theorem brkLoopBack_st (c : Fin 4) (s : State) : (brkCh (brkLoopBack c s) c).st = (brkCh s c).st := by
  unfold brkLoopBack
  dsimp only
  split
  · split
    · rw [brkCh_setBrk, brkCh_congr (brk_of_view (slotSendFrom_view (k := .brk) (by decide) _ _ _ _))]
    · rfl
  · rfl

theorem open_face (x : BrkCh) (st : BrkSt) (cause eng : Nat) (seen : Bool) :
    brkFace { brkOpen (brkDiscard x) with st := st, fcause := cause, onPassed := 0, tested := false, engTicks := eng, fbSeen := seen
                                          onSkip := false, fromFault := false } =
      (false, false, false, st, cause, .none, false) := by
  cases hp : x.pulse <;> cases hf : x.fwCheck <;> simp [brkFace, brkOpen, brkDiscard, hp, hf]

theorem brkTell_brk (c : Fin 4) (res : Nat) (s : State) : (brkTell c res s).brk = s.brk :=
  brk_of_view (brkTell_view (k := .brk) (by decide) _ _ _)

/-- A fault of a channel on which none is latched opens its switches and leaves the other channels alone: a channel whose engage the
module follows is ENGAGING with the cause latched, any other is in FAULT. -/
theorem brkFault_spec (c : Fin 4) (cause : Nat) (ev : Nat × Nat × Int) (s : State) (h1 : (brkCh s c).st ≠ .nocfg)
    (h2 : (brkCh s c).fcause = 0) :
    brkFace (brkCh (brkFault c cause ev s) c) =
        (false, false, false, if brkStill s (brkCh s c) cause then .engaging else .fault, cause, .none, false) ∧
      ∀ d, d ≠ c → brkCh (brkFault c cause ev s) d = brkCh s d := by
  have e : brkFault c cause ev s = when (cause = 11 || cause = 15) (climb 22 0) (brkReport c (raiseField ev.1 ev.2.1 ev.2.2
      (setBrk c (fun x => { brkOpen (brkDiscard x) with
          st := if brkStill s x cause then .engaging else .fault, fcause := cause, onPassed := 0, tested := false
          engTicks := if x.st = .engaging then x.engTicks else 0
          fbSeen := if x.st = .releasing || x.st = .released then false else x.fbSeen
          onSkip := false, fromFault := false })
        (if (brkCh s c).testRun then brkTell c 5
          (setBrk c (fun x => { x with testRes := 5 }) (brkLoopBack c s)) else s)))) := by
    unfold brkFault
    dsimp only
    rw [if_neg h1, if_neg]
    simp [h2]
  have w : ∀ (b : Bool) (t : State) (d : Fin 4), brkCh (when b (climb 22 0) t) d = brkCh t d := fun b t d =>
    brkCh_congr (brk_of_view (view_when (k := .brk) t fun t => climb_view (by decide) _ _ t)) d
  have r : ∀ (t : State) (d : Fin 4), brkCh (raiseField ev.1 ev.2.1 ev.2.2 t) d = brkCh t d := fun t d =>
    brkCh_congr (brk_of_view (raiseField_view (k := .brk) (by decide) _ _ _ _)) d
  rw [e]
  refine ⟨?_, fun d hd => ?_⟩
  · rw [w, brkReport_self, r, brkCh_setBrk]
    rw [open_face]
    have st : (brkCh (if (brkCh s c).testRun then brkTell c 5
        (setBrk c (fun x => { x with testRes := 5 }) (brkLoopBack c s)) else s) c).st = (brkCh s c).st := by
      split
      · rw [brkCh_congr (brkTell_brk _ _ _), brkCh_setBrk]
        exact brkLoopBack_st c s
      · rfl
    have still (y : BrkCh) (hy : y.st = (brkCh s c).st) : brkStill s y cause = brkStill s (brkCh s c) cause := by
      simp only [brkStill, hy]
    rw [still _ st]
  · rw [w, brkReport_other _ _ hd, r, brkCh_setBrk_ne _ _ hd]
    split
    · rw [brkCh_congr (brkTell_brk _ _ _), brkCh_setBrk_ne _ _ hd, brkLoopBack_other _ _ hd]
    · rfl

theorem brkLoomDrop_self (c : Fin 4) (s : State) :
    brkCh (brkLoomDrop c s) c = { brkCh s c with loomOk := false, loomVal := false, tmoOut := true } := by
  unfold brkLoomDrop
  dsimp only
  rw [brkCh_congr (brk_of_view (view_when (k := .brk) _ fun t => raiseField_view (by decide) _ _ _ t)), brkCh_setBrk]

theorem brkLoomDrop_holds (c : Fin 4) (s : State) : holdsField (brkLoomDrop c s) = holdsField s := by
  have : view .mir (brkLoomDrop c s) = view .mir s := brkLoomDrop_view (by decide) _ _
  have : (brkLoomDrop c s).mir = s.mir := by simpa [view] using this
  simp [holdsField, this]

/-- The measured channel in its tick: the switches closed are those closed before, or those that an off-pulse closes again. -/
theorem brkSense_st (v : Nat) (m : BrkMeas) (s : State) (x : BrkCh) :
    (brkSense v m s x).st = x.st ∧ (brkSense v m s x).testWait = x.testWait ∧
      brkDemand (brkSense v m s x) = brkDemand x ∧ (brkSense v m s x).cfg = x.cfg := by
  unfold brkSense brkPulseTick
  split <;> (try split) <;> exact ⟨rfl, rfl, rfl, rfl⟩

theorem brkPulseTick_closed (v : Nat) (x : BrkCh) (h : x.pulse = .none ∨ x.pulse = .on) :
    ((brkPulseTick v x).hs → x.hs) ∧ ((brkPulseTick v x).ls → x.ls) ∧ ((brkPulseTick v x).fw → x.fw) := by
  unfold brkPulseTick
  rcases h with h | h <;> rw [h] <;> dsimp only <;> split <;> simp

/-- The first two parts of a channel's tick: the measurement, and the Loom request that is no longer live. -/
theorem brkTick_begin (v : Nat) (m : BrkMeas) (c : Fin 4) (s : State) :
    let s1 := setBrk c (brkSense v m s) s
    let s2 := if (brkCh s1 c).cfg.reqSym ≠ 0 && !brkLoomLive s1 (brkCh s1 c) then brkLoomDrop c s1 else s1
    brkFace (brkCh s2 c) = brkFace (brkSense v m s (brkCh s c)) ∧ (brkCh s2 c).testWait = (brkCh s c).testWait ∧
      (brkDemand (brkCh s c) = false → brkDemand (brkCh s2 c) = false) ∧ holdsField s2 = holdsField s := by
  intro s1 s2
  have e1 : brkCh s1 c = brkSense v m s (brkCh s c) := brkCh_setBrk _ _ _
  have p := brkSense_st v m s (brkCh s c)
  unfold s2
  split
  · rw [brkLoomDrop_self, brkLoomDrop_holds, e1]
    refine ⟨rfl, p.2.1, fun h => ?_, rfl⟩
    rw [← p.2.2.1] at h
    simp only [brkDemand, Bool.and_eq_false_iff, Bool.or_eq_false_iff] at h ⊢
    rcases h with h | h
    · exact Or.inl h
    · exact Or.inr ⟨h.1, by simp⟩
  · rw [e1]
    exact ⟨rfl, p.2.1, fun h => by rw [p.2.2.1]; exact h, rfl⟩

/-- An engage demand at a tick opens the switches of a channel that is RELEASING or RELEASED. -/
theorem brkTickCh_engage (v : Nat) (m : BrkMeas) (c : Fin 4) (s : State) (h1 : holdsField s = true)
    (h2 : (brkCh s c).st = .releasing ∨ (brkCh s c).st = .released) (h3 : brkDemand (brkCh s c) = false) (h4 : (brkCh s c).testWait = false) :
    let x := brkCh (brkTickCh v m c s) c
    x.st = .engaging ∧ x.hs = false ∧ x.ls = false ∧ x.fw = false ∧ x.pulse = .none := by
  intro x
  obtain ⟨b1, b2, b3, b4⟩ := brkTick_begin v m c s
  have hx : brkFace x = (false, false, false, .engaging, (brkCh s c).fcause, .none, false) := by
    unfold x brkTickCh
    dsimp only
    rw [brkReport_self, brkCh_setBrk]
    generalize hs2 : (@ite State ((brkCh (setBrk c (brkSense v m s) s) c).cfg.reqSym ≠ 0 && !brkLoomLive (setBrk c (brkSense v m s) s) (brkCh (setBrk c (brkSense v m s) s) c)) _ _ _) = s2 at b1 b2 b3 b4 ⊢
    have st : (brkCh s2 c).st = .releasing ∨ (brkCh s2 c).st = .released := by
      have := congrArg (fun p => p.2.2.2.1) b1
      simp only at this
      rw [this, (brkSense_st v m s (brkCh s c)).1]
      exact h2
    have fc : (brkCh s2 c).fcause = (brkCh s c).fcause := by
      have := congrArg (fun p => p.2.2.2.2.1) b1
      simp only at this
      rw [this]
      unfold brkSense brkPulseTick
      dsimp only
      split <;> (try split) <;> rfl
    have adv : brkAdvance c s2 = setBrk c brkEngage s2 := by
      unfold brkAdvance
      dsimp only
      rw [b3 h3]
      rcases st with st | st <;> rw [st] <;> simp
    have face : brkFace (brkCh (setBrk c brkEngage s2) c) = (false, false, false, .engaging, (brkCh s c).fcause, .none, false) := by
      rw [brkCh_setBrk, ← fc]
      generalize brkCh s2 c = y
      cases hp : y.pulse <;> cases hf : y.fwCheck <;> simp [brkFace, brkEngage, brkOpen, brkDiscard, hp, hf]
    have pend : brkTestPending c (setBrk c brkEngage s2) = setBrk c brkEngage s2 := by
      unfold brkTestPending
      dsimp only
      rw [if_neg]
      have : (brkCh (setBrk c brkEngage s2) c).testWait = false := by
        rw [brkCh_setBrk]
        show (brkOpen (brkDiscard (brkCh s2 c))).testWait = false
        rw [show (brkOpen (brkDiscard (brkCh s2 c))).testWait = (brkCh s2 c).testWait from by unfold brkOpen brkDiscard; split <;> rfl, b2, h4]
      simp [this]
    rw [adv, pend, show holdsField s2 = true by rw [b4, h1]]
    simp only [if_true]
    split <;> exact face
  simp only [brkFace, Prod.mk.injEq] at hx
  exact ⟨hx.2.2.2.1, hx.1, hx.2.1, hx.2.2.1, hx.2.2.2.2.2.1⟩

/-- A module that does not hold the field closes no switch at a tick. -/
theorem brkTickCh_idle (v : Nat) (m : BrkMeas) (c : Fin 4) (s : State) (h1 : holdsField s = false)
    (h2 : (brkCh s c).pulse = .none ∨ (brkCh s c).pulse = .on) :
    let x := brkCh (brkTickCh v m c s) c
    (x.hs → (brkCh s c).hs) ∧ (x.ls → (brkCh s c).ls) ∧ (x.fw → (brkCh s c).fw) ∧ x.st = (brkCh s c).st := by
  intro x
  obtain ⟨b1, b2, b3, b4⟩ := brkTick_begin v m c s
  have p := brkPulseTick_closed v (brkMeasure v m (brkCh s c)) h2
  have q : (brkPulseTick v (brkMeasure v m (brkCh s c))).st = (brkCh s c).st := (brkSense_st v m s (brkCh s c)).1
  have hx : brkFace x = brkFace (brkPulseTick v (brkMeasure v m (brkCh s c))) := by
    show brkFace x = brkFace (brkSense v m s (brkCh s c))
    rw [← b1]
    unfold x brkTickCh
    dsimp only
    rw [brkReport_self, brkCh_setBrk]
    generalize hs2 : (@ite State ((brkCh (setBrk c (brkSense v m s) s) c).cfg.reqSym ≠ 0 && !brkLoomLive (setBrk c (brkSense v m s) s) (brkCh (setBrk c (brkSense v m s) s) c)) _ _ _) = s2 at b4 ⊢
    have hd : drives s2 = false := by simp [drives, b4, h1]
    rw [hd, b4, h1]
    rfl
  simp only [brkFace, Prod.mk.injEq] at hx
  rw [hx.1, hx.2.1, hx.2.2.1, hx.2.2.2.1]
  exact ⟨p.1, p.2.1, p.2.2, q⟩

end Sys2Proof.Laws
end

