-- ==== Sys2Proof/Laws/Can.lean ====
section
/-! SUPPORT. What the shared operations of the CAN channels do to the channels themselves. -/

set_option Elab.async false

namespace Sys2Proof.Laws

open Machine

/-- A report keeps every channel but for the status word last delivered. -/
theorem canReport_can (a : Bool) (c d : Fin 8) (s : State) : ∃ w, vget (canReport a c s).can d = { vget s.can d with lastStat := w } := by
  unfold canReport
  dsimp only
  split
  · rw [(view_can_iff _ _).mp (pointUpdate_view (by decide) _ _ _), setCan_can, vget_vmod]
    split
    · rename_i h; subst h; exact ⟨canStat (vget s.can d), rfl⟩
    · exact ⟨(vget s.can d).lastStat, rfl⟩
  · exact ⟨(vget s.can d).lastStat, rfl⟩

theorem modCan_can (c : Fin 8) (f : Can → Can) (s : State) : ∃ w, vget (modCan c f s).can c = { f (vget s.can c) with lastStat := w } := by
  obtain ⟨w, h⟩ := canReport_can false c c (setCan c f s)
  exact ⟨w, by rw [modCan, h, setCan_can, vget_vmod_self]⟩

/-- The error state after a change of the counters. -/
theorem canPassive_can (c : Fin 8) (s : State) : ∃ w, vget (canPassive c s).can c =
    { vget s.can c with passive := 128 ≤ (vget s.can c).tec || 128 ≤ (vget s.can c).rec_, lastStat := w } := by
  obtain ⟨w, h⟩ := modCan_can c (fun x => { x with passive := 128 ≤ (vget s.can c).tec || 128 ≤ (vget s.can c).rec_ }) s
  refine ⟨w, ?_⟩
  unfold canPassive
  dsimp only
  generalize hb : ((decide (128 ≤ (vget s.can c).tec) || decide (128 ≤ (vget s.can c).rec_)) && !(vget s.can c).passive) = b
  cases b
  · exact h
  · rw [when_true, (view_can_iff _ _).mp (raiseCan_view (by decide) _ _ _ _)]
    exact h

end Sys2Proof.Laws
end

