-- ==== Sys2Proof/Laws/Descr.lean ====
section
/-! SUPPORT. What starting a descriptor does where nothing refuses it. -/

set_option Elab.async false

namespace Sys2Proof.Laws

open Sys2Proof Sys2Proof.Machine

/-- Taking the data of a descriptor touches the bobbins alone. -/
theorem taken_hed (f : Flight) (b : List Byte) (s : State) : ∃ h : Hed, taken f b s = { started f.no s with hed := h } := by
  unfold taken when
  split
  · exact ⟨_, rfl⟩
  · exact ⟨s.hed, rfl⟩

theorem runXfer_starts {p : Desc → Bool} {h : HostData} {x : Xfer} {s : State} {f : Flight} {b : List Byte} (hs : starts f b s)
    (hb : hostBytes f.desc h = b) (hp : p f.desc = true) (hh : h.mark = .good)
    (hm : ((opSpec f.desc.op).any (fun p => p.pair = .mirrored) && mirrors s) = false) :
    runXfer p h x s = .next (applyNow { callOf f b s with xfer := x, onward := h.onward } (taken f b s)) := by
  obtain ⟨h1, h2, h0, h3, h4⟩ := hs
  subst hb
  unfold runXfer
  simp only [ok, h1, hp, h2, Bool.and_self, if_true, h0, hh, reduceCtorEq, decide_false, Bool.and_false, Bool.false_eq_true, if_false]
  unfold startDesc
  dsimp only
  rw [h3]
  dsimp only
  rw [h4]
  simp only [hm, Bool.false_eq_true, if_false]

theorem runRow_starts {p : Desc → Bool} {h : HostData} {s : State} {f : Flight} {b : List Byte} (hs : starts f b s)
    (hb : hostBytes f.desc h = b) (hp : p f.desc = true) (hh : h.mark = .good) (ho : h.onward = .good)
    (hm : ((opSpec f.desc.op).any (fun p => p.pair = .mirrored) && mirrors s) = false) :
    runRow p h s = .next (applyNow (callOf f b s) (taken f b s)) := by
  rw [runRow, runXfer_starts hs hb hp hh hm, ho]

theorem runBare_starts {p : Desc → Bool} {s : State} {f : Flight} (hs : starts f [] s) (hp : p f.desc = true) (hd : dataLen f.desc = 0)
    (hm : ((opSpec f.desc.op).any (fun p => p.pair = .mirrored) && mirrors s) = false) :
    runBare p s = .next (applyNow (callOf f [] s) (started f.no s)) :=
  runRow_starts hs (by simp [hostBytes, hd]) hp rfl rfl hm

/-- A mirrored descriptor of an active module goes to its partner first. -/
theorem runRow_forwards {p : Desc → Bool} {h : HostData} {s : State} {f : Flight} {b : List Byte} (hs : starts f b s)
    (hb : hostBytes f.desc h = b) (hp : p f.desc = true) (hh : h.mark = .good) (ho : h.onward = .good)
    (hm : ((opSpec f.desc.op).any (fun p => p.pair = .mirrored) && mirrors s) = true) :
    runRow p h s = .next (forwardDesc (callOf f b s) (taken f b s)) := by
  obtain ⟨h1, h2, h0, h3, h4⟩ := hs
  subst hb
  unfold runRow runXfer
  simp only [ok, h1, hp, h2, Bool.and_self, if_true, h0, hh, ho, reduceCtorEq, decide_false, Bool.and_false, Bool.false_eq_true, if_false]
  unfold startDesc
  dsimp only
  rw [h3]
  dsimp only
  rw [h4]
  simp only [hm, if_true]

/-- Taking no data starts the descriptor, and nothing else. -/
theorem taken_nil (f : Flight) (s : State) : taken f [] s = started f.no s := rfl

theorem onHandle_xfer {f : Flight} {b : List Byte} {x : Xfer} {s : State} (h : onLive f s) (g : Call → State → Done) :
    onHandle { callOf f b s with xfer := x } g (taken f b s) = g { callOf f b s with xfer := x } (taken f b s) := by
  obtain ⟨hd, e⟩ := taken_hed f b s
  rw [e]
  unfold onHandle
  unfold onLive at h
  rw [show handleLook { started f.no s with hed := hd } ({ callOf f b s with xfer := x } : Call).d.handle [] = handleLook s f.desc.handle [] from rfl]
  cases k : handleLook s f.desc.handle [] with
  | found a b => rfl
  | bad a => rw [k] at h; exact absurd h (by simp)

theorem onHandle_live {f : Flight} {b : List Byte} {s : State} (h : onLive f s) (g : Call → State → Done) :
    onHandle (callOf f b s) g (taken f b s) = g (callOf f b s) (taken f b s) := onHandle_xfer (x := .whole) h g

theorem onHandle_bare {f : Flight} {s : State} (h : onLive f s) (g : Call → State → Done) :
    onHandle (callOf f [] s) g (started f.no s) = g (callOf f [] s) (started f.no s) := onHandle_live h g

end Sys2Proof.Laws
end

