-- ==== Sys2Proof/Laws/Digital.lean ====
section
/-! SUPPORT. What the shared operations of the digital channels do to the channels themselves. -/

set_option Elab.async false

namespace Sys2Proof.Laws

open Machine

/-- An accepted edge: the debounced state takes the sampled state, and a rising edge is counted; no other channel changes. -/
theorem dioAccept_dio (c : Fin 32) (sec ns : Nat) (u : Bool) (s : State) :
    (dioAccept c sec ns u s).dio = vmod s.dio c fun x => { x with
      deb := dioRaw x, timer := none, count := if x.cfg.cnt && dioRaw x then x.count + 1 else x.count } := by
  have e (v : Bool) (t : State) : (when v (edgeLog c sec ns u (dioRaw (vget s.dio c))) t).dio = t.dio := by
    cases v
    · rfl
    · exact (view_dio_iff t _).mp (edgeLog_view (by decide) _ _ _ _ _ _)
  have d (t : State) : (dioDeliver c t).dio = t.dio := (view_dio_iff t _).mp (dioDeliver_view (by decide) _ _)
  have n (v : Bool) (t : State) : (when v (dioDeliverCount c) t).dio = t.dio := by
    cases v
    · rfl
    · exact (view_dio_iff t _).mp (dioDeliverCount_view (by decide) _ _)
  unfold dioAccept
  dsimp only
  rw [n, d, e]
  rfl

/-- The switch of a channel takes the state wanted; no other channel changes. -/
theorem dioEval_dio (c : Fin 32) (s : State) :
    (dioEval c s).dio = vmod s.dio c fun x =>
      if dioWanted s c && !x.sw then { x with sw := true, ext := false, retries := if x.retryDue then x.retries + 1 else x.retries
                                              retryDue := false }
      else if !(dioWanted s c) && x.sw then { x with sw := false, limit := false }
      else x := rfl

/-- After an evaluation the switch is what it must be. -/
theorem dioEval_sw (c : Fin 32) (s : State) : (vget (dioEval c s).dio c).sw = dioWanted s c := by
  rw [dioEval_dio, vget_vmod_self]
  cases dioWanted s c <;> cases h : (vget s.dio c).sw <;> simp [h]

theorem dioUpdate_dio (c : Fin 32) (s : State) : (dioUpdate c s).dio = (dioEval c s).dio :=
  (view_dio_iff (dioEval c s) _).mp (bankReport_view (by decide) _ _ _)

/-- A report keeps every bank but for the status word last delivered. -/
theorem bankReport_dbank (a : Bool) (b d : Fin 4) (s : State) :
    ∃ w, vget (bankReport a b s).dbank d = { vget s.dbank d with lastStat := w } := by
  unfold bankReport
  dsimp only
  split
  · rw [show (pointUpdate (vget s.dbank b).statusPt (BitVec.ofNat 32 (bankStatus s b)) (setBank b (fun k => { k with lastStat := bankStatus s b }) s)).dbank =
      (setBank b (fun k => { k with lastStat := bankStatus s b }) s).dbank from (view_dbank_iff _ _).mp (pointUpdate_view (by decide) _ _ _)]
    rw [setBank_dbank, vget_vmod]
    split
    · rename_i h; subst h; exact ⟨_, rfl⟩
    · exact ⟨_, rfl⟩
  · exact ⟨_, rfl⟩

/-- What a switch must be does not depend on the switches. -/
theorem dioWanted_dioEval (c d : Fin 32) (s : State) : dioWanted (dioEval c s) d = dioWanted s d := by
  have e : vget (dioEval c s).dio d = if d = c then vget (dioEval c s).dio c else vget s.dio d := by
    split
    · rename_i h; rw [h]
    · rename_i h; rw [dioEval_dio, vget_vmod_ne _ _ _ _ h]
  have f : (vget (dioEval c s).dio c).cfg = (vget s.dio c).cfg ∧ (vget (dioEval c s).dio c).cmdKnown = (vget s.dio c).cmdKnown ∧
      (vget (dioEval c s).dio c).cmd = (vget s.dio c).cmd ∧ (vget (dioEval c s).dio c).prot = (vget s.dio c).prot ∧
      (vget (dioEval c s).dio c).shed = (vget s.dio c).shed := by
    rw [dioEval_dio, vget_vmod_self]
    split_ifs <;> simp
  have g : drives (dioEval c s) = drives s := rfl
  have k : fieldOn (dioEval c s) = fieldOn s := rfl
  unfold dioWanted
  dsimp only
  rw [g, k, e]
  by_cases h : d = c
  · subst h
    simp only [if_true, dioOut, dioHeld, f.1, f.2.1, f.2.2.1, f.2.2.2.1, f.2.2.2.2]
    rfl
  · simp only [if_neg h]
    rfl

theorem dioEval_fold (b : Fin 4) (l : List (Fin 8)) (s : State) :
    (∀ i ∈ l, (vget (l.foldl (fun t i => dioEval (dioChOf b i) t) s).dio (dioChOf b i)).sw = dioWanted s (dioChOf b i)) ∧
    (∀ d, (∀ i ∈ l, d ≠ dioChOf b i) → vget (l.foldl (fun t i => dioEval (dioChOf b i) t) s).dio d = vget s.dio d) := by
  induction l generalizing s with
  | nil => exact ⟨fun i hi => absurd hi List.not_mem_nil, fun _ _ => rfl⟩
  | cons a l ih =>
    obtain ⟨h1, h2⟩ := ih (dioEval (dioChOf b a) s)
    constructor
    · intro i hi
      by_cases hl : i ∈ l
      · rw [List.foldl_cons, h1 i hl, dioWanted_dioEval]
      · have hia : i = a := (List.mem_cons.mp hi).resolve_right hl
        subst hia
        rw [List.foldl_cons, h2 _ fun j hj e => hl (by
          have : i.val = j.val := by have := congrArg Fin.val e; simp only [dioChOf] at this; omega
          rw [Fin.ext this]; exact hj)]
        exact dioEval_sw _ _
    · intro d hd
      rw [List.foldl_cons, h2 d fun i hi => hd i (List.mem_cons_of_mem _ hi), dioEval_dio, vget_vmod_ne _ _ _ _ (hd a List.mem_cons_self)]

/-- An evaluation of a bank gives every switch of the bank what it must be. -/
theorem bankEval_sw (b : Fin 4) (i : Fin 8) (s : State) : (vget (bankEval b s).dio (dioChOf b i)).sw = dioWanted s (dioChOf b i) := by
  unfold bankEval
  rw [(view_dio_iff _ _).mp (bankReport_view (by decide) false b _)]
  exact (dioEval_fold b (List.finRange 8) s).1 i (List.mem_finRange i)

end Sys2Proof.Laws
end

