-- ==== Sys2Proof/Laws/Ethernet.lean ====
section
/-! SUPPORT. A frame that the switch forwards. -/

set_option Elab.async false

namespace Sys2Proof.Laws

open Sys2Proof Sys2Proof.Machine

theorem internal_eth (p : Fin 2) (f : EthFrame) (s : State) : (internalTake p f s).eth = s.eth := by
  unfold internalTake
  (repeat' split) <;> rfl

theorem internal_on (p : Fin 2) (f : EthFrame) (s : State) : ethOn (internalTake p f s) = ethOn s := by
  unfold internalTake
  (repeat' split) <;> rfl

theorem internal_res (p : Fin 2) (f : EthFrame) (s : State) : clockNs (internalTake p f s).tim.res = clockNs s.tim.res := by
  unfold internalTake
  (repeat' split) <;> rfl

theorem ingress_switched {p : Fin 2} {f : EthFrame} {s : State} (h : switched p f s) :
    execEthFrameIngress p f s = .next (ethForward p f (setEth (ethLearn p f.src) (internalTake p f s))) := by
  obtain ⟨a, b, c, d, e, g, i⟩ := h
  have k : (internalTake p f s).eth = s.eth := internal_eth p f s
  unfold execEthFrameIngress ok
  rw [if_neg (by simp [a]), if_neg (by simp [b]; omega)]
  dsimp only
  rw [if_neg (by rw [k, e]; decide), show ethForwards (setEth (ethLearn p f.src) (internalTake p f s)).eth p f = true from by
    rw [show (setEth (ethLearn p f.src) (internalTake p f s)).eth = ethLearn p f.src (internalTake p f s).eth from rfl, k]; exact g, when_true]

theorem learn_ports (p q : Fin 2) (a : BitVec 48) (e : Eth) : vget (ethLearn p a e).ports q = vget e.ports q := by
  unfold ethLearn; dsimp only; split <;> rfl

theorem learn_unmatched (p : Fin 2) (a : BitVec 48) (e : Eth) : (ethLearn p a e).unmatched = e.unmatched := by
  unfold ethLearn; dsimp only; split <;> rfl

/-- The choice of a master whose grandmaster is the one already followed. -/
theorem masterChoose_same {l : List Master} {s : State} (h : (bestMaster l).map (·.ann.gmId) = some s.tim.gmid) :
    (masterChoose l s).tim.masters = l ∧ (masterChoose l s).tim.master = bestMaster l ∧ (masterChoose l s).tim.utcV = s.tim.utcV ∧
      (masterChoose l s).tim.utcOfs = s.tim.utcOfs ∧ (masterChoose l s).tim.gmid = s.tim.gmid ∧ (masterChoose l s).tim.servo = s.tim.servo ∧
      (masterChoose l s).rcd = s.rcd := by
  unfold masterChoose
  dsimp only
  rw [h]
  simp [when, setTim]

/-- The choice of a master of another grandmaster. -/
theorem masterChoose_other {l : List Master} {g : BitVec 64} {s : State} (h : (bestMaster l).map (·.ann.gmId) = some g) (hg : g ≠ s.tim.gmid) :
    ∃ u, masterChoose l s = raise 0x0606 3 (timPort u) u ∧ u.tim.masters = l ∧ u.tim.master = bestMaster l ∧ u.tim.utcV = s.tim.utcV ∧
      u.tim.utcOfs = s.tim.utcOfs ∧ u.tim.gmid = g ∧ u.tim.run16 = 0 ∧
      (s.tim.auto = true → s.tim.servo = .locked → u.tim.servo = .acquiring) := by
  unfold masterChoose
  dsimp only
  rw [h, Option.getD_some, show decide (g ≠ s.tim.gmid) = true from decide_eq_true hg, when_true]
  refine ⟨_, rfl, rfl, rfl, rfl, rfl, rfl, if_pos hg, fun a b => ?_⟩
  simp [setTim, a, b]

end Sys2Proof.Laws
end

