-- ==== Sys2Proof/Laws/Loom.lean ====
section
/-! SUPPORT. What one instruction of a Loom engine does in settled mode: the new state of the scan, or the trap. -/

set_option Elab.async false

namespace Sys2Proof.Laws

open Sys2Proof Sys2Proof.Machine

theorem lExec_run {c : LCtx} {r : LRun} {i : LInstr} (h : (lMeaning c { r with pc := r.pc + 1, count := r.count + 1 } i).trap = none →
    (lMeaning c { r with pc := r.pc + 1, count := r.count + 1 } i).fin = false →
    (lMeaning c { r with pc := r.pc + 1, count := r.count + 1 } i).run.pc < 131072) :
    lExec c r i = lMeaning c { r with pc := r.pc + 1, count := r.count + 1 } i := by
  unfold lExec
  dsimp only
  generalize lMeaning c { r with pc := r.pc + 1, count := r.count + 1 } i = x at h
  split
  · rename_i q
    simp only [Option.isNone_iff_eq_none, Bool.and_eq_true, Bool.not_eq_true', decide_eq_true_eq] at q
    have := h q.1.1 q.1.2
    omega
  · rfl

/-- An instruction that neither traps nor ends the scan leaves the engine at its new state. -/
theorem settled_instr {n : Fin 8} {i : LInstr} {s : State} (h : settledAt n i s) {x : LEff}
    (hx : lMeaning (loomCtx n (vget s.loom n)) (stepped n s) i = x) (ht : x.trap = none) (hf : x.fin = false)
    (hp : x.run.pc < 131072) (hj : x.jrn = [] ∨ jUse (vget s.loom n).run + jCosts x.jrn ≤ 4096) :
    loomInstr n i s = loomNow n x.run s := by
  obtain ⟨h1, h2, h3⟩ := h
  have e : lExec (loomCtx n (vget s.loom n)) (vget s.loom n).run i = x := by
    rw [lExec_run (by rw [hx]; intros; exact hp)]; exact hx
  unfold loomInstr settledStep
  dsimp only
  rw [if_pos h1, if_neg (by simp [h2]), e, ht, hf, if_neg]
  · rfl
  · rcases hj with hj | hj
    · simp [hj]
    · simp; omega

/-- An instruction that traps abandons the scan. -/
theorem settled_trap {n : Fin 8} {i : LInstr} {s : State} (h : settledAt n i s) {k : Nat}
    (hx : lMeaning (loomCtx n (vget s.loom n)) (stepped n s) i = effTrap (stepped n s) k) :
    loomInstr n i s = trapTaken n (vget s.loom n).run.pick { cause := k, pc := (vget s.loom n).run.pc } s := by
  obtain ⟨h1, h2, h3⟩ := h
  have e : lExec (loomCtx n (vget s.loom n)) (vget s.loom n).run i = effTrap (stepped n s) k := by
    rw [lExec_run (by rw [hx]; intro q; simp [effTrap] at q)]; exact hx
  unfold loomInstr settledStep
  dsimp only
  rw [if_pos h1, if_neg (by simp [h2]), e]
  simp [effTrap]

/-- What an effect leaves when it neither traps nor ends the scan nor transfers control, with at most `k` journal entries. -/
abbrev Plain (k : Nat) (r : LRun) (x : LEff) : Prop := x.trap = none ∧ x.fin = false ∧ x.run.pc = r.pc ∧ jCosts x.jrn ≤ k

theorem settled_plain {n : Fin 8} {i : LInstr} {s : State} {k : Nat} (h : settledAt n i s) (hj : jRoom n k s) {x : LEff}
    (hx : lMeaning (loomCtx n (vget s.loom n)) (stepped n s) i = x) (q : Plain k (stepped n s) x) : loomInstr n i s = loomNow n x.run s := by
  obtain ⟨a, b, c, d⟩ := q
  refine settled_instr h hx a b ?_ (Or.inr ?_)
  · have := h.2.2
    rw [c]
    show (vget s.loom n).run.pc + 1 < _
    omega
  · simp only [jRoom] at hj
    omega

theorem storeBit_plain (r : LRun) (o : BitOp) (v : Bool) : Plain 1 r (storeBit r o v) := by
  unfold storeBit storeEff
  dsimp only
  split
  · split <;> simp [Plain, applyWrite, jCosts, jCost]
  · simp [Plain, applyWrite, jCosts]

theorem storeWord_plain (r : LRun) (o : WordOp) (w : Word) : Plain 1 r (storeWord r o w) := by
  unfold storeWord storeEff
  dsimp only
  split
  · split <;> simp [Plain, applyWrite, jCosts, jCost]
  · simp [Plain, applyWrite, jCosts]

theorem edgeEff_plain (r : LRun) (i : Nat) (v : Bool) : Plain 1 r (edgeEff r i v) := by
  simp [Plain, edgeEff, applyWrite, jCosts, jCost]

theorem timerEff_plain (r : LRun) (i : Nat) (a b : Timer) : Plain 1 r (timerEff r i a b) := by
  unfold timerEff
  split <;> simp [Plain, applyWrite, jCosts, jCost]

theorem ctrEff_plain (r : LRun) (i : Nat) (a b : Counter) : Plain 1 r (ctrEff r i a b) := by
  unfold ctrEff
  split <;> simp [Plain, applyWrite, jCosts, jCost]

end Sys2Proof.Laws
end

