-- ==== Sys2Proof/Laws/Maps.lean ====
section
/-! SUPPORT. Reading a sparse map after a write, and its form. -/

set_option Elab.async false

namespace Sys2Proof.Machine

theorem mapGet_mapSet {α : Type} (m : SMap α) (k j : Nat) (v : α) : mapGet (mapSet m k v) j = if j = k then some v else mapGet m j := by
  induction m with
  | nil => simp only [mapSet, mapGet]; split <;> split <;> first | rfl | omega | skip
           all_goals split <;> first | rfl | omega
  | cons p r ih =>
    obtain ⟨a, w⟩ := p
    simp only [mapSet]
    split
    · simp only [mapGet]
      repeat' split
      all_goals first | rfl | omega
    · split
      · simp only [mapGet]
        repeat' split
        all_goals first | rfl | omega
      · simp only [mapGet, ih]
        repeat' split
        all_goals first | rfl | omega

theorem mapGet_below {α : Type} (a : Nat) (w : α) (r : SMap α) (j : Nat) (h : mapSorted ((a, w) :: r) = true) (hj : j ≤ a) : mapGet r j = none := by
  cases r with
  | nil => rfl
  | cons p r =>
    obtain ⟨b, x⟩ := p
    simp only [mapSorted, Bool.and_eq_true, decide_eq_true_eq] at h
    simp only [mapGet]
    rw [if_neg (by omega), if_pos (by omega)]

theorem mapSorted_tail {α : Type} (p : Nat × α) (r : SMap α) (h : mapSorted (p :: r) = true) : mapSorted r = true := by
  cases r with
  | nil => rfl
  | cons q r =>
    obtain ⟨a, w⟩ := p
    obtain ⟨b, x⟩ := q
    simp only [mapSorted, Bool.and_eq_true] at h
    exact h.2

theorem mapGet_mapDel {α : Type} (m : SMap α) (k j : Nat) (h : mapSorted m = true) : mapGet (mapDel m k) j = if j = k then none else mapGet m j := by
  induction m with
  | nil => simp [mapDel, mapGet]
  | cons p r ih =>
    obtain ⟨a, w⟩ := p
    have ih := ih (mapSorted_tail _ _ h)
    have hb := fun i => mapGet_below a w r i h
    simp only [mapDel]
    split
    · rename_i e
      simp only [mapGet]
      repeat' split
      all_goals first | rfl | omega | (apply hb; omega)
    · split
      · simp only [mapGet]
        repeat' split
        all_goals first | rfl | omega
      · simp only [mapGet, ih]
        repeat' split
        all_goals first | rfl | omega

theorem mapGetD_mapPut {α : Type} [DecidableEq α] (d : α) (m : SMap α) (k j : Nat) (v : α) (h : mapSorted m = true) :
    mapGetD d (mapPut d m k v) j = if j = k then v else mapGetD d m j := by
  unfold mapGetD mapPut
  split
  · rename_i e
    rw [mapGet_mapDel m k j h]
    split <;> simp_all
  · rw [mapGet_mapSet]
    split <;> simp_all

end Sys2Proof.Machine
end

