-- ==== Sys2Proof/Laws/Memory.lean ====
section
/-! SUPPORT. The laws of memory: its operations keep the canonical form, and a read gives what was written last. -/

set_option Elab.async false

namespace Sys2Proof.Machine

/-- The keys of a memory lie above `a`. -/
def memAbove (a : Nat) (m : List Host.Cell) : Prop := ∀ c ∈ m, a < c.1

theorem wf_cons (j : Nat) (v : Byte) (m : List Host.Cell) : Memory.wf ((j, v) :: m) = true ↔ v ≠ 0 ∧ memAbove j m ∧ Memory.wf m = true := by
  induction m generalizing j v with
  | nil => simp [Memory.wf, memAbove]
  | cons c m ih =>
    obtain ⟨k, w⟩ := c
    simp only [Memory.wf, Bool.and_eq_true, decide_eq_true_eq, bne_iff_ne, ne_eq, ih, memAbove, List.mem_cons]
    constructor
    · rintro ⟨⟨h, hv⟩, hw, ha, hm⟩
      refine ⟨hv, ?_, hw, ha, hm⟩
      rintro c (rfl | hc)
      · exact h
      · exact lt_trans h (ha c hc)
    · rintro ⟨hv, ha, hw, hb, hm⟩
      exact ⟨⟨ha _ (Or.inl rfl), hv⟩, hw, hb, hm⟩

theorem memPut_above (a k : Nat) (v : Byte) (m : List Host.Cell) (h : memAbove a m) (hk : a < k) : memAbove a (memPut m k v) := by
  induction m with
  | nil => unfold memPut; split <;> simp [memAbove, hk]
  | cons c m ih =>
    obtain ⟨j, w⟩ := c
    have hj : a < j := h _ List.mem_cons_self
    have hm : memAbove a m := fun c hc => h c (List.mem_cons_of_mem _ hc)
    unfold memPut
    split_ifs
    all_goals intro c hc
    all_goals try simp only [List.mem_cons] at hc
    · rcases hc with rfl | hc
      · exact hj
      · exact hm c hc
    · rcases hc with rfl | rfl | hc
      · exact hk
      · exact hj
      · exact hm c hc
    · exact hm c hc
    · rcases hc with rfl | hc
      · exact hk
      · exact hm c hc
    · rcases hc with rfl | hc
      · exact hj
      · exact ih hm c hc

/-- A write of a byte keeps the canonical form. -/
theorem memPut_wf (k : Nat) (v : Byte) (m : List Host.Cell) (h : Memory.wf m = true) : Memory.wf (memPut m k v) = true := by
  induction m with
  | nil =>
    unfold memPut
    split_ifs with h1
    · rfl
    · simpa [Memory.wf] using h1
  | cons c m ih =>
    obtain ⟨j, w⟩ := c
    obtain ⟨hw, ha, hm⟩ := (wf_cons j w m).mp h
    unfold memPut
    split_ifs with h1 h2 h3 h4
    · exact h
    · refine (wf_cons k v _).mpr ⟨h2, ?_, h⟩
      intro c hc
      rcases List.mem_cons.mp hc with rfl | hc
      · exact h1
      · exact lt_trans h1 (ha c hc)
    · exact hm
    · subst h3
      exact (wf_cons _ v _).mpr ⟨h4, ha, hm⟩
    · exact (wf_cons j w _).mpr ⟨hw, memPut_above j k v m ha (by omega), ih hm⟩

/-- A write of bytes keeps the canonical form. -/
theorem memWrite_wf (a : Nat) (l : List Byte) (m : List Host.Cell) (h : Memory.wf m = true) : Memory.wf (memWrite m a l) = true := by
  induction l generalizing a m with
  | nil => exact h
  | cons b l ih => exact ih _ _ (memPut_wf a b m h)

/-- Taking bytes out keeps the canonical form. -/
theorem filter_wf (p : Host.Cell → Bool) (m : List Host.Cell) (h : Memory.wf m = true) : Memory.wf (m.filter p) = true := by
  induction m with
  | nil => rfl
  | cons c m ih =>
    obtain ⟨j, w⟩ := c
    obtain ⟨hw, ha, hm⟩ := (wf_cons j w m).mp h
    by_cases hp : p (j, w) = true
    · rw [List.filter_cons_of_pos hp]
      exact (wf_cons j w _).mpr ⟨hw, fun c hc => ha c (List.mem_filter.mp hc).1, ih hm⟩
    · rw [List.filter_cons_of_neg hp]
      exact ih hm

theorem memByte_above (a : Nat) (m : List Host.Cell) (h : memAbove a m) (b : Nat) (hb : b ≤ a) : memByte m b = 0 := by
  cases m with
  | nil => rfl
  | cons c m =>
    obtain ⟨j, w⟩ := c
    have hj : a < j := h _ List.mem_cons_self
    unfold memByte
    rw [if_neg (by omega), if_pos (by omega)]

/-- A read after a write of one byte: the byte written, and every other byte as before. -/
theorem memByte_memPut (k b : Nat) (v : Byte) (m : List Host.Cell) (h : Memory.wf m = true) :
    memByte (memPut m k v) b = if b = k then v else memByte m b := by
  induction m with
  | nil =>
    unfold memPut
    split_ifs with h1 h2 h2 <;> simp_all [memByte]
    intro e; exact absurd e.symm h2
  | cons c m ih =>
    obtain ⟨j, w⟩ := c
    obtain ⟨hw, ha, hm⟩ := (wf_cons j w m).mp h
    have hi := ih hm
    unfold memPut
    by_cases h1 : k < j
    · rw [if_pos h1]
      by_cases h2 : v = 0
      · rw [if_pos h2]
        by_cases h3 : b = k
        · rw [if_pos h3, h2, memByte, if_neg (by omega), if_pos (by omega)]
        · rw [if_neg h3]
      · rw [if_neg h2]
        by_cases h3 : b = k
        · rw [if_pos h3, memByte, if_pos h3.symm]
        · rw [if_neg h3, memByte, if_neg (Ne.symm h3)]
          by_cases h4 : b < k
          · rw [if_pos h4, memByte, if_neg (by omega), if_pos (by omega)]
          · rw [if_neg h4]
    · rw [if_neg h1]
      by_cases h2 : j = k
      · subst h2
        rw [if_pos rfl]
        by_cases h3 : b = j
        · subst h3
          rw [if_pos rfl]
          by_cases h4 : v = 0
          · rw [if_pos h4, memByte_above b m ha b (le_refl _), h4]
          · rw [if_neg h4, memByte, if_pos rfl]
        · rw [if_neg h3]
          have e : memByte ((j, w) :: m) b = memByte m b := by
            rw [memByte, if_neg (Ne.symm h3)]
            by_cases h4 : b < j
            · rw [if_pos h4, memByte_above j m ha b (by omega)]
            · rw [if_neg h4]
          rw [e]
          by_cases h4 : v = 0
          · rw [if_pos h4]
          · rw [if_neg h4, memByte, if_neg (Ne.symm h3)]
            by_cases h5 : b < j
            · rw [if_pos h5, memByte_above j m ha b (by omega)]
            · rw [if_neg h5]
      · rw [if_neg h2, memByte, memByte, hi]
        by_cases h3 : j = b
        · rw [if_pos h3, if_pos h3, if_neg (by omega)]
        · rw [if_neg h3, if_neg h3]
          by_cases h4 : b < j
          · rw [if_pos h4, if_pos h4, if_neg (by omega)]
          · rw [if_neg h4, if_neg h4]

/-- A read of bytes is a read of each. -/
theorem memByte_memWrite (a : Nat) (l : List Byte) (m : List Host.Cell) (h : Memory.wf m = true) (b : Nat) :
    memByte (memWrite m a l) b = if a ≤ b ∧ b < a + l.length then l.getD (b - a) 0 else memByte m b := by
  induction l generalizing a m with
  | nil => rw [if_neg (by simp)]; rfl
  | cons x l ih =>
    rw [memWrite, ih _ _ (memPut_wf a x m h), memByte_memPut a b x m h]
    simp only [List.length_cons]
    by_cases h1 : a + 1 ≤ b ∧ b < a + 1 + l.length
    · have e : b - a = (b - (a + 1)) + 1 := by omega
      rw [if_pos h1, if_pos (by omega), e]
      rfl
    · rw [if_neg h1]
      by_cases h2 : b = a
      · subst h2
        rw [if_pos rfl, if_pos (by omega)]
        simp
      · rw [if_neg h2, if_neg (by omega)]

end Sys2Proof.Machine
end

