-- ==== Sys2Proof/Laws/Mirror.lean ====
section
/-! SUPPORT. Commands and frames that a module takes from its partner. -/

set_option Elab.async false

namespace Sys2Proof.Laws

open Sys2Proof Sys2Proof.Machine

theorem cmdTake_heard {m : MirCmd} {s : State} (h : heard m s) (f : State → State) : cmdTake m f s = .next (f (noted m s)) := by
  obtain ⟨a, b, c⟩ := h
  unfold cmdTake ok
  rw [if_neg (by simp [a]), if_neg (by simp [b]), if_neg (by rw [c]; decide)]

theorem frameSeen_inOrder {h : FrameHdr} {s : State} (k : inOrder h s) (ftype n segs : Nat) : frameSeen ftype n segs h s = (framed n h s, true) := by
  obtain ⟨a, b, c, e0, e1, e2, e3, d⟩ := k
  have z : (h.fseq.toNat + 65536 - s.mir.fseqIn.getD h.fseq.toNat) % 65536 = 0 := by
    rcases d with d | d <;> rw [d] <;> simp
  unfold frameSeen
  simp only [e0, e1, e2, e3, when_false, Bool.not_false, Bool.and_false, Bool.and_true]
  rw [z, if_neg (by simp [a, b]), if_neg (by decide), if_neg (by decide), if_neg (by simp [c])]

theorem frameTake_inOrder {h : FrameHdr} {s : State} (k : inOrder h s) (ftype n : Nat) : frameTake ftype n h s = (framed n h s, true) :=
  frameSeen_inOrder k ftype n 0

theorem msix_ready (fn : Func) (v : Nat) (s : State) : (msix fn v s).shu.ready = s.shu.ready := by
  unfold msix
  dsimp only
  (repeat' split) <;> rfl

/-- Sending vector 64 leaves the host interface as ready as it was. -/
theorem vector64_ready (s : State) : (vector64 s).shu.ready = s.shu.ready := by
  unfold vector64
  rw [msix_ready, msix_ready]

/-- A further copy of a command changes nothing. -/
theorem cmdTake_again {m : MirCmd} {s : State} (a : meRuns s = true) (b : m.crcOk = true) (c : s.mir.peerCmds.contains m.seq.toNat = true)
    (f : State → State) : cmdTake m f s = .next s := by
  unfold cmdTake ok
  rw [if_neg (by simp [a]), if_neg (by simp [b]), if_pos c]

/-- A copy of a command with a bad CRC-8 is counted on its lane. -/
theorem cmdTake_bad {m : MirCmd} {s : State} (a : meRuns s = true) (b : m.crcOk = false) (f : State → State) : cmdTake m f s =
    .next (setMir (fun x => { x with lanes := vmod x.lanes m.lane fun l => { l with crcN := holdInc 0xFFFF l.crcN } }) s) := by
  unfold cmdTake ok
  rw [if_neg (by simp [a]), if_pos (by simp [b])]

theorem framed_mir (n : Nat) (h : FrameHdr) (s : State) : (framed n h s).mir = { s.mir with fseqIn := some ((h.fseq.toNat + n) % 65536) } := rfl

theorem frameHigh_follows {h : FrameHdr} {s : State} (k : inOrder h s) (q : following s = true) (ftype : Nat) (i : Instr) (f : State → State) :
    frameHigh ftype h i f s = .next (f (framed 1 h s)) := by
  unfold frameHigh
  rw [frameTake_inOrder k]
  dsimp only [ok]
  rw [if_neg (by decide), if_pos (show following (framed 1 h s) = true from q)]

theorem frameHigh_early {h : FrameHdr} {s : State} (k : inOrder h s) (q : s.mir.role = .syncing) (p : s.mir.syncph = 4) (ftype : Nat) (i : Instr)
    (f : State → State) : frameHigh ftype h i f s = .next (setMir (fun m => { m with early := m.early ++ [i] }) (framed 1 h s)) := by
  unfold frameHigh
  rw [frameTake_inOrder k]
  dsimp only [ok]
  rw [if_neg (by decide), if_neg (by simp [following, q, p]), if_pos (by simp [q, p])]

end Sys2Proof.Laws
end

