-- ==== Sys2Proof/Laws/Scans.lean ====
section
/-! SUPPORT. What is left of a scan, and of an engine, when its task leaves RUNNING. -/

set_option Elab.async false

namespace Sys2Proof.Laws

open Sys2Proof Sys2Proof.Machine

/-- The engines of a state whose block of engines is the same. -/
theorem loom_of_view {s t : State} (h : view .loom t = view .loom s) : t.loom = s.loom := by simpa [view] using h

/-- A reading of an engine that its symbols, its patches and its signature do not enter. -/
abbrev Apart {α : Type} (f : Loom → α) : Prop :=
  ∀ (e : Loom) (com : LData) (kw : SMap Word) (ps : List Patch) (c : Nat),
    f { e with com := com, kw := kw, patches := ps, sigCrc := c } = f e

theorem patchApply_eng {α : Type} {f : Loom → α} (hf : Apart f) (n m : Fin 8) (p : Patch) (s : State) :
    f (vget (patchApply n p s).loom m) = f (vget s.loom m) := by
  unfold patchApply
  dsimp only
  split
  · rfl
  · rw [loom_of_view (raiseFabric_view (k := .loom) (by decide) _ _ _ _), setLoom_loom, vget_vmod]
    split
    · rename_i e
      subst e
      split
      · exact hf _ _ (vget s.loom m).kw (vget s.loom m).patches (vget s.loom m).sigCrc
      · split
        · exact hf _ _ (vget s.loom m).kw (vget s.loom m).patches (vget s.loom m).sigCrc
        · exact hf _ (vget s.loom m).com _ (vget s.loom m).patches (vget s.loom m).sigCrc
    · rfl

theorem patchesApply_eng {α : Type} {f : Loom → α} (hf : Apart f) (n m : Fin 8) (due : Patch → Bool) (k : Nat) (s : State) :
    f (vget (patchesApply n due k s).loom m) = f (vget s.loom m) := by
  unfold patchesApply
  dsimp only
  have step : ∀ (l : List Patch) (t : State),
      f (vget (l.foldl (fun t p => complete p.no 0 k (patchApply n p t)) t).loom m) = f (vget t.loom m) := by
    intro l
    induction l with
    | nil => intro t; rfl
    | cons p l ih =>
      intro t
      rw [List.foldl_cons, ih, loom_of_view (complete_view (k := .loom) (by decide) _ _ _ _), patchApply_eng hf]
  rw [step, setLoom_loom, vget_vmod]
  split
  · rename_i e
    subst e
    exact hf _ (vget s.loom m).com (vget s.loom m).kw _ (vget s.loom m).sigCrc
  · rfl

/-- A signature of a task that does not run is handed over without a check of its own (R351). -/
theorem meSignature_still (n : Fin 8) (num crc : Nat) (s : State) (h : (vget s.loom n).state ≠ .running) :
    (meSignature { isTask := true, engine := n.val, num := num, crc := crc } s).loom = s.loom := by
  unfold meSignature
  split
  · rfl
  · split
    · exact loom_of_view (view_when (k := .loom) _ fun t => sendFrame_view (by decide) _ _ t)
    · rw [if_neg]
      · simp [sigRuns, h]

/-- The engines after the fail values of a task that does not run are published: its signature is renewed and nothing else. -/
theorem failPublish_loom (n : Fin 8) (s : State) (q : (vget s.loom n).state ≠ .running) :
    ∃ sig : Nat, (failPublish n s).loom = vmod s.loom n fun e => { e with sigCrc := sig } := by
  refine ⟨taskSignature (publishPts ((warpPoints s n.val).map fun p => (p.1, p.2.value)) s) n, ?_⟩
  unfold failPublish taskSigned
  dsimp only
  rw [meSignature_still, setLoom_loom, loom_of_view (publishPts_view (k := .loom) (by decide) _ _)]
  rw [setLoom_loom, vget_vmod_self, loom_of_view (publishPts_view (k := .loom) (by decide) _ _)]
  exact q

theorem failPublish_eng {α : Type} {f : Loom → α} (hf : Apart f) (n m : Fin 8) (s : State)
    (q : (vget s.loom n).state ≠ .running) : f (vget (failPublish n s).loom m) = f (vget s.loom m) := by
  obtain ⟨sig, h⟩ := failPublish_loom n s q
  rw [h, vget_vmod]
  split
  · rename_i e
    subst e
    exact hf _ (vget s.loom m).com (vget s.loom m).kw (vget s.loom m).patches _
  · rfl

/-- What a task that leaves RUNNING leaves of its engine. -/
theorem taskLeave_eng {α : Type} {f : Loom → α} (hf : Apart f) (hd : ∀ (e : Loom) (b : Bool), f { e with teardown := b } = f e)
    (n : Fin 8) (st : TaskSt) (hr : st ≠ .running) (status : Nat) (pub : Bool) (s : State) :
    f (vget (taskLeave n st status pub s).loom n) =
      f { scanDrop (vget s.loom n) with state := if (vget s.loom n).teardown && st ≠ .fault then .none else st } := by
  have leaves (b : Bool) : (if b then TaskSt.none else st) ≠ .running := by cases b <;> simp [hr]
  unfold taskLeave
  dsimp only
  rw [setLoom_loom, vget_vmod_self, hd]
  rw [loom_of_view (drainHub_view (k := .loom) (by decide) _)]
  show f (vget (completeAll _ _ _ _).loom n) = _
  rw [loom_of_view (completeAll_view (k := .loom) (by decide) _ _ _ _), patchesApply_eng hf,
    loom_of_view (forcesDone_view (k := .loom) (by decide) _ _ _)]
  cases pub
  · rw [when_false, loom_of_view (forcesIn_view (k := .loom) (by decide) _ _), setLoom_loom, vget_vmod_self]
  · rw [when_true, failPublish_eng hf, loom_of_view (forcesIn_view (k := .loom) (by decide) _ _), setLoom_loom, vget_vmod_self]
    rw [loom_of_view (forcesIn_view (k := .loom) (by decide) _ _), setLoom_loom, vget_vmod_self]
    exact leaves _

/-- It leaves every other engine as it is. -/
theorem taskLeave_other (n m : Fin 8) (hm : m ≠ n) (st : TaskSt) (hr : st ≠ .running) (status : Nat) (pub : Bool) (s : State) :
    vget (taskLeave n st status pub s).loom m = vget s.loom m := by
  have leaves (b : Bool) : (if b then TaskSt.none else st) ≠ .running := by cases b <;> simp [hr]
  have key : ∀ t : State, ∀ p : Patch, vget (patchApply n p t).loom m = vget t.loom m := by
    intro t p
    unfold patchApply
    dsimp only
    split
    · rfl
    · rw [loom_of_view (raiseFabric_view (k := .loom) (by decide) _ _ _ _), setLoom_loom, vget_vmod_ne _ _ _ _ hm]
  have many : ∀ (k : Nat) (t : State), vget (patchesApply n (fun _ => true) k t).loom m = vget t.loom m := by
    intro k t
    unfold patchesApply
    dsimp only
    have step : ∀ (l : List Patch) (t : State),
        vget (l.foldl (fun t p => complete p.no 0 k (patchApply n p t)) t).loom m = vget t.loom m := by
      intro l
      induction l with
      | nil => intro t; rfl
      | cons p l ih =>
        intro t
        rw [List.foldl_cons, ih, loom_of_view (complete_view (k := .loom) (by decide) _ _ _ _), key]
    rw [step, setLoom_loom, vget_vmod_ne _ _ _ _ hm]
  unfold taskLeave
  dsimp only
  rw [setLoom_loom, vget_vmod_ne _ _ _ _ hm, loom_of_view (drainHub_view (k := .loom) (by decide) _)]
  show vget (completeAll _ _ _ _).loom m = _
  rw [loom_of_view (completeAll_view (k := .loom) (by decide) _ _ _ _), many,
    loom_of_view (forcesDone_view (k := .loom) (by decide) _ _ _)]
  cases pub
  · rw [when_false, loom_of_view (forcesIn_view (k := .loom) (by decide) _ _), setLoom_loom, vget_vmod_ne _ _ _ _ hm]
  · rw [when_true]
    obtain ⟨sig, h⟩ := failPublish_loom n (forcesIn (fun w : PendForce => w.engine = n.val)
      (setLoom n (fun e => { scanDrop e with state := if e.teardown && st ≠ .fault then .none else st }) s)) (by
        rw [loom_of_view (forcesIn_view (k := .loom) (by decide) _ _), setLoom_loom, vget_vmod_self]
        exact leaves _)
    rw [h, vget_vmod_ne _ _ _ _ hm, loom_of_view (forcesIn_view (k := .loom) (by decide) _ _), setLoom_loom, vget_vmod_ne _ _ _ _ hm]

/-- What a latch does before it begins a scan leaves the time base as it was. -/
theorem latch_time (n : Fin 8) (d : PendForce → Bool) (d2 : Patch → Bool) (k : Nat) (b : Bool) (body : List Byte) (s : State) :
    loomTime (when b (sendFrame 0x02 body) (patchesApply n d2 k (forcesNamed n d k s))) = loomTime s := by
  have h : ∀ u : State, loomTime (when b (sendFrame 0x02 body) u) = loomTime u := by
    intro u
    unfold when sendFrame
    split
    · split <;> rfl
    · rfl
  rw [h]
  have e : view .mir (patchesApply n d2 k (forcesNamed n d k s)) = view .mir s :=
    (patchesApply_view (k := .mir) (by decide) _ _ _ _).trans (forcesNamed_view (k := .mir) (by decide) _ _ _ _)
  have f : view .tbase (patchesApply n d2 k (forcesNamed n d k s)) = view .tbase s :=
    (patchesApply_view (k := .tbase) (by decide) _ _ _ _).trans (forcesNamed_view (k := .tbase) (by decide) _ _ _ _)
  simp only [view, View.mir.injEq, View.tbase.injEq] at e f
  unfold loomTime
  rw [e, f]

theorem latchScan_ts (n : Fin 8) (ts : Word) (scan : Nat) (first forced : Bool) (w : SMap Word) (s : State) :
    (vget (latchScan n ts scan first forced w s).loom n).ts = ts := by
  unfold latchScan
  rw [setLoom_loom, vget_vmod_self]

/-- What a failed engine leaves of the tasks is what its own leaving of RUNNING leaves. -/
theorem engineFault_loom (n : Fin 8) (k : Nat) (s : State) : (engineFault n k s).loom =
    (taskLeave n .fault stTimeout (!((vget s.loom n).crit && decide ((vget s.loom n).state = .running) && mayHandOver s))
      (setLoom n (fun e => { e with flt := k, lastAbn := if e.mode ≠ .idle || e.commit.isSome then 4 else e.lastAbn }) s)).loom := by
  unfold engineFault engineFail
  dsimp only
  rw [loom_of_view (climb_view (k := .loom) (by decide) _ _ _), loom_of_view (view_when (k := .loom) _ fun t => unitBad_view (by decide) _ t)]
  split
  · rw [loom_of_view (handOver_view (k := .loom) (by decide) _ _ _)]
    show (raise _ _ _ _).loom = _
    rw [loom_of_view (raise_view (k := .loom) (by decide) _ _ _ _), loom_of_view (view_when (k := .loom) _ fun t => indexFreed_view (by decide) _ _ t)]
  · rw [loom_of_view (view_when (k := .loom) _ fun t => faultTell_view (by decide) _ _ _ t)]
    show (raise _ _ _ _).loom = _
    rw [loom_of_view (raise_view (k := .loom) (by decide) _ _ _ _), loom_of_view (view_when (k := .loom) _ fun t => indexFreed_view (by decide) _ _ t)]

theorem ident_of_view {s t : State} (h : view .ident t = view .ident s) : t.ident = s.ident := by simpa [view] using h

/-- The publish of a scan on a module without a Mirror, whose task goes on. -/
theorem publishScan_engine (n : Fin 8) (k : Commit) (s : State) (h1 : mirPresent s = false) (h2 : (vget s.loom n).stopReq = false)
    (h3 : (vget s.loom n).teardown = false) (h4 : (vget s.loom n).stopScan = none) :
    let e := vget (publishScan n k s).loom n
    e.done = k.scan ∧ e.commit = none ∧ e.fbLast = k.fell ∧ e.state = (vget s.loom n).state ∧ e.com = (vget s.loom n).com := by
  intro e
  have key : e = { vget s.loom n with sigCrc := e.sigCrc, done := k.scan, commit := none, fbLast := k.fell } := by
    have sig : ∀ (g : Sig) (t : State), t.ident = s.ident → meSignature g t = t := by
      intro g t ht
      unfold meSignature
      rw [if_pos]
      simpa [mirPresent, ht] using h1
    unfold e publishScan
    dsimp only
    rw [sig _ _ (by
      rw [show ∀ (f : Loom → Loom) (t : State), (setLoom n f t).ident = t.ident from fun _ _ => rfl,
        ident_of_view (view_foldl (k := .ident) (fun t x => publishEntry_view (by decide) _ _) _ _),
        ident_of_view (warpTaken_view (k := .ident) (by decide) _ _), ident_of_view (publishMarked_view (k := .ident) (by decide) _ _ _),
        ident_of_view (forcesIn_view (k := .ident) (by decide) _ _), ident_of_view (brkPublish_view (k := .ident) (by decide) _ _ _)])]
    have body : ∀ (due : PendForce → Bool) (q : Nat) (c : Nat) (t : State), t.loom = s.loom →
        vget (lagNote (forcesDone due q (setLoom n (fun e => { e with sigCrc := c, done := k.scan, commit := none, fbLast := k.fell }) t))).loom n =
          { vget s.loom n with sigCrc := c, done := k.scan, commit := none, fbLast := k.fell } := by
      intro due q c t ht
      rw [loom_of_view (lagNote_view (k := .loom) (by decide) _), loom_of_view (forcesDone_view (k := .loom) (by decide) _ _ _),
        setLoom_loom, vget_vmod_self, ht]
    have base : ∀ l : List JEntry, (List.foldl publishEntry (warpTaken n (publishMarked (warpMark (forcesIn (forceDue n k.scan) (brkPublish n k.work s)) n)
        ((warpPoints (forcesIn (forceDue n k.scan) (brkPublish n k.work s)) n.val).map fun p => (p.1, mapGetD 0 k.work p.1))
          (forcesIn (forceDue n k.scan) (brkPublish n k.work s)))) l).loom = s.loom := by
      intro l
      rw [loom_of_view (view_foldl (k := .loom) (fun t x => publishEntry_view (by decide) _ _) _ _),
        loom_of_view (warpTaken_view (k := .loom) (by decide) _ _), loom_of_view (publishMarked_view (k := .loom) (by decide) _ _ _),
        loom_of_view (forcesIn_view (k := .loom) (by decide) _ _), loom_of_view (brkPublish_view (k := .loom) (by decide) _ _ _)]
    rw [if_neg, if_neg]
    · rw [body _ _ _ _ (base _)]
    · rw [body _ _ _ _ (base _)]
      simp [h4]
    · rw [body _ _ _ _ (base _)]
      simp [h2, h3]
  rw [key]
  exact ⟨rfl, rfl, rfl, rfl, rfl⟩

end Sys2Proof.Laws
end

