-- ==== Sys2Proof/Laws/Prism.lean ====
section
/-! SUPPORT. What a period start and an engine fault leave of a Prism engine, and the bounds of one computation. -/

set_option Elab.async false

namespace Sys2Proof.Laws

open Sys2Proof Sys2Proof.Machine

theorem prism_of_view {s t : State} (h : view .prism t = view .prism s) : t.prism = s.prism := by simpa [view] using h

theorem setPrism_at (n : Fin 4) (f : Prism → Prism) (s : State) : prismAt (setPrism n f s) n = f (prismAt s n) := by
  simp [prismAt, setPrism]

theorem vmod_same {α : Type} {n : Nat} (v : Vector α n) (i : Fin n) (f : α → α) (h : f (vget v i) = vget v i) : vmod v i f = v := by
  unfold vmod
  rw [h]
  apply Vector.ext
  intro j hj
  simp only [vset, Vector.getElem_set]
  split
  · rename_i e
    subst e
    rfl
  · rfl

theorem setSlotL_self (l : Fin 256) (s : State) : setSlotL l (fun _ => slotGet s l) s = s := by
  unfold setSlotL setPrism
  rw [vmod_same]
  rw [vmod_same]
  rfl

/-- Signing a period changes no slot and no period count. -/
theorem prismSign_at (n : Fin 4) (pc : Nat) (s : State) :
    (prismAt (prismSign n pc s) n).pcnt = (prismAt s n).pcnt ∧ (prismAt (prismSign n pc s) n).slots = (prismAt s n).slots ∧
      (prismAt (prismSign n pc s) n).offAt = (prismAt s n).offAt := by
  unfold prismSign
  dsimp only
  split
  · exact ⟨rfl, rfl, rfl⟩
  · unfold prismAt
    rw [prism_of_view (lateJudge_view (k := .prism) (by decide) _ _ _), prism_of_view (view_when (k := .prism) _ fun t => meSignature_view (by decide) _ t)]
    simp [setPrism]

/-- A period start counts the period and changes no slot. -/
theorem prismPeriod_at (n : Fin 4) (s : State) (h : prismRuns s n = true) :
    (prismAt (prismPeriod n s) n).pcnt = pcntNext (prismAt s n).pcnt ∧ (prismAt (prismPeriod n s) n).slots = (prismAt s n).slots ∧
      (prismAt (prismPeriod n s) n).offAt = (prismAt s n).offAt := by
  unfold prismPeriod
  rw [if_pos h, (prismSign_at n _ _).1, (prismSign_at n _ _).2.1, (prismSign_at n _ _).2.2, setPrism_at]
  exact ⟨rfl, rfl, rfl⟩

/-- Slots that go off are DISABLED. -/
theorem slotsOff_at (n : Fin 4) (s : State) (i : Fin 64) : (vget (prismAt (slotsOff n s) n).slots i).run = .disabled := by
  unfold slotsOff
  rw [setPrism_at]
  simp only [vget, Vector.getElem_map]
  split
  · assumption
  · rfl

theorem prismFault_at (n : Fin 4) (k : Nat) (s : State) :
    (prismAt (prismFault n k s) n).state = .fault ∧ (prismAt (prismFault n k s) n).fcause = k ∧
      ∀ i, (vget (prismAt (prismFault n k s) n).slots i).comps = [] := by
  unfold prismFault prismStop
  dsimp only
  unfold prismAt
  have e (b : Bool) (t : State) : (if b then handOver 1 false t else when (tellsPartner t) (faultTell (8 + n.val) (vget s.prism n).pcnt false) t).prism =
      t.prism := by
    split
    · exact prism_of_view (handOver_view (by decide) _ _ t)
    · exact prism_of_view (view_when (k := .prism) _ fun t => faultTell_view (by decide) _ _ _ t)
  rw [prism_of_view (climb_view (k := .prism) (by decide) _ _ _), prism_of_view (view_when (k := .prism) _ fun t => unitBad_view (by decide) _ t), e]
  show (prismAt (raise _ _ _ _) n).state = _ ∧ (prismAt (raise _ _ _ _) n).fcause = _ ∧ ∀ i, (vget (prismAt (raise _ _ _ _) n).slots i).comps = _
  unfold prismAt
  rw [prism_of_view (raise_view (k := .prism) (by decide) _ _ _ _)]
  show (prismAt (setPrism n _ _) n).state = _ ∧ (prismAt (setPrism n _ _) n).fcause = _ ∧ ∀ i, (vget (prismAt (setPrism n _ _) n).slots i).comps = _
  rw [setPrism_at]
  exact ⟨rfl, rfl, fun i => by simp⟩

theorem climb_reinit (g us : Nat) (s : State) : mapGet (climb g us s).pwr.reinit g = some us := by
  unfold climb unitFault unitBad
  dsimp only
  split <;> simp [mapGet_mapSet]

/-! ## The law -/

theorem clampI_between (x lo hi : Int) (h : lo ≤ hi) : lo ≤ clampI x lo hi ∧ clampI x lo hi ≤ hi := by
  unfold clampI
  omega

/-- A step towards a target shortens the distance by the rate. -/
theorem towards_dist (u t r : Int) (h : 0 < r) : (towards u t r - t).natAbs = (u - t).natAbs - r.toNat := by
  unfold towards clampI
  rw [if_neg (by omega)]
  omega

theorem iClamp_range (a : Int) : -(2 ^ 62) ≤ (iClamp a).val ∧ (iClamp a).val < 2 ^ 62 := by
  have := clampI_between a (-(2 ^ 62)) (2 ^ 62 - 1) (by decide)
  simp only [iClamp]
  omega

/-- A period without stage 3. -/
theorem lawHeld_spec (l : Law) (u : Int) (x : Slot) :
    let y := lawHeld l u x
    y.u = u ∧ y.uPrev = u ∧ y.r = l.y ∧ y.y = l.y ∧ y.d = 0 ∧ y.run = x.run ∧
      y.i = (iClamp (accQ u - (accSum ((frontQ (selSet x) l l.y).2.1.val :: ffTerms (selSet x) l l.y)).val)).val :=
  ⟨rfl, rfl, rfl, rfl, rfl, rfl, rfl⟩

theorem lawStep_stopping (l : Law) (lost : Bool) (x : Slot) (h : x.run = .stopping) :
    (lawStep l lost x).slot = { lawHeld l (towards (lawOld x) (selSet x).failOut (selSet x).rampStop) x with
      run := if towards (lawOld x) (selSet x).failOut (selSet x).rampStop = (selSet x).failOut then .disabled else .stopping } := by
  unfold lawStep
  dsimp only
  rw [if_pos h]

theorem limitQ_range (c : LoopSet) (us uPrev : Int) (h : c.umin ≤ c.umax) :
    (c.slew = 0 → c.umin ≤ (limitQ c us uPrev).1 ∧ (limitQ c us uPrev).1 ≤ c.umax) ∧
      (0 < c.slew → uPrev - c.slew ≤ (limitQ c us uPrev).1 ∧ (limitQ c us uPrev).1 ≤ uPrev + c.slew) := by
  unfold limitQ
  dsimp only
  split <;> constructor <;> intro <;> omega

theorem handQ_none (c : LoopSet) (law uOld : Int) : handQ c law uOld false false = (law, false) := by simp [handQ]

/-- Stages 3 to 6 without a handover give a limited output and keep the integrator in its range. -/
theorem lawOutput_limits (l : Law) (r : Int) (x y : Slot) (h1 : x.hand = false) (h2 : y.ho = false) (h3 : (selSet x).umin ≤ (selSet x).umax) :
    let c := selSet x
    let o := lawOutput l r x y
    (c.slew = 0 → c.umin ≤ o.2.1 ∧ o.2.1 ≤ c.umax) ∧ (0 < c.slew → lawOld x - c.slew ≤ o.2.1 ∧ o.2.1 ≤ lawOld x + c.slew) ∧
      -(2 ^ 62) ≤ o.1.i ∧ o.1.i < 2 ^ 62 ∧ o.1.run = y.run := by
  intro c o
  have q := fun us => limitQ_range c us (lawOld x) h3
  show (c.slew = 0 → c.umin ≤ (lawOutput l r x y).2.1 ∧ _) ∧ _
  unfold o lawOutput
  split
  · dsimp only
    rw [h1, h2, handQ_none]
    exact ⟨(q _).1, (q _).2, (iClamp_range _).1, (iClamp_range _).2, rfl⟩
  · unfold autoQ
    dsimp only
    rw [h1, h2, handQ_none]
    exact ⟨(q _).1, (q _).2, (iClamp_range _).1, (iClamp_range _).2, rfl⟩

/-- Stage 7: without a trip the output stands; with one the trip action sets it. -/
theorem lawSupervise_spec (l : Law) (lost : Bool) (r : Int) (x : Slot) (o : Slot × Int × Bool × Nat) :
    let c := selSet x
    let z := lawSupervise l lost r x o
    z.slot.uPrev = z.slot.u ∧ z.slot.y = l.y ∧ z.slot.i = o.1.i ∧ z.slot.r = r ∧
      (z.trip = false → z.slot.u = o.2.1 ∧ z.slot.run = o.1.run) ∧
      (z.trip = true → z.slot.run = .tripped ∧ z.slot.act = c.trip ∧ z.slot.u = if c.trip = 3 then o.2.1 else tripOut c c.trip (lawOld x)) := by
  intro c z
  refine ⟨rfl, rfl, rfl, rfl, fun h => ?_, fun h => ?_⟩
  all_goals
    unfold z lawSupervise at h ⊢
    simp only [countSat, lawFin] at h ⊢
    rw [h]
    simp
  exact ⟨rfl, rfl⟩

/-- A computation of a slot that is STARTING or RUNNING. -/
theorem lawStep_driven (l : Law) (lost : Bool) (x : Slot) (h : x.run = .starting ∨ x.run = .running) :
    ∃ r y, y.ho = (x.ho && !x.hand) ∧ lawStep l lost x = lawSupervise l lost r x (lawOutput l r x y) := by
  have n1 : ¬ x.run = .stopping := by rcases h with h | h <;> simp [h]
  have n2 : ¬ (x.run = .tripped && x.act ≠ 3) = true := by rcases h with h | h <;> simp [h]
  unfold lawStep
  dsimp only
  rw [if_neg n1, if_neg n2]
  exact ⟨_, _, rfl, rfl⟩

end Sys2Proof.Laws
end

