-- ==== Sys2Proof/Laws/Raise.lean ====
section
/-! SUPPORT. What a raise does to the recorder: it depends on the recorder, on Vessel time and on the time unit's power alone. -/

set_option Elab.async false

namespace Sys2Proof.Machine

/-- The recorder after a raise with its stamp. -/
def raiseRec (t : Stamp) (code sev : Nat) (value : Int) (r : Recorder) : Recorder :=
  if r.bobbin.length < 256 then { r with bobbin := r.bobbin ++ [{ code := code, sev := sev, value := wrap32 value, stamp := t }] }
  else { r with raiseN := holdInc 0xFFFF r.raiseN }

theorem raiseAt_rcd (t : Stamp) (code sev : Nat) (value : Int) (s : State) : (raiseAt t code sev value s).rcd = raiseRec t code sev value s.rcd := by
  unfold raiseAt raiseRec
  split <;> rfl

theorem raiseField_rcd (code sev : Nat) (value : Int) (s : State) :
    (raiseField code sev value s).rcd = raiseRec (stampHk s) code sev value s.rcd := raiseAt_rcd _ _ _ _ _

theorem raiseFabric_rcd (code sev : Nat) (value : Int) (s : State) :
    (raiseFabric code sev value s).rcd = raiseRec (stampFabric s) code sev value s.rcd := raiseAt_rcd _ _ _ _ _

theorem raiseCan_rcd (code sev : Nat) (value : Int) (s : State) :
    (raiseCan code sev value s).rcd = raiseRec (stampHk s) code sev value s.rcd := raiseAt_rcd _ _ _ _ _

theorem raise_rcd (code sev : Nat) (value : Int) (s : State) :
    (raise code sev value s).rcd = raiseRec (stampHk s) code sev value s.rcd := raiseAt_rcd _ _ _ _ _

/-- Two states with the same Vessel time and power give the same UNSYNC. -/
theorem unsync_congr (s t : State) (h : t.tim = s.tim) (h' : t.pwr = s.pwr) : unsync t = unsync s := by
  simp only [unsync, ethOn, pdOn, clkOn, h, h']

end Sys2Proof.Machine
end

