-- ==== Sys2Proof/Laws/Reach.lean ====
section
/-! SUPPORT. A write that reaches its register. -/

set_option Elab.async false

namespace Sys2Proof.Laws

open Machine

theorem barWrite_reaches {fn : Func} {off : Nat} {s : State} (h : reaches fn off s) (v : Word) :
    barWrite fn off v s = regPut (fn = .f1) off v.toNat s := by
  obtain ⟨h1, h2, h3, h4⟩ := h
  simp only [barWrite, h1, h2, Bool.not_true, Bool.or_self, Bool.false_eq_true, if_false, regWrite, h3]
  cases fn
  · simp [h4 rfl]
  · simp

end Sys2Proof.Laws
end

