-- ==== Sys2Proof/Laws/Rings.lean ====
section
/-! SUPPORT. What the commands of the ring pairs and of the secure session do. -/

set_option Elab.async false

namespace Sys2Proof.Laws

open Sys2Proof Sys2Proof.Machine

theorem ringReach_open {fn : Func} {r : Fin 64} {s : State} (h : ringOpen fn r s) (w : Bool) : ringReach fn r w s = (true, s) := by
  obtain ⟨h1, h2, h3⟩ := h
  unfold ringReach
  cases fn
  · simp [h2]
  · simp [h2, h3 rfl]

theorem ringAccess_open {fn : Func} {r : Fin 64} {s : State} (h : ringOpen fn r s) (off : Nat) (v : Word) :
    ringAccess fn r off v s = ringWrite r off v s := by
  simp only [ringAccess, h.1, if_true, ringReach_open h]

/-! ## Disabling ring pairs -/

theorem disableRing_rings (r : Fin 64) (s : State) (q : Fin 64) (h : q ≠ r) : vget (disableRing r s).shu.rings q = vget s.shu.rings q := by
  unfold disableRing setRing discardRing pruneStreams
  dsimp only
  rw [vget_vmod_ne _ _ _ _ h, vget_vmod_ne _ _ _ _ h]

theorem disableRing_state (r : Fin 64) (s : State) : (vget (disableRing r s).shu.rings r).state = .disabled := by
  unfold disableRing setRing
  dsimp only
  rw [vget_vmod_self]

/-- What a fold of disabled rings leaves: `p` says which. -/
structure RingsOff (p : Fin 64 → Prop) (s t : State) : Prop where
  rpsec   : t.shu.rpsec = s.shu.rpsec
  sess    : t.shu.sess = s.shu.sess
  off     : ∀ r, p r → (vget t.shu.rings r).state = .disabled
  gone    : ∀ f ∈ t.shu.flights, f ∈ s.shu.flights ∧ ¬ p f.ring
  kept    : ∀ r, ¬ p r → vget t.shu.rings r = vget s.shu.rings r
  held    : ∀ f ∈ s.shu.flights, ¬ p f.ring → f ∈ t.shu.flights

theorem ringFn_congr {s t : State} (h : t.shu.rpsec = s.shu.rpsec) (r : Fin 64) : ringFn t r = ringFn s r := by
  unfold ringFn ringSecure
  rw [h]

theorem ringsOff_fold (c : State → Fin 64 → Bool) (hc : ∀ s t r, t.shu.rpsec = s.shu.rpsec → c t r = c s r) (l : List (Fin 64)) (s : State) :
    RingsOff (fun r => r ∈ l ∧ c s r = true) s (l.foldl (fun t r => when (c t r) (disableRing r) t) s) := by
  induction l generalizing s with
  | nil => exact ⟨rfl, rfl, by simp, by simp, by simp, by simp⟩
  | cons a l ih =>
    rw [List.foldl_cons]
    cases ha : c s a
    · rw [when_false]
      obtain ⟨i1, i2, i3, i4, i5, i6⟩ := ih s
      refine ⟨i1, i2, ?_, ?_, ?_, ?_⟩
      · rintro r ⟨h, k⟩
        rcases List.mem_cons.mp h with rfl | h
        · rw [ha] at k; cases k
        · exact i3 r ⟨h, k⟩
      · intro f hf
        refine ⟨(i4 f hf).1, ?_⟩
        rintro ⟨h, k⟩
        rcases List.mem_cons.mp h with e | h
        · rw [e, ha] at k; cases k
        · exact (i4 f hf).2 ⟨h, k⟩
      · exact fun r h => i5 r fun q => h ⟨List.mem_cons_of_mem _ q.1, q.2⟩
      · exact fun f hf h => i6 f hf fun q => h ⟨List.mem_cons_of_mem _ q.1, q.2⟩
    · rw [when_true]
      obtain ⟨i1, i2, i3, i4, i5, i6⟩ := ih (disableRing a s)
      have hk : ∀ r, c (disableRing a s) r = c s r := fun r => hc _ _ r rfl
      refine ⟨i1, i2, ?_, ?_, ?_, ?_⟩
      · rintro r ⟨h, k⟩
        by_cases m : r ∈ l
        · exact i3 r ⟨m, by rw [hk]; exact k⟩
        · have e : r = a := (List.mem_cons.mp h).resolve_right m
          rw [i5 r fun q => m q.1, e]
          exact disableRing_state a s
      · intro f hf
        obtain ⟨u, v⟩ := i4 f hf
        have u' : f ∈ s.shu.flights ∧ f.ring ≠ a := by
          simpa using (List.mem_filter.mp (show f ∈ s.shu.flights.filter (fun f => decide (f.ring ≠ a)) from u))
        refine ⟨u'.1, ?_⟩
        rintro ⟨h, k⟩
        rcases List.mem_cons.mp h with e | h
        · exact u'.2 e
        · exact v ⟨h, by rw [hk]; exact k⟩
      · intro r h
        have hn : r ≠ a := by
          rintro rfl
          exact h ⟨List.mem_cons_self, ha⟩
        rw [i5 r fun q => h ⟨List.mem_cons_of_mem _ q.1, by rw [← hk]; exact q.2⟩, disableRing_rings a s r hn]
      · intro f hf h
        refine i6 f ?_ fun q => h ⟨List.mem_cons_of_mem _ q.1, by rw [← hk]; exact q.2⟩
        have hn : f.ring ≠ a := fun e => h ⟨by rw [e]; exact List.mem_cons_self, by rw [e]; exact ha⟩
        show f ∈ s.shu.flights.filter (fun f => decide (f.ring ≠ a))
        simp [hf, hn]

theorem secureRingsOff_off (s : State) : RingsOff (fun r => ringSecure s r = true) s (secureRingsOff s) := by
  have h := ringsOff_fold ringSecure (fun s t r e => by unfold ringSecure; rw [e]) (List.finRange 64) s
  simpa [secureRingsOff, foldFin] using h

theorem sessEnd_idle (s : State) (h : s.shu.sess.state = .open) : (sessEnd s).shu.sess.state = .idle := by
  unfold sessEnd
  rw [if_pos h, (secureRingsOff_off _).sess]
  rfl

theorem sessEnd_sess (s : State) (h : s.shu.sess.state ≠ .open) : sessEnd s = s := if_neg h

theorem sessClose_spec (s : State) : RingsOff (fun r => ringSecure s r = true ∧ s.shu.sess.state = .open) s { sessClose s with shu := { (sessClose s).shu with sess := s.shu.sess } } ∧
    (sessClose s).shu.sess.state ≠ .open := by
  unfold sessClose
  by_cases hc : (decide (s.shu.sess.state = .challenged) && !s.shu.sess.checking) = true
  · rw [if_pos hc]
    simp only [Bool.and_eq_true, decide_eq_true_eq] at hc
    refine ⟨⟨rfl, rfl, ?_, ?_, ?_, ?_⟩, by simp [setSess]⟩
    · intro r h; rw [hc.1] at h; exact absurd h.2 (by simp)
    · intro f hf; exact ⟨hf, by rw [hc.1]; simp⟩
    · intro r h; rfl
    · intro f hf h; exact hf
  · rw [if_neg hc]
    by_cases ho : s.shu.sess.state = .open
    · obtain ⟨a, b, c, d, e, f⟩ := secureRingsOff_off (setSess (fun x => { x with state := .idle }) s)
      have q : sessEnd s = secureRingsOff (setSess (fun x => { x with state := .idle }) s) := if_pos ho
      rw [q]
      refine ⟨⟨a, rfl, fun r h => c r h.1, fun x hx => ⟨(d x hx).1, fun h => (d x hx).2 h.1⟩, fun r h => e r fun k => h ⟨k, ho⟩, fun x hx h => f x hx fun k => h ⟨k, ho⟩⟩, ?_⟩
      rw [b]
      simp [setSess]
    · rw [sessEnd_sess s ho]
      exact ⟨⟨rfl, rfl, fun r h => absurd h.2 ho, fun f hf => ⟨hf, fun h => ho h.2⟩, fun r h => rfl, fun f hf h => hf⟩, ho⟩

theorem flr_spec (fn : Func) (s : State) (h1 : linkOn s = true) : ∃ t, exec (.functionLevelReset fn) s = .next t ∧
    (∀ r, ringFn s r = fn → (vget t.shu.rings r).state = .disabled ∧ ∀ f ∈ t.shu.flights, f.ring ≠ r) ∧
    (∀ r, ringFn s r ≠ fn → vget t.shu.rings r = vget s.shu.rings r ∧ ∀ f ∈ s.shu.flights, f.ring = r → f ∈ t.shu.flights) ∧
    (fn = .f1 → t.shu.sess.state ≠ .open) := by
  obtain ⟨a, b, c, d, e, f⟩ := ringsOff_fold (fun t r => decide (ringFn t r = fn)) (fun s t r e => by rw [ringFn_congr e]) (List.finRange 64) s
  simp only [List.mem_finRange, true_and, decide_eq_true_eq] at c d e f
  set t := (List.finRange 64).foldl (fun t r => when (decide (ringFn t r = fn)) (disableRing r) t) s with ht
  have ex : exec (.functionLevelReset fn) s = .next (when (decide (fn = .f1)) sessClose t) := by
    simp only [exec, execFunctionLevelReset, ok, h1, if_true]
    rfl
  refine ⟨_, ex, ?_⟩
  cases fn
  · rw [show when (decide (Func.f0 = .f1)) sessClose t = t from rfl]
    exact ⟨fun r hr => ⟨c r hr, fun x hx he => (d x hx).2 (by rw [he]; exact hr)⟩, fun r hr => ⟨e r hr, fun x hx he => f x hx (by rw [he]; exact hr)⟩, by simp⟩
  · rw [show when (decide (Func.f1 = .f1)) sessClose t = sessClose t from rfl]
    obtain ⟨⟨p1, p2, p3, p4, p5, p6⟩, q⟩ := sessClose_spec t
    have hs : ∀ r, ringSecure t r = true ↔ ringFn s r = .f1 := by
      intro r
      rw [← ringFn_congr a r]
      unfold ringFn
      cases ringSecure t r <;> simp
    refine ⟨fun r hr => ⟨?_, ?_⟩, fun r hr => ⟨?_, ?_⟩, fun _ => q⟩
    · by_cases ho : t.shu.sess.state = .open
      · exact p3 r ⟨(hs r).mpr hr, ho⟩
      · have := p5 r fun k => ho k.2
        change vget (sessClose t).shu.rings r = _ at this
        rw [this]
        exact c r hr
    · intro x hx he
      exact (d x (p4 x hx).1).2 (by rw [he]; exact hr)
    · have hn : ¬ ringSecure t r = true := fun k => hr ((hs r).mp k)
      have := p5 r fun k => hn k.1
      change vget (sessClose t).shu.rings r = _ at this
      rw [this]
      exact e r hr
    · intro x hx he
      have hn : ¬ ringSecure t x.ring = true := fun k => hr (by rw [← he]; exact (hs x.ring).mp k)
      exact p6 x (f x hx (by rw [he]; exact hr)) fun k => hn k.1

theorem sessionOpen_spec (fn : Func) (s : State) (h1 : reaches fn 0x820 s) (h2 : s.sec.keySet = true) (h3 : s.shu.sess.state ≠ .locked)
    (h4 : s.shu.sess.checking = false) : ∃ t, exec (.sessionOpen fn) s = .next t ∧ t.shu.sess.state = .challenged ∧ t.shu.sess.lastFail = false ∧
    t.shu.sess.nonce = Config.random128 (sessEnd s).free := by
  refine ⟨sessOpen s, ?_, ?_⟩
  · rw [exec, execSessionOpen, ok, barWrite_reaches h1]
    rfl
  · have e : sessOpen s = drawn (setSess (fun x => { x with state := .challenged, lastFail := false, nonce := Config.random128 s.free }) (sessEnd s)) := by
      simp [sessOpen, h2, h3, h4]
    have k : (sessEnd s).free = s.free := by
      have hf : ∀ (l : List (Fin 64)) (u : State), (l.foldl (fun t r => when (ringSecure t r) (disableRing r) t) u).free = u.free := by
        intro l
        induction l with
        | nil => intro u; rfl
        | cons a l ih =>
          intro u
          rw [List.foldl_cons, ih]
          cases ringSecure u a <;> rfl
      unfold sessEnd
      split
      · exact hf _ _
      · rfl
    rw [e, k]
    exact ⟨rfl, rfl, rfl⟩

/-! ## Completions -/

theorem ringIrq_out (r : Fin 64) (s : State) (o : Output) (h : o ∈ s.out) : o ∈ (ringIrq r s).out := by
  have m : ∀ (fn : Func) (v : Nat) (u : State), o ∈ u.out → o ∈ (msix fn v u).out := by
    intro fn v u hu
    unfold msix
    dsimp only
    split
    · exact hu
    · split
      · exact hu
      · exact List.mem_cons_of_mem _ hu
  unfold ringIrq
  dsimp only
  split
  · exact m _ _ _ h
  · split
    · exact h
    · exact m _ _ _ h

/-- A message leaves the ring pairs and what HK0 holds. -/
theorem msix_shu (fn : Func) (v : Nat) (s : State) : (msix fn v s).shu.rings = s.shu.rings ∧ (msix fn v s).shu.flights = s.shu.flights := by
  unfold msix
  dsimp only
  (repeat' split) <;> exact ⟨rfl, rfl⟩

theorem ringIrq_ring (r : Fin 64) (s : State) : (vget (ringIrq r s).shu.rings r).waiting = (vget s.shu.rings r).waiting ∧
    (vget (ringIrq r s).shu.rings r).cqTail = (vget s.shu.rings r).cqTail ∧ (vget (ringIrq r s).shu.rings r).cqUsed = (vget s.shu.rings r).cqUsed ∧
    (ringIrq r s).shu.flights = s.shu.flights := by
  unfold ringIrq
  dsimp only
  split
  · rw [(msix_shu _ _ _).1, (msix_shu _ _ _).2]; simp
  · split
    · simp [setRing]
    · rw [(msix_shu _ _ _).1, (msix_shu _ _ _).2]; simp [setRing]

theorem completionWrite_spec (r : Fin 64) (c : Completion) (l : List Completion) (s : State) (h1 : linkOn s = true)
    (h2 : (vget s.shu.rings r).waiting = c :: l) (h3 : (vget s.shu.rings r).cqUsed < 2 ^ (vget s.shu.rings r).cqLog2) :
    ∃ t, exec (.completionWrite r) s = .next t ∧
      Output.completion r ((vget s.shu.rings r).cqBase + 16 * (vget s.shu.rings r).cqTail) (completionBytes s (vget s.shu.rings r) c) ∈ t.out ∧
      (vget t.shu.rings r).waiting = l ∧ (vget t.shu.rings r).cqTail = ((vget s.shu.rings r).cqTail + 1) % 2 ^ (vget s.shu.rings r).cqLog2 ∧
      (vget t.shu.rings r).cqUsed = (vget s.shu.rings r).cqUsed + 1 ∧ (∀ f ∈ t.shu.flights, f.no ≠ c.no) := by
  refine ⟨writeCompletion r s, by simp [exec, execCompletionWrite, ok, h1, when], ?_⟩
  unfold writeCompletion
  dsimp only
  rw [h2]
  dsimp only
  rw [if_pos h3]
  cases hc : (c.irq || decide (c.status ≠ 0))
  · rw [when_false]
    refine ⟨by simp [emit, setRing], by simp [emit, setRing], by simp [emit, setRing], by simp [emit, setRing], ?_⟩
    intro f hf
    simpa using (List.mem_filter.mp hf).2
  · rw [when_true]
    refine ⟨ringIrq_out _ _ _ (by simp [emit, setRing]), ?_, ?_, ?_, ?_⟩
    · rw [(ringIrq_ring r _).1]; simp [setRing]
    · rw [(ringIrq_ring r _).2.1]; simp [setRing]
    · rw [(ringIrq_ring r _).2.2.1]; simp [emit, setRing]
    · rw [(ringIrq_ring r _).2.2.2]
      intro f hf
      simpa using (List.mem_filter.mp hf).2

end Sys2Proof.Laws
end

