-- ==== Sys2Proof/Laws/Service.lean ====
section
/-! SUPPORT. What a request of the service port does. -/

set_option Elab.async false

namespace Sys2Proof.Laws

open Sys2Proof Sys2Proof.Machine

theorem svcRun_runs {op : Nat} {r : SvcReq} {s : State} (h : svcRuns op r s) (f : State → SvcAns × State) :
    svcRun op r f s = svcSent op r (f s).1 (f s).2 := by
  obtain ⟨a, b, c⟩ := h
  unfold svcRun
  simp only [a, b, c, Bool.not_true, Bool.or_self, Bool.false_eq_true, if_false]

/-- A request that a check of R403 refuses answers DENIED with its code. -/
theorem svcRun_refused {op : Nat} {r : SvcReq} {c : Nat} {s : State} (a : hkOn s = true) (b : s.svc.pullup = true) (h : svcRefusal s op r = some c)
    (f : State → SvcAns × State) : svcRun op r f s = svcSent op r (svcDeny c) s := by
  unfold svcRun
  simp only [a, b, h, Bool.not_true, Bool.or_self, Bool.false_eq_true, if_false]

/-- A read of memory that no region refuses answers what stands there. -/
theorem svcMemory_sound {l : List (Nat × List Byte)} {s : State} (h : ∀ p ∈ l, svcRegion s p.1 = none) :
    svcMemory l s = ({ payload := l.flatMap (·.2) }, s) := by
  have k : (l.findSome? fun p => (svcRegion s p.1).map fun r => (r, p.1)) = none := by
    rw [List.findSome?_eq_none_iff]
    intro p m
    rw [h p m]; rfl
  have e : (l.flatMap fun p => if (svcRegion s p.1).isSome then p.2.map (fun _ => (0 : Byte)) else p.2) = l.flatMap (·.2) :=
    List.flatMap_congr fun p m => by rw [h p m]; rfl
  unfold svcMemory
  simp only [k, e]
  rfl

/-- A read of memory with a piece that region `r` refuses first, at `a`: POISON, that piece and every other refused one read as zeros. -/
theorem svcMemory_refused {l : List (Nat × List Byte)} {r a : Nat} {s : State}
    (h : (l.findSome? fun p => (svcRegion s p.1).map fun r => (r, p.1)) = some (r, a)) :
    svcMemory l s = ({ status := stPoison, payload := l.flatMap fun p => if (svcRegion s p.1).isSome then List.replicate p.2.length 0 else p.2 },
      regionViol r 0x0D a false s) := by
  unfold svcMemory
  simp only [h, List.map_const']
  rfl

/-- What a session that is open leaves when another request ends it first. -/
theorem svcEnd_first (s : State) : (when (svcOpen s.svc) svcEnd s).sec = s.sec ∧ (when (svcOpen s.svc) svcEnd s).free = s.free ∧
    (when (svcOpen s.svc) svcEnd s).svc.count = s.svc.count ∧ (when (svcOpen s.svc) svcEnd s).svc.window = s.svc.window ∧
    ((when (svcOpen s.svc) svcEnd s).svc.sess = .locked ↔ s.svc.sess = .locked) := by
  cases h : svcOpen s.svc
  · exact ⟨rfl, rfl, rfl, rfl, Iff.rfl⟩
  · refine ⟨rfl, rfl, rfl, rfl, ?_⟩
    show (if s.svc.sess = .locked then SvcSess.locked else .none) = .locked ↔ _
    split <;> simp [*]

/-- The records that REC_READ copies, each with the address of its slot. -/
theorem recZip (s : State) (n code : Nat) :
    ((slotsFrom s n code).map fun p => Config.recAddr p.1).zip (recordsFrom s n code) =
      (slotsFrom s n code).map fun p => (Config.recAddr p.1, slotBytes s p.2) := by
  unfold recordsFrom
  rw [List.zip_map']

end Sys2Proof.Laws
end

