-- ==== Sys2Proof/Laws/Servo.lean ====
section
/-! SUPPORT. One Sync in the servo of vessel time. -/

set_option Elab.async false

namespace Sys2Proof.Laws

open Sys2Proof Sys2Proof.Machine

theorem addendOf_range (f : Rat) : -17179869 ≤ addendOf f ∧ addendOf f ≤ 17179869 := by
  unfold addendOf
  omega

theorem clockStep_tim (d : Int) (s : State) : (clockStep d s).tim =
    { s.tim with clk := clockAdd d s.tim.clk
                 steps := (s.tim.steps.filter fun p => clockNs s.tim.res < p.1 + 1000000000) ++ [(clockNs s.tim.res, d)] } := by
  unfold clockStep raise raiseAt
  split <;> rfl

theorem raise_tim (code sev : Nat) (v : Int) (s : State) : (raise code sev v s).tim = s.tim := by
  unfold raise raiseAt
  split <;> rfl

theorem servoSync_spec (span : Rat) (interval : Nat) (s : State) :
    let off := span - s.tim.mpd
    let t := servoSync span interval s
    t.tim.offs = sat32 (roundRat off) ∧
      (-17179869 ≤ s.tim.addend ∧ s.tim.addend ≤ 17179869 → -17179869 ≤ t.tim.addend ∧ t.tim.addend ≤ 17179869) ∧
      (|off| > (s.tim.stepThr * 1000 : Nat) → t.tim.servo = .acquiring ∧ t.tim.run16 = 0 ∧ t.tim.i = s.tim.i ∧ t.tim.addend = s.tim.addend ∧
        t.tim.clk = clockAdd (-(roundRat off)) s.tim.clk) ∧
      (|off| ≤ (s.tim.stepThr * 1000 : Nat) → t.tim.clk = s.tim.clk ∧
        t.tim.i = s.tim.i - off * ((interval : Rat) / 128) / (4 * (s.tim.tau : Rat) * s.tim.tau) ∧
        t.tim.addend = addendOf (t.tim.i - off / s.tim.tau) ∧
        (t.tim.servo = .locked ↔ s.tim.servo = .locked ∨ (|off| < 1000 ∧ 15 ≤ s.tim.run16))) := by
  intro off t
  have ab : (if off < 0 then -off else off) = |off| := by
    split
    · rename_i h; rw [abs_of_neg h]
    · rename_i h; rw [abs_of_nonneg (not_lt.mp h)]
  by_cases h : |off| > (s.tim.stepThr * 1000 : Nat)
  · have e : t.tim = { s.tim with
        offs := sat32 (roundRat off), servo := .acquiring, run16 := 0, clk := clockAdd (-(roundRat off)) s.tim.clk
        steps := (s.tim.steps.filter fun p => clockNs s.tim.res < p.1 + 1000000000) ++ [(clockNs s.tim.res, -(roundRat off))] } := by
      unfold t servoSync
      dsimp only
      rw [show span - s.tim.mpd = off from rfl, ab, if_pos h, clockStep_tim]
      rfl
    rw [e]
    exact ⟨rfl, fun k => k, fun _ => ⟨rfl, rfl, rfl, rfl, rfl⟩, fun k => absurd h (not_lt.mpr k)⟩
  · let i := s.tim.i - off * ((interval : Rat) / 128) / (4 * (s.tim.tau : Rat) * s.tim.tau)
    let run := if |off| < 1000 then s.tim.run16 + 1 else 0
    let lock := decide (s.tim.servo ≠ .locked) && decide (16 ≤ run)
    have e : t.tim = { s.tim with
        offs := sat32 (roundRat off), i := i, addend := addendOf (i - off / s.tim.tau)
        run16 := if lock || decide (s.tim.servo = .locked) then 0 else run
        servo := if lock then .locked else if s.tim.servo = .locked then .locked else .acquiring } := by
      unfold t servoSync
      dsimp only
      rw [show span - s.tim.mpd = off from rfl, ab, if_neg h]
      cases hl : lock
      · rw [show (decide (s.tim.servo ≠ .locked) && decide (16 ≤ if |off| < 1000 then s.tim.run16 + 1 else 0)) = false from hl]
        simp only [when_false, setTim]
        rfl
      · rw [show (decide (s.tim.servo ≠ .locked) && decide (16 ≤ if |off| < 1000 then s.tim.run16 + 1 else 0)) = true from hl]
        simp only [when_true, raise_tim, setTim]
        rfl
    rw [e]
    refine ⟨rfl, fun _ => addendOf_range _, fun k => absurd k h, fun _ => ⟨rfl, rfl, rfl, ?_⟩⟩
    dsimp only
    have ran : 16 ≤ run ↔ |off| < 1000 ∧ 15 ≤ s.tim.run16 := by
      unfold run
      split
      · rename_i q; constructor
        · intro k; exact ⟨q, by omega⟩
        · intro k; omega
      · rename_i q; constructor
        · intro k; omega
        · intro k; exact absurd k.1 q
    by_cases q : s.tim.servo = .locked
    · simp [q]
    · simp only [q, false_or, if_false]
      rw [← ran]
      by_cases r : 16 ≤ run
      · simp [lock, q, r]
      · simp [lock, r]

end Sys2Proof.Laws
end

