-- ==== Sys2Proof/Laws/Words.lean ====
section
/-! SUPPORT. The arithmetic of the Loom engine and of its timers, in the terms of the spec. -/

set_option Elab.async false

namespace Sys2Proof.Machine

theorem wordOf_toInt {x : Int} (a : -2147483648 ≤ x) (b : x ≤ 2147483647) : (wordOf x).toInt = x := by
  simp only [wordOf, BitVec.toInt_ofInt]
  exact Int.bmod_eq_of_le (by norm_num; omega) (by norm_num; omega)

theorem saturate_spec (x : Int) : (saturate x).val.toInt = max (-2147483648) (min 2147483647 x) ∧
    ((saturate x).ovf = true ↔ ¬ (-2147483648 ≤ x ∧ x ≤ 2147483647)) := by
  unfold saturate
  constructor
  · show (wordOf (sat32 x)).toInt = _
    rw [wordOf_toInt (by unfold sat32; omega) (by unfold sat32; omega)]
    unfold sat32
    omega
  · show decide (sat32 x ≠ x) = true ↔ _
    rw [decide_eq_true_eq]
    unfold sat32
    omega

theorem word_range (a : Word) : -2147483648 ≤ a.toInt ∧ a.toInt ≤ 2147483647 := by
  have h := BitVec.toInt_lt (x := a)
  have g := BitVec.le_toInt (x := a)
  norm_num at h g
  omega

theorem divW_spec (a b : Word) (h1 : b ≠ 0) (h2 : ¬ (a.toInt = -2147483648 ∧ b.toInt = -1)) :
    (divW a b).val.toInt = a.toInt.tdiv b.toInt ∧ (divW a b).ovf = false ∧ (divW a b).divz = false := by
  have hb : b.toInt ≠ 0 := fun e => h1 (BitVec.eq_of_toInt_eq (by rw [e]; rfl))
  obtain ⟨p, q⟩ := word_range a
  have r : -2147483648 ≤ a.toInt.tdiv b.toInt ∧ a.toInt.tdiv b.toInt ≤ 2147483647 := by
    have h3 : (a.toInt.tdiv b.toInt).natAbs ≤ a.toInt.natAbs := by
      rw [Int.natAbs_tdiv]
      exact Nat.div_le_self _ _
    by_cases hm : a.toInt = -2147483648
    · have hn : b.toInt ≠ -1 := fun e => h2 ⟨hm, e⟩
      by_cases h1' : b.toInt = 1
      · rw [h1', Int.tdiv_one]; omega
      · have h4 : (a.toInt.tdiv b.toInt).natAbs ≤ a.toInt.natAbs / 2 := by
          rw [Int.natAbs_tdiv]
          exact Nat.div_le_div_left (by omega) (by norm_num)
        omega
    · omega
  obtain ⟨u, v⟩ := saturate_spec (a.toInt.tdiv b.toInt)
  unfold divW
  rw [if_neg h1]
  refine ⟨by rw [u]; omega, ?_, rfl⟩
  cases hc : (saturate (a.toInt.tdiv b.toInt)).ovf
  · rfl
  · exact absurd r (v.mp hc)

theorem modW_spec (a b : Word) (h1 : b ≠ 0) : (modW a b).val.toInt = a.toInt.tmod b.toInt ∧ (modW a b).ovf = false ∧ (modW a b).divz = false := by
  obtain ⟨p, q⟩ := word_range a
  have h3 : (a.toInt.tmod b.toInt).natAbs ≤ a.toInt.natAbs := by
    rw [Int.natAbs_tmod]
    exact Nat.mod_le _ _
  unfold modW
  rw [if_neg h1]
  refine ⟨?_, rfl, rfl⟩
  show (wordOf _).toInt = _
  by_cases hm : a.toInt.tmod b.toInt = 2147483648
  · exfalso
    by_cases hn : 0 ≤ a.toInt
    · omega
    · have := Int.tmod_nonneg (a := -a.toInt) b.toInt (by omega)
      rw [Int.neg_tmod] at this
      omega
  · exact wordOf_toInt (by omega) (by omega)

theorem timerStart_eq (ts pt : Word) (b : Bool) :
    timerStart ts pt b = { st := if pt = 0 then .done else .running, start := ts, pt := pt, mem := b } := by
  have e : (pt.toNat ≤ (ts - ts).toNat) ↔ pt = 0 := by
    rw [BitVec.sub_self]
    constructor
    · intro h
      exact BitVec.eq_of_toNat_eq (Nat.le_zero.mp h)
    · rintro rfl
      exact le_refl _
  unfold timerStart timerNow timerSt
  by_cases h : pt = 0
  · rw [if_pos h, if_pos (by simp [e, h])]
  · rw [if_neg h, if_neg (by simp only [e, h]; simp)]

theorem tonStep_start (ts pt : Word) (t : Timer) (h1 : t.st = .idle) :
    tonStep ts pt true t = ({ st := if pt = 0 then .done else .running, start := ts, pt := pt, mem := true }, decide (pt = 0)) := by
  simp [tonStep, h1, timerStart_eq]

end Sys2Proof.Machine
end

