-- ==== Sys2Proof/Tests/Slice0.lean ====
section
/-! SUPPORT. Small tests of single steps, the check of well-formedness, and a witness for every set of hypotheses of the statements. -/

set_option Elab.async false

open Sys2Proof Sys2Proof.Machine

namespace Sys2Proof.Tests

/-- A module that runs, ALONE: every domain on, no image. -/
def tOn : State := { State.reset with
  pwr := { up := true, link := true, pd := 0xFFF, run := 0xFFF, phase := .run, loaded := true, feed0 := 2400, feed1 := 2400 }
  mir := { decided := true } }

/-- With digital channel 0 of a live bank 0. -/
def tDio (x : DioCh) (k : DioBank) : State := setBank 0 (fun _ => { k with live := true, vKnown := true }) (setDio 0 (fun _ => x) tOn)

/-- With current channel 0 in use. -/
def tAio (x : Aio) : State := setAio 0 (fun _ => { x with live := true }) tOn

/-- With encoder port 0 in use. -/
def tEnc (x : Enc) : State := setEnc 0 (fun _ => { x with live := true }) tOn

/-- A standby. -/
def tStandby (s : State) : State := setMir (fun m => { m with role := .standby, prole := 2 }) s

/-- With CAN channel 0 in use. -/
def tCan (x : Can) : State := setCan 0 (fun _ => { x with live := true }) tOn

/-- A classic CAN frame. -/
def tFrame : CanFrame := { ide := false, fdf := false, brs := false, esi := false, rtr := false, ident := 0x214, data := [1] }

/-- An FD frame with a data phase. -/
def tFdFrame : CanFrame := { tFrame with fdf := true, brs := true }

/-- A frame as it comes off the bus. -/
def tIn : CanIn := { frame := tFrame, dlc := 1, cycles := 4000 }

/-- Engine 0 executes `i` at word 0 of its program, in settled mode. -/
def tLoom (r : LRun) (i : LInstr) : State := setLoom 0 (fun e => { e with state := .running, mode := .settled, prog := [(0, loomEncode i)], run := r }) tOn

/-- A bit operand: marker 5. -/
def tMb : BitOp := { space := .mb, index := 5 }

/-- A word operand: the number 3. -/
def tImm : WordOp := { space := .imm, index := 3 }

/-- A descriptor is the next that HK0 starts, on ring 56 of the secure world. -/
def tDesc (d : Desc) (s : State) : State := { s with shu := { s.shu with flights := [{ no := 1, ring := 56, desc := d }] } }

/-- That descriptor. -/
def tFl (d : Desc) : Flight := { no := 1, ring := 56, desc := d }

/-- Handle 5 of generation 1 names a live channel. -/
def tHandle (kind target : Nat) (s : State) : State :=
  { s with shu := { s.shu with handles := [(5, { kind := kind, target := target, gen := 1, st := .live })] } }

/-- The handle number of that channel. -/
abbrev tH : Nat := 8197

/-- A loop's block: no source, no sink. -/
def tLoopBlock : List Byte :=
  [1] ++ List.replicate 69 0 ++ [0xFF, 0xFF] ++ List.replicate 72 0 ++ [1] ++ List.replicate 11 0 ++ [1] ++ List.replicate 15 0 ++
    [0xFF, 0xFF] ++ List.replicate 34 0

/-- A digital bank's block: eight channels that are not used. -/
def tBankBlock : List Byte :=
  [1, 3, 0, 0, 0xFF, 0xFF] ++ List.replicate 10 0 ++
    (List.range 8).flatMap fun _ => [0, 0, 0, 0, 0xFF, 0xFF, 0xFF, 0xFF, 0xFF, 0xFF] ++ List.replicate 6 0

/-- A CAN port's block: 1 Mbit/s. -/
def tCanBlock : List Byte := [1, 6, 0, 0, 4, 7, 8, 4, 1] ++ List.replicate 23 0 ++ [0xFF, 0xFF] ++ List.replicate 6 0

/-- A brake configuration of four disabled channels, by operator 1, with the password "pw" and, for `new`, a new one "q". -/
def tBrkBlock (new : Bool) : List Byte :=
  [1, if new then 1 else 0, 1, 0, 0x70, 0x77] ++ List.replicate 14 0 ++ [if new then 0x71 else 0] ++ List.replicate 19 0 ++
    (List.range 4).flatMap fun _ => [0, 0, 1, 0, 0, 0, 0, 0, 0xFF, 0xFF, 100, 0, 20, 0, 10, 0, 0, 0, 10, 0, 10, 0, 100, 0, 10, 0, 0xFF, 0xFF, 0, 0, 0, 0, 10, 0] ++
      List.replicate 14 0

/-- Ring pair 56 of the secure world is `g`, with an open session. -/
def tRing (g : Ring) : State :=
  setRing 56 (fun _ => g) { tOn with shu := { tOn.shu with ready := true, sess := { tOn.shu.sess with state := .open } } }

/-- Loop 0 runs: its slot is `x`, in period 5 of engine 0. -/
def tSlot (x : Slot) : State :=
  setPrism 0 (fun p => { p with state := .run, nslot := 1, pcnt := 5, slots := vset p.slots 0 { x with live := true } }) tOn

/-- Both Ethernet links are up. -/
def tEth (e : Eth) : State := { tOn with eth := { e with ports := vmod (vmod e.ports 0 fun p => { p with speed := 2 }) 1 fun p => { p with speed := 2 } } }

/-- A Sync or Follow_Up. -/
def tPtp (k : PtpType) (two : Bool) : PtpMsg :=
  { kind := k, transport := .l2, domain := 0, source := 7, seqId := 3, twoStep := two, correction := 0x0C1C0000, udpSum := 0, dst := 0 }

/-- A multicast frame that carries it, 1,000 ns after its start-of-frame delimiter. -/
def tEthFrame (m : PtpMsg) : EthFrame :=
  { len := 90, badFcs := false, src := 1, dst := 2, multicast := true, prio := 0, content := .ptp m, age := 1000 }

/-- A PTP message over Ethernet, to a multicast address. -/
def tVia : PtpVia := { transport := .l2, multicast := true, dst := 0 }

/-- An Announce of grandmaster `g`. -/
def tAnn (g : Nat) : Announce :=
  { via := tVia, domain := 0, source := 7, gmId := g, priority1 := 128, clockClass := 6, accuracy := 0x21, variance := 0, priority2 := 128
    stepsRemoved := 0, utcOffset := 37, utcValid := true }

/-- A Sync from that source. -/
def tSync (t1 : Int) : SyncMsg := { via := tVia, domain := 0, source := 7, seqId := 3, t1 := t1, corr := 0, interval := 16 }

/-- That source is the chosen master on port 0. -/
def tMaster (t : Tim) : Tim := { t with master := some { port := 0, ann := tAnn 5 } }

/-- Brake channel 0 is `x`. -/
def tBrk (x : BrkCh) : State := setBrk 0 (fun _ => x) tOn

/-- What the BMP reads with every coil dead. -/
def tBmp (v : Nat) : BmpInputs :=
  { ch := Vector.replicate 4 { iHs := 0, iLs := 0, vPlus := 0, vMinus := 0, contact := false }, vsup := v }

/-- A good heartbeat on lane 0 from the module in slot 1. -/
def tHb (r : HbRole) : Heartbeat :=
  { lane := 0, laneBit := 0, role := r, healthy := true, palive := true, detached := false, slot := 1, hbseq := 0, syncph := 0, crcOk := true }

/-- A command from the partner. -/
def tCmd (arg : Word) : MirCmd := { lane := 0, arg := arg, seq := 1, crcOk := true }

/-- A frame from the partner. -/
def tHdr : FrameHdr := { fseq := 5, good := true }

/-- The service port is on the bus, in session `x`. -/
def tSvc (x : SvcSess) (s : State) : State := setSvc (fun v => { v with vbus := true, pullup := true, sess := x }) s

/-- A request without fields or payload. -/
def tReq (arg arg2 : Word) (b : List Byte) : SvcReq := { byte1 := 0, seq := 9, arg := arg, arg2 := arg2, len := b.length, payload := b }

/-- The password is "pw". -/
def tPw (s : State) : State := { s with brk := { s.brk with hasPw := true, hash := pwHash [0x70, 0x77] s.brk.salt } }

/-- The password is another. -/
def tPwBad (s : State) : State := { s with brk := { s.brk with hasPw := true, hash := pwHash [0x70, 0x77] s.brk.salt + 1 } }

/-- `k` more than the CRC-32 of that block is the CRC of the configuration accepted last. -/
def tPcrc (k : Nat) (s : State) : State := { s with brk := { s.brk with pcrc := crc32n ((tBrkBlock true).drop 40) + k } }

theorem tPcrc_eq {b : List Byte} {d : Desc} {s : State} (k : Nat) (h : b = tBrkBlock true) :
    (crc32n (b.drop 40) = (tDesc d (tPw (tPcrc k s))).brk.pcrc) = (k = 0) := by
  subst h; simp [tDesc, tPw, tPcrc]

theorem tPw_good {b : List Byte} {d : Desc} {s : State} (hb : (pwChars (slice b 4 16)).getD [] = [0x70, 0x77]) :
    passwordBad (tDesc d (tPw s)) b = false := by
  simp [passwordBad, hb, tPw, tDesc]

theorem tPw_bad {b : List Byte} {d : Desc} {s : State} (hb : (pwChars (slice b 4 16)).getD [] = [0x70, 0x77]) :
    passwordBad (tDesc d (tPwBad s)) b = true := by
  simp [passwordBad, hb, tPwBad, tDesc]

/-- The life-cycle state is `l`. -/
def tLife (l : Life) (s : State) : State := { s with sec := { s.sec with life := l } }

/-- An image whose memory region 8 refuses non-secure reads up to the address `a`, with one event record. -/
def tRegion (a : Nat) : State :=
  { tLife .operate (tSvc .key tOn) with
    sec := { tOn.sec with life := .operate, regions := [(8, { en := true, rdS := true, limit := a / 4096 })] }
    rcd := { tOn.rcd with slots := [(0, { held := true })] } }

theorem tRegion_hit (a : Nat) : svcRegion (tRegion a) a = some 8 := by
  have h : svcSecure (tRegion a) = false := rfl
  have k : imageRegions (tRegion a) = [(8, { en := true, rdS := true, limit := a / 4096 })] := rfl
  unfold svcRegion
  rw [h, k]
  simp [regionCovers]

theorem tRegion_first (a : Nat) (b : List Byte) :
    ([(a, b)].findSome? fun p => (svcRegion (tRegion a) p.1).map fun q => (q, p.1)) = some (8, a) := by
  simp [tRegion_hit]

/-- The configuration has been loaded. -/
def tLoaded (s : State) : State := { s with pwr := { s.pwr with loaded := true } }

/-- The records of a full recorder, all of one severity. -/
def tFull (sev : Nat) : SMap RecSlot := (List.range 4096).map fun i => (i, { held := true, body := { code := 0x2000 + i, sev := sev } })

theorem tFull_held {s : State} {sev : Nat} (h : s.rcd.slots = tFull sev) : heldSlots s = tFull sev := by
  unfold heldSlots
  rw [h, List.filter_eq_self]
  intro p m
  obtain ⟨i, -, rfl⟩ := List.mem_map.mp m
  rfl

theorem tFull_slotOf {s : State} {sev code : Nat} (h : s.rcd.slots = tFull sev) (c : code < 0x2000) : slotOf s code = none := by
  unfold slotOf
  rw [tFull_held h, List.find?_eq_none.mpr, Option.map_none]
  intro p m
  obtain ⟨i, -, rfl⟩ := List.mem_map.mp m
  simp
  omega

theorem tFull_free {s : State} {sev : Nat} (h : s.rcd.slots = tFull sev) : freeSlot s = none := by
  unfold freeSlot recUsed
  rw [tFull_held h, if_pos (by simp [tFull])]

theorem tFull_none {s : State} {sev : Nat} (h : s.rcd.slots = tFull sev) : victim s sev = none := by
  unfold victim
  rw [tFull_held h, List.filter_eq_nil_iff.mpr]
  · rfl
  · intro p m
    obtain ⟨i, -, rfl⟩ := List.mem_map.mp m
    simp

theorem tFull_victim {s : State} (h : s.rcd.slots = tFull 1) : victim s 5 = some (0, { held := true, body := { code := 0x2000, sev := 1 } }) := by
  have key : ∀ (l : List Nat) (q : Nat × RecSlot), q.2.body.sev = 1 → q.2.body.lseq = 0 →
      (l.map fun i => (i, ({ held := true, body := { code := 0x2000 + i, sev := 1 } } : RecSlot))).foldl (fun best p =>
        match best with
        | none => some p
        | some q => if p.2.body.sev < q.2.body.sev || (p.2.body.sev = q.2.body.sev && p.2.body.lseq < q.2.body.lseq) then some p
                    else some q) (some q) = some q := by
    intro l
    induction l with
    | nil => intro q _ _; rfl
    | cons a l ih => intro q h1 h2; rw [List.map_cons, List.foldl_cons]; dsimp only; rw [if_neg (by simp [h1, h2])]; exact ih q h1 h2
  unfold victim
  rw [tFull_held h, List.filter_eq_self.mpr (by
    intro p m
    obtain ⟨i, -, rfl⟩ := List.mem_map.mp m
    rfl), tFull, List.range_succ_eq_map, List.map_cons, List.foldl_cons]
  exact key _ _ rfl rfl

/-- A recorder with a raise in its bobbin. -/
def tFullRec (slots : SMap RecSlot) : State :=
  { tLoaded tOn with rcd := { tOn.rcd with bobbin := [{ code := 0x0A01, sev := 5, value := 7, stamp := {} }], slots := slots } }

theorem tFullRec_slots (l : SMap RecSlot) : (tFullRec l).rcd.slots = l := rfl

theorem witness_StepRunsFront_2 : ∃ (s : State), s.pending = [] :=
  ⟨State.reset, by decide⟩

theorem witness_StepKeepsMemoryForm_1 : ∃ (s t : State), Memory.wf s.mem = true ∧ step s = .next t :=
  ⟨State.reset, tick State.reset, rfl, rfl⟩

theorem witness_BlockFrames_1 : ∃ (c : Instr) (s : State), (∀ r, c = .bankAccess r → r.offset + (if r.write then r.bytes.length else r.count) ≤ 0x200000) :=
  ⟨.bankAccess { master := 0xF, bank := 16, portB := false, service := false, offset := 0x1FFFFF, write := true, bytes := [7], count := 1, secure := true, rivals := [], collide := false }, tOn, fun r h => by cases h; decide⟩

theorem witness_LoomDecodeEncode_1 : ∃ (i : LInstr), lInstrOk i = true :=
  ⟨.cmp .geu { space := .imm, index := 0xFFFF }, by decide⟩

theorem witness_LoomDecodeEncode_2 : ∃ (w : Word) (i : LInstr), loomDecode w = some i :=
  ⟨0x70700012, .evt 7 0x12, by decide⟩

theorem witness_BankAccess_1 : ∃ (r : BankReq) (s : State), 0x200000 < r.offset + (if r.write then r.bytes.length else r.count) :=
  ⟨{ master := 0xF, bank := 16, portB := false, service := false, offset := 0x200000, write := true, bytes := [7], count := 1, secure := true, rivals := [], collide := false }, tOn, by decide⟩

theorem witness_BankAccess_2 : ∃ (r : BankReq) (s : State), granted r s ∧ r.write = true ∧ (r.collide && r.portB && 22 ≤ r.bank.val) = false ∧ Memory.wf s.mem = true :=
  ⟨{ master := 0xF, bank := 16, portB := false, service := false, offset := 0x1FFFFF, write := true, bytes := [7], count := 1, secure := true, rivals := [], collide := false }, tOn, by decide +kernel⟩

theorem witness_BankAccess_3 : ∃ (r : BankReq) (s : State), granted r s ∧ r.write = false ∧ r.err = .corrected :=
  ⟨{ master := 0xF, bank := 16, portB := false, service := false, offset := 0x1FFFFF, write := false, bytes := [7], count := 1, secure := false, rivals := [], collide := false, err := .corrected }, tOn, by decide +kernel⟩

theorem witness_BankAccess_4 : ∃ (r : BankReq) (s : State), granted r s ∧ r.write = false ∧ r.err = .uncorrectable :=
  ⟨{ master := 0xF, bank := 16, portB := false, service := false, offset := 0x1FFFFF, write := false, bytes := [7], count := 1, secure := false, rivals := [], collide := false, err := .uncorrectable }, tOn, by decide +kernel⟩

theorem witness_BankAccess_5 : ∃ (r : BankReq) (s : State), granted r s ∧ r.write = false ∧ r.err = .parity :=
  ⟨{ master := 0xF, bank := 16, portB := false, service := false, offset := 0x1FFFFF, write := false, bytes := [7], count := 1, secure := false, rivals := [], collide := false, err := .parity }, tOn, by decide +kernel⟩

theorem witness_BankAccess_6 : ∃ (r : BankReq) (n : Nat) (s : State), granted r s ∧ r.write = false ∧ r.err = .late n :=
  ⟨{ master := 0xF, bank := 16, portB := false, service := false, offset := 0x1FFFFF, write := false, bytes := [7], count := 1, secure := false, rivals := [], collide := false, err := .late 2 }, 2, tOn, by decide +kernel⟩

theorem witness_BankAccess_7 : ∃ (r : BankReq) (s : State), granted r s ∧ r.write = false ∧ r.err = .clean :=
  ⟨{ master := 0xF, bank := 16, portB := false, service := false, offset := 0x1FFFFF, write := false, bytes := [7], count := 1, secure := false, rivals := [], collide := false }, tOn, by decide +kernel⟩

theorem witness_BankAccess_8 : ∃ (r : BankReq) (s : State), granted r s ∧ r.write = true ∧ r.collide = true ∧ r.portB = true ∧ 22 ≤ r.bank.val :=
  ⟨{ master := 0xF, bank := 23, portB := true, service := false, offset := 0, write := true, bytes := [7], count := 1, secure := true, rivals := [], collide := true }, tOn, by decide +kernel⟩

theorem witness_BankAccess_9 : ∃ (r : BankReq) (s : State), r.offset + (if r.write then r.bytes.length else r.count) ≤ 0x200000 ∧ bankOn s r.bank.val = true ∧ portServes s r.bank r.portB r.master r.service r.write = false ∧ (r.service = true ∨ portOwner s r.bank r.portB ≠ r.master.val) :=
  ⟨{ master := 0xE, bank := 16, portB := false, service := false, offset := 0x1FFFFF, write := false, bytes := [7], count := 1, secure := false, rivals := [], collide := false }, tOn, by decide +kernel⟩

theorem witness_BankAccess_10 : ∃ (r : BankReq) (g : Nat) (s : State), r.offset + (if r.write then r.bytes.length else r.count) ≤ 0x200000 ∧ bankOn s r.bank.val = true ∧ portServes s r.bank r.portB r.master r.service r.write = true ∧ bankBeats s r = false ∧ regionRefuses s (reqSecure r) r.write (bankBase r.bank + r.offset) = some g :=
  ⟨{ master := 0xF, bank := 16, portB := false, service := false, offset := 0x1FFFFF, write := false, bytes := [7], count := 1, secure := false, rivals := [], collide := false }, 8, { tOn with sec := { tOn.sec with regions := [(8, { base := (bankBase 16 + 0x1FFFFF) / 4096, limit := (bankBase 16 + 0x1FFFFF) / 4096, en := true, rdS := true })] } }, by decide +kernel⟩

theorem witness_BankAccess_11 : ∃ (r : BankReq) (s : State), r.offset + (if r.write then r.bytes.length else r.count) ≤ 0x200000 ∧ bankOn s r.bank.val = true ∧ portServes s r.bank r.portB r.master r.service r.write = true ∧ bankBeats s r = true :=
  ⟨{ master := 0xC, bank := 8, portB := false, service := true, offset := 0x1FFFFF, write := true, bytes := [7], count := 1, secure := false, rivals := [(8, false)], collide := false }, tOn, by decide +kernel⟩

theorem witness_BankAccess_12 : ∃ (r : BankReq) (s : State), r.offset + (if r.write then r.bytes.length else r.count) ≤ 0x200000 ∧ bankOn s r.bank.val = true ∧ r.service = false ∧ portOwner s r.bank r.portB = r.master.val ∧ (hedBank s r.bank).pend = true ∧ r.portB = false :=
  ⟨{ master := 0xF, bank := 16, portB := false, service := false, offset := 0x1FFFFF, write := false, bytes := [7], count := 1, secure := false, rivals := [], collide := false }, setHed 16 (fun k => { k with pend := true, req := 0x1F }) tOn, by decide +kernel⟩

theorem witness_BankAndCrossingCommands_1 : ∃ (b : Fin 24) (s : State), fabricOn s = true ∧ (hedBank s b).pend = true ∧ (hedBank s b).stuck = false ∧ (hedBank s b).owner ≠ 0x10 ∧ (hedBank s b).back = none :=
  ⟨16, setHed 16 (fun k => { k with pend := true, req := 0x1F }) tOn, by decide +kernel⟩

theorem witness_BankAndCrossingCommands_2 : ∃ (b : Fin 24) (s : State), (hedBank s b).owner = 0x10 ∧ (hedBank s b).pend = true :=
  ⟨20, setHed 20 (fun k => { k with owner := 0x10, pend := true, req := 0xC }) tOn, by decide +kernel⟩

theorem witness_BankAndCrossingCommands_3 : ∃ (g : Fin 25) (s : State), (vget s.hed.toggles g).busy = true ∧ (vget s.hed.toggles g).held = false :=
  ⟨17, { tOn with hed := { tOn.hed with toggles := Vector.replicate 25 { busy := true } } }, by decide⟩

theorem witness_BankAndCrossingCommands_4 : ∃ (g : Fin 25) (s : State), (vget s.hed.toggles g).busy = true ∧ (vget s.hed.toggles g).held = true ∧ g.val = 17 ∧ ethOn s = true :=
  ⟨17, { tOn with hed := { tOn.hed with toggles := Vector.replicate 25 { busy := true, held := true } } }, by decide⟩

theorem witness_BankAndCrossingCommands_5 : ∃ (b : Fin 24) (s : State), fabricOn s = true ∧ (hedBank s b).pend = true ∧ (hedBank s b).stuck = false ∧ (hedBank s b).owner ≠ 0x10 ∧ s.zor.phase ≠ .prepare :=
  ⟨16, setHed 16 (fun k => { k with pend := true, req := 0x1F }) tOn, by decide +kernel⟩

theorem witness_BankAndCrossingCommands_6 : ∃ (b : Fin 24) (s : State), fabricOn s = true ∧ (hedBank s b).pend = true ∧ (hedBank s b).stuck = false ∧ (hedBank s b).owner ≠ 0x10 ∧ bankMovable b = true ∧ s.zor.phase = .prepare :=
  ⟨21, setZor (fun z => { z with phase := .prepare }) (setHed 21 (fun k => { k with pend := true, req := 0xC }) tOn), by decide +kernel⟩

theorem witness_BankAndCrossingCommands_7 : ∃ (g : Fin 25) (words : Nat) (s : State), fabricOn s = true :=
  ⟨24, 3, tOn, by decide⟩

theorem witness_RefusedDescriptor_1 : ∃ (p : Desc → Bool) (h : HostData) (f : Flight) (a : Ans) (s : State), nextDesc s = some f ∧ p f.desc = true ∧ hk0Runs s = true ∧ f.poison = false ∧ (0 < dataLen f.desc → h.mark = .good) ∧ refusal s (ringSecure s f.ring) f.desc (some (hostBytes f.desc h)) = some a :=
  ⟨(fun _ => true), { bytes := [], mark := .good }, tFl { op := 4 }, { status := stDenied, result := some 1 }, tDesc { op := 4 } tOn, by decide +kernel⟩

theorem witness_RefusedDescriptor_2 : ∃ (p : Desc → Bool) (h : HostData) (f : Flight) (r : Nat × Nat) (s : State), nextDesc s = some f ∧ p f.desc = true ∧ hk0Runs s = true ∧ f.poison = false ∧ (0 < dataLen f.desc → h.mark = .good) ∧ refusal s (ringSecure s f.ring) f.desc (some (hostBytes f.desc h)) = none ∧ dataRefused s (ringSecure s f.ring) f.desc = some r :=
  ⟨(fun _ => true), { bytes := [1, 2, 3, 4], mark := .good }, { no := 1, ring := 0, desc := { op := 8, addr := 8, arg1 := 4, arg2 := 8 } }, (8, Config.stageAddr + 8), { tOn with shu := { tOn.shu with flights := [{ no := 1, ring := 0, desc := { op := 8, addr := 8, arg1 := 4, arg2 := 8 } }] }, sec := { tOn.sec with regions := [(8, { limit := (Config.stageAddr + 8) / 4096, en := true, wrS := true })] } }, by exact ⟨by decide +kernel, by decide +kernel, by decide +kernel, by decide +kernel, by decide +kernel, by simp [dataRefused, imageRegions, dataAddrs, dataWrites, unitStarts, regionCovers, ringSecure, tOn]; decide +kernel⟩⟩

theorem witness_RefusedDescriptor_3 : ∃ (d : Desc) (w : Bool) (b : Option (List Byte)) (s : State), d.op ≠ 0x0A ∧ d.op ≠ 0x41 ∧ d.op ≠ 0x50 :=
  ⟨{ op := 1 }, true, none, tOn, by decide⟩

theorem witness_RefusedDescriptor_4 : ∃ (f : Flight) (s : State), nextDesc s = some f ∧ hk0Runs s = true ∧ opSpec f.desc.op = none ∧ f.poison = false :=
  ⟨tFl { op := 4 }, tDesc { op := 4 } tOn, by decide +kernel⟩

theorem witness_RefusedDescriptor_5 : ∃ (p : Desc → Bool) (h : HostData) (f : Flight) (s : State), nextDesc s = some f ∧ p f.desc = true ∧ hk0Runs s = true ∧ f.poison = false ∧ h.mark = .poisoned ∧ 0 < dataLen f.desc ∧ refusal s (ringSecure s f.ring) f.desc none = none :=
  ⟨(fun _ => true), { bytes := [], mark := .poisoned }, tFl { op := 8, addr := 8, arg1 := 4, arg2 := 8 }, tDesc { op := 8, addr := 8, arg1 := 4, arg2 := 8 } tOn, by decide +kernel⟩

theorem witness_RefusedDescriptor_6 : ∃ (p : Desc → Bool) (h : HostData) (f : Flight) (s : State), nextDesc s = some f ∧ p f.desc = true ∧ hk0Runs s = true ∧ f.poison = false ∧ h.mark = .parityBad ∧ 0 < dataLen f.desc ∧ refusal (parityFail 12 s) (ringSecure s f.ring) f.desc none = none :=
  ⟨(fun _ => true), { bytes := [], mark := .parityBad }, tFl { op := 8, addr := 8, arg1 := 4, arg2 := 8 }, tDesc { op := 8, addr := 8, arg1 := 4, arg2 := 8 } tOn, by decide +kernel⟩

theorem witness_RefusedDescriptor_7 : ∃ (p : Desc → Bool) (h : HostData) (f : Flight) (s : State), nextDesc s = some f ∧ p f.desc = true ∧ hk0Runs s = true ∧ f.poison = true ∧ refusal s (ringSecure s f.ring) f.desc none = none :=
  ⟨(fun _ => true), { bytes := [], mark := .good }, { tFl { op := 0 } with poison := true }, { tOn with shu := { tOn.shu with flights := [{ tFl { op := 0 } with poison := true }] } }, by decide +kernel⟩

theorem witness_RegisterAccess_1 : ∃ (fn : Func) (o : BitVec 16) (v : Word) (s : State), reaches fn (o.toNat / 4 * 4) s :=
  ⟨.f1, 0x428, 1, tRing {}, by decide⟩

theorem witness_RegisterAccess_3 : ∃ (o : BitVec 16) (v : Word) (s : State), linkOn s = true ∧ regGate s false (o.toNat / 4 * 4) = .denied :=
  ⟨0x6810, 1, tRing {}, by decide⟩

theorem witness_RegisterAccess_4 : ∃ (o : BitVec 16) (v : Word) (s : State), s.shu.sess.state ≠ .open ∧ sessReg (o.toNat / 4 * 4) = false :=
  ⟨0x6810, 1, tOn, by decide⟩

theorem witness_RegisterAccess_5 : ∃ (fn : Func) (r : Fin 64) (o : BitVec 12) (v : Word) (s : State), ringOpen fn r s :=
  ⟨.f1, 56, 0x20, 0, tRing {}, by decide⟩

theorem witness_RegisterAccess_6 : ∃ (fn : Func) (o : BitVec 16) (s : State), linkOn s = true ∧ fnShut fn (o.toNat / 4 * 4) s = false ∧ regGate s (fn = .f1) (o.toNat / 4 * 4) = .reach :=
  ⟨.f1, 0x410, tRing {}, by decide⟩

theorem witness_RegisterAccess_7 : ∃ (fn : Func) (r : Fin 64) (o : BitVec 12) (f : ReadForm) (s : State), ringOpen fn r s :=
  ⟨.f1, 56, 0x28, .one, tRing {}, by decide⟩

theorem witness_RegisterRowCommands_1 : ∃ (fn : Func) (v : Word) (s : State), reaches fn 0x1C00 s :=
  ⟨.f1, 255, tRing {}, by decide⟩

theorem witness_RegisterRowCommands_2 : ∃ (fn : Func) (v : Word) (s : State), reaches fn 0x4108 s ∧ v.getLsbD 0 = true :=
  ⟨.f1, 1, tRing {}, by decide⟩

theorem witness_RegisterRowCommands_3 : ∃ (fn : Func) (v : Word) (s : State), reaches fn 0x411C s ∧ s.tim.auto = false :=
  ⟨.f1, 0x80000000, { tRing {} with tim := { (tRing {}).tim with auto := false } }, by decide⟩

theorem witness_RegisterRowCommands_4 : ∃ (fn : Func) (v : Word) (s : State), reaches fn 0x4894 s :=
  ⟨.f1, 511, tRing {}, by decide⟩

theorem witness_RegisterRowCommands_5 : ∃ (fn : Func) (b : Fin 24) (v : Word) (s : State), reaches fn (0x2000 + 4 * b.val) s ∧ 16 ≤ b.val ∧ b.val ≤ 21 :=
  ⟨.f1, 21, 0xC00, tRing {}, by decide⟩

theorem witness_RegisterRowCommands_6 : ∃ (fn : Func) (v : Word) (s : State), reaches fn 0x6810 s :=
  ⟨.f1, 63, tRing {}, by decide⟩

theorem witness_RegisterRowCommands_7 : ∃ (fn : Func) (v : Word) (s : State), reaches fn 0x5900 s :=
  ⟨.f1, 0, tRing {}, by decide⟩

theorem witness_RegisterRowCommands_8 : ∃ (fn : Func) (v : Word) (s : State), reaches fn 0x5908 s :=
  ⟨.f1, 1, tRing {}, by decide⟩

theorem witness_RegisterRowCommands_9 : ∃ (fn : Func) (v : Word) (s : State), reaches fn 0x7000 s ∧ v.getLsbD 31 = true ∧ s.pwr.testing = [] ∧ (unitList s).contains (v.toNat % 256) = true ∧ (s.mir.decided && (s.mir.role = .active || (s.mir.role = .alone && anyRunning s))) = false :=
  ⟨.f1, 0x80000000, { tRing {} with sec := { (tRing {}).sec with life := .manufacture } }, by decide⟩

theorem witness_RegisterRowCommands_10 : ∃ (fn : Func) (v : Word) (s : State), reaches fn 0x7000 s ∧ v.getLsbD 31 = true ∧ (s.pwr.testing ≠ [] ∨ (unitList s).contains (v.toNat % 256) = false) :=
  ⟨.f1, 0x800000FF, { tRing {} with sec := { (tRing {}).sec with life := .manufacture } }, by decide⟩

theorem witness_RegisterRowCommands_11 : ∃ (fn : Func) (v : Word) (s : State), reaches fn 0x420 s :=
  ⟨.f1, 255, tRing {}, by decide⟩

theorem witness_RegisterRowCommands_12 : ∃ (fn : Func) (v : Word) (s : State), reaches fn 0x414 s ∧ bits v.toNat 12 4 = 1 ∧ bits v.toNat 16 16 = 0x5AA5 ∧ groupPermitted (v.toNat % 256) = true ∧ s.pwr.phase = .run ∧ s.pwr.testing = [] :=
  ⟨.f0, 0x5aa51011, tOn, by decide⟩

theorem witness_RegisterRowCommands_13 : ∃ (fn : Func) (v : Word) (s : State), reaches fn 0x414 s ∧ bits v.toNat 12 4 = 1 ∧ bits v.toNat 16 16 = 0x5AA5 ∧ groupPermitted (v.toNat % 256) = false ∧ s.pwr.phase ≠ .halt :=
  ⟨.f0, 0x5aa5100e, tOn, by decide⟩

theorem witness_RegisterRowCommands_14 : ∃ (fn : Func) (v : Word) (s : State), reaches fn 0x414 s ∧ bits v.toNat 12 4 = 2 ∧ bits v.toNat 16 16 = 0x5AA5 ∧ fn = .f1 ∧ s.pwr.phase ≠ .halt :=
  ⟨.f1, 0x5aa52000, tRing {}, by decide⟩

theorem witness_RegisterRowCommands_15 : ∃ (fn : Func) (v : Word) (s : State), reaches fn 0x414 s ∧ bits v.toNat 12 4 = 2 ∧ bits v.toNat 16 16 = 0x5AA5 ∧ fn = .f0 :=
  ⟨.f0, 0x5aa52000, tOn, by decide⟩

theorem witness_RegisterRowCommands_16 : ∃ (fn : Func) (v : Word) (s : State), reaches fn 0x414 s ∧ bits v.toNat 12 4 = 3 ∧ bits v.toNat 16 16 = 0x5AA5 ∧ fn = .f1 ∧ s.pwr.phase ≠ .halt :=
  ⟨.f1, 0x5aa53000, tRing {}, by decide⟩

theorem witness_RegisterRowCommands_17 : ∃ (fn : Func) (v : Word) (s : State), reaches fn 0x414 s ∧ bits v.toNat 12 4 = 4 ∧ bits v.toNat 16 16 = 0x5AA5 ∧ fn = .f1 ∧ s.pwr.phase ≠ .halt :=
  ⟨.f1, 0x5aa54000, tRing {}, by decide⟩

theorem witness_RegisterRowCommands_18 : ∃ (fn : Func) (v : Word) (s : State), reaches fn 0x414 s ∧ bits v.toNat 12 4 = 1 ∧ bits v.toNat 16 16 ≠ 0x5AA5 :=
  ⟨.f0, 0x1000, tOn, by decide⟩

theorem witness_DigitalInputsTakeEdges_1 : ∃ (c : Fin 32) (v : Bool) (s : State), fieldOn s = true ∧ dioPresent s c = true :=
  ⟨0, true, tOn, by decide⟩

theorem witness_DigitalInputsTakeEdges_2 : ∃ (c : Fin 32) (s : State), fieldOn s = true ∧ (vget s.dio c).timer.isSome = true ∧ dioRaw (vget s.dio c) ≠ (vget s.dio c).deb :=
  ⟨0, tDio { cfg := { mode := 1 }, term := true, timer := some (0, 0, true) } {}, by decide⟩

theorem witness_DigitalSupplyCommands_1 : ∃ (b : Fin 4) (v : BankSupply) (s : State), fieldOn s = true ∧ b.val < bankCount s ∧ (vget s.dbank b).low = false :=
  ⟨0, { filtered := 1500, lowest := 1400 }, tOn, by decide⟩

theorem witness_DigitalSupplyCommands_2 : ∃ (b : Fin 4) (v : BankSupply) (s : State), fieldOn s = true ∧ b.val < bankCount s ∧ (vget s.dbank b).low = true :=
  ⟨0, { filtered := 1500, lowest := 1400 }, tDio {} { low := true }, by decide⟩

theorem witness_DigitalSupplyCommands_3 : ∃ (b : Fin 4) (s : State), fieldOn s = true ∧ b.val < bankCount s ∧ (vget s.dbank b).vKnown = true ∧ (vget s.dbank b).warn = false :=
  ⟨0, tDio {} {}, by decide⟩

theorem witness_DigitalSupplyCommands_4 : ∃ (b : Fin 4) (s : State), fieldOn s = true ∧ b.val < bankCount s ∧ (vget s.dbank b).vKnown = true ∧ (vget s.dbank b).low = false :=
  ⟨0, tDio {} {}, by decide⟩

theorem witness_DigitalSupplyCommands_5 : ∃ (b : Fin 4) (s : State), fieldOn s = true ∧ b.val < bankCount s ∧ (vget s.dbank b).vKnown = true ∧ (vget s.dbank b).uvOff = false :=
  ⟨0, tDio {} {}, by decide⟩

theorem witness_DigitalSupplyCommands_6 : ∃ (b : Fin 4) (s : State), fieldOn s = true ∧ b.val < bankCount s ∧ (vget s.dbank b).vKnown = true ∧ (vget s.dbank b).high = false :=
  ⟨0, tDio {} {}, by decide⟩

theorem witness_DigitalSupplyCommands_7 : ∃ (b : Fin 4) (s : State), fieldOn s = true ∧ b.val < bankCount s ∧ (vget s.dbank b).vKnown = true :=
  ⟨0, tDio {} {}, by decide⟩

theorem witness_DigitalSupplyCommands_8 : ∃ (b : Fin 4) (s : State), fieldOn s = true ∧ b.val < bankCount s ∧ (vget s.dbank b).vKnown = true :=
  ⟨0, tDio {} { }, by decide⟩

theorem witness_DigitalSupplyCommands_9 : ∃ (b : Fin 4) (s : State), fieldOn s = true ∧ b.val < bankCount s ∧ (vget s.dbank b).vKnown = true ∧ (vget s.dbank b).low = true :=
  ⟨0, tDio {} { low := true }, by decide⟩

theorem witness_DigitalSupplyCommands_10 : ∃ (b : Fin 4) (s : State), fieldOn s = true ∧ b.val < bankCount s ∧ (vget s.dbank b).vKnown = true ∧ (vget s.dbank b).uvOff = true :=
  ⟨0, tDio {} { uvOff := true }, by decide⟩

theorem witness_DigitalSupplyCommands_11 : ∃ (b : Fin 4) (s : State), fieldOn s = true ∧ b.val < bankCount s ∧ (vget s.dbank b).vKnown = true :=
  ⟨0, tDio {} { }, by decide⟩

theorem witness_DigitalSupplyCommands_12 : ∃ (b : Fin 4) (s : State), fieldOn s = true ∧ b.val < bankCount s ∧ (vget s.dbank b).vKnown = true :=
  ⟨0, tDio {} { }, by decide⟩

theorem witness_DigitalUndervoltageOpensSwitches_1 : ∃ (b : Fin 4) (s : State), fieldOn s = true ∧ b.val < bankCount s ∧ (vget s.dbank b).vKnown = true ∧ (vget s.dbank b).uvOff = false :=
  ⟨0, tDio {} {}, by decide⟩

theorem witness_DigitalUndervoltageOpensSwitches_3 : ∃ (b : Fin 4) (s : State), fieldOn s = true ∧ b.val < bankCount s ∧ (vget s.dbank b).vKnown = true ∧ (vget s.dbank b).uvOff = false :=
  ⟨0, tDio {} {}, by decide⟩

theorem witness_DigitalProtectionCommands_1 : ∃ (b : Fin 4) (ma : Nat) (c : Fin 32) (s : State), fieldOn s = true ∧ b.val < bankCount s ∧ highestOn (setBank b (fun k => { k with ibank := ma, imax := max k.imax ma }) s) b = some c ∧ 3000 < ma :=
  ⟨0, 3001, 0, tDio { sw := true } {}, by decide⟩

theorem witness_DigitalProtectionCommands_2 : ∃ (c : Fin 32) (s : State), fieldOn s = true ∧ (vget s.dio c).sw = true ∧ (vget s.dio c).retries < 5 :=
  ⟨0, tDio { sw := true } {}, by decide⟩

theorem witness_DigitalProtectionCommands_3 : ∃ (c : Fin 32) (s : State), fieldOn s = true ∧ (vget s.dio c).sw = true ∧ 5 ≤ (vget s.dio c).retries :=
  ⟨0, tDio { sw := true, retries := 5 } {}, by decide⟩

theorem witness_DigitalProtectionCommands_4 : ∃ (c : Fin 32) (s : State), fieldOn s = true ∧ (vget s.dio c).prot = .retry :=
  ⟨0, tDio { prot := .retry } {}, by decide⟩

theorem witness_DigitalProtectionCommands_5 : ∃ (fn : Func) (b : Fin 4) (v : Word) (s : State), reaches fn (0x2818 + 0x40 * b.val) s :=
  ⟨.f0, 0, 1, tOn, by decide⟩

theorem witness_DigitalProtectionCommands_6 : ∃ (c : Fin 32) (s : State), fieldOn s = true ∧ dioOut (vget s.dio c) = true ∧ (vget s.dio c).cmd = true ∧ (vget s.dio c).sw = true ∧ (vget s.dio c).rbLow = false :=
  ⟨0, tDio { cfg := { mode := 3 }, cmd := true, sw := true } {}, by decide⟩

theorem witness_DigitalProtectionCommands_7 : ∃ (c : Fin 32) (s : State), fieldOn s = true ∧ (vget s.dbank (dioBankOf c)).live = true ∧ dioOut (vget s.dio c) = true ∧ (vget s.dio c).sw = false ∧ drives s = true ∧ s.mir.extWait = false ∧ (vget s.dio c).ext = false :=
  ⟨0, tDio { cfg := { mode := 3 } } {}, by decide⟩

theorem witness_DigitalProtectionCommands_8 : ∃ (c : Fin 32) (s : State), fieldOn s = true :=
  ⟨0, tOn, by decide⟩

theorem witness_DigitalProtectionCommands_9 : ∃ (c : Fin 32) (s : State), fieldOn s = true :=
  ⟨0, tOn, by decide⟩

theorem witness_DigitalProtectionCommands_10 : ∃ (c : Fin 32) (s : State), fieldOn s = true ∧ (vget s.dbank (dioBankOf c)).live = true ∧ (vget s.dio c).cfg.mode = 1 ∧ (vget s.dio c).cfg.wb = true ∧ (vget s.dbank (dioBankOf c)).low = false ∧ (vget s.dio c).wbrk = false :=
  ⟨0, tDio { cfg := { mode := 1, wb := true } } {}, by decide⟩

theorem witness_DigitalProtectionCommands_11 : ∃ (c : Fin 32) (s : State), fieldOn s = true ∧ (vget s.dio c).wbrk = true ∧ (vget s.dbank (dioBankOf c)).low = false :=
  ⟨0, tDio { wbrk := true } {}, by decide⟩

theorem witness_DigitalProtectionCommands_12 : ∃ (c : Fin 32) (s : State), fieldOn s = true ∧ s.mir.role = .standby ∧ (vget s.dbank (dioBankOf c)).live = true ∧ dioMismatch s c = true ∧ (vget s.dio c).disagree = false :=
  ⟨0, setMir (fun m => { m with role := .standby }) (tDio { cfg := { mode := 1 }, deb := true } {}), by decide⟩

theorem witness_DigitalProtectionCommands_14 : ∃ (c : Fin 32) (s : State), fieldOn s = true ∧ (vget s.dio c).sw = true :=
  ⟨0, tDio { sw := true } {}, by decide⟩

theorem witness_CurrentLoopCommands_1 : ∃ (c : Fin 16) (m : Conversion) (s : State), fieldOn s = true ∧ ((vget s.aio c).live = false ∨ (vget s.aio c).cfg.cmode = .unused) :=
  ⟨0, { pri := 1, sec := 1, vt := 1 }, tOn, by decide⟩

theorem witness_CurrentLoopCommands_2 : ∃ (c : Fin 16) (m : Conversion) (s : State), fieldOn s = true ∧ (vget s.aio c).live = true ∧ (vget s.aio c).cfg.cmode = .active :=
  ⟨0, { pri := 1, sec := 1, vt := 1 }, tAio { cfg := { cmode := .active } }, by decide⟩

theorem witness_CurrentLoopCommands_3 : ∃ (c : Fin 16) (m : Conversion) (s : State), fieldOn s = true ∧ (vget s.aio c).live = true ∧ (vget s.aio c).cfg.cmode = .passive :=
  ⟨0, { pri := 1, sec := 1, vt := 1 }, tAio { cfg := { cmode := .passive } }, by decide⟩

theorem witness_CurrentLoopCommands_4 : ∃ (c : Fin 16) (m : Mark) (s : State), aioUsed s (vget s.aio c) = true ∧ (vget s.aio c).cfg.cmode = .active ∧ (vget s.aio c).fltOn = true ∧ aioHolds (vget s.aio c) = false ∧ (vget s.aio c).fwdUntil = false :=
  ⟨0, .good, tAio { cfg := { cmode := .active }, fltOn := true, flt := 5000 }, by decide⟩

theorem witness_CurrentLoopCommands_5 : ∃ (c : Fin 16) (m : Mark) (s : State), aioUsed s (vget s.aio c) = true ∧ (vget s.aio c).cfg.cmode = .active ∧ aioHolds (vget s.aio c) = false ∧ (vget s.aio c).fwdUntil = true :=
  ⟨0, .poisoned, tAio { cfg := { cmode := .active }, fwdUntil := true }, by decide⟩

theorem witness_CurrentLoopCommands_6 : ∃ (c : Fin 16) (m : Mark) (s : State), aioUsed s (vget s.aio c) = true ∧ (vget s.aio c).cfg.cmode = .active ∧ aioHolds (vget s.aio c) = true :=
  ⟨0, .good, tAio { cfg := { cmode := .active }, short := true }, by decide⟩

theorem witness_CurrentLoopCommands_7 : ∃ (c : Fin 16) (m : Mark) (s : State), aioUsed s (vget s.aio c) = true ∧ (vget s.aio c).cfg.cmode = .passive ∧ (vget s.aio c).fltOn = true ∧ (vget s.aio c).iso = false :=
  ⟨0, .parityBad, tAio { cfg := { cmode := .passive }, fltOn := true, flt := 5000 }, by decide⟩

theorem witness_CurrentLoopCommands_8 : ∃ (b : Fin 4) (s : State), fieldOn s = true ∧ (vget s.aio (aioChOf b 0)).iso = false :=
  ⟨0, tOn, by decide⟩

theorem witness_CurrentLoopCommands_9 : ∃ (b : Fin 4) (s : State), fieldOn s = true ∧ (vget s.aio (aioChOf b 0)).iso = true ∧ (∀ i, (vget s.aio (aioChOf b i)).next = none) :=
  ⟨0, tAio { iso := true }, by decide⟩

theorem witness_CurrentLoopCommands_10 : ∃ (c : Fin 16) (s : State), aioUsed s (vget s.aio c) = true ∧ (vget s.aio c).cfg.cmode = .passive ∧ s.mir.role = .standby ∧ 48 < (((vget s.aio c).pri : Int) - (vget s.aio c).cmd).natAbs ∧ (vget s.aio c).disagree = false :=
  ⟨0, tStandby (tAio { cfg := { cmode := .passive }, pri := 49 }), by decide⟩

theorem witness_CurrentLoopCommands_11 : ∃ (c : Fin 16) (s : State), aioUsed s (vget s.aio c) = true ∧ (vget s.aio c).cfg.cmode = .active ∧ s.mir.role = .standby ∧ 500 < (vget s.aio c).pri ∧ (vget s.aio c).share = false :=
  ⟨0, tStandby (tAio { cfg := { cmode := .active }, pri := 501 }), by decide⟩

theorem witness_CurrentLoopCommands_13 : ∃ (c : Fin 16) (g : AioCfg) (s : State), fieldOn s = true ∧ (vget s.aio c).next = some g ∧ (vget s.aio c).changing = true ∧ (vget s.aio c).nextIso = false :=
  ⟨0, {}, tAio { next := some {}, changing := true }, by decide⟩

theorem witness_CurrentLoopCommands_14 : ∃ (b : Fin 4) (s : State), b.val < bankCount s :=
  ⟨0, tOn, by decide⟩

theorem witness_CurrentLoopCommands_16 : ∃ (b : Fin 4) (s : State), fieldOn s = true ∧ (vget s.dbank b).wdog = true :=
  ⟨0, tDio {} { wdog := true }, by decide⟩

theorem witness_CurrentLoopCommands_17 : ∃ (b : Fin 4) (s : State), fieldOn s = true :=
  ⟨0, tOn, by decide⟩

theorem witness_CurrentLoopCommands_18 : ∃ (c : Fin 16) (s : State), aioUsed s (vget s.aio c) = true ∧ (vget s.aio c).cfg.cmode = .active ∧ (vget s.aio c).mism = false :=
  ⟨0, tAio { cfg := { cmode := .active, ne43 := true }, mism := false }, by decide⟩

theorem witness_CurrentLoopCommands_19 : ∃ (c : Fin 16) (s : State), aioUsed s (vget s.aio c) = true ∧ (vget s.aio c).cfg.cmode = .active ∧ (vget s.aio c).mism = true :=
  ⟨0, tAio { cfg := { cmode := .active, ne43 := true }, mism := true }, by decide⟩

theorem witness_CurrentLoopCommands_20 : ∃ (c : Fin 16) (s : State), aioUsed s (vget s.aio c) = true ∧ (vget s.aio c).cfg.cmode = .passive ∧ (vget s.aio c).mism = false :=
  ⟨0, tAio { cfg := { cmode := .passive, ne43 := true }, mism := false }, by decide⟩

theorem witness_CurrentLoopCommands_21 : ∃ (c : Fin 16) (s : State), aioUsed s (vget s.aio c) = true ∧ (vget s.aio c).cfg.cmode = .passive ∧ (vget s.aio c).mism = true :=
  ⟨0, tAio { cfg := { cmode := .passive, ne43 := true }, mism := true }, by decide⟩

theorem witness_CurrentLoopCommands_22 : ∃ (c : Fin 16) (s : State), aioUsed s (vget s.aio c) = true ∧ (vget s.aio c).cfg.cmode = .active ∧ (vget s.aio c).cfg.ne43 = true ∧ (vget s.aio c).underI = false :=
  ⟨0, tAio { cfg := { cmode := .active, ne43 := true }, underI := false }, by decide⟩

theorem witness_CurrentLoopCommands_23 : ∃ (c : Fin 16) (s : State), aioUsed s (vget s.aio c) = true ∧ (vget s.aio c).cfg.cmode = .active ∧ (vget s.aio c).cfg.ne43 = true ∧ (vget s.aio c).underI = true :=
  ⟨0, tAio { cfg := { cmode := .active, ne43 := true }, underI := true }, by decide⟩

theorem witness_CurrentLoopCommands_24 : ∃ (c : Fin 16) (s : State), aioUsed s (vget s.aio c) = true ∧ (vget s.aio c).cfg.cmode = .active ∧ (vget s.aio c).cfg.ne43 = true ∧ (vget s.aio c).overI = false :=
  ⟨0, tAio { cfg := { cmode := .active, ne43 := true }, overI := false }, by decide⟩

theorem witness_CurrentLoopCommands_25 : ∃ (c : Fin 16) (s : State), aioUsed s (vget s.aio c) = true ∧ (vget s.aio c).cfg.cmode = .active ∧ (vget s.aio c).cfg.ne43 = true ∧ (vget s.aio c).overI = true :=
  ⟨0, tAio { cfg := { cmode := .active, ne43 := true }, overI := true }, by decide⟩

theorem witness_CurrentLoopCommands_26 : ∃ (c : Fin 16) (s : State), aioUsed s (vget s.aio c) = true ∧ (vget s.aio c).cfg.cmode = .active ∧ (vget s.aio c).cfg.ne43 = true ∧ (vget s.aio c).failLo = false :=
  ⟨0, tAio { cfg := { cmode := .active, ne43 := true }, failLo := false }, by decide⟩

theorem witness_CurrentLoopCommands_27 : ∃ (c : Fin 16) (s : State), aioUsed s (vget s.aio c) = true ∧ (vget s.aio c).cfg.cmode = .active ∧ (vget s.aio c).cfg.ne43 = true ∧ (vget s.aio c).failLo = true :=
  ⟨0, tAio { cfg := { cmode := .active, ne43 := true }, failLo := true }, by decide⟩

theorem witness_CurrentLoopCommands_28 : ∃ (c : Fin 16) (s : State), aioUsed s (vget s.aio c) = true ∧ (vget s.aio c).cfg.cmode = .active ∧ (vget s.aio c).cfg.ne43 = true ∧ (vget s.aio c).failHi = false :=
  ⟨0, tAio { cfg := { cmode := .active, ne43 := true }, failHi := false }, by decide⟩

theorem witness_CurrentLoopCommands_29 : ∃ (c : Fin 16) (s : State), aioUsed s (vget s.aio c) = true ∧ (vget s.aio c).cfg.cmode = .active ∧ (vget s.aio c).cfg.ne43 = true ∧ (vget s.aio c).failHi = true :=
  ⟨0, tAio { cfg := { cmode := .active, ne43 := true }, failHi := true }, by decide⟩

theorem witness_CurrentLoopCommands_30 : ∃ (c : Fin 16) (s : State), aioUsed s (vget s.aio c) = true ∧ (vget s.aio c).cfg.cmode = .active ∧ (vget s.aio c).short = false :=
  ⟨0, tAio { cfg := { cmode := .active, ne43 := true }, short := false }, by decide⟩

theorem witness_CurrentLoopCommands_31 : ∃ (c : Fin 16) (s : State), aioUsed s (vget s.aio c) = true ∧ (vget s.aio c).cfg.cmode = .active ∧ (vget s.aio c).short = true :=
  ⟨0, tAio { cfg := { cmode := .active, ne43 := true }, short := true }, by decide⟩

theorem witness_CurrentLoopCommands_32 : ∃ (c : Fin 16) (s : State), aioUsed s (vget s.aio c) = true ∧ (vget s.aio c).cfg.cmode = .passive ∧ (vget s.aio c).open_ = false ∧ (vget s.aio c).compl = false :=
  ⟨0, tAio { cfg := { cmode := .passive, ne43 := true }, compl := false }, by decide⟩

theorem witness_CurrentLoopCommands_33 : ∃ (c : Fin 16) (s : State), aioUsed s (vget s.aio c) = true ∧ (vget s.aio c).cfg.cmode = .passive ∧ (vget s.aio c).open_ = false ∧ (vget s.aio c).compl = true :=
  ⟨0, tAio { cfg := { cmode := .passive, ne43 := true }, compl := true }, by decide⟩

theorem witness_CurrentLoopCommands_34 : ∃ (c : Fin 16) (s : State), aioUsed s (vget s.aio c) = true ∧ (vget s.aio c).cfg.cmode = .passive ∧ (vget s.aio c).open_ = false :=
  ⟨0, tAio { cfg := { cmode := .passive } }, by decide⟩

theorem witness_CurrentLoopCommands_35 : ∃ (c : Fin 16) (s : State), aioUsed s (vget s.aio c) = true ∧ (vget s.aio c).cfg.cmode = .passive ∧ (vget s.aio c).open_ = true :=
  ⟨0, tAio { cfg := { cmode := .passive }, open_ := true }, by decide⟩

theorem witness_CurrentLoopCommands_36 : ∃ (c : Fin 16) (s : State), aioUsed s (vget s.aio c) = true ∧ (vget s.aio c).cfg.cmode = .passive ∧ (vget s.aio c).margLow = false :=
  ⟨0, tAio { cfg := { cmode := .passive, ne43 := true }, margLow := false }, by decide⟩

theorem witness_CurrentLoopCommands_37 : ∃ (c : Fin 16) (s : State), aioUsed s (vget s.aio c) = true ∧ (vget s.aio c).cfg.cmode = .passive ∧ (vget s.aio c).margLow = true :=
  ⟨0, tAio { cfg := { cmode := .passive, ne43 := true }, margLow := true }, by decide⟩

theorem witness_EncoderCommands_1 : ∃ (p : Fin 4) (s : State), encOn s = true ∧ (vget s.enc p).live = true ∧ (vget s.enc p).cfg.emode ≠ .unused ∧ (vget s.enc p).loss = false :=
  ⟨0, tEnc { cfg := { emode := .inc } }, by decide⟩

theorem witness_EncoderCommands_2 : ∃ (p : Fin 4) (s : State), encOn s = true :=
  ⟨0, tOn, by decide⟩

theorem witness_EncoderCommands_3 : ∃ (p : Fin 4) (s : State), encRuns s p .inc = true :=
  ⟨0, tEnc { cfg := { emode := .inc } }, by decide⟩

theorem witness_EncoderCommands_4 : ∃ (p : Fin 4) (ls : List EncLine) (s : State), encRuns s p .inc = true ∧ (vget s.enc p).cfg.zEn = true ∧ ((vget (encLines p ls s).enc p).cfg.refMode = 2 ∨ ((vget (encLines p ls s).enc p).cfg.refMode = 1 ∧ (vget (encLines p ls s).enc p).indexed = false)) :=
  ⟨0, [], tEnc { cfg := { emode := .inc, zEn := true, refMode := 2 } }, by decide⟩

theorem witness_EncoderCommands_5 : ∃ (p : Fin 4) (ls : List EncLine) (s : State), encRuns s p .inc = true ∧ (vget s.enc p).cfg.zEn = true ∧ ¬ ((vget (encLines p ls s).enc p).cfg.refMode = 2 ∨ ((vget (encLines p ls s).enc p).cfg.refMode = 1 ∧ (vget (encLines p ls s).enc p).indexed = false)) :=
  ⟨0, [], tEnc { cfg := { emode := .inc, zEn := true } }, by decide⟩

theorem witness_EncoderCommands_6 : ∃ (p : Fin 4) (s : State), encRuns s p .inc = true :=
  ⟨0, tEnc { cfg := { emode := .inc } }, by decide⟩

theorem witness_EncoderCommands_7 : ∃ (p : Fin 4) (s : State), encRuns s p .ssi = true :=
  ⟨0, tEnc { cfg := { emode := .ssi } }, by decide⟩

theorem witness_EncoderCommands_8 : ∃ (p : Fin 4) (f : SsiFrame) (s : State), encRuns s p .ssi = true ∧ (vget s.enc p).running = true ∧ ssiGood (vget s.enc p).cfg f = true :=
  ⟨0, { startBit := true, raw := 0, errorBit := false, highAfter := true, dtNs := 0 }, tEnc { cfg := { emode := .ssi }, running := true }, by decide⟩

theorem witness_EncoderCommands_9 : ∃ (p : Fin 4) (f : SsiFrame) (s : State), encRuns s p .ssi = true ∧ (vget s.enc p).running = true ∧ ssiGood (vget s.enc p).cfg f = false :=
  ⟨0, { startBit := false, raw := 0, errorBit := false, highAfter := true, dtNs := 0 }, tEnc { cfg := { emode := .ssi }, running := true }, by decide⟩

theorem witness_EncoderCommands_10 : ∃ (p : Fin 4) (ls : List EncLine) (w : Int) (ns : Nat) (s : State), encRuns s p .inc = true :=
  ⟨0, [], 0, 0, tEnc { cfg := { emode := .inc } }, by decide⟩

theorem witness_EncoderCommands_11 : ∃ (p : Fin 4) (l : EncLine) (w : Int) (ns : Nat) (s : State), encRuns s p .inc = true ∧ (vget s.enc p).levels = none :=
  ⟨0, { a := true, b := false, cycles := 9 }, 0, 0, tEnc { cfg := { emode := .inc, filt := 1 }, levels := none }, by decide⟩

theorem witness_EncoderCommands_12 : ∃ (p : Fin 4) (l : EncLine) (a b : Bool) (w : Int) (ns : Nat) (s : State), encRuns s p .inc = true ∧ (vget s.enc p).levels = some (a, b) ∧ l.a ≠ a ∧ l.b = b ∧ 0 < l.cycles ∧ (vget s.enc p).heldA ≤ (vget s.enc p).cfg.filt ∧ (vget s.enc p).cfg.filt + 1 ≤ (vget s.enc p).heldA + l.cycles :=
  ⟨0, { a := true, b := false, cycles := 2 }, false, false, 0, 0, tEnc { cfg := { emode := .inc, filt := 1 }, levels := some (false, false) }, by decide⟩

theorem witness_EncoderCommands_13 : ∃ (p : Fin 4) (l : EncLine) (a b : Bool) (w : Int) (ns : Nat) (s : State), encRuns s p .inc = true ∧ (vget s.enc p).levels = some (a, b) ∧ l.a = a ∧ l.b ≠ b ∧ 0 < l.cycles ∧ (vget s.enc p).heldB ≤ (vget s.enc p).cfg.filt ∧ (vget s.enc p).cfg.filt + 1 ≤ (vget s.enc p).heldB + l.cycles :=
  ⟨0, { a := true, b := true, cycles := 2 }, true, false, 0, 0, tEnc { cfg := { emode := .inc, filt := 1 }, levels := some (true, false) }, by decide⟩

theorem witness_EncoderCommands_14 : ∃ (p : Fin 4) (l : EncLine) (a b : Bool) (w : Int) (ns : Nat) (s : State), encRuns s p .inc = true ∧ (vget s.enc p).levels = some (a, b) ∧ l.a ≠ a ∧ l.b = b ∧ 0 < l.cycles ∧ (vget s.enc p).heldA + l.cycles ≤ (vget s.enc p).cfg.filt :=
  ⟨0, { a := true, b := false, cycles := 1 }, false, false, 0, 0, tEnc { cfg := { emode := .inc, filt := 1 }, levels := some (false, false) }, by decide⟩

theorem witness_EncoderCommands_15 : ∃ (p : Fin 4) (l : EncLine) (a b : Bool) (w : Int) (ns : Nat) (s : State), encRuns s p .inc = true ∧ (vget s.enc p).levels = some (a, b) ∧ l.a ≠ a ∧ l.b ≠ b ∧ 0 < l.cycles ∧ (vget s.enc p).heldA = (vget s.enc p).heldB ∧ (vget s.enc p).cfg.filt + 1 ≤ (vget s.enc p).heldA + l.cycles :=
  ⟨0, { a := true, b := true, cycles := 2 }, false, false, 0, 0, tEnc { cfg := { emode := .inc, filt := 1 }, levels := some (false, false) }, by decide⟩

theorem witness_EncoderCommands_16 : ∃ (p : Fin 4) (ls : List EncLine) (w : Int) (ns : Nat) (s : State), encRuns s p .ssi = true :=
  ⟨0, [], 0, 0, tEnc { cfg := { emode := .ssi } }, by decide⟩

theorem witness_EncoderCommands_17 : ∃ (fn : Func) (p : Fin 4) (v : Word) (s : State), reaches fn (0x3400 + 0x20 * p.val) s ∧ v.getLsbD 6 = true :=
  ⟨.f0, 0, 0x40, tOn, by decide⟩

theorem witness_FieldValueArithmetic_1 : ∃ (n : Nat), n < 2 ^ 128 :=
  ⟨2, by decide⟩

theorem witness_FieldValueArithmetic_2 : ∃ (n v : Nat), v < 2 ^ n :=
  ⟨3, 5, by decide⟩

theorem witness_FieldValueArithmetic_3 : ∃ (g : AioCfg) (x : Int), g.ne43 = true :=
  ⟨{ ne43 := true }, 0, by decide⟩

theorem witness_FieldValueArithmetic_4 : ∃ (g : AioCfg) (x : Int), g.ne43 = false :=
  ⟨{}, 0, by decide⟩

theorem witness_CanTrafficCommands_1 : ∃ (c : Fin 8) (s : State), canMayStart s c = true :=
  ⟨0, tCan { st := .service, tx := [tFrame] }, by decide⟩

theorem witness_CanTrafficCommands_2 : ∃ (c : Fin 8) (f : CanFrame) (r : List CanFrame) (v : Nat) (s : State), canOn s = true ∧ (vget s.can c).tx = f :: r ∧ (vget s.can c).onBus = true ∧ canMeasures (vget s.can c).cfg f = false :=
  ⟨0, tFrame, [], 0, tCan { st := .service, tx := [tFrame], onBus := true }, by decide⟩

theorem witness_CanTrafficCommands_3 : ∃ (c : Fin 8) (f : CanFrame) (r : List CanFrame) (v : Nat) (s : State), canOn s = true ∧ (vget s.can c).tx = f :: r ∧ (vget s.can c).onBus = true ∧ canMeasures (vget s.can c).cfg f = true ∧ v ≤ 127 :=
  ⟨0, tFdFrame, [], 127, tCan { st := .service, cfg := { tdcEn := true, fdEn := true }, tx := [tFdFrame], onBus := true }, by decide⟩

theorem witness_CanTrafficCommands_4 : ∃ (c : Fin 8) (f : CanFrame) (r : List CanFrame) (v : Nat) (s : State), canOn s = true ∧ (vget s.can c).tx = f :: r ∧ (vget s.can c).onBus = true ∧ canMeasures (vget s.can c).cfg f = true ∧ 127 < v :=
  ⟨0, tFdFrame, [], 128, tCan { st := .service, cfg := { tdcEn := true, fdEn := true }, tx := [tFdFrame], onBus := true }, by decide⟩

theorem witness_CanTrafficCommands_5 : ∃ (c : Fin 8) (f : CanFrame) (r : List CanFrame) (s : State), canOn s = true ∧ (vget s.can c).tx = f :: r ∧ (vget s.can c).onBus = true :=
  ⟨0, tFrame, [], tCan { st := .service, tx := [tFrame], onBus := true }, by decide⟩

theorem witness_CanTrafficCommands_6 : ∃ (c : Fin 8) (f : CanFrame) (r : List CanFrame) (l : Fin 7) (d a : Bool) (v : Option Nat) (m : Fin 33) (s : State), canOn s = true ∧ (vget s.can c).tx = f :: r ∧ (vget s.can c).onBus = true ∧ (canMeasures (vget s.can c).cfg f = false ∨ v = none) :=
  ⟨0, tFrame, [], 3, false, false, some 0, 1, tCan { st := .service, tx := [tFrame], onBus := true }, by decide⟩

theorem witness_CanTrafficCommands_7 : ∃ (c : Fin 8) (f : CanFrame) (r : List CanFrame) (l : Fin 7) (d a : Bool) (v : Nat) (m : Fin 33) (s : State), canOn s = true ∧ (vget s.can c).tx = f :: r ∧ (vget s.can c).onBus = true ∧ canMeasures (vget s.can c).cfg f = true ∧ v ≤ 127 :=
  ⟨0, tFdFrame, [], 4, false, false, 30, 0, tCan { st := .service, cfg := { tdcEn := true, fdEn := true }, tx := [tFdFrame], onBus := true }, by decide⟩

theorem witness_CanTrafficCommands_8 : ∃ (c : Fin 8) (f : CanFrame) (r : List CanFrame) (l : Fin 7) (d a : Bool) (v : Nat) (m : Fin 33) (s : State), canOn s = true ∧ (vget s.can c).tx = f :: r ∧ (vget s.can c).onBus = true ∧ canMeasures (vget s.can c).cfg f = true ∧ 127 < v :=
  ⟨0, tFdFrame, [], 3, false, false, 300, 0, tCan { st := .service, cfg := { tdcEn := true, fdEn := true }, tx := [tFdFrame], onBus := true }, by decide⟩

theorem witness_CanTrafficCommands_9 : ∃ (c : Fin 8) (f : CanIn) (s : State), canOn s = true ∧ canOnBus (vget s.can c) = true ∧ ((vget s.can c).cfg.fdEn || !f.frame.fdf) = true :=
  ⟨0, tIn, tCan { st := .service }, by decide⟩

theorem witness_CanTrafficCommands_10 : ∃ (c : Fin 8) (f : CanIn) (s : State), canOn s = true ∧ canOnBus (vget s.can c) = true ∧ (vget s.can c).cfg.fdEn = false ∧ f.frame.fdf = true :=
  ⟨0, { tIn with frame := tFdFrame }, tCan { st := .service }, by decide⟩

theorem witness_CanTrafficCommands_11 : ∃ (c : Fin 8) (e : Fin 256) (x : CanFilt) (s : State), canOn s = true ∧ (vget s.can c).filt[e.val]? = some x ∧ x.tmo ≠ 0 ∧ x.timed = false :=
  ⟨0, 0, { tmo := 5 }, tCan { filt := [{ tmo := 5 }] }, by decide⟩

theorem witness_CanTrafficCommands_12 : ∃ (c : Fin 8) (s : State), canOn s = true ∧ (vget s.can c).live = true ∧ 64 ≤ (vget s.can c).ackRun ∧ (vget s.can c).lonely = false :=
  ⟨0, tCan { ackRun := 64 }, by decide⟩

theorem witness_CanTrafficCommands_13 : ∃ (c : Fin 8) (l : Fin 7) (i : Fin 9) (s : State), canOn s = true ∧ canOnBus (vget s.can c) = true :=
  ⟨0, 1, 1, tCan { st := .service }, by decide⟩

theorem witness_CanTrafficCommands_14 : ∃ (c : Fin 8) (s : State), canOn s = true ∧ (vget s.can c).live = true ∧ ((vget s.can c).integ || (vget s.can c).leaving) = true ∧ (vget s.can c).st ≠ .wake ∧ drives s = false :=
  ⟨0, tStandby (tCan { integ := true }), by decide⟩

theorem witness_CanTrafficCommands_15 : ∃ (c : Fin 8) (s : State), canOn s = true ∧ (vget s.can c).live = true ∧ ((vget s.can c).integ || (vget s.can c).leaving) = true ∧ (vget s.can c).st ≠ .wake ∧ drives s = true ∧ (vget s.can c).integTo ≠ .sleep :=
  ⟨0, tCan { integ := true }, by decide⟩

theorem witness_CanTrafficCommands_16 : ∃ (c : Fin 8) (s : State), canOn s = true ∧ (vget s.can c).live = true ∧ ((vget s.can c).integ || (vget s.can c).leaving) = true ∧ (vget s.can c).st ≠ .wake ∧ drives s = true ∧ (vget s.can c).integTo = .sleep :=
  ⟨0, tCan { integ := true, integTo := .sleep }, by decide⟩

theorem witness_CanTrafficCommands_17 : ∃ (c : Fin 8) (s : State), canOn s = true ∧ (vget s.can c).st = .sleepEntry ∧ (vget s.can c).onBus = false ∧ (vget s.can c).wakeDue = false :=
  ⟨0, tCan { st := .sleepEntry }, by decide⟩

theorem witness_CanTrafficCommands_18 : ∃ (c : Fin 8) (s : State), canOn s = true ∧ (vget s.can c).st = .sleepEntry ∧ (vget s.can c).onBus = false ∧ (vget s.can c).wakeDue = true ∧ (vget s.can c).held = none :=
  ⟨0, tCan { st := .sleepEntry, wakeDue := true }, by decide⟩

theorem witness_CanTrafficCommands_20 : ∃ (c : Fin 8) (s : State), canOn s = true ∧ (vget s.can c).live = true ∧ (vget s.can c).cfg.wakeSel = false ∧ (vget s.can c).st = .sleep :=
  ⟨0, tCan { st := .sleep }, by decide⟩

theorem witness_CanTrafficCommands_21 : ∃ (c : Fin 8) (f : CanIn) (s : State), canOn s = true ∧ (vget s.can c).live = true ∧ (vget s.can c).cfg.wakeSel = true ∧ canWakeFrame (vget s.can c).cfg f = true ∧ (vget s.can c).st = .sleep :=
  ⟨0, { tIn with frame := { tFrame with data := [1, 2] }, dlc := 2 }, tCan { st := .sleep, cfg := { wakeSel := true, wakeId := 0x214, wakeMask := 0x7FF } }, by decide⟩

theorem witness_CanTrafficCommands_22 : ∃ (c : Fin 8) (f : CanIn) (s : State), canOn s = true ∧ (vget s.can c).live = true ∧ (vget s.can c).cfg.wakeSel = false ∧ (vget s.can c).st = .sleep :=
  ⟨0, tIn, tCan { st := .sleep }, by decide⟩

theorem witness_CanTrafficCommands_23 : ∃ (c : Fin 8) (s : State), canOn s = true ∧ (vget s.can c).live = true ∧ (vget s.can c).cfg.wakeSel = false ∧ (vget s.can c).st = .sleepEntry :=
  ⟨0, tCan { st := .sleepEntry }, by decide⟩

theorem witness_CanTrafficCommands_24 : ∃ (c : Fin 8) (s : State), canOn s = true ∧ (vget s.can c).st = .wake :=
  ⟨0, tCan { st := .wake }, by decide⟩

theorem witness_CanTrafficCommands_25 : ∃ (c : Fin 8) (s : State), ((vget s.can c).busOff = false ∨ (vget s.can c).integTo = .listen) :=
  ⟨0, tOn, by decide⟩

theorem witness_CanTrafficCommands_26 : ∃ (c : Fin 8) (s : State), (vget s.can c).busOff = true ∧ (vget s.can c).integTo ≠ .listen ∧ (vget s.can c).req = none :=
  ⟨0, tCan { busOff := true }, by decide⟩

theorem witness_CanTrafficCommands_27 : ∃ (c : Fin 8) (r : CanReq) (s : State), canOn s = true ∧ (vget s.can c).busOff = true ∧ (vget s.can c).recov = true ∧ (vget s.can c).req = some r ∧ (vget s.can c).st ≠ .sleepEntry ∧ (vget s.can c).st ≠ .sleep ∧ (vget s.can c).st ≠ .wake :=
  ⟨0, { want := .service, no := none }, tCan { busOff := true, recov := true, req := some { want := .service, no := none } }, by decide⟩

theorem witness_CanTrafficCommands_28 : ∃ (c : Fin 8) (s : State), canOn s = true ∧ (vget s.can c).busOff = true ∧ (vget s.can c).recov = true ∧ (vget s.can c).req = none ∧ (vget s.can c).st ≠ .sleepEntry ∧ (vget s.can c).st ≠ .sleep ∧ (vget s.can c).st ≠ .wake :=
  ⟨0, tCan { busOff := true, recov := true }, by decide⟩

theorem witness_CanTrafficCommands_29 : ∃ (c : Fin 8) (s : State), canOn s = true ∧ (vget s.can c).busOff = true ∧ (vget s.can c).recov = true ∧ (vget s.can c).st = .sleepEntry :=
  ⟨0, tCan { busOff := true, recov := true, st := .sleepEntry }, by decide⟩

theorem witness_CanTrafficCommands_30 : ∃ (c : Fin 8) (r : CanReq) (s : State), (vget s.can c).req = some r ∧ r.no.isSome = true :=
  ⟨0, { want := .service, no := some 3 }, tCan { req := some { want := .service, no := some 3 } }, by decide⟩

theorem witness_CanTrafficCommands_31 : ∃ (c : Fin 8) (r : CanReq) (s : State), (vget s.can c).req = none ∧ (vget s.can c).held = some r :=
  ⟨0, { want := .service, no := some 3 }, tCan { held := some { want := .service, no := some 3 } }, by decide⟩

theorem witness_CanTrafficCommands_32 : ∃ (c : Fin 8) (r q : CanReq) (s : State), (vget s.can c).req = some q ∧ q.no = none ∧ (vget s.can c).held = some r :=
  ⟨0, { want := .service, no := some 3 }, { want := .sleep, no := none }, tCan { req := some { want := .sleep, no := none }, held := some { want := .service, no := some 3 } }, by decide⟩

theorem witness_CanTrafficCommands_33 : ∃ (c : Fin 8) (s : State), canOn s = false :=
  ⟨0, State.reset, by decide⟩

theorem witness_CanFrameSentLeavesQueue_1 : ∃ (c : Fin 8) (f : CanFrame) (r : List CanFrame) (s : State), (vget s.can c).tx = f :: r ∧ (vget s.can c).st ≠ .test :=
  ⟨0, tFrame, [], tCan { st := .service, tx := [tFrame] }, by decide⟩

theorem witness_CanTransmitErrorCounts_1 : ∃ (c : Fin 8) (l : Nat) (d a : Bool) (m : Nat) (s : State), ¬ ((vget s.can c).passive = true ∧ l = 3 ∧ d = false) ∧ ¬ (l = 1 ∧ a = true) ∧ (vget s.can c).tec + 8 + 8 * m ≤ 255 :=
  ⟨0, 1, false, false, 2, tCan {}, by decide⟩

theorem witness_CanTransmitErrorCounts_2 : ∃ (c : Fin 8) (l : Nat) (d a : Bool) (m : Nat) (s : State), ¬ ((vget s.can c).passive = true ∧ l = 3 ∧ d = false) ∧ ¬ (l = 1 ∧ a = true) ∧ 255 < (vget s.can c).tec + 8 + 8 * m :=
  ⟨0, 1, false, false, 0, tCan { tec := 248 }, by decide⟩

theorem witness_CanTransmitErrorCounts_3 : ∃ (c : Fin 8) (d : Bool) (s : State), (vget s.can c).tec ≤ 255 :=
  ⟨0, true, tCan { tec := 255 }, by decide⟩

theorem witness_CanTransmitErrorCounts_4 : ∃ (c : Fin 8) (s : State), (vget s.can c).passive = true ∧ (vget s.can c).tec ≤ 255 :=
  ⟨0, tCan { passive := true, tec := 128 }, by decide⟩

theorem witness_LoomBitLogic_1 : ∃ (n : Fin 8) (o : BitOp) (s : State), settledAt n (.ld o) s :=
  ⟨0, tMb, tLoom {} (.ld tMb), by decide⟩

theorem witness_LoomBitLogic_2 : ∃ (n : Fin 8) (o : BitOp) (s : State), settledAt n (.ldn o) s :=
  ⟨0, tMb, tLoom {} (.ldn tMb), by decide⟩

theorem witness_LoomBitLogic_3 : ∃ (n : Fin 8) (o : BitOp) (s : State), settledAt n (.and o) s :=
  ⟨0, tMb, tLoom {} (.and tMb), by decide⟩

theorem witness_LoomBitLogic_4 : ∃ (n : Fin 8) (o : BitOp) (s : State), settledAt n (.andn o) s :=
  ⟨0, tMb, tLoom {} (.andn tMb), by decide⟩

theorem witness_LoomBitLogic_5 : ∃ (n : Fin 8) (o : BitOp) (s : State), settledAt n (.or o) s :=
  ⟨0, tMb, tLoom {} (.or tMb), by decide⟩

theorem witness_LoomBitLogic_6 : ∃ (n : Fin 8) (o : BitOp) (s : State), settledAt n (.orn o) s :=
  ⟨0, tMb, tLoom {} (.orn tMb), by decide⟩

theorem witness_LoomBitLogic_7 : ∃ (n : Fin 8) (o : BitOp) (s : State), settledAt n (.xor o) s :=
  ⟨0, tMb, tLoom {} (.xor tMb), by decide⟩

theorem witness_LoomBitLogic_8 : ∃ (n : Fin 8) (o : BitOp) (s : State), settledAt n (.xorn o) s :=
  ⟨0, tMb, tLoom {} (.xorn tMb), by decide⟩

theorem witness_LoomBitLogic_9 : ∃ (n : Fin 8) (s : State), settledAt n .not s :=
  ⟨0, tLoom {} .not, by decide⟩

theorem witness_LoomBitLogic_10 : ∃ (n : Fin 8) (s : State), settledAt n .set1 s :=
  ⟨0, tLoom {} .set1, by decide⟩

theorem witness_LoomBitLogic_11 : ∃ (n : Fin 8) (s : State), settledAt n .set0 s :=
  ⟨0, tLoom {} .set0, by decide⟩

theorem witness_LoomStacksAndControl_1 : ∃ (n : Fin 8) (s : State), settledAt n .nop s :=
  ⟨0, tLoom {} .nop, by decide⟩

theorem witness_LoomStacksAndControl_2 : ∃ (n : Fin 8) (p : BitVec 16) (s : State), settledAt n (.pick p) s ∧ (vget s.loom n).run.bst = [] :=
  ⟨0, 7, tLoom {} (.pick 7), by decide⟩

theorem witness_LoomStacksAndControl_3 : ∃ (n : Fin 8) (s : State), settledAt n .fin s ∧ (vget s.loom n).run.bst = [] ∧ (vget s.loom n).run.cst = [] ∧ (vget s.loom n).run.mcst = [] :=
  ⟨0, tLoom {} .fin, by decide⟩

theorem witness_LoomStacksAndControl_4 : ∃ (n : Fin 8) (s : State), settledAt n .andp s ∧ (vget s.loom n).run.bst.length < 32 :=
  ⟨0, tLoom { bst := List.replicate 31 (true, .or) } .andp, by decide⟩

theorem witness_LoomStacksAndControl_5 : ∃ (n : Fin 8) (s : State), settledAt n .orp s ∧ (vget s.loom n).run.bst.length < 32 :=
  ⟨0, tLoom { bst := List.replicate 31 (true, .or) } .orp, by decide⟩

theorem witness_LoomStacksAndControl_6 : ∃ (n : Fin 8) (s : State), settledAt n .bpsh s ∧ (vget s.loom n).run.bst.length < 32 :=
  ⟨0, tLoom { bst := List.replicate 31 (true, .or) } .bpsh, by decide⟩

theorem witness_LoomStacksAndControl_7 : ∃ (n : Fin 8) (v : Bool) (l : List (Bool × BKind)) (s : State), settledAt n .popb s ∧ (vget s.loom n).run.bst = (v, .and) :: l :=
  ⟨0, true, [], tLoom { bst := [(true, .and)] } .popb, by decide⟩

theorem witness_LoomStacksAndControl_8 : ∃ (n : Fin 8) (v : Bool) (l : List (Bool × BKind)) (s : State), settledAt n .popb s ∧ (vget s.loom n).run.bst = (v, .or) :: l :=
  ⟨0, true, [], tLoom { bst := [(true, .or)] } .popb, by decide⟩

theorem witness_LoomStacksAndControl_9 : ∃ (n : Fin 8) (v : Bool) (l : List (Bool × BKind)) (s : State), settledAt n .brd s ∧ (vget s.loom n).run.bst = (v, .keep) :: l :=
  ⟨0, true, [], tLoom { bst := [(true, .keep)] } .brd, by decide⟩

theorem witness_LoomStacksAndControl_10 : ∃ (n : Fin 8) (v : Bool) (l : List (Bool × BKind)) (s : State), settledAt n .bpop s ∧ (vget s.loom n).run.bst = (v, .keep) :: l :=
  ⟨0, true, [], tLoom { bst := [(true, .keep)] } .bpop, by decide⟩

theorem witness_LoomStacksAndControl_11 : ∃ (n : Fin 8) (s : State), settledAt n .mcs s ∧ (vget s.loom n).run.mcst.length < 8 :=
  ⟨0, tLoom { mcst := List.replicate 7 true } .mcs, by decide⟩

theorem witness_LoomStacksAndControl_12 : ∃ (n : Fin 8) (m : Bool) (l : List Bool) (s : State), settledAt n .mce s ∧ (vget s.loom n).run.mcst = m :: l :=
  ⟨0, false, [], tLoom { mcst := [false] } .mce, by decide⟩

theorem witness_LoomStacksAndControl_13 : ∃ (n : Fin 8) (t : BitVec 17) (s : State), settledAt n (.jmp t) s :=
  ⟨0, 131071, tLoom {} (.jmp 131071), by decide⟩

theorem witness_LoomStacksAndControl_14 : ∃ (n : Fin 8) (t : BitVec 17) (s : State), settledAt n (.jc t) s ∧ (vget s.loom n).run.ba = true :=
  ⟨0, 131071, tLoom {} (.jc 131071), by decide⟩

theorem witness_LoomStacksAndControl_15 : ∃ (n : Fin 8) (t : BitVec 17) (s : State), settledAt n (.jc t) s ∧ (vget s.loom n).run.ba = false :=
  ⟨0, 131071, tLoom { ba := false } (.jc 131071), by decide⟩

theorem witness_LoomStacksAndControl_16 : ∃ (n : Fin 8) (t : BitVec 17) (s : State), settledAt n (.jcn t) s ∧ (vget s.loom n).run.ba = false :=
  ⟨0, 131071, tLoom { ba := false } (.jcn 131071), by decide⟩

theorem witness_LoomStacksAndControl_17 : ∃ (n : Fin 8) (t : BitVec 17) (s : State), settledAt n (.jcn t) s ∧ (vget s.loom n).run.ba = true :=
  ⟨0, 131071, tLoom {} (.jcn 131071), by decide⟩

theorem witness_LoomStacksAndControl_18 : ∃ (n : Fin 8) (t : BitVec 17) (s : State), settledAt n (.call t) s ∧ (vget s.loom n).run.cst.length < 8 :=
  ⟨0, 131071, tLoom { cst := List.replicate 7 9 } (.call 131071), by decide⟩

theorem witness_LoomStacksAndControl_19 : ∃ (n : Fin 8) (t : BitVec 17) (s : State), settledAt n (.callc t) s ∧ (vget s.loom n).run.ba = true ∧ (vget s.loom n).run.cst.length < 8 :=
  ⟨0, 131071, tLoom { cst := List.replicate 7 9 } (.callc 131071), by decide⟩

theorem witness_LoomStacksAndControl_20 : ∃ (n : Fin 8) (t : BitVec 17) (s : State), settledAt n (.callc t) s ∧ (vget s.loom n).run.ba = false :=
  ⟨0, 131071, tLoom { ba := false } (.callc 131071), by decide⟩

theorem witness_LoomStacksAndControl_21 : ∃ (n : Fin 8) (a : Nat) (l : List Nat) (s : State), settledAt n .ret s ∧ (vget s.loom n).run.cst = a :: l ∧ a < 131072 :=
  ⟨0, 9, [], tLoom { cst := [9] } .ret, by decide⟩

theorem witness_LoomStacksAndControl_22 : ∃ (n : Fin 8) (s : State), settledAt n .andp s ∧ 32 ≤ (vget s.loom n).run.bst.length :=
  ⟨0, tLoom { bst := List.replicate 32 (true, .or) } .andp, by decide⟩

theorem witness_LoomStacksAndControl_23 : ∃ (n : Fin 8) (s : State), settledAt n .orp s ∧ 32 ≤ (vget s.loom n).run.bst.length :=
  ⟨0, tLoom { bst := List.replicate 32 (true, .or) } .orp, by decide⟩

theorem witness_LoomStacksAndControl_24 : ∃ (n : Fin 8) (s : State), settledAt n .bpsh s ∧ 32 ≤ (vget s.loom n).run.bst.length :=
  ⟨0, tLoom { bst := List.replicate 32 (true, .or) } .bpsh, by decide⟩

theorem witness_LoomStacksAndControl_25 : ∃ (n : Fin 8) (s : State), settledAt n .popb s ∧ (vget s.loom n).run.bst = [] :=
  ⟨0, tLoom {} .popb, by decide⟩

theorem witness_LoomStacksAndControl_26 : ∃ (n : Fin 8) (s : State), settledAt n .brd s ∧ (vget s.loom n).run.bst = [] :=
  ⟨0, tLoom {} .brd, by decide⟩

theorem witness_LoomStacksAndControl_27 : ∃ (n : Fin 8) (s : State), settledAt n .bpop s ∧ (vget s.loom n).run.bst = [] :=
  ⟨0, tLoom {} .bpop, by decide⟩

theorem witness_LoomStacksAndControl_28 : ∃ (n : Fin 8) (v : Bool) (l : List (Bool × BKind)) (s : State), settledAt n .popb s ∧ (vget s.loom n).run.bst = (v, .keep) :: l :=
  ⟨0, true, [], tLoom { bst := [(true, .keep)] } .popb, by decide⟩

theorem witness_LoomStacksAndControl_29 : ∃ (n : Fin 8) (v : Bool) (k : BKind) (l : List (Bool × BKind)) (s : State), settledAt n .brd s ∧ (vget s.loom n).run.bst = (v, k) :: l ∧ k ≠ .keep :=
  ⟨0, true, .or, [], tLoom { bst := [(true, .or)] } .brd, by decide⟩

theorem witness_LoomStacksAndControl_30 : ∃ (n : Fin 8) (v : Bool) (k : BKind) (l : List (Bool × BKind)) (s : State), settledAt n .bpop s ∧ (vget s.loom n).run.bst = (v, k) :: l ∧ k ≠ .keep :=
  ⟨0, true, .and, [], tLoom { bst := [(true, .and)] } .bpop, by decide⟩

theorem witness_LoomStacksAndControl_31 : ∃ (n : Fin 8) (p : BitVec 16) (s : State), settledAt n (.pick p) s ∧ (vget s.loom n).run.bst ≠ [] :=
  ⟨0, 5, tLoom { bst := [(true, .and)] } (.pick 5), by decide⟩

theorem witness_LoomStacksAndControl_32 : ∃ (n : Fin 8) (s : State), settledAt n .fin s ∧ (vget s.loom n).run.bst ≠ [] :=
  ⟨0, tLoom { bst := [(true, .and)] } .fin, by decide⟩

theorem witness_LoomStacksAndControl_33 : ∃ (n : Fin 8) (t : BitVec 17) (s : State), settledAt n (.call t) s ∧ 8 ≤ (vget s.loom n).run.cst.length :=
  ⟨0, 5, tLoom { cst := List.replicate 8 9 } (.call 5), by decide⟩

theorem witness_LoomStacksAndControl_34 : ∃ (n : Fin 8) (t : BitVec 17) (s : State), settledAt n (.callc t) s ∧ (vget s.loom n).run.ba = true ∧ 8 ≤ (vget s.loom n).run.cst.length :=
  ⟨0, 5, tLoom { cst := List.replicate 8 9 } (.callc 5), by decide⟩

theorem witness_LoomStacksAndControl_35 : ∃ (n : Fin 8) (s : State), settledAt n .ret s ∧ (vget s.loom n).run.cst = [] :=
  ⟨0, tLoom {} .ret, by decide⟩

theorem witness_LoomStacksAndControl_36 : ∃ (n : Fin 8) (s : State), settledAt n .mcs s ∧ 8 ≤ (vget s.loom n).run.mcst.length :=
  ⟨0, tLoom { mcst := List.replicate 8 true } .mcs, by decide⟩

theorem witness_LoomStacksAndControl_37 : ∃ (n : Fin 8) (s : State), settledAt n .mce s ∧ (vget s.loom n).run.mcst = [] :=
  ⟨0, tLoom {} .mce, by decide⟩

theorem witness_LoomStacksAndControl_38 : ∃ (n : Fin 8) (s : State), settledAt n .fin s ∧ (vget s.loom n).run.bst = [] ∧ ((vget s.loom n).run.cst ≠ [] ∨ (vget s.loom n).run.mcst ≠ []) :=
  ⟨0, tLoom { mcst := [true] } .fin, by decide⟩

theorem witness_LoomStacksAndControl_39 : ∃ (n : Fin 8) (s : State), loomRuns s n .nop = true ∧ (vget s.loom n).mode = .settled ∧ 131071 ≤ (vget s.loom n).run.pc :=
  ⟨0, tLoom { pc := 131071 } .nop, by decide⟩

theorem witness_LoomStores_1 : ∃ (n : Fin 8) (o : BitOp) (s : State), settledAt n (.st o) s ∧ jRoom n 1 s :=
  ⟨0, tMb, tLoom {} (.st tMb), by decide⟩

theorem witness_LoomStores_2 : ∃ (n : Fin 8) (o : BitOp) (s : State), settledAt n (.stn o) s ∧ jRoom n 1 s :=
  ⟨0, tMb, tLoom {} (.stn tMb), by decide⟩

theorem witness_LoomStores_3 : ∃ (n : Fin 8) (o : BitOp) (s : State), settledAt n (.setb o) s ∧ inAt n s = true ∧ jRoom n 1 s :=
  ⟨0, tMb, tLoom {} (.setb tMb), by decide⟩

theorem witness_LoomStores_4 : ∃ (n : Fin 8) (o : BitOp) (s : State), settledAt n (.setb o) s ∧ inAt n s = false :=
  ⟨0, tMb, tLoom { ba := false } (.setb tMb), by decide⟩

theorem witness_LoomStores_5 : ∃ (n : Fin 8) (o : BitOp) (s : State), settledAt n (.rstb o) s ∧ inAt n s = true ∧ jRoom n 1 s :=
  ⟨0, tMb, tLoom {} (.rstb tMb), by decide⟩

theorem witness_LoomStores_6 : ∃ (n : Fin 8) (o : BitOp) (s : State), settledAt n (.rstb o) s ∧ inAt n s = false :=
  ⟨0, tMb, tLoom { mc := false } (.rstb tMb), by decide⟩

theorem witness_LoomStores_7 : ∃ (n : Fin 8) (o : WordOp) (s : State), settledAt n (.stw o) s ∧ (vget s.loom n).run.mc = true ∧ jRoom n 1 s :=
  ⟨0, { space := .mw, index := 5 }, tLoom {} (.stw { space := .mw, index := 5 }), by decide⟩

theorem witness_LoomStores_8 : ∃ (n : Fin 8) (o : WordOp) (s : State), settledAt n (.stw o) s ∧ (vget s.loom n).run.mc = false :=
  ⟨0, { space := .mw, index := 5 }, tLoom { mc := false } (.stw { space := .mw, index := 5 }), by decide⟩

theorem witness_LoomStores_9 : ∃ (n : Fin 8) (o : WordOp) (s : State), settledAt n (.stwc o) s ∧ inAt n s = true ∧ jRoom n 1 s :=
  ⟨0, { space := .mw, index := 5 }, tLoom {} (.stwc { space := .mw, index := 5 }), by decide⟩

theorem witness_LoomStores_10 : ∃ (n : Fin 8) (o : WordOp) (s : State), settledAt n (.stwc o) s ∧ inAt n s = false :=
  ⟨0, { space := .mw, index := 5 }, tLoom { ba := false } (.stwc { space := .mw, index := 5 }), by decide⟩

theorem witness_LoomStores_11 : ∃ (n : Fin 8) (i : BitVec 13) (m : Bool) (s : State), settledAt n (.pedge i) s ∧ mapGet (vget s.loom n).run.data.edges i.toNat = some m ∧ m ≠ inAt n s ∧ jRoom n 1 s :=
  ⟨0, 8191, false, tLoom { data := { edges := [(8191, false)] }, ba := true } (.pedge 8191), by decide⟩

theorem witness_LoomStores_12 : ∃ (n : Fin 8) (i : BitVec 13) (s : State), settledAt n (.pedge i) s ∧ mapGet (vget s.loom n).run.data.edges i.toNat = some (inAt n s) :=
  ⟨0, 8191, tLoom { data := { edges := [(8191, true)] } } (.pedge 8191), by decide⟩

theorem witness_LoomStores_13 : ∃ (n : Fin 8) (i : BitVec 13) (s : State), settledAt n (.pedge i) s ∧ mapGet (vget s.loom n).run.data.edges i.toNat = none ∧ jRoom n 1 s :=
  ⟨0, 8191, tLoom {} (.pedge 8191), by decide⟩

theorem witness_LoomStores_14 : ∃ (n : Fin 8) (i : BitVec 13) (m : Bool) (s : State), settledAt n (.nedge i) s ∧ mapGet (vget s.loom n).run.data.edges i.toNat = some m ∧ m ≠ inAt n s ∧ jRoom n 1 s :=
  ⟨0, 8191, true, tLoom { data := { edges := [(8191, true)] }, ba := false } (.nedge 8191), by decide⟩

theorem witness_LoomStores_15 : ∃ (n : Fin 8) (i : BitVec 13) (s : State), settledAt n (.nedge i) s ∧ mapGet (vget s.loom n).run.data.edges i.toNat = some (inAt n s) :=
  ⟨0, 8191, tLoom { data := { edges := [(8191, true)] } } (.nedge 8191), by decide⟩

theorem witness_LoomStores_16 : ∃ (n : Fin 8) (i : BitVec 13) (s : State), settledAt n (.nedge i) s ∧ mapGet (vget s.loom n).run.data.edges i.toNat = none ∧ jRoom n 1 s :=
  ⟨0, 8191, tLoom {} (.nedge 8191), by decide⟩

theorem witness_LoomStores_17 : ∃ (n : Fin 8) (v : BitVec 3) (m : BitVec 8) (s : State), settledAt n (.evt v m) s ∧ inAt n s = true ∧ jRoom n 1 s :=
  ⟨0, 2, 255, tLoom {} (.evt 2 255), by decide⟩

theorem witness_LoomStores_18 : ∃ (n : Fin 8) (v : BitVec 3) (m : BitVec 8) (s : State), settledAt n (.evt v m) s ∧ inAt n s = false :=
  ⟨0, 2, 255, tLoom { ba := false } (.evt 2 255), by decide⟩

theorem witness_LoomStores_19 : ∃ (n : Fin 8) (i : BitVec 8) (t : Template) (s : State), settledAt n (.cantx i) s ∧ inAt n s = true ∧ (loomCtx n (vget s.loom n)).tmpls[i.toNat]? = some t ∧ t.len ≤ 64 ∧ jRoom n 5 s :=
  ⟨0, 0, { len := 8 }, setLoom 0 (fun e => { e with task := some { tmpls := [{ len := 8 }] } }) (tLoom {} (.cantx 0)), by decide⟩

theorem witness_LoomStores_20 : ∃ (n : Fin 8) (i : BitVec 8) (s : State), settledAt n (.cantx i) s ∧ inAt n s = false :=
  ⟨0, 0, tLoom { mc := false } (.cantx 0), by decide⟩

theorem witness_LoomTimersAndCounters_1 : ∃ (n : Fin 8) (i : BitVec 13) (s : State), settledAt n (.ton i) s ∧ jRoom n 1 s :=
  ⟨0, 4095, tLoom { wa := 7 } (.ton 4095), by decide⟩

theorem witness_LoomTimersAndCounters_2 : ∃ (n : Fin 8) (i : BitVec 13) (s : State), settledAt n (.tof i) s ∧ jRoom n 1 s :=
  ⟨0, 4095, tLoom { wa := 7 } (.tof 4095), by decide⟩

theorem witness_LoomTimersAndCounters_3 : ∃ (n : Fin 8) (i : BitVec 13) (s : State), settledAt n (.tp i) s ∧ jRoom n 1 s :=
  ⟨0, 4095, tLoom { wa := 7 } (.tp 4095), by decide⟩

theorem witness_LoomTimersAndCounters_4 : ∃ (n : Fin 8) (i : BitVec 13) (s : State), settledAt n (.trst i) s ∧ inAt n s = true ∧ jRoom n 1 s :=
  ⟨0, 2047, tLoom {} (.trst 2047), by decide⟩

theorem witness_LoomTimersAndCounters_5 : ∃ (n : Fin 8) (i : BitVec 13) (s : State), settledAt n (.trst i) s ∧ inAt n s = false :=
  ⟨0, 2047, tLoom { ba := false } (.trst 2047), by decide⟩

theorem witness_LoomTimersAndCounters_6 : ∃ (n : Fin 8) (i : BitVec 13) (s : State), settledAt n (.ctu i) s ∧ jRoom n 1 s :=
  ⟨0, 2047, tLoom { wa := 7 } (.ctu 2047), by decide⟩

theorem witness_LoomTimersAndCounters_7 : ∃ (n : Fin 8) (i : BitVec 13) (s : State), settledAt n (.ctd i) s ∧ jRoom n 1 s :=
  ⟨0, 2047, tLoom { wa := 7 } (.ctd 2047), by decide⟩

theorem witness_LoomTimersAndCounters_8 : ∃ (n : Fin 8) (i : BitVec 13) (s : State), settledAt n (.crst i) s ∧ inAt n s = true ∧ jRoom n 1 s :=
  ⟨0, 2047, tLoom {} (.crst 2047), by decide⟩

theorem witness_LoomTimersAndCounters_9 : ∃ (n : Fin 8) (i : BitVec 13) (s : State), settledAt n (.crst i) s ∧ inAt n s = false :=
  ⟨0, 2047, tLoom { mc := false } (.crst 2047), by decide⟩

theorem witness_LoomTimersAndCounters_10 : ∃ (n : Fin 8) (i : BitVec 13) (s : State), settledAt n (.cld i) s ∧ inAt n s = true ∧ jRoom n 1 s :=
  ⟨0, 2047, tLoom {} (.cld 2047), by decide⟩

theorem witness_LoomTimersAndCounters_11 : ∃ (n : Fin 8) (i : BitVec 13) (s : State), settledAt n (.cld i) s ∧ inAt n s = false :=
  ⟨0, 2047, tLoom { ba := false } (.cld 2047), by decide⟩

theorem witness_LoomWords_1 : ∃ (n : Fin 8) (o : WordOp) (s : State), settledAt n (.ldw o) s :=
  ⟨0, tImm, tLoom {} (.ldw tImm), by decide⟩

theorem witness_LoomWords_2 : ∃ (n : Fin 8) (v : BitVec 16) (s : State), settledAt n (.ldi v) s :=
  ⟨0, 0xFFFF, tLoom {} (.ldi 0xFFFF), by decide⟩

theorem witness_LoomWords_3 : ∃ (n : Fin 8) (v : BitVec 16) (s : State), settledAt n (.ldih v) s :=
  ⟨0, 0xFFFF, tLoom {} (.ldih 0xFFFF), by decide⟩

theorem witness_LoomWords_4 : ∃ (n : Fin 8) (o : WordOp) (s : State), settledAt n (.add o) s :=
  ⟨0, tImm, tLoom {} (.add tImm), by decide⟩

theorem witness_LoomWords_5 : ∃ (n : Fin 8) (o : WordOp) (s : State), settledAt n (.sub o) s :=
  ⟨0, tImm, tLoom {} (.sub tImm), by decide⟩

theorem witness_LoomWords_6 : ∃ (n : Fin 8) (o : WordOp) (s : State), settledAt n (.mul o) s :=
  ⟨0, tImm, tLoom {} (.mul tImm), by decide⟩

theorem witness_LoomWords_7 : ∃ (n : Fin 8) (o : WordOp) (s : State), settledAt n (.div o) s :=
  ⟨0, tImm, tLoom {} (.div tImm), by decide⟩

theorem witness_LoomWords_8 : ∃ (n : Fin 8) (o : WordOp) (s : State), settledAt n (.mod o) s :=
  ⟨0, tImm, tLoom {} (.mod tImm), by decide⟩

theorem witness_LoomWords_9 : ∃ (n : Fin 8) (o : WordOp) (s : State), settledAt n (.andw o) s :=
  ⟨0, tImm, tLoom {} (.andw tImm), by decide⟩

theorem witness_LoomWords_10 : ∃ (n : Fin 8) (o : WordOp) (s : State), settledAt n (.orw o) s :=
  ⟨0, tImm, tLoom {} (.orw tImm), by decide⟩

theorem witness_LoomWords_11 : ∃ (n : Fin 8) (o : WordOp) (s : State), settledAt n (.xorw o) s :=
  ⟨0, tImm, tLoom {} (.xorw tImm), by decide⟩

theorem witness_LoomWords_12 : ∃ (n : Fin 8) (k : BitVec 5) (s : State), settledAt n (.shl k) s :=
  ⟨0, 31, tLoom {} (.shl 31), by decide⟩

theorem witness_LoomWords_13 : ∃ (n : Fin 8) (k : BitVec 5) (s : State), settledAt n (.shr k) s :=
  ⟨0, 31, tLoom {} (.shr 31), by decide⟩

theorem witness_LoomWords_14 : ∃ (n : Fin 8) (k : BitVec 5) (s : State), settledAt n (.asr k) s :=
  ⟨0, 31, tLoom {} (.asr 31), by decide⟩

theorem witness_LoomWords_15 : ∃ (n : Fin 8) (q : Cond) (o : WordOp) (s : State), settledAt n (.cmp q o) s :=
  ⟨0, .ltu, tImm, tLoom {} (.cmp .ltu tImm), by decide⟩

theorem witness_LoomWords_16 : ∃ (n : Fin 8) (o : WordOp) (s : State), settledAt n (.min o) s :=
  ⟨0, tImm, tLoom {} (.min tImm), by decide⟩

theorem witness_LoomWords_17 : ∃ (n : Fin 8) (o : WordOp) (s : State), settledAt n (.max o) s :=
  ⟨0, tImm, tLoom {} (.max tImm), by decide⟩

theorem witness_LoomWords_18 : ∃ (n : Fin 8) (k : BitVec 5) (s : State), settledAt n (.getb k) s :=
  ⟨0, 31, tLoom {} (.getb 31), by decide⟩

theorem witness_LoomWords_19 : ∃ (n : Fin 8) (k : BitVec 5) (s : State), settledAt n (.putb k) s :=
  ⟨0, 31, tLoom {} (.putb 31), by decide⟩

theorem witness_LoomStoreEffect_1 : ∃ (r : LRun) (o : BitOp) (v : Bool), o.space = .pb :=
  ⟨{}, { space := .pb, index := 16383 }, true, by decide⟩

theorem witness_LoomStoreEffect_2 : ∃ (r : LRun) (o : BitOp) (v : Bool), o.space = .mb :=
  ⟨{}, { space := .mb, index := 65535 }, true, by decide⟩

theorem witness_LoomStoreEffect_3 : ∃ (r : LRun) (o : WordOp) (v : Word), o.space = .pw :=
  ⟨{}, { space := .pw, index := 16383 }, 7, by decide⟩

theorem witness_LoomStoreEffect_4 : ∃ (r : LRun) (o : WordOp) (v : Word), o.space = .mw :=
  ⟨{}, { space := .mw, index := 16383 }, 7, by decide⟩

theorem witness_LoomStoreEffect_5 : ∃ (m : SMap Word) (i j : Nat) (v : Word), mapSorted m = true :=
  ⟨[], 1, 2, 7, by decide⟩

theorem witness_LoomArithmetic_4 : ∃ (a b : Word), b ≠ 0 ∧ ¬ (a.toInt = -2147483648 ∧ b.toInt = -1) :=
  ⟨0xFFFFFFF9, 2, by decide⟩

theorem witness_LoomArithmetic_5 : ∃ (a b : Word), a.toInt = -2147483648 ∧ b.toInt = -1 :=
  ⟨0x80000000, 0xFFFFFFFF, by decide⟩

theorem witness_LoomArithmetic_6 : ∃ (a b : Word), b ≠ 0 :=
  ⟨0xFFFFFFF9, 2, by decide⟩

theorem witness_LoomArithmetic_8 : ∃ (c : LCtx) (r : LRun) (o : WordOp) (i : LInstr), i ∈ [.add o, .sub o, .mul o, .div o, .mod o] :=
  ⟨loomCtx 0 {}, {}, tImm, .add tImm, by simp⟩

theorem witness_LoomArithmetic_11 : ∃ (w : Word), bits w.toNat 24 8 = 0x50 ∧ 8 ≤ bits w.toNat 16 4 :=
  ⟨0x50F80000, by decide⟩

theorem witness_TimerTable_1 : ∃ (ts pt : Word) (t : Timer), t.st = .idle :=
  ⟨5, 7, {}, by decide⟩

theorem witness_TimerTable_2 : ∃ (ts pt : Word) (t : Timer), t.st = .running ∧ (ts - t.start).toNat < pt.toNat :=
  ⟨5, 7, { st := .running, start := 5 }, by decide⟩

theorem witness_TimerTable_3 : ∃ (ts pt : Word) (t : Timer), t.st = .running ∧ pt.toNat ≤ (ts - t.start).toNat :=
  ⟨5, 0, { st := .running, start := 5 }, by decide⟩

theorem witness_TimerTable_4 : ∃ (ts pt : Word) (t : Timer), t.st = .done :=
  ⟨5, 7, { st := .done }, by decide⟩

theorem witness_TimerTable_7 : ∃ (ts pt : Word) (t : Timer), t.st = .idle ∧ t.mem = true :=
  ⟨5, 7, { mem := true }, by decide⟩

theorem witness_TimerTable_8 : ∃ (ts pt : Word) (t : Timer), t.st = .idle ∧ t.mem = false :=
  ⟨5, 7, {}, by decide⟩

theorem witness_TimerTable_9 : ∃ (ts pt : Word) (t : Timer), t.st = .running ∧ (ts - t.start).toNat < pt.toNat :=
  ⟨5, 7, { st := .running, start := 5 }, by decide⟩

theorem witness_TimerTable_10 : ∃ (ts pt : Word) (t : Timer), t.st = .done :=
  ⟨5, 7, { st := .done }, by decide⟩

theorem witness_TimerTable_11 : ∃ (ts pt : Word) (t : Timer), t.st = .idle ∧ t.mem = false :=
  ⟨5, 7, {}, by decide⟩

theorem witness_TimerTable_12 : ∃ (ts pt : Word) (t : Timer), t.st = .idle ∧ t.mem = true :=
  ⟨5, 7, { mem := true }, by decide⟩

theorem witness_TimerTable_13 : ∃ (ts pt : Word) (b : Bool) (t : Timer), t.st = .running ∧ (ts - t.start).toNat < pt.toNat :=
  ⟨5, 7, false, { st := .running, start := 5 }, by decide⟩

theorem witness_TimerTable_14 : ∃ (ts pt : Word) (b : Bool) (t : Timer), t.st = .running ∧ pt.toNat ≤ (ts - t.start).toNat :=
  ⟨5, 0, true, { st := .running, start := 5 }, by decide⟩

theorem witness_TimerTable_15 : ∃ (ts pt : Word) (t : Timer), t.st = .running ∧ pt.toNat ≤ (ts - t.start).toNat :=
  ⟨5, 0, { st := .running, start := 5 }, by decide⟩

theorem witness_TimerTable_16 : ∃ (ts pt : Word) (t : Timer), t.st = .done :=
  ⟨5, 7, { st := .done }, by decide⟩

theorem witness_TimerTable_17 : ∃ (ts pt : Word) (t : Timer), t.st = .idle :=
  ⟨5, 7, {}, by decide⟩

theorem witness_DescriptorHostCommands_1 : ∃ (p : Desc → Bool) (h : HostData) (f : Flight) (s : State), starts f (hostBytes f.desc h) s ∧ p f.desc = true ∧ h.mark = .good ∧ h.onward = .good ∧ ((opSpec f.desc.op).any (fun q => q.pair = .mirrored) && mirrors s) = true :=
  ⟨(fun _ => true), { bytes := [], mark := .good }, tFl { op := 2, handle := tH }, tDesc { op := 2, handle := tH } (setMir (fun m => { m with role := .active, prole := 3 }) (tHandle 7 256 tOn)), by decide +kernel⟩

theorem witness_DescriptorHostCommands_2 : ∃ (f : Flight) (s : State), starts f [] s ∧ f.desc.op = 0x00 :=
  ⟨(tFl { op := 0 }), tDesc { op := 0 } (tOn), by decide +kernel⟩

theorem witness_DescriptorHostCommands_3 : ∃ (f : Flight) (s : State), starts f [] s ∧ f.desc.op = 0x03 :=
  ⟨(tFl { op := 3, arg0 := 8191 }), tDesc { op := 3, arg0 := 8191 } (tOn), by decide +kernel⟩

theorem witness_DescriptorHostCommands_4 : ∃ (f : Flight) (h : HostData) (s : State), starts f (hostBytes f.desc h) s ∧ f.desc.op = 0x08 ∧ h.mark = .good ∧ h.onward = .good :=
  ⟨(tFl { op := 8, addr := 8, arg1 := 4, arg2 := 8 }), { bytes := [1, 2, 3, 4], mark := .good }, tDesc { op := 8, addr := 8, arg1 := 4, arg2 := 8 } (tOn), by decide +kernel⟩

theorem witness_DescriptorHostCommands_5 : ∃ (f : Flight) (s : State), starts f [] s ∧ f.desc.op = 0x09 :=
  ⟨(tFl { op := 9, arg1 := 7 }), tDesc { op := 9, arg1 := 7 } (tOn), by decide +kernel⟩

theorem witness_DescriptorHostCommands_6 : ∃ (f : Flight) (s : State), starts f [] s ∧ f.desc.op = 0x02 ∧ onLive f s ∧ mirrors s = false :=
  ⟨(tFl { op := 2, handle := tH }), tDesc { op := 2, handle := tH } (tHandle 4 0 tOn), by decide +kernel⟩

theorem witness_DescriptorHostCommands_7 : ∃ (f : Flight) (h : HostData) (s : State), starts f (hostBytes f.desc h) s ∧ f.desc.op = 0x01 ∧ h.mark = .good ∧ mirrors s = false ∧ createRepeats s (f.desc.arg0 % 8192) (f.desc.arg1 % 256) (f.desc.arg1 / 256) (hostBytes f.desc h) = false ∧ createBlocked s (f.desc.arg0 % 8192) (f.desc.arg1 % 256) (f.desc.arg1 / 256) = none ∧ (heldHandles s (f.desc.arg1 % 256)).length < kindLimit (f.desc.arg1 % 256) ∧ h.onward = .good :=
  ⟨(tFl { op := 1, arg0 := 5, arg1 := 0x10007 }), { bytes := [], mark := .good }, tDesc { op := 1, arg0 := 5, arg1 := 0x10007 } (tOn), by decide +kernel⟩

theorem witness_DescriptorHostCommands_8 : ∃ (f : Flight) (h : HostData) (s : State), starts f (hostBytes f.desc h) s ∧ f.desc.op = 0x01 ∧ h.mark = .good ∧ mirrors s = false ∧ createRepeats s (f.desc.arg0 % 8192) (f.desc.arg1 % 256) (f.desc.arg1 / 256) (hostBytes f.desc h) = true ∧ h.onward = .good :=
  ⟨(tFl { op := 1, arg0 := 5, arg1 := 0x10007 }), { bytes := [], mark := .good }, tDesc { op := 1, arg0 := 5, arg1 := 0x10007 } (setZor (fun z => { z with chans := [(5, { kind := 7, target := 256 })] }) (tHandle 7 256 tOn)), by decide +kernel⟩

theorem witness_DescriptorHostCommands_9 : ∃ (f : Flight) (h : HostData) (s : State), starts f (hostBytes f.desc h) s ∧ f.desc.op = 0x01 ∧ h.mark = .good ∧ mirrors s = false ∧ createRepeats s (f.desc.arg0 % 8192) (f.desc.arg1 % 256) (f.desc.arg1 / 256) (hostBytes f.desc h) = false ∧ createBlocked s (f.desc.arg0 % 8192) (f.desc.arg1 % 256) (f.desc.arg1 / 256) = none ∧ kindLimit (f.desc.arg1 % 256) ≤ (heldHandles s (f.desc.arg1 % 256)).length ∧ h.onward = .good :=
  ⟨(tFl { op := 1, arg0 := 5, arg1 := 0x10007 }), { bytes := [], mark := .good }, tDesc { op := 1, arg0 := 5, arg1 := 0x10007 } ({ tOn with shu := { tOn.shu with handles := (List.range 64).map fun i => (100 + i, { kind := 7, target := 300 + i, gen := 1, st := .live }) } }), by decide +kernel⟩

theorem witness_DescriptorHostCommands_10 : ∃ (f : Flight) (h : HostData) (k : Nat) (s : State), starts f (hostBytes f.desc h) s ∧ f.desc.op = 0x01 ∧ h.mark = .good ∧ mirrors s = false ∧ createRepeats s (f.desc.arg0 % 8192) (f.desc.arg1 % 256) (f.desc.arg1 / 256) (hostBytes f.desc h) = false ∧ createBlocked s (f.desc.arg0 % 8192) (f.desc.arg1 % 256) (f.desc.arg1 / 256) = some k ∧ h.onward = .good :=
  ⟨(tFl { op := 1, arg0 := 5, arg1 := 0x10007 }), { bytes := [], mark := .good }, tH, tDesc { op := 1, arg0 := 5, arg1 := 0x10007 } (tHandle 7 2 tOn), by decide +kernel⟩

theorem witness_DescriptorTaskCommands_1 : ∃ (f : Flight) (s : State), starts f [] s ∧ f.desc.op = 0x10 ∧ f.desc.arg0 = 0 ∧ onLive f s ∧ mirrors s = false ∧ ((vget s.loom (descEngine s f.desc)).state = .stopped ∨ (vget s.loom (descEngine s f.desc)).state = .trapped ∨ (vget s.loom (descEngine s f.desc)).state = .overrun) :=
  ⟨(tFl { op := 0x10, handle := tH }), tDesc { op := 0x10, handle := tH } (tHandle 1 0 (setLoom 0 (fun e => { e with state := .stopped }) tOn)), by decide +kernel⟩

theorem witness_DescriptorTaskCommands_2 : ∃ (f : Flight) (s : State), starts f [] s ∧ f.desc.op = 0x10 ∧ f.desc.arg0 = 1 ∧ onLive f s ∧ mirrors s = false ∧ (vget s.loom (descEngine s f.desc)).state = .running :=
  ⟨(tFl { op := 0x10, handle := tH, arg0 := 1 }), tDesc { op := 0x10, handle := tH, arg0 := 1 } (tHandle 1 0 (setLoom 0 (fun e => { e with state := .running }) tOn)), by decide +kernel⟩

theorem witness_DescriptorTaskCommands_3 : ∃ (f : Flight) (s : State), starts f [] s ∧ f.desc.op = 0x10 ∧ f.desc.arg0 = 0 ∧ onLive f s ∧ mirrors s = false ∧ ((vget s.loom (descEngine s f.desc)).state = .none ∨ (vget s.loom (descEngine s f.desc)).state = .running ∨ (vget s.loom (descEngine s f.desc)).state = .fault) :=
  ⟨(tFl { op := 0x10, handle := tH }), tDesc { op := 0x10, handle := tH } (tHandle 1 0 (setLoom 0 (fun e => { e with state := .running }) tOn)), by decide +kernel⟩

theorem witness_DescriptorTaskCommands_4 : ∃ (f : Flight) (s : State), starts f [] s ∧ f.desc.op = 0x10 ∧ f.desc.arg0 = 1 ∧ onLive f s ∧ mirrors s = false ∧ (vget s.loom (descEngine s f.desc)).state ≠ .running :=
  ⟨(tFl { op := 0x10, handle := tH, arg0 := 1 }), tDesc { op := 0x10, handle := tH, arg0 := 1 } (tHandle 1 0 (setLoom 0 (fun e => { e with state := .stopped }) tOn)), by decide +kernel⟩

theorem witness_DescriptorTaskCommands_5 : ∃ (f : Flight) (s : State), starts f [] s ∧ f.desc.op = 0x10 ∧ f.desc.arg0 = 2 ∧ onLive f s ∧ mirrors s = false :=
  ⟨(tFl { op := 0x10, handle := tH, arg0 := 2, arg1 := 16777215 }), tDesc { op := 0x10, handle := tH, arg0 := 2, arg1 := 16777215 } (tHandle 1 0 (setLoom 0 (fun e => { e with state := .running }) tOn)), by decide +kernel⟩

theorem witness_DescriptorTaskCommands_6 : ∃ (f : Flight) (y : Symbol) (s : State), starts f [] s ∧ f.desc.op = 0x11 ∧ onLive f s ∧ mirrors s = false ∧ symbolOf s (descEngine s f.desc) f.desc.arg1 = some y ∧ 1 ≤ y.kind ∧ y.kind ≤ 3 ∧ y.patchable = true ∧ (vget s.loom (descEngine s f.desc)).state = .running :=
  ⟨(tFl { op := 0x11, handle := tH, arg1 := 7, arg2 := 9, arg3 := 0xFF }), { id := 7, engine := 0, kind := 2, ty := 0, patchable := true, retain := false, loc := 5 }, tDesc { op := 0x11, handle := tH, arg1 := 7, arg2 := 9, arg3 := 0xFF } (tHandle 1 0 (setZor (fun z => { z with running := some { points := [(3, { kind := 4, writer := 0 })], symbols := [{ id := 7, engine := 0, kind := 2, ty := 0, patchable := true, retain := false, loc := 5 }] } }) (setLoom 0 (fun e => { e with state := .running }) tOn))), by decide +kernel⟩

theorem witness_DescriptorTaskCommands_7 : ∃ (f : Flight) (y : Symbol) (s : State), starts f [] s ∧ f.desc.op = 0x11 ∧ onLive f s ∧ mirrors s = false ∧ symbolOf s (descEngine s f.desc) f.desc.arg1 = some y ∧ 1 ≤ y.kind ∧ y.kind ≤ 3 ∧ y.patchable = true ∧ (vget s.loom (descEngine s f.desc)).state ≠ .running :=
  ⟨(tFl { op := 0x11, handle := tH, arg1 := 7, arg2 := 9, arg3 := 0xFF }), { id := 7, engine := 0, kind := 2, ty := 0, patchable := true, retain := false, loc := 5 }, tDesc { op := 0x11, handle := tH, arg1 := 7, arg2 := 9, arg3 := 0xFF } (tHandle 1 0 (setZor (fun z => { z with running := some { points := [(3, { kind := 4, writer := 0 })], symbols := [{ id := 7, engine := 0, kind := 2, ty := 0, patchable := true, retain := false, loc := 5 }] } }) (setLoom 0 (fun e => { e with state := .stopped }) tOn))), by decide +kernel⟩

theorem witness_DescriptorTaskCommands_8 : ∃ (f : Flight) (s : State), starts f [] s ∧ f.desc.op = 0x12 ∧ moverData s = .whole :=
  ⟨(tFl { op := 0x12, addr := 8, arg0 := 1, arg1 := 16383 }), tDesc { op := 0x12, addr := 8, arg0 := 1, arg1 := 16383 } (tOn), by decide +kernel⟩

theorem witness_DescriptorTaskCommands_9 : ∃ (f : Flight) (n : Nat) (s : State), starts f [] s ∧ f.desc.op = 0x12 ∧ moverData s = .empty n :=
  ⟨(tFl { op := 0x12, addr := 8, arg0 := 1, arg1 := 16383 }), 1, tDesc { op := 0x12, addr := 8, arg0 := 1, arg1 := 16383 } ({ (tOn) with hed := { (tOn).hed with xfer := .empty 1 } }), by decide +kernel⟩

theorem witness_DescriptorTaskCommands_10 : ∃ (f : Flight) (s : State), starts f [] s ∧ f.desc.op = 0x12 ∧ moverData s = .parityBad :=
  ⟨(tFl { op := 0x12, addr := 8, arg0 := 1, arg1 := 16383 }), tDesc { op := 0x12, addr := 8, arg0 := 1, arg1 := 16383 } ({ (tOn) with hed := { (tOn).hed with xfer := .parityBad } }), by decide +kernel⟩

theorem witness_DescriptorTaskCommands_11 : ∃ (f : Flight) (s : State), starts f [] s ∧ f.desc.op = 0x12 ∧ moverData s = .poisoned :=
  ⟨(tFl { op := 0x12, addr := 8, arg0 := 1, arg1 := 16383 }), tDesc { op := 0x12, addr := 8, arg0 := 1, arg1 := 16383 } ({ (tOn) with hed := { (tOn).hed with xfer := .poisoned } }), by decide +kernel⟩

theorem witness_DescriptorTaskCommands_12 : ∃ (f : Flight) (n : Fin 8) (s : State), starts f [] s ∧ f.desc.op = 0x13 ∧ bitOf f.desc.arg0 0 = true ∧ onLive f s ∧ mirrors s = false ∧ writerRuns s (descTarget s f.desc) = some n :=
  ⟨(tFl { op := 0x13, handle := tH, arg0 := 1, arg2 := 9 }), 0, tDesc { op := 0x13, handle := tH, arg0 := 1, arg2 := 9 } (tHandle 9 3 (setZor (fun z => { z with running := some { points := [(3, { kind := 4, writer := 0 })], symbols := [{ id := 7, engine := 0, kind := 2, ty := 0, patchable := true, retain := false, loc := 5 }] } }) (setLoom 0 (fun e => { e with state := .running }) tOn))), by decide +kernel⟩

theorem witness_DescriptorTaskCommands_13 : ∃ (f : Flight) (n : Fin 8) (s : State), starts f [] s ∧ f.desc.op = 0x13 ∧ bitOf f.desc.arg0 0 = false ∧ onLive f s ∧ mirrors s = false ∧ writerRuns s (descTarget s f.desc) = some n :=
  ⟨(tFl { op := 0x13, handle := tH, arg0 := 0, arg2 := 9 }), 0, tDesc { op := 0x13, handle := tH, arg0 := 0, arg2 := 9 } (tHandle 9 3 (setZor (fun z => { z with running := some { points := [(3, { kind := 4, writer := 0 })], symbols := [{ id := 7, engine := 0, kind := 2, ty := 0, patchable := true, retain := false, loc := 5 }] } }) (setLoom 0 (fun e => { e with state := .running }) tOn))), by decide +kernel⟩

theorem witness_DescriptorTaskCommands_14 : ∃ (f : Flight) (s : State), starts f [] s ∧ f.desc.op = 0x13 ∧ bitOf f.desc.arg0 0 = true ∧ onLive f s ∧ mirrors s = false ∧ writerRuns s (descTarget s f.desc) = none :=
  ⟨(tFl { op := 0x13, handle := tH, arg0 := 1, arg2 := 9 }), tDesc { op := 0x13, handle := tH, arg0 := 1, arg2 := 9 } (tHandle 9 3 (setZor (fun z => { z with running := some { points := [(3, { kind := 4, writer := 0 })], symbols := [{ id := 7, engine := 0, kind := 2, ty := 0, patchable := true, retain := false, loc := 5 }] } }) (setLoom 0 (fun e => { e with state := .stopped }) tOn))), by decide +kernel⟩

theorem witness_DescriptorTaskCommands_15 : ∃ (f : Flight) (s : State), starts f [] s ∧ f.desc.op = 0x13 ∧ bitOf f.desc.arg0 0 = false ∧ onLive f s ∧ mirrors s = false ∧ writerRuns s (descTarget s f.desc) = none :=
  ⟨(tFl { op := 0x13, handle := tH, arg0 := 0, arg2 := 9 }), tDesc { op := 0x13, handle := tH, arg0 := 0, arg2 := 9 } (tHandle 9 3 (setZor (fun z => { z with running := some { points := [(3, { kind := 4, writer := 0 })], symbols := [{ id := 7, engine := 0, kind := 2, ty := 0, patchable := true, retain := false, loc := 5 }] } }) (setLoom 0 (fun e => { e with state := .stopped }) tOn))), by decide +kernel⟩

theorem witness_DescriptorLoopAndFieldCommands_1 : ∃ (f : Flight) (s : State), starts f [] s ∧ f.desc.op = 0x19 ∧ f.desc.arg0 = 0 ∧ onLive f s ∧ mirrors s = false :=
  ⟨(tFl { op := 0x19, handle := tH, arg0 := 0, arg2 := 9 }), tDesc { op := 0x19, handle := tH, arg0 := 0, arg2 := 9 } (tHandle 2 7 tOn), by decide +kernel⟩

theorem witness_DescriptorLoopAndFieldCommands_2 : ∃ (f : Flight) (s : State), starts f [] s ∧ f.desc.op = 0x19 ∧ f.desc.arg0 = 1 ∧ onLive f s ∧ mirrors s = false :=
  ⟨(tFl { op := 0x19, handle := tH, arg0 := 1, arg2 := 9 }), tDesc { op := 0x19, handle := tH, arg0 := 1, arg2 := 9 } (tHandle 2 7 tOn), by decide +kernel⟩

theorem witness_DescriptorLoopAndFieldCommands_3 : ∃ (f : Flight) (s : State), starts f [] s ∧ f.desc.op = 0x19 ∧ f.desc.arg0 = 2 ∧ onLive f s ∧ mirrors s = false :=
  ⟨(tFl { op := 0x19, handle := tH, arg0 := 2, arg2 := 9 }), tDesc { op := 0x19, handle := tH, arg0 := 2, arg2 := 9 } (tHandle 2 7 tOn), by decide +kernel⟩

theorem witness_DescriptorLoopAndFieldCommands_4 : ∃ (f : Flight) (s : State), starts f [] s ∧ f.desc.op = 0x19 ∧ f.desc.arg0 = 3 ∧ onLive f s ∧ mirrors s = false :=
  ⟨(tFl { op := 0x19, handle := tH, arg0 := 3, arg2 := 9 }), tDesc { op := 0x19, handle := tH, arg0 := 3, arg2 := 9 } (tHandle 2 7 tOn), by decide +kernel⟩

theorem witness_DescriptorLoopAndFieldCommands_5 : ∃ (f : Flight) (s : State), starts f [] s ∧ f.desc.op = 0x19 ∧ f.desc.arg0 = 4 ∧ onLive f s ∧ mirrors s = false :=
  ⟨(tFl { op := 0x19, handle := tH, arg0 := 4, arg2 := 9 }), tDesc { op := 0x19, handle := tH, arg0 := 4, arg2 := 9 } (tHandle 2 7 tOn), by decide +kernel⟩

theorem witness_DescriptorLoopAndFieldCommands_6 : ∃ (f : Flight) (s : State), starts f [] s ∧ f.desc.op = 0x19 ∧ f.desc.arg0 = 5 ∧ onLive f s ∧ mirrors s = false :=
  ⟨(tFl { op := 0x19, handle := tH, arg0 := 5, arg2 := 9 }), tDesc { op := 0x19, handle := tH, arg0 := 5, arg2 := 9 } (tHandle 2 7 tOn), by decide +kernel⟩

theorem witness_DescriptorLoopAndFieldCommands_7 : ∃ (f : Flight) (h : HostData) (s : State), starts f (hostBytes f.desc h) s ∧ f.desc.op = 0x18 ∧ h.mark = .good ∧ onLive f s ∧ mirrors s = false ∧ h.onward = .good :=
  ⟨(tFl { op := 0x18, handle := tH, arg1 := 208 }), { bytes := tLoopBlock, mark := .good }, tDesc { op := 0x18, handle := tH, arg1 := 208 } (tHandle 2 7 tOn), by decide +kernel⟩

theorem witness_DescriptorLoopAndFieldCommands_8 : ∃ (f : Flight) (h : HostData) (s : State), starts f (hostBytes f.desc h) s ∧ f.desc.op = 0x1A ∧ h.mark = .good ∧ onLive f s ∧ mirrors s = false ∧ h.onward = .good :=
  ⟨(tFl { op := 0x1A, handle := tH, arg0 := 1, arg1 := 32 }), { bytes := [], mark := .good }, tDesc { op := 0x1A, handle := tH, arg0 := 1, arg1 := 32 } (tHandle 2 7 tOn), by decide +kernel⟩

theorem witness_DescriptorLoopAndFieldCommands_9 : ∃ (f : Flight) (h : HostData) (s : State), starts f (hostBytes f.desc h) s ∧ f.desc.op = 0x20 ∧ h.mark = .good ∧ onLive f s ∧ mirrors s = false ∧ h.onward = .good :=
  ⟨(tFl { op := 0x20, handle := tH, arg1 := 144 }), { bytes := tBankBlock, mark := .good }, tDesc { op := 0x20, handle := tH, arg1 := 144 } (tHandle 3 0 tOn), by decide +kernel⟩

theorem witness_DescriptorLoopAndFieldCommands_10 : ∃ (f : Flight) (h : HostData) (s : State), starts f (hostBytes f.desc h) s ∧ f.desc.op = 0x28 ∧ h.mark = .good ∧ onLive f s ∧ mirrors s = false ∧ h.onward = .good :=
  ⟨(tFl { op := 0x28, handle := tH, arg1 := 40 }), { bytes := tCanBlock, mark := .good }, tDesc { op := 0x28, handle := tH, arg1 := 40 } (tHandle 6 0 (setCan 0 (fun x => { x with st := .startup }) tOn)), by decide +kernel⟩

theorem witness_DescriptorLoopAndFieldCommands_11 : ∃ (f : Flight) (h : HostData) (fr : List CanFrame) (fit : Nat) (s : State), starts f (hostBytes f.desc h) s ∧ f.desc.op = 0x29 ∧ h.mark = .good ∧ onLive f s ∧ ((txFrames f.desc.arg0 (hostBytes f.desc h)).getD []).map (·.2.2) = fr ∧ min fr.length (64 - (vget s.can (descCan s f.desc)).tx.length) = fit ∧ crossPois s 18 = false ∧ h.onward = .good :=
  ⟨(tFl { op := 0x29, handle := tH, arg0 := 1, arg1 := 16 }), { bytes := [20, 2, 0, 0, 1, 0, 0, 0, 1], mark := .good }, [tFrame], 1, tDesc { op := 0x29, handle := tH, arg0 := 1, arg1 := 16 } (tHandle 6 0 tOn), by decide +kernel⟩

theorem witness_DescriptorLoopAndFieldCommands_12 : ∃ (f : Flight) (w : CanSt) (s : State), starts f [] s ∧ f.desc.op = 0x2A ∧ bitOf f.desc.arg0 8 = false ∧ onLive f s ∧ mirrors s = false ∧ canStOf (f.desc.arg0 % 16) = some w :=
  ⟨(tFl { op := 0x2A, handle := tH, arg0 := 2 }), .service, tDesc { op := 0x2A, handle := tH, arg0 := 2 } (tHandle 6 0 tOn), by decide +kernel⟩

theorem witness_DescriptorLoopAndFieldCommands_13 : ∃ (f : Flight) (w : CanSt) (s : State), starts f [] s ∧ f.desc.op = 0x2A ∧ bitOf f.desc.arg0 8 = true ∧ onLive f s ∧ mirrors s = false ∧ canStOf (f.desc.arg0 % 16) = some w :=
  ⟨(tFl { op := 0x2A, handle := tH, arg0 := 259 }), .test, tDesc { op := 0x2A, handle := tH, arg0 := 259 } (tHandle 6 0 tOn), by decide +kernel⟩

theorem witness_DescriptorLoopAndFieldCommands_14 : ∃ (f : Flight) (h : HostData) (s : State), starts f (hostBytes f.desc h) s ∧ f.desc.op = 0x2B ∧ h.mark = .good ∧ onLive f s ∧ mirrors s = false ∧ h.onward = .good :=
  ⟨(tFl { op := 0x2B, handle := tH, arg1 := 0 }), { bytes := [], mark := .good }, tDesc { op := 0x2B, handle := tH, arg1 := 0 } (tHandle 6 0 tOn), by decide +kernel⟩

theorem witness_DescriptorServiceCommands_1 : ∃ (f : Flight) (s : State), starts f [] s ∧ f.desc.op = 0x30 ∧ onLive f s :=
  ⟨(tFl { op := 0x30, handle := tH, addr := 8, arg1 := 256 }), tDesc { op := 0x30, handle := tH, addr := 8, arg1 := 256 } (tHandle 7 768 tOn), by decide +kernel⟩

theorem witness_DescriptorServiceCommands_2 : ∃ (f : Flight) (s : State), starts f [] s ∧ f.desc.op = 0x31 ∧ onLive f s :=
  ⟨(tFl { op := 0x31, handle := tH }), tDesc { op := 0x31, handle := tH } (tHandle 7 768 tOn), by decide +kernel⟩

theorem witness_DescriptorServiceCommands_3 : ∃ (f : Flight) (s : State), starts f [] s ∧ f.desc.op = 0x38 ∧ moverData s = .whole ∧ onLive f s :=
  ⟨(tFl { op := 0x38, handle := tH, addr := 8, arg1 := 256 }), tDesc { op := 0x38, handle := tH, addr := 8, arg1 := 256 } (tHandle 8 0 tOn), by decide +kernel⟩

theorem witness_DescriptorServiceCommands_4 : ∃ (f : Flight) (n : Nat) (s : State), starts f [] s ∧ f.desc.op = 0x38 ∧ moverData s = .empty n ∧ onLive f s :=
  ⟨(tFl { op := 0x38, handle := tH, addr := 8, arg1 := 256 }), 1, tDesc { op := 0x38, handle := tH, addr := 8, arg1 := 256 } ({ (tHandle 8 0 tOn) with hed := { (tHandle 8 0 tOn).hed with xfer := .empty 1 } }), by decide +kernel⟩

theorem witness_DescriptorServiceCommands_5 : ∃ (f : Flight) (s : State), starts f [] s ∧ f.desc.op = 0x38 ∧ moverData s = .parityBad ∧ onLive f s :=
  ⟨(tFl { op := 0x38, handle := tH, addr := 8, arg1 := 256 }), tDesc { op := 0x38, handle := tH, addr := 8, arg1 := 256 } ({ (tHandle 8 0 tOn) with hed := { (tHandle 8 0 tOn).hed with xfer := .parityBad } }), by decide +kernel⟩

theorem witness_DescriptorServiceCommands_6 : ∃ (f : Flight) (s : State), starts f [] s ∧ f.desc.op = 0x38 ∧ moverData s = .poisoned ∧ onLive f s :=
  ⟨(tFl { op := 0x38, handle := tH, addr := 8, arg1 := 256 }), tDesc { op := 0x38, handle := tH, addr := 8, arg1 := 256 } ({ (tHandle 8 0 tOn) with hed := { (tHandle 8 0 tOn).hed with xfer := .poisoned } }), by decide +kernel⟩

theorem witness_DescriptorServiceCommands_7 : ∃ (f : Flight) (s : State), starts f [] s ∧ f.desc.op = 0x39 ∧ f.desc.arg0 = 1 ∧ onLive f s :=
  ⟨(tFl { op := 0x39, handle := tH, arg0 := 1 }), tDesc { op := 0x39, handle := tH, arg0 := 1 } (tHandle 8 0 tOn), by decide +kernel⟩

theorem witness_DescriptorServiceCommands_8 : ∃ (f : Flight) (s : State), starts f [] s ∧ f.desc.op = 0x39 ∧ f.desc.arg0 = 0 ∧ onLive f s :=
  ⟨(tFl { op := 0x39, handle := tH }), tDesc { op := 0x39, handle := tH } (tHandle 8 0 tOn), by decide +kernel⟩

theorem witness_DescriptorServiceCommands_9 : ∃ (f : Flight) (s : State), starts f [] s ∧ f.desc.op = 0x3A :=
  ⟨(tFl { op := 0x3A }), tDesc { op := 0x3A } (tOn), by decide +kernel⟩

theorem witness_DescriptorServiceCommands_10 : ∃ (f : Flight) (s : State), starts f [] s ∧ f.desc.op = 0x40 ∧ f.desc.arg0 / 16 = 1 ∧ mirrors s = false :=
  ⟨(tFl { op := 0x40, arg0 := 17 }), tDesc { op := 0x40, arg0 := 17 } (setBrk 1 (fun x => { x with cfg := { x.cfg with enable := true } }) tOn), by decide +kernel⟩

theorem witness_DescriptorServiceCommands_11 : ∃ (f : Flight) (s : State), starts f [] s ∧ f.desc.op = 0x40 ∧ f.desc.arg0 / 16 = 2 ∧ mirrors s = false :=
  ⟨(tFl { op := 0x40, arg0 := 33 }), tDesc { op := 0x40, arg0 := 33 } (setBrk 1 (fun x => { x with cfg := { x.cfg with enable := true } }) tOn), by decide +kernel⟩

theorem witness_DescriptorServiceCommands_12 : ∃ (f : Flight) (s : State), starts f [] s ∧ f.desc.op = 0x40 ∧ f.desc.arg0 / 16 = 3 ∧ mirrors s = false :=
  ⟨(tFl { op := 0x40, arg0 := 49 }), tDesc { op := 0x40, arg0 := 49 } (setBrk 1 (fun x => { x with cfg := { x.cfg with enable := true } }) tOn), by decide +kernel⟩

theorem witness_DescriptorServiceCommands_13 : ∃ (f : Flight) (h : HostData) (s : State), starts f (hostBytes f.desc h) s ∧ f.desc.op = 0x48 ∧ h.mark = .good ∧ s.pan.host = false ∧ h.onward = .good :=
  ⟨(tFl { op := 0x48, addr := 8, arg1 := 12000 }), { bytes := [], mark := .good }, tDesc { op := 0x48, addr := 8, arg1 := 12000 } (tOn), by decide +kernel⟩

theorem witness_DescriptorServiceCommands_14 : ∃ (f : Flight) (h : HostData) (s : State), starts f (hostBytes f.desc h) s ∧ f.desc.op = 0x48 ∧ h.mark = .good ∧ s.pan.host = true ∧ h.onward = .good :=
  ⟨(tFl { op := 0x48, addr := 8, arg1 := 12000 }), { bytes := [], mark := .good }, tDesc { op := 0x48, addr := 8, arg1 := 12000 } ({ tOn with pan := { tOn.pan with host := true } }), by decide +kernel⟩

theorem witness_DescriptorServiceCommands_15 : ∃ (f : Flight) (s : State), starts f [] s ∧ f.desc.op = 0x50 ∧ f.desc.arg0 = 1 ∧ s.mir.role = .standby :=
  ⟨(tFl { op := 0x50, arg0 := 1 }), tDesc { op := 0x50, arg0 := 1 } (tStandby tOn), by decide +kernel⟩

theorem witness_DescriptorServiceCommands_16 : ∃ (f : Flight) (s : State), starts f [] s ∧ f.desc.op = 0x50 ∧ f.desc.arg0 = 1 ∧ s.mir.role = .syncing :=
  ⟨(tFl { op := 0x50, arg0 := 1 }), tDesc { op := 0x50, arg0 := 1 } (setMir (fun m => { m with role := .syncing, joinEn := false }) tOn), by decide +kernel⟩

theorem witness_DescriptorServiceCommands_17 : ∃ (f : Flight) (s : State), starts f [] s ∧ f.desc.op = 0x50 ∧ f.desc.arg0 = 2 ∧ partnerSilent s = true :=
  ⟨(tFl { op := 0x50, arg0 := 2 }), tDesc { op := 0x50, arg0 := 2 } (setMir (fun m => { m with palive := false, hbUs := 1000, lowUs := 1000 }) (tStandby tOn)), by decide +kernel⟩

theorem witness_DescriptorServiceCommands_18 : ∃ (f : Flight) (s : State), starts f [] s ∧ f.desc.op = 0x50 ∧ f.desc.arg0 = 2 ∧ partnerSilent s = false :=
  ⟨(tFl { op := 0x50, arg0 := 2 }), tDesc { op := 0x50, arg0 := 2 } (setMir (fun m => { m with palive := true }) (tStandby tOn)), by decide +kernel⟩

theorem witness_DescriptorServiceCommands_19 : ∃ (f : Flight) (s : State), starts f [] s ∧ f.desc.op = 0x50 ∧ f.desc.arg0 = 3 :=
  ⟨(tFl { op := 0x50, arg0 := 3 }), tDesc { op := 0x50, arg0 := 3 } (setMir (fun m => { m with role := .active, prole := 3 }) tOn), by decide +kernel⟩

theorem witness_DescriptorServiceCommands_20 : ∃ (f : Flight) (s : State), starts f [] s ∧ f.desc.op = 0x0A ∧ s.mir.role ≠ .active :=
  ⟨(tFl { op := 0x0A, arg2 := 7 }), tDesc { op := 0x0A, arg2 := 7 } (tOn), by decide +kernel⟩

theorem witness_DescriptorServiceCommands_21 : ∃ (f : Flight) (s : State), starts f [] s ∧ f.desc.op = 0x0A ∧ s.mir.role = .active :=
  ⟨(tFl { op := 0x0A, arg2 := 7 }), tDesc { op := 0x0A, arg2 := 7 } (setMir (fun m => { m with role := .active, prole := 3 }) tOn), by decide +kernel⟩

theorem witness_DescriptorServiceCommands_22 : ∃ (f : Flight) (h : HostData) (s : State), nextDesc s = some f ∧ hk0Runs s = true ∧ h.mark = .good ∧ f.desc.op = 0x41 ∧ refusal s (ringSecure s f.ring) f.desc (some (hostBytes f.desc h)) = some { status := stDenied, result := some 7 } ∧ denyReason s (ringSecure s f.ring) f.desc (some (hostBytes f.desc h)) = 7 ∧ f.poison = false :=
  ⟨(tFl { op := 0x41, addr := 8, arg1 := 232 }), { bytes := tBrkBlock true, mark := .good }, tDesc { op := 0x41, addr := 8, arg1 := 232 } (tPwBad tOn), by decide +kernel, by decide +kernel, by decide +kernel, by decide +kernel, by
    unfold refusal denyReason
    rw [show Option.any (passwordBad (tDesc { op := 0x41, addr := 8, arg1 := 232 } (tPwBad tOn))) (some (hostBytes (tFl { op := 0x41, addr := 8, arg1 := 232 }).desc { bytes := tBrkBlock true, mark := .good })) = true by
      rw [Option.any_some]; exact tPw_bad (by decide +kernel)] <;> decide +kernel, by
    unfold denyReason
    rw [show Option.any (passwordBad (tDesc { op := 0x41, addr := 8, arg1 := 232 } (tPwBad tOn))) (some (hostBytes (tFl { op := 0x41, addr := 8, arg1 := 232 }).desc { bytes := tBrkBlock true, mark := .good })) = true by
      rw [Option.any_some]; exact tPw_bad (by decide +kernel)] <;> decide +kernel, by decide +kernel⟩

theorem witness_DescriptorServiceCommands_23 : ∃ (f : Flight) (h : HostData) (s : State), starts f (hostBytes f.desc h) s ∧ f.desc.op = 0x41 ∧ bitOf (leAt (hostBytes f.desc h) 1 1) 0 = false ∧ h.mark = .good ∧ mirrors s = false ∧ passwordBad s (hostBytes f.desc h) = false ∧ h.onward = .good :=
  ⟨(tFl { op := 0x41, addr := 8, arg1 := 232 }), { bytes := tBrkBlock false, mark := .good }, tDesc { op := 0x41, addr := 8, arg1 := 232 } (tPw tOn), ⟨by decide +kernel, by decide +kernel, by
    unfold refusal denyReason
    rw [show Option.any (passwordBad (tDesc { op := 0x41, addr := 8, arg1 := 232 } (tPw tOn))) (some (hostBytes (tFl { op := 0x41, addr := 8, arg1 := 232 }).desc { bytes := tBrkBlock false, mark := .good })) = false by
      rw [Option.any_some]; exact tPw_good (by decide +kernel)] <;> decide +kernel⟩, by decide +kernel, by decide +kernel, by decide +kernel, by decide +kernel, (show passwordBad (tDesc { op := 0x41, addr := 8, arg1 := 232 } (tPw tOn)) (hostBytes (tFl { op := 0x41, addr := 8, arg1 := 232 }).desc { bytes := tBrkBlock false, mark := .good }) = false from
    tPw_good (by decide +kernel)), rfl⟩

theorem witness_DescriptorServiceCommands_24 : ∃ (f : Flight) (h : HostData) (s : State), starts f (hostBytes f.desc h) s ∧ f.desc.op = 0x41 ∧ bitOf (leAt (hostBytes f.desc h) 1 1) 0 = true ∧ h.mark = .good ∧ mirrors s = false ∧ passwordBad s (hostBytes f.desc h) = false ∧ (crc32n ((hostBytes f.desc h).drop 40)) = s.brk.pcrc ∧ h.onward = .good :=
  ⟨(tFl { op := 0x41, addr := 8, arg1 := 232 }), { bytes := tBrkBlock true, mark := .good }, tDesc { op := 0x41, addr := 8, arg1 := 232 } (tPw (tPcrc 0 tOn)), ⟨by decide +kernel, by decide +kernel, by
    unfold refusal denyReason
    rw [show Option.any (passwordBad (tDesc { op := 0x41, addr := 8, arg1 := 232 } (tPw (tPcrc 0 tOn)))) (some (hostBytes (tFl { op := 0x41, addr := 8, arg1 := 232 }).desc { bytes := tBrkBlock true, mark := .good })) = false by
      rw [Option.any_some]; exact tPw_good (by decide +kernel)] <;> decide +kernel⟩, by decide +kernel, by decide +kernel, by decide +kernel, by decide +kernel, (show passwordBad (tDesc { op := 0x41, addr := 8, arg1 := 232 } (tPw (tPcrc 0 tOn))) (hostBytes (tFl { op := 0x41, addr := 8, arg1 := 232 }).desc { bytes := tBrkBlock true, mark := .good }) = false from
    tPw_good (by decide +kernel)), by rw [tPcrc_eq 0 (by decide +kernel)], rfl⟩

theorem witness_DescriptorServiceCommands_25 : ∃ (f : Flight) (h : HostData) (s : State), starts f (hostBytes f.desc h) s ∧ f.desc.op = 0x41 ∧ bitOf (leAt (hostBytes f.desc h) 1 1) 0 = true ∧ h.mark = .good ∧ mirrors s = false ∧ passwordBad s (hostBytes f.desc h) = false ∧ (crc32n ((hostBytes f.desc h).drop 40)) ≠ s.brk.pcrc ∧ s.brk.ch.toList.any (fun (y : BrkCh) => brkAtOnce y.st) = false ∧ h.onward = .good :=
  ⟨(tFl { op := 0x41, addr := 8, arg1 := 232 }), { bytes := tBrkBlock true, mark := .good }, tDesc { op := 0x41, addr := 8, arg1 := 232 } (tPw (tPcrc 1 (List.foldl (fun s (j : Fin 4) => setBrk j (fun x => { x with st := .released }) s) tOn [0, 1, 2, 3]))), ⟨by decide +kernel, by decide +kernel, by
    unfold refusal denyReason
    rw [show Option.any (passwordBad (tDesc { op := 0x41, addr := 8, arg1 := 232 } (tPw (tPcrc 1 (List.foldl (fun s (j : Fin 4) => setBrk j (fun x => { x with st := .released }) s) tOn [0, 1, 2, 3]))))) (some (hostBytes (tFl { op := 0x41, addr := 8, arg1 := 232 }).desc { bytes := tBrkBlock true, mark := .good })) = false by
      rw [Option.any_some]; exact tPw_good (by decide +kernel)] <;> decide +kernel⟩, by decide +kernel, by decide +kernel, by decide +kernel, by decide +kernel, (show passwordBad (tDesc { op := 0x41, addr := 8, arg1 := 232 } (tPw (tPcrc 1 (List.foldl (fun s (j : Fin 4) => setBrk j (fun x => { x with st := .released }) s) tOn [0, 1, 2, 3])))) (hostBytes (tFl { op := 0x41, addr := 8, arg1 := 232 }).desc { bytes := tBrkBlock true, mark := .good }) = false from
    tPw_good (by decide +kernel)), by rw [ne_eq, tPcrc_eq 1 (by decide +kernel)]; decide, by decide +kernel, rfl⟩

theorem witness_DescriptorServiceCommands_26 : ∃ (f : Flight) (h : HostData) (s : State), starts f (hostBytes f.desc h) s ∧ f.desc.op = 0x41 ∧ bitOf (leAt (hostBytes f.desc h) 1 1) 0 = true ∧ h.mark = .good ∧ mirrors s = false ∧ passwordBad s (hostBytes f.desc h) = false ∧ (crc32n ((hostBytes f.desc h).drop 40)) ≠ s.brk.pcrc ∧ s.brk.ch.toList.any (fun (y : BrkCh) => brkAtOnce y.st) = true ∧ h.onward = .good :=
  ⟨(tFl { op := 0x41, addr := 8, arg1 := 232 }), { bytes := tBrkBlock true, mark := .good }, tDesc { op := 0x41, addr := 8, arg1 := 232 } (tPw (tPcrc 1 tOn)), ⟨by decide +kernel, by decide +kernel, by
    unfold refusal denyReason
    rw [show Option.any (passwordBad (tDesc { op := 0x41, addr := 8, arg1 := 232 } (tPw (tPcrc 1 tOn)))) (some (hostBytes (tFl { op := 0x41, addr := 8, arg1 := 232 }).desc { bytes := tBrkBlock true, mark := .good })) = false by
      rw [Option.any_some]; exact tPw_good (by decide +kernel)] <;> decide +kernel⟩, by decide +kernel, by decide +kernel, by decide +kernel, by decide +kernel, (show passwordBad (tDesc { op := 0x41, addr := 8, arg1 := 232 } (tPw (tPcrc 1 tOn))) (hostBytes (tFl { op := 0x41, addr := 8, arg1 := 232 }).desc { bytes := tBrkBlock true, mark := .good }) = false from
    tPw_good (by decide +kernel)), by rw [ne_eq, tPcrc_eq 1 (by decide +kernel)]; decide, by decide +kernel, rfl⟩

theorem witness_RingPageCommands_1 : ∃ (fn : Func) (r : Fin 64) (v : Word) (s : State), ringOpen fn r s ∧ (vget s.shu.rings r).state = .running ∧ v.toNat % 4096 < 2 ^ (vget s.shu.rings r).sqLog2 :=
  ⟨.f1, 56, 15, tRing { state := .running, sqLog2 := 4, cqLog2 := 4, cqHead := 14, cqUsed := 4 }, by decide⟩

theorem witness_RingPageCommands_2 : ∃ (fn : Func) (r : Fin 64) (v : Word) (s : State), ringOpen fn r s ∧ (vget s.shu.rings r).state = .running ∧ 2 ^ (vget s.shu.rings r).sqLog2 ≤ v.toNat % 4096 :=
  ⟨.f1, 56, 16, tRing { state := .running, sqLog2 := 4, cqLog2 := 4, cqHead := 14, cqUsed := 4 }, by decide⟩

theorem witness_RingPageCommands_3 : ∃ (fn : Func) (r : Fin 64) (v : Word) (s : State), ringOpen fn r s ∧ (vget s.shu.rings r).state = .running ∧ v.toNat % 4096 < 2 ^ (vget s.shu.rings r).cqLog2 :=
  ⟨.f1, 56, 1, tRing { state := .running, sqLog2 := 4, cqLog2 := 4, cqHead := 14, cqUsed := 4 }, by decide⟩

theorem witness_RingPageCommands_4 : ∃ (fn : Func) (r : Fin 64) (v : Word) (s : State), ringOpen fn r s ∧ (vget s.shu.rings r).state = .running ∧ 2 ^ (vget s.shu.rings r).cqLog2 ≤ v.toNat % 4096 :=
  ⟨.f1, 56, 16, tRing { state := .running, sqLog2 := 4, cqLog2 := 4, cqHead := 14, cqUsed := 4 }, by decide⟩

theorem witness_RingPageCommands_5 : ∃ (fn : Func) (r : Fin 64) (v : Word) (s : State), ringOpen fn r s ∧ s.shu.ready = true ∧ ((vget s.shu.rings r).state = .disabled ∨ (vget s.shu.rings r).state = .halted ∨ ((vget s.shu.rings r).state = .stopped ∧ inflight s r = 0)) ∧ v.toNat = epoch s ∧ ringSound (vget s.shu.rings r) = true :=
  ⟨.f1, 56, 0x10000, tRing { state := .stopped, fault := true, cause := 3 }, by decide⟩

theorem witness_RingPageCommands_6 : ∃ (fn : Func) (r : Fin 64) (v : Word) (s : State), ringOpen fn r s ∧ s.shu.ready = true ∧ ((vget s.shu.rings r).state = .disabled ∨ (vget s.shu.rings r).state = .halted ∨ ((vget s.shu.rings r).state = .stopped ∧ inflight s r = 0)) ∧ v.toNat ≠ epoch s :=
  ⟨.f1, 56, 0, tRing {}, by decide⟩

theorem witness_RingPageCommands_7 : ∃ (fn : Func) (r : Fin 64) (v : Word) (s : State), ringOpen fn r s ∧ s.shu.ready = true ∧ ((vget s.shu.rings r).state = .disabled ∨ (vget s.shu.rings r).state = .halted ∨ ((vget s.shu.rings r).state = .stopped ∧ inflight s r = 0)) ∧ v.toNat = epoch s ∧ ringSound (vget s.shu.rings r) = false :=
  ⟨.f1, 56, 0x10000, tRing { sqLog2 := 13 }, by decide⟩

theorem witness_RingPageCommands_8 : ∃ (fn : Func) (r : Fin 64) (s : State), ringOpen fn r s :=
  ⟨.f1, 56, tRing { state := .running, sqLog2 := 4, cqLog2 := 4, cqHead := 14, cqUsed := 4 }, by decide⟩

theorem witness_RingPageCommands_9 : ∃ (r : Fin 64) (v : Word) (s : State), linkOn s = true ∧ ringSecure s r = true :=
  ⟨56, 0, tRing { state := .running, sqLog2 := 4, cqLog2 := 4, cqHead := 14, cqUsed := 4 }, by decide⟩

theorem witness_RingTrafficCommands_1 : ∃ (l : List Fetched) (r : Fin 64) (s : State), linkOn s = true ∧ hkOn s = true ∧ ringNext s = some r :=
  ⟨[], 56, tRing { state := .running, sqTail := 1 }, by decide⟩

theorem witness_RingTrafficCommands_2 : ∃ (r : Fin 64) (w : Bool) (s : State), linkOn s = true ∧ (vget s.shu.rings r).state = .running :=
  ⟨56, true, tRing { state := .running, sqLog2 := 4, cqLog2 := 4, cqHead := 14, cqUsed := 4 }, by decide⟩

theorem witness_RingTrafficCommands_3 : ∃ (r : Fin 64) (c : Completion) (l : List Completion) (s : State), linkOn s = true ∧ (vget s.shu.rings r).waiting = c :: l ∧ (vget s.shu.rings r).cqUsed < 2 ^ (vget s.shu.rings r).cqLog2 :=
  ⟨56, { no := 1, tag := 0, handle := 0, status := 0, result := 0, cflags := 0, irq := false }, [], tRing { state := .running, waiting := [{ no := 1, tag := 0, handle := 0, status := 0, result := 0, cflags := 0, irq := false }], cqUsed := 15 }, by decide⟩

theorem witness_RingTrafficCommands_4 : ∃ (r : Fin 64) (s : State), linkOn s = true ∧ (vget s.shu.rings r).modRun = true ∧ (vget s.shu.rings r).modPend = true :=
  ⟨56, tRing { modRun := true, modPend := true }, by decide⟩

theorem witness_RingTrafficCommands_5 : ∃ (r : Fin 64) (s : State), linkOn s = true ∧ (vget s.shu.rings r).modRun = true ∧ (vget s.shu.rings r).modPend = false :=
  ⟨56, tRing { modRun := true }, by decide⟩

theorem witness_FunctionLevelReset_1 : ∃ (fn : Func) (s : State), linkOn s = true :=
  ⟨.f1, tRing { state := .running, sqLog2 := 4, cqLog2 := 4, cqHead := 14, cqUsed := 4 }, by decide⟩

theorem witness_SessionCommands_1 : ∃ (fn : Func) (s : State), reaches fn 0x820 s ∧ s.sec.keySet = true ∧ s.shu.sess.state ≠ .locked ∧ s.shu.sess.checking = false :=
  ⟨.f1, { tRing {} with sec := { (tRing {}).sec with keySet := true } }, by decide⟩

theorem witness_SessionCommands_2 : ∃ (fn : Func) (v : Word) (s : State), reaches fn 0x85C s ∧ s.shu.sess.state = .challenged ∧ s.shu.sess.checking = false :=
  ⟨.f1, 7, setSess (fun x => { x with state := .challenged }) (tRing {}), by decide⟩

theorem witness_SessionCommands_3 : ∃ (s : State), hkOn s = true ∧ s.shu.sess.checking = true ∧ bvBytes 32 s.shu.sess.resp = sessAnswer s s.shu.sess.nonce s.shu.sess.count [] :=
  ⟨setSess (fun x => { x with checking := true, resp := bvOf 256 (sessAnswer tOn 0 0 []) }) tOn, by decide +kernel, by decide +kernel, by decide +kernel⟩

theorem witness_SessionCommands_4 : ∃ (s : State), hkOn s = true ∧ s.shu.sess.checking = true ∧ bvBytes 32 s.shu.sess.resp ≠ sessAnswer s s.shu.sess.nonce s.shu.sess.count [] ∧ s.shu.sess.fails < 2 :=
  ⟨setSess (fun x => { x with checking := true, fails := 1 }) tOn, by decide +kernel, by decide +kernel, by decide +kernel, by decide +kernel⟩

theorem witness_SessionCommands_5 : ∃ (s : State), hkOn s = true ∧ s.shu.sess.checking = true ∧ bvBytes 32 s.shu.sess.resp ≠ sessAnswer s s.shu.sess.nonce s.shu.sess.count [] ∧ 2 ≤ s.shu.sess.fails :=
  ⟨setSess (fun x => { x with checking := true, fails := 2 }) tOn, by decide +kernel, by decide +kernel, by decide +kernel, by decide +kernel⟩

theorem witness_SessionCommands_6 : ∃ (fn : Func) (s : State), reaches fn 0x820 s ∧ s.shu.sess.state = .challenged ∧ s.shu.sess.checking = false :=
  ⟨.f1, setSess (fun x => { x with state := .challenged }) (tRing {}), by decide⟩

theorem witness_SessionCommands_7 : ∃ (fn : Func) (s : State), reaches fn 0x820 s ∧ s.shu.sess.state = .open :=
  ⟨.f1, tRing {}, by decide⟩

theorem witness_SessionCommands_8 : ∃ (s : State), s.shu.sess.state = .locked :=
  ⟨setSess (fun x => { x with state := .locked }) tOn, by decide⟩

theorem witness_SessionCommands_9 : ∃ (f : Flight) (s : State), nextDesc s = some f ∧ 0 < dataLen f.desc ∧ hk0Runs s = true ∧ refusal s (ringSecure s f.ring) f.desc none = none :=
  ⟨(tFl { op := 8, addr := 8, arg1 := 4 }), tDesc { op := 8, addr := 8, arg1 := 4 } tOn, by decide +kernel⟩

theorem witness_ScanCommands_1 : ∃ (n : Fin 8) (s : State), loomUp s n = true ∧ drives s = true ∧ (vget s.loom n).state = .running ∧ (vget s.loom n).mode = .idle ∧ (vget s.loom n).gather = none ∧ latchHeld s n = false ∧ ((vget s.loom n).firstDue = true ∨ (vget s.loom n).fresh1 = true ∨ (vget s.loom n).scan = 0 ∨ (vget s.loom n).miniv ≤ (loomTime s - (vget s.loom n).ts).toNat) :=
  ⟨0, setLoom 0 (fun e => { e with state := .running, miniv := 5 }) tOn, by decide⟩

theorem witness_ScanCommands_2 : ∃ (n : Fin 8) (s : State), loomUp s n = true ∧ drives s = true ∧ (vget s.loom n).state = .running ∧ (vget s.loom n).mode = .idle ∧ (vget s.loom n).gather = none ∧ latchHeld s n = false ∧ (vget s.loom n).firstDue = false ∧ (vget s.loom n).fresh1 = false ∧ (vget s.loom n).scan ≠ 0 ∧ (loomTime s - (vget s.loom n).ts).toNat < (vget s.loom n).miniv :=
  ⟨0, setLoom 0 (fun e => { e with scan := 1 }) (setLoom 0 (fun e => { e with state := .running, miniv := 5 }) tOn), by decide⟩

theorem witness_ScanCommands_3 : ∃ (n : Fin 8) (w : SMap Word) (s : State), loomUp s n = true ∧ (vget s.loom n).gather = some w ∧ (vget s.loom n).commit = none ∧ (vget s.loom n).mode = .wait ∧ (vget s.loom n).picks = [] :=
  ⟨0, [], setLoom 0 (fun e => { e with gather := some [], mode := .wait }) tOn, by decide⟩

theorem witness_ScanCommands_4 : ∃ (n : Fin 8) (w : SMap Word) (s : State), loomUp s n = true ∧ (vget s.loom n).gather = some w ∧ (vget s.loom n).commit = none ∧ ((vget s.loom n).mode = .ahead ∨ ((vget s.loom n).mode = .wait ∧ (vget s.loom n).picks ≠ [])) :=
  ⟨0, [], setLoom 0 (fun e => { e with gather := some [], mode := .ahead }) tOn, by decide⟩

theorem witness_ScanCommands_5 : ∃ (n : Fin 8) (s : State), loomOn s n = true ∧ (vget s.loom n).state = .running ∧ budgetOf (vget s.loom n) ≤ (vget s.loom n).run.count ∧ (vget s.loom n).mode = .settled :=
  ⟨0, setLoom 0 (fun e => { e with run := { count := budgetOf e } }) (tLoom {} .nop), by decide⟩

theorem witness_ScanCommands_6 : ∃ (n : Fin 8) (s : State), loomOn s n = true ∧ (vget s.loom n).state = .running ∧ budgetOf (vget s.loom n) ≤ (vget s.loom n).run.count ∧ (vget s.loom n).mode = .ahead :=
  ⟨0, setLoom 0 (fun e => { e with mode := .ahead, run := { count := budgetOf e } }) (tLoom {} .nop), by decide⟩

theorem witness_ScanCommands_7 : ∃ (n : Fin 8) (s : State), loomOn s n = true ∧ ((vget s.loom n).state = .stopped ∨ (vget s.loom n).state = .trapped ∨ (vget s.loom n).state = .overrun) :=
  ⟨0, setLoom 0 (fun e => { e with state := .overrun }) tOn, by decide⟩

theorem witness_ScanCommands_8 : ∃ (n : Fin 8) (k : Fin 5) (s : State), loomOn s n = true ∧ k ≠ 0 ∧ (vget s.loom n).state ≠ .fault :=
  ⟨0, 4, tLoom {} .nop, by decide⟩

theorem witness_ScanCommands_9 : ∃ (n : Fin 8) (k : Commit) (s : State), loomOn s n = true ∧ fabricOn s = true ∧ (vget s.loom n).commit = some k ∧ s.mir.swo ≠ .oldWait ∧ (forwards s && latchQueued s n.val k.scan) = false :=
  ⟨0, { scan := 7, work := [], jrn := [], fell := false }, setLoom 0 (fun e => { e with commit := some { scan := 7, work := [], jrn := [], fell := false } }) tOn, by decide⟩

theorem witness_ScanCommands_10 : ∃ (n : Fin 8) (k : Commit) (s : State), loomOn s n = true ∧ fabricOn s = true ∧ (vget s.loom n).commit = some k ∧ s.mir.swo ≠ .oldWait ∧ (forwards s && latchQueued s n.val k.scan) = true ∧ k.waited = false :=
  ⟨0, { scan := 7, work := [], jrn := [], fell := false }, setLoom 0 (fun e => { e with commit := some { scan := 7, work := [], jrn := [], fell := false } }) (setMir (fun m => { m with role := .active, prole := 3, txQ := [(2, [0, 0, 0, 0, 0, 0, 0, 0, 7])] }) tOn), by decide +kernel⟩

theorem witness_ScanCommands_11 : ∃ (n : Fin 8) (k : Commit) (s : State), mirPresent s = false ∧ (vget s.loom n).stopReq = false ∧ (vget s.loom n).teardown = false ∧ (vget s.loom n).stopScan = none :=
  ⟨0, { scan := 7, work := [], jrn := [], fell := false }, { tOn with ident := { tOn.ident with variant := .hz9232 } }, by decide⟩

theorem witness_HubAndChannelCommands_1 : ∃ (i : Fin 16384) (v : Word) (s : State), fabricOn s = true ∧ gathering s = false ∧ crossPois s (delivererGroup s i.val) = false ∧ (pointDef s i.val).kind ≠ 0 :=
  ⟨3, 1, setZor (fun z => { z with running := some { points := [(3, { kind := 4, writer := 0 })] } }) (tOn), by decide⟩

theorem witness_HubAndChannelCommands_2 : ∃ (i : Fin 16384) (v : Word) (s : State), fabricOn s = true ∧ gathering s = true ∧ s.hub.buf.length < 256 ∧ crossPois s (delivererGroup s i.val) = false ∧ (pointDef s i.val).kind ≠ 0 :=
  ⟨3, 1, setZor (fun z => { z with running := some { points := [(3, { kind := 4, writer := 0 })] } }) (setLoom 0 (fun e => { e with gather := some [] }) tOn), by decide⟩

theorem witness_HubAndChannelCommands_3 : ∃ (i : Fin 16384) (v : Word) (s : State), fabricOn s = true ∧ gathering s = true ∧ 256 ≤ s.hub.buf.length ∧ crossPois s (delivererGroup s i.val) = false ∧ (pointDef s i.val).kind ≠ 0 :=
  ⟨3, 1, setZor (fun z => { z with running := some { points := [(3, { kind := 4, writer := 0 })] } }) (setLoom 0 (fun e => { e with gather := some [] }) { tOn with hub := { tOn.hub with buf := List.replicate 256 (0, 0) } }), by decide, by decide, Nat.le_of_eq (List.length_replicate (n := 256) (a := ((0 : Nat), (0 : Word)))).symm, by decide +kernel, by decide +kernel⟩

theorem witness_HubAndChannelCommands_4 : ∃ (i : Fin 16384) (v : Word) (s : State), fabricOn s = true ∧ crossPois s (delivererGroup s i.val) = false :=
  ⟨3, 1, tOn, by decide⟩

theorem witness_HubAndChannelCommands_5 : ∃ (i : Fin 16384) (v : Word) (s : State), fabricOn s = true ∧ crossPois s (delivererGroup s i.val) = false :=
  ⟨3, 1, tOn, by decide⟩

theorem witness_HubAndChannelCommands_6 : ∃ (i : Fin 16384) (v : Word) (k : Mark) (s : State), fabricOn s = true ∧ crossPois s (delivererGroup s i.val) = true :=
  ⟨3, 1, .good, { tOn with hed := { tOn.hed with pois := 0x1FFFFFF } }, by decide +kernel⟩

theorem witness_HubAndChannelCommands_7 : ∃ (x : Fin 8192) (e : HEntry) (s : State), handleEnt s x.val = some e ∧ e.st = .destroying ∧ tornDown s e = true :=
  ⟨5, { kind := 4, target := 0, gen := 1, st := .destroying }, { tOn with shu := { tOn.shu with handles := [(5, { kind := 4, target := 0, gen := 1, st := .destroying })] } }, by decide⟩

theorem witness_HubAndChannelCommands_8 : ∃ (x : Fin 8192) (b : PostedBuf) (l : List PostedBuf) (s : State), hkOn s = true ∧ (mapGetD {} s.shu.streams x.val).bufs = b :: l ∧ 0 < b.used :=
  ⟨5, { no := 1, addr := 0, len := 64, used := 8 }, [], { tOn with shu := { tOn.shu with streams := [(5, { bufs := [{ no := 1, addr := 0, len := 64, used := 8 }] })] } }, by decide⟩

theorem witness_HubAndChannelCommands_9 : ∃ (q : Word) (w : FwdDesc) (s : State), hkOn s = true ∧ s.mir.fwdWait.find? (fun x => x.fwdseq = q.toNat) = some w :=
  ⟨7, { no := 1, fwdseq := 7, count := 0, bytes := [], data := [], secure := true }, setMir (fun m => { m with fwdWait := [{ no := 1, fwdseq := 7, count := 0, bytes := [], data := [], secure := true }] }) tOn, by decide⟩

theorem witness_PrismFrameCommands_1 : ∃ (n : Fin 4) (s : State), prismRuns s n = true ∧ (prismAt s n).offAt = none :=
  ⟨0, tSlot {}, by decide⟩

theorem witness_PrismFrameCommands_2 : ∃ (n : Fin 4) (q : Nat) (s : State), prismRuns s n = true ∧ (prismAt s n).offAt = some q ∧ q ≤ (prismAt s n).pcnt + 1 :=
  ⟨0, 5, setPrism 0 (fun p => { p with offAt := some 5 }) (tSlot {}), by decide⟩

theorem witness_PrismFrameCommands_3 : ∃ (l : Fin 256) (s : State), prismRuns s (loopEngine l) = true ∧ (loopSlot l).val < (prismAt s (loopEngine l)).nslot ∧ (vget (prismAt s (loopEngine l)).slots (loopSlot l)).live = true ∧ (vget (prismAt s (loopEngine l)).slots (loopSlot l)).sampled ≠ some (prismAt s (loopEngine l)).pcnt ∧ (vget (prismAt s (loopEngine l)).slots (loopSlot l)).tearAt = none ∧ (vget (prismAt s (loopEngine l)).slots (loopSlot l)).comps.any (·.tear) = false :=
  ⟨0, tSlot {}, by decide⟩

theorem witness_PrismFrameCommands_4 : ∃ (l : Fin 256) (j : Fin 5) (c : Capture) (k : Comp) (v : Int) (s : State), prismRuns s (loopEngine l) = true ∧ follows s = false ∧ c.mark = .good ∧ c.held = false ∧ (slotGet s l).comps.find? (fun k => !k.done && k.pc % 2 ^ 32 = c.pcnt.toNat && (vget k.got j).isNone && srcNamed (vget k.srcs j)) = some k ∧ returnPois s (loopEngine l) (vget k.srcs j) = false ∧ captureValue s (vget k.srcs j) (vget k.pts j) (vget k.encs j) (vget (slotGet s l).fwdV j) c = some v :=
  ⟨0, 0, { value := 7, ageNs := 0, held := false, mark := .good, pcnt := 5, full := false }, { pc := 5, srcs := Vector.replicate 5 { kind := 1, index := 3 }, pts := Vector.replicate 5 9 }, 9, tSlot { comps := [{ pc := 5, srcs := Vector.replicate 5 { kind := 1, index := 3 }, pts := Vector.replicate 5 9 }] }, by decide⟩

theorem witness_PrismFrameCommands_5 : ∃ (l : Fin 256) (j : Fin 5) (c : Capture) (k : Comp) (s : State), prismRuns s (loopEngine l) = true ∧ follows s = false ∧ c.mark = .poisoned ∧ c.held = false ∧ (slotGet s l).comps.find? (fun k => !k.done && k.pc % 2 ^ 32 = c.pcnt.toNat && (vget k.got j).isNone && srcNamed (vget k.srcs j)) = some k ∧ returnPois s (loopEngine l) (vget k.srcs j) = false :=
  ⟨0, 0, { value := 7, ageNs := 0, held := false, mark := .poisoned, pcnt := 5, full := false }, { pc := 5, srcs := Vector.replicate 5 { kind := 1, index := 3 }, pts := Vector.replicate 5 9 }, tSlot { comps := [{ pc := 5, srcs := Vector.replicate 5 { kind := 1, index := 3 }, pts := Vector.replicate 5 9 }] }, by decide⟩

theorem witness_PrismFrameCommands_6 : ∃ (l : Fin 256) (k : Comp) (s : State), prismRuns s (loopEngine l) = true ∧ follows s = false ∧ forwards s = false ∧ (slotGet s l).comps.find? (fun k => !k.done && !k.tear) = some k ∧ k.cmds = [] ∧ (slotGet s l).run ≠ .disabled :=
  ⟨0, { pc := 5 }, tSlot { run := .running, comps := [{ pc := 5 }] }, by decide⟩

theorem witness_PrismFrameCommands_7 : ∃ (l : Fin 256) (k : Comp) (s : State), prismRuns s (loopEngine l) = true ∧ (slotGet s l).comps.find? (fun k => !k.done && !k.tear) = some k ∧ k.cmds = [] ∧ (slotGet s l).run = .disabled :=
  ⟨0, { pc := 5 }, tSlot { comps := [{ pc := 5 }] }, by decide⟩

theorem witness_PrismFrameCommands_8 : ∃ (l : Fin 256) (k : Comp) (r : List Comp) (w : SinkWord) (s : State), prismRuns s (loopEngine l) = true ∧ (slotGet s l).comps = k :: r ∧ k.done = true ∧ k.active = true ∧ k.tear = false :=
  ⟨0, { pc := 4, done := true, active := true, u := 7 }, [], { mark := .good, full := false }, tSlot { run := .running, comps := [{ pc := 4, done := true, active := true, u := 7 }] }, by decide⟩

theorem witness_PrismFrameCommands_9 : ∃ (l : Fin 256) (k : Comp) (r : List Comp) (w : SinkWord) (s : State), prismRuns s (loopEngine l) = true ∧ (slotGet s l).comps = k :: r ∧ k.done = true ∧ k.active = false :=
  ⟨0, { pc := 4, done := true }, [], { mark := .good, full := false }, tSlot { comps := [{ pc := 4, done := true }] }, by decide⟩

theorem witness_PrismFrameCommands_10 : ∃ (n : Fin 4) (k : Fin 5) (s : State), prismRuns s n = true ∧ k ≠ 0 :=
  ⟨0, 4, tSlot {}, by decide⟩

theorem witness_PrismSoftStop_1 : ∃ (m : Int) (x : Slot), x.run ≠ .disabled :=
  ⟨0, { run := .tripped }, by decide⟩

theorem witness_PrismSoftStop_2 : ∃ (l : Law) (lost : Bool) (x : Slot), x.run = .stopping :=
  ⟨{ y := 5, s := 0, x := 0, fric := 0, cog := 0, wrap := false }, false, { run := .stopping, hasRun := true, uPrev := 100, setA := { rampStop := 30 } }, by decide⟩

theorem witness_PrismDrivenOutput_1 : ∃ (l : Law) (lost : Bool) (x : Slot), (x.run = .starting ∨ x.run = .running) ∧ x.hand = false ∧ x.ho = false ∧ (selSet x).umin ≤ (selSet x).umax :=
  ⟨{ y := 5, s := 0, x := 0, fric := 0, cog := 0, wrap := false }, true, { run := .running, hasRun := true, uPrev := 100, setA := { umax := 100 } }, by decide⟩

theorem witness_EthernetSwitchCommands_1 : ∃ (p : Fin 2) (f : EthFrame) (s : State), switched p f s ∧ ethBytes (vget s.eth.ports (otherPort p)) + f.len ≤ 65536 ∧ ethHigh f = true :=
  ⟨0, (tEthFrame (tPtp .sync false)), tEth {}, by decide⟩

theorem witness_EthernetSwitchCommands_2 : ∃ (p : Fin 2) (f : EthFrame) (s : State), switched p f s ∧ ethBytes (vget s.eth.ports (otherPort p)) + f.len ≤ 65536 ∧ ethHigh f = false :=
  ⟨0, { (tEthFrame (tPtp .sync false)) with content := .other, prio := 5 }, tEth {}, by decide⟩

theorem witness_EthernetSwitchCommands_3 : ∃ (p : Fin 2) (f : EthFrame) (s : State), switched p f s ∧ 65536 < ethBytes (vget s.eth.ports (otherPort p)) + f.len :=
  ⟨0, (tEthFrame (tPtp .sync false)), tEth { ports := Vector.replicate 2 { low := [{ frame := { (tEthFrame (tPtp .sync false)) with len := 65447 }, from_ := 0, ingress := 0 }] } }, by decide⟩

theorem witness_EthernetSwitchCommands_4 : ∃ (p : Fin 2) (f : EthFrame) (s : State), ethLink s p = true ∧ f.badFcs = false ∧ 64 ≤ f.len ∧ f.len ≤ 1522 ∧ s.eth.swmode = false ∧ ethForwards (ethLearn p f.src s.eth) p f = false :=
  ⟨0, { (tEthFrame (tPtp .sync false)) with multicast := false, dst := 7 }, tEth { mac := 7 }, by decide⟩

theorem witness_EthernetSwitchCommands_5 : ∃ (p : Fin 2) (f : EthFrame) (s : State), ethLink s p = true ∧ f.badFcs = false ∧ 64 ≤ f.len ∧ f.len ≤ 1522 ∧ s.eth.swmode = true :=
  ⟨0, (tEthFrame (tPtp .sync false)), tEth { swmode := true }, by decide⟩

theorem witness_EthernetSwitchCommands_6 : ∃ (p : Fin 2) (f : EthFrame) (s : State), ethLink s p = true ∧ (f.badFcs = true ∨ f.len < 64 ∨ 1522 < f.len) :=
  ⟨0, { (tEthFrame (tPtp .sync false)) with len := 1523 }, tEth {}, by decide⟩

theorem witness_EthernetSwitchCommands_7 : ∃ (p : Fin 2) (f : EthFrame) (m : PtpMsg) (s : State), f.content = .ptp m ∧ m.kind = .sync ∧ internalVia s.eth { transport := m.transport, multicast := f.multicast, dst := m.dst } = true :=
  ⟨0, (tEthFrame (tPtp .sync false)), (tPtp .sync false), tEth {}, by decide⟩

theorem witness_EthernetSwitchCommands_8 : ∃ (p : Fin 2) (f : EthFrame) (s : State), (∀ m, f.content = .ptp m → m.kind ≠ .sync) :=
  ⟨0, { (tEthFrame (tPtp .sync false)) with content := .other }, tEth {}, by intro m h; cases h⟩

theorem witness_EthernetSwitchCommands_9 : ∃ (q : Fin 2) (w : EthWait) (r : List EthWait) (s : State), ethLink s q = true ∧ (vget s.eth.ports q).speed = 2 ∧ (vget s.eth.ports q).left = 0 ∧ (vget s.eth.ports q).high = w :: r :=
  ⟨1, { frame := (tEthFrame (tPtp .sync false)), from_ := 0, ingress := 0 }, [], tEth { ports := Vector.replicate 2 { high := [{ frame := (tEthFrame (tPtp .sync false)), from_ := 0, ingress := 0 }] } }, by decide⟩

theorem witness_EthernetSwitchCommands_10 : ∃ (q : Fin 2) (w : EthWait) (r : List EthWait) (s : State), ethLink s q = true ∧ (vget s.eth.ports q).speed = 2 ∧ (vget s.eth.ports q).left = 0 ∧ (vget s.eth.ports q).high = [] ∧ (vget s.eth.ports q).low = w :: r :=
  ⟨1, { frame := (tEthFrame (tPtp .sync false)), from_ := 0, ingress := 0 }, [], tEth { ports := Vector.replicate 2 { low := [{ frame := (tEthFrame (tPtp .sync false)), from_ := 0, ingress := 0 }] } }, by decide⟩

theorem witness_EthernetSwitchCommands_11 : ∃ (p : Fin 2) (g : Bool) (s : State), ethOn s = true ∧ s.eth.portEn.testBit p.val = true ∧ (g || s.eth.allow100) = true ∧ (vget s.eth.ports p).speed = 0 :=
  ⟨1, false, tOn, by decide⟩

theorem witness_EthernetSwitchCommands_12 : ∃ (p : Fin 2) (s : State), ethOn s = true ∧ (vget s.eth.ports p).speed ≠ 0 :=
  ⟨1, tEth {}, by decide⟩

theorem witness_EthernetSwitchCommands_13 : ∃ (a : BitVec 48) (s : State), ethOn s = true :=
  ⟨1, tEth { learned := [(1, 0)] }, by decide⟩

theorem witness_EthernetSwitchCommands_14 : ∃ (p : Fin 2) (t : Word) (a : BitVec 48) (s : State), ethLink s p = true ∧ t = s.eth.ipv4 :=
  ⟨0, 0xC0A80001, 1, tEth { ipv4 := 0xC0A80001 }, by decide⟩

theorem witness_TwoStepTable_1 : ∃ (q : Fin 2) (w : EthWait) (m : PtpMsg) (e : TwoStep) (g : Nat) (s : State), w.frame.content = .ptp m ∧ s.eth.tcEn = true ∧ m.transport ≠ .udp6 ∧ m.kind = .followUp ∧ (vget s.eth.ports w.from_).pending.find? (sameKey m) = some e :=
  ⟨1, { frame := (tEthFrame (tPtp .followUp false)), from_ := 0, ingress := 7301220 }, (tPtp .followUp false), { source := 7, domain := 0, seqId := 3, res := 4312 }, 7305532, tEth { ports := Vector.replicate 2 { pending := [{ source := 7, domain := 0, seqId := 3, res := 4312 }] } }, by decide⟩

theorem witness_TwoStepTable_2 : ∃ (q : Fin 2) (w : EthWait) (m : PtpMsg) (g : Nat) (s : State), w.frame.content = .ptp m ∧ s.eth.tcEn = true ∧ m.transport ≠ .udp6 ∧ m.kind = .followUp ∧ (vget s.eth.ports w.from_).pending.find? (sameKey m) = none :=
  ⟨1, { frame := (tEthFrame (tPtp .followUp false)), from_ := 0, ingress := 7301220 }, (tPtp .followUp false), 7305532, tEth {}, by decide⟩

theorem witness_TwoStepTable_3 : ∃ (q : Fin 2) (w : EthWait) (m : PtpMsg) (g : Nat) (s : State), w.frame.content = .ptp m ∧ s.eth.tcEn = true ∧ m.transport ≠ .udp6 ∧ m.kind = .sync ∧ m.twoStep = true ∧ ((vget s.eth.ports w.from_).pending.filter fun x => !sameKey m x).length < 32 :=
  ⟨1, { frame := (tEthFrame (tPtp .sync true)), from_ := 0, ingress := 7301220 }, (tPtp .sync true), 7305532, tEth { ports := Vector.replicate 2 { pending := List.replicate 31 { source := 1, domain := 0, seqId := 0, res := 0 } } }, by decide⟩

theorem witness_TwoStepTable_4 : ∃ (q : Fin 2) (w : EthWait) (m : PtpMsg) (g : Nat) (s : State), w.frame.content = .ptp m ∧ s.eth.tcEn = true ∧ m.transport ≠ .udp6 ∧ m.kind = .sync ∧ m.twoStep = true ∧ 32 ≤ ((vget s.eth.ports w.from_).pending.filter fun x => !sameKey m x).length :=
  ⟨1, { frame := (tEthFrame (tPtp .sync true)), from_ := 0, ingress := 7301220 }, (tPtp .sync true), 7305532, tEth { ports := Vector.replicate 2 { pending := List.replicate 32 { source := 1, domain := 0, seqId := 0, res := 0 } } }, by decide⟩

theorem witness_TwoStepTable_5 : ∃ (q : Fin 2) (w : EthWait) (m : PtpMsg) (g : Nat) (s : State), w.frame.content = .ptp m ∧ s.eth.tcEn = true ∧ m.transport ≠ .udp6 ∧ ((m.kind = .sync ∧ m.twoStep = false) ∨ m.kind = .delayReq) :=
  ⟨1, { frame := (tEthFrame (tPtp .sync false)), from_ := 0, ingress := 7301220 }, (tPtp .sync false), 7305532, tEth {}, by decide⟩

theorem witness_TwoStepTable_6 : ∃ (q : Fin 2) (w : EthWait) (m : PtpMsg) (g : Nat) (s : State), w.frame.content = .ptp m ∧ s.eth.tcEn = false :=
  ⟨1, { frame := (tEthFrame (tPtp .sync false)), from_ := 0, ingress := 7301220 }, (tPtp .sync false), 7305532, tEth { tcEn := false }, by decide⟩

theorem witness_TwoStepTable_7 : ∃ (p : Fin 2) (a : BitVec 80) (d : Nat) (q : BitVec 16) (s : State), ethOn s = true :=
  ⟨0, 7, 0, 3, tEth { ports := Vector.replicate 2 { pending := [{ source := 7, domain := 0, seqId := 3, res := 4312 }] } }, by decide⟩

theorem witness_TimeCommands_1 : ∃ (p : Fin 2) (a : Announce) (s : State), ethLink s p = true ∧ internalVia s.eth a.via = true ∧ ptpAccepts s.tim a.via.transport a.domain = true ∧ (bestMaster ((s.tim.masters.filter fun m => !(m.port = p && m.ann.source = a.source)) ++ [{ port := p, ann := a }])).map (·.ann.gmId) = some s.tim.gmid :=
  ⟨0, tAnn 5, { tEth {} with tim := { gmid := 5 } }, by decide, by decide, by decide⟩

theorem witness_TimeCommands_2 : ∃ (p : Fin 2) (a : Announce) (g : BitVec 64) (s : State), ethLink s p = true ∧ internalVia s.eth a.via = true ∧ ptpAccepts s.tim a.via.transport a.domain = true ∧ (bestMaster ((s.tim.masters.filter fun m => !(m.port = p && m.ann.source = a.source)) ++ [{ port := p, ann := a }])).map (·.ann.gmId) = some g ∧ g ≠ s.tim.gmid :=
  ⟨0, tAnn 5, (tAnn 5).gmId, { tEth {} with tim := { gmid := 9 } }, by decide, by decide, by decide, by decide⟩

theorem witness_TimeCommands_3 : ∃ (p : Fin 2) (m : SyncMsg) (r : RxStamp) (s : State), ethLink s p = true ∧ internalVia s.eth m.via = true ∧ ptpAccepts s.tim m.via.transport m.domain = true ∧ fromMaster s p m.source = true ∧ s.tim.rx.find? (fun r => r.port = p && r.domain = m.domain && r.source = m.source && r.seqId = m.seqId) = some r ∧ s.tim.auto = true ∧ hkOn s = true :=
  ⟨0, tSync 0, { port := 0, domain := 0, source := 7, seqId := 3, t2 := 25, corr := 0 }, { tEth {} with tim := tMaster { rx := [{ port := 0, domain := 0, source := 7, seqId := 3, t2 := 25, corr := 0 }] } }, by decide +kernel⟩

theorem witness_TimeCommands_4 : ∃ (p : Fin 2) (m : SyncMsg) (r : RxStamp) (s : State), ethLink s p = true ∧ internalVia s.eth m.via = true ∧ ptpAccepts s.tim m.via.transport m.domain = true ∧ fromMaster s p m.source = true ∧ s.tim.rx.find? (fun r => r.port = p && r.domain = m.domain && r.source = m.source && r.seqId = m.seqId) = some r ∧ s.tim.auto = false :=
  ⟨0, tSync 0, { port := 0, domain := 0, source := 7, seqId := 3, t2 := 25, corr := 0 }, { tEth {} with tim := tMaster { auto := false, rx := [{ port := 0, domain := 0, source := 7, seqId := 3, t2 := 25, corr := 0 }] } }, by decide +kernel⟩

theorem witness_TimeCommands_5 : ∃ (p : Fin 2) (r : DelayRespHdr) (t4 corr logInterval : Int) (b : Rat) (t3 : Int) (s : State), ethLink s p = true ∧ internalVia s.eth r.via = true ∧ ptpAccepts s.tim r.via.transport r.domain = true ∧ fromMaster s p r.source = true ∧ r.mine = true ∧ r.seqId = s.tim.reqSeq ∧ s.tim.sync = some b ∧ s.tim.t3 = some t3 ∧ s.tim.auto = true :=
  ⟨0, { via := tVia, domain := 0, source := 7, seqId := 1, mine := true }, 40, 0, 0, 5, 30, { tEth {} with tim := { tMaster {} with sync := some 5, t3 := some 30, reqSeq := 1 } }, by decide +kernel⟩

theorem witness_TimeCommands_6 : ∃ (ns : Fin 1000) (m : Master) (s : State), s.tim.master = some m ∧ ethLink s m.port = true :=
  ⟨999, { port := 0, ann := tAnn 5 }, { tEth {} with tim := tMaster {} }, by decide⟩

theorem witness_TimeCommands_7 : ∃ (s : State), ethOn s = true ∧ hkOn s = true ∧ s.tim.auto = true ∧ s.tim.servo = .locked :=
  ⟨{ tEth {} with tim := tMaster { servo := .locked } }, by decide⟩

theorem witness_TimeCommands_8 : ∃ (s : State), ethOn s = true ∧ hkOn s = true ∧ s.tim.auto = true ∧ s.tim.servo = .holdover :=
  ⟨{ tEth {} with tim := tMaster { servo := .holdover } }, by decide⟩

theorem witness_TimeCommands_9 : ∃ (s : State), ethOn s = true :=
  ⟨tEth {}, by decide⟩

theorem witness_BrakePulseCommands_1 : ∃ (c : Fin 4) (s : State), brkLive s = true ∧ (brkCh s c).st = .applied ∧ s.brk.disc = false ∧ (brkCh s c).pulse = .none ∧ ((brkCh s c).onSkip && !(brkCh s c).retest) = false :=
  ⟨0, tBrk { st := .applied }, by decide⟩

theorem witness_BrakePulseCommands_2 : ∃ (c : Fin 4) (s : State), brkLive s = true ∧ (brkCh s c).st = .applied ∧ s.brk.disc = false ∧ (brkCh s c).pulse = .none ∧ (brkCh s c).onSkip = true ∧ (brkCh s c).retest = false :=
  ⟨0, tBrk { st := .applied, onSkip := true }, by decide⟩

theorem witness_BrakePulseCommands_3 : ∃ (c : Fin 4) (s : State), brkLive s = true ∧ (brkCh s c).st = .released ∧ holdsField s = true ∧ (brkCh s c).pulse = .none ∧ (brkCh s c).offLsNext = false :=
  ⟨0, tBrk { st := .released, hs := true, ls := true, fw := true }, by decide⟩

theorem witness_BrakePulseCommands_4 : ∃ (c : Fin 4) (s : State), brkLive s = true ∧ (brkCh s c).st = .released ∧ holdsField s = true ∧ (brkCh s c).pulse = .none ∧ (brkCh s c).offLsNext = true :=
  ⟨0, tBrk { st := .released, hs := true, ls := true, fw := true, offLsNext := true }, by decide⟩

theorem witness_BrakePulseCommands_5 : ∃ (c : Fin 4) (s : State), brkLive s = true ∧ (brkCh s c).st = .fault ∧ brkFaultPulses (brkCh s c) = true ∧ s.brk.disc = false ∧ (brkCh s c).pulse = .none ∧ ((brkCh s c).onSkip && !(brkCh s c).retest) = false :=
  ⟨0, tBrk { st := .fault, fcause := 3 }, by decide⟩

theorem witness_BrakePulseCommands_6 : ∃ (c : Fin 4) (s : State), brkLive s = true ∧ ((brkCh s c).st = .nocfg ∨ (brkCh s c).st = .releasing ∨ (brkCh s c).st = .engaging ∨ (brkCh s c).st = .test) :=
  ⟨0, tBrk { st := .engaging }, by decide⟩

theorem witness_BrakePulseCommands_7 : ∃ (c : Fin 4) (s : State), brkLive s = true ∧ (brkCh s c).pulse = .offHs :=
  ⟨0, tBrk { st := .released, pulse := .offHs }, by decide⟩

theorem witness_BrakePulseCommands_8 : ∃ (c : Fin 4) (s : State), brkLive s = true ∧ (brkCh s c).pulse = .offLs :=
  ⟨0, tBrk { st := .released, pulse := .offLs }, by decide⟩

theorem witness_BrakePulseCommands_9 : ∃ (c : Fin 4) (s : State), brkLive s = true ∧ (brkCh s c).pulse = .on :=
  ⟨0, tBrk { st := .applied, pulse := .on }, by decide⟩

theorem witness_BrakePulseCommands_10 : ∃ (c : Fin 4) (s : State), brkLive s = true ∧ (brkCh s c).fwCheck = true :=
  ⟨0, tBrk { st := .applied, fwCheck := true }, by decide⟩

theorem witness_BrakePulseCommands_11 : ∃ (c : Fin 4) (s : State), brkLive s = true ∧ drives s = true ∧ (brkCh s c).testRun = true ∧ (brkCh s c).st = .test ∧ encPosValid (vget s.enc (brkCh s c).cfg.encPort) = true ∧ posDist (vget s.enc (brkCh s c).cfg.encPort).pos.toInt (brkCh s c).testP0 ≤ (brkCh s c).cfg.win :=
  ⟨0, setEnc 0 (fun _ => { live := true, cfg := { emode := .inc } }) (tBrk { st := .test, testRun := true }), by decide⟩

theorem witness_BrakePulseCommands_12 : ∃ (c : Fin 4) (s : State), brkLive s = true ∧ drives s = true ∧ (brkCh s c).testRun = true ∧ (brkCh s c).st = .test ∧ encPosValid (vget s.enc (brkCh s c).cfg.encPort) = true ∧ (brkCh s c).cfg.win < posDist (vget s.enc (brkCh s c).cfg.encPort).pos.toInt (brkCh s c).testP0 :=
  ⟨0, setEnc 0 (fun _ => { live := true, cfg := { emode := .inc } }) (tBrk { st := .test, testRun := true, testP0 := 5 }), by decide⟩

theorem witness_BrakePulseCommands_13 : ∃ (c : Fin 4) (s : State), brkLive s = true ∧ drives s = true ∧ (brkCh s c).testRun = true ∧ (brkCh s c).st = .test ∧ encPosValid (vget s.enc (brkCh s c).cfg.encPort) = false :=
  ⟨0, tBrk { st := .test, testRun := true }, by decide⟩

theorem witness_BrakePulseCommands_14 : ∃ (c : Fin 4) (s : State), brkLive s = true ∧ drives s = true ∧ (brkCh s c).testRun = true ∧ (brkCh s c).st = .test :=
  ⟨0, tBrk { st := .test, testRun := true }, by decide⟩

theorem witness_BrakePulseCommands_15 : ∃ (s : State), 0 < s.brk.lockUs :=
  ⟨{ tOn with brk := { tOn.brk with lockUs := 1 } }, by decide⟩

theorem witness_BrakeSupervisionCommands_1 : ∃ (c : Fin 4) (s : State), brkLive s = true ∧ (brkCh s c).st = .releasing :=
  ⟨0, tBrk { st := .releasing }, by decide⟩

theorem witness_BrakeSupervisionCommands_2 : ∃ (c : Fin 4) (s : State), brkLive s = true ∧ ((brkCh s c).st = .releasing ∨ (brkCh s c).st = .released) ∧ (brkCh s c).fbSeen = false :=
  ⟨0, tBrk { st := .released }, by decide⟩

theorem witness_BrakeSupervisionCommands_3 : ∃ (c : Fin 4) (s : State), brkLive s = true ∧ holdsField s = true ∧ ((brkCh s c).st = .applied ∨ (brkCh s c).st = .engaging) ∧ (brkCh s c).fbSeen = false :=
  ⟨0, tBrk { st := .engaging }, by decide⟩

theorem witness_BrakeSupervisionCommands_4 : ∃ (c : Fin 4) (s : State), brkLive s = true ∧ s.mir.decided = true ∧ (brkCh s c).hold = true :=
  ⟨0, tBrk { st := .applied, hold := true }, by decide⟩

theorem witness_BrakeSupervisionCommands_5 : ∃ (c : Fin 4) (s : State), brkLive s = true ∧ ((brkCh s c).st = .engaging ∨ (brkCh s c).st = .fault) ∧ (brkCh s c).cfg.iDrop ≤ brkCur (brkCh s c) :=
  ⟨0, tBrk { st := .engaging, iHs := 500, cfg := { iDrop := 100 } }, by decide⟩

theorem witness_BrakeSupervisionCommands_6 : ∃ (c : Fin 4) (s : State), brkLive s = true ∧ (brkCh s c).cfg.reqSym ≠ 0 ∧ (brkCh s c).tmoOut = false ∧ (brkCh s c).loomOk = true :=
  ⟨0, tBrk { loomOk := true, cfg := { reqSym := 7 } }, by decide⟩

theorem witness_BrakeSupervisionCommands_7 : ∃ (c : Fin 4) (l : Bool) (s : State), brkLive s = true ∧ (l || (brkCh s c).ocNow) = true :=
  ⟨0, false, tBrk { st := .released, ocNow := true }, by decide⟩

theorem witness_BrakeSupervisionCommands_8 : ∃ (c : Fin 4) (s : State), brkLive s = true ∧ (brkCh s c).st = .released ∧ (brkCh s c).fb = false :=
  ⟨0, tBrk { st := .released }, by decide⟩

theorem witness_BrakeSupervisionCommands_9 : ∃ (c : Fin 4) (s : State), brkLive s = true ∧ holdsField s = true ∧ (brkCh s c).st = .applied ∧ (brkCh s c).fb = true :=
  ⟨0, tBrk { st := .applied, fb := true }, by decide⟩

theorem witness_BrakeSupervisionCommands_10 : ∃ (c : Fin 4) (s : State), brkLive s = true ∧ (brkCh s c).st = .released ∧ brkCur (brkCh s c) < (brkCh s c).cfg.iDrop :=
  ⟨0, tBrk { st := .released, cfg := { iDrop := 100 } }, by decide⟩

theorem witness_BrakeSupervisionCommands_11 : ∃ (c : Fin 4) (s : State), brkLive s = true ∧ (brkCh s c).nodeBad = true :=
  ⟨0, tBrk { st := .applied, nodeBad := true }, by decide⟩

theorem witness_BrakeSupervisionCommands_12 : ∃ (s : State), brkLive s = true ∧ s.brk.supLow = true :=
  ⟨{ tOn with brk := { tOn.brk with supLow := true } }, by decide⟩

theorem witness_BrakeSupervisionCommands_13 : ∃ (c : Fin 4) (s : State), brkLive s = true ∧ (brkCh s c).rbNow = true :=
  ⟨0, tBrk { st := .released, rbNow := true }, by decide⟩

theorem witness_BrakeSupervisionCommands_14 : ∃ (s : State), brkLive s = true :=
  ⟨tOn, by decide⟩

theorem witness_BrakeSupervisionCommands_15 : ∃ (mv : Nat) (s : State), brkLive s = true ∧ mv < 19200 ∧ s.brk.warn = false :=
  ⟨19199, tOn, by decide⟩

theorem witness_BrakeSupervisionCommands_16 : ∃ (s : State), pdOn s 11 = true ∧ 0 < brkCount s :=
  ⟨tOn, by decide⟩

theorem witness_BrakeTick_1 : ∃ (m : BmpInputs) (s : State), bmpOn s = true ∧ 0 < brkCount s :=
  ⟨tBmp 24000, tOn, by decide⟩

theorem witness_BrakeTick_2 : ∃ (v : Nat) (m : BrkMeas) (c : Fin 4) (s : State), holdsField s = true ∧ ((brkCh s c).st = .releasing ∨ (brkCh s c).st = .released) ∧ brkDemand (brkCh s c) = false ∧ (brkCh s c).testWait = false :=
  ⟨24000, { iHs := 500, iLs := 500, vPlus := 24000, vMinus := 0, contact := true }, 0, tBrk { st := .released, hs := true, ls := true, fw := true }, by decide⟩

theorem witness_BrakeTick_3 : ∃ (v : Nat) (m : BrkMeas) (c : Fin 4) (s : State), holdsField s = false ∧ ((brkCh s c).pulse = .none ∨ (brkCh s c).pulse = .on) :=
  ⟨24000, { iHs := 500, iLs := 500, vPlus := 24000, vMinus := 0, contact := true }, 0, tStandby (tBrk { st := .released }), by decide⟩

theorem witness_BrakeTick_4 : ∃ (c : Fin 4) (k : Nat) (ev : Nat × Nat × Int) (s : State), (brkCh s c).st ≠ .nocfg ∧ (brkCh s c).fcause = 0 :=
  ⟨0, 7, (0x0701, 6, 7), tBrk { st := .releasing, hs := true, ls := true, fw := true }, by decide⟩

theorem witness_BrakeTick_5 : ∃ (c : Fin 4) (s : State), (brkCh s c).st = .engaging ∧ (brkCh s c).iHs < (brkCh s c).cfg.iDrop ∧ (brkCh s c).iLs < (brkCh s c).cfg.iDrop ∧ (brkCh s c).fcause ≠ 0 :=
  ⟨0, tBrk { st := .engaging, fcause := 7, cfg := { iDrop := 100 } }, by decide⟩

theorem witness_MirrorLinkCommands_1 : ∃ (s : State), hkOn s = true ∧ s.pwr.phase = .start ∧ s.pwr.loaded = true ∧ s.mir.decided = false ∧ mirPresent s = true ∧ s.mir.pheard = false ∧ s.mir.palive = true :=
  ⟨{ tOn with pwr := { tOn.pwr with phase := .start }, mir := { palive := true } }, by decide⟩

theorem witness_MirrorLinkCommands_2 : ∃ (s : State), hkOn s = true ∧ s.pwr.phase = .start ∧ s.pwr.loaded = true ∧ s.mir.decided = false ∧ mirPresent s = true ∧ s.mir.pheard = true ∧ (s.mir.prole = 0 ∨ s.mir.prole = 2 ∨ s.side.slot ≠ 0) ∧ s.mir.joinEn = false :=
  ⟨{ tOn with pwr := { tOn.pwr with phase := .start }, mir := { pheard := true, prole := 2, joinEn := false } }, by decide⟩

theorem witness_MirrorLinkCommands_3 : ∃ (s : State), hkOn s = true ∧ s.pwr.phase = .start ∧ s.pwr.loaded = true ∧ s.mir.decided = false ∧ (mirPresent s = false ∨ (s.mir.pheard = true ∧ s.mir.prole ≠ 0 ∧ s.mir.prole ≠ 2 ∧ s.side.slot = 0) ∨ (s.mir.pheard = false ∧ s.mir.palive = false)) :=
  ⟨{ tOn with pwr := { tOn.pwr with phase := .start }, mir := {} }, by decide⟩

theorem witness_MirrorLinkCommands_4 : ∃ (s : State), meRuns s = true ∧ s.pwr.pfw = false ∧ s.side.resetN = true :=
  ⟨tOn, by decide⟩

theorem witness_MirrorLinkCommands_5 : ∃ (s : State), meRuns s = true ∧ s.pwr.pfw = false ∧ s.side.resetN = true ∧ s.pwr.phase ≠ .halt ∧ (s.mir.healthy = true ∨ s.mir.role ≠ .syncing) :=
  ⟨tOn, by decide⟩

theorem witness_MirrorLinkCommands_6 : ∃ (s : State), meRuns s = true :=
  ⟨tOn, by decide⟩

theorem witness_MirrorLinkCommands_7 : ∃ (s : State), meRuns s = true :=
  ⟨tOn, by decide⟩

theorem witness_MirrorLinkCommands_8 : ∃ (s : State), meRuns s = true :=
  ⟨tOn, by decide⟩

theorem witness_MirrorLinkCommands_9 : ∃ (l : Fin 2) (s : State), meRuns s = true ∧ (vget s.mir.lanes l).hb = true ∧ (vget s.mir.lanes l).up = false ∧ s.mir.detached = false :=
  ⟨0, setMir (fun m => { m with lanes := Vector.replicate 2 { hb := true } }) tOn, by decide⟩

theorem witness_MirrorLinkCommands_10 : ∃ (l : Fin 2) (s : State), meRuns s = true ∧ (vget s.mir.lanes l).hb = true ∧ (vget s.mir.lanes l).up = false ∧ s.mir.detached = true :=
  ⟨0, setMir (fun m => { m with lanes := Vector.replicate 2 { hb := true }, detached := true }) tOn, by decide⟩

theorem witness_MirrorLinkCommands_11 : ∃ (l : Fin 2) (s : State), meRuns s = true ∧ (vget s.mir.lanes l).up = true ∧ lanesLost (setMir (fun m => { m with lanes := vmod m.lanes l fun x => { x with up := false, lock := false, hb := false } }) s) = false :=
  ⟨0, setMir (fun _ => { lanes := Vector.replicate 2 { lock := true, hb := true, up := true }, decided := true, pheard := true }) tOn, by decide⟩

theorem witness_MirrorLinkCommands_12 : ∃ (l : Fin 2) (s : State), meRuns s = true ∧ (vget s.mir.lanes l).up = true ∧ lanesLost (setMir (fun m => { m with lanes := vmod m.lanes l fun x => { x with up := false, crcN := holdAdd 0xFFFF x.crcN 16 } }) s) = false :=
  ⟨0, setMir (fun _ => { lanes := Vector.replicate 2 { lock := true, hb := true, up := true }, decided := true, pheard := true }) tOn, by decide⟩

theorem witness_MirrorLinkCommands_13 : ∃ (l : Fin 2) (s : State), meRuns s = true ∧ (vget s.mir.lanes l).up = true ∧ lanesLost (setMir (fun m => { m with lanes := vmod m.lanes l fun x => { x with up := false, hb := false, hbMiss := holdAdd 0xFFFF x.hbMiss (missLeft x), gapUs := max 51 x.gapUs } }) s) = false :=
  ⟨0, setMir (fun _ => { lanes := Vector.replicate 2 { lock := true, hb := true, up := true }, decided := true, pheard := true }) tOn, by decide⟩

theorem witness_MirrorLinkCommands_14 : ∃ (l : Fin 2) (s : State), meRuns s = true ∧ (vget s.mir.lanes l).up = true ∧ lanesLost (setMir (fun m => { m with lanes := vmod m.lanes l fun x => { x with up := false, lock := false, hb := false } }) s) = true :=
  ⟨0, setMir (fun _ => { lanes := #v[{ lock := true, hb := true, up := true }, {}], decided := true, pheard := true }) tOn, by decide⟩

theorem witness_MirrorLinkCommands_15 : ∃ (l : Fin 2) (s : State), meRuns s = true ∧ (vget s.mir.lanes l).up = true ∧ lanesLost (setMir (fun m => { m with lanes := vmod m.lanes l fun x => { x with up := false, crcN := holdAdd 0xFFFF x.crcN 16 } }) s) = true :=
  ⟨0, setMir (fun _ => { lanes := #v[{ lock := true, hb := true, up := true }, {}], decided := true, pheard := true }) tOn, by decide⟩

theorem witness_MirrorLinkCommands_16 : ∃ (l : Fin 2) (s : State), meRuns s = true ∧ (vget s.mir.lanes l).up = true ∧ lanesLost (setMir (fun m => { m with lanes := vmod m.lanes l fun x => { x with up := false, hb := false, hbMiss := holdAdd 0xFFFF x.hbMiss (missLeft x), gapUs := max 51 x.gapUs } }) s) = true :=
  ⟨0, setMir (fun _ => { lanes := #v[{ lock := true, hb := true, up := true }, {}], decided := true, pheard := true }) tOn, by decide⟩

theorem witness_MirrorLinkCommands_17 : ∃ (l : Fin 2) (h v : Byte) (s : State), meRuns s = true ∧ (h.toNat < 64 ∨ v.toNat < 10) :=
  ⟨0, 63, 255, tOn, by decide⟩

theorem witness_MirrorLinkCommands_18 : ∃ (h : Heartbeat) (s : State), meRuns s = true ∧ h.crcOk = true ∧ h.laneBit = h.lane ∧ s.mir.decided = true ∧ s.pwr.phase = .run ∧ h.detached = s.mir.pdet ∧ s.mir.role = .standby :=
  ⟨tHb .active, tStandby tOn, by decide⟩

theorem witness_MirrorLinkCommands_19 : ∃ (h : Heartbeat) (s : State), meRuns s = true ∧ h.crcOk = true ∧ h.laneBit = h.lane ∧ s.mir.decided = true ∧ s.pwr.phase = .run ∧ h.detached = s.mir.pdet ∧ s.mir.role = .active :=
  ⟨tHb .standby, setMir (fun m => { m with role := .active }) tOn, by decide⟩

theorem witness_MirrorLinkCommands_20 : ∃ (h : Heartbeat) (s : State), meRuns s = true ∧ h.crcOk = true ∧ h.laneBit = h.lane ∧ s.mir.decided = true ∧ s.pwr.phase = .run ∧ h.detached = s.mir.pdet ∧ s.mir.role = .alone ∧ h.role = .syncing ∧ h.syncph.val ≠ 0 ∧ s.mir.swo = .none :=
  ⟨{ (tHb .syncing) with syncph := 1 }, setMir (fun m => { m with role := .alone }) tOn, by decide⟩

theorem witness_MirrorLinkCommands_21 : ∃ (h : Heartbeat) (s : State), meRuns s = true ∧ h.crcOk = false :=
  ⟨{ (tHb .active) with crcOk := false }, tStandby tOn, by decide⟩

theorem witness_MirrorLinkCommands_22 : ∃ (b : BrakeBlock) (s : State), meRuns s = true ∧ b.crcOk = true ∧ s.mir.decided = true ∧ s.mir.role = .standby ∧ s.mir.swo = .none :=
  ⟨{ lane := 0, fcause := Vector.replicate 4 0, state := Vector.replicate 4 3, hold := Vector.replicate 4 false, crcOk := true }, tStandby tOn, by decide⟩

theorem witness_MirrorLinkCommands_23 : ∃ (c : Fin 4) (st : BrkSt) (hold : Bool) (cause : Nat) (s : State), st ≠ .applied :=
  ⟨0, .released, false, 0, tOn, by decide⟩

theorem witness_MirrorLinkCommands_24 : ∃ (s : State), meRuns s = true ∧ s.mir.decided = true ∧ s.mir.role = .standby ∧ s.mir.detached = false ∧ lanesLost s = true ∧ s.mir.palive = false ∧ s.mir.swo ≠ .newScans ∧ s.zor.phase = .idle :=
  ⟨tStandby tOn, by decide⟩

theorem witness_MirrorCommandCommands_1 : ∃ (m : MirCmd) (s : State), meRuns s = true ∧ m.crcOk = true ∧ s.mir.peerCmds.contains m.seq.toNat = true :=
  ⟨tCmd 1, setMir (fun m => { m with peerCmds := [2, 1] }) (tOn), by decide⟩

theorem witness_MirrorCommandCommands_2 : ∃ (m : MirCmd) (s : State), meRuns s = true ∧ m.crcOk = false :=
  ⟨{ (tCmd 1) with lane := 1, crcOk := false }, tOn, by decide⟩

theorem witness_MirrorCommandCommands_3 : ∃ (m : MirCmd) (s : State), heard m s ∧ s.mir.decided = true ∧ s.mir.role = .standby ∧ (s.mir.swo = .none ∨ s.mir.swo = .requested) ∧ s.zor.phase = .idle :=
  ⟨tCmd 3, tStandby tOn, by decide⟩

theorem witness_MirrorCommandCommands_4 : ∃ (m : MirCmd) (s : State), heard m s ∧ s.mir.decided = true ∧ s.mir.role = .active ∧ s.mir.swo = .none ∧ s.mir.prole = 3 ∧ s.mir.div = none ∧ s.zor.phase ≠ .freeze ∧ s.zor.phase ≠ .map :=
  ⟨tCmd 3, setMir (fun m => { m with role := .active, prole := 3 }) tOn, by decide⟩

theorem witness_MirrorCommandCommands_5 : ∃ (m : MirCmd) (s : State), heard m s ∧ s.mir.decided = true ∧ s.mir.role = .active ∧ s.mir.swo = .none ∧ s.mir.prole ≠ 3 :=
  ⟨tCmd 3, setMir (fun m => { m with role := .active, prole := 1 }) tOn, by decide⟩

theorem witness_MirrorCommandCommands_6 : ∃ (m : MirCmd) (s : State), heard m s ∧ s.mir.decided = true ∧ s.mir.role = .active ∧ s.mir.swo = .none ∧ s.mir.prole = 3 ∧ s.mir.div ≠ none :=
  ⟨tCmd 3, setMir (fun m => { m with role := .active, prole := 3, div := some { engine := 0 } }) tOn, by decide⟩

theorem witness_MirrorCommandCommands_7 : ∃ (m : MirCmd) (s : State), heard m s ∧ s.mir.swo = .oldWait :=
  ⟨tCmd 0xFFFF, setMir (fun m => { m with swo := .oldWait }) (setMir (fun m => { m with role := .active, prole := 3 }) tOn), by decide⟩

theorem witness_MirrorCommandCommands_8 : ∃ (m : MirCmd) (s : State), heard m s ∧ s.mir.swo = .oldAio :=
  ⟨tCmd 0xFFFF, setMir (fun m => { m with swo := .oldAio }) (tOn), by decide⟩

theorem witness_MirrorCommandCommands_9 : ∃ (m : MirCmd) (s : State), heard m s ∧ s.mir.decided = true ∧ s.mir.role = .active ∧ s.mir.div = none ∧ s.mir.swo = .none ∧ (m.arg.toNat < 8 ∨ (0x10 ≤ m.arg.toNat ∧ m.arg.toNat < 0x14)) :=
  ⟨tCmd 0x13, setMir (fun m => { m with role := .active, prole := 3 }) tOn, by decide⟩

theorem witness_MirrorCommandCommands_10 : ∃ (m : MirCmd) (d : DivCheck) (s : State), heard m s ∧ s.mir.div = some d ∧ bits m.arg.toNat 8 8 = d.engine :=
  ⟨tCmd 1, { engine := 0 }, setMir (fun m => { m with div := some { engine := 0 } }) (setMir (fun m => { m with role := .active, prole := 3 }) tOn), by decide⟩

theorem witness_MirrorCommandCommands_11 : ∃ (m : MirCmd) (s : State), heard m s ∧ s.mir.swo = .requested :=
  ⟨tCmd 2, setMir (fun m => { m with swo := .requested }) (tStandby tOn), by decide⟩

theorem witness_MirrorCommandCommands_12 : ∃ (s : State), meRuns s = true ∧ s.mir.role = .standby ∧ s.mir.swo = .newScans ∧ scansDone s = true :=
  ⟨setMir (fun m => { m with swo := .newScans }) (tStandby tOn), by decide⟩

theorem witness_MirrorCommandCommands_13 : ∃ (g : Nat) (s : State), s.mir.swo = .newOutputs :=
  ⟨300, setMir (fun m => { m with swo := .newOutputs }) (setMir (fun m => { m with role := .active, prole := 3 }) tOn), by decide⟩

theorem witness_MirrorCommandCommands_14 : ∃ (s : State), s.mir.swo = .newAio :=
  ⟨setMir (fun m => { m with swo := .newAio }) (setMir (fun m => { m with role := .active, prole := 3 }) tOn), by decide⟩

theorem witness_MirrorCommandCommands_15 : ∃ (s : State), meRuns s = true ∧ s.mir.swo = .oldWait ∧ s.mir.palive = true :=
  ⟨setMir (fun m => { m with swo := .oldWait, palive := true }) (setMir (fun m => { m with role := .active, prole := 3 }) tOn), by decide⟩

theorem witness_MirrorCommandCommands_16 : ∃ (b : Bool) (d : DivCheck) (s : State), meRuns s = true ∧ s.mir.div = some d ∧ d.own = none :=
  ⟨true, { engine := 0 }, setMir (fun m => { m with div := some { engine := 0 } }) (setMir (fun m => { m with role := .active, prole := 3 }) tOn), by decide⟩

theorem witness_MirrorFrameCommands_1 : ∃ (h : FrameHdr) (e : List (BitVec 14 × Word)) (s : State), inOrder h s ∧ following s = true :=
  ⟨tHdr, [(3, 7)], tStandby tOn, by decide⟩

theorem witness_MirrorFrameCommands_2 : ∃ (h : FrameHdr) (f : LatchFrame) (s : State), inOrder h s ∧ following s = true ∧ weftCrc s f.engine (weftOf s f.engine s.mir.pts) ≠ f.wcrc.toNat :=
  ⟨tHdr, { engine := 0, forced := false, first := false, freeze := false, ts := 0, scan := 1, wcrc := 1, f := 0, named := [] }, setLoom 0 (fun e => { e with state := .running }) (tStandby tOn), by decide⟩

theorem witness_MirrorFrameCommands_3 : ∃ (h : FrameHdr) (f : LatchFrame) (s : State), inOrder h s ∧ following s = true ∧ weftCrc s f.engine (weftOf s f.engine s.mir.pts) = f.wcrc.toNat ∧ (vget s.loom f.engine).state ≠ .running :=
  ⟨tHdr, { engine := 0, forced := false, first := false, freeze := false, ts := 0, scan := 1, wcrc := 0, f := 0, named := [] }, tStandby tOn, by decide⟩

theorem witness_MirrorFrameCommands_4 : ∃ (h : FrameHdr) (f : LatchFrame) (s : State), inOrder h s ∧ following s = true ∧ weftCrc s f.engine (weftOf s f.engine s.mir.pts) = f.wcrc.toNat ∧ latchReady s f.engine = true ∧ (s.mir.latches.find? fun p => p.1.engine = f.engine) = none :=
  ⟨tHdr, { engine := 0, forced := false, first := false, freeze := false, ts := 0, scan := 1, wcrc := 0, f := 0, named := [] }, setLoom 0 (fun e => { e with state := .running }) (tStandby tOn), by decide⟩

theorem witness_MirrorFrameCommands_5 : ∃ (h : FrameHdr) (f : LatchFrame) (s : State), inOrder h s ∧ following s = true ∧ weftCrc s f.engine (weftOf s f.engine s.mir.pts) = f.wcrc.toNat ∧ (vget s.loom f.engine).state = .running ∧ latchReady s f.engine = false :=
  ⟨tHdr, { engine := 0, forced := false, first := false, freeze := false, ts := 0, scan := 1, wcrc := 0, f := 0, named := [] }, setLoom 0 (fun e => { e with state := .running, mode := .ahead }) (tStandby tOn), by decide⟩

theorem witness_MirrorFrameCommands_6 : ∃ (h : FrameHdr) (f : SampleFrame) (s : State), inOrder h s ∧ following s = true :=
  ⟨tHdr, { engine := 0, slot := 0, stale := 0, pcnt := 1, values := Vector.replicate 5 0 }, tStandby tOn, by decide⟩

theorem witness_MirrorFrameCommands_7 : ∃ (h : FrameHdr) (e : List SigEntry) (s : State), inOrder h s ∧ following s = true :=
  ⟨tHdr, [], tStandby tOn, by decide⟩

theorem witness_MirrorFrameCommands_8 : ∃ (g p : Sig) (n : Fin 8) (s : State), g.isTask = true ∧ g.engine = n.val ∧ s.mir.ownSig.find? (sigMeets g) = some p :=
  ⟨{ isTask := true, engine := 0, num := 1, crc := 0 }, { isTask := true, engine := 0, num := 1, crc := 0 }, 0, setMir (fun m => { m with ownSig := [{ isTask := true, engine := 0, num := 1, crc := 0 }] }) (tStandby tOn), by decide⟩

theorem witness_MirrorFrameCommands_9 : ∃ (g p : Sig) (s : State), g.isTask = false ∧ s.mir.ownSig.find? (sigMeets g) = some p :=
  ⟨{ isTask := false, engine := 0, num := 1, crc := 0 }, { isTask := false, engine := 0, num := 1, crc := 0 }, setMir (fun m => { m with ownSig := [{ isTask := false, engine := 0, num := 1, crc := 0 }] }) (tStandby tOn), by decide⟩

theorem witness_MirrorFrameCommands_10 : ∃ (g : Sig) (s : State), s.mir.ownSig.find? (sigMeets g) = none :=
  ⟨{ isTask := true, engine := 0, num := 1, crc := 0 }, tStandby tOn, by decide⟩

theorem witness_MirrorFrameCommands_11 : ∃ (a b : Sig) (s : State), sigCompared s (sigCode a) = true ∧ a.crc = b.crc :=
  ⟨{ isTask := true, engine := 0, num := 1, crc := 0 }, { isTask := true, engine := 0, num := 1, crc := 0 }, tStandby tOn, by decide⟩

theorem witness_MirrorFrameCommands_12 : ∃ (a b : Sig) (s : State), sigCompared s (sigCode a) = true ∧ a.crc ≠ b.crc ∧ s.mir.role = .standby ∧ s.mir.div = none ∧ s.mir.swo ≠ .newScans :=
  ⟨{ isTask := true, engine := 0, num := 1, crc := 0 }, { isTask := true, engine := 0, num := 1, crc := 1 }, tStandby tOn, by decide⟩

theorem witness_MirrorFrameCommands_13 : ∃ (h : FrameHdr) (e : List (BitVec 14 × Word)) (s : State), inOrder h s ∧ s.mir.role = .syncing ∧ s.mir.syncph = 4 :=
  ⟨tHdr, [(3, 7)], setMir (fun m => { m with role := .syncing, syncph := 4 }) (tOn), by decide⟩

theorem witness_MirrorFrameCommands_14 : ∃ (h : FrameHdr) (f : LatchFrame) (s : State), inOrder h s ∧ s.mir.role = .syncing ∧ s.mir.syncph = 4 :=
  ⟨tHdr, { engine := 0, forced := false, first := false, freeze := false, ts := 0, scan := 1, wcrc := 0, f := 0, named := [] }, setMir (fun m => { m with role := .syncing, syncph := 4 }) (tOn), by decide⟩

theorem witness_MirrorFrameCommands_15 : ∃ (h : FrameHdr) (f : SampleFrame) (s : State), inOrder h s ∧ s.mir.role = .syncing ∧ s.mir.syncph = 4 :=
  ⟨tHdr, { engine := 0, slot := 0, stale := 0, pcnt := 1, values := Vector.replicate 5 0 }, setMir (fun m => { m with role := .syncing, syncph := 4 }) (tOn), by decide⟩

theorem witness_MirrorFrameCommands_16 : ∃ (h : FrameHdr) (e : List SigEntry) (s : State), inOrder h s ∧ s.mir.role = .syncing ∧ s.mir.syncph = 4 :=
  ⟨tHdr, [], setMir (fun m => { m with role := .syncing, syncph := 4 }) (tOn), by decide⟩

theorem witness_MirrorFrameCommands_17 : ∃ (s : State), meRuns s = true ∧ (s.mir.ownSig.any fun g => sigCompared s (sigCode g)) = true :=
  ⟨setMir (fun m => { m with ownSig := [{ isTask := true, engine := 0, num := 1, crc := 0 }] }) (tStandby tOn), by decide⟩

theorem witness_MirrorFrameCommands_18 : ∃ (s : State), s.mir.role = .standby ∧ s.mir.swo ≠ .newScans :=
  ⟨tStandby tOn, by decide⟩

theorem witness_MirrorFrameCommands_19 : ∃ (h : FrameHdr) (f : ForwardFrame) (s : State), inOrder h s ∧ leAt f.desc 0 1 = opBrake ∧ s.mir.role = .standby :=
  ⟨tHdr, { fwdseq := 0, count := 0, desc := 0xF1 :: List.replicate 31 0, data := [], secure := true }, tStandby tOn, by decide⟩

theorem witness_MirrorFrameCommands_20 : ∃ (h : FrameHdr) (f : ForwardFrame) (s : State), inOrder h s ∧ leAt f.desc 0 1 = opFault :=
  ⟨tHdr, { fwdseq := 0, count := 0, desc := 0xF0 :: List.replicate 31 0, data := [], secure := true }, tStandby tOn, by decide⟩

theorem witness_MirrorFrameCommands_21 : ∃ (h : FrameHdr) (f : ForwardFrame) (s : State), inOrder h s ∧ leAt f.desc 0 1 ≠ opBrake ∧ leAt f.desc 0 1 ≠ opFault ∧ following s = true ∧ (descRead f.desc).op = 0x0A :=
  ⟨tHdr, { fwdseq := 0, count := 0, desc := 0x0A :: List.replicate 31 0, data := [], secure := true }, tStandby tOn, by decide⟩

theorem witness_MirrorFrameCommands_22 : ∃ (h : FrameHdr) (f : ForwardFrame) (s : State) (x : Nat), inOrder h s ∧ leAt f.desc 0 1 ≠ opBrake ∧ leAt f.desc 0 1 ≠ opFault ∧ following s = true ∧ (descRead f.desc).op ≠ 0x0A ∧ engineFailed (framed ((f.desc.length + f.data.length + 247) / 248) h s) (descRead f.desc) = false ∧ ((apply (forwardCall f) (framed ((f.desc.length + f.data.length + 247) / 248) h s)).2.getD {}).result = some x :=
  ⟨tHdr, { fwdseq := 0, count := 0, desc := List.replicate 32 0, data := [], secure := true }, tStandby tOn, 0, by decide⟩

theorem witness_MirrorFrameCommands_23 : ∃ (h : FrameHdr) (f : ForwardFrame) (s : State), inOrder h s ∧ leAt f.desc 0 1 ≠ opBrake ∧ leAt f.desc 0 1 ≠ opFault ∧ following s = true ∧ (descRead f.desc).op ≠ 0x0A ∧ engineFailed (framed ((f.desc.length + f.data.length + 247) / 248) h s) (descRead f.desc) = false ∧ ((apply (forwardCall f) (framed ((f.desc.length + f.data.length + 247) / 248) h s)).2.getD {}).result = none :=
  ⟨tHdr, { fwdseq := 0, count := 0, desc := 0x11 :: List.replicate 31 0, data := [], secure := true }, tStandby tOn, by decide⟩

theorem witness_MirrorFrameCommands_24 : ∃ (h : FrameHdr) (f : ForwardFrame) (s : State), inOrder h s ∧ leAt f.desc 0 1 ≠ opBrake ∧ leAt f.desc 0 1 ≠ opFault ∧ following s = true ∧ (descRead f.desc).op ≠ 0x0A ∧ engineFailed (framed ((f.desc.length + f.data.length + 247) / 248) h s) (descRead f.desc) = true :=
  ⟨tHdr, { fwdseq := 0, count := 0, desc := 0x01 :: (List.replicate 15 0 ++ [1] ++ List.replicate 15 0), data := [], secure := true }, setLoom 0 (fun e => { e with state := .fault }) (tStandby tOn), by decide⟩

theorem witness_MirrorFrameCommands_25 : ∃ (h : FrameHdr) (f : FwdAckFrame) (w : FwdDesc) (s : State), inOrder h s ∧ s.mir.role = .active ∧ s.mir.fwdWait.find? (fun w => w.fwdseq = f.fwdseq.toNat) = some w :=
  ⟨tHdr, { fwdseq := 7, status := 0, result := 0 }, { no := 1, fwdseq := 7, count := 0, bytes := [], data := [], secure := true }, setMir (fun m => { m with fwdWait := [{ no := 1, fwdseq := 7, count := 0, bytes := [], data := [], secure := true }] }) (setMir (fun m => { m with role := .active, prole := 3 }) tOn), by decide⟩

theorem witness_MirrorFrameCommands_26 : ∃ (w : FwdDesc) (b : Bool) (p : Option (Nat × Option Nat)) (s : State), descKind s (fwdCall w).d ≠ 1 ∧ engineFailed { s with mir := { s.mir with fwdWait := s.mir.fwdWait.filter (·.fwdseq ≠ w.fwdseq) }, shu := { s.shu with flights := s.shu.flights.map fun x => if x.no = w.no then { x with cflags := if b then 4 else 0, peer := p } else x } } (fwdCall w).d = false :=
  ⟨{ no := 1, fwdseq := 7, count := 0, bytes := [], data := [], secure := true }, true, none, setMir (fun m => { m with role := .active, prole := 3 }) tOn, by decide⟩

theorem witness_MirrorFrameCommands_27 : ∃ (h : FrameHdr) (s : State), inOrder h s ∧ s.mir.role = .active ∧ s.zor.phase = .prepare :=
  ⟨tHdr, setZor (fun z => { z with phase := .prepare }) (setMir (fun m => { m with role := .active, prole := 3 }) tOn), by decide⟩

theorem witness_MirrorFrameCommands_28 : ∃ (h : FrameHdr) (c : Nat) (a : Bool) (s : State), inOrder h s ∧ s.mir.role = .active ∧ s.zor.phase = .prepare :=
  ⟨tHdr, 2, false, setZor (fun z => { z with phase := .prepare }) (setMir (fun m => { m with role := .active, prole := 3 }) tOn), by decide⟩

theorem witness_MirrorFrameCommands_29 : ∃ (h : FrameHdr) (f : Word) (s : State), inOrder h s ∧ s.mir.role = .standby ∧ s.zor.phase = .prepared :=
  ⟨tHdr, 5, setZor (fun z => { z with phase := .prepared }) (tStandby tOn), by decide⟩

theorem witness_MirrorFrameCommands_30 : ∃ (h : FrameHdr) (c : BitVec 64) (k : BitVec 64) (s : State), inOrder h s ∧ (s.zor.phase = .freeze ∨ s.zor.phase = .map) :=
  ⟨tHdr, 1, 2, setZor (fun z => { z with phase := .freeze }) (setMir (fun m => { m with role := .active, prole := 3 }) tOn), by decide⟩

theorem witness_MirrorFrameCommands_31 : ∃ (h : FrameHdr) (o : Nat) (b : List Byte) (s : State), inOrder h s ∧ s.mir.role = .syncing ∧ 2 ≤ s.mir.syncph ∧ s.mir.syncph ≤ 4 ∧ mapGet s.mir.syncReq o = none :=
  ⟨tHdr, 0, [1], setMir (fun m => { m with role := .syncing, syncph := 2 }) (tOn), by decide⟩

theorem witness_MirrorFrameCommands_32 : ∃ (h : FrameHdr) (o : Nat) (b : List Byte) (s : State), inOrder h s ∧ s.mir.role = .syncing ∧ s.mir.syncph = 1 :=
  ⟨tHdr, 0, [1], setMir (fun m => { m with role := .syncing, syncph := 1 }) (tOn), by decide⟩

theorem witness_MirrorFrameCommands_33 : ∃ (h : FrameHdr) (o : Nat) (b : List Byte) (s : State), inOrder h s ∧ s.mir.role = .active ∧ mapGet s.mir.syncSent o = some b :=
  ⟨tHdr, 0, [1], setMir (fun m => { m with syncSent := [(0, [1])] }) (setMir (fun m => { m with role := .active, prole := 3 }) tOn), by decide⟩

theorem witness_MirrorFrameCommands_34 : ∃ (ms : Nat) (s : State), meRuns s = true ∧ s.mir.decided = true ∧ s.mir.role = .syncing ∧ lifeDiffers s = false ∧ s.mir.syncph = 1 :=
  ⟨40, setMir (fun m => { m with role := .syncing, syncph := 1 }) (tOn), by decide⟩

theorem witness_MirrorFrameCommands_35 : ∃ (ms : Nat) (s : State), meRuns s = true ∧ s.mir.decided = true ∧ s.mir.role = .syncing ∧ lifeDiffers s = false ∧ s.mir.syncph = 2 ∧ syncWhole s = true :=
  ⟨40, setMir (fun m => { m with role := .syncing, syncph := 2 }) (tOn), by decide⟩

theorem witness_MirrorFrameCommands_36 : ∃ (ms : Nat) (s : State), meRuns s = true ∧ s.mir.decided = true ∧ s.mir.role = .syncing ∧ lifeDiffers s = false ∧ s.mir.syncph = 3 ∧ syncWhole s = true :=
  ⟨40, setMir (fun m => { m with role := .syncing, syncph := 3 }) (tOn), by decide⟩

theorem witness_MirrorFrameCommands_37 : ∃ (ms : Nat) (s : State), meRuns s = true ∧ s.mir.decided = true ∧ s.mir.role = .syncing ∧ lifeDiffers s = false ∧ s.mir.syncph = 4 ∧ syncWhole s = true :=
  ⟨40, setMir (fun m => { m with role := .syncing, syncph := 4 }) (tOn), by decide⟩

theorem witness_MirrorFrameCommands_38 : ∃ (ms : Nat) (s : State), meRuns s = true ∧ s.mir.decided = true ∧ s.mir.role = .syncing ∧ lifeDiffers s = false ∧ s.mir.syncph = 5 ∧ syncVerified s = true :=
  ⟨40, setMir (fun m => { m with role := .syncing, syncph := 5 }) (tOn), by decide⟩

theorem witness_MirrorFrameCommands_39 : ∃ (ms : Nat) (s : State), meRuns s = true ∧ s.mir.decided = true ∧ s.mir.role = .syncing ∧ s.mir.syncph ≠ 0 ∧ lifeDiffers s = true :=
  ⟨40, setMir (fun m => { m with role := .syncing, syncph := 3, plife := some 9 }) (tOn), by decide⟩

theorem witness_MirrorFrameCommands_40 : ∃ (s : State), meRuns s = true ∧ s.mir.role = .syncing ∧ s.mir.synced = true :=
  ⟨setMir (fun m => { m with role := .syncing, synced := true }) (tOn), by decide⟩

theorem witness_MirrorFrameCommands_41 : ∃ (s : State), meRuns s = true ∧ s.mir.syncHold = true :=
  ⟨setMir (fun m => { m with role := .syncing, syncHold := true }) (tOn), by decide⟩

theorem witness_ServiceSessionCommands_1 : ∃ (r : SvcReq) (s : State), svcRuns 0x01 r s :=
  ⟨tReq 0 0 [], tSvc .none tOn, by decide +kernel⟩

theorem witness_ServiceSessionCommands_2 : ∃ (r : SvcReq) (s : State), svcRuns 0x02 r s ∧ s.svc.sess ≠ .locked ∧ s.sec.keySet = true :=
  ⟨tReq 0 0 [], { tSvc .key tOn with sec := { tOn.sec with keySet := true } }, by decide +kernel⟩

theorem witness_ServiceSessionCommands_3 : ∃ (r : SvcReq) (s : State), svcRuns 0x02 r s ∧ s.svc.sess = .locked :=
  ⟨tReq 0 0 [], tSvc .locked tOn, by decide +kernel⟩

theorem witness_ServiceSessionCommands_4 : ∃ (r : SvcReq) (s : State), svcRuns 0x02 r s ∧ s.svc.sess ≠ .locked ∧ s.sec.keySet = false :=
  ⟨tReq 0 0 [], tSvc .none tOn, by decide +kernel⟩

theorem witness_ServiceSessionCommands_5 : ∃ (r : SvcReq) (s : State), svcRuns 0x03 r s ∧ s.svc.sess = .challenged ∧ r.payload = sessAnswer s s.svc.nonce s.svc.count [1] :=
  ⟨tReq 0 0 (sessAnswer (tSvc .challenged tOn) 0 0 [1]), tSvc .challenged tOn, by decide +kernel⟩

theorem witness_ServiceSessionCommands_6 : ∃ (r : SvcReq) (s : State), svcRuns 0x03 r s ∧ s.svc.sess = .challenged ∧ r.payload ≠ sessAnswer s s.svc.nonce s.svc.count [1] ∧ s.svc.fails < 2 :=
  ⟨tReq 0 0 (List.replicate 32 0), tSvc .challenged tOn, by decide +kernel⟩

theorem witness_ServiceSessionCommands_7 : ∃ (r : SvcReq) (s : State), svcRuns 0x03 r s ∧ s.svc.sess = .challenged ∧ r.payload ≠ sessAnswer s s.svc.nonce s.svc.count [1] ∧ 2 ≤ s.svc.fails :=
  ⟨tReq 0 0 (List.replicate 32 0), setSvc (fun v => { v with fails := 2 }) (tSvc .challenged tOn), by decide +kernel⟩

theorem witness_ServiceSessionCommands_8 : ∃ (r : SvcReq) (s : State), svcRuns 0x04 r s ∧ (s.sec.life = .manufacture ∨ s.sec.life = .commission) ∧ s.sec.keySet = false ∧ s.svc.window = true ∧ s.svc.sess ≠ .locked :=
  ⟨tReq 0 0 [], setSvc (fun v => { v with window := true }) (tSvc .none tOn), by decide +kernel⟩

theorem witness_ServiceSessionCommands_9 : ∃ (r : SvcReq) (s : State), svcRuns 0x05 r s :=
  ⟨tReq 0 0 [], tSvc .key tOn, by decide +kernel⟩

theorem witness_ServiceSessionCommands_10 : ∃ (op : Byte) (r : SvcReq) (c : Nat) (s : State), hkOn s = true ∧ s.svc.pullup = true ∧ svcSpec op.toNat = none ∧ svcRefusal s op.toNat r = some c :=
  ⟨0x99, tReq 0 0 [], 1, tSvc .none tOn, by decide +kernel⟩

theorem witness_ServiceSessionCommands_11 : ∃ (op : Byte) (r : SvcReq) (s : State), hkOn s = true ∧ s.svc.pullup = true ∧ svcSpec op.toNat = none ∧ r.payload.length = r.len ∧ r.len ≤ 4096 ∧ r.byte1 = 0 :=
  ⟨0x99, tReq 0 0 [], tSvc .none tOn, by decide +kernel⟩

theorem witness_ServiceSessionCommands_12 : ∃ (op : Nat) (i : Instr) (r : SvcReq) (c : Nat) (s : State), (op, i) ∈ ([(0x01, .info r), (0x02, .challenge r), (0x03, .respond r), (0x04, .presence r), (0x05, .close r), (0x10, .regRead r), (0x11, .regWrite r), (0x12, .servicePointRead r), (0x13, .serviceRecRead r), (0x20, .keyWrite r), (0x21, .lcConfirm r), (0x22, .lcAdvance r)] : List (Nat × Instr)) ∧ hkOn s = true ∧ s.svc.pullup = true ∧ svcRefusal s op r = some c :=
  ⟨0x10, .regRead (tReq 0 1 []), tReq 0 1 [], 4, tSvc .none tOn, by decide +kernel⟩

theorem witness_ServiceSessionCommands_13 : ∃ (s : State), svcOpen s.svc = true :=
  ⟨tSvc .key tOn, by decide⟩

theorem witness_ServiceSessionCommands_14 : ∃ (s : State), s.svc.sess = .locked :=
  ⟨tSvc .locked tOn, by decide⟩

theorem witness_ServiceSessionCommands_17 : ∃ (s : State), hkOn s = true ∧ s.svc.pullup = false :=
  ⟨tOn, by decide +kernel⟩

theorem witness_ServiceSessionCommands_18 : ∃ (s : State), hkOn s = false ∧ s.svc.pullup = false :=
  ⟨State.reset, by decide +kernel⟩

theorem witness_ServiceSessionCommands_19 : ∃ (r : SvcReq) (s : State), svcRuns 0x10 r s ∧ svcRange r.arg.toNat r.arg2.toNat = true :=
  ⟨tReq 0 1024 [], tSvc .key tOn, by decide +kernel⟩

theorem witness_ServiceSessionCommands_22 : ∃ (r : SvcReq) (s : State), svcRuns 0x11 r s ∧ r.len % 4 = 0 ∧ svcRange r.arg.toNat (r.len / 4) = true :=
  ⟨tReq 0x428 0 [1, 0, 0, 0], tSvc .key tOn, by decide +kernel⟩

theorem witness_ServiceSessionCommands_23 : ∃ (i : Nat) (s : State), (pointDef s i).kind = 0 :=
  ⟨5, tOn, by decide⟩

theorem witness_ServiceSessionCommands_24 : ∃ (r : SvcReq) (s : State), svcRuns 0x12 r s ∧ 1 ≤ r.arg2.toNat ∧ r.arg2.toNat ≤ 1024 ∧ r.arg.toNat + r.arg2.toNat ≤ 16384 ∧ fabricOn s = true ∧ (∀ i, i < r.arg2.toNat → svcRegion s (Config.pointAddr (r.arg.toNat + i)) = none) :=
  ⟨tReq 15360 1024 [], tSvc .key tOn, ⟨by decide +kernel, by decide +kernel, by decide +kernel⟩, by decide, by decide, by decide, by decide +kernel, fun i _ => if_pos (by decide +kernel)⟩

theorem witness_ServiceSessionCommands_25 : ∃ (r : SvcReq) (x a : Nat) (s : State), svcRuns 0x12 r s ∧ 1 ≤ r.arg2.toNat ∧ r.arg2.toNat ≤ 1024 ∧ r.arg.toNat + r.arg2.toNat ≤ 16384 ∧ fabricOn s = true ∧ (((List.range r.arg2.toNat).map fun i => (Config.pointAddr (r.arg.toNat + i), leBytes 4 (ptRead s (r.arg.toNat + i)).toNat)).findSome? fun p => (svcRegion s p.1).map fun q => (q, p.1)) = some (x, a) :=
  ⟨tReq 0 1 [], 8, Config.pointAddr 0, tRegion (Config.pointAddr 0), ⟨by decide +kernel, by decide +kernel, by decide +kernel⟩, by decide, by decide, by decide, by decide +kernel, tRegion_first (Config.pointAddr 0) _⟩

theorem witness_ServiceSessionCommands_26 : ∃ (r : SvcReq) (s : State), svcRuns 0x12 r s ∧ 1 ≤ r.arg2.toNat ∧ r.arg2.toNat ≤ 1024 ∧ r.arg.toNat + r.arg2.toNat ≤ 16384 ∧ fabricOn s = false :=
  ⟨tReq 15360 1024 [], { tSvc .key tOn with pwr := { tOn.pwr with run := 0x10 } }, by decide +kernel⟩

theorem witness_ServiceSessionCommands_27 : ∃ (r : SvcReq) (s : State), svcRuns 0x13 r s ∧ 1 ≤ r.arg2.toNat ∧ r.arg2.toNat ≤ 16 ∧ (∀ p ∈ slotsFrom s r.arg2.toNat r.arg.toNat, svcRegion s (Config.recAddr p.1) = none) :=
  ⟨tReq 0 16 [], tSvc .key tOn, ⟨by decide +kernel, by decide +kernel, by decide +kernel⟩, by decide, by decide, fun p _ => if_pos (by decide +kernel)⟩

theorem witness_ServiceSessionCommands_28 : ∃ (r : SvcReq) (x a : Nat) (s : State), svcRuns 0x13 r s ∧ 1 ≤ r.arg2.toNat ∧ r.arg2.toNat ≤ 16 ∧ (((slotsFrom s r.arg2.toNat r.arg.toNat).map fun p => (Config.recAddr p.1, slotBytes s p.2)).findSome? fun p => (svcRegion s p.1).map fun q => (q, p.1)) = some (x, a) :=
  ⟨tReq 0 1 [], 8, Config.recAddr 0, tRegion (Config.recAddr 0), ⟨by decide +kernel, by decide +kernel, by decide +kernel⟩, by decide, by decide, tRegion_first (Config.recAddr 0) _⟩

theorem witness_ServiceSessionCommands_29 : ∃ (r : SvcReq) (s : State), svcRuns 0x20 r s ∧ (s.sec.life = .manufacture ∨ s.sec.life = .commission) :=
  ⟨tReq 0 0 (List.replicate 32 0), tSvc .presence tOn, by decide +kernel⟩

theorem witness_ServiceSessionCommands_30 : ∃ (r : SvcReq) (l : Life) (s : State), svcRuns 0x21 r s ∧ (s.svc.sess = .presence → s.sec.keySet = false) ∧ s.sec.pend = true ∧ r.arg.toNat = s.sec.target ∧ lifeOf s.sec.target = some l :=
  ⟨tReq 1 0 [], .commission, { tSvc .key tOn with sec := { tOn.sec with life := .service, pend := true, target := 1, keySet := true } }, by decide +kernel⟩

theorem witness_ServiceSessionCommands_31 : ∃ (r : SvcReq) (s : State), svcRuns 0x22 r s ∧ s.sec.life = .manufacture :=
  ⟨tReq 0 0 [], tLife .manufacture (tSvc .key tOn), by decide +kernel⟩

theorem witness_ServiceSessionCommands_33 : ∃ (fn : Func) (v : Word) (l : Life) (s : State), reaches fn 0x6804 s ∧ bits v.toNat 16 16 = 0x5A3C ∧ s.sec.pend = false ∧ lifeOf (bits v.toNat 0 3) = some l ∧ lifeTransition s.sec.life l = some true ∧ lifeCondition s s.sec.life l = true ∧ (s.mir.decided && (s.mir.role = .active || s.mir.role = .standby)) = false ∧ bistActive s = false :=
  ⟨.f1, 0x5A3C0001, .commission, tLife .service (tRing {}), by decide +kernel⟩

theorem witness_ServiceSessionCommands_34 : ∃ (fn : Func) (v : Word) (l : Life) (s : State), reaches fn 0x6804 s ∧ bits v.toNat 16 16 = 0x5A3C ∧ s.sec.pend = false ∧ lifeOf (bits v.toNat 0 3) = some l ∧ lifeTransition s.sec.life l = some false ∧ lifeCondition s s.sec.life l = true ∧ (s.mir.decided && (s.mir.role = .active || s.mir.role = .standby)) = false ∧ bistActive s = false :=
  ⟨.f1, 0x5A3C0003, .operate, tLife .service (tRing {}), by decide +kernel⟩

theorem witness_ServiceSessionCommands_35 : ∃ (s : State), hkOn s = true ∧ s.sec.pend = true :=
  ⟨{ tOn with sec := { tOn.sec with pend := true } }, by decide⟩

theorem witness_RecorderCommands_1 : ∃ (c : BitVec 16) (sev : Fin 8) (v : Word) (s : State), codeReserved c.toNat = false ∧ s.rcd.bobbin.length < 256 :=
  ⟨0x1001, 5, 7, tOn, by decide⟩

theorem witness_RecorderCommands_2 : ∃ (c : BitVec 16) (sev : Fin 8) (v : Word) (s : State), codeReserved c.toNat = false ∧ 256 ≤ s.rcd.bobbin.length :=
  ⟨0x0A01, 5, 7, { tOn with rcd := { tOn.rcd with bobbin := List.replicate 256 { code := 0x0A01, sev := 5, value := 7, stamp := {} } } }, by decide +kernel⟩

theorem witness_RecorderCommands_3 : ∃ (c : BitVec 16) (sev : Fin 8) (v : Word) (s : State), codeReserved c.toNat = true :=
  ⟨0x0D01, 5, 7, tOn, by decide⟩

theorem witness_RecorderCommands_4 : ∃ (s : State), hkOn s = true ∧ (s.pwr.loaded || s.pwr.phase = .halt) = true ∧ s.rcd.bobbin = [] :=
  ⟨tLoaded tOn, by decide +kernel⟩

theorem witness_RecorderCommands_5 : ∃ (x : Raise) (l : List Raise) (s : State), hkOn s = true ∧ (s.pwr.loaded || s.pwr.phase = .halt) = true ∧ s.rcd.bobbin = x :: l ∧ (s.rcd.louFrz || !s.rcd.frozen.isEmpty) = true :=
  ⟨{ code := 0x0A01, sev := 5, value := 7, stamp := {} }, [], { tLoaded tOn with rcd := { tOn.rcd with bobbin := [{ code := 0x0A01, sev := 5, value := 7, stamp := {} }], louFrz := true } }, by decide +kernel⟩

theorem witness_RecorderCommands_6 : ∃ (x : Raise) (l : List Raise) (i : Nat) (s : State), hkOn s = true ∧ (s.pwr.loaded || s.pwr.phase = .halt) = true ∧ s.rcd.bobbin = x :: l ∧ (s.rcd.louFrz || !s.rcd.frozen.isEmpty) = false ∧ slotOf s x.code = some i ∧ ((codeCfg s x.code).rate ≠ 0 && (recSlot s i).tokens < 1000000) = true :=
  ⟨{ code := 0x0A01, sev := 5, value := 7, stamp := {} }, [], 7, { tLoaded tOn with rcd := { tOn.rcd with bobbin := [{ code := 0x0A01, sev := 5, value := 7, stamp := {} }], slots := [(7, { held := true, body := { code := 0x0A01 } })] } }, by decide +kernel⟩

theorem witness_RecorderCommands_7 : ∃ (x : Raise) (l : List Raise) (i : Nat) (s : State), hkOn s = true ∧ (s.pwr.loaded || s.pwr.phase = .halt) = true ∧ s.rcd.bobbin = x :: l ∧ (s.rcd.louFrz || !s.rcd.frozen.isEmpty) = false ∧ slotOf s x.code = some i ∧ ((codeCfg s x.code).rate ≠ 0 && (recSlot s i).tokens < 1000000) = false :=
  ⟨{ code := 0x0A01, sev := 5, value := 7, stamp := {} }, [], 7, { tLoaded tOn with rcd := { tOn.rcd with bobbin := [{ code := 0x0A01, sev := 5, value := 7, stamp := {} }], slots := [(7, { held := true, body := { code := 0x0A01 }, tokens := 2000000 })] } }, by decide +kernel⟩

theorem witness_RecorderCommands_8 : ∃ (x : Raise) (l : List Raise) (i : Nat) (s : State), hkOn s = true ∧ (s.pwr.loaded || s.pwr.phase = .halt) = true ∧ s.rcd.bobbin = x :: l ∧ (s.rcd.louFrz || !s.rcd.frozen.isEmpty) = false ∧ slotOf s x.code = none ∧ freeSlot s = some i :=
  ⟨{ code := 0x0A01, sev := 5, value := 7, stamp := {} }, [], 0, { tLoaded tOn with rcd := { tOn.rcd with bobbin := [{ code := 0x0A01, sev := 5, value := 7, stamp := {} }] } }, by decide +kernel⟩

theorem witness_RecorderCommands_9 : ∃ (x : Raise) (l : List Raise) (i : Nat) (v : RecSlot) (s : State), hkOn s = true ∧ (s.pwr.loaded || s.pwr.phase = .halt) = true ∧ s.rcd.bobbin = x :: l ∧ (s.rcd.louFrz || !s.rcd.frozen.isEmpty) = false ∧ slotOf s x.code = none ∧ freeSlot s = none ∧ victim s x.sev = some (i, v) :=
  ⟨{ code := 0x0A01, sev := 5, value := 7, stamp := {} }, [], 0, { held := true, body := { code := 0x2000, sev := 1 } }, tFullRec (tFull 1), rfl, rfl, rfl, rfl, tFull_slotOf (tFullRec_slots _) (by decide), tFull_free (tFullRec_slots _), tFull_victim (tFullRec_slots _)⟩

theorem witness_RecorderCommands_10 : ∃ (x : Raise) (l : List Raise) (s : State), hkOn s = true ∧ (s.pwr.loaded || s.pwr.phase = .halt) = true ∧ s.rcd.bobbin = x :: l ∧ (s.rcd.louFrz || !s.rcd.frozen.isEmpty) = false ∧ slotOf s x.code = none ∧ freeSlot s = none ∧ victim s x.sev = none :=
  ⟨{ code := 0x0A01, sev := 5, value := 7, stamp := {} }, [], tFullRec (tFull 5), rfl, rfl, rfl, rfl, tFull_slotOf (tFullRec_slots _) (by decide), tFull_free (tFullRec_slots _), tFull_none (tFullRec_slots _)⟩

theorem witness_RecorderCommands_12 : ∃ (i : Fin 4096) (s : State), hkOn s = true ∧ (recSlot s i.val).held = true ∧ (recSlot s i.val).dirty = true :=
  ⟨4095, { tOn with rcd := { tOn.rcd with slots := [(4095, { held := true, dirty := true })] } }, by decide +kernel⟩

theorem witness_RecorderCommands_13 : ∃ (i : Fin 4096) (s : State), hkOn s = true ∧ (recSlot s i.val).erase = true :=
  ⟨4095, { tOn with rcd := { tOn.rcd with slots := [(4095, { erase := true })] } }, by decide +kernel⟩

theorem witness_RecorderCommands_14 : ∃ (s : State), hkOn s = true ∧ s.rcd.louFrz = true :=
  ⟨{ tOn with rcd := { tOn.rcd with louFrz := true } }, by decide +kernel⟩

theorem witness_RecorderCommands_15 : ∃ (i : Nat) (s : State), hkOn s = true ∧ s.rcd.frozen.contains i = true :=
  ⟨5, { tOn with rcd := { tOn.rcd with frozen := [5] } }, by decide +kernel⟩

theorem witness_PanelCommands_1 : ∃ (flips : List Nat) (s : State), panMayCommit s = true ∧ frameBad flips s = false ∧ s.pan.host = true ∧ (ledgerFrame s.pan.shown (panContent flips s) s.pan.ledger).2 = 0 :=
  ⟨[], setPan (fun p => { p with host := true, stored := true, fmem := [3], fcrc := crc32n [3], phase := .fieldB }) (tOn), by decide +kernel⟩

theorem witness_PanelCommands_2 : ∃ (flips : List Nat) (s : State), panMayCommit s = true ∧ frameBad flips s = true ∧ (ledgerFrame s.pan.shown s.pan.shown s.pan.ledger).2 = 0 :=
  ⟨[9], setPan (fun p => { p with host := true, stored := true, fmem := [3, 0], fcrc := crc32n [3, 0], phase := .fieldB }) (tOn), by decide +kernel⟩

theorem witness_PanelCommands_3 : ∃ (d : Nat) (s : State), panOn s = true ∧ s.pan.phase = .ledger :=
  ⟨7, setPan (fun p => { p with phase := .ledger }) (tOn), by decide +kernel⟩

theorem witness_PanelCommands_4 : ∃ (s : State), panOn s = true ∧ s.pan.phase = .fieldA :=
  ⟨setPan (fun p => { p with phase := .fieldA }) (tOn), by decide +kernel⟩

theorem witness_PanelCommands_5 : ∃ (s : State), panOn s = true ∧ s.pan.phase = .comp ∧ (compRun s.pan).phase ≠ .blank :=
  ⟨setPan (fun p => { p with phase := .comp, ledger := [(3, 2)] }) (tOn), by decide +kernel⟩

theorem witness_PanelCommands_6 : ∃ (s : State), panOn s = true ∧ s.pan.phase = .comp ∧ (compRun s.pan).phase = .blank :=
  ⟨setPan (fun p => { p with phase := .comp, ledger := [(3, 1)] }) (tOn), by decide +kernel⟩

theorem witness_PanelCommands_7 : ∃ (t : Int) (s : State), panOn s = true ∧ bandNext t s.pan.nextBand = s.pan.nextBand :=
  ⟨-100, tOn, by decide +kernel⟩

theorem witness_PanelCommands_8 : ∃ (t : Int) (s : State), panOn s = true ∧ bandNext t s.pan.nextBand ≠ s.pan.nextBand :=
  ⟨470, tOn, by decide +kernel⟩

theorem witness_PowerSupplyCommands_1 : ∃ (f0 f1 : Nat) (n : Fin 2) (s : State), s.pwr.up = false ∧ (feedGood < f0 ∨ feedGood < f1) :=
  ⟨1800, 0, 1, State.reset, by decide +kernel⟩

theorem witness_PowerSupplyCommands_2 : ∃ (f0 f1 : Nat) (n : Fin 2) (s : State), f0 ≤ feedGood ∧ f1 ≤ feedGood :=
  ⟨1680, 0, 1, State.reset, by decide⟩

theorem witness_PowerSupplyCommands_3 : ∃ (n : Fin 2) (v : Nat) (s : State), s.pwr.up = true ∧ v < feedLost ∧ (if n = 0 then s.pwr.lost0 else s.pwr.lost1) = false :=
  ⟨1, 1500, tOn, by decide +kernel⟩

theorem witness_PowerSupplyCommands_4 : ∃ (a b : Nat) (s : State), s.pwr.up = true ∧ a < feedRide ∧ b < feedRide :=
  ⟨1000, 1000, tOn, by decide +kernel⟩

theorem witness_PowerSupplyCommands_5 : ∃ (n : Fin 2) (v : Nat) (s : State), s.pwr.up = true ∧ (if n = 0 then s.pwr.lost0 else s.pwr.lost1) = true :=
  ⟨1, 1500, setPwr (fun p => { p with lost1 := true }) tOn, by decide +kernel⟩

theorem witness_PowerSupplyCommands_6 : ∃ (a b : Nat) (s : State), s.pwr.up = true ∧ s.pwr.pfw = false ∧ (feedRide ≤ a ∨ feedRide ≤ b) ∧ s.pwr.feed0 < feedRide ∧ s.pwr.feed1 < feedRide :=
  ⟨2400, 0, setPwr (fun p => { p with feed0 := 1000, feed1 := 1000 }) tOn, by decide +kernel⟩

theorem witness_PowerSupplyCommands_7 : ∃ (k : Fin 2) (a b : Nat) (s : State), s.pwr.up = true ∧ s.pwr.pfw = false :=
  ⟨0, 2400, 0, tOn, by decide⟩

theorem witness_PowerSupplyCommands_8 : ∃ (s : State), s.pwr.up = true ∧ s.pwr.feed0 < feedRide ∧ s.pwr.feed1 < feedRide :=
  ⟨setPwr (fun p => { p with feed0 := 1000, feed1 := 1000 }) tOn, by decide +kernel⟩

theorem witness_PowerSupplyCommands_11 : ∃ (s : State), s.pwr.up = true ∧ pdOn s 0 = true :=
  ⟨tOn, by decide +kernel⟩

theorem witness_PowerSupplyCommands_12 : ∃ (s : State), s.pwr.up = true ∧ pdOn s 11 = true :=
  ⟨tOn, by decide +kernel⟩

theorem witness_PowerSupplyCommands_13 : ∃ (s : State), s.pwr.up = true ∧ pdOn s 9 = true :=
  ⟨tOn, by decide +kernel⟩

theorem witness_PowerSupplyCommands_14 : ∃ (s : State), s.pwr.up = true ∧ pdOn s 1 = true :=
  ⟨tOn, by decide +kernel⟩

theorem witness_PowerSupplyCommands_15 : ∃ (d : Fin 12) (s : State), s.pwr.up = true ∧ pdOn s d.val = true ∧ d.val ≠ 0 ∧ d.val ≠ 1 ∧ d.val ≠ 9 ∧ d.val ≠ 11 :=
  ⟨5, tOn, by decide +kernel⟩

theorem witness_PowerSupplyCommands_16 : ∃ (s : State), s.side.resetN = true :=
  ⟨tOn, by decide +kernel⟩

theorem witness_PowerSupplyCommands_18 : ∃ (s : State), s.side.resetN = false ∧ s.pwr.up = true ∧ (s.pwr.warmN = 0 ∨ s.pwr.warmAt.length < 3) :=
  ⟨{ tOn with side := { tOn.side with resetN := false } }, by decide +kernel⟩

theorem witness_PowerSupplyCommands_19 : ∃ (s : State), s.pwr.up = true :=
  ⟨tOn, by decide +kernel⟩

theorem witness_PowerSupplyCommands_21 : ∃ (s : State), s.pwr.aonRc = false :=
  ⟨tOn, by decide +kernel⟩

theorem witness_PowerSupplyCommands_22 : ∃ (o n : Nat) (s : State), i2cAnswers s = true :=
  ⟨28, 8, tOn, by decide +kernel⟩

theorem witness_PowerSupplyCommands_23 : ∃ (o n : Nat) (s : State), i2cAnswers s = false :=
  ⟨0, 1, State.reset, by decide +kernel⟩

theorem witness_PowerFaultCommands_1 : ∃ (u v : Nat) (rest : List Nat) (s : State), s.pwr.testing = u :: v :: rest ∧ s.pwr.testFor = some .startUp :=
  ⟨0, 1, [], setPwr (fun p => { p with testing := [0, 1], testFor := some .startUp }) tOn, by decide +kernel⟩

theorem witness_PowerFaultCommands_2 : ∃ (u : Nat) (s : State), s.pwr.testing = [u] ∧ s.pwr.testFor = some .startUp :=
  ⟨43, setPwr (fun p => { p with testing := [43], testFor := some .startUp, phase := .startBist }) tOn, by decide +kernel⟩

theorem witness_PowerFaultCommands_3 : ∃ (u : Nat) (rest : List Nat) (s : State), s.pwr.testing = u :: rest ∧ s.pwr.testFor = some .direct :=
  ⟨0, [], setPwr (fun p => { p with testing := [0], testFor := some .direct }) tOn, by decide +kernel⟩

theorem witness_PowerFaultCommands_4 : ∃ (b : Fin 24) (s : State), rollActive s = true ∧ fabricOn s = true ∧ (hedBank s b).owner = 0x10 :=
  ⟨20, setHed 20 (fun k => { k with owner := 0x10 }) (setPwr (fun p => { p with rollEn := true }) (tStandby tOn)), by decide +kernel⟩

theorem witness_PowerFaultCommands_5 : ∃ (b : Bool) (s : State), hkOn s = true :=
  ⟨true, tOn, by decide +kernel⟩

theorem witness_PowerFaultCommands_6 : ∃ (s : State), meOn s = true ∧ mirPresent s = true :=
  ⟨tOn, by decide +kernel⟩

theorem witness_PowerFaultCommands_7 : ∃ (s : State), s.pwr.up = true ∧ clkOn s 7 = true :=
  ⟨tOn, by decide +kernel⟩

theorem witness_PowerFaultCommands_8 : ∃ (d : Fin 12) (s : State), s.pwr.up = true ∧ clkOn s d.val = true ∧ d.val ≠ 7 :=
  ⟨11, tOn, by decide +kernel⟩

theorem witness_PowerFaultCommands_9 : ∃ (s : State), fieldOn s = true :=
  ⟨tOn, by decide +kernel⟩

theorem witness_PowerFaultCommands_10 : ∃ (s : State), pdOn s 7 = true ∧ clkOn s 5 = true :=
  ⟨tOn, by decide +kernel⟩

theorem witness_PowerFaultCommands_11 : ∃ (s : State), s.side.vioOk = true ∧ s.side.resetN = true ∧ s.pwr.up = true :=
  ⟨tOn, by decide +kernel⟩

theorem witness_PowerFaultCommands_12 : ∃ (s : State), hkOn s = true ∧ s.pwr.up = true ∧ s.pwr.phase = .start ∧ s.pwr.testing = [] ∧ s.pwr.loaded = false ∧ prismCount s = 4 :=
  ⟨setPwr (fun p => { p with phase := .start, loaded := false }) tOn, by decide +kernel⟩

theorem witness_SwapCommands_1 : ∃ (no len : Nat) (rest : List (Nat × Nat)) (s : State), hkOn s = true ∧ dramOn s = true ∧ s.zor.checks = (no, len) :: rest :=
  ⟨1, 8, [], setZor (fun z => { z with checks := [(1, 8)] }) (tOn), by decide⟩

theorem witness_SwapCommands_2 : ∃ (s : State), hkOn s = true ∧ s.zor.phase = .prepare ∧ s.zor.shadow.isSome = true ∧ hedPending s = false ∧ s.zor.shadow.any (prepareBad s) = false ∧ s.mir.decided = true ∧ s.mir.role = .standby :=
  ⟨setZor (fun z => { z with phase := .prepare, shadow := some { points := [(3, { kind := 4, writer := 0 })] } }) (tStandby tOn), by decide +kernel⟩

theorem witness_SwapCommands_3 : ∃ (s : State), hkOn s = true ∧ s.zor.phase = .prepare ∧ s.zor.shadow.isSome = true ∧ hedPending s = false ∧ s.zor.shadow.any (prepareBad s) = false ∧ s.mir.role = .alone :=
  ⟨setZor (fun z => { z with phase := .prepare, shadow := some { points := [(3, { kind := 4, writer := 0 })] } }) (tOn), by decide +kernel⟩

theorem witness_SwapCommands_4 : ∃ (s : State), hkOn s = true ∧ s.zor.phase = .prepare ∧ s.zor.shadow.isSome = true ∧ hedPending s = false ∧ s.zor.shadow.any (prepareBad s) = true :=
  ⟨setZor (fun z => { z with phase := .prepare, shadow := some { points := [(3, { kind := 4, writer := 0 })] } }) (tSlot { run := .running }), by decide +kernel⟩

theorem witness_SwapCommands_5 : ∃ (s : State), s.zor.phase = .prepare :=
  ⟨setZor (fun z => { z with phase := .prepare }) (tOn), by decide +kernel⟩

theorem witness_SwapCommands_6 : ∃ (f : Word) (s : State), s.zor.freezeF = some f ∧ (loomTime s - f).toNat < 2 ^ 31 ∧ s.zor.phase = .freeze :=
  ⟨0, setZor (fun z => { z with phase := .freeze, freezeF := some 0 }) (tOn), by decide +kernel⟩

theorem witness_SwapCommands_7 : ∃ (img : Image) (s : State), s.zor.phase = .map ∧ s.mir.role = .alone ∧ s.zor.shadow = some img ∧ prepareBad s img = false :=
  ⟨{ points := [(3, { kind := 4, writer := 0 })] }, setZor (fun z => { z with phase := .map, shadow := some { points := [(3, { kind := 4, writer := 0 })] } }) (tOn), by decide +kernel⟩

theorem witness_SwapCommands_8 : ∃ (img : Image) (s : State), s.zor.phase = .map ∧ s.mir.role = .alone ∧ s.zor.shadow = some img ∧ prepareBad s img = true :=
  ⟨{ points := [(3, { kind := 4, writer := 0 })] }, setZor (fun z => { z with phase := .map, shadow := some { points := [(3, { kind := 4, writer := 0 })] } }) (tSlot { run := .running }), by decide +kernel⟩

theorem witness_SwapCommands_9 : ∃ (img : Image) (s : State), s.zor.phase = .map ∧ s.mir.role = .standby ∧ s.zor.shadow = some img ∧ s.zor.lone = false ∧ s.zor.ownCrc.isSome = true ∧ s.zor.ownCrc = s.zor.peerCrc :=
  ⟨{ points := [(3, { kind := 4, writer := 0 })] }, setZor (fun z => { z with phase := .map, shadow := some { points := [(3, { kind := 4, writer := 0 })] }, ownCrc := some 7, peerCrc := some 7 }) (tStandby tOn), by decide +kernel⟩

theorem witness_SwapCommands_10 : ∃ (img : Image) (s : State), s.zor.phase = .map ∧ s.mir.role = .standby ∧ s.zor.shadow = some img ∧ s.zor.lone = true :=
  ⟨{ points := [(3, { kind := 4, writer := 0 })] }, setZor (fun z => { z with phase := .map, shadow := some { points := [(3, { kind := 4, writer := 0 })] }, lone := true }) (tStandby tOn), by decide +kernel⟩

theorem witness_SwapCommands_11 : ∃ (s : State), s.zor.phase = .map ∧ s.mir.role = .active ∧ s.zor.lone = false ∧ s.zor.ownCrc.isSome = true ∧ s.zor.ownCrc = s.zor.peerCrc :=
  ⟨setZor (fun z => { z with phase := .map, ownCrc := some 7, peerCrc := some 7 }) (setMir (fun m => { m with role := .active }) tOn), by decide +kernel⟩

theorem witness_SwapCommands_12 : ∃ (s : State), hkOn s = true ∧ s.zor.running.isSome = true :=
  ⟨setZor (fun z => { z with running := some { points := [(3, { kind := 4, writer := 0 })] } }) (tOn), by decide +kernel⟩

/-! ## Well-formed commands: one term that each check admits at its edge, and one that it refuses -/

theorem test_wf_fetch : (Instr.descriptorFetch (List.replicate 8 { bytes := List.replicate 32 0 })).wf = true ∧ (Instr.descriptorFetch [{ bytes := List.replicate 31 0 }]).wf = false := by decide +kernel

theorem test_wf_fetch_count : (Instr.descriptorFetch (List.replicate 9 { bytes := List.replicate 32 0 })).wf = false := by decide +kernel

theorem test_wf_can : (Instr.canFrameReceived 0 tIn).wf = true ∧ (Instr.canFrameReceived 0 { tIn with dlc := 9 }).wf = false := by decide

theorem test_wf_can_fd : (Instr.canFrameReceived 0 { tIn with frame := { tFrame with brs := true } }).wf = false ∧
    (Instr.canFrameReceived 0 { tIn with frame := { tFrame with fdf := true, rtr := true, data := [] }, dlc := 0 }).wf = false := by decide

theorem test_wf_can_ident : (Instr.canFrameReceived 0 { tIn with frame := { tFrame with ident := 2048 } }).wf = false ∧
    (Instr.canFrameReceived 0 { tIn with frame := { tFrame with rtr := true } }).wf = false := by decide

theorem test_wf_wake : (Instr.busWake 0 (some { tIn with frame := { tFrame with ident := 2048 } })).wf = false := by decide

theorem test_wf_eth : (Instr.ethFrameIngress 0 { (tEthFrame (tPtp .sync true)) with prio := 8 }).wf = false := by decide

theorem test_wf_update : (Instr.update tHdr []).wf = false ∧ (Instr.update tHdr (List.replicate 33 (0, 0))).wf = false := by decide +kernel

theorem test_wf_signature : (Instr.signature tHdr []).wf = false ∧ (Instr.signature tHdr (List.replicate 11 { isTask := true, engine := 0, num := 1, crc := 0 })).wf = false := by decide +kernel

theorem test_wf_syncData : (Instr.syncData tHdr 0 (List.replicate 256 0)).wf = true ∧ (Instr.syncData tHdr 0 (List.replicate 257 0)).wf = false := by decide +kernel

theorem test_wf_bank : (Instr.bankAccess { master := 0, bank := 0, portB := false, service := false, offset := 60, write := false, bytes := [], count := 5, secure := true, rivals := [], collide := false }).wf = false := by decide

theorem test_wf_conversion : (Instr.periodicConversion 0 { pri := 65536, sec := 0, vt := 0 }).wf = false := by decide

theorem test_wf_threshold : (Instr.thresholdUpdate 0 { filtered := 65536, lowest := 0 }).wf = false ∧ (Instr.thresholdUpdate 0 { filtered := 0, lowest := 65536 }).wf = false ∧ (Instr.bankShed 0 65536).wf = false := by decide

theorem test_wf_feeds : (Instr.powerGood 65536 0 0).wf = false ∧ (Instr.powerGood 0 65536 0).wf = false ∧ (Instr.feedLost 0 65536).wf = false := by decide

theorem test_wf_other : (Instr.brakeSupplyWarning 655360).wf = false ∧ (Instr.syncPhaseEnd 65536).wf = false ∧ (Instr.i2cRead 28 5).wf = false := by decide

/-! ## Words of the Loom engines, written out from R80 and the opcode tables -/

/-- R80's own example: CMP, space KW, condition LT, index 5. -/
theorem test_word_cmp : loomDecode 0x50E20005 = some (.cmp .lt { space := .kw, index := 5 }) := by decide

/-- R80's own example: ST to Warp bit point 0x0200. -/
theorem test_word_st : loomDecode 0x24100200 = some (.st { space := .pb, index := 0x200 }) := by decide

/-- R99: a COND value of 8 is refused. -/
theorem test_word_cond : loomDecode 0x50E80005 = none := by decide

/-- R99: a reserved space is refused. -/
theorem test_word_space : loomDecode 0x10600000 = none := by decide

/-- R80: LDI with 0x8000. -/
theorem test_word_ldi : loomDecode 0x41008000 = some (.ldi 0x8000) := by decide

/-- R80: JMP to the last word. -/
theorem test_word_jmp : loomDecode 0x6001FFFF = some (.jmp 0x1FFFF) := by decide

/-! ## Single steps -/

/-- R367: a write of REQ for bank 20 to HK0 starts a handover. -/
theorem test_hedRequest : (hedBank (hedRequest 20 0xC tOn) 20).pend = true ∧ (hedBank (hedRequest 20 0xC tOn) 20).owner = 0x1F := by decide +kernel

/-- R369: a bank outside 16 to 21 is refused. -/
theorem test_hedRequest_fixed : (hedBank (hedRequest 12 0xF tOn) 12).rej = true ∧ (hedBank (hedRequest 12 0xF tOn) 12).pend = false := by decide +kernel

/-- R451: rolling BIST of a standby takes the first spare bank. -/
theorem test_roll : (hedBank (tickRoll (setPwr (fun p => { p with rollEn := true }) (tStandby tOn))) 20).owner = 0x10 := by decide +kernel

/-- R370: banks 10 and 11 of an HZ-9232 have no owner. -/
theorem test_banks_9232 : ((vget (resetBanks .hz9232) 10).owner, (vget (resetBanks .hz9232) 11).owner, (vget (resetBanks .hz9232) 9).owner) = (0x1F, 0x1F, 9) := by decide +kernel

end Sys2Proof.Tests
end

section
/-! SUPPORT. The frame of every command: which blocks of the state it leaves as they were, and that it completes. -/

namespace Sys2Proof.Architecture

open Machine Laws

/-- A bank access ends within the 2 MiB of its bank (R394). -/
abbrev EndsInBank (r : BankReq) : Prop := r.offset + (if r.write then r.bytes.length else r.count) ≤ 0x200000

theorem execBankAccess_viewR {k : Blk} {r : BankReq} {s : State} (hk : k ∉ mayChange (.bankAccess r)) (hr : EndsInBank r) :
    viewR k (execBankAccess r s) = some (view k s) := by
  obtain ⟨t, ht⟩ : ∃ t, execBankAccess r s = .next t := ⟨_, if_neg (Nat.not_lt.mpr hr)⟩
  rw [ht, viewR_next, execBankAccess_view hk r s t ht]

/-- The frame of `exec`, from the frame law of each command's meaning: `mayChange` names the footprint of that law, and the access of a
bank is the one command that must be kept from its stop. -/
theorem exec_view {k : Blk} (c : Instr) (s : State) (hc : ∀ r, c = .bankAccess r → EndsInBank r) (hk : k ∉ mayChange c) :
    viewR k (exec c s) = some (view k s) := by
  cases c with
  | functionLevelReset fn => exact execFunctionLevelReset_view hk fn s
  | submissionDoorbell fn rp v => exact execSubmissionDoorbell_view hk fn rp v s
  | completionDoorbell fn rp v => exact execCompletionDoorbell_view hk fn rp v s
  | shuRpArm fn rp v => exact execShuRpArm_view hk fn rp v s
  | shuRpCtrlDisable fn rp => exact execShuRpCtrlDisable_view hk fn rp s
  | descriptorFetch raw => exact execDescriptorFetch_view hk raw s
  | ringHostMemoryError rp write => exact execRingHostMemoryError_view hk rp write s
  | completionWrite rp => exact execCompletionWrite_view hk rp s
  | irqModerationExpiry rp => exact execIrqModerationExpiry_view hk rp s
  | sessionOpen fn => exact execSessionOpen_view hk fn s
  | sessionClose fn => exact execSessionClose_view hk fn s
  | sessionResponse fn v => exact execSessionResponse_view hk fn v s
  | create d => exact execCreate_view hk d s
  | teardownEnd idx => exact execTeardownEnd_view hk idx s
  | zorosStage d => exact execZorosStage_view hk d s
  | loopCfg d => exact execLoopCfg_view hk d s
  | loopTable d => exact execLoopTable_view hk d s
  | fieldCfg d => exact execFieldCfg_view hk d s
  | canCfg d => exact execCanCfg_view hk d s
  | canTx d => exact execCanTx_view hk d s
  | canFilter d => exact execCanFilter_view hk d s
  | pointRead => exact execPointRead_view hk s
  | recRead => exact execRecRead_view hk s
  | streamBufferTimeout idx => exact execStreamBufferTimeout_view hk idx s
  | brkCfg d => exact execBrkCfg_view hk d s
  | panelFrame d => exact execPanelFrame_view hk d s
  | mirrorAckTimeout fwdseq => exact execMirrorAckTimeout_view hk fwdseq s
  | pointUpdate idx v mark => exact execPointUpdate_view hk idx v mark s
  | weftLatch n => exact execWeftLatch_view hk n s
  | freshWeftArrival n => exact execFreshWeftArrival_view hk n s
  | publish n => exact execPublish_view hk n s
  | budgetExhausted n => exact execBudgetExhausted_view hk n s
  | stoppedTimerEvaluation n => exact execStoppedTimerEvaluation_view hk n s
  | engineFault n cause => exact execEngineFault_view hk n cause s
  | loomNop n => exact execLoomNop_view hk n s
  | loomPick n no => exact execLoomPick_view hk n no s
  | loomEnd n => exact execLoomEnd_view hk n s
  | loomLd n o => exact execLoomLd_view hk n o s
  | loomLdn n o => exact execLoomLdn_view hk n o s
  | loomAnd n o => exact execLoomAnd_view hk n o s
  | loomAndn n o => exact execLoomAndn_view hk n o s
  | loomOr n o => exact execLoomOr_view hk n o s
  | loomOrn n o => exact execLoomOrn_view hk n o s
  | loomXor n o => exact execLoomXor_view hk n o s
  | loomXorn n o => exact execLoomXorn_view hk n o s
  | loomNot n => exact execLoomNot_view hk n s
  | loomSet1 n => exact execLoomSet1_view hk n s
  | loomSet0 n => exact execLoomSet0_view hk n s
  | loomAndp n => exact execLoomAndp_view hk n s
  | loomOrp n => exact execLoomOrp_view hk n s
  | loomPopb n => exact execLoomPopb_view hk n s
  | loomBpsh n => exact execLoomBpsh_view hk n s
  | loomBrd n => exact execLoomBrd_view hk n s
  | loomBpop n => exact execLoomBpop_view hk n s
  | loomSt n o => exact execLoomSt_view hk n o s
  | loomStn n o => exact execLoomStn_view hk n o s
  | loomSetb n o => exact execLoomSetb_view hk n o s
  | loomRstb n o => exact execLoomRstb_view hk n o s
  | loomPedge n ix => exact execLoomPedge_view hk n ix s
  | loomNedge n ix => exact execLoomNedge_view hk n ix s
  | loomTon n ix => exact execLoomTon_view hk n ix s
  | loomTof n ix => exact execLoomTof_view hk n ix s
  | loomTp n ix => exact execLoomTp_view hk n ix s
  | loomTrst n ix => exact execLoomTrst_view hk n ix s
  | loomCtu n ix => exact execLoomCtu_view hk n ix s
  | loomCtd n ix => exact execLoomCtd_view hk n ix s
  | loomCrst n ix => exact execLoomCrst_view hk n ix s
  | loomCld n ix => exact execLoomCld_view hk n ix s
  | loomLdw n o => exact execLoomLdw_view hk n o s
  | loomLdi n v => exact execLoomLdi_view hk n v s
  | loomLdih n v => exact execLoomLdih_view hk n v s
  | loomStw n o => exact execLoomStw_view hk n o s
  | loomStwc n o => exact execLoomStwc_view hk n o s
  | loomAdd n o => exact execLoomAdd_view hk n o s
  | loomSub n o => exact execLoomSub_view hk n o s
  | loomMul n o => exact execLoomMul_view hk n o s
  | loomDiv n o => exact execLoomDiv_view hk n o s
  | loomMod n o => exact execLoomMod_view hk n o s
  | loomAndw n o => exact execLoomAndw_view hk n o s
  | loomOrw n o => exact execLoomOrw_view hk n o s
  | loomXorw n o => exact execLoomXorw_view hk n o s
  | loomShl n k => exact execLoomShl_view hk n k s
  | loomShr n k => exact execLoomShr_view hk n k s
  | loomAsr n k => exact execLoomAsr_view hk n k s
  | loomCmp n c o => exact execLoomCmp_view hk n c o s
  | loomMin n o => exact execLoomMin_view hk n o s
  | loomMax n o => exact execLoomMax_view hk n o s
  | loomGetb n k => exact execLoomGetb_view hk n k s
  | loomPutb n k => exact execLoomPutb_view hk n k s
  | loomMcs n => exact execLoomMcs_view hk n s
  | loomMce n => exact execLoomMce_view hk n s
  | loomJmp n t => exact execLoomJmp_view hk n t s
  | loomJc n t => exact execLoomJc_view hk n t s
  | loomJcn n t => exact execLoomJcn_view hk n t s
  | loomCall n t => exact execLoomCall_view hk n t s
  | loomCallc n t => exact execLoomCallc_view hk n t s
  | loomRet n => exact execLoomRet_view hk n s
  | loomEvt n sev num => exact execLoomEvt_view hk n sev num s
  | loomCantx n tpl => exact execLoomCantx_view hk n tpl s
  | prismPeriodStart n => exact execPrismPeriodStart_view hk n s
  | sampleInstant l => exact execSampleInstant_view hk l s
  | sourceReturn l j c => exact execSourceReturn_view hk l j c s
  | computeWindow l => exact execComputeWindow_view hk l s
  | outputInstant l w => exact execOutputInstant_view hk l w s
  | prismEngineFault n cause => exact execPrismEngineFault_view hk n cause s
  | peSselWrite fn v => exact execPeSselWrite_view hk fn v s
  | inputChange c state => exact execInputChange_view hk c state s
  | debounceEnd c => exact execDebounceEnd_view hk c s
  | bankShed b ma => exact execBankShed_view hk b ma s
  | thresholdUpdate b v => exact execThresholdUpdate_view hk b v s
  | supplyConditionEntered b k => exact execSupplyConditionEntered_view hk b k s
  | supplyConditionReleased b k => exact execSupplyConditionReleased_view hk b k s
  | rbLow c => exact execRbLow_view hk c s
  | extDrive c => exact execExtDrive_view hk c s
  | readbackFlagClear c k => exact execReadbackFlagClear_view hk c k s
  | wireBreak c => exact execWireBreak_view hk c s
  | wireBreakClear c => exact execWireBreakClear_view hk c s
  | thermalShutdown c => exact execThermalShutdown_view hk c s
  | thermalRetry c => exact execThermalRetry_view hk c s
  | retryCountReset c => exact execRetryCountReset_view hk c s
  | dioLatWrite fn b v => exact execDioLatWrite_view hk fn b v s
  | digitalDisagree c => exact execDigitalDisagree_view hk c s
  | periodicConversion c m => exact execPeriodicConversion_view hk c m s
  | inPtDelivery c mark => exact execInPtDelivery_view hk c mark s
  | mismatch c set => exact execMismatch_view hk c set s
  | ne43FlagChange c k set => exact execNe43FlagChange_view hk c k set s
  | short c set => exact execShort_view hk c set s
  | transmitterFlagChange c k set => exact execTransmitterFlagChange_view hk c k set s
  | isoFail b => exact execIsoFail_view hk b s
  | currentDisagree c => exact execCurrentDisagree_view hk c s
  | share c => exact execShare_view hk c s
  | cmodeChangeEnd c => exact execCmodeChangeEnd_view hk c s
  | fieldSideWatchdog digital b => exact execFieldSideWatchdog_view hk digital b s
  | encoderLoss p => exact execEncoderLoss_view hk p s
  | encoderLossEnd p => exact execEncoderLossEnd_view hk p s
  | qerr p => exact execQerr_view hk p s
  | indexMark p lines => exact execIndexMark_view hk p lines s
  | velocityTimeout p => exact execVelocityTimeout_view hk p s
  | ssiFrameStart p => exact execSsiFrameStart_view hk p s
  | ssiFrameEnd p f => exact execSsiFrameEnd_view hk p f s
  | encoderDelivery p lines winEdges winNs => exact execEncoderDelivery_view hk p lines winEdges winNs s
  | encQerrClear fn p v => exact execEncQerrClear_view hk fn p v s
  | canIntegration c => exact execCanIntegration_view hk c s
  | canFrameReceived c f => exact execCanFrameReceived_view hk c f s
  | filterTimeout c e => exact execFilterTimeout_view hk c e s
  | canAttemptStart c => exact execCanAttemptStart_view hk c s
  | canAttemptEnd c r => exact execCanAttemptEnd_view hk c r s
  | busOffRecoveryEnd c => exact execBusOffRecoveryEnd_view hk c s
  | lonely c => exact execLonely_view hk c s
  | canSleepReached c => exact execCanSleepReached_view hk c s
  | busWake c f => exact execBusWake_view hk c f s
  | canWakeEnd c => exact execCanWakeEnd_view hk c s
  | canStateTimeout c => exact execCanStateTimeout_view hk c s
  | canTransceiverWatchdog c => exact execCanTransceiverWatchdog_view hk c s
  | ethFrameIngress p f => exact execEthFrameIngress_view hk p f s
  | linkUp p gig => exact execLinkUp_view hk p gig s
  | linkDown p => exact execLinkDown_view hk p s
  | addressAgeing a => exact execAddressAgeing_view hk a s
  | twoStepEntryExpiry p source domain seqId => exact execTwoStepEntryExpiry_view hk p source domain seqId s
  | announceReceived p a => exact execAnnounceReceived_view hk p a s
  | syncReceived p m => exact execSyncReceived_view hk p m s
  | delayRespReceived p h t4 corr logInterval => exact execDelayRespReceived_view hk p h t4 corr logInterval s
  | arpRequest p target sender => exact execArpRequest_view hk p target sender s
  | timSnap fn v => exact execTimSnap_view hk fn v s
  | timAdj fn v => exact execTimAdj_view hk fn v s
  | bmpTick m => exact execBmpTick_view hk m s
  | testSlot c => exact execTestSlot_view hk c s
  | offPulseTimeout c => exact execOffPulseTimeout_view hk c s
  | onPulseTimeout c => exact execOnPulseTimeout_view hk c s
  | fwCheckTimeout c => exact execFwCheckTimeout_view hk c s
  | tPickExpiry c => exact execTPickExpiry_view hk c s
  | fbRelTimeout c => exact execFbRelTimeout_view hk c s
  | fbAppTimeout c => exact execFbAppTimeout_view hk c s
  | holdExpiry c => exact execHoldExpiry_view hk c s
  | engageFail c => exact execEngageFail_view hk c s
  | reqTmoExpiry c => exact execReqTmoExpiry_view hk c s
  | brakeFault k => exact execBrakeFault_view hk k s
  | brakeSupplyWarning mv => exact execBrakeSupplyWarning_view hk mv s
  | brakeTestPositionRead c => exact execBrakeTestPositionRead_view hk c s
  | brakeTestEnd c => exact execBrakeTestEnd_view hk c s
  | brkLogselWrite fn v => exact execBrkLogselWrite_view hk fn v s
  | heartbeat h => exact execHeartbeat_view hk h s
  | brake b => exact execBrake_view hk b s
  | laneUp l => exact execLaneUp_view hk l s
  | laneDown l k => exact execLaneDown_view hk l k s
  | eyeOpeningLow l h v => exact execEyeOpeningLow_view hk l h v s
  | handover m => exact execHandover_view hk m s
  | request m => exact execRequest_view hk m s
  | live m => exact execLive_view hk m s
  | aioLive m => exact execAioLive_view hk m s
  | diverge m => exact execDiverge_view hk m s
  | checkResult m => exact execCheckResult_view hk m s
  | refuse m => exact execRefuse_view hk m s
  | outputsLive gap100ns => exact execOutputsLive_view hk gap100ns s
  | update h entries => exact execUpdate_view hk h entries s
  | latch h f => exact execLatch_view hk h f s
  | sample h f => exact execSample_view hk h f s
  | signature h entries => exact execSignature_view hk h entries s
  | forward h f => exact execForward_view hk h f s
  | fwdAck h f => exact execFwdAck_view hk h f s
  | swap h m => exact execSwap_view hk h m s
  | syncData h offset bytes => exact execSyncData_view hk h offset bytes s
  | divergenceCheckEnd pathFail => exact execDivergenceCheckEnd_view hk pathFail s
  | syncPhaseEnd ms => exact execSyncPhaseEnd_view hk ms s
  | hedOwnWrite fn b v => exact execHedOwnWrite_view hk fn b v s
  | handoverDrained b => exact execHandoverDrained_view hk b s
  | handoverStuck b => exact execHandoverStuck_view hk b s
  | bankAccess r => exact execBankAccess_viewR hk (hc r rfl)
  | toggleAcknowledge g => exact execToggleAcknowledge_view hk g s
  | secLcreq fn v => exact execSecLcreq_view hk fn v s
  | secRselWrite fn v => exact execSecRselWrite_view hk fn v s
  | info r => exact execInfo_view hk r s
  | challenge r => exact execChallenge_view hk r s
  | respond r => exact execRespond_view hk r s
  | presence r => exact execPresence_view hk r s
  | close r => exact execClose_view hk r s
  | regRead r => exact execRegRead_view hk r s
  | regWrite r => exact execRegWrite_view hk r s
  | servicePointRead r => exact execServicePointRead_view hk r s
  | serviceRecRead r => exact execServiceRecRead_view hk r s
  | keyWrite r => exact execKeyWrite_view hk r s
  | lcConfirm r => exact execLcConfirm_view hk r s
  | lcAdvance r => exact execLcAdvance_view hk r s
  | raiseEvent code sev value => exact execRaiseEvent_view hk code sev value s
  | recordWrite slot => exact execRecordWrite_view hk slot s
  | freezeTimeout h => exact execFreezeTimeout_view hk h s
  | louCurWrite fn v => exact execLouCurWrite_view hk fn v s
  | louFrzWrite fn v => exact execLouFrzWrite_view hk fn v s
  | recordErase slot => exact execRecordErase_view hk slot s
  | frameCommit flips => exact execFrameCommit_view hk flips s
  | ledgerWriteDone delayUs => exact execLedgerWriteDone_view hk delayUs s
  | powerGood feed0 feed1 slot => exact execPowerGood_view hk feed0 feed1 slot s
  | feedLost n v => exact execFeedLost_view hk n v s
  | pwrReqFunctionReinit fn v => exact execPwrReqFunctionReinit_view hk fn v s
  | pwrReqWarmReset fn v => exact execPwrReqWarmReset_view hk fn v s
  | pwrReqShutdownOff fn v => exact execPwrReqShutdownOff_view hk fn v s
  | pwrReqShutdownRestart fn v => exact execPwrReqShutdownRestart_view hk fn v s
  | unitTestDone r => exact execUnitTestDone_view hk r s
  | bstStart fn v => exact execBstStart_view hk fn v s
  | rollingBistBankDone b r => exact execRollingBistBankDone_view hk b r s
  | pwrTselWrite fn v => exact execPwrTselWrite_view hk fn v s
  | hkWatchdog second => exact execHkWatchdog_view hk second s
  | i2cRead offset count => exact execI2cRead_view hk offset count s
  | rcFieldRead fn a form => exact execRcFieldRead_view hk fn a form s
  | registerWrite fn a v full => exact execRegisterWrite_view hk fn a v full s
  | bistBankReturn b => exact execBistBankReturn_view hk b s
  | cdcEpoch g words => exact execCdcEpoch_view hk g words s
  | usbResetOrVbusLoss vbusLost => exact execUsbResetOrVbusLoss_view hk vbusLost s
  | panelTemperatureRead t => exact execPanelTemperatureRead_view hk t s
  | feedInterruption v0 v1 => exact execFeedInterruption_view hk v0 v1 s
  | pllLockLoss d => exact execPllLockLoss_view hk d s
  | feedRestored n v0 v1 => exact execFeedRestored_view hk n v0 v1 s
  | domainSupplyLoss d => exact execDomainSupplyLoss_view hk d s
  | bankConverterRecovery b => exact execBankConverterRecovery_view hk b s
  | fieldSideRefreshRecovery digital b => exact execFieldSideRefreshRecovery_view hk digital b s
  | canReceiveError c lec inc => exact execCanReceiveError_view hk c lec inc s
  | unknownServiceOp op r => exact execUnknownServiceOp_view hk op r s
  | hostReadTimeout => exact execHostReadTimeout_view hk s
  | sessionCheckEnd => exact execSessionCheckEnd_view hk s
  | sessionLockEnd => exact execSessionLockEnd_view hk s
  | descriptorNop => exact execDescriptorNop_view hk s
  | destroy => exact execDestroy_view hk s
  | handleQuery => exact execHandleQuery_view hk s
  | zorosCheck => exact execZorosCheck_view hk s
  | zorosCheckDone => exact execZorosCheckDone_view hk s
  | zorosSwap => exact execZorosSwap_view hk s
  | swapPrepared => exact execSwapPrepared_view hk s
  | prepareTimeout => exact execPrepareTimeout_view hk s
  | freezeInstant => exact execFreezeInstant_view hk s
  | swapSwitch => exact execSwapSwitch_view hk s
  | taskCtrlStart => exact execTaskCtrlStart_view hk s
  | taskCtrlStop => exact execTaskCtrlStop_view hk s
  | taskCtrlSetMiniv => exact execTaskCtrlSetMiniv_view hk s
  | patchValue => exact execPatchValue_view hk s
  | forceSet => exact execForceSet_view hk s
  | forceRelease => exact execForceRelease_view hk s
  | loopCtrlEnable => exact execLoopCtrlEnable_view hk s
  | loopCtrlSoftStop => exact execLoopCtrlSoftStop_view hk s
  | loopCtrlSelectA => exact execLoopCtrlSelectA_view hk s
  | loopCtrlSelectB => exact execLoopCtrlSelectB_view hk s
  | loopCtrlManual => exact execLoopCtrlManual_view hk s
  | loopCtrlAuto => exact execLoopCtrlAuto_view hk s
  | canState => exact execCanState_view hk s
  | canCancel => exact execCanCancel_view hk s
  | streamPost => exact execStreamPost_view hk s
  | streamDrop => exact execStreamDrop_view hk s
  | recFreeze => exact execRecFreeze_view hk s
  | recFreezeRelease => exact execRecFreezeRelease_view hk s
  | recClear => exact execRecClear_view hk s
  | brkReqEngage => exact execBrkReqEngage_view hk s
  | brkReqRelease => exact execBrkReqRelease_view hk s
  | brkReqBrakeTest => exact execBrkReqBrakeTest_view hk s
  | mirRoleSyncing => exact execMirRoleSyncing_view hk s
  | mirRoleActive => exact execMirRoleActive_view hk s
  | mirRoleStandby => exact execMirRoleStandby_view hk s
  | retainSave => exact execRetainSave_view hk s
  | extDriveCheckStart => exact execExtDriveCheckStart_view hk s
  | activeInTakeoverEnd => exact execActiveInTakeoverEnd_view hk s
  | delayReqSend t3 => exact execDelayReqSend_view hk t3 s
  | holdover => exact execHoldover_view hk s
  | holdoverExpiry => exact execHoldoverExpiry_view hk s
  | followerUpdate => exact execFollowerUpdate_view hk s
  | bmpWatchdog => exact execBmpWatchdog_view hk s
  | passwordLockEnd => exact execPasswordLockEnd_view hk s
  | roleDecision => exact execRoleDecision_view hk s
  | heartbeatSend => exact execHeartbeatSend_view hk s
  | aliveRefresh => exact execAliveRefresh_view hk s
  | aliveLineDrop => exact execAliveLineDrop_view hk s
  | silentLoss => exact execSilentLoss_view hk s
  | commandRepeat => exact execCommandRepeat_view hk s
  | switchoverScansCommitted => exact execSwitchoverScansCommitted_view hk s
  | transmittersSettled => exact execTransmittersSettled_view hk s
  | liveTimeout => exact execLiveTimeout_view hk s
  | signatureTimeout => exact execSignatureTimeout_view hk s
  | syncTimeout => exact execSyncTimeout_view hk s
  | syncRestart => exact execSyncRestart_view hk s
  | lcConfirmTimeout => exact execLcConfirmTimeout_view hk s
  | serviceSessionIdleTimeout => exact execServiceSessionIdleTimeout_view hk s
  | servicePortLockEnd => exact execServicePortLockEnd_view hk s
  | presenceWindowEnd => exact execPresenceWindowEnd_view hk s
  | raiseApply => exact execRaiseApply_view hk s
  | fieldBStart => exact execFieldBStart_view hk s
  | compensationField => exact execCompensationField_view hk s
  | startupImageLoad => exact execStartupImageLoad_view hk s
  | powerFailWarning => exact execPowerFailWarning_view hk s
  | meWatchdog => exact execMeWatchdog_view hk s
  | crystalFailure => exact execCrystalFailure_view hk s
  | carrierReset => exact execCarrierReset_view hk s
  | powerCycle => exact execPowerCycle_view hk s
  | vioAuxOutOfRange => exact execVioAuxOutOfRange_view hk s
  | vioAuxRestored => exact execVioAuxRestored_view hk s
  | coreRegulatorFailure => exact execCoreRegulatorFailure_view hk s
  | dramUncorrectableError => exact execDramUncorrectableError_view hk s
  | fieldIoLogicFault => exact execFieldIoLogicFault_view hk s
  | carrierResetRelease => exact execCarrierResetRelease_view hk s
  | partnerAliveLineHigh => exact execPartnerAliveLineHigh_view hk s
  | vbusConnect => exact execVbusConnect_view hk s
  | unknownOpcode => exact execUnknownOpcode_view hk s
  | indicatorTestEnd => exact execIndicatorTestEnd_view hk s

/-- The identity of the module is in no command's frame, so that every command has a block that it keeps. -/
theorem ident_notMem_mayChange (c : Instr) : Blk.ident ∉ mayChange c := by
  unfold mayChange
  split <;> decide

/-- An outcome that keeps a block is a next state. -/
theorem exists_next_of_viewR {k : Blk} {r : Res} {v : View} (h : viewR k r = some v) : ∃ t, r = .next t ∧ view k t = v := by
  cases r with
  | next t => exact ⟨t, rfl, Option.some.inj h⟩
  | fault f => cases h
  | refused f => cases h

/-- Settles O5: the block of the identity gives the next state, and the frame law of the command keeps every other block in it. -/
theorem blockFrames : Obligations.BlockFrames := by
  intro c s hc
  obtain ⟨t, ht, -⟩ := exists_next_of_viewR (exec_view c s hc (ident_notMem_mayChange c))
  refine ⟨t, ht, fun k hk => (same_iff k s t).mpr ?_⟩
  have hv := exec_view c s hc hk
  rwa [ht, viewR_next, Option.some.injEq] at hv

end Sys2Proof.Architecture
end

section
/-! SUPPORT. One step, one microsecond, and the state after reset. -/

namespace Sys2Proof.Architecture

open Machine Laws

theorem step_cons (c : Instr) (rest : List Instr) (s : State) :
    step { s with pending := c :: rest } = exec c { s with pending := rest } := rfl

theorem step_nil {s : State} (h : s.pending = []) : step s = .next (tick s) := by
  unfold step
  rw [h]

/-- The microsecond takes no command from the queue and puts none there. -/
theorem tick_pending (s : State) : (tick s).pending = s.pending :=
  View.pending.inj (tick_view (k := .pending) (by decide) s)

theorem tickLoom_tbase (s : State) : (tickLoom s).tbase = if clkOn s 1 then s.tbase + 1 else s.tbase := by
  unfold tickLoom
  split <;> rfl

/-- Settles O1: the two branches of a step; the queue is a block that the microsecond keeps. -/
theorem stepRunsFront : Obligations.StepRunsFront :=
  ⟨step_cons, fun s hs => ⟨tick s, step_nil hs, rfl, (tick_pending s).trans hs, tickLoom_tbase s⟩⟩

theorem hedBank_reset (b : Fin 24) : hedBank State.reset b =
    { owner := resetOwner .hz9248 b.val, req := resetOwner .hz9248 b.val, ownerB := if 22 ≤ b.val then 0x0F else 0 } := by
  simp [hedBank, State.reset, resetBanks]

/-- The table of R22 on the HZ-9248, where every bank below 12 has an owner of its own. -/
theorem resetOwner_hz9248 (n : Nat) : resetOwner .hz9248 n = if n < 12 then n else if n < 14 then 0x0C else if n < 16 then 0x0D
    else if n < 20 then 0x0F else if n < 22 then 0x1F else if n = 22 then 0x0E else 0x0C := by
  simp [resetOwner]

theorem ring_reset (r : Fin 64) : vget State.reset.shu.rings r = {} := vget_replicate _ r

/-- Settles O2: the banks by the table of R22, the ring pairs as replicated, the other fields as `State.reset` writes them. -/
theorem resetValues : Obligations.ResetValues := by
  refine ⟨rfl, rfl, rfl, rfl, fun b => ?_, fun r => ?_, rfl, rfl, rfl⟩
  · rw [hedBank_reset b]
    exact ⟨resetOwner_hz9248 b.val, rfl, rfl, rfl⟩
  · rw [ring_reset r]

end Sys2Proof.Architecture
end

section
/-! SUPPORT. How a point update crosses to the hub and what the hub does with it; the commands that end what a descriptor waits for. -/

namespace Sys2Proof.Architecture

open Machine Laws

section PointUpdate

variable {i : Fin 16384} {v : Word} {s : State}

/-- Every operand of POINT_UPDATE is an index that a point may have; 0xFFFF names none. -/
theorem pointIndex_ne (i : Fin 16384) : i.val ≠ 0xFFFF := by omega

theorem exec_pointUpdate_discarded (k : Mark) (hp : crossPois s (delivererGroup s i.val) = true) :
    exec (.pointUpdate i v k) s = .next (crossDiscard s) := by
  simp only [exec, execPointUpdate, ok, hp, if_true]

theorem exec_pointUpdate_crosses (k : Mark) (hf : fabricOn s = true) (hp : crossPois s (delivererGroup s i.val) = false) :
    exec (.pointUpdate i v k) s = .next (pointWord (delivererGroup s i.val) k i.val v s) := by
  simp only [exec, execPointUpdate, ok, hp, hf, Bool.not_true, Bool.false_and, Bool.false_eq_true, if_false]

theorem pointWord_good (g : Nat) : pointWord g .good i.val v s = pointUpdate i.val v s := if_neg (pointIndex_ne i)

theorem pointWord_poisoned (g : Nat) :
    pointWord g .poisoned i.val v s = { s with hed := { s.hed with ptPoison := s.hed.ptPoison + 1 } } := if_neg (pointIndex_ne i)

theorem pointWord_parityBad (g : Nat) : pointWord g .parityBad i.val v s =
    { parityFail g s with hed := { (parityFail g s).hed with ptPoison := (parityFail g s).hed.ptPoison + 1 } } := if_neg (pointIndex_ne i)

/-- The hub that runs takes an update of a point of the directory: by its buffer and the gathers in progress it is held by its producer,
buffered, or applied (R24). -/
theorem exec_pointUpdate_good (hf : fabricOn s = true) (hp : crossPois s (delivererGroup s i.val) = false)
    (hk : (pointDef s i.val).kind ≠ 0) : exec (.pointUpdate i v .good) s = .next (
      if gathering s && 256 ≤ s.hub.buf.length then
        { s with hub := { s.hub with held := s.hub.held ++ [(i.val, fitPoint (pointDef s i.val) v)] } }
      else if gathering s then { s with hub := { s.hub with buf := s.hub.buf ++ [(i.val, fitPoint (pointDef s i.val) v)] } }
      else hubApply i.val (fitPoint (pointDef s i.val) v) s) := by
  rw [exec_pointUpdate_crosses .good hf hp, pointWord_good]
  simp [pointUpdate, pointIndex_ne, hk, hp, hf]

end PointUpdate

theorem exec_teardownEnd_done {x : Fin 8192} {e : HEntry} {s : State} (he : handleEnt s x.val = some e) (hd : e.st = .destroying)
    (ht : tornDown s e = true) :
    exec (.teardownEnd x) s = .next (waitRun (setHandle x.val { e with st := .free } (chanGone x.val e s))) := by
  simp [exec, execTeardownEnd, ok, he, hd, ht]

theorem exec_streamBufferTimeout_used {x : Fin 8192} {b : PostedBuf} {l : List PostedBuf} {s : State} (hk : hkOn s = true)
    (hb : (mapGetD {} s.shu.streams x.val).bufs = b :: l) (hu : 0 < b.used) :
    exec (.streamBufferTimeout x) s = .next (complete b.no stOk b.used (setStream x.val (fun y => { y with bufs := l }) s)) := by
  simp [exec, execStreamBufferTimeout, ok, hk, hb, hu]

theorem exec_mirrorAckTimeout_waiting {q : Word} {w : FwdDesc} {s : State} (hk : hkOn s = true)
    (hw : s.mir.fwdWait.find? (fun x => x.fwdseq = q.toNat) = some w) :
    exec (.mirrorAckTimeout q) s = .next (applyForwarded w false none s) := by
  simp [exec, execMirrorAckTimeout, ok, hk, hw]

/-- Settles O39: a word by its crossing, its mark and the hub's gathers; the three ends by their commands' equations. -/
theorem hubAndChannelCommands : Obligations.HubAndChannelCommands := by
  refine ⟨?applied, ?buffered, ?held, ?poisoned, ?parityBad, fun i v k s _ hp => exec_pointUpdate_discarded k hp,
    fun x e s => exec_teardownEnd_done, fun x b l s => exec_streamBufferTimeout_used, fun q w s => exec_mirrorAckTimeout_waiting⟩
  case applied =>
    intro i v s hf hg hp hk
    simp [exec_pointUpdate_good hf hp hk, hg]
  case buffered =>
    intro i v s hf hg hb hp hk
    simp [exec_pointUpdate_good hf hp hk, hg, hb]
  case held =>
    intro i v s hf hg hb hp hk
    simp [exec_pointUpdate_good hf hp hk, hg, hb]
  case poisoned =>
    intro i v s hf hp
    rw [exec_pointUpdate_crosses .poisoned hf hp, pointWord_poisoned]
  case parityBad =>
    intro i v s hf hp
    rw [exec_pointUpdate_crosses .parityBad hf hp, pointWord_parityBad]

end Sys2Proof.Architecture
end

section
/-! SUPPORT. The pages of the ring pairs: doorbells, arming and disabling by the ring's state, and the traffic with host memory. -/

namespace Sys2Proof.Architecture

open Machine Laws

section RingPages

variable {fn : Func} {r : Fin 64} {v : Word} {s : State}

theorem exec_submissionDoorbell_open (h : ringOpen fn r s) : exec (.submissionDoorbell fn r v) s = .next (ringTail r v s) :=
  congrArg Host.Outcome.next (ringAccess_open h 0x000 v)

theorem exec_completionDoorbell_open (h : ringOpen fn r s) : exec (.completionDoorbell fn r v) s = .next (ringConsume r v s) :=
  congrArg Host.Outcome.next (ringAccess_open h 0x004 v)

theorem exec_shuRpArm_open (h : ringOpen fn r s) : exec (.shuRpArm fn r v) s = .next (ringArm r v s) :=
  congrArg Host.Outcome.next (ringAccess_open h 0x024 v)

theorem exec_shuRpCtrlDisable_open (h : ringOpen fn r s) : exec (.shuRpCtrlDisable fn r) s = .next (disableRing r s) :=
  congrArg Host.Outcome.next (ringAccess_open h 0x02C 1)

theorem ringTail_within (hr : (vget s.shu.rings r).state = .running) (hv : v.toNat % 4096 < 2 ^ (vget s.shu.rings r).sqLog2) :
    ringTail r v s = setRing r (fun g => { g with sqTail := v.toNat % 4096 }) s := by
  simp [ringTail, hr, hv]

theorem ringTail_beyond (hr : (vget s.shu.rings r).state = .running) (hv : 2 ^ (vget s.shu.rings r).sqLog2 ≤ v.toNat % 4096) :
    ringTail r v s = stopRing r 2 s := by
  simp [ringTail, hr, hv]

theorem ringConsume_within (hr : (vget s.shu.rings r).state = .running) (hv : v.toNat % 4096 < 2 ^ (vget s.shu.rings r).cqLog2) :
    ringConsume r v s = setRing r (fun g => { g with cqHead := v.toNat % 4096, cqUsed :=
      g.cqUsed - (v.toNat % 4096 + 2 ^ (vget s.shu.rings r).cqLog2 - g.cqHead) % 2 ^ (vget s.shu.rings r).cqLog2 }) s := by
  simp [ringConsume, hr, hv]

theorem ringConsume_beyond (hr : (vget s.shu.rings r).state = .running) (hv : 2 ^ (vget s.shu.rings r).cqLog2 ≤ v.toNat % 4096) :
    ringConsume r v s = stopRing r 2 s := by
  simp [ringConsume, hr, hv]

/-- Ring pair `r` may be armed: the module is READY, the pair is DISABLED, HALTED, or STOPPED with nothing in flight (R44, R73). -/
def Armable (r : Fin 64) (s : State) : Prop :=
  s.shu.ready = true ∧ ((vget s.shu.rings r).state = .disabled ∨ (vget s.shu.rings r).state = .halted ∨
    ((vget s.shu.rings r).state = .stopped ∧ inflight s r = 0))

/-- The arm of a pair that may be armed is judged by its epoch first, then by its configuration (R40, R44). -/
theorem ringArm_armable (h : Armable r s) : ringArm r v s =
    if v.toNat ≠ epoch s then setRing r (fun g => { g with fault := true, cause := 5 }) s
    else if !ringSound (vget s.shu.rings r) then setRing r (fun g => { g with fault := true, cause := 1 }) s
    else setRing r (fun g => { g with
      state := .running, fault := false, sqTail := 0, sqHead := 0, cqHead := 0, cqTail := 0, cqUsed := 0, phase := true }) s := by
  obtain ⟨hready, hstate⟩ := h
  refine if_neg ?_
  rcases hstate with hd | hh | ⟨hs, hi⟩
  · simp [hready, hd]
  · simp [hready, hh]
  · simp [hready, hs, hi]

/-- Function 0 reaches no secure pair: its write raises event 0x0B03 (R39). -/
theorem ringAccess_f0_secure (hl : linkOn s = true) (hs : ringSecure s r = true) (off : Nat) :
    ringAccess .f0 r off v s = raise 0x0B03 4 r.val s := by
  simp [ringAccess, ringReach, ringFn, hl, hs]

end RingPages

/-- Settles O34: each write of a page that its function reaches is one operation of the ring, judged by its branches. -/
theorem ringPageCommands : Obligations.RingPageCommands := by
  refine ⟨?tail, ?tailBeyond, ?consume, ?consumeBeyond, ?arm, ?armEpoch, ?armUnsound, fun fn r s => exec_shuRpCtrlDisable_open,
    fun r v s hl hs => congrArg Host.Outcome.next (ringAccess_f0_secure hl hs 0x000)⟩
  case tail =>
    intro fn r v s ho hr hv
    rw [exec_submissionDoorbell_open ho, ringTail_within hr hv]
  case tailBeyond =>
    intro fn r v s ho hr hv
    rw [exec_submissionDoorbell_open ho, ringTail_beyond hr hv]
  case consume =>
    intro fn r v s ho hr hv
    rw [exec_completionDoorbell_open ho, ringConsume_within hr hv]
  case consumeBeyond =>
    intro fn r v s ho hr hv
    rw [exec_completionDoorbell_open ho, ringConsume_beyond hr hv]
  case arm =>
    intro fn r v s ho hready hstate he hc
    rw [exec_shuRpArm_open ho, ringArm_armable ⟨hready, hstate⟩, if_neg (not_not.mpr he), hc]
    rfl
  case armEpoch =>
    intro fn r v s ho hready hstate he
    rw [exec_shuRpArm_open ho, ringArm_armable ⟨hready, hstate⟩, if_pos he]
  case armUnsound =>
    intro fn r v s ho hready hstate he hc
    rw [exec_shuRpArm_open ho, ringArm_armable ⟨hready, hstate⟩, if_neg (not_not.mpr he), hc]
    rfl

/-- The fetch of the ring served next, while the link and HK0 run (R46, R52). -/
theorem exec_descriptorFetch_serves {l : List Fetched} {r : Fin 64} {s : State} (hl : linkOn s = true) (hk : hkOn s = true)
    (hr : ringNext s = some r) :
    let b := l.take (min 8 (ringAvail (vget s.shu.rings r)))
    let t := b.foldl (takeDesc r) s
    exec (.descriptorFetch l) s = .next (setRing r (fun g => { g with sqHead := (g.sqHead + b.length) % 2 ^ g.sqLog2 })
      { t with shu := { t.shu with lastRing := r } }) := by
  simp only [exec, execDescriptorFetch, ok, hl, hk, Bool.and_self, if_true, hr]

theorem exec_ringHostMemoryError_running {r : Fin 64} {w : Bool} {s : State} (hl : linkOn s = true)
    (hr : (vget s.shu.rings r).state = .running) :
    exec (.ringHostMemoryError r w) s = .next (stopRing r (if w then 4 else 3) s) := by
  simp [exec, execRingHostMemoryError, ok, hl, hr]

theorem exec_irqModerationExpiry_held {r : Fin 64} {s : State} (hl : linkOn s = true) (hm : (vget s.shu.rings r).modRun = true)
    (hp : (vget s.shu.rings r).modPend = true) :
    exec (.irqModerationExpiry r) s = .next (msix (ringFn s r) r.val (setRing r (fun g => { g with modPend := false }) s)) := by
  simp [exec, execIrqModerationExpiry, ok, hl, hm, hp]

theorem exec_irqModerationExpiry_none {r : Fin 64} {s : State} (hl : linkOn s = true) (hm : (vget s.shu.rings r).modRun = true)
    (hp : (vget s.shu.rings r).modPend = false) :
    exec (.irqModerationExpiry r) s = .next (setRing r (fun g => { g with modRun := false }) s) := by
  simp [exec, execIrqModerationExpiry, ok, hl, hm, hp]

/-- Settles O35: one equation for each of the commands; the completion by `completionWrite_spec`. -/
theorem ringTrafficCommands : Obligations.RingTrafficCommands :=
  ⟨fun _ _ _ => exec_descriptorFetch_serves, fun _ _ _ => exec_ringHostMemoryError_running,
    completionWrite_spec, fun _ _ => exec_irqModerationExpiry_held, fun _ _ => exec_irqModerationExpiry_none⟩

/-- Settles O36: the fold that disables the function's ring pairs, then the session that function 1 closes. -/
theorem functionLevelReset : Obligations.FunctionLevelReset := flr_spec

end Sys2Proof.Architecture
end

section
/-! SUPPORT. The secure session's commands. -/

namespace Sys2Proof.Architecture

open Machine Laws

section SecureSession

variable {fn : Func} {s : State}

theorem exec_sessionResponse_reaches {v : Word} (h : reaches fn 0x85C s) : exec (.sessionResponse fn v) s = .next (sessResp 7 v s) := by
  rw [exec, execSessionResponse, barWrite_reaches h]
  simp [ok, regPut, blockNo, putShu]

/-- The last response word of a challenge that is not being checked starts the check (R36). -/
theorem sessResp_last {v : Word} (hc : s.shu.sess.state = .challenged) (hk : s.shu.sess.checking = false) :
    sessResp 7 v s = setSess (fun x => { x with resp := setWord256 x.resp 7 v, checking := true }) s := by
  simp [sessResp, hc, hk]

theorem exec_sessionClose_reaches (h : reaches fn 0x820 s) : exec (.sessionClose fn) s = .next (sessClose s) := by
  rw [exec, execSessionClose, barWrite_reaches h]
  rfl

theorem sessClose_challenged (hc : s.shu.sess.state = .challenged) (hk : s.shu.sess.checking = false) :
    sessClose s = setSess (fun x => { x with state := .idle }) s := by
  simp [sessClose, hc, hk]

theorem sessClose_open (h : s.shu.sess.state = .open) : sessClose s = sessEnd s := by
  simp [sessClose, h]

/-- The response of the attempt in hand is the right one (R36). -/
abbrev ResponseRight (s : State) : Prop := bvBytes 32 s.shu.sess.resp = sessAnswer s s.shu.sess.nonce s.shu.sess.count []

/-- What a wrong response leaves: IDLE, LAST_FAIL, one failure more and event 0x0B01 (R37). -/
abbrev responseWrong (s : State) : State :=
  raise 0x0B01 4 0 (setSess (fun x =>
    { x with checking := false, count := (x.count + 1) % 65536, state := .idle, lastFail := true, fails := x.fails + 1 }) s)

theorem responseWrong_fails (s : State) : (responseWrong s).shu.sess.fails = s.shu.sess.fails + 1 := by
  have h : (responseWrong s).shu = (setSess (fun x =>
      { x with checking := false, count := (x.count + 1) % 65536, state := .idle, lastFail := true, fails := x.fails + 1 }) s).shu :=
    View.shu.inj (raise_view (k := .shu) (by decide) _ _ _ _)
  rw [h]
  rfl

theorem exec_sessionCheckEnd_right (hk : hkOn s = true) (hc : s.shu.sess.checking = true) (hr : ResponseRight s) :
    exec .sessionCheckEnd s = .next (setSess (fun x =>
      { x with checking := false, count := (x.count + 1) % 65536, state := .open, fails := 0 }) s) := by
  simp [exec, execSessionCheckEnd, ok, hk, hc, hr, setSess]

/-- A wrong response locks the session when it is the third in a row (R37). -/
theorem exec_sessionCheckEnd_wrong (hk : hkOn s = true) (hc : s.shu.sess.checking = true) (hr : ¬ ResponseRight s) :
    exec .sessionCheckEnd s = .next (
      if 3 ≤ (responseWrong s).shu.sess.fails then
        raise 0x0B02 5 0 (setSess (fun x => { x with state := .locked, lockUs := sessLockUs }) (responseWrong s))
      else responseWrong s) := by
  simp only [exec, execSessionCheckEnd, ok, hk, hc, Bool.and_self, if_true, if_neg hr]
  rfl

theorem exec_sessionLockEnd_locked (h : s.shu.sess.state = .locked) :
    exec .sessionLockEnd s = .next (setSess (fun x => { x with state := .idle, fails := 0, lockUs := 0 }) s) := by
  simp [exec, execSessionLockEnd, ok, sessUnlock, h]

/-- A descriptor whose data do not arrive, and that nothing refuses without them, completes with TIMEOUT (R59). -/
theorem exec_hostReadTimeout_missing {f : Flight} (hn : nextDesc s = some f) (hd : 0 < dataLen f.desc) (hr : hk0Runs s = true)
    (hf : refusal s (ringSecure s f.ring) f.desc none = none) :
    exec .hostReadTimeout s = .next (aerNote (ringFn s f.ring) 14 (answer f.no { status := 0x08, result := none } s)) := by
  simp only [exec, execHostReadTimeout, ok, hn, hd, hr, decide_true, Bool.and_self, if_true, dataMissing, hf,
    stTimeout]

end SecureSession

/-- Settles O37: the session register's writes by what they do to the session, the end of the check by whether the response is right and by
the failures before it. -/
theorem sessionCommands : Obligations.SessionCommands := by
  refine ⟨sessionOpen_spec, ?response, fun s => exec_sessionCheckEnd_right, ?wrong, ?third, ?abandon, ?close,
    fun s => exec_sessionLockEnd_locked, fun f s => exec_hostReadTimeout_missing⟩
  case response =>
    intro fn v s h hc hk
    rw [exec_sessionResponse_reaches h, sessResp_last hc hk]
  case wrong =>
    intro s hk hc hr hf
    rw [exec_sessionCheckEnd_wrong hk hc hr, if_neg (by rw [responseWrong_fails]; omega)]
  case third =>
    intro s hk hc hr hf
    rw [exec_sessionCheckEnd_wrong hk hc hr, if_pos (by rw [responseWrong_fails]; omega)]
  case abandon =>
    intro fn s h hc hk
    rw [exec_sessionClose_reaches h, sessClose_challenged hc hk]
  case close =>
    intro fn s h ho
    exact ⟨by rw [exec_sessionClose_reaches h, sessClose_open ho], sessEnd_idle s ho⟩

end Sys2Proof.Architecture
end

section
/-! SUPPORT. Reads and writes of registers and of ring pair pages through the two functions. -/

namespace Sys2Proof.Architecture

open Machine Laws

section RegisterPages

variable {fn : Func} {s : State}

theorem exec_registerWrite_partial (a : RegAddr) (v : Word) : exec (.registerWrite fn a v false) s = .next s := by
  cases a <;> rfl

theorem exec_registerWrite_bar0 (o : BitVec 16) (v : Word) :
    exec (.registerWrite fn (.bar0 o) v true) s = .next (barWrite fn (o.toNat / 4 * 4) v s) := rfl

theorem exec_registerWrite_ring {r : Fin 64} (o : BitVec 12) (v : Word) (h : ringOpen fn r s) :
    exec (.registerWrite fn (.ring r o) v true) s = .next (ringWrite r (o.toNat / 4 * 4) v s) :=
  congrArg Host.Outcome.next (ringAccess_open h _ v)

/-- Function 0 is never shut: it needs no session (R35). -/
theorem fnShut_f0 (off : Nat) (s : State) : fnShut .f0 off s = false := rfl

/-- A non-secure write of a register of a secure block ends at the gate, with event 0x0B04 (R464). -/
theorem barWrite_denied {off : Nat} (hl : linkOn s = true) (hg : regGate s false off = .denied) (v : Word) :
    barWrite .f0 off v s = raise 0x0B04 4 off s := by
  simp [barWrite, hl, fnShut_f0, regWrite, hg]

/-- Function 1 without an open session writes nothing but session registers (R35). -/
theorem barWrite_shut {off : Nat} (h : fnShut fn off s = true) (v : Word) : barWrite fn off v s = s := by
  simp [barWrite, h]

/-- A read that passes session and gate gives the value, then clears what a read clears (R466). -/
theorem barRead_reaches {off : Nat} (hs : fnShut fn off s = false) (hg : regGate s (fn = .f1) off = .reach) :
    barRead fn off s = emit (.regData fn off (regValue (measured off s) (fn = .f1) off)) (regClear off (measured off s)) := by
  simp [barRead, hs, regRead, hg]

theorem exec_rcFieldRead_one {o : BitVec 16} (hl : linkOn s = true) :
    exec (.rcFieldRead fn (.bar0 o) .one) s = .next (barRead fn (o.toNat / 4 * 4) s) := by
  simp [exec, execRcFieldRead, ok, hl]

theorem exec_rcFieldRead_ring {r : Fin 64} (o : BitVec 12) (f : ReadForm) (h : ringOpen fn r s) :
    exec (.rcFieldRead fn (.ring r o) f) s =
      .next (emit (.regData fn (0x10000 + r.val * 0x1000 + o.toNat / 4 * 4) (ringRead s r (o.toNat / 4 * 4))) s) := by
  simp [exec, execRcFieldRead, ok, h.1, ringReach_open h]

end RegisterPages

/-- Settles O10: an access of BAR0 by link, session and gate, one of a ring pair page by the function that reaches it. -/
theorem registerAccess : Obligations.RegisterAccess := by
  refine ⟨?reaches, fun fn a v s => exec_registerWrite_partial a v, ?denied, ?shut, fun fn r o v s => exec_registerWrite_ring o v,
    ?read, fun fn r o f s => exec_rcFieldRead_ring o f⟩
  case reaches =>
    intro fn o v s h
    rw [exec_registerWrite_bar0, barWrite_reaches h]
  case denied =>
    intro o v s hl hg
    rw [exec_registerWrite_bar0, barWrite_denied hl hg]
    push_cast
    rfl
  case shut =>
    intro o v s hs ho
    rw [exec_registerWrite_bar0, barWrite_shut (by simp [fnShut, hs, ho])]
  case read =>
    intro fn o s hl hs hg
    rw [exec_rcFieldRead_one hl, barRead_reaches hs hg]

end Sys2Proof.Architecture
end

section
/-! SUPPORT. Descriptors that R57 refuses, and descriptors whose data do not arrive sound. -/

namespace Sys2Proof.Architecture

open Machine Laws

section NextDescriptor

variable {p : Desc → Bool} {h : HostData} {f : Flight} {s : State}

/-- A descriptor with sound words and sound data starts with them. -/
theorem runRow_startDesc (hn : nextDesc s = some f) (hp : p f.desc = true) (hr : hk0Runs s = true) (hf : f.poison = false)
    (hd : 0 < dataLen f.desc → h.mark = .good) :
    runRow p h s = .next (startDesc f (hostBytes f.desc h) .whole h.onward s) := by
  by_cases hz : 0 < dataLen f.desc
  · simp [runRow, runXfer, ok, hn, hp, hr, hf, hd hz]
  · simp [runRow, runXfer, ok, hn, hp, hr, hf, hz]

theorem runRow_poisonedWords (hn : nextDesc s = some f) (hp : p f.desc = true) (hr : hk0Runs s = true) (hf : f.poison = true) :
    runRow p h s = .next (dataMissing f stPoison s) := by
  simp [runRow, runXfer, ok, hn, hp, hr, hf]

theorem runRow_poisonedData (hn : nextDesc s = some f) (hp : p f.desc = true) (hr : hk0Runs s = true) (hf : f.poison = false)
    (hm : h.mark = .poisoned) (hd : 0 < dataLen f.desc) :
    runRow p h s = .next (aerNote (ringFn s f.ring) 12 (dataMissing f stPoison s)) := by
  simp [runRow, runXfer, ok, hn, hp, hr, hf, hm, hd]

theorem runRow_parityBadData (hn : nextDesc s = some f) (hp : p f.desc = true) (hr : hk0Runs s = true) (hf : f.poison = false)
    (hm : h.mark = .parityBad) (hd : 0 < dataLen f.desc) :
    runRow p h s = .next (dataMissing f stPoison (parityFail 12 s)) := by
  simp [runRow, runXfer, ok, hn, hp, hr, hf, hm, hd]

/-- Without its data a descriptor that nothing refuses completes with the status that says why there are none. -/
theorem dataMissing_unrefused {st : Nat} (hf : refusal s (ringSecure s f.ring) f.desc none = none) :
    dataMissing f st s = answer f.no { status := st, result := none } s := by
  simp only [dataMissing, hf]

theorem startDesc_refused {b : List Byte} {x : Xfer} {m : Mark} {a : Ans} (hf : refusal s (ringSecure s f.ring) f.desc (some b) = some a) :
    startDesc f b x m s = answer f.no a (bobRefuse 10 b (deniedEffect s (ringSecure s f.ring) f.desc (some b))) := by
  simp only [startDesc, hf]

theorem startDesc_regionRefused {b : List Byte} {x : Xfer} {m : Mark} {r : Nat × Nat}
    (hf : refusal s (ringSecure s f.ring) f.desc (some b) = none) (hd : dataRefused s (ringSecure s f.ring) f.desc = some r) :
    startDesc f b x m s = answer f.no { status := stPoison, result := none } (bobRefuse 10 b
      (regionViol r.1 (if dataWrites f.desc.op && f.desc.op ≠ 0x08 then 0x0C else 0x0F) r.2 (dataWrites f.desc.op) s)) := by
  simp only [startDesc, hf, hd]

/-- An opcode that no table gives is denied first of all, with reason 1 (R58). -/
theorem refusal_unknownOpcode {w : Bool} {d : Desc} {b : Option (List Byte)} (h : opSpec d.op = none) :
    refusal s w d b = some { status := stDenied, result := some 1 } := by
  simp [refusal, denyReason, h]

/-- A denial has an effect for ZOROS_SWAP, BRK_CFG and MIR_ROLE alone. -/
theorem deniedEffect_other {w : Bool} {d : Desc} {b : Option (List Byte)} (h1 : d.op ≠ 0x0A) (h2 : d.op ≠ 0x41) (h3 : d.op ≠ 0x50) :
    deniedEffect s w d b = s := by
  simp [deniedEffect, h1, h2, h3]

theorem deniedEffect_unknownOpcode {w : Bool} {d : Desc} {b : Option (List Byte)} (h : opSpec d.op = none) : deniedEffect s w d b = s := by
  refine deniedEffect_other ?_ ?_ ?_ <;>
  · intro hop
    simp [hop, opSpec] at h

/-- A parity failure moves no ring pair to the other world. -/
theorem ringSecure_parityFail (g : Nat) (r : Fin 64) (s : State) : ringSecure (parityFail g s) r = ringSecure s r := by
  have hs : (parityFail g s).shu = s.shu := View.shu.inj (parityFail_view (k := .shu) (by decide) g s)
  rw [ringSecure, hs, ringSecure]

end NextDescriptor

/-- Settles O9: HK0 starts the descriptor with its data, or says that they are missing; the order of R57 then gives its answer. -/
theorem refusedDescriptor : Obligations.RefusedDescriptor := by
  refine ⟨?refused, ?region, fun d w b s => deniedEffect_other, ?unknown, ?poisoned, ?parityBad, ?poisonedWords⟩
  case refused =>
    intro p h f a s hn hp hr hf hd ha
    rw [runRow_startDesc hn hp hr hf hd, startDesc_refused ha]
  case region =>
    intro p h f r s hn hp hr hf hd ha hg
    rw [runRow_startDesc hn hp hr hf hd, startDesc_regionRefused ha hg]
  case unknown =>
    intro f s hn hr ho hf
    rw [exec, execUnknownOpcode, runBare, runRow_startDesc hn (Option.isNone_iff_eq_none.mpr ho) hr hf (fun _ => rfl),
      startDesc_refused (refusal_unknownOpcode ho), deniedEffect_unknownOpcode ho]
  case poisoned =>
    intro p h f s hn hp hr hf hm hd ha
    rw [runRow_poisonedData hn hp hr hf hm hd, dataMissing_unrefused ha]
  case parityBad =>
    intro p h f s hn hp hr hf hm hd ha
    rw [runRow_parityBadData hn hp hr hf hm hd, dataMissing_unrefused (by rwa [ringSecure_parityFail])]
  case poisonedWords =>
    intro p h f s hn hp hr hf ha
    rw [runRow_poisonedWords hn hp hr hf, dataMissing_unrefused ha]

end Sys2Proof.Architecture
end

section
/-! SUPPORT. How a descriptor that nothing refuses is applied: the effect of each opcode, and the answer that its effect gives. -/

namespace Sys2Proof.Architecture

open Machine Laws

section Rows

variable {h : HostData} {s : State}

theorem exec_descriptorNop_row : exec .descriptorNop s = runBare (fun d => d.op = 0x00) s := rfl
theorem exec_create_row : exec (.create h) s = runRow (fun d => d.op = 0x01) h s := rfl
theorem exec_destroy_row : exec .destroy s = runBare (fun d => d.op = 0x02) s := rfl
theorem exec_handleQuery_row : exec .handleQuery s = runBare (fun d => d.op = 0x03) s := rfl
theorem exec_zorosStage_row : exec (.zorosStage h) s = runRow (fun d => d.op = 0x08) h s := rfl
theorem exec_zorosCheck_row : exec .zorosCheck s = runBare (fun d => d.op = 0x09) s := rfl
theorem exec_zorosSwap_row : exec .zorosSwap s = runBare (fun d => d.op = 0x0A) s := rfl
theorem exec_taskCtrlStart_row : exec .taskCtrlStart s = runBare (fun d => d.op = 0x10 && d.arg0 ≠ 1 && d.arg0 ≠ 2) s := rfl
theorem exec_taskCtrlStop_row : exec .taskCtrlStop s = runBare (fun d => d.op = 0x10 && d.arg0 = 1) s := rfl
theorem exec_taskCtrlSetMiniv_row : exec .taskCtrlSetMiniv s = runBare (fun d => d.op = 0x10 && d.arg0 = 2) s := rfl
theorem exec_patchValue_row : exec .patchValue s = runBare (fun d => d.op = 0x11) s := rfl
theorem exec_pointRead_row : exec .pointRead s = runXfer (fun d => d.op = 0x12) { bytes := [], mark := .good } (moverData s) s := rfl
theorem exec_forceSet_row : exec .forceSet s = runBare (fun d => d.op = 0x13 && bitOf d.arg0 0) s := rfl
theorem exec_forceRelease_row : exec .forceRelease s = runBare (fun d => d.op = 0x13 && !(bitOf d.arg0 0)) s := rfl
theorem exec_streamPost_row : exec .streamPost s = runBare (fun d => d.op = 0x30) s := rfl
theorem exec_streamDrop_row : exec .streamDrop s = runBare (fun d => d.op = 0x31) s := rfl
theorem exec_recRead_row : exec .recRead s = runXfer (fun d => d.op = 0x38) { bytes := [], mark := .good } (moverData s) s := rfl
theorem exec_recFreeze_row : exec .recFreeze s = runBare (fun d => d.op = 0x39 && d.arg0 ≠ 0) s := rfl
theorem exec_recFreezeRelease_row : exec .recFreezeRelease s = runBare (fun d => d.op = 0x39 && d.arg0 = 0) s := rfl
theorem exec_recClear_row : exec .recClear s = runBare (fun d => d.op = 0x3A) s := rfl
theorem exec_brkReqEngage_row : exec .brkReqEngage s = runBare (fun d => d.op = 0x40 && d.arg0 / 16 ≠ 2 && d.arg0 / 16 ≠ 3) s := rfl
theorem exec_brkReqRelease_row : exec .brkReqRelease s = runBare (fun d => d.op = 0x40 && d.arg0 / 16 = 2) s := rfl
theorem exec_brkReqBrakeTest_row : exec .brkReqBrakeTest s = runBare (fun d => d.op = 0x40 && d.arg0 / 16 = 3) s := rfl
theorem exec_brkCfg_row : exec (.brkCfg h) s = runRow (fun d => d.op = 0x41) h s := rfl
theorem exec_panelFrame_row : exec (.panelFrame h) s = runRow (fun d => d.op = 0x48) h s := rfl
theorem exec_mirRoleSyncing_row : exec .mirRoleSyncing s = runBare (fun d => d.op = 0x50 && d.arg0 ≠ 2 && d.arg0 ≠ 3) s := rfl
theorem exec_mirRoleActive_row : exec .mirRoleActive s = runBare (fun d => d.op = 0x50 && d.arg0 = 2) s := rfl
theorem exec_mirRoleStandby_row : exec .mirRoleStandby s = runBare (fun d => d.op = 0x50 && d.arg0 = 3) s := rfl

end Rows

section Effects

variable {c : Call} {s : State}

theorem apply_nop (h : c.d.op = 0x00) : apply c s = good 0 s := by simp only [apply, h]
theorem apply_create (h : c.d.op = 0x01) : apply c s = apCreate c s := by simp only [apply, h]
theorem apply_destroy (h : c.d.op = 0x02) : apply c s = onHandle c apDestroy s := by simp only [apply, h]
theorem apply_handleQuery (h : c.d.op = 0x03) : apply c s = good (handleQuery s c.d.arg0) s := by simp only [apply, h]
theorem apply_zorosStage (h : c.d.op = 0x08) : apply c s = apStage c s := by simp only [apply, h]
theorem apply_zorosCheck (h : c.d.op = 0x09) : apply c s = apCheck c s := by simp only [apply, h]
theorem apply_zorosSwap (h : c.d.op = 0x0A) : apply c s = apSwap c s := by simp only [apply, h]
theorem apply_taskCtrl (h : c.d.op = 0x10) : apply c s = onHandle c apTask s := by simp only [apply, h]
theorem apply_patchValue (h : c.d.op = 0x11) : apply c s = onHandle c apPatch s := by simp only [apply, h]
theorem apply_pointRead (h : c.d.op = 0x12) : apply c s = apPointRead c s := by simp only [apply, h]
theorem apply_forceSet (h : c.d.op = 0x13) : apply c s = onHandle c apForce s := by simp only [apply, h]
theorem apply_streamPost (h : c.d.op = 0x30) : apply c s = onHandle c apStreamPost s := by simp only [apply, h]
theorem apply_streamDrop (h : c.d.op = 0x31) : apply c s = onHandle c apStreamDrop s := by simp only [apply, h]
theorem apply_recRead (h : c.d.op = 0x38) : apply c s = onHandle c apRecRead s := by simp only [apply, h]
theorem apply_recFreeze (h : c.d.op = 0x39) : apply c s = onHandle c apRecFreeze s := by simp only [apply, h]
theorem apply_recClear (h : c.d.op = 0x3A) : apply c s = apRecClear c s := by simp only [apply, h]
theorem apply_brkReq (h : c.d.op = 0x40) : apply c s = apBrkReq c s := by simp only [apply, h]
theorem apply_brkCfg (h : c.d.op = 0x41) : apply c s = apBrkCfg c s := by simp only [apply, h]
theorem apply_panelFrame (h : c.d.op = 0x48) : apply c s = apPanel c s := by simp only [apply, h]
theorem apply_mirRole (h : c.d.op = 0x50) : apply c s = apMirRole c s := by simp only [apply, h]

/-- An effect with an answer completes the descriptor with it. -/
theorem applyNow_answered {t : State} {a : Ans} (h : apply c s = (t, some a)) : applyNow c s = answer c.no a t := by
  simp only [applyNow, h]

/-- An effect without an answer leaves the descriptor waiting. -/
theorem applyNow_waiting {t : State} (h : apply c s = (t, none)) : applyNow c s = t := by
  simp only [applyNow, h]

end Effects

section Starting

variable {i : Instr} {p : Desc → Bool} {h : HostData} {f : Flight} {s t : State} {a : Ans}

/-- The descriptor is not sent to a partner first: its opcode is not mirrored, or no partner takes part (R71). -/
abbrev StaysHere (f : Flight) (s : State) : Prop := ((opSpec f.desc.op).any (fun q => q.pair = .mirrored) && mirrors s) = false

theorem staysHere_of_unmirrored (h : mirrors s = false) : StaysHere f s := by simp [StaysHere, h]

theorem staysHere_of_pair {q : OpSpec} (ho : opSpec f.desc.op = some q) (hq : q.pair ≠ .mirrored) : StaysHere f s := by
  simp [StaysHere, ho, hq]

/-- What reads neither the bobbins nor the descriptors in the module is the same before and after a descriptor's data are taken. -/
theorem taken_keeps {α : Type} (g : State → α) {b : List Byte} (hg : ∀ k : Hed, g { started f.no s with hed := k } = g s) :
    g (taken f b s) = g s := by
  obtain ⟨k, e⟩ := taken_hed f b s
  rw [e, hg]

theorem createRepeats_taken (b : List Byte) (idx kind target : Nat) (l : List Byte) :
    createRepeats (taken f b s) idx kind target l = createRepeats s idx kind target l :=
  taken_keeps (createRepeats · idx kind target l) fun _ => rfl

theorem createBlocked_taken (b : List Byte) (idx kind target : Nat) :
    createBlocked (taken f b s) idx kind target = createBlocked s idx kind target :=
  taken_keeps (createBlocked · idx kind target) fun _ => rfl

theorem heldHandles_taken (b : List Byte) (kind : Nat) : heldHandles (taken f b s) kind = heldHandles s kind :=
  taken_keeps (heldHandles · kind) fun _ => rfl

theorem createGen_taken (b : List Byte) (idx : Nat) : createGen (taken f b s) idx = createGen s idx :=
  taken_keeps (createGen · idx) fun _ => rfl

theorem handleEnt_taken (b : List Byte) (idx : Nat) : handleEnt (taken f b s) idx = handleEnt s idx :=
  taken_keeps (handleEnt · idx) fun _ => rfl

theorem exec_row_answers (hi : exec i s = runRow p h s) (hs : starts f (hostBytes f.desc h) s) (hp : p f.desc = true)
    (hm : h.mark = .good) (ho : h.onward = .good) (hf : StaysHere f s)
    (ha : apply (callOf f (hostBytes f.desc h) s) (taken f (hostBytes f.desc h) s) = (t, some a)) :
    exec i s = .next (answer f.no a t) := by
  rw [hi, runRow_starts hs rfl hp hm ho hf, applyNow_answered ha]

theorem exec_row_waits (hi : exec i s = runRow p h s) (hs : starts f (hostBytes f.desc h) s) (hp : p f.desc = true)
    (hm : h.mark = .good) (ho : h.onward = .good) (hf : StaysHere f s)
    (ha : apply (callOf f (hostBytes f.desc h) s) (taken f (hostBytes f.desc h) s) = (t, none)) : exec i s = .next t := by
  rw [hi, runRow_starts hs rfl hp hm ho hf, applyNow_waiting ha]

theorem exec_bare_answers (hi : exec i s = runBare p s) (hs : starts f [] s) (hp : p f.desc = true) (hd : dataLen f.desc = 0)
    (hf : StaysHere f s) (ha : apply (callOf f [] s) (started f.no s) = (t, some a)) : exec i s = .next (answer f.no a t) := by
  rw [hi, runBare_starts hs hp hd hf, applyNow_answered ha]

theorem exec_bare_waits (hi : exec i s = runBare p s) (hs : starts f [] s) (hp : p f.desc = true) (hd : dataLen f.desc = 0)
    (hf : StaysHere f s) (ha : apply (callOf f [] s) (started f.no s) = (t, none)) : exec i s = .next t := by
  rw [hi, runBare_starts hs hp hd hf, applyNow_waiting ha]

theorem exec_transfer_answers {x : Xfer} (hi : exec i s = runXfer p { bytes := [], mark := .good } (moverData s) s) (hx : moverData s = x)
    (hs : starts f [] s) (hp : p f.desc = true) (hd : dataLen f.desc = 0) (hf : StaysHere f s)
    (ha : apply { callOf f [] s with xfer := x } (started f.no s) = (t, some a)) : exec i s = .next (answer f.no a t) := by
  rw [hi, hx, runXfer_starts hs (by simp [hostBytes, hd]) hp rfl hf, taken_nil, applyNow_answered ha]

end Starting

section Create

variable {c : Call} {s : State}

theorem apCreate_repeats (h : createRepeats s (c.d.arg0 % 8192) (c.d.arg1 % 256) (c.d.arg1 / 256) c.data = true) :
    apCreate c s = (s, some { result := some (c.d.arg1 / 256), cflags := 2
                              handle := (handleEnt s (c.d.arg0 % 8192)).map (handleNo (c.d.arg0 % 8192)) }) := by
  simp [apCreate, h]

theorem apCreate_busy {k : Nat} (h : createRepeats s (c.d.arg0 % 8192) (c.d.arg1 % 256) (c.d.arg1 / 256) c.data = false)
    (hb : createBlocked s (c.d.arg0 % 8192) (c.d.arg1 % 256) (c.d.arg1 / 256) = some k) :
    apCreate c s = (s, some { status := stBusy, result := some k }) := by
  simp [apCreate, h, hb]

theorem apCreate_full (h : createRepeats s (c.d.arg0 % 8192) (c.d.arg1 % 256) (c.d.arg1 / 256) c.data = false)
    (hb : createBlocked s (c.d.arg0 % 8192) (c.d.arg1 % 256) (c.d.arg1 / 256) = none)
    (hl : kindLimit (c.d.arg1 % 256) ≤ (heldHandles s (c.d.arg1 % 256)).length) : apCreate c s = bad stFull s := by
  simp [apCreate, h, hb, hl]

theorem apCreate_makes (h : createRepeats s (c.d.arg0 % 8192) (c.d.arg1 % 256) (c.d.arg1 / 256) c.data = false)
    (hb : createBlocked s (c.d.arg0 % 8192) (c.d.arg1 % 256) (c.d.arg1 / 256) = none)
    (hl : (heldHandles s (c.d.arg1 % 256)).length < kindLimit (c.d.arg1 % 256)) :
    apCreate c s = (chanMake (c.d.arg0 % 8192) (createGen s (c.d.arg0 % 8192))
        { kind := c.d.arg1 % 256, target := c.d.arg1 / 256, block := storedBlock (c.d.arg1 % 256) c.data, secure := c.secure } s,
      some { result := some (c.d.arg1 / 256), handle := some (createGen s (c.d.arg0 % 8192) * 8192 + c.d.arg0 % 8192) }) := by
  simp [apCreate, h, hb, hl]

end Create

/-- Settles O30: a mirrored opcode of an active module is sent; otherwise the opcode's effect gives the answer, CREATE's by what the table
holds at its index. -/
theorem descriptorHostCommands : Obligations.DescriptorHostCommands := by
  refine ⟨?forwards, ?nop, ?query, ?stage, ?check, ?destroy, ?makes, ?repeats, ?full, ?busy⟩
  case forwards =>
    intro p h f s hs hp hm ho hf
    exact runRow_forwards hs rfl hp hm ho hf
  case nop =>
    intro f s hs hop
    exact exec_bare_answers exec_descriptorNop_row hs (by simp [hop]) (by simp [dataLen, hop])
      (staysHere_of_pair (congrArg opSpec hop) (by decide)) (apply_nop hop)
  case query =>
    intro f s hs hop
    exact exec_bare_answers exec_handleQuery_row hs (by simp [hop]) (by simp [dataLen, hop]) (staysHere_of_pair (congrArg opSpec hop) (by decide))
      (apply_handleQuery hop)
  case stage =>
    intro f h s hs hop hm ho
    exact exec_row_answers exec_zorosStage_row hs (by simp [hop]) hm ho (staysHere_of_pair (congrArg opSpec hop) (by decide)) (apply_zorosStage hop)
  case check =>
    intro f s hs hop
    exact exec_bare_waits exec_zorosCheck_row hs (by simp [hop]) (by simp [dataLen, hop]) (staysHere_of_pair (congrArg opSpec hop) (by decide))
      (apply_zorosCheck hop)
  case destroy =>
    intro f s hs hop hl hm
    exact exec_bare_answers exec_destroy_row hs (by simp [hop]) (by simp [dataLen, hop]) (staysHere_of_unmirrored hm)
      ((apply_destroy hop).trans (onHandle_bare hl apDestroy))
  case makes =>
    intro f h s hs hop hm hx hr hb hl ho
    rw [← createGen_taken (f := f) (hostBytes f.desc h)]
    exact exec_row_answers exec_create_row hs (by simp [hop]) hm ho (staysHere_of_unmirrored hx) ((apply_create hop).trans
      (apCreate_makes ((createRepeats_taken _ _ _ _ _).trans hr) ((createBlocked_taken _ _ _ _).trans hb) (by rwa [heldHandles_taken])))
  case repeats =>
    intro f h s hs hop hm hx hr ho
    rw [← handleEnt_taken (f := f) (hostBytes f.desc h)]
    exact exec_row_answers exec_create_row hs (by simp [hop]) hm ho (staysHere_of_unmirrored hx) ((apply_create hop).trans
      (apCreate_repeats ((createRepeats_taken _ _ _ _ _).trans hr)))
  case full =>
    intro f h s hs hop hm hx hr hb hl ho
    exact exec_row_answers exec_create_row hs (by simp [hop]) hm ho (staysHere_of_unmirrored hx) ((apply_create hop).trans
      (apCreate_full ((createRepeats_taken _ _ _ _ _).trans hr) ((createBlocked_taken _ _ _ _).trans hb) (by rwa [heldHandles_taken])))
  case busy =>
    intro f h k s hs hop hm hx hr hb ho
    exact exec_row_answers exec_create_row hs (by simp [hop]) hm ho (staysHere_of_unmirrored hx) ((apply_create hop).trans
      (apCreate_busy ((createRepeats_taken _ _ _ _ _).trans hr) ((createBlocked_taken _ _ _ _).trans hb)))

end Sys2Proof.Architecture
end

section
/-! SUPPORT. Descriptors of tasks, patches, points and forces, and how module data come to host memory. -/

namespace Sys2Proof.Architecture

open Machine Laws

section TaskEffects

variable {c : Call} {s : State}

theorem apTask_starts (h0 : c.d.arg0 = 0)
    (hst : (vget s.loom (descEngine s c.d)).state = .stopped ∨ (vget s.loom (descEngine s c.d)).state = .trapped ∨
      (vget s.loom (descEngine s c.d)).state = .overrun) :
    apTask c s = good ((vget s.loom (descEngine s c.d)).scan + 1)
      { setLoom (descEngine s c.d) (fun e => { e with state := .running, firstDue := true }) s with
        mir := { s.mir with noCompare := s.mir.noCompare.filter (· ≠ (descEngine s c.d).val) } } := by
  simp only [apTask, h0]
  exact if_pos (by simpa [or_assoc] using hst)

theorem apTask_notStartable (h0 : c.d.arg0 = 0)
    (hst : (vget s.loom (descEngine s c.d)).state = .none ∨ (vget s.loom (descEngine s c.d)).state = .running ∨
      (vget s.loom (descEngine s c.d)).state = .fault) :
    apTask c s = good (vget s.loom (descEngine s c.d)).scan s := by
  simp only [apTask, h0]
  refine if_neg ?_
  rcases hst with h | h | h <;> simp [h]

theorem apTask_stops (h1 : c.d.arg0 = 1) (hst : (vget s.loom (descEngine s c.d)).state = .running) :
    apTask c s = later (stopNow (descEngine s c.d)
      (setLoom (descEngine s c.d) (fun e => { e with stopReq := true, stops := e.stops ++ [c.no] }) s)) := by
  simp only [apTask, h1]
  exact if_pos hst

theorem apTask_notRunning (h1 : c.d.arg0 = 1) (hst : (vget s.loom (descEngine s c.d)).state ≠ .running) :
    apTask c s = good (vget s.loom (descEngine s c.d)).scan s := by
  simp only [apTask, h1]
  exact if_neg hst

theorem apTask_setsMiniv (h2 : c.d.arg0 = 2) :
    apTask c s = good (vget s.loom (descEngine s c.d)).scan (setLoom (descEngine s c.d) (fun e => { e with miniv := c.d.arg1 }) s) := by
  simp only [apTask, h2]

/-- The patch that a PATCH_VALUE asks for (R142). -/
abbrev patchOf (c : Call) : Patch :=
  { no := c.no, sym := c.d.arg1, value := BitVec.ofNat 32 c.d.arg2, mask := BitVec.ofNat 32 c.d.arg3, fwd := c.fwd }

/-- A patch of a symbol that R142 permits waits for the latch of a running task and is applied at once to another. -/
theorem apPatch_permitted {y : Symbol} (hy : symbolOf s (descEngine s c.d) c.d.arg1 = some y) (hk : 1 ≤ y.kind) (hk' : y.kind ≤ 3)
    (hp : y.patchable = true) : apPatch c s =
      if (vget s.loom (descEngine s c.d)).state = .running then
        later (setLoom (descEngine s c.d) (fun e => { e with patches := e.patches ++ [patchOf c] }) s)
      else good (vget s.loom (descEngine s c.d)).done (patchApply (descEngine s c.d) (patchOf c) s) := by
  simp [apPatch, hy, within, hk, hk', hp]

/-- The value that a FORCE_SET asks for; none for a release (R158). -/
abbrev forceOf (c : Call) : Option Word := if bitOf c.d.arg0 0 then some (BitVec.ofNat 32 c.d.arg2) else none

theorem apForce_waits {n : Fin 8} {v : Option Word} (hw : writerRuns s (descTarget s c.d) = some n) (hv : forceOf c = v) : apForce c s =
    later { s with hub := { s.hub with
      wait := s.hub.wait ++ [{ engine := n.val, no := c.no, pt := descTarget s c.d, set := v, fwd := c.fwd }] } } := by
  subst hv
  simp only [apForce, hw]

theorem apForce_atOnce {v : Option Word} (hw : writerRuns s (descTarget s c.d) = none) (hv : forceOf c = v) : apForce c s =
    good (((pointWriter s (descTarget s c.d)).map fun n => (vget s.loom n).done).getD 0)
      (raiseFabric 0x010B 3 (descTarget s c.d) (publishOne (descTarget s c.d) (workingValue s (descTarget s c.d))
        (forcePut { engine := 0, no := 0, pt := descTarget s c.d, set := v } s))) := by
  subst hv
  simp only [apForce, hw]

end TaskEffects

section Transfers

variable {x : Xfer} {f : Flight} {s t : State} {a : Ans}

/-- The bytes that a POINT_READ copies (R67). -/
abbrev pointBytes (s : State) (d : Desc) : List Byte := (List.range d.arg0).flatMap fun i => leBytes 4 (ptRead s (d.arg1 + i)).toNat

/-- A POINT_READ sends the values of its points to host memory. -/
theorem exec_pointRead_sends (hs : starts f [] s) (hop : f.desc.op = 0x12) (hx : moverData s = x)
    (hd : sendData 15 f.desc.addr (pointBytes (started f.no s) f.desc) f.desc.arg0 x (started f.no s) = (t, some a)) :
    exec .pointRead s = .next (answer f.no a t) :=
  exec_transfer_answers exec_pointRead_row hx hs (by simp [hop]) (by simp [dataLen, hop])
    (staysHere_of_pair (congrArg opSpec hop) (by decide)) ((apply_pointRead hop).trans hd)

end Transfers

/-- Settles O31: TASK_CTRL by the state of its task, PATCH_VALUE by whether its task runs, POINT_READ by how its data cross, FORCE_SET by
whether the point's writer runs. -/
theorem descriptorTaskCommands : Obligations.DescriptorTaskCommands := by
  refine ⟨?start, ?stop, ?notStartable, ?notRunning, ?miniv, ?patchWaits, ?patchNow, ?whole, ?empty, ?parityBad, ?poisoned, ?setWaits,
    ?releaseWaits, ?setNow, ?releaseNow⟩
  case start =>
    intro f s hs hop h0 hl hm hst
    exact exec_bare_answers exec_taskCtrlStart_row hs (by simp [hop, h0]) (by simp [dataLen, hop]) (staysHere_of_unmirrored hm)
      ((apply_taskCtrl hop).trans ((onHandle_bare hl apTask).trans (apTask_starts h0 hst)))
  case stop =>
    intro f s hs hop h1 hl hm hst
    exact exec_bare_waits exec_taskCtrlStop_row hs (by simp [hop, h1]) (by simp [dataLen, hop]) (staysHere_of_unmirrored hm)
      ((apply_taskCtrl hop).trans ((onHandle_bare hl apTask).trans (apTask_stops h1 hst)))
  case notStartable =>
    intro f s hs hop h0 hl hm hst
    exact exec_bare_answers exec_taskCtrlStart_row hs (by simp [hop, h0]) (by simp [dataLen, hop]) (staysHere_of_unmirrored hm)
      ((apply_taskCtrl hop).trans ((onHandle_bare hl apTask).trans (apTask_notStartable h0 hst)))
  case notRunning =>
    intro f s hs hop h1 hl hm hst
    exact exec_bare_answers exec_taskCtrlStop_row hs (by simp [hop, h1]) (by simp [dataLen, hop]) (staysHere_of_unmirrored hm)
      ((apply_taskCtrl hop).trans ((onHandle_bare hl apTask).trans (apTask_notRunning h1 hst)))
  case miniv =>
    intro f s hs hop h2 hl hm
    exact exec_bare_answers exec_taskCtrlSetMiniv_row hs (by simp [hop, h2]) (by simp [dataLen, hop]) (staysHere_of_unmirrored hm)
      ((apply_taskCtrl hop).trans ((onHandle_bare hl apTask).trans (apTask_setsMiniv h2)))
  case patchWaits =>
    intro f y s hs hop hl hm hy hk hk' hp hst
    exact exec_bare_waits exec_patchValue_row hs (by simp [hop]) (by simp [dataLen, hop]) (staysHere_of_unmirrored hm)
      ((apply_patchValue hop).trans ((onHandle_bare hl apPatch).trans ((apPatch_permitted hy hk hk' hp).trans (if_pos hst))))
  case patchNow =>
    intro f y s hs hop hl hm hy hk hk' hp hst
    exact exec_bare_answers exec_patchValue_row hs (by simp [hop]) (by simp [dataLen, hop]) (staysHere_of_unmirrored hm)
      ((apply_patchValue hop).trans ((onHandle_bare hl apPatch).trans ((apPatch_permitted hy hk hk' hp).trans (if_neg hst))))
  case whole =>
    intro f s hs hop hx
    exact exec_pointRead_sends hs hop hx rfl
  case empty =>
    intro f n s hs hop hx
    exact exec_pointRead_sends hs hop hx rfl
  case parityBad =>
    intro f s hs hop hx
    exact exec_pointRead_sends hs hop hx rfl
  case poisoned =>
    intro f s hs hop hx
    exact exec_pointRead_sends hs hop hx rfl
  case setWaits =>
    intro f n s hs hop hb hl hm hw
    exact exec_bare_waits exec_forceSet_row hs (by simp [hop, hb]) (by simp [dataLen, hop]) (staysHere_of_unmirrored hm)
      ((apply_forceSet hop).trans ((onHandle_bare hl apForce).trans (apForce_waits hw (if_pos hb))))
  case releaseWaits =>
    intro f n s hs hop hb hl hm hw
    exact exec_bare_waits exec_forceRelease_row hs (by simp [hop, hb]) (by simp [dataLen, hop]) (staysHere_of_unmirrored hm)
      ((apply_forceSet hop).trans ((onHandle_bare hl apForce).trans (apForce_waits hw (if_neg (by simp [hb])))))
  case setNow =>
    intro f s hs hop hb hl hm hw
    exact exec_bare_answers exec_forceSet_row hs (by simp [hop, hb]) (by simp [dataLen, hop]) (staysHere_of_unmirrored hm)
      ((apply_forceSet hop).trans ((onHandle_bare hl apForce).trans (apForce_atOnce hw (if_pos hb))))
  case releaseNow =>
    intro f s hs hop hb hl hm hw
    exact exec_bare_answers exec_forceRelease_row hs (by simp [hop, hb]) (by simp [dataLen, hop]) (staysHere_of_unmirrored hm)
      ((apply_forceSet hop).trans ((onHandle_bare hl apForce).trans (apForce_atOnce hw (if_neg (by simp [hb])))))

end Sys2Proof.Architecture
end

section
/-! SUPPORT. Descriptors of streams, of the recorder, of the brakes, of the panel, of roles and of the exchange of images. -/

namespace Sys2Proof.Architecture

open Machine Laws

section ServiceEffects

variable {c : Call} {s : State}

theorem apRecFreeze_takes (h : c.d.arg0 = 1) :
    apRecFreeze c s = good (freezeTake (descIdx c.d) s).rcd.floss (freezeTake (descIdx c.d) s) := by
  simp only [apRecFreeze, h, if_true]

theorem apRecFreeze_drops (h : c.d.arg0 = 0) :
    apRecFreeze c s = good (freezeDrop (descIdx c.d) s).rcd.floss (freezeDrop (descIdx c.d) s) := by
  simp only [apRecFreeze, h, Nat.zero_ne_one, if_false]

theorem apBrkReq_engages (h : c.d.arg0 / 16 = 1) : apBrkReq c s = good 0 (brkReqEngage (Fin.ofNat 4 (c.d.arg0 % 4)) s) := by
  simp only [apBrkReq, h]

theorem apBrkReq_releases (h : c.d.arg0 / 16 = 2) : apBrkReq c s = good 0 (brkReqRelease (Fin.ofNat 4 (c.d.arg0 % 4)) s) := by
  simp only [apBrkReq, h]

theorem apBrkReq_tests (h : c.d.arg0 / 16 = 3) :
    apBrkReq c s = good 0 (brkReqTest (Fin.ofNat 4 (c.d.arg0 % 4)) (c.count.getD 0) s) := by
  simp only [apBrkReq, h]

/-- The picture of a PANEL_FRAME is stored and loaded, and the frame that waited before it completes (R430). -/
abbrev pictureTaken (b : List Byte) (s : State) : State :=
  completeOpt s.pan.due stOk 0 (panLoad { s with pan := { s.pan with store := b, stored := true, due := none } })

theorem apPanel_notShown (h : s.pan.host = false) : apPanel c s = good 0 (pictureTaken c.data s) := if_neg (Bool.not_eq_true _ ▸ h)

theorem apPanel_shown (h : s.pan.host = true) :
    apPanel c s = later { pictureTaken c.data s with pan := { (pictureTaken c.data s).pan with due := some c.no } } :=
  if_pos h

theorem apMirRole_standbySyncs (h : c.d.arg0 = 1) (hr : s.mir.role = .standby) :
    apMirRole c s = later (toSyncing s.mir.lastDec (complete c.no stOk 1 s)) := by
  simp only [apMirRole, h, hr, if_true]

theorem apMirRole_syncsAgain (h : c.d.arg0 = 1) (hr : s.mir.role = .syncing) :
    apMirRole c s = later (syncBegin (complete c.no stOk 1 s)) := by
  simp only [apMirRole, h, hr, reduceCtorEq, if_false]

theorem apMirRole_goesAlone (h : c.d.arg0 = 2) (hp : partnerSilent s = true) :
    apMirRole c s = later (aloneStopped 11 (complete c.no stOk 0 s)) := by
  simp only [apMirRole, h, hp, if_true]

theorem apMirRole_asksPartner (h : c.d.arg0 = 2) (hp : partnerSilent s = false) :
    apMirRole c s = later (sendCmd .request 3 { s with mir := { s.mir with roleNo := some c.no, swo := .requested } }) := by
  simp only [apMirRole, h, hp, Bool.false_eq_true, if_false]

theorem apMirRole_handsOver (h : c.d.arg0 = 3) :
    apMirRole c s = later (handOver 3 false { s with mir := { s.mir with roleNo := some c.no } }) := by
  simp only [apMirRole, h]

/-- A swap begins with its descriptor, the image that it names, and nothing known of either module's carried state (R149). -/
abbrev swapNoted (c : Call) (s : State) : State :=
  setZor (fun z => { z with swapNo := some c.no, swapCrc := c.d.arg2, ownCrc := none, peerCrc := none, peerScan := 0 }) s

theorem apSwap_begins (h : s.mir.role ≠ .active) : apSwap c s = later (swapBegin c.d.arg2 (swapNoted c s)) :=
  if_neg h

theorem apSwap_asksPartner (h : s.mir.role = .active) : apSwap c s = later (forwardSend s.mir.fwdseq 0 c.secure (descBytes c.d)
    { setZor (fun z => { z with phase := .prepare }) (swapNoted c s) with mir := { s.mir with fwdseq := (s.mir.fwdseq + 1) % 2 ^ 32 } }) :=
  if_pos h

end ServiceEffects

section BrakeConfiguration

variable {c : Call} {s : State}

/-- BRK_CFG is denied with reason 7 only for a wrong password outside a lockout (R58, R324). -/
theorem passwordBad_of_denyReason {w : Bool} {d : Desc} {b : List Byte} (h : denyReason s w d (some b) = 7) :
    passwordBad s b = true ∧ s.brk.lockUs = 0 := by
  unfold denyReason at h
  split at h
  · omega
  · split_ifs at h with _ _ _ _ _ _ _ hpw
    any_goals omega
    simp only [Bool.and_eq_true, decide_eq_true_eq, Option.any_some] at hpw
    obtain ⟨⟨-, hlock⟩, hbad⟩ := hpw
    exact ⟨hbad, hlock⟩

/-- A wrong password of a BRK_CFG is counted (R324). -/
theorem deniedEffect_wrongPassword {w : Bool} {d : Desc} {b : List Byte} (hop : d.op = 0x41) (h : denyReason s w d (some b) = 7) :
    deniedEffect s w d (some b) = brkWrong (leAt b 2 2) s := by
  simp [deniedEffect, hop, h]

/-- A right password ends the run of wrong ones (R325). -/
abbrev passwordGood (s : State) : State := { s with brk := { s.brk with fails := 0 } }

/-- The configuration of a BRK_CFG block is taken, with the log entry `due` owed for it (R323, R326). -/
abbrev brkTake (b : List Byte) (due : Option (Nat × Nat × Nat)) (s : State) : State :=
  brkCfgApply (Vector.ofFn fun j => brkRead b j.val) (crc32n (b.drop 40)) due { s with brk := { s.brk with raw := b.drop 40 } }

/-- The block brings a new password (R324). -/
abbrev bringsPassword (b : List Byte) : Bool := bitOf (leAt b 1 1) 0

/-- The new password of a block is stored with a fresh salt (R324). -/
abbrev passwordTaken (b : List Byte) (s : State) : State := brkNewPw ((pwChars (slice b 20 16)).getD []) s

/-- A brake channel is in a state in which a configuration takes effect at once (R323). -/
abbrev brkNow (s : State) : Bool := s.brk.ch.toList.any fun (y : BrkCh) => brkAtOnce y.st

/-- The configuration of a block is the one in hand (R326). -/
abbrev brkSame (b : List Byte) (s : State) : Bool := decide (crc32n (b.drop 40) = s.brk.pcrc)

/-- A BRK_CFG whose password stands: a new password is stored and, where its configuration is the one in hand or has to wait, logged
at once; then the configuration is taken, with the entry owed for it. -/
theorem apBrkCfg_accepted (hp : passwordBad s c.data = false) : apBrkCfg c s = good (crc32n (c.data.drop 40)) (brkTake c.data
    (if bringsPassword c.data && brkSame c.data s then s.brk.logDue
      else some (leAt c.data 2 2, s.brk.crc, if bringsPassword c.data && brkNow s then 3 else 1))
    (when (bringsPassword c.data && (bringsPassword c.data && brkSame c.data s || !brkNow s))
      (brkLogAdd (leAt c.data 2 2) s.brk.crc s.brk.crc 2)
      (when (bringsPassword c.data) (passwordTaken c.data) (passwordGood s)))) :=
  if_neg (Bool.not_eq_true _ ▸ hp)

theorem apBrkCfg_configuration (hp : passwordBad s c.data = false) (hn : bringsPassword c.data = false) :
    apBrkCfg c s = good (crc32n (c.data.drop 40)) (brkTake c.data (some (leAt c.data 2 2, s.brk.crc, 1)) (passwordGood s)) := by
  rw [apBrkCfg_accepted hp, hn]
  rfl

/-- A new password with the configuration in hand is logged with kind 2; what is owed stays owed. -/
theorem apBrkCfg_passwordAlone (hp : passwordBad s c.data = false) (hn : bringsPassword c.data = true) (hc : brkSame c.data s = true) :
    apBrkCfg c s = good (crc32n (c.data.drop 40)) (brkTake c.data s.brk.logDue
      (brkLogAdd (leAt c.data 2 2) s.brk.crc s.brk.crc 2 (passwordTaken c.data (passwordGood s)))) := by
  rw [apBrkCfg_accepted hp, hn, hc]
  rfl

/-- A new password with a configuration that waits is logged with kind 2; the configuration is owed its own entry. -/
theorem apBrkCfg_passwordFirst (hp : passwordBad s c.data = false) (hn : bringsPassword c.data = true) (hc : brkSame c.data s = false)
    (hw : brkNow s = false) :
    apBrkCfg c s = good (crc32n (c.data.drop 40)) (brkTake c.data (some (leAt c.data 2 2, s.brk.crc, 1))
      (brkLogAdd (leAt c.data 2 2) s.brk.crc s.brk.crc 2 (passwordTaken c.data (passwordGood s)))) := by
  rw [apBrkCfg_accepted hp, hn, hc, hw]
  rfl

/-- A new password with a configuration that takes effect at once shares its entry, of kind 3. -/
theorem apBrkCfg_both (hp : passwordBad s c.data = false) (hn : bringsPassword c.data = true) (hc : brkSame c.data s = false)
    (hw : brkNow s = true) :
    apBrkCfg c s = good (crc32n (c.data.drop 40)) (brkTake c.data (some (leAt c.data 2 2, s.brk.crc, 3))
      (passwordTaken c.data (passwordGood s))) := by
  rw [apBrkCfg_accepted hp, hn, hc, hw]
  rfl

end BrakeConfiguration

section ServiceRows

variable {x : Xfer} {f : Flight} {s t : State} {a : Ans}

theorem pan_taken (b : List Byte) : (taken f b s).pan = s.pan := taken_keeps (·.pan) fun _ => rfl

theorem brk_taken (b : List Byte) : (taken f b s).brk = s.brk := taken_keeps (·.brk) fun _ => rfl

theorem passwordBad_taken (b l : List Byte) : passwordBad (taken f b s) l = passwordBad s l := taken_keeps (passwordBad · l) fun _ => rfl

/-- The records that a REC_READ copies (R420). -/
abbrev recordsOf (s : State) (d : Desc) : List (List Byte) := recordsFrom s (d.arg1 / 256) d.arg0

/-- A REC_READ sends its records to host memory. -/
theorem exec_recRead_sends (hs : starts f [] s) (hop : f.desc.op = 0x38) (hx : moverData s = x) (hl : onLive f s)
    (hd : sendData 13 f.desc.addr (recordsOf (started f.no s) f.desc).flatten (recordsOf (started f.no s) f.desc).length x (started f.no s)
      = (t, some a)) : exec .recRead s = .next (answer f.no a t) :=
  exec_transfer_answers exec_recRead_row hx hs (by simp [hop]) (by simp [dataLen, hop])
    (staysHere_of_pair (congrArg opSpec hop) (by decide)) ((apply_recRead hop).trans ((onHandle_xfer (b := []) hl apRecRead).trans hd))

end ServiceRows

/-- Settles O33: each opcode's effect by the case of its operands and of the state; BRK_CFG by its password first. -/
theorem descriptorServiceCommands : Obligations.DescriptorServiceCommands := by
  refine ⟨?streamPost, ?streamDrop, ?recWhole, ?recEmpty, ?recParityBad, ?recPoisoned, ?freeze, ?freezeRelease, ?recClear, ?engage,
    ?release, ?brakeTest, ?panelNotShown, ?panelShown, ?standbySyncs, ?syncsAgain, ?goesAlone, ?asksPartner, ?handsOver, ?swapBegins,
    ?swapAsks, ?wrongPassword, ?configuration, ?passwordAlone, ?passwordFirst, ?both⟩
  case streamPost =>
    intro f s hs hop hl
    exact exec_bare_waits exec_streamPost_row hs (by simp [hop]) (by simp [dataLen, hop])
      (staysHere_of_pair (congrArg opSpec hop) (by decide)) ((apply_streamPost hop).trans (onHandle_bare hl apStreamPost))
  case streamDrop =>
    intro f s hs hop hl
    exact exec_bare_answers exec_streamDrop_row hs (by simp [hop]) (by simp [dataLen, hop])
      (staysHere_of_pair (congrArg opSpec hop) (by decide)) ((apply_streamDrop hop).trans (onHandle_bare hl apStreamDrop))
  case recWhole =>
    intro f s hs hop hx hl
    exact exec_recRead_sends hs hop hx hl rfl
  case recEmpty =>
    intro f n s hs hop hx hl
    exact exec_recRead_sends hs hop hx hl rfl
  case recParityBad =>
    intro f s hs hop hx hl
    exact exec_recRead_sends hs hop hx hl rfl
  case recPoisoned =>
    intro f s hs hop hx hl
    exact exec_recRead_sends hs hop hx hl rfl
  case freeze =>
    intro f s hs hop h1 hl
    exact exec_bare_answers exec_recFreeze_row hs (by simp [hop, h1]) (by simp [dataLen, hop])
      (staysHere_of_pair (congrArg opSpec hop) (by decide))
      ((apply_recFreeze hop).trans ((onHandle_bare hl apRecFreeze).trans (apRecFreeze_takes h1)))
  case freezeRelease =>
    intro f s hs hop h0 hl
    exact exec_bare_answers exec_recFreezeRelease_row hs (by simp [hop, h0]) (by simp [dataLen, hop])
      (staysHere_of_pair (congrArg opSpec hop) (by decide))
      ((apply_recFreeze hop).trans ((onHandle_bare hl apRecFreeze).trans (apRecFreeze_drops h0)))
  case recClear =>
    intro f s hs hop
    exact exec_bare_answers exec_recClear_row hs (by simp [hop]) (by simp [dataLen, hop])
      (staysHere_of_pair (congrArg opSpec hop) (by decide)) (apply_recClear hop)
  case engage =>
    intro f s hs hop h1 hm
    exact exec_bare_answers exec_brkReqEngage_row hs (by simp [hop, h1]) (by simp [dataLen, hop]) (staysHere_of_unmirrored hm)
      ((apply_brkReq hop).trans (apBrkReq_engages h1))
  case release =>
    intro f s hs hop h2 hm
    exact exec_bare_answers exec_brkReqRelease_row hs (by simp [hop, h2]) (by simp [dataLen, hop]) (staysHere_of_unmirrored hm)
      ((apply_brkReq hop).trans (apBrkReq_releases h2))
  case brakeTest =>
    intro f s hs hop h3 hm
    exact exec_bare_answers exec_brkReqBrakeTest_row hs (by simp [hop, h3]) (by simp [dataLen, hop]) (staysHere_of_unmirrored hm)
      ((apply_brkReq hop).trans (apBrkReq_tests h3))
  case panelNotShown =>
    intro f h s hs hop hm hh ho
    rw [← pan_taken (f := f) (hostBytes f.desc h)] at hh ⊢
    exact exec_row_answers exec_panelFrame_row hs (by simp [hop]) hm ho (staysHere_of_pair (congrArg opSpec hop) (by decide))
      ((apply_panelFrame hop).trans (apPanel_notShown hh))
  case panelShown =>
    intro f h s hs hop hm hh ho
    rw [← pan_taken (f := f) (hostBytes f.desc h)] at hh ⊢
    exact exec_row_waits exec_panelFrame_row hs (by simp [hop]) hm ho (staysHere_of_pair (congrArg opSpec hop) (by decide))
      ((apply_panelFrame hop).trans (apPanel_shown hh))
  case standbySyncs =>
    intro f s hs hop h1 hr
    exact exec_bare_waits exec_mirRoleSyncing_row hs (by simp [hop, h1]) (by simp [dataLen, hop])
      (staysHere_of_pair (congrArg opSpec hop) (by decide)) ((apply_mirRole hop).trans (apMirRole_standbySyncs h1 hr))
  case syncsAgain =>
    intro f s hs hop h1 hr
    exact exec_bare_waits exec_mirRoleSyncing_row hs (by simp [hop, h1]) (by simp [dataLen, hop])
      (staysHere_of_pair (congrArg opSpec hop) (by decide)) ((apply_mirRole hop).trans (apMirRole_syncsAgain h1 hr))
  case goesAlone =>
    intro f s hs hop h2 hp
    exact exec_bare_waits exec_mirRoleActive_row hs (by simp [hop, h2]) (by simp [dataLen, hop])
      (staysHere_of_pair (congrArg opSpec hop) (by decide)) ((apply_mirRole hop).trans (apMirRole_goesAlone h2 hp))
  case asksPartner =>
    intro f s hs hop h2 hp
    exact exec_bare_waits exec_mirRoleActive_row hs (by simp [hop, h2]) (by simp [dataLen, hop])
      (staysHere_of_pair (congrArg opSpec hop) (by decide)) ((apply_mirRole hop).trans (apMirRole_asksPartner h2 hp))
  case handsOver =>
    intro f s hs hop h3
    exact exec_bare_waits exec_mirRoleStandby_row hs (by simp [hop, h3]) (by simp [dataLen, hop])
      (staysHere_of_pair (congrArg opSpec hop) (by decide)) ((apply_mirRole hop).trans (apMirRole_handsOver h3))
  case swapBegins =>
    intro f s hs hop hr
    exact exec_bare_waits exec_zorosSwap_row hs (by simp [hop]) (by simp [dataLen, hop])
      (staysHere_of_pair (congrArg opSpec hop) (by decide)) ((apply_zorosSwap hop).trans (apSwap_begins hr))
  case swapAsks =>
    intro f s hs hop hr
    exact exec_bare_waits exec_zorosSwap_row hs (by simp [hop]) (by simp [dataLen, hop])
      (staysHere_of_pair (congrArg opSpec hop) (by decide)) ((apply_zorosSwap hop).trans (apSwap_asksPartner hr))
  case wrongPassword =>
    intro f h s hn hr hm hop ha hd hf
    obtain ⟨hbad, hlock⟩ := passwordBad_of_denyReason hd
    refine ⟨hbad, hlock, ?_⟩
    rw [exec_brkCfg_row, runRow_startDesc hn (by simp [hop]) hr hf (fun _ => hm), startDesc_refused ha, deniedEffect_wrongPassword hop hd]
  case configuration =>
    intro f h s hs hop hb hm hx hp ho
    rw [← brk_taken (f := f) (hostBytes f.desc h)]
    exact exec_row_answers exec_brkCfg_row hs (by simp [hop]) hm ho (staysHere_of_unmirrored hx)
      ((apply_brkCfg hop).trans (apBrkCfg_configuration ((passwordBad_taken _ _).trans hp) hb))
  case passwordAlone =>
    intro f h s hs hop hb hm hx hp hc ho
    rw [← brk_taken (f := f) (hostBytes f.desc h)] at hc ⊢
    exact exec_row_answers exec_brkCfg_row hs (by simp [hop]) hm ho (staysHere_of_unmirrored hx)
      ((apply_brkCfg hop).trans (apBrkCfg_passwordAlone ((passwordBad_taken _ _).trans hp) hb (decide_eq_true hc)))
  case passwordFirst =>
    intro f h s hs hop hb hm hx hp hc hw ho
    rw [← brk_taken (f := f) (hostBytes f.desc h)] at hc hw ⊢
    exact exec_row_answers exec_brkCfg_row hs (by simp [hop]) hm ho (staysHere_of_unmirrored hx)
      ((apply_brkCfg hop).trans (apBrkCfg_passwordFirst ((passwordBad_taken _ _).trans hp) hb (decide_eq_false hc) hw))
  case both =>
    intro f h s hs hop hb hm hx hp hc hw ho
    rw [← brk_taken (f := f) (hostBytes f.desc h)] at hc hw ⊢
    exact exec_row_answers exec_brkCfg_row hs (by simp [hop]) hm ho (staysHere_of_unmirrored hx)
      ((apply_brkCfg hop).trans (apBrkCfg_both ((passwordBad_taken _ _).trans hp) hb (decide_eq_false hc) hw))

end Sys2Proof.Architecture
end

section
/-! SUPPORT. Frames from the partner, each as the module takes it in order, and the phases of synchronisation. -/

namespace Sys2Proof.Architecture

open Machine Laws

section Latches

variable {n : Fin 8} {f : LatchFrame} {w : SMap Word} {s : State}

/-- A module that follows takes a LATCH whose Weft fails its CRC as a loss (R349). -/
theorem latchTake_badCrc (h : weftCrc s f.engine (weftOf s f.engine s.mir.pts) ≠ f.wcrc.toNat) :
    latchTake f s = if s.mir.role = .standby then standbyLeaves 8 s else syncAbandon s := if_pos h

theorem latchTake_notRunning (h : weftCrc s f.engine (weftOf s f.engine s.mir.pts) = f.wcrc.toNat)
    (hr : (vget s.loom f.engine).state ≠ .running) : latchTake f s = s :=
  (if_neg (not_not.mpr h)).trans (if_pos hr)

/-- The state in which a latch waits behind those that wait already. -/
abbrev latchKept (f : LatchFrame) (s : State) : State := setMir (fun m => { m with
  tbOfs := f.ts - s.tbase, latches := m.latches ++ [(f, weftOf s f.engine s.mir.pts)], gotLatch := vset m.gotLatch f.engine f.scan.toNat }) s

theorem latchTake_running (h : weftCrc s f.engine (weftOf s f.engine s.mir.pts) = f.wcrc.toNat)
    (hr : (vget s.loom f.engine).state = .running) : latchTake f s = latchNext f.engine (latchKept f s) :=
  (if_neg (not_not.mpr h)).trans (if_neg (not_not.mpr hr))

/-- A latch waits while its engine cannot begin a scan. -/
theorem latchNext_waits (h : latchReady s n = false) : latchNext n s = s := by
  unfold latchNext
  split
  · exact if_neg (Bool.not_eq_true _ ▸ h)
  · rfl

theorem running_of_latchReady (h : latchReady s n = true) : (vget s.loom n).state = .running := by
  simp only [latchReady, Bool.and_eq_true, decide_eq_true_eq] at h
  exact h.1.1

/-- The only latch that waits for an engine that can begin is taken out of those that wait, and begins the scan. -/
theorem latchNext_begins {l : List (LatchFrame × SMap Word)} (hl : s.mir.latches = l ++ [(f, w)])
    (hn : (l.find? fun p => p.1.engine = f.engine) = none) (hr : latchReady s f.engine = true) :
    latchNext f.engine s = latchStart f.engine f w (setMir (fun m => { m with latches := l }) s) := by
  have hfind : (s.mir.latches.find? fun p => p.1.engine = f.engine) = some (f, w) := by
    rw [hl, List.find?_append, hn]
    simp
  have hmem : (f, w) ∉ l := fun hm => by simpa using List.find?_eq_none.mp hn (f, w) hm
  have herase : s.mir.latches.erase (f, w) = l := by
    rw [hl, List.erase_append_right _ hmem]
    simp
  simp only [latchNext, hfind, hr, if_true, setMir, herase]

end Latches

section Signatures

variable {g p : Sig} {s : State}

/-- The partner's signature of a task says which scan it published last. -/
theorem sigPeer_task {n : Fin 8} (ht : g.isTask = true) (he : g.engine = n.val) (hf : s.mir.ownSig.find? (sigMeets g) = some p) :
    sigPeer g s = sigCompare p g { s with mir := { s.mir with
      lastPub := vset s.mir.lastPub n g.num, ownSig := s.mir.ownSig.filter fun x => !sigMeets g x } } := by
  have hlt : g.isTask = true ∧ g.engine < 8 := ⟨ht, he ▸ n.isLt⟩
  have hn : (⟨g.engine, hlt.2⟩ : Fin 8) = n := Fin.ext he
  simp only [sigPeer, dif_pos hlt, hf, hn]

theorem sigPeer_slot (ht : g.isTask = false) (hf : s.mir.ownSig.find? (sigMeets g) = some p) :
    sigPeer g s = sigCompare p g { s with mir := { s.mir with ownSig := s.mir.ownSig.filter fun x => !sigMeets g x } } := by
  simp [sigPeer, ht, hf]

theorem sigPeer_early (hf : s.mir.ownSig.find? (sigMeets g) = none) : (sigPeer g s).mir.peerSig = s.mir.peerSig ++ [g] := by
  unfold sigPeer
  by_cases h : g.isTask = true ∧ g.engine < 8
  · simp only [dif_pos h, hf]
  · simp only [dif_neg h, hf]

theorem sigCompare_equal (hc : sigCompared s (sigCode g) = true) (he : g.crc = p.crc) : sigCompare g p s =
    { s with mir := { s.mir with matched := mapSet s.mir.matched (sigCode g) (mapGetD 0 s.mir.matched (sigCode g) + 1) } } := by
  simp [sigCompare, hc, he]

theorem sigCompare_mismatch (hc : sigCompared s (sigCode g) = true) (he : g.crc ≠ p.crc) (hr : s.mir.role = .standby)
    (hd : s.mir.div = none) (hs : s.mir.swo ≠ .newScans) : sigCompare g p s = divStart (sigCode g) s := by
  simp [sigCompare, hc, he, hr, hd, hs]

theorem framesLost_standby (ftype : Int) (hr : s.mir.role = .standby) (hs : s.mir.swo ≠ .newScans) :
    framesLost ftype s = toSyncing 7 (raise 0x080D 5 ftype s) := by
  have hm : (raise 0x080D 5 ftype s).mir = s.mir := View.mir.inj (raise_view (k := .mir) (by decide) _ _ _ _)
  simp [framesLost, standbyLeaves, hm, hr, hs]

theorem exec_signatureTimeout_missing (hm : meRuns s = true) (ho : (s.mir.ownSig.any fun g => sigCompared s (sigCode g)) = true) :
    exec .signatureTimeout s = .next (framesLost 0x04 s) := by
  simp only [exec, execSignatureTimeout, ok, hm, ho, Bool.and_self, if_true]

end Signatures

section Forwards

variable {h : FrameHdr} {f : ForwardFrame} {s : State}

/-- The state after a FORWARD frame: each of its segments took one FSEQ (R343). -/
abbrev forwarded (f : ForwardFrame) (h : FrameHdr) (s : State) : State := framed ((f.desc.length + f.data.length + 247) / 248) h s

theorem exec_forward_brake (k : inOrder h s) (hb : leAt f.desc 0 1 = opBrake) (hr : s.mir.role = .standby) :
    exec (.forward h f) s = .next (brkTestTaken (Fin.ofNat 4 (leAt f.desc 6 2)) (leAt f.desc 8 8) (forwarded f h s)) := by
  simp [exec, execForward, ok, frameTake_inOrder k, hb, hr, setMir]

theorem exec_forward_fault (k : inOrder h s) (hf : leAt f.desc 0 1 = opFault) :
    exec (.forward h f) s =
      .next (faultTaken (leAt f.desc 6 2) (leAt f.desc 16 8) (leAt f.desc 8 1 = 1) (forwarded f h s)) := by
  simp [exec, execForward, ok, frameTake_inOrder k, hf]

theorem exec_forward_descriptor (k : inOrder h s) (hb : leAt f.desc 0 1 ≠ opBrake) (hf : leAt f.desc 0 1 ≠ opFault)
    (hw : following s = true) : exec (.forward h f) s = .next (forwardTake f (forwarded f h s)) := by
  have hw' : following (forwarded f h s) = true := hw
  simp only [exec, execForward, ok, frameTake_inOrder k, Bool.not_true, Bool.false_eq_true, if_false, if_neg hb, if_neg hf, hw', if_true]

theorem forwardTake_swap (hop : (descRead f.desc).op = 0x0A) : forwardTake f s = swapBegin (descRead f.desc).arg2 s := if_pos hop

/-- The answer that a forwarded descriptor gives when it is applied; OK with RESULT 0 where it completes later. -/
abbrev forwardAns (f : ForwardFrame) (s : State) : Ans := (apply (forwardCall f) s).2.getD {}

theorem forwardTake_result {x : Nat} (hop : (descRead f.desc).op ≠ 0x0A) (he : engineFailed s (descRead f.desc) = false)
    (hx : (forwardAns f s).result = some x) :
    forwardTake f s = sendFrame 0x06 (fwdAckBody f.fwdseq.toNat (forwardAns f s).status x) (apply (forwardCall f) s).1 := by
  simp only [forwardTake, hop, he, Bool.false_eq_true, if_false, hx]

theorem forwardTake_open (hop : (descRead f.desc).op ≠ 0x0A) (he : engineFailed s (descRead f.desc) = false)
    (hx : (forwardAns f s).result = none) :
    forwardTake f s = sendFrame 0x06 (fwdAckBody f.fwdseq.toNat (forwardAns f s).status
      (Config.open32 (apply (forwardCall f) s).1.free).toNat) (drawn (apply (forwardCall f) s).1) := by
  simp only [forwardTake, hop, he, Bool.false_eq_true, if_false, hx]

theorem forwardTake_engineFailed (hop : (descRead f.desc).op ≠ 0x0A) (he : engineFailed s (descRead f.desc) = true) :
    forwardTake f s = sendFrame 0x06 (fwdAckBody f.fwdseq.toNat stTimeout (Config.open32 s.free).toNat) (drawn s) := by
  simp only [forwardTake, hop, he, if_false, if_true]
  rfl

theorem exec_fwdAck_waited {a : FwdAckFrame} {w : FwdDesc} (k : inOrder h s) (hr : s.mir.role = .active)
    (hw : s.mir.fwdWait.find? (fun w => w.fwdseq = a.fwdseq.toNat) = some w) :
    exec (.fwdAck h a) s = .next (applyForwarded w true (ackPeer (fwdCall w).d.op a) (framed 1 h s)) := by
  simp only [exec, execFwdAck, ok, frameTake_inOrder k, framed_mir, hr, decide_true, Bool.and_self, if_true, hw]

/-- The state in which the active applies a forwarded descriptor: nothing waits for its acknowledgement any more, and the partner's answer
is noted. -/
abbrev acknowledged (w : FwdDesc) (b : Bool) (p : Option (Nat × Option Nat)) (s : State) : State :=
  { s with mir := { s.mir with fwdWait := s.mir.fwdWait.filter (·.fwdseq ≠ w.fwdseq) }
           shu := { s.shu with flights := s.shu.flights.map fun x =>
             if x.no = w.no then { x with cflags := if b then 4 else 0, peer := p } else x } }

theorem applyForwarded_applies {w : FwdDesc} {b : Bool} {p : Option (Nat × Option Nat)} (hk : descKind s (fwdCall w).d ≠ 1)
    (he : engineFailed (acknowledged w b p s) (fwdCall w).d = false) :
    applyForwarded w b p s = applyNow (fwdCall w) (acknowledged w b p s) := by
  simp only [applyForwarded, hk, decide_false, when_false, he, Bool.false_eq_true, if_false]

end Forwards

section SwapMessages

variable {h : FrameHdr} {s : State}

theorem exec_swap_inOrder (k : inOrder h s) (m : SwapMsg) : exec (.swap h m) s = .next (swapTake m (framed 1 h s)) := by
  simp only [exec, execSwap, ok, frameTake_inOrder k, if_true]

theorem swapTake_prepared (hr : s.mir.role = .active) (hp : s.zor.phase = .prepare) :
    swapTake .prepared s =
      swapSend 3 (loomTime s + 101).toNat 0 (setZor (fun z => { z with phase := .freeze, freezeF := some (loomTime s + 101) }) s) :=
  if_pos (by simp [hr, hp])

theorem swapTake_prepareFailed (c : Nat) (a : Bool) (hr : s.mir.role = .active) (hp : s.zor.phase = .prepare) :
    swapTake (.prepareFailed c a) s =
      swapEnd c (if a then stNotPresent else if c = 4 || c = 9 then stTimeout else stBadImage) none s :=
  if_pos (by simp [hr, hp])

theorem swapTake_freezeAt (f : Word) (hr : s.mir.role = .standby) (hp : s.zor.phase = .prepared) :
    swapTake (.freezeAt f) s = setZor (fun z => { z with phase := .freeze, freezeF := some f }) s :=
  if_pos (by simp [hr, hp])

theorem swapTake_carriedCrc (c k : BitVec 64) (hp : s.zor.phase = .freeze ∨ s.zor.phase = .map) :
    swapTake (.carriedCrc c k) s = swapCompare (setZor (fun z => { z with peerCrc := some c.toNat, peerScan := k.toNat }) s) :=
  if_pos (by simpa using hp)

end SwapMessages

section SyncSegments

variable {h : FrameHdr} {o : Nat} {b : List Byte} {s : State}

/-- A frame in order has the FSEQ that is expected, or there is none. -/
theorem fseq_of_inOrder (k : inOrder h s) : s.mir.fseqIn.getD h.fseq.toNat = h.fseq.toNat := by
  obtain ⟨-, -, -, -, -, -, -, hseq⟩ := k
  rcases hseq with e | e <;> rw [e] <;> rfl

theorem exec_syncData_kept (k : inOrder h s) (hr : s.mir.role = .syncing) (h2 : 2 ≤ s.mir.syncph) (h4 : s.mir.syncph ≤ 4)
    (hq : mapGet s.mir.syncReq o = none) :
    exec (.syncData h o b) s = .next (setMir (fun m => { m with syncBuf := mapSet m.syncBuf o b }) (framed 1 h s)) := by
  have hw : within 1 4 s.mir.syncph = true := by simp only [within, Bool.and_eq_true, decide_eq_true_eq]; omega
  have h1 : s.mir.syncph ≠ 1 := by omega
  simp [exec, execSyncData, ok, frameSeen_inOrder k, hr, hw, h1, hq, fseq_of_inOrder k]

theorem exec_syncData_hello (k : inOrder h s) (hr : s.mir.role = .syncing) (h1 : s.mir.syncph = 1) :
    exec (.syncData h o b) s = .next (helloTake b (framed 1 h s)) := by
  simp [exec, execSyncData, ok, frameSeen_inOrder k, hr, h1, within]

theorem exec_syncData_asked (k : inOrder h s) (hr : s.mir.role = .active) (hs : mapGet s.mir.syncSent o = some b) :
    exec (.syncData h o []) s = .next (syncSeg o b (framed 1 h s)) := by
  simp [exec, execSyncData, ok, frameSeen_inOrder k, hr, hs]

end SyncSegments

section SyncPhases

variable {ms : Nat} {s : State}

theorem exec_syncPhaseEnd_syncing (hm : meRuns s = true) (hd : s.mir.decided = true) (hr : s.mir.role = .syncing) :
    exec (.syncPhaseEnd ms) s = .next (syncPhaseEnd ms s) := by
  simp only [exec, execSyncPhaseEnd, ok, hm, hd, hr, decide_true, Bool.and_self, if_true]

theorem syncPhaseEnd_lifeDiffers (hp : s.mir.syncph ≠ 0) (hl : lifeDiffers s = true) :
    syncPhaseEnd ms s = lifeEvent (syncAbandon s) := by
  simp [syncPhaseEnd, hp, hl]

theorem syncPhaseEnd_one (hl : lifeDiffers s = false) (hp : s.mir.syncph = 1) : syncPhaseEnd ms s =
    if s.mir.plife.isSome then syncEnter (if s.mir.pimage = s.zor.imageCrc then 3 else 2) s else s := by
  simp [syncPhaseEnd, hl, hp]

theorem syncPhaseEnd_two (hl : lifeDiffers s = false) (hp : s.mir.syncph = 2) (hw : syncWhole s = true) : syncPhaseEnd ms s =
    (imageCheck (idCap s.ident.variant) (syncGot s)).elim (fun _ => syncAbandon s) fun img => syncEnter 3 (syncImage img s) := by
  cases hi : imageCheck (idCap s.ident.variant) (syncGot s) <;> simp [syncPhaseEnd, hl, hp, hw, hi]

theorem syncPhaseEnd_three (hl : lifeDiffers s = false) (hp : s.mir.syncph = 3) (hw : syncWhole s = true) : syncPhaseEnd ms s =
    (rdConfig (rowRead (syncGot s))).elim (syncAbandon s) fun c => syncEnter 4 (syncConfig c.1 s) := by
  cases hc : rdConfig (rowRead (syncGot s)) <;> simp [syncPhaseEnd, hl, hp, hw, hc]

theorem syncPhaseEnd_four (hl : lifeDiffers s = false) (hp : s.mir.syncph = 4) (hw : syncWhole s = true) : syncPhaseEnd ms s =
    (rdStates (rowRead (syncGot s)).length (rowRead (syncGot s))).elim (syncAbandon s) fun fs =>
      if (syncWanted s).all (fun k => fs.any (·.1 = k)) then syncStateEnd fs s else s := by
  cases hc : rdStates (rowRead (syncGot s)).length (rowRead (syncGot s)) <;> simp [syncPhaseEnd, hl, hp, hw, hc]

theorem syncPhaseEnd_five (hl : lifeDiffers s = false) (hp : s.mir.syncph = 5) (hv : syncVerified s = true) : syncPhaseEnd ms s =
    raise 0x080B 2 ms (setMir (fun m =>
      { m with syncph := 0, synced := false, syncMs := ms, matched := [], healthy := true }) (roleChange .standby s)) := by
  simp [syncPhaseEnd, hl, hp, hv]

theorem exec_syncTimeout_synced (hm : meRuns s = true) (hr : s.mir.role = .syncing) (hs : s.mir.synced = true) :
    exec .syncTimeout s = .next (syncAbandon s) := by
  simp [exec, execSyncTimeout, ok, hm, hr, hs]

theorem exec_syncRestart_held (hm : meRuns s = true) (hh : s.mir.syncHold = true) :
    exec .syncRestart s = .next (
      let a := setMir (fun m => { m with syncHold := false }) s
      when (syncMayBegin a) syncBegin a) := by
  simp only [exec, execSyncRestart, ok, hm, hh, Bool.and_self, if_true]

end SyncPhases

/-- Settles O53: each frame in order by what the module does with it, each phase of synchronisation by how it ends. -/
theorem mirrorFrameCommands : Obligations.MirrorFrameCommands := by
  refine ⟨?update, ?latchBad, ?latchIdle, ?latchBegins, ?latchWaits, ?sample, ?signature,
    fun g p n s => sigPeer_task, fun g p s => sigPeer_slot, fun g s => sigPeer_early, fun a b s => sigCompare_equal,
    fun a b s => sigCompare_mismatch, ?updateEarly, ?latchEarly, ?sampleEarly, ?signatureEarly,
    fun s => exec_signatureTimeout_missing, fun s => framesLost_standby 0x04, fun h f s => exec_forward_brake,
    fun h f s => exec_forward_fault, ?forwardSwap, ?forwardResult, ?forwardOpen, ?forwardFailed, fun h f w s => exec_fwdAck_waited,
    fun w b p s => applyForwarded_applies, ?prepared, ?prepareFailed, ?freezeAt, ?carriedCrc,
    fun h o b s => exec_syncData_kept, fun h o b s => exec_syncData_hello, fun h o b s => exec_syncData_asked,
    ?phaseOne, ?phaseTwo, ?phaseThree, ?phaseFour, ?phaseFive, ?lifeDiffers, fun s => exec_syncTimeout_synced,
    fun s => exec_syncRestart_held⟩
  case update =>
    intro h e s k hw
    exact frameHigh_follows k hw _ _ _
  case latchBad =>
    intro h f s k hw hc
    exact (frameHigh_follows k hw _ _ _).trans (congrArg Host.Outcome.next (latchTake_badCrc (s := framed 1 h s) hc))
  case latchIdle =>
    intro h f s k hw hc hr
    exact (frameHigh_follows k hw _ _ _).trans (congrArg Host.Outcome.next (latchTake_notRunning (s := framed 1 h s) hc hr))
  case latchBegins =>
    intro h f s k hw hc hr hn
    refine (frameHigh_follows k hw _ _ _).trans (congrArg Host.Outcome.next ?_)
    exact (latchTake_running (s := framed 1 h s) hc (running_of_latchReady hr)).trans
      (latchNext_begins (s := latchKept f (framed 1 h s)) (l := s.mir.latches) rfl hn hr)
  case latchWaits =>
    intro h f s k hw hc hr hn
    refine (frameHigh_follows k hw _ _ _).trans (congrArg Host.Outcome.next ?_)
    exact (latchTake_running (s := framed 1 h s) hc hr).trans (latchNext_waits (s := latchKept f (framed 1 h s)) hn)
  case sample =>
    intro h f s k hw
    exact frameHigh_follows k hw _ _ _
  case signature =>
    intro h e s k hw
    exact frameHigh_follows k hw _ _ _
  case updateEarly =>
    intro h e s k hr hp
    exact frameHigh_early k hr hp _ _ _
  case latchEarly =>
    intro h f s k hr hp
    exact frameHigh_early k hr hp _ _ _
  case sampleEarly =>
    intro h f s k hr hp
    exact frameHigh_early k hr hp _ _ _
  case signatureEarly =>
    intro h e s k hr hp
    exact frameHigh_early k hr hp _ _ _
  case forwardSwap =>
    intro h f s k hb hf hw hop
    rw [exec_forward_descriptor k hb hf hw, forwardTake_swap hop]
  case forwardResult =>
    intro h f s x k hb hf hw hop he hx
    rw [exec_forward_descriptor k hb hf hw, forwardTake_result hop he hx]
  case forwardOpen =>
    intro h f s k hb hf hw hop he hx
    rw [exec_forward_descriptor k hb hf hw, forwardTake_open hop he hx]
  case forwardFailed =>
    intro h f s k hb hf hw hop he
    rw [exec_forward_descriptor k hb hf hw, forwardTake_engineFailed hop he]
    rfl
  case prepared =>
    intro h s k hr hp
    rw [exec_swap_inOrder k, swapTake_prepared (s := framed 1 h s) hr hp]
    rfl
  case prepareFailed =>
    intro h c a s k hr hp
    rw [exec_swap_inOrder k, swapTake_prepareFailed (s := framed 1 h s) c a hr hp]
  case freezeAt =>
    intro h f s k hr hp
    rw [exec_swap_inOrder k, swapTake_freezeAt (s := framed 1 h s) f hr hp]
  case carriedCrc =>
    intro h c j s k hp
    rw [exec_swap_inOrder k, swapTake_carriedCrc (s := framed 1 h s) c j hp]
  case phaseOne =>
    intro ms s hm hd hr hl hp
    rw [exec_syncPhaseEnd_syncing hm hd hr, syncPhaseEnd_one hl hp]
  case phaseTwo =>
    intro ms s hm hd hr hl hp hw
    rw [exec_syncPhaseEnd_syncing hm hd hr, syncPhaseEnd_two hl hp hw]
  case phaseThree =>
    intro ms s hm hd hr hl hp hw
    rw [exec_syncPhaseEnd_syncing hm hd hr, syncPhaseEnd_three hl hp hw]
  case phaseFour =>
    intro ms s hm hd hr hl hp hw
    rw [exec_syncPhaseEnd_syncing hm hd hr, syncPhaseEnd_four hl hp hw]
  case phaseFive =>
    intro ms s hm hd hr hl hp hv
    rw [exec_syncPhaseEnd_syncing hm hd hr, syncPhaseEnd_five hl hp hv]
  case lifeDiffers =>
    intro ms s hm hd hr hp hl
    rw [exec_syncPhaseEnd_syncing hm hd hr, syncPhaseEnd_lifeDiffers hp hl]

end Sys2Proof.Architecture
end

section
/-! SUPPORT. The words of the Loom instructions: the low 24 bits of each format, read and written. -/

namespace Sys2Proof.Architecture

open Machine Laws

/-! ### The fields of a word -/

theorem bits_eq_div_mod (x lo k : Nat) : bits x lo k = x / 2 ^ lo % 2 ^ k := by
  rw [bits, Nat.shiftRight_eq_div_pow]

theorem ofNat_eq_iff {k x : Nat} (hx : x < 2 ^ k) (v : BitVec k) : BitVec.ofNat k x = v ↔ x = v.toNat := by
  rw [BitVec.toNat_eq, BitVec.toNat_ofNat, Nat.mod_eq_of_lt hx]

theorem bits_lt (x lo k : Nat) : bits x lo k < 2 ^ k := Nat.mod_lt _ (Nat.two_pow_pos k)

/-- The low 24 bits at a field of `k` bits and the bits above it. -/
theorem bits_low_split (x : Nat) {k : Nat} (hk : k ≤ 24) : bits x 0 24 = bits x 0 k + 2 ^ k * bits x k (24 - k) := by
  have h : 2 ^ 24 = 2 ^ k * 2 ^ (24 - k) := by rw [← Nat.pow_add, Nat.add_sub_cancel' hk]
  simp only [bits_eq_div_mod, h, pow_zero, Nat.div_one]
  exact Nat.mod_mul

/-- A word has the field `v` in its low `k` bits and 0 above it exactly when its low 24 bits are `v`. -/
theorem field_iff {x k : Nat} (hk : k ≤ 24) (v : BitVec k) :
    bits x k (24 - k) = 0 ∧ BitVec.ofNat k (bits x 0 k) = v ↔ bits x 0 24 = v.toNat := by
  rw [bits_low_split x hk, ofNat_eq_iff (bits_lt x 0 k)]
  have hv := v.isLt
  constructor
  · rintro ⟨hz, hl⟩
    simp [hz, hl]
  · intro h
    have hz : bits x k (24 - k) = 0 := by
      by_contra hne
      have := Nat.le_mul_of_pos_right (2 ^ k) (Nat.pos_of_ne_zero hne)
      omega
    exact ⟨hz, by simpa [hz] using h⟩

/-- The fields of format B: space, the field COND or 0, index (R80). -/
theorem operand_iff {x c q : Nat} (hc : c < 16) (hq : q < 16) (ix : BitVec 16) :
    bits x 20 4 = c ∧ bits x 16 4 = q ∧ BitVec.ofNat 16 (bits x 0 16) = ix ↔
      bits x 0 24 = c * 2 ^ 20 + ix.toNat + q * 2 ^ 16 := by
  rw [ofNat_eq_iff (bits_lt x 0 16)]
  have := ix.isLt
  simp only [bits_eq_div_mod]
  omega

/-- The fields of EVT: severity and number (R96). -/
theorem event_iff {x : Nat} (sev : BitVec 3) (num : BitVec 8) :
    (bits x 23 1 = 0 ∧ bits x 8 12 = 0) ∧ BitVec.ofNat 3 (bits x 20 3) = sev ∧ BitVec.ofNat 8 (bits x 0 8) = num ↔
      bits x 0 24 = sev.toNat * 2 ^ 20 + num.toNat := by
  rw [ofNat_eq_iff (bits_lt x 20 3), ofNat_eq_iff (bits_lt x 0 8)]
  have := sev.isLt
  have := num.isLt
  simp only [bits_eq_div_mod]
  omega

theorem opWord_toNat {op low : Nat} (ho : op < 256) (hl : low < 2 ^ 24) : (opWord op low).toNat = op * 2 ^ 24 + low := by
  rw [opWord, BitVec.toNat_ofNat]
  omega

/-- The word of an opcode and low 24 bits reads back as the two. -/
theorem fields_of_opWord {x : Word} {op low : Nat} (he : opWord op low = x) (ho : op < 256) (hl : low < 2 ^ 24) :
    bits x.toNat 24 8 = op ∧ bits x.toNat 0 24 = low := by
  rw [← he, opWord_toNat ho hl, bits_eq_div_mod, bits_eq_div_mod]
  omega

/-- A word is its opcode and its low 24 bits. -/
theorem opWord_eq {w : Word} {op low : Nat} (ho : bits w.toNat 24 8 = op) (hl : bits w.toNat 0 24 = low) : opWord op low = w := by
  apply BitVec.eq_of_toNat_eq
  have hw := w.isLt
  rw [bits_eq_div_mod] at ho hl
  rw [opWord_toNat (by omega) (by omega)]
  omega

/-! ### The formats of R80: what each decoder answers, by the low 24 bits -/

theorem bitSpaceOf_eq_some {c : Nat} {sp : BitSpace} : bitSpaceOf c = some sp ↔ c = bitSpaceCode sp := by
  constructor
  · unfold bitSpaceOf
    split <;> rintro ⟨⟩ <;> rfl
  · rintro rfl
    cases sp <;> rfl

theorem wordSpaceOf_eq_some {c : Nat} {sp : WordSpace} : wordSpaceOf c = some sp ↔ c = wordSpaceCode sp := by
  constructor
  · unfold wordSpaceOf
    split <;> rintro ⟨⟩ <;> rfl
  · rintro rfl
    cases sp <;> rfl

theorem condOf_eq_some {c : Nat} {q : Cond} : condOf c = some q ↔ c = condCode q := by
  constructor
  · unfold condOf
    split <;> rintro ⟨⟩ <;> rfl
  · rintro rfl
    cases q <;> rfl

theorem bitSpaceCode_lt (sp : BitSpace) : bitSpaceCode sp < 16 := by cases sp <;> decide

theorem wordSpaceCode_lt (sp : WordSpace) : wordSpaceCode sp < 16 := by cases sp <;> decide

theorem condCode_lt (q : Cond) : condCode q < 8 := by cases q <;> decide

theorem bitOpBits_lt (o : BitOp) : bitOpBits o < 2 ^ 24 := by
  have := bitSpaceCode_lt o.space
  have := o.index.isLt
  rw [bitOpBits]
  omega

theorem wordOpBits_lt (o : WordOp) : wordOpBits o < 15 * 2 ^ 20 + 2 ^ 16 := by
  have : wordSpaceCode o.space ≤ 15 := by cases o.space <;> decide
  have := o.index.isLt
  rw [wordOpBits]
  omega

variable {w : Nat} {i : LInstr}

theorem fmtN_eq_some {j : LInstr} : fmtN w j = some i ↔ j = i ∧ bits w 0 24 = 0 := by
  rw [fmtN, Option.ite_none_right_eq_some, Option.some.injEq, and_comm]

/-- A format that is one field of `k` bits with 0 above it (I, P, S, J). -/
theorem oneField_eq_some {k : Nat} (hk : k ≤ 24) {c : BitVec k → LInstr} :
    (if bits w k (24 - k) = 0 then some (c (BitVec.ofNat k (bits w 0 k))) else none) = some i ↔
      ∃ v, c v = i ∧ bits w 0 24 = v.toNat := by
  simp only [← field_iff hk, Option.ite_none_right_eq_some, Option.some.injEq]
  constructor
  · rintro ⟨hz, hc⟩
    exact ⟨_, hc, hz, rfl⟩
  · rintro ⟨v, hc, hz, rfl⟩
    exact ⟨hz, hc⟩

theorem fmtI_eq_some {c : BitVec 16 → LInstr} : fmtI w c = some i ↔ ∃ v, c v = i ∧ bits w 0 24 = v.toNat :=
  oneField_eq_some (k := 16) (by decide)

theorem fmtS_eq_some {c : BitVec 5 → LInstr} : fmtS w c = some i ↔ ∃ v, c v = i ∧ bits w 0 24 = v.toNat :=
  oneField_eq_some (k := 5) (by decide)

theorem fmtJ_eq_some {c : BitVec 17 → LInstr} : fmtJ w c = some i ↔ ∃ v, c v = i ∧ bits w 0 24 = v.toNat :=
  oneField_eq_some (k := 17) (by decide)

theorem fmtT_eq_some {top : Nat} {c : BitVec 13 → LInstr} :
    fmtT w top c = some i ↔ ∃ v : BitVec 13, c v = i ∧ v.toNat < top ∧ bits w 0 24 = v.toNat := by
  simp only [fmtT, ← field_iff (show 13 ≤ 24 by decide), Option.ite_none_right_eq_some, Option.some.injEq, Bool.and_eq_true,
    decide_eq_true_eq]
  constructor
  · rintro ⟨⟨hz, ht⟩, hc⟩
    exact ⟨_, hc, by rwa [BitVec.toNat_ofNat, Nat.mod_eq_of_lt (bits_lt w 0 13)], hz, rfl⟩
  · rintro ⟨v, hc, ht, hz, rfl⟩
    rw [BitVec.toNat_ofNat, Nat.mod_eq_of_lt (bits_lt w 0 13)] at ht
    exact ⟨⟨hz, ht⟩, hc⟩

theorem bitOpOf_eq_some {o : BitOp} : bitOpOf w = some o ↔ bitOpOk o = true ∧ bits w 0 24 = bitOpBits o := by
  have hf := operand_iff (x := w) (bitSpaceCode_lt o.space) (show 0 < 16 by decide) o.index
  simp only [Nat.zero_mul, Nat.add_zero] at hf
  rw [bitOpBits, ← hf, bitOpOk, decide_eq_true_eq, ← bitSpaceOf_eq_some, bitOpOf]
  obtain ⟨sp, ix⟩ := o
  cases hs : bitSpaceOf (bits w 20 4) with
  | none => simp
  | some sp' =>
    simp only [Option.ite_none_right_eq_some, Option.some.injEq, Bool.and_eq_true, decide_eq_true_eq, BitOp.mk.injEq]
    constructor
    · rintro ⟨⟨hz, hi⟩, rfl, rfl⟩
      exact ⟨by rwa [BitVec.toNat_ofNat, Nat.mod_eq_of_lt (bits_lt w 0 16)], rfl, hz, rfl⟩
    · rintro ⟨hi, rfl, hz, rfl⟩
      rw [BitVec.toNat_ofNat, Nat.mod_eq_of_lt (bits_lt w 0 16)] at hi
      exact ⟨⟨hz, hi⟩, rfl, rfl⟩

/-- The word operand of format B whose field COND is `q`. -/
theorem wordOpOf_eq_some {o : WordOp} {q : Nat} (hq : q < 16) :
    bits w 16 4 = q ∧ wordOpOf w = some o ↔ wordOpOk o = true ∧ bits w 0 24 = wordOpBits o + q * 2 ^ 16 := by
  have hf := operand_iff (x := w) (wordSpaceCode_lt o.space) hq o.index
  rw [wordOpBits, ← hf, wordOpOk, decide_eq_true_eq, ← wordSpaceOf_eq_some, wordOpOf]
  obtain ⟨sp, ix⟩ := o
  cases hs : wordSpaceOf (bits w 20 4) with
  | none => simp
  | some sp' =>
    simp only [Option.ite_none_right_eq_some, Option.some.injEq, WordOp.mk.injEq]
    constructor
    · rintro ⟨hz, hi, rfl, rfl⟩
      exact ⟨by rwa [BitVec.toNat_ofNat, Nat.mod_eq_of_lt (bits_lt w 0 16)], rfl, hz, rfl⟩
    · rintro ⟨hi, rfl, hz, rfl⟩
      rw [BitVec.toNat_ofNat, Nat.mod_eq_of_lt (bits_lt w 0 16)] at hi
      exact ⟨hz, hi, rfl, rfl⟩

theorem wordSrcOf_eq_some {o : WordOp} : wordSrcOf w = some o ↔ wordOpOk o = true ∧ bits w 0 24 = wordOpBits o := by
  rw [wordSrcOf, Option.ite_none_right_eq_some, wordOpOf_eq_some (by decide), Nat.zero_mul, Nat.add_zero]

theorem bitDstOf_eq_some {o : BitOp} : bitDstOf w = some o ↔ bitOpDst o = true ∧ bits w 0 24 = bitOpBits o := by
  rw [bitOpDst, Bool.and_eq_true, and_right_comm, ← bitOpOf_eq_some, bitDstOf]
  cases bitOpOf w with
  | none => simp
  | some o' =>
    simp only [Option.ite_none_right_eq_some, Option.some.injEq]
    constructor
    · rintro ⟨hs, rfl⟩
      exact ⟨rfl, hs⟩
    · rintro ⟨rfl, hs⟩
      exact ⟨hs, rfl⟩

theorem wordDstOf_eq_some {o : WordOp} : wordDstOf w = some o ↔ wordOpDst o = true ∧ bits w 0 24 = wordOpBits o := by
  rw [wordOpDst, Bool.and_eq_true, and_right_comm, ← wordSrcOf_eq_some, wordSrcOf, wordDstOf]
  cases wordOpOf w with
  | none => simp
  | some o' =>
    simp only [Option.ite_none_right_eq_some, Option.some.injEq, Bool.and_eq_true, decide_eq_true_eq]
    constructor
    · rintro ⟨⟨hz, hs⟩, rfl⟩
      exact ⟨⟨hz, rfl⟩, hs⟩
    · rintro ⟨⟨hz, rfl⟩, hs⟩
      exact ⟨⟨hz, hs⟩, rfl⟩

/-- EVT: two fields (R96). -/
theorem event_eq_some {c : BitVec 3 → BitVec 8 → LInstr} :
    (if bits w 23 1 = 0 && bits w 8 12 = 0 then some (c (BitVec.ofNat 3 (bits w 20 3)) (BitVec.ofNat 8 (bits w 0 8))) else none) = some i ↔
      ∃ sev num, c sev num = i ∧ bits w 0 24 = sev.toNat * 2 ^ 20 + num.toNat := by
  simp only [← event_iff, Option.ite_none_right_eq_some, Option.some.injEq, Bool.and_eq_true, decide_eq_true_eq]
  constructor
  · rintro ⟨hz, hc⟩
    exact ⟨_, _, hc, hz, rfl, rfl⟩
  · rintro ⟨sev, num, hc, hz, rfl, rfl⟩
    exact ⟨hz, hc⟩

/-- CMP: a condition and a word operand (R92). -/
theorem compare_eq_some {c : Cond → WordOp → LInstr} :
    (match condOf (bits w 16 4), wordOpOf w with
      | some q, some o => some (c q o)
      | _, _ => none) = some i ↔
      ∃ q o, c q o = i ∧ wordOpOk o = true ∧ bits w 0 24 = wordOpBits o + condCode q * 2 ^ 16 := by
  have key (q : Cond) (o : WordOp) : condOf (bits w 16 4) = some q ∧ wordOpOf w = some o ↔
      wordOpOk o = true ∧ bits w 0 24 = wordOpBits o + condCode q * 2 ^ 16 := by
    rw [condOf_eq_some]
    exact wordOpOf_eq_some (by have := condCode_lt q; omega)
  simp only [← key]
  cases condOf (bits w 16 4) <;> cases wordOpOf w <;> simp

/-! ### Every opcode -/

variable {x : Word} {op : Nat}

/-- The instruction `i` is admitted and `x` is its word. -/
def Spells (x : Word) (i : LInstr) : Prop := loomEncode i = x ∧ lInstrOk i = true

theorem spells_fmtN {j : LInstr} (he : loomEncode j = opWord op 0) (hk : lInstrOk j = true) (ho : bits x.toNat 24 8 = op)
    (h : fmtN x.toNat j = some i) : Spells x i := by
  obtain ⟨rfl, hl⟩ := fmtN_eq_some.mp h
  exact ⟨he.trans (opWord_eq ho hl), hk⟩

/-- What a format of one field decodes is spelt, where the instruction of every value of the field is admitted. -/
theorem spells_field {α : Type} {c : α → LInstr} {low : α → Nat} (he : ∀ v, loomEncode (c v) = opWord op (low v))
    (hk : ∀ v, lInstrOk (c v) = true) (ho : bits x.toNat 24 8 = op) (h : ∃ v, c v = i ∧ bits x.toNat 0 24 = low v) : Spells x i := by
  obtain ⟨v, rfl, hl⟩ := h
  exact ⟨(he v).trans (opWord_eq ho hl), hk v⟩

/-- What a format with an operand decodes is spelt, where the instruction of every operand in range is admitted. -/
theorem spells_operand {α : Type} {c : α → LInstr} {low : α → Nat} {good : α → Prop} (he : ∀ v, loomEncode (c v) = opWord op (low v))
    (hk : ∀ v, good v → lInstrOk (c v) = true) (ho : bits x.toNat 24 8 = op)
    (h : ∃ v, c v = i ∧ good v ∧ bits x.toNat 0 24 = low v) : Spells x i := by
  obtain ⟨v, rfl, hv, hl⟩ := h
  exact ⟨(he v).trans (opWord_eq ho hl), hk v hv⟩

theorem map_eq_some_iff_of {α : Type} {d : Option α} {c : α → LInstr} {P : α → Prop} (hd : ∀ o, d = some o ↔ P o) :
    d.map c = some i ↔ ∃ o, c o = i ∧ P o := by
  simp only [Option.map_eq_some_iff, hd, and_comm]

theorem bitOp_eq_some {c : BitOp → LInstr} :
    (bitOpOf w).map c = some i ↔ ∃ o, c o = i ∧ bitOpOk o = true ∧ bits w 0 24 = bitOpBits o :=
  map_eq_some_iff_of fun _ => bitOpOf_eq_some

theorem bitDst_eq_some {c : BitOp → LInstr} :
    (bitDstOf w).map c = some i ↔ ∃ o, c o = i ∧ bitOpDst o = true ∧ bits w 0 24 = bitOpBits o :=
  map_eq_some_iff_of fun _ => bitDstOf_eq_some

theorem wordSrc_eq_some {c : WordOp → LInstr} :
    (wordSrcOf w).map c = some i ↔ ∃ o, c o = i ∧ wordOpOk o = true ∧ bits w 0 24 = wordOpBits o :=
  map_eq_some_iff_of fun _ => wordSrcOf_eq_some

theorem wordDst_eq_some {c : WordOp → LInstr} :
    (wordDstOf w).map c = some i ↔ ∃ o, c o = i ∧ wordOpDst o = true ∧ bits w 0 24 = wordOpBits o :=
  map_eq_some_iff_of fun _ => wordDstOf_eq_some

/-- The decoder, opcode by opcode in the order of the tables of R84 to R96. -/
theorem spells_of_loomDecode (h : loomDecode x = some i) : Spells x i := by
  unfold loomDecode at h
  dsimp only at h
  split at h
  -- NOP, PICK, END
  next ho => exact spells_fmtN rfl rfl ho h
  next ho => exact spells_field (fun _ => rfl) (fun _ => rfl) ho (fmtI_eq_some.mp h)
  next ho => exact spells_fmtN rfl rfl ho h
  -- LD to XORN
  iterate 8 next ho => exact spells_operand (fun _ => rfl) (fun _ hk => hk) ho (bitOp_eq_some.mp h)
  -- NOT to BPOP
  iterate 9 next ho => exact spells_fmtN rfl rfl ho h
  -- ST to RSTB
  iterate 4 next ho => exact spells_operand (fun _ => rfl) (fun _ hk => hk) ho (bitDst_eq_some.mp h)
  -- PEDGE, NEDGE
  iterate 2 next ho => exact spells_operand (fun _ => rfl) (fun _ _ => rfl) ho (fmtT_eq_some.mp h)
  -- timers and counters
  iterate 8 next ho => exact spells_operand (fun _ => rfl) (fun _ hk => by exact decide_eq_true hk) ho (fmtT_eq_some.mp h)
  -- LDW, LDI, LDIH, STW, STWC
  next ho => exact spells_operand (fun _ => rfl) (fun _ hk => hk) ho (wordSrc_eq_some.mp h)
  iterate 2 next ho => exact spells_field (fun _ => rfl) (fun _ => rfl) ho (fmtI_eq_some.mp h)
  iterate 2 next ho => exact spells_operand (fun _ => rfl) (fun _ hk => hk) ho (wordDst_eq_some.mp h)
  -- ADD to XORW
  iterate 8 next ho => exact spells_operand (fun _ => rfl) (fun _ hk => hk) ho (wordSrc_eq_some.mp h)
  -- SHL, SHR, ASR
  iterate 3 next ho => exact spells_field (fun _ => rfl) (fun _ => rfl) ho (fmtS_eq_some.mp h)
  -- CMP
  next ho =>
    obtain ⟨q, o, rfl, hk, hl⟩ := compare_eq_some.mp h
    exact ⟨opWord_eq ho hl, hk⟩
  -- MIN, MAX, GETB, PUTB
  iterate 2 next ho => exact spells_operand (fun _ => rfl) (fun _ hk => hk) ho (wordSrc_eq_some.mp h)
  iterate 2 next ho => exact spells_field (fun _ => rfl) (fun _ => rfl) ho (fmtS_eq_some.mp h)
  -- JMP to CALLC, then RET, MCS, MCE
  iterate 5 next ho => exact spells_field (fun _ => rfl) (fun _ => rfl) ho (fmtJ_eq_some.mp h)
  iterate 3 next ho => exact spells_fmtN rfl rfl ho h
  -- EVT, CANTX
  next ho =>
    obtain ⟨sev, num, rfl, hl⟩ := event_eq_some.mp h
    exact ⟨opWord_eq ho hl, rfl⟩
  next ho => exact spells_field (fun _ => rfl) (fun _ => rfl) ho ((oneField_eq_some (k := 8) (by decide)).mp h)
  -- no other opcode is defined
  next => cases h

theorem field_lt {k : Nat} (v : BitVec k) (hk : k ≤ 20 := by decide) : v.toNat < 2 ^ 24 :=
  v.isLt.trans_le (Nat.pow_le_pow_right (by decide) (hk.trans (by decide)))

theorem wordOpBits_lt_low (o : WordOp) : wordOpBits o < 2 ^ 24 := (wordOpBits_lt o).trans (by decide)

/-- The word of an admitted instruction is decoded to it, format by format. -/
theorem loomDecode_of_spells (h : Spells x i) : loomDecode x = some i := by
  obtain ⟨he, hk⟩ := h
  unfold loomDecode
  dsimp only
  cases i with
  | nop | fin | not | set1 | set0 | andp | orp | popb | bpsh | brd | bpop | mcs | mce | ret =>
    obtain ⟨ho, hl⟩ := fields_of_opWord he (by decide) (by decide)
    rw [ho]
    exact fmtN_eq_some.mpr ⟨rfl, hl⟩
  | pick v | ldi v | ldih v =>
    obtain ⟨ho, hl⟩ := fields_of_opWord he (by decide) (field_lt v)
    rw [ho]
    exact fmtI_eq_some.mpr ⟨v, rfl, hl⟩
  | ld o | ldn o | and o | andn o | or o | orn o | xor o | xorn o =>
    obtain ⟨ho, hl⟩ := fields_of_opWord he (by decide) (bitOpBits_lt o)
    rw [ho]
    exact bitOp_eq_some.mpr ⟨o, rfl, hk, hl⟩
  | st o | stn o | setb o | rstb o =>
    obtain ⟨ho, hl⟩ := fields_of_opWord he (by decide) (bitOpBits_lt o)
    rw [ho]
    exact bitDst_eq_some.mpr ⟨o, rfl, hk, hl⟩
  | pedge v | nedge v =>
    obtain ⟨ho, hl⟩ := fields_of_opWord he (by decide) (field_lt v)
    rw [ho]
    exact fmtT_eq_some.mpr ⟨v, rfl, v.isLt, hl⟩
  | ton v | tof v | tp v | trst v | ctu v | ctd v | crst v | cld v =>
    obtain ⟨ho, hl⟩ := fields_of_opWord he (by decide) (field_lt v)
    rw [ho]
    exact fmtT_eq_some.mpr ⟨v, rfl, of_decide_eq_true hk, hl⟩
  | ldw o | add o | sub o | mul o | div o | mod o | andw o | orw o | xorw o | min o | max o =>
    obtain ⟨ho, hl⟩ := fields_of_opWord he (by decide) (wordOpBits_lt_low o)
    rw [ho]
    exact wordSrc_eq_some.mpr ⟨o, rfl, hk, hl⟩
  | stw o | stwc o =>
    obtain ⟨ho, hl⟩ := fields_of_opWord he (by decide) (wordOpBits_lt_low o)
    rw [ho]
    exact wordDst_eq_some.mpr ⟨o, rfl, hk, hl⟩
  | shl v | shr v | asr v | getb v | putb v =>
    obtain ⟨ho, hl⟩ := fields_of_opWord he (by decide) (field_lt v)
    rw [ho]
    exact fmtS_eq_some.mpr ⟨v, rfl, hl⟩
  | cmp q o =>
    obtain ⟨ho, hl⟩ := fields_of_opWord he (by decide) (by have := wordOpBits_lt o; have := condCode_lt q; omega)
    rw [ho]
    exact compare_eq_some.mpr ⟨q, o, rfl, hk, hl⟩
  | jmp v | jc v | jcn v | call v | callc v =>
    obtain ⟨ho, hl⟩ := fields_of_opWord he (by decide) (field_lt v)
    rw [ho]
    exact fmtJ_eq_some.mpr ⟨v, rfl, hl⟩
  | evt sev num =>
    obtain ⟨ho, hl⟩ := fields_of_opWord he (by decide) (by omega)
    rw [ho]
    exact event_eq_some.mpr ⟨sev, num, rfl, hl⟩
  | cantx v =>
    obtain ⟨ho, hl⟩ := fields_of_opWord he (by decide) (field_lt v)
    rw [ho]
    exact (oneField_eq_some (k := 8) (by decide)).mpr ⟨v, rfl, hl⟩

/-- Settles O6: each format is one field, one operand or nothing in the low 24 bits, which its decoder reads back and its
encoder writes; a word is its opcode and those bits. -/
theorem loomDecodeEncode : Obligations.LoomDecodeEncode :=
  ⟨fun _ hk => loomDecode_of_spells ⟨rfl, hk⟩, fun _ _ => spells_of_loomDecode⟩

end Sys2Proof.Architecture
end

section
/-! SUPPORT. What stores, arithmetic and timers of the Loom engines compute. -/

namespace Sys2Proof.Architecture

open Machine Laws

/-! ### Stores -/

section Stores

variable {r : LRun}

theorem word_of_bit (v : Bool) : BitVec.ofNat 32 (b2n v) = if v then (1 : Word) else 0 := by cases v <;> rfl

theorem storeBit_warp {o : BitOp} (v : Bool) (h : o.space = .pb) : storeBit r o v =
    storeEff r (.work o.index.toNat (if v then 1 else 0))
      (if mapGetD 0 r.data.work o.index.toNat = (if v then 1 else 0) then [] else [.warp o.index.toNat (if v then 1 else 0)])
      [.work o.index.toNat] := by
  simp only [storeBit, h, if_true, word_of_bit]

theorem storeBit_marker {o : BitOp} (v : Bool) (h : o.space = .mb) : storeBit r o v = storeEff r (.mb o.index.toNat v) [] [] := by
  simp [storeBit, h]

theorem storeWord_warp {o : WordOp} (v : Word) (h : o.space = .pw) : storeWord r o v =
    storeEff r (.work o.index.toNat v) (if mapGetD 0 r.data.work o.index.toNat = v then [] else [.warp o.index.toNat v])
      [.work o.index.toNat] := by
  simp only [storeWord, h, if_true]

theorem storeWord_marker {o : WordOp} (v : Word) (h : o.space = .mw) : storeWord r o v = storeEff r (.mw o.index.toNat v) [] [] := by
  simp [storeWord, h]

/-- A store that makes no journal entry leaves the journal. -/
theorem storeEff_run_nil (w : LWrite) (l : List Loc) : (storeEff r w [] l).run = { applyWrite r w with jrn := r.jrn } := by
  rw [storeEff, List.append_nil]

end Stores

/-- Settles O27: a store by the space of its operand; a working value after it by the rule of the sparse maps. -/
theorem loomStoreEffect : Obligations.LoomStoreEffect := by
  refine ⟨?warpBit, ?markerBit, ?warpWord, ?markerWord, fun m i j v hm => mapGetD_mapPut 0 m i j v hm⟩
  case warpBit =>
    intro r o v h
    rw [storeBit_warp v h]
    rfl
  case markerBit =>
    intro r o v h
    rw [storeBit_marker v h, storeEff_run_nil]
    rfl
  case warpWord =>
    intro r o v h
    rw [storeWord_warp v h]
    rfl
  case markerWord =>
    intro r o v h
    rw [storeWord_marker v h, storeEff_run_nil]
    rfl

/-! ### Arithmetic -/

theorem saturate_arith (x : Int) : (saturate x).val.toInt = max (-2147483648) (min 2147483647 x) ∧ (saturate x).divz = false ∧
    ((saturate x).ovf = true ↔ ¬ (-2147483648 ≤ x ∧ x ≤ 2147483647)) :=
  ⟨(saturate_spec x).1, rfl, (saturate_spec x).2⟩

/-- The one quotient beyond the range (R92). -/
theorem divW_overflow {a b : Word} (ha : a.toInt = -2147483648) (hb : b.toInt = -1) :
    divW a b = { val := 2147483647, ovf := true, divz := false } := by
  have hne : b ≠ 0 := by
    rintro rfl
    exact absurd hb (by decide)
  rw [divW, if_neg hne, ha, hb]
  decide

/-- An arithmetic instruction never traps, whatever its operation and operands (R92). -/
theorem lArith_trap (c : LCtx) (r : LRun) (o : WordOp) (f : Word → Word → Arith) : (lArith c r o f).trap = none := rfl

theorem arithmetic_trap (c : LCtx) (r : LRun) (o : WordOp) (i : LInstr) (hi : i ∈ [.add o, .sub o, .mul o, .div o, .mod o]) :
    (lMeaning c r i).trap = none := by
  simp only [List.mem_cons, List.not_mem_nil, or_false] at hi
  rcases hi with rfl | rfl | rfl | rfl | rfl
  · exact lArith_trap c r o addW
  · exact lArith_trap c r o subW
  · exact lArith_trap c r o mulW
  · exact lArith_trap c r o divW
  · exact lArith_trap c r o modW

/-- A CMP word whose field COND names no condition spells no instruction (R99). -/
theorem loomDecode_cond_undefined (w : Word) (ho : bits w.toNat 24 8 = 0x50) (hq : 8 ≤ bits w.toNat 16 4) : loomDecode w = none := by
  have hc : condOf (bits w.toNat 16 4) = none := by
    rw [Option.eq_none_iff_forall_ne_some]
    intro q h
    have := condCode_lt q
    rw [condOf_eq_some] at h
    omega
  unfold loomDecode
  dsimp only
  rw [ho, hc]
  rfl

/-- Settles O28: the saturated operations by their exact result, the quotient and the remainder by their specs. -/
theorem loomArithmetic : Obligations.LoomArithmetic :=
  ⟨fun _ _ => saturate_arith _, fun _ _ => saturate_arith _, fun _ _ => saturate_arith _, divW_spec, fun _ _ => divW_overflow,
    modW_spec, fun _ => ⟨rfl, rfl⟩, arithmetic_trap, fun _ _ => ⟨rfl, rfl, rfl, rfl, rfl, rfl, rfl, rfl⟩, rfl,
    loomDecode_cond_undefined⟩

/-! ### Timers -/

section Timers

variable {ts pt : Word} {t : Timer} {b : Bool}

/-- A RUNNING timer whose elapsed time has not reached its preset reads as it is (R86). -/
theorem timerNow_below {start : Word} (hlt : (ts - start).toNat < pt.toNat) :
    timerNow ts { st := .running, start := start, pt := pt, mem := b } = { st := .running, start := start, pt := pt, mem := b } := by
  simp only [timerNow, timerSt, decide_true, Bool.true_and, decide_eq_true_eq, if_neg (Nat.not_le.mpr hlt)]

/-- A RUNNING timer whose elapsed time has reached its preset reads as DONE (R86). -/
theorem timerNow_reached {start : Word} (hle : pt.toNat ≤ (ts - start).toNat) :
    timerNow ts { st := .running, start := start, pt := pt, mem := b } = { st := .done, start := start, pt := pt, mem := b } := by
  simp only [timerNow, timerSt, decide_true, Bool.true_and, decide_eq_true_eq, if_pos hle]

theorem tonStep_below (hr : t.st = .running) (hlt : (ts - t.start).toNat < pt.toNat) :
    tonStep ts pt true t = ({ t with pt := pt, mem := true }, false) := by
  simp only [tonStep, hr, if_true, timerNow_below hlt, Nat.not_le.mpr hlt, decide_false]

theorem tonStep_reached (hr : t.st = .running) (hle : pt.toNat ≤ (ts - t.start).toNat) :
    tonStep ts pt true t = ({ t with st := .done, pt := pt, mem := true }, true) := by
  simp only [tonStep, hr, if_true, timerNow_reached hle, hle, decide_true]

theorem tonStep_done (hd : t.st = .done) : tonStep ts pt true t = ({ t with pt := pt, mem := true }, true) := by
  simp [tonStep, hd]

theorem tofStep_start (hi : t.st = .idle) (hm : t.mem = true) : tofStep ts pt false t =
    ({ st := if pt = 0 then .done else .running, start := ts, pt := pt, mem := false }, decide (pt ≠ 0)) := by
  simp [tofStep, hi, hm, timerStart_eq]

theorem tofStep_idle (hi : t.st = .idle) (hm : t.mem = false) : tofStep ts pt false t = (t, false) := by
  simp [tofStep, hi, hm]

theorem tofStep_below (hr : t.st = .running) (hlt : (ts - t.start).toNat < pt.toNat) :
    tofStep ts pt false t = ({ t with pt := pt, mem := false }, true) := by
  simp only [tofStep, hr, Bool.false_eq_true, if_false, timerNow_below hlt, hlt, decide_true]

theorem tofStep_reached (hr : t.st = .running) (hle : pt.toNat ≤ (ts - t.start).toNat) :
    tofStep ts pt false t = ({ t with st := .done, pt := pt, mem := false }, false) := by
  simp only [tofStep, hr, Bool.false_eq_true, if_false, timerNow_reached hle, Nat.not_lt.mpr hle, decide_false]

theorem tofStep_done (hd : t.st = .done) : tofStep ts pt false t = ({ t with mem := false }, false) := by
  simp [tofStep, hd]

theorem tpStep_start (hi : t.st = .idle) (hm : t.mem = false) : tpStep ts pt true t =
    ({ st := if pt = 0 then .done else .running, start := ts, pt := pt, mem := true }, decide (pt ≠ 0)) := by
  simp [tpStep, hi, hm, timerStart_eq]

theorem tpStep_idle_held (hi : t.st = .idle) (hm : t.mem = true) : tpStep ts pt true t = (t, false) := by
  obtain ⟨st, start, p, m⟩ := t
  obtain rfl : st = .idle := hi
  obtain rfl : m = true := hm
  rfl

theorem tpStep_idle_released (hi : t.st = .idle) : tpStep ts pt false t = ({ t with mem := false }, false) := by
  simp [tpStep, hi]

/-- A running TP ignores IN and takes its preset from WA (assumption log 17). -/
theorem tpStep_below (hr : t.st = .running) (hlt : (ts - t.start).toNat < pt.toNat) :
    tpStep ts pt b t = ({ t with pt := pt, mem := b }, true) := by
  simp only [tpStep, hr, timerNow_below hlt, hlt, decide_true]

theorem tpStep_reached (hr : t.st = .running) (hle : pt.toNat ≤ (ts - t.start).toNat) :
    tpStep ts pt b t = ({ t with st := .done, pt := pt, mem := b }, false) := by
  simp only [tpStep, hr, timerNow_reached hle, Nat.not_lt.mpr hle, decide_false]

theorem tpStep_done (hd : t.st = .done) :
    tpStep ts pt true t = ({ t with mem := true }, false) ∧ tpStep ts pt false t = ({ t with st := .idle, mem := false }, false) := by
  simp [tpStep, hd]

theorem timerSt_eq_done : timerSt ts t = .done ↔ t.st = .done ∨ (t.st = .running ∧ t.pt.toNat ≤ (ts - t.start).toNat) := by
  unfold timerSt
  cases t.st <;> simp

end Timers

/-- Settles O29: the rows of TON, TOF and TP by the timer's state, and what ET and TQ read. -/
theorem timerTable : Obligations.TimerTable := by
  refine ⟨fun ts pt t => tonStep_start ts pt t, fun _ _ _ => tonStep_below, fun _ _ _ => tonStep_reached, fun _ _ _ => tonStep_done,
    fun _ _ _ => rfl, fun _ _ _ => rfl, fun _ _ _ => tofStep_start, fun _ _ _ => tofStep_idle, fun _ _ _ => tofStep_below,
    fun _ _ _ => tofStep_done, fun _ _ _ => tpStep_start, fun _ _ _ => tpStep_idle_held, fun _ _ _ _ => tpStep_below,
    fun _ _ _ _ => tpStep_reached, fun _ _ _ => tofStep_reached, fun _ _ _ => tpStep_done, fun _ _ _ => tpStep_idle_released,
    fun _ _ => rfl, fun _ _ => timerSt_eq_done, fun _ _ => ⟨rfl, rfl, rfl, rfl⟩⟩

end Sys2Proof.Architecture
end

section
/-! SUPPORT. The instructions of a Loom engine in settled mode: what each leaves of the scan, and what traps. -/

namespace Sys2Proof.Architecture

open Machine Laws

/-! ### How a settled instruction ends -/

section Ends

variable {n : Fin 8} {i : LInstr} {s : State} {x : LEff}

/-- The effect of instruction `i` on the scan that engine `n` settles. -/
abbrev effectAt (n : Fin 8) (i : LInstr) (s : State) : LEff := lMeaning (loomCtx n (vget s.loom n)) (stepped n s) i

/-- An effect that neither traps nor ends the scan nor enters anything in the journal, with its next word inside the program memory. -/
def Quiet (x : LEff) : Prop := x.trap = none ∧ x.fin = false ∧ x.jrn = [] ∧ x.run.pc < 131072

theorem stepped_pc_lt (h : settledAt n i s) : (stepped n s).pc < 131072 := Nat.succ_lt_succ h.2.2

theorem target_lt (t : BitVec 17) : t.toNat < 131072 := t.isLt

theorem next_of_quiet (h : settledAt n i s) (hx : effectAt n i s = x) (hq : Quiet x) :
    (Host.Outcome.next (loomInstr n i s) : Res) = .next (loomNow n x.run s) := by
  obtain ⟨ht, hf, hj, hp⟩ := hq
  exact congrArg Host.Outcome.next (settled_instr h hx ht hf hp (.inl hj))

/-- An effect that is only a new state goes on at that state. -/
theorem next_of_effRun {r : LRun} (h : settledAt n i s) (hx : effectAt n i s = effRun r) (hp : r.pc < 131072) :
    (Host.Outcome.next (loomInstr n i s) : Res) = .next (loomNow n r s) :=
  next_of_quiet h hx ⟨rfl, rfl, rfl, hp⟩

theorem next_of_plain {k : Nat} (h : settledAt n i s) (hj : jRoom n k s) (hx : effectAt n i s = x) (hq : Plain k (stepped n s) x) :
    (Host.Outcome.next (loomInstr n i s) : Res) = .next (loomNow n x.run s) :=
  congrArg Host.Outcome.next (settled_plain h hj hx hq)

theorem next_of_trap {k : Nat} (h : settledAt n i s) (hx : effectAt n i s = effTrap (stepped n s) k) :
    (Host.Outcome.next (loomInstr n i s) : Res) =
      .next (trapTaken n (vget s.loom n).run.pick { cause := k, pc := (vget s.loom n).run.pc } s) :=
  congrArg Host.Outcome.next (settled_trap h hx)

/-- The end of a scan begins its commit (R109). -/
theorem loomInstr_fin (h : settledAt n i s) (hx : effectAt n i s = { run := stepped n s, fin := true }) :
    loomInstr n i s = commitBegin n (stepped n s) s := by
  obtain ⟨hr, hm, -⟩ := h
  have e : lExec (loomCtx n (vget s.loom n)) (vget s.loom n).run i = { run := stepped n s, fin := true } :=
    (lExec_run fun _ hf => absurd ((congrArg LEff.fin hx).symm.trans hf) (by simp)).trans hx
  simp [loomInstr, settledStep, hr, hm, e]

/-- Execution that passes word 131,071 traps (R81, R100). -/
theorem loomInstr_nop_past (hr : loomRuns s n .nop = true) (hm : (vget s.loom n).mode = .settled)
    (hp : 131071 ≤ (vget s.loom n).run.pc) :
    loomInstr n .nop s = trapTaken n (vget s.loom n).run.pick { cause := 0x0A, pc := (vget s.loom n).run.pc } s := by
  have e : lExec (loomCtx n (vget s.loom n)) (vget s.loom n).run .nop = { run := stepped n s, trap := some 0x0A } := by
    simp [lExec, lMeaning, effRun, hp]
  simp [loomInstr, settledStep, hr, hm, e]

end Ends

/-! ### Bit logic (R84) -/

section BitLogic

variable {n : Fin 8} {i : LInstr} {s : State}

/-- The operand reads the same before and after the PC goes on. -/
theorem bitVal_stepped (n : Fin 8) (o : BitOp) (s : State) :
    bitVal (loomCtx n (vget s.loom n)) (stepped n s) o = bitAt n o s := by
  obtain ⟨sp, ix⟩ := o
  cases sp <;> rfl

theorem next_of_lBit {o : BitOp} {f : Bool → Bool → Bool} (h : settledAt n i s)
    (hx : effectAt n i s = lBit (loomCtx n (vget s.loom n)) (stepped n s) o f) :
    (Host.Outcome.next (loomInstr n i s) : Res) =
      .next (loomNow n { stepped n s with ba := f (vget s.loom n).run.ba (bitAt n o s) } s) := by
  rw [← bitVal_stepped]
  exact next_of_quiet h hx ⟨rfl, rfl, rfl, stepped_pc_lt h⟩

end BitLogic

/-- Settles O22: an instruction with an operand combines BA with it, one without sets BA. -/
theorem loomBitLogic : Obligations.LoomBitLogic :=
  ⟨fun _ _ _ h => next_of_lBit (f := fun _ x => x) h rfl,
    fun _ _ _ h => next_of_lBit (f := fun _ x => !x) h rfl,
    fun _ _ _ h => next_of_lBit (f := fun a x => a && x) h rfl,
    fun _ _ _ h => next_of_lBit (f := fun a x => a && !x) h rfl,
    fun _ _ _ h => next_of_lBit (f := fun a x => a || x) h rfl,
    fun _ _ _ h => next_of_lBit (f := fun a x => a || !x) h rfl,
    fun _ _ _ h => next_of_lBit (f := fun a x => a != x) h rfl,
    fun _ _ _ h => next_of_lBit (f := fun a x => a != !x) h rfl,
    fun _ _ h => next_of_effRun h rfl (stepped_pc_lt h),
    fun _ _ h => next_of_effRun h rfl (stepped_pc_lt h),
    fun _ _ h => next_of_effRun h rfl (stepped_pc_lt h)⟩

/-! ### The branch stack (R83), master control (R93), jumps and calls (R94) -/

section Stacks

variable {r : LRun}

theorem lPick_empty (no : Nat) (h : r.bst = []) : lPick r no = effRun { r with ba := true, wa := 0, pick := no } :=
  if_neg (not_not.mpr h)

theorem lPick_open (no : Nat) (h : r.bst ≠ []) : lPick r no = effTrap r 0x04 := if_pos h

theorem lEnd_empty (hb : r.bst = []) (hc : r.cst = []) (hm : r.mcst = []) : lEnd r = { run := r, fin := true } := by
  simp [lEnd, hb, hc, hm]

theorem lEnd_branches (h : r.bst ≠ []) : lEnd r = effTrap r 0x04 := if_pos h

theorem lEnd_calls (hb : r.bst = []) (h : r.cst ≠ [] ∨ r.mcst ≠ []) : lEnd r = effTrap r 0x09 := by
  rw [lEnd, if_neg (not_not.mpr hb), if_pos (by simpa using h)]

theorem lPush_room (k : BKind) (ba : Bool) (h : r.bst.length < 32) :
    lPush r k ba = effRun { r with bst := (r.ba, k) :: r.bst, ba := ba } :=
  if_neg (Nat.not_le.mpr h)

theorem lPush_full (k : BKind) (ba : Bool) (h : 32 ≤ r.bst.length) : lPush r k ba = effTrap r 0x01 := if_pos h

theorem lPopb_and {v : Bool} {l : List (Bool × BKind)} (h : r.bst = (v, .and) :: l) :
    lPopb r = effRun { r with bst := l, ba := v && r.ba } := by
  simp only [lPopb, h]

theorem lPopb_or {v : Bool} {l : List (Bool × BKind)} (h : r.bst = (v, .or) :: l) :
    lPopb r = effRun { r with bst := l, ba := v || r.ba } := by
  simp only [lPopb, h]

theorem lPopb_keep {v : Bool} {l : List (Bool × BKind)} (h : r.bst = (v, .keep) :: l) : lPopb r = effTrap r 0x03 := by
  simp only [lPopb, h]

theorem lPopb_empty (h : r.bst = []) : lPopb r = effTrap r 0x02 := by
  simp only [lPopb, h]

theorem lKeep_keep {v : Bool} {l : List (Bool × BKind)} (pop : Bool) (h : r.bst = (v, .keep) :: l) :
    lKeep r pop = effRun { r with bst := if pop then l else r.bst, ba := v } := by
  simp only [lKeep, h]

theorem lKeep_empty (pop : Bool) (h : r.bst = []) : lKeep r pop = effTrap r 0x02 := by
  simp only [lKeep, h]

/-- A read of the branch stack traps on an entry of another kind. -/
theorem lKeep_wrong {v : Bool} {k : BKind} {l : List (Bool × BKind)} (pop : Bool) (h : r.bst = (v, k) :: l) (hk : k ≠ .keep) :
    lKeep r pop = effTrap r 0x03 := by
  cases k with
  | keep => exact absurd rfl hk
  | and | or => simp only [lKeep, h]

theorem lMcs_room (h : r.mcst.length < 8) : lMcs r = effRun { r with mcst := r.mc :: r.mcst, mc := r.mc && r.ba } :=
  if_neg (Nat.not_le.mpr h)

theorem lMcs_full (h : 8 ≤ r.mcst.length) : lMcs r = effTrap r 0x07 := if_pos h

theorem lMce_top {m : Bool} {l : List Bool} (h : r.mcst = m :: l) : lMce r = effRun { r with mcst := l, mc := m } := by
  simp only [lMce, h]

theorem lMce_empty (h : r.mcst = []) : lMce r = effTrap r 0x08 := by
  simp only [lMce, h]

theorem lJump_taken {c : Bool} (t : Nat) (h : c = true) : lJump r c t = effRun { r with pc := t } := by
  simp only [lJump, h, if_true]

theorem lJump_not {c : Bool} (t : Nat) (h : c = false) : lJump r c t = effRun r := by
  simp only [lJump, h, Bool.false_eq_true, if_false]

theorem lCall_room {c : Bool} (t : Nat) (hc : c = true) (h : r.cst.length < 8) :
    lCall r c t = effRun { r with cst := r.pc :: r.cst, pc := t } := by
  rw [lCall, if_pos hc, if_neg (Nat.not_le.mpr h)]

theorem lCall_full {c : Bool} (t : Nat) (hc : c = true) (h : 8 ≤ r.cst.length) : lCall r c t = effTrap r 0x05 := by
  rw [lCall, if_pos hc, if_pos h]

theorem lCall_not {c : Bool} (t : Nat) (h : c = false) : lCall r c t = effRun r := by
  simp only [lCall, h, Bool.false_eq_true, if_false]

theorem lRet_top {a : Nat} {l : List Nat} (h : r.cst = a :: l) : lRet r = effRun { r with cst := l, pc := a } := by
  simp only [lRet, h]

theorem lRet_empty (h : r.cst = []) : lRet r = effTrap r 0x06 := by
  simp only [lRet, h]

end Stacks

/-- Settles O23: each instruction by what its stack holds; a stack that is full, empty or of the wrong kind traps. -/
theorem loomStacksAndControl : Obligations.LoomStacksAndControl := by
  refine ⟨
    -- NOP, PICK, END
    fun _ _ h => next_of_effRun h rfl (stepped_pc_lt h),
    fun _ p _ h hb => next_of_effRun h (lPick_empty p.toNat hb) (stepped_pc_lt h),
    fun _ _ h hb hc hm => congrArg Host.Outcome.next (loomInstr_fin h (lEnd_empty hb hc hm)),
    -- ANDP, ORP, BPSH
    fun _ _ h hl => next_of_effRun h (lPush_room .and true hl) (stepped_pc_lt h),
    fun _ _ h hl => next_of_effRun h (lPush_room .or true hl) (stepped_pc_lt h),
    fun _ _ h hl => next_of_effRun h (lPush_room .keep _ hl) (stepped_pc_lt h),
    -- POPB, BRD, BPOP
    fun _ _ _ _ h hb => next_of_effRun h (lPopb_and hb) (stepped_pc_lt h),
    fun _ _ _ _ h hb => next_of_effRun h (lPopb_or hb) (stepped_pc_lt h),
    fun _ _ _ _ h hb => next_of_effRun h (lKeep_keep false hb) (stepped_pc_lt h),
    fun _ _ _ _ h hb => next_of_effRun h (lKeep_keep true hb) (stepped_pc_lt h),
    -- MCS, MCE
    fun _ _ h hl => next_of_effRun h (lMcs_room hl) (stepped_pc_lt h),
    fun _ _ _ _ h hm => next_of_effRun h (lMce_top hm) (stepped_pc_lt h),
    -- JMP, JC, JCN
    fun _ t _ h => next_of_effRun h (lJump_taken t.toNat rfl) (target_lt t),
    fun _ t _ h hb => next_of_effRun h (lJump_taken t.toNat hb) (target_lt t),
    fun _ t _ h hb => next_of_effRun h (lJump_not t.toNat hb) (stepped_pc_lt h),
    fun _ t _ h hb => next_of_effRun h (lJump_taken t.toNat (congrArg not hb)) (target_lt t),
    fun _ t _ h hb => next_of_effRun h (lJump_not t.toNat (congrArg not hb)) (stepped_pc_lt h),
    -- CALL, CALLC, RET
    fun _ t _ h hl => next_of_effRun h (lCall_room t.toNat rfl hl) (target_lt t),
    fun _ t _ h hb hl => next_of_effRun h (lCall_room t.toNat hb hl) (target_lt t),
    fun _ t _ h hb => next_of_effRun h (lCall_not t.toNat hb) (stepped_pc_lt h),
    fun _ _ _ _ h hc => next_of_effRun h (lRet_top hc.1) hc.2,
    -- the causes 1 to 10
    fun _ _ h hl => next_of_trap h (lPush_full .and true hl),
    fun _ _ h hl => next_of_trap h (lPush_full .or true hl),
    fun _ _ h hl => next_of_trap h (lPush_full .keep _ hl),
    fun _ _ h hb => next_of_trap h (lPopb_empty hb),
    fun _ _ h hb => next_of_trap h (lKeep_empty false hb),
    fun _ _ h hb => next_of_trap h (lKeep_empty true hb),
    fun _ _ _ _ h hb => next_of_trap h (lPopb_keep hb),
    fun _ _ _ _ _ h hb hk => next_of_trap h (lKeep_wrong false hb hk),
    fun _ _ _ _ _ h hb hk => next_of_trap h (lKeep_wrong true hb hk),
    fun _ p _ h hb => next_of_trap h (lPick_open p.toNat hb),
    fun _ _ h hb => next_of_trap h (lEnd_branches hb),
    fun _ t _ h hl => next_of_trap h (lCall_full t.toNat rfl hl),
    fun _ t _ h hb hl => next_of_trap h (lCall_full t.toNat hb hl),
    fun _ _ h hc => next_of_trap h (lRet_empty hc),
    fun _ _ h hl => next_of_trap h (lMcs_full hl),
    fun _ _ h hm => next_of_trap h (lMce_empty hm),
    fun _ _ h hb hc => next_of_trap h (lEnd_calls hb hc),
    fun _ _ hr hm hp => congrArg Host.Outcome.next (loomInstr_nop_past hr hm hp)⟩

/-! ### Stores and edges (R85), events and CAN requests (R96, R97) -/

section Effects

variable {r : LRun} {c : LCtx}

theorem lSet_held (o : BitOp) (v : Bool) (h : (r.ba && r.mc) = true) : lSet r o v = storeBit r o v := if_pos h

theorem lSet_not (o : BitOp) (v : Bool) (h : (r.ba && r.mc) = false) : lSet r o v = effRun r := by
  simp only [lSet, h, Bool.false_eq_true, if_false]

theorem lStw_held {b : Bool} (o : WordOp) (h : b = true) : lStw r o b = storeWord r o r.wa := if_pos h

theorem lStw_not {b : Bool} (o : WordOp) (h : b = false) : lStw r o b = effRun r := by
  simp only [lStw, h, Bool.false_eq_true, if_false]

theorem lEdge_changes {i : Nat} {m : Bool} (rise : Bool) (he : mapGet r.data.edges i = some m) (hm : m ≠ (r.ba && r.mc)) :
    lEdge r i rise = edgeEff { r with ba := if rise then (r.ba && r.mc) && !m else m && !(r.ba && r.mc) } i (r.ba && r.mc) := by
  simp only [lEdge, he, if_neg hm]

/-- An input that its memory already holds has no edge. -/
theorem lEdge_same {i : Nat} (rise : Bool) (he : mapGet r.data.edges i = some (r.ba && r.mc)) :
    lEdge r i rise = { run := { r with ba := false }, locals := [.edge i] } := by
  simp [lEdge, he]

/-- A new memory takes its input (R151). -/
theorem lEdge_new {i : Nat} (rise : Bool) (he : mapGet r.data.edges i = none) :
    lEdge r i rise = edgeEff { r with ba := false } i (r.ba && r.mc) := by
  simp only [lEdge, he]

theorem lEvt_held (sev num : Nat) (h : (r.ba && r.mc) = true) : lEvt c r sev num =
    { run := { r with jrn := r.jrn ++ [.event (0x1000 + 0x100 * c.n + num) sev r.wa] }
      jrn := [.event (0x1000 + 0x100 * c.n + num) sev r.wa] } := if_pos h

theorem lEvt_not (sev num : Nat) (h : (r.ba && r.mc) = false) : lEvt c r sev num = effRun r := by
  simp only [lEvt, h, Bool.false_eq_true, if_false]

/-- The frame of a template, as the instruction captures it (R97). -/
abbrev templateFrame (r : LRun) (t : Template) : CanFrame :=
  { ide := t.ide, fdf := t.fdf, brs := t.brs, esi := false, rtr := false, ident := t.ident, data := payload r t }

theorem lCantx_held {tpl : Nat} {t : Template} (h : (r.ba && r.mc) = true) (ht : c.tmpls[tpl]? = some t) : lCantx c r tpl =
    { run := { r with jrn := r.jrn ++ [.can tpl t.channel (templateFrame r t)] }, jrn := [.can tpl t.channel (templateFrame r t)]
      locals := (List.range ((t.len + 3) / 4)).map fun k => Loc.mw (t.mwFirst + k) } := by
  simp only [lCantx, h, if_true, ht]

theorem lCantx_not (tpl : Nat) (h : (r.ba && r.mc) = false) : lCantx c r tpl = effRun r := by
  simp only [lCantx, h, Bool.false_eq_true, if_false]

/-- The longest frame takes five entries of the journal (R79). -/
theorem jCosts_templateFrame {t : Template} (tpl : Nat) (ch : Fin 8) (ht : t.len ≤ 64) : jCosts [.can tpl ch (templateFrame r t)] ≤ 5 := by
  have : (payload r t).length ≤ t.len := List.length_take_le _ _
  simp only [jCosts, jCost, List.map_cons, List.map_nil, List.sum_cons, List.sum_nil]
  omega

end Effects

/-- Settles O24: an instruction whose condition holds makes its one store or entry, else it changes nothing. -/
theorem loomStores : Obligations.LoomStores := by
  refine ⟨
    -- ST, STN
    fun _ _ _ h hj => next_of_plain h hj rfl (storeBit_plain _ _ _), fun _ _ _ h hj => next_of_plain h hj rfl (storeBit_plain _ _ _),
    -- SETB, RSTB
    fun _ o _ h hi hj => next_of_plain h hj (lSet_held o true hi) (storeBit_plain _ _ _),
    fun _ o _ h hi => next_of_effRun h (lSet_not o true hi) (stepped_pc_lt h),
    fun _ o _ h hi hj => next_of_plain h hj (lSet_held o false hi) (storeBit_plain _ _ _),
    fun _ o _ h hi => next_of_effRun h (lSet_not o false hi) (stepped_pc_lt h),
    -- STW, STWC
    fun _ o _ h hi hj => next_of_plain h hj (lStw_held o hi) (storeWord_plain _ _ _),
    fun _ o _ h hi => next_of_effRun h (lStw_not o hi) (stepped_pc_lt h),
    fun _ o _ h hi hj => next_of_plain h hj (lStw_held o hi) (storeWord_plain _ _ _),
    fun _ o _ h hi => next_of_effRun h (lStw_not o hi) (stepped_pc_lt h),
    -- PEDGE, NEDGE
    fun _ _ _ _ h he hm hj => next_of_plain h hj (lEdge_changes true he hm) (edgeEff_plain _ _ _),
    fun _ _ _ h he => next_of_quiet h (lEdge_same true he) ⟨rfl, rfl, rfl, stepped_pc_lt h⟩,
    fun _ _ _ h he hj => next_of_plain h hj (lEdge_new true he) (edgeEff_plain _ _ _),
    fun _ _ _ _ h he hm hj => next_of_plain h hj (lEdge_changes false he hm) (edgeEff_plain _ _ _),
    fun _ _ _ h he => next_of_quiet h (lEdge_same false he) ⟨rfl, rfl, rfl, stepped_pc_lt h⟩,
    fun _ _ _ h he hj => next_of_plain h hj (lEdge_new false he) (edgeEff_plain _ _ _),
    -- EVT, CANTX
    fun _ v m _ h hi hj => next_of_plain h hj (lEvt_held v.toNat m.toNat hi) ⟨rfl, rfl, rfl, le_refl 1⟩,
    fun _ v m _ h hi => next_of_effRun h (lEvt_not v.toNat m.toNat hi) (stepped_pc_lt h),
    fun _ _ _ _ h hi ht hl hj => next_of_plain h hj (lCantx_held hi ht) ⟨rfl, rfl, rfl, jCosts_templateFrame _ _ hl⟩,
    fun _ i _ h hi => next_of_effRun h (lCantx_not i.toNat hi) (stepped_pc_lt h)⟩

/-! ### Timers (R87) and counters (R90) -/

section Counters

variable {r : LRun} {c : LCtx}

theorem lTrst_held (i : Nat) (h : (r.ba && r.mc) = true) :
    lTrst c r i = timerEff r i (runTimer c.ts r i) { runTimer c.ts r i with st := .idle, mem := false } := if_pos h

theorem lTrst_not (i : Nat) (h : (r.ba && r.mc) = false) : lTrst c r i = effRun r := by
  simp only [lTrst, h, Bool.false_eq_true, if_false]

theorem lCset_held (i : Nat) (v : Int) (h : (r.ba && r.mc) = true) :
    lCset r i v = ctrEff r i (runCtr r i) { runCtr r i with cv := v } := if_pos h

theorem lCset_not (i : Nat) (v : Int) (h : (r.ba && r.mc) = false) : lCset r i v = effRun r := by
  simp only [lCset, h, Bool.false_eq_true, if_false]

end Counters

/-- Settles O25: a timer or counter instruction makes at most one entry, the changed timer or counter. -/
theorem loomTimersAndCounters : Obligations.LoomTimersAndCounters :=
  ⟨-- TON, TOF, TP, TRST
    fun _ _ _ h hj => next_of_plain h hj rfl (timerEff_plain _ _ _ _), fun _ _ _ h hj => next_of_plain h hj rfl (timerEff_plain _ _ _ _),
    fun _ _ _ h hj => next_of_plain h hj rfl (timerEff_plain _ _ _ _),
    fun _ i _ h hi hj => next_of_plain h hj (lTrst_held i.toNat hi) (timerEff_plain _ _ _ _),
    fun _ i _ h hi => next_of_effRun h (lTrst_not i.toNat hi) (stepped_pc_lt h),
    -- CTU, CTD
    fun _ _ _ h hj => next_of_plain h hj rfl (ctrEff_plain _ _ _ _), fun _ _ _ h hj => next_of_plain h hj rfl (ctrEff_plain _ _ _ _),
    -- CRST, CLD
    fun _ i _ h hi hj => next_of_plain h hj (lCset_held i.toNat 0 hi) (ctrEff_plain _ _ _ _),
    fun _ i _ h hi => next_of_effRun h (lCset_not i.toNat 0 hi) (stepped_pc_lt h),
    fun _ i _ h hi hj => next_of_plain h hj (lCset_held i.toNat _ hi) (ctrEff_plain _ _ _ _),
    fun _ i _ h hi => next_of_effRun h (lCset_not i.toNat _ hi) (stepped_pc_lt h)⟩

/-! ### Words (R91) -/

section Words

variable {n : Fin 8} {i : LInstr} {o : WordOp} {s : State}

/-- The operand reads the same before and after the PC goes on. -/
theorem wordVal_stepped (n : Fin 8) (o : WordOp) (s : State) :
    wordVal (loomCtx n (vget s.loom n)) (stepped n s) o = wordAt n o s := by
  obtain ⟨sp, ix⟩ := o
  cases sp <;> rfl

theorem next_of_lWord {f : Word → Word → Word} (h : settledAt n i s)
    (hx : effectAt n i s = lWord (loomCtx n (vget s.loom n)) (stepped n s) o f) :
    (Host.Outcome.next (loomInstr n i s) : Res) =
      .next (loomNow n { stepped n s with wa := f (vget s.loom n).run.wa (wordAt n o s) } s) := by
  rw [← wordVal_stepped]
  exact next_of_quiet h hx ⟨rfl, rfl, rfl, stepped_pc_lt h⟩

theorem next_of_lArith {f : Word → Word → Arith} (h : settledAt n i s)
    (hx : effectAt n i s = lArith (loomCtx n (vget s.loom n)) (stepped n s) o f) :
    (Host.Outcome.next (loomInstr n i s) : Res) =
      .next (loomNow n { stepped n s with
        wa := (f (vget s.loom n).run.wa (wordAt n o s)).val
        ovf := (vget s.loom n).run.ovf || (f (vget s.loom n).run.wa (wordAt n o s)).ovf
        divz := (vget s.loom n).run.divz || (f (vget s.loom n).run.wa (wordAt n o s)).divz } s) := by
  rw [← wordVal_stepped]
  exact next_of_quiet h hx ⟨rfl, rfl, rfl, stepped_pc_lt h⟩

theorem next_of_lCmp {q : Cond} (h : settledAt n i s) (hx : effectAt n i s = lCmp (loomCtx n (vget s.loom n)) (stepped n s) q o) :
    (Host.Outcome.next (loomInstr n i s) : Res) =
      .next (loomNow n { stepped n s with ba := (vget s.loom n).run.ba && condHolds q (vget s.loom n).run.wa (wordAt n o s) } s) := by
  rw [← wordVal_stepped]
  exact next_of_quiet h hx ⟨rfl, rfl, rfl, stepped_pc_lt h⟩

end Words

/-- Settles O26: an instruction with an operand combines WA with it, one without works on WA and BA. -/
theorem loomWords : Obligations.LoomWords :=
  ⟨-- LDW, LDI, LDIH
    fun _ _ _ h => next_of_lWord (f := fun _ x => x) h rfl, fun _ _ _ h => next_of_effRun h rfl (stepped_pc_lt h),
    fun _ _ _ h => next_of_effRun h rfl (stepped_pc_lt h),
    -- ADD, SUB, MUL, DIV, MOD
    fun _ _ _ h => next_of_lArith (f := addW) h rfl, fun _ _ _ h => next_of_lArith (f := subW) h rfl,
    fun _ _ _ h => next_of_lArith (f := mulW) h rfl, fun _ _ _ h => next_of_lArith (f := divW) h rfl,
    fun _ _ _ h => next_of_lArith (f := modW) h rfl,
    -- ANDW, ORW, XORW
    fun _ _ _ h => next_of_lWord (f := fun a x => a &&& x) h rfl, fun _ _ _ h => next_of_lWord (f := fun a x => a ||| x) h rfl,
    fun _ _ _ h => next_of_lWord (f := fun a x => a ^^^ x) h rfl,
    -- SHL, SHR, ASR
    fun _ _ _ h => next_of_effRun h rfl (stepped_pc_lt h), fun _ _ _ h => next_of_effRun h rfl (stepped_pc_lt h),
    fun _ _ _ h => next_of_effRun h rfl (stepped_pc_lt h),
    -- CMP, MIN, MAX, GETB, PUTB
    fun _ _ _ _ h => next_of_lCmp h rfl, fun _ _ _ h => next_of_lWord (f := minW) h rfl,
    fun _ _ _ h => next_of_lWord (f := maxW) h rfl, fun _ _ _ h => next_of_effRun h rfl (stepped_pc_lt h),
    fun _ _ _ h => next_of_effRun h rfl (stepped_pc_lt h)⟩

end Sys2Proof.Architecture
end

section
/-! SUPPORT. Traps, and the commands of a scan: latch, arrival of the fresh Weft, publish, budget, stopped timers, engine fault. -/

namespace Sys2Proof.Architecture

open Machine Laws

/-! ### A trap (R101, R102) -/

section Trap

variable {n : Fin 8} {p : Nat} {h : HeldTrap} {s : State}

/-- The state that a taken trap leaves, before its event is raised. -/
abbrev trapLeft (n : Fin 8) (p : Nat) (h : HeldTrap) (s : State) : State :=
  taskLeave n .trapped 0 true
    (setLoom n (fun e => { e with trapV := true, trapCause := h.cause, trapPick := p, trapPc := h.pc, lastAbn := 1 }) s)

/-- The engine that a taken trap leaves, apart from its symbols, patches and signature. -/
abbrev trappedEngine (p : Nat) (h : HeldTrap) (e : Loom) : Loom :=
  { scanDrop { e with trapV := true, trapCause := h.cause, trapPick := p, trapPc := h.pc, lastAbn := 1 } with
    state := if e.teardown then .none else .trapped }

theorem trapLeft_reads {α : Type} (f : Loom → α) (hf : Apart f := by intro _ _ _ _ _; rfl)
    (hd : ∀ (e : Loom) (b : Bool), f { e with teardown := b } = f e := by intro _ _; rfl) :
    f (vget (trapLeft n p h s).loom n) = f (trappedEngine p h (vget s.loom n)) := by
  rw [taskLeave_eng hf hd n .trapped (by decide), setLoom_loom, vget_vmod_self]
  simp only [ne_eq, reduceCtorEq, not_false_eq_true, decide_true, Bool.and_true]

theorem trapLeft_other {m : Fin 8} (hm : m ≠ n) : vget (trapLeft n p h s).loom m = vget s.loom m := by
  rw [taskLeave_other n m hm .trapped (by decide), setLoom_loom, vget_vmod_ne _ _ _ _ hm]

end Trap

/-- Settles O40: the scan that leaves RUNNING is dropped with the trap registers set before, and no other engine is written. -/
protected theorem trapTaken : Obligations.TrapTaken := fun n p h s =>
  ⟨trapLeft n p h s, rfl, fun _ hm => trapLeft_other hm, trapLeft_reads (·.state), trapLeft_reads (·.trapV),
    trapLeft_reads (·.trapCause), trapLeft_reads (·.trapPick), trapLeft_reads (·.trapPc), trapLeft_reads (·.lastAbn),
    trapLeft_reads (·.mode), trapLeft_reads (·.gather), trapLeft_reads (·.commit), trapLeft_reads (·.picks),
    trapLeft_reads (·.run), trapLeft_reads (·.done)⟩

/-! ### The commands of a scan -/

section Scan

variable {n : Fin 8} {s : State}

/-- No scan of the RUNNING task is in progress and nothing withholds its next latch (R107). -/
def MayLatch (n : Fin 8) (s : State) : Prop :=
  loomUp s n = true ∧ drives s = true ∧ (vget s.loom n).state = .running ∧ (vget s.loom n).mode = .idle ∧
    (vget s.loom n).gather = none ∧ latchHeld s n = false

/-- The minimum interval since the last latch has passed, or does not apply (R107). -/
def LatchDue (e : Loom) (now : Word) : Prop :=
  e.firstDue = true ∨ e.fresh1 = true ∨ e.scan = 0 ∨ e.miniv ≤ (now - e.ts).toNat

/-- What a latch begins: the next scan at its own time, its Weft gathered, and its working values those committed (R110, R111). -/
def Begun (e : Loom) (now : Word) (e' : Loom) : Prop :=
  e'.scan = e.scan + 1 ∧ e'.ts = now ∧ e'.first = e.firstDue ∧ e'.gather.isSome = true ∧ e'.picks = [] ∧ e'.firstDue = false ∧
    e'.run.data = e'.com ∧ e'.run.jrn = []

/-- The engine after a latch, whatever the state that the latch finds. -/
theorem latchScan_begun (e : Loom) (ts : Word) (forced : Bool) (w : SMap Word) (s : State) :
    Begun e ts (vget (latchScan n ts (e.scan + 1) e.firstDue forced w s).loom n) := by
  unfold latchScan
  rw [setLoom_loom, vget_vmod_self]
  exact ⟨rfl, rfl, rfl, rfl, rfl, rfl, rfl, rfl⟩

theorem exec_weftLatch_begins (hm : MayLatch n s) (hd : LatchDue (vget s.loom n) (loomTime s)) :
    ∃ t, exec (.weftLatch n) s = .next t ∧ Begun (vget s.loom n) (loomTime s) (vget t.loom n) := by
  obtain ⟨hu, hv, hr, hi, hg, hh⟩ := hm
  have hdue : (!(vget s.loom n).firstDue && !(vget s.loom n).fresh1 && decide ((vget s.loom n).scan ≠ 0) &&
      decide ((loomTime s - (vget s.loom n).ts).toNat < (vget s.loom n).miniv)) = false := by
    rcases hd with h | h | h | h <;> simp [h, -BitVec.toNat_sub]
  simp only [exec, execWeftLatch, ok, hu, hv, hr, hi, hg, hh, hdue, decide_true, Option.isNone_none, Bool.not_false, Bool.and_self,
    if_true, Bool.false_eq_true, if_false, latch_time]
  exact ⟨_, rfl, latchScan_begun _ _ _ _ _⟩

theorem exec_weftLatch_waits (hm : MayLatch n s) (hd : ¬ LatchDue (vget s.loom n) (loomTime s)) :
    exec (.weftLatch n) s = .next (setLoom n (fun e => { e with mwait := true }) s) := by
  obtain ⟨hu, hv, hr, hi, hg, hh⟩ := hm
  simp only [LatchDue, not_or, Bool.not_eq_true, Nat.not_le] at hd
  obtain ⟨h1, h2, h3, h4⟩ := hd
  simp only [exec, execWeftLatch, ok, hu, hv, hr, hi, hg, hh, h1, h2, h3, h4, decide_true, Option.isNone_none, Bool.not_false,
    Bool.and_self, if_true, ne_eq, not_false_eq_true]

/-- The fresh Weft arrives at an engine whose scan before is committed and published (R108). -/
theorem exec_freshWeftArrival {w : SMap Word} (hu : loomUp s n = true) (hg : (vget s.loom n).gather = some w)
    (hc : (vget s.loom n).commit = none) (hm : (vget s.loom n).mode = .ahead ∨ (vget s.loom n).mode = .wait) :
    let s1 := drainHub (setLoom n (fun e => { e with gather := none, freshIn := true }) s)
    exec (.freshWeftArrival n) s = .next (
      if (vget s.loom n).picks = [] ∧ (vget s.loom n).mode = .wait then
        setLoom n (fun e => { e with weft := w, mode := .settled, run := scanStart e }) s1
      else checkWeft n w s1) := by
  simp [exec, execFreshWeftArrival, ok, hu, hg, hc, hm]

/-- The budget of a RUNNING task has run out. -/
def BudgetSpent (n : Fin 8) (s : State) : Prop :=
  loomOn s n = true ∧ (vget s.loom n).state = .running ∧ budgetOf (vget s.loom n) ≤ (vget s.loom n).run.count

theorem exec_budgetExhausted_settled (h : BudgetSpent n s) (hm : (vget s.loom n).mode = .settled) :
    exec (.budgetExhausted n) s = .next (budgetOut n (vget s.loom n).run.pick s) := by
  obtain ⟨ho, hr, hb⟩ := h
  simp only [exec, execBudgetExhausted, ok, ho, hr, hb, hm, decide_true, Bool.and_self, if_true]

theorem exec_budgetExhausted_ahead (h : BudgetSpent n s) (hm : (vget s.loom n).mode = .ahead) :
    exec (.budgetExhausted n) s = .next (setLoom n (fun e =>
      { e with mode := .wait, picks := logLast e.picks fun p => { p with budget := true } }) s) := by
  obtain ⟨ho, hr, hb⟩ := h
  simp only [exec, execBudgetExhausted, ok, ho, hr, hb, hm, decide_true, Bool.and_self, if_true]

theorem exec_stoppedTimerEvaluation (ho : loomOn s n = true)
    (hs : (vget s.loom n).state = .stopped ∨ (vget s.loom n).state = .trapped ∨ (vget s.loom n).state = .overrun) :
    exec (.stoppedTimerEvaluation n) s = .next (setLoom n (fun e =>
      { e with com := { e.com with timers := e.com.timers.map fun p => (p.1, timerNow (loomTime s) p.2) } }) s) := by
  rcases hs with h | h | h <;> simp [exec, execStoppedTimerEvaluation, ok, ho, h]

/-- A failed engine reads FAULT with its cause, whatever its task did. -/
theorem engineFault_reads {α : Type} (f : Loom → α) (k : Nat) (hf : Apart f := by intro _ _ _ _ _; rfl)
    (hd : ∀ (e : Loom) (b : Bool), f { e with teardown := b } = f e := by intro _ _; rfl)
    (hl : ∀ (e : Loom) (c : Nat), f { e with lastAbn := c } = f e := by intro _ _; rfl) :
    f (vget (engineFault n k s).loom n) = f { scanDrop { vget s.loom n with flt := k } with state := .fault } := by
  rw [engineFault_loom, taskLeave_eng hf hd n .fault (by decide), setLoom_loom, vget_vmod_self]
  simp only [ne_eq, not_true_eq_false, decide_false, Bool.and_false, Bool.false_eq_true, if_false]
  exact hl { scanDrop { vget s.loom n with flt := k } with state := .fault } _

theorem exec_engineFault {k : Fin 5} (ho : loomOn s n = true) (hk : k ≠ 0) (hs : (vget s.loom n).state ≠ .fault) :
    exec (.engineFault n k) s = .next (engineFault n k.val s) := by
  have hk' : k.val ≠ 0 := fun h => hk (Fin.ext h)
  simp [exec, execEngineFault, ok, ho, hk', hs]

/-- The ladder reinitialises a failed engine 1 ms later (R454, assumption log 117). -/
theorem engineFault_reinit (k : Nat) : mapGet (engineFault n k s).pwr.reinit n.val = some 1000 := climb_reinit _ _ _

/-- A committed scan of engine `n` reaches its publish (R109). -/
def Publishes (n : Fin 8) (k : Commit) (s : State) : Prop :=
  loomOn s n = true ∧ fabricOn s = true ∧ (vget s.loom n).commit = some k ∧ s.mir.swo ≠ .oldWait

theorem exec_publish_sends {k : Commit} (h : Publishes n k s) (hq : (forwards s && latchQueued s n.val k.scan) = false) :
    let a := swapFrozen (publishScan n k s)
    exec (.publish n) s = .next (latchNext n (when (a.mir.syncDue.contains n.val && (vget a.loom n).mode = .idle &&
      (vget a.loom n).gather.isNone) (syncSent n.val (taskRow a n)) a)) := by
  obtain ⟨ho, hf, hc, hw⟩ := h
  simp [exec, execPublish, ok, publishHeld, ho, hf, hc, hw, hq]

/-- A publish before the scan's LATCH frame has left waits, and is counted once (R349). -/
theorem exec_publish_waits {k : Commit} (h : Publishes n k s) (hq : (forwards s && latchQueued s n.val k.scan) = true)
    (hk : k.waited = false) :
    exec (.publish n) s = .next (setLoom n (fun e => { e with commit := some { k with waited := true } })
      (setMir (fun m => { m with wait := holdInc 0xFFFF m.wait }) s)) := by
  obtain ⟨ho, hf, hc, hw⟩ := h
  simp [exec, execPublish, ok, publishHeld, ho, hf, hc, hw, hq, hk]

end Scan

/-- Settles O38: each command by the branch that its hypotheses choose; the engines after a publish and after a fault by the laws of
`publishScan` and `taskLeave`. -/
theorem scanCommands : Obligations.ScanCommands := by
  refine ⟨?latch, ?latchWaits, ?freshSettles, ?freshChecks, fun _ _ ho hr hb => exec_budgetExhausted_settled ⟨ho, hr, hb⟩,
    fun _ _ ho hr hb => exec_budgetExhausted_ahead ⟨ho, hr, hb⟩, fun _ _ => exec_stoppedTimerEvaluation, ?fault,
    fun _ _ _ ho hf hc hw => exec_publish_sends ⟨ho, hf, hc, hw⟩, fun _ _ _ ho hf hc hw => exec_publish_waits ⟨ho, hf, hc, hw⟩,
    publishScan_engine⟩
  case latch =>
    intro n s hu hv hr hi hg hh hd
    exact exec_weftLatch_begins ⟨hu, hv, hr, hi, hg, hh⟩ hd
  case latchWaits =>
    intro n s hu hv hr hi hg hh h1 h2 h3 h4
    refine exec_weftLatch_waits ⟨hu, hv, hr, hi, hg, hh⟩ ?_
    rintro (h | h | h | h)
    · exact absurd (h1.symm.trans h) (by decide)
    · exact absurd (h2.symm.trans h) (by decide)
    · exact h3 h
    · exact Nat.not_le.mpr h4 h
  case freshSettles =>
    intro n w s hu hg hc hm hp
    rw [exec_freshWeftArrival hu hg hc (.inr hm), if_pos ⟨hp, hm⟩]
  case freshChecks =>
    intro n w s hu hg hc h
    rcases h with hm | ⟨hm, hp⟩
    · rw [exec_freshWeftArrival hu hg hc (.inl hm), if_neg (by simp [hm])]
    · rw [exec_freshWeftArrival hu hg hc (.inr hm), if_neg (by simp [hp])]
  case fault =>
    intro n k s ho hk hs
    exact ⟨_, exec_engineFault ho hk hs, engineFault_reads (·.flt) k.val, engineFault_reads (·.state) k.val,
      engineFault_reads (·.mode) k.val, engineFault_reinit k.val⟩

end Sys2Proof.Architecture
end

section
/-! SUPPORT. Images: the end of a check, the steps of a swap and of an exchange (R140, R146, R149, R153 to R155). -/

namespace Sys2Proof.Architecture

open Machine Laws

section Swap

variable {s : State}

theorem exec_zorosCheckDone {no len : Nat} {rest : List (Nat × Nat)} (hk : hkOn s = true) (hd : dramOn s = true)
    (hc : s.zor.checks = (no, len) :: rest) :
    exec .zorosCheckDone s = .next ((imageCheck (idCap s.ident.variant) (stageBytes s len)).elim
      (fun r => complete no r.1 r.2 (setZor (fun z => { z with checks := rest }) s))
      (fun img => complete no stOk img.crc (setZor (fun z =>
        { z with checks := rest, staged := img.crc, stagedImg := some img }) s))) := by
  cases hi : imageCheck (idCap s.ident.variant) (stageBytes s len) with
  | inl r => simp [exec, execZorosCheckDone, ok, hk, hd, hc, hi]
  | inr img => simp [exec, execZorosCheckDone, ok, hk, hd, hc, hi, setZor]

/-! ### PREPARE and FREEZE -/

/-- What PREPARE does can end: there is an image to prepare, and no handover of a bank is under way (R149). -/
def PrepareEnds (s : State) : Prop :=
  hkOn s = true ∧ s.zor.phase = .prepare ∧ s.zor.shadow.isSome = true ∧ hedPending s = false

/-- The end of PREPARE: first whether the image still fits what runs (R164), then the module's role. -/
theorem exec_swapPrepared (h : PrepareEnds s) : exec .swapPrepared s = .next (
    if s.zor.shadow.any (prepareBad s) then swapFail 2 stBadImage s
    else if s.mir.decided && s.mir.role = .standby then swapSend 1 0 0 (setZor (fun z => { z with phase := .prepared }) s)
    else setZor (fun z => { z with phase := .map }) s) := by
  obtain ⟨hk, hp, hs, hh⟩ := h
  simp only [exec, execSwapPrepared, ok, hk, hp, hs, hh, decide_true, Bool.not_false, Bool.and_self, if_true]

theorem exec_prepareTimeout (hp : s.zor.phase = .prepare) : exec .prepareTimeout s = .next (swapFail 4 stTimeout s) := by
  simp only [exec, execPrepareTimeout, ok, hp, decide_true, when_true]

theorem exec_freezeInstant {f : Word} (hf : s.zor.freezeF = some f) (ht : (loomTime s - f).toNat < 2 ^ 31)
    (hp : s.zor.phase = .freeze) :
    exec .freezeInstant s = .next (swapFrozen (setZor (fun z => { z with frozen := true }) s)) := by
  simp only [exec, execFreezeInstant, ok, hf, ht, hp, decide_true, Bool.and_self, if_true]

/-! ### The switch, by the module's role -/

/-- The two modules agree on the carried state: both CRC-64 values are known and equal (R149). -/
def CarriedAgree (s : State) : Prop := s.zor.ownCrc.isSome = true ∧ s.zor.ownCrc = s.zor.peerCrc

/-- The switch of a module of a pair waits for nothing more: its partner is lost, or agrees. -/
def MaySwitch (s : State) : Prop := s.zor.lone = true ∨ CarriedAgree s

theorem maySwitch_iff : (s.zor.lone || (s.zor.ownCrc.isSome && decide (s.zor.ownCrc = s.zor.peerCrc))) = true ↔ MaySwitch s := by
  simp only [Bool.or_eq_true, Bool.and_eq_true, decide_eq_true_eq, MaySwitch, CarriedAgree]

theorem exec_swapSwitch_alone {img : Image} (hp : s.zor.phase = .map) (hr : s.mir.role = .alone)
    (hs : s.zor.shadow = some img) : exec .swapSwitch s = .next (
    if prepareBad s img then swapEnd 2 stBadImage none s
    else setZor (fun z => { z with swapNo := none }) (completeOpt s.zor.swapNo stOk 0 (imageSwitch img true s))) := by
  simp only [exec, execSwapSwitch, ok, hp, hr, hs, ne_eq, not_true_eq_false, if_true, if_false]

theorem exec_swapSwitch_standby {img : Image} (hp : s.zor.phase = .map) (hr : s.mir.role = .standby)
    (hs : s.zor.shadow = some img) (ha : MaySwitch s) : exec .swapSwitch s = .next (
    if s.zor.lone then raise 0x0806 6 4 (takeField .alone 4 (imageSwitch img false s))
    else takeField .active 6 (imageSwitch img false s)) := by
  simp [exec, execSwapSwitch, ok, hp, hr, hs, maySwitch_iff.mpr ha]

theorem exec_swapSwitch_active (hp : s.zor.phase = .map) (hr : s.mir.role = .active) (ha : MaySwitch s) :
    exec .swapSwitch s = .next (setMir (fun m => { m with swo := .oldWait, swoCode := 6, swoReset := false })
      (toSyncing 6 (setZor (fun z => { z with count := (z.count + 1) % 256, staged := 0, stagedImg := none, swapNo := none })
        (completeOpt s.zor.swapNo stOk s.zor.peerScan s)))) := by
  simp [exec, execSwapSwitch, ok, hp, hr, maySwitch_iff.mpr ha, setMir]

theorem exec_retainSave (hk : hkOn s = true) (hr : s.zor.running.isSome = true) :
    exec .retainSave s = .next (retainSave s) := by
  simp only [exec, execRetainSave, ok, hk, hr, Bool.and_self, when_true]

end Swap

/-- Settles O60: the check by what the image answers, PREPARE by the fit of the image and the role, the switch by the role and by whether
the partner is lost or agrees. -/
theorem swapCommands : Obligations.SwapCommands := by
  refine ⟨fun _ _ _ _ => exec_zorosCheckDone, ?reports, ?goesOn, ?noLongerFits, fun _ => exec_prepareTimeout,
    fun _ _ => exec_freezeInstant, ?aloneInstalls, ?aloneEnds, ?standbyActive, ?standbyAlone, ?activeCompletes,
    fun _ => exec_retainSave⟩
  case reports =>
    intro s hk hp hs hh hb hd hr
    simp [exec_swapPrepared ⟨hk, hp, hs, hh⟩, hb, hd, hr]
  case goesOn =>
    intro s hk hp hs hh hb hr
    simp [exec_swapPrepared ⟨hk, hp, hs, hh⟩, hb, hr]
  case noLongerFits =>
    intro s hk hp hs hh hb
    rw [exec_swapPrepared ⟨hk, hp, hs, hh⟩, if_pos hb]
  case aloneInstalls =>
    intro img s hp hr hs hb
    rw [exec_swapSwitch_alone hp hr hs, if_neg (ne_true_of_eq_false hb)]
  case aloneEnds =>
    intro img s hp hr hs hb
    rw [exec_swapSwitch_alone hp hr hs, if_pos hb]
  case standbyActive =>
    intro img s hp hr hs hl hc he
    rw [exec_swapSwitch_standby hp hr hs (.inr ⟨hc, he⟩), if_neg (ne_true_of_eq_false hl)]
  case standbyAlone =>
    intro img s hp hr hs hl
    rw [exec_swapSwitch_standby hp hr hs (.inl hl), if_pos hl]
  case activeCompletes =>
    intro s hp hr _ hc he
    exact exec_swapSwitch_active hp hr (.inr ⟨hc, he⟩)

end Sys2Proof.Architecture
end

section
/-! SUPPORT. The output of one computation of a driven Prism slot. -/

namespace Sys2Proof.Architecture

open Machine Laws

section TripAction

variable (c : LoopSet) (u : Int)

theorem tripOut_hold : tripOut c 0 u = u := rfl

theorem tripOut_ramp : tripOut c 1 u = towards u 0 c.rampStop := rfl

theorem tripOut_fail : tripOut c 2 u = c.failOut := rfl

end TripAction

/-- What stage 7 leaves of stages 3 to 6 in a driven slot: without a trip the limited output, with one the output of the trip action;
the integrator is that of stage 6 (R172, R187, R201). -/
theorem lawStep_driven_spec {l : Law} {lost : Bool} {x : Slot} (hr : x.run = .starting ∨ x.run = .running) (hh : x.hand = false)
    (ho : x.ho = false) (hu : (selSet x).umin ≤ (selSet x).umax) :
    let c := selSet x
    let z := lawStep l lost x
    (z.slot.uPrev = z.slot.u ∧ z.slot.y = l.y) ∧ (-(2 ^ 62) ≤ z.slot.i ∧ z.slot.i < 2 ^ 62) ∧
      (z.trip = false → (c.slew = 0 → c.umin ≤ z.slot.u ∧ z.slot.u ≤ c.umax) ∧
        (0 < c.slew → lawOld x - c.slew ≤ z.slot.u ∧ z.slot.u ≤ lawOld x + c.slew)) ∧
      (z.trip = true → z.slot.run = .tripped ∧ z.slot.act = c.trip ∧ (c.trip ≠ 3 → z.slot.u = tripOut c c.trip (lawOld x))) := by
  obtain ⟨r, y, hy, hz⟩ := lawStep_driven l lost x hr
  have hyo : y.ho = false := by rw [hy, ho, Bool.false_and]
  obtain ⟨hlimit, hslew, hlow, hhigh, -⟩ := lawOutput_limits l r x y hh hyo hu
  obtain ⟨hprev, hmeasured, hint, -, hstands, htrips⟩ := lawSupervise_spec l lost r x (lawOutput l r x y)
  rw [← hz] at hprev hmeasured hint hstands htrips
  refine ⟨⟨hprev, hmeasured⟩, ⟨hint ▸ hlow, hint ▸ hhigh⟩, fun ht => ?_, fun ht => ?_⟩
  · rw [(hstands ht).1]
    exact ⟨hlimit, hslew⟩
  · obtain ⟨hrun, hact, hout⟩ := htrips ht
    exact ⟨hrun, hact, fun h3 => hout.trans (if_neg h3)⟩

/-- Settles O43: the limits and the slew of stage 6, which stage 7 leaves standing without a trip, and the output of each trip action. -/
theorem prismDrivenOutput : Obligations.PrismDrivenOutput := by
  intro l lost x hr hh ho hu
  obtain ⟨⟨hprev, hmeasured⟩, ⟨hlow, hhigh⟩, hstands, htrips⟩ := lawStep_driven_spec (l := l) (lost := lost) hr hh ho hu
  refine ⟨hprev, hmeasured, hlow, hhigh, hstands, fun ht => ?_⟩
  obtain ⟨hrun, hact, hout⟩ := htrips ht
  refine ⟨hrun, hact, fun h0 => ?_, fun h1 => ?_, fun h2 => ?_⟩
  · rw [hout (by simp [h0]), h0, tripOut_hold]
    rfl
  · rw [hout (by simp [h1]), h1, tripOut_ramp]
    rfl
  · rw [hout (by simp [h2]), h2, tripOut_fail]

end Sys2Proof.Architecture
end

section
/-! SUPPORT. Descriptors of loops, of field channels and of CAN channels. -/

namespace Sys2Proof.Architecture

open Machine Laws

section FieldRows

variable {h : HostData} {s : State}

theorem exec_loopCtrlEnable_row : exec .loopCtrlEnable s = runBare (fun d => d.op = 0x19 && !(within 1 5 d.arg0)) s := rfl
theorem exec_loopCtrlSoftStop_row : exec .loopCtrlSoftStop s = runBare (fun d => d.op = 0x19 && d.arg0 = 1) s := rfl
theorem exec_loopCtrlSelectA_row : exec .loopCtrlSelectA s = runBare (fun d => d.op = 0x19 && d.arg0 = 2) s := rfl
theorem exec_loopCtrlSelectB_row : exec .loopCtrlSelectB s = runBare (fun d => d.op = 0x19 && d.arg0 = 3) s := rfl
theorem exec_loopCtrlManual_row : exec .loopCtrlManual s = runBare (fun d => d.op = 0x19 && d.arg0 = 4) s := rfl
theorem exec_loopCtrlAuto_row : exec .loopCtrlAuto s = runBare (fun d => d.op = 0x19 && d.arg0 = 5) s := rfl
theorem exec_loopCfg_row : exec (.loopCfg h) s = runRow (fun d => d.op = 0x18) h s := rfl
theorem exec_loopTable_row : exec (.loopTable h) s = runRow (fun d => d.op = 0x1A) h s := rfl
theorem exec_fieldCfg_row : exec (.fieldCfg h) s = runRow (fun d => d.op = 0x20) h s := rfl
theorem exec_canCfg_row : exec (.canCfg h) s = runRow (fun d => d.op = 0x28) h s := rfl
theorem exec_canTx_row : exec (.canTx h) s = runRow (fun d => d.op = 0x29) h s := rfl
theorem exec_canState_row : exec .canState s = runBare (fun d => d.op = 0x2A && !(bitOf d.arg0 8)) s := rfl
theorem exec_canCancel_row : exec .canCancel s = runBare (fun d => d.op = 0x2A && bitOf d.arg0 8) s := rfl
theorem exec_canFilter_row : exec (.canFilter h) s = runRow (fun d => d.op = 0x2B) h s := rfl

end FieldRows

section FieldEffects

variable {c : Call} {s : State}

theorem apply_loopCfg (h : c.d.op = 0x18) : apply c s = onHandle c apLoopCfg s := by simp only [apply, h]
theorem apply_loopCtrl (h : c.d.op = 0x19) : apply c s = onHandle c apLoopCtrl s := by simp only [apply, h]
theorem apply_loopTable (h : c.d.op = 0x1A) : apply c s = onHandle c apLoopTable s := by simp only [apply, h]
theorem apply_fieldCfg (h : c.d.op = 0x20) : apply c s = onHandle c apFieldCfg s := by simp only [apply, h]
theorem apply_canCfg (h : c.d.op = 0x28) : apply c s = onHandle c apCanCfg s := by simp only [apply, h]
theorem apply_canTx (h : c.d.op = 0x29) : apply c s = onHandle c apCanTx s := by simp only [apply, h]
theorem apply_canState (h : c.d.op = 0x2A) : apply c s = onHandle c apCanState s := by simp only [apply, h]
theorem apply_canFilter (h : c.d.op = 0x2B) : apply c s = onHandle c apCanFilter s := by simp only [apply, h]

/-- Without a period count of the pair, a command for a loop takes effect in the next period (R181). -/
theorem loopEff_next (h : c.count = none) (l : Fin 256) : loopEff c s l = pcntNext (prismAt s (loopEngine l)).pcnt := by
  simp only [loopEff, h]

/-- Frames that a sound crossing brings whole to the controller: those that fit are queued (R266). -/
theorem apCanTx_queues {l : List CanFrame} {fit : Nat} (hl : ((txFrames c.d.arg0 c.data).getD []).map (·.2.2) = l)
    (hf : min l.length (64 - (vget s.can (descCan s c.d)).tx.length) = fit) (hp : crossPois s 18 = false) (ho : c.onward = .good) :
    apCanTx c s = (canPush (descCan s c.d) (l.take fit) s,
      some { status := if fit = l.length then stOk else stFull, result := some fit }) := by
  subst hl hf
  simp only [apCanTx, hp, ho, Bool.false_eq_true, if_false]

theorem apCanState_asks {w : CanSt} (h : canStOf (c.d.arg0 % 16) = some w) : apCanState c s =
    later (canRequest (descCan s c.d) { want := w, no := if c.no = 0 then none else some c.no, cancel := bitOf c.d.arg0 8 } s) := by
  simp only [apCanState, h]

end FieldEffects

section Taken

variable {f : Flight} {s : State} (b : List Byte)

theorem prismAt_taken (n : Fin 4) : prismAt (taken f b s) n = prismAt s n := taken_keeps (prismAt · n) fun _ => rfl

theorem descKind_taken (d : Desc) : descKind (taken f b s) d = descKind s d := taken_keeps (descKind · d) fun _ => rfl

theorem descTarget_taken (d : Desc) : descTarget (taken f b s) d = descTarget s d := taken_keeps (descTarget · d) fun _ => rfl

theorem descLoop_taken (d : Desc) : descLoop (taken f b s) d = descLoop s d := taken_keeps (descLoop · d) fun _ => rfl

theorem descCan_taken (d : Desc) : descCan (taken f b s) d = descCan s d := taken_keeps (descCan · d) fun _ => rfl

theorem can_taken : (taken f b s).can = s.can := taken_keeps (·.can) fun _ => rfl

/-- The data of a descriptor cross a bobbin, which poisons no crossing (R374). -/
theorem crossPois_taken (g : Nat) : crossPois (taken f b s) g = crossPois s g := by
  unfold taken when
  split <;> rfl

end Taken

section FieldStarting

variable {i : Instr} {p : Desc → Bool} {h : HostData} {f : Flight} {s t : State} {a : Ans} {g : Call → State → Done}

/-- A descriptor with data for a live channel completes with the answer of its opcode's effect. -/
theorem exec_row_onLive (hi : exec i s = runRow p h s) (hg : apply (callOf f (hostBytes f.desc h) s) (taken f (hostBytes f.desc h) s) =
      onHandle (callOf f (hostBytes f.desc h) s) g (taken f (hostBytes f.desc h) s)) (hs : starts f (hostBytes f.desc h) s)
    (hp : p f.desc = true) (hm : h.mark = .good) (hl : onLive f s) (ho : h.onward = .good) (hf : StaysHere f s)
    (ha : g (callOf f (hostBytes f.desc h) s) (taken f (hostBytes f.desc h) s) = (t, some a)) :
    exec i s = .next (answer f.no a t) :=
  exec_row_answers hi hs hp hm ho hf (hg.trans ((onHandle_live hl g).trans ha))

/-- A LOOP_CTRL joins what waits for its slot, and answers the next period count (R181, R202). -/
theorem exec_loopCtrl {code : Nat} (hi : exec i s = runBare p s) (hs : starts f [] s) (hop : f.desc.op = 0x19) (hc : f.desc.arg0 = code)
    (hp : p f.desc = true) (hl : onLive f s) (hm : mirrors s = false) : exec i s = .next
      (answer f.no { result := some (pcntNext (prismAt s (loopEngine (descLoop s f.desc))).pcnt) } (slotSendAt (descLoop s f.desc)
        (pcntNext (prismAt s (loopEngine (descLoop s f.desc))).pcnt) (.ctrl code (signed 32 f.desc.arg2) (slotNow s (descLoop s f.desc)))
        (started f.no s))) := by
  subst hc
  exact exec_bare_answers hi hs hp (by simp [dataLen, hop]) (staysHere_of_unmirrored hm)
    ((apply_loopCtrl hop).trans (onHandle_bare hl apLoopCtrl))

/-- A CAN_STATE asks for its state, and completes when it is reached (R258). -/
theorem exec_canState_asks {w : CanSt} {k : Bool} (hi : exec i s = runBare p s) (hs : starts f [] s) (hop : f.desc.op = 0x2A)
    (hp : p f.desc = true) (hk : bitOf f.desc.arg0 8 = k) (hl : onLive f s) (hm : mirrors s = false)
    (hw : canStOf (f.desc.arg0 % 16) = some w) : exec i s = .next
      (canRequest (descCan s f.desc) { want := w, no := if f.no = 0 then none else some f.no, cancel := k } (started f.no s)) := by
  subst hk
  exact exec_bare_waits hi hs hp (by simp [dataLen, hop]) (staysHere_of_unmirrored hm)
    ((apply_canState hop).trans ((onHandle_bare hl apCanState).trans (apCanState_asks hw)))

end FieldStarting

/-- Settles O32: a LOOP_CTRL by its code, a CAN_STATE by its cancel bit, the descriptors with data by the effect of their opcode. -/
theorem descriptorLoopAndFieldCommands : Obligations.DescriptorLoopAndFieldCommands := by
  refine ⟨?enable, ?softStop, ?selectA, ?selectB, ?manual, ?auto, ?loopCfg, ?loopTable, ?fieldCfg, ?canCfg, ?canTx, ?canState, ?canCancel,
    ?canFilter⟩
  case enable =>
    intro f s hs hop hc hl hm
    exact exec_loopCtrl exec_loopCtrlEnable_row hs hop hc (by simp [hop, hc, within]) hl hm
  case softStop =>
    intro f s hs hop hc hl hm
    exact exec_loopCtrl exec_loopCtrlSoftStop_row hs hop hc (by simp [hop, hc]) hl hm
  case selectA =>
    intro f s hs hop hc hl hm
    exact exec_loopCtrl exec_loopCtrlSelectA_row hs hop hc (by simp [hop, hc]) hl hm
  case selectB =>
    intro f s hs hop hc hl hm
    exact exec_loopCtrl exec_loopCtrlSelectB_row hs hop hc (by simp [hop, hc]) hl hm
  case manual =>
    intro f s hs hop hc hl hm
    exact exec_loopCtrl exec_loopCtrlManual_row hs hop hc (by simp [hop, hc]) hl hm
  case auto =>
    intro f s hs hop hc hl hm
    exact exec_loopCtrl exec_loopCtrlAuto_row hs hop hc (by simp [hop, hc]) hl hm
  case loopCfg =>
    intro f h s hs hop hm hl hx ho
    refine exec_row_onLive exec_loopCfg_row (apply_loopCfg hop) hs (by simp [hop]) hm hl ho (staysHere_of_unmirrored hx) ?_
    simp only [apLoopCfg, loopEff_next, prismAt_taken, descLoop_taken, good]
  case loopTable =>
    intro f h s hs hop hm hl hx ho
    refine exec_row_onLive exec_loopTable_row (apply_loopTable hop) hs (by simp [hop]) hm hl ho (staysHere_of_unmirrored hx) ?_
    simp only [apLoopTable, loopEff_next, prismAt_taken, descLoop_taken, decide_eq_true_eq, good]
  case fieldCfg =>
    intro f h s hs hop hm hl hx ho
    refine exec_row_onLive exec_fieldCfg_row (apply_fieldCfg hop) hs (by simp [hop]) hm hl ho (staysHere_of_unmirrored hx) ?_
    simp only [apFieldCfg, descKind_taken, descTarget_taken, good]
  case canCfg =>
    intro f h s hs hop hm hl hx ho
    refine exec_row_onLive exec_canCfg_row (apply_canCfg hop) hs (by simp [hop]) hm hl ho (staysHere_of_unmirrored hx) ?_
    simp only [apCanCfg, descCan_taken, good]
  case canTx =>
    intro f h fr fit s hs hop hm hl hfr hfit hp ho
    refine exec_row_onLive exec_canTx_row (apply_canTx hop) hs (by simp [hop]) hm hl ho (staysHere_of_pair (congrArg opSpec hop) (by decide)) ?_
    rw [← descCan_taken (f := f) (hostBytes f.desc h)] at hfit ⊢
    rw [← can_taken (f := f) (hostBytes f.desc h)] at hfit
    exact apCanTx_queues hfr hfit ((crossPois_taken _ _).trans hp) rfl
  case canState =>
    intro f w s hs hop hb hl hm hw
    exact exec_canState_asks exec_canState_row hs hop (by simp [hop, hb]) hb hl hm hw
  case canCancel =>
    intro f w s hs hop hb hl hm hw
    exact exec_canState_asks exec_canCancel_row hs hop (by simp [hop, hb]) hb hl hm hw
  case canFilter =>
    intro f h s hs hop hm hl hx ho
    refine exec_row_onLive exec_canFilter_row (apply_canFilter hop) hs (by simp [hop]) hm hl ho (staysHere_of_unmirrored hx) ?_
    simp only [apCanFilter, descCan_taken, good]

end Sys2Proof.Architecture
end

section
/-! SUPPORT. The Prism frame: the boundary of a period, the instants of a loop, the compute window, a failed engine. -/

namespace Sys2Proof.Architecture

open Machine Laws

section PeriodStart

variable {n : Fin 4} {s : State}

/-- The part of a period start that is the failure of the engine in the pair taking effect in the period that begins (R183). -/
def pairOffEnds (n : Fin 4) (s : State) : State :=
  when ((prismAt s n).offAt.any fun k => pcntLe k (prismAt s n).pcnt)
    (fun s => slotsOff n (setPrism n (fun p => { p with offAt := none }) s)) s

/-- Beyond the boundary and a failure that takes effect, a period start only sends synchronisation data, which changes no engine. -/
theorem exec_prismPeriodStart (n : Fin 4) (s : State) :
    ∃ t, exec (.prismPeriodStart n) s = .next t ∧ prismAt t n = prismAt (pairOffEnds n (prismPeriod n s)) n := by
  refine ⟨_, rfl, ?_⟩
  unfold prismAt
  rw [prism_of_view (view_when (k := .prism) _ fun t => syncSent_view (by decide) _ _ t)]
  rfl

theorem pairOffEnds_none (h : (prismAt s n).offAt = none) : pairOffEnds n s = s := by
  simp only [pairOffEnds, h, Option.any_none, when_false]

theorem pairOffEnds_due {q : Nat} (h : (prismAt s n).offAt = some q) (hq : q ≤ (prismAt s n).pcnt) (i : Fin 64) :
    (vget (prismAt (pairOffEnds n s) n).slots i).run = .disabled := by
  simp only [pairOffEnds, h, Option.any_some, pcntLe, hq, decide_true, when_true, slotsOff_at]

end PeriodStart

section Instants

variable {l : Fin 256} {s : State}

/-- The slot of a loop, as the engine holds it. -/
theorem slotGet_eq (l : Fin 256) (s : State) : slotGet s l = vget (prismAt s (loopEngine l)).slots (loopSlot l) := rfl

/-- The commands of a slot that are due in period `pc` (R181). -/
abbrev cmdsDue (pc : Nat) (x : Slot) : List SlotCmd := (x.pend.filter fun q => pcntLe q.eff pc).map (·.cmd)

/-- The computation that a sample instant opens in period `pc` with the sources of the selected set (R165, R169). -/
abbrev compOpened (s : State) (pc : Nat) (due : List SlotCmd) (srcs : Vector SrcCfg 5) : Comp :=
  { pc := pc, cmds := due, srcs := srcs, pts := srcs.map (pointSample s), encs := srcs.map (encNow s) }

/-- A slot takes its sample in the present period: it is live, has not taken it yet, and is not in teardown. -/
def TakesSample (l : Fin 256) (s : State) : Prop :=
  prismRuns s (loopEngine l) = true ∧ (loopSlot l).val < (prismAt s (loopEngine l)).nslot ∧ (slotGet s l).live = true ∧
    (slotGet s l).sampled ≠ some (prismAt s (loopEngine l)).pcnt ∧ (slotGet s l).tearAt = none ∧
    (slotGet s l).comps.any (·.tear) = false

theorem exec_sampleInstant_opens {pc : Nat} (h : TakesSample l s) (hpc : (prismAt s (loopEngine l)).pcnt = pc) :
    exec (.sampleInstant l) s = .next (setSlotL l (fun x => { x with
      sampled := some pc, pend := x.pend.filter fun q => !pcntLe q.eff pc
      comps := x.comps ++ [compOpened s pc (cmdsDue pc (slotGet s l))
        (slotSources (slotAhead (slotGet s l) (cmdsDue pc (slotGet s l))))] }) s) := by
  subst hpc
  obtain ⟨hr, hn, hl, hp, ht, hc⟩ := h
  simp only [slotGet_eq] at hl hp ht hc ⊢
  simp [exec, execSampleInstant, ok, hr, hn, hl, hp, ht, hc]

/-- The computation that a source return of port `j` is for: the oldest open one of its period that waits for that source (R169). -/
abbrev waitsFor (j : Fin 5) (pcnt : Word) : Comp → Bool := fun k =>
  !k.done && k.pc % 2 ^ 32 = pcnt.toNat && (vget k.got j).isNone && srcNamed (vget k.srcs j)

/-- A source return reaches the computation `k` that waits for it, over a sound crossing. -/
def ReturnReaches (l : Fin 256) (j : Fin 5) (c : Capture) (k : Comp) (s : State) : Prop :=
  prismRuns s (loopEngine l) = true ∧ follows s = false ∧ c.held = false ∧
    (slotGet s l).comps.find? (waitsFor j c.pcnt) = some k ∧ returnPois s (loopEngine l) (vget k.srcs j) = false

variable {j : Fin 5} {c : Capture} {k : Comp}

theorem exec_sourceReturn_takes {v : Int} (h : ReturnReaches l j c k s) (hm : c.mark = .good)
    (hv : captureValue s (vget k.srcs j) (vget k.pts j) (vget k.encs j) (vget (slotGet s l).fwdV j) c = some v) :
    exec (.sourceReturn l j c) s = .next (setSlotL l (fun x => { x with
      comps := x.comps.map fun q => if q.pc = k.pc && !q.done then { q with
        got := vset q.got j (some v), fwd := vset q.fwd j (captureFwd s (vget k.srcs j) (vget (slotGet s l).fwdV j)) } else q })
      (bobCarry ⟨(loopEngine l).val, by omega⟩ (leBytesInt 4 v) c.full s).1) := by
  obtain ⟨hr, hf, hh, hk, hp⟩ := h
  simp only [waitsFor, Nat.reducePow] at hk
  simp [exec, execSourceReturn, ok, hr, hf, hh, hk, hp, hm, hv]

theorem captureValue_poisoned (hm : c.mark = .poisoned) (f : SrcCfg) (pt : Int) (e : Option Enc) (w : Option Int) :
    captureValue s f pt e w c = none := by
  simp [captureValue, hm]

/-- A poisoned return crosses its bobbin and gives the computation no value (R377). -/
theorem exec_sourceReturn_poisoned (h : ReturnReaches l j c k s) (hm : c.mark = .poisoned) :
    exec (.sourceReturn l j c) s = .next (bobCarry ⟨(loopEngine l).val, by omega⟩ (leBytesInt 4 c.value) c.full s).1 := by
  obtain ⟨hr, hf, hh, hk, hp⟩ := h
  simp only [waitsFor, Nat.reducePow] at hk
  simp [exec, execSourceReturn, ok, hr, hf, hh, hk, hp, hm, captureValue_poisoned hm]

end Instants

section Window

variable {l : Fin 256} {k : Comp} {s : State}

/-- The oldest open computation of a running engine's slot, with no command of its own, comes to its deadline. -/
def WindowOpens (l : Fin 256) (k : Comp) (s : State) : Prop :=
  prismRuns s (loopEngine l) = true ∧ (slotGet s l).comps.find? (fun k => !k.done && !k.tear) = some k ∧ k.cmds = []

/-- The module computes the law from its own captures (R167). -/
theorem exec_computeWindow_runs (h : WindowOpens l k s) (hf : follows s = false) (hw : forwards s = false)
    (hd : (slotGet s l).run ≠ .disabled) :
    let o := ownValues k (slotGet s l)
    exec (.computeWindow l) s = .next (
      if (vget o.2.2.2.fwdV 3).isSome then windowRun l k o.1 o.2.1 o.2.2.1 (Config.open32 s.free).toInt o.2.2.2 (drawn s)
      else windowRun l k o.1 o.2.1 o.2.2.1 (vget o.2.2.2.last 3) o.2.2.2 s) := by
  obtain ⟨hr, hk, hc⟩ := h
  simp only [exec, execComputeWindow, ok, hr, hk, hc, List.any_nil, List.foldl_nil, when_false, setSlotL_self, hd, hf, hw, if_true, if_false,
    Bool.false_and, Bool.false_eq_true]

/-- The computation of period `pc` ends with nothing computed; the point of the slot's trip is freed where the slot had tripped (R201). -/
abbrev compIdles (pc : Nat) (x : Slot) (q : Comp) : Comp :=
  if q.pc = pc && !q.done then { q with
    done := true, tripPt := (selSet x).tripPt, trip := if x.tripOn then some false else none } else q

/-- A DISABLED slot computes nothing (R167, R182). -/
theorem exec_computeWindow_disabled (h : WindowOpens l k s) (hd : (slotGet s l).run = .disabled) :
    exec (.computeWindow l) s = .next (setSlotL l (fun x => tearClose { x with
      comps := x.comps.map (compIdles k.pc x), pc := k.pc, sat := false, lim := false, stale := false, fe := false, tripOn := false
      staleRun := Vector.replicate 5 0 }) s) := by
  obtain ⟨hr, hk, hc⟩ := h
  simp only [exec, execComputeWindow, ok, hr, hk, hc, List.any_nil, List.foldl_nil, when_false, setSlotL_self, hd, if_true]

end Window

section Release

variable {l : Fin 256} {k : Comp} {r : List Comp} {w : SinkWord} {s : State}

/-- The oldest computation of a running engine's slot is done when its output instant comes (R166). -/
def OutputDue (l : Fin 256) (k : Comp) (r : List Comp) (s : State) : Prop :=
  prismRuns s (loopEngine l) = true ∧ (slotGet s l).comps = k :: r ∧ k.done = true

theorem exec_outputInstant_releases (h : OutputDue l k r s) (ha : k.active = true) (ht : k.tear = false) :
    exec (.outputInstant l w) s = .next (prismSign (loopEngine l) k.pc (setPrism (loopEngine l)
      (fun p => { p with sigOut := p.sigOut ++ [(k.pc, (loopSlot l).val, k.run, k.u)] })
      (compOut l k w.mark w.full (setSlotL l (fun x => { x with comps := r, outU := k.u, live := x.live }) s)))) := by
  obtain ⟨hr, hk, hd⟩ := h
  simp [exec, execOutputInstant, ok, hr, hk, hd, ha, ht]

/-- What releases no output still delivers its trip (R177, R201). -/
theorem exec_outputInstant_idle (h : OutputDue l k r s) (ha : k.active = false) :
    exec (.outputInstant l w) s = .next (prismSign (loopEngine l) k.pc (compTrip k
      (setSlotL l (fun x => { x with comps := r, outU := x.outU, live := x.live && !k.tear }) s))) := by
  obtain ⟨hr, hk, hd⟩ := h
  simp [exec, execOutputInstant, ok, hr, hk, hd, ha]

end Release

theorem exec_prismEngineFault {n : Fin 4} {k : Fin 5} {s : State} (hr : prismRuns s n = true) (hk : k ≠ 0) :
    exec (.prismEngineFault n k) s = .next (prismFault n k.val s) := by
  simp [exec, execPrismEngineFault, ok, hr, hk]

/-- The ladder is to reinitialise the group of a failed engine, 1 ms after its fault (R454, assumption log 117). -/
theorem prismFault_reinit (n : Fin 4) (k : Nat) (s : State) : mapGet (prismFault n k s).pwr.reinit (8 + n.val) = some 1000 :=
  climb_reinit _ _ _

/-- Settles O41: a period start by its boundary and what the pair has decided, each instant by its command's equation, a fault by what the
stop leaves of the engine and the climb of the ladder. -/
theorem prismFrameCommands : Obligations.PrismFrameCommands := by
  refine ⟨?begins, ?pairOff, ?opens, ?takes, ?poisoned, ?runs, ?disabled, ?releases, ?idle, ?fault⟩
  case begins =>
    intro n s hr ho
    obtain ⟨t, ht, hp⟩ := exec_prismPeriodStart n s
    obtain ⟨hcount, hslots, hoff⟩ := prismPeriod_at n s hr
    rw [pairOffEnds_none (hoff.trans ho)] at hp
    exact ⟨t, ht, by rw [hp, hcount, pcntNext], by rw [hp, hslots]⟩
  case pairOff =>
    intro n q s hr ho hq
    obtain ⟨t, ht, hp⟩ := exec_prismPeriodStart n s
    obtain ⟨hcount, -, hoff⟩ := prismPeriod_at n s hr
    refine ⟨t, ht, fun i => ?_⟩
    rw [hp]
    exact pairOffEnds_due (hoff.trans ho) (hcount ▸ hq) i
  case opens =>
    intro l s hr hn hl hp ht hc
    exact exec_sampleInstant_opens ⟨hr, hn, hl, hp, ht, hc⟩ rfl
  case takes =>
    intro l j c k v s hr hf hm hh hk hp hv
    exact exec_sourceReturn_takes ⟨hr, hf, hh, hk, hp⟩ hm hv
  case poisoned =>
    intro l j c k s hr hf hm hh hk hp
    exact exec_sourceReturn_poisoned ⟨hr, hf, hh, hk, hp⟩ hm
  case runs =>
    intro l k s hr hf hw hk hc hd
    exact exec_computeWindow_runs ⟨hr, hk, hc⟩ hf hw hd
  case disabled =>
    intro l k s hr hk hc hd
    exact exec_computeWindow_disabled ⟨hr, hk, hc⟩ hd
  case releases =>
    intro l k r w s hr hk hd ha ht
    exact exec_outputInstant_releases ⟨hr, hk, hd⟩ ha ht
  case idle =>
    intro l k r w s hr hk hd ha
    exact exec_outputInstant_idle ⟨hr, hk, hd⟩ ha
  case fault =>
    intro n k s hr hk
    obtain ⟨hstate, hcause, hcomps⟩ := prismFault_at n k.val s
    exact ⟨_, exec_prismEngineFault hr hk, hstate, hcause, hcomps, prismFault_reinit n k.val s⟩

end Sys2Proof.Architecture
end

section
/-! SUPPORT. A soft stop: the command, and the periods of STOPPING. -/

namespace Sys2Proof.Architecture

open Machine Laws

/-- Soft stop moves a slot that is STARTING, RUNNING or TRIPPED, and leaves one that is STOPPING as it is (R202). -/
theorem slotCtrl_softStop_run (m : Int) (x : Slot) (h : x.run ≠ .disabled) : (slotCtrl 1 m x.run x).run = .stopping := by
  cases hr : x.run with
  | disabled => exact absurd hr h
  | stopping => exact hr
  | starting | running | tripped => rfl

section StopRamp

variable (u target : Int)

theorem towards_zero_rate : towards u target 0 = target := rfl

theorem towards_pos_rate {rate : Int} (h : 0 < rate) : towards u target rate = u + max (-rate) (min (target - u) rate) :=
  if_neg h.ne'

end StopRamp

/-- What a period of STOPPING leaves of a slot: `towards` gives the output, the rest follows from that output (R197, R198). -/
theorem lawStep_stopping_spec (l : Law) (lost : Bool) {x : Slot} (h : x.run = .stopping) :
    let c := selSet x
    let y := (lawStep l lost x).slot
    y.u = towards (lawOld x) c.failOut c.rampStop ∧ y.uPrev = y.u ∧ y.r = l.y ∧ y.d = 0 ∧
      y.run = (if y.u = c.failOut then .disabled else .stopping) ∧
      y.i = (iClamp (accQ y.u - (accSum ((frontQ c l l.y).2.1.val :: ffTerms c l l.y)).val)).val := by
  obtain ⟨hu, hprev, hr, -, hd, -, hi⟩ := lawHeld_spec l (towards (lawOld x) (selSet x).failOut (selSet x).rampStop) x
  dsimp only
  rw [lawStep_stopping l lost x h]
  refine ⟨hu, hprev.trans hu.symm, hr, hd, ?_, ?_⟩
  · rw [hu]
  · rw [hu]
    exact hi

/-- Settles O42: the soft stop's command, and in a period of STOPPING the step of `towards` by RAMP_STOP, its distance from FAIL_OUT and
what follows from that output. -/
theorem prismSoftStop : Obligations.PrismSoftStop := by
  refine ⟨slotCtrl_softStop_run, fun l lost x h => ?_⟩
  obtain ⟨hu, hprev, hr, hd, hrun, hi⟩ := lawStep_stopping_spec l lost h
  refine ⟨fun hramp => ⟨?step, ?distance⟩, fun hzero => ?atOnce, hprev, hr, hd, hrun, hi⟩
  case step => exact hu.trans (towards_pos_rate _ _ hramp)
  case distance =>
    rw [hu]
    exact towards_dist _ _ _ hramp
  case atOnce =>
    rw [hu, hzero]
    exact towards_zero_rate _ _

end Sys2Proof.Architecture
end

section
/-! SUPPORT. What reports, raises and deliveries of the digital channels leave of the channels and of the recorder. -/

namespace Sys2Proof.Architecture

open Machine Laws

section DigitalFrames

variable (b : Fin 4) (c : Fin 32) (s : State)

@[simp] theorem bankReport_dio (always : Bool) : (bankReport always b s).dio = s.dio :=
  (view_dio_iff _ _).mp (bankReport_view (by decide) _ _ _)

@[simp] theorem bankReport_rcd (always : Bool) : (bankReport always b s).rcd = s.rcd :=
  (view_rcd_iff _ _).mp (bankReport_view (by decide) _ _ _)

@[simp] theorem raiseField_dio (code sev : Nat) (value : Int) : (raiseField code sev value s).dio = s.dio :=
  (view_dio_iff _ _).mp (raiseField_view (by decide) _ _ _ _)

@[simp] theorem enterLow_dio : (enterLow b s).dio = s.dio :=
  (view_dio_iff _ _).mp (enterLow_view (by decide) _ _)

@[simp] theorem dioDeliver_dio : (dioDeliver c s).dio = s.dio :=
  (view_dio_iff _ _).mp (dioDeliver_view (by decide) _ _)

@[simp] theorem dioDeliver_rcd : (dioDeliver c s).rcd = s.rcd :=
  (view_rcd_iff _ _).mp (dioDeliver_view (by decide) _ _)

@[simp] theorem dioUpdate_rcd : (dioUpdate c s).rcd = s.rcd := bankReport_rcd _ _ _

/-- The recorder takes the same record whether a channel has changed or not: the stamp does not depend on the channels. -/
theorem raiseField_setDio_rcd (code sev : Nat) (value : Int) (f : DioCh → DioCh) :
    (raiseField code sev value (setDio c f s)).rcd = (raiseField code sev value s).rcd := by
  rw [raiseField_rcd, raiseField_rcd]
  rfl

/-- A switch that an evaluation changes keeps its protection state. -/
theorem dioUpdate_prot : (vget (dioUpdate c s).dio c).prot = (vget s.dio c).prot := by
  rw [dioUpdate_dio, dioEval_dio, vget_vmod_self]
  split_ifs <;> rfl

theorem dioUpdate_sw : (vget (dioUpdate c s).dio c).sw = dioWanted s c := by
  rw [dioUpdate_dio, dioEval_sw]

variable {b c s}

/-- A channel in the retry wait or latched is not driven (R207). -/
theorem dioWanted_of_prot (h : (vget s.dio c).prot ≠ .none) : dioWanted s c = false := by
  simp [dioWanted, dioHeld, h]

/-- A channel of a bank in UV_OFF is not driven (R207). -/
theorem dioWanted_of_uvOff (h : (vget s.dbank (dioBankOf c)).uvOff = true) : dioWanted s c = false := by
  simp [dioWanted, dioHeld, h]

theorem dioBankOf_dioChOf (b : Fin 4) (i : Fin 8) : dioBankOf (dioChOf b i) = b := by
  ext
  simp only [dioBankOf, dioChOf]
  omega

theorem vmod_eq_self {α : Type} {n : Nat} (v : Vector α n) (i : Fin n) {f : α → α} (h : f (vget v i) = vget v i) : vmod v i f = v := by
  rw [vmod, h]
  simp [vset, vget]

end DigitalFrames

end Sys2Proof.Architecture
end

section
/-! SUPPORT. The input stage of a digital channel: the comparison of a sample, and the accepted edge (R215, R216). -/

namespace Sys2Proof.Architecture

open Machine Laws

/-- An accepted edge as one channel sees it: the sampled state, no timer, and a rising edge counted where CNT is set (R215, R216). -/
def acceptedCh (x : DioCh) : DioCh :=
  { x with deb := dioRaw x, timer := none, count := if x.cfg.cnt && dioRaw x then x.count + 1 else x.count }

/-- What the comparison of a sample at the instant `i` makes of its channel (R215). -/
def comparedCh (i : Nat × Nat × Bool) (x : DioCh) : DioCh :=
  if dioRaw x = x.deb then { x with timer := none }
  else if x.cfg.deb = 0 then acceptedCh x
  else if x.timer.isSome then x
  else { x with timer := some i }

/-- The instant of a sample: the field clock, and whether it is unsynchronised. -/
def sampleInstant (s : State) : Nat × Nat × Bool := (s.tim.field.clk.sec, s.tim.field.clk.ns, unsync s)

section InputStage

variable {c : Fin 32} {s : State}

/-- The comparison is `comparedCh` on its channel, and touches no other. -/
theorem dioCompare_dio (hf : fieldOn s = true) : (dioCompare c s).dio = vmod s.dio c (comparedCh (sampleInstant s)) := by
  unfold dioCompare
  by_cases hsame : dioRaw (vget s.dio c) = (vget s.dio c).deb
  · simp [hf, hsame, vmod, comparedCh]
  by_cases hdeb : (vget s.dio c).cfg.deb = 0
  · simp [hf, hsame, hdeb, vmod, comparedCh, acceptedCh, dioAccept_dio]
  by_cases hrun : (vget s.dio c).timer.isSome = true
  · simp [hf, hsame, hdeb, hrun, vmod_eq_self, comparedCh]
  · simp [hf, hsame, hdeb, hrun, vmod, comparedCh, sampleInstant]

variable (i : Nat × Nat × Bool) (x : DioCh)

theorem comparedCh_term : (comparedCh i x).term = x.term := by
  unfold comparedCh acceptedCh
  split_ifs <;> rfl

/-- With DEB = 0 the debounced state is the sampled state after every comparison. -/
theorem comparedCh_deb_of_zero {x : DioCh} (h : x.cfg.deb = 0) : (comparedCh i x).deb = dioRaw x := by
  by_cases hsame : dioRaw x = x.deb
  · simp [comparedCh, hsame]
  · simp [comparedCh, hsame, h, acceptedCh]

/-- With a debounce time a comparison never changes the debounced state; the timer runs exactly while the sample differs from it. -/
theorem comparedCh_debounced {x : DioCh} (h : x.cfg.deb ≠ 0) :
    (comparedCh i x).deb = x.deb ∧ (comparedCh i x).timer.isSome = (dioRaw x != x.deb) := by
  by_cases hsame : dioRaw x = x.deb
  · simp [comparedCh, hsame]
  · by_cases hrun : x.timer.isSome = true <;> simp [comparedCh, hsame, h, hrun]

theorem exec_inputChange (hf : fieldOn s = true) (hp : dioPresent s c = true) (v : Bool) :
    exec (.inputChange c v) s = .next (dioCompare c (setDio c (fun x => { x with term := v }) s)) := by
  simp [exec, execInputChange, ok, hf, hp]

/-- DEBOUNCE_END with the difference still there accepts the edge, stamped with the instant at which the timer started. -/
theorem exec_debounceEnd {sec ns : Nat} {u : Bool} (hf : fieldOn s = true) (ht : (vget s.dio c).timer = some (sec, ns, u))
    (hd : dioRaw (vget s.dio c) ≠ (vget s.dio c).deb) : exec (.debounceEnd c) s = .next (dioAccept c sec ns u s) := by
  simp [exec, execDebounceEnd, ok, hf, ht, hd]

end InputStage

/-- Settles O12: a new sample goes through one comparison, and the end of the timer accepts the edge. -/
theorem digitalInputsTakeEdges : Obligations.DigitalInputsTakeEdges := by
  refine ⟨fun c v s hf hp => ?change, fun c s hf ht hd => ?timerEnd⟩
  case change =>
    have hdio : (dioCompare c (setDio c (fun x => { x with term := v }) s)).dio =
        vmod (vmod s.dio c fun x => { x with term := v }) c (comparedCh (sampleInstant s)) := dioCompare_dio hf
    refine ⟨_, exec_inputChange hf hp v, ?_, fun h0 => ?_, fun h0 => ?_, fun d hd => ?_⟩
    · rw [hdio, vget_vmod_self, comparedCh_term, vget_vmod_self]
    · rw [hdio, vget_vmod_self, vget_vmod_self]
      exact comparedCh_deb_of_zero _ h0
    · rw [hdio, vget_vmod_self, vget_vmod_self]
      exact comparedCh_debounced _ h0
    · rw [hdio, vget_vmod_ne _ _ _ _ hd, vget_vmod_ne _ _ _ _ hd]
  case timerEnd =>
    obtain ⟨⟨sec, ns, u⟩, hi⟩ := Option.isSome_iff_exists.mp ht
    refine ⟨_, exec_debounceEnd hf hi hd, ?_, fun d hne => ?_⟩
    · rw [dioAccept_dio, vget_vmod_self]
    · rw [dioAccept_dio, vget_vmod_ne _ _ _ _ hne]

end Sys2Proof.Architecture
end

section
/-! SUPPORT. The supply of a digital bank: its thresholds, and the conditions that it enters and leaves (R210 to R212). -/

namespace Sys2Proof.Architecture

open Machine Laws

section BankSupply

variable {b : Fin 4} {s : State}

theorem enterLow_new (h : (vget s.dbank b).low = false) : enterLow b s =
    raiseField 0x0302 4 b.val (setThresholds b (setBank b (fun k => { k with low := true }) s)) := by
  simp [enterLow, h]

theorem enterUv_new (h : (vget s.dbank b).uvOff = false) : enterUv b s =
    enterLow b (raiseField 0x0303 5 b.val (bankEval b (setBank b (fun k => { k with uvOff := true }) s))) := by
  simp [enterUv, h]

/-- UV_OFF, newly entered, opens every switch of its bank: none is wanted any more (R207, R211). -/
theorem enterUv_opens (h : (vget s.dbank b).uvOff = false) (i : Fin 8) : (vget (enterUv b s).dio (dioChOf b i)).sw = false := by
  rw [enterUv_new h, enterLow_dio, raiseField_dio, bankEval_sw]
  exact dioWanted_of_uvOff (by rw [dioBankOf_dioChOf, setBank_dbank, vget_vmod_self])

/-! ### The thresholds -/

/-- A bank with a new filtered supply, and VMIN with it (R210, R225). -/
def suppliedBank (v : BankSupply) (k : DioBank) : DioBank :=
  { k with vbank := v.filtered, vKnown := true
           vmin := if k.vKnown then min k.vmin (min v.filtered v.lowest) else min v.filtered v.lowest }

/-- A bank with its thresholds recomputed, and nothing else changed. -/
def rethresholded (k : DioBank) : DioBank := { k with von := (bankThresholds k).1, voff := (bankThresholds k).2 }

theorem exec_thresholdUpdate (hf : fieldOn s = true) (hb : b.val < bankCount s) (v : BankSupply) :
    exec (.thresholdUpdate b v) s = .next (setThresholds b (setBank b (suppliedBank v) s)) :=
  congrArg Host.Outcome.next (if_pos (by simp [hf, hb]))

/-- A new filtered supply as the banks see it. -/
theorem supplied_dbank (v : BankSupply) : (setThresholds b (setBank b (suppliedBank v) s)).dbank =
    vmod (vmod s.dbank b (suppliedBank v)) b rethresholded := rfl

theorem bankThresholds_low {k : DioBank} (h : k.low = true) : bankThresholds k = dioThresholds 1400 := if_pos h

theorem bankThresholds_known {k : DioBank} (hl : k.low = false) (hv : k.vKnown = true) : bankThresholds k = dioThresholds k.vbank := by
  simp [bankThresholds, hl, hv]

/-! ### A condition entered or released, once a first filtered supply exists -/

variable (hf : fieldOn s = true) (hb : b.val < bankCount s) (hv : (vget s.dbank b).vKnown = true)

include hf hb hv

theorem exec_entered_warn (h : (vget s.dbank b).warn = false) : exec (.supplyConditionEntered b .warn) s =
    .next (bankReport false b (raiseField 0x0301 3 b.val (setBank b (fun k => { k with warn := true }) s))) := by
  simp [exec, execSupplyConditionEntered, ok, hf, hb, hv, h]

theorem exec_entered_high (h : (vget s.dbank b).high = false) : exec (.supplyConditionEntered b .high) s =
    .next (bankReport false b (raiseField 0x030C 4 b.val (setBank b (fun k => { k with high := true }) s))) := by
  simp [exec, execSupplyConditionEntered, ok, hf, hb, hv, h]

theorem exec_entered_low : exec (.supplyConditionEntered b .low) s = .next (bankReport false b (enterLow b s)) := by
  simp [exec, execSupplyConditionEntered, ok, hf, hb, hv]

theorem exec_entered_uvOff : exec (.supplyConditionEntered b .uvOff) s = .next (bankReport false b (enterUv b s)) := by
  simp [exec, execSupplyConditionEntered, ok, hf, hb, hv]

theorem exec_entered_nosup : exec (.supplyConditionEntered b .nosup) s =
    .next (bankReport false b (enterLow b (enterUv b (setBank b (fun k => { k with nosup := true }) s)))) := by
  simp [exec, execSupplyConditionEntered, ok, hf, hb, hv]

theorem exec_released_warn : exec (.supplyConditionReleased b .warn) s =
    .next (bankReport false b (setBank b (fun k => { k with warn := false }) s)) := by
  simp [exec, execSupplyConditionReleased, ok, hf, hb, hv]

theorem exec_released_high : exec (.supplyConditionReleased b .high) s =
    .next (bankReport false b (setBank b (fun k => { k with high := false }) s)) := by
  simp [exec, execSupplyConditionReleased, ok, hf, hb, hv]

theorem exec_released_nosup : exec (.supplyConditionReleased b .nosup) s =
    .next (bankReport false b (setBank b (fun k => { k with nosup := false }) s)) := by
  simp [exec, execSupplyConditionReleased, ok, hf, hb, hv]

theorem exec_released_low (h : (vget s.dbank b).low = true) : exec (.supplyConditionReleased b .low) s =
    .next (bankReport false b (bankInputs b (setThresholds b (setBank b (fun k => { k with low := false, nosup := false }) s)))) := by
  simp [exec, execSupplyConditionReleased, ok, hf, hb, hv, h]

theorem exec_released_uvOff (h : (vget s.dbank b).uvOff = true) : exec (.supplyConditionReleased b .uvOff) s =
    .next (bankReport false b (raiseField 0x0304 2 b.val (bankEval b (setBank b (fun k => { k with uvOff := false, nosup := false }) s)))) := by
  simp [exec, execSupplyConditionReleased, ok, hf, hb, hv, h]

end BankSupply

/-- Settles O14: UV_OFF and NOSUP both pass through the entry of UV_OFF, whose evaluation wants no switch of the bank on. -/
theorem digitalUndervoltageOpensSwitches : Obligations.DigitalUndervoltageOpensSwitches := by
  refine ⟨fun b s hf hb hv hu => ?uvOff, bankEval_sw, fun b s hf hb hv hu => ?nosup⟩
  case uvOff =>
    refine ⟨_, exec_entered_uvOff hf hb hv, fun i => ?_⟩
    rw [bankReport_dio]
    exact enterUv_opens hu i
  case nosup =>
    refine ⟨_, exec_entered_nosup hf hb hv, fun i => ?_⟩
    rw [bankReport_dio, enterLow_dio]
    exact enterUv_opens (by rw [setBank_dbank, vget_vmod_self]; exact hu) i

/-- Settles O13: the thresholds by `bankThresholds`, each condition by its command's equation. -/
theorem digitalSupplyCommands : Obligations.DigitalSupplyCommands := by
  refine ⟨fun b v s hf hb hl => ?thresholds, fun b v s hf hb hl => ?thresholdsHeld,
    fun b s => exec_entered_warn, fun b s hf hb hv hl => ?low, fun b s hf hb hv hu => ?uvOff, fun b s => exec_entered_high,
    fun b s => exec_entered_nosup, fun b s => exec_released_warn, fun b s => exec_released_low, fun b s => exec_released_uvOff,
    fun b s => exec_released_high, fun b s => exec_released_nosup⟩
  case thresholds =>
    refine ⟨_, exec_thresholdUpdate hf hb v, ?_⟩
    have hth : bankThresholds (suppliedBank v (vget s.dbank b)) = dioThresholds v.filtered := bankThresholds_known hl rfl
    rw [supplied_dbank, vget_vmod_self, vget_vmod_self]
    refine ⟨rfl, rfl, congrArg Prod.fst hth, congrArg Prod.snd hth, fun d hd => ?_⟩
    rw [vget_vmod_ne _ _ _ _ hd, vget_vmod_ne _ _ _ _ hd]
  case thresholdsHeld =>
    refine ⟨_, exec_thresholdUpdate hf hb v, ?_⟩
    have hth : bankThresholds (suppliedBank v (vget s.dbank b)) = dioThresholds 1400 := bankThresholds_low hl
    rw [supplied_dbank, vget_vmod_self, vget_vmod_self]
    exact ⟨rfl, rfl, congrArg Prod.fst hth, congrArg Prod.snd hth⟩
  case low => rw [exec_entered_low hf hb hv, enterLow_new hl]
  case uvOff => rw [exec_entered_uvOff hf hb hv, enterUv_new hu]

end Sys2Proof.Architecture
end

section
/-! SUPPORT. Protection and diagnosis of the digital channels (R208, R213, R214, R218 to R221). -/

namespace Sys2Proof.Architecture

open Machine Laws

section Protection

variable {c : Fin 32} {s : State}

theorem exec_bankShed {b : Fin 4} {ma : Nat} (hf : fieldOn s = true) (hb : b.val < bankCount s)
    (hc : highestOn (setBank b (fun k => { k with ibank := ma, imax := max k.imax ma }) s) b = some c) (hm : 3000 < ma) :
    exec (.bankShed b ma) s = .next (raiseField 0x030A 5 c.val (dioUpdate c (setDio c (fun x => { x with shed := true })
      (setBank b (fun k => { k with ibank := ma, imax := max k.imax ma }) s)))) := by
  simp [exec, execBankShed, ok, hf, hb, hc, hm]

/-! ### Thermal protection -/

/-- A channel whose switch is too hot: in the retry wait, or latched after the fifth retry, and the shutdown counted (R218). -/
def shutDownCh (x : DioCh) : DioCh := { x with prot := if 5 ≤ x.retries then .latched else .retry, tsd := holdInc 0xFF x.tsd }

theorem exec_thermalShutdown_retry (hf : fieldOn s = true) (hs : (vget s.dio c).sw = true) (hr : (vget s.dio c).retries < 5) :
    exec (.thermalShutdown c) s = .next (dioUpdate c (raiseField 0x0305 3 c.val (setDio c shutDownCh s))) := by
  have hnot : ¬ 5 ≤ (vget s.dio c).retries := Nat.not_le.mpr hr
  simp only [exec, execThermalShutdown, ok, hf, hs, hnot, Bool.and_self, if_true, if_false]
  rfl

theorem exec_thermalShutdown_latch (hf : fieldOn s = true) (hs : (vget s.dio c).sw = true) (hr : 5 ≤ (vget s.dio c).retries) :
    exec (.thermalShutdown c) s = .next (dioUpdate c (raiseField 0x0306 5 c.val (setDio c shutDownCh s))) := by
  simp only [exec, execThermalShutdown, ok, hf, hs, hr, Bool.and_self, if_true]
  rfl

/-- A protection state that a raise announces opens the switch, and stands after the evaluation (R218). -/
theorem protected_opens {f : DioCh → DioCh} {p : DioProt} (hp : (f (vget s.dio c)).prot = p) (hn : p ≠ .none) (code sev : Nat) :
    let t := dioUpdate c (raiseField code sev c.val (setDio c f s))
    (vget t.dio c).sw = false ∧ (vget t.dio c).prot = p ∧ t.rcd = (raiseField code sev c.val s).rcd := by
  have hprot : (vget (raiseField code sev c.val (setDio c f s)).dio c).prot = p := by
    rw [raiseField_dio, setDio_dio, vget_vmod_self, hp]
  refine ⟨?_, ?_, ?_⟩
  · rw [dioUpdate_sw, dioWanted_of_prot (hprot ▸ hn)]
  · rw [dioUpdate_prot, hprot]
  · rw [dioUpdate_rcd, raiseField_setDio_rcd]

theorem exec_thermalRetry (hf : fieldOn s = true) (hp : (vget s.dio c).prot = .retry) :
    exec (.thermalRetry c) s = .next (dioUpdate c (setDio c (fun x => { x with prot := .none, retryDue := true }) s)) := by
  simp [exec, execThermalRetry, ok, hf, hp]

theorem exec_retryCountReset (hf : fieldOn s = true) (hs : (vget s.dio c).sw = true) :
    exec (.retryCountReset c) s = .next (setDio c (fun x => { x with retries := 0 }) s) := by
  simp [exec, execRetryCountReset, ok, hf, hs]

/-! ### DIO_LATn -/

theorem blockNo_dioLat : ∀ b : Fin 4, blockNo (0x2818 + 0x40 * b.val) = 6 := by decide

theorem arrayAt_dioLat : ∀ b : Fin 4, arrayAt 0x2800 0x40 4 (0x2818 + 0x40 * b.val) = some (b.val, 0x18) := by decide

/-- A write that reaches DIO_LATn releases the channels of its bank one after the other (R219). -/
theorem exec_dioLatWrite {fn : Func} {b : Fin 4} (h : reaches fn (0x2818 + 0x40 * b.val) s) (v : Word) :
    exec (.dioLatWrite fn b v) s =
      .next (foldFin 8 (fun t i => dioRelease (dioChOf b i) (bitOf v.toNat i.val) (bitOf v.toNat (8 + i.val)) t) s) := by
  have hput : regPut (fn = .f1) (0x2818 + 0x40 * b.val) v.toNat s = putDio (0x2818 + 0x40 * b.val) v.toNat s := by
    simp only [regPut, blockNo_dioLat]
  have hrow : exec (.dioLatWrite fn b v) s = .next (barWrite fn (0x2818 + 0x40 * b.val) v s) := rfl
  rw [hrow, barWrite_reaches h, hput]
  simp only [putDio, arrayAt_dioLat, Fin.ofNat_eq_cast, Fin.cast_val_eq_self]

/-! ### The flags of a channel -/

/-- A flag set on one channel with its event, and the bank's report after it: that channel alone changes, and the recorder takes the event. -/
theorem flagRaised (b : Fin 4) (f : DioCh → DioCh) (code sev : Nat) :
    let t := bankReport false b (raiseField code sev c.val (setDio c f s))
    t.dio = vset s.dio c (f (vget s.dio c)) ∧ t.rcd = (raiseField code sev c.val s).rcd := by
  refine ⟨?_, ?_⟩
  · rw [bankReport_dio, raiseField_dio, setDio_dio, vmod]
  · rw [bankReport_rcd, raiseField_setDio_rcd]

theorem exec_rbLow (hf : fieldOn s = true) (ho : dioOut (vget s.dio c) = true) (hc : (vget s.dio c).cmd = true)
    (hs : (vget s.dio c).sw = true) (hn : (vget s.dio c).rbLow = false) : exec (.rbLow c) s =
      .next (bankReport false (dioBankOf c) (raiseField 0x0309 5 c.val (setDio c (fun x => { x with rbLow := true, limit := false }) s))) := by
  simp [exec, execRbLow, ok, hf, ho, hc, hs, hn]

theorem exec_extDrive (hf : fieldOn s = true) (hl : (vget s.dbank (dioBankOf c)).live = true) (ho : dioOut (vget s.dio c) = true)
    (hs : (vget s.dio c).sw = false) (hd : drives s = true) (hw : s.mir.extWait = false) (hn : (vget s.dio c).ext = false) :
    exec (.extDrive c) s =
      .next (bankReport false (dioBankOf c) (raiseField 0x0307 4 c.val (setDio c (fun x => { x with ext := true }) s))) := by
  simp [exec, execExtDrive, ok, hf, hl, ho, hs, hd, hw, hn]

theorem exec_wireBreak (hf : fieldOn s = true) (hl : (vget s.dbank (dioBankOf c)).live = true) (hm : (vget s.dio c).cfg.mode = 1)
    (hw : (vget s.dio c).cfg.wb = true) (hlow : (vget s.dbank (dioBankOf c)).low = false) (hn : (vget s.dio c).wbrk = false) :
    exec (.wireBreak c) s =
      .next (bankReport false (dioBankOf c) (raiseField 0x0308 4 c.val (setDio c (fun x => { x with wbrk := true }) s))) := by
  simp [exec, execWireBreak, ok, hf, hl, hm, hw, hlow, hn]

theorem exec_readbackFlagClear_rbLow (hf : fieldOn s = true) : exec (.readbackFlagClear c .rbLow) s =
    .next (bankReport false (dioBankOf c) (setDio c (fun x => { x with rbLow := false }) s)) := by
  simp [exec, execReadbackFlagClear, ok, hf]

theorem exec_readbackFlagClear_extDrive (hf : fieldOn s = true) : exec (.readbackFlagClear c .extDrive) s =
    .next (bankReport false (dioBankOf c) (setDio c (fun x => { x with ext := false }) s)) := by
  simp [exec, execReadbackFlagClear, ok, hf]

theorem exec_wireBreakClear (hf : fieldOn s = true) (hw : (vget s.dio c).wbrk = true) (hl : (vget s.dbank (dioBankOf c)).low = false) :
    exec (.wireBreakClear c) s =
      .next (bankReport false (dioBankOf c) (dioDeliver c (setDio c (fun x => { x with wbrk := false }) s))) := by
  simp [exec, execWireBreakClear, ok, hf, hw, hl]

theorem exec_digitalDisagree (hf : fieldOn s = true) (hr : s.mir.role = .standby) (hl : (vget s.dbank (dioBankOf c)).live = true)
    (hm : dioMismatch s c = true) (hn : (vget s.dio c).disagree = false) :
    exec (.digitalDisagree c) s = .next (raiseField 0x030B 3 c.val (setDio c (fun x => { x with disagree := true }) s)) := by
  simp [exec, execDigitalDisagree, ok, hf, hr, hl, hm, hn]

end Protection

/-- Settles O15: every command by its equation; a protection state opens its switch, a flag changes its channel alone. -/
theorem digitalProtectionCommands : Obligations.DigitalProtectionCommands := by
  refine ⟨fun b ma c s => exec_bankShed, ?retryWait, ?latched, ?retry, fun fn b v s h => exec_dioLatWrite h v, ?rbLow, ?extDrive,
    ?rbLowClear, ?extDriveClear, ?wireBreak, ?wireBreakClear, fun c s => exec_digitalDisagree, fun s => rfl,
    fun c s => exec_retryCountReset⟩
  case retryWait =>
    intro c s hf hs hr
    exact ⟨_, exec_thermalShutdown_retry hf hs hr, protected_opens (if_neg (Nat.not_le.mpr hr)) (by decide) _ _⟩
  case latched =>
    intro c s hf hs hr
    exact ⟨_, exec_thermalShutdown_latch hf hs hr, protected_opens (if_pos hr) (by decide) _ _⟩
  case retry =>
    intro c s hf hp
    refine ⟨_, exec_thermalRetry hf hp, ?_, dioUpdate_sw _ _⟩
    rw [dioUpdate_prot, setDio_dio, vget_vmod_self]
  case rbLow =>
    intro c s hf ho hc hs hn
    exact ⟨_, exec_rbLow hf ho hc hs hn, flagRaised _ _ _ _⟩
  case extDrive =>
    intro c s hf hl ho hs hd hw hn
    exact ⟨_, exec_extDrive hf hl ho hs hd hw hn, flagRaised _ _ _ _⟩
  case rbLowClear =>
    intro c s hf
    exact ⟨_, exec_readbackFlagClear_rbLow hf, bankReport_dio _ _ _⟩
  case extDriveClear =>
    intro c s hf
    exact ⟨_, exec_readbackFlagClear_extDrive hf, bankReport_dio _ _ _⟩
  case wireBreak =>
    intro c s hf hl hm hw hlow hn
    exact ⟨_, exec_wireBreak hf hl hm hw hlow hn, flagRaised _ _ _ _⟩
  case wireBreakClear =>
    intro c s hf hw hl
    refine ⟨_, exec_wireBreakClear hf hw hl, ?_, ?_⟩
    · rw [bankReport_dio, dioDeliver_dio, setDio_dio, vmod]
    · rw [bankReport_rcd, dioDeliver_rcd, setDio_rcd]

end Sys2Proof.Architecture
end

section
/-! SUPPORT. The values of the field: the integer square root, Gray code and a transmitter's clamp (R231, R233, R245). -/

namespace Sys2Proof.Architecture

open Machine Laws

/-- The bits that are still to be found keep the root between `r` and `r + 2 ^ k`. -/
theorem isqrtBits_isRoot {n k r : Nat} (hlo : r * r ≤ n) (hhi : n < (r + 2 ^ k) * (r + 2 ^ k)) :
    isqrtBits n k r * isqrtBits n k r ≤ n ∧ n < (isqrtBits n k r + 1) * (isqrtBits n k r + 1) := by
  induction k generalizing r with
  | zero => exact ⟨hlo, hhi⟩
  | succ k ih =>
    rw [isqrtBits]
    split_ifs with htaken
    · exact ih htaken (by rwa [Nat.add_assoc, ← Nat.two_mul, ← Nat.pow_succ'])
    · exact ih hlo (Nat.lt_of_not_le htaken)

theorem testBit_gray (v i : Nat) : (v ^^^ (v / 2)).testBit i = (v.testBit i ^^ v.testBit (i + 1)) := by
  rw [Nat.testBit_xor, Nat.testBit_add_one]

/-- Shifting in the bit below goes from the quotient by `2 ^ (n + 1)` to the quotient by `2 ^ n`. -/
theorem two_mul_div_add_testBit (v n : Nat) : 2 * (v / 2 ^ (n + 1)) + (if v.testBit n then 1 else 0) = v / 2 ^ n := by
  rw [← Bool.cond_eq_ite, ← Bool.toNat, Nat.toNat_testBit, Nat.pow_succ, ← Nat.div_div_eq_div_mul]
  exact Nat.div_add_mod _ 2

/-- The decoder has taken the bits of `v` above the lowest `n`: it goes on to `v`. -/
theorem grayToBin_gray (v n : Nat) : grayToBin n (v ^^^ (v / 2)) (v / 2 ^ n) = v := by
  induction n with
  | zero => simp [grayToBin]
  | succ n ih =>
    have hacc : decide (v / 2 ^ (n + 1) % 2 = 1) = v.testBit (n + 1) := Nat.testBit_eq_decide_div_mod_eq.symm
    have hbit : (bitOf (v ^^^ (v / 2)) n != decide (v / 2 ^ (n + 1) % 2 = 1)) = v.testBit n := by
      rw [hacc, bitOf, testBit_gray]
      cases v.testBit n <;> cases v.testBit (n + 1) <;> rfl
    rw [grayToBin, hbit, two_mul_div_add_testBit, ih]

theorem aioClamp_ne43 {g : AioCfg} (h : g.ne43 = true) (x : Int) : aioClamp g x = (max 3800 (min x 20500)).toNat := if_pos h

theorem aioClamp_full {g : AioCfg} (h : g.ne43 = false) (x : Int) : aioClamp g x = (max 3600 (min x 21500)).toNat := by
  simp [aioClamp, h]

/-- Settles O18: the root and the Gray decoder by what their remaining bits leave open, the clamp by its two ranges. -/
theorem fieldValueArithmetic : Obligations.FieldValueArithmetic := by
  refine ⟨fun n hn => isqrtBits_isRoot (Nat.zero_le n) ?root, fun n v hv => ?gray, fun g x h => ?ne43, fun g x h => ?full⟩
  case root => exact hn
  case gray => simpa only [Nat.div_eq_of_lt hv] using grayToBin_gray v n
  case ne43 =>
    rw [aioClamp_ne43 h]
    omega
  case full =>
    rw [aioClamp_full h]
    omega

end Sys2Proof.Architecture
end

section
/-! SUPPORT. Encoder ports: the input filters and the decoder, index marks, SSI frames, deliveries (R241 to R246, R251). -/

namespace Sys2Proof.Architecture

open Machine Laws

section EncoderFrames

variable (p : Fin 4) (s : State)

@[simp] theorem raiseField_enc (code sev : Nat) (value : Int) : (raiseField code sev value s).enc = s.enc :=
  (view_enc_iff _ _).mp (raiseField_view (by decide) _ _ _ _)

@[simp] theorem pointUpdate_enc (pt : Nat) (v : Word) : (pointUpdate pt v s).enc = s.enc :=
  (view_enc_iff _ _).mp (pointUpdate_view (by decide) _ _ _)

@[simp] theorem modEnc_rcd (f : Enc → Enc) : (modEnc p f s).rcd = s.rcd :=
  (view_rcd_iff _ _).mp (modEnc_view (by decide) _ _ _)

/-- A point update that is made or not leaves the ports as they are. -/
theorem when_pointUpdate_enc (c : Bool) (pt : Nat) (v : Word) : (when c (pointUpdate pt v) s).enc = s.enc := by
  cases c
  · rfl
  · exact pointUpdate_enc s pt v

/-- A quadrature error: QERR is set and counted, and where the count goes is free (R242). -/
theorem encQuadErr_enc : ∃ n w, vget (encQuadErr p s).enc p =
    { vget s.enc p with qerr := true, qerrN := holdInc 0xFFFF (vget s.enc p).qerrN, pos := n, lastStat := w } := by
  rw [encQuadErr, raiseField_enc]
  exact (modEnc_enc p _ (drawn s)).imp' _ fun _ h => ⟨_, h⟩

end EncoderFrames

/-! ### The filters of the inputs and the decoder (R242) -/

section Decoder

/-- An input that shows its filtered level keeps it, and its count starts anew. -/
theorem encInput_steady {filt held n : Nat} {v : Bool} (hn : 0 < n) : encInput filt v held v n = (v, 0, none) := by
  simp [encInput, hn.ne']

/-- A new level that has not yet been stable for FILT + 1 cycles waits. -/
theorem encInput_waits {filt held n : Nat} {v raw : Bool} (hn : 0 < n) (hv : raw ≠ v) (h : held + n ≤ filt) :
    encInput filt v held raw n = (v, held + n, none) := by
  have hnot : ¬ filt + 1 ≤ held + n := by omega
  simp [encInput, hn.ne', hv, hnot]

/-- A new level that has been stable for FILT + 1 cycles is taken. -/
theorem encInput_takes {filt held n : Nat} {v raw : Bool} (hn : 0 < n) (hv : raw ≠ v) (h : filt + 1 ≤ held + n) :
    encInput filt v held raw n = (raw, 0, some (filt + 1 - held)) := by
  simp [encInput, hn.ne', hv, h]

variable {x : Enc} {l : EncLine} {a b : Bool}

theorem encMove_starts (hx : x.levels = none) : encMove x l = ({ x with levels := some (l.a, l.b) }, .stay) := by
  simp [encMove, hx]

variable (hx : x.levels = some (a, b)) (hn : 0 < l.cycles)

include hx hn

theorem encMove_takesA (ha : l.a ≠ a) (hb : l.b = b) (h : x.cfg.filt + 1 ≤ x.heldA + l.cycles) :
    encMove x l = ({ x with levels := some (l.a, b), heldA := 0, heldB := 0 }, .count (encStepA l.a b)) := by
  simp only [encMove, hx, hb, encInput_takes hn ha h, encInput_steady hn]

theorem encMove_takesB (ha : l.a = a) (hb : l.b ≠ b) (h : x.cfg.filt + 1 ≤ x.heldB + l.cycles) :
    encMove x l = ({ x with levels := some (a, l.b), heldA := 0, heldB := 0 }, .count (encStepB a l.b)) := by
  simp only [encMove, hx, ha, encInput_takes hn hb h, encInput_steady hn]

theorem encMove_waitsA (ha : l.a ≠ a) (hb : l.b = b) (h : x.heldA + l.cycles ≤ x.cfg.filt) :
    encMove x l = ({ x with levels := some (a, b), heldA := x.heldA + l.cycles, heldB := 0 }, .stay) := by
  simp only [encMove, hx, hb, encInput_waits hn ha h, encInput_steady hn]

/-- Both inputs take a new level in the same cycle: no direction can be told. -/
theorem encMove_takesBoth (ha : l.a ≠ a) (hb : l.b ≠ b) (hab : x.heldA = x.heldB) (h : x.cfg.filt + 1 ≤ x.heldA + l.cycles) :
    encMove x l = ({ x with levels := some (l.a, l.b), heldA := 0, heldB := 0 }, .bad) := by
  rw [hab] at h
  simp only [encMove, hx, hab, encInput_takes hn ha h, encInput_takes hn hb h, if_true]

end Decoder

section Lines

variable {p : Fin 4} {l : EncLine} {s : State} {y : Enc}

theorem encLine_stay (h : encMove (vget s.enc p) l = (y, .stay)) : vget (encLine p l s).enc p = y := by
  simp [encLine, h]

theorem encLine_count {n : Int} (h : encMove (vget s.enc p) l = (y, .count n)) :
    vget (encLine p l s).enc p = { y with pos := y.pos + wordOf (encDir y.cfg n), still := false } := by
  simp [encLine, encCount, h]

theorem encLine_bad (h : encMove (vget s.enc p) l = (y, .bad)) : ∃ n w, vget (encLine p l s).enc p =
    { y with qerr := true, qerrN := holdInc 0xFFFF y.qerrN, pos := n, lastStat := w } := by
  simpa [encLine, h] using encQuadErr_enc p (setEnc p (fun _ => y) s)

end Lines

/-! ### The commands of a port -/

section PortCommands

variable {p : Fin 4} {s : State}

theorem exec_encoderLoss (ho : encOn s = true) (hl : (vget s.enc p).live = true) (hm : (vget s.enc p).cfg.emode ≠ .unused)
    (hn : (vget s.enc p).loss = false) :
    exec (.encoderLoss p) s = .next (raiseField 0x0413 5 p.val (modEnc p (fun x => { x with loss := true }) s)) := by
  simp [exec, execEncoderLoss, ok, ho, hl, hm, hn]

theorem exec_encoderLossEnd (ho : encOn s = true) : exec (.encoderLossEnd p) s = .next (modEnc p (fun x => { x with loss := false }) s) := by
  simp [exec, execEncoderLossEnd, ok, ho]

/-- A port that runs in a mode is on, live and in that mode. -/
theorem encRuns_spec {m : EMode} (h : encRuns s p m = true) : encOn s = true ∧ (vget s.enc p).live = true ∧ (vget s.enc p).cfg.emode = m := by
  simpa [encRuns, and_assoc] using h

/-- Both inputs as a quadrature error finds them. -/
def bothTurned (x : Enc) : Enc := { x with levels := x.levels.map fun l => (!l.1, !l.2), heldA := 0, heldB := 0 }

theorem exec_qerr (h : encRuns s p .inc = true) : exec (.qerr p) s = .next (encQuadErr p (setEnc p bothTurned s)) := by
  simp only [exec, execQerr, ok, h, when_true]
  rfl

theorem exec_velocityTimeout (h : encRuns s p .inc = true) :
    exec (.velocityTimeout p) s = .next (setEnc p (fun x => { x with vel := 0, still := true }) s) := by
  simp only [exec, execVelocityTimeout, ok, h, when_true]

theorem exec_indexMark (h : encRuns s p .inc = true) (hz : (vget s.enc p).cfg.zEn = true) (ls : List EncLine) :
    exec (.indexMark p ls) s = .next (modEnc p encIndex (encLines p ls s)) := by
  simp only [exec, execIndexMark, ok, h, hz, Bool.and_self, when_true]

/-- An index by which REFMODE loads the count (R243). -/
theorem encIndex_loads {x : Enc} (h : x.cfg.refMode = 2 ∨ x.cfg.refMode = 1 ∧ x.indexed = false) :
    encIndex x = { x with ref := x.pos, pos := wordOf x.cfg.refVal, refd := true, qerr := false, indexed := true } := if_pos (by simpa using h)

theorem encIndex_records {x : Enc} (h : ¬ (x.cfg.refMode = 2 ∨ x.cfg.refMode = 1 ∧ x.indexed = false)) :
    encIndex x = { x with ref := x.pos, indexed := true } := if_neg (by simpa using h)

/-- A port with the start of a frame noted (R245, R247). -/
def frameStarted (drives : Bool) (x : Enc) : Enc :=
  { x with running := true, clk := drives, starts := min 2 (x.starts + 1), aged := x.aged || 1 ≤ x.starts }

theorem exec_ssiFrameStart (h : encRuns s p .ssi = true) :
    exec (.ssiFrameStart p) s = .next (modEnc p (frameStarted (holdsField s)) s) := by
  simp only [exec, execSsiFrameStart, ok, h, when_true]
  rfl

section SsiFrames

variable {f : SsiFrame} (h : encRuns s p .ssi = true) (hr : (vget s.enc p).running = true)

include h hr

/-- A good frame ends: its position is taken and SSIERR cleared (R245). -/
theorem exec_ssiFrameEnd_good (hg : ssiGood (vget s.enc p).cfg f = true) : ∃ g : Enc → Enc, exec (.ssiFrameEnd p f) s = .next (modEnc p g s) ∧
    ∀ x, (g x).pos = BitVec.ofNat 32 (ssiValue (vget s.enc p).cfg f) ∧ (g x).ssiErr = false ∧ (g x).running = false := by
  simp only [exec, execSsiFrameEnd, ok, h, hr, hg, Bool.and_self, if_true]
  exact ⟨_, rfl, fun _ => ⟨rfl, rfl, rfl⟩⟩

theorem exec_ssiFrameEnd_bad (hg : ssiGood (vget s.enc p).cfg f = false) : exec (.ssiFrameEnd p f) s = .next (raiseField 0x0412 3 p.val
    (modEnc p (fun x => { x with running := false, clk := false, ssiErr := true, frameN := holdInc 0xFFFF x.frameN }) s)) := by
  simp only [exec, execSsiFrameEnd, ok, h, hr, hg, Bool.and_self, if_true, Bool.false_eq_true, if_false]

end SsiFrames

/-- A delivery in incremental mode: the ports are as the decoder leaves them, with the velocity of the window (R244, R246). -/
theorem exec_encoderDelivery_inc (h : encRuns s p .inc = true) (ls : List EncLine) (w : Int) (ns : Nat) :
    ∃ t, exec (.encoderDelivery p ls w ns) s = .next t ∧ vget t.enc p = { vget (encLines p ls s).enc p with
      vel := if (vget (encLines p ls s).enc p).still then 0 else velocityOf (encDir (vget (encLines p ls s).enc p).cfg w) ns } := by
  obtain ⟨ho, hl, hm⟩ := encRuns_spec h
  refine ⟨_, congrArg Host.Outcome.next (if_pos (by simp [ho, hl, hm])), ?_⟩
  rw [if_pos hm, when_pointUpdate_enc, when_pointUpdate_enc, setEnc_enc, vget_vmod_self]

theorem exec_encoderDelivery_ssi (h : encRuns s p .ssi = true) (ls : List EncLine) (w : Int) (ns : Nat) :
    ∃ t, exec (.encoderDelivery p ls w ns) s = .next t ∧ t.enc = s.enc := by
  obtain ⟨ho, hl, hm⟩ := encRuns_spec h
  refine ⟨_, congrArg Host.Outcome.next (if_pos (by simp [ho, hl, hm])), ?_⟩
  rw [if_neg (by simp [hm]), when_pointUpdate_enc, when_pointUpdate_enc]

/-- A delivery after one stretch of the inputs leaves all but the velocity as the decoder does. -/
theorem exec_encoderDelivery_one {l : EncLine} {y : Enc} (h : encRuns s p .inc = true) (w : Int) (ns : Nat)
    (hy : vget (encLine p l s).enc p = y) : ∃ t v, exec (.encoderDelivery p [l] w ns) s = .next t ∧ vget t.enc p = { y with vel := v } :=
  let ⟨t, ht, he⟩ := exec_encoderDelivery_inc h [l] w ns
  ⟨t, _, ht, hy ▸ he⟩

theorem blockNo_encStat : ∀ p : Fin 4, blockNo (0x3400 + 0x20 * p.val) = 7 := by decide

theorem encPort_encStat : ∀ p : Fin 4, (0x3400 + 0x20 * p.val) % 0x20 = 0 ∧ Fin.ofNat 4 ((0x3400 + 0x20 * p.val - 0x3400) / 0x20) = p := by decide

/-- A write that reaches ENC_STATn with QERR set clears QERR (R251). -/
theorem exec_encQerrClear {fn : Func} {v : Word} (h : reaches fn (0x3400 + 0x20 * p.val) s) (hv : v.getLsbD 6 = true) :
    exec (.encQerrClear fn p v) s = .next (modEnc p (fun x => { x with qerr := false }) s) := by
  obtain ⟨hoff, hport⟩ := encPort_encStat p
  have hbit : bitOf v.toNat 6 = true := hv
  have hrow : exec (.encQerrClear fn p v) s = .next (barWrite fn (0x3400 + 0x20 * p.val) v s) := rfl
  rw [hrow, barWrite_reaches h]
  simp only [regPut, blockNo_encStat, hoff, hport, hbit, Nat.le_add_right, decide_true, Bool.and_self, when_true, encQerrDrop]

end PortCommands

/-- Settles O17: each command by its equation; a delivery of one stretch by what the filters take of it. -/
theorem encoderCommands : Obligations.EncoderCommands := by
  refine ⟨fun p s => exec_encoderLoss, fun p s => exec_encoderLossEnd, fun p s h => ?qerr, fun p ls s h hz hi => ?loads,
    fun p ls s h hz hi => ?records, fun p s => exec_velocityTimeout, fun p s h => ?frameStart, fun p f s h hr hg => ?goodFrame,
    fun p f s => exec_ssiFrameEnd_bad, fun p ls w ns s h => ?delivery, fun p l w ns s h hx => ?starts,
    fun p l a b w ns s h hx ha hb hn hle hge => ?takesA, fun p l a b w ns s h hx ha hb hn hle hge => ?takesB,
    fun p l a b w ns s h hx ha hb hn hle => ?waits, fun p l a b w ns s h hx ha hb hn hab hge => ?takesBoth,
    fun p ls w ns s h => exec_encoderDelivery_ssi h ls w ns, fun fn p v s => exec_encQerrClear⟩
  case qerr =>
    obtain ⟨n, w, he⟩ := encQuadErr_enc p (setEnc p bothTurned s)
    refine ⟨_, exec_qerr h, ?_⟩
    rw [he, setEnc_enc, vget_vmod_self]
    exact ⟨rfl, rfl, rfl⟩
  case loads =>
    obtain ⟨w, he⟩ := modEnc_enc p encIndex (encLines p ls s)
    refine ⟨_, exec_indexMark h hz ls, ?_⟩
    rw [he, encIndex_loads hi]
    exact ⟨rfl, rfl, rfl, rfl⟩
  case records =>
    obtain ⟨w, he⟩ := modEnc_enc p encIndex (encLines p ls s)
    refine ⟨_, exec_indexMark h hz ls, ?_⟩
    rw [he, encIndex_records hi]
    exact ⟨rfl, rfl, rfl, rfl⟩
  case frameStart =>
    obtain ⟨w, he⟩ := modEnc_enc p (frameStarted (holdsField s)) s
    refine ⟨_, exec_ssiFrameStart h, ?_⟩
    rw [he]
    exact ⟨rfl, rfl⟩
  case goodFrame =>
    obtain ⟨g, hexec, hg⟩ := exec_ssiFrameEnd_good h hr hg
    obtain ⟨w, he⟩ := modEnc_enc p g s
    obtain ⟨hpos, herr, hrun⟩ := hg (vget s.enc p)
    refine ⟨_, hexec, ?_⟩
    rw [he]
    exact ⟨hpos, herr, hrun, modEnc_rcd p s g⟩
  case delivery =>
    obtain ⟨t, ht, he⟩ := exec_encoderDelivery_inc h ls w ns
    refine ⟨t, ht, ?_⟩
    rw [he]
    exact ⟨rfl, rfl⟩
  case starts =>
    obtain ⟨t, v, ht, he⟩ := exec_encoderDelivery_one h w ns (encLine_stay (encMove_starts hx))
    refine ⟨t, ht, ?_⟩
    rw [he]
    exact ⟨rfl, rfl⟩
  case takesA =>
    obtain ⟨t, v, ht, he⟩ := exec_encoderDelivery_one h w ns (encLine_count (encMove_takesA hx hn ha hb hge))
    refine ⟨t, ht, ?_⟩
    rw [he]
    exact ⟨rfl, rfl⟩
  case takesB =>
    obtain ⟨t, v, ht, he⟩ := exec_encoderDelivery_one h w ns (encLine_count (encMove_takesB hx hn ha hb hge))
    refine ⟨t, ht, ?_⟩
    rw [he]
    exact ⟨rfl, rfl⟩
  case waits =>
    obtain ⟨t, v, ht, he⟩ := exec_encoderDelivery_one h w ns (encLine_stay (encMove_waitsA hx hn ha hb hle))
    refine ⟨t, ht, ?_⟩
    rw [he]
    exact ⟨rfl, rfl, rfl⟩
  case takesBoth =>
    obtain ⟨n, c, hbad⟩ := encLine_bad (encMove_takesBoth hx hn ha hb hab hge)
    obtain ⟨t, v, ht, he⟩ := exec_encoderDelivery_one h w ns hbad
    refine ⟨t, ht, ?_⟩
    rw [he]
    exact ⟨rfl, rfl, rfl⟩

end Sys2Proof.Architecture
end

section
/-! SUPPORT. Current channels: the two filters, deliveries, converter loss and recovery, mode changes, flags (R227 to R240). -/

namespace Sys2Proof.Architecture

open Machine Laws

/-! ### The filters of a conversion (R229, R236) -/

section Filters

variable (g : Int) (x : Aio)

/-- A filter step stays between the lower of the old value and the least seen, and the higher of the old value and the greatest seen. -/
theorem filterStep_between (old lo hi : Int) : min old lo ≤ filterStep old lo hi g ∧ filterStep old lo hi g ≤ max old hi := by
  unfold filterStep
  omega

/-- What the filter of IN_PT takes: the value of the characteristic, or a transmitter's measured current (R228). -/
def conversionValue (x : Aio) : Int := if x.cfg.cmode = .active then (aioChar x.cfg x.pri).toInt else x.pri

theorem aioFilter_flt : (aioFilter g x).flt =
    if x.cfg.filt = 0 || !x.fltOn then conversionValue x else filterStep x.flt (conversionValue x) (conversionValue x) g := rfl

/-- Without a filter, and at the first conversion, the value itself is taken. -/
theorem aioFilter_direct (h : x.cfg.filt = 0 ∨ x.fltOn = false) : (aioFilter g x).flt = conversionValue x := by
  rw [aioFilter_flt, if_pos (by simpa using h)]

theorem aioFilter_between :
    min x.flt (conversionValue x) ≤ (aioFilter g x).flt ∧ (aioFilter g x).flt ≤ max x.flt (conversionValue x) := by
  rw [aioFilter_flt]
  split_ifs
  · exact ⟨Int.min_le_right _ _, Int.le_max_right _ _⟩
  · exact filterStep_between g _ _ _

/-- A transmitter's margin at a conversion, in tenths of a millivolt: V_t − (6.3 V + I_cmd × 100 Ω) (R236). -/
def marginTenths (x : Aio) : Int := 10 * x.vt - 63000 - x.cmd

/-- A value as the margin's 16 bits hold it. -/
def marginSat (v : Int) : Int := max (-32768) (min 32767 v)

theorem marginSat_mono {u v : Int} (h : u ≤ v) : marginSat u ≤ marginSat v := by
  unfold marginSat
  omega

theorem aioMargin_between :
    marginSat (min x.margin (Int.fdiv (marginTenths x) 10)) ≤ (aioMargin g x).margin ∧
      (aioMargin g x).margin ≤ marginSat (max x.margin (-(Int.fdiv (-(marginTenths x)) 10))) :=
  ⟨marginSat_mono (filterStep_between g _ _ _).1, marginSat_mono (filterStep_between g _ _ _).2⟩

theorem aioMargin_margMin : (aioMargin g x).margMin = min x.margMin (aioMargin g x).margin := rfl

end Filters

section CurrentChannels

variable {c : Fin 16} {s : State}

/-! ### Conversions and deliveries -/

/-- A channel with a conversion kept (R229). -/
def converted (m : Conversion) (x : Aio) : Aio := { x with pri := m.pri, sec := m.sec, vt := m.vt, opening := false }

theorem exec_periodicConversion_off (hf : fieldOn s = true) (h : (vget s.aio c).live = false ∨ (vget s.aio c).cfg.cmode = .unused)
    (m : Conversion) : exec (.periodicConversion c m) s = .next (setAio c (converted m) s) := by
  refine congrArg Host.Outcome.next ((if_pos hf).trans (if_neg ?_))
  rcases h with h | h <;> simp [h]

/-- The filters that a channel's mode has take a conversion, each going on by a free value (R229, R236). -/
def filtered (g h : Int) (x : Aio) : Aio := if x.cfg.cmode = .passive then aioMargin h (aioFilter g x) else aioFilter g x

section Conversions

variable (m : Conversion) (g h : Int) {x : Aio}

theorem filtered_active (hm : x.cfg.cmode = .active) : filtered g h (converted m x) = aioFilter g (converted m x) :=
  if_neg (by simp [converted, hm])

theorem filtered_passive (hm : x.cfg.cmode = .passive) : filtered g h (converted m x) = aioMargin h (aioFilter g (converted m x)) :=
  if_pos hm

theorem conversionValue_active (hm : x.cfg.cmode = .active) : conversionValue (converted m x) = (aioChar x.cfg m.pri).toInt := if_pos hm

theorem conversionValue_passive (hm : x.cfg.cmode = .passive) : conversionValue (converted m x) = m.pri :=
  if_neg (by simp [converted, hm])

end Conversions

theorem exec_periodicConversion_used (hf : fieldOn s = true) (hl : (vget s.aio c).live = true) (hm : (vget s.aio c).cfg.cmode ≠ .unused)
    (m : Conversion) : exec (.periodicConversion c m) s = .next (modAio c
      (filtered (Config.open32 s.free).toInt (Config.open32 (s.free + 1)).toInt) (drawn (drawn (setAio c (converted m) s)))) :=
  congrArg Host.Outcome.next ((if_pos hf).trans (if_pos (by simp [hl, hm])))

/-- The channel after a conversion that its filters take. -/
theorem periodicConversion_spec (hf : fieldOn s = true) (hl : (vget s.aio c).live = true) (hm : (vget s.aio c).cfg.cmode ≠ .unused)
    (m : Conversion) : ∃ t g h w n, exec (.periodicConversion c m) s = .next t ∧
      vget t.aio c = { filtered g h (converted m (vget s.aio c)) with lastStat := w, margN := n } := by
  obtain ⟨w, n, he⟩ := modAio_aio c (filtered (Config.open32 s.free).toInt (Config.open32 (s.free + 1)).toInt)
    (drawn (drawn (setAio c (converted m) s)))
  rw [drawn_aio, drawn_aio, setAio_aio, vget_vmod_self] at he
  exact ⟨_, _, _, w, n, exec_periodicConversion_used hf hl hm m, he⟩

/-- A failure holds IN_PT (R232). -/
theorem exec_inPtDelivery_held (hm : (vget s.aio c).cfg.cmode = .active) (hh : aioHolds (vget s.aio c) = true) (m : Mark) :
    exec (.inPtDelivery c m) s = .next s := by
  simp [exec, execInPtDelivery, ok, hm, hh]

section Deliveries

variable (hu : aioUsed s (vget s.aio c) = true) (m : Mark)

include hu

theorem exec_inPtDelivery_filtered (hm : (vget s.aio c).cfg.cmode = .active) (hon : (vget s.aio c).fltOn = true)
    (hh : aioHolds (vget s.aio c) = false) (hw : (vget s.aio c).fwdUntil = false) :
    exec (.inPtDelivery c m) s = .next (pointWord 21 m (vget s.aio c).cfg.inPt (wordOf (vget s.aio c).flt) s) := by
  simp [exec, execInPtDelivery, ok, hu, hm, hon, hh, hw]

theorem exec_inPtDelivery_forwarded (hm : (vget s.aio c).cfg.cmode = .active) (hh : aioHolds (vget s.aio c) = false)
    (hw : (vget s.aio c).fwdUntil = true) :
    exec (.inPtDelivery c m) s = .next (pointWord 21 m (vget s.aio c).cfg.inPt (mapGetD 0 s.mir.pts (vget s.aio c).cfg.inPt) s) := by
  simp [exec, execInPtDelivery, ok, hu, hm, hh, hw]

theorem exec_inPtDelivery_passive (hm : (vget s.aio c).cfg.cmode = .passive) (hon : (vget s.aio c).fltOn = true)
    (hi : (vget s.aio c).iso = false) :
    exec (.inPtDelivery c m) s = .next (pointWord 21 m (vget s.aio c).cfg.inPt (wordOf (vget s.aio c).flt) s) := by
  simp [exec, execInPtDelivery, ok, hu, hm, hon, hi]

end Deliveries

/-! ### Converter loss and recovery, mode changes, the field-side watchdog -/

theorem exec_isoFail {b : Fin 4} (hf : fieldOn s = true) (hi : (vget s.aio (aioChOf b 0)).iso = false) : exec (.isoFail b) s =
    .next (raiseField 0x040A 6 b.val (foldFin 4 (fun t i => modAio (aioChOf b i) (fun a => { a with iso := true }) t) s)) := by
  simp [exec, execIsoFail, ok, hf, hi]

section Recovery

variable {b : Fin 4}

/-- Channel `i` of a bank whose converter is back: ISO_FAIL clears, and a block held for the bank applies (R240). -/
def recoverCh (b : Fin 4) (t : State) (i : Fin 4) : State :=
  let c := aioChOf b i
  let t1 := modAio c (fun a => { a with iso := false }) t
  match (vget t1.aio c).next with
  | some g => if (vget t1.aio c).nextIso then aioApply c g (setAio c (fun a => { a with next := none, nextIso := false }) t1) else t1
  | none => t1

theorem exec_bankConverterRecovery (hf : fieldOn s = true) (hi : (vget s.aio (aioChOf b 0)).iso = true) :
    exec (.bankConverterRecovery b) s = .next (foldFin 4 (recoverCh b) s) :=
  congrArg Host.Outcome.next (if_pos (by simp [hf, hi]))

/-- A channel for which no block waits. -/
theorem recoverCh_idle {t : State} {i : Fin 4} (h : (vget t.aio (aioChOf b i)).next = none) :
    recoverCh b t i = modAio (aioChOf b i) (fun a => { a with iso := false }) t := by
  obtain ⟨w, n, he⟩ := modAio_aio (aioChOf b i) (fun a => { a with iso := false }) t
  simp only [recoverCh, he, h]

/-- One channel's recovery, seen from every channel: none comes to wait, and ISO_FAIL is set nowhere anew. -/
theorem recoverCh_aio {t : State} {i : Fin 4} (h : (vget t.aio (aioChOf b i)).next = none) (d : Fin 16) :
    (vget (recoverCh b t i).aio d).next = (vget t.aio d).next ∧
      (d = aioChOf b i ∨ (vget t.aio d).iso = false → (vget (recoverCh b t i).aio d).iso = false) := by
  rw [recoverCh_idle h]
  by_cases hd : d = aioChOf b i
  · obtain ⟨w, n, he⟩ := modAio_aio (aioChOf b i) (fun a => { a with iso := false }) t
    rw [hd, he]
    exact ⟨rfl, fun _ => rfl⟩
  · obtain ⟨w, n, he⟩ := modAio_other (aioChOf b i) d (fun a => { a with iso := false }) t hd
    rw [he]
    exact ⟨rfl, fun hor => hor.resolve_left hd⟩

/-- The channels of `l` have recovered, and those that had before stay so. -/
theorem foldl_recoverCh_iso (l : List (Fin 4)) {t : State} (h : ∀ i, (vget t.aio (aioChOf b i)).next = none) {j : Fin 4}
    (hj : j ∈ l ∨ (vget t.aio (aioChOf b j)).iso = false) : (vget (l.foldl (recoverCh b) t).aio (aioChOf b j)).iso = false := by
  induction l generalizing t with
  | nil => simpa using hj
  | cons i l ih =>
    refine ih (fun k => ?waits) ?iso
    case waits => rw [(recoverCh_aio (h i) _).1, h k]
    case iso =>
      have hstep := (recoverCh_aio (h i) (aioChOf b j)).2
      rcases hj with hj | hj
      · rcases List.mem_cons.mp hj with rfl | hj
        · exact .inr (hstep (.inl rfl))
        · exact .inl hj
      · exact .inr (hstep (.inr hj))

end Recovery

theorem exec_cmodeChangeEnd {g : AioCfg} (hf : fieldOn s = true) (hn : (vget s.aio c).next = some g) (hc : (vget s.aio c).changing = true)
    (hi : (vget s.aio c).nextIso = false) : exec (.cmodeChangeEnd c) s = .next (aioReport true c (setAio c (aioEnter s g) s)) := by
  simp [exec, execCmodeChangeEnd, ok, hf, hn, hc, hi]

theorem exec_fieldSideWatchdog_digital {b : Fin 4} (hb : b.val < bankCount s) : exec (.fieldSideWatchdog true b) s =
    .next (raiseOrLate 0x0A06 6 21 (bankEval b (setBank b (fun k => { k with wdog := true }) s))) :=
  congrArg Host.Outcome.next (if_pos hb)

theorem exec_refreshRecovery_digital {b : Fin 4} (hf : fieldOn s = true) (hw : (vget s.dbank b).wdog = true) :
    exec (.fieldSideRefreshRecovery true b) s = .next (bankEval b (setBank b (fun k => { k with wdog := false }) s)) :=
  congrArg Host.Outcome.next ((if_pos rfl).trans (if_pos (by simp [hf, hw])))

/-! ### Flags -/

section Flags

variable {was : Bool} {put : Bool → Aio → Aio} {f : Aio → Aio} {i : Instr}

theorem flag_raised {code sev : Nat} (hi : exec i s = .next (aioFlag c was true put (some (code, sev)) s)) (hw : was = false)
    (hf : put true = f) : exec i s = .next (raiseField code sev c.val (modAio c f s)) := by
  rw [hi, hw, ← hf]
  rfl

theorem flag_set (hi : exec i s = .next (aioFlag c was true put none s)) (hw : was = false) (hf : put true = f) :
    exec i s = .next (modAio c f s) := by
  rw [hi, hw, ← hf]
  rfl

/-- A flag that clears raises nothing. -/
theorem flag_cleared {ev : Option (Nat × Nat)} (hi : exec i s = .next (aioFlag c was false put ev s)) (hw : was = true)
    (hf : put false = f) : exec i s = .next (modAio c f s) := by
  rw [hi, hw, ← hf]
  rfl

end Flags

section FlagCommands

variable (set : Bool) (hu : aioUsed s (vget s.aio c) = true)

include hu

theorem exec_mismatch : exec (.mismatch c set) s =
    .next (aioFlag c (vget s.aio c).mism set (fun b a => { a with mism := b }) (some (0x0404, 5)) s) :=
  congrArg Host.Outcome.next (if_pos hu)

theorem exec_ne43_under (hm : (vget s.aio c).cfg.cmode = .active) (hn : (vget s.aio c).cfg.ne43 = true) :
    exec (.ne43FlagChange c .under set) s = .next (aioFlag c (vget s.aio c).underI set (fun b a => { a with underI := b }) none s) :=
  congrArg Host.Outcome.next (if_pos (by simp [hu, hm, hn]))

theorem exec_ne43_over (hm : (vget s.aio c).cfg.cmode = .active) (hn : (vget s.aio c).cfg.ne43 = true) :
    exec (.ne43FlagChange c .over set) s = .next (aioFlag c (vget s.aio c).overI set (fun b a => { a with overI := b }) none s) :=
  congrArg Host.Outcome.next (if_pos (by simp [hu, hm, hn]))

theorem exec_ne43_failLo (hm : (vget s.aio c).cfg.cmode = .active) (hn : (vget s.aio c).cfg.ne43 = true) :
    exec (.ne43FlagChange c .failLo set) s = .next (aioFlag c (vget s.aio c).failLo set (fun b a => { a with failLo := b }) (some (0x0406, 4)) s) :=
  congrArg Host.Outcome.next (if_pos (by simp [hu, hm, hn]))

theorem exec_ne43_failHi (hm : (vget s.aio c).cfg.cmode = .active) (hn : (vget s.aio c).cfg.ne43 = true) :
    exec (.ne43FlagChange c .failHi set) s = .next (aioFlag c (vget s.aio c).failHi set (fun b a => { a with failHi := b }) (some (0x0406, 4)) s) :=
  congrArg Host.Outcome.next (if_pos (by simp [hu, hm, hn]))

theorem exec_short (hm : (vget s.aio c).cfg.cmode = .active) : exec (.short c set) s =
    .next (aioFlag c (vget s.aio c).short set (fun b a => { a with short := b }) (some (0x0405, 4)) s) :=
  congrArg Host.Outcome.next (if_pos (by simp [hu, hm]))

/-- COMPLIANCE changes only while OPEN, which replaces it, is clear (R236). -/
theorem exec_compliance (hm : (vget s.aio c).cfg.cmode = .passive) (ho : (vget s.aio c).open_ = false) :
    exec (.transmitterFlagChange c .compliance set) s =
      .next (aioFlag c (vget s.aio c).compl set (fun b a => { a with compl := b }) (some (0x0402, 4)) s) := by
  simp [exec, execTransmitterFlagChange, ok, hu, hm, ho]

theorem exec_openLoop (hm : (vget s.aio c).cfg.cmode = .passive) : exec (.transmitterFlagChange c .openLoop set) s =
    .next (aioFlag c (vget s.aio c).open_ set (fun b a => { a with open_ := b, compl := a.compl && !b }) (some (0x0401, 5)) s) :=
  congrArg Host.Outcome.next (if_pos (by simp [hu, hm]))

theorem exec_margLow (hm : (vget s.aio c).cfg.cmode = .passive) : exec (.transmitterFlagChange c .margLow set) s =
    .next (aioFlag c (vget s.aio c).margLow set (fun b a => { a with margLow := b }) (some (0x0403, 3)) s) :=
  congrArg Host.Outcome.next (if_pos (by simp [hu, hm]))

theorem exec_currentDisagree (hm : (vget s.aio c).cfg.cmode = .passive) (hr : s.mir.role = .standby)
    (hd : 48 < (((vget s.aio c).pri : Int) - (vget s.aio c).cmd).natAbs) : exec (.currentDisagree c) s =
      .next (aioFlag c (vget s.aio c).disagree true (fun b a => { a with disagree := b }) (some (0x0408, 3)) s) :=
  congrArg Host.Outcome.next (if_pos (by simp [hu, hm, hr, hd]))

theorem exec_share (hm : (vget s.aio c).cfg.cmode = .active) (hr : s.mir.role = .standby) (hp : 500 < (vget s.aio c).pri) :
    exec (.share c) s = .next (aioFlag c (vget s.aio c).share true (fun b a => { a with share := b }) (some (0x0409, 3)) s) :=
  congrArg Host.Outcome.next (if_pos (by simp [hu, hm, hr, hp]))

end FlagCommands

end CurrentChannels

/-- Settles O16: a conversion by its two filters, every other command by its equation, a flag by whether it is set or cleared. -/
theorem currentLoopCommands : Obligations.CurrentLoopCommands := by
  refine ⟨fun c m s hf h => exec_periodicConversion_off hf h m, fun c m s hf hl hm => ?active, fun c m s hf hl hm => ?passive,
    fun c m s hu => exec_inPtDelivery_filtered hu m, fun c m s hu => exec_inPtDelivery_forwarded hu m,
    fun c m s _ hm hh => exec_inPtDelivery_held hm hh m, fun c m s hu => exec_inPtDelivery_passive hu m,
    fun b s => exec_isoFail, fun b s hf hi hn => ?recovery,
    fun c s hu hm hr hd hn => flag_raised (exec_currentDisagree hu hm hr hd) hn rfl,
    fun c s hu hm hr hp hn => flag_raised (exec_share hu hm hr hp) hn rfl,
    fun s => rfl, fun c g s hf hn hc hi => ?modeEntered,
    fun b s => exec_fieldSideWatchdog_digital, fun b s => rfl,
    fun b s => exec_refreshRecovery_digital, fun b s hf => congrArg Host.Outcome.next (if_pos hf),
    fun c s hu _ hn => flag_raised (exec_mismatch true hu) hn rfl, fun c s hu _ hn => flag_cleared (exec_mismatch false hu) hn rfl,
    fun c s hu _ hn => flag_raised (exec_mismatch true hu) hn rfl, fun c s hu _ hn => flag_cleared (exec_mismatch false hu) hn rfl,
    fun c s hu hm hg hn => flag_set (exec_ne43_under true hu hm hg) hn rfl,
    fun c s hu hm hg hn => flag_cleared (exec_ne43_under false hu hm hg) hn rfl,
    fun c s hu hm hg hn => flag_set (exec_ne43_over true hu hm hg) hn rfl,
    fun c s hu hm hg hn => flag_cleared (exec_ne43_over false hu hm hg) hn rfl,
    fun c s hu hm hg hn => flag_raised (exec_ne43_failLo true hu hm hg) hn rfl,
    fun c s hu hm hg hn => flag_cleared (exec_ne43_failLo false hu hm hg) hn rfl,
    fun c s hu hm hg hn => flag_raised (exec_ne43_failHi true hu hm hg) hn rfl,
    fun c s hu hm hg hn => flag_cleared (exec_ne43_failHi false hu hm hg) hn rfl,
    fun c s hu hm hn => flag_raised (exec_short true hu hm) hn rfl, fun c s hu hm hn => flag_cleared (exec_short false hu hm) hn rfl,
    fun c s hu hm ho hn => flag_raised (exec_compliance true hu hm ho) hn rfl,
    fun c s hu hm ho hn => flag_cleared (exec_compliance false hu hm ho) hn rfl,
    fun c s hu hm hn => flag_raised (exec_openLoop true hu hm) hn ?openReplaces,
    fun c s hu hm hn => flag_cleared (exec_openLoop false hu hm) hn ?openEnds,
    fun c s hu hm hn => flag_raised (exec_margLow true hu hm) hn rfl, fun c s hu hm hn => flag_cleared (exec_margLow false hu hm) hn rfl⟩
  case active =>
    obtain ⟨t, g, h, w, n, ht, he⟩ := periodicConversion_spec hf hl (by simp [hm]) m
    obtain ⟨hlo, hhi⟩ := aioFilter_between g (converted m (vget s.aio c))
    refine ⟨t, ht, ?_⟩
    rw [he, filtered_active m g h hm, ← conversionValue_active m hm]
    exact ⟨rfl, rfl, rfl, rfl, aioFilter_direct g (converted m _), hlo, hhi⟩
  case passive =>
    intro low high
    obtain ⟨t, g, h, w, n, ht, he⟩ := periodicConversion_spec hf hl (by simp [hm]) m
    obtain ⟨hlo, hhi⟩ := aioFilter_between g (converted m (vget s.aio c))
    obtain ⟨hmlo, hmhi⟩ := aioMargin_between h (aioFilter g (converted m (vget s.aio c)))
    refine ⟨t, ht, ?_⟩
    rw [he, filtered_passive m g h hm, ← conversionValue_passive m hm]
    exact ⟨rfl, rfl, rfl, aioFilter_direct g (converted m _), hlo, hhi, hmlo, hmhi, aioMargin_margMin h _⟩
  case recovery =>
    exact ⟨_, exec_bankConverterRecovery hf hi, fun i => foldl_recoverCh_iso _ hn (.inl (List.mem_finRange i))⟩
  case modeEntered =>
    obtain ⟨w, n, he⟩ := aioReport_aio true c c (setAio c (aioEnter s g) s)
    refine ⟨_, exec_cmodeChangeEnd hf hn hc hi, ?_⟩
    rw [he, setAio_aio, vget_vmod_self]
    exact ⟨rfl, rfl, rfl, rfl⟩
  case openReplaces =>
    funext a
    simp
  case openEnds =>
    funext a
    simp

end Sys2Proof.Architecture
end

section
/-! SUPPORT. What has left the module stays out: delivering a point, reporting a CAN channel and raising an event only add to it. -/

namespace Sys2Proof.Architecture

open Machine Laws

section OutputsStay

variable (c : Fin 8) (s : State)

theorem frameOut_out_subset (ftype : Nat) (body : List Byte) : s.out ⊆ (frameOut ftype body s).out := List.subset_cons_self _ _

/-- A frame goes out at once, or it waits. -/
theorem sendFrame_out_subset (ftype : Nat) (body : List Byte) : s.out ⊆ (sendFrame ftype body s).out := by
  unfold sendFrame
  split
  · exact frameOut_out_subset s ftype body
  · exact List.Subset.refl _

theorem hubApply_out_subset (i : Nat) (v : Word) : s.out ⊆ (hubApply i v s).out := by
  unfold hubApply
  cases forwards s
  · exact List.Subset.refl _
  · exact sendFrame_out_subset (ptSet i v s) _ _

/-- A point update leaves the module only where the hub applies it at once. -/
theorem pointUpdate_out_subset (i : Nat) (v : Word) : s.out ⊆ (pointUpdate i v s).out := by
  unfold pointUpdate
  dsimp only
  split
  · exact List.Subset.refl _
  split
  · exact List.Subset.refl _
  split
  · exact List.Subset.refl _
  split
  · exact List.Subset.refl _
  · exact hubApply_out_subset s _ _

theorem canReport_out_subset (always : Bool) : s.out ⊆ (canReport always c s).out := by
  unfold canReport
  dsimp only
  split
  · exact pointUpdate_out_subset (setCan c _ s) _ _
  · exact List.Subset.refl _

theorem modCan_out_subset (f : Can → Can) : s.out ⊆ (modCan c f s).out := canReport_out_subset c (setCan c f s) false

@[simp] theorem raiseCan_out (code sev : Nat) (value : Int) : (raiseCan code sev value s).out = s.out :=
  (view_out_iff _ _).mp (raiseCan_view (by decide) _ _ _ _)

@[simp] theorem raiseCan_can (code sev : Nat) (value : Int) : (raiseCan code sev value s).can = s.can :=
  (view_can_iff _ _).mp (raiseCan_view (by decide) _ _ _ _)

theorem canPassive_out_subset : s.out ⊆ (canPassive c s).out := by
  unfold canPassive when
  dsimp only
  split
  · rw [raiseCan_out]
    exact modCan_out_subset c s _
  · exact modCan_out_subset c s _

end OutputsStay

end Sys2Proof.Architecture
end

section
/-! SUPPORT. The error counters of a CAN channel after a frame sent, and after an attempt in error (R267, R269, R270). -/

namespace Sys2Proof.Architecture

open Machine Laws

section ErrorCounters

/-- A change of a channel counts only by what it makes of the channel as it stands. -/
theorem setCan_congr {c : Fin 8} {s : State} {f g : Can → Can} (h : f (vget s.can c) = g (vget s.can c)) : setCan c f s = setCan c g s := by
  simp only [setCan, vmod, h]

/-- A new count of a channel stays as it is when the error state follows it. -/
theorem canPassive_setCan_can (c : Fin 8) (f : Can → Can) (s : State) :
    ∃ p w, vget (canPassive c (setCan c f s)).can c = { f (vget s.can c) with passive := p, lastStat := w } := by
  obtain ⟨w, hw⟩ := canPassive_can c (setCan c f s)
  rw [setCan_can, vget_vmod_self] at hw
  exact ⟨_, w, hw⟩

/-- A channel with a frame sent without error counted (R267, R269, R270). -/
def sentCounted (x : Can) : Can := { x with txN := holdInc 0xFFFFFFFF x.txN, tec := x.tec - 1, ackRun := 0, lonely := false }

/-- Outside TEST a frame sent goes out on the bus and the error state follows the counters; it is not received (R257). -/
theorem canSent_outside_test {c : Fin 8} {s : State} (f : CanFrame) (h : (vget s.can c).st ≠ .test) :
    canSent c f s = canPassive c (setCan c sentCounted (emit (.canFrame c f) (canPop c s))) := by
  simp only [canSent, h, decide_false, when_false]
  rfl

theorem canPop_can (c : Fin 8) (s : State) : vget (canPop c s).can c = { vget s.can c with tx := (vget s.can c).tx.tail, recHead := false } := by
  rw [canPop, setCan_can, vget_vmod_self]

/-- TEC after an attempt in error; in the two exceptions of R269 only the further increments count. -/
def tecAfterError (l : Nat) (d a : Bool) (m : Nat) (x : Can) : Nat :=
  (if (x.passive && l = 3 && !d) || (l = 1 && a) then x.tec else x.tec + 8) + 8 * m

/-- A channel with an attempt in error counted (R269, R270). -/
def errorCounted (l : Nat) (d a : Bool) (m : Nat) (x : Can) : Can :=
  { x with lec := l, tec := tecAfterError l d a m x, ackRun := if l = 3 then holdInc 0xFFFF x.ackRun else 0 }

/-- A channel that goes bus-off, its queue kept (R269). -/
def busOffCh (x : Can) : Can :=
  { x with busOff := true, tec := 255, prev := if x.st = .sleepEntry then x.prev else x.st
           st := if x.st = .sleepEntry then .sleepEntry else .recovery
           recHead := x.st ≠ .sleepEntry && x.tx ≠ [], recov := x.cfg.boAuto }

theorem canBusOff_can (c : Fin 8) (s : State) : ∃ w, vget (canBusOff c s).can c = { busOffCh (vget s.can c) with lastStat := w } := by
  rw [canBusOff, raiseCan_can]
  exact modCan_can c busOffCh s

section ErrorCases

variable {c : Fin 8} {l : Nat} {d a : Bool} {m : Nat} {s : State}

/-- An attempt in error is counted; a TEC above 255 is bus-off, any other sets the error state. -/
theorem canTxError_eq : canTxError c l d a m s = if 255 < tecAfterError l d a m (vget s.can c) then canBusOff c (setCan c (errorCounted l d a m) s)
    else canPassive c (setCan c (errorCounted l d a m) s) := by
  rw [setCan_congr (g := fun x => { x with lec := l, tec := tecAfterError l d a m (vget s.can c), ackRun := if l = 3 then holdInc 0xFFFF x.ackRun else 0 }) rfl]
  rfl

theorem canTxError_stays_on (h : tecAfterError l d a m (vget s.can c) ≤ 255) :
    ∃ p w, vget (canTxError c l d a m s).can c = { errorCounted l d a m (vget s.can c) with passive := p, lastStat := w } := by
  rw [canTxError_eq, if_neg (by omega)]
  exact canPassive_setCan_can c _ s

theorem canTxError_bus_off (h : 255 < tecAfterError l d a m (vget s.can c)) :
    ∃ w, vget (canTxError c l d a m s).can c = { busOffCh (errorCounted l d a m (vget s.can c)) with lastStat := w } := by
  rw [canTxError_eq, if_pos h]
  simpa using canBusOff_can c (setCan c (errorCounted l d a m) s)

/-- Outside the two exceptions of R269 an error counts 8. -/
theorem tecAfterError_counts {x : Can} (h3 : ¬ (x.passive = true ∧ l = 3 ∧ d = false)) (h1 : ¬ (l = 1 ∧ a = true)) :
    tecAfterError l d a m x = x.tec + 8 + 8 * m := by
  have hnot : ¬ ((x.passive && l = 3 && !d) || (l = 1 && a)) = true := by
    simpa [and_assoc] using And.intro (not_and.mp h3 ·) (not_and.mp h1)
  rw [tecAfterError, if_neg hnot]

/-- A stuff error on a recessive stuff bit of the arbitration field leaves TEC as it is. -/
theorem tecAfterError_stuff (x : Can) : tecAfterError 1 d true 0 x = x.tec := by simp [tecAfterError]

/-- An acknowledge error without a dominant bit leaves the TEC of an error-passive channel as it is. -/
theorem tecAfterError_ack {x : Can} (h : x.passive = true) : tecAfterError 3 false a 0 x = x.tec := by simp [tecAfterError, h]

end ErrorCases

end ErrorCounters

/-- Settles O20: the head leaves the queue, the counts are those of `sentCounted`, and what has gone out on the bus stays out. -/
theorem canFrameSentLeavesQueue : Obligations.CanFrameSentLeavesQueue := by
  intro c f r s htx hst
  obtain ⟨p, w, hx⟩ := canPassive_setCan_can c sentCounted (emit (.canFrame c f) (canPop c s))
  rw [emit_can, canPop_can, htx] at hx
  rw [canSent_outside_test f hst, hx]
  exact ⟨rfl, rfl, rfl, rfl, rfl, canPassive_out_subset c _ List.mem_cons_self⟩

/-- Settles O21: the error is counted by `tecAfterError`, and the channel goes bus-off exactly where that is above 255. -/
theorem canTransmitErrorCounts : Obligations.CanTransmitErrorCounts := by
  refine ⟨fun c l d a m s h3 h1 hle => ?counted, fun c l d a m s h3 h1 hgt => ?busOff, fun c d s hle => ?stuff, fun c s hp hle => ?ack⟩
  case counted =>
    have htec := tecAfterError_counts (m := m) h3 h1
    obtain ⟨p, w, hx⟩ := canTxError_stays_on (htec.trans_le hle)
    rw [hx]
    exact ⟨htec, rfl, rfl, rfl⟩
  case busOff =>
    obtain ⟨w, hx⟩ := canTxError_bus_off (hgt.trans_eq (tecAfterError_counts h3 h1).symm)
    rw [hx]
    exact ⟨rfl, rfl, rfl, rfl⟩
  case stuff =>
    have htec := tecAfterError_stuff (d := d) (vget s.can c)
    obtain ⟨p, w, hx⟩ := canTxError_stays_on (htec.trans_le hle)
    rw [hx]
    exact ⟨htec, rfl⟩
  case ack =>
    have htec := tecAfterError_ack (a := false) hp
    obtain ⟨p, w, hx⟩ := canTxError_stays_on (htec.trans_le hle)
    rw [hx]
    exact ⟨htec, rfl, rfl⟩

end Sys2Proof.Architecture
end

section
/-! SUPPORT. The traffic of a CAN channel: attempts and their ends, frames and errors received, filter timeouts, LONELY (R252 to R270). -/

namespace Sys2Proof.Architecture

open Machine Laws

/-! ### The end of an attempt -/

section AttemptEnd

/-- The bit error that a TDCV above 127 ends an attempt with: of a bit sent as 0 or as 1 (R256). -/
def tdcvError (s : State) : Fin 7 := ⟨4 + (Config.openByte s.free).toNat % 2, by omega⟩

theorem tdcvError_spec (s : State) : tdcvError s = 4 ∨ tdcvError s = 5 := by
  have hcode : (tdcvError s).val = 4 + (Config.openByte s.free).toNat % 2 := rfl
  omega

/-- TDCV as an attempt of the frame `f` measures it, where it is measured at all (R256). -/
def tdcvTaken (g : CanCfg) (f : CanFrame) (c : Fin 8) (v : Nat) : State → State := when (canMeasures g f) (setCan c fun x => { x with tdcv := min v 255 })

section Measuring

variable {g : CanCfg} {f : CanFrame} {c : Fin 8} {v : Nat} {s : State}

theorem tdcvTaken_unmeasured (h : canMeasures g f = false) : tdcvTaken g f c v s = s := by simp only [tdcvTaken, h, when_false]

theorem tdcvTaken_measured (h : canMeasures g f = true) : tdcvTaken g f c v s = setCan c (fun x => { x with tdcv := min v 255 }) s := by
  simp only [tdcvTaken, h, when_true]

theorem tdcvTaken_within (h : canMeasures g f = true) (hv : v ≤ 127) : tdcvTaken g f c v s = setCan c (fun x => { x with tdcv := v }) s := by
  rw [tdcvTaken_measured h, Nat.min_eq_left (by omega)]

end Measuring

theorem canTdcEnd_unmeasured (s : State) (r : CanEnd) : canTdcEnd s false r = r := by
  rcases r with _ | _ | ⟨l, d, a, _ | v, m⟩ <;> rfl

variable {v : Nat} (s : State) (l : Fin 7) (d a : Bool) (m : Fin 33)

theorem canTdcEnd_sent_within (b : Bool) (hv : v ≤ 127) : canTdcEnd s b (.sent v) = .sent v := if_neg (by simp [hv])

theorem canTdcEnd_sent_beyond (hv : 127 < v) : canTdcEnd s true (.sent v) = .error (tdcvError s) false false (some v) 0 := if_pos (by simp [hv])

theorem canTdcEnd_error_within (b : Bool) (hv : v ≤ 127) : canTdcEnd s b (.error l d a (some v) m) = .error l d a (some v) m := if_neg (by simp [hv])

theorem canTdcEnd_error_beyond (hv : 127 < v) : canTdcEnd s true (.error l d a (some v) m) = .error (tdcvError s) d false (some v) m :=
  if_pos (by simp [hv])

section Ends

variable {s} {c : Fin 8} {f : CanFrame} {q : List CanFrame} {r : CanEnd} (hon : canOn s = true) (htx : (vget s.can c).tx = f :: q)
  (hbus : (vget s.can c).onBus = true)

/-- The state in which the end of an attempt counts: it is off the bus. -/
abbrev attemptOver (c : Fin 8) (s : State) : State := drawn (setCan c (fun x => { x with onBus := false }) s)

/-- What has waited for the end of an attempt goes on: a timing change (R276), then LISTEN (R257). -/
abbrev attemptEnded (c : Fin 8) (s : State) : State := canListenDue c (canTakeTiming c s)

include hon htx hbus

theorem exec_attemptEnd_sent (hr : canTdcEnd s (canMeasures (vget s.can c).cfg f) r = .sent v) : exec (.canAttemptEnd c r) s =
    .next (attemptEnded c (canEndCancel c false (canSent c f (tdcvTaken (vget s.can c).cfg f c v (attemptOver c s))))) := by
  simp only [exec, execCanAttemptEnd, ok, htx, hon, hbus, hr, Bool.and_self, if_true, tdcvTaken]

theorem exec_attemptEnd_lost : exec (.canAttemptEnd c .lost) s = .next (attemptEnded c (canEndCancel c true (attemptOver c s))) := by
  simp only [exec, execCanAttemptEnd, ok, htx, hon, hbus, canTdcEnd, Bool.and_self, if_true]

variable {l d a m}

theorem exec_attemptEnd_error (hr : canTdcEnd s (canMeasures (vget s.can c).cfg f) r = .error l d a (some v) m) : exec (.canAttemptEnd c r) s =
    .next (attemptEnded c (canEndCancel c true (canTxError c l.val d a m.val (tdcvTaken (vget s.can c).cfg f c v (attemptOver c s))))) := by
  simp only [exec, execCanAttemptEnd, ok, htx, hon, hbus, hr, Bool.and_self, if_true, tdcvTaken]

/-- An attempt in error that did not get as far as TDCV is measured. -/
theorem exec_attemptEnd_error_early : exec (.canAttemptEnd c (.error l d a none m)) s =
    .next (attemptEnded c (canEndCancel c true (canTxError c l.val d a m.val (attemptOver c s)))) := by
  simp only [exec, execCanAttemptEnd, ok, htx, hon, hbus, canTdcEnd, Bool.and_self, if_true]

end Ends

end AttemptEnd

section Traffic

variable {c : Fin 8} {s : State}

theorem exec_canAttemptStart (h : canMayStart s c = true) :
    exec (.canAttemptStart c) s = .next (setCan c (fun x => { x with onBus := true, txStamp := stampCan s }) s) := by
  simp only [exec, execCanAttemptStart, ok, h, when_true]

variable (hon : canOn s = true)

include hon

/-- A timeout that has not run out before sets the entry's VPT to 0 (R264). -/
theorem exec_filterTimeout {e : Fin 256} {x : CanFilt} (he : (vget s.can c).filt[e.val]? = some x) (ht : x.tmo ≠ 0) (hn : x.timed = false) :
    exec (.filterTimeout c e) s = .next (raiseCan 0x0508 3 (c.val * 256 + e.val : Nat)
      (pointUpdate x.vpt 0 (setFilt c e.val { x with timed := true } s))) := by
  simp [exec, execFilterTimeout, ok, hon, he, ht, hn]

theorem exec_lonely (hl : (vget s.can c).live = true) (ha : 64 ≤ (vget s.can c).ackRun) (hn : (vget s.can c).lonely = false) :
    exec (.lonely c) s = .next (raiseCan 0x0504 4 c.val (modCan c (fun x => { x with lonely := true }) s)) := by
  simp [exec, execLonely, ok, hon, hl, ha, hn]

variable (hbus : canOnBus (vget s.can c) = true)

include hbus

theorem exec_canFrameReceived {f : CanIn} (hf : ((vget s.can c).cfg.fdEn || !f.frame.fdf) = true) : exec (.canFrameReceived c f) s =
    .next (canReceive c f false (canPassive c (setCan c (fun x => { x with rec_ := recAfterGood s (vget s.can c).rec_ }) (drawn s)))) := by
  have hformat : (f.frame.fdf && !(vget s.can c).cfg.fdEn) = false :=
    (Bool.not_eq_true' _).mp (by rw [Bool.not_and, Bool.not_not, Bool.or_comm, hf])
  simp only [exec, execCanFrameReceived, ok, hon, hbus, hformat, Bool.and_self, if_true, Bool.false_eq_true, if_false]

/-- An FD frame with FD_EN clear is a format error (R252; assumption log 156). -/
theorem exec_canFrameReceived_format {f : CanIn} (hfd : (vget s.can c).cfg.fdEn = false) (hf : f.frame.fdf = true) :
    exec (.canFrameReceived c f) s = .next (canRxError c 2 1 s) := by
  simp [exec, execCanFrameReceived, ok, hon, hbus, hfd, hf]

theorem exec_canReceiveError (l : Fin 7) (i : Fin 9) : exec (.canReceiveError c l i) s = .next (canRxError c l.val i.val s) := by
  simp only [exec, execCanReceiveError, ok, hon, hbus, Bool.and_self, if_true]

end Traffic

end Sys2Proof.Architecture
end

section
/-! SUPPORT. The states of a CAN channel: integration, sleep and wake, bus-off recovery, timeouts, the transceiver's watchdog (R257 to R274, R457). -/

namespace Sys2Proof.Architecture

open Machine Laws

section ChannelStates

variable {c : Fin 8} {s : State}

/-! ### Integration -/

section Integration

/-- A channel that has seen its 11 recessive bits. -/
def integratedCh (x : Can) : Can := { x with integ := false, leaving := false }

variable (hon : canOn s = true) (hl : (vget s.can c).live = true) (hi : ((vget s.can c).integ || (vget s.can c).leaving) = true)
  (hw : (vget s.can c).st ≠ .wake)

include hon hl hi hw

theorem exec_canIntegration_listens (hd : drives s = false) :
    exec (.canIntegration c) s = .next (canEnter c .listen (setCan c integratedCh s)) := by
  simp [exec, execCanIntegration, ok, hon, hl, hi, hw, hd]
  rfl

theorem exec_canIntegration_enters (hd : drives s = true) (ht : (vget s.can c).integTo ≠ .sleep) :
    exec (.canIntegration c) s = .next (canReached c (canEnter c (vget s.can c).integTo (setCan c integratedCh s))) := by
  simp [exec, execCanIntegration, ok, hon, hl, hi, hw, hd, ht]
  rfl

theorem exec_canIntegration_sleeps (hd : drives s = true) (ht : (vget s.can c).integTo = .sleep) : exec (.canIntegration c) s =
    .next (modCan c (fun x => { x with st := .sleepEntry, prev := .startup }) (setCan c integratedCh s)) := by
  simp [exec, execCanIntegration, ok, hon, hl, hi, hw, hd, ht]
  rfl

end Integration

/-! ### Sleep and wake -/

theorem canWake_spec (c : Fin 8) (to_ : CanSt) (s : State) :
    (vget (canWake c to_ s).can c).st = .wake ∧ (vget (canWake c to_ s).can c).integ = true ∧ (vget (canWake c to_ s).can c).integTo = to_ := by
  obtain ⟨w, hx⟩ := modCan_can c (fun x => { x with st := .wake, integ := true, integTo := to_, wakeDue := false }) s
  rw [canWake, hx]
  exact ⟨rfl, rfl, rfl⟩

section SleepWake

variable (hon : canOn s = true)

include hon

theorem exec_canSleepReached (hst : (vget s.can c).st = .sleepEntry) (hb : (vget s.can c).onBus = false) (hd : (vget s.can c).wakeDue = false) :
    exec (.canSleepReached c) s = .next (canRunHeld c (setCan c (fun x => { x with wakeDue := false })
      (canReached c (modCan c (fun x => { x with st := .sleep }) s)))) := by
  simp [exec, execCanSleepReached, ok, hon, hst, hb, hd]

/-- The bus has woken the channel on its way to sleep, and no request is held (R273). -/
theorem exec_canSleepReached_woken (hst : (vget s.can c).st = .sleepEntry) (hb : (vget s.can c).onBus = false)
    (hd : (vget s.can c).wakeDue = true) (hh : (vget s.can c).held = none) :
    exec (.canSleepReached c) s = .next (canWake c (vget s.can c).prev (canReached c (modCan c (fun x => { x with st := .sleep }) s))) := by
  simp [exec, execCanSleepReached, ok, hon, hst, hb, hd, hh]

section Asleep

variable (hl : (vget s.can c).live = true) (hst : (vget s.can c).st = .sleep)

include hl hst

/-- Any activity wakes a sleeping channel without WAKE_SEL; a frame is not received (R272). -/
theorem exec_busWake_unselected (hs : (vget s.can c).cfg.wakeSel = false) (f : Option CanIn) :
    exec (.busWake c f) s = .next (raiseCan 0x0507 2 c.val (canWake c (vget s.can c).prev s)) := by
  cases f <;> simp [exec, execBusWake, ok, hon, hl, hs, hst]

theorem exec_busWake_selected {f : CanIn} (hs : (vget s.can c).cfg.wakeSel = true) (hf : canWakeFrame (vget s.can c).cfg f = true) :
    exec (.busWake c (some f)) s = .next (canReceive c f true (raiseCan 0x0507 2 c.val (canWake c (vget s.can c).prev s))) := by
  simp [exec, execBusWake, ok, hon, hl, hs, hst, hf]

end Asleep

theorem exec_busWake_entering (hl : (vget s.can c).live = true) (hs : (vget s.can c).cfg.wakeSel = false) (hst : (vget s.can c).st = .sleepEntry) :
    exec (.busWake c none) s = .next (raiseCan 0x0507 2 c.val (setCan c (fun x => { x with wakeDue := true }) s)) := by
  simp [exec, execBusWake, ok, hon, hl, hs, hst]

theorem exec_canWakeEnd (hst : (vget s.can c).st = .wake) :
    exec (.canWakeEnd c) s = .next (canRunHeld c (canAwake c (setCan c (fun x => { x with integ := false }) s))) := by
  simp [exec, execCanWakeEnd, ok, hon, hst]

end SleepWake

theorem canAwake_enters (h : (vget s.can c).busOff = false ∨ (vget s.can c).integTo = .listen) :
    canAwake c s = canReached c (canEnter c (vget s.can c).integTo s) := if_pos (by simpa using h)

/-- A channel that went to sleep in bus-off wakes in RECOVERY (R269, R272; assumption log 182). -/
theorem canAwake_recovers (hb : (vget s.can c).busOff = true) (ht : (vget s.can c).integTo ≠ .listen) (hq : (vget s.can c).req = none) :
    canAwake c s = canReached c (canEnter c .recovery (setCan c (fun x => { x with recov := x.recov || x.cfg.boAuto }) s)) := by
  simp [canAwake, hb, ht, hq]

/-! ### The end of bus-off recovery -/

section Recovery

/-- A channel whose recovery has ended: on the bus again with both counters 0 (R269). -/
def recoveredCh (x : Can) : Can := { x with busOff := false, recov := false, tec := 0, rec_ := 0, passive := false }

/-- The state that a recovered channel enters: the one requested, or the one before (R269). -/
def recoversTo (x : Can) : CanSt :=
  match x.req with
  | some r => r.want
  | none => x.prev

variable (hon : canOn s = true) (hb : (vget s.can c).busOff = true) (hr : (vget s.can c).recov = true)

include hon hb hr

theorem exec_busOffRecoveryEnd (he : (vget s.can c).st ≠ .sleepEntry) (hs : (vget s.can c).st ≠ .sleep) (hw : (vget s.can c).st ≠ .wake) :
    exec (.busOffRecoveryEnd c) s =
      .next (raiseCan 0x0503 2 c.val (canReached c (canEnter c (recoversTo (vget s.can c)) (setCan c recoveredCh s)))) := by
  simp [exec, execBusOffRecoveryEnd, ok, hon, hb, hr, he, hs, hw]
  rfl

theorem exec_busOffRecoveryEnd_entering (he : (vget s.can c).st = .sleepEntry) :
    exec (.busOffRecoveryEnd c) s = .next (raiseCan 0x0503 2 c.val (modCan c recoveredCh s)) := by
  simp [exec, execBusOffRecoveryEnd, ok, hon, hb, hr, he]
  rfl

end Recovery

/-! ### Timeouts -/

/-- A request whose descriptor has been completed goes on without it (R259). -/
def muted (r : CanReq) : CanReq := { r with no := none }

theorem exec_canStateTimeout_req {r : CanReq} (hq : (vget s.can c).req = some r) (hn : r.no.isSome = true) : exec (.canStateTimeout c) s =
    .next (completeOpt r.no stTimeout (canStCode (vget s.can c).st) (setCan c (fun x => { x with req := some (muted r) }) s)) := by
  have hmute : setCan c (fun x => { x with req := x.req.map muted }) s = setCan c (fun x => { x with req := some (muted r) }) s :=
    setCan_congr (by simp only [hq, Option.map_some])
  rw [← hmute]
  simp only [exec, execCanStateTimeout, ok, hq, Option.bind_some, hn, if_true]
  rfl

/-- Where no request under way has a descriptor, the held one times out. -/
theorem exec_canStateTimeout_held {r : CanReq} (hq : (vget s.can c).req.bind (·.no) = none) (hh : (vget s.can c).held = some r) :
    exec (.canStateTimeout c) s =
      .next (completeOpt r.no stTimeout (canStCode (vget s.can c).st) (setCan c (fun x => { x with held := some (muted r) }) s)) := by
  have hmute : setCan c (fun x => { x with held := x.held.map muted }) s = setCan c (fun x => { x with held := some (muted r) }) s :=
    setCan_congr (by simp only [hh, Option.map_some])
  rw [← hmute]
  simp only [exec, execCanStateTimeout, ok, hq, hh, Option.bind_some, Option.isSome_none, Bool.false_eq_true, if_false]
  rfl

/-- Without its clock the transceiver takes the channel off the bus (R457). -/
theorem exec_canTransceiverWatchdog (hoff : canOn s = false) : exec (.canTransceiverWatchdog c) s = .next (raiseOrLate 0x0A06 6 18
    (canTakeTiming c (setCan c (fun x => { x with onBus := false, integ := x.live, integTo := x.recorded }) s))) := by
  simp [exec, execCanTransceiverWatchdog, ok, hoff]

end ChannelStates

/-- Settles O19: the end of an attempt by what TDCV makes of it, every other command by its equation. -/
theorem canTrafficCommands : Obligations.CanTrafficCommands := by
  refine ⟨fun c s => exec_canAttemptStart, fun c f r v s hon htx hb hm => ?sent, fun c f r v s hon htx hb hm hv => ?sentMeasured,
    fun c f r v s hon htx hb hm hv => ?sentBeyond, fun c f r s => exec_attemptEnd_lost, fun c f r l d a v m s hon htx hb hm => ?error,
    fun c f r l d a v m s hon htx hb hm hv => ?errorMeasured, fun c f r l d a v m s hon htx hb hm hv => ?errorBeyond,
    fun c f s hon hb hf => exec_canFrameReceived hon hb hf,
    fun c f s hon hb hg hf => exec_canFrameReceived_format hon hb hg hf, fun c e x s hon he => exec_filterTimeout hon he, fun c s => exec_lonely,
    fun c l i s hon hb => exec_canReceiveError hon hb l i, fun c s => exec_canIntegration_listens, fun c s => exec_canIntegration_enters,
    fun c s => exec_canIntegration_sleeps, fun c s => exec_canSleepReached, fun c s => exec_canSleepReached_woken, canWake_spec,
    fun c s hon hl hs hst => exec_busWake_unselected hon hl hst hs none,
    fun c f s hon hl hs hf hst => exec_busWake_selected hon hl hst hs hf,
    fun c f s hon hl hs hst => exec_busWake_unselected hon hl hst hs (some f),
    fun c s => exec_busWake_entering, fun c s => exec_canWakeEnd, fun c s => canAwake_enters, fun c s => canAwake_recovers,
    fun c r s hon hb hr hq he hs hw => ?recovered, fun c s hon hb hr hq he hs hw => ?recoveredUnasked,
    fun c s => exec_busOffRecoveryEnd_entering, fun c r s => exec_canStateTimeout_req,
    fun c r s hq => exec_canStateTimeout_held (by rw [hq, Option.bind_none]),
    fun c r q s hq hn => exec_canStateTimeout_held (by rw [hq, Option.bind_some, hn]), fun c s => exec_canTransceiverWatchdog⟩
  case sent =>
    rw [exec_attemptEnd_sent hon htx hb (by rw [hm, canTdcEnd_unmeasured]), tdcvTaken_unmeasured hm]
  case sentMeasured =>
    rw [exec_attemptEnd_sent hon htx hb (canTdcEnd_sent_within s _ hv), tdcvTaken_within hm hv]
  case sentBeyond =>
    refine ⟨tdcvError s, tdcvError_spec s, ?_⟩
    rw [exec_attemptEnd_error hon htx hb (by rw [hm, canTdcEnd_sent_beyond s hv]), tdcvTaken_measured hm]
    rfl
  case error =>
    rcases v with _ | v
    · exact exec_attemptEnd_error_early hon htx hb
    · have hm := hm.resolve_right (Option.some_ne_none v)
      rw [exec_attemptEnd_error hon htx hb (by rw [hm, canTdcEnd_unmeasured]), tdcvTaken_unmeasured hm]
  case errorMeasured =>
    rw [exec_attemptEnd_error hon htx hb (canTdcEnd_error_within s l d a m _ hv), tdcvTaken_within hm hv]
  case errorBeyond =>
    refine ⟨tdcvError s, tdcvError_spec s, ?_⟩
    rw [exec_attemptEnd_error hon htx hb (by rw [hm, canTdcEnd_error_beyond s l d a m hv]), tdcvTaken_measured hm]
  case recovered =>
    have hto : recoversTo (vget s.can c) = r.want := by rw [recoversTo, hq]
    rw [exec_busOffRecoveryEnd hon hb hr he hs hw, hto]
    rfl
  case recoveredUnasked =>
    have hto : recoversTo (vget s.can c) = (vget s.can c).prev := by rw [recoversTo, hq]
    rw [exec_busOffRecoveryEnd hon hb hr he hs hw, hto]
    rfl

end Sys2Proof.Architecture
end

section
/-! SUPPORT. The transparent clock and the servo (R284 to R293): a PTP message that leaves, the table of pending two-step Syncs, one Sync. -/

namespace Sys2Proof.Architecture

open Machine Laws

section TransparentClock

variable {q p : Fin 2} {w : EthWait} {m n : PtpMsg} {g res : Nat} {s t : State}

/-! ### A message of each kind in the transparent clock -/

theorem tcPass_followUp_known {e : TwoStep} (h6 : m.transport ≠ .udp6) (hk : m.kind = .followUp)
    (hf : (vget s.eth.ports p).pending.find? (sameKey m) = some e) : tcPass p res m s = ({ m with correction := corrAdd m.correction e.res },
      setPort p (fun k => { k with pending := k.pending.filter fun x => !sameKey m x }) s) := by
  simp only [tcPass, if_neg h6, hk, hf]

theorem tcPass_followUp_unmatched (h6 : m.transport ≠ .udp6) (hk : m.kind = .followUp)
    (hf : (vget s.eth.ports p).pending.find? (sameKey m) = none) :
    tcPass p res m s = (m, raise 0x0607 2 p.val (setEth (fun e => { e with unmatched := holdInc 0xFFFF e.unmatched }) s)) := by
  simp only [tcPass, if_neg h6, hk, hf]

theorem tcPass_twoStep_entered (h6 : m.transport ≠ .udp6) (hk : m.kind = .sync) (h2 : m.twoStep = true)
    (hl : ((vget s.eth.ports p).pending.filter fun x => !sameKey m x).length < 32) :
    tcPass p res m s = (m, setPort p (fun k => { k with pending := ((vget s.eth.ports p).pending.filter fun x => !sameKey m x) ++
      [{ source := m.source, domain := m.domain, seqId := m.seqId, res := res }] }) (setEth (resNote res) s)) := by
  simp only [tcPass, if_neg h6, hk, h2, if_true, if_neg (Nat.not_le.mpr hl)]

theorem tcPass_twoStep_full (h6 : m.transport ≠ .udp6) (hk : m.kind = .sync) (h2 : m.twoStep = true)
    (hl : 32 ≤ ((vget s.eth.ports p).pending.filter fun x => !sameKey m x).length) :
    tcPass p res m s = (m, setEth (resNote res) s) := by
  simp only [tcPass, if_neg h6, hk, h2, if_true, if_pos hl]

theorem tcPass_corrected (h6 : m.transport ≠ .udp6) (hk : (m.kind = .sync ∧ m.twoStep = false) ∨ m.kind = .delayReq) :
    tcPass p res m s = (corrected m res, setEth (resNote res) s) := by
  rcases hk with ⟨hk, h1⟩ | hk
  · simp only [tcPass, if_neg h6, hk, h1, Bool.false_eq_true, if_false]
  · simp only [tcPass, if_neg h6, hk]

/-! ### The frame that leaves -/

theorem ethLeave_uncorrected (hc : w.frame.content = .ptp m) (ht : s.eth.tcEn = false) : ethLeave q w g s = emit (.ethFrame q w.frame) s := by
  simp only [ethLeave, hc, ht, Bool.false_eq_true, if_false]

/-- While the transparent clock acts, a PTP message leaves as `tcPass` gives it. -/
theorem ethLeave_of_tcPass (hc : w.frame.content = .ptp m) (ht : s.eth.tcEn = true) (hp : tcPass w.from_ (g - w.ingress) m s = (n, t)) :
    ethLeave q w g s = emit (.ethFrame q { w.frame with content := .ptp n }) t := by
  simp only [ethLeave, hc, ht, if_true, hp]

/-- A message that the transparent clock does not change leaves in the frame that it came in. -/
theorem ethLeave_of_tcPass_same (hc : w.frame.content = .ptp m) (ht : s.eth.tcEn = true) (hp : tcPass w.from_ (g - w.ingress) m s = (m, t)) :
    ethLeave q w g s = emit (.ethFrame q w.frame) t := by
  rw [ethLeave_of_tcPass hc ht hp, ← hc]

theorem exec_twoStepEntryExpiry (he : ethOn s = true) (a : BitVec 80) (d : Nat) (i : BitVec 16) : exec (.twoStepEntryExpiry p a d i) s =
    .next (setPort p (fun k => { k with pending := k.pending.filter fun x => !(x.source = a && x.domain = d && x.seqId = i) }) s) := by
  simp only [exec, execTwoStepEntryExpiry, ok, he, when_true]

end TransparentClock

/-- Settles O45: a frame leaves with what `tcPass` makes of its message; Follow_Ups by whether the table holds their Sync, two-step Syncs by
whether it has room, one-step Syncs and Delay_Reqs by their own residence time. -/
theorem twoStepTable : Obligations.TwoStepTable :=
  ⟨fun _ _ _ _ _ _ hc ht h6 hk hf => ethLeave_of_tcPass hc ht (tcPass_followUp_known h6 hk hf),
    fun _ _ _ _ _ hc ht h6 hk hf => ethLeave_of_tcPass_same hc ht (tcPass_followUp_unmatched h6 hk hf),
    fun _ _ _ _ _ hc ht h6 hk h2 hl => ethLeave_of_tcPass_same hc ht (tcPass_twoStep_entered h6 hk h2 hl),
    fun _ _ _ _ _ hc ht h6 hk h2 hl => ethLeave_of_tcPass_same hc ht (tcPass_twoStep_full h6 hk h2 hl),
    fun _ _ _ _ _ hc ht h6 hk => ethLeave_of_tcPass hc ht (tcPass_corrected h6 hk),
    fun _ _ _ _ _ hc ht => ethLeave_uncorrected hc ht,
    fun _ a d i _ he => exec_twoStepEntryExpiry he a d i⟩

/-- Settles O47: an offset beyond the threshold steps the clock, any other moves the integral term and the addend (`servoSync_spec`). -/
theorem servoLaw : Obligations.ServoLaw := servoSync_spec

end Sys2Proof.Architecture
end

section
/-! SUPPORT. Register writes with a row of their own: the selectors and windows, the time unit's pulses, the self-test, the requests of
PWR_REQ (R289, R300, R331, R367, R407, R419, R447 to R463). -/

namespace Sys2Proof.Architecture

open Machine Laws

section RegisterWrites

variable {fn : Func} {v : Word} {s : State}

/-- The row of a register's write ends in what the register makes of it. -/
theorem next_barWrite {off : Nat} {t : State} (h : reaches fn off s) (hput : regPut (fn = .f1) off v.toNat s = t) :
    ok (barWrite fn off v s) = .next t :=
  congrArg Host.Outcome.next ((barWrite_reaches h v).trans hput)

/-! ### Selectors, windows and pulses -/

theorem exec_peSselWrite (h : reaches fn 0x1C00 s) : exec (.peSselWrite fn v) s = .next (slotWindow (v.toNat % 256) s) :=
  next_barWrite h rfl

theorem exec_timSnap (h : reaches fn 0x4108 s) : exec (.timSnap fn v) s = .next (timSnapWrite v s) := by
  have hput : regPut (fn = .f1) 0x4108 v.toNat s = timSnapWrite (BitVec.ofNat 32 v.toNat) s := rfl
  rw [BitVec.ofNat_toNat, BitVec.setWidth_eq] at hput
  exact next_barWrite h hput

theorem timSnapWrite_set (hv : v.getLsbD 0 = true) :
    timSnapWrite v s = if (togglePulse 17 s).2 then timSnapshot (togglePulse 17 s).1 else (togglePulse 17 s).1 := by
  rw [timSnapWrite, if_pos hv, when]

theorem exec_timAdj (h : reaches fn 0x411C s) (ha : s.tim.auto = false) : exec (.timAdj fn v) s = .next (clockStep v.toInt s) := by
  have hput : regPut (fn = .f1) 0x411C v.toNat s = timAdjWrite (BitVec.ofNat 32 v.toNat) s := rfl
  have hadj : timAdjWrite v s = clockStep v.toInt s := if_neg (by rw [ha]; exact Bool.false_ne_true)
  rw [BitVec.ofNat_toNat, BitVec.setWidth_eq, hadj] at hput
  exact next_barWrite h hput

theorem exec_brkLogselWrite (h : reaches fn 0x4894 s) : exec (.brkLogselWrite fn v) s = .next (brkLogLoad (v.toNat % 512) s) :=
  next_barWrite h rfl

theorem blockNo_hedOwn : ∀ b : Fin 24, blockNo (0x2000 + 4 * b.val) = 5 := by decide

theorem arrayAt_hedOwn : ∀ b : Fin 24, arrayAt 0x2000 4 24 (0x2000 + 4 * b.val) = some (b.val, 0) := by decide

theorem exec_hedOwnWrite {b : Fin 24} (h : reaches fn (0x2000 + 4 * b.val) s) :
    exec (.hedOwnWrite fn b v) s = .next (hedRequest b (bits v.toNat 8 5) s) := by
  have hput : regPut (fn = .f1) (0x2000 + 4 * b.val) v.toNat s = hedRequest b (bits v.toNat 8 5) s := by
    simp only [regPut, blockNo_hedOwn, putHed, arrayAt_hedOwn, Fin.ofNat_eq_cast, Fin.cast_val_eq_self]
  exact next_barWrite h hput

theorem exec_secRselWrite (h : reaches fn 0x6810 s) :
    exec (.secRselWrite fn v) s = .next { s with sec := { s.sec with rsel := v.toNat % 64 } } :=
  next_barWrite h rfl

theorem exec_louCurWrite (h : reaches fn 0x5900 s) : exec (.louCurWrite fn v) s = .next (louLoad v.toNat s) :=
  next_barWrite h rfl

theorem exec_louFrzWrite (h : reaches fn 0x5908 s) :
    exec (.louFrzWrite fn v) s = .next { s with rcd := { s.rcd with louFrz := bitOf v.toNat 0 } } :=
  next_barWrite h rfl

theorem exec_pwrTselWrite (h : reaches fn 0x420 s) : exec (.pwrTselWrite fn v) s = .next (tselWrite v.toNat s) :=
  next_barWrite h rfl

/-! ### The self-test -/

/-- START written to BST_CTRL is the write of its register. -/
theorem exec_bstStart (h : reaches fn 0x7000 s) (hv : v.getLsbD 31 = true) : exec (.bstStart fn v) s = .next (bstWrite v.toNat s) := by
  have hrow : exec (.bstStart fn v) s = .next (when (v.getLsbD 31) (barWrite fn 0x7000 v) s) := rfl
  rw [hrow, hv, when_true]
  exact next_barWrite h rfl

variable {n : Nat} (hv : bitOf n 31 = true)

include hv in
theorem bstWrite_refused (h : s.pwr.testing ≠ [] ∨ (unitList s).contains (n % 256) = false) :
    bstWrite n s = setPwr (fun p => { p with bRes := 3 }) (setPwr (fun p => { p with bctl := n % 256 }) s) := by
  have href : (decide (s.pwr.testing ≠ []) || !((unitList s).contains (n % 256)) ||
      (s.mir.decided && (s.mir.role = .active || (s.mir.role = .alone && anyRunning s)))) = true := by
    rcases h with h | h
    · rw [decide_eq_true h, Bool.true_or, Bool.true_or]
    · rw [h, Bool.not_false, Bool.or_true, Bool.true_or]
  simp only [bstWrite, hv, href, Bool.not_true, Bool.false_eq_true, if_false, if_true]

/-- The engine of a unit under test goes to TEST; another unit has no such state (R451). -/
def engineUnderTest (u : Nat) (s : State) : State :=
  if h : u < 8 then setLoom ⟨u, h⟩ (fun e => { e with state := .test }) s
  else if 8 ≤ u ∧ u < 12 then setPrism (Fin.ofNat 4 (u - 8)) (fun p => { p with state := .test }) s
  else s

theorem engineUnderTest_pwr (u : Nat) : (engineUnderTest u s).pwr = s.pwr := by
  unfold engineUnderTest
  split
  · rfl
  · split <;> rfl

theorem engineUnderTest_loom {u : Nat} (h : u < 8) : (vget (engineUnderTest u s).loom ⟨u, h⟩).state = .test := by
  rw [engineUnderTest, dif_pos h, setLoom_loom, vget_vmod_self]

/-- A test begins with the fences of the unit closed. -/
def testFenced (u : Nat) (s : State) : State :=
  (unitGroups u).foldl (fun t g => fenceClose g t) (setPwr (fun p => { p with bctl := u }) s)

include hv in
theorem bstWrite_starts (ht : s.pwr.testing = []) (hu : (unitList s).contains (n % 256) = true)
    (hr : (s.mir.decided && (s.mir.role = .active || (s.mir.role = .alone && anyRunning s))) = false) :
    bstWrite n s = engineUnderTest (n % 256)
      (setPwr (fun p => { p with testing := [n % 256], testFor := some .direct }) (testFenced (n % 256) s)) := by
  simp only [bstWrite, hv, ht, hu, hr, ne_eq, not_true_eq_false, decide_false, Bool.not_true, Bool.or_self, Bool.false_eq_true, if_false]
  rfl

end RegisterWrites

section PowerRequests

variable {n op : Nat} {secure : Bool} {fn : Func} {v : Word} {s t : State}

/-! ### PWR_REQ -/

/-- The row of an OP of PWR_REQ ends in what the request does. -/
theorem next_pwrReqRow (h : reaches fn 0x414 s) (ho : bits v.toNat 12 4 = op) (hreq : pwrReq (fn = .f1) v.toNat s = t) :
    ok (pwrReqRow op fn v s) = .next t := by
  rw [pwrReqRow, decide_eq_true ho, when_true]
  exact next_barWrite h hreq

/-- A standby goes back to SYNCING under a condition and under those of `standbyLeaves`. -/
theorem when_standbyLeaves (c : Bool) (code : Nat) : when c (standbyLeaves code) t =
    if (c && t.mir.role = .standby && t.mir.swo ≠ .newScans) = true then toSyncing code t else t := by
  cases c
  · simp only [when_false, Bool.false_and, Bool.false_eq_true, if_false]
  · simp only [when_true, Bool.true_and, standbyLeaves]

theorem pwrReq_badMagic (hm : bits n 16 16 ≠ 0x5AA5) : pwrReq secure n s = pwrRefuse 1 s := if_pos hm

variable (hm : bits n 16 16 = 0x5AA5)

include hm

theorem pwrReq_nonSecure (ho : within 2 4 (bits n 12 4) = true) (hs : secure = false) : pwrReq secure n s = pwrRefuse 3 s := by
  simp only [pwrReq, hm, ho, hs, ne_eq, not_true_eq_false, if_false, Bool.not_false, Bool.and_self, if_true]

theorem pwrReq_reinit_notPermitted (ho : bits n 12 4 = 1) (hg : groupPermitted (n % 256) = false) (hp : s.pwr.phase ≠ .halt) :
    pwrReq secure n s = pwrRefuse 2 s := by
  simp [pwrReq, hm, ho, hg, hp, within]

theorem pwrReq_reinit (ho : bits n 12 4 = 1) (hg : groupPermitted (n % 256) = true) (hp : s.pwr.phase = .run) (ht : s.pwr.testing = []) :
    pwrReq secure n s = when ((funcReinit (n % 256) s).mir.decided && n % 256 < 12) (standbyLeaves 14) (funcReinit (n % 256) s) := by
  simp [pwrReq, hm, ho, hg, hp, ht, within]

variable (hs : secure = true) (hp : s.pwr.phase ≠ .halt)

include hs hp

theorem pwrReq_warmReset (ho : bits n 12 4 = 2) : pwrReq secure n s = stepThree 2 0xFF s := by
  simp [pwrReq, hm, ho, hs, hp, setPwr]

theorem pwrReq_shutdownOff (ho : bits n 12 4 = 3) : pwrReq secure n s = shutdownAsk false (bitOf n 8) s := by
  simp [pwrReq, hm, ho, hs, hp]

theorem pwrReq_shutdownRestart (ho : bits n 12 4 = 4) : pwrReq secure n s = shutdownAsk true (bitOf n 8) s := by
  simp [pwrReq, hm, ho, hs, hp]

end PowerRequests

/-- Settles O11: every write is the operation of the register that it reaches; the self-test by whether it is refused, PWR_REQ by its MAGIC,
the world, the phase and its OP. -/
theorem registerRowCommands : Obligations.RegisterRowCommands := by
  refine ⟨fun fn v s => exec_peSselWrite, fun fn v s h hv => ?snapshot, fun fn v s => exec_timAdj, fun fn v s => exec_brkLogselWrite,
    fun fn b v s h _ _ => exec_hedOwnWrite h, fun fn v s => exec_secRselWrite, fun fn v s => exec_louCurWrite, fun fn v s => exec_louFrzWrite,
    fun fn v s h hv ht hu hr => ?testStarts, fun fn v s h hv hr => ?testRefused, fun fn v s => exec_pwrTselWrite,
    fun fn v s h ho hm hg hp ht => ?reinit, fun fn v s h ho hm hg hp => next_pwrReqRow h ho (pwrReq_reinit_notPermitted hm ho hg hp),
    fun fn v s h ho hm hf hp => next_pwrReqRow h ho (pwrReq_warmReset hm (decide_eq_true hf) hp ho),
    fun fn v s h ho hm hf => ?warmResetRefused,
    fun fn v s h ho hm hf hp => next_pwrReqRow h ho (pwrReq_shutdownOff hm (decide_eq_true hf) hp ho),
    fun fn v s h ho hm hf hp => next_pwrReqRow h ho (pwrReq_shutdownRestart hm (decide_eq_true hf) hp ho),
    fun fn v s h ho hm => next_pwrReqRow h ho (pwrReq_badMagic hm)⟩
  case snapshot => rw [exec_timSnap h, timSnapWrite_set hv]
  case testStarts =>
    refine ⟨_, exec_bstStart h hv, ?_⟩
    rw [bstWrite_starts hv ht hu hr, engineUnderTest_pwr]
    exact ⟨rfl, rfl, engineUnderTest_loom⟩
  case testRefused => rw [exec_bstStart h hv, bstWrite_refused hv hr]
  case reinit => exact next_pwrReqRow h ho ((pwrReq_reinit hm ho hg hp ht).trans (when_standbyLeaves _ 14))
  case warmResetRefused =>
    have hworld : within 2 4 (bits v.toNat 12 4) = true := by rw [ho]; rfl
    exact next_pwrReqRow h ho (pwrReq_nonSecure hm hworld (by rw [hf]; rfl))

end Sys2Proof.Architecture
end

section
/-! SUPPORT. The Ethernet switch: frames that come in, egress queues, the internal port, links (R280 to R282, R290, R298). -/

namespace Sys2Proof.Architecture

open Machine Laws

section FramesIn

variable {p : Fin 2} {f : EthFrame} {s : State}

/-! ### A frame that comes in -/

theorem exec_ethFrameIngress_bad (hl : ethLink s p = true) (hb : f.badFcs = true ∨ f.len < 64 ∨ 1522 < f.len) :
    exec (.ethFrameIngress p f) s = .next (setPort p (fun k => { k with errN := holdInc 0xFFFF k.errN }) s) := by
  have hbad : (f.badFcs || f.len < 64 || 1522 < f.len) = true := by simpa only [Bool.or_eq_true, decide_eq_true_eq, or_assoc] using hb
  simp only [exec, execEthFrameIngress, ok, hl, hbad, Bool.not_true, Bool.false_eq_true, if_false, if_true]

/-- The frame is sound and of a permitted size (R280). -/
def acceptable (f : EthFrame) : Prop := f.badFcs = false ∧ 64 ≤ f.len ∧ f.len ≤ 1522

theorem not_bad_of_acceptable (h : acceptable f) : (f.badFcs || f.len < 64 || 1522 < f.len) = false := by
  obtain ⟨hf, hlo, hhi⟩ := h
  simp only [hf, Nat.not_lt.mpr hlo, Nat.not_lt.mpr hhi, decide_false, Bool.or_self]

theorem exec_ethFrameIngress_isolated (hl : ethLink s p = true) (ha : acceptable f) (hi : s.eth.swmode = true) :
    exec (.ethFrameIngress p f) s = .next (internalTake p f s) := by
  simp only [exec, execEthFrameIngress, ok, hl, not_bad_of_acceptable ha, internal_eth, hi, Bool.not_true, Bool.false_eq_true, if_false, if_true]

/-- A frame for this side or for the module itself: its source is learned, and it goes no further. -/
theorem exec_ethFrameIngress_kept (hl : ethLink s p = true) (ha : acceptable f) (hi : s.eth.swmode = false)
    (hf : ethForwards (ethLearn p f.src s.eth) p f = false) :
    exec (.ethFrameIngress p f) s = .next (setEth (ethLearn p f.src) (internalTake p f s)) := by
  simp only [exec, execEthFrameIngress, ok, hl, not_bad_of_acceptable ha, setEth_eth, internal_eth, hi, hf, when_false, Bool.not_true,
    Bool.false_eq_true, if_false]

/-! ### The egress queue of the other side -/

/-- The state in which a switched frame joins its queue: the internal port has had it, and its source is learned. -/
def ingressLearned (p : Fin 2) (f : EthFrame) (s : State) : State := setEth (ethLearn p f.src) (internalTake p f s)

theorem ingressLearned_ports (q : Fin 2) : vget (ingressLearned p f s).eth.ports q = vget s.eth.ports q := by
  rw [ingressLearned, setEth_eth, learn_ports, internal_eth]

theorem ingressLearned_link (q : Fin 2) : ethLink (ingressLearned p f s) q = ethLink s q := by
  have hon : ethOn (ingressLearned p f s) = ethOn s := internal_on p f s
  rw [ethLink, hon, ingressLearned_ports, ethLink]

theorem ingressLearned_res : clockNs (ingressLearned p f s).tim.res = clockNs s.tim.res := internal_res p f s

/-- The frame as it waits at its egress port, with its ingress time. -/
def egressWait (p : Fin 2) (f : EthFrame) (s : State) : EthWait := { frame := f, from_ := p, ingress := clockNs s.tim.res - f.age }

section Forwarding

variable (h : switched p f s)

include h

theorem exec_ethFrameIngress_switched : exec (.ethFrameIngress p f) s = .next (ethForward p f (ingressLearned p f s)) := ingress_switched h

theorem ingressLearned_link_other : ethLink (ingressLearned p f s) (otherPort p) = true := by
  obtain ⟨-, -, -, -, -, -, hother⟩ := h
  rw [ingressLearned_link, hother]

theorem ethForward_dropped (hb : 65536 < ethBytes (vget s.eth.ports (otherPort p)) + f.len) :
    ethForward p f (ingressLearned p f s) = setPort (otherPort p) (fun k => { k with qdrop := holdInc 0xFFFF k.qdrop }) (ingressLearned p f s) := by
  simp only [ethForward, ingressLearned_link_other h, ingressLearned_ports, hb, Bool.not_true, Bool.false_eq_true, if_false, if_true]

variable (hb : ethBytes (vget s.eth.ports (otherPort p)) + f.len ≤ 65536)

include hb

theorem ethForward_high (hq : ethHigh f = true) : ethForward p f (ingressLearned p f s) =
    setPort (otherPort p) (fun k => { k with high := k.high ++ [egressWait p f s] }) (ingressLearned p f s) := by
  simp only [ethForward, ingressLearned_link_other h, ingressLearned_ports, ingressLearned_res, egressWait, Nat.not_lt.mpr hb, hq,
    Bool.not_true, Bool.false_eq_true, if_false, if_true]

theorem ethForward_low (hq : ethHigh f = false) : ethForward p f (ingressLearned p f s) =
    setPort (otherPort p) (fun k => { k with low := k.low ++ [egressWait p f s] }) (ingressLearned p f s) := by
  simp only [ethForward, ingressLearned_link_other h, ingressLearned_ports, ingressLearned_res, egressWait, Nat.not_lt.mpr hb, hq,
    Bool.not_true, Bool.false_eq_true, if_false]

end Forwarding

/-! ### The internal port -/

theorem internalTake_sync {m : PtpMsg} (hc : f.content = .ptp m) (hk : m.kind = .sync)
    (hv : internalVia s.eth { transport := m.transport, multicast := f.multicast, dst := m.dst } = true) :
    internalTake p f s = setTim (fun t =>
      { t with rx := (t.rx.filter fun r => !(r.port = p && r.domain = m.domain && r.source = m.source)) ++
        [{ port := p, domain := m.domain, source := m.source, seqId := m.seqId, t2 := stampAgo t f.age, corr := m.correction }] }) s := by
  simp only [internalTake, hc, hk, hv, decide_true, Bool.and_self, if_true]

theorem internalTake_other (h : ∀ m, f.content = .ptp m → m.kind ≠ .sync) : internalTake p f s = s := by
  unfold internalTake
  split
  next m hc => rw [decide_eq_false (h m hc), Bool.false_and, if_neg Bool.false_ne_true]
  next => rfl

end FramesIn

section EgressTick

variable {q : Fin 2} {w : EthWait} {r : List EthWait} {s : State}

/-! ### A microsecond of a port at 1000 Mbit/s that is sending nothing -/

theorem ethTick_gigabit (hl : ethLink s q = true) (hs : (vget s.eth.ports q).speed = 2) : ethTick q s = ethSend q 3 1000 s := by
  simp only [ethTick, hl, hs, if_true]

variable (hs : (vget s.eth.ports q).speed = 2) (hi : (vget s.eth.ports q).left = 0)

include hs hi

theorem ethSend_high (n b : Nat) (hh : (vget s.eth.ports q).high = w :: r) :
    ethSend q (n + 1) b s = ethSend q n b (ethLeave q w (max w.ingress (clockNs s.tim.res - b))
      (setPort q (fun k => { k with high := r, left := (w.frame.len + 20) * 8 }) s)) := by
  simp only [ethSend, hi, hs, hh, Nat.not_lt_zero, if_false, Nat.sub_zero, if_true, Nat.mul_one]

theorem ethSend_low (n b : Nat) (hh : (vget s.eth.ports q).high = []) (hw : (vget s.eth.ports q).low = w :: r) :
    ethSend q (n + 1) b s = ethSend q n b (ethLeave q w (max w.ingress (clockNs s.tim.res - b))
      (setPort q (fun k => { k with low := r, left := (w.frame.len + 20) * 8 }) s)) := by
  simp only [ethSend, hi, hs, hh, hw, Nat.not_lt_zero, if_false, Nat.sub_zero, if_true, Nat.mul_one]

end EgressTick

section Ports

variable {p : Fin 2} {s : State}

/-! ### Links, ageing, ARP -/

theorem exec_linkUp {g : Bool} (he : ethOn s = true) (hp : s.eth.portEn.testBit p.val = true) (hg : (g || s.eth.allow100) = true)
    (hd : (vget s.eth.ports p).speed = 0) :
    exec (.linkUp p g) s = .next (raise 0x0602 2 p.val (setPort p (fun k => { k with speed := if g then 2 else 1 }) s)) := by
  simp only [exec, execLinkUp, ok, he, hp, hg, hd, decide_true, Bool.and_self, if_true]

theorem exec_linkDown (he : ethOn s = true) (hu : (vget s.eth.ports p).speed ≠ 0) : exec (.linkDown p) s =
    .next (raise 0x0601 4 p.val (setPort p (fun k => { k with speed := 0, high := [], low := [], left := 0 }) s)) := by
  simp only [exec, execLinkDown, ok, he, when_true, linkLost, if_neg hu]

theorem exec_addressAgeing (he : ethOn s = true) (a : BitVec 48) :
    exec (.addressAgeing a) s = .next (setEth (fun e => { e with learned := e.learned.filter (·.1 ≠ a) }) s) := by
  simp only [exec, execAddressAgeing, ok, he, when_true]

theorem exec_arpRequest {t : Word} (hl : ethLink s p = true) (ht : t = s.eth.ipv4) (a : BitVec 48) :
    exec (.arpRequest p t a) s = .next (emit (.arpReply p a s.eth.mac s.eth.ipv4) s) := by
  simp only [exec, execArpRequest, ok, hl, ht, decide_true, Bool.and_self, when_true]

end Ports

/-- Settles O44: a frame that comes in by whether it is sound, the mode and where it is for; a switched one by the room and the priority of
its queue; the port's microsecond by the queue that it takes from. -/
theorem ethernetSwitchCommands : Obligations.EthernetSwitchCommands := by
  refine ⟨fun p f s h hb hq => ?high, fun p f s h hb hq => ?low, fun p f s h hb => ?dropped,
    fun p f s hl hf hlo hhi hi => exec_ethFrameIngress_kept hl ⟨hf, hlo, hhi⟩ hi,
    fun p f s hl hf hlo hhi hi => exec_ethFrameIngress_isolated hl ⟨hf, hlo, hhi⟩ hi,
    fun p f s => exec_ethFrameIngress_bad, fun p f m s => internalTake_sync, fun p f s => internalTake_other,
    fun q w r s hl hs hi hh => ?sendsHigh, fun q w r s hl hs hi hh hw => ?sendsLow,
    fun p g s => exec_linkUp, fun p s => exec_linkDown, fun a s he => exec_addressAgeing he a, fun p t a s hl ht => exec_arpRequest hl ht a⟩
  case high => exact (exec_ethFrameIngress_switched h).trans (congrArg Host.Outcome.next (ethForward_high h hb hq))
  case low => exact (exec_ethFrameIngress_switched h).trans (congrArg Host.Outcome.next (ethForward_low h hb hq))
  case dropped => exact (exec_ethFrameIngress_switched h).trans (congrArg Host.Outcome.next (ethForward_dropped h hb))
  case sendsHigh => rw [ethTick_gigabit hl hs, ethSend_high hs hi 2 1000 hh]
  case sendsLow => rw [ethTick_gigabit hl hs, ethSend_low hs hi 2 1000 hh hw]

end Sys2Proof.Architecture
end

section
/-! SUPPORT. Vessel time: the master, Sync, the path delay, holdover, the followers (R291 to R295). -/

namespace Sys2Proof.Architecture

open Machine Laws

section Messages

variable {p : Fin 2} {s : State}

/-! ### Announce -/

/-- The datasets heard, with the one of an Announce in the place of its port and source (R291). -/
def mastersHeard (p : Fin 2) (a : Announce) (s : State) : List Master :=
  (s.tim.masters.filter fun m => !(m.port = p && m.ann.source = a.source)) ++ [{ port := p, ann := a }]

theorem exec_announceReceived {a : Announce} (hl : ethLink s p = true) (hv : internalVia s.eth a.via = true)
    (ha : ptpAccepts s.tim a.via.transport a.domain = true) : exec (.announceReceived p a) s =
      .next (masterChoose (mastersHeard p a s) (setTim (fun t => { t with utcV := a.utcValid, utcOfs := a.utcOffset }) s)) := by
  simp only [exec, execAnnounceReceived, ok, hl, hv, ha, Bool.not_true, Bool.or_self, Bool.false_eq_true, if_false]
  rfl

/-! ### Sync -/

/-- A Sync of the chosen master whose ingress time the internal port has kept. -/
def syncOf (p : Fin 2) (m : SyncMsg) (r : RxStamp) (s : State) : Prop :=
  ethLink s p = true ∧ internalVia s.eth m.via = true ∧ ptpAccepts s.tim m.via.transport m.domain = true ∧ fromMaster s p m.source = true ∧
    s.tim.rx.find? (fun r => r.port = p && r.domain = m.domain && r.source = m.source && r.seqId = m.seqId) = some r

/-- Such a Sync is kept, and goes to the servo where that acts. -/
theorem exec_syncReceived {m : SyncMsg} {r : RxStamp} (h : syncOf p m r s) : exec (.syncReceived p m) s = .next
    (when (s.tim.auto && hkOn s) (servoSync (syncSpan r m) m.interval) (setTim (fun t => { t with sync := some (syncSpan r m) }) s)) := by
  obtain ⟨hl, hv, ha, hm, hr⟩ := h
  simp only [exec, execSyncReceived, ok, hl, hv, ha, hm, hr, Bool.and_self, if_true]

/-! ### Delay_Req and Delay_Resp -/

/-- The values of d that count with `d` after `l`: the last 16 (R291). -/
def delaysKept (l : List Rat) (d : Rat) : List Rat := (l ++ [d]).drop ((l ++ [d]).length - 16)

theorem exec_delayRespReceived {r : DelayRespHdr} {b : Rat} {t3 : Int} (hl : ethLink s p = true) (hv : internalVia s.eth r.via = true)
    (ha : ptpAccepts s.tim r.via.transport r.domain = true) (hm : fromMaster s p r.source = true) (hmine : r.mine = true)
    (hq : r.seqId = s.tim.reqSeq) (hb : s.tim.sync = some b) (h3 : s.tim.t3 = some t3) (hauto : s.tim.auto = true) (t4 corr logInterval : Int) :
    let ds := delaysKept s.tim.ds ((b + ((t4 - t3 : Int) - (corr : Rat) / 65536)) / 2)
    exec (.delayRespReceived p r t4 corr logInterval) s =
      .next (setTim (fun t => { t with reqInt := logInterval, t3 := none, ds := ds, mpd := meanOf ds }) s) := by
  simp only [exec, execDelayRespReceived, ok, hl, hv, ha, hm, hmine, hq, hb, h3, decide_true, Bool.and_self, if_true, setTim, hauto, delaysKept]

theorem exec_delayReqSend {m : Master} (hm : s.tim.master = some m) (hl : ethLink s m.port = true) (ns : Fin 1000) :
    exec (.delayReqSend ns) s = .next (emit (.delayReq m.port (s.tim.reqSeq + 1))
      (setTim (fun t => { t with t3 := some (stampAgo s.tim 0 + ns.val), reqSeq := s.tim.reqSeq + 1 }) s)) := by
  simp only [exec, execDelayReqSend, ok, hm, hl, when_true, setTim]

end Messages

section Keeping

variable {s : State} (he : ethOn s = true)

include he

/-! ### Holdover and the followers -/

theorem exec_holdover (hk : hkOn s = true) (ha : s.tim.auto = true) (hv : s.tim.servo = .locked) : exec .holdover s =
    .next (raise 0x0604 4 (timPort s) (setTim (fun t => { t with servo := .holdover, addend := addendOf t.i, run16 := 0 }) s)) := by
  simp only [exec, execHoldover, ok, he, hk, ha, hv, decide_true, Bool.and_self, if_true]

theorem exec_holdoverExpiry (hk : hkOn s = true) (ha : s.tim.auto = true) (hv : s.tim.servo = .holdover) :
    exec .holdoverExpiry s = .next (raise 0x0608 5 (timPort s) (setTim (fun t => { t with servo := .freerun, run16 := 0 }) s)) := by
  simp only [exec, execHoldoverExpiry, ok, he, hk, ha, hv, decide_true, Bool.and_self, if_true]

theorem exec_followerUpdate : exec .followerUpdate s = .next (setTim (fun t =>
    { t with field := if fieldOn s then followTake s.tim t.field else t.field
             can := if canOn s then followTake s.tim t.can else t.can
             hk := if hkOn s then followTake s.tim t.hk else t.hk
             fabric := if fabricOn s then followTake s.tim t.fabric else t.fabric }) s) := by
  simp only [exec, execFollowerUpdate, ok, he, if_true]
  rfl

end Keeping

/-- Settles O46: an Announce by whether the best dataset's grandmaster is the one followed, a Sync by whether the servo acts, every other
command by its equation. -/
theorem timeCommands : Obligations.TimeCommands := by
  refine ⟨fun p a s hl hv ha hg => ?sameMaster, fun p a g s hl hv ha hg hn => ?otherMaster,
    fun p m r s hl hv ha hm hr hauto hk => ?servo, fun p m r s hl hv ha hm hr hauto => ?manual,
    fun p r t4 corr i b t3 s hl hv ha hm hmine hq hb h3 hauto => exec_delayRespReceived hl hv ha hm hmine hq hb h3 hauto t4 corr i,
    fun ns m s hm hl => exec_delayReqSend hm hl ns, fun s => exec_holdover, fun s => exec_holdoverExpiry, fun s => exec_followerUpdate⟩
  case sameMaster =>
    obtain ⟨hms, hbest, hutc, hofs, hgm, hservo, hrcd⟩ :=
      masterChoose_same (s := setTim (fun t => { t with utcV := a.utcValid, utcOfs := a.utcOffset }) s) hg
    exact ⟨_, exec_announceReceived hl hv ha, hms, hbest, hutc, hofs, hgm, hservo, hrcd⟩
  case otherMaster =>
    obtain ⟨u, hu, hspec⟩ := masterChoose_other (s := setTim (fun t => { t with utcV := a.utcValid, utcOfs := a.utcOffset }) s) hg hn
    exact ⟨u, (exec_announceReceived hl hv ha).trans (congrArg Host.Outcome.next hu), hspec⟩
  case servo => rw [exec_syncReceived ⟨hl, hv, ha, hm, hr⟩, hauto, hk, Bool.and_self, when_true]
  case manual => rw [exec_syncReceived ⟨hl, hv, ha, hm, hr⟩, hauto, Bool.false_and, when_false]

end Sys2Proof.Architecture
end

section
/-! SUPPORT. The safe brake: the tick, and the end of an engage with a cause latched (R303, R308, R315). -/

namespace Sys2Proof.Architecture

open Machine Laws

section BrakeChannels

variable {c : Fin 4} {s : State}

theorem next_when {b : Bool} {f : State → State} (h : b = true) : ok (when b f s) = .next (f s) := by rw [h]; rfl

/-! ### The tick (R303, R308) -/

/-- The supply of the brakes as a tick reads it (R303, R315). -/
def supplyRead (v : Nat) (s : State) : State :=
  { s with brk := { s.brk with vsup := v, vmin := min s.brk.vmin v, supTicks := if 18000 < v then min 10000 (s.brk.supTicks + 1) else 0,
                               supLow := decide (v < 16000), warn := s.brk.warn && decide (v < 19200) } }

theorem exec_bmpTick (hb : bmpOn s = true) (hc : 0 < brkCount s) (m : BmpInputs) :
    exec (.bmpTick m) s = .next (foldFin 4 (fun t c => brkTickCh m.vsup (vget m.ch c) c t) (supplyRead m.vsup s)) := by
  simp only [exec, execBmpTick, ok, hb, hc, decide_true, Bool.and_self, if_true, supplyRead]

/-- The current of a channel with a cause latched has fallen: the channel is in FAULT, its engage time measured. -/
theorem brkAdvance_dropped (hst : (brkCh s c).st = .engaging) (hhs : (brkCh s c).iHs < (brkCh s c).cfg.iDrop)
    (hls : (brkCh s c).iLs < (brkCh s c).cfg.iDrop) (hf : (brkCh s c).fcause ≠ 0) : brkCh (brkAdvance c s) c =
      { brkCh s c with st := .fault, tEng := min 0xFFFF (10 * ((brkCh s c).engTicks + 1)), fbSeen := !(brkCh s c).fb } := by
  simp only [brkAdvance, hst, hhs, hls, hf, decide_true, Bool.and_self, ne_eq, not_false_eq_true, if_true, brkCh_setBrk]

end BrakeChannels

/-- Settles O50: the tick reads the supply and runs the channels; a channel's tick by whether the module holds the field, a fault by the face
of its channel, the end of an engage by the channel that it leaves. -/
theorem brakeTick : Obligations.BrakeTick := by
  refine ⟨fun m s hb hc => exec_bmpTick hb hc m, brkTickCh_engage, brkTickCh_idle, fun c k ev s hst hf => ?fault,
    fun c s hst hhs hls hf => ?dropped⟩
  case fault =>
    obtain ⟨hface, hothers⟩ := brkFault_spec c k ev s hst hf
    simp only [brkFace, Prod.mk.injEq] at hface
    obtain ⟨hhs, hls, hfw, hstate, hcause, hpulse, hcheck⟩ := hface
    exact ⟨hstate, hcause, hhs, hls, hfw, hpulse, hcheck, hothers⟩
  case dropped =>
    dsimp only
    rw [brkAdvance_dropped hst hhs hls hf]
    exact ⟨rfl, rfl, rfl⟩

end Sys2Proof.Architecture
end

section
/-! SUPPORT. The safe brake: test slots and pulses, the brake test, the end of the password lock (R311 to R325). -/

namespace Sys2Proof.Architecture

open Machine Laws

section TestSlots

variable {c : Fin 4} {s : State} (hl : brkLive s = true)

include hl

/-! ### TEST_SLOT (R311 to R314, R316) -/

/-- The on-pulse of a slot: in APPLIED, and in FAULT where the clearing of its cause needs on-pulses (R316, assumption log 18). -/
theorem exec_testSlot_onPulse (hst : (brkCh s c).st = .applied ∨ ((brkCh s c).st = .fault ∧ brkFaultPulses (brkCh s c) = true))
    (hp : (brkCh s c).pulse = .none) (hs : ((brkCh s c).onSkip && !(brkCh s c).retest) = false) : exec (.testSlot c) s =
      .next (brkReport c (setBrk c (fun x => { x with pulse := .on, hs := true, ls := true, fw := false, onSkip := true }) s)) := by
  rcases hst with hst | ⟨hst, hf⟩
  · simp only [exec, execTestSlot, ok, hl, hst, hp, hs, ne_eq, not_true_eq_false, Bool.false_eq_true, if_false, if_true]
  · simp only [exec, execTestSlot, ok, hl, hst, hf, hp, hs, decide_true, Bool.and_self, Bool.false_eq_true, if_false, if_true]

theorem exec_testSlot_secondSlot (hst : (brkCh s c).st = .applied) (hp : (brkCh s c).pulse = .none) (hs : (brkCh s c).onSkip = true)
    (hr : (brkCh s c).retest = false) : exec (.testSlot c) s = .next (brkReport c (setBrk c (fun x => { x with onSkip := false }) s)) := by
  simp only [exec, execTestSlot, ok, hl, hst, hp, hs, hr, ne_eq, not_true_eq_false, Bool.not_false, Bool.and_self, if_false, if_true]

theorem exec_testSlot_skipped
    (hst : (brkCh s c).st = .nocfg ∨ (brkCh s c).st = .releasing ∨ (brkCh s c).st = .engaging ∨ (brkCh s c).st = .test) :
    exec (.testSlot c) s = .next (brkReport c (setBrk c (fun x => { x with skipN := holdInc 0xFFFF x.skipN }) s)) := by
  rcases hst with hst | hst | hst | hst <;> simp only [exec, execTestSlot, ok, hl, hst, if_true]

section Released

variable (hst : (brkCh s c).st = .released) (hh : holdsField s = true) (hp : (brkCh s c).pulse = .none)

include hst hh hp

theorem exec_testSlot_offHs (ho : (brkCh s c).offLsNext = false) :
    exec (.testSlot c) s = .next (brkReport c (setBrk c (fun x => { x with pulse := .offHs, hs := false }) s)) := by
  simp [exec, execTestSlot, ok, hl, hst, hh, hp, ho]

theorem exec_testSlot_offLs (ho : (brkCh s c).offLsNext = true) :
    exec (.testSlot c) s = .next (brkReport c (setBrk c (fun x => { x with pulse := .offLs, ls := false }) s)) := by
  simp [exec, execTestSlot, ok, hl, hst, hh, hp, ho]

end Released

/-! ### Pulses that time out (R312, R313) -/

theorem exec_offPulseTimeout_hs (hp : (brkCh s c).pulse = .offHs) : exec (.offPulseTimeout c) s = .next (brkPulseFail c 1 s) := by
  simp only [exec, execOffPulseTimeout, ok, hl, hp, if_true]

theorem exec_offPulseTimeout_ls (hp : (brkCh s c).pulse = .offLs) : exec (.offPulseTimeout c) s = .next (brkPulseFail c 2 s) := by
  simp only [exec, execOffPulseTimeout, ok, hl, hp, if_true]

end TestSlots

section BrakeTest

variable {c : Fin 4} {s : State}

/-! ### The brake test (R318) -/

/-- TEST_MS of a brake test runs on a module that drives. -/
def testRuns (c : Fin 4) (s : State) : Prop :=
  brkLive s = true ∧ drives s = true ∧ (brkCh s c).testRun = true ∧ (brkCh s c).st = .test

/-- How far the axle has moved from P0 at a position read. -/
def axleMoved (c : Fin 4) (s : State) : Nat := posDist (vget s.enc (brkCh s c).cfg.encPort).pos.toInt (brkCh s c).testP0

/-- The largest deviation after a position read. -/
def deviationKept (c : Fin 4) (s : State) : State := setBrk c (fun x => { x with maxDev := max x.maxDev (min 0xFFFF (axleMoved c s)) }) s

theorem exec_brakeTestPositionRead_valid (h : testRuns c s) (hv : encPosValid (vget s.enc (brkCh s c).cfg.encPort) = true) :
    exec (.brakeTestPositionRead c) s =
      .next (if (brkCh s c).cfg.win < axleMoved c s then brkTestFail c 5 (deviationKept c s) else deviationKept c s) := by
  obtain ⟨hl, hd, hr, hst⟩ := h
  simp only [exec, execBrakeTestPositionRead, ok, hl, hd, hr, hst, hv, decide_true, Bool.and_self, Bool.not_true, Bool.false_eq_true,
    if_false, if_true]
  rfl

theorem exec_brakeTestPositionRead_invalid (h : testRuns c s) (hv : encPosValid (vget s.enc (brkCh s c).cfg.encPort) = false) :
    exec (.brakeTestPositionRead c) s = .next (brkTestFail c 5 s) := by
  obtain ⟨hl, hd, hr, hst⟩ := h
  simp only [exec, execBrakeTestPositionRead, ok, hl, hd, hr, hst, hv, decide_true, Bool.and_self, Bool.not_false, if_true]

theorem exec_brakeTestEnd (h : testRuns c s) : exec (.brakeTestEnd c) s = .next (brkTestEnd c 1 s) := by
  obtain ⟨hl, hd, hr, hst⟩ := h
  exact next_when (by simp only [hl, hd, hr, hst, decide_true, Bool.and_self])

/-- The lock of BRK_CFG ends with its count of failures cleared (assumption log 19). -/
theorem exec_passwordLockEnd (h : 0 < s.brk.lockUs) :
    exec .passwordLockEnd s = .next { s with brk := { s.brk with lockUs := 0, fails := 0 } } :=
  congrArg Host.Outcome.next (if_pos h)

end BrakeTest

/-- Settles O48: a slot by the state of its channel, a pulse that times out by which pulse it is, a position read by whether it is valid and
how far the axle has moved. -/
theorem brakePulseCommands : Obligations.BrakePulseCommands := by
  refine ⟨fun c s hl hst _ hp hs => exec_testSlot_onPulse hl (.inl hst) hp hs,
    fun c s hl hst _ hp hs hr => exec_testSlot_secondSlot hl hst hp hs hr,
    fun c s hl hst hh hp ho => exec_testSlot_offHs hl hst hh hp ho, fun c s hl hst hh hp ho => exec_testSlot_offLs hl hst hh hp ho,
    fun c s hl hst hf _ hp hs => exec_testSlot_onPulse hl (.inr ⟨hst, hf⟩) hp hs, fun c s hl hst => exec_testSlot_skipped hl hst,
    fun c s hl hp => exec_offPulseTimeout_hs hl hp, fun c s hl hp => exec_offPulseTimeout_ls hl hp,
    fun c s hl hp => next_when (by rw [hl, hp]; rfl), fun c s hl hf => next_when (by rw [hl, hf]; rfl),
    fun c s hl hd hr hst hv hw => ?within, fun c s hl hd hr hst hv hw => ?beyond,
    fun c s hl hd hr hst hv => exec_brakeTestPositionRead_invalid ⟨hl, hd, hr, hst⟩ hv,
    fun c s hl hd hr hst => exec_brakeTestEnd ⟨hl, hd, hr, hst⟩, fun s h => exec_passwordLockEnd h⟩
  case within =>
    exact (exec_brakeTestPositionRead_valid ⟨hl, hd, hr, hst⟩ hv).trans (congrArg Host.Outcome.next (if_neg (Nat.not_lt.mpr hw)))
  case beyond => exact (exec_brakeTestPositionRead_valid ⟨hl, hd, hr, hst⟩ hv).trans (congrArg Host.Outcome.next (if_pos hw))

end Sys2Proof.Architecture
end

section
/-! SUPPORT. The safe brake: its supervision, the lasting conditions, the BMP's watchdog (R305, R309, R310, R315, R317, R454). -/

namespace Sys2Proof.Architecture

open Machine Laws

section Conditions

/-! ### The conditions of BRAKE_FAULT (R315) -/

/-- The condition of a cause as the last tick measured it; the report of the hardware limit and the failure of the BMP need none. -/
def faultCondition (s : State) : BrkCause → Bool
  | .overcur c limit => limit || (brkCh s c).ocNow
  | .nocur c => (brkCh s c).st = .released && decide (brkCur (brkCh s c) < (brkCh s c).cfg.iDrop)
  | .fbRelLost c => (brkCh s c).st = .released && !(brkCh s c).fb
  | .fbAppLost c => holdsField s && (brkCh s c).st = .applied && (brkCh s c).fb
  | .node c => (brkCh s c).nodeBad
  | .supply => s.brk.supLow
  | .readback c => (brkCh s c).rbNow
  | .bmp => true

/-- The fault of a cause: of its channel, or of every channel for the two common ones. -/
def conditionFault : BrkCause → State → State
  | .overcur c _ => brkFault1 c 5
  | .nocur c => brkFault1 c 6
  | .fbRelLost c => brkFault1 c 8
  | .fbAppLost c => brkFault1 c 9
  | .node c => brkFault1 c 10
  | .supply => foldFin 4 fun t c => brkFault1 c 12 t
  | .readback c => brkFault1 c 14
  | .bmp => fun s => foldFin 4 (fun t c => brkFault1 c 15 t) (brkDisc s)

end Conditions

section Supervision

variable {c : Fin 4} {s : State} (hl : brkLive s = true)

include hl

/-! ### Supervision (R305, R309, R310, R315, R317) -/

theorem exec_fbRelTimeout (hst : (brkCh s c).st = .releasing ∨ (brkCh s c).st = .released) (hf : (brkCh s c).fbSeen = false) :
    exec (.fbRelTimeout c) s = .next (brkFault1 c 8 s) :=
  next_when (by rcases hst with hst | hst <;> rw [hl, hst, hf] <;> rfl)

theorem exec_fbAppTimeout (hh : holdsField s = true) (hst : (brkCh s c).st = .applied ∨ (brkCh s c).st = .engaging)
    (hf : (brkCh s c).fbSeen = false) : exec (.fbAppTimeout c) s = .next (brkFault1 c 9 s) :=
  next_when (by rcases hst with hst | hst <;> rw [hl, hh, hst, hf] <;> rfl)

theorem exec_engageFail (hst : (brkCh s c).st = .engaging ∨ (brkCh s c).st = .fault) (hi : (brkCh s c).cfg.iDrop ≤ brkCur (brkCh s c)) :
    exec (.engageFail c) s = .next (brkFault c 11 (0x0702, 7, c.val) (brkDisc s)) :=
  next_when (by rcases hst with hst | hst <;> rw [hl, hst, decide_eq_true hi] <;> rfl)

theorem exec_reqTmoExpiry (hq : (brkCh s c).cfg.reqSym ≠ 0) (ht : (brkCh s c).tmoOut = false) (ho : (brkCh s c).loomOk = true) :
    exec (.reqTmoExpiry c) s =
      .next (raiseField 0x0705 4 c.val (setBrk c (fun x => { x with loomOk := false, loomVal := false, tmoOut := true }) s)) := by
  simp only [exec, execReqTmoExpiry, ok, brkLoomDrop, hl, hq, ht, ho, ne_eq, not_false_eq_true, decide_true, Bool.not_false, Bool.and_self,
    when_true]

/-- A condition that has lasted its time, and holds still, is its fault. -/
theorem exec_brakeFault {k : BrkCause} (hk : faultCondition s k = true) : exec (.brakeFault k) s = .next (conditionFault k s) := by
  cases k <;> simp only [exec, execBrakeFault, ok, hl, if_true, conditionFault, brkFaultAll] <;>
    exact congrArg Host.Outcome.next (if_pos hk)

theorem exec_brakeSupplyWarning {mv : Nat} (hv : mv < 19200) (hw : s.brk.warn = false) : exec (.brakeSupplyWarning mv) s =
    .next (raiseField 0x0706 5 (mv / 10 : Nat) { s with brk := { s.brk with warn := true, vsup := mv, vmin := min s.brk.vmin mv } }) := by
  simp only [exec, execBrakeSupplyWarning, ok, hl, hv, hw, decide_true, Bool.not_false, Bool.and_self, if_true]

end Supervision

theorem exec_bmpWatchdog {s : State} (hp : pdOn s 11 = true) (hc : 0 < brkCount s) : exec .bmpWatchdog s =
    .next (stepThree 7 22 (setPwr (fun p => { p with late := p.late ++ [(0x0A06, 6, 22)] })
      (foldFin 4 (fun t c => brkReport c (setBrk c (fun x => brkOpen (brkDiscard x)) t)) (brkDisc s)))) := by
  simp only [exec, execBmpWatchdog, ok, hp, hc, decide_true, Bool.and_self, if_true]

/-- Settles O49: every time-out by the state of its channel, a lasting condition by its cause. -/
theorem brakeSupervisionCommands : Obligations.BrakeSupervisionCommands := by
  refine ⟨fun c s hl hst => next_when (by rw [hl, hst]; rfl), fun c s hl => exec_fbRelTimeout hl, fun c s hl => exec_fbAppTimeout hl,
    fun c s hl hd hh => next_when (by rw [hl, hd, hh]; rfl), fun c s hl => exec_engageFail hl, fun c s hl => exec_reqTmoExpiry hl,
    fun c l s hl ho => exec_brakeFault hl (k := .overcur c l) ho,
    fun c s hl hst hf => exec_brakeFault hl (k := .fbRelLost c) (by simp only [faultCondition, hst, hf]; rfl),
    fun c s hl hh hst hf => exec_brakeFault hl (k := .fbAppLost c) (by simp only [faultCondition, hh, hst, hf]; rfl),
    fun c s hl hst hi => exec_brakeFault hl (k := .nocur c) (by simp only [faultCondition, hst, hi]; rfl),
    fun c s hl hn => exec_brakeFault hl (k := .node c) hn, fun s hl hs => exec_brakeFault hl (k := .supply) hs,
    fun c s hl hr => exec_brakeFault hl (k := .readback c) hr, fun s hl => exec_brakeFault hl (k := .bmp) rfl,
    fun mv s hl => exec_brakeSupplyWarning hl, fun s => exec_bmpWatchdog⟩

end Sys2Proof.Architecture
end

section
/-! SUPPORT. The Mirror link: role decision, blocks sent, lanes, heartbeats and brake blocks received, silent loss (R320, R333 to R355). -/

namespace Sys2Proof.Architecture

open Machine Laws

section RoleDecision

variable {s : State}

theorem vector64_mir (s : State) : (vector64 s).mir = s.mir := View.mir.inj (vector64_view (k := .mir) (by decide) s)

theorem vector64_pwr (s : State) : (vector64 s).pwr = s.pwr := View.pwr.inj (vector64_view (k := .pwr) (by decide) s)

theorem raise_mir (code sev : Nat) (v : Int) (s : State) : (raise code sev v s).mir = s.mir :=
  View.mir.inj (raise_view (k := .mir) (by decide) _ _ _ _)

/-! ### The role decision (R333, R443) -/

/-- The module is in RUN with a role, and the host interface is ready. -/
def roleTaken (r : Role) (detached : Bool) (s : State) : State :=
  vector64 { (setMir (fun m => { m with role := r, decided := true, detached := detached }) (setPwr (fun p => { p with phase := .run }) s)) with
    shu := { s.shu with ready := true } }

theorem roleTaken_mir (r : Role) (d : Bool) (s : State) :
    (roleTaken r d s).mir = { s.mir with role := r, decided := true, detached := d } := vector64_mir _

theorem roleTaken_phase (r : Role) (d : Bool) (s : State) : (roleTaken r d s).pwr.phase = .run := congrArg Pwr.phase (vector64_pwr _)

theorem roleTaken_ready (r : Role) (d : Bool) (s : State) : (roleTaken r d s).shu.ready = true := vector64_ready _

/-- Start-up has come to the role decision. -/
def roleDue (s : State) : Prop := hkOn s = true ∧ s.pwr.phase = .start ∧ s.pwr.loaded = true ∧ s.mir.decided = false

theorem exec_roleDecision {r : Role} {d : Bool} (h : roleDue s) (hr : roleDecided s = (r, d)) : exec .roleDecision s =
    .next (let b := when (r = .alone && drives (roleTaken r d s)) autoStart (roleTaken r d s); when (syncMayBegin b) syncBegin b) := by
  obtain ⟨hk, hp, hl, hd⟩ := h
  have hrole : (roleTaken r d s).mir.role = r := congrArg Mirror.role (roleTaken_mir r d s)
  simp only [exec, execRoleDecision, ok, hk, hp, hl, hd, hr, decide_true, Bool.not_false, Bool.and_self, if_true]
  change Host.Outcome.next (let b := when ((roleTaken r d s).mir.role = .alone && drives (roleTaken r d s)) autoStart (roleTaken r d s)
    when (syncMayBegin b) syncBegin b) = _
  rw [hrole]

/-- A module that becomes SYNCING, and may not begin at once. -/
theorem exec_roleDecision_syncing {d : Bool} (h : roleDue s) (hr : roleDecided s = (.syncing, d))
    (hb : syncMayBegin (roleTaken .syncing d s) = false) : ∃ t, exec .roleDecision s = .next t ∧ t.mir.decided = true ∧
      t.mir.role = .syncing ∧ t.mir.detached = d ∧ t.shu.ready = true ∧ t.pwr.phase = .run := by
  refine ⟨roleTaken .syncing d s, ?_, ?_, ?_, ?_, roleTaken_ready _ _ _, roleTaken_phase _ _ _⟩
  · rw [exec_roleDecision h hr]
    change Host.Outcome.next (when (syncMayBegin (roleTaken .syncing d s)) syncBegin (roleTaken .syncing d s)) = _
    rw [hb, when_false]
  all_goals rw [roleTaken_mir]

/-- A module that becomes ALONE starts what starts by itself where it drives the field. -/
theorem exec_roleDecision_alone (h : roleDue s) (hr : roleDecided s = (.alone, false)) :
    let a := roleTaken .alone false s
    let b := when (drives a) autoStart a
    exec .roleDecision s = .next (when (syncMayBegin b) syncBegin b) := by
  intro a b
  rw [exec_roleDecision h hr, decide_eq_true (rfl : Role.alone = .alone), Bool.true_and]

theorem roleDecided_alone (h : mirPresent s = false ∨ (s.mir.pheard = true ∧ s.mir.prole ≠ 0 ∧ s.mir.prole ≠ 2 ∧ s.side.slot = 0) ∨
    (s.mir.pheard = false ∧ s.mir.palive = false)) : roleDecided s = (.alone, false) := by
  unfold roleDecided
  rcases h with hm | ⟨hp, h0, h2, hslot⟩ | ⟨hp, ha⟩
  · simp [hm]
  · simp [hp, h0, h2, hslot]
  · simp [hp, ha]

theorem roleDecided_partner (hm : mirPresent s = true) (hp : s.mir.pheard = true)
    (h : s.mir.prole = 0 ∨ s.mir.prole = 2 ∨ s.side.slot ≠ 0) : roleDecided s = (.syncing, false) := by
  unfold roleDecided
  rcases h with h | h | h <;> simp [hm, hp, h]

theorem roleDecided_aliveLine (hm : mirPresent s = true) (hp : s.mir.pheard = false) (ha : s.mir.palive = true) :
    roleDecided s = (.syncing, true) := by
  simp [roleDecided, hm, hp, ha]

end RoleDecision

section Lanes

variable {l : Fin 2} {s : State} (hm : meRuns s = true)

/-! ### Blocks sent, lanes and eyes (R336, R338, R341, R347) -/

/-- A lane that has gone down, by what brought it down; its failures are counted on it (R336, R362, assumption log 114). -/
def laneDropped : LaneCause → Lane → Lane
  | .lockLost, x => { x with up := false, lock := false, hb := false }
  | .headerErrors, x => { x with up := false, crcN := holdAdd 0xFFFF x.crcN 16 }
  | .noHeartbeat, x => { x with up := false, hb := false, hbMiss := holdAdd 0xFFFF x.hbMiss (missLeft x), gapUs := max 51 x.gapUs }

/-- The links with a lane that has gone down. -/
def lanesWithout (l : Fin 2) (k : LaneCause) (s : State) : State := setMir (fun m => { m with lanes := vmod m.lanes l (laneDropped k) }) s

/-- With both lanes down nothing is known of the partner. -/
def partnerForgotten (s : State) : State := setMir (fun m => { m with pheard := false, fseqIn := none, peerCmds := [], plife := none }) s

/-- The links with a lane that has come up. -/
def laneRisen (l : Fin 2) (s : State) : State :=
  raise 0x0802 2 l.val (setMir (fun m => { m with lossUs := none, lanes := vmod m.lanes l fun x => { x with lock := true, up := true } }) s)

theorem laneRisen_detached : (laneRisen l s).mir.detached = s.mir.detached := by
  rw [laneRisen, raise_mir, setMir_mir]

include hm

theorem exec_heartbeatSend (hp : s.pwr.pfw = false) (hr : s.side.resetN = true) : exec .heartbeatSend s =
    .next (foldFin 2 (fun t l =>
      let t2 := setMir (fun m => { m with lanes := vmod m.lanes l fun x => { x with hbseq := (x.hbseq + 1) % 65536 } })
        (emit (.block l (heartbeatBlock t l)) t)
      when (t2.mir.decided && t2.mir.role = .active) (emit (.block l (brakeBlock t2))) t2) s) := by
  simp only [exec, execHeartbeatSend, ok, hm, hp, hr, Bool.not_false, Bool.and_self, if_true]

theorem exec_aliveRefresh (hp : s.pwr.pfw = false) (hr : s.side.resetN = true) (hh : s.pwr.phase ≠ .halt)
    (hu : s.mir.healthy = true ∨ s.mir.role ≠ .syncing) :
    exec .aliveRefresh s = .next (setMir (fun m => { m with oalive := true, aliveUs := 0 }) s) :=
  next_when (by rcases hu with hu | hu <;> simp [hm, hp, hr, hh, hu])

/-- Another copy of every command without its answer, at most 8 of each (R341, assumption log 73). -/
theorem exec_commandRepeat : exec .commandRepeat s = .next
    (setMir (fun m => { m with cmds := (m.cmds.map fun c => { c with sent := c.sent + 1 }).filter fun c => c.sent < 8 })
      (s.mir.cmds.foldl (fun t c => bothLanes (cmdBlock c.code c.arg c.seq) t) s)) := congrArg Host.Outcome.next (if_pos hm)

theorem exec_laneUp (hb : (vget s.mir.lanes l).hb = true) (hu : (vget s.mir.lanes l).up = false) :
    exec (.laneUp l) s = .next (if s.mir.detached then linkWhole (laneRisen l s) else laneRisen l s) := by
  rw [← laneRisen_detached (l := l)]
  exact congrArg Host.Outcome.next (if_pos (by rw [hm, hb, hu]; rfl))

theorem exec_laneDown (hu : (vget s.mir.lanes l).up = true) (k : LaneCause) : exec (.laneDown l k) s = .next
    (judge false (when (lanesLost (lanesWithout l k s)) partnerForgotten (raise 0x0801 4 l.val (lanesWithout l k s)))) := by
  have hlost : lanesLost (raise 0x0801 4 l.val (lanesWithout l k s)) = lanesLost (lanesWithout l k s) := by rw [lanesLost, lanesLost, raise_mir]
  rw [← hlost]
  cases k <;> simp only [exec, execLaneDown, ok, hm, hu, Bool.and_self, if_true] <;> rfl

/-- A lane down with the other one up. -/
theorem exec_laneDown_first (hu : (vget s.mir.lanes l).up = true) (k : LaneCause) (hl : lanesLost (lanesWithout l k s) = false) :
    exec (.laneDown l k) s = .next (judge false (raise 0x0801 4 l.val (lanesWithout l k s))) := by
  rw [exec_laneDown hm hu k, hl, when_false]

/-- A lane down with the other one down already. -/
theorem exec_laneDown_last (hu : (vget s.mir.lanes l).up = true) (k : LaneCause) (hl : lanesLost (lanesWithout l k s) = true) :
    exec (.laneDown l k) s = .next (judge false (partnerForgotten (raise 0x0801 4 l.val (lanesWithout l k s)))) := by
  rw [exec_laneDown hm hu k, hl, when_true]

theorem exec_eyeOpeningLow {h v : Byte} (hlow : h.toNat < 64 ∨ v.toNat < 10) : exec (.eyeOpeningLow l h v) s = .next
    (raise 0x080E 3 l.val (setMir (fun m => { m with lanes := vmod m.lanes l fun x => { x with eyeH := h.toNat, eyeV := v.toNat } }) s)) := by
  have hb : (decide (h.toNat < 64) || decide (v.toNat < 10)) = true := by simpa using hlow
  simp only [exec, execEyeOpeningLow, ok, hm, hb, when_true, if_true]

end Lanes

section Received

variable {h : Heartbeat} {s : State}

/-! ### Heartbeats and brake blocks received (R320, R337, R339, R340) -/

/-- What a good heartbeat shows of its lane and of the partner. -/
def partnerShown (h : Heartbeat) (s : State) : State :=
  setMir (fun m => { m with
    lanes := vmod m.lanes h.lane fun x => { x with hb := true, lock := true, gapUs := 0 }
    prole := hbCode h.role, phealthy := h.healthy, pslot := h.slot.val, pheard := true, peerSyncph := h.syncph.val
    pdet := h.detached, hbUs := 0, peerCmds := if h.role = .starting then [] else m.peerCmds
    plife := if h.role = .starting then none else m.plife }) s

/-- A good heartbeat at a module in RUN, from a partner whose DETACHED has not changed. -/
def heartbeatTaken (h : Heartbeat) (s : State) : Prop :=
  meRuns s = true ∧ h.crcOk = true ∧ h.laneBit = h.lane ∧ s.mir.decided = true ∧ s.pwr.phase = .run ∧ h.detached = s.mir.pdet

/-- DETACHED as the partner has shown it before changes nothing. -/
theorem detachedSeen_same (hd : h.detached = s.mir.pdet) : detachedSeen s.mir.pdet (partnerShown h s) = partnerShown h s := by
  have hp : (partnerShown h s).mir.pdet = s.mir.pdet := hd
  unfold detachedSeen
  rw [hp]
  cases s.mir.pdet <;> simp

/-- What the module does next, by its role; `t` is the state in which the partner is shown. -/
def heartbeatByRole (h : Heartbeat) (s t : State) : State :=
  match t.mir.role with
  | .alone => if h.role = .syncing && h.syncph.val ≠ 0 && t.mir.swo = .none then syncServe h.syncph.val (roleChange .active t) else t
  | .active => heartbeatActive h s.mir.prole s.mir.peerSyncph t
  | .syncing =>
    if s.mir.peerSyncph ≠ 0 && h.syncph.val = 0 && t.mir.syncph ≠ 0 then syncAbandon t else when (syncMayBegin t) syncBegin t
  | .standby => t

theorem exec_heartbeat (k : heartbeatTaken h s) : exec (.heartbeat h) s = .next (heartbeatByRole h s (partnerShown h s)) := by
  obtain ⟨hm, hc, hlane, hdec, hrun, hd⟩ := k
  have hready : ¬(!(partnerShown h s).mir.decided || (partnerShown h s).pwr.phase ≠ .run) = true := by
    simp [partnerShown, hdec, hrun]
  rw [← detachedSeen_same hd]
  simp only [exec, execHeartbeat, ok, hm, hc, hlane, decide_eq_true_eq, Bool.not_true, Bool.false_eq_true, ne_eq, not_true_eq_false,
    if_false]
  exact congrArg Host.Outcome.next (if_neg hready)

theorem exec_heartbeat_standby (k : heartbeatTaken h s) (hr : s.mir.role = .standby) : exec (.heartbeat h) s = .next (partnerShown h s) := by
  have hrole : (partnerShown h s).mir.role = .standby := hr
  simp only [exec_heartbeat k, heartbeatByRole, hrole]

theorem exec_heartbeat_active (k : heartbeatTaken h s) (hr : s.mir.role = .active) :
    exec (.heartbeat h) s = .next (heartbeatActive h s.mir.prole s.mir.peerSyncph (partnerShown h s)) := by
  have hrole : (partnerShown h s).mir.role = .active := hr
  simp only [exec_heartbeat k, heartbeatByRole, hrole]

/-- A partner that asks an ALONE module for the first phase makes it ACTIVE (R334, R358). -/
theorem exec_heartbeat_alone (k : heartbeatTaken h s) (hr : s.mir.role = .alone) (hs : h.role = .syncing) (hp : h.syncph.val ≠ 0)
    (ho : s.mir.swo = .none) : exec (.heartbeat h) s = .next (syncServe h.syncph.val (roleChange .active (partnerShown h s))) := by
  have hrole : (partnerShown h s).mir.role = .alone := hr
  have hswo : (partnerShown h s).mir.swo = .none := ho
  simp only [exec_heartbeat k, heartbeatByRole, hrole, hs, hp, hswo, ne_eq, not_false_eq_true, decide_true, Bool.and_self, if_true]

theorem exec_heartbeat_badCrc (hm : meRuns s = true) (hc : h.crcOk = false) : exec (.heartbeat h) s =
    .next (setMir (fun m => { m with lanes := vmod m.lanes h.lane fun x => { x with crcN := holdInc 0xFFFF x.crcN } }) s) := by
  simp only [exec, execHeartbeat, ok, hm, hc, Bool.not_true, Bool.not_false, Bool.false_eq_true, if_false, if_true]

theorem exec_brake_standby {b : BrakeBlock} (hm : meRuns s = true) (hc : b.crcOk = true) (hd : s.mir.decided = true)
    (hr : s.mir.role = .standby) (ho : s.mir.swo = .none) : exec (.brake b) s = .next (foldFin 4 (fun t j =>
      let t1 := { t with brk := { t.brk with partner := vset t.brk.partner j ((vget b.state j).val, vget b.fcause j) } }
      if (brkCh t1 j).st = .nocfg || (brkCh t1 j).st = .fault || brkStOf (vget b.state j).val = .nocfg then t1
      else brkReport j (brkCopy j (brkStOf (vget b.state j).val) (vget b.hold j) (vget b.fcause j) t1)) s) := by
  simp only [exec, execBrake, ok, hm, hc, hd, hr, ho, Bool.not_true, Bool.false_eq_true, decide_true, Bool.true_or, Bool.and_self, if_false,
    if_true]

/-- A report changes of its channel only what it counts of reports. -/
theorem brkCh_brkReport (c : Fin 4) (s : State) :
    ∃ w r, brkCh (brkReport c s) c = { brkCh s c with lastStat := w, repN := r } := by
  unfold brkReport
  dsimp only
  split
  · rw [brkCh_congr (brk_of_view (pointUpdate_view (k := .brk) (by decide) _ _ _)), brkCh_setBrk]
    exact ⟨_, _, rfl⟩
  · exact ⟨_, _, rfl⟩

/-- A state copied from the active, other than APPLIED, is the channel's own, with its HOLD and its cause. -/
theorem brkCopy_taken {c : Fin 4} {st : BrkSt} (hst : st ≠ .applied) (hold : Bool) (cause : Nat) (s : State) :
    (brkCh (brkCopy c st hold cause s) c).st = st ∧ (brkCh (brkCopy c st hold cause s) c).hold = hold ∧
      (brkCh (brkCopy c st hold cause s) c).fcause = cause := by
  unfold brkCopy
  dsimp only
  rw [decide_eq_false hst, when_false]
  obtain ⟨w, r, hx⟩ := brkCh_brkReport c (setBrk c (fun x =>
    let y := if st = x.st then x else { brkOpen (brkDiscard x) with onSkip := false }
    let z := { y with st := st, hold := hold, fcause := cause }
    if st = .fault then { z with onPassed := 0, tested := false } else z) s)
  rw [hx, brkCh_setBrk]
  dsimp only
  split <;> exact ⟨rfl, rfl, rfl⟩

theorem exec_silentLoss (hm : meRuns s = true) (hd : s.mir.decided = true) (hr : s.mir.role = .standby) (ht : s.mir.detached = false)
    (hl : lanesLost s = true) (ha : s.mir.palive = false) (ho : s.mir.swo ≠ .newScans) (hz : s.zor.phase = .idle) :
    exec .silentLoss s = .next (divDecide (raise 0x0806 6 4 (takeField .alone 4 s))) := by
  simp [exec, execSilentLoss, ok, hm, hd, hr, ht, hl, ha, ho, hz]

end Received

/-- Settles O51: the role decision by the role that it gives, a lane by what it leaves of the other one, a heartbeat by the role of the
module, every other command by its equation. -/
theorem mirrorLinkCommands : Obligations.MirrorLinkCommands := by
  refine ⟨fun s hk hp hl hd hm hh ha => exec_roleDecision_syncing ⟨hk, hp, hl, hd⟩ (roleDecided_aliveLine hm hh ha) ?detached,
    fun s hk hp hl hd hm hh hr hj => exec_roleDecision_syncing ⟨hk, hp, hl, hd⟩ (roleDecided_partner hm hh hr) ?joinOff,
    fun s hk hp hl hd ha => exec_roleDecision_alone ⟨hk, hp, hl, hd⟩ (roleDecided_alone ha),
    fun s hm => exec_heartbeatSend hm, fun s hm => exec_aliveRefresh hm, fun s hm => exec_commandRepeat hm,
    fun s hm => congrArg Host.Outcome.next (if_pos hm), fun s hm => next_when hm,
    fun l s hm hb hu ht => ?up, fun l s hm hb hu ht => ?upDetached,
    fun l s hm hu => exec_laneDown_first hm hu .lockLost, fun l s hm hu => exec_laneDown_first hm hu .headerErrors,
    fun l s hm hu => exec_laneDown_first hm hu .noHeartbeat, fun l s hm hu => exec_laneDown_last hm hu .lockLost,
    fun l s hm hu => exec_laneDown_last hm hu .headerErrors, fun l s hm hu => exec_laneDown_last hm hu .noHeartbeat,
    fun l h v s hm => exec_eyeOpeningLow hm,
    fun h s hm hc hlane hd hp ht => exec_heartbeat_standby ⟨hm, hc, hlane, hd, hp, ht⟩,
    fun h s hm hc hlane hd hp ht => exec_heartbeat_active ⟨hm, hc, hlane, hd, hp, ht⟩,
    fun h s hm hc hlane hd hp ht => exec_heartbeat_alone ⟨hm, hc, hlane, hd, hp, ht⟩,
    fun h s => exec_heartbeat_badCrc, fun b s => exec_brake_standby, fun c st hold cause s hst => brkCopy_taken hst hold cause s,
    fun s hm hd hr ht hl ha ho => exec_silentLoss hm hd hr ht hl ha ho⟩
  case detached => simp [syncMayBegin, roleTaken_mir]
  case joinOff => simp [syncMayBegin, roleTaken_mir, hj]
  case up => rw [exec_laneUp hm hb hu, if_neg (by rw [ht]; exact Bool.false_ne_true)]; rfl
  case upDetached => rw [exec_laneUp hm hb hu, if_pos ht]; rfl

end Sys2Proof.Architecture
end

section
/-! SUPPORT. The canonical form of memory: which operations may change a byte, and that each of them keeps the form. -/

namespace Sys2Proof.Architecture

open Machine Laws

/-- The memory of a state has the canonical form: addresses strictly rising, no zero byte listed. -/
abbrev MemForm (s : State) : Prop := Memory.wf s.mem = true

/-- What keeps the memory keeps its form. -/
theorem MemForm.of_view {s t : State} (h : MemForm s) (e : view .mem t = view .mem s) : MemForm t :=
  (congrArg Memory.wf ((view_mem_iff s t).mp e)).trans h

theorem MemForm.when {s : State} {c : Bool} {f : State → State} (h : MemForm s) (hf : ∀ t, MemForm t → MemForm (f t)) :
    MemForm (when c f s) := by
  cases c
  · exact h
  · exact hf s h

theorem MemForm.ite {c : Prop} [Decidable c] {a b : State} (ha : MemForm a) (hb : MemForm b) : MemForm (if c then a else b) := by
  by_cases hc : c
  · rwa [if_pos hc]
  · rwa [if_neg hc]

theorem MemForm.foldl {α : Type} {f : State → α → State} (hf : ∀ t x, MemForm t → MemForm (f t x)) (l : List α) {s : State}
    (h : MemForm s) : MemForm (l.foldl f s) := by
  induction l generalizing s with
  | nil => exact h
  | cons x l ih => exact ih (hf s x h)

/-- Where a command completes, its next state has a memory of the canonical form. -/
abbrev MemFormR (r : Res) : Prop := ∀ t, r = .next t → MemForm t

theorem MemForm.ok {s : State} (h : MemForm s) : MemFormR (ok s) := fun _ e => Host.Outcome.next.inj e ▸ h

/-! ### Banks: zeros and stored bytes -/

section Banks

variable {s : State} (h : MemForm s)

include h

theorem bankZero_memForm (b : Fin 24) : MemForm (bankZero b s) := filter_wf _ _ h

theorem bistReturn_memForm (b : Fin 24) : MemForm (bistReturn b s) := bankZero_memForm h b

/-- Of the outcomes of a granted access only the store of its bytes changes the memory. -/
theorem bankGrant_memForm (r : BankReq) : MemForm (bankGrant r s) := by
  unfold bankGrant
  dsimp only
  split
  · exact (h.of_view (regionViol_view (by decide) _ _ _ _ s)).of_view (bankRefused_view (by decide) r _)
  · split
    · split
      · exact h.of_view ((raiseFabric_view (by decide) _ _ _ _).trans (setHed_view (by decide) _ _ s))
      · exact memWrite_wf _ _ _ h
    · exact h.of_view (bankRead_view (by decide) r s)

/-- An access beyond the bank stops; of the others only the granted one can change the memory. -/
theorem execBankAccess_memForm (r : BankReq) : MemFormR (execBankAccess r s) := by
  unfold execBankAccess
  by_cases hr : 0x200000 < r.offset + (if r.write then r.bytes.length else r.count)
  · rw [if_pos hr]
    exact fun t e => by simp at e
  · rw [if_neg hr]
    refine MemForm.ok ?_
    split
    · exact h
    · split
      · exact h
      · split
        · exact h.of_view (bankViol_view (by decide) r s)
        · split
          · exact h
          · exact bankGrant_memForm h r

theorem tickRoll_memForm : MemForm (tickRoll s) := by
  unfold tickRoll
  split
  · split
    · exact h
    · exact bistReturn_memForm h _
  · split
    · split <;> exact h
    · exact h

end Banks

/-! ### Resets and the ladder -/

/-- Start-up keeps the memory that it finds. -/
theorem startUp_mem (s : State) : (startUp s).mem = s.mem := (view_mem_iff s _).mp (startUp_view (by decide) s)

/-- A warm reset leaves no byte (R452). -/
theorem warmReset_mem (s : State) : (warmReset s).mem = [] := by
  unfold warmReset
  dsimp only
  split
  · rfl
  · split
    · rw [(view_mem_iff _ _).mp (haltEnter_view (by decide) _), startUp_mem]; rfl
    · rw [startUp_mem]; rfl

theorem warmReset_memForm (s : State) : MemForm (warmReset s) := by
  rw [MemForm, warmReset_mem]; rfl

theorem shutdownEnd_memForm (restart : Bool) (s : State) : MemForm (shutdownEnd restart s) := by
  unfold shutdownEnd
  dsimp only
  split
  · rw [MemForm, startUp_mem]; rfl
  · rfl

section Ladder

variable {s : State} (h : MemForm s)

include h

theorem stepThree_memForm (cause group : Nat) : MemForm (stepThree cause group s) := by
  unfold stepThree
  dsimp only
  split
  · exact h
  · split
    · exact h.of_view ((handOver_view (by decide) _ _ _).trans (setPwr_view (by decide) _ s))
    · exact warmReset_memForm _

theorem ladder_memForm (g cause : Nat) : MemForm (ladder g cause s) := by
  unfold ladder
  split
  · exact (h.of_view (funcReinit_view (by decide) g s)).when fun t ht => ht.of_view (standbyLeaves_view (by decide) _ t)
  · exact stepThree_memForm h cause g

theorem ladderRun_memForm (us : Nat) : MemForm (ladderRun us s) :=
  MemForm.foldl (fun _ g ht => ladder_memForm ht g _) _ (h.of_view (setPwr_view (by decide) _ s))

/-- A tested unit that comes back leaves zeros in its bank. -/
theorem unitBack_memForm (u : Nat) : MemForm (unitBack u s) :=
  (MemForm.foldl (fun t g ht => ht.of_view (reinitEffect_view (by decide) g t)) _ h).when fun _ ht => bankZero_memForm ht _

theorem unitFail_memForm (u : Nat) : MemForm (unitFail u s) := h.of_view (unitFail_view (by decide) u s)

end Ladder

/-! ### Registers -/

section Registers

variable {s : State} (h : MemForm s)

include h

theorem pwrReq_memForm (secure : Bool) (v : Nat) : MemForm (pwrReq secure v s) := by
  have refuse (err : Nat) : MemForm (pwrRefuse err s) := h
  unfold pwrReq
  dsimp only
  split
  · exact refuse 1
  · split
    · exact refuse 3
    · split
      · exact h
      · split
        · split
          · exact refuse 2
          · split
            · exact refuse 4
            · exact (h.of_view (funcReinit_view (by decide) _ s)).when fun t ht => ht.of_view (standbyLeaves_view (by decide) _ t)
        · exact stepThree_memForm (s := setPwr _ s) h 2 0xFF
        · exact h.of_view (shutdownAsk_view (by decide) _ _ s)
        · exact h.of_view (shutdownAsk_view (by decide) _ _ s)
        · exact h

theorem putPwr_memForm (secure : Bool) (off v : Nat) : MemForm (putPwr secure off v s) := by
  unfold putPwr
  split
  · exact pwrReq_memForm h secure v
  all_goals exact h

/-- Of the register blocks only that of the power unit can reset the module. -/
theorem regPut_memForm (secure : Bool) (off v : Nat) : MemForm (regPut secure off v s) := by
  unfold regPut
  split
  case h_1 => exact putPwr_memForm h secure off v
  case h_2 => exact h.of_view (putShu_view (by decide) _ _ s)
  case h_3 => exact h.when fun t ht => ht.of_view (setLoom_view (by decide) _ _ t)
  case h_4 => exact h.when fun t ht => ht.of_view (slotWindow_view (by decide) _ t)
  case h_5 => exact h.of_view (putHed_view (by decide) _ _ s)
  case h_6 => exact h.of_view (putDio_view (by decide) _ _ s)
  case h_7 => exact h.when fun t ht => ht.of_view (encQerrDrop_view (by decide) _ t)
  case h_8 => exact h.of_view (putEth_view (by decide) _ _ s)
  case h_9 => exact h.when fun t ht => ht.of_view (brkLogLoad_view (by decide) _ t)
  case h_10 => exact h.when fun t ht => ht
  case h_11 => exact h.of_view (putLou_view (by decide) _ _ s)
  case h_12 => exact h.when fun t ht => ht.of_view (panCtrlPut_view (by decide) _ t)
  case h_13 => exact h.of_view (putSec_view (by decide) _ _ s)
  case h_14 => exact h.when fun t ht => ht.of_view (bstWrite_view (by decide) _ t)
  case h_15 => exact h

theorem regWrite_memForm (secure : Bool) (off v : Nat) : MemForm (regWrite secure off v s) := by
  have raised : MemForm (raise 0x0B04 4 off s) := h.of_view (raise_view (by decide) _ _ _ s)
  unfold regWrite
  split
  · split
    · exact raised
    · exact regPut_memForm h secure off v
  · exact raised
  · exact h.when fun t ht => ht.of_view (raise_view (by decide) _ _ _ t)
  · exact h

theorem barWrite_memForm (fn : Func) (off : Nat) (v : Word) : MemForm (barWrite fn off v s) := by
  unfold barWrite
  split
  · exact h
  · exact regWrite_memForm h _ off _

theorem pwrReqRow_memForm (op : Nat) (fn : Func) (v : Word) : MemForm (pwrReqRow op fn v s) :=
  h.when fun _ ht => barWrite_memForm ht fn _ v

theorem svcWrites_memForm (l : List (List Byte)) (off k : Nat) : MemForm (svcWrites l off k s).2.2 := by
  induction l generalizing off k s with
  | nil => exact h
  | cons b l ih =>
    unfold svcWrites
    split
    · exact h
    · exact ih (regWrite_memForm h true off _) _ _

end Registers

/-! ### The commands and the microsecond -/

section Commands

variable {s : State} (h : MemForm s)

include h

theorem tickAgain_memForm : MemForm (tickAgain s) := by
  unfold tickAgain
  split
  · split
    · exact h
    · dsimp only
      split
      · exact MemForm.of_view (s := s) h (handOver_view (by decide) _ _ _)
      · split
        · exact warmReset_memForm _
        · exact MemForm.when (s := { s with mir := _ }) h fun t ht => ht.of_view (failsOut_view (by decide) t)
  · exact h

theorem tick_memForm : MemForm (tick s) := by
  have clocks : MemForm (tickBuckets (when (aonRuns s) tickLocks (tickLoom (tickTime s)))) :=
    ((h.of_view ((tickLoom_view (by decide) _).trans (tickTime_view (by decide) s))).when
      fun t ht => ht.of_view (tickLocks_view (by decide) t)).of_view (tickBuckets_view (by decide) _)
  have lanes := ((((clocks.of_view (tickAge_view (by decide) _)).of_view (tickStart_view (by decide) _)).of_view
    (tickAlive_view (by decide) _)).of_view (tickEth_view (by decide) _)).of_view (tickLanes_view (by decide) _)
  have waits := (lanes.of_view (waitRun_view (by decide) _)).of_view (swapFrozen_view (by decide) _)
  exact tickRoll_memForm (tickAgain_memForm ((ladderRun_memForm waits 1).of_view (tickWatch_view (by decide) _)))

/-- Step 6 of a switch-over resets the module under code 2; otherwise the memory stays (R352). -/
theorem oldSteps_memForm : MemForm (oldSteps s) := by
  unfold oldSteps
  dsimp only
  split
  · exact warmReset_memForm _
  · refine h.of_view ?_
    split <;> simp (disch := decide) only [shutdownBegin_view, stopDriving_view, setMir_view, toSyncing_view, cmdAnswered_view,
      completeOpt_view, apply_ite (view .mem), ite_self]

theorem cmdTake_memForm (m : MirCmd) {f : State → State} (hf : ∀ t, MemForm t → MemForm (f t)) : MemFormR (cmdTake m f s) := by
  refine MemForm.ok ?_
  split
  · exact h
  · split
    · exact h
    · split
      · exact h
      · exact hf _ h

theorem execLive_memForm (m : MirCmd) : MemFormR (execLive m s) := by
  refine cmdTake_memForm h m fun t ht => ?_
  split
  · exact oldSteps_memForm ht
  · exact ht

/-- A LIVE that does not come leaves the old active with step 6, or with its field, or ALONE (R354). -/
theorem execLiveTimeout_memForm : MemFormR (execLiveTimeout s) := by
  have raised (v : Int) : MemForm (raise 0x0807 4 v s) := h.of_view (raise_view (by decide) _ _ _ s)
  refine MemForm.ok ?_
  split
  · dsimp only
    split
    · exact oldSteps_memForm (raised _)
    · refine h.of_view ?_
      repeat' split
      all_goals simp (disch := decide) only [raise_view, aloneStopped_view, stopDriving_view, setMir_view, shutdownAsk_view, judge_view,
        setPwr_view, completeOpen_view, failsOut_view, cmdAnswered_view]
  · exact h

/-- A request of the service port changes the memory as what it runs does. -/
theorem svcRun_memForm (op : Nat) (r : SvcReq) {f : State → SvcAns × State} (hf : MemForm (f s).2) : MemForm (svcRun op r f s) := by
  have sent (x : List Byte) (t : State) (ht : MemForm t) : MemForm (drawn (emit (.usb x) t)) := ht
  unfold svcRun
  refine MemForm.ite h (MemForm.when (sent _ _ ?_) fun t ht => ht.of_view (svcEnd_view (by decide) t))
  cases svcRefusal s op r with
  | some c => exact h
  | none => exact hf

theorem execRegWrite_memForm (r : SvcReq) : MemFormR (execRegWrite r s) := by
  refine MemForm.ok (svcRun_memForm h 0x11 r ?_)
  dsimp only
  split
  · exact h
  · exact svcWrites_memForm h _ _ _

/-- A test of start-up or a direct test ends with its record, a test of a shutdown with the unit as reset or with the shutdown. -/
theorem execUnitTestDone_memForm (r : TestResult) : MemFormR (execUnitTestDone r s) := by
  have recorded (u : Nat) (t : State) (ht : MemForm t) : MemForm (unitRecord u r t) := ht.of_view (unitRecord_view (by decide) u r t)
  have failed (u : Nat) (t : State) (ht : MemForm t) : MemForm (when (r = .fail) (unitFail u) t) := ht.when fun _ ht => unitFail_memForm ht u
  have saved : MemForm (when (s.pwr.testing = shutdownUnits s) shutdownSave s) :=
    h.when fun t ht => ht.of_view (shutdownSave_view (by decide) t)
  unfold execUnitTestDone
  refine MemForm.ok ?_
  split
  · exact failed _ _ (recorded _ (setPwr _ s) h)
  · exact MemForm.ite h (MemForm.ite (shutdownEnd_memForm _ _) (MemForm.when
      (MemForm.foldl (fun t g ht => ht.of_view (fenceClose_view (by decide) g t)) _ (unitBack_memForm (recorded _ (setPwr _ _) saved) _))
      fun t ht => ht.of_view (ringsOff_view (by decide) t)))
  · exact failed _ _ (unitBack_memForm (recorded _ (setPwr _ s) h) _)
  · exact h

theorem execRollingBistBankDone_memForm (b : Fin 24) (r : TestResult) : MemFormR (execRollingBistBankDone b r s) := by
  have zeroed : MemForm (if (hedBank s b).owner = 0x10 then bistReturn b s else bankZero b s) := by
    split
    · exact bistReturn_memForm h b
    · exact bankZero_memForm h b
  refine MemForm.ok ?_
  split
  · exact (zeroed.of_view ((unitRecord_view (by decide) _ _ _).trans (setPwr_view (by decide) _ _))).when
      fun t ht => ht.of_view (bankFail_view (by decide) b t)
  · exact h

theorem execRegisterWrite_memForm (fn : Func) (a : RegAddr) (v : Word) (full : Bool) : MemFormR (execRegisterWrite fn a v full s) := by
  refine MemForm.ok ?_
  cases a with
  | bar0 o => exact h.when fun _ ht => barWrite_memForm ht fn _ v
  | ring r o => exact h.when fun t ht => ht.of_view (ringAccess_view (by decide) _ _ _ _ t)
  | bar4 o => exact h.when fun t ht => ht.of_view (bar4Put_view (by decide) _ _ _ t)
  | config o => exact h.when fun t ht => ht.of_view (configPut_view (by decide) _ _ _ t)

theorem execPllLockLoss_memForm (d : Fin 12) : MemFormR (execPllLockLoss d s) :=
  MemForm.ok (MemForm.ite (MemForm.ite (warmReset_memForm _) (stepThree_memForm (h.of_view (setPwr_view (by decide) _ s)) _ _)) h)

theorem execBmpWatchdog_memForm : MemFormR (execBmpWatchdog s) := by
  have opened : view .mem (foldFin 4 (fun t c => brkReport c (setBrk c (fun x => brkOpen (brkDiscard x)) t)) (brkDisc s)) = view .mem s :=
    (view_foldFin (fun t c => (brkReport_view (by decide) c _).trans (setBrk_view (by decide) c _ t)) _).trans (brkDisc_view (by decide) s)
  exact MemForm.ok (MemForm.ite (stepThree_memForm ((h.of_view opened).of_view (setPwr_view (by decide) _ _)) _ _) h)

theorem execMeWatchdog_memForm : MemFormR (execMeWatchdog s) := MemForm.ok (MemForm.ite (warmReset_memForm _) h)

theorem execDramUncorrectableError_memForm : MemFormR (execDramUncorrectableError s) :=
  MemForm.ok (h.when fun t ht => ladder_memForm (ht.of_view (unitFault_view (by decide) _ t)) _ _)

theorem execFieldIoLogicFault_memForm : MemFormR (execFieldIoLogicFault s) :=
  MemForm.ok (h.when fun t ht => stepThree_memForm (ht.of_view (unitFault_view (by decide) _ t)) _ _)

/-- Power-good starts from a reset state, or from the state in which PD0 and PD1 already run. -/
theorem execPowerGood_memForm (f0 f1 : Nat) (n : Fin 2) : MemFormR (execPowerGood f0 f1 n s) := by
  have reset : MemForm (linkForget (if s.pwr.pd = 0x003 then s else resetState s)) :=
    MemForm.of_view (MemForm.ite h rfl) (linkForget_view (by decide) _)
  exact MemForm.ok (MemForm.ite (MemForm.ite ((congrArg Memory.wf (startUp_mem _)).trans reset) reset) h)

theorem execCarrierReset_memForm : MemFormR (execCarrierReset s) :=
  MemForm.ok (MemForm.ite (MemForm.ite (warmReset_memForm _) h) h)

/-- The commands that can change the memory, by the list of `mayChange`; every other command keeps it. -/
theorem exec_memForm (c : Instr) : MemFormR (exec c s) := by
  by_cases hk : Blk.mem ∈ mayChange c
  · cases c with
    | bankAccess r => exact execBankAccess_memForm h r
    | bistBankReturn b => exact MemForm.ok (h.when fun _ ht => bistReturn_memForm ht b)
    | rollingBistBankDone b r => exact execRollingBistBankDone_memForm h b r
    | live m => exact execLive_memForm h m
    | liveTimeout => exact execLiveTimeout_memForm h
    | regWrite r => exact execRegWrite_memForm h r
    | registerWrite fn a v full => exact execRegisterWrite_memForm h fn a v full
    | pwrReqFunctionReinit fn v => exact MemForm.ok (pwrReqRow_memForm h _ fn v)
    | pwrReqWarmReset fn v => exact MemForm.ok (pwrReqRow_memForm h _ fn v)
    | pwrReqShutdownOff fn v => exact MemForm.ok (pwrReqRow_memForm h _ fn v)
    | pwrReqShutdownRestart fn v => exact MemForm.ok (pwrReqRow_memForm h _ fn v)
    | unitTestDone r => exact execUnitTestDone_memForm h r
    | pllLockLoss d => exact execPllLockLoss_memForm h d
    | bmpWatchdog => exact execBmpWatchdog_memForm h
    | meWatchdog => exact execMeWatchdog_memForm h
    | dramUncorrectableError => exact execDramUncorrectableError_memForm h
    | fieldIoLogicFault => exact execFieldIoLogicFault_memForm h
    | powerCycle => exact MemForm.ok rfl
    | powerGood f0 f1 n => exact execPowerGood_memForm h f0 f1 n
    | carrierReset => exact execCarrierReset_memForm h
    | _ => exact absurd hk (by simp [mayChange])
  · intro t e
    by_cases hr : ∀ r, c = .bankAccess r → EndsInBank r
    · exact h.of_view ((same_iff .mem s t).mp (viewR_frame (exec_view c s hr hk) e))
    · obtain ⟨r, rfl, -⟩ := not_forall.mp hr |>.imp fun r hr => Classical.not_imp.mp hr
      exact absurd (List.mem_cons_self) hk

end Commands

/-- Settles O3: no byte is listed, so that each reads 0. -/
theorem memoryFormAtReset : Obligations.MemoryFormAtReset := ⟨rfl, fun _ => rfl⟩

/-- Settles O4: the front command keeps the form, and with no command the microsecond does. -/
theorem stepKeepsMemoryForm : Obligations.StepKeepsMemoryForm := by
  intro s t h e
  unfold step at e
  cases hp : s.pending with
  | nil =>
    rw [hp] at e
    exact Host.Outcome.next.inj e ▸ tick_memForm h
  | cons c rest =>
    rw [hp] at e
    exact exec_memForm (s := { s with pending := rest }) h c t e

end Sys2Proof.Architecture
end

section
/-! SUPPORT. The accesses of a bank port that the crossbar does not grant, and the words that a granted read returns. -/

namespace Sys2Proof.Architecture

open Machine Laws

section BankPorts

variable {r : BankReq} {s : State}

/-- Beyond the 2 MiB of a bank there is no address (R394). -/
theorem bankAccess_beyond (h : 0x200000 < r.offset + (if r.write then r.bytes.length else r.count)) :
    exec (.bankAccess r) s = .fault .noSuchAddress := by
  rw [exec, execBankAccess, if_pos h]

/-- An access within its bank, whose domain runs with the crossbar, by the port's order of checks. -/
theorem bankAccess_within (h : EndsInBank r) (on : bankOn s r.bank.val = true) : exec (.bankAccess r) s = .next
    (if !r.service && portOwner s r.bank r.portB = r.master.val && (hedBank s r.bank).pend && !r.portB then emit (.relinquished r.master r.bank) s
      else if !(portServes s r.bank r.portB r.master r.service r.write) then bankViol r s
      else if bankBeats s r then bankBeaten r s
      else bankGrant r s) := by
  rw [exec, execBankAccess, if_neg (Nat.not_lt.mpr h)]
  simp only [ok, on, Bool.not_true, Bool.false_eq_true, if_false]

/-- An access that its port serves is no new one of an old owner: it waits behind a request that goes first, or is granted. -/
theorem bankAccess_serves (h : EndsInBank r) (on : bankOn s r.bank.val = true)
    (serves : portServes s r.bank r.portB r.master r.service r.write = true) :
    exec (.bankAccess r) s = .next (if bankBeats s r then bankBeaten r s else bankGrant r s) := by
  rw [bankAccess_within h on, if_neg (by simpa using portServes_new serves), if_neg (by simp [serves])]

/-- An access that its port does not serve, by a master that is not its owner or as a service access, is a violation (R365). -/
theorem bankAccess_viol (h : EndsInBank r) (on : bankOn s r.bank.val = true)
    (serves : portServes s r.bank r.portB r.master r.service r.write = false)
    (other : r.service = true ∨ portOwner s r.bank r.portB ≠ r.master.val) : exec (.bankAccess r) s = .next (bankViol r s) := by
  rw [bankAccess_within h on, if_neg, if_pos (by rw [serves]; rfl)]
  rcases other with o | o <;> simp [o]

theorem bankAccess_relinquished (h : EndsInBank r) (on : bankOn s r.bank.val = true) (own : r.service = false)
    (master : portOwner s r.bank r.portB = r.master.val) (pend : (hedBank s r.bank).pend = true) (a : r.portB = false) :
    exec (.bankAccess r) s = .next (emit (.relinquished r.master r.bank) s) := by
  rw [bankAccess_within h on, if_pos (by rw [own, master, pend, a]; simp)]

/-- A region that refuses is recorded, and a read returns zeros with a poison tag (R395). -/
theorem bankGrant_refused {g : Nat} (no : regionRefuses s (reqSecure r) r.write (bankBase r.bank + r.offset) = some g) :
    bankGrant r s = bankRefused r (regionViol g r.master.val (bankBase r.bank + r.offset) r.write s) := by
  simp only [bankGrant, no]

end BankPorts

/-- Settles O7: the access by what its port does with it, a granted read by how its words come. -/
theorem bankAccess : Obligations.BankAccess := by
  have reads {r : BankReq} {s : State} (h : granted r s) (w : r.write = false) : exec (.bankAccess r) s = .next (bankRead r s) :=
    (bankAccess_granted h).trans (congrArg _ (bankGrant_reads h w))
  refine ⟨fun r s h => bankAccess_beyond h, fun r s h w c m => ⟨?store, fun a => memByte_memWrite _ _ _ m a⟩,
    fun r s h w e => ?corrected, fun r s h w e => ?uncorrectable, fun r s h w e => ?parity, fun r n s h w e => ?late, fun r s h w e => ?clean,
    fun r s h w c p b => ?collides, fun r s h on serves other => bankAccess_viol h on serves other,
    fun r g s h on serves first no => ?region, fun r s h on serves first => ?beaten,
    fun r s h on own master pend a => bankAccess_relinquished h on own master pend a⟩
  case store => rw [bankAccess_granted h, bankGrant_write h w c]
  case collides => rw [bankAccess_granted h, bankGrant_collide h w (by simp [c, p, b])]
  case corrected => rw [reads h w]; simp only [bankRead, e]
  case uncorrectable => rw [reads h w]; simp only [bankRead, e]
  case parity => rw [reads h w]; simp only [bankRead, e]
  case late => rw [reads h w]; simp only [bankRead, e]
  case clean => rw [reads h w]; simp only [bankRead, e]
  case region => rw [bankAccess_serves h on serves, if_neg (by simp [first]), bankGrant_refused no]; rfl
  case beaten => rw [bankAccess_serves h on serves, if_pos first]; rfl

end Sys2Proof.Architecture
end

section
/-! SUPPORT. The end of a handover, a handover that is stuck, a bank that BIST gives back, toggle crossings and epochs (R367 to R371, R381,
R385). -/

namespace Sys2Proof.Architecture

open Machine Laws

theorem hedBank_setHed (b : Fin 24) (f : Bank → Bank) (s : State) : hedBank (setHed b f s) b = f (hedBank s b) :=
  vget_vmod_self s.hed.banks b f

section Handovers

variable {b : Fin 24} {s : State}

/-- A handover that waits for its old owner, which is not BIST, and is not stuck. -/
def handoverWaits (b : Fin 24) (s : State) : Prop :=
  fabricOn s = true ∧ (hedBank s b).pend = true ∧ (hedBank s b).stuck = false ∧ (hedBank s b).owner ≠ 0x10

theorem handoverWaits_cond (h : handoverWaits b s) :
    (fabricOn s && (hedBank s b).pend && !(hedBank s b).stuck && (hedBank s b).owner ≠ 0x10) = true := by
  obtain ⟨on, pend, stuck, owner⟩ := h
  simp [on, pend, stuck, owner]

theorem exec_handoverDrained (h : handoverWaits b s) (back : (hedBank s b).back = none) : exec (.handoverDrained b) s =
    .next (setHed b (fun k => { k with owner := k.req, pend := false, drained := true, stuck := false, outst := 0, back := none }) s) := by
  have ends : exec (.handoverDrained b) s = .next (hedDrained b s) := next_when (handoverWaits_cond h)
  rw [ends, hedDrained, back]

/-- The ladder acts on the group of an owner whose accesses do not end; 1 ms until it acts is the model's choice (log 117). -/
def stuckClimbs (b : Fin 24) (s : State) : State :=
  match ownerGroup (hedBank s b).owner with
  | some g => climb g 1000 (raiseFabric 0x0901 5 b.val (setHed b (fun k => { k with stuck := true }) s))
  | none => raiseFabric 0x0901 5 b.val (setHed b (fun k => { k with stuck := true }) s)

theorem exec_handoverStuck (h : handoverWaits b s) :
    exec (.handoverStuck b) s = .next (when (bankMovable b && s.zor.phase = .prepare) (swapFail 9 stTimeout) (stuckClimbs b s)) :=
  congrArg Host.Outcome.next (if_pos (handoverWaits_cond h))

/-- A bank that BIST gives back reads as zeros, and no other byte changes. -/
theorem mem_bankZero (c : Host.Cell) : c ∈ (bankZero b s).mem ↔ c ∈ s.mem ∧ ¬(bankBase b ≤ c.1 ∧ c.1 < bankBase b + 0x200000) := by
  rw [bankZero, List.mem_filter, ← Bool.decide_and, ← decide_not, decide_eq_true_iff]

theorem exec_bistBankReturn (h : (hedBank s b).owner = 0x10) : exec (.bistBankReturn b) s = .next (bistReturn b s) :=
  next_when (decide_eq_true h)

theorem hedBank_bistReturn (b : Fin 24) (s : State) : hedBank (bistReturn b s) b =
    { hedBank s b with owner := 0x1F, req := if (hedBank s b).pend then (hedBank s b).req else 0x1F } := hedBank_setHed b _ _

end Handovers

section Crossings

variable {g : Fin 25} {s : State}

/-- An acknowledge frees the crossing, or sends the pulse that it held; of the held ones that of the time unit takes a snapshot. -/
theorem exec_toggleAcknowledge (h : (vget s.hed.toggles g).busy = true) : exec (.toggleAcknowledge g) s =
    .next (when ((vget s.hed.toggles g).held && g.val = 17 && ethOn s) timSnapshot
      { s with hed := { s.hed with toggles := vset s.hed.toggles g { busy := (vget s.hed.toggles g).held, held := false } } }) :=
  congrArg Host.Outcome.next (if_pos h)

theorem exec_cdcEpoch (h : fabricOn s = true) (words : Nat) : exec (.cdcEpoch g words) s = .next (climb g.val 1000 (crossEpoch g words s)) :=
  congrArg Host.Outcome.next (if_pos h)

end Crossings

/-- Settles O8: each command by its equation; the waiting time of 1 ms before the ladder acts is log 117. -/
theorem bankAndCrossingCommands : Obligations.BankAndCrossingCommands := by
  refine ⟨fun b s on pend stuck owner back => exec_handoverDrained ⟨on, pend, stuck, owner⟩ back,
    fun b s owner pend => ⟨bistReturn b s, exec_bistBankReturn owner, ?_, ?_, ?_, fun a lo hi c hc e => ?inside, fun c hc out => ?outside⟩,
    fun g s busy held => ?free, fun g s busy held g17 on => ?sends,
    fun b s on pend stuck owner idle => ?stuck, fun b s on pend stuck owner movable prepare => ?stuckPrepare,
    fun g words s on => exec_cdcEpoch on words⟩
  · rw [hedBank_bistReturn]
  · rw [hedBank_bistReturn]; exact pend
  · rw [hedBank_bistReturn, pend]; rfl
  case inside => exact ((mem_bankZero c).mp hc).2 ⟨e ▸ lo, e ▸ hi⟩
  case outside => exact (mem_bankZero c).mpr ⟨hc, by omega⟩
  case free => rw [exec_toggleAcknowledge busy, held]; rfl
  case sends => rw [exec_toggleAcknowledge busy, held, g17, on]; rfl
  case stuck => rw [exec_handoverStuck ⟨on, pend, stuck, owner⟩, decide_eq_false idle, Bool.and_false]; rfl
  case stuckPrepare => rw [exec_handoverStuck ⟨on, pend, stuck, owner⟩, decide_eq_true prepare, movable]; rfl

end Sys2Proof.Architecture
end

section
/-! SUPPORT. The commands of the Mirror lanes, by what the module does with the first good copy, and the steps of a switch-over (R341, R346,
R352, R354, R356). -/

namespace Sys2Proof.Architecture

open Machine Laws

section LaneCommands

variable {m : MirCmd} {s : State} (h : heard m s)

include h

/-- The standby begins step 2 of R352, where no swap is in PREPARE. -/
theorem exec_handover_heard (hd : s.mir.decided = true) (hr : s.mir.role = .standby) (ho : s.mir.swo = .none ∨ s.mir.swo = .requested)
    (hz : s.zor.phase = .idle) : exec (.handover m) s = .next (raise 0x0807 4 m.arg.toNat (cmdAnswered .request (setMir (fun x =>
      { x with swo := .newScans, swoCode := m.arg.toNat, div := none }) (noted m s)))) := by
  refine (cmdTake_heard h _).trans (congrArg Host.Outcome.next ((if_pos ?_).trans ?_))
  · rcases ho with ho | ho <;> simp [hd, hr, ho]
  · simp only [setMir_zor, hz, reduceCtorEq, decide_false, Bool.or_self, when_false]

/-- What an ACTIVE module with no switch-over answers to REQUEST (R346). -/
theorem exec_request_heard (hd : s.mir.decided = true) (hr : s.mir.role = .active) (ho : s.mir.swo = .none) : exec (.request m) s = .next
    (if s.mir.prole ≠ 3 then sendCmd .refuse 1 (noted m s)
      else if s.mir.div.isSome then sendCmd .refuse 2 (noted m s)
      else if s.zor.phase = .freeze || s.zor.phase = .map then sendCmd .refuse 3 (noted m s)
      else handOver m.arg.toNat false (noted m s)) :=
  (cmdTake_heard h _).trans (congrArg Host.Outcome.next (if_pos (by simp [hd, hr, ho])))

theorem exec_live_heard (ho : s.mir.swo = .oldWait) : exec (.live m) s = .next (oldSteps (noted m s)) :=
  (cmdTake_heard h _).trans (congrArg Host.Outcome.next (if_pos ho))

theorem exec_aioLive_heard (ho : s.mir.swo = .oldAio) :
    exec (.aioLive m) s = .next (judge false (aioBypassAll true (setMir (fun x => { x with swo := .none }) (noted m s)))) :=
  (cmdTake_heard h _).trans (congrArg Host.Outcome.next (if_pos ho))

theorem exec_diverge_heard (hd : s.mir.decided = true) (hr : s.mir.role = .active) (hv : s.mir.div = none) (ho : s.mir.swo = .none)
    (he : m.arg.toNat < 8 ∨ (0x10 ≤ m.arg.toNat ∧ m.arg.toNat < 0x14)) : exec (.diverge m) s = .next (setMir (fun x =>
      { x with div := some { engine := m.arg.toNat }, divEng := m.arg.toNat, divCount := (x.divCount + 1) % 256 }) (noted m s)) :=
  (cmdTake_heard h _).trans (congrArg Host.Outcome.next (if_pos (by simp [hd, hr, hv, ho, he])))

theorem exec_checkResult_heard {d : DivCheck} (hv : s.mir.div = some d) (he : bits m.arg.toNat 8 8 = d.engine) :
    exec (.checkResult m) s = .next (divDecide (cmdAnswered .diverge (setMir (fun x =>
      { x with div := some { d with peer := some (bitOf m.arg.toNat 0) } }) (noted m s)))) := by
  have hn : (noted m s).mir.div = some d := hv
  rw [exec, execCheckResult, cmdTake_heard h]
  simp only [hn, he, if_true]

theorem exec_refuse_heard (ho : s.mir.swo = .requested) : exec (.refuse m) s = .next (completeOpt s.mir.roleNo stBusy m.arg.toNat
    (cmdAnswered .request (setMir (fun x => { x with swo := .none, roleNo := none }) (noted m s)))) :=
  (cmdTake_heard h _).trans (congrArg Host.Outcome.next (if_pos ho))

end LaneCommands

section SwitchOver

variable {s : State}

/-- Steps 3 and 4: the MIR_ROLE that asked completes, and the new active drives. -/
theorem exec_switchoverScansCommitted (hm : meRuns s = true) (hr : s.mir.role = .standby) (ho : s.mir.swo = .newScans)
    (hs : scansDone s = true) : exec .switchoverScansCommitted s =
    .next (takeField .active s.mir.swoCode (completeOpt s.mir.roleNo stOk 2 (setMir (fun x => { x with roleNo := none }) s))) :=
  congrArg Host.Outcome.next (if_pos (by simp [hm, hr, ho, hs]))

/-- LIVE names every channel, the model's choice of log 109. -/
theorem exec_outputsLive (g : Nat) (ho : s.mir.swo = .newOutputs) : exec (.outputsLive g) s =
    .next (when (s.mir.role = .active) (sendCmd .live 0xFFFF) (setMir (fun x => { x with swo := .newAio, swoGap := min g 0xFFFF }) s)) :=
  congrArg Host.Outcome.next (if_pos ho)

theorem exec_transmittersSettled (ho : s.mir.swo = .newAio) : exec .transmittersSettled s =
    .next (judge false (when (s.mir.role = .active) (sendCmd .aioLive 0xFFFF) (setMir (fun x => { x with swo := .none }) s))) :=
  congrArg Host.Outcome.next (if_pos ho)

theorem exec_liveTimeout_aliveLine (hm : meRuns s = true) (ho : s.mir.swo = .oldWait) (ha : s.mir.palive = true) :
    exec .liveTimeout s = .next (oldSteps (raise 0x0807 4 (0x100 + s.mir.swoCode : Nat) s)) := by
  have alive : (raise 0x0807 4 (0x100 + s.mir.swoCode : Nat) s).mir.palive = true := by rw [raise_mir, ha]
  exact congrArg Host.Outcome.next ((if_pos (by simp [hm, ho])).trans (if_pos alive))

/-- The own result of a divergence check: a failed engine test or signature path, or on the module with the field a wrong readback. -/
theorem exec_divergenceCheckEnd {d : DivCheck} (b : Bool) (hm : meRuns s = true) (hv : s.mir.div = some d) (ho : d.own = none) :
    let failed := b || (holdsField s && divReadback s d.engine)
    let s1 := setMir (fun m => { m with div := some { d with own := some failed } }) s
    exec (.divergenceCheckEnd b) s = .next (divDecide (when (s.mir.role = .active || s.mir.role = .standby)
      (sendCmd .checkResult (b2n failed + d.engine * 256)) s1)) := by
  intro failed s1
  rw [exec, execDivergenceCheckEnd, hv]
  exact congrArg Host.Outcome.next (if_pos (by simp [hm, ho]))

end SwitchOver

/-- Settles O52: a further or a bad copy by what is done with every command, the first good copy by its command, a step of a switch-over by
its state. -/
theorem mirrorCommandCommands : Obligations.MirrorCommandCommands := by
  refine ⟨fun m s hm hc ha => ?again, fun m s hm hc => ?bad,
    fun m s h hd hr ho hz => exec_handover_heard h hd hr ho hz,
    fun m s h hd hr ho hp hv hf hmap => ?requestHandover, fun m s h hd hr ho hp => ?requestRole, fun m s h hd hr ho hp hv => ?requestCheck,
    fun m s h ho => exec_live_heard h ho, fun m s h ho => exec_aioLive_heard h ho,
    fun m s h hd hr hv ho he => exec_diverge_heard h hd hr hv ho he, fun m d s h hv he => exec_checkResult_heard h hv he,
    fun m s h ho => exec_refuse_heard h ho, fun s hm hr ho hs => exec_switchoverScansCommitted hm hr ho hs,
    fun g s ho => exec_outputsLive g ho, fun s ho => exec_transmittersSettled ho,
    fun s hm ho ha => exec_liveTimeout_aliveLine hm ho ha, fun b d s hm hv ho => exec_divergenceCheckEnd b hm hv ho⟩
  case again =>
    have again (f : State → State) := cmdTake_again hm hc ha f
    exact ⟨again _, again _, again _, again _, again _, (show execCheckResult m s = _ from again _), again _⟩
  case bad =>
    have bad (f : State → State) := cmdTake_bad hm hc f
    exact ⟨bad _, bad _, bad _, bad _, bad _, (show execCheckResult m s = _ from bad _), bad _⟩
  case requestHandover =>
    rw [exec_request_heard h hd hr ho, if_neg (not_not.mpr hp), hv, if_neg (by decide), if_neg (by simp [hf, hmap])]
  case requestRole => rw [exec_request_heard h hd hr ho, if_pos hp]
  case requestCheck => rw [exec_request_heard h hd hr ho, if_neg (not_not.mpr hp), if_pos (Option.isSome_iff_ne_none.mpr hv)]

end Sys2Proof.Architecture
end

section
/-! SUPPORT. The requests of the service port, by what each answers and leaves, and the life-cycle changes (R396 to R405). -/

namespace Sys2Proof.Architecture

open Machine Laws

section Requests

variable {op : Nat} {r : SvcReq} {a : SvcAns} {s t : State}

/-- A request that runs is answered with what its command answers. -/
theorem next_svcRun (h : svcRuns op r s) {f : State → SvcAns × State} (hf : f s = (a, t)) : ok (svcRun op r f s) = .next (svcSent op r a t) := by
  rw [svcRun_runs h, hf]; rfl

theorem next_svcRun_refused (on : hkOn s = true) (up : s.svc.pullup = true) {c : Nat} (h : svcRefusal s op r = some c)
    (f : State → SvcAns × State) : ok (svcRun op r f s) = .next (svcSent op r (svcDeny c) s) :=
  congrArg Host.Outcome.next (svcRun_refused on up h f)

/-! ### Sessions (R400, R404, R405) -/

/-- The port after an open session has ended. -/
def sessionEnded (s : State) : State := when (svcOpen s.svc) svcEnd s

theorem sessionEnded_locked (s : State) : (sessionEnded s).svc.sess = .locked ↔ s.svc.sess = .locked := (svcEnd_first s).2.2.2.2

/-- What CHALLENGE answers and leaves, with the open session ended. -/
def challenged (s : State) : SvcAns × State :=
  if s.svc.sess = .locked then ({ status := stLocked }, sessionEnded s)
  else if !s.sec.keySet then (svcDenyOpen, sessionEnded s)
  else ({ payload := bvBytes 16 (Config.random128 s.free) ++ leBytes 4 s.svc.count },
    drawn (setSvc (fun v => { v with sess := .challenged, nonce := Config.random128 s.free }) (sessionEnded s)))

theorem exec_challenge (h : svcRuns 0x02 r s) : exec (.challenge r) s = .next (svcSent 0x02 r (challenged s).1 (challenged s).2) := by
  obtain ⟨sec, free, count, -, locked⟩ := svcEnd_first s
  refine next_svcRun h ?_
  dsimp only [challenged, sessionEnded]
  simp only [locked, sec, free, count]

/-- The port counts every answer to a challenge. -/
def answerCounted (s : State) : State := setSvc (fun v => { v with count := (v.count + 1) % 2 ^ 32 }) s

/-- A wrong answer ends the attempt, with event 0x0B01. -/
def answerWrong (s : State) : State := raise 0x0B01 4 1 (setSvc (fun v => { v with sess := .none, fails := v.fails + 1 }) (answerCounted s))

theorem answerWrong_fails (s : State) : (answerWrong s).svc.fails = s.svc.fails + 1 :=
  congrArg Svc.fails (View.svc.inj (raise_view (k := .svc) (by decide) 0x0B01 4 1 _))

theorem exec_respond_right (h : svcRuns 0x03 r s) (hc : s.svc.sess = .challenged)
    (hr : r.payload = sessAnswer s s.svc.nonce s.svc.count [1]) : exec (.respond r) s =
    .next (svcSent 0x03 r { result := some 1 } (setSvc (fun v => { v with sess := .key, fails := 0 }) (answerCounted s))) := by
  refine next_svcRun h ?_
  simp only [hc, hr, ne_eq, not_true_eq_false, decide_true, if_false, if_true]
  rfl

theorem exec_respond_wrong (h : svcRuns 0x03 r s) (hc : s.svc.sess = .challenged)
    (hr : r.payload ≠ sessAnswer s s.svc.nonce s.svc.count [1]) : exec (.respond r) s = .next (svcSent 0x03 r { result := some 0 }
      (if 3 ≤ s.svc.fails + 1 then raise 0x0B02 5 1 (setSvc (fun v => { v with sess := .locked, lockUs := sessLockUs }) (answerWrong s))
        else answerWrong s)) := by
  refine next_svcRun h ?_
  rw [← answerWrong_fails]
  simp only [hc, hr, ne_eq, not_true_eq_false, decide_false, Bool.false_eq_true, if_false]
  rfl

theorem exec_presence (h : svcRuns 0x04 r s) (hl : s.sec.life = .manufacture ∨ s.sec.life = .commission) (hk : s.sec.keySet = false)
    (hw : s.svc.window = true) (hs : s.svc.sess ≠ .locked) : exec (.presence r) s =
    .next (svcSent 0x04 r { result := some 1 } (setSvc (fun v => { v with sess := .presence }) (sessionEnded s))) := by
  obtain ⟨sec, -, -, window, locked⟩ := svcEnd_first s
  have life : (decide (s.sec.life = .manufacture) || decide (s.sec.life = .commission)) = true := by simpa using hl
  refine next_svcRun h ?_
  simp only [life, sec, window, locked, hk, hw, hs, Bool.not_true, Bool.false_eq_true, decide_false, Bool.or_self, if_false]
  rfl

/-! ### Registers, points and records (R404) -/

theorem exec_regRead (h : svcRuns 0x10 r s) (hr : svcRange r.arg.toNat r.arg2.toNat = true) : exec (.regRead r) s = .next (
    let t := svcReads (svcSecure s) r.arg2.toNat r.arg.toNat s
    svcSent 0x10 r (if t.2.1 then { status := stTimeout, result := some (t.1.length / 4), payload := t.1 } else { payload := t.1 }) t.2.2) :=
  next_svcRun h (if_neg (by simp [hr]))

theorem exec_regWrite (h : svcRuns 0x11 r s) (hl : r.len % 4 = 0) (hr : svcRange r.arg.toNat (r.len / 4) = true) : exec (.regWrite r) s = .next (
    let t := svcWrites (pieces 4 r.payload) r.arg.toNat 0 s
    svcSent 0x11 r { status := if t.1 then stTimeout else stOk, result := some t.2.1 } t.2.2) :=
  next_svcRun h (if_neg (by simp [hl, hr]))

/-- The points that a request names, each with its address and its bytes. -/
def pointPieces (r : SvcReq) (s : State) : List (Nat × List Byte) :=
  (List.range r.arg2.toNat).map fun i => (Config.pointAddr (r.arg.toNat + i), leBytes 4 (ptRead s (r.arg.toNat + i)).toNat)

/-- A request names 1 to 1,024 points of the store. -/
def pointsNamed (r : SvcReq) : Prop := 1 ≤ r.arg2.toNat ∧ r.arg2.toNat ≤ 1024 ∧ r.arg.toNat + r.arg2.toNat ≤ 16384

theorem pointsNamed_check (h : pointsNamed r) : ¬(!within 1 1024 r.arg2.toNat || decide (16384 < r.arg.toNat + r.arg2.toNat)) = true := by
  obtain ⟨lo, hi, last⟩ := h
  simp [within, lo, hi, last]

theorem exec_servicePointRead (h : svcRuns 0x12 r s) (hn : pointsNamed r) (hf : fabricOn s = true) : exec (.servicePointRead r) s =
    .next (svcSent 0x12 r (svcMemory (pointPieces r s) s).1 (svcMemory (pointPieces r s) s).2) :=
  next_svcRun h ((if_neg (pointsNamed_check hn)).trans (if_neg (by simp [hf])))

/-- The payload of pieces that stand next to each other. -/
theorem flatMap_pieces {α : Type} (l : List α) (a : α → Nat) (b : α → List Byte) :
    (l.map fun x => (a x, b x)).flatMap (·.2) = l.flatMap b := List.flatMap_map ..

theorem exec_servicePointRead_sound (h : svcRuns 0x12 r s) (hn : pointsNamed r) (hf : fabricOn s = true)
    (hs : ∀ i, i < r.arg2.toNat → svcRegion s (Config.pointAddr (r.arg.toNat + i)) = none) : exec (.servicePointRead r) s =
    .next (svcSent 0x12 r { payload := (List.range r.arg2.toNat).flatMap fun i => leBytes 4 (ptRead s (r.arg.toNat + i)).toNat } s) := by
  have sound : ∀ p ∈ pointPieces r s, svcRegion s p.1 = none :=
    List.forall_mem_map.mpr fun i hi => hs i (List.mem_range.mp hi)
  rw [exec_servicePointRead h hn hf, svcMemory_sound sound, pointPieces, flatMap_pieces]

/-- A region refuses a piece of memory first, at an address. -/
def refusedFirst (s : State) (l : List (Nat × List Byte)) : Option (Nat × Nat) :=
  l.findSome? fun p => (svcRegion s p.1).map fun q => (q, p.1)

/-- Pieces with zeros for those that a region refuses; POISON with zeros is the model's choice (log 180). -/
def piecesShown (s : State) (l : List (Nat × List Byte)) : List Byte :=
  l.flatMap fun p => if (svcRegion s p.1).isSome then List.replicate p.2.length 0 else p.2

theorem exec_servicePointRead_refused {x a : Nat} (h : svcRuns 0x12 r s) (hn : pointsNamed r) (hf : fabricOn s = true)
    (hs : refusedFirst s (pointPieces r s) = some (x, a)) : exec (.servicePointRead r) s =
    .next (svcSent 0x12 r { status := stPoison, payload := piecesShown s (pointPieces r s) } (regionViol x 0x0D a false s)) := by
  rw [exec_servicePointRead h hn hf, svcMemory_refused hs, piecesShown]

theorem exec_servicePointRead_hubStopped (h : svcRuns 0x12 r s) (hn : pointsNamed r) (hf : fabricOn s = false) :
    exec (.servicePointRead r) s = .next (svcSent 0x12 r { status := stTimeout } s) :=
  next_svcRun h ((if_neg (pointsNamed_check hn)).trans (if_pos (by simp [hf])))

/-- The records that a request copies, each with the address of its slot and its bytes. -/
def recordPieces (r : SvcReq) (s : State) : List (Nat × List Byte) :=
  (slotsFrom s r.arg2.toNat r.arg.toNat).map fun p => (Config.recAddr p.1, slotBytes s p.2)

theorem recordsFrom_length (s : State) (n code : Nat) : (recordsFrom s n code).length = (slotsFrom s n code).length := List.length_map _

theorem exec_serviceRecRead (h : svcRuns 0x13 r s) (lo : 1 ≤ r.arg2.toNat) (hi : r.arg2.toNat ≤ 16) : exec (.serviceRecRead r) s =
    .next (svcSent 0x13 r { (svcMemory (recordPieces r s) s).1 with result := some (slotsFrom s r.arg2.toNat r.arg.toNat).length }
      (svcMemory (recordPieces r s) s).2) := by
  refine next_svcRun h ((if_neg (by simp [within, lo, hi])).trans ?_)
  dsimp only
  rw [recZip, recordsFrom_length]
  rfl

theorem exec_serviceRecRead_sound (h : svcRuns 0x13 r s) (lo : 1 ≤ r.arg2.toNat) (hi : r.arg2.toNat ≤ 16)
    (hs : ∀ p ∈ slotsFrom s r.arg2.toNat r.arg.toNat, svcRegion s (Config.recAddr p.1) = none) : exec (.serviceRecRead r) s =
    .next (svcSent 0x13 r
      { result := some (slotsFrom s r.arg2.toNat r.arg.toNat).length
        payload := (slotsFrom s r.arg2.toNat r.arg.toNat).flatMap fun p => slotBytes s p.2 } s) := by
  have sound : ∀ p ∈ recordPieces r s, svcRegion s p.1 = none := List.forall_mem_map.mpr hs
  rw [exec_serviceRecRead h lo hi, svcMemory_sound sound, recordPieces, flatMap_pieces]

theorem exec_serviceRecRead_refused {x a : Nat} (h : svcRuns 0x13 r s) (lo : 1 ≤ r.arg2.toNat) (hi : r.arg2.toNat ≤ 16)
    (hs : refusedFirst s (recordPieces r s) = some (x, a)) : exec (.serviceRecRead r) s =
    .next (svcSent 0x13 r
      { status := stPoison
        result := some (slotsFrom s r.arg2.toNat r.arg.toNat).length
        payload := piecesShown s (recordPieces r s) } (regionViol x 0x0D a false s)) := by
  rw [exec_serviceRecRead h lo hi, svcMemory_refused hs, piecesShown]

/-! ### Key and life cycle (R396, R398, R399) -/

theorem exec_keyWrite (h : svcRuns 0x20 r s) (hl : s.sec.life = .manufacture ∨ s.sec.life = .commission) : exec (.keyWrite r) s =
    .next (svcSent 0x20 r {} (setSvc (fun v => { v with endAfter := v.endAfter || v.sess = .presence })
      (raise 0x0B06 5 0 { s with sec := { s.sec with keySet := true, key := bvOf 256 r.payload } }))) :=
  next_svcRun h (if_neg (by simpa [or_iff_not_imp_left] using hl))

theorem exec_lcConfirm {l : Life} (h : svcRuns 0x21 r s) (hs : s.svc.sess = .presence → s.sec.keySet = false) (hp : s.sec.pend = true)
    (ht : r.arg.toNat = s.sec.target) (hl : lifeOf s.sec.target = some l) :
    exec (.lcConfirm r) s = .next (svcSent 0x21 r {} (lifeChange l true s)) := by
  refine next_svcRun h ((if_neg (by simpa using hs)).trans ((if_neg (by simp [hp])).trans ((if_neg (not_not.mpr ht)).trans ?_)))
  rw [hl]

theorem exec_lcAdvance (h : svcRuns 0x22 r s) (hl : s.sec.life = .manufacture) :
    exec (.lcAdvance r) s = .next (svcSent 0x22 r {} (lifeChange .commission true s)) := next_svcRun h (if_neg (not_not.mpr hl))

/-! ### Unknown requests (R403) -/

theorem svcRefusal_unknown (hu : svcSpec op = none) (hp : r.payload.length = r.len) (hl : r.len ≤ 4096) (hb : r.byte1 = 0) :
    svcRefusal s op r = some 1 := by
  simp [svcRefusal, hu, hp, hl, hb]

theorem exec_unknownServiceOp {op : Byte} {c : Nat} (on : hkOn s = true) (up : s.svc.pullup = true) (hu : svcSpec op.toNat = none)
    (hr : svcRefusal s op.toNat r = some c) : exec (.unknownServiceOp op r) s = .next (svcSent op.toNat r (svcDeny c) s) := by
  rw [exec, execUnknownServiceOp, hu, if_neg (by decide), next_svcRun_refused on up hr]

end Requests

section PortEvents

variable {s : State}

theorem exec_vbusConnect (h : s.svc.pullup = false) : exec .vbusConnect s = .next (usbAttach (setSvc (fun v => { v with vbus := true }) s)) :=
  congrArg Host.Outcome.next (if_neg (by simp [h]))

/-- The port joins the bus with its descriptors while HK1 runs. -/
theorem exec_vbusConnect_on (on : hkOn s = true) (h : s.svc.pullup = false) : exec .vbusConnect s =
    .next (emit (.usbDevice (usbDevice s)) (setSvc (fun v => { v with vbus := true, pullup := true }) s)) := by
  have joins : (true && hkOn (setSvc (fun v => { v with vbus := true }) s)) = true := on
  exact (exec_vbusConnect h).trans (congrArg Host.Outcome.next (if_pos joins))

theorem exec_vbusConnect_off (on : hkOn s = false) (h : s.svc.pullup = false) :
    exec .vbusConnect s = .next (setSvc (fun v => { v with vbus := true, pullup := false }) s) := by
  have stays : ¬(true && hkOn (setSvc (fun v => { v with vbus := true }) s)) = true := by
    show ¬(true && hkOn s) = true
    rw [on]
    decide
  exact (exec_vbusConnect h).trans (congrArg Host.Outcome.next (if_neg stays))

end PortEvents

section LifeChange

variable (l : Life) (own : Bool) (s : State)

/-- The life-cycle state of `l`, nothing else changed yet. -/
def lifeWritten : State := { s with sec := { s.sec with life := l, pend := false }, shu := { s.shu with lcChg := true } }

/-- An accepted change, with its vector and event, the end of the sessions and what the pair does; what entry to DECOMMISSIONED clears is
still there. -/
def lifeSet : State :=
  lifePair (raise 0x0B07 5 (lifeCode s.sec.life * 16 + lifeCode l : Nat)
    (if own then setSvc (fun v => { v with endAfter := true }) (sessEnd (vector64 (lifeWritten l s)))
      else svcEnd (sessEnd (vector64 (lifeWritten l s)))))

theorem lifeChange_eq : lifeChange l own s = if l = .decommissioned then decommission (lifeSet l own s) else lifeSet l own s := rfl

theorem lifeSet_view {k : Blk} (h : k ∉ ([.hub, .shu, .loom, .mir, .svc, .rcd, .out, .free] : List Blk)) :
    view k (lifeSet l own s) = view k (lifeWritten l s) := by
  simp only [List.mem_cons, List.not_mem_nil, or_false, not_or] at h
  cases own <;> simp [lifeSet, lifePair_view, raise_view, setSvc_view, svcEnd_view, sessEnd_view, vector64_view, h]

theorem lifeSet_sec : (lifeSet l own s).sec = { s.sec with life := l, pend := false } := View.sec.inj (lifeSet_view l own s (k := .sec) (by decide))

theorem decommission_sec : (decommission s).sec = { s.sec with keySet := false, key := 0 } := by
  have kept : (fieldOff (tasksStop s)).sec = s.sec :=
    View.sec.inj ((fieldOff_view (k := .sec) (by decide) _).trans (tasksStop_view (by decide) s))
  rw [decommission, kept]

theorem lifeChange_life : (lifeChange l own s).sec.life = l ∧ (lifeChange l own s).sec.pend = false := by
  rw [lifeChange_eq]
  split
  · rw [decommission_sec, lifeSet_sec]; exact ⟨rfl, rfl⟩
  · rw [lifeSet_sec]; exact ⟨rfl, rfl⟩

/-- A change to another state keeps the key, the brake password and the images. -/
theorem lifeChange_keeps (h : l ≠ .decommissioned) : (lifeChange l own s).sec.keySet = s.sec.keySet ∧ (lifeChange l own s).sec.key = s.sec.key ∧
    (lifeChange l own s).brk = s.brk ∧ (lifeChange l own s).zor = s.zor := by
  rw [lifeChange_eq, if_neg h]
  exact ⟨by rw [lifeSet_sec], by rw [lifeSet_sec], View.brk.inj (lifeSet_view l own s (k := .brk) (by decide)),
    View.zor.inj (lifeSet_view l own s (k := .zor) (by decide))⟩

theorem lifeChange_decommissioned : (lifeChange .decommissioned own s).sec.keySet = false ∧ (lifeChange .decommissioned own s).sec.key = 0 ∧
    (lifeChange .decommissioned own s).zor.store = none ∧ (lifeChange .decommissioned own s).brk.hasPw = false := by
  rw [lifeChange_eq, if_pos rfl]
  exact ⟨by rw [decommission_sec], by rw [decommission_sec], rfl, rfl⟩

/-! ### SEC_LCREQ (R398, R399) -/

variable {l s} {v : Word} (hm : bits v.toNat 16 16 = 0x5A3C) (hp : s.sec.pend = false) (hl : lifeOf (bits v.toNat 0 3) = some l)
  {confirm : Bool} (ht : lifeTransition s.sec.life l = some confirm) (hc : lifeCondition s s.sec.life l = true)
  (hr : (s.mir.decided && (s.mir.role = .active || s.mir.role = .standby)) = false) (hb : bistActive s = false)

include hm hp hl ht hc hr hb

/-- A transition that R398 has, whose conditions hold, waits for its confirmation or is made. -/
theorem lcRequest_accepted : lcRequest v s =
    if confirm then { s with sec := { s.sec with target := bits v.toNat 0 3, pend := true } }
    else lifeChange l false { s with sec := { s.sec with target := bits v.toNat 0 3 } } := by
  simp only [lcRequest, hm, hp, hl, ht, hc, hr, hb, ne_eq, not_true_eq_false, Bool.not_true, Bool.false_eq_true, if_false]

theorem exec_secLcreq {fn : Func} (h : reaches fn 0x6804 s) : exec (.secLcreq fn v) s = .next
    (if confirm then { s with sec := { s.sec with target := bits v.toNat 0 3, pend := true } }
      else lifeChange l false { s with sec := { s.sec with target := bits v.toNat 0 3 } }) := by
  refine next_barWrite h ?_
  rw [← lcRequest_accepted hm hp hl ht hc hr hb]
  show lcRequest (BitVec.ofNat 32 v.toNat) s = _
  rw [BitVec.ofNat_toNat, BitVec.setWidth_eq]

end LifeChange

/-- Settles O54: a request that runs by its command, a refused one by the check, a life-cycle change by whether it is entry to
DECOMMISSIONED. POISON with zeros is log 180, the order of the checks log 30, LC_CONFIRM and the end of a session log 51. -/
theorem serviceSessionCommands : Obligations.ServiceSessionCommands := by
  refine ⟨fun r s h => next_svcRun h rfl, fun r s h hs hk => ?challenge, fun r s h hs => ?challengeLocked, fun r s h hs hk => ?challengeNoKey,
    fun r s h hc hr => exec_respond_right h hc hr, fun r s h hc hr hf => ?respondWrong, fun r s h hc hr hf => ?respondLocks,
    fun r s h hl hk hw hs => exec_presence h hl hk hw hs, fun r s h => next_svcRun h rfl,
    fun op r c s on up hu hr => exec_unknownServiceOp on up hu hr,
    fun op r s on up hu hp hl hb => exec_unknownServiceOp on up hu (svcRefusal_unknown hu hp hl hb),
    fun op i r c s hi on up hr => ?refused, fun s h => next_when h, fun s h => next_when (decide_eq_true h), fun s => rfl, fun s => ⟨rfl, rfl⟩,
    fun s on h => exec_vbusConnect_on on h, fun s on h => exec_vbusConnect_off on h, fun r s h hr => exec_regRead h hr,
    fun w n off s => ⟨rfl, fun hd => if_pos hd, fun hd => if_neg (by simp [hd])⟩,
    fun b l off k s => ⟨rfl, fun hd => if_pos hd, fun hd => if_neg (by simp [hd])⟩, fun r s h hl hr => exec_regWrite h hl hr,
    fun i s hk => if_pos hk, fun r s h lo hi last hf hs => exec_servicePointRead_sound h ⟨lo, hi, last⟩ hf hs,
    fun r x a s h lo hi last hf hs => exec_servicePointRead_refused h ⟨lo, hi, last⟩ hf hs,
    fun r s h lo hi last hf => exec_servicePointRead_hubStopped h ⟨lo, hi, last⟩ hf,
    fun r s h lo hi hs => exec_serviceRecRead_sound h lo hi hs, fun r x a s h lo hi hs => exec_serviceRecRead_refused h lo hi hs,
    fun r s h hl => exec_keyWrite h hl, fun r l s h hs hp ht hl => exec_lcConfirm h hs hp ht hl,
    fun r s h hl => exec_lcAdvance h hl,
    fun l own s => ⟨(lifeChange_life l own s).1, (lifeChange_life l own s).2, lifeChange_keeps l own s,
      fun hl => hl ▸ lifeChange_decommissioned own s⟩,
    fun fn v l s h hm hp hl ht hc hr hb => exec_secLcreq hm hp hl ht hc hr hb h,
    fun fn v l s h hm hp hl ht hc hr hb => exec_secLcreq hm hp hl ht hc hr hb h,
    fun s on hp => congrArg Host.Outcome.next (if_pos (by rw [on, hp]; rfl))⟩
  case challenge => rw [exec_challenge h, challenged, if_neg hs, hk]; rfl
  case challengeLocked => rw [exec_challenge h, challenged, if_pos hs, sessionEnded, svcOpen, hs]; rfl
  case challengeNoKey => rw [exec_challenge h, challenged, if_neg hs, hk]; rfl
  case respondWrong => rw [exec_respond_wrong h hc hr, if_neg (by omega)]; rfl
  case respondLocks => rw [exec_respond_wrong h hc hr, if_pos (by omega)]; rfl
  case refused =>
    simp only [List.mem_cons, Prod.mk.injEq, List.not_mem_nil, or_false] at hi
    rcases hi with ⟨rfl, rfl⟩ | ⟨rfl, rfl⟩ | ⟨rfl, rfl⟩ | ⟨rfl, rfl⟩ | ⟨rfl, rfl⟩ | ⟨rfl, rfl⟩ | ⟨rfl, rfl⟩ | ⟨rfl, rfl⟩ | ⟨rfl, rfl⟩ |
      ⟨rfl, rfl⟩ | ⟨rfl, rfl⟩ | ⟨rfl, rfl⟩
    all_goals exact next_svcRun_refused on up hr _

end Sys2Proof.Architecture
end


section
/-! SUPPORT. The event recorder: a raise into the bobbin, HK1's application of the oldest raise, the copies in MRAM and the freezes (R409 to
R418, R421 to R423). -/

namespace Sys2Proof.Architecture

open Machine Laws

section Recorder
variable {s : State} {x : Raise} {l : List Raise} {i : Nat}

/-! ### Raises (R409) -/

/-- The stamp of a raised code: the bank fabric's, or that of the HK domain (R296, R409). -/
def codeStamp (code : Nat) (s : State) : Stamp := if codeFabric code then stampFabric s else stampHk s

/-- A raise stamped in the domain of its code. -/
theorem raise_of_codeFabric (c sev : Nat) (v : Int) (s : State) :
    (if codeFabric c then raiseFabric c sev v else raise c sev v) s = raiseAt (codeStamp c s) c sev v s := by
  unfold codeStamp
  cases codeFabric c
  · rfl
  · rfl

theorem exec_raiseEvent {c : BitVec 16} {sev : Fin 8} {v : Word} (hc : codeReserved c.toNat = false) :
    exec (.raiseEvent c sev v) s = .next (raiseAt (codeStamp c.toNat s) c.toNat sev.val v.toInt s) :=
  (next_when (by rw [hc]; rfl)).trans (congrArg Host.Outcome.next (raise_of_codeFabric ..))

/-- A machine word is within the 32 bits of a value. -/
theorem wrap32_toInt (v : Word) : wrap32 v.toInt = v.toInt := by
  unfold wrap32
  rw [BitVec.ofInt_toInt]

/-! ### The oldest raise (R410) -/

/-- The state with the oldest raise of the bobbin taken. -/
def bobbinTail (l : List Raise) (s : State) : State := { s with rcd := { s.rcd with bobbin := l } }

theorem exec_raiseApply (on : hkOn s = true) (hl : (s.pwr.loaded || s.pwr.phase = .halt) = true) :
    exec .raiseApply s = .next (raiseTake s) :=
  next_when (by rw [on, hl]; rfl)

theorem raiseTake_cons (hb : s.rcd.bobbin = x :: l) :
    raiseTake s = feed x (applyRaise x (bobbinTail l s)).2 (applyRaise x (bobbinTail l s)).1 := by
  unfold raiseTake
  rw [hb]
  rfl

/-- RAISE_APPLY by how its oldest raise is applied. -/
theorem exec_raiseApply_cons {t : State} {e : RaiseEnd} (on : hkOn s = true) (hl : (s.pwr.loaded || s.pwr.phase = .halt) = true)
    (hb : s.rcd.bobbin = x :: l) (hr : applyRaise x (bobbinTail l s) = (t, e)) : exec .raiseApply s = .next (feed x e t) := by
  rw [exec_raiseApply on hl, raiseTake_cons hb, hr]

theorem applyRaise_frozen (h : (s.rcd.louFrz || !s.rcd.frozen.isEmpty) = true) :
    applyRaise x s = ({ s with rcd := { s.rcd with floss := (s.rcd.floss + 1) % 2 ^ 32 } }, .frozen) := if_pos h

theorem applyRaise_held (h : (s.rcd.louFrz || !s.rcd.frozen.isEmpty) = false) (hs : slotOf s x.code = some i) :
    applyRaise x s = applyHeld x i s := by
  unfold applyRaise
  rw [h, hs]
  rfl

theorem applyRaise_free (h : (s.rcd.louFrz || !s.rcd.frozen.isEmpty) = false) (hs : slotOf s x.code = none) (hf : freeSlot s = some i) :
    applyRaise x s = applyNew x i none s := by
  unfold applyRaise
  rw [h, hs, hf]
  rfl

theorem applyRaise_victim {v : RecSlot} (h : (s.rcd.louFrz || !s.rcd.frozen.isEmpty) = false) (hs : slotOf s x.code = none)
    (hf : freeSlot s = none) (hv : victim s x.sev = some (i, v)) :
    applyRaise x s = applyNew x i (some v.body) { s with rcd := { s.rcd with ovr := holdInc 0xFFFFFFFF s.rcd.ovr } } := by
  unfold applyRaise
  rw [h, hs, hf, hv]
  rfl

theorem applyRaise_full (h : (s.rcd.louFrz || !s.rcd.frozen.isEmpty) = false) (hs : slotOf s x.code = none)
    (hf : freeSlot s = none) (hv : victim s x.sev = none) :
    applyRaise x s = ({ s with rcd := { s.rcd with fullN := holdInc 0xFFFF s.rcd.fullN } }, .full) := by
  unfold applyRaise
  rw [h, hs, hf, hv]
  rfl

end Recorder

/-- Settles O55: a raise by the room of the bobbin, RAISE_APPLY by the case of R410 that the oldest raise meets. The first GEN of a copy is
log 53, CSEQ and the feed's sequence number log 169. -/
theorem recorderCommands : Obligations.RecorderCommands := by
  refine ⟨fun c sev v s hc hb => ?room, fun c sev v s hc hb => (exec_raiseEvent hc).trans (congrArg Host.Outcome.next (if_neg (by omega))),
    fun c sev v s hc => ?reserved, fun s on hl hb => ?empty,
    fun x l s on hl hb h => exec_raiseApply_cons on hl hb (applyRaise_frozen (s := bobbinTail l s) h),
    fun x l i s on hl hb h hs ht => exec_raiseApply_cons on hl hb ((applyRaise_held (s := bobbinTail l s) h hs).trans (if_pos ht)),
    fun x l i s on hl hb h hs ht => exec_raiseApply_cons on hl hb ((applyRaise_held (s := bobbinTail l s) h hs).trans (if_neg (Bool.eq_false_iff.mp ht))),
    fun x l i s on hl hb h hs hf => exec_raiseApply_cons on hl hb (applyRaise_free (s := bobbinTail l s) h hs hf),
    fun x l i v s on hl hb h hs hf hv => exec_raiseApply_cons on hl hb (applyRaise_victim (s := bobbinTail l s) h hs hf hv),
    fun x l s on hl hb h hs hf hv => exec_raiseApply_cons on hl hb (applyRaise_full (s := bobbinTail l s) h hs hf hv),
    fun c x => ⟨fun h => if_pos h, fun h => if_neg h⟩, fun i s on hh hd => next_when (by rw [on, hh, hd]; rfl),
    fun i s on he => next_when (by rw [on, he]; rfl), fun s on hf => congrArg Host.Outcome.next (if_pos (by rw [on, hf]; rfl)),
    fun i s on hf => congrArg Host.Outcome.next (if_pos (by rw [on, hf]; rfl))⟩
  case room =>
    rw [exec_raiseEvent hc, raiseAt, if_pos hb, wrap32_toInt]
    rfl
  case reserved =>
    show ok (when (!codeReserved c.toNat) _ s) = _
    rw [hc]
    rfl
  case empty =>
    rw [exec_raiseApply on hl, raiseTake, hb]

end Sys2Proof.Architecture
end


section
/-! SUPPORT. The front panel's driver: a frame that begins, a temperature read and a compensation field (R426 to R435). -/

namespace Sys2Proof.Architecture

open Machine Laws

section Panel
variable {s : State} {flips : List Nat}

/-! ### Frames (R426, R429 to R431) -/

/-- The frame that begins: its number, band and rate, the content of the pixels and the ledger that it leads to (`new`); what a good check
and a failing one set differently is `fin`. -/
def frameBegun (new : List Nat) (fin : Pan → Pan) (s : State) : State :=
  setPan (fun x => fin { x with
    fcnt := (s.pan.fcnt + 1) % 2 ^ 32, band := x.nextBand, effRate := min x.rate (bandCap x.nextBand), shown := new
    ledNext := (ledgerFrame s.pan.shown new s.pan.ledger).1
    phase := if (ledgerFrame s.pan.shown new s.pan.ledger).1 = s.pan.ledger then .fieldA else .ledger
    satN := holdAdd 0xFFFF x.satN 0 }) (drawn s)

/-- A frame whose frame memory passes its check, with no pixel that saturates. -/
theorem exec_frameCommit_good (hm : panMayCommit s = true) (hb : frameBad flips s = false) (hh : s.pan.host = true)
    (hl : (ledgerFrame s.pan.shown (panContent flips s) s.pan.ledger).2 = 0) :
    exec (.frameCommit flips) s = .next (completeOpt s.pan.due stOk ((s.pan.fcnt + 1) % 2 ^ 32)
      (frameBegun (panContent flips s) (fun x => { x with due := none }) s)) := by
  show execFrameCommit flips s = _
  simp only [execFrameCommit, hm, hb, hh, hl, if_true, frameBegun, Bool.false_eq_true, if_false, Bool.or_self, Bool.not_true,
    Nat.lt_irrefl, decide_false, when_false, decide_eq_true_eq, setPan, drawn]
  rfl

/-- A frame whose frame memory fails its check (R431). -/
theorem exec_frameCommit_bad (hm : panMayCommit s = true) (hb : frameBad flips s = true)
    (hl : (ledgerFrame s.pan.shown s.pan.shown s.pan.ledger).2 = 0) :
    exec (.frameCommit flips) s = .next (panLoad (raise 0x0C02 4 ((s.pan.fcnt + 1) % 2 ^ 32 : Nat)
      (frameBegun s.pan.shown (fun x => { x with crcN := holdInc 0xFFFF x.crcN }) s))) := by
  show execFrameCommit flips s = _
  simp only [execFrameCommit, hm, hb, hl, if_true, frameBegun, Bool.true_or,
    Nat.lt_irrefl, decide_false, when_false, decide_eq_true_eq, setPan, drawn]
  rfl

/-! ### Compensation and temperature (R433, R435) -/

theorem exec_compensationField (on : panOn s = true) (hp : s.pan.phase = .comp) :
    exec .compensationField s = .next (when ((compRun s.pan).phase = .blank) (raise 0x0C01 2 (compRun s.pan).compN) (setPan compRun s)) :=
  congrArg Host.Outcome.next (if_pos (by rw [on, hp]; rfl))

theorem exec_panelTemperatureRead (t : Int) (on : panOn s = true) :
    exec (.panelTemperatureRead t) s = .next (when (bandNext t s.pan.nextBand ≠ s.pan.nextBand) (raise 0x0C03 1 (bandNext t s.pan.nextBand))
      (setPan (fun x => { x with temp := t, nextBand := bandNext t s.pan.nextBand }) s)) :=
  congrArg Host.Outcome.next (if_pos on)

end Panel

/-- Settles O56: a frame by the check of its frame memory; a read of the temperature and a compensation field by whether they raise. That the
band changes at the reading is log 170, the start from band 0 log 131. -/
theorem panelCommands : Obligations.PanelCommands := by
  refine ⟨fun flips s hm hb hh hl => exec_frameCommit_good hm hb hh hl, fun flips s hm hb hl => exec_frameCommit_bad hm hb hl,
    fun d s on hp => next_when (by rw [on, hp]; rfl), fun s on hp => next_when (by rw [on, hp]; rfl), fun s on hp hb => ?goesOn,
    fun s on hp hb => ?last, fun t s on hb => ?sameBand, fun t s on hb => ?newBand, fun s => rfl⟩
  case goesOn => rw [exec_compensationField on hp, decide_eq_false hb, when_false]
  case last => rw [exec_compensationField on hp, decide_eq_true hb, when_true]
  case sameBand => rw [exec_panelTemperatureRead t on, decide_eq_false (not_not_intro hb), when_false, hb]
  case newBand => rw [exec_panelTemperatureRead t on, decide_eq_true hb, when_true]

end Sys2Proof.Architecture
end


section
/-! SUPPORT. The supply of the module: the feeds, the outputs and the state that a power failure saves, the domains (R440 to R443, R459,
R481 to R483). -/

namespace Sys2Proof.Architecture

open Machine Laws

section Supply
variable {s : State}

/-! ### Feeds (R440) -/

theorem exec_powerGood_low {f0 f1 : Nat} (n : Fin 2) (h0 : f0 ≤ feedGood) (h1 : f1 ≤ feedGood) : exec (.powerGood f0 f1 n) s = .next s := by
  refine congrArg Host.Outcome.next (if_neg ?_)
  rw [decide_eq_false (Nat.not_lt.mpr h0), decide_eq_false (Nat.not_lt.mpr h1), Bool.or_self, Bool.and_false]
  exact Bool.false_ne_true

/-- A power-good that the module takes. -/
theorem powerGood_taken {f0 f1 : Nat} (h : s.pwr.up = false) (hf : feedGood < f0 ∨ feedGood < f1) :
    (!s.pwr.up && (decide (feedGood < f0) || decide (feedGood < f1))) = true := by
  rw [h]
  rcases hf with hf | hf
  · rw [decide_eq_true hf]; rfl
  · rw [decide_eq_true hf, Bool.or_true]; rfl

theorem exec_feedLost_shown {n : Fin 2} (v : Nat) (h : (if n = 0 then s.pwr.lost0 else s.pwr.lost1) = true) :
    exec (.feedLost n v) s = .next s :=
  congrArg Host.Outcome.next (if_neg (by rw [h, Bool.not_true, Bool.and_false]; exact Bool.false_ne_true))

/-- The supply after one feed has returned at `v`. -/
def feedReturned (k : Fin 2) (v : Nat) (p : Pwr) : Pwr :=
  if k = 0 then { p with feed0 := v, lost0 := p.lost0 && decide (v < feedGood) }
  else { p with feed1 := v, lost1 := p.lost1 && decide (v < feedGood) }

theorem exec_feedRestored_some (k : Fin 2) (a b : Nat) (up : s.pwr.up = true) (hp : s.pwr.pfw = false) :
    exec (.feedRestored (some k) a b) s =
      .next (when (decide (s.pwr.feed0 < feedRide) && decide (s.pwr.feed1 < feedRide) && decide (feedRide ≤ if k = 0 then a else b))
        (raiseOrLate 0x0A01 4 2) (setPwr (feedReturned k (if k = 0 then a else b)) s)) :=
  congrArg Host.Outcome.next (if_pos (by rw [up, hp]; rfl))

/-- Both feeds return after an interruption (R441). -/
theorem exec_feedRestored_none {a b : Nat} (up : s.pwr.up = true) (hp : s.pwr.pfw = false) (hv : feedRide ≤ a ∨ feedRide ≤ b)
    (h0 : s.pwr.feed0 < feedRide) (h1 : s.pwr.feed1 < feedRide) :
    exec (.feedRestored none a b) s = .next (raiseOrLate 0x0A01 4 2 (setPwr (fun p =>
      { p with feed0 := a, feed1 := b, lost0 := decide (a < feedLost), lost1 := decide (b < feedLost) }) s)) := by
  have hv : (decide (feedRide ≤ a) || decide (feedRide ≤ b)) = true := by simpa only [Bool.or_eq_true, decide_eq_true_eq] using hv
  refine congrArg Host.Outcome.next ((if_pos (by rw [up, hp]; rfl)).trans ((if_pos hv).trans ?_))
  rw [decide_eq_true h0, decide_eq_true h1]
  rfl

/-! ### Loss of power (R441, R459) -/

theorem powerFailWarning_taken (up : s.pwr.up = true) (h0 : s.pwr.feed0 < feedRide) (h1 : s.pwr.feed1 < feedRide) :
    (s.pwr.up && decide (s.pwr.feed0 < feedRide) && decide (s.pwr.feed1 < feedRide)) = true := by
  rw [up, decide_eq_true h0, decide_eq_true h1]
  rfl

/-- What the loss of one domain stops, beside the domain itself. -/
def supplyLost (d : Nat) (s : State) : State :=
  match d with
  | 1 => { s with svc := { s.svc with pullup := false } }
  | 0 => outputsDead (setPwr (fun p => { p with pd := 0, run := 0, up := false, link := false, stage := none }) { s with mir := { s.mir with oalive := false } })
  | 9 => { s with mir := { s.mir with oalive := false } }
  | 11 => foldFin 4 (fun t c => setBrk c brkOpen t) s
  | _ => s

/-- The domains without `d`. -/
def domainCleared (d : Fin 12) (p : Pwr) : Pwr := { p with pd := p.pd &&& ~~~(1#12 <<< d.val) }

theorem exec_domainSupplyLoss {d : Fin 12} (up : s.pwr.up = true) (on : pdOn s d.val = true) :
    exec (.domainSupplyLoss d) s = .next (supplyLost d.val (setPwr (domainCleared d) s)) :=
  congrArg Host.Outcome.next (if_pos (by rw [up, on]; rfl))

theorem supplyLost_other {d : Nat} (h0 : d ≠ 0) (h1 : d ≠ 1) (h9 : d ≠ 9) (h11 : d ≠ 11) : supplyLost d s = s := by
  unfold supplyLost
  split
  · exact absurd rfl h1
  · exact absurd rfl h0
  · exact absurd rfl h9
  · exact absurd rfl h11
  · rfl

/-! ### The carrier's reset line (R481, R482) -/

theorem exec_carrierResetRelease (hr : s.side.resetN = false) (up : s.pwr.up = true) (hw : s.pwr.warmN = 0 ∨ s.pwr.warmAt.length < 3) :
    exec .carrierResetRelease s = .next (startUp { s with side := { s.side with resetN := true } }) := by
  have hh : ¬ (heldHalts s = true) := by
    simp only [heldHalts, Bool.and_eq_true, decide_eq_true_eq, not_and]
    omega
  refine congrArg Host.Outcome.next ((if_pos (by rw [hr]; rfl)).trans ((if_neg ?_).trans (if_neg hh)))
  rw [up]
  exact Bool.false_ne_true

end Supply

/-- Settles O57: each command of the supply under the condition it takes its branch by. The feed that returns at 16.8 V and the value 2 are
log 123, the events that wait and PD0 alone log 124, what the link keeps log 167, the save at the warning log 168. -/
theorem powerSupplyCommands : Obligations.PowerSupplyCommands := by
  refine ⟨fun f0 f1 n s h hf => congrArg Host.Outcome.next (if_pos (powerGood_taken h hf)), fun f0 f1 n s h0 h1 => exec_powerGood_low n h0 h1,
    fun n v s up hv hl => congrArg Host.Outcome.next (if_pos (by rw [up, hl, decide_eq_true hv]; rfl)),
    fun a b s up ha hb => next_when (by rw [up, decide_eq_true ha, decide_eq_true hb]; rfl), fun n v s _ hl => exec_feedLost_shown v hl,
    fun a b s up hp hv h0 h1 => exec_feedRestored_none up hp hv h0 h1, fun k a b s up hp => ⟨fun h => ?rode, fun h => ?rodeNot⟩,
    fun s up h0 h1 => congrArg Host.Outcome.next (if_pos (powerFailWarning_taken up h0 h1)), fun s => ⟨fun c => ?dio, fun c => ?can, fun c => ?brk⟩,
    fun s => ⟨fun h => ?saved, rfl, rfl⟩, fun s up on => exec_domainSupplyLoss up on, fun s up on => exec_domainSupplyLoss up on,
    fun s up on => exec_domainSupplyLoss up on, fun s up on => exec_domainSupplyLoss up on,
    fun d s up on h0 h1 h9 h11 => (exec_domainSupplyLoss up on).trans (congrArg _ (supplyLost_other h0 h1 h9 h11)), fun s hr => ?vioAux,
    fun s => rfl, fun s hr up hw => exec_carrierResetRelease hr up hw, fun s up => congrArg Host.Outcome.next (if_pos up), fun s => rfl,
    fun s h => next_when (by rw [h]; rfl), fun o n s h => congrArg Host.Outcome.next (if_pos h),
    fun o n s h => congrArg Host.Outcome.next (if_neg (Bool.eq_false_iff.mp h))⟩
  case rode =>
    obtain ⟨h0, h1, hv⟩ := h
    exact (exec_feedRestored_some k a b up hp).trans
      (congrArg Host.Outcome.next (by rw [decide_eq_true h0, decide_eq_true h1, decide_eq_true hv]; rfl))
  case rodeNot =>
    refine (exec_feedRestored_some k a b up hp).trans (congrArg Host.Outcome.next ?_)
    rw [← Bool.decide_and, ← Bool.decide_and, decide_eq_false (mt and_assoc.mp h)]
    rfl
  case dio => rw [outputsDead, vget_map]
  case can =>
    rw [outputsDead, vget_map]
    exact ⟨rfl, rfl, rfl⟩
  case brk =>
    rw [outputsDead, vget_map]
    exact ⟨rfl, rfl, rfl⟩
  case saved => rw [shutdownSave, when, if_pos h]; rfl
  case vioAux => exact congrArg Host.Outcome.next (if_pos (by rw [hr]; rfl))

end Sys2Proof.Architecture
end


section
/-! SUPPORT. Tests of units, rolling BIST, watchdogs and lost clocks, the load of the image at start-up (R443 to R446, R451 to R458). -/

namespace Sys2Proof.Architecture

open Machine Laws

section Tests
variable {s : State} {u : Nat} {rest : List Nat}

/-! ### Tests of units (R445, R446, R451) -/

/-- The power unit when `rest` is left to be tested at start-up; with the last unit start-up goes on. -/
def testsLeft (rest : List Nat) (p : Pwr) : Pwr :=
  { p with testing := rest, testFor := if rest = [] then none else p.testFor, phase := if rest = [] then .start else p.phase }

theorem testsLeft_nil : testsLeft [] = fun p => { p with testing := [], testFor := none, phase := .start } := rfl

theorem testsLeft_cons (v : Nat) (rest : List Nat) : testsLeft (v :: rest) = fun p => { p with testing := v :: rest } := rfl

theorem exec_unitTestDone_startUp (r : TestResult) (ht : s.pwr.testing = u :: rest) (hf : s.pwr.testFor = some .startUp) :
    exec (.unitTestDone r) s = .next (when (r = .fail) (unitFail u) (unitRecord u r (setPwr (testsLeft rest) s))) := by
  refine congrArg Host.Outcome.next ?_
  rw [ht, hf]
  rfl

theorem exec_unitTestDone_startUp_pass (ht : s.pwr.testing = u :: rest) (hf : s.pwr.testFor = some .startUp) :
    exec (.unitTestDone .pass) s = .next (unitRecord u .pass (setPwr (testsLeft rest) s)) := by
  rw [exec_unitTestDone_startUp .pass ht hf, decide_eq_false (by decide), when_false]

theorem exec_unitTestDone_startUp_fail (ht : s.pwr.testing = u :: rest) (hf : s.pwr.testFor = some .startUp) :
    exec (.unitTestDone .fail) s = .next (unitFail u (unitRecord u .fail (setPwr (testsLeft rest) s))) := by
  rw [exec_unitTestDone_startUp .fail ht hf, decide_eq_true rfl, when_true]

theorem exec_unitTestDone_direct (ht : s.pwr.testing = u :: rest) (hf : s.pwr.testFor = some .direct) :
    exec (.unitTestDone .pass) s = .next (unitBack u (unitRecord u .pass (setPwr (fun p =>
      { p with testing := [], testFor := none, bRes := 1, bUnit := u }) s))) := by
  refine congrArg Host.Outcome.next ?_
  rw [ht, hf]
  rfl

/-- The power unit with a passed test on record. -/
def testPassed (u : Nat) (p : Pwr) : Pwr :=
  { p with
    units := mapSet p.units u { result := resultCode .pass, at_ := p.age, clean := true }
    todo := p.todo.filter (· ≠ u)
    outFault := p.outFault.filter (· ≠ u) }

theorem unitRecord_pass (u : Nat) (s : State) : unitRecord u .pass s = setPwr (testPassed u) s := rfl

theorem hedBank_setPwr (f : Pwr → Pwr) (b : Fin 24) (s : State) : hedBank (setPwr f s) b = hedBank s b := rfl

/-! ### Rolling BIST (R446) -/

/-- The bank that rolling BIST tests next. -/
def rollNext (b : Fin 24) (s : State) (p : Pwr) : Pwr :=
  { p with rollBank := (((List.range 24).map fun i => (b.val + 1 + i) % 24).find? fun i => (hedBank s (Fin.ofNat 24 i)).owner = 0x1F).getD p.rollBank }

/-- The state after rolling BIST has passed a bank that it held. -/
def rollPassed (b : Fin 24) (s : State) : State := setPwr (testPassed (0x20 + b.val)) (setPwr (rollNext b s) (bistReturn b s))

theorem exec_rollingBistBankDone_pass {b : Fin 24} (hr : rollActive s = true) (on : fabricOn s = true) (ho : (hedBank s b).owner = 0x10) :
    exec (.rollingBistBankDone b .pass) s = .next (rollPassed b s) := by
  refine congrArg Host.Outcome.next ((if_pos ?_).trans ?_)
  · rw [hr, on, ho]
    rfl
  · rw [if_pos ho]
    rfl

theorem owner_rollPassed (b : Fin 24) (s : State) : (hedBank (rollPassed b s) b).owner = 0x1F := by
  rw [rollPassed, hedBank_setPwr, hedBank_setPwr, hedBank_bistReturn]

theorem units_rollPassed (b : Fin 24) (s : State) : mapGet (rollPassed b s).pwr.units (0x20 + b.val) =
    some { result := resultCode .pass, at_ := s.pwr.age, clean := true } :=
  (mapGet_mapSet s.pwr.units (0x20 + b.val) (0x20 + b.val) _).trans (if_pos rfl)

/-! ### Faults (R454, R457, R458) -/

theorem exec_pllLockLoss_mirror (up : s.pwr.up = true) (on : clkOn s 7 = true) :
    exec (.pllLockLoss 7) s = .next (warmReset (setPwr (fun p =>
      { p with cause := 8, group := 0xFF, run := p.run &&& 0xF7F, late := p.late ++ [(0x0A07, 7, 7)] }) (setMir (fun m => { m with oalive := false }) s))) :=
  congrArg Host.Outcome.next (if_pos (by rw [up]; exact on))

theorem exec_pllLockLoss_other {d : Fin 12} (up : s.pwr.up = true) (on : clkOn s d.val = true) (hd : d.val ≠ 7) :
    exec (.pllLockLoss d) s = .next (stepThree 8 0xFF (setPwr (fun p =>
      { p with run := p.run &&& ~~~(1#12 <<< d.val), late := p.late ++ [(0x0A07, 7, (d.val : Int))] }) s)) :=
  congrArg Host.Outcome.next ((if_pos (by rw [up, on]; rfl)).trans (if_neg hd))

theorem exec_carrierReset (hv : s.side.vioOk = true) (hr : s.side.resetN = true) (up : s.pwr.up = true) :
    exec .carrierReset s = .next (warmReset (setPwr (fun p => { p with cause := 4, group := 0xFF }) { s with side := { s.side with resetN := false } })) :=
  congrArg Host.Outcome.next ((if_pos (by rw [hv, hr]; rfl)).trans (if_pos up))

/-! ### The image at start-up (R443) -/

/-- In a module with two Prism engines banks 10 and 11 belong to nobody (log 126). -/
def prismBankGone (t : State) (b : Fin 24) : State :=
  when ((b.val = 10 || b.val = 11) && prismCount t < 4) (setHed b fun k => { k with owner := 0x1F, req := 0x1F }) t

theorem foldFin_prismBankGone (h : prismCount s = 4) : foldFin 24 prismBankGone s = s := by
  refine List.foldl_fixed' (fun b => ?_) _
  rw [prismBankGone, h, decide_eq_false (Nat.lt_irrefl 4), Bool.and_false, when_false]

/-- The image and the recorder at work, with the events that waited for HK1. -/
def startupLoaded (s : State) : State :=
  setPwr (fun p => { p with loaded := true, late := [] })
    ((recorderRestart (imageLoad s)).pwr.late.foldl (fun t e => raise e.1 e.2.1 e.2.2 t) (recorderRestart (imageLoad s)))

theorem exec_startupImageLoad (on : hkOn s = true) (up : s.pwr.up = true) (hp : s.pwr.phase = .start) (ht : s.pwr.testing = [])
    (hl : s.pwr.loaded = false) : exec .startupImageLoad s = .next (startupLoaded (foldFin 24 prismBankGone s)) :=
  congrArg Host.Outcome.next (if_pos (by rw [on, up, hp, ht, hl]; rfl))

end Tests

/-- Settles O58: each fault by its condition, a test by its result and what it was for. The ladder at 1 ms is log 117, the counts of a warm
reset log 119, the owners at start-up log 126, the zeros of a bank that comes back log 127, rolling BIST log 128. -/
theorem powerFaultCommands : Obligations.PowerFaultCommands := by
  refine ⟨fun u v rest s ht hf => ?passMore, fun u s ht hf => ⟨?passLast, ?failLast⟩,
    fun u rest s ht hf => exec_unitTestDone_direct ht hf,
    fun b s hr on ho => ⟨rollPassed b s, exec_rollingBistBankDone_pass hr on ho, owner_rollPassed b s, units_rollPassed b s,
      fun c hc => ((mem_bankZero c).mp hc).2⟩,
    fun b s on => congrArg Host.Outcome.next (if_pos on), fun s on hm => congrArg Host.Outcome.next (if_pos (by rw [on, hm]; rfl)),
    fun s up on => exec_pllLockLoss_mirror up on, fun d s up on hd => exec_pllLockLoss_other up on hd, fun s on => next_when on,
    fun s hd hc => next_when (by rw [hd, hc]; rfl), fun s hv hr up => exec_carrierReset hv hr up, fun s on up hp ht hl h4 => ?load⟩
  case passMore => rw [exec_unitTestDone_startUp_pass ht hf, testsLeft_cons]
  case passLast => rw [exec_unitTestDone_startUp_pass ht hf, testsLeft_nil]
  case failLast => rw [exec_unitTestDone_startUp_fail ht hf, testsLeft_nil]
  case load => rw [exec_startupImageLoad on up hp ht hl, foldFin_prismBankGone h4, startupLoaded]

end Sys2Proof.Architecture
end


section
/-! SUPPORT. What a warm reset clears and what it keeps (R443, R454, R455, R462): the reset state with the reset on record, then start-up and
halt, which leave most blocks of it as they are. -/

namespace Sys2Proof.Architecture

open Machine Laws

section WarmReset
variable {s : State}

/-! ### The parts of a warm reset -/

/-- The warm resets within an hour of operating time, with this one (R454). -/
def warmTimes (s : State) : List Nat := (s.pwr.warmAt.filter fun a => s.pwr.age < a + 3600) ++ [s.pwr.age]

/-- The reset state with the warm reset on record, before start-up. -/
def resetCounted (s : State) : State :=
  setPwr (fun p => { p with warmN := holdInc 0xFF p.warmN, warmAt := warmTimes s, late := p.late ++ [(0x0A04, 5, (p.cause : Int))] })
    (resetState (vector64 s))

theorem warmReset_eq (s : State) : warmReset s =
    if !s.side.resetN then resetCounted s
    else if 3 ≤ (warmTimes s).length then haltEnter (startUp (resetCounted s)) else startUp (resetCounted s) := rfl

/-- A property of a reset state that start-up and halt keep holds after a warm reset. -/
theorem warmReset_induct {P : State → Prop} (start : P (resetCounted s)) (up : ∀ t, P t → P (startUp t)) (halt : ∀ t, P t → P (haltEnter t)) :
    P (warmReset s) := by
  rw [warmReset_eq]
  split
  · exact start
  · split
    · exact halt _ (up _ start)
    · exact up _ start

/-- Start-up and halt leave every block but these as the reset has left it. -/
theorem warmReset_block {k : Blk} (h : k ∉ ([.shu, .brk, .mir, .svc, .rcd, .pan, .pwr, .out, .free] : List Blk)) (s : State) :
    view k (warmReset s) = view k (resetCounted s) := by
  have up : k ∉ ([.brk, .svc, .rcd, .pan, .pwr, .out, .free] : List Blk) := fun hk => h (List.subset_def.mp (by decide) hk)
  have halt : k ∉ ([.shu, .mir, .rcd, .pwr] : List Blk) := fun hk => h (List.subset_def.mp (by decide) hk)
  exact warmReset_induct (P := fun t => view k t = view k (resetCounted s)) rfl (fun t ht => (startUp_view up t).trans ht)
    fun t ht => (haltEnter_view halt t).trans ht

/-- The units that start-up tests. -/
def unitsStale (s : State) : List Nat := (unitList s).filter fun u => !unitFresh s u || s.pwr.todo.contains u

/-- What start-up sets of the power unit. -/
def startUpBegun (s : State) : State :=
  setPwr (fun p => { p with
    pd := 0x003, run := 0x011, stage := some 0, pfw := false, loaded := false, off := false, testing := unitsStale s
    testFor := if unitsStale s = [] then none else some .startUp, phase := if unitsStale s = [] then .start else .startBist }) s

theorem startUp_eq (s : State) : startUp s = panStart (brkRestart (usbAttach (startUpBegun s))) := rfl

/-- What halt sets, before its event 0x0A08. -/
def halted (s : State) : State :=
  let s1 := setPwr (fun p => { p with phase := .halt, testing := [], testFor := none }) (when (!s.pwr.loaded) recorderRestart s)
  { s1 with shu := { s1.shu with ready := false }, mir := { s1.mir with decided := false, oalive := false } }

theorem haltEnter_eq (s : State) : haltEnter s = raiseOrLate 0x0A08 7 0 (halted s) := rfl

theorem view_restarted {k : Blk} (h : k ∉ ([.rcd] : List Blk)) (s : State) : view k (when (!s.pwr.loaded) recorderRestart s) = view k s :=
  view_when s fun t => recorderRestart_view h t

/-! ### What MRAM keeps -/

theorem warmReset_sec (s : State) :
    (warmReset s).sec = { State.reset.sec with life := s.sec.life, keySet := s.sec.keySet, key := s.sec.key } := by
  have reset : (vector64 s).sec = s.sec := View.sec.inj (vector64_view (k := .sec) (by decide) s)
  rw [View.sec.inj (warmReset_block (k := .sec) (by decide) s), ← reset]
  rfl

theorem warmReset_zor (s : State) :
    (warmReset s).zor = { store := s.zor.store, chans := s.zor.chans, retA := s.zor.retA, retB := s.zor.retB } := by
  have reset : (vector64 s).zor = s.zor := View.zor.inj (vector64_view (k := .zor) (by decide) s)
  rw [View.zor.inj (warmReset_block (k := .zor) (by decide) s), ← reset]
  rfl

theorem warmReset_ident (s : State) : (warmReset s).ident = s.ident :=
  (View.ident.inj (warmReset_block (k := .ident) (by decide) s)).trans (View.ident.inj (vector64_view (k := .ident) (by decide) s))

/-! ### The host interface -/

/-- The interrupt to the host leaves the table and the addresses of the link's configuration. -/
theorem msix_linkConfig (fn : Func) (v : Nat) (s : State) :
    (msix fn v s).shu.msixTab = s.shu.msixTab ∧ (msix fn v s).shu.barAddr = s.shu.barAddr := by
  unfold msix
  dsimp only
  split
  · exact ⟨rfl, rfl⟩
  · split
    · exact ⟨rfl, rfl⟩
    · exact ⟨rfl, rfl⟩

theorem vector64_linkConfig (s : State) : (vector64 s).shu.msixTab = s.shu.msixTab ∧ (vector64 s).shu.barAddr = s.shu.barAddr := by
  obtain ⟨tab0, bar0⟩ := msix_linkConfig .f0 64 s
  obtain ⟨tab1, bar1⟩ := msix_linkConfig .f1 64 (msix .f0 64 s)
  exact ⟨tab1.trans tab0, bar1.trans bar0⟩

/-- READY apart, the host interface. -/
def hostPart (s : State) : Shuttle := { s.shu with ready := false }

theorem hostPart_of_shu {s t : State} (h : view .shu t = view .shu s) : hostPart t = hostPart s :=
  congrArg (fun x : Shuttle => { x with ready := false }) (View.shu.inj h)

theorem halted_hostPart (s : State) : hostPart (halted s) = hostPart s :=
  congrArg (fun x : Shuttle => { x with ready := false }) (View.shu.inj (view_restarted (k := .shu) (by decide) s))

theorem haltEnter_hostPart (s : State) : hostPart (haltEnter s) = hostPart s := by
  rw [haltEnter_eq, hostPart_of_shu (raiseOrLate_view (by decide) ..), halted_hostPart]

theorem warmReset_hostPart (s : State) : hostPart (warmReset s) = hostPart (resetCounted s) :=
  warmReset_induct (P := fun t => hostPart t = hostPart (resetCounted s)) rfl (fun t ht => (hostPart_of_shu (startUp_view (by decide) t)).trans ht)
    fun t ht => (haltEnter_hostPart t).trans ht

/-! ### The power unit -/

/-- The events that wait for HK1 apart, the power unit. -/
def powerPart (s : State) : Pwr := { s.pwr with late := [] }

theorem powerPart_warmN (s : State) : (powerPart s).warmN = s.pwr.warmN := rfl

theorem powerPart_phase (s : State) : (powerPart s).phase = s.pwr.phase := rfl

theorem powerPart_of_pwr {s t : State} (h : view .pwr t = view .pwr s) : powerPart t = powerPart s :=
  congrArg (fun p : Pwr => { p with late := [] }) (View.pwr.inj h)

/-- A raise goes to the recorder or to the events that wait for HK1. -/
theorem raiseOrLate_powerPart (code sev : Nat) (v : Int) (s : State) : powerPart (raiseOrLate code sev v s) = powerPart s := by
  unfold raiseOrLate
  split
  · exact powerPart_of_pwr (raise_view (by decide) ..)
  · rfl

theorem when_powerPart {f : State → State} (hf : ∀ t, powerPart (f t) = powerPart t) (c : Bool) (s : State) : powerPart (when c f s) = powerPart s := by
  cases c
  · rfl
  · exact hf s

theorem brkRestart_powerPart (s : State) : powerPart (brkRestart s) = powerPart s := by
  unfold brkRestart
  refine (powerPart_of_pwr (brkInForce_view (by decide) _)).trans ((when_powerPart (raiseOrLate_powerPart _ _ _) _ _).trans (powerPart_of_pwr ?_))
  refine (view_put_brk (by decide) _ _).trans ?_
  split
  · exact (brkLogAdd_view (by decide) ..).trans (view_foldFin (fun t c => setBrk_view (by decide) ..) _)
  · exact view_foldFin (fun t c => setBrk_view (by decide) ..) _

theorem startUp_powerPart (s : State) : powerPart (startUp s) = powerPart (startUpBegun s) := by
  rw [startUp_eq, powerPart_of_pwr (panStart_view (by decide) _), brkRestart_powerPart, powerPart_of_pwr (usbAttach_view (by decide) _)]

/-- Start-up counts no reset. -/
theorem startUp_warmN (s : State) : (startUp s).pwr.warmN = s.pwr.warmN := by
  rw [← powerPart_warmN, startUp_powerPart]
  rfl

theorem startUp_phase (s : State) : (startUp s).pwr.phase ≠ .halt := by
  rw [← powerPart_phase, startUp_powerPart]
  show (if unitsStale s = [] then Phase.start else Phase.startBist) ≠ .halt
  split
  · exact nofun
  · exact nofun

theorem haltEnter_warmN (s : State) : (haltEnter s).pwr.warmN = s.pwr.warmN := by
  rw [← powerPart_warmN, haltEnter_eq, raiseOrLate_powerPart]
  have restarted : (when (!s.pwr.loaded) recorderRestart s).pwr = s.pwr := View.pwr.inj (view_restarted (k := .pwr) (by decide) s)
  show (when (!s.pwr.loaded) recorderRestart s).pwr.warmN = _
  rw [restarted]

theorem haltEnter_phase (s : State) : (haltEnter s).pwr.phase = .halt := by
  rw [← powerPart_phase, haltEnter_eq, raiseOrLate_powerPart]
  rfl

theorem resetCounted_warmN (s : State) : (resetCounted s).pwr.warmN = holdInc 0xFF s.pwr.warmN := by
  show holdInc 0xFF (vector64 s).pwr.warmN = _
  rw [vector64_pwr]

theorem warmReset_warmN (s : State) : (warmReset s).pwr.warmN = holdInc 0xFF s.pwr.warmN :=
  warmReset_induct (P := fun t => t.pwr.warmN = holdInc 0xFF s.pwr.warmN) (resetCounted_warmN s) (fun t ht => (startUp_warmN t).trans ht)
    fun t ht => (haltEnter_warmN t).trans ht

theorem warmTimes_length (s : State) : (warmTimes s).length = (s.pwr.warmAt.filter fun a => s.pwr.age < a + 3600).length + 1 :=
  List.length_append

/-- A warm reset ends in halt when it is the third within an hour, and the line does not hold the module. -/
theorem warmReset_halt_iff (s : State) : (warmReset s).pwr.phase = .halt ↔ s.side.resetN = true ∧ 3 ≤ (warmTimes s).length := by
  rw [warmReset_eq]
  cases hr : s.side.resetN
  · exact ⟨nofun, fun h => absurd h.1 Bool.false_ne_true⟩
  · by_cases h3 : 3 ≤ (warmTimes s).length
    · rw [if_neg (by decide), if_pos h3]
      exact ⟨fun _ => ⟨rfl, h3⟩, fun _ => haltEnter_phase _⟩
    · rw [if_neg (by decide), if_neg h3]
      exact ⟨fun h => absurd h (startUp_phase _), fun h => absurd h.2 h3⟩

end WarmReset

/-- Settles O59: block by block, what the reset writes and start-up and halt leave. That no bank holds a byte is log 125, the halt count log
119, the link's configuration log 167. -/
theorem warmResetKeeps : Obligations.WarmResetKeeps := by
  intro s
  have shu : hostPart (warmReset s) = hostPart (resetCounted s) := warmReset_hostPart s
  obtain ⟨tab, bar⟩ := vector64_linkConfig s
  refine ⟨warmReset_mem s, View.loom.inj (warmReset_block (k := .loom) (by decide) s), View.prism.inj (warmReset_block (k := .prism) (by decide) s),
    View.can.inj (warmReset_block (k := .can) (by decide) s), congrArg Shuttle.rings shu, congrArg Shuttle.flights shu, (congrArg Shuttle.msixTab shu).trans tab,
    (congrArg Shuttle.barAddr shu).trans bar, ?life, ?keySet, ?key, ?store, ?running, ?retA, ?retB, warmReset_ident s, warmReset_warmN s, ?halt⟩
  case life => rw [warmReset_sec]
  case keySet => rw [warmReset_sec]
  case key => rw [warmReset_sec]
  case store => rw [warmReset_zor]
  case running => rw [warmReset_zor]
  case retA => rw [warmReset_zor]
  case retB => rw [warmReset_zor]
  case halt => rw [warmReset_halt_iff, warmTimes_length, Nat.succ_le_succ_iff]

end Sys2Proof.Architecture
end
